-- ==== Sys2Proof/Word.lean ====
section
/-! DEFINITION. The word types of the FD2 (00_scope R5, R6): bytes, 16, 32 and 64-bit words. -/

namespace Sys2Proof

/-- A byte (R6). -/
abbrev Byte := BitVec 8
/-- A 16-bit word. -/
abbrev W16 := BitVec 16
/-- A 32-bit word; sequence values are of this width (R15). -/
abbrev W32 := BitVec 32
/-- A 64-bit word: the width of every register (R9). -/
abbrev W64 := BitVec 64

end Sys2Proof
end

