-- ==== Sys2Proof/Syntax.lean ====
section
/-! DEFINITION. The commands of the block: one constructor for each row of spec/opcode_table.json, with the operands that the
outside gives the command. A field of an instruction word keeps the spec's name. -/

namespace Sys2Proof

/-- A unit with a control stream: a reach or the NMU of an M-die (07 R215, R244). -/
inductive Res where
  | reach (n : Fin 16)
  | nmu (d : Fin 4)
  deriving DecidableEq, Repr

/-- The register port that makes an access (00 R14): the host over BAR0, or an EMP session. -/
inductive Port where
  | host
  | mgmt (session : Fin 4)
  deriving DecidableEq, Repr

/-- A control-stream word below its CLASS and FN, which the command names (07 R221). -/
structure CtlWord where
  d : BitVec 6
  a : BitVec 6
  b : BitVec 6
  c : BitVec 6
  low : BitVec 30
  deriving DecidableEq, Repr

/-- Which barge: a tag of a reach, or the active barge of the host queue (07 R233, 13 R434). -/
inductive BargeRef where
  | reach (n : Fin 16) (tag : Fin 16)
  | host
  deriving DecidableEq, Repr

/-- What a start finds outside the device's own state (12 R391, R405, R409; 11 R353, R355; 03 R103; 15 R503, R505; 18 R600, R603):
the pins and the outcomes of the start-up work. -/
structure StartIn where
  sel      : BitVec 2 := 0
  pairSide : Bool := false
  mgtMode  : Bool := false
  /-- the derived identity key is that of the certificate -/
  idOk     : Bool := true
  /-- the generator passes its health tests -/
  rngOk    : Bool := true
  /-- channels that pass training -/
  trained  : BitVec 32 := BitVec.allOnes 32
  /-- states of the two UCIe modules of each M-die, coded as in 11 R381, and lanes replaced -/
  d2d      : Vector (BitVec 2 × BitVec 2) 4 := Vector.replicate 4 (3, 3)
  repaired : Vector (BitVec 8) 4 := Vector.replicate 4 0
  /-- lanes of each reach that fail a start-up test, and reaches that pass outside their lanes -/
  lanes    : Vector (BitVec 256) 16 := Vector.replicate 16 0
  reachOk  : BitVec 16 := BitVec.allOnes 16
  /-- PWR_WARN_N and PWR_CRIT_N asserted; reference inputs lost, by bit as in the state -/
  warn     : Bool := false
  crit     : Bool := false
  clkLost  : BitVec 4 := 0
  deriving DecidableEq, Repr, Inhabited

/-- A transport frame as it arrives on a coupling port (14 R456, R458); the command gives its TYPE. `ok`: its tag verifies, or, on a
frame with KEYID 0, the chain and signature of 15 R515 or the confirmation value of R513 do. -/
structure RxFrame where
  port    : Fin 8
  src     : BitVec 15
  dst     : BitVec 15 := 0x7FFF
  ether   : W16 := 0x88B5
  ver     : Byte := 1
  /-- TYPE where it is a reserved one -/
  typ     : Option Byte := none
  /-- LEN where it is not the payload's length -/
  len     : Option W16 := none
  /-- bits of the header that R458 gives as zero are zero -/
  zero    : Bool := true
  ts      : W64 := 0
  seq     : W32 := 0
  ack     : W32 := 0
  ctx     : BitVec 20 := 0
  keyid   : Byte := 0
  aux     : W32 := 0
  ok      : Bool := true
  payload : List Byte := []
  /-- bytes of the payload that carry a poison mark (14 R472) -/
  marks   : List Nat := []
  /-- RS codewords that could not be corrected on the port since the frame before (14 R497) -/
  words   : Nat := 0
  deriving DecidableEq, Repr

/-- An IEEE 1588 message as it arrives (14 R482): the port, the node of its sender, its domainNumber, and the time that it carries, with
correctionField added. -/
structure PtpMsg where
  port   : Fin 8 := 0
  src    : BitVec 15 := 0
  domain : Byte := 0
  time   : W64 := 0
  deriving DecidableEq, Repr

/-- An EMP request as it arrives (13 R441): the datagram, the fields of its header and its payload. `ok`: its tag verifies. -/
structure EmpReq where
  /-- UDP port that it is addressed to, and whether it comes in fragments -/
  port    : W16 := 49210
  frag    : Bool := false
  magic   : W16 := 0xE3B1
  version : Byte := 1
  session : W64 := 0
  seq     : W32 := 0
  /-- LEN where it is not the payload's length -/
  len     : Option W16 := none
  status  : Byte := 0
  flags   : Byte := 0
  zero    : W32 := 0
  ok      : Bool := true
  payload : List Byte := []
  /-- 16 accepted requests await replies when it comes (13 R445) -/
  busy    : Bool := false
  deriving DecidableEq, Repr

/-- What reaches the MSI-X capability and its tables (13 R428, R436): a write or a read in BAR4, at a byte offset, or a write of the
capability's enable and function mask. -/
inductive MsixOp where
  | write (off : BitVec 16) (data : List Byte)
  | read (off : BitVec 16) (len : Nat)
  | function (enable mask : Bool)
  deriving DecidableEq, Repr

/-- What the host asks of BAR0 (13 R429), or what else its link makes of a request (R439): a read of so many bytes, a write of these, a
request of a kind that the port does not support, or one that the link delivers again after an error that PCI Express calls correctable,
which moves nothing itself. -/
inductive HostReq where
  | read (len : Nat)
  | write (data : List Byte)
  | unsupported
  | replayed
  deriving DecidableEq, Repr

/-- A message of IPv6 neighbour discovery (13 R440): a solicitation for an address, or a router's prefix of 64 bits. -/
inductive NdMsg where
  | solicit (target : BitVec 128)
  | prefix_ (p : BitVec 64)
  deriving DecidableEq, Repr

/-- What a telemetry round reads of a rail (17 R574): voltage in mV, current in 10 mA, and STATUS_WORD and temperature where the round
reads them. -/
structure RailRead where
  vout   : W16
  iout   : W16
  status : Option W16 := none
  temp   : Option W16 := none
  deriving DecidableEq, Repr

/-- What is shifted into the instruction register of the test access port (15 R529). -/
inductive TapIr where
  | bypass | idcode | sample | extest
  /-- one of the Rilvas private instructions -/
  | priv
  /-- any other code -/
  | other
  deriving DecidableEq, Repr

/-- The commands. -/
inductive Instr where
  -- tensor engine of reach `n`: the word is the head of the reach's tile queue
  | tileMac (n : Fin 16)
  | wload (n : Fin 16)
  | wloadComplete (n : Fin 16)
  | tileElem (n : Fin 16)
  | openGrp (n : Fin 16)
  | closeGrp (n : Fin 16)
  | fwpw (n : Fin 16)
  | slotadd (n : Fin 16)
  | slotUpdate (n : Fin 16)
  -- control stream
  | add (r : Res) (w : CtlWord)
  | sub (r : Res) (w : CtlWord)
  | and (r : Res) (w : CtlWord)
  | or (r : Res) (w : CtlWord)
  | xor (r : Res) (w : CtlWord)
  | shl (r : Res) (w : CtlWord)
  | shr (r : Res) (w : CtlWord)
  | sra (r : Res) (w : CtlWord)
  | mul (r : Res) (w : CtlWord)
  | addi (r : Res) (w : CtlWord)
  | li (r : Res) (w : CtlWord)
  | lih (r : Res) (w : CtlWord)
  | xld (r : Res) (w : CtlWord)
  | xst (r : Res) (w : CtlWord)
  | setvl (r : Res) (w : CtlWord)
  | br (r : Res) (w : CtlWord)
  | waiteq (r : Res) (w : CtlWord)
  | waiteqMatch (r : Res)
  | yield (r : Res) (w : CtlWord)
  | endStep (r : Res) (w : CtlWord)
  | trap (r : Res) (w : CtlWord)
  | vld (r : Res) (w : CtlWord)
  | vst (r : Res) (w : CtlWord)
  | vadd (r : Res) (w : CtlWord)
  | vsub (r : Res) (w : CtlWord)
  | vmul (r : Res) (w : CtlWord)
  | vfma (r : Res) (w : CtlWord)
  | vmax (r : Res) (w : CtlWord)
  | vmin (r : Res) (w : CtlWord)
  | vabs (r : Res) (w : CtlWord)
  | vneg (r : Res) (w : CtlWord)
  | vcmp (r : Res) (w : CtlWord)
  | vsel (r : Res) (w : CtlWord)
  | vcvt (r : Res) (w : CtlWord)
  | vsplit (r : Res) (w : CtlWord)
  | vsum (r : Res) (w : CtlWord)
  | vsumsq (r : Res) (w : CtlWord)
  | vmaxi (r : Res) (w : CtlWord)
  | vmini (r : Res) (w : CtlWord)
  | winmax (r : Res) (w : CtlWord)
  | winmin (r : Res) (w : CtlWord)
  | sfn (r : Res) (w : CtlWord)
  | gate (r : Res) (w : CtlWord)
  | wcomb (r : Res) (w : CtlWord)
  | wred (r : Res) (w : CtlWord)
  | rowstat (r : Res) (w : CtlWord)
  | wround (r : Res) (w : CtlWord)
  | wprod (r : Res) (w : CtlWord)
  | quant (r : Res) (w : CtlWord)
  | sidex (r : Res) (w : CtlWord)
  | qcheck (r : Res) (w : CtlWord)
  | tq (r : Res) (w : CtlWord)
  | twait (r : Res) (w : CtlWord)
  | bissue (r : Res) (w : CtlWord)
  | bwait (r : Res) (w : CtlWord)
  -- LRATE of an NMU: IMM[1:0] is the row's
  | lrateCheck (r : Res) (w : CtlWord)
  | lrateCommit (r : Res) (w : CtlWord)
  | lrateBiasc (r : Res) (w : CtlWord)
  | lrateReport (r : Res) (w : CtlWord)
  /-- the FD1 engine of NMU `d` runs the shard at index `i` of its list -/
  | fd1ShardUpdate (d : Fin 4) (i : W32)
  -- barges; `input` is what a host or coupling source delivers
  | bargeCopy (b : BargeRef) (input : List Byte)
  | bargeLanemajor (b : BargeRef)
  | bargeTranspose (b : BargeRef)
  | bargeSplit (b : BargeRef)
  | bargeZero (b : BargeRef)
  | bargeComplete (b : BargeRef)
  -- register writes: by which port, and the fields that the command sets
  | sfuReload (p : Port) (n : Fin 16) (v : W64)
  | sfuLoadDone (n : Fin 16)
  | sfuSwitch (p : Port) (n : Fin 16)
  | counterClear (p : Port) (off : BitVec 26) (v : W64)
  /-- any write of a register at a BAR0 offset -/
  | registerWrite (p : Port) (off : BitVec 26) (v : W64)
  /-- a request of the host's at an offset of BAR0 (13 R429, R439) -/
  | pciBadAccess (off : BitVec 26) (req : HostReq)
  | lockPoint
  | lkpAbort (p : Port) (job : W16) (step : BitVec 48)
  | nartrapRearm (p : Port) (job : W16)
  | nartrapResume (p : Port) (job : W16)
  | create (p : Port) (block : BitVec 33)
  | destroy (p : Port) (block : BitVec 33)
  -- the lock schedule, contexts, admission and profile changes
  | ctxCmdEffect
  /-- BASE, or with `cfg` CFG -/
  | egrRingConfig (p : Port) (e : BitVec 10) (cfg : Bool) (v : W64)
  | egrHeadWrite (p : Port) (e : BitVec 10) (head : W32)
  | admission
  | activate (p : Port) (slot : BitVec 2) (drainOk : Bool)
  | verify (p : Port) (slot : BitVec 2)
  | weightVerifyDone
  | polderDrain (p : Port) (k : BitVec 2)
  | polderResume (p : Port) (k : BitVec 2)
  /-- lanes that fail on the polder's reaches, and reaches that pass outside their lanes -/
  | polderResumeDone (lanes : Vector (BitVec 256) 4) (ok : BitVec 4)
  /-- `b`: what the start finds -/
  | restart (p : Port) (b : StartIn)
  | polderDrained
  | fullDrainSwitch
  | chgDrainAbort
  | flashRead (p : Port) (pages : BitVec 25)
  | flashErase (p : Port) (pages : BitVec 25)
  | flashProgram (p : Port) (pages : BitVec 25)
  /-- the operation ends well, or fails after `done` pages -/
  | flashOpDone (ok : Bool) (done : BitVec 25)
  | faultLogAppend
  | sysRstNLow
  /-- `flash`: what the flash holds where others have written it meanwhile -/
  | coldStart (b : StartIn) (flash : Option (List (Nat × Byte)))
  | watchdogFire (b : StartIn)
  /-- the pin goes low, or is released -/
  | pciePerstN (low : Bool)
  /-- a Function Level Reset, or a hot reset -/
  | hostPortReset (flr : Bool)
  /-- byte offset in the window and length -/
  | bar2Read (off len : Nat)
  /-- `bad`: the TLP arrives poisoned -/
  | bar2Write (off : Nat) (data : List Byte) (bad : Bool)
  | b2WinWrite (p : Port) (base : BitVec 12)
  /-- log2 of the new size -/
  | bar2Resize (k : Nat)
  | hbqCmd (p : Port) (desc : BitVec 34)
  | hostBargeStart
  /-- 0 the link is lost, 1 Bus Master Enable becomes 0, 2 the function enters D3hot -/
  | pciLinkDown (why : Fin 3)
  | pciLinkUp (width : BitVec 6) (speed : BitVec 3) (msixEn fmask : Bool)
  /-- `input`: the bytes that came before the 50 ms passed -/
  | pciCplTimeout (b : BargeRef) (input : List Byte)
  | msixUnmask (op : MsixOp)
  -- EMP requests; the payload's byte 0 is not read where the command fixes it
  | empRead (q : EmpReq)
  | empWrite (q : EmpReq)
  | attest (q : EmpReq)
  | empRestart (q : EmpReq) (b : StartIn)
  | recordAck (q : EmpReq)
  | chain (q : EmpReq)
  | sessionOpen (q : EmpReq)
  /-- `flash`: the flash works -/
  | clearFlag (q : EmpReq) (flash : Bool)
  | clearMark (q : EmpReq) (flash : Bool)
  | clearLane (q : EmpReq) (flash : Bool)
  | logRead (q : EmpReq) (flash : Bool)
  | empRecordSend
  | empRecordResend
  | empSessionExpire (i : Fin 4)
  /-- an echo request's data -/
  | icmpv6Echo (data : List Byte)
  | neighbourDiscovery (x : NdMsg)
  | semTake (p : Port) (n : Fin 32)
  | semRelease (p : Port) (n : Fin 32)
  | semBreak (p : Port) (n : Fin 32)
  -- coupling ports, frames and timers
  | cplLinkUp (p : Fin 8)
  /-- `words`: uncorrectable code words counted meanwhile -/
  | cplLinkDown (p : Fin 8) (words : Nat)
  | data (x : RxFrame)
  | rreq (x : RxFrame)
  | rdata (x : RxFrame)
  | ack (x : RxFrame)
  | nak (x : RxFrame)
  | hello (x : RxFrame)
  | join (x : RxFrame)
  | admitFrame (x : RxFrame)
  | ctrlActivate (x : RxFrame)
  | assume (x : RxFrame)
  | fence (x : RxFrame)
  | membership (x : RxFrame)
  | active (x : RxFrame)
  | mirrorRecords (x : RxFrame)
  | mirrorAck (x : RxFrame)
  | snapshotReq (x : RxFrame)
  | snapshot (x : RxFrame)
  | claim (x : RxFrame)
  | refuse (x : RxFrame)
  | record (x : RxFrame)
  | status (x : RxFrame)
  | offer (x : RxFrame)
  | answer (x : RxFrame)
  | confirm (x : RxFrame)
  /-- with the master's time at which it left -/
  | sync (x : PtpMsg)
  | delayReq (x : PtpMsg)
  | syncSend
  /-- the oldest unacknowledged frame of a flow: local port and node -/
  | frameResend (p : Fin 8) (n : BitVec 15)
  /-- to members too, not to the peer manager alone -/
  | helloSend (members : Bool)
  | statusSend
  | joinSend
  /-- the member -/
  | cplMemberLost (m : Byte)
  | cplMgrLost
  | standbyTimeout
  | claimTimeout
  | standbyAckTimeout
  | peerHelloTimeout
  | fencedTimeout
  | syncLoss
  | rejoinTimer
  /-- half of the limit of the link key with a node has passed, or with `limit` all of it -/
  | rekeyTimer (n : BitVec 15) (limit : Bool)
  | keyxRetry (n : BitVec 15)
  | oldKeyExpire (n : BitVec 15)
  | basinSwitch (p : Port) (slot : BitVec 2) (delay : BitVec 16)
  | leave (p : Port)
  | cplJoinCmd (p : Port)
  | relieve (p : Port) (member : Byte)
  | debugEnter (p : Port)
  | maintMode (p : Port) (on : Bool)
  | secAttCmd (p : Port) (buf : BitVec 34) (go : Bool)
  | attReportDone
  | secRngFail
  /-- primary, which of its open decisions, and the signature -/
  | dupCheckResult (n : Fin 16) (k : Byte) (sig : W64)
  | dupRefereeResult (n : Fin 16) (k : Byte) (sig : W64)
  | dupSuspectResult (n : Fin 16) (k : Byte) (sig : W64)
  | dupAbandon (n : Fin 16) (k : Byte)
  | dupNoTaker (n : Fin 16) (k : Byte)
  /-- lanes whose signatures are wrong, and whether another unit's is -/
  | testKernelDone (n : Fin 16) (bad : BitVec 256) (outside : Bool)
  | rasTestLate (n : Fin 16)
  | errorRingWrite
  | rasRingConfig (p : Port) (cfg : Bool) (v : W64)
  | rasRingHeadWrite (p : Port) (head : W32)
  /-- line, 0 clean 1 corrected 2 uncorrectable, where the error lies: 0 in the memory of that address, 1 in the LLC, 2 in a store of the
  lockkeeper; what an uncorrectable line reads as, its write-back met a newer write, bank and row of a DRAM line -/
  | patrolScrub (line : BitVec 34) (found : Fin 3) (loc : Fin 3) (data : List Byte) (dropped : Bool) (bank : BitVec 4) (row : W32)
  /-- channel, bank, row, and the lines that could not be corrected with what they read as -/
  | rowCopyDone (c : Fin 32) (bank : BitVec 4) (row : W32) (bad : List (BitVec 34 × List Byte))
  | memD2dRetry (d : Fin 4)
  /-- M-die, module, and the lines that what was in flight is delivered to -/
  | d2dModuleDown (d : Fin 4) (m : Fin 2) (lines : List (BitVec 34))
  /-- what each rail answers; `none` for a transaction that fails -/
  | pmbusPoll (x : Vector (Option RailRead) 9)
  | pmbAlert (x : Vector (Option W16) 9)
  /-- the sensors' readings in °C, signed -/
  | tempSample (t : Vector (BitVec 8) 24)
  | pwrWarn (on : Bool)
  | pwrCrit (on : Bool)
  | pwrCritHold (long : Bool)
  | pwrDroop (rail : Fin 4)
  | shedDescent
  /-- settled, or 2 ms have passed without -/
  | vddArithSettle (ok : Bool)
  | s7Stop
  | pwrFloorWrite (p : Port) (floor : BitVec 3)
  /-- 0 REFCLK_PCIE, 1 REFCLK_LINK, 2 REFCLK_SYS, 3 REFCLK_MEM, 4 PPS_IN -/
  | clkLoss (k : Fin 5)
  /-- REFCLK_LINK, or REFCLK_PCIE -/
  | clkReturn (link : Bool)
  | ppsIn
  | timPpsLost
  | timWrap
  /-- a word with a reserved CLASS or FN -/
  | reservedControlWord (r : Res) (cls : BitVec 4) (fn : BitVec 6)
  | reservedTileOp (n : Fin 16)
  | empUnknownCmd (cmd : Byte) (q : EmpReq)
  | mgtLinkDown
  | mgtLinkUp
  | tapInstruction (i : TapIr)
  | trstN (low : Bool)
  | delayReqSend
  /-- with the master's time of arrival -/
  | delayResp (x : PtpMsg)
  | droopDemandEnd
  | powerLoss
  | unexpectedCompletion
  deriving DecidableEq, Repr

end Sys2Proof
end

