-- ==== Sys2Proof/Config.lean ====
section
/-! DEFINITION. What the spec leaves open or names without defining: each is an opaque constant, so that a claim about
the model holds whatever it is. The assumption log says of each why it is open. -/

namespace Sys2Proof.Config

/-- Data read under a key it was not written under (15 R511: unspecified): by the state's free counter and the
address of the byte. -/
opaque unspecByte : Nat → Nat → Byte

/-- The sampling generator of a reach (16 R536: SM4 in counter mode under a random key): the `k`-th draw of reach `n`,
of which the low bits are used. -/
opaque sampleDraw : (n : Nat) → (k : Nat) → Byte

/-- The random number generator (15 R505): the `k`-th 64-bit draw of a start. -/
opaque random64 : Nat → W64

/-- The set of an LLC slice's cache that a DRAM line belongs to, by the number of sets and the line (11 R372 gives no index function). -/
opaque llcSet : (sets line : Nat) → Nat

/-- The way of its set that a line takes, by the state's free counter and the line (11 R372 gives no replacement policy). -/
opaque llcWay : Nat → Nat → Nat

/-- For how many cycles an instruction, or the rest of a segment, has waited under 03 R80, R87, R98 or 07 R235, whose number is the
timing's: by the state's free counter. -/
opaque stallCycles : Nat → Nat

/-- SM2 signature verification (15 R502): public key, message digest, signature. -/
opaque sm2Verify : (key : List Byte) → (digest : BitVec 256) → (sig : List Byte) → Bool

/-- SM2 signature by the device's identity key over a digest (15 R502, R521): the counter is the generator's. -/
opaque sm2Sign : (rnd : Nat) → (digest : BitVec 256) → List Byte

/-- The device's ephemeral public key in an SM2 key exchange, by the generator's counter (15 R513, R518). -/
opaque ephemeralKey : Nat → List Byte

/-- The confirmation value of an SM2 key exchange (15 R513): own step, peer's static and ephemeral key. -/
opaque kexCheck : (rnd : Nat) → (peerStatic peerEphem : List Byte) → BitVec 256

/-- The device's identity public key as the PUF gives it (15 R500), 64 bytes. -/
opaque identityKey : List Byte

/-- The Rilvas firmware key whose chain ends in the mask ROM (12 R391). -/
opaque rilvasKey : List Byte

/-- Whether a certificate chain runs to the Rilvas root (15 R501, R514). -/
opaque chainValid : List Byte → Bool

/-- SM3 digests of the fixed native and FD1 areas of a table image that the firmware holds (05 R167). -/
opaque nativeDigest : BitVec 256
/-- SM3 digest of the fixed FD1 area (05 R167). -/
opaque fd1Digest : BitVec 256

/-- The internal result of the native path for the factor of a GATE (05 R184): 0 TANH of a magnitude, 1 LOGISTIC. -/
opaque nativeFn : (fn : Nat) → Rat → Rat

/-- From which input on the native TANH of a magnitude (0) or LOGISTIC (1) reaches a place of an output format with a code scale, as far
as 05 R159 and R160 leave it open. -/
opaque nativeStep : (fn fmt : Nat) → (q place : Int) → Rat

/-- The argument of tanh in GATE form 1, as two POLY steps give it (05 R184, which does not divide the work between them). -/
opaque gateArg : Rat → Rat

/-- The shipped table image with the micro-programs of FUNC 0x02 to 0x08, which the firmware and the NMUs hold (05 R156, R164; 07 R245;
08 R254). -/
opaque shippedImage : List Byte

/-- The FD1 SFU's p16 result for a p16 pattern (05 R174). -/
opaque fd1Fn : (func : Nat) → W16 → W16

/-- The seeds of RSEED (05 R162: a fixed table in the SFU, relative error below 2^-12): mode and the argument. -/
opaque rseed : (mode : Nat) → Rat → Rat

/-- The learning rate where R287 (09) allows 2 ulps: by the schedule's fields and the count. -/
opaque inexactRate : (descriptor : List Byte) → (t : Nat) → W32

/-- BIASC where R282 (09) allows 2 ulps: by β and the exponent. -/
opaque biasc : W32 → Nat → W32

/-- The cause that CPL_LEFT gives (14 R477, R499), which R491 states only for a member that is not ready: 0 an offset beyond 1 ms,
1 an epoch that it cannot serve, 2 the LEAVE command, 3 debug entry. -/
opaque leftCause : Nat → Nat

/-- TIME at the ready point of a start (12 R409 bounds it from above): by the state's free counter. -/
opaque readyTime : Nat → Fin 3100000000

/-- What a device without a valid selected profile runs with, where the spec gives profile fields alone: 0 DRAM_RATE, 1 LOCAL_UNITS,
2 to 5 SPAD, 6 SEM_HOLD, 7 PLIMIT. -/
opaque noProfile : Nat → Nat

/-- The version in the signed header of a firmware slot whose signature verifies under the Rilvas firmware key and whose image fits the
slot, and none for a slot that the ROM refuses (12 R391, R392; the spec gives no layout of the image): by the key and the slot's bytes. -/
opaque fwCheck : (rilvasKey slot : List Byte) → Option W32

/-- What a start that a register write asks for finds outside the device (12 R405, R412; 18 R600): by the state's free counter. -/
opaque nextStart : Nat → StartIn

/-- The signed image within a firmware slot (12 R391, 15 R521), whose layout the spec does not give. -/
opaque fwImage : List Byte → List Byte

/-- The operator's profile-signing public key of which OPKEY is the digest (14 R464; 12 R390): what a manager puts into ADMIT. -/
opaque operatorKey : (opkey : BitVec 256) → List Byte

/-- The spare's profile slot that ASSUME names (14 R490), which no frame tells the manager: by the relieved member. -/
opaque spareSlot : (member : Nat) → BitVec 2

/-- Which of several loaded profile slots of one EPOCH a member takes for a basin switch (14 R491; log 98). -/
opaque epochSlot : (epoch : W32) → Nat

end Sys2Proof.Config
end

