-- ==== Sys2Proof/Machine/Bits.lean ====
section
/-! DEFINITION. Bit fields, byte order and sequence numbers (00_scope R5, R6, R15), and sparse maps: lists of key and value
in one canonical form (keys strictly rising, no entry equal to what an unlisted key holds). -/

namespace Sys2Proof.Machine

/-- Bits [lo + len - 1 : lo] of a number (R5). -/
def bits (x lo len : Nat) : Nat := x / 2 ^ lo % 2 ^ len

/-- One bit of a number (R5). -/
def bitAt (x i : Nat) : Bool := x / 2 ^ i % 2 == 1

/-- A field of `len` bits read as a two's complement integer. -/
def signedOf (len x : Nat) : Int := if x % 2 ^ len < 2 ^ (len - 1) then (x % 2 ^ len : Nat) else (x % 2 ^ len : Nat) - (2 ^ len : Nat)

/-- Bits [lo + len - 1 : lo] as a two's complement integer. -/
def sbits (x lo len : Nat) : Int := signedOf len (bits x lo len)

/-- A Bool as a bit. -/
def b2n (b : Bool) : Nat := if b then 1 else 0

/-- A number as `n` little-endian bytes (R6). -/
def leBytes : (n : Nat) → (x : Nat) → List Byte
  | 0, _ => []
  | n + 1, x => BitVec.ofNat 8 x :: leBytes n (x / 256)

/-- Little-endian bytes as a number (R6). -/
def leNat : List Byte → Nat
  | [] => 0
  | b :: bs => b.toNat + 256 * leNat bs

/-- Serial-number arithmetic (R15): `b` is newer than `a`. -/
def newer32 (b a : W32) : Bool := 1 ≤ (b - a).toNat && (b - a).toNat ≤ 2 ^ 31 - 1

/-- The same for the 64-bit mirror sequence (14 R486). -/
def newer64 (b a : W64) : Bool := 1 ≤ (b - a).toNat && (b - a).toNat ≤ 2 ^ 63 - 1

/-- An error counter of 32 bits counts up by `k` and sticks (02 R67, R69; 19 R622). -/
def stick32 (c : W32) (k : Nat) : W32 := if c.toNat + k < 2 ^ 32 then c + BitVec.ofNat 32 k else BitVec.allOnes 32

/-- The loop of `crc64` over the bits of one byte: `fuel` shifts. -/
def crc64Bits (c : BitVec 64) : (fuel : Nat) → BitVec 64
  | 0 => c
  | k + 1 => crc64Bits (if c.getLsbD 63 then (c <<< 1) ^^^ 0x42F0E1EBA9EA3693#64 else c <<< 1) k

/-- The CRC-64 of 16 R537. -/
def crc64 (bs : List Byte) : BitVec 64 :=
  ~~~ (bs.foldl (fun (c : BitVec 64) (b : Byte) => crc64Bits (c ^^^ (b.setWidth 64 <<< (56 : Nat))) 8) (BitVec.allOnes 64))

/-! ### Sparse maps -/

/-- What a sparse map holds at a key; an unlisted key holds `d`. -/
def slook {α : Type} (d : α) : List (Nat × α) → Nat → α
  | [], _ => d
  | (j, v) :: m, k => if k < j then d else if j = k then v else slook d m k

/-- Write one key of a sparse map; writing what an unlisted key holds removes the entry. -/
def sput {α : Type} [DecidableEq α] (d : α) : List (Nat × α) → Nat → α → List (Nat × α)
  | [], k, v => if v = d then [] else [(k, v)]
  | (j, w) :: m, k, v =>
    if k < j then (if v = d then (j, w) :: m else (k, v) :: (j, w) :: m)
    else if k = j then (if v = d then m.dropWhile fun e => e.1 ≤ k else (k, v) :: m)
    else (j, w) :: sput d m k v

/-- Every entry's key is above `b`, the keys rise strictly, and no entry holds the unlisted value. -/
def swfFrom {α : Type} [DecidableEq α] (d : α) : Nat → List (Nat × α) → Bool
  | _, [] => true
  | b, (j, v) :: m => decide (b ≤ j) && decide (v ≠ d) && swfFrom d (j + 1) m

/-- The canonical form of a sparse map. -/
def swf {α : Type} [DecidableEq α] (d : α) (m : List (Nat × α)) : Bool := swfFrom d 0 m

/-- A rising list of numbers with no repeats, as a set: insertion. -/
def setIns (k : Nat) : List Nat → List Nat
  | [] => [k]
  | j :: m => if k < j then k :: j :: m else if k = j then j :: m else j :: setIns k m

/-- Removal from a set. -/
def setDel (k : Nat) (m : List Nat) : List Nat := m.filter (· != k)

/-- Keep the entries whose key does not lie in [lo, hi); used to clear a range. -/
def sclear {α : Type} (m : List (Nat × α)) (lo hi : Nat) : List (Nat × α) :=
  m.filter fun e => e.1 < lo || hi ≤ e.1

/-- The i-th element of a list if there is one, replaced. -/
def listSet {α : Type} (l : List α) (i : Nat) (v : α) : List α := l.set i v

end Sys2Proof.Machine
end

