-- ==== Sys2Proof/Machine/Digest.lean ====
section
/-! DEFINITION. The two checksums that the spec names by their standards: SM3 (GB/T 32905; 07 R241, 12 R391, R403) and CRC-32C
(12 R394). PRESUMED: their text is taken from those standards. -/

namespace Sys2Proof.Machine

/-! ### SM3 -/

/-- A 32-bit word from four bytes, the first the most significant. -/
def beWord : List Byte → W32
  | a :: b :: c :: d :: _ => a ++ b ++ c ++ d
  | _ => 0

/-- A message cut into `n` words. -/
def beWords : (n : Nat) → List Byte → List W32
  | 0, _ => []
  | n + 1, l => beWord l :: beWords n (l.drop 4)

/-- The permutation P0. -/
def sm3P0 (x : W32) : W32 := x ^^^ x.rotateLeft 9 ^^^ x.rotateLeft 17
/-- The permutation P1. -/
def sm3P1 (x : W32) : W32 := x ^^^ x.rotateLeft 15 ^^^ x.rotateLeft 23

/-- The 68 expanded words of a block; `w` holds those made so far, newest first. -/
def sm3Expand (w : List W32) : (fuel : Nat) → List W32
  | 0 => w.reverse
  | k + 1 =>
    let at_ (i : Nat) : W32 := (w[i]?).getD 0
    sm3Expand ((sm3P1 (at_ 15 ^^^ at_ 8 ^^^ (at_ 2).rotateLeft 15) ^^^ (at_ 12).rotateLeft 7 ^^^ at_ 5) :: w) k

/-- The eight words of the chaining value. -/
structure Sm3V where
  a : W32
  b : W32
  c : W32
  d : W32
  e : W32
  f : W32
  g : W32
  h : W32
  deriving DecidableEq, Repr

/-- Round j with the words W_j and W_(j+4). -/
def sm3Round (v : Sm3V) (j : Nat) (w w4 : W32) : Sm3V :=
  let t : W32 := (if j < 16 then 0x79CC4519#32 else 0x7A879D8A#32).rotateLeft (j % 32)
  let a12 := v.a.rotateLeft 12
  let ss1 := (a12 + v.e + t).rotateLeft 7
  let ff := if j < 16 then v.a ^^^ v.b ^^^ v.c else (v.a &&& v.b) ||| (v.a &&& v.c) ||| (v.b &&& v.c)
  let gg := if j < 16 then v.e ^^^ v.f ^^^ v.g else (v.e &&& v.f) ||| (~~~ v.e &&& v.g)
  { a := ff + v.d + (ss1 ^^^ a12) + (w ^^^ w4), b := v.a, c := v.b.rotateLeft 9, d := v.c
    e := sm3P0 (gg + v.h + ss1 + w), f := v.e, g := v.f.rotateLeft 19, h := v.g }

/-- The rounds of a block over its expanded words, from round j on. -/
def sm3Rounds (v : Sm3V) (j : Nat) : (fuel : Nat) → (ws : List W32) → Sm3V
  | 0, _ => v
  | _, [] => v
  | k + 1, w :: ws => sm3Rounds (sm3Round v j w ((ws[3]?).getD 0)) (j + 1) k ws

/-- The compression of one block. -/
def sm3Block (v : Sm3V) (blk : List Byte) : Sm3V :=
  let x := sm3Rounds v 0 64 (sm3Expand (beWords 16 blk).reverse 52)
  { a := v.a ^^^ x.a, b := v.b ^^^ x.b, c := v.c ^^^ x.c, d := v.d ^^^ x.d
    e := v.e ^^^ x.e, f := v.f ^^^ x.f, g := v.g ^^^ x.g, h := v.h ^^^ x.h }

/-- Every block of a padded message. -/
def sm3Blocks (v : Sm3V) : (fuel : Nat) → List Byte → Sm3V
  | 0, _ => v
  | k + 1, l => if l.isEmpty then v else sm3Blocks (sm3Block v (l.take 64)) k (l.drop 64)

/-- The padded message. -/
def sm3Pad (m : List Byte) : List Byte :=
  m ++ 0x80#8 :: (List.replicate ((119 - m.length % 64) % 64) 0 ++ (leBytes 8 (8 * m.length)).reverse)

/-- The four bytes of a word, the most significant first. -/
def beBytes (x : W32) : List Byte := (leBytes 4 x.toNat).reverse

/-- SM3 of a message; byte 0 of the digest stands in bits [7:0]. -/
def sm3 (m : List Byte) : BitVec 256 :=
  let iv : Sm3V :=
    { a := 0x7380166F, b := 0x4914B2B9, c := 0x172442D7, d := 0xDA8A0600
      e := 0xA96F30BC, f := 0x163138AA, g := 0xE38DEE4D, h := 0xB0FB0E4E }
  let v := sm3Blocks iv (m.length / 64 + 2) (sm3Pad m)
  BitVec.ofNat 256 (leNat ([v.a, v.b, v.c, v.d, v.e, v.f, v.g, v.h].flatMap beBytes))

/-! ### CRC-32C -/

/-- Eight steps of the reflected polynomial. -/
def crc32cBits (c : W32) : (fuel : Nat) → W32
  | 0 => c
  | k + 1 => crc32cBits (if c.getLsbD 0 then (c >>> 1) ^^^ 0x82F63B78#32 else c >>> 1) k

/-- CRC-32C of a list of bytes. -/
def crc32c (bs : List Byte) : W32 :=
  ~~~ (bs.foldl (fun (c : W32) (b : Byte) => crc32cBits (c ^^^ b.setWidth 32) 8) (BitVec.allOnes 32))

end Sys2Proof.Machine
end

