-- ==== Sys2Proof/Machine/Formats.lean ====
section
/-! DEFINITION. Number formats (02_number_formats): decoding of every format into an exact value (R43, R47, R51 to R53),
one rounding into every format (R45, R46, R50, R61, R62), comparison (R63 to R65), exact products and sums (R57, R58, R60)
and the internal form of the SFU (05 R154). Exact values are rationals. -/

namespace Sys2Proof.Machine

/-- The ten formats of R38. -/
inductive Fmt where
  | p8 | p16 | p32 | bf16 | fp16 | fp32 | i8 | u8 | i4 | u4
  deriving DecidableEq, Repr

/-- The FMT codes of R38; 0xA to 0xF are reserved. -/
def Fmt.ofCode : Nat → Option Fmt
  | 0 => some .p8 | 1 => some .p16 | 2 => some .p32 | 3 => some .bf16 | 4 => some .fp16
  | 5 => some .fp32 | 6 => some .i8 | 7 => some .u8 | 8 => some .i4 | 9 => some .u4 | _ => none

/-- The FMT code of a format (R38). -/
def Fmt.code : Fmt → Nat
  | .p8 => 0 | .p16 => 1 | .p32 => 2 | .bf16 => 3 | .fp16 => 4
  | .fp32 => 5 | .i8 => 6 | .u8 => 7 | .i4 => 8 | .u4 => 9

/-- Width in bits (R38). -/
def Fmt.width : Fmt → Nat
  | .p8 => 8 | .p16 => 16 | .p32 => 32 | .bf16 => 16 | .fp16 => 16
  | .fp32 => 32 | .i8 => 8 | .u8 => 8 | .i4 => 4 | .u4 => 4

/-- A posit format (es = 2). -/
def Fmt.isPosit : Fmt → Bool
  | .p8 | .p16 | .p32 => true
  | _ => false

/-- An IEEE 754 format. -/
def Fmt.isIeee : Fmt → Bool
  | .bf16 | .fp16 | .fp32 => true
  | _ => false

/-- An integer code format. -/
def Fmt.isInt : Fmt → Bool
  | .i8 | .u8 | .i4 | .u4 => true
  | _ => false

/-- A tile operand format (R39). -/
def Fmt.isTile : Fmt → Bool
  | .p32 | .fp32 => false
  | _ => true

/-- A format of the 8-bit class (R59): i4 and u4 belong to it. -/
def Fmt.is8class : Fmt → Bool
  | .p8 | .i8 | .u8 | .i4 | .u4 => true
  | _ => false

/-- Two to an integer power, exactly. -/
def pow2 : Int → Rat
  | .ofNat n => mkRat (2 ^ n : Nat) 1
  | .negSucc n => mkRat 1 (2 ^ (n + 1))

/-- Magnitude of a rational. -/
def rabs (r : Rat) : Rat := if r < 0 then -r else r

/-- floor(log2 r) of a positive rational. -/
def floorLog2 (r : Rat) : Int :=
  let k : Int := (Nat.log2 r.num.natAbs : Int) - (Nat.log2 r.den : Int)
  if r < pow2 k then k - 1 else k

/-- Nearest integer, ties to even. -/
def roundRNE (r : Rat) : Int :=
  let f := r.floor
  let d := r - (f : Rat)
  if d < mkRat 1 2 then f
  else if mkRat 1 2 < d then f + 1
  else if f % 2 = 0 then f else f + 1

/-- Truncation toward zero. -/
def truncZ (r : Rat) : Int := if r < 0 then -((-r).floor) else r.floor

/-- A decoded operand (R53). A zero carries the sign of an IEEE zero; `fin` is never 0. -/
inductive Val where
  | zero (neg : Bool)
  | fin (v : Rat)
  | inf (neg : Bool)
  | nan
  | escape
  deriving DecidableEq, Repr

/-- An exact rational as a value: an exact zero is +0. -/
def Val.ofRat (r : Rat) : Val := if r = 0 then .zero false else .fin r

/-- The rational of a value that is finite; specials count as 0. -/
def Val.rat : Val → Rat
  | .fin v => v
  | _ => 0

/-- NaN or NaR. -/
def Val.isNan : Val → Bool
  | .nan => true
  | _ => false

/-- Negative: a negative finite value, −0 or −∞. -/
def Val.neg : Val → Bool
  | .zero n => n
  | .fin v => v < 0
  | .inf n => n
  | _ => false

/-! ### Decoding -/

/-- Length of the run of bits equal to `b` from bit `i - 1` of `x` down (R43). -/
def runLen (x : Nat) (b : Bool) : Nat → Nat
  | 0 => 0
  | i + 1 => if bitAt x i = b then runLen x b i + 1 else 0

/-- R43: the value of an n-bit posit pattern. -/
def decodePosit (n x : Nat) : Val :=
  let x := x % 2 ^ n
  if x = 0 then .zero false
  else if x = 2 ^ (n - 1) then .nan
  else
    let s := bitAt x (n - 1)
    let y := if s then 2 ^ n - x else x
    let b := bitAt y (n - 2)
    let r := runLen y b (n - 1)
    let k : Int := if b then (r : Int) - 1 else -(r : Int)
    let left := n - 1 - r - 1
    let e := if 2 ≤ left then bits y (left - 2) 2 else (y % 2 ^ left) * 2 ^ (2 - left)
    let F := left - 2
    let f := y % 2 ^ F
    let v := pow2 (4 * k + e) * (1 + mkRat f (2 ^ F))
    .fin (if s then -v else v)

/-- Exponent width, fraction width and bias of an IEEE format (R47). -/
def Fmt.ieee : Fmt → Nat × Nat × Nat
  | .bf16 => (8, 7, 127)
  | .fp16 => (5, 10, 15)
  | _ => (8, 23, 127)

/-- R47 to R49: the value of an IEEE pattern, subnormals in full. -/
def decodeIeee (f : Fmt) (x : Nat) : Val :=
  let (ew, fw, bias) := f.ieee
  let s := bitAt x (ew + fw)
  let e := bits x fw ew
  let m := x % 2 ^ fw
  if e = 2 ^ ew - 1 then (if m = 0 then .inf s else .nan)
  else if e = 0 ∧ m = 0 then .zero s
  else
    let v := if e = 0 then mkRat m 1 * pow2 (1 - (bias : Int) - fw)
             else mkRat (2 ^ fw + m : Nat) 1 * pow2 ((e : Int) - bias - fw)
    .fin (if s then -v else v)

/-- R51, R52: the value of an integer code at code scale q. -/
def decodeInt (f : Fmt) (q : Int) (x : Nat) : Val :=
  let w := f.width
  let x := x % 2 ^ w
  match f with
  | .u8 | .u4 => Val.ofRat ((x : Rat) * pow2 q)
  | _ => if x = 2 ^ (w - 1) then .escape else Val.ofRat ((signedOf w x : Rat) * pow2 q)

/-- R53: decode a pattern exactly; `q` is the code scale of an integer code. -/
def decode (f : Fmt) (q : Int) (x : Nat) : Val :=
  if f.isPosit then decodePosit f.width x
  else if f.isIeee then decodeIeee f x
  else decodeInt f q x

/-! ### Rounding -/

/-- The outcome of a conversion: the pattern, and the events of R66 that it counts. -/
structure Rounded where
  pat    : Nat
  clamp  : Bool := false
  narInt : Bool := false
  deriving DecidableEq, Repr

/-- maxpos of an n-bit posit (R44). -/
def maxpos (n : Nat) : Rat := pow2 (4 * (n - 2 : Nat))

/-- R45, R46 for a nonzero real: the pattern is rounded as an integer, and never reaches 0 or NaR. -/
def roundPositMag (n : Nat) (v : Rat) : Nat :=
  let s := floorLog2 v
  let k := s / 4
  let e := s % 4
  let f := v / pow2 s - 1
  let L : Int := if 0 ≤ k then k + 2 else -k + 1
  let reg : Rat := if 0 ≤ k then pow2 (k + 2) - 2 else 1
  let P := (reg * 4 + (e : Rat) + f) * pow2 ((n : Int) - 1 - L - 2)
  let r := roundRNE P
  if r < 1 then 1 else if (2 ^ (n - 1) - 1 : Int) < r then 2 ^ (n - 1) - 1 else r.toNat

/-- R45, R46, R61 into an n-bit posit. -/
def roundPosit (n : Nat) : Val → Rounded
  | .zero _ => ⟨0, false, false⟩
  | .escape => ⟨0, false, false⟩
  | .inf _ => ⟨2 ^ (n - 1), false, false⟩
  | .nan => ⟨2 ^ (n - 1), false, false⟩
  | .fin v =>
    let a := rabs v
    let m := roundPositMag n a
    { pat := if v < 0 then 2 ^ n - m else m
      clamp := decide (maxpos n < a) || decide (a * maxpos n < 1) }

/-- The canonical NaN of R47. -/
def canonNan (f : Fmt) : Nat :=
  match f with
  | .bf16 => 0x7FC0
  | .fp16 => 0x7E00
  | _ => 0x7FC00000

/-- R50, R61 into an IEEE format: nearest, ties to even; an overflow follows OVF and is counted. -/
def roundIeee (f : Fmt) (ovf : Bool) (v : Val) : Rounded :=
  let (ew, fw, bias) := f.ieee
  let sgn (n : Bool) : Nat := if n then 2 ^ (ew + fw) else 0
  let infP := (2 ^ ew - 1) * 2 ^ fw
  match v with
  | .zero n => ⟨sgn n, false, false⟩
  | .escape => ⟨0, false, false⟩
  | .inf n => ⟨sgn n + infP, false, false⟩
  | .nan => ⟨canonNan f, false, false⟩
  | .fin r =>
    let a := rabs r
    let emin : Int := 1 - (bias : Int)
    let s := floorLog2 a
    let t := if s < emin then emin else s
    let m := roundRNE (a / pow2 (t - fw))
    let mag := ((t - emin) * (2 ^ fw : Nat) + m).toNat
    if infP ≤ mag then ⟨sgn (r < 0) + (if ovf then infP else infP - 1), true, false⟩
    else ⟨sgn (r < 0) + mag, false, false⟩

/-- The integers with a value of an integer format (R51). -/
def Fmt.intRange : Fmt → Int × Int
  | .i8 => (-127, 127)
  | .u8 => (0, 255)
  | .i4 => (-7, 7)
  | _ => (0, 15)

/-- R61, R62 into an integer code at code scale q. -/
def roundInt (f : Fmt) (q : Int) (v : Val) : Rounded :=
  let (lo, hi) := f.intRange
  let enc (c : Int) : Nat := (c % (2 ^ f.width : Nat)).toNat
  match v with
  | .zero _ => ⟨0, false, false⟩
  | .escape => ⟨0, false, false⟩
  | .nan => ⟨0, false, true⟩
  | .inf n => ⟨enc (if n then lo else hi), true, false⟩
  | .fin r =>
    let c := roundRNE (r * pow2 (-q))
    if c < lo then ⟨enc lo, true, false⟩ else if hi < c then ⟨enc hi, true, false⟩ else ⟨enc c, false, false⟩

/-- R61: one rounding into any format. -/
def roundTo (f : Fmt) (q : Int) (ovf : Bool) (v : Val) : Rounded :=
  if f.isPosit then roundPosit f.width v
  else if f.isIeee then roundIeee f ovf v
  else roundInt f q v

/-- A value is NaN or NaR as a pattern of a format. -/
def patIsNan (f : Fmt) (x : Nat) : Bool := (decode f 0 x).isNan

/-! ### Exact sums and products -/

/-- R57: an exact product. `ieee` says that an operand is in an IEEE format, for the sign of an exact zero (R58). -/
def mulVal (ieee : Bool) (a b : Val) : Val :=
  match a, b with
  | .nan, _ => .nan
  | _, .nan => .nan
  | .escape, .inf _ => .nan
  | .inf _, .escape => .nan
  | .escape, _ => .zero false
  | _, .escape => .zero false
  | .inf s, .inf t => .inf (s != t)
  | .inf _, .zero _ => .nan
  | .zero _, .inf _ => .nan
  | .inf s, .fin v => .inf (s != decide (v < 0))
  | .fin v, .inf s => .inf (s != decide (v < 0))
  | .fin u, .fin v => .fin (u * v)
  | x, y => .zero (ieee && (x.neg != y.neg))

/-- An exact sum of two values (R57); an exact zero sum of two zeros is −0 when both are (R58). -/
def addVal (a b : Val) : Val :=
  match a, b with
  | .nan, _ => .nan
  | _, .nan => .nan
  | .inf s, .inf t => if s = t then .inf s else .nan
  | .inf s, _ => .inf s
  | _, .inf s => .inf s
  | .zero s, .zero t => .zero (s && t)
  | .fin u, .fin v => Val.ofRat (u + v)
  | .fin u, _ => .fin u
  | _, .fin v => .fin v
  | _, _ => .zero false

/-- Negation. -/
def negVal : Val → Val
  | .zero s => .zero (!s)
  | .fin v => .fin (-v)
  | .inf s => .inf (!s)
  | v => v

/-- A term on its way into a slot, or a slot's value (R57, 04 R115): the finite part and the special state. -/
structure Term where
  v    : Rat := 0
  pinf : Bool := false
  ninf : Bool := false
  nan  : Bool := false
  /-- an exact zero with a minus sign -/
  neg0 : Bool := false
  poison : Bool := false
  deriving DecidableEq, Repr

/-- One value as a term. -/
def Term.ofVal : Val → Term
  | .zero s => { neg0 := s }
  | .fin v => { v := v }
  | .inf s => { pinf := !s, ninf := s }
  | .nan => { nan := true }
  | .escape => {}

/-- The exact sum of terms; −0 only when every term is −0 (R57, R58). -/
def Term.sum : List Term → Term
  | [] => {}
  | [t] => t
  | t :: ts =>
    let r := Term.sum ts
    { v := t.v + r.v, pinf := t.pinf || r.pinf, ninf := t.ninf || r.ninf, nan := t.nan || r.nan,
      neg0 := t.neg0 && r.neg0, poison := t.poison || r.poison }

/-- The value of a term or slot under R58: NaR and both infinities are NaN; one infinity decides. -/
def Term.val (t : Term) : Val :=
  if t.nan || (t.pinf && t.ninf) then .nan
  else if t.pinf then .inf false
  else if t.ninf then .inf true
  else if t.v = 0 then .zero t.neg0
  else .fin t.v

/-! ### Quire classes -/

/-- Quire classes (R54). -/
inductive QClass where
  | q8 | q16 | q32
  deriving DecidableEq, Repr

/-- CLASS field codes (04 R116). -/
def QClass.ofCode : Nat → Option QClass
  | 0 => some .q8 | 1 => some .q16 | 2 => some .q32 | _ => none

/-- CLASS field codes (04 R116). -/
def QClass.code : QClass → Nat
  | .q8 => 0 | .q16 => 1 | .q32 => 2

/-- Width in bits (R54). -/
def QClass.width : QClass → Nat
  | .q8 => 128 | .q16 => 256 | .q32 => 512

/-- Fraction bits: bit 0 has the weight 2^-frac (R54). -/
def QClass.frac : QClass → Nat
  | .q8 => 48 | .q16 => 112 | .q32 => 240

/-- The range rule of R60 with the limits of a class (04 R140): bits below bit 0 are discarded toward zero, a magnitude
beyond the limit is held there; the flag says that the value changed. -/
def rangeRule (c : QClass) (v : Rat) : Rat × Bool :=
  let lim := pow2 c.frac
  let w := if lim < v then lim else if v < -lim then -lim
           else mkRat (truncZ (v * pow2 c.frac)) 1 * pow2 (-(c.frac : Int))
  (w, decide (w ≠ v))

/-- The range rule on a term: only a finite part can change; a finite part that becomes 0 keeps its sign (R60). -/
def Term.range (c : QClass) (t : Term) : Term × Bool :=
  let (w, ch) := rangeRule c t.v
  ({ t with v := w, neg0 := if ch && decide (w = 0) then decide (t.v < 0) else t.neg0 }, ch)

/-- R55: the NaR pattern of a class as an integer. -/
def QClass.nar (c : QClass) : Nat := 2 ^ (c.width - 1)

/-- A finite value or NaR as a quire image of a class (R54, R55). -/
def quireImage (c : QClass) (nan : Bool) (v : Rat) : Nat :=
  if nan then c.nar else (truncZ (v * pow2 c.frac) % (2 ^ c.width : Nat)).toNat

/-- A quire image read back: the finite value, and whether it is NaR. -/
def quireRead (c : QClass) (x : Nat) : Rat × Bool :=
  if x = c.nar then (0, true) else ((signedOf c.width x : Rat) * pow2 (-(c.frac : Int)), false)

/-! ### Comparison -/

/-- R63 to R65: the order of two values, `none` when unordered. `ieee`: an operand is in an IEEE format. -/
def cmpVal (ieee : Bool) (a b : Val) : Option Ordering :=
  match a, b with
  | .nan, .nan => if ieee then none else some .eq
  | .nan, _ => if ieee then none else some .lt
  | _, .nan => if ieee then none else some .gt
  | .inf s, .inf t => some (if s = t then .eq else if s then .lt else .gt)
  | .inf s, _ => some (if s then .lt else .gt)
  | _, .inf s => some (if s then .gt else .lt)
  | x, y => some (if x.rat < y.rat then .lt else if y.rat < x.rat then .gt else .eq)

/-! ### Internal form of the SFU -/

/-- 05 R154: one rounding into the internal form: 41 significant bits, scale −512 to 511. -/
def roundInternal : Val → Val
  | .fin v =>
    let a := rabs v
    let s := floorLog2 a
    let m := roundRNE (a / pow2 (s - 40))
    let w := mkRat m 1 * pow2 (s - 40)
    if pow2 512 ≤ w then .inf (v < 0)
    else if a < pow2 (-512) then .zero (v < 0)
    else .fin (if v < 0 then -w else w)
  | .escape => .zero false
  | x => x

end Sys2Proof.Machine
end

