-- ==== Sys2Proof/Machine/State.lean ====
section
/-! DEFINITION. The state of the block as plain data: every register, buffer, queue and pin that the spec gives the device,
the reasons a step can stop, and the machine right after reset. A structure's docstring names the rules that give its
fields; a field's reset value is its default. -/

namespace Sys2Proof.Machine

/-- A step never faults: the spec gives every command that meets a fault a next state (an error record, a failed step). -/
inductive Fault where
  /-- Raised by nothing. -/
  | never
  deriving DecidableEq, Repr

/-- Why a command has no meaning. -/
inductive Refusal where
  /-- Raised by an arm of exec whose meaning is not written; safe. -/
  | notModelled (mnemonic : String)
  /-- Raised by TAP_INSTRUCTION in debug state for the private Rilvas instructions, whose effect the spec does not give
  (15 R529, 19 R615); safe. -/
  | privateInstruction
  deriving DecidableEq, Repr

/-! ### Events and what leaves the device -/

/-- An error record (19 R617); `source` is in the form of R618. -/
structure ErrRec where
  ts     : W64 := 0
  seq    : W32 := 0
  event  : W16 := 0
  job    : W16 := 0xFFFF
  ctx    : W32 := 0
  source : W32 := 0
  addr   : W64 := 0
  d0     : W64 := 0
  d1     : W64 := 0
  d2     : W64 := 0
  d3     : W64 := 0
  deriving DecidableEq, Repr

/-- Everything the device sends out of itself, in the order sent (13, 14, 18). -/
inductive Out where
  /-- a posted write to host memory -/
  | hostWrite (addr : Nat) (data : List Byte)
  /-- a read request to host memory -/
  | hostRead (addr len : Nat)
  /-- an MSI-X message of a vector: the data of its table entry goes to that entry's address (13 R428, R436) -/
  | msix (vector : Nat)
  /-- completion of a host read: status (0 success, 1 Completer Abort, 2 Unsupported Request), poisoned, data -/
  | pciCompletion (status : Nat) (poisoned : Bool) (data : List Byte)
  /-- an EMP reply under the header of 13 R441 with REPLY set: session, sequence number, status, payload -/
  | empReply (session : Nat) (seq : W32) (status : Nat) (payload : List Byte)
  /-- a RECORD message to the collector: its own record number and the error records -/
  | empRecord (num : W32) (records : List ErrRec)
  /-- ICMPv6 echo reply or neighbour discovery answer -/
  | ipv6 (kind : Nat) (data : List Byte)
  /-- a coupling frame (14 R458): local port and its MAC address (R457), SRC, DST, TYPE, TS, SEQ, ACK, CONTEXT, KEYID, AUX, payload,
  and the bytes of the payload that come from a poisoned line (R472); VER is 1 and LEN the payload's length -/
  | frame (port : Nat) (mac : BitVec 48) (src dst ftype : Nat) (ts : W64) (seq ack : W32) (ctx keyid aux : Nat) (payload : List Byte) (marks : List Nat)
  /-- an IEEE 1588 message (14 R482): port, domainNumber, kind (0 Sync, 1 Delay_Req, 2 Delay_Resp, 3 Announce), timestamp -/
  | ptp (port domain kind : Nat) (ts : W64)
  /-- an AER report (13 R439): 0 Unsupported Request, 1 Completer Abort, 2 Poisoned TLP, 3 Completion Timeout, 4 Unexpected
  Completion, 5 a correctable link error; whether fatal, where R439 says -/
  | aer (kind : Nat) (fatal : Option Bool)
  /-- a level on an output pin: 0 MEM_RST_N, 1 XSPI_RESET_N, 2 TDO enable, 3 PCIe WAKE -/
  | pin (which : Nat) (level : Bool)
  /-- the test access port shifts out a data register: its length and contents (18 R610) -/
  | tdo (len value : Nat)
  /-- a PMBus transfer to a regulator: rail, command, value -/
  | pmbus (rail cmd value : Nat)
  deriving DecidableEq, Repr

/-- A performance counter (03 R108). -/
structure Perf where
  count : BitVec 48 := 0
  ovf   : Bool := false
  deriving DecidableEq, Repr

/-! ### Reach and NMU -/

/-- A slot table entry (10 R310). -/
structure SlotE where
  job   : Nat
  kind  : Nat
  every : Nat
  phase : Nat
  reach : Nat
  nmu   : Nat
  start : Nat
  len   : Nat
  deriving DecidableEq, Repr

/-- A SEG, RESERVE or TEST slot in progress on a unit (10 R311): the slot, whether the new table of a staged change carries it
(12 R416), the lock point that ends it, and whether its segment has started. -/
structure ActSlot where
  slot    : SlotE
  new     : Bool := false
  endT    : W64
  started : Bool := false
  deriving DecidableEq, Repr

/-- RUN of R249 and R299. -/
inductive Run where
  | idle | running | yielded | ended | stopped | fd1
  deriving DecidableEq, Repr

/-- What a dispatched instruction of a unit's control stream waits for (07 R232 to R234, R239; 09 R281). -/
inductive Wait where
  | none
  | waitEq (addr : Nat) (value : W64)
  | tqFull (word : BitVec 128) (tindex : Nat)
  | twait
  | tag (tag : Nat) (desc : List Byte)
  | bwait (mask : Nat) (dst : Nat)
  | yield
  | ending
  deriving DecidableEq, Repr

/-- A barge in flight or its outcome (07 R233, 11 R376, R380). `code` is the event code of a failure, 0 for success. -/
structure Barge where
  desc  : List Byte := []
  /-- the transfer has been dispatched: its checks have been made and its bytes are on their way -/
  moved : Bool := false
  /-- in flight -/
  busy  : Bool := false
  code  : W16 := 0
  job   : Nat := 0xFFFF
  /-- the step that issued it -/
  step  : W64 := 0
  pc    : Nat := 0
  /-- place in the issue order of its reach (R380) -/
  nth   : Nat := 0
  /-- source bytes in the order of the digest, and whether one was poisoned (R378) -/
  got   : List Byte := []
  gotBad : Bool := false
  deriving DecidableEq, Repr

/-- The first trap event of a segment on a unit, as it is reported to the lockkeeper (08 R264 to R266). -/
structure TrapRep where
  ts     : W64 := 0
  pc     : Nat := 0
  tindex : Nat := 0xFFFF
  /-- 0 tensor engine, 1 vector engine, 2 SFU, 3 wide adder -/
  part   : Nat := 0
  origin : Bool := true
  lane   : Nat := 0
  slot   : Nat := 0
  fmt    : Nat := 0
  /-- the step whose segment it stands for -/
  step   : W64 := 0
  deriving DecidableEq, Repr

/-- The kernel state of a reach or NMU (07 R215, R216, R218, R245) and the segment that its sequencer runs (R242, R249).
Vector elements are a sparse map with the key 512 · register + element. -/
structure Unit where
  vregs   : List (Nat × (W32 × Bool)) := []
  xregs   : Vector (W64 × Bool) 32 := Vector.replicate 32 (0, false)
  vl      : BitVec 9 := 0x100
  /-- the code word to dispatch next -/
  next    : Nat := 0
  /-- PC of R249: the code word most recently dispatched -/
  pc      : BitVec 17 := 0
  run     : Run := .idle
  wait    : Wait := .none
  /-- the job of the segment running or last run (R299); 0xFFFF when none has run -/
  job     : Nat := 0xFFFF
  /-- the number of that segment's step -/
  step    : W64 := 0
  ctx     : Nat := 0
  /-- the step's first segment on this unit has begun -/
  begun   : Bool := false
  repro   : Bool := false
  fd1sfu  : Bool := false
  kbase   : Nat := 0
  imgLen  : Nat := 0
  codeLen : Nat := 0
  tileOff : Nat := 0
  tileLen : Nat := 0
  rsBase  : Nat := 0
  rsLen   : Nat := 0
  trap    : Option TrapRep := none
  /-- the slot in progress on the unit -/
  slot    : Option ActSlot := none
  deriving DecidableEq, Repr

/-- Weight store states (03 R79). -/
inductive WState where
  | empty | loaded | released
  deriving DecidableEq, Repr

/-- A weight store (03 R71, R76, R79): column bytes in a sparse map with the key 256 · lane + byte, lanes whose column is
poisoned (R95), and the fill in progress. -/
structure WStore where
  state   : WState := .empty
  filling : Bool := false
  fmt     : Nat := 0
  ncol    : Nat := 0
  cols    : List (Nat × Byte) := []
  poison  : List Nat := []
  deriving DecidableEq, Repr

/-- An accumulation group (04 R116 to R118). -/
structure Grp where
  isOpen : Bool := false
  cls    : Nat := 0
  chk    : Bool := false
  xs     : Bool := false
  fmtO   : Nat := 0
  qo     : Int := 0
  slot   : Nat := 0
  /-- number of value slots -/
  n      : Nat := 0
  xaddr  : Nat := 0
  deriving DecidableEq, Repr

/-- Per lane and slot state (04 R115). -/
structure SlotFlags where
  pinf   : Bool := false
  ninf   : Bool := false
  poison : Bool := false
  zstate : Nat := 0
  deriving DecidableEq, Repr

/-- Per slot index state (04 R115). -/
structure SlotCnt where
  acc   : Nat := 0
  limit : Bool := false
  chk   : Nat := 0
  binv  : Bool := false
  deriving DecidableEq, Repr

/-- The quire bank of a reach (04 R114): 64-bit words with the key 512 · lane + word, flags with the key
256 · lane + q8 cell, counts by q8 cell. -/
structure Bank where
  words : List (Nat × W64) := []
  flags : List (Nat × SlotFlags) := []
  cnts  : List (Nat × SlotCnt) := []
  deriving DecidableEq, Repr

/-- One term on its way into a lane's slot (03 R97): a product sum, or what SLOTADD adds. -/
structure LaneTerm where
  lane   : Nat
  t      : Term
  /-- an operand was NaN or NaR (08 R266 ORIGIN) -/
  carried : Bool := false
  /-- values changed by the range rule on the way (ACC_RANGE) -/
  ranged : Nat := 0
  deriving DecidableEq, Repr

/-- What an update does to its slot besides adding its terms (04 R121, R136, R139). -/
inductive UpdKind where
  | exact | chunked | f32 (ovf : Bool)
  | record (acc chk bound zs : Nat) (limit binv : Bool)
  | entry
  deriving DecidableEq, Repr

/-- The update that one run owes to one slot index (03 R97, 04 R121). -/
structure Upd where
  grp    : Nat
  slot   : Nat
  kind   : UpdKind
  m      : Nat
  terms  : List LaneTerm
  pc     : Nat
  tindex : Nat
  deriving DecidableEq, Repr

/-- A word of the tile queue, with the PC of its TQ and its tile-table index (07 R232, 08 R266). -/
structure TileEntry where
  word   : BitVec 128
  pc     : Nat
  tindex : Nat
  deriving DecidableEq, Repr

/-- SFU bank states (05 R168), coded as R171. -/
inductive BankState where
  | empty | loading | ready | pending | active
  deriving DecidableEq, Repr

/-- An SFU table bank (05 R165, R168). -/
structure SfuBank where
  state : BankState := .empty
  image : List Byte := []
  /-- where a load in progress reads from -/
  src   : Nat := 0
  /-- the load was asked for by the lockkeeper for a profile change -/
  own   : Bool := false
  /-- the profile slot whose table such a load reads (12 R415) -/
  slot  : BitVec 2 := 0
  deriving DecidableEq, Repr

/-- The error counters of a reach (02 R67, 04 R150, 05 R186, 06 R212). -/
structure ReachCnt where
  clamp  : W32 := 0
  narint : W32 := 0
  range  : W32 := 0
  limit  : W32 := 0
  chkinv : W32 := 0
  norm   : W32 := 0
  rerun  : W32 := 0
  deny   : W32 := 0
  narrow : W32 := 0
  deriving DecidableEq, Repr

/-- The performance counters of a reach (03 R109, 07 R247); `macRem` is the remainder of TE_MAC below 2^20. -/
structure ReachPerf where
  busy    : Perf := {}
  mac     : Perf := {}
  macRem  : Nat := 0
  veBusy  : Perf := {}
  sfuBusy : Perf := {}
  wstall  : Perf := {}
  sstall  : Perf := {}
  dstall  : Perf := {}
  deriving DecidableEq, Repr

/-- The taper monitor of a reach (08 R260 to R263): bins with the key 64 · group + bin. -/
structure Taper where
  bins : List (Nat × W32) := []
  pois : W32 := 0
  sat  : BitVec 8 := 0
  deriving DecidableEq, Repr

/-- How far the decision on a sampled tile has come (16 R538, R543): waiting for a checker, checking, waiting for a referee,
refereed, re-executed by the suspect. -/
inductive DupPhase where
  | offered | checking | refOffered | referee | suspect
  deriving DecidableEq, Repr

/-- A selected tile of a reach from its issue to its decision (16 R536 to R544): what is pinned, the three signatures and who
formed them. -/
structure Dup where
  tindex  : Nat := 0xFFFF
  phase   : DupPhase := .offered
  job     : Nat := 0xFFFF
  step    : W64 := 0
  word    : BitVec 128 := 0
  pc      : Nat := 0
  /-- TIME of the primary's issue -/
  at_     : W64 := 0
  /-- the primary's weight store that is pinned -/
  wbuf    : Option Nat := none
  /-- activation bytes of the primary's reach store that are pinned -/
  spans   : List (Nat × Nat) := []
  primary : W64 := 0
  checker : Nat := 0
  second  : W64 := 0
  referee : Nat := 0
  third   : W64 := 0
  suspect : Nat := 0
  /-- the reach and weight store that the execution in progress uses -/
  inUse   : Option (Nat × Nat) := none
  deriving DecidableEq, Repr

/-- In-field test state of a reach (16 R550 to R553, R564). -/
structure TestSt where
  lastMs : W32 := 0
  /-- TIME of the last completed pass, or from which lateness counts (R553) -/
  since  : W64 := 0
  next   : BitVec 8 := 0
  passes : W16 := 0
  late   : Bool := false
  retry  : Bool := false
  /-- failing lanes of the pending rerun, as a 256-bit mask -/
  lanes  : BitVec 256 := 0
  /-- the first mismatch lay outside the lanes -/
  outside : Bool := false
  /-- lanes to bypass at the lock point that ends the slot (R552) -/
  newBypass : BitVec 256 := 0
  /-- nanoseconds of the test slot in progress that kernels have taken (R550, R552) -/
  used : Nat := 0
  deriving DecidableEq, Repr

/-- A reach (01 R17, 03 R71, 07 R215). -/
structure Reach where
  u       : Unit := {}
  ws      : Vector WStore 2 := Vector.replicate 2 {}
  /-- the fill in progress on the single fill port (R87): store, format, columns -/
  fill    : Option (Fin 2) := none
  bypass  : BitVec 256 := 0
  grps    : Vector Grp 8 := Vector.replicate 8 {}
  bank    : Bank := {}
  pend    : List (List Upd) := []
  tq      : List TileEntry := []
  barges  : Vector Barge 16 := Vector.replicate 16 {}
  banks   : Vector SfuBank 2 := #v[{ state := .active }, {}]
  active  : Nat := 0
  /-- fields of RCH_n_SFU_RELOAD (R172) -/
  reload  : BitVec 29 := 0
  /-- TIME at which the pending switch was accepted (R170) -/
  swAt    : W64 := 0
  cnt     : ReachCnt := {}
  perf    : ReachPerf := {}
  taper   : Taper := {}
  rerunMax  : Nat := 0
  rerunLeft : Nat := 0
  /-- denials in the step (10 R329) -/
  denied    : Nat := 0
  qlane   : BitVec 8 := 0
  qword   : BitVec 9 := 0
  dups    : List Dup := []
  /-- TIME of the lock point that ends the segment, and whether the reach passes to another job or context there (16 R541) -/
  segEnd  : W64 := 0
  segPass : Bool := false
  /-- the clearing of a lock point that passed the reach waits for an open decision (16 R541) -/
  lateClear : Bool := false
  /-- the reach has passed to another job or context with barges in flight, which its next segment waits for (07 R239) -/
  waitBarges : Bool := false
  test    : TestSt := {}
  /-- draws taken from the sampling generator (16 R536) -/
  draws   : Nat := 0
  deriving DecidableEq, Repr

/-- The error counters of an NMU (09 R300). -/
structure NmuCnt where
  skew   : W32 := 0
  limit  : W32 := 0
  torn   : W32 := 0
  rownar : W32 := 0
  clamp  : W32 := 0
  narint : W32 := 0
  deriving DecidableEq, Repr

/-- An NMU (07 R244, R245; 09 R271 to R273, R290). -/
structure Nmu where
  u       : Unit := {}
  cnt     : NmuCnt := {}
  busy    : Perf := {}
  /-- the windows of the running step: first and last address -/
  wins    : List (Nat × Nat) := []
  /-- the areas of the shards that the step has checked: address and length (R276, R290) -/
  areas   : List (Nat × Nat) := []
  /-- a poisoned element was written into a shard since the last CHECK (R290) -/
  poisonW : Bool := false
  /-- update rule of the job running: 0 native, 1 to 3 the FD1 rules -/
  upd     : Nat := 0
  argBlk  : Nat := 0
  deriving DecidableEq, Repr

/-! ### Memory -/

/-- A quarantine entry of an M-die: block (4 KiB number) and the lines of it that this M-die has seen rewritten (11 R368). -/
structure Quar where
  block : Nat
  rewritten : List Nat
  deriving DecidableEq, Repr

/-- The states of an entry of a retirement table (11 R369). -/
inductive RowState where
  | pending | permanent | repaired
  deriving DecidableEq, Repr

/-- A row that a channel's tables name: bank, row, state (11 R369, 12 R395). -/
structure RetRow where
  bank  : Nat
  row   : Nat
  state : RowState
  /-- entry index in the table -/
  idx   : Nat := 0
  deriving DecidableEq, Repr

/-- A channel (11 R353, R369): its retirement table, its sPPR rows and its tracker of corrected errors: by row, numbered
2^32 · bank + row, the TIMEs of its errors, newest last. -/
structure Chan where
  usable  : Bool := false
  marked  : Bool := false
  rows    : List RetRow := []
  sppr    : Nat := 0
  tracker : List (Nat × List W64) := []
  /-- rows, numbered in the same way, whose copy to a spare is in progress (R370) -/
  copying : List Nat := []
  deriving DecidableEq, Repr

/-- The registers and tables of an M-die (11 R381 to R385). -/
structure MDie where
  chans    : Vector Chan 8 := Vector.replicate 8 {}
  d2d0     : BitVec 2 := 0
  d2d1     : BitVec 2 := 0
  localBase : BitVec 11 := 0
  localSize : BitVec 11 := 0
  spad     : Nat := 0
  ce       : W32 := 0
  ue       : W32 := 0
  quarCnt  : W32 := 0
  quar     : List Quar := []
  poisonLast : BitVec 34 := 0
  poisonValid : Bool := false
  retry    : W32 := 0
  repaired : BitVec 8 := 0
  hit      : Perf := {}
  miss     : Perf := {}
  /-- LLC ways in use, of 16 (11 R373, 17 R580) -/
  ways     : Nat := 16
  /-- the DRAM lines that the cache of the slice holds, each with its way (11 R372) -/
  cache    : List (Nat × Nat) := []
  /-- both modules have gone down while the device ran (11 R356, R357) -/
  gone     : Bool := false
  deriving DecidableEq, Repr

/-! ### The lock schedule and its jobs -/

/-- A job table entry (10 R312). -/
structure JobE where
  ctx       : Nat := 0
  flags     : Nat := 0
  upd       : Nat := 0
  keep      : Nat := 0
  rerunMax  : Nat := 0
  kernel    : Nat := 0xFFFF
  nkernel   : Nat := 0xFFFF
  kbase     : Nat := 0
  rsBase    : Nat := 0
  rsLen     : Nat := 0
  argRs     : Nat := 0
  argMax    : Nat := 0
  ringFirst : Nat := 0
  ringCount : Nat := 0
  egr       : Nat := 0
  workUs    : Nat := 0
  rerunUs   : Nat := 0
  deadline  : Nat := 0
  power     : Nat := 0
  npower    : Nat := 0
  role      : Nat := 0
  taper     : Nat := 0
  argDev    : Nat := 0
  deriving DecidableEq, Repr

/-- An ingress ring table entry (10 R326). -/
structure RingE where
  base  : Nat
  log2n : Nat
  job   : Nat
  tail  : Nat
  deriving DecidableEq, Repr

/-- A schedule image (10 R309). -/
structure Sched where
  lc     : Nat := 1000
  lvl    : List Nat := []
  tables : List (List SlotE) := []
  baseW  : Nat := 0
  testPw : Nat := 0
  jobs   : List JobE := []
  rings  : List RingE := []
  deriving DecidableEq, Repr

/-- A member of a step (10 R314, R322, R323). -/
structure Member where
  ctx  : Nat
  gen  : W32
  tag  : W64
  ring : Nat
  /-- the ring's head after the step's take -/
  head : W32
  desc : List Byte
  /-- the descriptor was delivered poisoned -/
  bad  : Bool := false
  deriving DecidableEq, Repr

/-- How a step in flight has ended or will end (10 R319, R333; 16 R555). -/
inductive StepEnd where
  | none
  | failed (event : W16)
  | aborted
  | flagged
  deriving DecidableEq, Repr

/-- A step in flight (10 R314 to R319). Resources are numbered 0 to 15 for reaches and 16 to 19 for NMUs. -/
structure StepRun where
  no      : W64
  rel     : W64
  members : List Member := []
  /-- resources that the step may use -/
  res     : List Nat := []
  /-- resources on which the step has begun its first segment -/
  begun   : List Nat := []
  /-- resources that have executed END -/
  ended   : List Nat := []
  posted  : Bool := false
  /-- a RELEASE slot of the job has come since the release: the step limit (R316) -/
  limit   : Bool := false
  stop    : StepEnd := .none
  /-- the first poisoned line delivered to the step (R367) -/
  poison  : Option Nat := none
  reruns  : Nat := 0
  denials : Nat := 0
  /-- shards committed (R289) -/
  shards  : Nat := 0
  /-- replays made after a transient decision (16 R544) -/
  replayed : Bool := false
  taper   : Taper := {}
  deriving DecidableEq, Repr

/-- What is saved of a resource when it passes to another job or context before its step's END there (07 R220; 09 R271): scalars, VL
and next PC; of a reach the budget of R206 and the denials of R329; of an NMU its windows, its shards' areas and the mark of R290. -/
structure Saved where
  xregs  : Vector (W64 × Bool) 32
  vl     : BitVec 9
  next   : Nat
  rerunMax  : Nat := 0
  rerunLeft : Nat := 0
  denied    : Nat := 0
  wins   : List (Nat × Nat) := []
  areas  : List (Nat × Nat) := []
  poisonW : Bool := false
  deriving DecidableEq, Repr

/-- What the lockkeeper keeps of a job of the active table (08 R265 to R269, 10 R314). -/
structure JobRun where
  /-- the number that the next released step gets -/
  nextStep : W64 := 0
  /-- numbers of the steps that failed or were aborted (R334) -/
  failed   : List W64 := []
  step     : Option StepRun := none
  armed    : Bool := false
  /-- held by NSTOP (R267) -/
  held     : Bool := false
  /-- suspended by a profile change (12 R417) -/
  suspended : Bool := false
  rearm    : Bool := false
  resume   : Bool := false
  /-- trap reports of the slot in progress: reach and report (R265) -/
  traps    : List (Nat × TrapRep) := []
  /-- kernel state saved by resource (07 R220) -/
  saved    : List (Nat × Saved) := []
  deriving DecidableEq, Repr

/-- A 64-byte completion record and where it goes (10 R329). -/
structure ComplRec where
  egr    : Nat
  ts     : W64 := 0
  seq    : W32 := 0
  typ    : Nat := 0
  status : Nat := 0
  job    : Nat := 0
  ctx    : Nat := 0
  gen    : W32 := 0
  step   : W64 := 0
  tag    : W64 := 0
  ring   : Nat := 0xFFFF
  head   : W32 := 0
  event  : W16 := 0
  rerun  : Nat := 0
  shards : Nat := 0
  result : W64 := 0
  deriving DecidableEq, Repr

/-- An egress ring (10 R347) with its writes that wait for a lock point. -/
structure EgrRing where
  base    : W64 := 0
  enable  : Bool := false
  vector  : BitVec 11 := 0
  size    : BitVec 5 := 4
  head    : W32 := 0
  tail    : W32 := 0
  newBase : Option W64 := none
  newCfg  : Option (Bool × BitVec 11 × BitVec 5) := none
  deriving DecidableEq, Repr

/-- An ingress ring's indices (10 R346). -/
structure InRing where
  tail : W32 := 0
  head : W32 := 0
  deriving DecidableEq, Repr

/-- A context's state (10 R321). -/
inductive CtxState where
  | free | live | closing
  deriving DecidableEq, Repr

/-- A region word of R321: base and size in 4 KiB units. -/
structure Region where
  base  : Nat := 0
  size  : Nat := 0
  wr    : Bool := false
  rd    : Bool := false
  valid : Bool := false
  deriving DecidableEq, Repr

/-- A context descriptor (10 R321). `priv` lists the regions that the memory map makes private (12 R402). -/
structure Ctx where
  state   : CtxState := .free
  gen     : W32 := 0
  regions : List Region := []
  priv    : List Bool := []
  /-- the command block of a DESTROY that waits for the context to become FREE (R325) -/
  blk     : Option Nat := none
  deriving DecidableEq, Repr

/-- A queued context command (10 R324, R325). -/
structure CtxCmd where
  op   : Nat
  blk  : Nat
  /-- the command block as it stood at the write -/
  data : List Byte
  deriving DecidableEq, Repr

/-- The lockkeeper's registers and lists (10 R342 to R350, 08 R268, R269). -/
structure Lkp where
  /-- a schedule is in force (R624) -/
  inForce : Bool := false
  sched   : Sched := {}
  /-- the schedule of the new profile during a staged change (12 R415, R416) -/
  next    : Option Sched := none
  jobs    : List (Nat × JobRun) := []
  /-- the level whose slot table runs (R308) and a level waiting for the next cycle start -/
  level   : Nat := 0
  inRings : List (Nat × InRing) := []
  egr     : List (Nat × EgrRing) := []
  /-- records held in staging, in posting order (R328) -/
  held    : List ComplRec := []
  /-- vectors due (R331, R560), each with the job whose slot's end raises it, or 0xFFFF for the next lock point -/
  vectors : List (Nat × Nat) := []
  admCode : W16 := 0
  admJob  : W16 := 0xFFFF
  admSlot : BitVec 13 := 0x1FFF
  admLevel : BitVec 3 := 7
  admRuns : W16 := 0
  abortJob : W16 := 0
  abortStatus : Byte := 0
  abortPort : Byte := 0
  abortStep : W32 := 0
  ovr     : W32 := 0
  full    : W32 := 0
  stale   : W32 := 0
  trapSeq : W32 := 0
  trapJob : W16 := 0
  trapValid : Bool := false
  /-- the number of the cycle in progress -/
  cycle : Nat := 0
  /-- TIME of the last lock point -/
  lastLock : W64 := 0
  deriving DecidableEq, Repr

/-- The context table and its command queue (10 R320, R325, R349). -/
structure CtxTab where
  ctxs   : List (Nat × Ctx) := []
  npctx  : Nat := 0
  ctxMax : Nat := 0
  queue  : List CtxCmd := []
  /-- the session area of the memory map (12 R402) and its shared regions (11 R368) -/
  sess   : List Region := []
  shared : List Region := []
  deriving DecidableEq, Repr

/-! ### The device as a whole and its ports -/

/-- STATE of DEV_STATUS (01 R28). -/
inductive DevState where
  | starting | running | draining | drained | stopping
  deriving DecidableEq, Repr

/-- The DEV_ block (01 R26 to R28). -/
structure Dev where
  /-- SYS_RST_N is low, or power is off, or the clocks have stopped after S7: nothing is served -/
  held        : Bool := true
  /-- SYS_RST_N is low (18 R599) -/
  rstLow      : Bool := true
  chanUsable  : W32 := 0
  reachUsable : W16 := 0
  /-- reaches whose units outside the lanes passed their start-up tests -/
  reachOk     : W16 := 0
  dramUnits   : Nat := 0
  /-- LOCAL_UNITS of the profile (11 R359) and DRAM_RATE (12 R400) in force -/
  lu          : Nat := 0
  rate        : Nat := 0
  role        : BitVec 2 := 0
  profile     : BitVec 2 := 0
  arithSet    : BitVec 2 := 0
  flagged     : Bool := false
  shed        : BitVec 3 := 0
  st          : DevState := .starting
  deriving DecidableEq, Repr

/-! ### Profiles, flash and start-up -/

/-- A profile slot as loaded at start (12 R404, R425): FAULT, and the image when it is valid. -/
structure PSlot where
  fault : BitVec 4 := 1
  image : List Byte := []
  id    : W64 := 0
  minFw : W32 := 0
  role  : BitVec 2 := 0
  auto  : Bool := false
  deriving DecidableEq, Repr

/-- What a profile command is doing (12 R406, R414 to R421). -/
inductive Chg where
  | none
  /-- weight images are being verified; `only`: VERIFY -/
  | verifying (only : Bool)
  | admitting
  /-- SFU banks are being loaded -/
  | loading
  /-- stages of a staged change: the polder whose stage is in progress, and whether it has begun -/
  | staging (k : Nat) (begun : Bool)
  | fullDrain
  /-- accepted: the switch comes at the first cycle start -/
  | entering
  /-- POLDER_DRAIN of the polder; `begun`: its cycle start has come -/
  | draining (k : Nat) (begun : Bool)
  | resuming (k : Nat)
  /-- resume accepted: the polder returns at the next cycle start -/
  | returning (k : Nat)
  deriving DecidableEq, Repr

/-- An operation on the flash (12 R399, R426). -/
structure FlashOp where
  op    : Nat
  addr  : Nat
  dev   : Nat
  pages : Nat
  port  : Port
  deriving DecidableEq, Repr

/-- The PRF_ block, the profile slots, the sections of the profile in force and the flash (12). -/
structure Prf where
  ready    : Bool := false
  recovery : Bool := false
  fwVersion : W32 := 0
  fwSlot   : Bool := false
  fallback : Bool := false
  pinSel   : BitVec 2 := 0
  pairSide : Bool := false
  slots    : Vector PSlot 4 := Vector.replicate 4 {}
  target   : BitVec 2 := 0
  switched : BitVec 4 := 0
  held     : BitVec 4 := 0
  flogBad  : BitVec 4 := 0
  chg      : Chg := .none
  /-- the change is the first activation of a start, a debug entry or a join, from no schedule -/
  initial  : Bool := false
  /-- the change drains the whole device -/
  full     : Bool := false
  drainOk  : Bool := false
  port     : Port := .host
  /-- OP of the command at work; 0 for an activation that no port asked for -/
  op       : Nat := 0
  /-- the slot whose weight images are verified -/
  work     : BitVec 2 := 0
  /-- ACTIVATE of the active slot: steps 1 and 2 of R406 alone (R408) -/
  recheck  : Bool := false
  /-- reaches whose SFU load for the change is not done -/
  loads    : List Nat := []
  /-- cycle at whose start a basin switch or relief takes effect (14 R490, R491) -/
  atCycle  : Option Nat := none
  /-- fields of PRF_CMD as last accepted -/
  cmd      : W64 := 0
  resCode  : W16 := 0
  resOp    : BitVec 4 := 0
  resPort  : BitVec 4 := 0
  resState : Byte := 0
  resCount : W32 := 0
  /-- the result registers still show the command at work, no later one having been refused meanwhile (R424) -/
  resMine  : Bool := false
  /-- a full drain has passed DRAIN_MS (R418, R419) -/
  limit    : Bool := false
  /-- images marked VERIFIED: slot and manifest index (R406) -/
  verified : List (Nat × Nat) := []
  /-- the last admission of the slot found its digests matching (15 R522) -/
  digestOk : List Nat := []
  /-- the quantisation threshold table, p32 patterns (06 R207) -/
  thresh   : List W32 := []
  /-- that of the target's side during a staged change -/
  threshNew : List W32 := []
  /-- the checked kernel images by manifest index (07 R241), of the schedule and of the target's side -/
  kernels  : List (Nat × List Byte) := []
  kernelsNew : List (Nat × List Byte) := []
  /-- SAMPLE of the active profile (R400, 16 R536) -/
  sample   : Nat := 0
  semHold  : Nat := 0
  drainMs  : Nat := 0
  compiled : Nat := 0
  /-- ORDER of the in-field tests (16 R551) -/
  order    : List Nat := List.range 24
  /-- SFU table images of the manifest may have these digests (05 R167) -/
  sfuDigests : List (BitVec 256) := []
  flash    : List (Nat × Byte) := []
  flashAddr : BitVec 29 := 0
  flashDev : BitVec 40 := 0
  flashCmd : W64 := 0
  flashOp  : Option FlashOp := none
  flashDone : W32 := 0
  flashCode : W16 := 0
  flashErr : Bool := false
  /-- the active half of the fault log, the index of its first erased record and the next SEQ (R394, R398) -/
  flogHalf : Nat := 0
  flogPos  : Nat := 0
  flogSeq  : W32 := 0
  /-- records that the lockkeeper owes the fault log: KIND, then SRC and BODY (R396, R397) -/
  flogOwed : List (Nat × List Byte) := []
  opKey    : BitVec 256 := 0
  deriving DecidableEq, Repr

/-! ### Ports -/

/-- A semaphore (13 R448, R449): owner 0 free, 1 host, 2 management; TIME of the take. -/
structure Sem where
  owner : BitVec 2 := 0
  since : W64 := 0
  deriving DecidableEq, Repr

/-- The PCI_ block and the configuration of the function that rules name (13). -/
structure Pci where
  trained : Bool := false
  d0      : Bool := true
  bme     : Bool := false
  mse     : Bool := false
  msixEn  : Bool := false
  fmask   : Bool := false
  width   : BitVec 6 := 0
  speed   : BitVec 3 := 0
  /-- Max_Payload_Size and Max_Read_Request_Size are the fabric's; the link counts as up -/
  up      : Bool := false
  base    : BitVec 12 := 0
  /-- log2 of the BAR2 size, 28 to 36; the register shows its low five bits (R453) -/
  size    : BitVec 6 := 0x24
  /-- queued descriptors of the host barge queue (R433) and the barge at work -/
  hbq     : List Nat := []
  hbar    : Option Barge := none
  irqEn   : Bool := false
  vector  : BitVec 11 := 0
  done    : W32 := 0
  code    : W16 := 0
  badacc  : W32 := 0
  b2bad   : W32 := 0
  linkdn  : W32 := 0
  cplto   : W32 := 0
  /-- vectors whose mask bit is 0, and pending bits (R436) -/
  unmasked : List Nat := []
  pend    : List Nat := []
  /-- the 32-bit words of the MSI-X table by number, message address and data of the entries; an unlisted one is 0 (R428) -/
  table   : List (Nat × W32) := []
  classCode : BitVec 24 := 0x120000
  deriving DecidableEq, Repr

/-- An EMP session (13 R444; 15 R518 to R520). -/
structure Session where
  id     : W64
  maint  : Bool
  coll   : Bool
  /-- order of opening -/
  nth    : Nat
  /-- SEQ of the last accepted request, and the reply stored for it -/
  seq    : Option W32 := none
  status : Nat := 0
  reply  : List Byte := []
  /-- STATION key of the credential -/
  station : List Byte := []
  /-- the last attestation report and its nonce (15 R523) -/
  report : Option (List Byte × List Byte) := none
  /-- RECORD messages sent (15 R520) -/
  recNum : W32 := 0
  deriving DecidableEq, Repr

/-- The MGT_ block (13 R440 to R446, R454). -/
structure Mgt where
  link    : Bool := false
  mode    : Bool := false
  collHi  : W64 := 0
  collLo  : W64 := 0
  /-- the collector's address in effect (R454) -/
  coll    : BitVec 128 := 0
  sess    : Vector (Option Session) 4 := Vector.replicate 4 none
  opened  : Nat := 0
  /-- records kept and not acknowledged, oldest first, and how many of them have been sent (R446) -/
  recs    : List ErrRec := []
  sent    : Nat := 0
  acked   : W32 := 0
  recDrop : W32 := 0
  authFail : W32 := 0
  /-- the port's MAC address, and the IPv6 addresses formed from it (R440) -/
  mac     : BitVec 48 := 0
  addrs   : List (BitVec 128) := []
  deriving DecidableEq, Repr

/-! ### Security -/

/-- A request for an attestation report into a buffer (15 R524). -/
structure AttReq where
  buf   : Nat
  port  : Port
  nonce : List Byte
  ctx   : W32
  deriving DecidableEq, Repr

/-- The SEC_ block (15). -/
structure Sec where
  maint   : Bool := false
  debug   : Bool := false
  masters : Byte := 0
  idDigest : BitVec 256 := 0
  idOk    : Bool := false
  rngOk   : Bool := false
  /-- draws taken from the random number generator -/
  draws   : Nat := 0
  attBuf  : BitVec 34 := 0
  att     : Option AttReq := none
  attLen  : W32 := 0
  attCode : W16 := 0
  attErr  : Bool := false
  denied  : W32 := 0
  rekey   : W32 := 0
  deriving DecidableEq, Repr

/-! ### Coupling -/

/-- Membership states, coded as 14 R494. -/
inductive MemSt where
  | detached | joining | held | member | unsync
  deriving DecidableEq, Repr

/-- Manager states, coded as 14 R494. -/
inductive MState where
  | none | standby | active | solo | claiming | fenced
  deriving DecidableEq, Repr

/-- A membership entry (14 R476). -/
structure MembE where
  id      : BitVec 256
  profile : BitVec 256
  member  : Nat
  spare   : Bool
  backs   : Nat
  deriving DecidableEq, Repr

/-- A COUPLING section (14 R475). -/
structure Coup where
  basin    : Nat := 0
  domain   : Nat := 0
  ports    : BitVec 8 := 0
  mgrPorts : BitVec 8 := 0
  epoch    : W32 := 0
  upstream : Nat := 0x7FFF
  members  : List MembE := []
  deriving DecidableEq, Repr

/-- A frame that a flow has sent and whose acknowledgement is owed (14 R469). -/
structure TxFrame where
  seq     : W32
  ftype   : Nat
  aux     : W32
  ctx     : Nat
  job     : Nat
  payload : List Byte
  marks   : List Nat := []
  resends : Nat := 0
  deriving DecidableEq, Repr

/-- A flow from a local port to a peer node and back (14 R469, R470). -/
structure Flow where
  next    : W32 := 0
  unacked : List TxFrame := []
  /-- SEQ, job and context of DATA frames that have been acknowledged, newest last, for a NAK that comes later (14 R473) -/
  past    : List (W32 × Nat × Nat) := []
  /-- SEQ of the next frame of the reverse flow -/
  expect  : W32 := 0
  failed  : Bool := false
  deriving DecidableEq, Repr

/-- A read of a peer's memory in progress (14 R472, R473): the RREQ's SEQ, its length and destination, and the barge. -/
structure RemRead where
  port : Nat
  node : Nat
  seq  : W32
  /-- destination space and address -/
  space : Nat
  dst  : Nat
  len  : Nat
  reach : Nat
  tag  : Nat
  /-- its barge is over: the answer will be dropped (R473) -/
  dead : Bool := false
  deriving DecidableEq, Repr

/-- A link key with a peer (15 R513, R516). -/
structure LinkKey where
  node   : Nat
  keyid  : Nat
  prev   : Option Nat := none
  /-- more than half its use limit has passed and a successor is being agreed -/
  sent   : Nat := 0
  since  : W64 := 0
  dead   : Bool := false
  deriving DecidableEq, Repr

/-- A key exchange in progress (15 R513): peer, KEYID, whether this device sent OFFER, its generator draw, the peer's keys. -/
structure Kex where
  node    : Nat
  keyid   : Nat
  offered : Bool
  draw    : Nat
  static  : List Byte := []
  ephem   : List Byte := []
  deriving DecidableEq, Repr

/-- A frame that an active manager owes once the standby has acknowledged a mirror record (14 R486): the record's sequence, and the
frame; TYPE 0 stands for an error record toward the collector. -/
structure Owed where
  after   : W64
  port    : Option Nat := none
  node    : Nat := 0
  ftype   : Nat
  aux     : W32 := 0
  payload : List Byte
  deriving DecidableEq, Repr

/-- A mirror record (14 R467, R468). -/
structure MirRec where
  mseq : W64
  kind : Nat
  body : List Byte
  deriving DecidableEq, Repr

/-- The coupling block (14). -/
structure Cpl where
  node    : BitVec 15 := 0x7FFF
  mstate  : MState := .none
  wstate  : MemSt := .detached
  reason  : Byte := 0
  pcs     : BitVec 8 := 0
  uncorr  : Vector W32 8 := Vector.replicate 8 0
  retry   : Vector W32 8 := Vector.replicate 8 0
  bad     : Vector W32 8 := Vector.replicate 8 0
  /-- the COUPLING section in force -/
  sect    : Coup := {}
  cmd     : W64 := 0
  resCode : W16 := 0
  resState : Byte := 0
  resOp   : BitVec 4 := 0
  resPort : BitVec 4 := 0
  resCycle : W32 := 0
  offset  : W32 := 0
  insync  : Byte := 0
  master  : Bool := false
  /-- TIME has been set at the first Sync of this join (R477, R483) -/
  timeSet : Bool := false
  /-- the device has left its basin since start (R477) -/
  left    : Bool := false
  /-- MEMBER has held since the last cycle start: coupled jobs are kept (R480) -/
  synced  : Bool := false
  /-- what is left, in ns, of the correction by which TIME is being slewed, towards a master (R483) or PPS_IN (17 R587) -/
  slew    : Int := 0
  /-- measured path delay (R482), the master's and the own time of the last Sync, and the Delay_Req awaiting its answer -/
  delay   : Int := 0
  lastSync : Option (W64 × W64) := none
  dreq    : Option W64 := none
  mseq    : W64 := 0
  /-- newest value that the standby has acknowledged (R486) -/
  macked  : W64 := 0
  unsync  : W32 := 0
  failover : W32 := 0
  refused : W32 := 0
  lost    : W32 := 0
  flows   : List ((Nat × Nat) × Flow) := []
  reads   : List RemRead := []
  keys    : List LinkKey := []
  kex     : List Kex := []
  /-- node of the manager that this member follows (R488) and its mirror sequence -/
  follows : Option Nat := none
  fseq    : W64 := 0
  /-- members announced: number and identity digest (R466); on a manager, members admitted -/
  members : List (Nat × BitVec 256) := []
  /-- the basin's epoch (R486) -/
  epoch   : W32 := 0
  /-- pending switch: EPOCH and cycle (R491) -/
  pendSw  : Option (W32 × W64) := none
  /-- withdrawals announced and not yet in effect: member and cycle (R465) -/
  pendOut : List (Nat × W64) := []
  owed    : List Owed := []
  /-- a snapshot has been sent in SOLO and not acknowledged (R487) -/
  snapSent : Bool := false
  /-- pending reliefs: member, spare, slot, cycle (R490) -/
  pendRel : List (Nat × Nat × Nat × W64) := []
  /-- a spare's order to take over: member, slot and cycle -/
  assume_ : Option (Nat × Nat × W64) := none
  /-- error records that a worker owes its active manager -/
  fwd     : List ErrRec := []
  /-- error records of members that a manager holds unforwarded, with the node (R468) -/
  heldRecs : List (Nat × List Byte) := []
  /-- snapshot records received so far, and whether one has been asked for -/
  snap    : List MirRec := []
  asked   : Bool := false
  /-- identity keys that ADMIT carried, by node (15 R514) -/
  mgrKeys : List (Nat × List Byte) := []
  /-- profile digest that the peer manager's signed HELLO named (15 R514) -/
  peerProf : Option (BitVec 256) := none
  /-- the last STATUS of each member (R484) -/
  views   : List (Nat × List Byte) := []
  deriving DecidableEq, Repr

/-! ### Reliability, power, time and debug -/

/-- The RAS_ block (16 R562 to R567). -/
structure Ras where
  /-- the next record number (R560) -/
  seq     : W32 := 0
  cause   : Byte := 0
  reach   : BitVec 4 := 0
  ringEn  : Bool := false
  ringBase : W64 := 0
  ringVec : BitVec 11 := 0
  ringSize : BitVec 5 := 4
  ringHead : W32 := 0
  ringTail : W32 := 0
  newBase : Option W64 := none
  newCfg  : Option (Bool × BitVec 11 × BitVec 5) := none
  /-- records raised while the ring was enabled and not yet written -/
  errQ    : List ErrRec := []
  dupTiles : Perf := {}
  mismatch : W32 := 0
  transient : W32 := 0
  dupSkip : W32 := 0
  replay  : W32 := 0
  late    : W32 := 0
  fail    : W32 := 0
  ringDrop : W32 := 0
  refused : W32 := 0
  deriving DecidableEq, Repr

/-- A POWER section (17 R572). -/
structure PwrSect where
  present : Bool := false
  base    : Nat := 0
  th      : List Nat := [95, 98, 100, 102, 104]
  hyst    : Nat := 3
  dwell   : Nat := 100
  overPct : Nat := 5
  speed   : Nat := 0
  /-- address and page of each rail -/
  rails   : List (Nat × Nat) := []
  deriving DecidableEq, Repr

/-- A rail as last polled (17 R592), and the rounds in a row that it failed. -/
structure Rail where
  status : W16 := 0
  valid  : Bool := false
  iout   : W16 := 0
  vout   : W16 := 0
  /-- READ_TEMPERATURE_1 as last read (R574) -/
  temp   : W16 := 0
  fails  : Nat := 0
  deriving DecidableEq, Repr

/-- The PWR_ block (17). -/
structure Pwr where
  sect   : PwrSect := {}
  plimit : Nat := 0
  over1  : Bool := false
  over2  : Bool := false
  droop  : Bool := false
  warn   : Bool := false
  crit   : Bool := false
  /-- how long PWR_CRIT_N has been held: 0, 1 for 20 ms, 2 for 500 ms -/
  critHold : Nat := 0
  /-- reference inputs lost: bit 0 REFCLK_PCIE, 1 REFCLK_LINK, 2 REFCLK_SYS, 3 REFCLK_MEM, 4 PPS_IN -/
  clk    : BitVec 5 := 0
  /-- temperature demands in force: 1 to 7 by bit -/
  hot    : Byte := 0
  floor  : BitVec 3 := 0
  temps  : Vector (BitVec 8) 24 := Vector.replicate 24 0
  /-- the values that PWR_TEMP_i give, and when they were updated (R580) -/
  shown  : Vector (BitVec 8) 24 := Vector.replicate 24 0
  shownAt : W64 := 0
  railsAt : W64 := 0
  /-- the sums of the rounds of the last 10 ms, in 0.1 W, with their TIMEs (R571) -/
  rounds  : List (W64 × Nat) := []
  maxSensor : Byte := 0
  maxTemp : Byte := 0
  rails  : Vector Rail 9 := Vector.replicate 9 {}
  /-- the values that PWR_RAIL_r give (R580) -/
  railShown : Vector Rail 9 := Vector.replicate 9 {}
  known  : Bool := false
  power  : W16 := 0
  droopCnt : W32 := 0
  overCnt : W32 := 0
  pmbErr : W32 := 0
  shedCnt : W32 := 0
  /-- a descent of the ladder is due at the next cycle start (R579) -/
  descend : Bool := false
  /-- VDD_ARITH has been raised for this setting and has not settled (R570) -/
  rising : Option (BitVec 2) := none
  /-- VDD_ARITH serves this setting -/
  vset   : BitVec 2 := 0
  ppsOffset : W32 := 0
  /-- the last four pulses' offsets were within 100 ns, as far as they have come -/
  ppsGood : Nat := 0
  ppsPresent : Bool := false
  deriving DecidableEq, Repr

/-- The DBG_ block's port and the test access port (15 R529, 18 R598). -/
structure Tap where
  /-- the instruction in force -/
  ir   : TapIr := .idcode
  reset : Bool := true
  deriving DecidableEq, Repr

/-- The whole device. -/
structure State where
  pending : List Instr := []
  /-- the model's own counter of free values -/
  fresh   : Nat := 0
  time    : W64 := 0
  out     : List Out := []
  mem     : List Host.Cell := []
  poison  : List Nat := []
  lineKey : List (Nat × Nat) := []
  reach   : Vector Reach 16 := Vector.replicate 16 {}
  nmu     : Vector Nmu 4 := Vector.replicate 4 {}
  mdie    : Vector MDie 4 := Vector.replicate 4 {}
  lkp     : Lkp := {}
  ctx     : CtxTab := {}
  dev     : Dev := {}
  sec     : Sec := {}
  cpl     : Cpl := {}
  ras     : Ras := {}
  mgt     : Mgt := {}
  pci     : Pci := {}
  prf     : Prf := {}
  sem     : Vector Sem 32 := Vector.replicate 32 {}
  semRefused : W32 := 0
  semBroken : W32 := 0
  pwr     : Pwr := {}
  tap     : Tap := {}
  /-- what a warm reset that a register write asks for will find (12 R412) -/
  board   : StartIn := {}
  /-- coarsened registers as they read at the last multiple of 1 ms of TIME, by BAR0 offset (15 R525) -/
  shadow  : List (Nat × W64) := []
  deriving DecidableEq, Repr

/-- The machine right after reset. -/
def State.reset : State := {}

end Sys2Proof.Machine
end

