-- ==== Sys2Proof/Machine/Sched.lean ====
section
/-! DEFINITION. Flags of job entries and profile slots, and questions about the schedule in force (10_lock_schedule): which slots
occur in a cycle, on which side of a staged change a job and its slots lie (12 R416), which jobs are kept (R313), which resources are
in service, and when the next lock point comes (R305, R306). -/

namespace Sys2Proof.Machine

/-- REPRO of R252. -/
def JobE.repro (j : JobE) : Bool := bitAt j.flags 0
/-- NTRAP of R264. -/
def JobE.ntrap (j : JobE) : Bool := bitAt j.flags 1
/-- NSTOP of R267. -/
def JobE.nstop (j : JobE) : Bool := bitAt j.flags 2
/-- DEFER of R313. -/
def JobE.defer (j : JobE) : Bool := bitAt j.flags 3
/-- ADAPT of R313. -/
def JobE.adapt (j : JobE) : Bool := bitAt j.flags 4
/-- PERIODIC of R314. -/
def JobE.periodic (j : JobE) : Bool := bitAt j.flags 5

/-- A slot is valid (12 R404). -/
def PSlot.valid (p : PSlot) : Bool := p.fault == 0

/-- The slot occurs in cycle k (R310). -/
def SlotE.occurs (e : SlotE) (k : Nat) : Bool := k % 2 ^ e.every == e.phase

/-- SEG or RESERVE (R311). -/
def SlotE.isSeg (e : SlotE) : Bool := e.kind == 1 || e.kind == 2

/-- The slot names resource r: 0 to 15 reaches, 16 to 19 NMUs. -/
def SlotE.names (e : SlotE) (r : Nat) : Bool := if r < 16 then bitAt e.reach r else bitAt e.nmu (r - 16)

/-- Resources that a slot names. -/
def SlotE.res (e : SlotE) : List Nat := (List.range 20).filter e.names

/-- The slot table of a level (R309); none above S5. -/
def Sched.table (c : Sched) (level : Nat) : List SlotE :=
  if 5 < level then [] else ((c.lvl[level]?).bind fun i => c.tables[i]?).getD []

/-- Reaches that a job's SEG and RESERVE slots name in any table, as a mask. -/
def Sched.reaches (c : Sched) (j : Nat) : Nat :=
  (c.tables.flatten.filter fun e => e.isSeg && e.job == j).foldl (fun m e => m ||| e.reach) 0

/-- Resources that a job's SEG and RESERVE slots name in a table. -/
def resOfJob (t : List SlotE) (j : Nat) : List Nat :=
  (List.range 20).filter fun r => t.any fun e => e.isSeg && e.job == j && e.names r

/-- The reaches of the polders of a mask (01 R18: polder k holds reaches 4k to 4k + 3). -/
def polderReaches (p : BitVec 4) : Nat := (List.range 4).foldl (fun m k => if p.getLsbD k then m + 15 * 16 ^ k else m) 0

/-- Reaches that run the new profile of a staged change. -/
def State.switchedReaches (s : State) : Nat := polderReaches s.prf.switched

/-- The new table of a staged change carries job j: every reach that its slots name has switched (12 R416). -/
def State.newSide (s : State) (j : Nat) : Bool :=
  match s.lkp.next with
  | some c => decide (j < c.jobs.length) && c.reaches j != 0 && c.reaches j &&& s.switchedReaches == c.reaches j
  | none => false

/-- The old table, or the only one, carries job j. -/
def State.oldSide (s : State) (j : Nat) : Bool :=
  decide (j < s.lkp.sched.jobs.length) && (s.lkp.sched.reaches j &&& s.switchedReaches == 0)

/-- A job of the active job tables (R312). -/
def State.job? (s : State) (j : Nat) : Option JobE :=
  if s.newSide j then s.lkp.next.bind fun c => c.jobs[j]? else s.lkp.sched.jobs[j]?

/-- Reaches that the active side names for a job. -/
def State.jobReaches (s : State) (j : Nat) : Nat :=
  if s.newSide j then ((s.lkp.next.map fun c => c.reaches j).getD 0) else s.lkp.sched.reaches j

/-- An ingress ring of a job's side (R326). -/
def State.ring? (s : State) (j r : Nat) : Option RingE :=
  if s.newSide j then s.lkp.next.bind fun c => c.rings[r]? else s.lkp.sched.rings[r]?

/-- The threshold table that a job reads (12 R416). -/
def State.threshOf (s : State) (j : Nat) : List W32 := if s.newSide j then s.prf.threshNew else s.prf.thresh

/-- A checked kernel image of a job's side (07 R241). -/
def State.kernelOf (s : State) (j i : Nat) : Option (List Byte) :=
  ((if s.newSide j then s.prf.kernelsNew else s.prf.kernels).find? fun p => p.1 == i).map (·.2)

/-- A job is suspended (12 R416, R421): its reaches lie on both sides of a change, or one of them in a held polder. -/
def State.suspended (s : State) (j : Nat) : Bool :=
  (!s.newSide j && !s.oldSide j) || s.jobReaches j &&& polderReaches s.prf.held != 0

/-- The slots that apply at a level, each with its side (12 R416). -/
def State.slotsAt (s : State) (level : Nat) : List (SlotE × Bool) :=
  let sw := s.switchedReaches
  let old := (s.lkp.sched.table level).filter fun (e : SlotE) => if e.kind = 4 then e.reach &&& sw == 0 else s.oldSide e.job
  let new : List SlotE := match s.lkp.next with
    | some c => (c.table level).filter fun (e : SlotE) => if e.kind = 4 then e.reach &&& sw != 0 else s.newSide e.job
    | none => []
  old.map (fun e => (e, false)) ++ new.map fun e => (e, true)

/-- The slots of cycle k under the table that runs. -/
def State.slotsIn (s : State) (k : Nat) : List (SlotE × Bool) := (s.slotsAt s.lkp.level).filter fun p => p.1.occurs k

/-- LC in ns (R305). -/
def State.lcNs (s : State) : Nat := s.lkp.sched.lc * 1000

/-- The least number of a list above a bound. -/
def leastAbove (b : Nat) (l : List Nat) : Option Nat :=
  l.foldl (fun m x => if b < x then (match m with | some y => some (min x y) | none => some x) else m) none

/-- TIME of the next lock point (R306): the next start or end of a slot of the cycle, or the start of the next. -/
def State.nextLock (s : State) : Nat :=
  let lc := s.lcNs
  let last := s.lkp.lastLock.toNat
  let k := last / lc
  let offs := (s.slotsIn k).flatMap fun p => [p.1.start * 1000, (p.1.start + p.1.len) * 1000]
  match leastAbove (last % lc) offs with
  | some o => if o < lc then k * lc + o else (k + 1) * lc
  | none => (k + 1) * lc

/-- A job is kept at a level (R313). -/
def JobE.kept (e : JobE) (level : Nat) : Bool :=
  bitAt e.keep level && decide (level < 6) && !(e.adapt && decide (1 ≤ level)) && !(e.defer && decide (2 ≤ level))

/-- A job is kept now: at the level in force, at the level of the cycle's table, and, a coupled job, in MEMBER from a cycle start on (14
R480). -/
def State.keptNow (s : State) (e : JobE) : Bool :=
  e.kept s.dev.shed.toNat && e.kept s.lkp.level && (e.role == 0 || (s.cpl.wstate == .member && s.cpl.synced))

/-- Reaches that the shed level in force keeps in service (17 R580). -/
def levelServes (level n : Nat) : Bool :=
  if level ≤ 3 then true else if level = 4 then decide (n < 8) else if level = 5 then decide (n < 4) else false

/-- A reach is in service: usable (03 R105), not shed (17 R580), its polder not held (12 R421). -/
def State.inService (s : State) (n : Nat) : Bool :=
  s.dev.reachUsable.getLsbD n && levelServes s.dev.shed.toNat n && !s.prf.held.getLsbD (n / 4)

/-- A resource can run a segment: a reach in service, or up to S5 an NMU whose M-die can be reached (11 R356). -/
def State.serves (s : State) (r : Nat) : Bool :=
  if r < 16 then s.inService r
  else decide (s.dev.shed.toNat ≤ 5) && (if h : r - 16 < 4 then !s.mdie[r - 16].gone else false)

/-- The slot that comes next on a resource from offset `off` (µs) of cycle k on, at most `fuel` cycles ahead. -/
def State.nextOn (s : State) (r k off : Nat) : (fuel : Nat) → Option SlotE
  | 0 => none
  | f + 1 =>
    let c := (s.slotsIn k).filter fun p => p.1.names r && decide (off ≤ p.1.start) && p.1.kind != 3
    match c with
    | [] => s.nextOn r (k + 1) 0 f
    | p :: ps => some (ps.foldl (fun m q => if q.1.start < m.start then q.1 else m) p.1)

/-- At the end of a slot the resource passes to another job or context (07 R220): its next slot is a test (16 R549) or names
another job or context. -/
def State.passes (s : State) (r k off j ctx : Nat) : Bool :=
  match s.nextOn r k off 4097 with
  | some e => e.kind == 4 || e.job != j || ((s.job? e.job).map (·.ctx)).getD 0 != ctx
  | none => true

end Sys2Proof.Machine
end

