-- ==== Sys2Proof/Machine/Ops.lean ====
section
/-! DEFINITION. The named operations over the parts of the state: the units, counters and fields that every command goes
through. -/

namespace Sys2Proof.Machine

/-! ### Parts of the state -/

/-- Change one reach. -/
def State.modReach (s : State) (n : Fin 16) (f : Reach → Reach) : State :=
  { s with reach := s.reach.set n (f s.reach[n]) }

/-- Change one NMU. -/
def State.modNmu (s : State) (d : Fin 4) (f : Nmu → Nmu) : State :=
  { s with nmu := s.nmu.set d (f s.nmu[d]) }

/-- Change one M-die. -/
def State.modMdie (s : State) (d : Fin 4) (f : MDie → MDie) : State :=
  { s with mdie := s.mdie.set d (f s.mdie[d]) }

/-- The control-stream unit of a reach or NMU. -/
def State.unit (s : State) : Res → Unit
  | .reach n => s.reach[n].u
  | .nmu d => s.nmu[d].u

/-- Change the control-stream unit of a reach or NMU. -/
def State.modU (s : State) (r : Res) (f : Unit → Unit) : State :=
  match r with
  | .reach n => s.modReach n fun x => { x with u := f x.u }
  | .nmu d => s.modNmu d fun x => { x with u := f x.u }

/-- The number of a resource: 0 to 15 for reaches, 16 to 19 for NMUs. -/
def resNum : Res → Nat
  | .reach n => n
  | .nmu d => 16 + d

/-- The resource of a number. -/
def resOf (k : Nat) : Option Res :=
  if h : k < 16 then some (.reach ⟨k, h⟩) else if h : k - 16 < 4 then some (.nmu ⟨k - 16, h⟩) else none

/-- Send something out of the device. -/
def State.send (s : State) (o : Out) : State := { s with out := s.out ++ [o] }

/-- Take the next free value. -/
def State.bump (s : State) : State := { s with fresh := s.fresh + 1 }

/-- What the lockkeeper keeps of a job. -/
def State.jobRun (s : State) (j : Nat) : JobRun := slook {} s.lkp.jobs j

/-- Change what the lockkeeper keeps of a job. -/
def State.modJob (s : State) (j : Nat) (f : JobRun → JobRun) : State :=
  { s with lkp := { s.lkp with jobs := sput {} s.lkp.jobs j (f (slook {} s.lkp.jobs j)) } }

/-- Change the step in flight of a job. -/
def State.modStep (s : State) (j : Nat) (f : StepRun → StepRun) : State :=
  s.modJob j fun r => { r with step := r.step.map f }

/-! ### Performance counters -/

/-- A performance counter counts `k` (03 R110); the Bool says that its first increment was lost now. -/
def Perf.add (p : Perf) (k : Nat) : Perf × Bool :=
  if k = 0 then (p, false)
  else if p.count.toNat + k < 2 ^ 48 then ({ p with count := p.count + BitVec.ofNat 48 k }, false)
  else ({ count := BitVec.allOnes 48, ovf := true }, !p.ovf)

/-! ### Registers of a unit -/

/-- A scalar register: x0 reads zero (07 R215). -/
def Unit.x (u : Unit) (k : BitVec 6) : W64 := if k.toNat % 32 = 0 then 0 else u.xregs[k.toNat % 32].1

/-- A scalar register's poison bit (07 R218). -/
def Unit.xp (u : Unit) (k : BitVec 6) : Bool := if k.toNat % 32 = 0 then false else u.xregs[k.toNat % 32].2

/-- Write a scalar register with its poison bit: x0 discards writes (07 R215, R218). -/
def Unit.setX (u : Unit) (k : BitVec 6) (v : W64) (p : Bool) : Unit :=
  if k.toNat % 32 = 0 then u else { u with xregs := u.xregs.set (k.toNat % 32) (v, p) }

/-- A vector register element: pattern and poison bit (07 R216). -/
def Unit.v (u : Unit) (k : BitVec 6) (i : Nat) : W32 × Bool := slook (0, false) u.vregs (512 * k.toNat + i)

/-- Write a vector register element (07 R216). -/
def Unit.setV (u : Unit) (k : Nat) (i : Nat) (e : W32 × Bool) : Unit :=
  { u with vregs := sput (0, false) u.vregs (512 * k + i) e }

/-- Write elements `i`, `i + 1`, … of a vector register; the others keep their contents (07 R216). -/
def Unit.setVs (u : Unit) (k : Nat) (i : Nat) : List (W32 × Bool) → Unit
  | [] => u
  | e :: es => (u.setV k i e).setVs k (i + 1) es

end Sys2Proof.Machine
end

