-- ==== Sys2Proof/Machine/Flags.lean ====
section
/-! DEFINITION. Raising events: the error record (19 R617 to R619), where it goes (13 R446, 14 R484, 16 R560), and the
counters that stick (02 R69, 19 R622). -/

namespace Sys2Proof.Machine

/-- What an event's own rule puts into its record. -/
structure Ev where
  code : Nat
  job  : Nat := 0xFFFF
  ctx  : Nat := 0
  kind : Nat := 0
  part : Nat := 0
  addr : Nat := 0
  d0   : Nat := 0
  d1   : Nat := 0
  d2   : Nat := 0
  d3   : Nat := 0
  deriving DecidableEq, Repr

/-- A TIME value as it is written into a record: to 1 ms outside maintenance state (15 R525). -/
def State.stamp (s : State) (t : W64) : W64 :=
  if s.sec.maint then t else BitVec.ofNat 64 (t.toNat / 1000000 * 1000000)

/-- SOURCE of R618. -/
def sourceWord (node : BitVec 15) (kind part : Nat) : W32 := BitVec.ofNat 32 (node.toNat * 2 ^ 17 + kind * 2 ^ 12 + part)

/-- The error record of an event raised at TIME `t` (R617). -/
def State.record (s : State) (t : W64) (e : Ev) : ErrRec :=
  { ts := s.stamp t
    seq := s.ras.seq
    event := BitVec.ofNat 16 e.code
    job := BitVec.ofNat 16 e.job
    ctx := BitVec.ofNat 32 (e.ctx % 2 ^ 20)
    source := sourceWord s.cpl.node e.kind e.part
    addr := BitVec.ofNat 64 e.addr
    d0 := BitVec.ofNat 64 e.d0
    d1 := BitVec.ofNat 64 e.d1
    d2 := BitVec.ofNat 64 e.d2
    d3 := BitVec.ofNat 64 e.d3 }

/-- A record is kept for the collector; past 4,096 the oldest goes and EMP_REC_DROP counts (13 R446). -/
def keepRecord (m : Mgt) (r : ErrRec) : Mgt :=
  if m.recs.length < 4096 then { m with recs := m.recs ++ [r] }
  else { m with recs := m.recs.drop 1 ++ [r], sent := m.sent - 1, recDrop := stick32 m.recDrop 1 }

/-- A worker keeps up to 4,096 records for its active manager (14 R485): past that the oldest goes. -/
def keepFwd (l : List ErrRec) (r : ErrRec) : List ErrRec := if l.length < 4096 then l ++ [r] else l.drop 1 ++ [r]

/-- Raise an event with an error record (R560): it takes the next sequence number and goes to the collector, to the host's
error ring while that is enabled, and on a coupled worker to its active manager. -/
def State.raiseAt (s : State) (t : W64) (e : Ev) : State :=
  let r := s.record t e
  { s with
    ras := { s.ras with seq := s.ras.seq + 1, errQ := if s.ras.ringEn then s.ras.errQ ++ [r] else s.ras.errQ }
    mgt := keepRecord s.mgt r
    cpl := { s.cpl with fwd := if s.cpl.node ≠ 0x7FFF ∧ s.dev.role = 1 then keepFwd s.cpl.fwd r else s.cpl.fwd } }

/-- Raise an event now. -/
def State.raise (s : State) (e : Ev) : State := s.raiseAt s.time e

/-- What orders records raised in one CANAL cycle: KIND and UNIT, then the event code (R618, R619). -/
def ErrRec.order (r : ErrRec) : Nat := r.source.toNat % 2 ^ 16 * 2 ^ 16 + r.event.toNat

/-- A record goes behind those whose order is not above its own. -/
def putRecord (r : ErrRec) : List ErrRec → List ErrRec
  | [] => [r]
  | x :: l => if r.order < x.order then r :: x :: l else x :: putRecord r l

/-- The records raised since sequence number `seq`, put in order and numbered afresh from it; earlier ones stay as they are. -/
def orderedFrom (seq : W32) (k : Nat) (l : List ErrRec) : List ErrRec :=
  let new (r : ErrRec) : Bool := decide ((r.seq - seq).toNat < k)
  l.filter (fun r => !new r) ++
    ((l.filter new).foldl (fun m r => putRecord r m) []).zipIdx.map fun p => { p.1 with seq := seq + BitVec.ofNat 32 p.2 }

/-- What a lock point has raised took place in one CANAL cycle: its records take their SEQ in ascending KIND, UNIT and code (R619).
Records that have gone to the collector already, or that a full list has lost, leave the others as they were raised (log 133). -/
def State.orderRecords (s : State) (seq : W32) : State :=
  let k := (s.ras.seq - seq).toNat
  let new (l : List ErrRec) : List ErrRec := l.filter fun r => decide ((r.seq - seq).toNat < k)
  let whole (l : List ErrRec) : Bool := (new l).length == k || l.isEmpty
  if k ≤ 1 || (new s.mgt.recs).length != k || (new (s.mgt.recs.take s.mgt.sent)).length != 0 || !whole s.ras.errQ ||
      !whole s.cpl.fwd then s
  else { s with
    ras := { s.ras with errQ := orderedFrom seq k s.ras.errQ }
    mgt := { s.mgt with recs := orderedFrom seq k s.mgt.recs }
    cpl := { s.cpl with fwd := orderedFrom seq k s.cpl.fwd } }

/-- The KIND and UNIT of a resource (R618). -/
def resSource : Res → Nat × Nat
  | .reach n => (1, n)
  | .nmu d => (2, d)

/-- PERF_OVF of a counter that lost its first increment (19 R621); `off` is its BAR0 offset. -/
def State.perfOvf (s : State) (lost : Bool) (kind part off : Nat) : State :=
  if lost then s.raise { code := 0x080D, kind, part, addr := off } else s

/-- Error counters of a reach. -/
def State.modCnt (s : State) (n : Fin 16) (f : ReachCnt → ReachCnt) : State :=
  s.modReach n fun x => { x with cnt := f x.cnt }

/-- Conversion events of an instruction (02 R66, R70; 09 R300). -/
def State.countCvt (s : State) (r : Res) (clamps nars : Nat) : State :=
  match r with
  | .reach n => s.modCnt n fun c => { c with clamp := stick32 c.clamp clamps, narint := stick32 c.narint nars }
  | .nmu d => s.modNmu d fun x =>
      { x with cnt := { x.cnt with clamp := stick32 x.cnt.clamp clamps, narint := stick32 x.cnt.narint nars } }

/-- ACC_RANGE events (04 R149); an NMU has no such counter. -/
def State.countRange (s : State) (r : Res) (k : Nat) : State :=
  match r with
  | .reach n => s.modCnt n fun c => { c with range := stick32 c.range k }
  | .nmu _ => s

/-- ACC_LIMIT events (04 R149). -/
def State.countLimit (s : State) (r : Res) (k : Nat) : State :=
  match r with
  | .reach n => s.modCnt n fun c => { c with limit := stick32 c.limit k }
  | .nmu _ => s

/-- At S1 and above the performance counters of the RCH_, NMU_ and MEM_ blocks hold their values (17 R580). -/
def State.perfHeld (s : State) : Bool := decide (1 ≤ s.dev.shed.toNat)

/-- The busy counter of an NMU counts (09 R301). -/
def State.countNmu (s : State) (d : Fin 4) (k : Nat) : State :=
  if s.perfHeld then s
  else
    let (p, lost) := s.nmu[d].busy.add k
    (s.modNmu d fun x => { x with busy := p }).perfOvf lost 2 d (0x0300020 + d * 0x1000)

/-- A performance counter of a reach counts. -/
def State.countPerf (s : State) (n : Fin 16) (k off : Nat) (get : ReachPerf → Perf) (set : ReachPerf → Perf → ReachPerf) :
    State :=
  if s.perfHeld then s
  else
    let (p, lost) := (get s.reach[n].perf).add k
    (s.modReach n fun x => { x with perf := set x.perf p }).perfOvf lost 1 n (0x0100000 + n * 0x10000 + off)

/-- The stall counters of a reach (03 R109, 07 R247). -/
inductive Stall where
  | weight | slot | dispatch
  deriving DecidableEq, Repr

/-- Instructions have waited: the stall counter counts `least` cycles and a free number more, whose value the timing gives (03 R109 to
R112, 07 R247; log 15). -/
def State.countStall (s : State) (n : Fin 16) (k : Stall) (least : Nat) : State :=
  let c := least + Config.stallCycles s.fresh
  match k with
  | .weight => (s.countPerf n c 0x48 (·.wstall) fun p x => { p with wstall := x }).bump
  | .slot => (s.countPerf n c 0x50 (·.sstall) fun p x => { p with sstall := x }).bump
  | .dispatch => (s.countPerf n c 0x410 (·.dstall) fun p x => { p with dstall := x }).bump

end Sys2Proof.Machine
end

