-- ==== Sys2Proof/Machine/Mem.lean ====
section
/-! DEFINITION. Device memory (11_memory_system): the address map (R358 to R361), lines with their poison marks (R362, R365),
quarantine (R368), the key of each DRAM line (15 R509, R511), and reads and writes of bytes. What a byte of memory that
nothing has written reads as is zero (12 R409, 11 R372). -/

namespace Sys2Proof.Machine

/-! ### The address map -/

/-- Where the DRAM window in use ends (R358). -/
def State.dramEnd (s : State) : Nat := s.dev.dramUnits * 2 ^ 29

/-- First address of the scratchpad of slice d (R358). -/
def spadBase (d : Nat) : Nat := 0xF000000000 + d * 0x3000000

/-- First address of the store of reach n (R358). -/
def storeBase (n : Nat) : Nat := 0xF800000000 + n * 0x400000

/-- Bytes in a reach store (01 R17). -/
def storeSize : Nat := 0x400000

/-- Bytes of scratchpad in use on M-die d: none while both its modules are down (R356, R358). -/
def State.spadLen (s : State) (d : Fin 4) : Nat :=
  if s.mdie[d].d2d0 = 0 ∧ s.mdie[d].d2d1 = 0 then 0 else s.mdie[d].spad * 0x400000

/-- Bytes a to a + n − 1 lie in scratchpad in use of M-die d. -/
def State.inSpadOf (s : State) (d : Fin 4) (a n : Nat) : Bool :=
  decide (spadBase d ≤ a) && decide (a + n ≤ spadBase d + s.spadLen d)

/-- Bytes a to a + n − 1 lie in the scratchpad in use of one slice. -/
def State.inSpad (s : State) (a n : Nat) : Bool :=
  s.inSpadOf 0 a n || s.inSpadOf 1 a n || s.inSpadOf 2 a n || s.inSpadOf 3 a n

/-- Bytes a to a + n − 1 lie in one reach store. -/
def inStore (a n : Nat) : Bool :=
  decide (0xF800000000 ≤ a) && decide (a + n ≤ 0xF804000000) &&
    (decide (n = 0) || decide ((a - 0xF800000000) / storeSize = (a + n - 1 - 0xF800000000) / storeSize))

/-- The reach whose store an address lies in. -/
def storeReach (a : Nat) : Option (Fin 16) :=
  if 0xF800000000 ≤ a then
    if h : (a - 0xF800000000) / 0x400000 < 16 then some ⟨(a - 0xF800000000) / 0x400000, h⟩ else none
  else none

/-! ### Channels -/

/-- Channel c is in use (R353). -/
def State.chanUsable (s : State) (c : Nat) : Bool := s.dev.chanUsable.getLsbD c

/-- The usable channels in ascending order, of all M-dies (R360). -/
def State.usableChans (s : State) : List Nat := (List.range 32).filter s.chanUsable

/-- The usable channels of M-die d. -/
def State.usableChansOf (s : State) (d : Nat) : List Nat := s.usableChans.filter fun c => c / 8 == d

/-- The last three lines of R360: the channel and the channel address of offset `off` of an area that spreads over the channels `l` from
channel address `cb` on (R359). -/
def placeIn (l : List Nat) (off cb : Nat) : Option (Nat × Nat) :=
  (l[(off / 256) % l.length]?).map fun c => (c, cb + off / 256 / l.length * 256 + off % 256)

/-- The local area that holds an address, among those of the M-dies `ds`, of which the first starts at `base` (R359, R360). -/
def State.placeLocal (s : State) (a : Nat) : (ds : List Nat) → (base : Nat) → Option (Nat × Nat)
  | [], _ => none
  | d :: ds, base =>
    let l := s.usableChansOf d
    let size := l.length * s.dev.lu * 2 ^ 29
    if a < base + size then placeIn l (a - base) ((45 - s.dev.lu) * 2 ^ 29) else s.placeLocal a ds (base + size)

/-- R360: the channel and the channel address of a DRAM address. -/
def State.dramPlace (s : State) (a : Nat) : Option (Nat × Nat) :=
  let all := s.usableChans
  let ib := all.length * (45 - s.dev.lu) * 2 ^ 29
  if a < ib then placeIn all a 0 else s.placeLocal a [0, 1, 2, 3] ib

/-- R360: the channel that drives a DRAM address. -/
def State.chanOf (s : State) (a : Nat) : Option Nat := (s.dramPlace a).map (·.1)

/-! ### Memory that exists -/

/-- The channel that drives an address is that of an M-die whose modules have both gone down (R356). -/
def State.goneAt (s : State) (a : Nat) : Bool :=
  match s.chanOf a with
  | some c => if h : c / 8 < 4 then s.mdie[c / 8].gone else false
  | none => false

/-- Bytes a to a + n − 1 lie in DRAM in use: within the window, and driven by M-dies that can be reached (R356, R358). -/
def State.inDram (s : State) (a n : Nat) : Bool :=
  decide (a + n ≤ s.dramEnd) &&
    !(s.mdie.toList.any (·.gone) && (List.range ((a + n + 255) / 256 - a / 256)).any fun i => s.goneAt (256 * (a / 256 + i)))

/-- The whole range lies in memory that R358 says exists; otherwise an access fails with MEM_ADDR_BAD. -/
def State.addrOk (s : State) (a n : Nat) : Bool := s.inDram a n || s.inSpad a n || inStore a n

/-- The range touches the device area (R361): the first GiB. -/
def inDevArea (a : Nat) : Bool := decide (a < 2 ^ 30)

/-- The M-die that serves a device address: the channel's for DRAM, the slice's for scratchpad. -/
def State.mdieOf (s : State) (a : Nat) : Option (Fin 4) :=
  if s.inDram a 1 then
    match s.chanOf a with
    | some c => if h : c / 8 < 4 then some ⟨c / 8, h⟩ else none
    | none => none
  else if s.inSpadOf 0 a 1 then some 0
  else if s.inSpadOf 1 a 1 then some 1
  else if s.inSpadOf 2 a 1 then some 2
  else if s.inSpadOf 3 a 1 then some 3
  else none

/-! ### Regions and keys -/

/-- A region covers bytes a to a + n − 1. -/
def Region.covers (g : Region) (a n : Nat) : Bool :=
  g.valid && decide (g.base * 4096 ≤ a) && decide (a + n ≤ (g.base + g.size) * 4096)

/-- The context table's entry. -/
def State.ctxOf (s : State) (c : Nat) : Ctx := slook {} s.ctx.ctxs c

/-- Regions of a context that carry its own key (15 R509): private ones of a profile context, writable ones of a session
context that is LIVE or CLOSING. -/
def Ctx.keyed (npctx c : Nat) (x : Ctx) (a : Nat) : Bool :=
  if c ≤ npctx then (x.regions.zip x.priv).any fun p => p.2 && p.1.covers a 1
  else x.state ≠ .free && x.regions.any fun g => g.wr && g.covers a 1

/-- The key of a DRAM line (15 R509), numbered: the session master's ordinal, and 0 for the device key or a number made of
the context and its generation. -/
def State.keyTag (s : State) (line : Nat) : Nat :=
  let m := b2n s.sec.debug * 2 ^ 64
  match s.ctx.ctxs.find? fun e => e.2.keyed s.ctx.npctx e.1 (64 * line) with
  | some (c, x) => m + 1 + x.gen.toNat * 2 ^ 20 + c
  | none => m

/-- A DRAM line decrypts to what was written into it: it was last written under the key that its address has now. -/
def State.keyOk (s : State) (line : Nat) : Bool :=
  decide (s.dramEnd ≤ 64 * line) || decide (slook 0 s.lineKey line = s.keyTag line)

/-! ### Poison and quarantine -/

/-- A line's 4 KiB block is under quarantine on some M-die (R368). -/
def State.quarantined (s : State) (line : Nat) : Bool :=
  s.mdie.toList.any fun m => m.quar.any fun q => q.block == line / 64

/-- A read of the line delivers it with the poison mark (R362, R368). -/
def State.poisoned (s : State) (line : Nat) : Bool := s.poison.contains line || s.quarantined line

/-- Lines that bytes a to a + n − 1 touch. -/
def linesOf (a n : Nat) : List Nat := if n = 0 then [] else (List.range ((a + n - 1) / 64 - a / 64 + 1)).map (a / 64 + ·)

/-- Some byte of the range lies in a line that is delivered poisoned. -/
def State.poisonedRange (s : State) (a n : Nat) : Bool := (linesOf a n).any s.poisoned

/-! ### The LLC (R371, R372, R385) -/

/-- A counter counts one event when `on` says so. -/
def Perf.tick (p : Perf) (on : Bool) : Perf :=
  let full := p.count == BitVec.allOnes 48
  { count := if full then p.count else p.count + BitVec.ofNat 48 (b2n on), ovf := p.ovf || (full && on) }

/-- That event is the first that the counter loses. -/
def Perf.loses (p : Perf) (on : Bool) : Bool := p.count == BitVec.allOnes 48 && !p.ovf && on

/-- Sets of the cache of a slice: what the scratchpad leaves of 48 MiB, in 16 ways of 64-byte lines (R372). -/
def MDie.sets (m : MDie) : Nat := (12 - m.spad) * 0x400000 / (16 * 64)

/-- The cache holds a line. -/
def MDie.caches (m : MDie) (line : Nat) : Bool := m.cache.any fun e => e.1 == line

/-- A line takes way `w` of its set, and what held that way leaves (R372). -/
def MDie.allocate (m : MDie) (line w : Nat) : MDie :=
  let set := Config.llcSet m.sets line % m.sets
  { m with cache := (m.cache.filter fun e => !(e.2 == w && Config.llcSet m.sets e.1 % m.sets == set)) ++ [(line, w)] }

/-- Ways from `w` on are written back, invalidated and gated (R373; 17 R580). -/
def MDie.gateWays (m : MDie) (w : Nat) : MDie := { m with ways := w, cache := m.cache.filter fun e => decide (e.2 < w) }

/-- An access to a DRAM line passes through the slice of its M-die, where it hits or misses and, with `alloc`, brings the line in. Without
a cache every access misses. -/
def State.llcLine (alloc : Bool) (s : State) (line : Nat) : State :=
  if !s.inDram (64 * line) 64 then s
  else
    match s.mdieOf (64 * line) with
    | none => s
    | some d =>
      let m := s.mdie[d]
      let hit := m.caches line
      let s := if hit || !alloc || m.sets == 0 then s
        else s.modMdie d fun m => m.allocate line (Config.llcWay s.fresh line % m.ways)
      if s.perfHeld then s
      else
        let s := s.modMdie d fun m => { m with hit := m.hit.tick hit, miss := m.miss.tick !hit }
        (s.perfOvf (m.hit.loses hit) 2 d (0x200040 + d.val * 0x40000)).perfOvf (m.miss.loses !hit) 2 d (0x200048 + d.val * 0x40000)

/-- An access to `n` bytes of an NMU, a barge, the host or a coupling port; without `alloc`, one that R372 keeps from allocating. -/
def State.llc (s : State) (a n : Nat) (alloc : Bool := true) : State := (linesOf a n).foldl (State.llcLine alloc) s

/-- The key map has changed from that of `old`: lines whose key is another leave the caches (15 R510). -/
def State.keysMoved (s old : State) : State :=
  { s with mdie := s.mdie.map fun m => { m with cache := m.cache.filter fun e => old.keyTag e.1 == s.keyTag e.1 } }

/-! ### Reads and writes -/

/-- One byte as a read delivers it; under a wrong key it is unspecified (15 R511). -/
def State.byte (s : State) (a : Nat) : Byte :=
  if s.keyOk (a / 64) then slook 0 s.mem a else Config.unspecByte s.fresh a

/-- `n` bytes from `a`. -/
def State.read (s : State) (a n : Nat) : List Byte := (List.range n).map fun i => s.byte (a + i)

/-- A little-endian number of `n` bytes (00 R6). -/
def State.readNat (s : State) (a n : Nat) : Nat := leNat (s.read a n)

/-- Put bytes into the memory map. -/
def putBytes (m : List Host.Cell) (a : Nat) : List Byte → List Host.Cell
  | [] => m
  | b :: bs => putBytes (sput 0 m a b) (a + 1) bs

/-- A line whose bytes are unspecified under the present key takes those bytes as its contents before a part of it is
written. -/
def State.settleLine (s : State) (line : Nat) : State :=
  if s.keyOk line then s else { s with mem := putBytes s.mem (64 * line) (s.read (64 * line) 64) }

/-- The M-dies that drive a line of a block (R368). -/
def State.blockDies (s : State) (block : Nat) : List (Fin 4) :=
  ((List.range 64).filterMap fun i => s.mdieOf (4096 * block + 64 * i)).eraseDups

/-- The lines of a block that an M-die drives. -/
def State.blockLinesOf (s : State) (block : Nat) (d : Fin 4) : List Nat :=
  ((List.range 64).filter fun i => s.mdieOf (4096 * block + 64 * i) == some d).map (64 * block + ·)

/-- An M-die's entry for a block after a line of it was rewritten (R368): recorded, and removed when every line that the
M-die drives has been. -/
def MDie.rewrite (m : MDie) (line : Nat) (mine : List Nat) : MDie :=
  { m with quar := m.quar.filterMap fun q =>
      if q.block = line / 64 then
        let q' := { q with rewritten := if mine.contains line then setIns line q.rewritten else q.rewritten }
        if mine.all q'.rewritten.contains then none else some q'
      else some q }

/-- A whole-line write into a quarantined block (R368): the entries are updated, and the M-die that removes the last one
raises MEM_QUAR_CLEAR. -/
def State.rewritten (s : State) (line : Nat) : State :=
  if s.quarantined line then
    let go (s : State) (d : Fin 4) : State := s.modMdie d fun m => m.rewrite line (s.blockLinesOf (line / 64) d)
    let s := [0, 1, 2, 3].foldl go s
    if s.quarantined line then s
    else s.raise { code := 0x0306, kind := 2, part := ((s.mdieOf (64 * line)).getD 0).val, addr := line / 64 * 4096 }
  else s

/-- Write bytes that lie within one line (R365): a whole line replaces data and mark; a part keeps the mark; poisoned data
sets it. The line is then under the present key of its address. -/
def State.writeLine (s : State) (a : Nat) (bs : List Byte) (poison : Bool) : State :=
  let line := a / 64
  let whole := decide (bs.length = 64)
  let s := if whole then s else s.settleLine line
  let s := { s with
    mem := putBytes s.mem a bs
    poison := if poison then setIns line s.poison else if whole then setDel line s.poison else s.poison
    lineKey := if 64 * line < s.dramEnd then sput 0 s.lineKey line (s.keyTag line) else s.lineKey }
  if whole then s.rewritten line else s

/-- The loop of `State.write`, at most `fuel` lines. -/
def State.writeGo (s : State) (a : Nat) (bs : List Byte) (poison : Bool) : (fuel : Nat) → State
  | 0 => s
  | f + 1 =>
    if bs.isEmpty then s
    else
      let k := 64 - a % 64
      (s.writeLine a (bs.take k) poison).writeGo (a + k) (bs.drop k) poison f

/-- Write bytes from `a`, line by line (R365). -/
def State.write (s : State) (a : Nat) (bs : List Byte) (poison : Bool := false) : State :=
  s.writeGo a bs poison (bs.length / 64 + 2)

/-- Write a little-endian number of `n` bytes. -/
def State.writeNat (s : State) (a n x : Nat) (poison : Bool := false) : State := s.write a (leBytes n x) poison

end Sys2Proof.Machine
end

