-- ==== Sys2Proof/Machine/Post.lean ====
section
/-! DEFINITION. Completion records and their posting into egress rings (10 R328 to R331), and the end of a step that fails or
is aborted (10 R319, R333; 11 R366, R367; 16 R555). -/

namespace Sys2Proof.Machine

/-- An egress ring. -/
def State.egrRing (s : State) (e : Nat) : EgrRing := slook {} s.lkp.egr e

/-- Change an egress ring. -/
def State.modEgr (s : State) (e : Nat) (f : EgrRing → EgrRing) : State :=
  { s with lkp := { s.lkp with egr := sput {} s.lkp.egr e (f (slook {} s.lkp.egr e)) } }

/-- R328: the ring is full when TAIL − HEAD equals its size. -/
def EgrRing.full (g : EgrRing) : Bool := decide ((g.tail - g.head).toNat ≥ 2 ^ g.size.toNat)

/-- The 64 bytes of a completion record (R329). -/
def ComplRec.bytes (r : ComplRec) : List Byte :=
  leBytes 8 r.ts.toNat ++ leBytes 4 r.seq.toNat ++ leBytes 1 r.typ ++ leBytes 1 r.status ++ leBytes 2 r.job ++
    leBytes 4 (r.ctx % 2 ^ 20) ++ leBytes 4 r.gen.toNat ++ leBytes 8 r.step.toNat ++ leBytes 8 r.tag.toNat ++
    leBytes 2 r.ring ++ leBytes 2 0 ++ leBytes 4 r.head.toNat ++ leBytes 2 r.event.toNat ++ leBytes 1 r.rerun ++
    leBytes 1 0 ++ leBytes 4 r.shards ++ leBytes 8 r.result.toNat

/-- Write a record into its ring: one 64-byte posted write, then TAIL advances (R328). SEQ is the record's index. -/
def State.writeRecord (s : State) (r : ComplRec) : State :=
  let g := s.egrRing r.egr
  let s := s.send (.hostWrite (g.base.toNat + 64 * (g.tail.toNat % 2 ^ g.size.toNat)) { r with seq := g.tail }.bytes)
  s.modEgr r.egr fun g => { g with tail := g.tail + 1 }

/-- An MSI-X vector is raised: its pending bit where the vector or the function is masked, else one message (13 R436), which a link that
is down does not carry. -/
def State.msix (s : State) (v : Nat) : State :=
  if !s.pci.msixEn then s
  else if s.pci.fmask || !s.pci.unmasked.contains v then { s with pci := { s.pci with pend := setIns v s.pci.pend } }
  else if s.pci.up then s.send (.msix v)
  else s

/-- A slot of a job is in progress on some unit. -/
def State.slotActive (s : State) (j : Nat) : Bool :=
  let on (u : Unit) : Bool := (u.slot.map fun a => a.slot.job == j && (a.slot.kind == 1 || a.slot.kind == 2)).getD false
  s.reach.toList.any (fun x => on x.u) || s.nmu.toList.any (fun x => on x.u)

/-- A vector is due (R331, 16 R560): at the next lock point that ends a slot of job `j`, with `j` = 0xFFFF at the next of the device, or
at once while no schedule is in force (R624). -/
def State.dueVec (s : State) (v j : Nat) : State :=
  if !s.lkp.inForce then s.msix v
  else
    let v := (v, j)
    { s with lkp := { s.lkp with vectors := if s.lkp.vectors.contains v then s.lkp.vectors else s.lkp.vectors ++ [v] } }

/-- The vector of an enabled egress ring is due (R331). -/
def State.dueVector (s : State) (e j : Nat) : State :=
  let g := s.egrRing e
  if g.enable then s.dueVec g.vector.toNat j else s

/-- A record can be written at once: the link is up (13 R438), the ring is enabled, not full and has no record held before it (R328). -/
def State.canWrite (s : State) (e : Nat) : Bool :=
  let g := s.egrRing e
  s.pci.up && g.enable && !g.full && !s.lkp.held.any (fun h => h.egr == e)

/-- The job whose slot's end signals a record (R331): the records of a committing step at the commit point, those of R323 at the next
lock point of the device, any other at the end of the slot of its job that is in progress. -/
def State.signalJob (s : State) (r : ComplRec) : Nat :=
  if r.typ = 0 && r.status == 0 then r.job
  else if r.typ = 0 && r.status == 3 then 0xFFFF
  else if s.slotActive r.job then r.job else 0xFFFF

/-- Post a completion record (R328): written, held in staging, or dropped when staging is full. -/
def State.post (s : State) (r : ComplRec) : State :=
  let s := s.dueVector r.egr (s.signalJob r)
  if s.canWrite r.egr then s.writeRecord r
  else if s.lkp.held.length < 4096 then
    { s with lkp := { s.lkp with held := s.lkp.held ++ [r], full := stick32 s.lkp.full 1 } }
  else
    s.raise { code := 0x0411, job := r.job, ctx := ((s.job? r.job).map (·.ctx)).getD 0, kind := 6, d0 := r.tag.toNat, d1 := r.status }

/-- Held records of a ring go out in order as room appears and the link is up (R328; 13 R438), at most `fuel` of them. -/
def State.drainHeld (s : State) (e : Nat) : (fuel : Nat) → State
  | 0 => s
  | f + 1 =>
    let g := s.egrRing e
    match s.lkp.held.find? fun h => h.egr == e with
    | some r =>
      if s.pci.up && g.enable && !g.full then
        let s := { s with lkp := { s.lkp with held := s.lkp.held.erase r } }
        ((s.writeRecord r).dueVector e 0xFFFF).drainHeld e f
      else s
    | none => s

/-- The record of a step for one member, or for the step without members (R329). -/
def stepRecord (s : State) (j : Nat) (e : JobE) (x : StepRun) (m : Option Member) (status : Nat) (event : W16)
    (result : W64) : ComplRec :=
  { egr := e.egr, ts := s.stamp s.time, status, job := j
    ctx := (m.map (·.ctx)).getD e.ctx
    gen := (m.map (·.gen)).getD 0
    step := x.no
    tag := (m.map (·.tag)).getD 0
    ring := (m.map (·.ring)).getD 0xFFFF
    head := (m.map (·.head)).getD 0
    event
    rerun := min x.reruns 15 * 16 + min x.denials 15
    shards := x.shards
    result }

/-- One record for each member, or a single one (R319). -/
def State.postAll (s : State) (j : Nat) (e : JobE) (x : StepRun) (status : Nat) (event : W16) : State :=
  match x.members with
  | [] => s.post (stepRecord s j e x none status event 0)
  | ms => ms.foldl (fun s m => s.post (stepRecord s j e x (some m) status event 0)) s

/-- A resource is still at work on a job's step. -/
def State.working (s : State) (j : Nat) (k : Nat) : Bool :=
  match resOf k with
  | some r => (s.unit r).job == j && ((s.unit r).run == .running || (s.unit r).run == .fd1)
  | none => false

/-- When the last resource of a step that has been stopped stands still, its records are posted and the step is over
(R319, R333, 16 R555). -/
def State.endStopped (s : State) (j : Nat) : State :=
  match (s.jobRun j).step, s.job? j with
  | some x, some e =>
    if x.stop = .none || (List.range 20).any (s.working j) then s
    else
      let s := match x.stop with
        | .failed ev => s.postAll j e x 2 ev
        | .aborted => s.postAll j e x 1 0
        | .flagged => s.postAll j e x 6 0
        | .none => s
      s.modJob j fun r => { r with step := none, failed := r.failed ++ [x.no] }
  | _, _ => s

/-- A step is marked as stopped; the first reason stands. -/
def State.stopStep (s : State) (j : Nat) (w : StepEnd) : State :=
  s.modStep j fun x => if x.stop = .none then { x with stop := w } else x

/-- Clear the open groups of a reach and close them without output (04 R120). Slot updates still owed find their group
closed: they touch no slot. -/
def Reach.dropGroups (x : Reach) : Reach :=
  let cells (g : Grp) : Nat × Nat :=
    let w := if g.cls = 0 then 1 else if g.cls = 1 then 2 else 4
    (g.slot * w, (g.slot + g.n) * w + if g.chk then g.n else 0)
  let open_ := x.grps.toList.filter (·.isOpen)
  let hit (cell : Nat) : Bool := open_.any fun g => decide ((cells g).1 ≤ cell) && decide (cell < (cells g).2)
  { x with
    grps := Vector.replicate 8 {}
    bank :=
      { words := x.bank.words.filter fun e => !hit (e.1 % 512 / 2)
        flags := x.bank.flags.filter fun e => !hit (e.1 % 256)
        cnts := x.bank.cnts.filter fun e => !hit e.1 } }

/-- A unit's segment stops on a fault (02 R40, 04 R120): the sequencer stops, unissued tile words go, open groups close. -/
def State.stopUnit (s : State) (r : Res) : State :=
  let s := s.modU r fun u => { u with run := .stopped, wait := .none }
  match r with
  | .reach n => s.modReach n fun x => { x.dropGroups with tq := [] }
  | .nmu _ => s

/-- A step fails on a unit (R40, R319): the event's record is raised with the job, context and unit, the segment stops there,
and the step is marked failed. -/
def State.failOn (s : State) (r : Res) (e : Ev) : State :=
  let u := s.unit r
  let src := resSource r
  let s := s.raise { e with job := u.job, ctx := u.ctx, kind := src.1, part := src.2 }
  ((s.stopUnit r).stopStep u.job (.failed (BitVec.ofNat 16 e.code))).endStopped u.job

/-- The first poisoned line that any agent delivers to a job's step is kept (11 R367). -/
def State.notePoison (s : State) (j a n : Nat) : State :=
  match (linesOf a n).find? s.poisoned with
  | some line => s.modStep j fun x => if x.poison.isNone then { x with poison := some (64 * line) } else x
  | none => s

/-- A job consumes poison on a unit (11 R366, R367). -/
def State.consumePoison (s : State) (r : Res) : State :=
  let u := s.unit r
  match (s.jobRun u.job).step with
  | some x =>
    if x.stop ≠ .none then (s.stopUnit r).endStopped u.job else s.failOn r { code := 0x0303, addr := x.poison.getD 0 }
  | none => s.failOn r { code := 0x0303 }

/-- The lowest-numbered reach among a step's resources, where the kernel writes the reply words (10 R315). -/
def replyReach (x : StepRun) : Option Nat := x.res.find? (· < 16)

/-- Device address of member i's reply word (10 R315). -/
def replyAddr (e : JobE) (n i : Nat) : Nat := storeBase n + e.argRs + 64 + 64 * e.argMax + 8 * i

/-- Post the OK records of a step: each carries its member's reply word (10 R318, R329). -/
def State.postOk (s : State) (j : Nat) (e : JobE) (x : StepRun) : State :=
  match x.members with
  | [] => s.post (stepRecord s j e x none 0 0 0)
  | ms =>
    (ms.foldl (fun (p : State × Nat) m =>
      let w := match replyReach x with
        | some n => BitVec.ofNat 64 (p.1.readNat (replyAddr e n p.2) 8)
        | none => 0
      (p.1.post (stepRecord p.1 j e x (some m) 0 0 w), p.2 + 1)) (s, 0)).1

/-- A member's reply word is poisoned (11 R366). -/
def replyPoisoned (s : State) (e : JobE) (x : StepRun) : Bool :=
  match replyReach x with
  | some n => (List.range x.members.length).any fun i => s.poisonedRange (replyAddr e n i) 8
  | none => false

/-- A step fails where no unit raised the event: its record is raised by the lockkeeper (KIND 6). -/
def State.failStep (s : State) (j : Nat) (ev : Ev) : State :=
  let s := s.raise { ev with job := j, ctx := ((s.job? j).map (·.ctx)).getD 0, kind := 6 }
  (s.stopStep j (.failed (BitVec.ofNat 16 ev.code))).endStopped j

/-- A sampled tile of a job's step waits for its decision (16 R542). -/
def State.dupOpen (s : State) (j : Nat) (no : W64) : Bool :=
  s.reach.toList.any fun x => x.dups.any fun d => d.job == j && d.step == no

/-- When every resource of a step has executed END and every sampled tile of it is decided, the lockkeeper posts the completion
records (10 R318, 16 R542), unless a reply word is poisoned: then the job consumes the poison (11 R366, R367). -/
def State.tryPost (s : State) (j : Nat) : State :=
  match (s.jobRun j).step, s.job? j with
  | some x, some e =>
    if x.stop ≠ .none || x.posted || !x.res.all x.ended.contains then s.endStopped j
    else if s.dupOpen j x.no then s
    else if replyPoisoned s e x then
      let lines := match replyReach x with
        | some n => (List.range x.members.length).foldl (fun (t : State) i => t.notePoison j (replyAddr e n i) 8) s
        | none => s
      lines.failStep j { code := 0x0303, addr := (((lines.jobRun j).step.bind (·.poison))).getD 0 }
    else (s.postOk j e x).modStep j fun x => { x with posted := true }
  | _, _ => s

/-- A resource has executed END (10 R318). -/
def State.stepEnd (s : State) (j k : Nat) : State :=
  (s.modStep j fun x => { x with ended := setIns k x.ended }).tryPost j

end Sys2Proof.Machine
end

