-- ==== Sys2Proof/Machine/Operands.lean ====
section
/-! DEFINITION. The operand forms of control-stream words (07 R221 to R223), the frame of their dispatch (R235, R237, R246,
R625), the addresses of a unit (R223, 09 R273, 11 R374), decoding and writing of elements (R216, R217, R224) and the first-NaR
report (08 R264). -/

namespace Sys2Proof

open Machine (bits bitAt sbits)

/-! ### Fields of bits [29:0] (R222) -/

/-- FMT_S of layout V, FMT of layout M. -/
def CtlWord.fmtS (w : CtlWord) : Nat := bits w.low.toNat 26 4
/-- FMT_D of layout V. -/
def CtlWord.fmtD (w : CtlWord) : Nat := bits w.low.toNat 22 4
/-- OVF of layout V. -/
def CtlWord.ovf (w : CtlWord) : Bool := bitAt w.low.toNat 21
/-- QS of layout V. -/
def CtlWord.qs (w : CtlWord) : Int := sbits w.low.toNat 15 6
/-- QD of layout V. -/
def CtlWord.qd (w : CtlWord) : Int := sbits w.low.toNat 9 6
/-- X of layout V. -/
def CtlWord.x (w : CtlWord) : Nat := bits w.low.toNat 0 9
/-- BS of class 0x4. -/
def CtlWord.bs (w : CtlWord) : Bool := bitAt w.x 8
/-- IMM of layout M, a signed byte offset. -/
def CtlWord.immM (w : CtlWord) : Int := sbits w.low.toNat 4 22
/-- IMM of layout I. -/
def CtlWord.immI (w : CtlWord) : Int := sbits w.low.toNat 0 30
/-- COND of layout J. -/
def CtlWord.cond (w : CtlWord) : Nat := bits w.low.toNat 27 3
/-- OFF of layout J. -/
def CtlWord.off (w : CtlWord) : Int := sbits w.low.toNat 0 27
/-- INDEX of layout T. -/
def CtlWord.index (w : CtlWord) : Nat := bits w.low.toNat 14 16
/-- IMM of layout Q. -/
def CtlWord.immQ (w : CtlWord) : Nat := bits w.low.toNat 0 16

/-- The unit is an NMU. -/
def Res.isNmu : Res → Bool
  | .reach _ => false
  | .nmu _ => true

end Sys2Proof

namespace Sys2Proof.Machine

/-! ### Legality of a word (R221, R222, R223, R245, R246) -/

/-- What a register field of a word names: nothing, a scalar register, a vector register, the first of three vector
registers, or whatever it holds. -/
inductive Use where
  | no | sc | ve | ve3 | free
  deriving DecidableEq, Repr

/-- The class layout with its own reserved bits; `v` says which values of X are legal. -/
inductive Layout where
  | v (xok : Nat → Bool)
  | m | imm | reg | j | t | q

/-- The operand form of an instruction. `nmu`: an NMU executes it (R244). -/
structure Form where
  d : Use := .no
  a : Use := .no
  b : Use := .no
  c : Use := .no
  lay : Layout
  nmu : Bool := true

/-- A register field is legal (R221, R245). -/
def useOk (nmu : Bool) (u : Use) (k : BitVec 6) : Bool :=
  match u with
  | .no => k == 0
  | .sc => decide (k.toNat < 32)
  | .ve => !nmu || decide (k.toNat < 32)
  | .ve3 => decide (k.toNat + 2 < 64)
  | .free => true

/-- R223: a code scale lies in its range and is zero for a format that is not an integer code. -/
def scaleOk (fmt : Nat) (q : Int) : Bool :=
  decide (-24 ≤ q) && decide (q ≤ 16) && (decide (q = 0) || ((Fmt.ofCode fmt).map Fmt.isInt).getD false)

/-- The layout's reserved bits and ranges are kept. -/
def layOk (lay : Layout) (w : CtlWord) : Bool :=
  match lay with
  | .v xok => xok w.x && scaleOk w.fmtS w.qs && scaleOk w.fmtD w.qd
  | .m => bits w.low.toNat 0 4 == 0
  | .imm => true
  | .reg => w.low == 0
  | .j => w.cond != 7
  | .t => bits w.low.toNat 0 14 == 0
  | .q => bits w.low.toNat 16 14 == 0

/-- The word keeps every rule of R221 to R223 and R244, R245 that VEC_ILLEGAL enforces on its fields. -/
def wordOk (r : Res) (f : Form) (w : CtlWord) : Bool :=
  useOk r.isNmu f.d w.d && useOk r.isNmu f.a w.a && useOk r.isNmu f.b w.b && useOk r.isNmu f.c w.c && layOk f.lay w &&
    (f.nmu || !r.isNmu)

/-! ### Formats -/

/-- A format of the vector engine: any of R38. -/
def fmtV (k : Nat) : Bool := (Fmt.ofCode k).isSome

/-- A format of the SFU (05 R153): any of R38 but fp32. -/
def fmtSfu (k : Nat) : Bool := match Fmt.ofCode k with | some f => f ≠ .fp32 | none => false

/-- The format of a code; a code that has none never gets here. -/
def fmtOf (k : Nat) : Fmt := (Fmt.ofCode k).getD .p8

/-! ### Addresses of a unit -/

/-- The device address of an address that a unit's instruction forms: a reach names its own store, an NMU device memory. -/
def unitAddr (r : Res) (a : Nat) : Nat :=
  match r with
  | .reach n => storeBase n + a
  | .nmu _ => a

/-- An access lies where the unit's segment may make it: for a reach inside its store and the job's region, writes outside the
image area (R242, 11 R374); for an NMU within one window (09 R273). -/
def State.accOk (s : State) (r : Res) (a n : Nat) (wr : Bool) : Bool :=
  match r with
  | .reach k =>
    let u := s.reach[k].u
    decide (a + n ≤ storeSize) && decide (u.rsBase ≤ a) && decide (a + n ≤ u.rsBase + u.rsLen) &&
      (!wr || decide (a + n ≤ u.kbase) || decide (u.kbase + u.imgLen ≤ a))
  | .nmu d => s.nmu[d].wins.any fun w => decide (w.1 ≤ a) && decide (a + n ≤ w.2 + 1)

/-- An access that reads: a poisoned line is reported to the lockkeeper (11 R367); what a DRAM line under another key
delivers is a free value (15 R511). -/
def State.touch (s : State) (r : Res) (a n : Nat) : State :=
  let s := s.notePoison (s.unit r).job (unitAddr r a) n
  if r.isNmu then (s.llc a n).bump else s

/-- Two byte spans [lo, hi) share a byte. -/
def overlap (p q : Nat × Nat) : Bool := decide (p.1 < q.2) && decide (q.1 < p.2) && decide (p.1 < p.2) && decide (q.1 < q.2)

/-- A poisoned element that an NMU writes into a shard is remembered until the next CHECK (09 R290). -/
def State.noteShardPoison (s : State) (r : Res) (a n : Nat) : State :=
  match r with
  | .nmu d =>
    if s.nmu[d].areas.any fun g => overlap (g.1, g.1 + g.2) (a, a + n) then s.modNmu d fun x => { x with poisonW := true } else s
  | .reach _ => s

/-- A store of a unit; an NMU's goes through the LLC (09 R274). -/
def State.store (s : State) (r : Res) (a : Nat) (bs : List Byte) (p : Bool) : State :=
  let s := s.write (unitAddr r a) bs p
  let s := if p then s.noteShardPoison r a bs.length else s
  if r.isNmu then s.llc a bs.length else s

/-- A 64-bit register plus an offset, as an address. -/
def addrPlus (x : W64) (i : Int) : Nat := ((x.toNat + i) % (2 ^ 64 : Nat)).toNat

/-! ### Spans and the tile queue (R237) -/

/-- Element size of a tile format code: 16-bit formats double the 8-bit column, 4-bit formats halve it (03 R76). -/
def bytesOf (fmt n : Nat) : Nat :=
  match Fmt.ofCode fmt with
  | some f => if f.width = 4 then (n + 1) / 2 else n * (f.width / 8)
  | none => n

/-- The read spans and write spans of a tile word over the reach store (03 R84, R86, R88; 04 R127, R129, R132, R138, R144).
`g` gives the group that a CLOSE or FWPW will find. -/
def tileSpans (g : Nat → Grp) (x : Nat) : List (Nat × Nat) × List (Nat × Nat) :=
  let rows := bits x 72 8
  match bits x 124 4 with
  | 1 =>
    let a := bits x 42 22
    ([(a, a + rows * (bits x 30 12 * 32) + bytesOf (bits x 116 4) (bits x 65 7 + 1))], [])
  | 2 =>
    let a := bits x 42 22
    ([(a, a + (bits x 80 8 + 1) * bytesOf (bits x 112 4) 128)], [])
  | 3 =>
    let a := bits x 50 22
    let b := bits x 28 22
    let n := bits x 92 8 + 1
    ([(a, a + rows * (bits x 16 12 * 32) + bytesOf (bits x 116 4) n),
      (b, b + rows * (bits x 4 12 * 32) + bytesOf (bits x 112 4) n)], [])
  | 5 =>
    let gr := g (bits x 88 3)
    let o := bits x 50 22
    let st := bits x 28 22
    let parts := (if bits x 122 2 ≠ 0 then [(0, 8)] else []) ++ (if bitAt x 120 then [(32, 128)] else []) ++
      (if bitAt x 119 then [(128, 224)] else []) ++ (if bitAt x 117 then [(256, 256 + 4 * (bits x 80 8 + 1))] else [])
    (if gr.xs then [(gr.xaddr, gr.xaddr + 512)] else [],
     (o, o + (gr.n - 1) * (bits x 16 12 * 32) + bytesOf gr.fmtO (bits x 80 8 + 1)) ::
       (match parts.head?, parts.getLast? with
        | some p, some q => [(st + p.1, st + (gr.n - 1) * 1280 + q.2)]
        | _, _ => []))
  | 6 =>
    let gr := g (bits x 88 3)
    let o := bits x 42 22
    (if gr.xs then [(gr.xaddr, gr.xaddr + 512)] else [], [(o, o + gr.n * (bits x 80 8 + 1) * 96)])
  | 7 =>
    let a := bits x 42 22
    if bitAt x 123 then ([(a, a + (bits x 64 16 + 1) * 8)], [])
    else ([(a, a + (g (bits x 88 3)).n * (bits x 80 8 + 1) * 96)], [])
  | _ => ([], [])

/-- The group that a queued word will find: the one that the last OPEN before it in the queue opens, else the reach's. -/
def groupAt (x : Reach) (before : List TileEntry) (k : Nat) : Grp :=
  match before.reverse.find? fun e => bits e.word.toNat 124 4 == 4 && bits e.word.toNat 88 3 == k with
  | some e =>
    { isOpen := true, cls := bits e.word.toNat 122 2, chk := bitAt e.word.toNat 121, xs := bitAt e.word.toNat 120,
      fmtO := bits e.word.toNat 116 4, slot := bits e.word.toNat 80 8, n := bits e.word.toNat 72 8 + 1,
      xaddr := bits e.word.toNat 42 22 }
  | none => x.grps[k]?.getD {}

/-- The one span of R237 over what an instruction reads or writes: from the lowest byte to the highest. Areas without a byte do not
count. -/
def hull (l : List (Nat × Nat)) : Nat × Nat :=
  (l.filter fun p => decide (p.1 < p.2)).foldl
    (fun m p => if m.1 < m.2 then (min m.1 p.1, max m.2 p.2) else p) (0, 0)

/-- The loop of `tileHazard`: `rd` and `wr` are the spans of the control-stream instruction. -/
def hazardGo (x : Reach) (rd wr : Nat × Nat) (before : List TileEntry) : List TileEntry → Bool
  | [] => false
  | e :: es =>
    let t := tileSpans (groupAt x before) e.word.toNat
    overlap (hull t.2) rd || overlap (hull t.2) wr || overlap (hull t.1) wr || hazardGo x rd wr (before ++ [e]) es

/-- R237: the read span or the write span of an instruction of the control stream conflicts with that of a queued tile instruction. -/
def tileHazard (x : Reach) (rd wr : List (Nat × Nat)) : Bool := hazardGo x (hull rd) (hull wr) [] x.tq

/-! ### Dispatch -/

/-- The reach-store areas that an instruction reads and writes, as unit addresses; R237 takes one span over each list (`hull`). -/
structure Spans where
  rd : List (Nat × Nat) := []
  wr : List (Nat × Nat) := []

/-- A span meets activation bytes that a sampled tile has pinned (16 R540). -/
def Reach.pinned (x : Reach) (wr : List (Nat × Nat)) : Bool :=
  x.dups.any fun d => d.spans.any fun p => wr.any (overlap p)

/-- The sequencer can dispatch: the unit runs a segment, waits for nothing, and no hazard of R237 or pin of 16 R540 holds the
instruction. -/
def State.canDispatch (s : State) (r : Res) (sp : Spans) : Bool :=
  let u := s.unit r
  u.run == .running && u.wait == .none &&
    match r with
    | .reach n => !tileHazard s.reach[n] sp.rd sp.wr && !s.reach[n].pinned sp.wr
    | .nmu _ => true

/-- An instruction of a running reach that a hazard or a pin holds waits to dispatch: VE_DSTALL counts (R235, R247). -/
def State.heldBack (s : State) (r : Res) : State :=
  match r with
  | .reach n => if (s.unit r).run == .running && (s.unit r).wait == .none then s.countStall n .dispatch 1 else s
  | .nmu _ => s

/-- The word at `next` is dispatched: PC of R249 names it. -/
def State.fetched (s : State) (r : Res) : State := s.modU r fun u => { u with pc := BitVec.ofNat 17 u.next }

/-- A step fails on the instruction that the unit has dispatched: the record's ADDR is its PC (19 R617). -/
def State.failAt (s : State) (r : Res) (code : Nat) (d0 d1 d2 d3 : Nat := 0) : State :=
  s.failOn r { code, addr := (s.unit r).pc.toNat, d0, d1, d2, d3 }

/-- The dispatched instruction is done: the next word follows; falling through the end of the code area is VEC_ILLEGAL
(R234, R246). -/
def State.retire (s : State) (r : Res) : State :=
  let u := s.unit r
  let n := u.pc.toNat + 1
  if u.run ≠ .running then s
  else if n < u.codeLen then s.modU r fun u => { u with next := n }
  else s.failAt r 0x0111

/-- A control-stream instruction (R235, R246, R625). In order: it is held while it cannot dispatch, and VE_DSTALL counts where a
hazard holds it; a word that breaks its form, or that lies past the end of the code area, raises VEC_ILLEGAL; a poisoned scalar register that it uses as an operand of R218 is consumed; the first event of `chk`
fails the step; otherwise it acts. `key` lists the scalar registers of R218. -/
def ctl (r : Res) (f : Form) (w : CtlWord) (key : List (BitVec 6)) (spans : State → Spans) (chk : State → Option Nat)
    (eff : State → State) (s : State) : State :=
  if !s.canDispatch r (spans s) then s.heldBack r
  else
    let past := decide ((s.unit r).codeLen ≤ (s.unit r).next)
    let s := s.fetched r
    if past || !wordOk r f w then s.failAt r 0x0111
    else if key.any (s.unit r).xp then s.consumePoison r
    else
      match chk s with
      | some code => s.failAt r code
      | none => eff s

/-- An instruction without memory spans that retires when it has acted. -/
def ctlReg (r : Res) (f : Form) (w : CtlWord) (chk : State → Option Nat) (eff : State → State) (s : State) : State :=
  ctl r f w [] (fun _ => {}) chk (fun s => (eff s).retire r) s

/-! ### The first-NaR report (08 R264, R267) -/

/-- A trap event on a unit. The first of a segment of an armed job is reported to the lockkeeper; with NSTOP the reach stops
and the step fails. -/
def State.trapEvent (s : State) (r : Res) (t : TrapRep) : State :=
  match r with
  | .nmu _ => s
  | .reach n =>
    let u := s.unit r
    let j := u.job
    if !(s.jobRun j).armed || u.trap.isSome then s
    else
      let t := { t with ts := s.time, step := u.step }
      let s := s.modU r fun u => { u with trap := some t }
      let s := s.modJob j fun x => { x with traps := x.traps ++ [(n.val, t)] }
      if ((s.job? j).map JobE.nstop).getD false then
        ((s.stopUnit r).stopStep j (.failed 0x0115)).endStopped j
      else s

/-! ### Elements -/

/-- One element of a result: its pattern, poison, conversion events and NaN state. -/
structure Elem where
  pat     : Nat
  poison  : Bool := false
  clamp   : Bool := false
  narInt  : Bool := false
  nan     : Bool := false
  carried : Bool := false
  ranged  : Bool := false
  deriving DecidableEq, Repr

/-- Round an exact value once into an element (R224, 02 R61). `carried`: an operand was NaN or NaR. -/
def mkElem (f : Fmt) (q : Int) (ovf : Bool) (v : Val) (poison carried : Bool) : Elem :=
  let r := roundTo f q ovf v
  { pat := r.pat, poison, clamp := r.clamp, narInt := r.narInt, nan := patIsNan f r.pat, carried }

/-- The decoded value and poison of element i of a vector register, or of the low bits of a scalar register (BS, R224). -/
def Unit.val (u : Unit) (sc : Bool) (k : BitVec 6) (f : Fmt) (q : Int) (i : Nat) : Val × Bool :=
  if sc then (decode f q ((u.x k).toNat % 2 ^ f.width), u.xp k)
  else let e := u.v k i; (decode f q (e.1.toNat % 2 ^ f.width), e.2)

/-- The trap report of the first NaN element of a result. -/
def firstNan (pc part dst fmt : Nat) (es : List Elem) : Option TrapRep :=
  match es.findIdx? (·.nan) with
  | some i => some { pc, part, origin := !((es[i]?.map (·.carried)).getD false), lane := i, slot := dst, fmt }
  | none => none

/-- Trap if there is a report. -/
def State.trapIf (s : State) (r : Res) (t : Option TrapRep) : State :=
  match t with
  | some t => s.trapEvent r t
  | none => s

/-- Write a vector result: elements 0 up, with their conversion events and trap event (R216, R217, R224). -/
def State.writeVec (s : State) (r : Res) (part : Nat) (d : Nat) (fmt : Nat) (es : List Elem) : State :=
  let s := s.modU r fun u => u.setVs d 0 (es.map fun e => (BitVec.ofNat 32 e.pat, e.poison))
  let s := s.countCvt r (es.countP (·.clamp)) (es.countP (·.narInt))
  let s := s.countRange r (es.countP (·.ranged))
  s.trapIf r (firstNan (s.unit r).pc.toNat part d fmt es)

/-- Cycles that the vector unit is occupied (R236, R245, R247; 09 R301): `k` groups of 64, or of 32 on an NMU. -/
def State.vecBusy (s : State) (r : Res) (per : Nat) : State :=
  let vl := (s.unit r).vl.toNat
  match r with
  | .reach n => s.countPerf n (per * ((vl + 63) / 64)) 0x400 (·.veBusy) fun p x => { p with veBusy := x }
  | .nmu d => s.countNmu d (per * ((vl + 31) / 32))

/-- The same for a fixed number of cycles of a reach. -/
def State.vecBusyK (s : State) (r : Res) (k : Nat) : State :=
  match r with
  | .reach n => s.countPerf n k 0x400 (·.veBusy) fun p x => { p with veBusy := x }
  | .nmu d => s.countNmu d k

end Sys2Proof.Machine
end

