-- ==== Sys2Proof/Machine/Quire.lean ====
section
/-! DEFINITION. Full-width partial records (04 R134 to R137), winner records (R129, R130), slots of the quire bank (R114, R115)
and the exact split of R141. -/

namespace Sys2Proof.Machine

/-! ### FWP records -/

/-- An FWP record (R134, R135). -/
structure Fwp where
  fmt    : Nat := 0
  cls    : Nat := 2
  poison : Bool := false
  pinf   : Bool := false
  ninf   : Bool := false
  zs     : Nat := 0
  limit  : Bool := false
  binv   : Bool := false
  acc    : Nat := 0
  chk    : Nat := 0
  /-- the 512-bit image as a number -/
  image  : Nat := 0
  bound  : Nat := 0
  deriving DecidableEq, Repr

/-- The header word (R135). -/
def Fwp.header (r : Fwp) : Nat :=
  r.fmt * 2 ^ 60 + r.cls * 2 ^ 58 + b2n r.poison * 2 ^ 57 + b2n r.pinf * 2 ^ 56 + b2n r.ninf * 2 ^ 55 + r.zs * 2 ^ 53 +
    b2n r.limit * 2 ^ 52 + b2n r.binv * 2 ^ 51 + r.acc * 2 ^ 12 + r.chk

/-- The 96 bytes of a record (R134). -/
def Fwp.bytes (r : Fwp) : List Byte := leBytes 8 r.header ++ leBytes 64 r.image ++ leBytes 16 r.bound ++ leBytes 8 0

/-- A record read from its bytes (R134, R135). -/
def Fwp.ofBytes (bs : List Byte) : Fwp :=
  let h := leNat (bs.take 8)
  { fmt := bits h 60 4, cls := bits h 58 2, poison := bitAt h 57, pinf := bitAt h 56, ninf := bitAt h 55, zs := bits h 53 2
    limit := bitAt h 52, binv := bitAt h 51, acc := bits h 12 30, chk := bits h 0 12
    image := leNat ((bs.drop 8).take 64), bound := leNat ((bs.drop 72).take 16) }

/-- NaR of q32 (02 R55). -/
def nar32 : Nat := QClass.q32.nar

/-- The record holds NaR: its image is NaR or its LIMIT is set. -/
def Fwp.nan (r : Fwp) : Bool := r.limit || r.image == nar32

/-- The value that a record or slot is rounded from (02 R58). -/
def Fwp.val (r : Fwp) : Val :=
  if r.nan || (r.pinf && r.ninf) then .nan
  else if r.pinf then .inf false
  else if r.ninf then .inf true
  else
    let v := (quireRead .q32 r.image).1
    if v = 0 then .zero (r.zs == 1) else .fin v

/-- R136: the combination of two records; the Bool says that ACC_LIMIT is raised. -/
def Fwp.combine (a b : Fwp) : Fwp × Bool :=
  let past := decide (2 ^ 30 - 1 < a.acc + b.acc)
  let lim := past || a.limit || b.limit
  let bsum := a.bound + b.bound
  let binv := a.binv || b.binv || decide (2 ^ 128 ≤ bsum)
  ({ fmt := a.fmt
     cls := max a.cls b.cls
     poison := a.poison || b.poison
     pinf := a.pinf || b.pinf
     ninf := a.ninf || b.ninf
     zs := if a.zs = 2 ∨ b.zs = 2 then 2 else if a.zs = 1 ∨ b.zs = 1 then 1 else 0
     limit := lim
     binv
     acc := if lim then 0x3FFFFFFF else a.acc + b.acc
     chk := min (a.chk + b.chk) 4095
     image := if lim || a.nan || b.nan then nar32 else (a.image + b.image) % 2 ^ 512
     bound := if 2 ^ 128 ≤ bsum then 2 ^ 128 - 1 else bsum }, past && !a.limit && !b.limit)

/-- The exact sum of a list of values as a record of class q32 (R129, 07 R227): each value is one product. -/
def Fwp.ofVals (fmt : Nat) (poison : Bool) (vs : List Val) : Fwp :=
  let t := Term.sum (vs.map Term.ofVal)
  let neg (v : Val) : Bool := match v with | .zero n => n | _ => false
  { fmt, cls := 2, poison, pinf := t.pinf, ninf := t.ninf
    zs := if vs.isEmpty then 0 else if vs.all neg then 1 else 2
    acc := vs.length
    image := quireImage .q32 t.nan t.v }

/-- A square under the range rule of R60; the Bool says that the rule changed it (R129, R227). -/
def squareVal (v : Val) : Val × Bool :=
  match v with
  | .fin x => let r := rangeRule .q32 (x * x); (Val.ofRat r.1, r.2)
  | .inf _ => (.inf false, false)
  | .nan => (.nan, false)
  | _ => (.zero false, false)

/-- Records lie at multiples of 32. -/
def State.readFwp (s : State) (r : Res) (a : Nat) : Fwp :=
  let x := Fwp.ofBytes (s.read (unitAddr r a) 96)
  { x with poison := x.poison || s.poisonedRange (unitAddr r a) 96 }

/-- Write a record; a poisoned one marks the lines it lies in (07 R217). -/
def State.writeFwp (s : State) (r : Res) (a : Nat) (x : Fwp) : State :=
  s.store r a x.bytes x.poison

/-! ### Winners -/

/-- A winner record (R129): INDEX and the pattern. -/
structure Winner where
  index : Nat
  pat   : Nat
  poison : Bool := false
  deriving DecidableEq, Repr

/-- R130: `b` beats `a` for a maximum or minimum in a format. -/
def beats (isMax : Bool) (f : Fmt) (q : Int) (a b : Winner) : Bool :=
  let va := decode f q a.pat
  let vb := decode f q b.pat
  match va.isNan, vb.isNan with
  | true, true => decide (b.index < a.index)
  | true, false => false
  | false, true => true
  | false, false =>
    match cmpVal f.isIeee va vb with
    | some .lt => isMax
    | some .gt => !isMax
    | _ => decide (b.index < a.index)

/-- The winner of a list (R130); its poison is that of every element. -/
def winnerOf (isMax : Bool) (f : Fmt) (q : Int) : List Winner → Winner
  | [] => ⟨0, 0, false⟩
  | w :: ws =>
    ws.foldl (fun a b => let x := if beats isMax f q a b then b else a; { x with poison := a.poison || b.poison }) w

/-- The 8 bytes of a winner record (R129). -/
def Winner.bytes (w : Winner) : List Byte := leBytes 4 w.pat ++ leBytes 4 w.index

/-! ### Split operands (R141, R142) -/

/-- σ of a row (R141). -/
def splitSigma (vs : List Val) : Int :=
  let m := vs.foldl (fun (m : Rat) v => match v with | .fin x => if m < rabs x then rabs x else m | _ => m) 0
  if m = 0 then 0 else floorLog2 m

/-- The value of a p16 pattern as a rational. -/
def p16val (x : Nat) : Rat := (decodePosit 16 x).rat

/-- The pieces h, m, l of one element under σ; `none` when it cannot be split exactly (R141, R142). -/
def splitElem (sigma : Int) (v : Val) : Option (Nat × Nat × Nat) :=
  match v with
  | .fin x =>
    let y := x * pow2 (-sigma)
    let h := (roundPosit 16 (Val.ofRat y)).pat
    let d := y - p16val h
    let m := (roundPosit 16 (Val.ofRat (d * pow2 16))).pat
    let l := (d - p16val m * pow2 (-16)) * pow2 32
    let lp := (roundPosit 16 (Val.ofRat l)).pat
    if p16val lp = l then some (h, m, lp) else none
  | .nan => some (0x8000, 0x8000, 0x8000)
  | .inf _ => some (0x8000, 0x8000, 0x8000)
  | _ => some (0, 0, 0)

/-! ### Slots -/

/-- Width of a slot in q8 cells: 1, 2 or 4 (R114). -/
def clsCells (c : Nat) : Nat := if c = 0 then 1 else if c = 1 then 2 else 4

/-- Last slot index of a class (R114). -/
def clsLast (c : Nat) : Nat := if c = 0 then 255 else if c = 1 then 127 else 63

/-- The class of a CLASS code. -/
def clsOf (c : Nat) : QClass := (QClass.ofCode c).getD .q32

/-- The number held in `n` words of a lane from word `w`. -/
def Bank.readWords (b : Bank) (lane w : Nat) : (n : Nat) → Nat
  | 0 => 0
  | n + 1 => (slook 0 b.words (512 * lane + w)).toNat + 2 ^ 64 * b.readWords lane (w + 1) n

/-- Write a number into `n` words of a lane from word `w`. -/
def Bank.writeWords (b : Bank) (lane w : Nat) : (n : Nat) → (x : Nat) → Bank
  | 0, _ => b
  | n + 1, x =>
    { b with words := sput 0 b.words (512 * lane + w) (BitVec.ofNat 64 x) }.writeWords lane (w + 1) n (x / 2 ^ 64)

/-- The image of a slot in its class (R114). -/
def Bank.image (b : Bank) (c lane slot : Nat) : Nat := b.readWords lane (slot * clsCells c * 2) (clsCells c * 2)

/-- Write the image of a slot. -/
def Bank.setImage (b : Bank) (c lane slot x : Nat) : Bank := b.writeWords lane (slot * clsCells c * 2) (clsCells c * 2) x

/-- The flags of a slot (R115). -/
def Bank.flag (b : Bank) (c lane slot : Nat) : SlotFlags := slook {} b.flags (256 * lane + slot * clsCells c)

/-- Write the flags of a slot. -/
def Bank.setFlag (b : Bank) (c lane slot : Nat) (f : SlotFlags) : Bank :=
  { b with flags := sput {} b.flags (256 * lane + slot * clsCells c) f }

/-- The counts of a slot index (R115). -/
def Bank.cnt (b : Bank) (c slot : Nat) : SlotCnt := slook {} b.cnts (slot * clsCells c)

/-- Write the counts of a slot index. -/
def Bank.setCnt (b : Bank) (c slot : Nat) (x : SlotCnt) : Bank := { b with cnts := sput {} b.cnts (slot * clsCells c) x }

/-- Clear the q8 cells [lo, hi) of every lane and their state (R117, R120). -/
def Bank.clear (b : Bank) (lo hi : Nat) : Bank :=
  { words := b.words.filter fun e => e.1 % 512 / 2 < lo || hi ≤ e.1 % 512 / 2
    flags := b.flags.filter fun e => e.1 % 256 < lo || hi ≤ e.1 % 256
    cnts := sclear b.cnts lo hi }

/-- The bound cell of a row of a CHK group: q8 slot SLOT + N + t (R118). -/
def Bank.bound (b : Bank) (g : Grp) (lane t : Nat) : Nat :=
  if g.chk then b.readWords lane ((g.slot + g.n + t) * 2) 2 else 0

/-- The value slot of row t in a lane as an FWP record (R134, R135), before any prescale. -/
def Bank.fwp (b : Bank) (g : Grp) (lane t : Nat) : Fwp :=
  let slot := g.slot + t
  let c := b.cnt g.cls slot
  let f := b.flag g.cls lane slot
  let q := quireRead (clsOf g.cls) (b.image g.cls lane slot)
  { fmt := g.fmtO, cls := g.cls, poison := f.poison, pinf := f.pinf, ninf := f.ninf, zs := f.zstate
    limit := c.limit, binv := c.binv, acc := c.acc, chk := c.chk
    image := quireImage .q32 (q.2 || c.limit) q.1
    bound := b.bound g lane t }

/-! ### Lanes -/

/-- lane_of(j) of R101: the unbypassed lanes in ascending order. -/
def Reach.lanes (x : Reach) : List Nat := (List.range 256).filter fun l => !x.bypass.getLsbD l

/-- Presented width P (R101). -/
def Reach.width (x : Reach) : Nat := x.lanes.length

end Sys2Proof.Machine
end

