-- ==== Sys2Proof/Machine/BargeDesc.lean ====
section
/-! DEFINITION. Barge descriptors (11 R376 to R379): their fields, the checks made at dispatch, the byte ranges that a barge
reads and writes, and the spans of its BISSUE (07 R237). -/

namespace Sys2Proof.Machine

/-- The fields of a descriptor (R376). -/
structure BDesc where
  ctrl     : Nat
  member   : Nat
  fmtByte  : Nat
  rsv5     : Nat
  src      : Nat
  dst      : Nat
  rowBytes : Nat
  rows     : Nat
  spitch   : Nat
  dpitch   : Nat
  diga     : Nat
  siga     : Nat
  pstride  : Nat
  rsv60    : Nat
  deriving DecidableEq, Repr

/-- A descriptor read from its 64 bytes. -/
def BDesc.ofBytes (bs : List Byte) : BDesc :=
  let f (o n : Nat) : Nat := leNat ((bs.drop o).take n)
  { ctrl := f 0 2, member := f 2 2, fmtByte := f 4 1, rsv5 := f 5 3, src := f 8 8, dst := f 16 8, rowBytes := f 24 4
    rows := f 28 4, spitch := f 32 4, dpitch := f 36 4, diga := f 40 8, siga := f 48 8, pstride := f 56 4, rsv60 := f 60 4 }

/-- KIND: 1 COPY, 2 LANEMAJOR, 3 TRANSPOSE, 4 SPLIT, 5 ZERO (R377). -/
def BDesc.kind (d : BDesc) : Nat := bits d.ctrl 12 4
/-- Source space: 0 device, 1 host, 2 coupling. -/
def BDesc.ssp (d : BDesc) : Nat := bits d.ctrl 10 2
/-- Destination space. -/
def BDesc.dsp (d : BDesc) : Nat := bits d.ctrl 8 2
/-- Write the digest. -/
def BDesc.dig (d : BDesc) : Bool := bitAt d.ctrl 7
/-- NOALLOC: what it reads does not enter the LLC (R372). -/
def BDesc.noalloc (d : BDesc) : Bool := bitAt d.ctrl 6
/-- The element format code. -/
def BDesc.fmt (d : BDesc) : Nat := d.fmtByte % 16
/-- Element width in bits. -/
def BDesc.width (d : BDesc) : Nat := (fmtOf d.fmt).width
/-- Elements in a source row. -/
def BDesc.elems (d : BDesc) : Nat := d.rowBytes * 8 / d.width
/-- Bytes of a column of a lane-major tile (03 R76). -/
def BDesc.cbytes (d : BDesc) : Nat := bytesOf d.fmt 128

/-- R379: the descriptor is malformed. `members` is the number of members of the step; `host` says that it comes from the host
barge queue (13 R434), `role` that the job has a coupling role (14 R471). -/
def BDesc.bad (d : BDesc) (members : Nat) (host role : Bool) : Bool :=
  let k := d.kind
  let cpl := d.ssp == 2 || d.dsp == 2
  let fmtOk := (Fmt.ofCode d.fmt).isSome
  bits d.ctrl 0 6 != 0 || d.fmtByte / 16 != 0 || d.rsv5 != 0 || d.rsv60 != 0 || k == 0 || decide (5 < k) ||
  d.ssp == 3 || d.dsp == 3 || (k != 1 && (d.ssp != 0 || d.dsp != 0)) ||
  d.rowBytes == 0 || decide (16777216 < d.rowBytes) || d.rows == 0 || decide (65536 < d.rows) ||
  (decide (2 ≤ k) && decide (k ≤ 4) && !fmtOk) ||
  (d.member != 0xFFFF && decide (members ≤ d.member)) ||
  (d.ssp == 0 && d.src / 2 ^ 40 != 0) || (d.dsp == 0 && d.dst / 2 ^ 40 != 0) ||
  (if d.dig then k == 5 || d.diga % 32 != 0 || d.diga / 2 ^ 40 != 0 else d.diga != 0) ||
  (if k = 4 then d.siga / 2 ^ 40 != 0 else d.siga != 0 || d.pstride != 0) ||
  (k == 5 && d.src != 0) ||
  (host && (d.member != 0xFFFF || k == 2 || cpl)) ||
  (cpl && (d.member != 0xFFFF || !role)) ||
  (match k with
   | 2 => !(fmtTile d.fmt) || d.rowBytes * 8 % d.width != 0 || d.elems == 0 || decide (256 < d.elems) || decide (128 < d.rows) ||
       d.dpitch != 0 || (storeReach d.dst).isNone
   | 3 => d.width == 4 || d.rowBytes * 8 % d.width != 0
   | 4 => d.fmt != 2 || d.rowBytes % 4 != 0
   | _ => false)
where
  /-- A tile operand format code (02 R39). -/
  fmtTile (k : Nat) : Bool := ((Fmt.ofCode k).map Fmt.isTile).getD false

/-- Device ranges read: address and length, row by row (R374). -/
def BDesc.reads (d : BDesc) : List (Nat × Nat) :=
  if d.kind ≠ 5 ∧ d.ssp = 0 then (List.range d.rows).map fun r => (d.src + r * d.spitch, d.rowBytes) else []

/-- Device ranges written (R374, R377, R378). -/
def BDesc.writes (d : BDesc) : List (Nat × Nat) :=
  (if d.dsp ≠ 0 then []
   else
    match d.kind with
    | 2 => [(d.dst, d.elems * d.cbytes)]
    | 3 => (List.range d.elems).map fun i => (d.dst + i * d.dpitch, d.rows * (d.width / 8))
    | 4 => ((List.range d.rows).flatMap fun r =>
        (List.range 3).map fun p => (d.dst + p * d.pstride + r * d.dpitch, d.rowBytes / 2)) ++ [(d.siga, d.rows)]
    | _ => (List.range d.rows).map fun r => (d.dst + r * d.dpitch, d.rowBytes)) ++
  if d.dig then [(d.diga, 32)] else []

/-- The span, as addresses of reach n's store, of the ranges that lie in it. -/
def spanIn (n : Nat) (rs : List (Nat × Nat)) : List (Nat × Nat) :=
  let mine := rs.filter fun p => decide (storeBase n < p.1 + p.2) && decide (p.1 < storeBase n + storeSize)
  match mine with
  | [] => []
  | p :: ps =>
    let lo := ps.foldl (fun m q => min m q.1) p.1
    let hi := ps.foldl (fun m q => max m (q.1 + q.2)) (p.1 + p.2)
    [(lo - storeBase n, hi - storeBase n)]

end Sys2Proof.Machine
end

