-- ==== Sys2Proof/Machine/Dup.lean ====
section
/-! DEFINITION. Sampled duplicate execution up to the signatures (16 R536 to R541): which tiles are selected, what they pin,
and which reach takes an execution. -/

namespace Sys2Proof.Machine

/-- ARITH frequency in MHz (01 R27, R35). -/
def State.arithMHz (s : State) : Nat :=
  match s.dev.arithSet.toNat with
  | 0 => 800 | 1 => 600 | 2 => 400 | _ => 200

/-- n of the sampling fraction 2^-n in force, 0 for none (R536). -/
def State.sampleN (s : State) : Nat :=
  if s.prf.sample = 0 then 0 else if 2 ≤ s.dev.shed.toNat && s.dev.shed.toNat ≤ 5 then 8 else s.prf.sample

/-- The order in which an execution for primary `n` is offered (R538). -/
def offerOrder (n : Nat) : List Nat := [4, 8, 12, 1, 2, 3].map fun k => (n + k) % 16

/-- A weight store is in use by an execution of another reach's tile (R538). -/
def State.storeLent (s : State) (m k : Nat) : Bool :=
  s.reach.toList.any fun x => x.dups.any fun d => d.inUse == some (m, k)

/-- A weight store is pinned by a sampled tile of its own reach (R540). -/
def Reach.storePinned (x : Reach) (k : Nat) : Bool := x.dups.any fun d => d.wbuf == some k

/-- A store of reach `m` that can take an execution: EMPTY or RELEASED, not being filled, pinned or lent (R538). -/
def State.freeStore (s : State) (m : Fin 16) : Option Nat :=
  ([0, 1] : List (Fin 2)).findSome? fun (k : Fin 2) =>
    let w := s.reach[m].ws[k]
    if w.state != .loaded && !w.filling && !s.reach[m].storePinned k && !s.storeLent m k then some k.val else none

/-- The first reach in the order of R538 that is in service and has a free store. -/
def State.taker (s : State) (n : Nat) (excl : List Nat) : Option (Nat × Nat) :=
  (offerOrder n).findSome? fun m =>
    if excl.contains m || !s.inService m then none
    else if h : m < 16 then (s.freeStore ⟨m, h⟩).map fun k => (m, k)
    else none

/-- Change the oldest decision of a reach. -/
def State.modDup (s : State) (n : Fin 16) (f : Dup → Dup) : State :=
  s.modReach n fun x => { x with dups := match x.dups with | d :: ds => f d :: ds | [] => [] }

/-- An open decision that waits for a taker finds one (R538, R543). -/
def State.offer (s : State) (n : Fin 16) (d : Dup) : Dup :=
  match d.phase with
  | .offered =>
    match s.taker n [] with
    | some (m, k) => { d with phase := .checking, checker := m, inUse := some (m, k) }
    | none => d
  | .refOffered =>
    match s.taker n [d.checker] with
    | some (m, k) => { d with phase := .referee, referee := m, inUse := some (m, k) }
    | none => d
  | _ => d

/-- The draw of R536 for an issued tile, and the pins of R540 when it is selected; within the window of R541 it counts as
unsampled. No duplicate runs while the device is DRAINING or DRAINED (R555). -/
def State.dupSelect (s : State) (n : Fin 16) (d : Dup) : State :=
  let k := s.sampleN
  if k = 0 || s.dev.st == .draining || s.dev.st == .drained then s
  else
    let x := s.reach[n]
    let hit := decide ((Config.sampleDraw n x.draws).toNat % 2 ^ k = 0)
    let s := s.modReach n fun x => { x with draws := x.draws + 1 }
    if !hit then s
    else if x.segPass && decide (x.segEnd.toNat ≤ s.time.toNat + 50 * 800 * 1000 / s.arithMHz) then
      { s with ras := { s.ras with dupSkip := stick32 s.ras.dupSkip 1 } }
    else
      let d := s.offer n { d with job := x.u.job, at_ := s.time, step := ((s.jobRun x.u.job).step.map (·.no)).getD 0 }
      s.modReach n fun x => { x with dups := x.dups ++ [d] }

end Sys2Proof.Machine
end

