-- ==== Sys2Proof/Machine/Approx.lean ====
section
/-! DEFINITION. Exponentials, logarithms, roots and the functions of 05 R156 as rationals far closer to the real values than any format can
tell apart, and the error bounds in ulps that 05 R159 and R164 measure against them. -/

namespace Sys2Proof.Machine

/-! ### Fixed point with `fxBits` fraction bits -/

/-- Fraction bits of the fixed-point numbers below. -/
def fxBits : Nat := 1280

/-- A rational in fixed point, rounded down. -/
def toFx (r : Rat) : Int := (r * pow2 fxBits).floor

/-- A fixed-point number as a rational. -/
def ofFx (x : Int) : Rat := mkRat x (2 ^ fxBits)

/-- The loop of `expFx`: the sum of the terms from x^n / n! on, `term` being the one before; at most `fuel` of them. -/
def expTerms (x : Int) (n : Nat) (term : Int) : (fuel : Nat) → Int
  | 0 => 0
  | f + 1 =>
    let t := term * x / (2 ^ fxBits * n)
    t + expTerms x (n + 1) t f

/-- Squares a fixed-point number `k` times. -/
def sqTimes (x : Int) : (k : Nat) → Int
  | 0 => x
  | k + 1 => sqTimes (x * x / 2 ^ fxBits) k

/-- e^x for −400 ≤ x ≤ 400; beyond, 2^600 or 2^−600, which lie as far outside the internal form of 05 R154 as e^x does. -/
def expQ (x : Rat) : Rat :=
  if 400 < x then pow2 600
  else if x < -400 then pow2 (-600)
  else ofFx (sqTimes (2 ^ fxBits + expTerms (toFx (x * pow2 (-20))) 1 (2 ^ fxBits) 120) 20)

/-- The loop of `atanhQ` and `atanQ`: the sum of ±t^(2 i + 1) / (2 i + 1) from `i` on; `p` is the power, `sq` t², `alt` alternates the
signs. -/
def oddTerms (alt : Bool) (sq : Int) (i : Nat) (p : Int) : (fuel : Nat) → Int
  | 0 => 0
  | f + 1 => p / (2 * i + 1) + oddTerms alt sq (i + 1) ((if alt then -p else p) * sq / 2 ^ fxBits) f

/-- artanh t for |t| ≤ 1/3. -/
def atanhQ (t : Rat) : Rat := let x := toFx t; ofFx (oddTerms false (x * x / 2 ^ fxBits) 0 x 420)

/-- arctan t for |t| ≤ 1/3. -/
def atanQ (t : Rat) : Rat := let x := toFx t; ofFx (oddTerms true (x * x / 2 ^ fxBits) 0 x 420)

/-- ln x of a positive rational. -/
def lnQ (x : Rat) : Rat :=
  let s := floorLog2 x
  let m := x / pow2 s
  (s : Rat) * (2 * atanhQ (mkRat 1 3)) + 2 * atanhQ ((m - 1) / (m + 1))

/-- π. -/
def piQ : Rat := 16 * atanQ (mkRat 1 5) - 4 * atanQ (mkRat 1 239)

/-- 2^x, beyond ±600 held there. -/
def exp2Q (x : Rat) : Rat :=
  if 600 < x then pow2 600
  else if x < -600 then pow2 (-600)
  else pow2 x.floor * expQ ((x - (x.floor : Rat)) * (2 * atanhQ (mkRat 1 3)))

/-- The loop of `isqrt`: bit `k − 1` down to bit 0 of the root. -/
def isqrtGo (n root : Nat) : (k : Nat) → Nat
  | 0 => root
  | k + 1 => isqrtGo n (if (root + 2 ^ k) * (root + 2 ^ k) ≤ n then root + 2 ^ k else root) k

/-- The integer square root of a number below 2^4096. -/
def isqrt (n : Nat) : Nat := isqrtGo n 0 2048

/-- √x of a nonnegative rational below 2^600. -/
def sqrtQ (x : Rat) : Rat := mkRat (isqrt (x * pow2 2400).floor.toNat) (2 ^ 1200)

/-- cos x for |x| ≤ 4, by its Taylor series. -/
def cosQ (x : Rat) : Rat :=
  let y := toFx x
  let rec go (n : Nat) (term : Int) : (fuel : Nat) → Int
    | 0 => term
    | f + 1 => term + go (n + 2) (-(term * y / 2 ^ fxBits * y / (2 ^ fxBits * ((n + 1) * (n + 2) : Nat)))) f
  ofFx (go 0 (2 ^ fxBits) 200)

/-! ### The functions of 05 R156 -/

/-- tanh x of a positive rational. -/
def tanhQ (x : Rat) : Rat :=
  if 200 < x then 1 - pow2 (-500)
  else
    let q := expQ (-2 * x)
    (1 - q) / (1 + q)

/-- 1 / (1 + e^−x). -/
def logisticQ (x : Rat) : Rat :=
  if 0 ≤ x then 1 / (1 + expQ (-x))
  else
    let q := expQ x
    q / (1 + q)

/-- √(2/π) and 0.044715, the constants of GELU (05 R156). -/
def geluC1 : Rat := sqrtQ (2 / piQ)
/-- 0.044715. -/
def geluC2 : Rat := mkRat 44715 1000000

/-- √(2/π) (x + 0.044715 x³). -/
def geluArg (x : Rat) : Rat := geluC1 * (x + geluC2 * x * x * x)

/-- The value of FUNC 0x00 to 0x08 at a finite nonzero input for which it has one (05 R156). -/
def funcQ (func : Nat) (x : Rat) : Rat :=
  match func with
  | 0 => if x < 0 then -(tanhQ (-x)) else tanhQ x
  | 1 => logisticQ x
  | 2 => expQ x
  | 3 => exp2Q x
  | 4 => lnQ x
  | 5 => 1 / x
  | 6 => 1 / sqrtQ x
  | 7 => x * logisticQ (2 * geluArg x)
  | _ => x * logisticQ x

/-! ### Ulps -/

/-- The finite value of a pattern. -/
def finOf (f : Fmt) (q : Int) (p : Nat) : Option Rat :=
  match decode f q p with
  | .fin v => some v
  | .zero _ => some 0
  | _ => none

/-- The place of a pattern among the values of its format in rising order; 0 is zero. -/
def idxOf (f : Fmt) (p : Nat) : Int :=
  let w := f.width
  if f.isPosit || f == .i8 || f == .i4 then signedOf w p
  else if f.isIeee then (if bitAt p (w - 1) then -((p - 2 ^ (w - 1) : Nat) : Int) else p)
  else p

/-- The pattern at a place. -/
def patAt (f : Fmt) (i : Int) : Nat :=
  let w := f.width
  if f.isIeee && decide (i < 0) then 2 ^ (w - 1) + i.natAbs else (i % (2 ^ w : Nat)).toNat

/-- The ulp at an exact value `t` whose rounding is the finite pattern `p` (05 R159): the distance of the two values of the format that
bracket it; for a value that the format holds at its end, the distance of the last two. -/
def ulpAt (f : Fmt) (q : Int) (p : Nat) (t : Rat) : Rat :=
  let v := (finOf f q p).getD 0
  let up := patAt f (idxOf f p + 1)
  let down := patAt f (idxOf f p - 1)
  match (if v ≤ t then finOf f q up else finOf f q down) with
  | some u => rabs (u - v)
  | none =>
    match (if v ≤ t then finOf f q down else finOf f q up) with
    | some u => rabs (u - v)
    | none => 0

/-- A result pattern lies within `e` ulps of the exact value (05 R159): with `e` a half it is the value correctly rounded; an integer code
lies within one code of that; a value that the format holds at its end is measured there. -/
def withinUlps (f : Fmt) (q : Int) (ovf : Bool) (e t : Rat) (p : Nat) : Bool :=
  let r := (roundTo f q ovf (Val.ofRat t)).pat
  if p = r then true
  else if f.isInt then decide ((idxOf f p - idxOf f r).natAbs ≤ 1)
  else if e ≤ mkRat 1 2 then false
  else
    match finOf f q r, finOf f q p with
    | some v, some x =>
      let t := if (roundTo f q ovf (Val.ofRat t)).clamp then v else t
      decide (rabs (x - t) ≤ e * ulpAt f q r t)
    | _, _ => false

end Sys2Proof.Machine
end

