-- ==== Sys2Proof/Machine/Vector.lean ====
section
/-! DEFINITION. Classes 0x3 to 0x6 and 0x8 of the control stream: vector loads and stores, arithmetic, conversion, split,
reductions and the wide adder (07 R216, R217, R223 to R228; 05 R176 to R178). -/

namespace Sys2Proof.Machine

/-! ### Loads and stores (R226) -/

/-- Byte address of element i: packed when the stride is 0 (R226). -/
def elemAddr (w : Nat) (base stride : W64) (imm : Int) (i : Nat) : Nat :=
  if stride = 0 then (if w = 4 then addrPlus base (imm + (i / 2 : Nat)) else addrPlus base (imm + (i * (w / 8) : Nat)))
  else addrPlus base (imm + (i * stride.toNat : Nat))

/-- Bytes of one element in memory. -/
def elemBytes (f : Fmt) : Nat := if f.width = 4 then 1 else f.width / 8

/-- The addresses of the VL elements of a VLD or VST. -/
def memAddrs (s : State) (r : Res) (w : CtlWord) : List Nat :=
  let u := s.unit r
  (List.range u.vl.toNat).map fun i => elemAddr (fmtOf w.fmtS).width (u.x w.a) (u.x w.b) w.immM i

/-- The span from the lowest to the highest byte (R237). -/
def memSpan (s : State) (r : Res) (w : CtlWord) : Nat × Nat :=
  let as := memAddrs s r w
  (as.foldl min (as.headD 0), as.foldl max 0 + elemBytes (fmtOf w.fmtS))

/-- The elements lie one behind the other: the row is one access (R226). -/
def memPacked (s : State) (r : Res) (w : CtlWord) : Bool :=
  let st := (s.unit r).x w.b
  st == 0 || st.toNat == elemBytes (fmtOf w.fmtS)

/-- The accesses of a VLD or VST: address and length. -/
def memAccs (s : State) (r : Res) (w : CtlWord) : List (Nat × Nat) :=
  let as := memAddrs s r w
  let f := fmtOf w.fmtS
  if memPacked s r w then [(as.headD 0, bytesOf w.fmtS as.length)] else as.map fun a => (a, elemBytes f)

/-- VEC_ADDR and FMT_ILLEGAL of a VLD or VST (R226, R246, R625); of a reserved format, VEC_ADDR stands for an access that is wrong
with elements of any size. -/
def memChk (r : Res) (w : CtlWord) (wr : Bool) (s : State) : Option Nat :=
  let u := s.unit r
  let f := fmtOf w.fmtS
  if !fmtV w.fmtS then
    let as := if u.x w.b = 0 then (memAddrs s r w).take 1 else memAddrs s r w
    if as.all fun a => s.accOk r a 1 wr then some 0x0101 else some 0x0112
  else if f.width = 4 && u.x w.b ≠ 0 then some 0x0112
  else if (memAddrs s r w).any fun a => a % elemBytes f ≠ 0 || !s.accOk r a (elemBytes f) wr then some 0x0112
  else none

/-- The trap report of a VLD or VST that moves a NaN or NaR element: the element carries it in (08 R264, R266; log 123). -/
def nanMoved (pc d fmt : Nat) (ps : List W32) : Option TrapRep :=
  let f := fmtOf fmt
  match ps.findIdx? fun p => patIsNan f (p.toNat % 2 ^ f.width) with
  | some i => some { pc, part := 1, origin := false, lane := i, slot := d, fmt }
  | none => none

/-- VLD: raw patterns, poisoned by their line (R216, R217, R226); one that writes a NaN or NaR element reports it (08 R264). -/
def execVld (r : Res) (w : CtlWord) (s : State) : Host.Outcome State Fault Refusal :=
  .next <| ctl r { d := .ve, a := .sc, b := .sc, lay := .m } w [w.a, w.b] (fun s => { rd := [memSpan s r w] })
    (memChk r w false)
    (fun s =>
      let f := fmtOf w.fmtS
      let one (p : Nat × Nat) : W32 × Bool :=
        let x := s.readNat (unitAddr r p.1) (elemBytes f)
        (BitVec.ofNat 32 (if f.width = 4 then bits x (4 * (p.2 % 2)) 4 else x), s.poisonedRange (unitAddr r p.1) (elemBytes f))
      let as := memAddrs s r w
      let es := (as.zip (List.range as.length)).map one
      let s := (memAccs s r w).foldl (fun t p => t.touch r p.1 p.2) s
      let s := (s.modU r fun u => u.setVs w.d.toNat 0 es).trapIf r (nanMoved (s.unit r).pc.toNat w.d.toNat w.fmtS (es.map (·.1)))
      (s.vecBusy r 1).retire r) s

/-- The bytes that element i of a VST writes: a 4-bit row writes two elements to a byte and 0 in an odd last nibble (02 R42). -/
def vstBytes (f : Fmt) (u : Unit) (k : BitVec 6) (i : Nat) : List Byte × Bool :=
  let e := u.v k i
  if f.width = 4 then
    let e2 := if i + 1 < u.vl.toNat then u.v k (i + 1) else (0, false)
    (leBytes 1 (e.1.toNat % 16 + 16 * (e2.1.toNat % 16)), e.2 || e2.2)
  else (leBytes (f.width / 8) e.1.toNat, e.2)

/-- A row of pieces is written as one access, and the lines of poisoned pieces take the mark (R217, 11 R365). -/
def State.storeRow (s : State) (r : Res) (a : Nat) (ps : List (List Byte × Bool)) : State :=
  let s := s.store r a (ps.flatMap (·.1)) false
  (ps.foldl (fun (t : State × Nat) p =>
    (if p.2 then (t.1.write (unitAddr r t.2) p.1 true).noteShardPoison r t.2 p.1.length else t.1, t.2 + p.1.length)) (s, a)).1

/-- VST: patterns into memory; a line takes poison from a poisoned element (R217, R226), and a NaN or NaR element is reported (08 R264). -/
def execVst (r : Res) (w : CtlWord) (s : State) : Host.Outcome State Fault Refusal :=
  .next <| ctl r { d := .ve, a := .sc, b := .sc, lay := .m } w [w.a, w.b] (fun s => { wr := [memSpan s r w] })
    (memChk r w true)
    (fun s =>
      let f := fmtOf w.fmtS
      let u := s.unit r
      let as := memAddrs s r w
      let ps := (as.zip (List.range as.length)).filter fun p => f.width ≠ 4 || p.2 % 2 == 0
      let s := if memPacked s r w then s.storeRow r (as.headD 0) (ps.map fun p => vstBytes f u w.d p.2)
        else ps.foldl (fun (t : State) p => let e := vstBytes f u w.d p.2; t.store r p.1 e.1 e.2) s
      let s := s.trapIf r (nanMoved u.pc.toNat w.d.toNat w.fmtS ((List.range as.length).map fun i => (u.v w.d i).1))
      (s.vecBusy r 1).retire r) s

/-! ### Arithmetic (R224, R225) -/

/-- Legal X of class 0x4: BS in bit 8, COND in bits [7:5] of VCMP only. -/
def x4 (x : Nat) : Bool := bits x 0 8 == 0

/-- Form of an instruction of class 0x4; operand B is a scalar register with BS = 1. -/
def form4 (w : CtlWord) (b c : Bool) : Form :=
  { d := .ve, a := .ve, b := if b then (if w.bs then .sc else .ve) else .no, c := if c then .ve else .no, lay := .v x4 }

/-- FMT_ILLEGAL of a layout V instruction of the vector engine: both fields name a format. -/
def fmtChkV (w : CtlWord) (_ : State) : Option Nat := if fmtV w.fmtS && fmtV w.fmtD then none else some 0x0101

/-- FMT_ILLEGAL of an instruction that reads FMT_S alone (R227, R228). -/
def fmtChkS (w : CtlWord) (_ : State) : Option Nat := if fmtV w.fmtS then none else some 0x0101

/-- FMT_ILLEGAL of an instruction that reads FMT_D alone (R228). -/
def fmtChkD (w : CtlWord) (_ : State) : Option Nat := if fmtV w.fmtD then none else some 0x0101

/-- The decoded operands of element i. -/
structure Ops3 where
  a : Val × Bool
  b : Val × Bool
  c : Val × Bool

/-- The operands A, B and C of element i under FMT_S. -/
def operands (u : Unit) (w : CtlWord) (i : Nat) : Ops3 :=
  let f := fmtOf w.fmtS
  { a := u.val false w.a f w.qs i, b := u.val w.bs w.b f w.qs i, c := u.val false w.c f w.qs i }

/-- An elementwise instruction of class 0x4 or 0x5: `f` gives the exact value of an element; `nb`, `nc` say that it takes
operands B and C. -/
def vecOp (nb nc : Bool) (f : Ops3 → Val) (r : Res) (w : CtlWord) (form : Form) (s : State) : State :=
  ctlReg r form w (fmtChkV w)
    (fun s =>
      let u := s.unit r
      let fd := fmtOf w.fmtD
      let one (i : Nat) : Elem :=
        let o := operands u w i
        mkElem fd w.qd w.ovf (f o) (o.a.2 || (nb && o.b.2) || (nc && o.c.2))
          (o.a.1.isNan || (nb && o.b.1.isNan) || (nc && o.c.1.isNan))
      (s.writeVec r 1 w.d.toNat w.fmtD ((List.range u.vl.toNat).map one)).vecBusy r 1) s

/-- The sign rule of an IEEE operand applies (02 R58). -/
def ieeeS (w : CtlWord) : Bool := (fmtOf w.fmtS).isIeee

/-- Negation; a posit or integer zero has no sign (02 R53). -/
def negS (w : CtlWord) (v : Val) : Val :=
  match v with
  | .zero _ => if ieeeS w then negVal v else v
  | _ => negVal v

/-- Magnitude. -/
def absVal : Val → Val
  | .zero _ => .zero false
  | .fin v => .fin (rabs v)
  | .inf _ => .inf false
  | v => v

/-- VADD (R223, R224). -/
def execVadd (r : Res) (w : CtlWord) (s : State) : Host.Outcome State Fault Refusal :=
  .next (vecOp true false (fun o => addVal o.a.1 o.b.1) r w (form4 w true false) s)

/-- VSUB (R223, R224). -/
def execVsub (r : Res) (w : CtlWord) (s : State) : Host.Outcome State Fault Refusal :=
  .next (vecOp true false (fun o => addVal o.a.1 (negS w o.b.1)) r w (form4 w true false) s)

/-- VMUL (R223, R224). -/
def execVmul (r : Res) (w : CtlWord) (s : State) : Host.Outcome State Fault Refusal :=
  .next (vecOp true false (fun o => mulVal (ieeeS w) o.a.1 o.b.1) r w (form4 w true false) s)

/-- VFMA: vA × vB + vC, one rounding (R223, R224). -/
def execVfma (r : Res) (w : CtlWord) (s : State) : Host.Outcome State Fault Refusal :=
  .next (vecOp true true (fun o => addVal (mulVal (ieeeS w) o.a.1 o.b.1) o.c.1) r w (form4 w true true) s)

/-- The element that VMAX or VMIN takes (R225). -/
def pickVal (ieee isMax : Bool) (a b : Val) : Val :=
  if a.isNan then a
  else if b.isNan then b
  else match cmpVal ieee a b with
    | some .lt => if isMax then b else a
    | some .gt => if isMax then a else b
    | _ => a

/-- VMAX (R225). -/
def execVmax (r : Res) (w : CtlWord) (s : State) : Host.Outcome State Fault Refusal :=
  .next (vecOp true false (fun o => pickVal (ieeeS w) true o.a.1 o.b.1) r w (form4 w true false) s)

/-- VMIN (R225). -/
def execVmin (r : Res) (w : CtlWord) (s : State) : Host.Outcome State Fault Refusal :=
  .next (vecOp true false (fun o => pickVal (ieeeS w) false o.a.1 o.b.1) r w (form4 w true false) s)

/-- VABS (R223). -/
def execVabs (r : Res) (w : CtlWord) (s : State) : Host.Outcome State Fault Refusal :=
  .next (vecOp false false (fun o => absVal o.a.1) r w (form4 w false false) s)

/-- VNEG (R223). -/
def execVneg (r : Res) (w : CtlWord) (s : State) : Host.Outcome State Fault Refusal :=
  .next (vecOp false false (fun o => negS w o.a.1) r w (form4 w false false) s)

/-- COND of VCMP (R225). -/
def cmpHolds (cond : Nat) (ieee : Bool) (a b : Val) : Bool :=
  let c := cmpVal ieee a b
  match cond with
  | 0 => c == some .lt
  | 1 => c == some .lt || c == some .eq
  | 2 => c == some .eq
  | 3 => c == some .gt
  | 4 => c == some .gt || c == some .eq
  | 5 => c != some .eq
  | 6 => a.isNan || b.isNan
  | _ => false

/-- VCMP: 1 or 0 in FMT_D (R225). -/
def execVcmp (r : Res) (w : CtlWord) (s : State) : Host.Outcome State Fault Refusal :=
  let form : Form := { form4 w true false with lay := .v fun x => bits x 0 5 == 0 && bits x 5 3 != 7 }
  .next <| ctlReg r form w (fmtChkV w)
    (fun s =>
      let u := s.unit r
      let one (i : Nat) : Elem :=
        let o := operands u w i
        let t := cmpHolds (bits w.x 5 3) (ieeeS w) o.a.1 o.b.1
        mkElem (fmtOf w.fmtD) w.qd w.ovf (if t then .fin 1 else .zero false) (o.a.2 || o.b.2) false
      (s.writeVec r 1 w.d.toNat w.fmtD ((List.range u.vl.toNat).map one)).vecBusy r 1) s

/-- The pattern and poison of element i of a register in a format, or of a scalar register with BS. -/
def rawPat (u : Unit) (sc : Bool) (k : BitVec 6) (f : Fmt) (i : Nat) : Nat × Bool :=
  if sc then ((u.x k).toNat % 2 ^ f.width, u.xp k) else let e := u.v k i; (e.1.toNat % 2 ^ f.width, e.2)

/-- VSEL: vB where vA is not the all-zero pattern, else vC; patterns are copied (R223). -/
def execVsel (r : Res) (w : CtlWord) (s : State) : Host.Outcome State Fault Refusal :=
  .next <| ctlReg r (form4 w true true) w
    (fun _ => if fmtV w.fmtS && w.fmtD == w.fmtS then none else some 0x0101)
    (fun s =>
      let u := s.unit r
      let f := fmtOf w.fmtS
      let one (i : Nat) : Elem :=
        let a := rawPat u false w.a f i
        let e := if a.1 ≠ 0 then rawPat u w.bs w.b f i else rawPat u false w.c f i
        { pat := e.1, poison := a.2 || e.2, nan := patIsNan f e.1, carried := true }
      (s.writeVec r 1 w.d.toNat w.fmtD ((List.range u.vl.toNat).map one)).vecBusy r 1) s

/-! ### Conversion and split (R226, 02 R61) -/

/-- Form of VCVT. -/
def formCvt : Form := { d := .ve, a := .ve, lay := .v fun x => x == 0 }

/-- VCVT: an element converted per 02 R61; the same format and code scale keep the pattern but for a NaN or an escape. -/
def execVcvt (r : Res) (w : CtlWord) (s : State) : Host.Outcome State Fault Refusal :=
  .next (vecOp false false (fun o => o.a.1) r w formCvt s)

/-- SPLIT_INEXACT of element i (R142, R226): the step continues. -/
def State.splitInexact (s : State) (r : Res) (sigma : Int) (i : Nat) : State :=
  let u := s.unit r
  let src := resSource r
  s.raise { code := 0x0205, job := u.job, ctx := u.ctx, kind := src.1, part := src.2, addr := i
            d0 := (sigma % (2 ^ 64 : Nat)).toNat }

/-- VSPLIT: pieces h, m and l into vD, vD + 1 and vD + 2, σ into xC (R141, R142, R226). A piece held at ±minpos counts no CVT_CLAMP: the
model's choice, log entry 124. -/
def execVsplit (r : Res) (w : CtlWord) (s : State) : Host.Outcome State Fault Refusal :=
  .next <| ctlReg r { d := .ve3, a := .ve, c := .sc, lay := .v fun x => x == 0, nmu := false } w
    (fun _ => if w.fmtS == 2 && w.fmtD == 1 then none else some 0x0101)
    (fun s =>
      let u := s.unit r
      let idx := List.range u.vl.toNat
      let vs := idx.map fun i => (u.val false w.a .p32 0 i).1
      let poison := idx.any fun i => (u.v w.a i).2
      let sigma := splitSigma vs
      let ps := vs.map (splitElem sigma)
      let piece (get : Nat × Nat × Nat → Nat) : List Elem :=
        (vs.zip ps).map fun p =>
          let x := (p.2.map get).getD 0x8000
          { pat := x, poison, nan := x == 0x8000, carried := p.1.isNan }
      let s := s.writeVec r 1 w.d.toNat 1 (piece (·.1))
      let s := s.writeVec r 1 (w.d.toNat + 1) 1 (piece (·.2.1))
      let s := s.writeVec r 1 (w.d.toNat + 2) 1 (piece (·.2.2))
      let s := s.modU r fun u => u.setX w.c (BitVec.ofInt 64 sigma) poison
      let s := idx.foldl (fun t i => if (ps[i]?.getD none).isNone then t.splitInexact r sigma i else t) s
      s.vecBusy r 3) s

/-! ### Reductions (R227) -/

/-- A record or winner that is NaN is a trap event of the part that writes it (08 R264). -/
def State.trapRec (s : State) (r : Res) (part lane slot fmt : Nat) (nan carried : Bool) : State :=
  if nan then s.trapEvent r { pc := (s.unit r).pc.toNat, part, origin := !carried, lane, slot, fmt } else s

/-- Address of a record: a multiple of `al` inside the memory of the unit. -/
def recOk (s : State) (r : Res) (a n al : Nat) (wr : Bool) : Bool := a % al == 0 && s.accOk r a n wr

/-- Form of VSUM and VSUMSQ. -/
def formSum : Form := { d := .sc, a := .ve, lay := .v fun x => x == 0 }

/-- VSUM and VSUMSQ: the FWP record of the exact sum at xD (R227). -/
def vecSum (sq : Bool) (r : Res) (w : CtlWord) (s : State) : State :=
  let adr (s : State) : Nat := ((s.unit r).x w.d).toNat
  ctl r formSum w [w.d] (fun s => { wr := [(adr s, adr s + 96)] })
    (fun s => if !recOk s r (adr s) 96 32 true then some 0x0112 else fmtChkS w s)
    (fun s =>
      let u := s.unit r
      let xs := (List.range u.vl.toNat).map fun i => u.val false w.a (fmtOf w.fmtS) w.qs i
      let ys := xs.map fun x => if sq then squareVal x.1 else (x.1, false)
      let rec_ := Fwp.ofVals w.fmtS (xs.any (·.2)) (ys.map (·.1))
      let s := (s.writeFwp r (adr s) rec_).countRange r (ys.countP (·.2))
      ((s.trapRec r 1 0 w.d.toNat w.fmtS rec_.nan (xs.any (·.1.isNan))).vecBusy r 1).retire r) s

/-- VSUM (R227). -/
def execVsum (r : Res) (w : CtlWord) (s : State) : Host.Outcome State Fault Refusal := .next (vecSum false r w s)

/-- VSUMSQ (R227). -/
def execVsumsq (r : Res) (w : CtlWord) (s : State) : Host.Outcome State Fault Refusal := .next (vecSum true r w s)

/-- VMAXI and VMINI: the winner record of vA at xD, INDEX = xB + i (R227). -/
def vecWinner (isMax : Bool) (r : Res) (w : CtlWord) (s : State) : State :=
  let adr (s : State) : Nat := ((s.unit r).x w.d).toNat
  ctl r { d := .sc, a := .ve, b := .sc, lay := .v fun x => x == 0 } w [w.d] (fun s => { wr := [(adr s, adr s + 8)] })
    (fun s => if !recOk s r (adr s) 8 8 true then some 0x0112 else fmtChkS w s)
    (fun s =>
      let u := s.unit r
      let f := fmtOf w.fmtS
      let one (i : Nat) : Winner :=
        let e := rawPat u false w.a f i
        { index := (u.x w.b + BitVec.ofNat 64 i).toNat % 2 ^ 32, pat := e.1, poison := e.2 || u.xp w.b }
      let x := winnerOf isMax f w.qs ((List.range u.vl.toNat).map one)
      let s := s.store r (adr s) x.bytes x.poison
      let lane := (x.index + 2 ^ 32 - (u.x w.b).toNat % 2 ^ 32) % 2 ^ 32
      ((s.trapRec r 1 lane w.d.toNat w.fmtS (patIsNan f x.pat) true).vecBusy r 1).retire r) s

/-- VMAXI (R227). -/
def execVmaxi (r : Res) (w : CtlWord) (s : State) : Host.Outcome State Fault Refusal := .next (vecWinner true r w s)

/-- VMINI (R227). -/
def execVmini (r : Res) (w : CtlWord) (s : State) : Host.Outcome State Fault Refusal := .next (vecWinner false r w s)

/-- A winner record in memory. -/
def State.readWinner (s : State) (r : Res) (a : Nat) : Winner :=
  { index := s.readNat (unitAddr r a + 4) 4, pat := s.readNat (unitAddr r a) 4
    poison := s.poisonedRange (unitAddr r a) 8 }

/-- WINMAX and WINMIN: the winner of the records at xA and xB, written at xD (R227). -/
def winCombine (isMax : Bool) (r : Res) (w : CtlWord) (s : State) : State :=
  let x (s : State) (k : BitVec 6) : Nat := ((s.unit r).x k).toNat
  ctl r { d := .sc, a := .sc, b := .sc, lay := .v fun x => x == 0 } w [w.d, w.a, w.b]
    (fun s => { rd := [(x s w.a, x s w.a + 8), (x s w.b, x s w.b + 8)], wr := [(x s w.d, x s w.d + 8)] })
    (fun s =>
      if !recOk s r (x s w.d) 8 8 true || !recOk s r (x s w.a) 8 8 false || !recOk s r (x s w.b) 8 8 false then some 0x0112
      else fmtChkS w s)
    (fun s =>
      let f := fmtOf w.fmtS
      let v := winnerOf isMax f w.qs [s.readWinner r (x s w.a), s.readWinner r (x s w.b)]
      let s' := (s.touch r (x s w.a) 8).touch r (x s w.b) 8
      let s' := s'.store r (x s w.d) v.bytes v.poison
      ((s'.trapRec r 1 0 w.d.toNat w.fmtS (patIsNan f v.pat) true).vecBusyK r 1).retire r) s

/-- WINMAX (R227). -/
def execWinmax (r : Res) (w : CtlWord) (s : State) : Host.Outcome State Fault Refusal := .next (winCombine true r w s)

/-- WINMIN (R227). -/
def execWinmin (r : Res) (w : CtlWord) (s : State) : Host.Outcome State Fault Refusal := .next (winCombine false r w s)

/-! ### The wide adder (R228) -/

/-- A form of class 0x8: layout V with no use of X. -/
def form8 (d a b c : Use) : Form := { d, a, b, c, lay := .v fun x => x == 0 }

/-- The count xC of WCOMB and WRED, 1 to 65,536 (R228). -/
def countBad (n : Nat) : Bool := n < 1 || 65536 < n

/-- WCOMB: for each i the record at xD + 96i becomes its combination with that at xA + 96i (R228). -/
def execWcomb (r : Res) (w : CtlWord) (s : State) : Host.Outcome State Fault Refusal :=
  let x (s : State) (k : BitVec 6) : Nat := ((s.unit r).x k).toNat
  .next <| ctl r (form8 .sc .sc .no .sc) w [w.d, w.a, w.c]
    (fun s => { rd := [(x s w.a, x s w.a + 96 * x s w.c), (x s w.d, x s w.d + 96 * x s w.c)]
                wr := [(x s w.d, x s w.d + 96 * x s w.c)] })
    (fun s =>
      if countBad (x s w.c) then some 0x0111
      else if !recOk s r (x s w.d) (96 * x s w.c) 32 true || !recOk s r (x s w.a) (96 * x s w.c) 32 false then some 0x0112
      else none)
    (fun s =>
      let step (t : State) (i : Nat) : State :=
        let a := t.readFwp r (x s w.d + 96 * i)
        let b := t.readFwp r (x s w.a + 96 * i)
        let c := a.combine b
        let t := (t.touch r (x s w.d + 96 * i) 96).touch r (x s w.a + 96 * i) 96
        let t := (t.writeFwp r (x s w.d + 96 * i) c.1).countLimit r (b2n c.2)
        t.trapRec r 3 i w.d.toNat c.1.fmt c.1.nan (a.nan || b.nan)
      ((List.range (x s w.c)).foldl step s).retire r) s

/-- WRED: the record at xD becomes the combination, in order, of the xC records at xA (R228). -/
def execWred (r : Res) (w : CtlWord) (s : State) : Host.Outcome State Fault Refusal :=
  let x (s : State) (k : BitVec 6) : Nat := ((s.unit r).x k).toNat
  .next <| ctl r (form8 .sc .sc .no .sc) w [w.d, w.a, w.c]
    (fun s => { rd := [(x s w.a, x s w.a + 96 * x s w.c)], wr := [(x s w.d, x s w.d + 96)] })
    (fun s =>
      if countBad (x s w.c) then some 0x0111
      else if !recOk s r (x s w.d) 96 32 true || !recOk s r (x s w.a) (96 * x s w.c) 32 false then some 0x0112
      else none)
    (fun s =>
      let rs := (List.range (x s w.c)).map fun i => s.readFwp r (x s w.a + 96 * i)
      let step (p : Fwp × Nat) (b : Fwp) : Fwp × Nat := let c := p.1.combine b; (c.1, p.2 + b2n c.2)
      let c := (rs.drop 1).foldl step (rs.headD {}, 0)
      let t := s.touch r (x s w.a) (96 * x s w.c)
      let t := (t.writeFwp r (x s w.d) c.1).countLimit r c.2
      (t.trapRec r 3 0 w.d.toNat c.1.fmt c.1.nan (rs.any (·.nan))).retire r) s

/-- The mean and variance of ROWSTAT with the events it counts (05 R176 to R178). -/
structure RowStat where
  m      : Val
  v      : Val
  ranged : Bool := false
  clamp  : Bool := false
  /-- the mean was held at the bounds of F -/
  mclamp : Bool := false
  poison : Bool := false
  deriving DecidableEq, Repr

/-- The result format F of R176. -/
def rowFmt (sum : Fwp) : Fmt := if sum.fmt = 3 ∨ sum.fmt = 5 then .fp32 else .p32

/-- R176 to R178. The mean is returned rounded into F and decoded, the variance exact. -/
def rowStat (ovf : Bool) (sum q : Fwp) : RowStat :=
  let poison := sum.poison || q.poison
  if sum.nan || q.nan || sum.acc ≠ q.acc || sum.acc = 0 || (sum.pinf && sum.ninf) then { m := .nan, v := .nan, poison }
  else if sum.pinf then { m := .inf false, v := .inf false, poison }
  else if sum.ninf then { m := .inf true, v := .inf false, poison }
  else
    let n : Rat := sum.acc
    let f := rowFmt sum
    let mr := roundTo f 0 ovf (Val.ofRat ((quireRead .q32 sum.image).1 / n))
    let m := decode f 0 mr.pat
    let mclamp := mr.clamp
    let s2 := rangeRule .q32 (m.rat * m.rat)
    let d := (quireRead .q32 q.image).1 - n * s2.1
    if q.pinf then { m, v := if q.ninf then .nan else .inf false, ranged := s2.2, mclamp, poison }
    else if d < 0 then { m, v := .zero false, ranged := s2.2, clamp := true, mclamp, poison }
    else { m, v := Val.ofRat (d / n), ranged := s2.2, mclamp, poison }

/-- ROWSTAT: m at xD and v at xD + 4 in F (R228, 05 R176 to R178). -/
def execRowstat (r : Res) (w : CtlWord) (s : State) : Host.Outcome State Fault Refusal :=
  let x (s : State) (k : BitVec 6) : Nat := ((s.unit r).x k).toNat
  .next <| ctl r (form8 .sc .sc .sc .no) w [w.d, w.a, w.b]
    (fun s => { rd := [(x s w.a, x s w.a + 96), (x s w.b, x s w.b + 96)], wr := [(x s w.d, x s w.d + 8)] })
    (fun s =>
      if !recOk s r (x s w.d) 8 8 true || !recOk s r (x s w.a) 96 32 false || !recOk s r (x s w.b) 96 32 false then
        some 0x0112
      else none)
    (fun s =>
      let a := s.readFwp r (x s w.a)
      let b := s.readFwp r (x s w.b)
      let f := rowFmt a
      let z := rowStat w.ovf a b
      let pm := (roundTo f 0 w.ovf z.m).pat
      let v := roundTo f 0 w.ovf z.v
      let pv := v.pat
      let t := (s.touch r (x s w.a) 96).touch r (x s w.b) 96
      let t := t.store r (x s w.d) (leBytes 4 pm ++ leBytes 4 pv) z.poison
      let t := (t.countRange r (b2n z.ranged)).countCvt r (b2n z.mclamp + b2n v.clamp) 0
      let t := match r with
        | .reach n => t.modCnt n fun c => { c with norm := stick32 c.norm (b2n z.clamp) }
        | .nmu _ => t
      (t.trapRec r 3 0 w.d.toNat f.code (patIsNan f pm || patIsNan f pv) (a.nan || b.nan)).retire r) s

/-- WROUND: the record at xA rounded into FMT_D, into xD (R228, 02 R58). -/
def execWround (r : Res) (w : CtlWord) (s : State) : Host.Outcome State Fault Refusal :=
  let adr (s : State) : Nat := ((s.unit r).x w.a).toNat
  .next <| ctl r (form8 .sc .sc .no .no) w [w.a] (fun s => { rd := [(adr s, adr s + 96)] })
    (fun s => if !recOk s r (adr s) 96 32 false then some 0x0112 else fmtChkD w s)
    (fun s =>
      let a := s.readFwp r (adr s)
      let e := roundTo (fmtOf w.fmtD) w.qd w.ovf a.val
      let t := (s.touch r (adr s) 96).modU r fun u => u.setX w.d (BitVec.ofNat 64 e.pat) a.poison
      let t := t.countCvt r (b2n e.clamp) (b2n e.narInt)
      (t.trapRec r 3 0 w.d.toNat w.fmtD (patIsNan (fmtOf w.fmtD) e.pat) a.nan).retire r) s

/-- WPROD: the record of the exact product of the patterns in xA and xB, at xD (R228). -/
def execWprod (r : Res) (w : CtlWord) (s : State) : Host.Outcome State Fault Refusal :=
  let adr (s : State) : Nat := ((s.unit r).x w.d).toNat
  .next <| ctl r (form8 .sc .sc .sc .no) w [w.d] (fun s => { wr := [(adr s, adr s + 96)] })
    (fun s => if !recOk s r (adr s) 96 32 true then some 0x0112 else fmtChkS w s)
    (fun s =>
      let u := s.unit r
      let f := fmtOf w.fmtS
      let a := u.val true w.a f w.qs 0
      let b := u.val true w.b f w.qs 0
      let p := mulVal f.isIeee a.1 b.1
      let q := (Term.ofVal p).range .q32
      let rec_ : Fwp := { Fwp.ofVals w.fmtS (a.2 || b.2) [q.1.val] with acc := 1 }
      let t := (s.writeFwp r (adr s) rec_).countRange r (b2n q.2)
      (t.trapRec r 3 0 w.d.toNat w.fmtS rec_.nan (a.1.isNan || b.1.isNan)).retire r) s

end Sys2Proof.Machine
end

