-- ==== Sys2Proof/Machine/Sfu.lean ====
section
/-! DEFINITION. The special function unit (05_functions_and_normalisation): table images (R165 to R167), micro-programs (R161 to
R163), special inputs (R157), SFN (R155, R156, R174, R253, R254) and GATE (R184). -/

namespace Sys2Proof.Machine

/-! ### Table images -/

/-- A directory entry (R166). -/
structure DirE where
  func    : Nat
  kind    : Nat
  stepOff : Nat
  coefOff : Nat
  nstep   : Nat
  deriving DecidableEq, Repr

/-- Little-endian number in an image. -/
def imgNat (img : List Byte) (off n : Nat) : Nat := leNat ((img.drop off).take n)

/-- The directory entries in use (R165, R166). -/
def imgDir (img : List Byte) : List DirE :=
  (List.range (imgNat img 6 1)).map fun i =>
    let x := imgNat img (64 + 8 * i) 8
    { func := bits x 56 8, kind := bits x 48 8, stepOff := bits x 32 16, coefOff := bits x 16 16, nstep := bits x 8 8 }

/-- The micro-program entry of a FUNC (R156). -/
def imgEntry (img : List Byte) (func : Nat) : Option DirE := (imgDir img).find? fun e => e.func == func && e.kind == 2

/-- A coefficient (R166). -/
def coefVal (x : Nat) : Val :=
  let neg := bitAt x 63
  if bitAt x 62 then .zero neg
  else
    let v := pow2 (sbits x 52 10) * (1 + mkRat (bits x 12 40) (2 ^ 40))
    .fin (if neg then -v else v)

/-- A step word is defined: R161, R162. -/
def stepOk (x : Nat) : Bool :=
  (bitAt x 18 || bits x 15 3 == 0) && match bits x 28 4 with
  | 0 => true
  | 1 => true
  | 2 => decide (bits x 0 6 ≤ 1)
  | 3 => true
  | 4 => decide (bits x 0 6 ≤ 5)
  | 5 => decide (bits x 0 6 ≤ 1)
  | 6 => decide (bits x 0 6 ≤ 1)
  | _ => false

/-- Highest coefficient index that a step reads, plus one. -/
def stepCoefs (x : Nat) : Nat :=
  let k := bits x 6 9
  match bits x 28 4 with
  | 1 => k + 3
  | 2 => if bitAt x 18 then 0 else k + 1
  | 4 => if bitAt x 18 || bits x 0 6 = 5 then 0 else k + 1
  | _ => 0

/-- The coefficients that a step reads (R162). -/
def stepReads (x : Nat) : List Nat :=
  let k := bits x 6 9
  match bits x 28 4 with
  | 1 => [k, k + 1, k + 2]
  | 2 => if bitAt x 18 then [] else [k]
  | 4 => if bitAt x 18 || bits x 0 6 = 5 then [] else [k]
  | _ => []

/-- A micro-program entry lies in the body, its steps are defined, the reserved bits of its coefficients are zero and it ends at END (R166,
R167). -/
def progOk (img : List Byte) (e : DirE) : Bool :=
  let steps := (List.range e.nstep).map fun i => imgNat img (e.stepOff + 4 * i) 4
  decide (1 ≤ e.nstep) && decide (e.nstep ≤ 64) && decide (2624 ≤ e.stepOff) && decide (e.stepOff + 4 * e.nstep ≤ 4096) &&
    steps.all stepOk && bits (steps.getLastD 1) 28 4 == 0 &&
    (steps.all fun x => stepCoefs x == 0 || (decide (2624 ≤ e.coefOff) && decide (e.coefOff + 8 * stepCoefs x ≤ 4096))) &&
    (steps.all fun x => (stepReads x).all fun k => imgNat img (e.coefOff + 8 * k) 8 % 2 ^ 12 == 0)

/-- A FUNC that a directory entry may name (R156, R167). -/
def funcOk (f : Nat) : Bool := decide (f ≤ 8) || (decide (0x10 ≤ f) && decide (f ≤ 0x1F))

/-- The checks of R167 on an image's contents; `digests` are the table-image digests of the active manifest. An NFUNC outside 1 to 32 and a
nonzero STEP_OFF or NSTEP of KIND 1 or 3 fail it too (log 34). -/
def imgOk (digests : List (BitVec 256)) (img : List Byte) : Bool :=
  let dir := imgDir img
  let raw := (List.range (imgNat img 6 1)).map fun i => imgNat img (64 + 8 * i) 8
  img.length == 4096 && imgNat img 0 4 == 0xFD2A5F0B && imgNat img 4 2 == 1 && imgNat img 7 1 == 0 &&
    imgNat img 16 48 == 0 && decide (1 ≤ imgNat img 6 1) && decide (imgNat img 6 1 ≤ 32) &&
    (raw.all fun x => bits x 0 8 == 0) &&
    (dir.all fun e => funcOk e.func && decide (1 ≤ e.kind) && decide (e.kind ≤ 3) &&
      (if e.kind = 2 then progOk img e else e.stepOff == 0 && e.nstep == 0)) &&
    ((dir.map fun e => (e.func, e.kind)).eraseDups.length == dir.length) &&
    sm3 ((img.drop 320).take 1536) == Config.nativeDigest &&
    sm3 ((img.drop 1856).take 768) == Config.fd1Digest && digests.contains (sm3 img)

/-- TABLE_ID of an image (R165). -/
def imgId (img : List Byte) : W64 := BitVec.ofNat 64 (imgNat img 8 8)

/-! ### Micro-programs -/

/-- The temporaries of a micro-program. -/
abbrev Temps := Vector Val 8

/-- An internal value rounded to an integer, ties to even; a special value stays (R162). -/
def intVal : Val → Val
  | .fin v => Val.ofRat (roundRNE v)
  | v => v

/-- IEEE-like order of internal values: NaN is unordered. -/
def cselHolds (m : Nat) (a x : Val) : Bool :=
  let c := cmpVal true a x
  match m with
  | 0 => c == some .lt
  | 1 => c == some .lt || c == some .eq
  | 2 => c == some .eq
  | 3 => c == some .gt
  | 4 => c == some .gt || c == some .eq
  | _ => a.isNan

/-- The seed of 1/x (0) or 1/√x (1) of a positive x: what the table gives, within the relative error of R162. -/
def seedOf (m : Nat) (x : Rat) : Rat :=
  let y := Config.rseed m x
  let eps := pow2 (-12)
  if m = 0 then (if rabs (y * x - 1) < eps then y else 1 / x)
  else if 0 < y ∧ (1 - eps) * (1 - eps) < y * y * x ∧ y * y * x < (1 + eps) * (1 + eps) then y
  else 1 / sqrtQ x

/-- The seed of 1/x or 1/√x (R162); special inputs as the functions RECIP and RSQRT have them (R157). -/
def seedVal (m : Nat) (a : Val) : Val :=
  match a with
  | .nan => .nan
  | .escape => .nan
  | .zero n => .inf n
  | .inf n => if m = 1 ∧ n then .nan else .zero n
  | .fin v =>
    if m = 0 then .fin (if v < 0 then -(seedOf 0 (-v)) else seedOf 0 v)
    else if v < 0 then .nan else .fin (seedOf 1 v)

/-- SCALE's exponent: the integer value of tB, limited to ±1,023 (R162). The spec gives none for a special tB: NaN gives NaN, and an
infinity the limit of its sign (log 34). -/
def scaleExp : Val → Option Int
  | .nan => none
  | .inf n => some (if n then -1023 else 1023)
  | v => some (max (-1023) (min 1023 (truncZ v.rat)))

/-- Product and sum of internal values, where a zero has a sign. -/
def imul (a b : Val) : Val := mulVal true a b

/-- One step (R162): the temporaries after it. An RRED whose D and B are one temporary leaves n in it (log 34). -/
def runStep (img : List Byte) (coefOff x : Nat) (t : Temps) : Temps :=
  let d : Fin 8 := Fin.ofNat 8 (bits x 25 3)
  let a := t[Fin.ofNat 8 (bits x 22 3)]
  let bi : Fin 8 := Fin.ofNat 8 (bits x 19 3)
  let b := t[bi]
  let m := bits x 0 6
  let coef (i : Nat) : Val := coefVal (imgNat img (coefOff + 8 * (bits x 6 9 + i)) 8)
  let third := if bitAt x 18 then t[Fin.ofNat 8 (bits x 15 3)] else coef 0
  match bits x 28 4 with
  | 1 =>
    let n := intVal (imul a (coef 0))
    let v := addVal (addVal a (negVal (imul n (coef 1)))) (negVal (imul n (coef 2)))
    (t.set d (roundInternal v)).set bi (roundInternal n)
  | 2 => t.set d (roundInternal (addVal (imul a b) (if m = 0 then third else negVal third)))
  | 3 =>
    match scaleExp b with
    | some n => t.set d (roundInternal (match a with | .fin v => .fin (v * pow2 n) | v => v))
    | none => t.set d .nan
  | 4 => if cselHolds m a third then t.set d b else t
  | 5 => t.set d (roundInternal (seedVal m a))
  | 6 =>
    let v := if m = 0 then imul b (addVal (.fin 2) (negVal (imul a b)))
             else imul b (addVal (.fin (mkRat 3 2)) (negVal (imul (imul (imul (.fin (mkRat 1 2)) a) b) b)))
    t.set d (roundInternal v)
  | _ => t

/-- Run the steps of a program; END gives tD (R163). -/
def runSteps (img : List Byte) (coefOff : Nat) : List Nat → Temps → Val
  | [], t => t[0]
  | x :: xs, t =>
    if bits x 28 4 = 0 then t[Fin.ofNat 8 (bits x 25 3)] else runSteps img coefOff xs (runStep img coefOff x t)

/-- A micro-program on one internal input (R163). -/
def runProg (img : List Byte) (e : DirE) (v : Val) : Val :=
  runSteps img e.coefOff ((List.range e.nstep).map fun i => imgNat img (e.stepOff + 4 * i) 4)
    (Vector.replicate 8 (.zero false) |>.set 0 (roundInternal v))

/-! ### Functions -/

/-- R157: the internal result of a special input of FUNC 0x00 to 0x08; `signed` says that a zero is an IEEE zero.
`none` where the function's value counts. -/
def specialIn (func : Nat) (ieee : Bool) (v : Val) : Option Val :=
  let v := if v = .escape then .zero false else v
  match v with
  | .nan => some .nan
  | .inf false => some (match func with
      | 0 => .fin 1 | 1 => .fin 1 | 5 => .zero false | 6 => .zero false | _ => .inf false)
  | .inf true => some (match func with
      | 0 => .fin (-1) | 1 => .zero false | 2 => .zero false | 3 => .zero false | 4 => .nan | 5 => .zero true | 6 => .nan
      | _ => .zero true)
  | .zero n => some (match func with
      | 0 => .zero n
      | 1 => .fin (mkRat 1 2)
      | 2 => .fin 1
      | 3 => .fin 1
      | 4 => if ieee then .inf true else .nan
      | 5 => if ieee then .inf n else .nan
      | 6 => if ieee then .inf n else .nan
      | _ => .zero n)
  | .fin x => if x < 0 ∧ (func = 4 ∨ func = 6) then some .nan else none
  | .escape => none

/-- The exact value as an internal result that the output format rounds once (R154): one outside the internal form is a zero or an infinity
there. -/
def exactIn (t : Rat) : Val :=
  match roundInternal (Val.ofRat t) with
  | .fin _ => .fin t
  | v => v

/-! ### The native path (R158 to R160) -/

/-- The bound of R159 in ulps: FUNC 0 for a magnitude, FUNC 1. -/
def nativeErr (func : Nat) (f : Fmt) (x : Rat) : Rat :=
  let a := rabs x
  let col : Nat := match f with | .p8 => 0 | .p16 => 1 | .p32 => 2 | .bf16 => 3 | _ => 4
  let half := mkRat 1 2
  let row : List Rat :=
    if a < half then [half, half, 1, half, half]
    else if a < 4 then [half, 1, 2, half, 1]
    else if a < 16 then [1, 2, 8, 1, if func = 0 then 1 else 2]
    else if func = 0 then [half, half, half, half, half]
    else if 0 < x then [half, half, 16, half, half]
    else [2, 2, 64, 2, 1]
  row.getD col half

/-- The lowest place that R159 leaves to the result at x, none below zero. -/
def nativeLo (f : Fmt) (q : Int) (ovf : Bool) (func : Nat) (x : Rat) : Int :=
  let t := funcQ func x
  let r := idxOf f (roundTo f q ovf (exactIn t)).pat
  let e := nativeErr func f x
  if f.isInt then max 0 (r - 1)
  else if e ≤ mkRat 1 2 then r
  else max 0 ((if (finOf f q (patAt f r)).getD 0 ≤ t then r else r - 1) - (e.floor - 1))

/-- The highest place that R159 leaves to the result at x. -/
def nativeHi (f : Fmt) (q : Int) (ovf : Bool) (func : Nat) (x : Rat) : Int :=
  let t := funcQ func x
  let p := (roundTo f q ovf (exactIn t)).pat
  let r := idxOf f p
  let e := nativeErr func f x
  if f.isInt then min f.intRange.2 (r + 1)
  else if e ≤ mkRat 1 2 then r
  else
    let top := t + e * ulpAt f q p t
    (List.range (e.floor.toNat + 1)).foldl (fun m i =>
      match finOf f q (patAt f (r + i)) with
      | some v => if v ≤ top then r + i else m
      | none => m) r

/-- The p32 inputs at and beside the ends of the ranges of R159. -/
def nativeEnds (func : Nat) : List Rat :=
  let up := [(mkRat 1 2, pow2 (-29)), (4, pow2 (-26)), (16, pow2 (-24))].flatMap fun p => [p.1 - p.2, p.1, p.1 + p.2]
  if func = 0 then up else up ++ up.map fun x => -x

/-- The native result at x as a place of the output format: within the bounds of R159, which R160 carries from one range to the next, the
places that are reached follow from free inputs in rising order, so that the result never falls as x rises. -/
def nativePlace (f : Fmt) (q : Int) (ovf : Bool) (func : Nat) (x : Rat) : Int :=
  let ends := nativeEnds func
  let lo := (ends.filter fun y => decide (y ≤ x)).foldl (fun m y => max m (nativeLo f q ovf func y)) (nativeLo f q ovf func x)
  let hi := (ends.filter fun y => decide (x ≤ y)).foldl (fun m y => min m (nativeHi f q ovf func y)) (nativeHi f q ovf func x)
  (List.range (hi - lo).toNat).foldl (fun m i =>
    if Config.nativeStep func f.code q (lo + 1 + i) ≤ x then lo + 1 + i else m) lo

/-- The native result of TANH at a magnitude or of LOGISTIC, as a value that the output format holds, or the exact one where they are the
same there. -/
def nativeMag (f : Fmt) (q : Int) (ovf : Bool) (func : Nat) (x : Rat) : Val :=
  let t := exactIn (funcQ func x)
  let i := nativePlace f q ovf func x
  if i = idxOf f (roundTo f q ovf t).pat then t else decode f q (patAt f i)

/-- TANH and LOGISTIC into an output format (R156 to R160): TANH is evaluated on the magnitude and takes the sign afterwards. -/
def nativeOut (f : Fmt) (q : Int) (ovf : Bool) (func : Nat) (ieee : Bool) (v : Val) : Val :=
  match specialIn func ieee v with
  | some r => r
  | none =>
    let x := v.rat
    if func = 0 ∧ x < 0 then negVal (nativeMag f q ovf 0 (-x)) else nativeMag f q ovf func x

/-- The native path in the internal form, as GATE takes it (R158, R184). -/
def nativeVal (func : Nat) (ieee : Bool) (v : Val) : Val :=
  match specialIn func ieee v with
  | some r => r
  | none =>
    let x := v.rat
    roundInternal (if func = 0 then (if x < 0 then negVal (Val.ofRat (Config.nativeFn 0 (-x))) else Val.ofRat (Config.nativeFn 0 x))
                   else Val.ofRat (Config.nativeFn 1 x))

/-! ### Micro-path functions (R156, R163, R164) -/

/-- The bound of R164 in ulps. -/
def shippedErr (func : Nat) (f : Fmt) : Rat :=
  let wide := f == .p32
  match func with
  | 2 => if wide then 2 else 1
  | 4 => if wide then 2 else 1
  | 7 => if wide then 4 else 2
  | 8 => if wide then 4 else 2
  | _ => if wide then 1 else mkRat 1 2

/-- Sign and class of a value: zero, finite, infinite, NaN (R164). -/
def valClass : Val → Nat × Bool
  | .zero _ => (0, false)
  | .fin v => (1, decide (v < 0))
  | .inf n => (2, n)
  | .nan => (3, false)
  | .escape => (0, false)

/-- R164: a result pattern that a shipped micro-program may give at a finite nonzero x. -/
def shippedOk (f : Fmt) (q : Int) (ovf : Bool) (func : Nat) (x : Rat) (p : Nat) : Bool :=
  let t := funcQ func x
  let place (v : Rat) : Int := idxOf f (roundTo f q ovf (Val.ofRat v)).pat
  let within : Bool := match func with
    | 2 => decide (pow2 (-100) ≤ t) && decide (t ≤ pow2 100)
    | 3 => decide (pow2 (-100) ≤ t) && decide (t ≤ pow2 100)
    | 7 => decide (-4 ≤ x)
    | 8 => decide (-4 ≤ x)
    | _ => decide (pow2 (-100) ≤ x) && decide (x ≤ pow2 100)
  if within then withinUlps f q ovf (shippedErr func f) t p
  else if 7 ≤ func then
    decide (place (t - pow2 (-24)) ≤ idxOf f p) && decide (idxOf f p ≤ place (t + pow2 (-24)))
  else valClass (decode f q p) == valClass (decode f q (roundTo f q ovf (exactIn t)).pat)

/-- What a shipped micro-program gives at a finite nonzero x: the result of its steps where that keeps R164, else the exact one. -/
def shippedGuard (f : Fmt) (q : Int) (ovf : Bool) (func : Nat) (x : Rat) (c : Val) : Val :=
  if shippedOk f q ovf func x (roundTo f q ovf c).pat then c else exactIn (funcQ func x)

/-- The steps of a program, and its coefficients as far as they are read. -/
def progWords (img : List Byte) (e : DirE) : List Nat × List Nat :=
  let steps := (List.range e.nstep).map fun i => imgNat img (e.stepOff + 4 * i) 4
  (steps, (steps.flatMap stepReads).map fun k => imgNat img (e.coefOff + 8 * k) 8)

/-- An entry holds the shipped micro-program of its FUNC. -/
def isShipped (img : List Byte) (e : DirE) : Bool :=
  match imgEntry Config.shippedImage e.func with
  | some d => decide (e.func ≤ 8) && progWords img e == progWords Config.shippedImage d
  | none => false

/-- The shipped micro-programs that the firmware and the NMUs hold (R155, R164, 07 R245, 08 R254). -/
def shippedVal (f : Fmt) (q : Int) (ovf : Bool) (func : Nat) (ieee : Bool) (v : Val) : Val :=
  match specialIn func ieee v with
  | some r => r
  | none =>
    shippedGuard f q ovf func v.rat (match imgEntry Config.shippedImage func with
      | some d => runProg Config.shippedImage d v
      | none => .nan)

/-- A micro-path function of the active bank (R155, R156, R163): where the bank holds the shipped program, the result is that of
`shippedVal`. -/
def microVal (img : List Byte) (e : DirE) (f : Fmt) (q : Int) (ovf : Bool) (ieee : Bool) (v : Val) : Val :=
  if e.func ≤ 8 then
    match specialIn e.func ieee v with
    | some r => r
    | none => if isShipped img e then shippedGuard f q ovf e.func v.rat (runProg img e v) else runProg img e v
  else runProg img e v

/-! ### FD1 compatibility mode -/

/-- The FD1 SFU's result for a p16 pattern (R174), with the four that R175 gives. -/
def fd1Val (func : Nat) (p : W16) : W16 :=
  if func = 0 ∧ p = 0x4A3F then 0x3FD1
  else if func = 0 ∧ p = 0x4A40 then 0x3FD0
  else if func = 1 ∧ p = 0xB3FF then 0x1E13
  else if func = 1 ∧ p = 0xB400 then 0x1E12
  else Config.fd1Fn func p

/-! ### SFN -/

/-- FUNC of SFN. -/
def sfnFunc (w : CtlWord) : Nat := bits w.x 1 8
/-- FD1 of SFN. -/
def sfnFd1 (w : CtlWord) : Bool := bitAt w.x 0

/-- The image of the bank that the unit's SFU uses; an NMU has none. -/
def State.sfuImage (s : State) (r : Res) : List Byte :=
  match r with
  | .reach n => (s.reach[n].banks.toList[s.reach[n].active]?.map (·.image)).getD []
  | .nmu _ => []

/-- The unit evaluates the shipped programs whatever its bank holds (R245, 08 R254). -/
def State.useShipped (s : State) (r : Res) : Bool := r.isNmu || (s.unit r).repro

/-- The micro-path FUNC is present (R156). -/
def State.funcPresent (s : State) (r : Res) (func : Nat) : Bool :=
  decide (func ≤ 1) || (s.useShipped r && decide (func ≤ 8)) || (imgEntry (s.sfuImage r) func).isSome

/-- Steps s of a shipped micro-program (R164). -/
def shippedSteps (func : Nat) : Nat :=
  match func with
  | 2 => 7 | 3 => 6 | 4 => 9 | 5 => 3 | 6 => 3 | 7 => 10 | 8 => 9 | _ => 1

/-- The SFU of a reach is occupied for G × s cycles (R236, R247). -/
def State.sfuBusy (s : State) (r : Res) (steps : Nat) : State :=
  match r with
  | .reach n => s.countPerf n (((s.unit r).vl.toNat + 31) / 32 * steps) 0x408 (·.sfuBusy) fun p x => { p with sfuBusy := x }
  | .nmu _ => s

/-- The events of SFN in the order of 07 R625. -/
def sfnChk (r : Res) (w : CtlWord) (s : State) : Option Nat :=
  let u := s.unit r
  let f := sfnFunc w
  if (sfnFd1 w && (r.isNmu || !u.fd1sfu)) || (r.isNmu && f ≠ 2 && f ≠ 5 && f ≠ 6) then some 0x0111
  else if !fmtSfu w.fmtS || !fmtSfu w.fmtD then some 0x0101
  else if sfnFd1 w && (2 < f || w.fmtS ≠ 1 || w.fmtD ≠ 1) then some 0x010A
  else if !sfnFd1 w && (!s.funcPresent r f || !funcOk f) then some 0x0109
  else if u.repro && (sfnFd1 w || 8 < f) then some 0x0114
  else none

/-- The element that SFN writes for one input element. -/
def sfnElem (s : State) (r : Res) (w : CtlWord) (i : Nat) : Elem :=
  let u := s.unit r
  let fs := fmtOf w.fmtS
  let fd := fmtOf w.fmtD
  let f := sfnFunc w
  let a := u.val false w.a fs w.qs i
  if sfnFd1 w then
    let p := (fd1Val f (BitVec.ofNat 16 (rawPat u false w.a fs i).1)).toNat
    { pat := p, poison := a.2, nan := patIsNan fd p, carried := a.1.isNan }
  else
    let v := if f ≤ 1 then nativeOut fd w.qd w.ovf f fs.isIeee a.1
             else if s.useShipped r && decide (f ≤ 8) then shippedVal fd w.qd w.ovf f fs.isIeee a.1
             else match imgEntry (s.sfuImage r) f with
               | some e => microVal (s.sfuImage r) e fd w.qd w.ovf fs.isIeee a.1
               | none => .nan
    mkElem fd w.qd w.ovf v a.2 a.1.isNan

/-- SFU cycles per group of an SFN (R163, R236). -/
def sfnSteps (s : State) (r : Res) (w : CtlWord) : Nat :=
  let f := sfnFunc w
  if sfnFd1 w || f ≤ 1 then 1
  else if s.useShipped r then shippedSteps f
  else ((imgEntry (s.sfuImage r) f).map fun e => e.nstep - 1).getD 1

/-- SFN: one function on each element, rounded once (R152 to R157, R174). -/
def execSfn (r : Res) (w : CtlWord) (s : State) : Host.Outcome State Fault Refusal :=
  .next <| ctlReg r { d := .ve, a := .ve, lay := .v fun _ => true } w (sfnChk r w)
    (fun s =>
      let es := (List.range (s.unit r).vl.toNat).map (sfnElem s r w)
      (s.sfuBusy r (sfnSteps s r w)).writeVec r 2 w.d.toNat w.fmtD es) s

/-- The argument of tanh in GATE form 1 at a finite nonzero g, to the precision of two internal steps. -/
def gateTanhArg (g : Rat) : Val :=
  let z := geluArg g
  let y := Config.gateArg g
  roundInternal (Val.ofRat (if rabs (y - z) ≤ pow2 (-38) * rabs z then y else z))

/-- The activation factor of GATE (R184): LOGISTIC, 0.5 (1 + tanh …), TANH. -/
def gateFactor (form : Nat) (ieee : Bool) (g : Val) : Val :=
  if form = 0 then nativeVal 1 ieee g
  else if form = 2 then nativeVal 0 ieee g
  else
    match specialIn 1 ieee g with
    | some r => r
    | none => roundInternal (mulVal ieee (.fin (mkRat 1 2)) (addVal (.fin 1) (nativeVal 0 ieee (gateTanhArg g.rat))))

/-- y of GATE before rounding (R184). -/
def gateVal (form : Nat) (ieee : Bool) (g u : Val) : Val :=
  let a := gateFactor form ieee g
  if form = 2 then mulVal ieee a u else mulVal ieee (mulVal ieee g a) u

/-- The exact value of g × a × u at a finite nonzero g, with a the exact activation factor (R184). -/
def gateQ (form : Nat) (g u : Rat) : Rat :=
  if form = 0 then funcQ 8 g * u else if form = 2 then funcQ 0 g * u else funcQ 7 g * u

/-- The bound of R184 in ulps. -/
def gateErr (form : Nat) (f : Fmt) (g : Rat) : Rat :=
  (if form = 0 then nativeErr 1 f g else if form = 2 then nativeErr 0 f (rabs g) else shippedErr 7 f) + mkRat 1 2

/-- y of GATE as the output format rounds it: the product where that keeps the bound of R184, else the exact value. -/
def gateOut (f : Fmt) (q : Int) (ovf : Bool) (form : Nat) (ieee : Bool) (g u : Val) : Val :=
  let c := gateVal form ieee g u
  match g, u with
  | .fin x, .fin y =>
    let t := gateQ form x y
    if withinUlps f q ovf (gateErr form f x) t (roundTo f q ovf c).pat then c else exactIn t
  | _, _ => c

/-- GATE: the fused product, rounded once (R184, 07 R223). -/
def execGate (r : Res) (w : CtlWord) (s : State) : Host.Outcome State Fault Refusal :=
  let form := bits w.x 7 2
  let nou := bitAt w.x 6
  .next <| ctlReg r
    { d := .ve, a := .ve, b := if nou then .free else .ve, lay := .v fun x => bits x 0 6 == 0 && bits x 7 2 != 3, nmu := false } w
    (fun _ => if fmtSfu w.fmtS && fmtSfu w.fmtD then none else some 0x0101)
    (fun s =>
      let u := s.unit r
      let f := fmtOf w.fmtS
      let one (i : Nat) : Elem :=
        let g := u.val false w.a f w.qs i
        let y := if nou then (.fin 1, false) else u.val false w.b f w.qs i
        mkElem (fmtOf w.fmtD) w.qd w.ovf (gateOut (fmtOf w.fmtD) w.qd w.ovf form f.isIeee g.1 y.1) (g.2 || y.2) (g.1.isNan || y.1.isNan)
      (s.sfuBusy r (if form = 1 then 3 else 1)).writeVec r 2 w.d.toNat w.fmtD ((List.range u.vl.toNat).map one)) s

end Sys2Proof.Machine
end

