-- ==== Sys2Proof/Machine/Quantise.lean ====
section
/-! DEFINITION. Class 0x9 of the control stream: QUANT, SIDEX and QCHECK (06_quantisation, 07 R229 to R231). -/

namespace Sys2Proof.Machine

/-! ### Code layouts -/

/-- Pack codes as 03 R76 lays out a column: 4-bit codes two to a byte, an odd last nibble 0 (02 R42). -/
def packCodes (w : Nat) : List Nat → List Byte
  | [] => []
  | [x] => if w = 4 then [BitVec.ofNat 8 (x % 16)] else leBytes (w / 8) x
  | x :: y :: xs =>
    if w = 4 then BitVec.ofNat 8 (x % 16 + 16 * (y % 16)) :: packCodes w xs
    else leBytes (w / 8) x ++ packCodes w (y :: xs)

/-- Element k of a row at byte address `a` (R76). -/
def State.rowCode (s : State) (w a k : Nat) : Nat :=
  if w = 4 then bits (s.readNat (a + k / 2) 1) (4 * (k % 2)) 4 else s.readNat (a + k * (w / 8)) (w / 8)

/-- The line of element k of a row is poisoned. -/
def State.rowPoison (s : State) (w a k : Nat) : Bool :=
  if w = 4 then s.poisonedRange (a + k / 2) 1 else s.poisonedRange (a + k * (w / 8)) (w / 8)

/-! ### QUANT -/

/-- The parameter block of QUANT (07 R229). -/
structure QParam where
  src     : Nat
  sstride : Nat
  nrow    : Nat
  len     : Nat
  fmtS    : Nat
  tgt     : Nat
  g       : Nat
  escn    : Nat
  lyr     : Nat
  code    : Nat
  cstride : Nat
  scale   : Nat
  zp      : Nat
  zpv     : Nat
  side    : Nat
  err     : Nat
  /-- every reserved field is zero -/
  rsv     : Bool
  /-- a line of the block is poisoned -/
  poison  : Bool
  deriving DecidableEq, Repr

/-- Read the block (07 R229). -/
def readQParam (s : State) (r : Res) (a : Nat) : QParam :=
  let b := s.read (unitAddr r a) 64
  let n (o k : Nat) : Nat := imgNat b o k
  { src := n 0 4, sstride := n 4 4, nrow := n 8 2 + 1, len := n 10 2 + 1, fmtS := n 12 1, tgt := n 13 1, g := n 14 2
    escn := n 16 1, lyr := n 18 2, code := n 20 4, cstride := n 24 4, scale := n 28 4, zp := n 32 4, zpv := n 36 4
    side := n 40 4, err := n 44 4, rsv := n 17 1 == 0 && n 48 16 == 0 && bits (n 12 1) 4 4 == 0 && bits (n 13 1) 5 3 == 0
    poison := s.poisonedRange (unitAddr r a) 64 }

/-- Target format code. -/
def QParam.tfmt (p : QParam) : Nat := p.tgt % 16
/-- The gradient form: a p16 scale (R192). -/
def QParam.grad (p : QParam) : Bool := bitAt p.tgt 4
/-- The RANGE rule (R192). -/
def QParam.range (p : QParam) : Bool := p.tfmt == 7 || p.tfmt == 9
/-- The AMAX rule (R192). -/
def QParam.amax (p : QParam) : Bool := p.tfmt == 6 || p.tfmt == 8
/-- Source and target formats that QUANT takes (R192). -/
def QParam.fmtsOk (p : QParam) : Bool :=
  (match Fmt.ofCode p.fmtS with | some f => !f.isInt | none => false) &&
    (p.range || p.amax || p.tfmt == 0 || p.tfmt == 1) && (!p.grad || p.tfmt == 0)

/-- The largest n-bit posit pattern whose value squared is at most y, found bit by bit. -/
def sqrtPat (n : Nat) (y : Rat) : (b : Nat) → (p : Nat) → Nat
  | 0, p => p
  | b + 1, p =>
    let q := p + 2 ^ b
    let v := (decodePosit n q).rat
    sqrtPat n y b (if v * v ≤ y then q else p)

/-- √y of a positive rational rounded into an n-bit posit (02 R45), by exact comparisons of squares (R193). -/
def roundSqrtPosit (n : Nat) (y : Rat) : Nat :=
  let p := sqrtPat n y (n - 1) 0
  if p = 0 then 1
  else if p = 2 ^ (n - 1) - 1 then p
  else
    let m := (decodePosit (n + 1) (2 * p + 1)).rat
    if y < m * m then p else if m * m < y then p + 1 else if p % 2 = 0 then p else p + 1

/-- What QUANT makes of one row (R193 to R195, R204). -/
structure QRow where
  codes  : List Nat
  scale  : Nat
  z      : Nat
  /-- escaped elements: position and p32 value -/
  side   : List (Nat × Nat) := []
  sse    : Rat := 0
  nan    : Bool := false
  clamps : Nat := 0
  ranged : Nat := 0
  deriving DecidableEq, Repr

/-- Positions of the `n` nonzero elements of largest magnitude, lower position first on ties (R193). -/
def escapes (xs : List Rat) : (n : Nat) → (taken : List Nat) → List Nat
  | 0, t => t
  | n + 1, t =>
    let idx := (List.range xs.length).filter fun k => !t.contains k && decide (xs.getD k 0 ≠ 0)
    match idx with
    | [] => t
    | k :: ks =>
      let best := ks.foldl (fun b j => if rabs (xs.getD b 0) < rabs (xs.getD j 0) then j else b) k
      escapes xs n (best :: t)

/-- One element's code, its error and whether it clamped (R193). -/
def quantElem (p : QParam) (big : Rat) (z : Nat) (x : Rat) : Nat × Rat × Bool :=
  let f := fmtOf p.tfmt
  if f.isInt then
    let (lo, hi) := f.intRange
    let c := roundRNE (x / big) + z
    let d := if c < lo then lo else if hi < c then hi else c
    ((d % (2 ^ f.width : Nat)).toNat, x - big * ((d - z : Int) : Rat), d ≠ c)
  else
    let r := roundTo f 0 false (Val.ofRat (x / big))
    (r.pat, x - big * (decode f 0 r.pat).rat, r.clamp)

/-- A square added to the error sum under the range rule (R204). -/
def addSquare (a : Rat × Nat) (e : Rat) : Rat × Nat :=
  let q := rangeRule .q32 (e * e)
  (a.1 + q.1, a.2 + b2n q.2)

/-- R193 for a row of finite elements; R195 for any other. `clamps` counts the roundings of codes alone, not those of the scale code, the
zero point or a side value: the model's choice, log entry 124. -/
def quantRow (p : QParam) (vs : List Val) : QRow :=
  if vs.any fun v => v.isNan || v == .inf false || v == .inf true then
    { codes := vs.map fun _ => 0, scale := if p.grad then 0x8000 else 0x80, z := 0, nan := true }
  else
    let xs := vs.map Val.rat
    let g : Rat := if p.grad then 1 else (decodePosit 16 p.g).rat
    let f := fmtOf p.tfmt
    let esc := if p.amax then escapes xs p.escn [] else []
    let kept := ((List.range xs.length).filter fun k => !esc.contains k).map fun k => xs.getD k 0
    let lo := xs.foldl min 0
    let hi := xs.foldl max 0
    let den : Rat := ((2 ^ f.width - 1 : Nat) : Rat)
    let half : Rat := ((2 ^ (f.width - 1) - 1 : Nat) : Rat)
    let ms := (xs.map fun x => x * x).foldl (· + ·) 0 / (xs.length : Rat)
    let raw := if p.range then (hi - lo) / den else (kept.map rabs).foldl max 0 / half
    let n := if p.grad then 16 else 8
    let sigma : Nat :=
      if p.range || p.amax then
        (if raw = 0 then 0x40 else (roundPosit 8 (Val.ofRat (raw / g))).pat)
      else if ms = 0 then (if p.grad then 0x4000 else 0x40) else roundSqrtPosit n (ms / (g * g))
    let big := (decodePosit n sigma).rat * g
    let z : Nat := if p.range then (max 0 (min ((2 ^ f.width - 1 : Nat) : Int) (roundRNE (-lo / big)))).toNat else 0
    let escPat := 2 ^ (f.width - 1)
    let one (k : Nat) : Nat × Rat × Bool × Option Nat :=
      let x := xs.getD k 0
      if esc.contains k then
        let v := (roundPosit 32 (Val.ofRat (x / big))).pat
        (escPat, x - big * (decodePosit 32 v).rat, false, some v)
      else let c := quantElem p big z x; (c.1, c.2.1, c.2.2, none)
    let es := (List.range xs.length).map one
    let sse := (es.map fun e => e.2.1).foldl addSquare (0, 0)
    { codes := es.map (·.1), scale := sigma, z
      side := ((List.range xs.length).zip es).filterMap fun q => q.2.2.2.2.map fun v => (q.1, v)
      sse := sse.1, clamps := es.countP (·.2.2.1), ranged := sse.2 }

/-- The rows of a QUANT with their poison. -/
def quantRows (s : State) (r : Res) (p : QParam) : List (QRow × Bool) :=
  let f := fmtOf p.fmtS
  (List.range p.nrow).map fun t =>
    let a := unitAddr r (p.src + t * p.sstride)
    let vs := (List.range p.len).map fun k => decode f 0 (s.rowCode f.width a k)
    (quantRow p vs, p.poison || (List.range p.len).any fun k => s.rowPoison f.width a k)

/-- Bytes that QUANT writes for row t, where its side entries start at entry `n`: address and bytes (R194, R199, R204). The error record of a
poisoned row carries POISON (07 R217). K of a side entry takes the position modulo 128, where the spec gives its seven bits no position
beyond 127: the model's choice, log entry 126. -/
def quantWrites (p : QParam) (t n : Nat) (q : QRow) (poison : Bool) : List (Nat × List Byte) :=
  let f := fmtOf p.tfmt
  let sb := if p.grad then 2 else 1
  let err : Fwp :=
    { fmt := p.fmtS, cls := 2, zs := 2, acc := p.len, poison, image := quireImage .q32 q.nan q.sse }
  [(p.code + t * p.cstride, packCodes f.width q.codes), (p.scale + sb * t, leBytes sb q.scale), (p.zp + t, leBytes 1 q.z)] ++
    (if p.range then [(p.zpv + 128 * t, List.replicate 128 (BitVec.ofNat 8 q.z))] else []) ++
    (if q.side.isEmpty then [] else
      [(p.side + 8 * n, q.side.flatMap fun e => leBytes 8 (e.2 * 2 ^ 32 + (t % 256) * 2 ^ 16 + e.1 % 128))]) ++
    [(p.err + 96 * t, err.bytes)]

/-- Every write of a QUANT, with the poison of its row; side entries follow each other densely in row order. -/
def quantAll (p : QParam) : (t n : Nat) → List (QRow × Bool) → List (Nat × List Byte × Bool)
  | _, _, [] => []
  | t, n, q :: qs => (quantWrites p t n q.1 q.2).map (fun w => (w.1, w.2, q.2)) ++ quantAll p (t + 1) (n + q.1.side.length) qs

/-- QUANT's events in the order of 07 R625; an NMU runs an RMS target alone (07 R244). Where a format code is reserved, the areas that depend on
it are taken as `fmtOf` has them: the model's choice, log entry 126. -/
def quantChk (r : Res) (w : CtlWord) (s : State) : Option Nat :=
  let a := ((s.unit r).x w.a).toNat
  if a % 32 ≠ 0 || !s.accOk r a 64 false then some 0x0112
  else
    let p := readQParam s r a
    if !p.rsv || 256 < p.nrow || 7 < p.escn || (r.isNmu && p.tfmt != 0 && p.tfmt != 1) then some 0x0111
    else
      let f := fmtOf p.fmtS
      if (List.range p.nrow).any fun t => !s.accOk r (p.src + t * p.sstride) (bytesOf f.code p.len) false then some 0x0112
      else if p.err % 32 ≠ 0 || (quantAll p 0 0 (quantRows s r p)).any fun x => !s.accOk r x.1 x.2.1.length true then
        some 0x0112
      else if !p.fmtsOk then some 0x0101
      else if p.g = 0 || 0x8000 ≤ p.g || (p.escn ≠ 0 && !p.amax) then some 0x0110
      else none

/-- QUANT (R192 to R196, 07 R229). -/
def execQuant (r : Res) (w : CtlWord) (s : State) : Host.Outcome State Fault Refusal :=
  let par (s : State) : QParam := readQParam s r ((s.unit r).x w.a).toNat
  .next <| ctl r { a := .sc, lay := .q } w [w.a]
    (fun s =>
      let p := par s
      let a := ((s.unit r).x w.a).toNat
      { rd := [(a, a + 64), (p.src, p.src + (p.nrow - 1) * p.sstride + bytesOf p.fmtS p.len)]
        wr := (quantAll p 0 0 (quantRows s r p)).map fun x => (x.1, x.1 + x.2.1.length) })
    (quantChk r w)
    (fun s =>
      let p := par s
      let a := ((s.unit r).x w.a).toNat
      let rows := quantRows s r p
      let t := s.touch r a 64
      let t := (List.range p.nrow).foldl (fun t k => t.touch r (p.src + k * p.sstride) (bytesOf p.fmtS p.len)) t
      let t := (quantAll p 0 0 rows).foldl (fun (t : State) x => t.store r x.1 x.2.1 x.2.2) t
      let t := t.countCvt r (rows.foldl (fun n q => n + q.1.clamps) 0) 0
      let t := t.countRange r (rows.foldl (fun n q => n + q.1.ranged) 0)
      let nars := rows.countP (·.1.nan)
      let t := match r with
        | .reach n => t.modCnt n fun c => { c with narrow := stick32 c.narrow nars }
        | .nmu _ => t
      let cyc := (p.len + 63) / 64
      let t := t.vecBusyK r (p.nrow * (2 * cyc + 12 + if p.escn ≠ 0 then cyc else 0))
      match rows.findIdx? (·.1.nan) with
      | some i => (t.trapEvent r { pc := (s.unit r).pc.toNat, part := 1, origin := false, lane := i, fmt := 0 }).retire r
      | none => t.retire r) s

/-! ### SIDEX -/

/-- The parameter block of SIDEX (07 R230). -/
structure XParam where
  mac  : Nat
  load : Nat
  list : Nat
  cnt  : Nat
  zp   : Nat
  out  : Nat
  nout : Nat
  rsv  : Bool
  deriving DecidableEq, Repr

/-- Read the block (07 R230). -/
def readXParam (s : State) (r : Res) (a : Nat) : XParam :=
  let b := s.read (unitAddr r a) 64
  let n (o k : Nat) : Nat := imgNat b o k
  { mac := n 0 16, load := n 16 16, list := n 32 4, cnt := n 36 2 + 1, zp := n 40 4, out := n 44 4, nout := n 48 4
    rsv := n 38 2 == 0 && n 52 12 == 0 }

/-- Rows of the tile. -/
def XParam.rows (p : XParam) : Nat := bits p.mac 72 8 + 1
/-- Columns of the tile. -/
def XParam.ncol (p : XParam) : Nat := bits p.load 80 8 + 1
/-- Reduction length. -/
def XParam.klen (p : XParam) : Nat := bits p.mac 65 7 + 1
/-- FMT_A. -/
def XParam.fa (p : XParam) : Nat := bits p.mac 116 4
/-- FMT_W. -/
def XParam.fw (p : XParam) : Nat := bits p.mac 112 4
/-- QA. -/
def XParam.qa (p : XParam) : Int := sbits p.mac 106 6
/-- QW. -/
def XParam.qw (p : XParam) : Int := sbits p.mac 100 6
/-- Address of activation row t. -/
def XParam.arow (p : XParam) (t : Nat) : Nat := bits p.mac 42 22 + t * (bits p.mac 30 12 * 32)
/-- Address of weight column j. -/
def XParam.wcol (p : XParam) (j : Nat) : Nat := bits p.load 42 22 + j * bytesOf p.fw 128

/-- A side-list entry (R199): value pattern, SIDE, IDX, K, and whether its reserved bits are zero. -/
structure SideE where
  value : Nat
  wside : Bool
  idx   : Nat
  k     : Nat
  rsv   : Bool
  poison : Bool
  deriving DecidableEq, Repr

/-- The entries of the list. -/
def sideList (s : State) (r : Res) (p : XParam) : List SideE :=
  (List.range p.cnt).map fun i =>
    let a := unitAddr r (p.list + 8 * i)
    let x := s.readNat a 8
    { value := bits x 32 32, wside := bitAt x 31, idx := bits x 16 8, k := bits x 0 7
      rsv := bits x 24 7 == 0 && bits x 7 9 == 0, poison := s.poisonedRange a 8 }

/-- An operand of the tile: its value, and its poison. -/
def tileElemAt (s : State) (r : Res) (fmt : Nat) (q : Int) (a k : Nat) : Val × Bool :=
  let f := fmtOf fmt
  (decode f q (s.rowCode f.width (unitAddr r a) k), s.rowPoison f.width (unitAddr r a) k)

/-- R202: the faults of an entry. -/
def sideBad (s : State) (r : Res) (p : XParam) (e : SideE) : Bool :=
  !e.rsv || p.klen ≤ e.k ||
    (if e.wside then p.ncol ≤ e.idx || (tileElemAt s r p.fw p.qw (p.wcol e.idx) e.k).1 ≠ .escape
     else p.rows ≤ e.idx || (tileElemAt s r p.fa p.qa (p.arow e.idx) e.k).1 ≠ .escape)

/-- The pair is of the q8 class (R202). -/
def XParam.q8 (p : XParam) : Bool :=
  match Fmt.ofCode p.fa, Fmt.ofCode p.fw with
  | some a, some b => a.is8class && b.is8class
  | _, _ => false

/-- The terms of T_tj (R200) with their poison. -/
def sideTerms (s : State) (r : Res) (p : XParam) (es : List SideE) (t j : Nat) : List (Val × Bool) :=
  let v (e : SideE) : Val := decodePosit 32 e.value
  let sc (q : Int) (x : Val) : Val := mulVal false x (.fin (pow2 q))
  let z := s.readNat (unitAddr r (p.zp + t)) 1
  es.flatMap fun e =>
    if e.wside then
      if e.idx ≠ j then []
      else
        let a := tileElemAt s r p.fa p.qa (p.arow t) e.k
        if a.1 = .escape then []
        else
          let a' := addVal a.1 (Val.ofRat (-((z : Rat) * pow2 p.qa)))
          [(mulVal false a' (sc p.qw (v e)), a.2 || e.poison || s.poisonedRange (unitAddr r (p.zp + t)) 1)]
    else if e.idx ≠ t then []
    else
      let w := tileElemAt s r p.fw p.qw (p.wcol j) e.k
      if w.1 = .escape then
        (es.filter fun d => d.wside && d.idx == j && d.k == e.k).map fun d =>
          (mulVal false (sc p.qa (v e)) (sc p.qw (v d)), e.poison || d.poison)
      else [(mulVal false (sc p.qa (v e)) w.1, w.2 || e.poison)]

/-- The pieces of a reduced sum, largest first (R201). -/
def sidePieces : (fuel : Nat) → Rat → List Nat
  | 0, _ => []
  | n + 1, v =>
    if v = 0 then []
    else
      let p := (roundPosit 32 (.fin v)).pat
      p :: sidePieces n (v - (decodePosit 32 p).rat)

/-- The slot-add entries that SIDEX writes for row t and column j, with their poison, and whether the range rule changed the
sum (R201). A sum that is no number is written as one entry of value NaR, of which the spec says nothing: the model's choice, log entry
126. -/
def sideEntries (s : State) (r : Res) (p : XParam) (es : List SideE) (t j : Nat) : List (Nat × Bool) × Bool :=
  let ts := sideTerms s r p es t j
  let poison := ts.any (·.2)
  let entry (v : Nat) : Nat × Bool := (v * 2 ^ 32 + t * 2 ^ 16 + j, poison)
  match (Term.sum (ts.map fun x => Term.ofVal x.1)).val with
  | .fin v => let q := rangeRule .q8 v; ((sidePieces 5 q.1).map entry, q.2)
  | .nan => ([entry 0x80000000], false)
  | .inf _ => ([entry 0x80000000], false)
  | _ => ([], false)

/-- SIDEX's events before it writes anything (07 R625). -/
def sidexChk (r : Res) (w : CtlWord) (s : State) : Option Nat :=
  let a := ((s.unit r).x w.a).toNat
  if a % 32 ≠ 0 || !s.accOk r a 64 false then some 0x0112
  else
    let p := readXParam s r a
    if !p.rsv || 4096 < p.cnt then some 0x0111
    else if p.out % 8 ≠ 0 || !s.accOk r p.list (8 * p.cnt) false || !s.accOk r p.zp p.rows false ||
        !s.accOk r p.out (8 * p.nout) true then some 0x0112
    else if (List.range p.rows).any fun t => !s.accOk r (p.arow t) (bytesOf p.fa p.klen) false then some 0x0112
    else if !s.accOk r (p.wcol 0) (p.ncol * bytesOf p.fw 128) false then some 0x0112
    else if !p.q8 then some 0x010F
    else if (sideList s r p).any (sideBad s r p) then some 0x010F
    else none

/-- SIDEX (R200 to R203, 07 R230). -/
def execSidex (r : Res) (w : CtlWord) (s : State) : Host.Outcome State Fault Refusal :=
  let par (s : State) : XParam := readXParam s r ((s.unit r).x w.a).toNat
  .next <| ctl r { d := .sc, a := .sc, lay := .q, nmu := false } w [w.a]
    (fun s =>
      let p := par s
      let a := ((s.unit r).x w.a).toNat
      { rd := [(a, a + 64), (p.list, p.list + 8 * p.cnt), (p.zp, p.zp + p.rows),
               (p.arow 0, p.arow (p.rows - 1) + bytesOf p.fa p.klen), (p.wcol 0, p.wcol p.ncol)]
        wr := [(p.out, p.out + 8 * p.nout)] })
    (sidexChk r w)
    (fun s =>
      let p := par s
      let es := sideList s r p
      let all := (List.range p.rows).flatMap fun t => (List.range p.ncol).map fun j => sideEntries s r p es t j
      let ents := all.flatMap (·.1)
      let t := s.touch r p.list (8 * p.cnt)
      let put := ents.take p.nout
      let t := ((List.range put.length).zip put).foldl
        (fun (t : State) x => t.store r (p.out + 8 * x.1) (leBytes 8 x.2.1) x.2.2) t
      let t := t.countRange r (all.countP (·.2))
      let na := es.countP fun e => !e.wside
      let t := t.vecBusyK r (na * ((p.ncol + 63) / 64) + (es.length - na) * ((p.rows + 63) / 64) + (put.length + 7) / 8)
      if p.nout < ents.length then t.failAt r 0x010F
      else (t.modU r fun u => u.setX w.d (BitVec.ofNat 64 ents.length) false).retire r) s

/-! ### QCHECK -/

/-- The outcome codes of QCHECK (07 R231): 0 PASS, 1 RERUN, 2 DENIED, 3 INVALID. A record with PINF or NINF set exceeds, of which R205 says
nothing: the model's choice, log entry 126. -/
def qcheckCode (thr : W32) (left : Nat) (a : Fwp) : Nat :=
  let t := decodePosit 32 thr.toNat
  let n : Rat := a.acc
  if t.isNan then 0
  else if a.nan || a.acc = 0 then 3
  else if !(a.pinf || a.ninf) && decide ((quireRead .q32 a.image).1 ≤ t.rat * n) then 0
  else if 0 < left then 1
  else 2

/-- QNT_RERUN_DENIED names LYR (R205, R210); the step continues. -/
def State.rerunDenied (s : State) (n : Fin 16) (lyr : Nat) : State :=
  let u := s.reach[n].u
  let s := s.raise { code := 0x010D, job := u.job, ctx := u.ctx, kind := 1, part := n, addr := lyr }
  let s := s.modReach n fun x => { x with denied := x.denied + 1, cnt := { x.cnt with deny := stick32 x.cnt.deny 1 } }
  s.modStep u.job fun x => { x with denials := max x.denials s.reach[n].denied }

/-- QNT_RERUN: the budget falls by one (R205, R206). -/
def State.rerunGranted (s : State) (n : Fin 16) : State :=
  let j := s.reach[n].u.job
  let s := s.modReach n fun x =>
    { x with rerunLeft := x.rerunLeft - 1, cnt := { x.cnt with rerun := stick32 x.cnt.rerun 1 } }
  s.modStep j fun x => { x with reruns := max x.reruns (s.reach[n].rerunMax - s.reach[n].rerunLeft) }

/-- QCHECK (R205 to R207, 07 R231). -/
def execQcheck (r : Res) (w : CtlWord) (s : State) : Host.Outcome State Fault Refusal :=
  let adr (s : State) : Nat := ((s.unit r).x w.a).toNat
  .next <| ctl r { d := .sc, a := .sc, lay := .q, nmu := false } w [w.a] (fun s => { rd := [(adr s, adr s + 96)] })
    (fun s =>
      if !recOk s r (adr s) 96 32 false then some 0x0112
      else if (s.threshOf (s.unit r).job).length ≤ w.immQ then some 0x0110 else none)
    (fun s =>
      match r with
      | .nmu _ => s
      | .reach n =>
        let a := s.readFwp r (adr s)
        let code := qcheckCode ((s.threshOf (s.unit r).job).getD w.immQ 0) s.reach[n].rerunLeft a
        let t := (s.touch r (adr s) 96).modU r fun u => u.setX w.d (BitVec.ofNat 64 code) a.poison
        let t := if code = 1 then t.rerunGranted n else if code = 2 then t.rerunDenied n w.immQ else t
        (t.vecBusyK r 2).retire r) s

end Sys2Proof.Machine
end

