-- ==== Sys2Proof/Machine/Scalar.lean ====
section
/-! DEFINITION. Classes 0x1 and 0x2 of the control stream: scalar arithmetic, loads and stores, SETVL, branches, waits and the
end of a segment or step (07 R223, R225, R232 to R234, R239). -/

namespace Sys2Proof.Machine

/-! ### Waiting instructions (R232, R233, R239) -/

/-- The tile queue is empty and every instruction that left it has made its slot updates (R232). -/
def Reach.tileIdle (x : Reach) : Bool := x.tq.isEmpty && x.pend.isEmpty

/-- The unit's tile work is done; an NMU has none. -/
def State.tileIdle (s : State) : Res → Bool
  | .reach n => s.reach[n].tileIdle
  | .nmu _ => true

/-- The unit has a barge in flight under a tag of the mask. -/
def State.bargeBusy (s : State) (r : Res) (mask : Nat) : Bool :=
  match r with
  | .reach n => (List.range 16).any fun t => bitAt mask t && ((s.reach[n].barges.toList[t]?).map (·.busy)).getD false
  | .nmu _ => false

/-- What BWAIT writes (R233): 0, or the event code of the failed barge with the lowest tag of the mask. -/
def State.bargeCode (s : State) (r : Res) (mask : Nat) : W64 :=
  match r with
  | .reach n =>
    match (List.range 16).find? fun t => bitAt mask t && ((s.reach[n].barges.toList[t]?).map fun (b : Barge) => b.code != 0).getD false with
    | some t => (((s.reach[n].barges.toList[t]?).map fun (b : Barge) => b.code).getD 0).setWidth 64
    | none => 0
  | .nmu _ => 0

/-- A barge goes into flight under a tag (R233), last in the issue order of its reach (11 R380). -/
def State.issueBarge (s : State) (n : Fin 16) (t : Nat) (desc : List Byte) : State :=
  if h : t < 16 then
    s.modReach n fun x =>
      { x with barges := x.barges.set t {
          desc, busy := true, job := x.u.job, step := ((s.jobRun x.u.job).step.map (·.no)).getD 0, pc := x.u.pc.toNat
          nth := x.barges.toList.foldl (fun m g => max m g.nth) 0 + 1 } }
  else s

/-- An instruction that waits completes when what it waits for has come (R232 to R234, R239). -/
def State.settle (s : State) (r : Res) : State :=
  let u := s.unit r
  let go (s : State) : State := s.modU r fun u => { u with wait := .none }
  match u.wait with
  | .none => s
  | .waitEq a v =>
    if s.readNat (unitAddr r a) 8 = v.toNat then (go (s.touch r a 8)).retire r else s
  | .tqFull word ti =>
    match r with
    | .reach n =>
      if s.reach[n].tq.length < 16 then
        (go (s.modReach n fun x => { x with tq := x.tq ++ [⟨word, u.pc.toNat, ti⟩] })).retire r
      else s
    | .nmu _ => s
  | .twait => if s.tileIdle r then (go s).retire r else s
  | .tag t desc =>
    match r with
    | .reach n => if s.bargeBusy r (2 ^ t) then s else (go (s.issueBarge n t desc)).retire r
    | .nmu _ => s
  | .bwait mask dst =>
    if s.bargeBusy r mask then s
    else ((go s).modU r fun u => u.setX (BitVec.ofNat 6 dst) (s.bargeCode r mask) false).retire r
  | .yield =>
    if s.tileIdle r then s.modU r fun u => { u with wait := .none, run := .yielded, next := u.pc.toNat + 1 } else s
  | .ending =>
    if s.tileIdle r && !s.bargeBusy r 0xFFFF then
      (s.modU r fun u => { u with wait := .none, run := .ended }).stepEnd u.job (resNum r)
    else s

/-- Begin to wait, and complete at once when what is waited for is there. -/
def State.await (s : State) (r : Res) (w : Wait) : State := (s.modU r fun u => { u with wait := w }).settle r

/-! ### Class 0x1 -/

/-- Form of xD = xA op xB (R222: a register form). -/
def formRR : Form := { d := .sc, a := .sc, b := .sc, lay := .reg }

/-- A scalar instruction that writes xD from xA and xB; poison follows either (R218). -/
def scalar2 (op : W64 → W64 → W64) (r : Res) (w : CtlWord) (s : State) : State :=
  ctlReg r formRR w (fun _ => none)
    (fun s => s.modU r fun u => u.setX w.d (op (u.x w.a) (u.x w.b)) (u.xp w.a || u.xp w.b)) s

/-- ADD (R223). -/
def execAdd (r : Res) (w : CtlWord) (s : State) : Host.Outcome State Fault Refusal :=
  .next (scalar2 (fun a b => a + b) r w s)

/-- SUB (R223). -/
def execSub (r : Res) (w : CtlWord) (s : State) : Host.Outcome State Fault Refusal :=
  .next (scalar2 (fun a b => a - b) r w s)

/-- AND (R223). -/
def execAnd (r : Res) (w : CtlWord) (s : State) : Host.Outcome State Fault Refusal :=
  .next (scalar2 (fun a b => a &&& b) r w s)

/-- OR (R223). -/
def execOr (r : Res) (w : CtlWord) (s : State) : Host.Outcome State Fault Refusal :=
  .next (scalar2 (fun a b => a ||| b) r w s)

/-- XOR (R223). -/
def execXor (r : Res) (w : CtlWord) (s : State) : Host.Outcome State Fault Refusal :=
  .next (scalar2 (fun a b => a ^^^ b) r w s)

/-- SHL by xB[5:0] (R223). -/
def execShl (r : Res) (w : CtlWord) (s : State) : Host.Outcome State Fault Refusal :=
  .next (scalar2 (fun a b => a <<< (b.toNat % 64)) r w s)

/-- SHR by xB[5:0] (R223). -/
def execShr (r : Res) (w : CtlWord) (s : State) : Host.Outcome State Fault Refusal :=
  .next (scalar2 (fun a b => a >>> (b.toNat % 64)) r w s)

/-- SRA by xB[5:0], copying the sign (R223). -/
def execSra (r : Res) (w : CtlWord) (s : State) : Host.Outcome State Fault Refusal :=
  .next (scalar2 (fun a b => a.sshiftRight (b.toNat % 64)) r w s)

/-- MUL: bits [63:0] of the product (R223). -/
def execMul (r : Res) (w : CtlWord) (s : State) : Host.Outcome State Fault Refusal :=
  .next (scalar2 (fun a b => a * b) r w s)

/-- A scalar instruction with IMM that writes xD from xA. -/
def scalarImm (op : W64 → Int → W64) (r : Res) (w : CtlWord) (s : State) : State :=
  ctlReg r { d := .sc, a := .sc, lay := .imm } w (fun _ => none)
    (fun s => s.modU r fun u => u.setX w.d (op (u.x w.a) w.immI) (u.xp w.a)) s

/-- ADDI (R223). -/
def execAddi (r : Res) (w : CtlWord) (s : State) : Host.Outcome State Fault Refusal :=
  .next (scalarImm (fun a i => a + BitVec.ofInt 64 i) r w s)

/-- LI: IMM sign-extended (R223). -/
def execLi (r : Res) (w : CtlWord) (s : State) : Host.Outcome State Fault Refusal :=
  .next <| ctlReg r { d := .sc, lay := .imm } w (fun _ => none)
    (fun s => s.modU r fun u => u.setX w.d (BitVec.ofInt 64 w.immI) false) s

/-- LIH: xA[29:0], IMM in bits [59:30], bits [63:60] copies of IMM bit 29 (R223). -/
def execLih (r : Res) (w : CtlWord) (s : State) : Host.Outcome State Fault Refusal :=
  .next (scalarImm (fun a i => BitVec.ofInt 64 ((a.toNat % 2 ^ 30 : Nat) + i * (2 ^ 30 : Nat))) r w s)

/-- XLD: 64 bits at xA + IMM, a multiple of 8, with the line's poison (R218, R223). -/
def execXld (r : Res) (w : CtlWord) (s : State) : Host.Outcome State Fault Refusal :=
  let adr (s : State) : Nat := addrPlus ((s.unit r).x w.a) w.immI
  .next <| ctl r { d := .sc, a := .sc, lay := .imm } w [w.a] (fun s => { rd := [(adr s, adr s + 8)] })
    (fun s => if adr s % 8 ≠ 0 || !s.accOk r (adr s) 8 false then some 0x0112 else none)
    (fun s =>
      let a := adr s
      let v := BitVec.ofNat 64 (s.readNat (unitAddr r a) 8)
      let p := s.poisonedRange (unitAddr r a) 8
      ((s.touch r a 8).modU r fun u => u.setX w.d v p).retire r) s

/-- XST: the 64 bits at xA + IMM become xB (R223). -/
def execXst (r : Res) (w : CtlWord) (s : State) : Host.Outcome State Fault Refusal :=
  let adr (s : State) : Nat := addrPlus ((s.unit r).x w.a) w.immI
  .next <| ctl r { a := .sc, b := .sc, lay := .imm } w [w.a] (fun s => { wr := [(adr s, adr s + 8)] })
    (fun s => if adr s % 8 ≠ 0 || !s.accOk r (adr s) 8 true then some 0x0112 else none)
    (fun s =>
      let u := s.unit r
      (s.store r (adr s) (leBytes 8 (u.x w.b).toNat) (u.xp w.b)).retire r) s

/-- SETVL: VL = xA, 1 to 256 (R223, R246). -/
def execSetvl (r : Res) (w : CtlWord) (s : State) : Host.Outcome State Fault Refusal :=
  .next <| ctl r { a := .sc, lay := .reg } w [w.a] (fun _ => {})
    (fun s => let v := ((s.unit r).x w.a).toNat; if v < 1 || 256 < v then some 0x0111 else none)
    (fun s => (s.modU r fun u => { u with vl := BitVec.ofNat 9 (u.x w.a).toNat }).retire r) s

/-! ### Class 0x2 -/

/-- The branch conditions of R225 on 64-bit values. -/
def brTaken (cond : Nat) (a b : W64) : Bool :=
  match cond with
  | 0 => true
  | 1 => a == b
  | 2 => a != b
  | 3 => decide (a.toInt < b.toInt)
  | 4 => decide (b.toInt ≤ a.toInt)
  | 5 => decide (a.toNat < b.toNat)
  | 6 => decide (b.toNat ≤ a.toNat)
  | _ => false

/-- BR: a taken branch goes to PC + OFF, which must lie in the code area (R223, R225, R234). -/
def execBr (r : Res) (w : CtlWord) (s : State) : Host.Outcome State Fault Refusal :=
  let taken (s : State) : Bool := brTaken w.cond ((s.unit r).x w.a) ((s.unit r).x w.b)
  let target (s : State) : Int := (s.unit r).pc.toNat + w.off
  .next <| ctl r { a := .sc, b := .sc, lay := .j } w [w.a, w.b] (fun _ => {})
    (fun s => if taken s && (target s < 0 || ((s.unit r).codeLen : Int) ≤ target s) then some 0x0111 else none)
    (fun s => if taken s then s.modU r fun u => { u with next := (target s).toNat } else s.retire r) s

/-- WAITEQ: wait until the word at xA, a multiple of 8, equals xB (R223, R234). -/
def execWaiteq (r : Res) (w : CtlWord) (s : State) : Host.Outcome State Fault Refusal :=
  let adr (s : State) : Nat := ((s.unit r).x w.a).toNat
  .next <| ctl r { a := .sc, b := .sc, lay := .reg } w [w.a, w.b] (fun s => { rd := [(adr s, adr s + 8)] })
    (fun s => if adr s % 8 ≠ 0 || !s.accOk r (adr s) 8 false then some 0x0112 else none)
    (fun s => s.await r (.waitEq (adr s) ((s.unit r).x w.b))) s

/-- The awaited word has come to equal the operand: the WAITEQ completes (R234). While it does not, nothing happens. -/
def execWaiteqMatch (r : Res) (s : State) : Host.Outcome State Fault Refusal :=
  match (s.unit r).wait with
  | .waitEq _ _ => .next (s.settle r)
  | _ => .next s

/-- YIELD: once the tile queue is empty and its work done, the segment's work ends; the next resumes at PC + 1 (R239). -/
def execYield (r : Res) (w : CtlWord) (s : State) : Host.Outcome State Fault Refusal :=
  .next (ctl r { lay := .reg } w [] (fun _ => {}) (fun _ => none) (fun s => s.await r .yield) s)

/-- END: once the tile queue is empty and every barge has completed, the step's work on this resource ends (R239). -/
def execEnd (r : Res) (w : CtlWord) (s : State) : Host.Outcome State Fault Refusal :=
  .next (ctl r { lay := .reg } w [] (fun _ => {}) (fun _ => none) (fun s => s.await r .ending) s)

/-- TRAP: VEC_TRAP with code IMM in the first detail word; the segment stops and the step fails (R223, R234). -/
def execTrap (r : Res) (w : CtlWord) (s : State) : Host.Outcome State Fault Refusal :=
  .next (ctl r { lay := .q } w [] (fun _ => {}) (fun _ => none) (fun s => s.failAt r 0x0113 w.immQ) s)

/-- R223: the CLASS and FN values that name an instruction. -/
def ctlDefined (cls fn : Nat) : Bool :=
  match cls with
  | 1 => decide (fn ≤ 0x0F)
  | 2 => decide (fn ≤ 0x04)
  | 3 => decide (fn ≤ 0x01)
  | 4 => decide (fn ≤ 0x09)
  | 5 => decide (fn ≤ 0x01)
  | 6 => decide (fn ≤ 0x05)
  | 7 => decide (fn ≤ 0x01)
  | 8 => decide (fn ≤ 0x04)
  | 9 => decide (fn ≤ 0x02)
  | 0xA => decide (fn ≤ 0x01)
  | 0xB => decide (fn ≤ 0x01)
  | _ => false

/-- A word whose CLASS or FN is reserved: VEC_ILLEGAL, and the step fails (R223, R246). With a CLASS and FN that R223 defines
the command is no such word and nothing happens. -/
def execReservedControlWord (r : Res) (cls : BitVec 4) (fn : BitVec 6) (s : State) : Host.Outcome State Fault Refusal :=
  .next (if !ctlDefined cls.toNat fn.toNat && s.canDispatch r {} then (s.fetched r).failAt r 0x0111 else s)

end Sys2Proof.Machine
end

