-- ==== Sys2Proof/Machine/Tile.lean ====
section
/-! DEFINITION. Tile instructions (03_lanes_and_tiles, 04_accumulation): legality (R89 to R92, R119, 08 R253), the terms of
TILE_MAC and TILE_ELEM (R74, R75, R84, R88), weight stores (R79, R86, R87), groups (R116 to R120), accumulation (R121 to R125),
CLOSE (R126 to R131), FWPW (R132) and SLOTADD (R138 to R140). A tile command issues the head of its reach's tile queue. -/

namespace Sys2Proof.Machine

/-! ### Rows of elements -/

/-- Sixteen-bit little-endian units. -/
def units16 : List Byte → List Nat
  | a :: b :: r => (a.toNat + 256 * b.toNat) :: units16 r
  | _ => []

/-- The element patterns of a row (R76, 02 R42). -/
def unpackRow (f : Fmt) (bs : List Byte) : List Nat :=
  match f.width with
  | 4 => bs.flatMap fun b => [b.toNat % 16, b.toNat / 16]
  | 8 => bs.map fun b => b.toNat
  | _ => units16 bs

/-- `n` elements of a reach-store row with their poison (R95). -/
def State.tileRow (s : State) (n : Fin 16) (fmt : Nat) (q : Int) (a k : Nat) : List (Val × Bool) :=
  let f := fmtOf fmt
  let base := storeBase n + a
  let vs := (unpackRow f (s.read base (bytesOf fmt k))).take k
  vs.zipIdx.map fun p => (decode f q p.1, s.rowPoison f.width base p.2)

/-- Split a list into runs of 32 (R75), at most `fuel`. -/
def runsOf {α : Type} (l : List α) : (fuel : Nat) → List (List α)
  | 0 => []
  | k + 1 => if l.isEmpty then [] else l.take 32 :: runsOf (l.drop 32) k

/-! ### Legality -/

/-- The slot class of a product (02 R59). -/
def prodClass (mode : Nat) (split : Bool) (a b : Fmt) : Nat :=
  if split || mode == 2 then 2
  else if a.is8class && b.is8class then 0
  else if a == .bf16 || b == .bf16 then 2
  else 1

/-- A tile operand format code (02 R39). -/
def fmtTile (k : Nat) : Bool := ((Fmt.ofCode k).map Fmt.isTile).getD false

/-- The reads and writes of a tile word lie where the segment may make them (R91, 07 R242, 11 R374). -/
def State.tileSpansOk (s : State) (n : Fin 16) (x : Nat) : Bool :=
  let sp := tileSpans (fun k => s.reach[n].grps[k]?.getD {}) x
  sp.1.all (fun p => s.accOk (.reach n) p.1 (p.2 - p.1) false) && sp.2.all (fun p => s.accOk (.reach n) p.1 (p.2 - p.1) true)

/-- R92: the one event that a word raises. -/
def tileVerdict (tile fmt grp repro : Bool) : Option Nat :=
  if tile then some 0x0104 else if fmt then some 0x0101 else if grp then some 0x0204 else if repro then some 0x0114 else none

/-- The group that a word names. -/
def State.tileGrp (s : State) (n : Fin 16) (x : Nat) : Grp := s.reach[n].grps[bits x 88 3]?.getD {}

/-- Slots SLOT to SLOT + TOKENS lie in the group's value slots (R119). -/
def slotsIn (g : Grp) (lo hi : Nat) : Bool := g.isOpen && decide (g.slot ≤ lo) && decide (hi < g.slot + g.n)

/-- Checks of TILE_MAC (R83, R90, R91, R119, 08 R253). -/
def macChk (n : Fin 16) (s : State) (x : Nat) : Option Nat :=
  let fa := bits x 116 4
  let fw := bits x 112 4
  let mode := bits x 122 2
  let split := bitAt x 120
  let w := s.reach[n].ws[bits x 91 1]?.getD {}
  let g := s.tileGrp n x
  let lo := bits x 80 8
  let hi := lo + bits x 72 8
  let ok := fmtTile fa && fmtTile fw
  let cls := prodClass mode split (fmtOf fa) (fmtOf fw)
  let tile := mode == 3 || bits x 0 30 != 0 || !scaleOk fa (sbits x 106 6) || !scaleOk fw (sbits x 100 6) ||
    (bits x 92 8 != 0 && !split) || bits x 42 22 % 32 != 0 || !s.tileSpansOk n x ||
    w.state == .empty || w.fmt != fw || (ok && mode != 3 && decide (clsLast cls < hi))
  let fmt := !ok || (mode == 1 && !((fmtOf fa).is8class && (fmtOf fw).is8class)) ||
    (mode == 2 && !((fmtOf fa).isIeee && (fmtOf fw).isIeee)) || (split && (mode != 0 || fa != 1 || fw != 1)) ||
    (g.isOpen && g.cls != cls)
  tileVerdict tile fmt (!slotsIn g lo hi || (mode == 1 && !g.chk)) (mode != 0 && s.reach[n].u.repro)

/-- Checks of TILE_ELEM (R88, R90, R91, R119). -/
def elemChk (n : Fin 16) (s : State) (x : Nat) : Option Nat :=
  let fa := bits x 116 4
  let fb := bits x 112 4
  let g := s.tileGrp n x
  let lo := bits x 80 8
  let hi := lo + bits x 72 8
  let ok := fmtTile fa && fmtTile fb
  let cls := prodClass 0 false (fmtOf fa) (fmtOf fb)
  let tile := bits x 122 2 != 0 || bitAt x 120 || bitAt x 91 || bits x 0 4 != 0 || !scaleOk fa (sbits x 106 6) ||
    !scaleOk fb (sbits x 100 6) || bits x 50 22 % 32 != 0 || bits x 28 22 % 32 != 0 || !s.tileSpansOk n x ||
    decide (s.reach[n].width < bits x 92 8 + 1) || (ok && decide (clsLast cls < hi))
  tileVerdict tile (!ok || (g.isOpen && g.cls != cls)) (!slotsIn g lo hi) false

/-- Checks of WLOAD (R86, R91). -/
def wloadChk (n : Fin 16) (s : State) (x : Nat) : Option Nat :=
  let tile := bits x 116 8 != 0 || bits x 92 20 != 0 || bits x 88 3 != 0 || bits x 64 16 != 0 || bits x 0 42 != 0 ||
    bits x 42 22 % 64 != 0 || !s.tileSpansOk n x || decide (s.reach[n].width < bits x 80 8 + 1)
  tileVerdict tile (!fmtTile (bits x 112 4)) false false

/-- The q8 cells [lo, hi) of a group's value slots and bound cells (R114, R118). -/
def Grp.cells (g : Grp) : Nat × Nat :=
  (g.slot * clsCells g.cls, (g.slot + g.n) * clsCells g.cls + if g.chk then g.n else 0)

/-- The group that an OPEN word describes (R116). -/
def openOf (x : Nat) : Grp :=
  { isOpen := true, cls := bits x 122 2, chk := bitAt x 121, xs := bitAt x 120, fmtO := bits x 116 4, qo := sbits x 110 6
    slot := bits x 80 8, n := bits x 72 8 + 1, xaddr := bits x 42 22 }

/-- Checks of OPEN (R116 to R119, R91, 08 R253). -/
def openChk (n : Fin 16) (s : State) (x : Nat) : Option Nat :=
  let g := openOf x
  let tile := g.cls == 3 || !scaleOk g.fmtO g.qo || bits x 91 19 != 0 || bits x 64 8 != 0 || bits x 0 42 != 0 ||
    g.xaddr % 32 != 0 || (g.xaddr != 0 && !g.xs)
  let grp := (s.tileGrp n x).isOpen || (g.chk && g.cls != 0) || (g.xs && g.cls != 2) || decide (256 < g.cells.2) ||
    s.reach[n].grps.toList.any fun o => o.isOpen && overlap o.cells g.cells
  tileVerdict tile (!fmtV g.fmtO) grp (g.chk && s.reach[n].u.repro)

/-- Checks of CLOSE (R126, R91, R119). -/
def closeChk (n : Fin 16) (s : State) (x : Nat) : Option Nat :=
  let g := s.tileGrp n x
  let stats := bits x 122 2 != 0 || bitAt x 120 || bitAt x 119 || bitAt x 117
  let tile := bits x 122 2 == 3 || bitAt x 116 || bits x 91 5 != 0 || bits x 72 8 != 0 || bits x 0 16 != 0 ||
    bits x 50 22 % 32 != 0 || (stats && bits x 28 22 % 32 != 0) || decide (s.reach[n].width < bits x 80 8 + 1) ||
    (g.isOpen && !s.tileSpansOk n x)
  tileVerdict tile false (!g.isOpen || (bitAt x 117 && !g.chk)) false

/-- Checks of FWPW (R132, R91, R119). -/
def fwpwChk (n : Fin 16) (s : State) (x : Nat) : Option Nat :=
  let g := s.tileGrp n x
  let tile := bits x 91 32 != 0 || bits x 64 16 != 0 || bits x 0 42 != 0 || bits x 42 22 % 32 != 0 ||
    decide (s.reach[n].width < bits x 80 8 + 1) || (g.isOpen && !s.tileSpansOk n x)
  tileVerdict tile false (!g.isOpen) false

/-- Device address of the record of row t and column j of a SLOTADD (R138). -/
def slotaddRec (n : Fin 16) (x t j : Nat) : Nat := storeBase n + bits x 42 22 + (t * (bits x 80 8 + 1) + j) * 96

/-- Checks of SLOTADD (R138, R91, R119). -/
def slotaddChk (n : Fin 16) (s : State) (x : Nat) : Option Nat :=
  let g := s.tileGrp n x
  let src := bitAt x 123
  let ncol := bits x 80 8 + 1
  let tile := bits x 91 32 != 0 || bits x 0 42 != 0 || bits x 42 22 % (if src then 8 else 32) != 0 ||
    (if src then bits x 80 8 != 0 else bits x 64 16 != 0 || decide (s.reach[n].width < ncol)) ||
    ((g.isOpen || src) && !s.tileSpansOk n x)
  let grp := !g.isOpen || (!src && !g.chk && (List.range g.n).any fun t => (List.range ncol).any fun j =>
    let r := Fwp.ofBytes (s.read (slotaddRec n x t j) 96)
    r.binv || r.bound != 0)
  tileVerdict tile false grp false

/-! ### Issue -/

/-- Slot updates of a group are still owed (R98). -/
def Reach.owes (x : Reach) (g : Nat) : Bool := x.pend.any fun c => c.any fun u => u.grp == g

/-- Slot updates into cells [lo, hi) are still owed (R98). -/
def Reach.owesCells (x : Reach) (lo hi : Nat) : Bool :=
  x.pend.any fun c => c.any fun u =>
    let w := clsCells (x.grps[u.grp]?.getD {}).cls
    overlap (lo, hi) (u.slot * w, (u.slot + 1) * w)

/-- The stall counter of the waits that a tile word may make before it issues (R109): TILE_MAC and WLOAD those of R80 and R87, OPEN,
CLOSE and FWPW those of R98. -/
def stallOf (op : Nat) : Option Stall :=
  if op = 1 ∨ op = 2 then some .weight else if op = 4 ∨ op = 5 ∨ op = 6 then some .slot else none

/-- The cycles for which a tile word has waited are counted when it issues (log 15). -/
def State.tileStall (s : State) (n : Fin 16) (op : Nat) : State :=
  match stallOf op with
  | some k => s.countStall n k 0
  | none => s

/-- Issue of the head of a reach's tile queue (R89, R96). It stays while the reach runs no segment, while the head has another
OP, and while the word waits; the first event in the order of R92 fails the step (R113); else the word acts. -/
def tileIssue (n : Fin 16) (opOk : Nat → Bool) (wait : State → Nat → Bool) (chk : State → Nat → Option Nat)
    (eff : State → TileEntry → State) (s : State) : State :=
  match s.reach[n].tq with
  | [] => s
  | e :: rest =>
    let x := e.word.toNat
    if s.reach[n].u.run != .running || !opOk (bits x 124 4) || wait s x then s
    else
      let s := s.modReach n fun r => { r with tq := rest }
      (match chk s x with
        | some code => s.failOn (.reach n) { code, addr := e.pc, d0 := if code = 0x0104 then x / 2 ^ 64 else 0 }
        | none => (eff s e).settle (.reach n)).tileStall n (bits x 124 4)

/-- A read of the reach store by the tensor engine: the step's first poisoned line is kept (11 R367). -/
def State.tileTouch (s : State) (n : Fin 16) (x : Nat) : State :=
  (tileSpans (fun k => s.reach[n].grps[k]?.getD {}) x).1.foldl
    (fun t p => t.notePoison s.reach[n].u.job (storeBase n + p.1) (p.2 - p.1)) s

/-! ### Products -/

/-- One lane's term of a run before its mode's rounding: the exact sum of the products of `ps` (R84, R121). Products of bf16 by
bf16 pass the range rule first (02 R60). -/
def laneTerm (lane : Nat) (ieee bf : Bool) (shift : Int) (poison : Bool) (ps : List (Val × Val)) : LaneTerm :=
  let prods := ps.map fun p =>
    let t := Term.ofVal (mulVal ieee p.1 p.2)
    let t := { t with v := t.v * pow2 shift }
    if bf then t.range .q32 else (t, false)
  { lane, t := { Term.sum (prods.map (·.1)) with poison }
    carried := ps.any fun p => p.1.isNan || p.2.isNan
    ranged := prods.countP (·.2) }

/-- Values of a weight column, its lane and its poison. -/
def WStore.column (w : WStore) (q : Int) (lane : Nat) (klen : Nat) : List Val :=
  let f := fmtOf w.fmt
  let bs := (List.range (bytesOf w.fmt klen)).map fun i => slook 0 w.cols (256 * lane + i)
  ((unpackRow f bs).take klen).map (decode f q)

/-- The issue cycles of a TILE_MAC (R74, R85): each lists the runs (vector, run) that it covers. -/
def macCycles (eight : Bool) (mode tokens runs : Nat) : List (List (Nat × Nat)) :=
  let all (t : Nat) : List (Nat × Nat) := (List.range runs).map fun c => (t, c)
  if !eight then (List.range tokens).flatMap fun t => (all t).map fun r => [r]
  else if mode = 1 then
    (List.range ((tokens + 1) / 2)).map fun i => all (2 * i) ++ if 2 * i + 1 < tokens then all (2 * i + 1) else []
  else (List.range tokens).map all

/-- The updates that a TILE_MAC owes, cycle by cycle (R84). -/
def macUpds (s : State) (n : Fin 16) (e : TileEntry) : List (List Upd) :=
  let x := e.word.toNat
  let mode := bits x 122 2
  let fa := bits x 116 4
  let w := s.reach[n].ws[bits x 91 1]?.getD {}
  let klen := bits x 65 7 + 1
  let tokens := bits x 72 8 + 1
  let shift := sbits x 92 8
  let runs := (klen + 31) / 32
  let bf := mode == 0 && fmtOf fa == .bf16 && fmtOf w.fmt == .bf16
  let ieee := (fmtOf fa).isIeee || (fmtOf w.fmt).isIeee
  let eight := (fmtOf fa).is8class && (fmtOf w.fmt).is8class
  let cols := (s.reach[n].lanes.take w.ncol).map fun l => (l, runsOf (w.column (sbits x 100 6) l klen) 4, w.poison.contains l)
  let rows := (List.range tokens).map fun t =>
    runsOf (s.tileRow n fa (sbits x 106 6) (bits x 42 22 + t * (bits x 30 12 * 32)) klen) 4
  let kind : UpdKind := if mode = 0 then .exact else if mode = 1 then .chunked else .f32 (bitAt x 121)
  (macCycles eight mode tokens runs).map fun c => c.map fun r =>
    let a := (rows[r.1]?.getD [])[r.2]?.getD []
    { grp := bits x 88 3, slot := bits x 80 8 + r.1, kind, m := a.length, pc := e.pc, tindex := e.tindex
      terms := cols.map fun l =>
        laneTerm l.1 ieee bf shift (l.2.2 || a.any (·.2)) ((a.map (·.1)).zip (l.2.1[r.2]?.getD [])) }

/-- The updates that a TILE_ELEM owes: one vector per cycle (R88). -/
def elemUpds (s : State) (n : Fin 16) (e : TileEntry) : List (List Upd) :=
  let x := e.word.toNat
  let fa := bits x 116 4
  let fb := bits x 112 4
  let ncol := bits x 92 8 + 1
  let ieee := (fmtOf fa).isIeee || (fmtOf fb).isIeee
  let bf := fmtOf fa == .bf16 && fmtOf fb == .bf16
  let lanes := s.reach[n].lanes.take ncol
  (List.range (bits x 72 8 + 1)).map fun t =>
    let a := s.tileRow n fa (sbits x 106 6) (bits x 50 22 + t * (bits x 16 12 * 32)) ncol
    let b := s.tileRow n fb (sbits x 100 6) (bits x 28 22 + t * (bits x 4 12 * 32)) ncol
    [{ grp := bits x 88 3, slot := bits x 80 8 + t, kind := .exact, m := 1, pc := e.pc, tindex := e.tindex
       terms := (lanes.zip (a.zip b)).map fun p =>
         laneTerm p.1 ieee bf 0 (p.2.1.2 || p.2.2.2) [(p.2.1.1, p.2.2.1)] }]

/-! ### Rounding of terms -/

/-- gap(r) of R124 for a p16 magnitude pattern, in units of 2^-48. -/
def gapOf (m : Nat) : Nat :=
  let v := p16val m
  let d := v - p16val (m - 1)
  let u := if m < 0x7FFF then p16val (m + 1) - v else d
  ((if d < u then u else d) * pow2 48).floor.toNat

/-- The term that a lane adds under the update's mode (R121, R123), and gap(r) of a CHUNKED term that was rounded (R124). -/
def UpdKind.round (k : UpdKind) (l : LaneTerm) : LaneTerm × Nat :=
  match k with
  | .chunked =>
    let v := l.t.val
    let p := (roundPosit 16 v).pat
    let r := decodePosit 16 p
    let mag := if 0x8000 < p then 0x10000 - p else p
    ({ l with t := { Term.ofVal r with poison := l.t.poison } },
      if v.isNan || decide (r.rat = v.rat) then 0 else gapOf mag)
  | .f32 ovf =>
    let r := roundIeee .fp32 ovf l.t.val
    ({ l with t := { Term.ofVal (decodeIeee .fp32 r.pat) with poison := l.t.poison }, ranged := l.ranged + b2n r.clamp }, 0)
  | _ => (l, 0)

/-- 65 bytes of a term for the signature of a tile (16 R537). -/
def termBytes (t : Term) : List Byte :=
  leBytes 64 (quireImage .q32 t.nan t.v) ++
    leBytes 1 (b2n t.pinf + 2 * b2n t.ninf + 4 * b2n t.nan + 8 * b2n (t.neg0 && decide (t.v = 0)) + 16 * b2n t.poison)

/-- The signature of a tile's terms (16 R537): by issue cycle, then column, then vector and run. -/
def tileSig (cs : List (List Upd)) : W64 :=
  crc64 <| cs.flatMap fun c =>
    let cols := (c.head?.map fun u => u.terms.length).getD 0
    (List.range cols).flatMap fun j => c.flatMap fun u =>
      match u.terms[j]? with
      | some l => termBytes (u.kind.round l).1.t
      | none => []

/-! ### TILE_MAC and TILE_ELEM -/

/-- Issue cycles and products of a multiply (R109): TE_BUSY counts the cycles, TE_MAC the products in units of 2^20. -/
def State.countMac (s : State) (n : Fin 16) (cycles prods : Nat) : State :=
  let s := s.countPerf n cycles 0x40 (·.busy) fun p x => { p with busy := x }
  let t := s.reach[n].perf.macRem + if s.perfHeld then 0 else prods
  let s := s.modReach n fun x => { x with perf := { x.perf with macRem := t % 2 ^ 20 } }
  s.countPerf n (t / 2 ^ 20) 0x58 (·.mac) fun p x => { p with mac := x }

/-- A multiply issues: its cycles are owed to the slots, it is counted, and it may be sampled (R84, R97, 16 R536). -/
def State.issueMul (s : State) (n : Fin 16) (e : TileEntry) (us : List (List Upd)) (prods : Nat) (wbuf : Option Nat)
    (spans : List (Nat × Nat)) : State :=
  let s := s.tileTouch n e.word.toNat
  let s := s.modReach n fun x => { x with pend := x.pend ++ us }
  let s := s.countMac n us.length prods
  s.dupSelect n { word := e.word, pc := e.pc, tindex := e.tindex, wbuf, spans, primary := tileSig us }

/-- TILE_MAC waits while the store it names is being filled (R80). -/
def macWait (n : Fin 16) (s : State) (x : Nat) : Bool := (s.reach[n].ws[bits x 91 1]?.getD {}).filling

/-- Change a weight store. -/
def State.modWs (s : State) (n : Fin 16) (k : Nat) (f : WStore → WStore) : State :=
  if h : k < 2 then s.modReach n fun x => { x with ws := x.ws.set k (f x.ws[k]) } else s

/-- The effect of a TILE_MAC. -/
def macEff (n : Fin 16) (s : State) (e : TileEntry) : State :=
  let x := e.word.toNat
  let k := bits x 91 1
  let w := s.reach[n].ws[k]?.getD {}
  let s' := s.issueMul n e (macUpds s n e) (w.ncol * (bits x 65 7 + 1) * (bits x 72 8 + 1)) (some k)
    (tileSpans (fun _ => {}) x).1
  if bitAt x 64 then s'.modWs n k fun w => if w.state = .loaded then { w with state := .released } else w else s'

/-- TILE_MAC (R83 to R85). -/
def execTileMac (n : Fin 16) (s : State) : Host.Outcome State Fault Refusal :=
  .next (tileIssue n (· == 1) (macWait n) (macChk n) (macEff n) s)

/-- TILE_ELEM (R88). -/
def execTileElem (n : Fin 16) (s : State) : Host.Outcome State Fault Refusal :=
  .next (tileIssue n (· == 3) (fun _ _ => false) (elemChk n)
    (fun s e =>
      let x := e.word.toNat
      s.issueMul n e (elemUpds s n e) ((bits x 92 8 + 1) * (bits x 72 8 + 1)) none (tileSpans (fun _ => {}) x).1) s)

/-! ### WLOAD -/

/-- WLOAD waits until the fill port is free and its store EMPTY or RELEASED (R87), and while the store is pinned or lent (16
R538, R540). -/
def wloadWait (n : Fin 16) (s : State) (x : Nat) : Bool :=
  let k := bits x 91 1
  let w := s.reach[n].ws[k]?.getD {}
  s.reach[n].fill.isSome || w.state == .loaded || w.filling || s.reach[n].storePinned k || s.storeLent n k

/-- The tile's columns as a store holds them (R76, R86): sparse bytes by lane, and the lanes whose column is poisoned (R95). -/
def loadCols (s : State) (n : Fin 16) (fmt waddr : Nat) : (lanes : List Nat) → (j : Nat) → WStore → WStore
  | [], _, w => w
  | l :: ls, j, w =>
    let cb := bytesOf fmt 128
    let a := storeBase n + waddr + j * cb
    let cols := (s.read a cb).zipIdx.foldl (fun m p => sput 0 m (256 * l + p.2) p.1) w.cols
    loadCols s n fmt waddr ls (j + 1)
      { w with cols, poison := if s.poisonedRange a cb then w.poison ++ [l] else w.poison }

/-- The effect of a WLOAD's start (R79, R86, R87). -/
def wloadEff (n : Fin 16) (s : State) (e : TileEntry) : State :=
  let x := e.word.toNat
  let k := bits x 91 1
  let ncol := bits x 80 8 + 1
  let fmt := bits x 112 4
  let w := loadCols s n fmt (bits x 42 22) (s.reach[n].lanes.take ncol) 0 { filling := true, fmt, ncol }
  let s := (s.tileTouch n x).modWs n k fun _ => w
  s.modReach n fun r => { r with fill := some (if k = 0 then 0 else 1) }

/-- WLOAD (R86, R87): the fill starts. -/
def execWload (n : Fin 16) (s : State) : Host.Outcome State Fault Refusal :=
  .next (tileIssue n (· == 2) (wloadWait n) (wloadChk n) (wloadEff n) s)

/-- The fill in progress on a reach completes: the store becomes LOADED (R79). -/
def execWloadComplete (n : Fin 16) (s : State) : Host.Outcome State Fault Refusal :=
  .next (match s.reach[n].fill with
    | some k => (s.modWs n k fun w => { w with filling := false, state := .loaded }).modReach n fun x => { x with fill := none }
    | none => s)

/-! ### OPEN -/

/-- OPEN (R116 to R118): it waits for updates owed to the bytes that it clears (R98). -/
def execOpen (n : Fin 16) (s : State) : Host.Outcome State Fault Refusal :=
  .next (tileIssue n (· == 4) (fun s x => let c := (openOf x).cells; s.reach[n].owesCells c.1 c.2) (openChk n)
    (fun s e =>
      let g := openOf e.word.toNat
      s.modReach n fun x =>
        { x with bank := x.bank.clear g.cells.1 g.cells.2, grps := x.grps.set (bits e.word.toNat 88 3) g (by simp [bits]; omega) }) s)

/-- Close a group: its contents stay in the bank (R147). -/
def State.closeGrp (s : State) (n : Fin 16) (k : Nat) : State :=
  if h : k < 8 then s.modReach n fun x => { x with grps := x.grps.set k {} } else s

/-! ### CLOSE and FWPW -/

/-- σ_a + σ_b of row t and column j (R144), and the poison of the two bytes. A byte outside −120 to +120, for which R144 gives no
behaviour, acts as the signed byte that it is: DESIGN CHOICE, log 122. -/
def State.sigmas (s : State) (n : Fin 16) (g : Grp) (t j : Nat) : Int × Bool :=
  let a := storeBase n + g.xaddr
  (signedOf 8 (s.readNat (a + t) 1) + signedOf 8 (s.readNat (a + 256 + j) 1),
    s.poisonedRange (a + t) 1 || s.poisonedRange (a + 256 + j) 1)

/-- R144: the prescale of a record's value; the Bool says that it was changed. -/
def Fwp.prescale (r : Fwp) (sh : Int) : Fwp × Bool :=
  if r.nan then (r, false)
  else
    let v := (quireRead .q32 r.image).1 * pow2 sh
    let w := (mkRat (truncZ (v * pow2 240)) 1) * pow2 (-240)
    if 0 < sh && decide (pow2 240 ≤ rabs w) then ({ r with image := nar32 }, true)
    else ({ r with image := quireImage .q32 false w }, decide (w ≠ v))

/-- The record of a value slot as it leaves the bank: with XS, prescaled (R127, R132, R134). -/
def State.slotOut (s : State) (n : Fin 16) (g : Grp) (lane t j : Nat) : Fwp × Bool :=
  let r := s.reach[n].bank.fwp g lane t
  if g.xs then
    let x := s.sigmas n g t j
    let p := r.prescale x.1
    ({ p.1 with poison := p.1.poison || x.2 }, p.2)
  else (r, false)

/-- A slot holds NaR or both infinities (02 R57). -/
def Fwp.isNan (r : Fwp) : Bool := r.nan || (r.pinf && r.ninf)

/-- The bound cell as p32, rounded toward +∞, or NaR (R129). -/
def boundPat (r : Fwp) : Nat :=
  if r.binv || r.isNan then 0x80000000
  else if r.bound = 0 then 0
  else
    let v : Rat := mkRat r.bound 1 * pow2 (-48)
    let p := (roundPosit 32 (.fin v)).pat
    if (decodePosit 32 p).rat < v then p + 1 else p

/-- The taper bin of an output (08 R260). -/
def taperBin : Val → Nat
  | .zero _ => 0
  | .fin v =>
    let e := floorLog2 (rabs v)
    if e ≤ -31 then 1 else if 30 ≤ e then 62 else (e + 32).toNat
  | _ => 63

/-- One output goes into the histogram of group k (08 R261): a poisoned one is counted apart. -/
def Taper.add (t : Taper) (k : Nat) (v : Val) (poison : Bool) : Taper :=
  if poison then { t with pois := stick32 t.pois 1 }
  else
    let b := 64 * k + taperBin v
    let c := stick32 (slook 0 t.bins b) 1
    { t with bins := sput 0 t.bins b c, sat := if c = BitVec.allOnes 32 then t.sat ||| (1#8 <<< k) else t.sat }

/-- Write a row of packed elements; the lines of poisoned elements take the mark (R128). -/
def State.writeRow (s : State) (n : Fin 16) (f : Fmt) (a : Nat) (pats : List Nat) (poison : List Bool) : State :=
  let bs := packCodes f.width pats
  let base := storeBase n + a
  let s := s.write base bs
  poison.zipIdx.foldl (fun t p =>
    if p.1 then
      let lo := if f.width = 4 then p.2 / 2 else p.2 * (f.width / 8)
      t.write (base + lo) ((bs.drop lo).take (if f.width = 4 then 1 else f.width / 8)) true
    else t) s

/-- One row of a CLOSE (R127 to R130): outputs, statistics and counts, and the row's first NaN output as a trap report. -/
def closeRow (n : Fin 16) (x : Nat) (g : Grp) (e : TileEntry) (s : State) (t : Nat) : State × Option TrapRep :=
  let f := fmtOf g.fmtO
  let recs := (s.reach[n].lanes.take (bits x 80 8 + 1)).zipIdx.map fun p =>
    (s.slotOut n g p.1 t p.2, (s.reach[n].bank.fwp g p.1 t).isNan)
  let outs := recs.map fun r => mkElem f g.qo (bitAt x 121) r.1.1.val r.1.1.poison r.2
  let pats := outs.map (·.pat)
  let vals := pats.map (decode f g.qo)
  let pois := outs.map (·.poison)
  let any := pois.any id
  let r : Res := .reach n
  let s := s.countRange r (recs.countP fun r => r.1.2)
  let s := s.countCvt r (outs.countP (·.clamp)) (outs.countP (·.narInt))
  let s := s.writeRow n f (bits x 50 22 + t * (bits x 16 12 * 32)) pats pois
  let st := storeBase n + bits x 28 22 + t * 1280
  let s := if bits x 122 2 ≠ 0 then
      let w := winnerOf (bits x 122 2 == 1) f g.qo (pats.zipIdx.map fun p => ⟨bits x 96 20 + p.2, p.1, false⟩)
      s.write st w.bytes any
    else s
  let s := if bitAt x 120 then s.write (st + 32) (Fwp.ofVals g.fmtO any vals).bytes any else s
  let s := if bitAt x 119 then
      let sq := vals.map squareVal
      (s.countRange r (sq.countP (·.2))).write (st + 128) (Fwp.ofVals g.fmtO any (sq.map (·.1))).bytes any
    else s
  let s := if bitAt x 117 then
      recs.zipIdx.foldl (fun s p => s.write (st + 256 + 4 * p.2) (leBytes 4 (boundPat p.1.1.1)) p.1.1.1.poison) s
    else s
  let s := if bitAt x 118 then
      s.modReach n fun y =>
        { y with taper := (vals.zip pois).foldl (fun tp p => tp.add (bits x 88 3) p.1 p.2) y.taper }
    else s
  (s, (firstNan e.pc 0 (g.slot + t) g.fmtO outs).map fun r => { r with tindex := e.tindex })

/-- Act on rows 0 to n − 1 in turn and keep the first trap report. -/
def foldRows (f : State → Nat → State × Option TrapRep) (s : State) : (rows : List Nat) → State × Option TrapRep
  | [] => (s, none)
  | t :: ts =>
    let r := f s t
    let r2 := foldRows f r.1 ts
    (r2.1, r.2.or r2.2)

/-- CLOSE and FWPW wait for updates owed to their group (R98) and for pinned bytes that they write (16 R540). -/
def outWait (n : Fin 16) (s : State) (x : Nat) : Bool :=
  s.reach[n].owes (bits x 88 3) || s.reach[n].pinned (tileSpans (fun k => s.reach[n].grps[k]?.getD {}) x).2

/-- CLOSE (R126 to R131). -/
def execClose (n : Fin 16) (s : State) : Host.Outcome State Fault Refusal :=
  .next (tileIssue n (· == 5) (outWait n) (closeChk n)
    (fun s e =>
      let x := e.word.toNat
      let g := s.tileGrp n x
      let r := foldRows (closeRow n x g e) (s.tileTouch n x) (List.range g.n)
      (r.1.closeGrp n (bits x 88 3)).trapIf (.reach n) r.2) s)

/-- One row of an FWPW (R132, R134), and its first NaR record as a trap report (08 R264). -/
def fwpwRow (n : Fin 16) (x : Nat) (g : Grp) (e : TileEntry) (s : State) (t : Nat) : State × Option TrapRep :=
  let ncol := bits x 80 8 + 1
  let recs := (s.reach[n].lanes.take ncol).zipIdx.map fun p =>
    (s.slotOut n g p.1 t p.2, (s.reach[n].bank.fwp g p.1 t).isNan)
  let s := s.countRange (.reach n) (recs.countP fun r => r.1.2)
  let s := recs.zipIdx.foldl (fun s p => s.writeFwp (.reach n) (bits x 42 22 + (t * ncol + p.2) * 96) p.1.1.1) s
  (s, (recs.zipIdx.find? fun p => p.1.1.1.nan).map fun p =>
    { pc := e.pc, tindex := e.tindex, origin := !p.1.2, lane := p.2, slot := g.slot + t, fmt := g.fmtO })

/-- FWPW (R132, R133). -/
def execFwpw (n : Fin 16) (s : State) : Host.Outcome State Fault Refusal :=
  .next (tileIssue n (· == 6) (outWait n) (fwpwChk n)
    (fun s e =>
      let x := e.word.toNat
      let g := s.tileGrp n x
      let r := foldRows (fwpwRow n x g e) (s.tileTouch n x) (List.range g.n)
      (if bitAt x 123 then r.1.closeGrp n (bits x 88 3) else r.1).trapIf (.reach n) r.2) s)

/-! ### SLOTADD -/

/-- A value on its way into a slot of a class (R140). -/
def slotTerm (cls lane : Nat) (t : Term) (carried : Bool) : LaneTerm :=
  let r := t.range (clsOf cls)
  { lane, t := r.1, carried, ranged := b2n r.2 }

/-- A record as a term. -/
def Fwp.term (r : Fwp) : Term :=
  { v := if r.nan then 0 else (quireRead .q32 r.image).1, pinf := r.pinf, ninf := r.ninf, nan := r.nan, poison := r.poison }

/-- The updates of one row of a SLOTADD of records: the counts that a row's records share advance to the largest of them (R115,
R136), one record to a cycle. -/
def recUpds (g : Grp) (e : TileEntry) (k t : Nat) : (recs : List (Nat × Fwp)) → (acc chk : Nat) → List (List Upd)
  | [], _, _ => []
  | (lane, r) :: rs, acc, chk =>
    [{ grp := k, slot := g.slot + t, m := 0, pc := e.pc, tindex := e.tindex
       kind := .record (r.acc - acc) (r.chk - chk) r.bound r.zs r.limit r.binv
       terms := [slotTerm g.cls lane r.term r.nan] }] :: recUpds g e k t rs (max acc r.acc) (max chk r.chk)

/-- SLOTADD of records (R138, R140). -/
def slotaddRecs (n : Fin 16) (s : State) (e : TileEntry) : State :=
  let x := e.word.toNat
  let g := s.tileGrp n x
  let lanes := s.reach[n].lanes.take (bits x 80 8 + 1)
  let us := (List.range g.n).flatMap fun t =>
    recUpds g e (bits x 88 3) t (lanes.zipIdx.map fun p =>
      (p.1, s.readFwp (.reach n) (slotaddRec n x t p.2 - storeBase n))) 0 0
  (s.tileTouch n x).modReach n fun r => { r with pend := r.pend ++ us }

/-- The entries of a SLOTADD up to the first that breaks R139; the Bool says that one did. -/
def entryUpds (n : Fin 16) (s : State) (e : TileEntry) (g : Grp) : (i cnt : Nat) → List (List Upd) × Bool
  | _, 0 => ([], false)
  | i, c + 1 =>
    let x := e.word.toNat
    let a := storeBase n + bits x 42 22 + 8 * i
    let y := s.readNat a 8
    let t := bits y 16 8
    if bits y 24 8 ≠ 0 || bits y 8 8 ≠ 0 || decide (g.n ≤ t) then ([], true)
    else
      match s.reach[n].lanes[bits y 0 8]? with
      | none => ([], true)
      | some lane =>
        let v := decodePosit 32 (bits y 32 32)
        let u : Upd :=
          { grp := bits x 88 3, slot := g.slot + t, kind := .entry, m := 1, pc := e.pc, tindex := e.tindex
            terms := [slotTerm g.cls lane { Term.ofVal v with poison := s.poisonedRange a 8 } v.isNan] }
        let r := entryUpds n s e g (i + 1) c
        ([u] :: r.1, r.2)

/-- SLOTADD of entries (R139): a bad entry raises GRP_ILLEGAL when it is read. -/
def slotaddEntries (n : Fin 16) (s : State) (e : TileEntry) : State :=
  let x := e.word.toNat
  let r := entryUpds n s e (s.tileGrp n x) 0 (bits x 64 16 + 1)
  let s := (s.tileTouch n x).modReach n fun y => { y with pend := y.pend ++ r.1 }
  if r.2 then s.failOn (.reach n) { code := 0x0204, addr := e.pc } else s

/-- SLOTADD (R138 to R140). -/
def execSlotadd (n : Fin 16) (s : State) : Host.Outcome State Fault Refusal :=
  .next (tileIssue n (· == 7) (fun _ _ => false) (slotaddChk n)
    (fun s e => if bitAt e.word.toNat 123 then slotaddEntries n s e else slotaddRecs n s e) s)

/-! ### Slot updates -/

/-- A lane's slot holds NaR (02 R57). -/
def Bank.slotNar (b : Bank) (c lane slot : Nat) : Bool := b.image c lane slot == (clsOf c).nar

/-- A lane's slot holds both infinities (04 R122). -/
def Bank.slotBoth (b : Bank) (c lane slot : Nat) : Bool :=
  let f := b.flag c lane slot
  f.pinf && f.ninf

/-- A lane's slot of bank `t` has entered the NaR state, or come to hold both infinities, since bank `b` (08 R264). -/
def Bank.slotTraps (b t : Bank) (c lane slot : Nat) : Bool :=
  (!b.slotNar c lane slot && t.slotNar c lane slot) || (!b.slotBoth c lane slot && t.slotBoth c lane slot)

/-- A term enters a lane's slot (02 R57, R115); `zs` is the term's ZSTATE. -/
def Bank.addTerm (b : Bank) (c lane slot : Nat) (t : Term) (zs : Nat) : Bank :=
  let q := clsOf c
  let old := b.image c lane slot
  let new := if t.nan || old == q.nar then q.nar
    else (old + (truncZ (t.v * pow2 q.frac) % (2 ^ q.width : Nat)).toNat) % 2 ^ q.width
  let f := b.flag c lane slot
  (b.setImage c lane slot new).setFlag c lane slot
    { pinf := f.pinf || t.pinf, ninf := f.ninf || t.ninf, poison := f.poison || t.poison
      zstate := if f.zstate = 2 ∨ zs = 2 then 2 else if f.zstate = 1 ∨ zs = 1 then 1 else 0 }

/-- ZSTATE of a term: 1 for −0, 2 for any other (R115). -/
def Term.zs (t : Term) : Nat := if t.neg0 && decide (t.v = 0) && !t.pinf && !t.ninf && !t.nan then 1 else 2

/-- Every lane of a slot index becomes NaR (R122). -/
def Bank.allNar (b : Bank) (c slot : Nat) (lanes : List Nat) : Bank :=
  lanes.foldl (fun b l => b.setImage c l slot (clsOf c).nar) b

/-- Add to the bound cell of a row in a lane (R124); the Bool says that it would pass 2^128 − 1 (R136). -/
def Bank.addBound (b : Bank) (g : Grp) (lane slot d : Nat) : Bank × Bool :=
  if g.chk && decide (0 < d) then
    let w := (slot + g.n) * 2
    let x := b.readWords lane w 2 + d
    (b.writeWords lane w 2 (if 2 ^ 128 ≤ x then 2 ^ 128 - 1 else x), decide (2 ^ 128 ≤ x))
  else (b, false)

/-- What one update leaves: the reach's bank, the events to count, and the lanes that entered NaN (lane, created). -/
structure Landed where
  bank   : Bank
  ranged : Nat := 0
  limit  : Bool := false
  inval  : Bool := false
  nans   : List (Nat × Bool) := []

/-- One lane's term of an update lands. -/
def landTerm (g : Grp) (slot : Nat) (kind : UpdKind) (binv : Bool) (o : Landed) (l : LaneTerm) : Landed :=
  let r := kind.round l
  let zs := match kind with | .record _ _ _ zs _ _ => zs | _ => r.1.t.zs
  let gap := match kind with
    | .record _ _ bound _ _ _ => bound
    | .chunked => if binv then 0 else r.2
    | _ => 0
  let b := o.bank.addTerm g.cls l.lane slot r.1.t zs
  let bd := b.addBound g l.lane slot gap
  { o with
    bank := if bd.2 then bd.1.setCnt g.cls slot { bd.1.cnt g.cls slot with binv := true } else bd.1
    ranged := o.ranged + r.1.ranged
    nans := if o.bank.slotTraps bd.1 g.cls l.lane slot then o.nans ++ [(l.lane, !l.carried)] else o.nans }

/-- accumulate() of R121 and R136, R139 on a slot of an open group. A slot past its limit takes no further terms (R122); a record
still brings its other state there, and where it takes the slot past its limit (R136, R137; log 40). -/
def landUpd (g : Grp) (lanes : List Nat) (b : Bank) (u : Upd) : Landed :=
  let c := b.cnt g.cls u.slot
  let m := match u.kind with | .record acc _ _ _ _ _ => acc | _ => u.m
  let recLimit := match u.kind with | .record _ _ _ _ lim _ => lim | _ => false
  if c.limit then
    match u.kind with
    | .record _ chk _ _ _ binv =>
      let o : Landed := u.terms.foldl (landTerm g u.slot u.kind binv)
        { bank := b.setCnt g.cls u.slot { c with chk := min (c.chk + chk) 4095, binv := c.binv || binv } }
      { bank := o.bank.allNar g.cls u.slot lanes, ranged := o.ranged }
    | _ => { bank := b }
  else if recLimit || decide (2 ^ 30 - 1 < c.acc + m) then
    let c := { c with acc := 0x3FFFFFFF, limit := true }
    let o : Landed := match u.kind with
      | .record _ chk _ _ _ binv =>
        u.terms.foldl (landTerm g u.slot u.kind binv)
          { bank := b.setCnt g.cls u.slot { c with chk := min (c.chk + chk) 4095, binv := c.binv || binv } }
      | _ => { bank := b.setCnt g.cls u.slot c }
    { bank := o.bank.allNar g.cls u.slot lanes
      ranged := o.ranged
      limit := !recLimit
      nans := (lanes.filter fun l => !b.slotNar g.cls l u.slot).map fun l => (l, !recLimit) }
  else
    let c := { c with acc := c.acc + m }
    let p := match u.kind with
      | .chunked => if c.chk = 4095 then ({ c with binv := true }, !c.binv) else ({ c with chk := c.chk + 1 }, false)
      | .record _ chk _ _ _ binv => ({ c with chk := min (c.chk + chk) 4095, binv := c.binv || binv }, false)
      | _ => (c, false)
    u.terms.foldl (landTerm g u.slot u.kind p.1.binv) { bank := b.setCnt g.cls u.slot p.1, inval := p.2 }

/-- One update of a reach. An update whose group is closed touches no slot. The trap candidates are column, slot, class,
created, PC and tile-table index. -/
def State.land (s : State) (n : Fin 16) (u : Upd) : State × List TrapRep :=
  let x := s.reach[n]
  let g := x.grps[u.grp]?.getD {}
  if !g.isOpen then (s.countRange (.reach n) (u.terms.foldl (fun k l => k + (u.kind.round l).1.ranged) 0), [])
  else
    let o := landUpd g x.lanes x.bank u
    let s := s.modReach n fun x => { x with bank := o.bank }
    let s := s.countRange (.reach n) o.ranged
    let s := s.countLimit (.reach n) (b2n o.limit)
    let s := s.modCnt n fun c => { c with chkinv := stick32 c.chkinv (b2n o.inval) }
    (s, o.nans.map fun p =>
      { pc := u.pc, tindex := u.tindex, origin := p.2, lane := x.lanes.idxOf p.1, slot := u.slot, fmt := g.cls })

/-- The first of the trap events of one cycle: lowest column, then lowest slot (08 R264). -/
def firstTrap : List TrapRep → Option TrapRep
  | [] => none
  | t :: ts =>
    match firstTrap ts with
    | none => some t
    | some u => if u.lane < t.lane ∨ (u.lane = t.lane ∧ u.slot < t.slot) then some u else some t

/-- The updates of one issue cycle land (R97). -/
def State.landCycle (s : State) (n : Fin 16) (c : List Upd) : State × List TrapRep :=
  c.foldl (fun p u => let r := p.1.land n u; (r.1, p.2 ++ r.2)) (s, [])

/-- Every update that a reach owes lands (R99). -/
def State.landAll (s : State) (n : Fin 16) : (cs : List (List Upd)) → State
  | [] => s.modReach n fun x => { x with pend := [] }
  | c :: cs =>
    let r := s.landCycle n c
    (r.1.trapIf (.reach n) (firstTrap r.2)).landAll n cs

/-- SLOT_UPDATE (R97, R121): the oldest issue cycle's updates land. -/
def execSlotUpdate (n : Fin 16) (s : State) : Host.Outcome State Fault Refusal :=
  .next (match s.reach[n].pend with
    | [] => s
    | c :: cs =>
      let r := (s.modReach n fun x => { x with pend := cs }).landCycle n c
      (r.1.trapIf (.reach n) (firstTrap r.2)).settle (.reach n))

/-- A word whose OP is reserved reaches the head of the queue: TILE_ILLEGAL (R82, R91). -/
def execReservedTileOp (n : Fin 16) (s : State) : Host.Outcome State Fault Refusal :=
  .next (tileIssue n (fun op => op == 0 || decide (8 ≤ op)) (fun _ _ => false) (fun _ _ => some 0x0104) (fun s _ => s) s)

end Sys2Proof.Machine
end

