-- ==== Sys2Proof/Machine/Update.lean ====
section
/-! DEFINITION. Parameter update at the memory (09_parameter_update): the argument block and windows of an NMU (R272, R273), shard
headers (R276 to R278), LRATE (R279 to R283), the learning-rate schedule (R284 to R287) and the FD1 engine (R292 to R296). -/

namespace Sys2Proof.Machine

/-! ### Argument block and windows -/

/-- A field of block d of the argument block (R272). -/
def argField (s : State) (d : Fin 4) (off n : Nat) : Nat := s.readNat (s.nmu[d].argBlk + off) n

/-- The windows in use of block d (R272). -/
def argWindows (s : State) (d : Fin 4) : List (Nat × Nat) :=
  (List.range 8).filterMap fun i =>
    let a := argField s d (16 * i) 8
    let b := argField s d (16 * i + 8) 8
    if a ≤ b then some (a, b) else none

/-- R273: a window lies in one region of the context and in memory that M-die d serves. -/
def windowOk (s : State) (d : Fin 4) (ctx : Nat) (w : Nat × Nat) : Bool :=
  let n := w.2 + 1 - w.1
  (s.ctxOf ctx).regions.any (fun g => g.covers w.1 n) && s.addrOk w.1 n &&
    (List.range (w.2 / 256 - w.1 / 256 + 1)).all fun i => s.mdieOf (max w.1 (256 * (w.1 / 256 + i))) == some d

/-- Bytes a to a + n − 1 lie in one window of the step (R273). -/
def inWindow (s : State) (d : Fin 4) (a n : Nat) : Bool :=
  s.nmu[d].wins.any fun w => decide (w.1 ≤ a) && decide (a + n ≤ w.2 + 1)

/-! ### Shard headers -/

/-- A shard header (R276), read from its 64 bytes. -/
structure Shard where
  magic   : Nat
  version : Nat
  layout  : Nat
  flags   : Nat
  step    : Nat
  rows    : Nat
  rowLen  : Nat
  fmt     : Nat
  rsv22   : Nat
  off     : List Nat
  tscale  : List Nat
  busyJob : Nat
  rsv58   : Nat
  deriving DecidableEq, Repr

/-- Read a header. -/
def readShard (s : State) (a : Nat) : Shard :=
  let f (o n : Nat) : Nat := s.readNat (a + o) n
  { magic := f 0 4, version := f 4 2, layout := f 6 1, flags := f 7 1, step := f 8 4, rows := f 12 4, rowLen := f 16 4
    fmt := f 20 2, rsv22 := f 22 2, off := [f 24 4, f 28 4, f 32 4, f 36 4], tscale := [f 40 2, f 42 2, f 44 2, f 46 2]
    busyJob := f 56 2, rsv58 := f 58 6 }

/-- BUSY of FLAGS. -/
def Shard.busy (h : Shard) : Bool := bitAt h.flags 0

/-- FMT code of tensor k: 0 W, 1 G, 2 M1, 3 M2 (R276). -/
def Shard.fmtK (h : Shard) (k : Nat) : Nat := bits h.fmt (4 * (3 - k)) 4

/-- Bytes of a row of tensor k with its scale, rounded up to 32 (R277). -/
def Shard.rowBytes (h : Shard) (k : Nat) : Nat :=
  (bytesOf (h.fmtK k) h.rowLen + (if k = 1 then 2 else 1) + 31) / 32 * 32

/-- The areas of a header at `a`: address and length (R276, R277, R294). -/
def Shard.areas (h : Shard) (a : Nat) : List (Nat × Nat) :=
  if h.layout = 1 then [(a + (h.off[0]?.getD 0), 8 * h.rowLen)]
  else (List.range 4).filterMap fun k =>
    if h.fmtK k = 0xF then none else some (a + (h.off[k]?.getD 0), h.rows * h.rowBytes k)

/-- No two spans of a list share a byte. -/
def disjointSpans : List (Nat × Nat) → Bool
  | [] => true
  | p :: ps => (ps.all fun q => !overlap (p.1, p.1 + p.2) (q.1, q.1 + q.2)) && disjointSpans ps

/-- The parts of R278 that both layouts share. -/
def Shard.commonOk (s : State) (d : Fin 4) (a : Nat) (h : Shard) : Bool :=
  a % 64 == 0 && inWindow s d a 64 && h.magic == 0xFD2D0A51 && h.version == 1 && h.flags / 2 == 0 && h.rsv22 == 0 &&
    h.rsv58 == 0 && decide (1 ≤ h.rows) && decide (1 ≤ h.rowLen) && h.off.all (· % 32 == 0) &&
    (h.areas a).all (fun p => inWindow s d p.1 p.2) && disjointSpans ((a, 64) :: h.areas a)

/-- A header that a native job may use (R278). -/
def Shard.nativeOk (s : State) (d : Fin 4) (a : Nat) (h : Shard) : Bool :=
  h.layout == 0 && h.commonOk s d a && decide (h.rowLen ≤ 65536) && (h.tscale[3]?.getD 0) == 0 &&
    (h.fmtK 1 == 0 || h.fmtK 1 == 0xF) && [0, 2, 3].all fun k => fmtV (h.fmtK k) || h.fmtK k == 0xF

/-- A header that the FD1 engine accepts, its scales apart (R294). -/
def Shard.fd1Ok (s : State) (d : Fin 4) (a : Nat) (h : Shard) : Bool :=
  h.layout == 1 && h.commonOk s d a && h.rows == 1 && h.fmt == 0x1111 && decide (h.step < 65536) &&
    (h.off.drop 1).all (· == 0)

/-! ### The learning-rate schedule -/

/-- A schedule descriptor (R284). -/
structure Rate where
  base   : Nat
  wstart : Nat
  warm   : Nat
  kind   : Nat
  rsv13  : Nat
  dsteps : Nat
  final  : Nat
  gamma  : Nat
  period : Nat
  rfact  : Nat
  rsv36  : Nat
  deriving DecidableEq, Repr

/-- Read a descriptor. -/
def readRate (s : State) (a : Nat) : Rate :=
  let f (o n : Nat) : Nat := s.readNat (a + o) n
  { base := f 0 4, wstart := f 4 4, warm := f 8 4, kind := f 12 1, rsv13 := f 13 3, dsteps := f 16 4, final := f 20 4
    gamma := f 24 4, period := f 28 4, rfact := f 32 4, rsv36 := f 36 28 }

/-- A p32 pattern with a value in a range of R284: `lo` says that 0 is allowed. -/
def p32In (lo : Bool) (x : Nat) : Bool :=
  match decodePosit 32 x with
  | .fin v => decide (0 < v) && decide (v ≤ 1)
  | .zero _ => lo
  | _ => false

/-- The value of a p32 pattern. -/
def p32val (x : Nat) : Rat := (decodePosit 32 x).rat

/-- R286: every range of R284 holds. -/
def Rate.ok (q : Rate) : Bool :=
  decide (0 < p32val q.base) && p32In true q.wstart && decide (q.kind ≤ 3) && q.rsv13 == 0 && q.rsv36 == 0 &&
    (!(q.kind == 1 || q.kind == 2) || decide (1 ≤ q.dsteps)) && p32In true q.final &&
    (q.kind != 3 || p32In false q.gamma) && (q.period == 0 || (decide (q.warm < q.period) && p32In false q.rfact))

/-- A positive rational is a power of two. -/
def isPow2 (v : Rat) : Bool := decide (0 < v) && decide (pow2 (floorLog2 v) = v)

/-- b^n where every arithmetic holds it exactly: at most one factor, or a power of two; `none` elsewhere (R287). -/
def powExact (b : Rat) (n : Nat) : Option Rat :=
  if n = 0 then some 1 else if n = 1 || isPow2 b then some (b ^ n) else none

/-- f of R285 for a count tau since the last restart and a decay length D, where R287 makes it exact. -/
def Rate.frac (q : Rate) (tau D : Nat) : Option Rat :=
  let fin := p32val q.final
  let ws := p32val q.wstart
  let u := tau - q.warm
  if tau < q.warm then some (ws + (1 - ws) * mkRat tau q.warm)
  else if q.kind = 0 then some 1
  else if q.kind = 3 then (powExact (p32val q.gamma) u).map (max fin)
  else if D ≤ u then some fin
  else if q.kind = 1 then some (1 - (1 - fin) * mkRat u D)
  else if u = 0 then some 1
  else if 2 * u = D then some (fin + (1 - fin) * mkRat 1 2)
  else none

/-- The exact rate of R285 where R287 makes it exact, and where f is 0; `none` where it allows 2 ulps. -/
def Rate.exact (q : Rate) (t : Nat) : Option Rat :=
  let r := if q.period = 0 then 0 else t / q.period
  let tau := if q.period = 0 then t else t % q.period
  let D := if q.period = 0 then q.dsteps else q.period - q.warm
  match q.frac tau D, powExact (p32val q.rfact) r with
  | some f, some g => some (p32val q.base * g * f)
  | some f, none => if f = 0 then some 0 else none
  | none, _ => none

/-- b^n of a rational in (0, 1], as near as the exponential gives it; below 2^−600 it is held there. -/
def powQ (b : Rat) (n : Nat) : Rat :=
  if b = 1 then 1
  else if isPow2 b then (if (n : Int) * floorLog2 b < -600 then pow2 (-600) else pow2 (n * floorLog2 b))
  else if n ≤ 64 then b ^ n
  else expQ (n * lnQ b)

/-- The exact rate of R285 for an update count, powers and cosine as near as `powQ` and `cosQ` give them. -/
def Rate.near (q : Rate) (t : Nat) : Rat :=
  let r := if q.period = 0 then 0 else t / q.period
  let tau := if q.period = 0 then t else t % q.period
  let D := if q.period = 0 then q.dsteps else q.period - q.warm
  let fin := p32val q.final
  let u := tau - q.warm
  let f := match q.frac tau D with
    | some f => f
    | none => if q.kind = 3 then max fin (powQ (p32val q.gamma) u)
        else fin + (1 - fin) * mkRat 1 2 * (1 + cosQ (piQ * mkRat u D))
  p32val q.base * powQ (p32val q.rfact) r * f

/-- A p32 result that the spec bounds by 2 ulps of an exact value: the free candidate where it keeps the bound, else that value rounded. -/
def p32Within2 (t : Rat) (x : W32) : W32 :=
  if withinUlps .p32 0 false 2 t x.toNat then x else BitVec.ofNat 32 (roundPosit 32 (Val.ofRat t)).pat

/-- The rate that CHECK returns (R285, R287), a p32 pattern; where R287 allows 2 ulps a free value within them, never 0. -/
def rateOf (s : State) (a t : Nat) : W32 :=
  match (readRate s a).exact t with
  | some v => BitVec.ofNat 32 (roundPosit 32 (Val.ofRat v)).pat
  | none =>
    let x := Config.inexactRate (s.read a 64) t
    let v := (readRate s a).near t
    if x = 0 then BitVec.ofNat 32 (roundPosit 32 (Val.ofRat v)).pat else p32Within2 v x

/-! ### LRATE -/

/-- The event of a shard: source M-die d, address the header's, details STEP and E (R280). -/
def State.updEvent (s : State) (d : Fin 4) (code a d0 d1 : Nat) : State :=
  let u := s.nmu[d].u
  let s := s.raise { code, job := u.job, ctx := u.ctx, kind := 2, part := d, addr := a, d0, d1 }
  s.modNmu d fun x => { x with cnt :=
    match code with
    | 0x0116 => { x.cnt with skew := stick32 x.cnt.skew 1 }
    | 0x0117 => { x.cnt with limit := stick32 x.cnt.limit 1 }
    | 0x0118 => { x.cnt with torn := stick32 x.cnt.torn 1 }
    | 0x0119 => { x.cnt with rownar := stick32 x.cnt.rownar 1 }
    | _ => x.cnt }

/-- Set BUSY and BUSY_JOB of a header (R280), through the LLC (R274). -/
def State.markBusy (s : State) (a flags job : Nat) : State :=
  ((s.write (a + 7) (leBytes 1 (flags / 2 * 2 + 1)) (s.poisonedRange a 64)).write (a + 56) (leBytes 2 job) (s.poisonedRange a 64)).llc a 64

/-- CHECK accepts a shard: what is written into its areas counts for R290. -/
def State.takeShard (s : State) (d : Fin 4) (a : Nat) (h : Shard) : State :=
  s.modNmu d fun x => { x with areas := x.areas ++ h.areas a }

/-- The 64-byte write of a commit (R281): STEP, BUSY and BUSY_JOB cleared. -/
def State.writeCommit (s : State) (a flags step : Nat) : State :=
  let h := s.read a 64
  (s.write a (h.take 7 ++ leBytes 1 (flags / 2 * 2) ++ leBytes 4 step ++ (h.drop 12).take 44 ++ leBytes 2 0 ++ h.drop 58)
    (s.poisonedRange a 64)).llc a 64

/-- One more shard of the step is committed (R289). -/
def State.countShard (s : State) (j : Nat) : State := s.modStep j fun x => { x with shards := x.shards + 1 }

/-- The form of LRATE: IMM[29:2] is zero (R279); IMM[1:0] is the operation that the command names. -/
def lrate (op : Nat) (key : List (BitVec 6)) (chk : Fin 4 → State → Option Nat) (eff : Fin 4 → State → State) (r : Res)
    (w : CtlWord) (s : State) : State :=
  let w := { w with low := BitVec.ofNat 30 (w.low.toNat / 4 * 4 + op) }
  ctl r { d := .sc, a := .sc, b := .sc, c := .sc, lay := .imm } w (if r.isNmu then key else []) (fun _ => {})
    (fun s =>
      match r with
      | .reach _ => some 0x0111
      | .nmu d => if w.low.toNat / 4 ≠ 0 then some 0x0111 else chk d s)
    (fun s =>
      match r with
      | .nmu d => (eff d s).retire r
      | .reach _ => s) s

/-- The status and event of a CHECK that passes the tests of R280, in their order: `none` is OK. -/
def checkStatus (s : State) (d : Fin 4) (a : Nat) (e : W64) : Option (Nat × Nat) :=
  let h := readShard s a
  if !h.nativeOk s d a then some (0x84, 0x011A)
  else if h.busy then some (0x83, 0x0118)
  else if h.step = 0xFFFFFFFF then some (0x82, 0x0117)
  else if h.step ≠ e.toNat then some (0x81, 0x0116)
  else none

/-- The event of an NMU's read that does not lie in memory or not in one window of the step (11 R358, R374), if any. -/
def nmuRead (s : State) (d : Fin 4) (a n : Nat) : Option Nat :=
  if !s.addrOk a n then some 0x030D else if !inWindow s d a n then some 0x030C else none

/-- Why an NMU cannot use a schedule descriptor, if so: it is not on a multiple of 64, cannot be read, or breaks R284 (R286). -/
def schedChk (s : State) (d : Fin 4) (a : Nat) : Option Nat :=
  if a % 64 ≠ 0 then some 0x011D
  else (nmuRead s d a 64).or (if (readRate s a).ok then none else some 0x011D)

/-- The header that LRATE names lies in a window, so that the NMU reads it (R278, 11 R374). -/
def State.touchHeader (s : State) (d : Fin 4) (a : Nat) : State := if inWindow s d a 64 then s.touch (.nmu d) a 64 else s

/-- LRATE CHECK (R279, R280, R286). -/
def execLrateCheck (r : Res) (w : CtlWord) (s : State) : Host.Outcome State Fault Refusal :=
  .next <| lrate 0 [w.a, w.b, w.c]
    (fun d s =>
      let u := s.nmu[d].u
      if (checkStatus s d (u.x w.a).toNat (u.x w.b)).isNone then schedChk s d (u.x w.c).toNat else none)
    (fun d s =>
      let u := s.nmu[d].u
      let a := (u.x w.a).toNat
      let c := (u.x w.c).toNat
      let h := readShard s a
      let p := inWindow s d a 64 && s.poisonedRange a 64
      let st := checkStatus s d a (u.x w.b)
      let s := (s.touchHeader d a).modNmu d fun x => { x with poisonW := false }
      match st with
      | some (status, event) =>
        (s.updEvent d event a h.step (u.x w.b).toNat).modU r fun u => u.setX w.d (BitVec.ofNat 64 (status * 2 ^ 56)) p
      | none =>
        let lr := rateOf s c h.step
        let p2 := s.poisonedRange c 64
        let s := ((s.touch r c 64).takeShard d a h).markBusy a h.flags u.job
        s.modU r fun u => u.setX w.d (lr.setWidth 64) (p || p2)) r w s

/-- LRATE COMMIT (R281, R290). -/
def execLrateCommit (r : Res) (w : CtlWord) (s : State) : Host.Outcome State Fault Refusal :=
  .next <| lrate 1 [w.a, w.b] (fun _ _ => none)
    (fun d s =>
      let u := s.nmu[d].u
      let a := (u.x w.a).toNat
      let e := (u.x w.b).toNat
      let h := readShard s a
      let s := s.touchHeader d a
      if s.nmu[d].poisonW then s.consumePoison r
      else if a % 64 = 0 && inWindow s d a 64 && h.busy && decide (h.busyJob = u.job) && decide (h.step = e) then
        let p := s.poisonedRange a 64
        ((s.writeCommit a h.flags (e + 1)).countShard u.job).modU r fun u => u.setX w.d 0 p
      else (s.updEvent d 0x011A a h.step e).modU r fun u => u.setX w.d (BitVec.ofNat 64 (0x84 * 2 ^ 56)) false) r w s

/-- The value of R282: 1 / (1 − β^n) as a p32 pattern. NaR where β is NaR or outside (0, 1) or n is 0; 1.0 where β^n rounds to
zero in the internal form; else a free value within the 2 ulps of R282. -/
def biasOf (beta : W32) (n : Nat) : W32 :=
  match decodePosit 32 beta.toNat with
  | .fin v =>
    if v ≤ 0 ∨ 1 ≤ v ∨ n = 0 then 0x80000000
    else if roundInternal (.fin (powQ v n)) = .zero false then 0x40000000
    else p32Within2 (1 / (1 - powQ v n)) (Config.biasc beta n)
  | _ => 0x80000000

/-- LRATE BIASC (R279, R282). -/
def execLrateBiasc (r : Res) (w : CtlWord) (s : State) : Host.Outcome State Fault Refusal :=
  .next <| lrate 2 [w.b] (fun _ _ => none)
    (fun _ s => s.modU r fun u =>
      u.setX w.d ((biasOf ((u.x w.c).setWidth 32) (u.x w.b).toNat).setWidth 64) (u.xp w.c)) r w s

/-- LRATE REPORT: UPD_ROW_NAR for the shard at xA, row xB, tensor xC[1:0]; xD becomes 0 (R279). -/
def execLrateReport (r : Res) (w : CtlWord) (s : State) : Host.Outcome State Fault Refusal :=
  .next <| lrate 3 [w.a] (fun _ _ => none)
    (fun d s =>
      let u := s.nmu[d].u
      (s.updEvent d 0x0119 (u.x w.a).toNat (u.x w.b).toNat ((u.x w.c).toNat % 4)).modU r fun u => u.setX w.d 0 false) r w s

/-! ### The FD1 engine -/

/-- The FD1 block (R293). -/
structure Fd1 where
  rule : Nat
  b1   : Nat
  b2   : Nat
  eps  : Nat
  lam  : Nat
  lr   : Nat
  off  : Int
  rsv  : Nat
  deriving DecidableEq, Repr

/-- Read the FD1 block. -/
def readFd1 (s : State) (a : Nat) : Fd1 :=
  let f (o n : Nat) : Nat := s.readNat (a + o) n
  { rule := f 0 1, b1 := f 4 2, b2 := f 6 2, eps := f 8 2, lam := f 10 2, lr := f 12 2, off := signedOf 32 (f 16 4)
    rsv := f 1 3 + f 14 2 + f 20 12 }

/-- R293: the block matches the job's rule and its descriptor is one that the FD1 engine takes. -/
def fd1BlockOk (s : State) (d : Fin 4) : Bool :=
  let b := readFd1 s (argField s d 152 8)
  let sc := argField s d 144 8
  let q := readRate s sc
  b.rule == s.nmu[d].upd && b.rsv == 0 && (b.rule == 2 || (b.b2 == 0 && b.eps == 0)) &&
    (sc == 0 || (sc % 64 == 0 && q.ok && decide (q.kind ≤ 1) && q.period == 0))

/-- Where the FD1 engine reads what it needs for the shard at index `i`: the list entry, the block and the descriptor. -/
def fd1Reads (s : State) (d : Fin 4) (i : Nat) : List (Nat × Nat) :=
  let sc := argField s d 144 8
  [(argField s d 128 8 + 8 * i, 8), (argField s d 152 8, 32)] ++ if sc = 0 then [] else [(sc, 64)]

/-- The event that fails the step before a shard, if any: a read that 11 R358 or R374 stops, or UPD_FD1_BAD (R293). -/
def fd1Chk (s : State) (d : Fin 4) (i : Nat) : Option Nat :=
  ((fd1Reads s d i).findSome? fun p => nmuRead s d p.1 p.2).or (if fd1BlockOk s d then none else some 0x011C)

/-- r16() of R296. -/
def r16 (v : Val) : Val := decodePosit 16 (roundPosit 16 v).pat

/-- A quotient, NaR when the divisor is zero or NaR. -/
def divVal (a b : Val) : Val :=
  match a, b with
  | .nan, _ => .nan
  | _, .fin v => Val.ofRat (a.rat / v)
  | _, _ => .nan

/-- sqrt16 of R296: NaR for a negative operand or NaR. -/
def sqrt16 (a : Val) : Val :=
  match a with
  | .fin v => if v < 0 then .nan else decodePosit 16 (roundSqrtPosit 16 v)
  | .nan => .nan
  | _ => .zero false

/-- sgn of R296. -/
def sgnVal : Val → Val
  | .fin v => .fin (if v < 0 then -1 else 1)
  | .nan => .nan
  | _ => .zero false

/-- Exact product and sum of posit values. -/
def pmul (a b : Val) : Val := mulVal false a b
/-- Exact sum of posit values. -/
def padd (a b : Val) : Val := addVal a b
/-- Exact difference of posit values. -/
def psub (a b : Val) : Val := addVal a (negVal b)

/-- One element of R296: the stored patterns of W, M and V after the update. Its roundings into p16 count no CVT_CLAMP: the model's choice,
log entry 124. -/
def fd1Elem (b : Fd1) (lr : Val) (c1 c2 : Val) (sc : List Val) (x : List Nat) : Nat × Nat × Nat :=
  let g (l : List Val) (i : Nat) : Val := l[i]?.getD .nan
  let p (k : Nat) : Val := decodePosit 16 k
  let xs := x.map p
  let w := pmul (g xs 0) (g sc 0)
  let gr := pmul (g xs 1) (g sc 1)
  let m := pmul (g xs 2) (g sc 2)
  let v := pmul (g xs 3) (g sc 3)
  let lam := p b.lam
  let b1 := p b.b1
  let b2 := p b.b2
  let one : Val := .fin 1
  let m' := if b.rule = 1 then r16 (padd (padd (pmul b1 m) gr) (pmul lam w))
    else r16 (padd (pmul b1 m) (pmul (psub one b1) gr))
  let v' := r16 (padd (pmul b2 v) (pmul (psub one b2) (pmul gr gr)))
  let dn := r16 (padd (sqrt16 (r16 (pmul v' c2))) (p b.eps))
  let w' := match b.rule with
    | 1 => r16 (psub w (r16 (pmul lr m')))
    | 2 => r16 (psub w (r16 (pmul lr (padd (r16 (divVal (r16 (pmul m' c1)) dn)) (pmul lam w)))))
    | _ => r16 (psub w (r16 (pmul lr (padd (sgnVal m') (pmul lam w)))))
  let st (a : Val) (i : Nat) : Nat := (roundPosit 16 (divVal a (g sc i))).pat
  (st w' 0, st m' 2, if b.rule = 2 then st v' 3 else x[3]?.getD 0)

/-- The elements i, i + 1, … of a shard: read, update, write back with a zero gradient (R275, R294, R296). `bad`: what the engine
computes with was delivered poisoned. -/
def fd1Elems (b : Fd1) (lr c1 c2 : Val) (sc : List Val) (bad : Bool) (s : State) (d : Fin 4) (base i : Nat) : (n : Nat) → State
  | 0 => s
  | n + 1 =>
    let a := base + 8 * i
    let x := [s.readNat a 2, s.readNat (a + 2) 2, s.readNat (a + 4) 2, s.readNat (a + 6) 2]
    let p := bad || s.poisonedRange a 8
    let r := fd1Elem b lr c1 c2 sc x
    let s := (s.touch (.nmu d) a 8).store (.nmu d) a
      (leBytes 2 r.1 ++ leBytes 2 0 ++ leBytes 2 r.2.1 ++ leBytes 2 r.2.2) p
    fd1Elems b lr c1 c2 sc bad s d base (i + 1) n

/-- 1 / (1 − β^t) as the correctly rounded p16 (R296). -/
def biasC16 (beta t : Nat) : Val :=
  match decodePosit 16 beta with
  | .nan => .nan
  | v => r16 (divVal (.fin 1) (Val.ofRat (1 - v.rat ^ t)))

/-- One shard under the FD1 engine (R294 to R296, R288 to R290). `bad`: its list entry, the block or the descriptor was delivered
poisoned. -/
def fd1Shard (s : State) (d : Fin 4) (a : Nat) (bad : Bool) : State :=
  let u := s.nmu[d].u
  let h := readShard s a
  let b := readFd1 s (argField s d 152 8)
  let no := ((s.jobRun u.job).step.map (·.no)).getD 0
  let e : Int := no.toNat + b.off
  let e' : Int := if e < 65535 then e else 65535
  let scv := h.tscale.map (decodePosit 16)
  let bad := bad || (inWindow s d a 64 && s.poisonedRange a 64)
  let s := (s.touchHeader d a).modNmu d fun x => { x with poisonW := false }
  let d1 := (e % (2 ^ 64 : Nat)).toNat
  if !h.fd1Ok s d a || scv.any (fun v => !v.isNan && decide (v.rat ≤ 0)) then s.updEvent d 0x011A a h.step d1
  else if scv.any (·.isNan) then s.updEvent d 0x0119 a 0 0
  else if h.busy then s.updEvent d 0x0118 a h.step d1
  else if (h.step : Int) ≠ e' then s.updEvent d 0x0116 a h.step d1
  else
    let sc := argField s d 144 8
    let lr := if sc = 0 then decodePosit 16 b.lr
      else match (readRate s sc).exact h.step with
        | some v => r16 (Val.ofRat v)
        | none => .nan
    let t := min (h.step + 1) 65535
    let s := (s.takeShard d a h).markBusy a h.flags u.job
    let s := fd1Elems b lr (biasC16 b.b1 t) (biasC16 b.b2 t) scv bad s d (a + (h.off[0]?.getD 0)) 0 h.rowLen
    let per := if b.rule = 2 then 8 else 16
    let s := s.countNmu d ((h.rowLen + per - 1) / per)
    if s.nmu[d].poisonW then s.consumePoison (.nmu d)
    else (s.writeCommit a (readShard s a).flags (min (h.step + 1) 65535)).countShard u.job

/-- FD1_SHARD_UPDATE (R292 to R297): the engine takes the shards of its list in order; `i` names the one that it runs now. A bad
block fails the step; after the last shard the step's work on this NMU ends. -/
def execFd1ShardUpdate (d : Fin 4) (i : W32) (s : State) : Host.Outcome State Fault Refusal :=
  let u := s.nmu[d].u
  if u.run ≠ .fd1 ∨ i.toNat ≠ u.next ∨ argField s d 136 4 ≤ i.toNat then .next s
  else
    match fd1Chk s d i.toNat with
    | some code => .next (s.failOn (.nmu d) { code })
    | none =>
    let rs := fd1Reads s d i.toNat
    let a := s.readNat (argField s d 128 8 + 8 * i.toNat) 8
    let bad := rs.any fun p => s.poisonedRange p.1 p.2
    let s := fd1Shard (rs.foldl (fun (s : State) p => s.touch (.nmu d) p.1 p.2) s) d a bad
    let s := s.modNmu d fun x => { x with u := { x.u with next := i.toNat + 1 } }
    if s.nmu[d].u.run ≠ .fd1 then .next s
    else if argField s d 136 4 ≤ i.toNat + 1 then
      .next ((s.modNmu d fun x => { x with u := { x.u with run := .ended } }).stepEnd u.job (16 + d))
    else .next s

end Sys2Proof.Machine
end

