-- ==== Sys2Proof/Machine/Segment.lean ====
section
/-! DEFINITION. Segments at a lock point: what stops at the end of a slot (07 R239, 03 R99, 10 R317), what is saved and cleared
when a resource passes to other work (07 R220, 03 R79, 04 R120, 16 R541), and how a segment starts (07 R219, R242, R245; 06 R206;
09 R273, R292). -/

namespace Sys2Proof.Machine

/-- µs of an offset from the start of its cycle. -/
def State.offUs (s : State) (t : Nat) : Nat := t % s.lcNs / 1000

/-! ### Passing to other work -/

/-- The kernel state of a unit whose job's step has begun on it and has not ended there is saved (07 R220). -/
def State.saveUnit (s : State) (r : Res) : State :=
  let u := s.unit r
  match (s.jobRun u.job).step with
  | some x =>
    if x.no == u.step && x.begun.contains (resNum r) && !x.ended.contains (resNum r) then
      let v : Saved := match r with
        | .reach n =>
          let y := s.reach[n]
          { xregs := u.xregs, vl := u.vl, next := u.next, rerunMax := y.rerunMax, rerunLeft := y.rerunLeft, denied := y.denied }
        | .nmu d => { xregs := u.xregs, vl := u.vl, next := u.next, wins := s.nmu[d].wins, areas := s.nmu[d].areas, poisonW := s.nmu[d].poisonW }
      s.modJob u.job fun y => { y with saved := (y.saved.filter fun p => p.1 != resNum r) ++ [(resNum r, v)] }
    else s
  | none => s

/-- The state of a reach that a change of job or context clears (03 R79, 04 R120, 07 R220): vector registers, weight stores,
quire bank and its groups, and what they are owed. -/
def Reach.clearWork (x : Reach) : Reach :=
  { x with u := { x.u with vregs := [] }, ws := Vector.replicate 2 {}, fill := none, grps := Vector.replicate 8 {}, bank := {}
           pend := [], tq := [], lateClear := false }

/-- The saving and clearing of R220 on a unit. -/
def State.clearUnit (s : State) (r : Res) : State :=
  let s := s.saveUnit r
  match r with
  | .reach n => s.modReach n Reach.clearWork
  | .nmu _ => s.modU r fun u => { u with vregs := [] }

/-- A barge of the reach is in flight. -/
def Reach.bargesBusy (x : Reach) : Bool := x.barges.toList.any (·.busy)

/-- A unit passes to another job or context: saved and cleared now (03 R79, 04 R120, 07 R220), or, with a decision on a sampled tile
open, later (16 R541). Barges in flight hold back the next segment alone (07 R239). -/
def State.passUnit (s : State) (r : Res) : State :=
  match r with
  | .reach n =>
    let s := s.modReach n fun x => { x with waitBarges := x.bargesBusy }
    if s.reach[n].dups.isEmpty then s.clearUnit r else s.modReach n fun x => { x with lateClear := true }
  | .nmu _ => s.clearUnit r

/-! ### The end of a slot -/

/-- Every dispatched and issued instruction of a reach completes (03 R99, 07 R239): the slot updates that it owes land and a
fill in progress is done. -/
def State.completeTiles (s : State) (n : Fin 16) : State :=
  let s := s.landAll n s.reach[n].pend
  match s.reach[n].fill with
  | some k => (s.modWs n k fun w => { w with filling := false, state := .loaded }).modReach n fun x => { x with fill := none }
  | none => s

/-- The dispatched work of a unit completes. -/
def State.completeWork (s : State) : Res → State
  | .reach n => s.completeTiles n
  | .nmu _ => s

/-- A running segment stops between two instructions: it resumes with the first instruction not dispatched, or with the one
that waits (07 R239, 10 R317). -/
def Unit.pause (u : Unit) : Unit :=
  { u with run := .idle, next := if u.wait = .none then u.next else u.pc.toNat, wait := .none }

/-- The unit is executing a segment. -/
def Unit.executing (u : Unit) : Bool := u.run == .running || u.run == .fd1

/-- A segment in progress meets its ending lock point (10 R317, R319): work of a stopped step ends, other work is paused and,
while the step limit has not passed, SEG_OVERRUN is counted. -/
def State.overrun (s : State) (r : Res) : State :=
  let u := s.unit r
  if !u.executing then s
  else
    match (s.jobRun u.job).step with
    | some x =>
      if x.stop ≠ .none then (s.stopUnit r).endStopped u.job
      else
        let s := s.modU r Unit.pause
        if x.limit then s else { s with lkp := { s.lkp with ovr := stick32 s.lkp.ovr 1 } }
    | none => s.stopUnit r

/-- One histogram is added to another, bin by bin; a bin that would pass 32 bits sticks and marks its group (08 R262, R263). -/
def Taper.merge (t : Taper) (o : Taper) : Taper :=
  o.bins.foldl (fun (t : Taper) p =>
    let v := slook 0 t.bins p.1
    let full := decide (2 ^ 32 ≤ v.toNat + p.2.toNat) || p.2 == BitVec.allOnes 32
    { t with bins := sput 0 t.bins p.1 (stick32 v p.2.toNat)
             sat := if full then t.sat ||| BitVec.ofNat 8 (2 ^ (p.1 / 64)) else t.sat })
    { t with pois := stick32 t.pois o.pois.toNat, sat := t.sat ||| o.sat }

/-- The histograms of a reach go to the step whose segment ends, while that step is in flight, and are cleared (08 R262). -/
def State.gatherTaper (s : State) (n : Fin 16) : State :=
  let t := s.reach[n].taper
  let u := s.reach[n].u
  let j := u.job
  let s := s.modReach n fun x => { x with taper := {} }
  match (s.jobRun j).step with
  | some x => if x.no = u.step ∧ x.stop = .none then s.modStep j fun x => { x with taper := x.taper.merge t } else s
  | none => s

/-- The slot in progress on a unit ends at TIME `t` (10 R317; 03 R79, R99; 04 R120; 07 R220, R239; 08 R262). What the segment's
instructions waited to dispatch, besides what each command counted, goes to VE_DSTALL here (07 R247; log 15). -/
def State.endSlot (s : State) (r : Res) (t : Nat) : State :=
  match (s.unit r).slot with
  | none => s
  | some a =>
    let s := match r with
      | .reach n => if a.started then s.countStall n .dispatch 0 else s
      | .nmu _ => s
    let s := s.completeWork r
    let s := s.overrun r
    let s := match r with
      | .reach n => if a.started then s.gatherTaper n else s
      | .nmu _ => s
    let s := s.modU r fun u => { u with slot := none }
    let k := t / s.lcNs
    if s.passes (resNum r) k (s.offUs t) (s.unit r).job (s.unit r).ctx || a.slot.kind == 4 then s.passUnit r else s

/-! ### The start of a segment -/

/-- The state that a step's first segment sets on a reach or NMU (07 R219, R245). -/
def Unit.first (u : Unit) (x1 x2 x3 x4 x5 entry : Nat) : Unit :=
  { u with
    vregs := []
    xregs := (Vector.replicate 32 (0, false) |>.set 1 (BitVec.ofNat 64 x1, false) |>.set 2 (BitVec.ofNat 64 x2, false)
      |>.set 3 (BitVec.ofNat 64 x3, false) |>.set 4 (BitVec.ofNat 64 x4, false) |>.set 5 (BitVec.ofNat 64 x5, false))
    vl := 256, next := entry }

/-- A unit's program is the image of its job (07 R240, R242). -/
def Unit.withImage (u : Unit) (img : List Byte) (e : JobE) : Unit :=
  { u with
    repro := e.repro
    fd1sfu := bitAt (imgNat img 7 1) 1
    kbase := e.kbase
    imgLen := imgNat img 12 4
    codeLen := imgNat img 20 4
    tileOff := imgNat img 24 4
    tileLen := imgNat img 28 4
    rsBase := e.rsBase
    rsLen := e.rsLen }

/-- What a segment's start of step `no` sets on every unit. -/
def Unit.begin_ (u : Unit) (j : Nat) (no : W64) (e : JobE) (run : Run) : Unit :=
  { u with job := j, step := no, ctx := e.ctx, run, wait := .none, trap := none, slot := u.slot.map fun a => { a with started := true } }

/-- A resource begins its first segment of a step, and takes back what was saved for it (07 R220). -/
def State.restore (s : State) (r : Res) (j : Nat) : State :=
  match (s.jobRun j).saved.find? fun p => p.1 == resNum r with
  | some p =>
    let v := p.2
    let s := s.modU r fun u => { u with xregs := v.xregs, vl := v.vl, next := v.next }
    let s := match r with
      | .reach n => s.modReach n fun x => { x with rerunMax := v.rerunMax, rerunLeft := v.rerunLeft, denied := v.denied }
      | .nmu d => s.modNmu d fun x => { x with wins := v.wins, areas := v.areas, poisonW := v.poisonW }
    s.modJob j fun y => { y with saved := y.saved.filter fun q => q.1 != resNum r }
  | none => s

/-- A step has begun on a resource. -/
def State.markBegun (s : State) (j k : Nat) : State :=
  s.modStep j fun x => { x with begun := setIns k x.begun, res := setIns k x.res }

/-- A segment starts on a reach (07 R219, R220, R242; 06 R206). A job without a reach kernel has nothing to run there. -/
def State.startReach (s : State) (n : Fin 16) (a : ActSlot) (e : JobE) (x : StepRun) : State :=
  let j := a.slot.job
  let s := s.modReach n fun y => { y with
    waitBarges := false
    segEnd := a.endT
    segPass := s.passes n (a.endT.toNat / s.lcNs) (s.offUs a.endT.toNat) j e.ctx }
  match s.kernelOf j e.kernel with
  | none => (s.markBegun j n).stepEnd j n
  | some img =>
    let s := s.write (storeBase n + e.kbase) (img.take (imgNat img 12 4))
    let s := s.modU (.reach n) fun u => (u.withImage img e).begin_ j x.no e .running
    if x.begun.contains n then s.restore (.reach n) j
    else
      let named := (List.range 16).filter a.slot.names
      let s := s.modReach n fun y => { y with
        u := y.u.first e.argRs (x.no.toNat % 2 ^ 32) (named.idxOf n.val) named.length y.width (imgNat img 40 4)
        rerunMax := e.rerunMax, rerunLeft := e.rerunMax, denied := 0 }
      s.markBegun j n

/-- A segment starts on an NMU (07 R245, 09 R272, R273, R292). -/
def State.startNmu (s : State) (d : Fin 4) (a : ActSlot) (e : JobE) (x : StepRun) : State :=
  let j := a.slot.job
  let k := 16 + d.val
  let blk := e.argDev + 256 * d.val
  let img := if e.upd ≠ 0 then some [] else s.kernelOf j e.nkernel
  match img with
  | none => (s.markBegun j k).stepEnd j k
  | some img =>
    let run := if e.upd ≠ 0 then Run.fd1 else Run.running
    let s := s.modNmu d fun y => { y with
      u := (if e.upd ≠ 0 then y.u else y.u.withImage img e).begin_ j x.no e run
      upd := e.upd, argBlk := blk }
    if x.begun.contains k then s.restore (.nmu d) j
    else
      let s := s.modNmu d fun y => { y with
        u := y.u.first blk (x.no.toNat % 2 ^ 32) 0 0 0 (if e.upd ≠ 0 then 0 else imgNat img 40 4)
        poisonW := false, wins := [], areas := [] }
      let s := ((s.llc blk 256).bump.notePoison j blk 256).markBegun j k
      let ws := argWindows s d
      if ws.any fun w => !windowOk s d e.ctx w then s.failOn (.nmu d) { code := 0x011B }
      else
        let s := s.modNmu d fun y => { y with wins := ws }
        if e.upd ≠ 0 ∧ argField s d 136 4 = 0 then
          (s.modNmu d fun y => { y with u := { y.u with run := .ended } }).stepEnd j k
        else s

/-- The segment of the slot in progress on a unit starts when it may: the device runs its schedule, the job is kept, not held
and not suspended, its step in flight was released at least 10 µs before the slot's start and has neither ended here nor been
stopped, and the resource is in service and clear of earlier work (R267, R313, R315, R416; 07 R239; 16 R541). -/
def State.tryStart (s : State) (r : Res) : State :=
  match (s.unit r).slot with
  | none => s
  | some a =>
    if a.started || !a.slot.isSeg then s
    else
      let j := a.slot.job
      match s.job? j, (s.jobRun j).step with
      | some e, some x =>
        if (s.dev.st ≠ .running && s.dev.st ≠ .draining) || s.cpl.wstate == .held || !s.keptNow e || (s.jobRun j).held ||
            s.suspended j || x.stop ≠ .none || x.ended.contains (resNum r) || !s.serves (resNum r) ||
            decide (a.endT.toNat < x.rel.toNat + 10000 + a.slot.len * 1000) then s
        else
          let u := s.unit r
          let s := if u.job = j ∧ u.ctx = e.ctx then s else s.passUnit r
          match r with
          | .reach n =>
            if s.reach[n].lateClear || (s.reach[n].waitBarges && s.reach[n].bargesBusy) then s else s.startReach n a e x
          | .nmu d => s.startNmu d a e x
      | _, _ => s

/-- A slot starts on a unit at TIME `t`. -/
def State.startSlot (s : State) (p : SlotE × Bool) (t : Nat) (r : Res) : State :=
  let s := s.modU r fun u => { u with
    slot := some { slot := p.1, new := p.2, endT := BitVec.ofNat 64 (t + p.1.len * 1000) } }
  if p.1.kind = 4 then
    (match r with | .reach n => (s.modReach n fun x => { x with test := { x.test with used := 0 } }) | .nmu _ => s).passUnit r
  else s.tryStart r

/-- What waited for the last decision or barge of a reach goes on (07 R239, 16 R541): with the last decision made the reach is
cleared, and with its barges complete too the segment of the slot in progress starts late. -/
def State.lateStart (s : State) (n : Fin 16) : State :=
  let x := s.reach[n]
  if !x.lateClear && !x.waitBarges || x.lateClear && !x.dups.isEmpty then s
  else
    let s := if x.lateClear then s.clearUnit (.reach n) else s
    if x.bargesBusy then s else (s.modReach n fun x => { x with waitBarges := false }).tryStart (.reach n)

end Sys2Proof.Machine
end

