-- ==== Sys2Proof/Machine/Steps.lean ====
section
/-! DEFINITION. Job steps (10_lock_schedule): release and the argument block (R314, R315, R322, R323, R327), the step limit (R316,
R317), the commit and its taper record (R318; 08 R262, R263), abort (R332 to R334), NAR_TRAP (08 R265 to R269), and the ends that
the whole device gives to steps (17 R581; 16 R555). -/

namespace Sys2Proof.Machine

/-! ### Release -/

/-- An ingress ring's indices. -/
def State.inRing (s : State) (r : Nat) : InRing := slook {} s.lkp.inRings r

/-- Change an ingress ring's indices. -/
def State.modRing (s : State) (r : Nat) (f : InRing → InRing) : State :=
  { s with lkp := { s.lkp with inRings := sput {} s.lkp.inRings r (f (slook {} s.lkp.inRings r)) } }

/-- A context is LIVE with a generation (R323). -/
def State.ctxLive (s : State) (c : Nat) (gen : W32) : Bool :=
  let x := s.ctxOf c
  c != 0 && x.state == .live && x.gen == gen

/-- A descriptor as it is taken (R322). -/
structure Taken where
  ctx  : Nat
  gen  : W32
  tag  : W64
  ring : Nat
  addr : Nat
  desc : List Byte
  bad  : Bool
  deriving DecidableEq, Repr

/-- Descriptor i of a ring (R322, R327). -/
def State.descriptor (s : State) (g : RingE) (r : Nat) (i : Nat) : Taken :=
  let a := g.base + 64 * (i % 2 ^ g.log2n)
  let d := s.read a 64
  { ctx := leNat (d.take 4) % 2 ^ 20, gen := BitVec.ofNat 32 (leNat ((d.drop 4).take 4))
    tag := BitVec.ofNat 64 (leNat ((d.drop 8).take 8)), ring := r, addr := a, desc := d, bad := s.poisonedRange a 64 }

/-- One ring is read (R314, R327): at most `room` descriptors are taken. -/
def State.takeRing (s : State) (j : Nat) (e : JobE) (r room : Nat) : State × List Taken :=
  match s.ring? j r with
  | none => (s, [])
  | some g =>
    let tail : W32 := BitVec.ofNat 32 (s.readNat g.tail 8)
    let head := (s.inRing r).head
    let s := s.modRing r fun x => { x with tail }
    if !newer32 tail head then (s, [])
    else
      let n := (tail - head).toNat
      if 2 ^ g.log2n < n then
        (s.raise { code := 0x040E, job := j, ctx := e.ctx, kind := 6, addr := r, d0 := tail.toNat }, [])
      else
        let k := min n room
        let ds := (List.range k).map fun i => s.descriptor g r ((head.toNat + i) % 2 ^ 32)
        (s.modRing r fun x => { x with head := head + BitVec.ofNat 32 k }, ds)

/-- The job's rings in ascending order, each oldest first, until ARG_MAX descriptors are taken (R314). -/
def State.takeRings (s : State) (j : Nat) (e : JobE) : (rings : List Nat) → (room : Nat) → State × List Taken
  | [], _ => (s, [])
  | r :: rs, room =>
    if room = 0 then (s, [])
    else
      let (s, ds) := s.takeRing j e r room
      let (s, more) := s.takeRings j e rs (room - ds.length)
      (s, ds ++ more)

/-- A descriptor that does not become a member (R323). -/
def State.postStale (s : State) (j : Nat) (e : JobE) (no : W64) (d : Taken) : State :=
  let s := { s with lkp := { s.lkp with stale := stick32 s.lkp.stale 1 } }
  s.post { egr := e.egr, ts := s.stamp s.time, status := 3, job := j, ctx := d.ctx, gen := d.gen, step := no, tag := d.tag,
           ring := d.ring, head := (s.inRing d.ring).head }

/-- The header of an argument block (R315). -/
def argHeader (j : Nat) (e : JobE) (no rel : W64) (members : Nat) : List Byte :=
  leBytes 8 no.toNat ++ leBytes 8 rel.toNat ++ leBytes 4 e.ctx ++ leBytes 2 members ++ leBytes 2 j ++ leBytes 40 0

/-- The argument block of a step in one reach store (R315); a poisoned descriptor keeps its mark (11 R365). -/
def State.writeArgs (s : State) (j : Nat) (e : JobE) (x : StepRun) (n : Nat) : State :=
  let a := storeBase n + e.argRs
  let s := s.write a (argHeader j e x.no x.rel x.members.length)
  let s := x.members.zipIdx.foldl (fun (s : State) p => s.write (a + 64 + 64 * p.2) p.1.desc p.1.bad) s
  s.write (a + 64 + 64 * e.argMax) (List.replicate (8 * e.argMax) 0)

/-- The argument block in every reach that a slot of the job names (R315). -/
def State.writeAllArgs (s : State) (j : Nat) (e : JobE) (x : StepRun) : State :=
  let m := s.jobReaches j
  ((List.range 16).filter fun n => bitAt m n).foldl (fun (s : State) n => s.writeArgs j e x n) s

/-- Step s of job j is released if it has a member or PERIODIC is set (R314, R315, R323). -/
def State.releaseStep (s : State) (j : Nat) (e : JobE) : State :=
  let no := (s.jobRun j).nextStep
  let rings := (List.range e.ringCount).map (e.ringFirst + ·)
  let (s, ds) := s.takeRings j e rings e.argMax
  let ok (d : Taken) : Bool := s.ctxLive d.ctx d.gen
  let live := ds.filter ok
  let s := (ds.filter fun d => !ok d).foldl (fun (s : State) d => s.postStale j e no d) s
  if live.isEmpty && !e.periodic then s
  else
    let table := (s.slotsAt s.lkp.level).map (·.1)
    let x : StepRun :=
      { no, rel := s.time, res := resOfJob table j
        members := live.map fun d =>
          { ctx := d.ctx, gen := d.gen, tag := d.tag, ring := d.ring, head := (s.inRing d.ring).head, desc := d.desc
            bad := d.bad } }
    let x := { x with poison := if s.jobReaches j = 0 then none else ((live.find? (·.bad)).map fun d => d.addr / 64 * 64) }
    let s := s.modJob j fun y => { y with nextStep := no + 1, step := some x, saved := [] }
    s.writeAllArgs j e x

/-- A stage of a change or a polder command holds the job's releases (12 R415, R421). -/
def State.releaseHeld (s : State) (j : Nat) : Bool :=
  let on (k : Nat) : Bool := s.jobReaches j &&& (15 * 16 ^ k) != 0
  match s.prf.chg with
  | .staging k b => b && on k
  | .draining k b => b && on k
  | _ => false

/-- The RELEASE slot of a job (R314, R316, R317): with a step in flight its limit has come, and a step short of END fails; with
none, a step may be released. -/
def State.releaseSlot (s : State) (j : Nat) : State :=
  match s.job? j with
  | none => s
  | some e =>
    match (s.jobRun j).step with
    | some x =>
      if e.deadline = 0 ∨ x.rel = s.time then s
      else
        let s := s.modStep j fun x => { x with limit := true }
        if x.stop = .none ∧ !x.res.all x.ended.contains then s.failStep j { code := 0x040C } else s
    | none =>
      if s.dev.st ≠ .running || s.cpl.wstate == .held || !s.keptNow e || (s.jobRun j).held || s.suspended j ||
          s.releaseHeld j then s
      else s.releaseStep j e

/-! ### Commit -/

/-- The taper record of a step (08 R263). -/
def taperRecord (j ctx : Nat) (x : StepRun) (t : Nat) : List Byte :=
  let gmask := (List.range 8).foldl (fun m g =>
    if x.taper.bins.any fun p => p.1 / 64 == g && p.2 != 0 then m + 2 ^ g else m) 0
  leBytes 4 0xFD2C7A90 ++ leBytes 2 1 ++ leBytes 1 gmask ++ leBytes 1 x.taper.sat.toNat ++ leBytes 2 j ++ leBytes 3 ctx ++
    leBytes 3 0 ++ leBytes 8 x.no.toNat ++ leBytes 8 t ++ leBytes 4 x.taper.pois.toNat ++ leBytes 28 0 ++
    (List.range 512).flatMap fun i => leBytes 4 (slook 0 x.taper.bins i).toNat

/-- The commit point of a step whose records are posted (R318; 08 R262). -/
def State.commit (s : State) (j t : Nat) : State :=
  match (s.jobRun j).step, s.job? j with
  | some x, some e =>
    if x.posted && x.stop == .none then
      let s := if e.taper ≠ 0 then s.write e.taper (taperRecord j e.ctx x t) else s
      s.modJob j fun y => { y with step := none }
    else s
  | _, _ => s

/-! ### Abort -/

/-- An abort acknowledgement (R329, R334). -/
def State.ackAbort (s : State) (j : Nat) (e : JobE) (no status : Nat) : State :=
  s.post { egr := e.egr, ts := s.stamp s.time, typ := 1, status, job := j, ctx := e.ctx, step := BitVec.ofNat 64 no }

/-- The number that a port has in a result register. -/
def portNum : Port → Nat
  | .host => 1
  | .mgmt _ => 2

/-- The KIND of SOURCE that names a port (19 R618). -/
def portKind : Port → Nat
  | .host => 3
  | .mgmt _ => 4

/-- LKP_ABORT (R332 to R334): before the commit point the abort ends the step; else it is acknowledged. One that names a job outside the
active table posts nothing; its outcome is NO_STEP (log 128). -/
def State.abort (s : State) (p : Port) (v : W64) : State :=
  let j := bits v.toNat 48 16
  let no := bits v.toNat 0 48
  let last (s : State) (status : Nat) : State :=
    { s with lkp := { s.lkp with
        abortJob := BitVec.ofNat 16 j, abortStatus := BitVec.ofNat 8 status, abortPort := BitVec.ofNat 8 (portNum p)
        abortStep := BitVec.ofNat 32 no } }
  match s.job? j with
  | none => last s 5
  | some e =>
    let y := s.jobRun j
    match y.step with
    | some x =>
      if x.no.toNat % 2 ^ 48 = no then
        if x.stop = .none then last ((s.stopStep j .aborted).endStopped j) 1
        else last (s.ackAbort j e no 5) 5
      else if no < y.nextStep.toNat ∧ !y.failed.any (fun f => f.toNat % 2 ^ 48 == no) then last (s.ackAbort j e no 4) 4
      else last (s.ackAbort j e no 5) 5
    | none =>
      if no < y.nextStep.toNat ∧ !y.failed.any (fun f => f.toNat % 2 ^ 48 == no) then last (s.ackAbort j e no 4) 4
      else last (s.ackAbort j e no 5) 5

/-- Jobs with a step in flight. -/
def State.inFlight (s : State) : List Nat := s.lkp.jobs.filterMap fun p => if p.2.step.isSome then some p.1 else none

/-- Steps of the jobs that a test picks end in one way (R333, 12 R418, 16 R555): on each resource at its next lock point. -/
def State.endSteps (s : State) (pick : State → Nat → Bool) (w : StepEnd) : State :=
  (s.inFlight.filter (pick s)).foldl (fun (s : State) j => (s.stopStep j w).endStopped j) s

/-- Every unit stops at once (17 R581; 14 R481). -/
def State.haltUnits (s : State) : State :=
  (List.range 20).foldl (fun (s : State) k =>
    match resOf k with
    | some r => if (s.unit r).executing then s.stopUnit r else s
    | none => s) s

/-- Every step in flight ends at once (17 R581, R582; 14 R481). -/
def State.haltSteps (s : State) (w : StepEnd) : State :=
  let s := s.inFlight.foldl (fun (s : State) j => s.stopStep j w) s
  let s := s.haltUnits
  s.inFlight.foldl (fun (s : State) j => s.endStopped j) s

/-! ### NAR_TRAP -/

/-- The production order of two reports: time, then reach (R265). -/
def trapBefore (a b : Nat × TrapRep) : Bool :=
  decide (a.2.ts.toNat < b.2.ts.toNat) || (a.2.ts == b.2.ts && decide (a.1 < b.1))

/-- The first detail word of NAR_TRAP (R266). LANE has nine bits: a number from 512 on shows its low nine (log 123). -/
def trapDetail (t : TrapRep) (stopped : Bool) : Nat :=
  t.tindex % 2 ^ 16 * 2 ^ 48 + t.part % 2 ^ 4 * 2 ^ 44 + b2n t.origin * 2 ^ 43 + b2n stopped * 2 ^ 42 + t.lane % 2 ^ 9 * 2 ^ 33 +
    t.slot % 2 ^ 8 * 2 ^ 25 + t.fmt % 2 ^ 4 * 2 ^ 21

/-- NAR_TRAP of a job at the lock point of R265: the earliest report, one record, the trap disarmed; with NSTOP the job's other
segments stop and the job is held (R266, R267). -/
def State.narTrap (s : State) (j : Nat) : State :=
  let y := s.jobRun j
  match y.traps, s.job? j with
  | t :: ts, some e =>
    let f := ts.foldl (fun m x => if trapBefore x m then x else m) t
    let seq := s.ras.seq
    let s := s.raiseAt f.2.ts
      { code := 0x0115, job := j, ctx := e.ctx, kind := 1, part := f.1, addr := f.2.pc, d0 := trapDetail f.2 e.nstop
        d1 := f.2.step.toNat }
    let s := { s with lkp := { s.lkp with trapSeq := seq, trapJob := BitVec.ofNat 16 j, trapValid := true } }
    let s := s.modJob j fun y => { y with traps := [], armed := false, held := y.held || e.nstop }
    if e.nstop then
      ((List.range 20).foldl (fun (s : State) k => if s.working j k then
        (match resOf k with | some r => s.stopUnit r | none => s) else s) s).endStopped j
    else s
  | _, _ => s

/-- LKP_NARTRAP_CTL (R268) takes effect: requests of jobs in the active table. -/
def State.trapRequests (s : State) (j : Nat) : State :=
  match s.job? j with
  | some e => s.modJob j fun y =>
      { y with armed := if y.rearm && e.ntrap then true else y.armed, held := if y.resume then false else y.held
               rearm := false, resume := false }
  | none => s

end Sys2Proof.Machine
end

