-- ==== Sys2Proof/Machine/Context.lean ====
section
/-! DEFINITION. The context table (10 R320, R321) and its commands (R324, R325). -/

namespace Sys2Proof.Machine

/-- A region word (R321). -/
def regionOf (x : Nat) : Region :=
  { base := bits x 36 28, size := bits x 8 28, wr := bitAt x 2, rd := bitAt x 1, valid := bitAt x 0 }

/-- Two regions share a byte. -/
def Region.meets (g h : Region) : Bool := decide (g.base < h.base + h.size) && decide (h.base < g.base + g.size)

/-- The regions `hs` hold every 4 KiB unit from `lo` to `hi` − 1; at most `fuel` of them are needed. -/
def coveredBy (hs : List Region) (lo hi : Nat) : (fuel : Nat) → Bool
  | 0 => decide (hi ≤ lo)
  | f + 1 =>
    decide (hi ≤ lo) ||
      match hs.find? fun h => decide (h.base ≤ lo) && decide (lo < h.base + h.size) with
      | some h => coveredBy hs (h.base + h.size) hi f
      | none => false

/-- No byte of region g lies outside the regions `hs` together. -/
def Region.within (g : Region) (hs : List Region) : Bool := coveredBy hs g.base (g.base + g.size) hs.length

/-- Change a context descriptor. -/
def State.modCtx (s : State) (c : Nat) (f : Ctx → Ctx) : State :=
  { s with ctx := { s.ctx with ctxs := sput {} s.ctx.ctxs c (f (slook {} s.ctx.ctxs c)) } }

/-- LIVE and CLOSING contexts (R349). -/
def State.liveCtxs (s : State) : Nat := s.ctx.ctxs.countP fun p => p.2.state != .free

/-- Bytes a to a + n − 1 lie wholly in DRAM in use outside the device area, or in scratchpad in use (R324; 13 R434). -/
def State.openMem (s : State) (a n : Nat) : Bool := (s.inDram a n && decide (2 ^ 30 ≤ a)) || s.inSpad a n

/-- The RESULT word of a command block (R325). -/
def State.ctxResult (s : State) (blk status : Nat) (gen : W32) : State :=
  s.writeNat (blk + 120) 8 (2 ^ 63 + status * 2 ^ 56 + gen.toNat)

/-- A reserved field of a command block is nonzero (R321, R325). -/
def ctxBlkBad (d : List Byte) : Bool :=
  let w := leNat (d.take 4)
  w / 2 ^ 26 != 0 || bits w 20 4 != 0 || leNat ((d.drop 8).take 8) != 0 || leNat ((d.drop 80).take 40) != 0 ||
    (List.range 8).any fun i => bits (leNat ((d.drop (16 + 8 * i)).take 8)) 3 5 != 0

/-- The regions of a command block. -/
def ctxBlkRegions (d : List Byte) : List Region :=
  ((List.range 8).map fun i => regionOf (leNat ((d.drop (16 + 8 * i)).take 8))).filter (·.valid)

/-- A context command takes effect (R325). -/
def State.ctxEffect (s : State) (q : CtxCmd) : State :=
  let c := leNat (q.data.take 4) % 2 ^ 20
  let x := s.ctxOf c
  let gs := ctxBlkRegions q.data
  let other (p : Nat × Ctx) : Bool :=
    p.1 != c && p.2.state != .free && p.2.regions.any fun h => h.wr && gs.any fun g => g.meets h
  if ctxBlkBad q.data then s.ctxResult q.blk 5 x.gen
  else if c ≤ s.ctx.npctx then s.ctxResult q.blk 2 x.gen
  else if q.op = 2 then
    if x.state ≠ .live then s.ctxResult q.blk 1 x.gen
    else s.modCtx c fun x => { x with state := .closing, blk := some q.blk }
  else if x.state ≠ .free then s.ctxResult q.blk 1 x.gen
  else if gs.any (fun g => !g.within s.ctx.sess) || s.ctx.ctxs.any other then s.ctxResult q.blk 3 x.gen
  else if s.ctx.ctxMax < s.ctx.ctxs.countP (fun p => p.2.state == .live) + 1 then s.ctxResult q.blk 4 x.gen
  else
    ((s.modCtx c fun x => { x with state := .live, gen := x.gen + 1, regions := gs, blk := none }).keysMoved s).ctxResult q.blk 0
      (x.gen + 1)

/-- Contexts that some step in flight has as a member (R325). -/
def State.memberCtxs (s : State) : List Nat :=
  s.lkp.jobs.flatMap fun p => match p.2.step with | some x => x.members.map (·.ctx) | none => []

/-- CLOSING contexts without a member in flight become FREE, and their DESTROY is DONE (R325). -/
def State.freeClosing (s : State) : State :=
  let busy := s.memberCtxs
  let cs := s.ctx.ctxs.filter fun p => p.2.state == .closing && !busy.contains p.1
  cs.foldl (fun (s : State) p =>
    let s := (s.modCtx p.1 fun x => { x with state := .free, blk := none }).keysMoved s
    match p.2.blk with
    | some b => s.ctxResult b 0 p.2.gen
    | none => s) s

/-- The command at the head of the queue takes effect (R325). -/
def State.ctxHead (s : State) : State :=
  match s.ctx.queue with
  | [] => s
  | q :: qs => if 6 ≤ s.dev.shed.toNat then s else ({ s with ctx := { s.ctx with queue := qs } }).ctxEffect q

/-- Every queued command, in order; they wait at S6 (17 R581). -/
def State.ctxAll (s : State) : State := (List.range s.ctx.queue.length).foldl (fun (s : State) _ => s.ctxHead) s

/-- A write of CTX_CMD (R324, R325). While no schedule is in force the command takes effect at once (R624). -/
def State.ctxCmd (s : State) (p : Port) (v : W64) : State :=
  let op := bits v.toNat 0 2
  let blk := bits v.toNat 7 33 * 128
  if (op ≠ 1 ∧ op ≠ 2) ∨ !s.openMem blk 128 then s.raise { code := 0x0414, kind := portKind p, d0 := v.toNat }
  else if 64 ≤ s.ctx.queue.length then s.raise { code := 0x0412, kind := portKind p }
  else
    let s := { s with ctx := { s.ctx with queue := s.ctx.queue ++ [{ op, blk, data := s.read blk 128 }] } }
    if s.lkp.inForce then s else s.ctxAll.freeClosing

/-- CTX_CMD_EFFECT (R325): the command at the head of the queue takes effect at the end of its 100 µs, between lock points. -/
def execCtxCmdEffect (s : State) : Host.Outcome State Fault Refusal :=
  .next (if s.lkp.inForce then s.ctxHead else s.ctxHead.freeClosing)

end Sys2Proof.Machine
end

