-- ==== Sys2Proof/Machine/Rings.lean ====
section
/-! DEFINITION. The registers of the egress rings (10 R347, R348) and the host's error ring (16 R560, R565, R566). A configuration
takes effect at the next lock point, or at once while no schedule is in force (10 R624). -/

namespace Sys2Proof.Machine

/-! ### Egress rings -/

/-- A pending configuration of an egress ring takes effect (R347): a change of base or size empties the ring. Records held for the ring go
out where they can (13 R438). -/
def State.applyEgr (s : State) (e : Nat) : State :=
  let g := s.egrRing e
  if g.newBase.isNone && g.newCfg.isNone then s.drainHeld e s.lkp.held.length
  else
    let base := g.newBase.getD g.base
    let cfg := g.newCfg.getD (g.enable, g.vector, g.size)
    let s :=
      if base ≠ g.base ∨ cfg.2.2 ≠ g.size then
        let s := s.modEgr e fun g => { g with tail := 0, head := 0 }
        { s with lkp := { s.lkp with held := s.lkp.held.filter fun r => r.egr != e } }
      else s
    let s := s.modEgr e fun g => { g with
      base, enable := cfg.1, vector := cfg.2.1, size := cfg.2.2, newBase := none, newCfg := none }
    s.drainHeld e s.lkp.held.length

/-- Every pending configuration. -/
def State.applyEgrs (s : State) : State := (s.lkp.egr.map (·.1)).foldl (fun (s : State) e => s.applyEgr e) s

/-- What waits for a lock point takes effect now while no schedule is in force (R624). -/
def State.unlessForced (s : State) (f : State → State) : State := if s.lkp.inForce then s else f s

/-- A write of LKP_EGR_e_BASE, a multiple of 64 (R347). The Bool says that R12 discards the value. -/
def State.egrBase (s : State) (e : Nat) (v : W64) : State × Bool :=
  if v.toNat % 64 ≠ 0 then (s, true)
  else ((s.modEgr e fun g => { g with newBase := some v }).unlessForced fun s => s.applyEgr e, false)

/-- A write of LKP_EGR_e_CFG (R347); SIZE is 4 to 16. -/
def State.egrCfg (s : State) (e : Nat) (v : W64) : State × Bool :=
  let g := s.egrRing e
  let old := g.newCfg.getD (g.enable, g.vector, g.size)
  let z := bits v.toNat 0 5
  let bad := decide (z < 4) || decide (16 < z)
  let cfg := (bitAt v.toNat 16, BitVec.ofNat 11 (bits v.toNat 5 11), if bad then old.2.2 else BitVec.ofNat 5 z)
  ((s.modEgr e fun g => { g with newCfg := some cfg }).unlessForced fun s => s.applyEgr e, bad)

/-- A write of LKP_EGR_e_HEAD (R348). -/
def State.egrHead (s : State) (e : Nat) (v : W64) : State :=
  let g := s.egrRing e
  let h : W32 := v.setWidth 32
  if (g.tail - h).toNat ≤ 2 ^ g.size.toNat then
    let s := s.modEgr e fun g => { g with head := h }
    s.drainHeld e s.lkp.held.length
  else s.raise { code := 0x0413, kind := 6, addr := e, d0 := v.toNat }

/-! ### The error ring -/

/-- The 64 bytes of an error record (19 R617). -/
def ErrRec.bytes (r : ErrRec) : List Byte :=
  leBytes 8 r.ts.toNat ++ leBytes 4 r.seq.toNat ++ leBytes 2 r.event.toNat ++ leBytes 2 r.job.toNat ++ leBytes 4 r.ctx.toNat ++
    leBytes 4 r.source.toNat ++ leBytes 8 r.addr.toNat ++ leBytes 8 r.d0.toNat ++ leBytes 8 r.d1.toNat ++
    leBytes 8 r.d2.toNat ++ leBytes 8 r.d3.toNat

/-- A pending configuration of the error ring takes effect (16 R565). -/
def State.applyRas (s : State) : State :=
  let r := s.ras
  if r.newBase.isNone && r.newCfg.isNone then s
  else
    let base := r.newBase.getD r.ringBase
    let cfg := r.newCfg.getD (r.ringEn, r.ringVec, r.ringSize)
    let moved := decide (base ≠ r.ringBase ∨ cfg.2.2 ≠ r.ringSize)
    { s with ras := { r with
        ringBase := base, ringEn := cfg.1, ringVec := cfg.2.1, ringSize := cfg.2.2, newBase := none, newCfg := none
        ringHead := if moved then 0 else r.ringHead, ringTail := if moved then 0 else r.ringTail } }

/-- A write of RAS_RING_BASE (16 R565). -/
def State.rasBase (s : State) (v : W64) : State × Bool :=
  if v.toNat % 64 ≠ 0 then (s, true)
  else (({ s with ras := { s.ras with newBase := some v } }).unlessForced State.applyRas, false)

/-- A write of RAS_RING_CFG (16 R565). -/
def State.rasCfg (s : State) (v : W64) : State × Bool :=
  let r := s.ras
  let old := r.newCfg.getD (r.ringEn, r.ringVec, r.ringSize)
  let z := bits v.toNat 0 5
  let bad := decide (z < 4) || decide (16 < z)
  let cfg := (bitAt v.toNat 16, BitVec.ofNat 11 (bits v.toNat 5 11), if bad then old.2.2 else BitVec.ofNat 5 z)
  (({ s with ras := { s.ras with newCfg := some cfg } }).unlessForced State.applyRas, bad)

/-- A write of RAS_RING_HEAD (16 R566). -/
def State.rasHead (s : State) (v : W64) : State :=
  let h : W32 := v.setWidth 32
  if (s.ras.ringTail - h).toNat ≤ 2 ^ s.ras.ringSize.toNat then { s with ras := { s.ras with ringHead := h } }
  else s.raise { code := 0x080E, d0 := v.toNat }

/-- ERROR_RING_WRITE (16 R560): the oldest record that was raised while the ring was enabled is written, or dropped when the ring
is full; it waits for a link that is down (log 83). -/
def execErrorRingWrite (s : State) : Host.Outcome State Fault Refusal :=
  .next (match s.ras.errQ with
    | [] => s
    | r :: rs =>
      if s.ras.ringEn && !s.pci.up then s
      else
      let s := { s with ras := { s.ras with errQ := rs } }
      if !s.ras.ringEn then s
      else if (s.ras.ringTail - s.ras.ringHead).toNat = 2 ^ s.ras.ringSize.toNat then
        { s with ras := { s.ras with ringDrop := stick32 s.ras.ringDrop 1 } }
      else
        let a := s.ras.ringBase.toNat + 64 * (s.ras.ringTail.toNat % 2 ^ s.ras.ringSize.toNat)
        let s := s.send (.hostWrite a r.bytes)
        ({ s with ras := { s.ras with ringTail := s.ras.ringTail + 1 } }).dueVec s.ras.ringVec.toNat 0xFFFF)

end Sys2Proof.Machine
end

