-- ==== Sys2Proof/Machine/Image.lean ====
section
/-! DEFINITION. The images that a profile carries: the profile header and its checks at start (12 R400 to R404), the memory map
(R402), the manifest (R403), the schedule image (10 R309 to R312, R326), and the sections THRESH (06 R207), TESTROT (16 R551),
COUPLING (14 R475, R476) and POWER (17 R572). -/

namespace Sys2Proof.Machine

/-- Bytes off to off + n − 1 are zero. -/
def imgZero (img : List Byte) (off n : Nat) : Bool := ((img.drop off).take n).all (· == 0)

/-- A part of an image. -/
def imgPart (img : List Byte) (off n : Nat) : List Byte := (img.drop off).take n

/-! ### The profile header -/

/-- The fields of a profile header (R400). -/
structure ProfHdr where
  role     : Nat
  flags    : Nat
  id       : Nat
  minFw    : Nat
  len      : Nat
  plimit   : Nat
  compiled : Nat
  semHold  : Nat
  sample   : Nat
  rate     : Nat
  lu       : Nat
  spad     : List Nat
  drainMs  : Nat
  npctx    : Nat
  ctxMax   : Nat
  sects    : List (Nat × Nat)
  deriving DecidableEq, Repr

/-- Read a header. -/
def profHdr (img : List Byte) : ProfHdr :=
  let f (o n : Nat) : Nat := imgNat img o n
  { role := f 6 1, flags := f 7 1, id := f 8 8, minFw := f 16 4, len := f 20 4, plimit := f 24 2, compiled := f 26 2
    semHold := f 28 2, sample := f 30 1, rate := f 31 1, lu := f 32 1, spad := (List.range 4).map fun d => f (33 + d) 1
    drainMs := f 38 2, npctx := f 40 4, ctxMax := f 44 4
    sects := (List.range 8).map fun i => (f (68 + 8 * i) 4, f (64 + 8 * i) 4) }

/-- Section i of a profile image: 0 MEMMAP, 1 SCHED, 2 MANIFEST, 3 THRESH, 4 SFUTAB, 5 TESTROT, 6 COUPLING, 7 POWER. -/
def profSect (img : List Byte) (i : Nat) : List Byte :=
  let p := ((profHdr img).sects[i]?).getD (0, 0)
  imgPart img p.1 p.2

/-- Every field of the header lies in its range and the reserved ones are zero (R404, check 2). -/
def ProfHdr.rangeOk (h : ProfHdr) (img : List Byte) : Bool :=
  decide (h.role ≤ 2) && decide (h.flags ≤ 1) && h.len % 64 == 0 && decide (384 ≤ h.len) && decide (h.len ≤ 1048576) &&
    decide (h.len ≤ img.length) && decide (1500 ≤ h.plimit) && decide (h.plimit ≤ 4200) && decide (1 ≤ h.compiled) &&
    decide (h.compiled ≤ 256) && decide (100 ≤ h.semHold) && decide (h.semHold ≤ 60000) &&
    (h.sample == 0 || (decide (3 ≤ h.sample) && decide (h.sample ≤ 8))) && decide (h.rate ≤ 3) && decide (h.lu ≤ 40) &&
    h.spad.all (fun x => decide (x ≤ 12)) && decide (1 ≤ h.drainMs) && decide (h.drainMs ≤ 10000) &&
    decide (h.npctx ≤ 4095) && decide (h.ctxMax ≤ 1048575) && imgZero img 37 1 && imgZero img 48 16 && imgZero img 128 128

/-- A COUPLING section keeps 14 R475: the ranges of its header, and on a manager room for its entries. -/
def coupOk (m : List Byte) (role : Nat) : Bool :=
  let f (o n : Nat) : Nat := imgNat m o n
  decide (64 ≤ m.length) && decide (f 0 1 ≤ 79) && decide (f 1 1 ≤ 127) && f 3 1 &&& f 2 1 == f 3 1 && decide (f 8 2 ≤ 0x7FFF) &&
    decide (f 10 2 ≤ 254) && (role == 2 || f 10 2 == 0) && imgZero m 12 52 && decide (64 + 80 * f 10 2 ≤ m.length)

/-- The sections are placed and present as R404, check 3, and 14 R475 ask, and a COUPLING section keeps R475. -/
def ProfHdr.sectsOk (h : ProfHdr) (img : List Byte) : Bool :=
  let used := h.sects.filter fun p => p.2 != 0
  let len (i : Nat) : Nat := ((h.sects[i]?).map (·.2)).getD 0
  used.all (fun p => decide (256 ≤ p.1) && decide (p.1 + p.2 + 128 ≤ h.len)) &&
    disjointSpans used && len 1 != 0 && len 2 != 0 && len 4 != 0 && (if h.role = 0 then len 6 == 0 else len 6 != 0 && coupOk (profSect img 6) h.role)

/-- The profile digest (R400). -/
def profDigest (img : List Byte) : BitVec 256 := sm3 (img.take ((profHdr img).len - 128))

/-- A 256-bit digest stored as bytes. -/
def imgDigest (img : List Byte) (off : Nat) : BitVec 256 := BitVec.ofNat 256 (imgNat img off 32)

/-- FAULT of a profile slot (R404, R425): the first check that fails decides. -/
def profFault (img : List Byte) (opKey : BitVec 256) (fw : W32) : Nat :=
  let h := profHdr img
  let t := h.len - 128
  if imgNat img 0 4 ≠ 0xFD2F0C01 ∨ imgNat img 4 2 ≠ 1 then 1
  else if !h.rangeOk img then 5
  else if !h.sectsOk img then 4
  else if imgDigest img (t + 64) ≠ opKey ∨ !Config.sm2Verify (Config.operatorKey opKey) (profDigest img) (imgPart img t 64) then 2
  else if fw.toNat < h.minFw then 3
  else 0

/-! ### Memory map and manifest -/

/-- A MEMMAP entry (R402). -/
structure MapE where
  ctx    : Nat
  kind   : Nat
  rsv    : Nat
  word   : Nat
  deriving DecidableEq, Repr

/-- The region of an entry. -/
def MapE.region (e : MapE) : Region := regionOf e.word

/-- The entries of a memory map. -/
def mapEntries (m : List Byte) : List MapE :=
  (List.range (imgNat m 0 4)).map fun i =>
    let o := 16 + 16 * i
    { ctx := imgNat m o 4, kind := imgNat m (o + 4) 1, rsv := imgNat m (o + 5) 3, word := imgNat m (o + 8) 8 }

/-- The map's header and entries keep R402's layout. -/
def mapFormOk (m : List Byte) (npctx : Nat) : Bool :=
  m.isEmpty ||
    (decide (imgNat m 0 4 ≤ 32768) && imgZero m 4 12 && decide (16 + 16 * imgNat m 0 4 ≤ m.length) &&
      (mapEntries m).all fun e =>
        e.rsv == 0 && decide (e.kind ≤ 2) && decide (e.ctx < 2 ^ 20) && bits e.word 3 5 == 0 && e.region.valid &&
          (if e.kind = 2 then e.ctx == 0 else decide (1 ≤ e.ctx) && decide (e.ctx ≤ npctx)))

/-- A manifest entry (R403). -/
structure ManE where
  kind   : Nat
  srcsp  : Nat
  user   : Nat
  rsv    : Nat
  addr   : Nat
  len    : Nat
  digest : BitVec 256
  deriving DecidableEq, Repr

/-- The entries of a manifest, at most 4,096. -/
def manEntries (m : List Byte) : List ManE :=
  (List.range (min (imgNat m 0 4) 4096)).map fun i =>
    let o := 16 + 64 * i
    { kind := imgNat m o 1, srcsp := imgNat m (o + 1) 1, user := imgNat m (o + 2) 2
      rsv := imgNat m (o + 4) 4 + imgNat m (o + 56) 8, addr := imgNat m (o + 8) 8, len := imgNat m (o + 16) 8
      digest := imgDigest m (o + 24) }

/-- The manifest's layout is that of R403. -/
def manFormOk (m : List Byte) : Bool :=
  decide (imgNat m 0 4 ≤ 4096) && imgZero m 4 12 && decide (16 + 64 * imgNat m 0 4 ≤ m.length) &&
    (manEntries m).all fun e =>
      decide (1 ≤ e.kind) && decide (e.kind ≤ 4) && decide (e.srcsp ≤ 1) && e.rsv == 0 && (e.kind != 4 || e.srcsp == 0)

/-- The bytes of a manifest entry, where it has them (R403). -/
def State.manBytes (s : State) (img : List Byte) (e : ManE) : Option (List Byte) :=
  if e.srcsp = 1 then (if e.addr + e.len ≤ img.length then some (imgPart img e.addr e.len) else none)
  else if s.inDram e.addr e.len || s.inSpad e.addr e.len then some (s.read e.addr e.len) else none

/-! ### Kernel images -/

/-- The areas of a kernel image: offset and length in bytes (07 R240). -/
def kernAreas (k : List Byte) : List (Nat × Nat) :=
  [(imgNat k 16 4, 8 * imgNat k 20 4), (imgNat k 24 4, 16 * imgNat k 28 4), (imgNat k 32 4, imgNat k 36 4)]

/-- The header keeps 07 R240 and its areas 07 R241. `target`: 0 reach, 1 NMU. -/
def kernOk (k : List Byte) (target : Nat) : Bool :=
  let f (o n : Nat) : Nat := imgNat k o n
  let used := (kernAreas k).filter fun p => p.2 != 0
  f 0 4 == 0xFD2B4E01 && f 4 2 == 1 && f 6 1 == target && decide (f 7 1 < 4) && f 10 2 == 0 &&
    f 12 4 % 64 == 0 && decide (64 ≤ f 12 4) && decide (f 12 4 ≤ 1048576) && decide (f 12 4 ≤ k.length) &&
    f 16 4 % 8 == 0 && decide (1 ≤ f 20 4) && f 24 4 % 16 == 0 && decide (f 28 4 ≤ 65536) && f 56 8 == 0 &&
    (if target = 0 then decide (1 ≤ f 8 2) && decide (f 8 2 ≤ 256) else f 8 2 == 0 && f 28 4 == 0) &&
    decide (f 40 4 < f 20 4) && used.all (fun p => decide (64 ≤ p.1) && decide (p.1 + p.2 ≤ f 12 4)) && disjointSpans used

/-! ### The schedule image -/

/-- Slot table entry (10 R310) at a byte offset. -/
def slotAtOff (m : List Byte) (o : Nat) : SlotE :=
  let x := imgNat m o 16
  { job := bits x 112 16, kind := bits x 108 4, every := bits x 104 4, phase := bits x 92 12, reach := bits x 56 16
    nmu := bits x 52 4, start := bits x 15 15, len := bits x 0 15 }

/-- The reserved bits of a slot table entry. -/
def slotRsv (m : List Byte) (o : Nat) : Nat := bits (imgNat m o 16) 72 20 + bits (imgNat m o 16) 30 22

/-- Job table entry (10 R312) at a byte offset. -/
def jobAtOff (m : List Byte) (o : Nat) : JobE :=
  let f (a n : Nat) : Nat := imgNat m (o + a) n
  { ctx := f 0 4 % 2 ^ 20, flags := f 4 1, upd := f 5 1 % 4, keep := f 6 1, rerunMax := f 7 1 % 16, kernel := f 8 2
    nkernel := f 10 2, kbase := f 12 4, rsBase := f 16 4, rsLen := f 20 4, argRs := f 24 4, argMax := f 28 2
    ringFirst := f 30 2, ringCount := f 32 2, egr := f 34 2, workUs := f 36 4, rerunUs := f 40 4, deadline := f 44 4
    power := f 48 2, npower := f 50 2, role := f 52 1, taper := f 56 8, argDev := f 64 8 }

/-- A job table entry's own fields are in range and its reserved ones zero (10 R312). -/
def jobFieldsOk (m : List Byte) (o nring : Nat) : Bool :=
  let f (a n : Nat) : Nat := imgNat m (o + a) n
  let e := jobAtOff m o
  f 0 4 / 2 ^ 20 == 0 && f 4 1 / 64 == 0 && f 5 1 / 4 == 0 && f 6 1 / 64 == 0 && f 7 1 / 16 == 0 && e.argRs % 64 == 0 &&
    e.kbase % 64 == 0 && decide (e.argMax ≤ 256) && (e.argMax != 0 || e.periodic) && decide (e.ringCount ≤ 1024) &&
    decide (e.ringFirst + e.ringCount ≤ nring || e.ringCount = 0) && decide (e.egr ≤ 1023) && decide (e.role ≤ 3) &&
    imgZero m (o + 53) 3 && imgZero m (o + 72) 56 && (e.nkernel != 0xFFFF || e.upd != 0 || e.argDev == 0)

/-- Ingress ring table entry (10 R326) at a byte offset. -/
def ringAtOff (m : List Byte) (o : Nat) : RingE :=
  { base := imgNat m o 5, log2n := imgNat m (o + 5) 1, job := imgNat m (o + 6) 2, tail := imgNat m (o + 8) 5 }

/-- Read a schedule image (10 R309 to R312, R326). -/
def schedOf (m : List Byte) : Sched :=
  { lc := imgNat m 6 2
    lvl := (List.range 6).map fun i => imgNat m (8 + i) 1
    tables := (List.range (min (imgNat m 14 2) 6)).map fun i =>
      let w := imgNat m (32 + 4 * i) 4
      (List.range (w % 4096 + 1)).map fun k => slotAtOff m (w / 4096 * 16 + 16 * k)
    baseW := imgNat m 16 2
    testPw := imgNat m 18 2
    jobs := (List.range (min (imgNat m 20 2) 4096)).map fun j => jobAtOff m (imgNat m 24 4 + 128 * j)
    rings := (List.range (min (imgNat m 22 2) 1024)).map fun r => ringAtOff m (imgNat m 28 4 + 16 * r) }

/-- The image header keeps 10 R309, and its tables lie in the image. -/
def schedHdrOk (m : List Byte) : Bool :=
  let f (o n : Nat) : Nat := imgNat m o n
  f 0 4 == 0xFD2E5C01 && f 4 2 == 1 && decide (50 ≤ f 6 2) && decide (f 6 2 ≤ 20000) && decide (1 ≤ f 14 2) &&
    decide (f 14 2 ≤ 6) && (List.range 6).all (fun i => decide (f (8 + i) 1 < f 14 2)) && decide (1 ≤ f 20 2) &&
    decide (f 20 2 ≤ 4096) && decide (f 22 2 ≤ 1024) && f 24 4 % 64 == 0 && f 28 4 % 16 == 0 && imgZero m 56 8 &&
    decide (f 24 4 + 128 * f 20 2 ≤ m.length) && (f 22 2 == 0 || decide (f 28 4 + 16 * f 22 2 ≤ m.length)) &&
    (List.range (f 14 2)).all fun i => decide (f (32 + 4 * i) 4 / 4096 * 16 + 16 * (f (32 + 4 * i) 4 % 4096 + 1) ≤ m.length)

/-- How many resources a mask names. -/
def popcount (len x : Nat) : Nat := ((List.range len).filter fun i => bitAt x i).length

/-- A slot keeps 10 R310 and R311. -/
def slotOk (c : Sched) (e : SlotE) (rsv : Nat) : Bool :=
  let dl := ((c.jobs[e.job]?).map (·.deadline)).getD 0
  rsv == 0 && decide (1 ≤ e.kind) && decide (e.kind ≤ 4) && decide (e.every ≤ 12) && decide (e.phase < 2 ^ e.every) &&
    decide (e.start < c.lc) && decide (e.start + e.len ≤ c.lc) &&
    match e.kind with
    | 4 => e.job == 0xFFFF && popcount 16 e.reach == 1 && e.nmu == 0 && decide (400 ≤ e.len)
    | 3 => decide (e.job < c.jobs.length) && e.reach == 0 && e.nmu == 0 && e.len == 0 && (dl == 0 || e.every == 0)
    | _ => decide (e.job < c.jobs.length) && (e.reach != 0 || e.nmu != 0) && (dl == 0 || e.every == 0)

/-- Two slots collide (10 R311). -/
def collide (a b : SlotE) : Bool :=
  (a.reach &&& b.reach != 0 || a.nmu &&& b.nmu != 0) &&
    (a.phase % 2 ^ min a.every b.every == b.phase % 2 ^ min a.every b.every) &&
    decide (a.start < b.start + b.len) && decide (b.start < a.start + a.len)

/-- A ring keeps 10 R326. -/
def ringOk (c : Sched) (r : Nat) (e : RingE) (rsv : Nat) : Bool :=
  rsv == 0 && e.base % 64 == 0 && decide (4 ≤ e.log2n) && decide (e.log2n ≤ 16) && e.tail % 8 == 0 &&
    match c.jobs[e.job]? with
    | some j => decide (j.ringFirst ≤ r) && decide (r < j.ringFirst + j.ringCount)
    | none => false

/-! ### The other sections -/

/-- THRESH (06 R207): `none` when its layout is bad. -/
def threshTable (m : List Byte) : Option (List W32) :=
  if m.isEmpty then some []
  else
    let n := imgNat m 0 4
    if n ≤ 4096 ∧ m.length = 16 + 4 * n ∧ imgZero m 4 12 then
      some ((List.range n).map fun i => BitVec.ofNat 32 (imgNat m (16 + 4 * i) 4))
    else none

/-- TESTROT (16 R551): ORDER; `none` when its layout is bad. -/
def testrotOf (m : List Byte) : Option (List Nat) :=
  if m.isEmpty then some (List.range 24)
  else
    let o := (List.range 24).map fun i => imgNat m (8 + i) 1
    if m.length = 64 ∧ imgNat m 0 4 = 0xFD327E57 ∧ imgNat m 4 2 = 1 ∧ imgNat m 6 1 = 24 ∧ imgZero m 7 1 ∧ imgZero m 32 32 ∧
        (List.range 24).all o.contains then some o
    else none

/-- POWER (17 R572); `none` when a field is out of range or a reserved one nonzero. -/
def powerOf (m : List Byte) : Option PwrSect :=
  if m.isEmpty then some {}
  else
    let f (o n : Nat) : Nat := imgNat m o n
    let th := (List.range 5).map fun i => f (8 + i) 1
    let q : PwrSect :=
      { present := true, base := f 6 1, th, hyst := f 13 1, dwell := f 14 2, overPct := f 16 1, speed := f 17 1
        rails := (List.range 9).map fun r => (f (64 + 8 * r) 1, f (65 + 8 * r) 1) }
    if m.length = 136 ∧ f 0 4 = 0xFD339A17 ∧ f 4 2 = 1 ∧ q.base ≤ 3 ∧ f 7 1 = 9 ∧ th.all (fun t => 80 ≤ t && t ≤ 105) ∧
        (th.zip th.tail).all (fun p => p.1 < p.2) ∧ 1 ≤ q.hyst ∧ q.hyst ≤ 10 ∧ 10 ≤ q.dwell ∧ q.dwell ≤ 10000 ∧ 1 ≤ q.overPct ∧
        q.overPct ≤ 20 ∧ q.speed ≤ 1 ∧ imgZero m 18 46 ∧
        (List.range 9).all (fun r => f (64 + 8 * r) 1 < 128 && imgZero m (66 + 8 * r) 6) then some q
    else none

/-- COUPLING (14 R475, R476). -/
def coupOf (m : List Byte) : Coup :=
  let f (o n : Nat) : Nat := imgNat m o n
  { basin := f 0 1, domain := f 1 1, ports := BitVec.ofNat 8 (f 2 1), mgrPorts := BitVec.ofNat 8 (f 3 1)
    epoch := BitVec.ofNat 32 (f 4 4), upstream := f 8 2
    members := (List.range (min (f 10 2) 254)).map fun i =>
      let o := 64 + 80 * i
      { id := imgDigest m o, profile := imgDigest m (o + 32), member := f (o + 64) 1, spare := bitAt (f (o + 65) 1) 0
        backs := f (o + 66) 1 } }

end Sys2Proof.Machine
end

