-- ==== Sys2Proof/Machine/Admit.lean ====
section
/-! DEFINITION. Admission (10_lock_schedule R335 to R340; 07 R241; 08 R252; 09 R292; 12 R402, R406; 16 R549, R551; 17 R572,
R584): the checks in the order of R336, and the first refusal met. -/

namespace Sys2Proof.Machine

/-- A refusal (R340, R343): event code, job, slot index and level concerned, and a further detail. -/
structure Refuse where
  code  : Nat
  job   : Nat := 0xFFFF
  slot  : Nat := 0x1FFF
  level : Nat := 7
  det   : Nat := 0
  /-- in a staged change, the job is of the schedule in force -/
  old   : Bool := false
  deriving DecidableEq, Repr

/-- The first refusal of a list of checks. -/
def firstRefusal (l : List (Option Refuse)) : Option Refuse := l.findSome? id

/-- A check that refuses unless it holds. -/
def need (ok : Bool) (r : Refuse) : Option Refuse := if ok then none else some r

/-- What is admitted: the profile image, its schedule, and its place. -/
structure Cand where
  img   : List Byte
  hdr   : ProfHdr
  sched : Sched
  man   : List ManE
  slot  : Nat
  deriving DecidableEq, Repr

/-- The candidate that a profile image gives. -/
def candOf (img : List Byte) (slot : Nat) : Cand :=
  { img, hdr := profHdr img, sched := schedOf (profSect img 1), man := manEntries (profSect img 2), slot }

/-! ### Digests (R241, R252, R406) -/

/-- The checked copy of a kernel or table image of the manifest. -/
def State.checked (s : State) (c : Cand) (e : ManE) : Option (List Byte) :=
  match s.manBytes c.img e with
  | none => none
  | some b =>
    if e.kind = 3 then (if b.length = 4096 ∧ sm3 b = e.digest then some b else none)
    else
      let k := b.take (imgNat b 12 4)
      if kernOk b (e.kind - 1) && sm3 k == e.digest then some k else none

/-- check_digests. -/
def State.admDigests (s : State) (c : Cand) : Option Refuse :=
  let bad (j : Nat) (d : Nat) : Refuse := { code := 0x0401, job := j, det := d }
  firstRefusal (
    [need (manFormOk (profSect c.img 2)) (bad 0xFFFF 0)] ++
    (c.man.zipIdx.map fun p => need (p.1.kind == 4 || (s.checked c p.1).isSome) (bad 0xFFFF p.2)) ++
    (c.sched.jobs.zipIdx.flatMap fun q =>
      ([(q.1.kernel, 1), (q.1.nkernel, 2)].filter fun k => k.1 != 0xFFFF).flatMap fun k =>
        match c.man[k.1]? with
        | none => [some (bad q.2 k.1)]
        | some e =>
          [need (e.kind == k.2) (bad q.2 k.1),
           need (!q.1.repro || bitAt (imgNat ((s.checked c e).getD []) 7 1) 0) (bad q.2 k.1)] ++
          c.man.zipIdx.map fun w =>
            need (w.1.kind != 4 || (w.1.user != k.1 && w.1.user != 0xFFFF) || s.prf.verified.contains (c.slot, w.2)) (bad q.2 w.2)))

/-! ### Slots (R309 to R312, R326, R551, R572, R584, 06 R207) -/

/-- Collisions of a slot table: the first slot, in table order, that collides with an earlier one. -/
def firstCollision : List (SlotE × Nat) → Option (SlotE × Nat)
  | [] => none
  | p :: ps =>
    match ps.find? fun q => collide p.1 q.1 with
    | some q => some q
    | none => firstCollision ps

/-- check_slots. -/
def admSlots (c : Cand) : Option Refuse :=
  let m := profSect c.img 1
  let bad (j k l : Nat) : Refuse := { code := 0x0402, job := j, slot := k, level := l }
  firstRefusal (
    [need (schedHdrOk m) (bad 0xFFFF 0x1FFF 7), need (threshTable (profSect c.img 3)).isSome (bad 0xFFFF 0x1FFF 7),
     need (testrotOf (profSect c.img 5)).isSome (bad 0xFFFF 0x1FFF 7),
     need (powerOf (profSect c.img 7)).isSome (bad 0xFFFF 0x1FFF 7)] ++
    (c.sched.jobs.zipIdx.map fun p => need (jobFieldsOk m (imgNat m 24 4 + 128 * p.2) c.sched.rings.length) (bad p.2 0x1FFF 7)) ++
    (c.sched.rings.zipIdx.map fun p =>
      need (ringOk c.sched p.2 p.1 (imgNat m (imgNat m 28 4 + 16 * p.2 + 13) 3)) (bad p.1.job 0x1FFF 7)) ++
    (c.sched.tables.zipIdx.flatMap fun t =>
      let off := imgNat m (32 + 4 * t.2) 4 / 4096 * 16
      (t.1.zipIdx.map fun p => need (slotOk c.sched p.1 (slotRsv m (off + 16 * p.2))) (bad p.1.job p.2 7)) ++
        [match firstCollision t.1.zipIdx with
         | some p => some (bad p.1.job p.2 7)
         | none => none]) ++
    ((List.range 6).flatMap fun l => (c.sched.table l).zipIdx.map fun p =>
      need ((List.range 16).all fun n => !bitAt p.1.reach n || levelServes l n) (bad p.1.job p.2 l)))

/-! ### Memory (R262, R315, R326, R402, R549; 07 R241, R242; 11 R358, R361) -/

/-- A region lies in DRAM in use outside the device area, or in the scratchpad in use of one slice. -/
def State.regionPlaced (s : State) (g : Region) : Bool := s.openMem (g.base * 4096) (g.size * 4096)

/-- Bytes a to a + n − 1 lie within one of the regions. -/
def inRegions (gs : List Region) (a n : Nat) : Bool := gs.any fun g => g.covers a n

/-- Two map entries may not stand together (R402). -/
def mapClash (a b : MapE) : Bool :=
  a.region.meets b.region &&
    !(a.kind == 1 && b.kind == 1 && a.word == b.word && (a.ctx == b.ctx || !a.region.wr))

/-- Some pair of a list clashes. -/
def anyPair {α : Type} (f : α → α → Bool) : List α → Bool
  | [] => false
  | x :: xs => xs.any (f x) || anyPair f xs

/-- The regions of a profile context (R402): its entries in order. -/
def mapRegions (es : List MapE) (c : Nat) : List Region := (es.filter fun e => e.ctx == c && e.kind != 2).map MapE.region

/-- The memory that one job asks for. -/
def State.jobMemOk (s : State) (c : Cand) (es : List MapE) (j : Nat) (e : JobE) : Bool :=
  let gs := mapRegions es e.ctx
  let onReach := c.sched.reaches j != 0 || e.kernel != 0xFFFF
  let img := ((c.man[e.kernel]?).bind fun m => s.checked c m).getD []
  (List.range e.ringCount).all (fun i =>
    match c.sched.rings[e.ringFirst + i]? with
    | some g => inRegions gs g.base (64 * 2 ^ g.log2n) && inRegions gs g.tail 8
    | none => false) &&
  (!onReach || (e.rsLen != 0 && decide (e.rsBase + e.rsLen ≤ 0x3F0000) && decide (e.rsBase ≤ e.argRs) &&
    decide (e.argRs + 64 + 72 * e.argMax ≤ e.rsBase + e.rsLen))) &&
  (e.kernel == 0xFFFF || (decide (e.rsBase ≤ e.kbase) && decide (e.kbase + imgNat img 12 4 ≤ e.rsBase + e.rsLen) &&
    decide (imgNat img 12 4 + imgNat img 44 4 ≤ e.rsLen))) &&
  (e.taper == 0 || (e.taper % 64 == 0 && inRegions gs e.taper 2112)) &&
  ((e.nkernel == 0xFFFF && e.upd == 0) || inRegions gs e.argDev 1024)

/-- check_memory. -/
def State.admMemory (s : State) (c : Cand) : Option Refuse :=
  let m := profSect c.img 0
  let es := mapEntries m
  let bad (j k l : Nat) : Refuse := { code := 0x0408, job := j, slot := k, level := l }
  let shared := (es.filter fun e => e.kind == 1).map MapE.region
  let down (d : Nat) : Bool := if h : d < 4 then s.mdie[d].d2d0 == 0 && s.mdie[d].d2d1 == 0 else false
  firstRefusal (
    [need (mapFormOk m c.hdr.npctx) (bad 0xFFFF 0x1FFF 7),
     need (es.all fun e => s.regionPlaced e.region) (bad 0xFFFF 0x1FFF 7),
     need (!anyPair mapClash es) (bad 0xFFFF 0x1FFF 7),
     need ((es.map (·.ctx)).all fun k => k == 0 || decide ((mapRegions es k).length ≤ 8)) (bad 0xFFFF 0x1FFF 7),
     need (c.man.all fun w => w.kind != 4 || (inRegions shared w.addr w.len &&
        (es.all fun e => !(e.region.wr && e.kind != 2 && overlap (e.region.base * 4096, (e.region.base + e.region.size) * 4096)
          (w.addr, w.addr + w.len))))) (bad 0xFFFF 0x1FFF 7)] ++
    (c.sched.jobs.zipIdx.map fun p => need (s.jobMemOk c es p.2 p.1) (bad p.2 0x1FFF 7)) ++
    (c.sched.tables.flatMap fun t => t.zipIdx.map fun p =>
      need ((List.range 4).all fun d => !bitAt p.1.nmu d || !down d) (bad p.1.job p.2 7)))

/-! ### Contexts, roles, legacy, width -/

/-- check_contexts. -/
def State.admContexts (s : State) (c : Cand) : Option Refuse :=
  let live := s.ctx.ctxs.countP fun p => decide (s.ctx.npctx < p.1) && p.2.state == .live
  firstRefusal (
    need (decide (c.hdr.npctx + live ≤ c.hdr.ctxMax)) { code := 0x0409 } ::
    c.sched.jobs.zipIdx.map fun p => need (decide (1 ≤ p.1.ctx) && decide (p.1.ctx ≤ c.hdr.npctx)) { code := 0x0409, job := p.2 })

/-- A job's ROLE fits the device's, coded as in DEV_STATUS (R312, R340; 01 R28). -/
def roleFits (need role : Nat) : Bool :=
  need == 0 || (need == 1 && role == 1) || (need == 2 && decide (2 ≤ role)) || (need == 3 && role != 0)

/-- check_roles. -/
def State.admRoles (s : State) (c : Cand) : Option Refuse :=
  firstRefusal (c.sched.jobs.zipIdx.map fun p => need (roleFits p.1.role s.dev.role.toNat) { code := 0x040A, job := p.2 })

/-- check_legacy (09 R292). -/
def admLegacy (c : Cand) : Option Refuse :=
  firstRefusal (c.sched.jobs.zipIdx.map fun p => need (p.1.upd == 0 || p.1.nkernel == 0xFFFF) { code := 0x040B, job := p.2 })

/-- A reach is usable at a compiled width (03 R105; 01 R27). -/
def State.usableAt (s : State) (compiled n : Nat) : Bool :=
  if h : n < 16 then s.dev.reachOk.getLsbD n && decide (compiled ≤ s.reach[n].width) else false

/-- check_width. -/
def State.admWidth (s : State) (c : Cand) : Option Refuse :=
  firstRefusal (
    (c.sched.jobs.zipIdx.map fun p =>
      need (p.1.kernel == 0xFFFF || decide (imgNat ((c.man[p.1.kernel]?.bind fun m => s.checked c m).getD []) 8 2 ≤ c.hdr.compiled))
        { code := 0x0407, job := p.2 }) ++
    (c.sched.tables.flatMap fun t => t.zipIdx.map fun p =>
      need ((List.range 16).all fun n => !bitAt p.1.reach n || s.usableAt c.hdr.compiled n)
        { code := 0x0407, job := p.1.job, slot := p.2 }))

/-! ### Levels (R336 to R339) -/

/-- A slot of a combined table with the job it belongs to (12 R416). -/
structure AdmSlot where
  e   : SlotE
  job : JobE
  new : Bool
  idx : Nat
  deriving DecidableEq, Repr

/-- Two slots belong to one job. -/
def AdmSlot.same (a b : AdmSlot) : Bool := a.e.job == b.e.job && a.new == b.new

/-- ceil(a / b). -/
def ceilDiv (a b : Nat) : Nat := (a + b - 1) / b

/-- ARITH at a level in MHz (17 R580). -/
def arithAt (base level : Nat) : Nat :=
  let b := match base with | 0 => 800 | 1 => 600 | 2 => 400 | _ => 200
  let cap := match level with | 0 | 1 | 2 => 800 | 3 => 600 | 4 => 400 | _ => 200
  min b cap

/-- Insert by START. -/
def insByStart (x : Nat × Nat × Nat) : List (Nat × Nat × Nat) → List (Nat × Nat × Nat)
  | [] => [x]
  | y :: ys => if x.1 ≤ y.1 then x :: y :: ys else y :: insByStart x ys

/-- The slots that R337 visits from a RELEASE slot, in time order: start, length, kind. -/
def walkSlots (t : List AdmSlot) (r : AdmSlot) (lc : Nat) : List (Nat × Nat × Nat) :=
  let rels := (t.filter fun a => a.same r && a.e.kind == 3).map (·.e.start)
  let next := (leastAbove r.e.start (rels ++ rels.map (· + lc))).getD (r.e.start + lc)
  let occ := (t.filter fun a => a.same r && a.e.isSeg).flatMap fun a =>
    [(a.e.start, a.e.len, a.e.kind), (a.e.start + lc, a.e.len, a.e.kind)]
  (occ.filter fun o => decide (r.e.start + 10 ≤ o.1) && decide (o.1 + o.2.1 ≤ next)).foldl (fun l x => insByStart x l) []

/-- From w on, the rest of the slots until `v` is reached: the end of the slot in which it is. -/
def walkRest : List (Nat × Nat × Nat) → (got v : Nat) → Option Nat
  | [], _, _ => none
  | (a, len, _) :: os, got, v => if v ≤ got + len then some (a + len) else walkRest os (got + len) v

/-- walk of R337: whether w is reached, and c. -/
def walkFrom : List (Nat × Nat × Nat) → (need v : Nat) → Bool × Option Nat
  | [], _, _ => (false, none)
  | (a, len, kind) :: os, need, v =>
    if kind = 1 then
      if need ≤ len then
        (true, if v ≤ len - need then some (a + len) else walkRest os (len - need) v)
      else walkFrom os (need - len) v
    else walkFrom os need v

/-- gap(J, r) of R337. -/
def relGap (t : List AdmSlot) (r : AdmSlot) (lc : Nat) : Nat :=
  let rels := (t.filter fun a => a.same r && a.e.kind == 3).map (·.e.start)
  match rels.filter (· < r.e.start) with
  | [] => r.e.start + lc - rels.foldl max 0
  | b :: bs => r.e.start - bs.foldl max b

/-- The deadline and re-run checks of one RELEASE slot at a level. -/
def deadlineCheck (t : List AdmSlot) (staged : Bool) (lc f level : Nat) (r : AdmSlot) : Option Refuse :=
  let onReach := t.any fun a => a.same r && a.e.isSeg && a.e.reach != 0
  let sc (x : Nat) : Nat := if onReach then ceilDiv (x * 800) f else x
  let bad (code : Nat) : Refuse := { code, job := r.e.job, slot := r.idx, level, old := staged && !r.new }
  match walkFrom (walkSlots t r lc) (sc r.job.workUs) (sc (r.job.rerunMax * r.job.rerunUs)) with
  | (false, _) => some (bad 0x0403)
  | (true, none) => some (bad 0x0406)
  | (true, some c) => if r.job.deadline < relGap t r lc + (c - r.e.start) then some (bad 0x0403) else none

/-- energy(T, L, k) of R338, in 1/8000 µJ. -/
def energy (t : List AdmSlot) (baseW testPw lc f k : Nat) : Nat :=
  (t.filter fun a => a.e.occurs k).foldl (fun (x : Nat) a =>
    x + if a.e.isSeg then a.e.len * (popcount 16 a.e.reach * a.job.power * f + popcount 4 a.e.nmu * a.job.npower * 800)
        else if a.e.kind = 4 then a.e.len * testPw * f else 0) (baseW * lc * 800)

/-- H of R338: the cycles after which a table repeats. -/
def hyper (t : List AdmSlot) : Nat := 2 ^ (t.foldl (fun m a => max m a.e.every) 0)

/-- test_gap(T, n) of R339; `none` when unbounded. -/
def testGap (t : List AdmSlot) (lc n : Nat) : Option Nat :=
  let h := hyper t
  let starts := (List.range h).flatMap fun k =>
    ((t.filter fun a => a.e.kind == 4 && a.e.names n && a.e.occurs k).map fun a => (k * lc + a.e.start, 0, 0)).foldl
      (fun l x => insByStart x l) []
  match starts with
  | [] => none
  | x :: xs =>
    let last := (starts.getLast?.map (·.1)).getD 0
    some (((x :: xs).zip xs).foldl (fun m p => max m (p.2.1 - p.1.1)) (x.1 + h * lc - last))

/-- What the level checks need besides the table. -/
structure LevelIn where
  lc     : Nat
  baseW  : Nat
  testPw : Nat
  plimit : Nat
  base   : Nat
  /-- reaches that are in service where the level allows, as a mask -/
  serve  : Nat
  /-- the table combines two schedules -/
  staged : Bool := false
  deriving DecidableEq, Repr

/-- A slot goes into a list in job order, behind those of its own job. -/
def insByJob (a : AdmSlot) : List AdmSlot → List AdmSlot
  | [] => [a]
  | b :: bs => if a.e.job < b.e.job then a :: b :: bs else b :: insByJob a bs

/-- The loop body of R336 for one level. -/
def levelCheck (q : LevelIn) (table : Nat → List AdmSlot) (level : Nat) : Option Refuse :=
  let t := (table level).filter fun a => !a.e.isSeg || a.job.kept level
  let f := arithAt q.base level
  firstRefusal (
    ((((table level).filter fun a => a.e.kind == 3 && a.job.kept level && a.job.deadline != 0).foldl
        (fun l a => insByJob a l) []).map fun r => deadlineCheck (table level) q.staged q.lc f level r) ++
    [need ((List.range (hyper t)).all fun k => decide (energy t q.baseW q.testPw q.lc f k ≤ q.plimit * q.lc * 800))
      { code := 0x0404, level }] ++
    ((List.range 16).map fun n =>
      need (!bitAt q.serve n || !levelServes level n || (match testGap (table level) q.lc n with
        | some g => decide (g ≤ 2000000)
        | none => false)) { code := 0x0405, level }))

/-- The loop of R336 over S0 to S5. -/
def levelChecks (q : LevelIn) (table : Nat → List AdmSlot) : Option Refuse :=
  firstRefusal ((List.range 6).map (levelCheck q table))

/-- One schedule's own table as the checks take it. -/
def admTable (c : Sched) (new : Bool) (level : Nat) : List AdmSlot :=
  (c.table level).zipIdx.map fun p => { e := p.1, job := (c.jobs[p.1.job]?).getD {}, new, idx := p.2 }

/-- Admission of R336 up to the levels. -/
def State.admStatic (s : State) (c : Cand) : Option Refuse :=
  firstRefusal [s.admDigests c, admSlots c, s.admMemory c, s.admContexts c, s.admRoles c, admLegacy c, s.admWidth c]

/-- The reaches that count as in service for R339: usable, and not in a polder held (12 R421), but for one that returns. -/
def State.admServe (s : State) (compiled : Nat) (back : Option Nat) : Nat :=
  (List.range 16).foldl (fun m n =>
    if s.usableAt compiled n && (!s.prf.held.getLsbD (n / 4) || back == some (n / 4)) then m + 2 ^ n else m) 0

/-- Admission of R336 for a profile that takes over whole. -/
def State.admitWhole (s : State) (c : Cand) (back : Option Nat := none) : Option Refuse :=
  match s.admStatic c with
  | some r => some r
  | none =>
    levelChecks
      { lc := c.sched.lc, baseW := c.sched.baseW, testPw := c.sched.testPw, plimit := c.hdr.plimit
        base := ((powerOf (profSect c.img 7)).getD {}).base, serve := s.admServe c.hdr.compiled back }
      (admTable c.sched false)

/-- The combined table of stage k of a staged change (12 R415, R416). -/
def stageTable (old new : Sched) (sw : BitVec 4) (level : Nat) : List AdmSlot :=
  let m := polderReaches sw
  let whole := decide (sw = 15)
  let os := (admTable old false level).filter fun a =>
    if a.e.kind = 4 then a.e.reach &&& m == 0 else !whole && old.reaches a.e.job &&& m == 0
  let ns := (admTable new true level).filter fun a =>
    if a.e.kind = 4 then a.e.reach &&& m != 0
    else whole || (new.reaches a.e.job != 0 && new.reaches a.e.job &&& m == new.reaches a.e.job)
  os ++ ns

/-- Admission of a staged change (12 R414): the new profile's own checks, then every stage at every level. -/
def State.admitStaged (s : State) (c : Cand) : Option Refuse :=
  let old := s.lkp.sched
  match s.admStatic c with
  | some r => some r
  | none =>
    firstRefusal (List.map (fun (sw : BitVec 4) =>
      levelChecks
        { lc := old.lc, baseW := max old.baseW c.sched.baseW, testPw := max old.testPw c.sched.testPw
          plimit := min s.pwr.plimit c.hdr.plimit
          base := if sw = 15 then ((powerOf (profSect c.img 7)).getD {}).base else s.pwr.sect.base
          serve := s.admServe c.hdr.compiled none, staged := true }
        (stageTable old c.sched sw)) [1, 3, 7, 15])

end Sys2Proof.Machine
end

