-- ==== Sys2Proof/Machine/Ports.lean ====
section
/-! DEFINITION. Coupling ports and flows (14 R457, R458, R469, R470): which ports are up, how frames are sent and kept until they
are acknowledged, and what a port that goes down or a flow that fails does to the jobs that used it. -/

namespace Sys2Proof.Machine

/-- Ports that are up (R457): locked, enabled in PORTS, not turned off by the shed ladder (17 R580, R581), with REFCLK_LINK
present (17 R586). -/
def State.portsUp (s : State) : BitVec 8 :=
  let on : BitVec 8 := if 6 ≤ s.dev.shed.toNat then 0 else if s.dev.shed.toNat = 5 then 3 else 0xFF
  if s.pwr.clk.getLsbD 1 then 0 else s.cpl.pcs &&& s.cpl.sect.ports &&& on

/-- Port p is up. -/
def State.portUp (s : State) (p : Nat) : Bool := s.portsUp.getLsbD p

/-- The flow from a local port to a node. -/
def Cpl.flow (c : Cpl) (p n : Nat) : Flow := ((c.flows.find? fun e => e.1 == (p, n)).map (·.2)).getD {}

/-- Change a flow. -/
def State.modFlow (s : State) (p n : Nat) (f : Flow → Flow) : State :=
  { s with cpl := { s.cpl with
      flows := (s.cpl.flows.filter fun e => e.1 != (p, n)) ++ [((p, n), f (s.cpl.flow p n))] } }

/-- The link key with a node. -/
def Cpl.key (c : Cpl) (n : Nat) : Option LinkKey := c.keys.find? fun k => k.node == n

/-- The MAC address of a port (R457): 02-FD-2C-bb-mm-0p of the node address, before it the management port's with the port's number. -/
def State.portMac (s : State) (p : Nat) : BitVec 48 :=
  let n := s.cpl.node.toNat
  BitVec.ofNat 48 (if n = 0x7FFF then s.mgt.mac.toNat / 8 * 8 + p else 0x02FD2C * 2 ^ 24 + n / 256 * 2 ^ 16 + n % 256 * 2 ^ 8 + p)

/-- KEYID of a frame to a node: JOIN, ADMIT and KEYX use 0, and so does a node without a link key (15 R515). -/
def Cpl.keyid (c : Cpl) (n ftype : Nat) : Nat := if ftype = 7 ∨ ftype = 13 then 0 else ((c.key n).map (·.keyid)).getD 0

/-- One use of a link key is counted (15 R516). -/
def State.useKey (s : State) (n ftype : Nat) : State :=
  if s.cpl.keyid n ftype = 0 then s
  else { s with cpl := { s.cpl with keys := s.cpl.keys.map fun k => if k.node = n then { k with sent := k.sent + 1 } else k } }

/-- The transport header of a frame (R458). -/
def State.frameHeader (s : State) (n : Nat) (x : TxFrame) (ack : W32) (len : Nat) : List Byte :=
  leBytes 1 1 ++ leBytes 1 x.ftype ++ leBytes 2 s.cpl.node.toNat ++ leBytes 2 n ++ leBytes 2 len ++ leBytes 8 s.time.toNat ++
    leBytes 4 x.seq.toNat ++ leBytes 4 ack.toNat ++ leBytes 4 (x.ctx + s.cpl.keyid n x.ftype * 2 ^ 24) ++ leBytes 4 x.aux.toNat

/-- A frame that ends with the signature of 15 R515: JOIN, ADMIT, and HELLO without a link key. -/
def Cpl.signed (c : Cpl) (n ftype : Nat) : Bool := ftype == 7 || (ftype == 6 && c.keyid n 6 == 0)

/-- A frame cannot go: its link key is at its limit, it has none and its TYPE may not do without (15 R515, R516), or it must be
signed by a device that cannot sign (15 R503, R505). -/
def State.frameStops (s : State) (n ftype : Nat) : Bool :=
  (s.cpl.signed n ftype && (!s.sec.rngOk || !s.sec.idOk)) ||
    (ftype != 7 && ftype != 13 && (match s.cpl.key n with | some k => k.dead | none => ftype != 6))

/-- A frame leaves a port (R458; 15 R515), unless something stops it. -/
def State.emitFrame (s : State) (p n : Nat) (x : TxFrame) : State :=
  if s.frameStops n x.ftype then s
  else
    let f := s.cpl.flow p n
    let sign := s.cpl.signed n x.ftype
    let head := s.frameHeader n x f.expect (x.payload.length + if sign then 64 else 0)
    let body := if sign then
        x.payload ++ (Config.sm2Sign s.sec.draws (sm3 (head ++ x.payload)) ++ List.replicate 64 0).take 64
      else x.payload
    let s := if sign then { s with sec := { s.sec with draws := s.sec.draws + 1 } } else s
    (s.send (.frame p (s.portMac p) s.cpl.node.toNat n x.ftype s.time x.seq f.expect x.ctx (s.cpl.keyid n x.ftype) x.aux.toNat body x.marks)).useKey n x.ftype

/-- Send a frame of a flow (R469): it takes the next SEQ and is kept until acknowledged; past 1,024 unacknowledged frames it
waits its turn, and on a flow that has failed for the flow's restart. -/
def State.sendFrame (s : State) (p n ftype : Nat) (aux : W32) (ctx job : Nat) (payload : List Byte)
    (marks : List Nat := []) : State :=
  let f := s.cpl.flow p n
  let x : TxFrame := { seq := f.next, ftype, aux, ctx, job, payload, marks }
  let s := s.modFlow p n fun f => { f with next := f.next + 1, unacked := f.unacked ++ [x] }
  if f.unacked.length < 1024 && s.portUp p && !f.failed then s.emitFrame p n x else s

/-- Send a frame outside the flow: HELLO and ACK carry SEQ 0 (R458). -/
def State.sendPlain (s : State) (p n ftype : Nat) (payload : List Byte) : State :=
  if s.portUp p then s.emitFrame p n { seq := 0, ftype, aux := 0, ctx := 0, job := 0xFFFF, payload } else s

/-- Ports on which control frames go: up and in MGR_PORTS (R475), in ascending order. -/
def State.mgrPorts (s : State) : List Nat := (List.range 8).filter fun p => s.portUp p && s.cpl.sect.mgrPorts.getLsbD p

/-- A control frame goes to a node on the first such port. -/
def State.sendCtrl (s : State) (n ftype : Nat) (aux : W32) (payload : List Byte) : State :=
  match s.mgrPorts with
  | p :: _ => s.sendFrame p n ftype aux 0 0xFFFF payload
  | [] => s

/-- Frame types 0x07 to 0x0D are control frames. -/
def isCtrl (ftype : Nat) : Bool := decide (7 ≤ ftype)

/-- A job whose frames or reads were lost fails its step (R470, R473). -/
def State.failJob (s : State) (j ev : Nat) : State := (s.stopStep j (.failed (BitVec.ofNat 16 ev))).endStopped j

/-- A barge of a reach is over with a code: what waited for it goes on (07 R232, R233, R239). -/
def State.endReachBarge (s : State) (n t : Fin 16) (code : W16) : State :=
  let s := s.modReach n fun x => { x with barges := x.barges.set t { x.barges[t] with busy := false, code } }
  (s.settle (.reach n)).lateStart n

/-- Two records name one request: the port, the node and the SEQ of its RREQ (R473). -/
def RemRead.same (r q : RemRead) : Bool := q.port == r.port && q.node == r.node && q.seq == r.seq

/-- The reads of the barges that `gone` names are waited for no more: their answers are dropped when they come (R473). -/
def State.dropReads (s : State) (gone : RemRead → Bool) : State :=
  { s with cpl := { s.cpl with reads := s.cpl.reads.map fun (q : RemRead) => if gone q then { q with dead := true } else q } }

/-- A remote read ends with a code: its barge completes, and its other reads are dropped (R473). A read that was dropped before only goes. -/
def State.endRead (s : State) (r : RemRead) (code : W16) : State :=
  match s.cpl.reads.find? r.same with
  | none => s
  | some q =>
    let s := { s with cpl := { s.cpl with reads := s.cpl.reads.filter fun q => !r.same q } }
    if q.dead then s
    else
      let s := s.dropReads fun q => q.reach == r.reach && q.tag == r.tag
      if h : r.reach < 16 ∧ r.tag < 16 then s.endReachBarge ⟨r.reach, h.1⟩ ⟨r.tag, h.2⟩ code else s

/-- A flow restarts (R470): the frames that have waited for it go out, numbered afresh from 0, and reads among them with them. -/
def State.restartFlow (s : State) (p n : Nat) : State :=
  let old := (s.cpl.flow p n).unacked
  let xs := old.zipIdx.map fun x => ({ x.1 with seq := BitVec.ofNat 32 x.2, resends := 0 } : TxFrame)
  let s := s.modFlow p n fun _ => { next := BitVec.ofNat 32 xs.length, unacked := xs }
  let s := { s with cpl := { s.cpl with reads := s.cpl.reads.map fun r =>
      if r.port = p ∧ r.node = n then
        (match old.findIdx? fun x => x.seq == r.seq with | some i => { r with seq := BitVec.ofNat 32 i } | none => r)
      else r } }
  (xs.take 1024).foldl (fun (s : State) x => s.emitFrame p n x) s

/-- A flow fails (R470): its frames are discarded with an error record for each job that owned some, and its control frames go again on the
next port for them that is up, or with none when the flow restarts. -/
def State.flowFail (s : State) (p n : Nat) : State :=
  let f := s.cpl.flow p n
  let owners := (f.unacked.filter fun x => x.job != 0xFFFF).map fun x => (x.job, x.ctx)
  let owners := owners.eraseDups
  let ctrl := f.unacked.filter fun x => isCtrl x.ftype
  let next := (s.mgrPorts.filter (p < ·)) ++ s.mgrPorts.filter (· < p)
  let s := s.modFlow p n fun f => { f with unacked := if next.isEmpty then ctrl else [], failed := true }
  let s := { s with cpl := { s.cpl with lost := stick32 s.cpl.lost (max 1 owners.length) } }
  let s := owners.foldl (fun (s : State) o =>
    (s.raise { code := 0x0505, job := o.1, ctx := o.2, kind := 5, part := p, addr := n, d0 := p }).failJob o.1 0x0505) s
  let reads := s.cpl.reads.filter fun r => r.port == p && r.node == n && f.unacked.any fun x => x.seq == r.seq
  let s := reads.foldl (fun (s : State) r => s.endRead r 0x0505) s
  match next with
  | q :: _ => ctrl.foldl (fun (s : State) x => s.sendFrame q n x.ftype x.aux x.ctx x.job x.payload) s
  | [] => s

/-- A port goes down (R457, R470). -/
def State.portDown (s : State) (p : Nat) : State :=
  let s := s.raise { code := 0x0501, kind := 5, part := p }
  (s.cpl.flows.filter fun e => e.1.1 == p && !e.2.unacked.isEmpty).foldl (fun (s : State) e => s.flowFail p e.1.2) s

/-- Ports whose state differs from what it was raise their events (R457). -/
def State.portEdges (s : State) (old : BitVec 8) : State :=
  let now := s.portsUp
  (List.range 8).foldl (fun (s : State) p =>
    if old.getLsbD p && !now.getLsbD p then s.portDown p
    else if !old.getLsbD p && now.getLsbD p then s.raise { code := 0x0502, kind := 5, part := p } else s) s

end Sys2Proof.Machine
end

