-- ==== Sys2Proof/Machine/SfuBanks.lean ====
section
/-! DEFINITION. The SFU table banks of a reach (05 R165 to R173): reload and switch writes, the end of a load, and switches at lock
points. -/

namespace Sys2Proof.Machine

/-- A bank of a reach. -/
def Reach.bankAt (x : Reach) (k : Nat) : SfuBank := (x.banks[k]?).getD {}

/-- Change one bank of a reach. -/
def Reach.setBank (x : Reach) (k : Nat) (f : SfuBank → SfuBank) : Reach :=
  { x with banks := if h : k < 2 then x.banks.set k (f x.banks[k]) else x.banks }

/-- Change one bank of a reach. -/
def State.modBank (s : State) (n : Fin 16) (k : Nat) (f : SfuBank → SfuBank) : State := s.modReach n fun x => x.setBank k f

/-- A bank of the reach is LOADING. -/
def Reach.loadingBank (x : Reach) : Option Nat := [0, 1].find? fun k => (x.bankAt k).state == .loading

/-- From the acceptance of a profile change until its final switch (R168). -/
def State.banksFrozen (s : State) : Bool :=
  !s.prf.initial && match s.prf.chg with
    | .loading => true
    | .staging _ _ => true
    | .fullDrain => true
    | .entering => true
    | _ => false

/-- A write of RCH_n_SFU_RELOAD that RWL accepts (R168, R172). -/
def State.sfuReload (s : State) (n : Fin 16) (p : Port) (v : W64) : State :=
  let k := bits v.toNat 0 1
  let bad (code : Nat) : State := s.raise { code, kind := portKind p, addr := n }
  let b := s.reach[n].bankAt k
  if s.banksFrozen then bad 0x0107
  else if b.state == .active || b.state == .pending then bad 0x0105
  else if s.reach[n].loadingBank.isSome then bad 0x0107
  else
    (s.modReach n fun x => { x with reload := v.setWidth 29 }).modBank n k fun _ =>
      { state := .loading, src := bits v.toNat 1 28 * 4096 }

/-- Bank k becomes ACTIVE, and the one that was ACTIVE READY (R168). -/
def Reach.activate (x : Reach) (k : Nat) : Reach :=
  let x := x.setBank x.active fun b => if b.state = .active then { b with state := .ready } else b
  { x.setBank k fun b => { b with state := .active } with active := k }

/-- A write of REQ in RCH_n_SFU_SWITCH that RWL accepts (R168, R170, R173); while no schedule is in force it takes effect now
(10 R624). -/
def State.sfuSwitch (s : State) (n : Fin 16) (p : Port) : State :=
  let k := 1 - s.reach[n].active
  let bad (code : Nat) : State := s.raise { code, kind := portKind p, addr := n }
  if s.banksFrozen then bad 0x0107
  else
    match (s.reach[n].bankAt k).state with
    | .ready =>
      let s := s.modReach n fun x => { x.setBank k fun b => { b with state := .pending } with swAt := s.time }
      s.unlessForced fun s => s.modReach n fun x => x.activate k
    | .pending => s
    | _ => bad 0x0106

/-- A lock point at TIME t concerns resource r: a cycle start, or a start or end of a slot that names it (10 R306). -/
def State.lockOf (s : State) (r t : Nat) : Bool :=
  let o := t % s.lcNs
  o == 0 || (s.slotsIn (t / s.lcNs)).any fun p =>
    p.1.names r && (p.1.start * 1000 == o || (p.1.start + p.1.len) * 1000 == o)

/-- Pending switches take effect at a lock point of their reach at least 1 µs after the write (R170). -/
def State.applySwitches (s : State) (t : Nat) : State :=
  (List.finRange 16).foldl (fun (s : State) (n : Fin 16) =>
    let x := s.reach[n]
    let k := 1 - x.active
    if (x.bankAt k).state == .pending && decide (x.swAt.toNat + 1000 ≤ t) && s.lockOf n t then
      s.modReach n fun x => x.activate k
    else s) s

/-- The image that a load reads, when it passes R167. The model's choices, log entry 125: a reload whose SRC lies neither in DRAM in use
nor in a scratchpad window fails, and the lockkeeper's own load for a change is held against the manifest of the new profile. -/
def State.loadImage (s : State) (b : SfuBank) : Option (List Byte) :=
  if b.own then
    let img := ((s.prf.slots[b.slot.toNat]?).getD {}).image
    let tab := profSect img 4
    if imgOk (((manEntries (profSect img 2)).filter fun e => e.kind == 3).map (·.digest)) tab then some tab else none
  else if !(s.inDram b.src 4096 || s.inSpad b.src 4096) || s.poisonedRange b.src 4096 then none
  else
    let tab := s.read b.src 4096
    if imgOk s.prf.sfuDigests tab then some tab else none

/-- The load of a bank ends (R167, R168); the Bool says that it failed. -/
def State.endLoad (s : State) (n : Fin 16) (k : Nat) : State × Bool :=
  let b := s.reach[n].bankAt k
  let s := s.bump
  match s.loadImage b with
  | some img => (s.modBank n k fun _ => { state := .ready, image := img }, false)
  | none =>
    ((s.modBank n k fun _ => {}).raise
      { code := 0x0108, kind := 1, part := n, addr := b.src }, true)

/-- The lockkeeper starts its own load of the new table in the bank that is not ACTIVE (R169, 12 R415). -/
def State.ownLoad (s : State) (n : Fin 16) : State :=
  if s.reach[n].loadingBank.isSome then s
  else s.modBank n (1 - s.reach[n].active) fun _ => { state := .loading, own := true, slot := s.prf.target }

/-- The lockkeeper prepares the banks of every reach for a change (12 R415): pending switches are cancelled. -/
def State.prepareBanks (s : State) : State :=
  (List.finRange 16).foldl (fun (s : State) (n : Fin 16) =>
    (s.modBank n (1 - s.reach[n].active) fun b => if b.state = .pending then { b with state := .ready } else b).ownLoad n)
    { s with prf := { s.prf with loads := List.range 16 } }

end Sys2Proof.Machine
end

