-- ==== Sys2Proof/Machine/Demand.lean ====
section
/-! DEFINITION. Supply, thermal and floor demands for a shed level (17 R571, R577, R578; 18 R603). -/

namespace Sys2Proof.Machine

/-- A fault bit of VOUT or IOUT is set in a STATUS_WORD, or the rail reports itself off (R577; PMBus: bits 5, 4 and 6). -/
def statusFault (w : W16) : Bool := w.getLsbD 5 || w.getLsbD 4 || w.getLsbD 6

/-- A warning bit of VOUT, IOUT or temperature is set (R577; PMBus: bits 15, 14 and 2). -/
def statusWarn (w : W16) : Bool := w.getLsbD 15 || w.getLsbD 14 || w.getLsbD 2

/-- Some rail reports a warning. -/
def Pwr.rwarn (p : Pwr) : Bool := p.rails.toList.any fun r => r.valid && statusWarn r.status

/-- Some rail reports a fault. -/
def Pwr.rfault (p : Pwr) : Bool := p.rails.toList.any fun r => r.valid && statusFault r.status

/-- The supply demand. -/
def Pwr.supply (p : Pwr) : Nat :=
  let on (b : Bool) (l : Nat) : Nat := if b then l else 0
  [on p.over1 1, on p.over2 3, on p.droop 3, on p.warn 3, on p.crit 5, on (p.crit && decide (1 ≤ p.critHold)) 6,
   on (p.crit && decide (2 ≤ p.critHold)) 7, on p.rwarn 3, on p.rfault 6, on (p.clk.getLsbD 2 || p.clk.getLsbD 3) 7].foldl max 0

/-- The thermal demand. -/
def Pwr.thermal (p : Pwr) : Nat := ((List.range 8).filter fun i => p.hot.getLsbD i).foldl max 0

/-- The demanded level (R578); before the ready point only S7 is acted on (18 R603). -/
def State.demand (s : State) : Nat :=
  let d := max (max s.pwr.supply s.pwr.thermal) s.pwr.floor.toNat
  if s.prf.ready then d else if d = 7 then 7 else 0

/-- PENDING of PWR_STATE (R588). -/
def State.pendingLevel (s : State) : Nat :=
  let l := s.dev.shed.toNat
  if l < s.demand then s.demand else if s.pwr.descend then l - 1 else l

/-- PWR_STATE (R588). -/
def State.pwrState (s : State) : Nat :=
  let p := s.pwr
  s.pendingLevel * 2 ^ 45 + p.supply * 2 ^ 42 + p.thermal * 2 ^ 39 + p.floor.toNat * 2 ^ 36 + b2n p.over1 * 2 ^ 31 +
    b2n p.over2 * 2 ^ 30 + b2n p.droop * 2 ^ 29 + b2n p.warn * 2 ^ 28 + b2n p.crit * 2 ^ 27 + b2n p.rwarn * 2 ^ 26 +
    b2n p.rfault * 2 ^ 25 + b2n (p.clk != 0) * 2 ^ 24 + p.sect.base % 4 * 2 ^ 8 + s.dev.shed.toNat

/-- Package power in 0.1 W (R571): VOUT in mV times IOUT in 10 mA over the rails that count. -/
def Pwr.package (p : Pwr) : Nat :=
  ([0, 1, 2, 3, 6, 7, 8] : List (Fin 9)).foldl (fun x r => x + p.rails[r].vout.toNat * p.rails[r].iout.toNat) 0 / 10000

/-- Rail r is polled (R572, R573). -/
def Pwr.polled (p : Pwr) (r : Nat) : Bool := p.sect.present && ((p.sect.rails[r]?).map (·.1)).getD 0 != 0

/-- Package power is known (R573, R574): some rail is polled, and every polled rail that counts answers. -/
def Pwr.isKnown (p : Pwr) : Bool :=
  (List.range 9).any p.polled && ([0, 1, 2, 3, 6, 7, 8] : List (Fin 9)).all fun r => !p.polled r.val || p.rails[r].valid

/-- What package power and PLIMIT say (R573, R577): PWR_OVER counts when the power passes PLIMIT. -/
def State.powerFlags (s : State) : State :=
  let p := s.pwr
  let known := p.isKnown
  let o1 := known && decide (p.plimit < p.power.toNat)
  let o2 := known && decide (p.plimit * (100 + p.sect.overPct) < p.power.toNat * 100)
  { s with pwr := { p with
    known, over1 := o1, over2 := o2, overCnt := if o1 && !p.over1 then stick32 p.overCnt 1 else p.overCnt } }

end Sys2Proof.Machine
end

