-- ==== Sys2Proof/Machine/RegRead.lean ====
section
/-! DEFINITION. What a read of a register of BAR0 returns (00 R9 to R11; 19 R613 to R616), block by block, and the coarsening of
readings outside maintenance state (15 R525). -/

namespace Sys2Proof.Machine

/-- A performance counter as its register shows it (03 R108). -/
def Perf.word (p : Perf) : Nat := p.count.toNat + b2n p.ovf * 2 ^ 63

/-- Two 32-bit fields. -/
def two (hi lo : W32) : Nat := hi.toNat * 2 ^ 32 + lo.toNat

/-- CHAN_USABLE (01 R27; 11 R381) without the channels of an M-die that has gone (11 R356). -/
def State.chansNow (s : State) : Nat :=
  ((List.range 32).map fun c =>
    if s.dev.chanUsable.getLsbD c && !(if h : c / 8 < 4 then s.mdie[c / 8].gone else true) then 2 ^ c else 0).foldl (· + ·) 0

/-- RUN of 07 R249 and 09 R299. -/
def Run.code : Run → Nat
  | .idle => 0 | .running => 1 | .yielded => 2 | .ended => 3 | .stopped => 4 | .fd1 => 5

/-- Bank states as 05 R171 codes them. -/
def BankState.code : BankState → Nat
  | .empty => 0 | .loading => 1 | .ready => 2 | .pending => 3 | .active => 4

/-- STATE of DEV_STATUS (01 R28). -/
def DevState.code : DevState → Nat
  | .starting => 0 | .running => 1 | .draining => 2 | .drained => 3 | .stopping => 4

/-- WSTATE (14 R494). -/
def MemSt.code : MemSt → Nat
  | .detached => 0 | .joining => 1 | .held => 2 | .member => 3 | .unsync => 4

/-- MSTATE (14 R494). -/
def MState.code : MState → Nat
  | .none => 0 | .standby => 1 | .active => 2 | .solo => 3 | .claiming => 4 | .fenced => 5

/-- CHG of PRF_STATE (12 R422). -/
def Prf.chgCode (p : Prf) : Nat :=
  match p.chg with
  | .none => 0
  | .verifying _ => 1
  | .admitting => 2
  | .loading => if p.full then 4 else 3
  | .staging _ _ => 3
  | .fullDrain => 4
  | .entering => if p.initial then 2 else 4
  | .draining _ _ => 3
  | .resuming _ => 5
  | .returning _ => 5

/-- DEV_ (01 R26 to R28). -/
def State.devReg (s : State) (o : Nat) : Nat :=
  let d := s.dev
  match o with
  | 0x0 => 0xFD02076800000100
  | 0x8 => s.chansNow * 2 ^ 32 + d.reachUsable.toNat * 2 ^ 16 + d.dramUnits
  | 0x10 => d.role.toNat * 2 ^ 22 + d.profile.toNat * 2 ^ 20 + d.arithSet.toNat * 2 ^ 18 + b2n s.sec.maint * 2 ^ 17 +
      b2n s.sec.debug * 2 ^ 16 + b2n d.flagged * 2 ^ 15 + d.shed.toNat * 2 ^ 8 + d.st.code
  | _ => 0

/-- HELD_MS (13 R449). -/
def State.heldMs (s : State) (n : Fin 32) : Nat :=
  if s.sem[n].owner = 0 then 0 else min (2 ^ 32 - 1) ((s.time.toNat - s.sem[n].since.toNat) / 1000000)

/-- SEM_ (13 R451, R452). -/
def State.semReg (s : State) (o : Nat) : Nat :=
  if o = 0x100 then ((List.finRange 32).map fun (n : Fin 32) => s.sem[n].owner.toNat * 4 ^ n.val).foldl (· + ·) 0
  else if o = 0x108 then two s.semRefused s.semBroken
  else if h : o / 8 < 32 then
    let n : Fin 32 := ⟨o / 8, h⟩
    s.heldMs n * 2 ^ 32 + b2n (decide (s.prf.semHold ≤ s.heldMs n) && s.sem[n].owner != 0) * 2 ^ 7 + s.sem[n].owner.toNat
  else 0

/-- PRF_ (12 R422 to R426). -/
def State.prfReg (s : State) (o : Nat) : Nat :=
  let p := s.prf
  let slot (k : Nat) : PSlot := (p.slots[k]?).getD {}
  match o with
  | 0x0 => p.fwVersion.toNat * 2 ^ 32 + b2n p.fwSlot * 2 ^ 31 + b2n p.fallback * 2 ^ 30 + p.pinSel.toNat * 2 ^ 28 +
      b2n p.pairSide * 2 ^ 27 + b2n p.ready * 2 ^ 26 + b2n p.recovery * 2 ^ 25 +
      ((List.range 4).map fun k => b2n (slot k).valid * 2 ^ (20 + k)).foldl (· + ·) 0 + s.dev.profile.toNat * 2 ^ 18 +
      p.target.toNat * 2 ^ 16 + p.switched.toNat * 2 ^ 12 + p.held.toNat * 2 ^ 8 + p.flogBad.toNat * 2 ^ 4 + p.chgCode
  | 0x8 => p.cmd.toNat
  | 0x10 => p.resCode.toNat * 2 ^ 48 + p.resOp.toNat * 2 ^ 44 + p.resPort.toNat * 2 ^ 40 + p.resState.toNat * 2 ^ 32 +
      p.resCount.toNat
  | 0x100 => p.flashAddr.toNat
  | 0x108 => p.flashDev.toNat
  | 0x110 => p.flashCmd.toNat
  | 0x118 => p.flashDone.toNat * 2 ^ 32 + p.flashCode.toNat * 2 ^ 16 + b2n p.flashErr * 2 + b2n p.flashOp.isSome
  | _ =>
    if 0x20 ≤ o ∧ o < 0x60 then
      let k := slot ((o - 0x20) / 16)
      if o % 16 = 0 then (if k.valid then k.id.toNat else 0)
      else k.minFw.toNat * 2 ^ 32 + k.fault.toNat * 2 ^ 4 + k.role.toNat * 4 + b2n k.auto * 2 + b2n k.valid
    else 0

/-- The schedule whose header LKP_STATE shows: that in force, or that of the active slot. -/
def State.shownSched (s : State) : Sched :=
  if s.lkp.inForce then s.lkp.sched
  else
    let m := profSect ((s.prf.slots[s.dev.profile.toNat]?).getD {}).image 1
    if m.isEmpty then { lc := 0 } else schedOf m

/-- LKP_ (10 R342 to R347, 08 R268, R269). -/
def State.lkpReg (s : State) (o : Nat) : Nat :=
  let l := s.lkp
  match o with
  | 0x0 => l.cycle % 2 ^ 32 * 2 ^ 32 + s.shownSched.lc * 2 ^ 17 + s.shownSched.jobs.length
  | 0x8 => l.admCode.toNat * 2 ^ 48 + l.admJob.toNat * 2 ^ 32 + l.admSlot.toNat * 2 ^ 19 + l.admLevel.toNat * 2 ^ 16 +
      l.admRuns.toNat
  | 0x18 => l.abortJob.toNat * 2 ^ 48 + l.abortStatus.toNat * 2 ^ 40 + l.abortPort.toNat * 2 ^ 32 + l.abortStep.toNat
  | 0x20 => two l.ovr l.full
  | 0x30 => l.stale.toNat
  | 0xF08 => l.trapSeq.toNat * 2 ^ 32 + l.trapJob.toNat * 2 ^ 16 + b2n (l.trapValid && (s.jobRun l.trapJob.toNat).held) * 2 +
      b2n l.trapValid
  | _ =>
    if 0x2000 ≤ o ∧ o < 0x4000 then
      let x := s.inRing ((o - 0x2000) / 8)
      two x.tail x.head
    else if 0x4000 ≤ o ∧ o < 0xC000 then
      let g := s.egrRing ((o - 0x4000) / 0x20)
      match o % 0x20 with
      | 0 => (g.newBase.getD g.base).toNat
      | 8 =>
        let c := g.newCfg.getD (g.enable, g.vector, g.size)
        b2n c.1 * 2 ^ 16 + c.2.1.toNat * 2 ^ 5 + c.2.2.toNat
      | 16 => g.head.toNat
      | _ => g.tail.toNat
    else 0

/-- RCH_n_ (02 R67; 03 R106 to R109; 04 R147 to R150; 05 R171 to R173, R186; 06 R211, R212; 07 R247, R249). -/
def State.rchReg (s : State) (n : Fin 16) (o : Nat) : Nat :=
  let x := s.reach[n]
  let c := x.cnt
  match o with
  | 0x00 => bits x.bypass.toNat 0 64
  | 0x08 => bits x.bypass.toNat 64 64
  | 0x10 => bits x.bypass.toNat 128 64
  | 0x18 => bits x.bypass.toNat 192 64
  | 0x20 => b2n (decide (x.width < s.prf.compiled)) * 2 ^ 40 + s.prf.compiled * 2 ^ 16 + x.width
  | 0x40 => x.perf.busy.word
  | 0x48 => x.perf.wstall.word
  | 0x50 => x.perf.sstall.word
  | 0x58 => x.perf.mac.word
  | 0x100 => x.qlane.toNat * 2 ^ 9 + x.qword.toNat
  | 0x108 => if s.sec.debug then (slook 0 x.bank.words (512 * x.qlane.toNat + x.qword.toNat)).toNat else 0
  | 0x110 => ((List.finRange 8).map fun (g : Fin 8) =>
      let y := x.grps[g]
      (if y.isOpen then 128 + y.cls * 32 + b2n y.chk * 16 + b2n y.xs * 8 else 0) * 256 ^ g.val).foldl (· + ·) 0
  | 0x120 => two c.range c.limit
  | 0x128 => c.chkinv.toNat
  | 0x200 => (imgId (x.bankAt x.active).image).toNat % 2 ^ 32 * 2 ^ 32 + x.active * 2 ^ 8 + (x.bankAt 1).state.code * 8 +
      (x.bankAt 0).state.code
  | 0x208 => x.reload.toNat
  | 0x210 => b2n ((x.bankAt 0).state == .pending || (x.bankAt 1).state == .pending)
  | 0x218 => c.norm.toNat
  | 0x300 => x.rerunMax * 16 + x.rerunLeft
  | 0x308 => two c.rerun c.deny
  | 0x310 => c.narrow.toNat
  | 0x400 => x.perf.veBusy.word
  | 0x408 => x.perf.sfuBusy.word
  | 0x410 => x.perf.dstall.word
  | 0x420 => x.u.run.code * 2 ^ 48 + x.u.vl.toNat * 2 ^ 32 + x.u.pc.toNat
  | 0x800 => two c.clamp c.narint
  | _ => 0

/-- Data rate in MT/s (12 R400). -/
def rateMts (r : Nat) : Nat := match r with | 0 => 6400 | 1 => 7500 | 2 => 8533 | _ => 9600

/-- Retirement entries in force: permanent, or pending (11 R384). -/
def Chan.count (c : Chan) (p : RowState) : Nat := (c.rows.filter fun r => r.state == p).length

/-- MEM_d_ (11 R381 to R385). -/
def State.memReg (s : State) (d : Fin 4) (o : Nat) : Nat :=
  let m := s.mdie[d]
  match o with
  | 0x00 => bits s.chansNow (8 * d.val) 8 * 2 ^ 48 +
      ((List.finRange 8).map fun (i : Fin 8) => b2n m.chans[i].marked * 2 ^ (40 + i.val)).foldl (· + ·) 0 +
      m.d2d1.toNat * 2 ^ 34 + m.d2d0.toNat * 2 ^ 32 + rateMts s.dev.rate * 2 ^ 16
  | 0x08 => m.localBase.toNat * 2 ^ 48 + s.dev.lu * 2 ^ 36 + m.spad * 2 ^ 32 + m.localSize.toNat
  | 0x10 => two m.ce m.ue
  | 0x18 => m.quarCnt.toNat * 2 ^ 32 + m.quar.length
  | 0x20 => m.poisonLast.toNat * 2 ^ 6 + b2n m.poisonValid
  | 0x28 => m.retry.toNat * 2 ^ 32 + m.repaired.toNat
  | 0x40 => m.hit.word
  | 0x48 => m.miss.word
  | _ =>
    if 0x100 ≤ o then
      if h : (o - 0x100) / 8 < 8 then
        let c := m.chans[(o - 0x100) / 8]
        let perm := c.count .permanent
        let pend := c.count .pending
        b2n (perm + pend == 256) * 2 ^ 41 + perm * 2 ^ 32 + pend * 2 ^ 16 + c.sppr
      else 0
    else 0

/-- NMU_d_ (09 R299 to R301). -/
def State.nmuReg (s : State) (d : Fin 4) (o : Nat) : Nat :=
  let x := s.nmu[d]
  match o with
  | 0x00 => x.u.run.code * 2 ^ 48 + (if x.u.job = 0xFFFF then 0 else x.u.job) * 2 ^ 32 +
      (if x.upd ≠ 0 then 0 else x.u.pc.toNat)
  | 0x08 => two x.cnt.skew x.cnt.limit
  | 0x10 => two x.cnt.torn x.cnt.rownar
  | 0x18 => two x.cnt.clamp x.cnt.narint
  | 0x20 => x.busy.word
  | _ => 0

/-- PCI_ (13 R453). -/
def State.pciReg (s : State) (o : Nat) : Nat :=
  let p := s.pci
  match o with
  | 0x00 => b2n p.up * 2 ^ 15 + b2n p.bme * 2 ^ 14 + b2n p.msixEn * 2 ^ 13 + b2n p.fmask * 2 ^ 12 + p.width.toNat * 2 ^ 6 +
      p.speed.toNat * 8
  | 0x08 => p.base.toNat * 2 ^ 28 + p.size.toNat % 32
  | 0x18 => b2n p.irqEn * 2 ^ 11 + p.vector.toNat
  | 0x20 => p.done.toNat * 2 ^ 32 + p.code.toNat * 2 ^ 16 + p.hbq.length
  | 0x28 => two p.badacc p.b2bad
  | 0x30 => two p.linkdn p.cplto
  | _ => 0

/-- MGT_ (13 R454). -/
def State.mgtReg (s : State) (o : Nat) : Nat :=
  let m := s.mgt
  let bit (f : Session → Bool) : Nat :=
    ((List.finRange 4).map fun (i : Fin 4) => b2n ((m.sess[i].map f).getD false) * 2 ^ i.val).foldl (· + ·) 0
  match o with
  | 0x00 => b2n m.link * 2 ^ 10 + b2n m.mode * 2 ^ 9 + bit (fun _ => true) * 16 + bit (·.maint)
  | 0x08 => m.collHi.toNat
  | 0x10 => m.collLo.toNat
  | 0x18 => m.acked.toNat * 2 ^ 32 + m.recs.length
  | 0x20 => two m.authFail m.recDrop
  | _ => 0

/-- CPL_ (14 R494 to R498). -/
def State.cplReg (s : State) (o : Nat) : Nat :=
  let c := s.cpl
  match o with
  | 0x00 => c.node.toNat * 2 ^ 33 + c.mstate.code * 2 ^ 20 + c.wstate.code * 2 ^ 16 + c.reason.toNat * 2 ^ 8 + s.portsUp.toNat
  | 0x08 => c.cmd.toNat
  | 0x10 => c.resCode.toNat * 2 ^ 48 + c.resState.toNat * 2 ^ 40 + c.resOp.toNat * 2 ^ 36 + c.resPort.toNat * 2 ^ 32 +
      c.resCycle.toNat
  | 0x18 => c.offset.toNat * 2 ^ 32 + c.insync.toNat * 2 ^ 8 + b2n c.master
  | 0x20 => c.mseq.toNat
  | 0x28 => two c.unsync c.failover
  | 0x30 => two c.refused c.lost
  | _ =>
    if 0x100 ≤ o then
      if h : (o - 0x100) / 16 < 8 then
        let p : Fin 8 := ⟨(o - 0x100) / 16, h⟩
        if o % 16 = 0 then
          c.uncorr[p].toNat * 2 ^ 32 + b2n (c.pcs.getLsbD p) * 4 + b2n (s.portUp p) * 2 + b2n (c.sect.ports.getLsbD p)
        else two c.retry[p] c.bad[p]
      else 0
    else 0

/-- SEC_ (15 R530 to R534). -/
def State.secReg (s : State) (o : Nat) : Nat :=
  let c := s.sec
  match o with
  | 0x00 => bits c.idDigest.toNat 0 64
  | 0x08 => bits c.idDigest.toNat 64 64
  | 0x10 => bits c.idDigest.toNat 128 64
  | 0x18 => bits c.idDigest.toNat 192 64
  | 0x20 => min s.cpl.keys.length 255 * 2 ^ 40 + c.masters.toNat * 2 ^ 8 +
      b2n (s.mgt.sess.toList.any fun x => (x.map (·.coll)).getD false) * 16 + b2n c.debug * 8 + b2n c.maint * 4 +
      b2n c.rngOk * 2 + b2n c.idOk
  | 0x28 => b2n c.debug * 2 + b2n c.maint
  | 0x30 => c.attBuf.toNat * 2 ^ 6
  | 0x38 => c.attLen.toNat * 2 ^ 32 + c.attCode.toNat * 2 ^ 16 + b2n c.attErr * 2 + b2n c.att.isSome
  | 0x40 => two c.denied c.rekey
  | _ => 0

/-- RAS_ (16 R562 to R566). -/
def State.rasReg (s : State) (o : Nat) : Nat :=
  let r := s.ras
  match o with
  | 0x00 => r.cause.toNat * 2 ^ 40 + r.reach.toNat * 2 ^ 36 + s.sampleN * 16 + s.prf.sample
  | 0x08 => r.dupTiles.word
  | 0x10 => two r.mismatch r.transient
  | 0x18 => two r.dupSkip r.replay
  | 0x20 => two r.late r.fail
  | 0x28 => two r.ringDrop r.refused
  | 0x200 => (r.newBase.getD r.ringBase).toNat
  | 0x208 =>
    let c := r.newCfg.getD (r.ringEn, r.ringVec, r.ringSize)
    b2n c.1 * 2 ^ 16 + c.2.1.toNat * 2 ^ 5 + c.2.2.toNat
  | 0x210 => r.ringHead.toNat
  | 0x218 => (if r.seq = 0 then 0 else (r.seq - 1).toNat) * 2 ^ 32 + r.ringTail.toNat
  | _ =>
    if 0x100 ≤ o then
      if h : (o - 0x100) / 8 < 16 then
        let t := s.reach[(⟨(o - 0x100) / 8, h⟩ : Fin 16)].test
        t.lastMs.toNat * 2 ^ 32 + t.next.toNat * 2 ^ 24 + t.passes.toNat * 2 ^ 8 + b2n t.late * 2 + b2n t.retry
      else 0
    else 0

/-- PWR_ (17 R588 to R593): power to 1 W and no current outside maintenance state (R589, R592). -/
def State.pwrReg (s : State) (o : Nat) : Nat :=
  let p := s.pwr
  match o with
  | 0x00 => s.pwrState
  | 0x08 => p.plimit * 2 ^ 32 + b2n p.known * 2 ^ 16 + (if s.sec.maint then p.power.toNat else p.power.toNat / 10 * 10)
  | 0x10 => p.maxSensor.toNat * 2 ^ 8 + p.maxTemp.toNat
  | 0x18 => p.floor.toNat
  | 0x20 => two p.droopCnt p.overCnt
  | 0x28 => two p.pmbErr p.shedCnt
  | 0x40 => leNat ((p.shown.toList.drop 0).take 8)
  | 0x48 => leNat ((p.shown.toList.drop 8).take 8)
  | 0x50 => leNat ((p.shown.toList.drop 16).take 8)
  | _ =>
    if 0x100 ≤ o then
      if h : (o - 0x100) / 8 < 9 then
        let r := p.railShown[(⟨(o - 0x100) / 8, h⟩ : Fin 9)]
        r.status.toNat * 2 ^ 48 + b2n r.valid * 2 ^ 32 + (if s.sec.maint then r.iout.toNat else 0) * 2 ^ 16 + r.vout.toNat
      else 0
    else 0

/-- TIM_ (10 R350, 17 R594). -/
def State.timReg (s : State) (o : Nat) : Nat :=
  match o with
  | 0x0 => (s.stamp s.time).toNat
  | 0x8 => s.pwr.ppsOffset.toNat * 2 ^ 32 + b2n (decide (4 ≤ s.pwr.ppsGood)) * 2 + b2n s.pwr.ppsPresent
  | _ => 0

/-- A register at BAR0 offset `off` with its fields as they stand now (R613); offsets without a register read zero (R10). The DBG_
block reads zero outside debug state; in debug state its contents are not described (R615). -/
def State.rawReg (s : State) (off : Nat) : Nat :=
  if off % 8 ≠ 0 then 0
  else if off < 0x10000 then s.devReg off
  else if off < 0x20000 then s.semReg (off - 0x10000)
  else if off < 0x40000 then s.prfReg (off - 0x20000)
  else if off < 0x80000 then s.lkpReg (off - 0x40000)
  else if off < 0x100000 then
    (if off = 0x80008 then s.ctx.ctxMax * 2 ^ 43 + s.liveCtxs * 2 ^ 22 + s.ctx.queue.length else 0)
  else if h : (off - 0x100000) / 0x10000 < 16 then s.rchReg ⟨(off - 0x100000) / 0x10000, h⟩ (off % 0x10000)
  else if h : (off - 0x200000) / 0x40000 < 4 then s.memReg ⟨(off - 0x200000) / 0x40000, h⟩ (off % 0x40000)
  else if off < 0x380000 then
    if h : (off - 0x300000) / 0x1000 < 4 then s.nmuReg ⟨(off - 0x300000) / 0x1000, h⟩ (off % 0x1000) else 0
  else if off < 0x3C0000 then s.pciReg (off - 0x380000)
  else if off < 0x400000 then s.mgtReg (off - 0x3C0000)
  else if off < 0x480000 then s.cplReg (off - 0x400000)
  else if off < 0x500000 then s.secReg (off - 0x480000)
  else if off < 0x580000 then s.rasReg (off - 0x500000)
  else if off < 0x5C0000 then s.pwrReg (off - 0x580000)
  else if off < 0x600000 then s.timReg (off - 0x5C0000)
  else if off < 0x700000 then
    (if s.sec.debug then leNat ((List.range 8).map fun i => Config.unspecByte s.fresh (off + i)) else 0)
  else 0

/-- Offsets whose fields R525 coarsens, with the mask of those fields. -/
def coarseRegs : List (Nat × Nat) :=
  let all := 2 ^ 64 - 1
  let hi := 2 ^ 64 - 2 ^ 32
  ((List.range 16).flatMap fun n =>
    ([0x40, 0x48, 0x50, 0x58, 0x120, 0x128, 0x218, 0x300, 0x308, 0x310, 0x400, 0x408, 0x410, 0x420, 0x800] : List Nat).map fun o =>
      (0x100000 + n * 0x10000 + o, all)) ++
  ((List.range 4).flatMap fun d =>
    ([(0x10, all), (0x18, hi), (0x28, hi), (0x40, all), (0x48, all)] : List (Nat × Nat)).map fun p =>
      (0x200000 + d * 0x40000 + p.1, p.2)) ++
  ((List.range 4).flatMap fun d => ([0x0, 0x8, 0x10, 0x18, 0x20] : List Nat).map fun o => (0x300000 + d * 0x1000 + o, all)) ++
  ((List.range 8).flatMap fun p => [(0x400100 + p * 16, hi), (0x400108 + p * 16, all)]) ++
  ([0x10108, 0x40020, 0x40030, 0x380028, 0x380030, 0x3C0020, 0x400028, 0x400030, 0x480040, 0x500008, 0x500010, 0x500018,
    0x500020, 0x500028, 0x580020, 0x580028] : List Nat).map fun o => (o, all)

/-- The coarsened registers as they stand (R525), as a sparse map. -/
def State.snapshot (s : State) : List (Nat × W64) :=
  coarseRegs.foldl (fun m p => sput 0 m p.1 (BitVec.ofNat 64 (s.rawReg p.1))) []

/-- A correction that is slewed away at 100 ppm (14 R483, 17 R587): what is left of `c` when `n` times 10 µs have passed. -/
def slewed (c : Int) (n : Nat) : Int := if 0 ≤ c then max 0 (c - n) else min 0 (c + n)

/-- TIME becomes `t`; when it reaches a multiple of 1 ms the coarsened readings are those of that instant (R525). A correction in progress
changes how fast TIME runs and never its values. -/
def State.setTime (s : State) (t : W64) : State :=
  let s := if s.cpl.slew = 0 then s
    else { s with cpl := { s.cpl with slew := slewed s.cpl.slew (t.toNat / 10000 - s.time.toNat / 10000) } }
  if s.time.toNat / 1000000 = t.toNat / 1000000 then { s with time := t }
  else { s with time := t, shadow := s.snapshot }

/-- What a read of a register returns to either port (R9, R410, R411, R525). Before the ready point only the DEV_ and PRF_ blocks
are served; in recovery DEV_STATUS, PRF_STATE and the flash registers. -/
def State.readReg (s : State) (off : Nat) : W64 :=
  let served := s.prf.ready || (if s.prf.recovery then
      off == 0x10 || off == 0x20000 || (decide (0x20100 ≤ off) && decide (off ≤ 0x20118))
    else decide (off < 0x10000) || (decide (0x20000 ≤ off) && decide (off < 0x40000)))
  if !served then 0
  else
    let raw := s.rawReg off
    let mask := if s.sec.maint then 0 else ((coarseRegs.find? fun p => p.1 == off).map (·.2)).getD 0
    BitVec.ofNat 64 ((raw &&& (2 ^ 64 - 1 - mask)) ||| ((slook 0 s.shadow off).toNat &&& mask))

end Sys2Proof.Machine
end

