-- ==== Sys2Proof/Machine/FaultLog.lean ====
section
/-! DEFINITION. The flash and its fault log (12 R389, R394 to R398): records as stored, what they say, appending with compaction,
and which half is active. Erased flash reads 0xFF. -/

namespace Sys2Proof.Machine

/-! ### Flash bytes -/

/-- `n` bytes of the flash. -/
def State.flashRead (s : State) (a n : Nat) : List Byte := (List.range n).map fun i => slook 0xFF s.prf.flash (a + i)

/-- Write bytes of the flash. -/
def State.flashWrite (s : State) (a : Nat) (bs : List Byte) : State :=
  { s with prf := { s.prf with flash := bs.zipIdx.foldl (fun m p => sput 0xFF m (a + p.2) p.1) s.prf.flash } }

/-- Erase a range of the flash. -/
def State.flashErase (s : State) (a n : Nat) : State :=
  { s with prf := { s.prf with flash := sclear s.prf.flash a (a + n) } }

/-- First byte of a half of the fault log (R389). -/
def halfBase (h : Nat) : Nat := 0x8000000 + h * 0x800000

/-- Records in a half. -/
def halfSize : Nat := 131072

/-! ### Records -/

/-- SRC and BODY, 51 bytes. -/
def flogBody (src body : List Byte) : List Byte :=
  (src ++ List.replicate 3 0).take 3 ++ (body ++ List.replicate 48 0).take 48

/-- A record as stored (R394). -/
def flogBytes (seq : W32) (kind : Nat) (sb : List Byte) : List Byte :=
  let b := leBytes 4 seq.toNat ++ leBytes 1 kind ++ sb
  b ++ leBytes 4 (crc32c b).toNat ++ leBytes 4 0

/-- BYPASS: word i of reach n. -/
def recBypass (n i : Nat) (w : Nat) : Nat × List Byte := (1, flogBody (leBytes 1 n ++ leBytes 1 i) (leBytes 8 w))
/-- RETIRE: an entry of channel c. -/
def recRetire (c bank row idx st : Nat) : Nat × List Byte :=
  (2, flogBody (leBytes 1 c) (leBytes 1 bank ++ [0] ++ leBytes 4 row ++ leBytes 2 idx ++ leBytes 1 st))
/-- RET_FREE. -/
def recFree (c idx : Nat) : Nat × List Byte := (3, flogBody (leBytes 1 c) (List.replicate 6 0 ++ leBytes 2 idx))
/-- SPPR. -/
def recSppr (c bank row : Nat) : Nat × List Byte := (4, flogBody (leBytes 1 c) (leBytes 1 bank ++ [0] ++ leBytes 4 row))
/-- CHAN_MARK. -/
def recMark (c : Nat) : Nat × List Byte := (5, flogBody (leBytes 1 c) [])
/-- FLAG. -/
def recFlag (cause reach : Nat) (time : W64) (seq : W32) : Nat × List Byte :=
  (6, flogBody (leBytes 1 cause ++ leBytes 1 reach) (leBytes 8 time.toNat ++ leBytes 4 seq.toNat))

/-- What the records of a half say (R395, R396). -/
structure FLog where
  /-- bypass words: 4 · reach + word -/
  bypass : List (Nat × W64) := []
  /-- retirement entries: channel, index, bank, row, permanent -/
  ret    : List (Nat × Nat × Nat × Nat × Bool) := []
  /-- repaired rows: channel, bank, row -/
  sppr   : List (Nat × Nat × Nat) := []
  marks  : List Nat := []
  /-- SRC and BODY of the FLAG record in force -/
  flag   : Option (List Byte) := none
  watchdog : Bool := false
  bad    : Nat := 0
  deriving DecidableEq, Repr

/-- One record is applied (R396); `sb` holds SRC and BODY. -/
def FLog.apply (f : FLog) (kind : Nat) (sb : List Byte) : FLog :=
  let g (o n : Nat) : Nat := leNat ((sb.drop (o - 5)).take n)
  let c := g 5 1
  match kind with
  | 1 => { f with bypass := sput 0 f.bypass (4 * g 5 1 + g 6 1) (BitVec.ofNat 64 (g 8 8)) }
  | 2 =>
    let e := (c, g 14 2, g 8 1, g 10 4, decide (g 16 1 = 2))
    { f with ret := (f.ret.filter fun x => !(x.1 == c && x.2.1 == g 14 2)) ++ [e] }
  | 3 => { f with ret := f.ret.filter fun x => !(x.1 == c && x.2.1 == g 14 2) }
  | 4 => { f with sppr := (f.sppr.filter (· != (c, g 8 1, g 10 4))) ++ [(c, g 8 1, g 10 4)] }
  | 5 => { f with marks := setIns c f.marks }
  | 6 => { f with flag := some sb }
  | 7 =>
    match c with
    | 1 => { f with flag := none }
    | 2 => { f with marks := setDel (g 6 1) f.marks }
    | 3 =>
      let k := 4 * g 6 1 + g 7 1 / 64
      { f with bypass := sput 0 f.bypass k (slook 0 f.bypass k &&& ~~~(BitVec.ofNat 64 (2 ^ (g 7 1 % 64)))) }
    | _ => f
  | 8 => { f with watchdog := true }
  | _ => f

/-- The stored records that put a state in force (R397). -/
def FLog.records (f : FLog) : List (Nat × List Byte) :=
  (f.bypass.map fun p => recBypass (p.1 / 4) (p.1 % 4) p.2.toNat) ++
    (f.ret.map fun e => recRetire e.1 e.2.2.1 e.2.2.2.1 e.2.1 (if e.2.2.2.2 then 2 else 1)) ++
    (f.sppr.map fun e => recSppr e.1 e.2.1 e.2.2) ++ (f.marks.map recMark) ++
    (match f.flag with | some sb => [(6, sb)] | none => [])

/-- The records of a half up to its first erased one: SEQ, KIND, SRC and BODY, or `none` where the CRC fails. -/
def State.halfRecords (s : State) (h : Nat) (k : Nat) : (fuel : Nat) → List (Option (W32 × Nat × List Byte))
  | 0 => []
  | f + 1 =>
    let b := s.flashRead (halfBase h + 64 * k) 64
    if b.all (· == 0xFF) then []
    else
      (if leNat ((b.drop 56).take 4) = (crc32c (b.take 56)).toNat then
        some (BitVec.ofNat 32 (leNat (b.take 4)), leNat ((b.drop 4).take 1), (b.drop 5).take 51)
      else none) :: s.halfRecords h (k + 1) f

/-- The records of a half. -/
def State.half (s : State) (h : Nat) : List (Option (W32 × Nat × List Byte)) := s.halfRecords h 0 halfSize

/-- SEQ of the CKPT_BEGIN of a half that qualifies as active (R398). -/
def ckptOf (l : List (Option (W32 × Nat × List Byte))) : Option W32 :=
  match l with
  | some (seq, 9, _) :: rest => if rest.any fun r => (r.map (·.2.1)).getD 0 == 10 then some seq else none
  | _ => none

/-- The active half (R398). -/
def State.activeHalf (s : State) : Option Nat :=
  match ckptOf (s.half 0), ckptOf (s.half 1) with
  | some a, some b => some (if newer32 b a then 1 else 0)
  | some _, none => some 0
  | none, some _ => some 1
  | none, none => none

/-- The state that a half's records give; records whose CRC fails are skipped and counted (R398). -/
def flogOf (l : List (Option (W32 × Nat × List Byte))) : FLog :=
  l.foldl (fun f r => match r with
    | some (_, k, sb) => f.apply k sb
    | none => { f with bad := f.bad + 1 }) {}

/-! ### Appending -/

/-- A record goes to the first erased place of the active half. -/
def State.flogPut (s : State) (r : Nat × List Byte) : State :=
  let p := s.prf
  let s := s.flashWrite (halfBase p.flogHalf + 64 * p.flogPos) (flogBytes p.flogSeq r.1 r.2)
  { s with prf := { s.prf with flogPos := p.flogPos + 1, flogSeq := p.flogSeq + 1 } }

/-- A checkpoint of a state is written into an erased half, which then is the active one (R397). -/
def State.checkpoint (s : State) (h : Nat) (f : FLog) : State :=
  let s := s.flashErase (halfBase h) 0x800000
  let s := { s with prf := { s.prf with flogHalf := h, flogPos := 0 } }
  let rs := f.records
  let s := s.flogPut (9, flogBody [] (leBytes 8 s.time.toNat))
  let s := rs.foldl State.flogPut s
  s.flogPut (10, flogBody [] (leBytes 4 rs.length))

/-- A record is appended; when fewer than 4,096 erased records remain, the log is compacted into the other half first (R397). -/
def State.flogAppend (s : State) (r : Nat × List Byte) : State :=
  let s :=
    if halfSize - s.prf.flogPos < 4096 then
      let old := s.prf.flogHalf
      (s.checkpoint (1 - old) (flogOf (s.half old))).flashErase (halfBase old) 0x800000
    else s
  s.flogPut r

/-- The lockkeeper owes the log a record. -/
def State.oweLog (s : State) (r : Nat × List Byte) : State :=
  { s with prf := { s.prf with flogOwed := s.prf.flogOwed ++ [r] } }

/-- The oldest record owed is appended. -/
def State.flogStep (s : State) : State :=
  match s.prf.flogOwed with
  | [] => s
  | r :: rs => ({ s with prf := { s.prf with flogOwed := rs } }).flogAppend r

/-- Every record owed is appended (17 R582). -/
def State.flogFlush (s : State) : State := s.prf.flogOwed.foldl (fun (s : State) _ => s.flogStep) s

/-- FAULT_LOG_APPEND (R397). -/
def execFaultLogAppend (s : State) : Host.Outcome State Fault Refusal := .next s.flogStep

end Sys2Proof.Machine
end

