-- ==== Sys2Proof/Machine/Records.lean ====
section
/-! DEFINITION. RECORD messages to the collector (13 R446, 15 R520). -/

namespace Sys2Proof.Machine

/-- The session that carries records: the most recently opened one with COLLECTOR (15 R520). -/
def Mgt.collector (m : Mgt) : Option (Fin 4) :=
  (List.finRange 4).foldl (fun (b : Option (Fin 4)) (i : Fin 4) =>
    match m.sess[i] with
    | some x =>
      if !x.coll then b
      else match b with
        | some j => if ((m.sess[j].map (·.nth)).getD 0) < x.nth then some i else b
        | none => some i
    | none => b) none

/-- Change one session. -/
def State.modSess (s : State) (i : Fin 4) (f : Session → Session) : State :=
  { s with mgt := { s.mgt with sess := s.mgt.sess.set i (s.mgt.sess[i].map f) } }

/-- The management port is served: from the ready point on, with its link up and REFCLK_SYS present (R410; 17 R586). -/
def State.mgtServed (s : State) : Bool := s.prf.ready && s.mgt.link && !s.pwr.clk.getLsbD 2

/-- One RECORD message with the records that have not been sent, at most 18 (R446). -/
def State.sendRecords (s : State) : State :=
  let rs := (s.mgt.recs.drop s.mgt.sent).take 18
  match s.mgt.collector with
  | some i =>
    if rs.isEmpty || s.mgt.coll == 0 || !s.mgtServed then s
    else
      let num := ((s.mgt.sess[i].map (·.recNum)).getD 0) + 1
      let s := (s.modSess i fun x => { x with recNum := num }).send (.empRecord num rs)
      { s with mgt := { s.mgt with sent := s.mgt.sent + rs.length } }
  | none => s

/-- Every record not yet sent (17 R582). -/
def State.sendAllRecords (s : State) : State :=
  (List.range (s.mgt.recs.length / 18 + 1)).foldl (fun (s : State) _ => s.sendRecords) s

/-- EMP_RECORD_SEND (R446). -/
def execEmpRecordSend (s : State) : Host.Outcome State Fault Refusal := .next s.sendRecords

/-- EMP_RECORD_RESEND (R446): again from the oldest record not acknowledged. -/
def execEmpRecordResend (s : State) : Host.Outcome State Fault Refusal :=
  .next ({ s with mgt := { s.mgt with sent := 0 } }).sendRecords

end Sys2Proof.Machine
end

