-- ==== Sys2Proof/Machine/Shed.lean ====
section
/-! DEFINITION. The shed ladder (17 R570, R578 to R582, R585): how a level takes effect when it rises and when it falls. -/

namespace Sys2Proof.Machine

/-- ARITH_SET (01 R28) of a frequency in MHz. -/
def arithCode (mhz : Nat) : BitVec 2 := if mhz = 800 then 0 else if mhz = 600 then 1 else if mhz = 400 then 2 else 3

/-- VDD_ARITH in mV for a setting (R570). -/
def vddOf (c : BitVec 2) : Nat := match c.toNat with | 0 => 850 | 1 => 750 | 2 => 700 | _ => 650

/-- VDD_ARITH is commanded: the POWER section polls rail 0 (R573). -/
def Pwr.commands (p : Pwr) : Bool := p.sect.present && ((p.sect.rails[0]?).map (·.1)).getD 0 != 0

/-- VOUT_COMMAND to rail 0 (R570, R574); where the lockkeeper never commands it, the board holds 0.85 V (R573). -/
def State.setVdd (s : State) (c : BitVec 2) : State :=
  if s.pwr.commands && c != s.pwr.vset then
    ({ s with pwr := { s.pwr with vset := c } }).send (.pmbus 0 0x21 (vddOf c))
  else s

/-- The ARITH setting of a level (R580). -/
def State.levelArith (s : State) (level : Nat) : BitVec 2 := arithCode (arithAt s.pwr.sect.base level)

/-- ARITH takes a setting that is not higher, and VDD_ARITH follows (R570). -/
def State.arithDown (s : State) (c : BitVec 2) : State := ({ s with dev := { s.dev with arithSet := c } }).setVdd c

/-- A segment on a unit that leaves service stops as 07 R239 states (R580). -/
def State.park (s : State) (r : Res) : State :=
  let s := s.completeWork r
  let u := s.unit r
  if !u.executing then s
  else match (s.jobRun u.job).step with
    | some x => if x.stop ≠ .none then (s.stopUnit r).endStopped u.job else s.modU r Unit.pause
    | none => s.stopUnit r

/-- Reaches that one level serves and another does not. -/
def leaving (old new : Nat) : List (Fin 16) := (List.finRange 16).filter fun (n : Fin 16) => levelServes old n && !levelServes new n

/-- The kernel state of every reach and NMU is cleared (R581). -/
def State.clearAll (s : State) : State :=
  let s := (List.finRange 16).foldl (fun (s : State) (n : Fin 16) => s.modReach n fun x =>
    { x with u := { slot := x.u.slot, job := x.u.job, ctx := x.u.ctx } }.clearWork) s
  (List.finRange 4).foldl (fun (s : State) (d : Fin 4) => s.modNmu d fun x =>
    { x with u := { slot := x.u.slot, job := x.u.job, ctx := x.u.ctx }, wins := [], areas := [], poisonW := false }) s

/-- Entry to S6 (R581). -/
def State.enterS6 (s : State) : State := (s.haltSteps (.failed 0x0709)).clearAll

/-- Entry to S7 (R582): the fault log is completed and the records go out; before the ready point no RECORD is sent (18 R603). -/
def State.enterS7 (s : State) : State :=
  let s := s.flogFlush
  ({ s with dev := { s.dev with st := .stopping } }).sendAllRecords

/-- PWR_SHED and the level in force (R578, R595). -/
def State.noteLevel (s : State) (new : Nat) : State :=
  let s := s.raise { code := 0x0701, d0 := s.dev.shed.toNat, d1 := new, d2 := bits s.pwrState 24 21 }
  { s with
    dev := { s.dev with shed := BitVec.ofNat 3 new }
    pwr := { s.pwr with shedCnt := stick32 s.pwr.shedCnt 1, descend := false, rising := none } }

/-- A higher level takes effect with the effects of every level passed through (R578, R580). -/
def State.riseTo (s : State) (new : Nat) : State :=
  let old := s.dev.shed.toNat
  let ports := s.portsUp
  let s := s.noteLevel new
  let s := if s.dev.arithSet.toNat < (s.levelArith new).toNat then s.arithDown (s.levelArith new) else s
  let s := (leaving old new).foldl (fun (s : State) n => s.park (.reach n)) s
  let s := if 5 ≤ new then
      (List.finRange 4).foldl (fun (s : State) (d : Fin 4) => s.modMdie d fun m => m.gateWays 8) s
    else s
  let s := s.portEdges ports
  let s := if 6 ≤ new ∧ old < 6 then s.enterS6 else s
  if new = 7 then s.enterS7 else s

/-- At a lock point a demanded level above the one in force takes effect (R578). -/
def State.shedClimb (s : State) : State :=
  if s.dev.shed.toNat < s.demand && s.dev.shed.toNat < 7 then s.riseTo s.demand else s

/-- One level down (R579, R580): reaches return cleared, ports and LLC ways return, and ARITH rises to a setting that VDD_ARITH
already serves. -/
def State.stepDown (s : State) : State :=
  let old := s.dev.shed.toNat
  let new := old - 1
  let ports := s.portsUp
  let s := s.noteLevel new
  let c := s.levelArith new
  let s := { s with dev := { s.dev with arithSet := if new ≤ 5 ∧ s.pwr.vset.toNat ≤ c.toNat then c else s.dev.arithSet } }
  let s := (leaving new old).foldl (fun (s : State) n => s.clearUnit (.reach n)) s
  let s := if new < 5 then
      (List.finRange 4).foldl (fun (s : State) (d : Fin 4) => s.modMdie d fun m => { m with ways := 16 }) s
    else s
  s.portEdges ports

/-- At a cycle start a descent that is due takes effect (R579); a rise cancels it. -/
def State.shedDescend (s : State) : State :=
  if s.pwr.descend && s.demand < s.dev.shed.toNat && s.dev.shed.toNat < 7 then s.stepDown
  else { s with pwr := { s.pwr with descend := false } }

/-- A demand may have changed: while no schedule is in force, a rise takes effect now (R578, 10 R624). -/
def State.demandMoved (s : State) : State :=
  let s := if s.dev.shed.toNat ≤ s.demand then { s with pwr := { s.pwr with descend := false, rising := none } } else s
  s.unlessForced State.shedClimb

/-- A descent is ready: it takes effect at the next cycle start, or now while no schedule is in force (R579, R624). -/
def State.descendReady (s : State) : State :=
  ({ s with pwr := { s.pwr with descend := true } }).unlessForced State.shedDescend

/-- At a cycle start ARITH rises to the level's setting when VDD_ARITH serves it (R570). -/
def State.arithSync (s : State) : State :=
  let c := s.levelArith s.dev.shed.toNat
  if c.toNat < s.dev.arithSet.toNat && decide (s.pwr.vset.toNat ≤ c.toNat) && s.pwr.rising.isNone then
    { s with dev := { s.dev with arithSet := c } }
  else s

/-- The POWER section in force changes (12 R413): ARITH falls now, or rises once VDD_ARITH serves it (R570). -/
def State.newPower (s : State) (q : PwrSect) (plimit : Nat) : State :=
  let s : State := { s with pwr := { s.pwr with sect := q, plimit } }
  let polled (l : Vector Rail 9) : Vector Rail 9 := Vector.ofFn fun (r : Fin 9) => if s.pwr.polled r.val then l[r] else {}
  let s : State := ({ s with pwr := { s.pwr with rails := polled s.pwr.rails, railShown := polled s.pwr.railShown } }).powerFlags
  let c := s.levelArith s.dev.shed.toNat
  if s.dev.arithSet.toNat ≤ c.toNat then s.arithDown c
  else if s.pwr.commands ∧ c.toNat < s.pwr.vset.toNat then
    let s := s.setVdd c
    { s with pwr := { s.pwr with rising := some c } }
  else ({ s with pwr := { s.pwr with vset := if s.pwr.commands then s.pwr.vset else 0 } }).arithSync

/-- SHED_DESCENT (R579, R570): DWELL_MS has passed at a lower demand. Where the lower level raises ARITH and the lockkeeper
commands VDD_ARITH, the voltage is raised first and the descent waits for it. -/
def execShedDescent (s : State) : Host.Outcome State Fault Refusal :=
  .next (
    let l := s.dev.shed.toNat
    if s.dev.held || l = 0 || l = 7 || l ≤ s.demand || s.pwr.descend || s.pwr.rising.isSome then s
    else
      let c := s.levelArith (l - 1)
      if l ≤ 6 ∧ s.pwr.commands ∧ c.toNat < s.pwr.vset.toNat then
        let s := s.setVdd c
        { s with pwr := { s.pwr with rising := some c } }
      else s.descendReady)

/-- VDD_ARITH_SETTLE (R570): settled, ARITH may rise at the next cycle start; after 2 ms without, the frequency stays and
PWR_RAIL_FAULT is raised. -/
def execVddArithSettle (ok : Bool) (s : State) : Host.Outcome State Fault Refusal :=
  .next (match s.pwr.rising with
    | none => s
    | some c =>
      let s := { s with pwr := { s.pwr with rising := none } }
      if ok then (if c = s.levelArith s.dev.shed.toNat then s.unlessForced State.arithSync else s.descendReady)
      else
        let s := s.raise { code := 0x0706, addr := 0, d0 := s.pwr.rails[(0 : Fin 9)].status.toNat }
        { s with pwr := { s.pwr with vset := s.dev.arithSet } })

/-- Nothing is retained but the flash (R582, 12 R412). -/
def State.lost (s : State) : State :=
  { State.reset with
    pending := s.pending, out := s.out, fresh := s.fresh
    prf := { State.reset.prf with flash := s.prf.flash }
    sec := { State.reset.sec with draws := s.sec.draws } }

/-- S7_STOP (R582, 12 R412). -/
def execS7Stop (s : State) : Host.Outcome State Fault Refusal :=
  .next (if s.dev.shed = 7 ∧ !s.dev.held then
      let t := s.lost
      { t with dev := { t.dev with rstLow := false } }
    else s)

end Sys2Proof.Machine
end

