-- ==== Sys2Proof/Machine/Drain.lean ====
section
/-! DEFINITION. Draining and the replacement flag (16 R554, R555), and the replay of a step (R544). -/

namespace Sys2Proof.Machine

/-- The image of a profile slot as loaded at start. -/
def State.slotImg (s : State) (k : Nat) : List Byte := ((s.prf.slots[k]?).getD {}).image

/-- ORDER of the tests of a reach (16 R551): that of the new profile once its polder has switched (12 R413). -/
def State.testOrder (s : State) (n : Fin 16) : List Nat :=
  if s.prf.switched.getLsbD (n.val / 4) then (testrotOf (profSect (s.slotImg s.prf.target.toNat) 5)).getD (List.range 24)
  else s.prf.order

/-- Does the step of a job use a reach? -/
def State.stepUses (s : State) (n : Nat) (j : Nat) : Bool :=
  match (s.jobRun j).step with
  | some x => x.res.contains n
  | none => false

/-- REACH_USABLE (03 R105; 01 R27). -/
def State.refreshUsable (s : State) : State :=
  { s with dev := { s.dev with
      reachUsable := BitVec.ofNat 16
        (((List.range 16).map fun n => if s.usableAt s.prf.compiled n then 2 ^ n else 0).foldl (· + ·) 0) } }

/-- Steps still in flight end and STATE becomes DRAINED (R555, order 4). -/
def State.drained (s : State) : State :=
  let s := s.endSteps (fun _ _ => true) .flagged
  { s with dev := { s.dev with st := .drained } }

/-- The device drains with a cause of R554, naming a reach for causes 1 to 3 and an M-die for cause 4 (R555, orders 1 and 2). A change in progress stops
where it is (12 R420). A further cause in a draining device only ends the steps that use its reach. -/
def State.drainDevice (s : State) (cause : Nat) (reach : Option Nat) (die : Nat := 0) : State :=
  let pick (s : State) (j : Nat) : Bool := match reach with | some n => s.stepUses n j | none => true
  let first := !s.dev.flagged
  let s :=
    if first then
      let seq := s.ras.seq
      let s := ({ s with dev := { s.dev with flagged := true } }).raise
        { code := 0x0806, kind := if reach.isSome then 1 else 2, part := reach.getD die, d0 := cause }
      let s := s.oweLog (recFlag cause (reach.getD 0xFF) s.time seq)
      { s with
        ras := { s.ras with cause := BitVec.ofNat 8 cause, reach := BitVec.ofNat 4 (reach.getD 0) }
        dev := { s.dev with st := if s.dev.st = .stopping then .stopping else .draining }
        prf := { s.prf with
          chg := .none, loads := [], atCycle := none, target := s.dev.profile
          resState := if s.prf.chg = .none ∨ s.prf.op = 0 ∨ !s.prf.resMine then s.prf.resState else 3
          resCode := if s.prf.chg = .none ∨ s.prf.op = 0 ∨ !s.prf.resMine then s.prf.resCode else 0x0806 } }
    else s
  let s := s.endSteps pick .flagged
  if first && s.dev.st == .draining then s.unlessForced State.drained else s

/-- RAS_PERMANENT of a test, and the drain (R552, R554). -/
def State.testPermanent (s : State) (n : Fin 16) (cause : Nat) : State :=
  (s.raise { code := 0x0804, kind := 1, part := n }).drainDevice cause (some n.val)

/-! ### Replay (R544) -/

/-- A resource of a replayed step: its work goes, its kernel state is that of a first segment, and a segment in progress starts
again from ENTRY. -/
def State.replayOn (s : State) (j : Nat) (r : Res) : State :=
  let u := s.unit r
  if u.job ≠ j then s
  else
    let mine := (u.slot.map fun a => a.started && a.slot.job == j && a.slot.isSeg).getD false
    let s := s.modU r fun u => { u with
      run := .idle, wait := .none, trap := none, vregs := []
      slot := if mine then u.slot.map fun a => { a with started := false } else u.slot }
    let s := match r with
      | .reach n => (s.dropReads fun q => q.reach == n.val).modReach n fun x => { x.clearWork with barges := Vector.replicate 16 {}, taper := {} }
      | .nmu _ => s
    if mine then s.tryStart r else s

/-- The lockkeeper replays a step at once from ENTRY with the same number and members. -/
def State.replay (s : State) (j : Nat) : State :=
  match (s.jobRun j).step, s.job? j with
  | some x, some e =>
    let s := { s with ras := { s.ras with replay := stick32 s.ras.replay 1 } }
    let x' := { x with begun := [], ended := [], posted := false, replayed := true, taper := {} }
    let s := s.modJob j fun y => { y with step := some x', saved := [], traps := [] }
    let s := s.writeAllArgs j e x'
    (List.range 20).foldl (fun (s : State) k =>
      match resOf k with
      | some r => if x.begun.contains k then s.replayOn j r else s
      | none => s) s
  | _, _ => s

/-- A transient decided in the primary (R544): the step is replayed once; a second one fails it. -/
def State.transientPrimary (s : State) (j : Nat) (no : W64) : State :=
  match (s.jobRun j).step with
  | some x =>
    if x.no ≠ no ∨ x.stop ≠ .none then s
    else if x.replayed then s.failJob j 0x0803
    else s.replay j
  | none => s

end Sys2Proof.Machine
end

