-- ==== Sys2Proof/Machine/Change.lean ====
section
/-! DEFINITION. Activation and change of profiles (12_profiles R406 to R424): the commands of PRF_CMD but RESTART, verification of
weight images, admission, staged and full-drain changes, and polders that are drained, held and resumed. -/

namespace Sys2Proof.Machine

/-! ### Slots and their parts -/

/-- A slot as a candidate for admission. -/
def State.cand (s : State) (k : Nat) : Cand := candOf (s.slotImg k) k

/-- The active slot. -/
def State.activeSlot (s : State) : Nat := s.dev.profile.toNat

/-- The checked kernel images of a candidate by manifest index (07 R241). -/
def State.kernelsOf (s : State) (c : Cand) : List (Nat × List Byte) :=
  c.man.zipIdx.filterMap fun p =>
    if p.1.kind = 1 ∨ p.1.kind = 2 then (s.checked c p.1).map fun b => (p.2, b) else none

/-- The bytes of job table entry j and of ring table entry r in a schedule image. -/
def jobBytes (m : List Byte) (j : Nat) : List Byte := imgPart m (imgNat m 24 4 + 128 * j) 128
/-- The bytes of ring table entry r. -/
def ringBytes (m : List Byte) (r : Nat) : List Byte := imgPart m (imgNat m 28 4 + 16 * r) 16

/-- Job j and its rings are identical byte for byte in two schedule images (R417). -/
def sameJob (a b : List Byte) (j : Nat) : Bool :=
  let e := jobAtOff a (imgNat a 24 4 + 128 * j)
  jobBytes a j == jobBytes b j &&
    (List.range e.ringCount).all fun i => ringBytes a (e.ringFirst + i) == ringBytes b (e.ringFirst + i)

/-- Ring r is identical in both. -/
def sameRing (a b : List Byte) (r : Nat) : Bool :=
  decide (r < imgNat a 22 2) && decide (r < imgNat b 22 2) && ringBytes a r == ringBytes b r

/-! ### Results and refusals (R424, R427) -/

/-- The result register after a command of a port (R424), which it still reports unless a later command has been refused. -/
def State.prfResult (s : State) (st code : Nat) : State :=
  if s.prf.op = 0 ∨ !s.prf.resMine then s
  else { s with prf := { s.prf with resState := BitVec.ofNat 8 st, resCode := BitVec.ofNat 16 code } }

/-- No change is in progress. -/
def State.chgClear (s : State) : State :=
  let img := s.slotImg s.activeSlot
  let s := if s.prf.switched = 0 ∧ !img.isEmpty then
      ({ s with pwr := { s.pwr with plimit := (profHdr img).plimit } }).powerFlags
    else s
  { s with prf := { s.prf with
      chg := .none, loads := [], initial := false, full := false, recheck := false, atCycle := none, limit := false
      target := if s.prf.switched = 0 then s.dev.profile else s.prf.target } }

/-- KIND of the records that the command at work causes: the port that wrote it, or the lockkeeper (R427). -/
def State.cmdKind (s : State) : Nat := if s.prf.op = 0 then 6 else portKind s.prf.port

/-- A command or change is refused or fails with an event (R427). -/
def State.prfFail (s : State) (e : Ev) : State :=
  let s := s.raise { e with kind := s.cmdKind }
  (s.prfResult 3 e.code).chgClear

/-- A command is done. -/
def State.prfDone (s : State) : State := (s.prfResult 2 0).chgClear

/-! ### ACTIVATE and its checks (R408, R413, R414) -/

/-- A start-only field differs from what is in force (R413). -/
def State.startDiffers (s : State) (h : ProfHdr) : Bool :=
  decide (h.rate ≠ s.dev.rate) || decide (h.lu ≠ s.dev.lu) || decide (h.spad ≠ s.mdie.toList.map (·.spad))

/-- A drain field differs between two profiles (R413). -/
def drainDiffers (a b : List Byte) : Bool :=
  let x := profHdr a
  let y := profHdr b
  decide (x.plimit < y.plimit) || imgNat (profSect a 1) 6 2 != imgNat (profSect b 1) 6 2 || x.role != y.role ||
    profSect a 0 != profSect b 0 || x.npctx != y.npctx || x.ctxMax != y.ctxMax || x.compiled != y.compiled

/-- Jobs of a schedule active on one side of stage mask `sw` (R416). -/
def sideJobs (c : Sched) (sw : Nat) (new : Bool) : List Nat :=
  (List.range c.jobs.length).filter fun j =>
    let m := c.reaches j
    if m = 0 then (decide (sw = 0xFFFF) == new)
    else if new then m &&& sw == m else m &&& sw == 0

/-- A job or ring index that is active in both tables at a stage: the index and the stage (R414). -/
def clash (a b : List Byte) : Option (Nat × Nat) :=
  let x := schedOf a
  let y := schedOf b
  ([(0x000F, 0), (0x00FF, 1), (0x0FFF, 2), (0xFFFF, 3)] : List (Nat × Nat)).findSome? fun st =>
    let os := sideJobs x st.1 false
    let ns := sideJobs y st.1 true
    match os.find? fun j => ns.contains j with
    | some j => some (j, st.2)
    | none =>
      let on (c : Sched) (js : List Nat) (r : Nat) : Bool := match c.rings[r]? with
        | some g => js.contains g.job
        | none => false
      ((List.range (min x.rings.length y.rings.length)).find? fun r =>
        on x os r && on y ns r).map fun r => (r, st.2)

/-- ACTIVATE up to the start of verification. -/
def State.activate (s : State) (slot : Nat) (drainOk : Bool) : State :=
  let img := s.slotImg slot
  let go (s : State) (initial full recheck : Bool) : State :=
    { s with prf := { s.prf with
        chg := .verifying false, initial, full, recheck, drainOk, work := BitVec.ofNat 2 slot
        target := if recheck then s.prf.target else BitVec.ofNat 2 slot } }
  if slot = s.activeSlot && s.lkp.inForce then
    go { s with prf := { s.prf with verified := s.prf.verified.filter fun p => p.1 != slot } } false false true
  else if s.cpl.node ≠ 0x7FFF || (s.prf.op != 0 && (profHdr img).role == 1) then s.prfFail { code := 0x0A0E, addr := slot }
  else if s.startDiffers (profHdr img) then s.prfFail { code := 0x0A04, addr := slot }
  else if !s.lkp.inForce then go s true false false
  else
    let cur := s.slotImg s.activeSlot
    let full := drainDiffers cur img
    if full && !drainOk then s.prfFail { code := 0x0A05, addr := slot }
    else if full then go s false true false
    else
      match clash (profSect cur 1) (profSect img 1) with
      | some p => s.prfFail { code := 0x0A06, addr := p.1, d0 := p.2 }
      | none => go s false false false

/-- A coupled device prepares a slot for the switch of cycle k, or a spare or a joining worker takes one at once (14 R477, R490,
R491): no port asks for it. A start-only difference or a change in progress leaves it unprepared. -/
def State.prepareSlot (s : State) (slot : Nat) (k : Option Nat) : State :=
  if s.prf.chg ≠ .none || s.startDiffers (profHdr (s.slotImg slot)) then s
  else { s with prf := { s.prf with
    op := 0, chg := .verifying false, initial := !s.lkp.inForce, full := s.lkp.inForce, recheck := false, drainOk := true
    work := BitVec.ofNat 2 slot, target := BitVec.ofNat 2 slot, atCycle := k } }

/-- A command of a port enters PRF_CMD and the result registers (R423, R424). -/
def State.prfTake (s : State) (p : Port) (v : W64) (st code : Nat) : State :=
  let op := bits v.toNat 8 4
  { s with prf := { s.prf with
    cmd := BitVec.ofNat 64 (op * 256 + bits v.toNat 7 1 * 128 + bits v.toNat 4 2 * 16 + bits v.toNat 0 2)
    resOp := BitVec.ofNat 4 op, resPort := BitVec.ofNat 4 (portNum p), resState := BitVec.ofNat 8 st, resCode := BitVec.ofNat 16 code
    resMine := st == 1 } }

/-- CHG_BUSY: the command is refused, and the one at work goes on without the result registers (R414, R424, R427). -/
def State.prfBusy (s : State) (p : Port) (v : W64) : State := (s.prfTake p v 3 0x0A03).raise { code := 0x0A03, kind := portKind p }

/-- COUNT of PRF_CMD_RESULT counts a command that is not refused at once (R424). -/
def State.prfCount (s : State) : State :=
  if s.prf.resState = 3 then s else { s with prf := { s.prf with resCount := s.prf.resCount + 1 } }

/-! ### Verification and admission (R406, R407, R335) -/

/-- Weight images are verified in manifest order up to the first mismatch (R406). -/
def State.verifyGo (s : State) (c : Cand) : List (ManE × Nat) → State × Option Nat
  | [] => (s, none)
  | (e, i) :: rest =>
    if e.kind ≠ 4 ∨ s.prf.verified.contains (c.slot, i) then s.verifyGo c rest
    else if ((s.manBytes c.img e).map sm3) = some e.digest then
      ({ s with prf := { s.prf with verified := s.prf.verified ++ [(c.slot, i)] } }).verifyGo c rest
    else (s, some i)

/-- WEIGHT_VERIFY_DONE (R406, R407). -/
def execWeightVerifyDone (s : State) : Host.Outcome State Fault Refusal :=
  .next (match s.prf.chg with
    | .verifying only =>
      let c := s.cand s.prf.work.toNat
      match s.bump.verifyGo c c.man.zipIdx with
      | (s, some i) => s.prfFail { code := 0x0A09, addr := i }
      | (s, none) => if only then s.prfDone else { s with prf := { s.prf with chg := .admitting } }
    | _ => s)

/-- LKP_ADM_RESULT after an admission (10 R343). -/
def State.admResult (s : State) (c : Cand) (r : Option Refuse) : State :=
  let q := r.getD { code := 0 }
  { s with
    lkp := { s.lkp with
      admCode := BitVec.ofNat 16 q.code, admJob := BitVec.ofNat 16 q.job, admSlot := BitVec.ofNat 13 q.slot
      admLevel := BitVec.ofNat 3 q.level, admRuns := s.lkp.admRuns + 1 }
    prf := { s.prf with
      digestOk := if q.code = 0x0401 then setDel c.slot s.prf.digestOk else setIns c.slot s.prf.digestOk } }

/-- The refusal of an admission as an event: job, slot and level concerned in the detail words (10 R335, R340), with the context that
the schedule gives the job (R351). -/
def Refuse.ev (r : Refuse) (c : Sched) : Ev :=
  { code := r.code, job := r.job, ctx := ((c.jobs[r.job]?).map (·.ctx)).getD 0, d0 := r.job, d1 := r.slot, d2 := r.level, d3 := r.det }

/-- A refused admission ends the command (10 R335). -/
def State.admRefused (s : State) (r : Refuse) (c : Sched) : State :=
  ((s.raise { r.ev (if r.old then s.lkp.sched else c) with kind := 6 }).prfResult 3 r.code).chgClear

/-- An admitted change loads the SFU banks of every reach first (R415, R419). -/
def State.beginLoads (s : State) : State :=
  ({ s with prf := { s.prf with chg := .loading } }).prepareBanks

/-- ADMISSION (10 R336, 12 R414): of the new profile, or of the combined table of each stage. -/
def execAdmission (s : State) : Host.Outcome State Fault Refusal :=
  .next (match s.prf.chg with
    | .admitting =>
      let c := s.cand s.prf.work.toNat
      let staged := !s.prf.initial && !s.prf.full && !s.prf.recheck
      let r := if staged then s.admitStaged c else s.admitWhole c
      let s := s.bump.admResult c r
      match r with
      | some r => s.admRefused r c.sched
      | none =>
        if s.prf.recheck then s.prfDone
        else if s.prf.initial && c.slot == s.activeSlot then { s with prf := { s.prf with chg := .entering } }
        else
          let s := if staged then ({ s with pwr := { s.pwr with plimit := min s.pwr.plimit c.hdr.plimit } }).powerFlags else s
          s.beginLoads
    | _ => s)

/-- Every reach's load has completed: the stages begin, or the whole device drains (R415, R419). -/
def State.loadsDone (s : State) : State :=
  let c := s.cand s.prf.target.toNat
  if s.prf.initial || s.prf.atCycle.isSome then { s with prf := { s.prf with chg := .entering } }
  else if s.prf.full then
    { s with prf := { s.prf with chg := .fullDrain }, dev := { s.dev with st := .draining } }
  else { s with
    prf := { s.prf with chg := .staging 0 false, threshNew := (threshTable (profSect c.img 3)).getD [], kernelsNew := s.kernelsOf c }
    lkp := { s.lkp with next := some c.sched } }

/-- SFU_LOAD_DONE (05 R167, R168; 12 R415): the load in progress on a reach ends. Any that is not the change's own, one left over from an
earlier change too, is followed by the change's own. -/
def execSfuLoadDone (n : Fin 16) (s : State) : Host.Outcome State Fault Refusal :=
  .next (match s.reach[n].loadingBank with
    | none => s
    | some k =>
      let b := s.reach[n].bankAt k
      let own := b.own && b.slot == s.prf.target
      let (s, failed) := s.endLoad n k
      if s.prf.chg ≠ .loading then s
      else if !own then s.ownLoad n
      else if failed then
        (s.prfResult 3 0x0108).chgClear
      else
        let s := { s with prf := { s.prf with loads := setDel n s.prf.loads } }
        if s.prf.loads.isEmpty then s.loadsDone else s)

/-! ### Taking a profile over -/

/-- The device-wide fields of a slot take effect (R413, R415): R28, R449, R536, R572, R475. -/
def State.useFields (s : State) (k : Nat) : State :=
  let img := s.slotImg k
  let h := profHdr img
  let old := s.portsUp
  let s := { s with
    prf := { s.prf with
      sample := h.sample, semHold := h.semHold, drainMs := h.drainMs, compiled := h.compiled
      order := (testrotOf (profSect img 5)).getD (List.range 24)
      sfuDigests := ((manEntries (profSect img 2)).filter fun (e : ManE) => e.kind == 3).map ManE.digest
      target := BitVec.ofNat 2 k }
    dev := { s.dev with
      profile := BitVec.ofNat 2 k, role := BitVec.ofNat 2 (if h.role = 2 then 2 + b2n s.prf.pairSide else h.role) }
    cpl := { s.cpl with sect := coupOf (profSect img 6) } }
  ((s.newPower ((powerOf (profSect img 7)).getD {}) h.plimit).refreshUsable).portEdges old

/-- The descriptors of the contexts under a new memory map (10 R320; R402, R419). -/
def mapContexts (old : List (Nat × Ctx)) (oldN : Nat) (es : List MapE) (n : Nat) : List (Nat × Ctx) :=
  let sess := (es.filter fun e => e.kind == 2).map MapE.region
  let map := (es.filter fun e => e.kind != 2).map MapE.region
  let kept := old.filterMap fun p =>
    if p.1 ≤ n then none
    else if p.1 ≤ oldN then some (p.1, ({ gen := p.2.gen } : Ctx))
    else if p.2.state ≠ .free ∧ p.2.regions.any (fun g => !g.within sess || map.any fun h => g.meets h) then
      some (p.1, { gen := p.2.gen })
    else some p
  (List.range n).foldl (fun m i =>
    let c := i + 1
    let x := slook {} old c
    let mine := es.filter fun e => e.ctx == c && e.kind != 2
    sput {} m c
      { state := .live, gen := if c ≤ oldN then (if x.gen = 0 then 1 else x.gen) else if x.gen = 0 then 1 else x.gen + 1
        regions := mine.map MapE.region, priv := mine.map fun e => e.kind == 0 }) kept

/-- The memory map of a slot takes effect (R419): contexts whose DESTROY waited become FREE with it. -/
def State.useMap (s : State) (k : Nat) : State :=
  let img := s.slotImg k
  let h := profHdr img
  let es := mapEntries (profSect img 0)
  let old := s.ctx.ctxs
  let ctxs := mapContexts old s.ctx.npctx es h.npctx
  let s := State.keysMoved { s with ctx := { s.ctx with
    ctxs, npctx := h.npctx, ctxMax := h.ctxMax
    sess := (es.filter fun e => e.kind == 2).map MapE.region
    shared := (es.filter fun e => e.kind == 1).map MapE.region } } s
  (old.filter fun p => p.2.state == .closing && (slook {} ctxs p.1).state != .closing).foldl (fun (s : State) p =>
    match p.2.blk with
    | some b => s.ctxResult b 0 p.2.gen
    | none => s) s

/-- The lockkeeper's record of a job that starts at step 0; its trap is armed (08 R269). -/
def freshJob (e : JobE) : JobRun := { armed := e.ntrap }

/-- Every reach switches to the bank that holds the new table, if one was loaded for the change (R415, R419). -/
def Reach.takeBank (x : Reach) : Reach :=
  let k := 1 - x.active
  if (x.bankAt k).state == .ready then x.activate k else x

/-- The work of a reach is cleared under 03 R79, 04 R120 and 07 R220. -/
def State.clearReaches (s : State) (ns : List (Fin 16)) (bank : Bool) : State :=
  ns.foldl (fun (s : State) n => s.modReach n fun x => let x := x.clearWork; if bank then x.takeBank else x) s

/-- A profile takes over the whole device (R406 step 3, R419): every job starts at step 0; ring heads follow R417. With the first
schedule the 2 s of 16 R553 begin. -/
def State.takeOver (s : State) (k : Nat) : State :=
  let c := s.cand k
  let old := profSect (s.slotImg s.activeSlot) 1
  let new := profSect c.img 1
  let bank := !(s.prf.initial && k == s.activeSlot)
  let first := !s.lkp.inForce
  let s := { s with
    lkp := { s.lkp with
      sched := c.sched, next := none
      jobs := c.sched.jobs.zipIdx.foldl (fun (m : List (Nat × JobRun)) (p : JobE × Nat) => sput {} m p.2 (freshJob p.1)) []
      inRings := if s.lkp.inForce then (s.lkp.inRings.filter fun (p : Nat × InRing) => sameRing old new p.1) else []
      inForce := true }
    cpl := { s.cpl with left := s.cpl.left && c.hdr.role == 1 }
    prf := { s.prf with
      thresh := (threshTable (profSect c.img 3)).getD [], threshNew := [], kernels := s.kernelsOf c, kernelsNew := []
      switched := 0 } }
  let s := s.clearReaches (List.finRange 16) bank
  let s := if first then { s with reach := s.reach.map fun (x : Reach) => { x with test := { x.test with since := s.time } } } else s
  (s.useMap k).useFields k

/-! ### Drained polders and the switch of a stage (R415 to R418, R420, R421) -/

/-- Reaches of a polder. -/
def polderOf (k : Nat) : List (Fin 16) := (List.finRange 16).filter fun (n : Fin 16) => n.val / 4 == k

/-- A job's slots name a reach of a polder. -/
def State.onPolder (s : State) (k j : Nat) : Bool := s.jobReaches j &&& (15 * 16 ^ k) != 0

/-- A polder is drained (R415): no step in flight names its reaches and no barge is in flight on them, or the shed ladder has
taken it out of service (R420). -/
def State.polderDrained (s : State) (k : Nat) : Bool :=
  (polderOf k).all (fun n => !levelServes s.dev.shed.toNat n) ||
    (s.inFlight.all (fun j => !s.onPolder k j) && (polderOf k).all fun n => !s.reach[n].bargesBusy)

/-- The whole device is drained (R419). -/
def State.allDrained (s : State) : Bool := s.inFlight.isEmpty && s.reach.toList.all fun x => !x.bargesBusy

/-- PRF_JOB_SUSPENDED for each job of a list (R416, R421). -/
def State.suspendJobs (s : State) (js : List Nat) : State :=
  js.foldl (fun (s : State) j =>
    s.raise { code := 0x0A08, job := j, ctx := ((s.job? j).map (·.ctx)).getD 0, kind := s.cmdKind, addr := j }) s

/-- Jobs that the switch makes active: an identical one continues, another starts at step 0 with its changed rings at zero
(R417). -/
def State.startNew (s : State) (js : List Nat) (old new : List Byte) (c : Sched) : State :=
  js.foldl (fun (s : State) j =>
    match c.jobs[j]? with
    | none => s
    | some e =>
      let s := if sameJob old new j then s.modJob j fun y => { y with armed := y.armed || e.ntrap }
               else s.modJob j fun _ => freshJob e
      (List.range e.ringCount).foldl (fun (s : State) i =>
        let r := e.ringFirst + i
        if sameRing old new r then s else s.modRing r fun _ => {}) s) s

/-- The final switch (R415): the new profile is the active one. -/
def State.finishStages (s : State) (c : Sched) (old new : List Byte) : State :=
  let only := (List.range c.jobs.length).filter fun j => c.reaches j == 0
  let s := s.startNew only old new c
  let s := { s with
    lkp := { s.lkp with sched := c, next := none, jobs := s.lkp.jobs.filter fun (p : Nat × JobRun) => decide (p.1 < c.jobs.length) }
    prf := { s.prf with
      thresh := s.prf.threshNew, threshNew := [], kernels := s.prf.kernelsNew, kernelsNew := [], switched := 0 } }
  (s.useFields s.prf.target.toNat).prfDone

/-- Polder k switches to the new profile (R415 to R417). -/
def State.switchPolder (s : State) (k : Nat) : State :=
  match s.lkp.next with
  | none => s
  | some c =>
    let old := profSect (s.slotImg s.activeSlot) 1
    let new := profSect (s.slotImg s.prf.target.toNat) 1
    let was := s
    let s := { s with prf := { s.prf with switched := s.prf.switched ||| BitVec.ofNat 4 (2 ^ k) } }
    let m := s.switchedReaches
    let straddle := (List.range s.lkp.sched.jobs.length).filter fun j =>
      let r := s.lkp.sched.reaches j
      r &&& m != 0 && r &&& m != r && was.oldSide j
    let s := s.suspendJobs straddle
    let s := s.startNew ((List.range c.jobs.length).filter fun j => s.newSide j && !was.newSide j) old new c
    let s := s.clearReaches (polderOf k) true
    if k = 3 then s.finishStages c old new else { s with prf := { s.prf with chg := .staging (k + 1) false } }

/-- A drained polder is held behind its dike (R421). -/
def State.holdPolder (s : State) (k : Nat) : State :=
  let js := (List.range s.lkp.sched.jobs.length).filter fun j => s.onPolder k j && !s.suspended j
  let s := s.suspendJobs js
  ({ s with prf := { s.prf with held := s.prf.held ||| BitVec.ofNat 4 (2 ^ k) } }).prfDone

/-- The drained device switches (R419): at this cycle start, or, with another lock cycle, at the first multiple of it. -/
def State.fullSwitch (s : State) (t : Nat) : State :=
  let s := (s.takeOver s.prf.target.toNat)
  if t % s.lcNs = 0 then ({ s with dev := { s.dev with st := .running } }).prfDone
  else { s with
    prf := { s.prf with chg := .entering }
    lkp := { s.lkp with lastLock := BitVec.ofNat 64 ((t / s.lcNs + 1) * s.lcNs - 1) } }

/-- What a change does at a cycle start at TIME t (R415, R419, R421). -/
def State.changeAtCycle (s : State) (t : Nat) : State :=
  match s.prf.chg with
  | .staging k _ =>
    if s.polderDrained k then s.switchPolder k else { s with prf := { s.prf with chg := .staging k true } }
  | .draining k _ =>
    if s.polderDrained k then s.holdPolder k else { s with prf := { s.prf with chg := .draining k true } }
  | .fullDrain => if s.allDrained || s.prf.limit then s.fullSwitch t else s
  | .entering =>
    match s.prf.atCycle with
    | none =>
      let s := if s.prf.initial then s.takeOver s.prf.target.toNat else s
      ({ s with dev := { s.dev with st := .running } }).prfDone
    | some k =>
      if t / s.lcNs < k then s
      else
        let s := { s with prf := { s.prf with chg := .fullDrain, atCycle := none }, dev := { s.dev with st := .draining } }
        if s.allDrained then s.fullSwitch t else s
  | .returning k => ({ s with prf := { s.prf with held := s.prf.held &&& ~~~(BitVec.ofNat 4 (2 ^ k)) } }).prfDone
  | _ => s

/-- Polder k, not drained DRAIN_MS after its stage began, has its steps aborted (R418). -/
def State.abortPolder (s : State) (k : Nat) : State :=
  if s.polderDrained k then s
  else (s.endSteps (fun s j => s.onPolder k j) .aborted).raise { code := 0x0A07, kind := s.cmdKind, addr := k }

/-- The device, not drained DRAIN_MS after a full drain began, has its steps aborted, and switches at the next cycle start (R418,
R419). -/
def State.abortDevice (s : State) : State :=
  if s.allDrained then s
  else
    let s := (s.endSteps (fun _ _ => true) .aborted).raise { code := 0x0A07, kind := s.cmdKind, addr := 0xFFFF }
    { s with prf := { s.prf with limit := true } }

/-- CHG_DRAIN_ABORT (R418): DRAIN_MS has passed and the polder, or in a full drain the device, is not drained. -/
def execChgDrainAbort (s : State) : Host.Outcome State Fault Refusal :=
  .next (match s.prf.chg with
    | .staging k true => s.abortPolder k
    | .draining k true => s.abortPolder k
    | .fullDrain => s.abortDevice
    | _ => s)

/-- A command of PRF_CMD other than RESTART while no change is in progress, in the order of R414 (R421, R423). With no schedule in force
nothing waits for a cycle start (10 R624). -/
def State.prfBegin (s : State) (p : Port) (v : W64) : State :=
  let op := bits v.toNat 8 4
  let slot := bits v.toNat 4 2
  let k := bits v.toNat 0 2
  let s := s.prfTake p v 1 0
  let s := { s with prf := { s.prf with op, port := p } }
  let valid := ((s.prf.slots[slot]?).map PSlot.valid).getD false
  let held := s.prf.held.getLsbD k
  if (op ≤ 2 && !valid) || (op == 3 && held) || (op == 4 && !held) then
    s.prfFail { code := 0x0A0E, addr := if op ≤ 2 then slot else k }
  else if op = 2 then { s with prf := { s.prf with chg := .verifying true, work := BitVec.ofNat 2 slot } }
  else if op = 3 then ({ s with prf := { s.prf with chg := .draining k false } }).unlessForced fun s => s.changeAtCycle 0
  else if op = 4 then { s with prf := { s.prf with chg := .resuming k } }
  else s.activate slot (bitAt v.toNat 7)

/-- A command of PRF_CMD other than RESTART (R414, R423, R424). -/
def State.prfCmd (s : State) (p : Port) (v : W64) : State :=
  if s.prf.chg ≠ .none then s.prfBusy p v else (s.prfBegin p v).prfCount

/-- Lanes that fail a test are bypassed and recorded in the fault log (03 R103; 12 R397). -/
def State.bypassLanes (s : State) (n : Fin 16) (bad : BitVec 256) : State :=
  let old := s.reach[n].bypass
  let now := old ||| bad
  let s := s.modReach n fun x => { x with bypass := now }
  (List.range 4).foldl (fun (s : State) i =>
    if bits old.toNat (64 * i) 64 = bits now.toNat (64 * i) 64 then s
    else s.oweLog (recBypass n i (bits now.toNat (64 * i) 64))) s

/-- Lanes that a resumed polder's tests find failing, as at the end of a test slot (03 R79, R102; 16 R552): each new one is bypassed with
RAS_LANE_BYPASS, and the reach's weight stores are cleared, or, while a decision holds their operands, once it is made (16 R541). -/
def State.resumeLanes (s : State) (n : Fin 16) (bad : BitVec 256) : State :=
  let new := bad &&& ~~~s.reach[n].bypass
  if new = 0 then s
  else
    let s := (List.range 256).foldl (fun (s : State) l =>
      if new.getLsbD l then s.raise { code := 0x0808, kind := 1, part := n, addr := l } else s) s
    (s.bypassLanes n bad).modReach n fun x =>
      if x.dups.isEmpty then { x with ws := Vector.replicate 2 {}, fill := none } else { x with lateClear := true }

/-- POLDER_RESUME_DONE (R421): the start-up tests have found lanes that fail and reaches that pass outside their lanes (`ok`);
then the active table is admitted again with the polder in it. -/
def execPolderResumeDone (lanes : Vector (BitVec 256) 4) (ok : BitVec 4) (s : State) : Host.Outcome State Fault Refusal :=
  .next (match s.prf.chg with
    | .resuming k =>
      let s := (polderOf k).foldl (fun (s : State) n =>
        let i := n.val % 4
        let s := s.resumeLanes n ((lanes[i]?).getD 0)
        let m := BitVec.ofNat 16 (2 ^ n.val)
        { s with dev := { s.dev with reachOk := if ok.getLsbD i then s.dev.reachOk ||| m else s.dev.reachOk &&& ~~~m } }) s
      let s := s.refreshUsable
      let c := s.cand s.activeSlot
      let r := s.admitWhole c (some k)
      let s := s.bump.admResult c r
      match r with
      | some r => s.prfFail { code := 0x0A0D, addr := k, d0 := r.code }
      | none =>
        let s := { s with prf := { s.prf with chg := .returning k } }
        s.unlessForced fun s => s.changeAtCycle 0
    | _ => s)

end Sys2Proof.Machine
end

