-- ==== Sys2Proof/Machine/Basin.lean ====
section
/-! DEFINITION. A device's place in its basin (14_coupling): leaving (R477, R481), setting TIME at a join (R481), the manager's mirrored
basin state (R486 to R488), and what the cycle starts of a basin switch, a relief or a withdrawal bring (R490, R491). -/

namespace Sys2Proof.Machine

/-! ### Nodes -/

/-- Change the coupling block. -/
def State.modCpl (s : State) (f : Cpl → Cpl) : State := { s with cpl := f s.cpl }

/-- A member's node address in this basin (R474). -/
def State.nodeOf (s : State) (member : Nat) : Nat := s.cpl.sect.basin * 256 + member

/-- This manager's side (12 R405). -/
def State.side (s : State) : Nat := b2n s.prf.pairSide

/-- The node of the peer manager. -/
def State.peerNode (s : State) : Nat := s.nodeOf (1 - s.side)

/-- The device acts as its basin's manager. -/
def Cpl.acting (c : Cpl) : Bool := c.mstate == .active || c.mstate == .solo

/-- Members that this device, or its manager, has announced or admitted (R466, R478). -/
def Cpl.hasMember (c : Cpl) (m : Nat) : Bool := c.members.any fun p => p.1 == m

/-- A node is a member of this basin: a manager, or a worker that has been announced (R472, R477). -/
def State.isMember (s : State) (n : Nat) : Bool :=
  n / 256 == s.cpl.sect.basin && (decide (n % 256 < 2) || s.cpl.hasMember (n % 256))

/-- The node of each announced worker. -/
def State.workerNodes (s : State) : List Nat := s.cpl.members.map fun p => s.nodeOf p.1

/-- The member number of the device that a node address names. -/
def memberOf (n : Nat) : Nat := n % 256

/-! ### Leaving and joining -/

/-- Every link key goes, and what depended on the flows ends (R481; 15 R516). -/
def State.dropLinks (s : State) : State :=
  let s := s.cpl.reads.foldl (fun (s : State) r => s.endRead r 0x0505) s
  s.modCpl fun c => { c with keys := [], kex := [], flows := [], reads := [] }

/-- A device leaves its basin (R477): steps end as aborts do, the node address goes, CPL_LEFT gives the cause. A manager that leaves is
no manager until it is activated again (log 131). -/
def State.leave (s : State) (cause : Nat) : State :=
  let s := (s.endSteps (fun _ _ => true) .aborted).dropLinks
  let s := if s.prf.atCycle.isSome then s.chgClear else s
  let s := s.modCpl fun c => { c with
    node := 0x7FFF, wstate := .detached, mstate := .none, left := true, synced := false, timeSet := false, slew := 0, insync := 0
    follows := none, fseq := 0, members := [], pendSw := none, pendOut := [], assume_ := none, dreq := none, lastSync := none }
  s.raise { code := 0x050B, d0 := cause }

/-- Every pending SFU switch acts (05 R170). -/
def State.switchAll (s : State) : State :=
  { s with reach := s.reach.map fun x => if (x.bankAt (1 - x.active)).state == .pending then x.activate (1 - x.active) else x }

/-- Every vector that is due is raised (10 R331). -/
def State.raiseAll (s : State) : State :=
  let due := (s.lkp.vectors.map (·.1)).eraseDups
  due.foldl (fun (s : State) v => s.msix v) { s with lkp := { s.lkp with vectors := [] } }

/-- What waits for a lock point of no particular slot acts: trap requests, ring and context commands, SFU switches, vectors and the shed
ladder's climb. -/
def State.actWaiting (s : State) : State :=
  let s := (s.lkp.jobs.map (·.1)).foldl (fun (s : State) j => s.trapRequests j) s
  ((s.raiseAll.applyEgrs.applyRas.switchAll).ctxAll.freeClosing).shedClimb

/-- TIME is set at the first Sync of a join (R477, R481): a lock point of every resource, at which steps end as aborts do and what waits for
a lock point acts. The slots of the cut cycle are not run, and cycles go on with the first one that starts after the new TIME. -/
def State.setBasinTime (s : State) (t : W64) : State :=
  let s := (s.lkp.jobs.map (·.1)).foldl (fun (s : State) j => s.narTrap j) s
  let s := s.haltSteps .aborted
  let s := if s.lkp.inForce then s.actWaiting else s
  let s := s.setTime t
  let s := (List.range 20).foldl (fun (s : State) k =>
    match resOf k with
    | some r => s.modU r fun u => { u with slot := none }
    | none => s) s
  { s with
    lkp := { s.lkp with lastLock := if s.lkp.inForce then BitVec.ofNat 64 ((t.toNat / s.lcNs + 1) * s.lcNs - 1) else 0 }
    cpl := { s.cpl with timeSet := true, slew := 0 } }

/-- A worker enters HELD (R477, R481). -/
def State.hold (s : State) (reason : Nat) : State :=
  let s := (s.endSteps (fun _ _ => true) .aborted).dropLinks
  let s := s.modCpl fun c => { c with wstate := .held, reason := BitVec.ofNat 8 reason, node := 0x7FFF, synced := false, slew := 0 }
  s.raise { code := 0x0508, d0 := reason }

/-! ### The manager's basin state -/

/-- A mirror record (R467). -/
def mirrorRec (seq : W64) (kind : Nat) (body : List Byte) : List Byte :=
  leBytes 8 seq.toNat ++ leBytes 2 kind ++ leBytes 2 body.length ++ leBytes 4 0 ++ body

/-- A change of basin state takes the next mirror sequence and goes to the standby (R486), in SOLO to one that a snapshot has been sent to
(R487). -/
def State.mirror (s : State) (kind : Nat) (body : List Byte) : State :=
  let s := s.modCpl fun c => { c with mseq := c.mseq + 1 }
  if s.cpl.mstate = .active ∨ (s.cpl.mstate = .solo ∧ s.cpl.snapSent = true) then
    s.sendCtrl s.peerNode 9 0 (mirrorRec s.cpl.mseq kind body)
  else s

/-- A frame toward a worker, or with TYPE 0 an error record toward the collector, follows the changes mirrored before it: at once
in SOLO or when the standby has acknowledged them, else when it does (R486). -/
def State.act (s : State) (n ftype : Nat) (payload : List Byte) : State :=
  if s.cpl.mstate = .active ∧ newer64 s.cpl.mseq s.cpl.macked then
    s.modCpl fun c => { c with owed := c.owed ++ [{ after := c.mseq, node := n, ftype, payload }] }
  else s.sendCtrl n ftype 0 payload

/-- A command to every announced worker. -/
def State.actAll (s : State) (payload : List Byte) : State :=
  s.workerNodes.foldl (fun (s : State) n => s.act n 8 payload) s

/-- A 64-byte error record as a record again. -/
def errRecOf (b : List Byte) : ErrRec :=
  let f (o n : Nat) : Nat := leNat ((b.drop o).take n)
  { ts := BitVec.ofNat 64 (f 0 8), seq := BitVec.ofNat 32 (f 8 4), event := BitVec.ofNat 16 (f 12 2), job := BitVec.ofNat 16 (f 14 2)
    ctx := BitVec.ofNat 32 (f 16 4), source := BitVec.ofNat 32 (f 20 4), addr := BitVec.ofNat 64 (f 24 8)
    d0 := BitVec.ofNat 64 (f 32 8), d1 := BitVec.ofNat 64 (f 40 8), d2 := BitVec.ofNat 64 (f 48 8), d3 := BitVec.ofNat 64 (f 56 8) }

/-- A member's error record goes to this manager's collector unchanged, and the standby learns that it has (R468, R484). -/
def State.forward (s : State) (b : List Byte) : State :=
  let r := errRecOf b
  let node := r.source.toNat / 2 ^ 17
  let s := { s with mgt := keepRecord s.mgt r }
  let s := s.modCpl fun c => { c with heldRecs := c.heldRecs.filter fun p => p.2 != b }
  s.mirror 6 (leBytes 2 node ++ leBytes 2 0 ++ leBytes 4 r.seq.toNat)

/-- What was owed goes out. -/
def State.pay (s : State) (o : Owed) : State :=
  if o.ftype = 0 then s.forward o.payload
  else match o.port with
    | some p => s.sendFrame p o.node o.ftype o.aux 0 0xFFFF o.payload
    | none => s.sendCtrl o.node o.ftype o.aux o.payload

/-- What the standby's acknowledgement lets go. -/
def State.payOwed (s : State) : State :=
  let ok (q : W64) : Bool := s.cpl.mstate != .active || !newer64 q s.cpl.macked
  let due := s.cpl.owed.takeWhile fun (o : Owed) => ok o.after
  let s := s.modCpl fun c => { c with owed := c.owed.drop due.length }
  due.foldl State.pay s

/-- A manager acts alone (R487). -/
def State.goSolo (s : State) : State :=
  (s.modCpl fun c => { c with
    mstate := .solo, master := true, snapSent := false, timeSet := c.timeSet || decide (c.sect.upstream = 0x7FFF) }).payOwed

/-- A manager stops acting (R487, R488): CPL_FENCED with both sequences. The error records that it holds still reach the collector. -/
def State.fence (s : State) (winner : W64) : State :=
  let s := { s with mgt := s.cpl.heldRecs.foldl (fun (m : Mgt) (p : Nat × List Byte) => keepRecord m (errRecOf p.2)) s.mgt }
  let s := s.modCpl fun c => { c with mstate := .fenced, master := false, owed := [], heldRecs := [], snapSent := false }
  s.raise { code := 0x050D, d0 := s.cpl.mseq.toNat, d1 := winner.toNat }

/-- A manager profile becomes active on a device with an identity (R474, R477; 15 R503): it takes its node address. -/
def State.managerStart (s : State) : State :=
  if s.dev.role.toNat < 2 || s.cpl.node ≠ 0x7FFF || !s.sec.idOk || s.cpl.left then s
  else s.modCpl fun c => { c with
    node := BitVec.ofNat 15 (c.sect.basin * 256 + b2n s.prf.pairSide), wstate := .member, mstate := .none, epoch := c.sect.epoch
    synced := true }

/-! ### Cycle starts -/

/-- A MEMBERSHIP command of one entry (R465, R466). -/
def membershipCmd (cycle member action : Nat) (id : BitVec 256) : List Byte :=
  leBytes 4 4 ++ leBytes 2 1 ++ leBytes 2 0 ++ leBytes 8 cycle ++ leBytes 1 member ++ leBytes 1 action ++ leBytes 2 0 ++
    leBytes 32 id.toNat

/-- The entry of R476 with the state of R468. -/
def memberRec (e : MembE) (st : Nat) : List Byte :=
  leBytes 32 e.id.toNat ++ leBytes 32 e.profile.toNat ++ leBytes 1 e.member ++ leBytes 1 (b2n e.spare) ++ leBytes 1 e.backs ++
    leBytes 13 0 ++ leBytes 1 st ++ leBytes 3 0

/-- The membership entry of a member. -/
def Coup.entry (c : Coup) (m : Nat) : MembE :=
  (c.members.find? fun e => e.member == m).getD { id := 0, profile := 0, member := m, spare := false, backs := 0 }

/-- A relief takes effect on the manager (R490): the member's number passes to the spare, whose own becomes free, and the standby learns
of both. -/
def State.relieved (s : State) (q : Nat × Nat × Nat × W64) : State :=
  let id := ((s.cpl.members.find? fun p => p.1 == q.2.1).map (·.2)).getD 0
  let s := s.modCpl fun c => { c with
    members := (c.members.filter fun p => p.1 != q.1 && p.1 != q.2.1) ++ [(q.1, id)]
    pendRel := c.pendRel.filter fun p => p != q
    resState := if c.resOp = 4 ∧ c.resState = 1 then 2 else c.resState }
  let s := s.mirror 1 (memberRec { s.cpl.sect.entry q.1 with id } 1)
  let s := s.mirror 1 (memberRec (s.cpl.sect.entry q.2.1) 0)
  let s := s.actAll (membershipCmd 0 q.1 1 id)
  s.raise { code := 0x0510, addr := q.1, d0 := q.1, d1 := q.2.1 }

/-- A spare takes the relieved member's node address (R490), once its own change is over and the slot of the order is active. -/
def State.takeAddress (s : State) (m : Nat) : State :=
  s.modCpl fun c => { c with node := BitVec.ofNat 15 (c.node.toNat / 256 * 256 + m), assume_ := none }

/-- What the start of cycle k brings a coupled device before its change does (R465, R490, R491). -/
def State.basinCycle (s : State) (k : Nat) : State :=
  let s := s.modCpl fun c => { c with
    synced := c.wstate == .member
    members := c.members.filter fun p => !c.pendOut.any fun w => w.1 == p.1 && decide (w.2.toNat ≤ k)
    pendOut := c.pendOut.filter fun w => decide (k < w.2.toNat) }
  let s := match s.cpl.pendSw with
    | some (_, c) =>
      if c.toNat = k + 1 ∧ s.dev.role = 1 ∧ !(s.prf.chg == Chg.entering && s.prf.atCycle.isSome) then s.leave 3
      else s
    | none => s
  let s := match s.cpl.pendSw with
    | some (e, c) =>
      if k < c.toNat then s
      else
        let s := s.modCpl fun c => { c with
          pendSw := none, epoch := e
          resState := if c.resOp = 1 ∧ c.resState = 1 then 2 else c.resState }
        if s.cpl.acting then s.mirror 2 (leBytes 4 e.toNat) else s
    | none => s
  let s := match s.cpl.assume_ with
    | some (m, p, c) => if c.toNat ≤ k ∧ s.prf.chg = Chg.none ∧ s.activeSlot = p then s.takeAddress m else s
    | none => s
  if s.cpl.acting then (s.cpl.pendRel.filter fun (q : Nat × Nat × Nat × W64) => decide (q.2.2.2.toNat ≤ k)).foldl State.relieved s else s

end Sys2Proof.Machine
end

