-- ==== Sys2Proof/Machine/LockPoint.lean ====
section
/-! DEFINITION. Lock points (10 R305 to R308, 19 R623): the time of the next one and everything that it brings, in one order: the slots
that end, what their end releases, what waits for any lock point, what waits for a cycle start, the slots that start; and what
the block does by itself. -/

namespace Sys2Proof.Machine

/-- TIME of the next lock point: that of the schedule in force, or the first cycle start of one whose activation is accepted (R306,
R624; 12 R406). -/
def State.lockAt (s : State) : Option Nat :=
  if s.lkp.inForce then some s.nextLock
  else if s.prf.chg = .entering then
    let lc := max 1 ((s.cand s.prf.target.toNat).sched.lc * 1000)
    some ((s.time.toNat / lc + 1) * lc)
  else none

/-! ### Ends -/

/-- Resources whose slot ends at TIME t. -/
def State.endingRes (s : State) (t : Nat) : List Res :=
  (List.range 20).filterMap fun k =>
    match resOf k with
    | some r => if ((s.unit r).slot.map fun a => a.endT.toNat == t).getD false then some r else none
    | none => none

/-- Jobs whose slot ends at TIME t. -/
def State.endingJobs (s : State) (t : Nat) : List Nat :=
  ((s.endingRes t).filterMap fun r => ((s.unit r).slot.bind fun a => if a.slot.isSeg then some a.slot.job else none)).eraseDups

/-- Vectors due at this lock point are raised, each once (R331; 16 R560). -/
def State.raiseVectors (s : State) (ending : List Nat) : State :=
  let due := s.lkp.vectors.filter fun p => p.2 == 0xFFFF || ending.contains p.2 || (s.job? p.2).isNone
  let s := { s with lkp := { s.lkp with vectors := s.lkp.vectors.filter fun p => !due.contains p } }
  (due.map (·.1)).eraseDups.foldl (fun (s : State) v => s.msix v) s

/-- Lanes that the tests of an ended slot bypass (03 R102, R103; 16 R552); a width below COMPILED then drains the device. -/
def State.endTest (s : State) (r : Res) : State :=
  match r with
  | .reach n =>
    let bad := s.reach[n].test.newBypass
    if bad = 0 then s
    else
      let s := ((s.bypassLanes n bad).modReach n fun x => { x with test := { x.test with newBypass := 0 } }).refreshUsable
      if s.reach[n].width < s.prf.compiled then s.testPermanent n 3 else s
  | .nmu _ => s

/-- The lock point after a job's first trap report on its reach (08 R265): that reach's slot ends here, or it has none. -/
def State.trapDue (s : State) (ending : List Res) (j : Nat) : Bool :=
  match (s.jobRun j).traps with
  | [] => false
  | t :: ts =>
    let f := ts.foldl (fun m x => if trapBefore x m then x else m) t
    if h : f.1 < 16 then
      ending.contains (.reach ⟨f.1, h⟩) || s.reach[(⟨f.1, h⟩ : Fin 16)].u.slot.isNone
    else true

/-! ### Starts -/

/-- The RELEASE slots at an offset (in µs) of the cycle. -/
def State.releasesAt (s : State) (k off : Nat) : List Nat :=
  ((s.slotsIn k).filter fun p => p.1.kind == 3 && p.1.start == off).map fun p => p.1.job

/-- The slots of the cycle that start at an offset begin on their resources (R311). A slot of length 0 ends as it starts and runs nothing.
A TEST slot does not run in a draining device (16 R555), and a slot that would not end before TIME wraps is not run (19 R623). -/
def State.startSlots (s : State) (k t : Nat) : State :=
  let off := s.offUs t
  let ps := (s.slotsIn k).filter fun p => p.1.kind != 3 && p.1.start == off && decide (t % 1000 = 0) &&
    decide (0 < p.1.len) &&
    decide (t + p.1.len * 1000 < 2 ^ 64) && !(p.1.kind == 4 && s.dev.flagged)
  ps.foldl (fun (s : State) p => p.1.res.foldl (fun (s : State) q =>
    match resOf q with
    | some r => s.startSlot p t r
    | none => s) s) s

/-! ### The lock point -/

/-- What a cycle start brings before its slots start (R308; 12 R415, R419, R421; 14 R490, R491; 16 R555; 17 R570, R579). -/
def State.cycleStart (s : State) (t : Nat) : State :=
  let k := t / s.lcNs
  let s := if s.dev.flagged ∧ s.dev.st = .draining then s.drained else s
  let s := (s.shedDescend.arithSync).basinCycle k
  let s := s.changeAtCycle t
  let s := s.managerStart
  { s with lkp := { s.lkp with level := s.dev.shed.toNat, cycle := t / s.lcNs } }

/-- What the lock point at TIME t does. -/
def State.lockWork (s : State) (t : Nat) : State :=
  let s := s.setTime (BitVec.ofNat 64 t)
  let t := t % 2 ^ 64
  let first := !s.lkp.inForce
  let ending := s.endingRes t
  let jobs := s.endingJobs t
  let s := if first then s else { s with lkp := { s.lkp with lastLock := BitVec.ofNat 64 t } }
  let s := ending.foldl (fun (s : State) r => (s.endSlot r t).endTest r) s
  let s := (s.lkp.jobs.map (·.1)).foldl (fun (s : State) j => if s.trapDue ending j then s.narTrap j else s) s
  let s := (s.lkp.jobs.map (·.1)).foldl (fun (s : State) j => s.trapRequests j) s
  let s := jobs.foldl (fun (s : State) j => s.commit j t) s
  let s := s.raiseVectors jobs
  let s := ((s.applyEgrs.applyRas).applySwitches t).ctxAll.freeClosing
  let s := s.shedClimb
  let last := s.lkp.lastLock
  let s := if first || t % s.lcNs = 0 then s.cycleStart t else s
  if !s.lkp.inForce then s
  else if first then
    let s := { s with lkp := { s.lkp with lastLock := BitVec.ofNat 64 t, cycle := t / s.lcNs } }
    let s := (s.releasesAt s.lkp.cycle 0).foldl (fun (s : State) j => s.releaseSlot j) s
    s.startSlots s.lkp.cycle t
  else if s.lkp.lastLock ≠ last then s
  else
    let k := t / s.lcNs
    let s := (if t % 1000 = 0 then s.releasesAt k (s.offUs t) else []).foldl (fun (s : State) j => s.releaseSlot j) s
    s.startSlots k t

/-- The lock point at TIME t, with the records that it raises in their order (19 R619). -/
def State.lockPointAt (s : State) (t : Nat) : State := (s.lockWork t).orderRecords s.ras.seq

/-- TIME wraps (19 R621, R623): TIM_WRAP with TIMESTAMP 0; the wrap is a lock point that ends the cycle, and cycle 0 begins. -/
def State.wrap (s : State) : State :=
  let seq := s.ras.seq
  let s := s.raiseAt 0 { code := 0x070C }
  let s := (List.range 20).foldl (fun (s : State) k =>
    match resOf k with
    | some r => s.modU r fun u => { u with slot := u.slot.map fun a => { a with endT := 0 } }
    | none => s) s
  (s.lockWork 0).orderRecords seq

/-- LOCK_POINT: TIME moves on to the next lock point, and it acts; no schedule in force or accepted, there is none (R624). -/
def execLockPoint (s : State) : Host.Outcome State Fault Refusal :=
  .next (match s.lockAt with
    | some t => if t < 2 ^ 64 then s.lockPointAt t else s.wrap
    | none => s)

/-- POLDER_DRAINED (12 R415, R421): the cycle start at which the polder of the stage in progress, or of POLDER_DRAIN, is drained; with no
schedule in force a drained polder is held at once (10 R624). -/
def execPolderDrained (s : State) : Host.Outcome State Fault Refusal :=
  .next (
    let k? : Option Nat := match s.prf.chg with
      | .staging k _ => some k
      | .draining k _ => some k
      | _ => none
    match s.lockAt, k? with
    | none, some k => if s.polderDrained k then s.changeAtCycle 0 else s
    | some t, some k =>
      if 2 ^ 64 ≤ t then s
      else
        let n := s.lockPointAt t
        if n.prf.switched.getLsbD k ≠ s.prf.switched.getLsbD k || n.prf.held ≠ s.prf.held ||
            (n.prf.chg == .none && n.dev.profile ≠ s.dev.profile) then n else s
    | _, _ => s)

/-- FULL_DRAIN_SWITCH (12 R419): the cycle start at which the drained device switches, or the first multiple of the new lock cycle. -/
def execFullDrainSwitch (s : State) : Host.Outcome State Fault Refusal :=
  .next (match s.lockAt with
    | some t =>
      if 2 ^ 64 ≤ t ∨ !(s.prf.chg == .fullDrain || (s.prf.chg == .entering && s.prf.full)) then s
      else
        let n := s.lockPointAt t
        if n.prf.chg ≠ s.prf.chg then n else s
    | none => s)

/-- TIM_WRAP (19 R623). TIME stands at 0 afterwards. -/
def execTimWrap (s : State) : Host.Outcome State Fault Refusal := .next s.wrap

/-- With nothing to do, TIME moves on by 1 ns while the clocks run (19 R623), but neither past the last instant before the next lock
point nor past its largest value: LOCK_POINT and TIM_WRAP take it there. -/
def State.idle (s : State) : State :=
  let stop := (s.lockAt.getD (2 ^ 64))
  if !s.dev.held && decide (s.time.toNat + 1 < min stop (2 ^ 64)) then s.setTime (s.time + 1) else s

end Sys2Proof.Machine
end

