-- ==== Sys2Proof/Machine/Start.lean ====
section
/-! DEFINITION. Start-up (12_profiles_and_startup R391, R398, R404, R405, R409 to R412): the phases from the pins to the ready point,
recovery, and the resets that lead there (18 R599 to R603). A start runs its phases in one step. -/

namespace Sys2Proof.Machine

/-! ### Boot -/

/-- A boot header copy is valid (R390, R391). -/
def bootOk (b : List Byte) : Bool :=
  imgNat b 0 4 == 0xFD2F0B01 && imgNat b 4 2 == 1 && imgZero b 7 1 && imgZero b 12 4 && imgZero b 48 4016 &&
    imgDigest b 4064 == sm3 (b.take 4064)

/-- The boot header used: the valid copy whose SEQ is newer, copy 0 when neither is (R391). Where no copy is valid the spec says nothing:
slot A is then tried first and no key digest matches, the model's choice, log entry 66. -/
def State.bootHeader (s : State) : Option (List Byte) :=
  let a := s.flashRead 0 4096
  let b := s.flashRead 0x1000 4096
  let seq (x : List Byte) : W32 := BitVec.ofNat 32 (imgNat x 8 4)
  match bootOk a, bootOk b with
  | true, true => some (if newer32 (seq b) (seq a) then b else a)
  | true, false => some a
  | false, true => some b
  | false, false => none

/-- The version of the firmware in a slot as the flash holds it, where the ROM accepts the slot (R391, R392). -/
def State.fwOf (s : State) (k : Bool) : Option W32 :=
  Config.fwCheck Config.rilvasKey (s.flashRead (if k then 0x2100000 else 0x100000) 0x2000000)

/-- The firmware slot that starts, its version, and whether the preferred one was refused (R391), from the versions of the accepted
slots. -/
def pickFw (slot : Bool → Option W32) (pref : Bool) : Option (Bool × W32 × Bool) :=
  match slot pref, slot (!pref) with
  | some v, _ => some (pref, v, false)
  | none, some v => some (!pref, v, true)
  | none, none => none

/-! ### Profiles and the fault log -/

/-- Profile slot p as it loads (R404, R425). -/
def State.loadSlot (s : State) (p : Nat) (fw : W32) : PSlot :=
  let img := s.flashRead (0x4100000 + p * 0x100000) 0x100000
  let fault := profFault img s.prf.opKey fw
  let h := profHdr img
  if fault = 1 then { fault := 1 }
  else
    { fault := BitVec.ofNat 4 fault, image := if fault = 0 then img.take h.len else [], id := BitVec.ofNat 64 h.id
      minFw := BitVec.ofNat 32 h.minFw, role := BitVec.ofNat 2 h.role, auto := bitAt h.flags 0 }

/-- The four slots are checked; an invalid one raises PRF_INVALID (R404). -/
def State.loadSlots (s : State) (fw : W32) : State :=
  (List.finRange 4).foldl (fun (s : State) (p : Fin 4) =>
    let x := s.loadSlot p fw
    let s := { s with prf := { s.prf with slots := s.prf.slots.set p x } }
    if x.valid then s else s.raise { code := 0x0A02, addr := p, d0 := p, d1 := x.fault.toNat }) s

/-- The active half of the fault log is applied (R398); with none, a fresh checkpoint goes into half 0. Events that wait until the
device runs are raised at the ready point. -/
def State.restoreLog (s : State) : State × FLog × Bool :=
  match s.activeHalf with
  | some h =>
    let l := s.half h
    let f := flogOf l
    let last := l.foldl (fun m r => match r with | some x => x.1 + 1 | none => m + 1) (0 : W32)
    ({ s with prf := { s.prf with
        flogHalf := h, flogPos := l.length, flogSeq := last, flogBad := BitVec.ofNat 4 (min 15 f.bad) } }, f, false)
  | none => (s.checkpoint 0 {}, {}, true)

/-- What the log says of the lanes, the flag and the channels (R396; 03 R103). -/
def State.applyLog (s : State) (f : FLog) : State :=
  let word (n i : Nat) : Nat := (slook 0 f.bypass (4 * n + i)).toNat
  let s := (List.finRange 16).foldl (fun (s : State) (n : Fin 16) => s.modReach n fun x => { x with
    bypass := BitVec.ofNat 256 (word n 0 + word n 1 * 2 ^ 64 + word n 2 * 2 ^ 128 + word n 3 * 2 ^ 192) }) s
  let rows (c : Nat) : List RetRow :=
    (f.ret.filter fun e => e.1 == c).map (fun e =>
      { bank := e.2.2.1, row := e.2.2.2.1, state := if e.2.2.2.2 then .permanent else .pending, idx := e.2.1 }) ++
    (f.sppr.filter fun e => e.1 == c).map fun e => { bank := e.2.1, row := e.2.2, state := .repaired }
  let s := (List.finRange 4).foldl (fun (s : State) (d : Fin 4) => s.modMdie d fun m => { m with
    chans := Vector.ofFn fun (i : Fin 8) => { marked := f.marks.contains (8 * d.val + i.val), rows := rows (8 * d.val + i.val) } }) s
  { s with dev := { s.dev with flagged := f.flag.isSome } }

/-! ### Memory -/

/-- sPPR at training (11 R369, R370): a pending row is repaired and its entry freed, unless its bank's sPPR is in use; then the entry
becomes permanent. -/
def State.spprChan (s : State) (d : Fin 4) (i : Fin 8) : State :=
  let c := 8 * d.val + i.val
  let s := (s.mdie[d].chans[i].rows.filter fun r => r.state == .pending).foldl (fun (s : State) r =>
    let used := s.mdie[d].chans[i].rows.any fun q => q.state == .repaired && q.bank == r.bank
    let set (st : RowState) (s : State) : State := s.modMdie d fun m => { m with
      chans := m.chans.set i { m.chans[i] with
        rows := m.chans[i].rows.map fun q => if q = r then { q with state := st, idx := if st = .repaired then 0 else q.idx } else q } }
    if used then (set .permanent s).oweLog (recRetire c r.bank r.row r.idx 2)
    else
      (((set .repaired s).oweLog (recFree c r.idx)).oweLog (recSppr c r.bank r.row)).raise
        { code := 0x0307, kind := 2, part := d, addr := c, d0 := c, d1 := r.bank, d2 := r.row }) s
  s.modMdie d fun m => { m with
    chans := m.chans.set i { m.chans[i] with usable := true, sppr := m.chans[i].count .repaired } }

/-- UCIe training (11 R355), then DRAM training (R353, R356): mapped-out channels raise MEM_CHAN_OUT, and the layout of R359 is
fixed. -/
def State.trainMem (s : State) (b : StartIn) (rate lu : Nat) (spad : List Nat) : State :=
  let s := (List.finRange 4).foldl (fun (s : State) (d : Fin 4) =>
    let q := b.d2d[d]
    let s := s.modMdie d fun m => { m with
      d2d0 := q.1, d2d1 := q.2, repaired := b.repaired[d], spad := (spad[d.val]?).getD 0, cache := [], gone := false }
    let s := if q.1 = 3 then s else s.raise { code := 0x030B, kind := 2, part := d, addr := 0, d0 := q.1.toNat }
    if q.2 = 3 then s else s.raise { code := 0x030B, kind := 2, part := d, addr := 1, d0 := q.2.toNat }) s
  let good (d : Fin 4) (i : Fin 8) : Bool :=
    b.trained.getLsbD (8 * d.val + i.val) && !s.mdie[d].chans[i].marked && !(b.d2d[d].1 == 0 && b.d2d[d].2 == 0)
  let s := (List.finRange 4).foldl (fun (s : State) (d : Fin 4) => (List.finRange 8).foldl (fun (s : State) (i : Fin 8) =>
    let c := 8 * d.val + i.val
    if good d i then s.spprChan d i else s.raise { code := 0x030A, kind := 2, part := d, addr := c, d0 := c }) s) s
  let use := (List.range 32).filter fun c => if h : c / 8 < 4 then good ⟨c / 8, h⟩ ⟨c % 8, by omega⟩ else false
  let cd (d : Nat) : Nat := (use.filter fun c => c / 8 == d).length
  let n := use.length
  let s := (List.finRange 4).foldl (fun (s : State) (d : Fin 4) => s.modMdie d fun m => { m with
    localBase := BitVec.ofNat 11 (n * (45 - lu) + ((List.range d.val).map cd).foldl (· + ·) 0 * lu)
    localSize := BitVec.ofNat 11 (cd d.val * lu) }) s
  { s with dev := { s.dev with
      chanUsable := BitVec.ofNat 32 (use.foldl (fun m c => m + 2 ^ c) 0), dramUnits := 45 * n, lu, rate } }

/-! ### The ready point -/

/-- Reach tests (03 R103): lanes that fail are bypassed and logged. -/
def State.testReaches (s : State) (b : StartIn) : State :=
  let s := (List.finRange 16).foldl (fun (s : State) (n : Fin 16) => s.bypassLanes n b.lanes[n]) s
  { s with dev := { s.dev with reachOk := b.reachOk } }

/-- Bank 0 of every reach holds the selected profile's table (05 R168), when it passes R167. -/
def State.loadBanks (s : State) : State :=
  let tab := profSect (s.slotImg s.activeSlot) 4
  let ok := imgOk s.prf.sfuDigests tab
  (List.finRange 16).foldl (fun (s : State) (n : Fin 16) =>
    let s := s.modReach n fun (x : Reach) => { x with
      active := 0
      banks := #v[if ok then ({ state := .active, image := tab } : SfuBank) else {}, ({} : SfuBank)] }
    if ok then s else s.raise { code := 0x0108, kind := 1, part := n }) s

/-- The ready point (R409, R557; 18 R603): demands take effect, the ports are served, and an AUTO profile is activated or a worker
begins to join (14 R477). -/
def State.readyPoint (s : State) (b : StartIn) : State :=
  let s := { s with
    prf := { s.prf with ready := true }
    pwr := { s.pwr with warn := b.warn, crit := b.crit, clk := b.clkLost.setWidth 5 } }
  let x := (s.prf.slots[s.activeSlot]?).getD {}
  let s := if x.valid then ((s.useMap s.activeSlot).useFields s.activeSlot).loadBanks
    else ({ s with prf := { s.prf with semHold := Config.noProfile 6 } }).newPower {} (Config.noProfile 7)
  let s := s.demandMoved
  let s := { s with shadow := s.snapshot }
  if s.dev.flagged then
    { s with dev := { s.dev with st := .drained }, ras := { s.ras with cause := 5 } }
  else if !x.valid || s.dev.shed = 7 then s
  else if x.role = 1 then (if s.sec.idOk then s.modCpl fun c => { c with wstate := .joining } else s)
  else if x.auto then s.activate s.activeSlot false
  else s

/-- The IPv6 address of a prefix and a MAC address: the interface identifier is its modified EUI-64 (13 R440; PRESUMED, log 130). -/
def ipv6Addr (p : BitVec 64) (mac : BitVec 48) : BitVec 128 :=
  BitVec.ofNat 128 (p.toNat * 2 ^ 64 + (mac.toNat / 2 ^ 24 ^^^ 0x020000) * 2 ^ 40 + 0xFFFE * 2 ^ 24 + mac.toNat % 2 ^ 24)

/-- The management port's MAC address comes from the identity digest, and its link-local address from that (13 R440). -/
def Mgt.ownAddress (m : Mgt) (id : BitVec 256) : Mgt :=
  let mac := (id.setWidth 48 ||| BitVec.ofNat 48 (2 ^ 41)) &&& ~~~(BitVec.ofNat 48 (2 ^ 40))
  { m with mac, addrs := [ipv6Addr 0xFE80000000000000 mac] }

/-- Phases of a start after the firmware runs (R409). `dog`: the lockkeeper watchdog made the start (R412, R427). -/
def State.startRun (s : State) (b : StartIn) (slot : Bool) (fw : W32) (fell dog : Bool) : State :=
  let s := { s with
    prf := { s.prf with fwVersion := fw, fwSlot := slot, fallback := fell }
    sec := { s.sec with idDigest := sm3 Config.identityKey, idOk := b.idOk, rngOk := b.rngOk }
    mgt := s.mgt.ownAddress (sm3 Config.identityKey) }
  let s := if b.idOk then s else s.raise { code := 0x0601 }
  if !b.rngOk then s.raise { code := 0x0602 }
  else
    let s := { s with sec := { s.sec with masters := 1, draws := s.sec.draws + 1 } }
    let (s, f, none_) := s.restoreLog
    let s := s.applyLog f
    let s := s.loadSlots fw
    let x := (s.prf.slots[b.sel.toNat]?).getD {}
    let h := profHdr x.image
    let s := { s with
      prf := { s.prf with compiled := if x.valid then h.compiled else 248 } }
    let s := if x.valid then s.trainMem b h.rate h.lu h.spad
      else s.trainMem b (Config.noProfile 0 % 4) (Config.noProfile 1 % 41) ((List.range 4).map fun d => Config.noProfile (2 + d) % 13)
    let s := s.send (.pin 0 true)
    let s := (s.testReaches b).refreshUsable
    let s := { s with time := BitVec.ofNat 64 (Config.readyTime s.fresh).val }
    let s := if fell then s.raise { code := 0x0A01 } else s
    let s := if f.watchdog || dog then s.raise { code := 0x0A0C } else s
    let s := if none_ then s.raise { code := 0x0A0F } else s
    s.readyPoint b

/-- A start (R409 to R411): nothing is kept but the flash, and the pins are sampled, which name the slot that PROFILE, ACTIVE and TARGET
show (R405, R422). -/
def State.start (s : State) (b : StartIn) (dog : Bool := false) : State :=
  let s := { s.lost with
    fresh := s.fresh + 1, tap := s.tap, board := Config.nextStart s.fresh
    dev := { State.reset.dev with held := false, rstLow := false, profile := b.sel } }
  let s := { s with
    prf := { s.prf with pinSel := b.sel, pairSide := b.pairSide, target := b.sel }
    mgt := { s.mgt with mode := b.mgtMode } }
  let s := s.send (.pin 1 true)
  let hd := s.bootHeader
  let pref := (hd.map fun h => imgNat h 6 1 != 0).getD false
  let s := { s with prf := { s.prf with opKey := (hd.map fun h => imgDigest h 16).getD 0 } }
  match pickFw s.fwOf pref with
  | some (slot, fw, fell) => s.startRun b slot fw fell dog
  | none => { s with prf := { s.prf with recovery := true, fallback := true } }

/-- A warm reset (R412): the rails stay up. -/
def State.warmReset (s : State) (b : StartIn) (dog : Bool := false) : State := s.start b dog

/-- COLD_START (R409): at the rising edge of SYS_RST_N. `flash` is what the flash holds where others have written it meanwhile. -/
def execColdStart (b : StartIn) (flash : Option (List (Nat × Byte))) (s : State) : Host.Outcome State Fault Refusal :=
  .next (
    if !s.dev.rstLow then s
    else
      let s := match flash with
        | some l => { s with prf := { s.prf with
            flash := l.foldl (fun (m : List (Nat × Byte)) (p : Nat × Byte) => if p.1 < 0x20000000 then sput 0xFF m p.1 p.2 else m) [] } }
        | none => s
      ({ s with tap := { s.tap with ir := if s.tap.ir = TapIr.sample ∨ s.tap.ir = TapIr.extest then TapIr.bypass else s.tap.ir } }).start b)

/-- SYS_RST_N_LOW (18 R599, R601): every part is reset, and the outputs stand as R601 says. -/
def execSysRstNLow (s : State) : Host.Outcome State Fault Refusal :=
  .next ((({ s.lost with tap := s.tap }).send (.pin 0 false)).send (.pin 1 false))

/-- WATCHDOG_FIRE (R412): a WATCHDOG record goes to the fault log first when the flash is free. -/
def execWatchdogFire (b : StartIn) (s : State) : Host.Outcome State Fault Refusal :=
  .next (
    if s.dev.held || s.prf.recovery then s
    else
      let s := if s.prf.flashOp.isSome then s
        else s.flogAppend (8, flogBody [] (leBytes 8 s.time.toNat ++ leBytes 4 s.prf.fwVersion.toNat))
      s.warmReset b true)

/-- POWER_LOSS (17 R583): all but the flash is lost. -/
def execPowerLoss (s : State) : Host.Outcome State Fault Refusal := .next s.lost

end Sys2Proof.Machine
end

