-- ==== Sys2Proof/Machine/Sema.lean ====
section
/-! DEFINITION. Semaphores (13 R448, R449, R451): writes of SEM_n, and what link loss and the end of sessions free. -/

namespace Sys2Proof.Machine

/-- OWNER of a port (R451). -/
def ownerOf (p : Port) : BitVec 2 := BitVec.ofNat 2 (portNum p)

/-- A port holds a semaphore. -/
def State.holds (s : State) (p : Port) (n : Fin 32) : Bool := s.sem[n].owner == ownerOf p

/-- SEM_REFUSED (R449). -/
def State.semRefuse (s : State) : State := { s with semRefused := stick32 s.semRefused 1 }

/-- SEM_BROKEN (R449): the semaphore, its previous owner and HELD_MS, and the cause in the first detail word. -/
def State.semBreakEv (s : State) (n : Fin 32) (cause : Nat) : State :=
  let ms := s.heldMs n
  let s := { s with semBroken := stick32 s.semBroken 1 }
  s.raise { code := 0x0908, addr := n, d0 := cause, d1 := s.sem[n].owner.toNat, d2 := ms }

/-- A semaphore gets an owner now. -/
def State.semOwn (s : State) (n : Fin 32) (o : BitVec 2) : State :=
  { s with sem := s.sem.set n { owner := o, since := s.time } }

/-- Semaphores of an owner become FREE (R448): 1 host link down, 2 sessions ended. -/
def State.freeSems (s : State) (o : BitVec 2) (cause : Nat) : State :=
  (List.finRange 32).foldl (fun (s : State) (n : Fin 32) =>
    if s.sem[n].owner = o then (s.semBreakEv n cause).semOwn n 0 else s) s

/-- A write with TAKE alone. -/
def State.semTake (s : State) (p : Port) (n : Fin 32) : State := if s.sem[n].owner = 0 then s.semOwn n (ownerOf p) else s

/-- A write with RELEASE alone. -/
def State.semRelease (s : State) (p : Port) (n : Fin 32) : State :=
  if s.sem[n].owner = 0 then s else if s.holds p n then s.semOwn n 0 else s.semRefuse

/-- A write with BREAK alone. -/
def State.semBreak (s : State) (p : Port) (n : Fin 32) : State :=
  if s.sem[n].owner = 0 || s.holds p n then s
  else if s.prf.semHold ≤ s.heldMs n then (s.semBreakEv n 0).semOwn n (ownerOf p)
  else s.semRefuse

/-- A write of SEM_n (R448, R451). -/
def State.semWrite (s : State) (p : Port) (n : Fin 32) (v : W64) : State :=
  let t := bitAt v.toNat 3
  let r := bitAt v.toNat 4
  let b := bitAt v.toNat 5
  if b2n t + b2n r + b2n b > 1 then s.semRefuse
  else if t then s.semTake p n
  else if r then s.semRelease p n
  else if b then s.semBreak p n
  else s

end Sys2Proof.Machine
end

