-- ==== Sys2Proof/Machine/Secure.lean ====
section
/-! DEFINITION. Sessions that end, maintenance and debug state, attestation and the generator (15_security R505, R521 to R528,
R532, R533). -/

namespace Sys2Proof.Machine

/-! ### Maintenance state and the end of sessions -/

/-- Maintenance state is entered or left (15 R526): SEC_MAINT names the session. -/
def State.setMaint (s : State) (m : Bool) (session : W64) : State :=
  if s.sec.maint = m then s
  else ({ s with sec := { s.sec with maint := m } }).raise { code := 0x0607, addr := session.toNat, d0 := b2n m }

/-- A session ends (13 R444, R448; 15 R526): the last one frees the semaphores of the management port, and with no MAINTENANCE
session left maintenance state ends. -/
def State.endSession (s : State) (i : Fin 4) : State :=
  match s.mgt.sess[i] with
  | none => s
  | some x =>
    let s := { s with mgt := { s.mgt with sess := s.mgt.sess.set i none } }
    let s := if s.mgt.sess.toList.all (·.isNone) then s.freeSems 2 2 else s
    if s.mgt.sess.toList.any fun y => (y.map (·.maint)).getD false then s else s.setMaint false x.id

/-- EMP_SESSION_EXPIRE (13 R444): 30 s without an accepted request. -/
def execEmpSessionExpire (i : Fin 4) (s : State) : Host.Outcome State Fault Refusal := .next (s.endSession i)

/-! ### Debug state -/

/-- On-die memory is cleared (R528, order 4): reach stores, scratchpad, the LLC cache, staging, and the state of every reach and NMU. -/
def State.clearDie (s : State) : State :=
  let s := { s with
    mem := s.mem.filter fun c => decide (c.1 < 0xF000000000)
    poison := s.poison.filter fun l => decide (64 * l < 0xF000000000)
    mdie := s.mdie.map fun m => { m with cache := [] }
    lkp := { s.lkp with held := [] } }
  let s := (List.finRange 16).foldl (fun (s : State) (n : Fin 16) => s.modReach n fun x =>
    { x.clearWork with u := {}, barges := Vector.replicate 16 {}, dups := [], taper := {} }) s
  (List.finRange 4).foldl (fun (s : State) (d : Fin 4) => s.modNmu d fun x => { x with u := {}, wins := [], areas := [], poisonW := false }) s

/-- No schedule is in force and no profile runs (R528; 10 R624): the lockkeeper starts afresh, and the context table is that of the ready
point, with the commands that wait. A profile command at work ends as failed (the model's choice, log 128). -/
def State.forgetSchedule (s : State) : State :=
  let queue := s.ctx.queue
  let s := { s with
    lkp := { s.lkp with
      inForce := false, sched := {}, next := none, jobs := [], inRings := [], level := 0, cycle := 0, lastLock := 0 }
    ctx := {}
    prf := { s.prf with
      resState := if (s.prf.chg = Chg.none ∨ s.prf.op = 0) ∨ !s.prf.resMine then s.prf.resState else 3
      chg := .none, loads := [], initial := false, full := false, recheck := false, atCycle := none, switched := 0, held := 0
      limit := false, target := s.dev.profile, verified := [], kernels := [], kernelsNew := [], thresh := [], threshNew := [] }
    dev := { s.dev with st := .starting } }
  let s := if ((s.prf.slots[s.activeSlot]?).map PSlot.valid).getD false then s.useMap s.activeSlot else s
  { s with ctx := { s.ctx with queue } }

/-- The schedule ends, and whatever waited for one of its lock points or cycle starts acts now (R528; 10 R624). -/
def State.dropSchedule (s : State) : State :=
  let due := (s.lkp.vectors.map (·.1)).eraseDups
  let s := ({ s with lkp := { s.lkp with vectors := [] } }).freeClosing.forgetSchedule
  let s := due.foldl (fun (s : State) v => s.msix v) s
  let s := ((s.applyEgrs.applyRas).switchAll).ctxAll.freeClosing
  (s.shedClimb.shedDescend).arithSync

/-- Entry into debug state (R528) by a session. A generator that has failed draws no new master (R505). -/
def State.debugEnter (s : State) (session : W64) : State :=
  let s := s.haltSteps .aborted
  let s := (List.finRange 4).foldl (fun (s : State) (i : Fin 4) => s.endSession i) s
  let s := if s.cpl.node ≠ 0x7FFF then
      (s.leave (Config.leftCause 3)).modCpl fun c => { c with mstate := .none, master := false, owed := [] }
    else s.dropLinks
  let s := s.clearDie
  let s := ({ s with sec := { s.sec with debug := true } }).raise { code := 0x0608, addr := session.toNat }
  let s := if s.sec.rngOk then { s with sec := { s.sec with masters := 2, draws := s.sec.draws + 1 } } else s
  s.dropSchedule

/-- A write of SEC_MODE by a session with MAINTENANCE authority (R532). -/
def State.secMode (s : State) (session v : W64) : State :=
  let s := s.setMaint (bitAt v.toNat 0) session
  if bitAt v.toNat 1 && !s.sec.debug then s.debugEnter session else s

/-- SEC_AUTH_DENIED (R527): counted, and recorded with the port. -/
def State.authDenied (s : State) (p : Port) : State :=
  ({ s with sec := { s.sec with denied := stick32 s.sec.denied 1 } }).raise { code := 0x0603, kind := portKind p }

/-! ### Attestation (R521 to R524) -/

/-- Length of a DER value with its header. -/
def derLen (b : List Byte) : Nat :=
  let f (i : Nat) : Nat := ((b[i]?).map BitVec.toNat).getD 0
  if f 1 < 128 then 2 + f 1
  else 2 + (f 1 - 128) + ((List.range (f 1 - 128)).map fun i => f (2 + i)).foldl (fun n x => 256 * n + x) 0

/-- The certificates of the flash's chain region (R501). -/
def State.certChain (s : State) : List Byte :=
  let h := s.flashRead 0x10000 64
  s.flashRead (0x10000 + imgNat h 16 4) (min (imgNat h 20 4) 0x10000)

/-- The DER device certificate: the first of the chain. -/
def State.deviceCert (s : State) : List Byte := s.certChain.take (derLen s.certChain)

/-- SM3 over the running firmware slot's signed image (R521). -/
def State.fwDigest (s : State) : BitVec 256 :=
  sm3 (Config.fwImage (s.flashRead (if s.prf.fwSlot then 0x2100000 else 0x100000) 0x2000000))

/-- A staged change is in progress (R521): from its acceptance to its final switch. -/
def State.stagedChange (s : State) : Bool :=
  match s.prf.chg with
  | .staging _ _ => true
  | .loading => !s.prf.initial && !s.prf.full
  | _ => false

/-- The entries of one profile (R522). -/
def State.attEntries (s : State) (slot prof : Nat) : List Byte :=
  let img := s.slotImg slot
  if img.isEmpty then []
  else
    let ok := s.prf.digestOk.contains slot
    let entry (kind fl index : Nat) (d : BitVec 256) : List Byte :=
      leBytes 1 kind ++ leBytes 1 prof ++ leBytes 1 fl ++ leBytes 1 0 ++ leBytes 2 index ++ leBytes 2 0 ++ leBytes 32 d.toNat
    entry 5 (b2n ok) 0xFFFF (sm3 (profSect img 1)) ++
      (manEntries (profSect img 2)).zipIdx.flatMap fun e =>
        entry e.1.kind (b2n (if e.1.kind = 4 then s.prf.verified.contains (slot, e.2) else ok)) e.2 e.1.digest

/-- An attestation report (R521). -/
def State.report (s : State) (nonce : List Byte) (ctx : W32) : List Byte :=
  let with_ := bitAt ctx.toNat 31
  let c := bits ctx.toNat 0 20
  let x := s.ctxOf c
  let st := match x.state with | .free => 0 | .live => 1 | .closing => 2
  let act := s.activeSlot
  let tgt := if s.prf.chg = .none then act else s.prf.target.toNat
  let es := s.attEntries act 0 ++ (if s.stagedChange then s.attEntries s.prf.target.toNat 1 else [])
  let flags := b2n with_ + 2 * b2n s.sec.debug + 4 * b2n s.sec.maint + 8 * b2n s.stagedChange + 16 * b2n s.dev.flagged
  let dig (p : Fin 4) : Nat := if s.prf.slots[p].valid then (profDigest s.prf.slots[p].image).toNat else 0
  let b := leBytes 4 0xFD30A7E5 ++ leBytes 2 1 ++ leBytes 1 flags ++ leBytes 1 (s.dev.shed.toNat + act * 16 + tgt * 64) ++
    leBytes 8 (s.stamp s.time).toNat ++ (nonce ++ List.replicate 32 0).take 32 ++ leBytes 32 (sm3 s.deviceCert).toNat ++
    leBytes 32 s.fwDigest.toNat ++ leBytes 4 s.prf.fwVersion.toNat ++ leBytes 4 (if with_ then c + st * 2 ^ 24 else 0) ++
    leBytes 4 (if with_ then x.gen.toNat else 0) ++ leBytes 4 (es.length / 40) ++
    ((List.finRange 4).flatMap fun p => leBytes 32 (dig p)) ++ es
  b ++ (Config.sm2Sign s.sec.draws (sm3 b) ++ List.replicate 64 0).take 64

/-- One more draw of the generator. -/
def State.draw (s : State) : State := { s with sec := { s.sec with draws := s.sec.draws + 1 } }

/-- What stops a report: no identity or no randomness (R503, R505, R524); 0 for none. -/
def State.attStop (s : State) : Nat := if !s.sec.idOk then 0x0601 else if !s.sec.rngOk then 0x0602 else 0

/-- The last request failed with a code (R533). -/
def State.attFail (s : State) (code : Nat) : State :=
  { s with sec := { s.sec with att := none, attErr := true, attCode := BitVec.ofNat 16 code } }

/-- A write of SEC_ATT_CMD that RWL accepts (R524, R533). -/
def State.attCmd (s : State) (p : Port) (v : W64) : State :=
  let buf := bits v.toNat 6 34 * 64
  let old := s
  let s := { s with sec := { s.sec with attBuf := BitVec.ofNat 34 (bits v.toNat 6 34) } }
  if !bitAt v.toNat 0 then s
  else if s.sec.att.isSome then old.raise { code := 0x0609, kind := portKind p }
  else if s.attStop ≠ 0 then s.attFail s.attStop
  else if !s.inDram buf 328080 || decide (buf < 2 ^ 30) then
    (s.attFail 0x030D).raise { code := 0x030D, kind := portKind p, addr := buf }
  else
    let s := s.bump
    { s with sec := { s.sec with
      att := some { buf, port := p, nonce := s.read buf 32, ctx := BitVec.ofNat 32 (s.readNat (buf + 32) 4) } } }

/-- ATT_REPORT_DONE (R524). -/
def execAttReportDone (s : State) : Host.Outcome State Fault Refusal :=
  .next (match s.sec.att with
    | none => s
    | some q =>
      if s.attStop ≠ 0 then s.attFail s.attStop
      else
        let r := s.report q.nonce q.ctx
        let s := (s.draw).write q.buf r
        { s with sec := { s.sec with att := none, attErr := false, attCode := 0, attLen := BitVec.ofNat 32 r.length } })

/-- SEC_RNG_FAIL (R505): what needs fresh randomness stops until the next start. -/
def execSecRngFail (s : State) : Host.Outcome State Fault Refusal :=
  .next (if s.dev.held || !s.sec.rngOk then s else ({ s with sec := { s.sec with rngOk := false } }).raise { code := 0x0602 })

end Sys2Proof.Machine
end

