-- ==== Sys2Proof/WellFormed.lean ====
section
/-! DEFINITION. Which commands the outside can send: lengths and ranges that the types of their operands do not hold (12 R389; 13 R427 to
R432, R441; 14 R458). exec gives every command a meaning; the checks say which ones the interfaces carry. -/

namespace Sys2Proof

/-- A BAR2 request of 1 to `m` bytes that crosses no 4 KiB boundary and lies within the largest BAR2 (13 R427, R428). -/
def accessWf (off len m : Nat) : Bool :=
  decide (1 ≤ len) && decide (len ≤ m) && decide (off % 4096 + len ≤ 4096) && decide (off < 2 ^ 36)

/-- An EMP payload lies in one UDP datagram with the header and tag of 13 R441; one past 1,192 B is too long for the device. -/
def empWf (q : EmpReq) : Bool := decide (q.payload.length ≤ 65487)

/-- An access of BAR0 is of 1 to 4,096 bytes (13 R428, R429). -/
def bar0Wf : HostReq → Bool
  | .read len => decide (1 ≤ len) && decide (len ≤ 4096)
  | .write d => decide (1 ≤ d.length) && decide (d.length ≤ 4096)
  | .unsupported | .replayed => true

/-- An access of BAR4 is of one or two aligned 32-bit words (13 R428). -/
def msixWf : MsixOp → Bool
  | .write off d => (d.length == 4 || d.length == 8) && off.toNat % d.length == 0
  | .read off n => (n == 4 || n == 8) && off.toNat % n == 0
  | .function _ _ => true

/-- A trained link is 4, 8 or 16 lanes wide and runs at one of the five speeds (13 R428, R453). -/
def linkWf (width : BitVec 6) (speed : BitVec 3) : Bool :=
  (width == 4 || width == 8 || width == 16) && decide (1 ≤ speed.toNat) && decide (speed.toNat ≤ 5)

/-- A frame's payload is at most 4,104 B long (14 R458), and the marks name bytes of it. -/
def frameWf (x : RxFrame) : Bool := decide (x.payload.length ≤ 4104) && x.marks.all fun k => decide (k < x.payload.length)

/-- A command that the interfaces carry. -/
def Instr.wellFormed : Instr → Bool
  | .pciBadAccess _ req => bar0Wf req
  | .msixUnmask op => msixWf op
  | .pciLinkUp width speed _ _ => linkWf width speed
  | .coldStart _ flash => ((flash.map fun l => l.all fun p => decide (p.1 < 2 ^ 29)).getD true)
  | .bar2Read off len => accessWf off len 4096
  | .bar2Write off bs _ => accessWf off bs.length 512
  | .bar2Resize k => decide (28 ≤ k) && decide (k ≤ 36)
  | .icmpv6Echo bs => decide (bs.length ≤ 1232)
  | .patrolScrub _ found _ bs _ _ _ => found.val != 2 || bs.length == 64
  | .rowCopyDone _ _ _ bad => bad.all fun l => l.2.length == 64
  | .empRead q => empWf q
  | .empWrite q => empWf q
  | .attest q => empWf q
  | .empRestart q _ => empWf q
  | .recordAck q => empWf q
  | .chain q => empWf q
  | .sessionOpen q => empWf q
  | .clearFlag q _ => empWf q
  | .clearMark q _ => empWf q
  | .clearLane q _ => empWf q
  | .logRead q _ => empWf q
  | .empUnknownCmd _ q => empWf q
  | .data x => frameWf x
  | .rreq x => frameWf x
  | .rdata x => frameWf x
  | .ack x => frameWf x
  | .nak x => frameWf x
  | .hello x => frameWf x
  | .join x => frameWf x
  | .admitFrame x => frameWf x
  | .ctrlActivate x => frameWf x
  | .assume x => frameWf x
  | .fence x => frameWf x
  | .membership x => frameWf x
  | .active x => frameWf x
  | .mirrorRecords x => frameWf x
  | .mirrorAck x => frameWf x
  | .snapshotReq x => frameWf x
  | .snapshot x => frameWf x
  | .claim x => frameWf x
  | .refuse x => frameWf x
  | .record x => frameWf x
  | .status x => frameWf x
  | .offer x => frameWf x
  | .answer x => frameWf x
  | .confirm x => frameWf x
  | .tileMac _ | .wload _ | .wloadComplete _ | .tileElem _ | .openGrp _ | .closeGrp _ | .fwpw _ | .slotadd _ | .slotUpdate _
  | .add _ _ | .sub _ _ | .and _ _ | .or _ _ | .xor _ _ | .shl _ _ | .shr _ _ | .sra _ _ | .mul _ _ | .addi _ _ | .li _ _
  | .lih _ _ | .xld _ _ | .xst _ _ | .setvl _ _ | .br _ _ | .waiteq _ _ | .waiteqMatch _ | .yield _ _ | .endStep _ _
  | .trap _ _ | .vld _ _ | .vst _ _ | .vadd _ _ | .vsub _ _ | .vmul _ _ | .vfma _ _ | .vmax _ _ | .vmin _ _ | .vabs _ _
  | .vneg _ _ | .vcmp _ _ | .vsel _ _ | .vcvt _ _ | .vsplit _ _ | .vsum _ _ | .vsumsq _ _ | .vmaxi _ _ | .vmini _ _
  | .winmax _ _ | .winmin _ _ | .sfn _ _ | .gate _ _ | .wcomb _ _ | .wred _ _ | .rowstat _ _ | .wround _ _ | .wprod _ _
  | .quant _ _ | .sidex _ _ | .qcheck _ _ | .tq _ _ | .twait _ _ | .bissue _ _ | .bwait _ _ | .lrateCheck _ _
  | .lrateCommit _ _ | .lrateBiasc _ _ | .lrateReport _ _ | .fd1ShardUpdate _ _ | .bargeCopy _ _ | .bargeLanemajor _
  | .bargeTranspose _ | .bargeSplit _ | .bargeZero _ | .bargeComplete _ | .sfuReload _ _ _ | .sfuLoadDone _ | .sfuSwitch _ _
  | .counterClear _ _ _ | .registerWrite _ _ _ | .lockPoint | .lkpAbort _ _ _ | .nartrapRearm _ _ | .nartrapResume _ _
  | .create _ _ | .destroy _ _ | .ctxCmdEffect | .egrRingConfig _ _ _ _ | .egrHeadWrite _ _ _ | .admission | .activate _ _ _
  | .verify _ _ | .weightVerifyDone | .polderDrain _ _ | .polderResume _ _ | .polderResumeDone _ _ | .restart _ _
  | .polderDrained | .fullDrainSwitch | .chgDrainAbort | .flashRead _ _ | .flashErase _ _ | .flashProgram _ _
  | .flashOpDone _ _ | .faultLogAppend | .sysRstNLow | .watchdogFire _ | .pciePerstN _ | .hostPortReset _ | .b2WinWrite _ _
  | .hbqCmd _ _ | .hostBargeStart | .pciLinkDown _ | .pciCplTimeout _ _ | .neighbourDiscovery _
  | .empRecordSend | .empRecordResend | .empSessionExpire _ | .semTake _ _ | .semRelease _ _ | .semBreak _ _ | .cplLinkUp _
  | .cplLinkDown _ _ | .sync _ | .delayReq _ | .syncSend | .frameResend _ _ | .helloSend _ | .statusSend | .joinSend
  | .cplMemberLost _ | .cplMgrLost | .standbyTimeout | .claimTimeout | .standbyAckTimeout | .peerHelloTimeout
  | .fencedTimeout | .syncLoss | .rejoinTimer | .rekeyTimer _ _ | .keyxRetry _ | .oldKeyExpire _ | .basinSwitch _ _ _
  | .leave _ | .cplJoinCmd _ | .relieve _ _ | .debugEnter _ | .maintMode _ _ | .secAttCmd _ _ _ | .attReportDone
  | .secRngFail | .dupCheckResult _ _ _ | .dupRefereeResult _ _ _ | .dupSuspectResult _ _ _ | .dupAbandon _ _
  | .dupNoTaker _ _ | .testKernelDone _ _ _ | .rasTestLate _ | .errorRingWrite | .rasRingConfig _ _ _
  | .rasRingHeadWrite _ _ | .memD2dRetry _ | .d2dModuleDown _ _ _ | .pmbusPoll _ | .pmbAlert _ | .tempSample _ | .pwrWarn _
  | .pwrCrit _ | .pwrCritHold _ | .pwrDroop _ | .shedDescent | .vddArithSettle _ | .s7Stop | .pwrFloorWrite _ _ | .clkLoss _
  | .clkReturn _ | .ppsIn | .timPpsLost | .timWrap | .reservedControlWord _ _ _ | .reservedTileOp _ | .mgtLinkDown
  | .mgtLinkUp | .tapInstruction _ | .trstN _ | .delayReqSend | .delayResp _ | .droopDemandEnd | .powerLoss
  | .unexpectedCompletion => true

end Sys2Proof
end

