-- ==== Sys2Proof/Machine/Host.lean ====
section
/-! DEFINITION. The host port (13_host_and_management_ports R429 to R439; 12 R412; 18 R602): the BAR2 window, the host barge queue, MSI-X
masks, the link and the resets of the port, and its errors. -/

namespace Sys2Proof.Machine

/-! ### The BAR2 window -/

/-- The device address of byte `off` of BAR2 (R430). -/
def State.bar2Addr (s : State) (off : Nat) : Nat := s.pci.base.toNat * 2 ^ 28 + off

/-- PCI_B2_BAD (R430). -/
def State.b2Bad (s : State) : State := { s with pci := { s.pci with b2bad := stick32 s.pci.b2bad 1 } }

/-- RAS_DRAINED_REFUSED (16 R556). -/
def State.drainedRefuse (s : State) : State := { s with ras := { s.ras with refused := stick32 s.ras.refused 1 } }

/-- The device is DRAINING or DRAINED under 16 R555. -/
def State.draining (s : State) : Bool := s.dev.flagged && (s.dev.st == .draining || s.dev.st == .drained)

/-- A write by the host into a VERIFIED weight image clears its mark (12 R407). -/
def State.hostWrote (s : State) (a n : Nat) : State :=
  { s with prf := { s.prf with verified := s.prf.verified.filter fun p =>
      match (manEntries (profSect (s.slotImg p.1) 2))[p.2]? with
      | some e => !(decide (e.addr < a + n) && decide (a < e.addr + e.len))
      | none => true } }

/-- A request the port cannot serve completes with Completer Abort (R410, R430, R439). -/
def State.completerAbort (s : State) : State := (s.send (.pciCompletion 1 false [])).send (.aer 1 (some false))

/-- BAR2_READ (R430, R431): `len` bytes at byte `off` of the window. -/
def execBar2Read (off len : Nat) (s : State) : Host.Outcome State Fault Refusal :=
  .next (
    let a := s.bar2Addr off
    if s.dev.held || !s.pci.mse then s
    else if !s.prf.ready then s.completerAbort
    else if 6 ≤ s.dev.shed.toNat || !s.openMem a len || decide (2 ^ s.pci.size.toNat < off + len) then s.b2Bad.completerAbort
    else (s.llc a len).bump.send (.pciCompletion 0 (s.poisonedRange a len) (s.read a len)))

/-- BAR2_WRITE (R430, R431; 12 R407, 16 R556). `bad`: the TLP arrived poisoned. -/
def execBar2Write (off : Nat) (data : List Byte) (bad : Bool) (s : State) : Host.Outcome State Fault Refusal :=
  .next (
    let a := s.bar2Addr off
    if s.dev.held || !s.pci.mse || !s.prf.ready then s
    else
      let s := if bad then s.send (.aer 2 (some false)) else s
      if s.draining then s.drainedRefuse
      else if 6 ≤ s.dev.shed.toNat || !s.openMem a data.length || decide (2 ^ s.pci.size.toNat < off + data.length) then s.b2Bad
      else
        let s := ((s.write a data bad).hostWrote a data.length).llc a data.length
        if bad then s.raise { code := 0x0905, kind := 3, addr := a / 64 * 64 } else s)

/-- A write of PCI_B2_WIN that RWL accepts (R432, R453). The Bool says that R12 discards it. -/
def State.b2Win (s : State) (v : W64) : State × Bool :=
  let b := bits v.toNat 28 12
  if b % 2 ^ (s.pci.size.toNat - 28) ≠ 0 then (s, true)
  else ({ s with pci := { s.pci with base := BitVec.ofNat 12 b } }, false)

/-- BAR2_RESIZE (R428, R432): the log2 of the new size, 28 to 36. -/
def execBar2Resize (k : Nat) (s : State) : Host.Outcome State Fault Refusal :=
  .next (
    if s.dev.held || k < 28 || 36 < k then s
    else
      let g := 2 ^ (k - 28)
      { s with pci := { s.pci with size := BitVec.ofNat 6 k, base := BitVec.ofNat 12 (s.pci.base.toNat / g * g) } })

/-! ### The host barge queue -/

/-- A write of PCI_HBQ_CMD (R433). -/
def State.hbqCmd (s : State) (p : Port) (v : W64) : State :=
  if 64 ≤ s.pci.hbq.length then s.raise { code := 0x0906, kind := portKind p }
  else { s with pci := { s.pci with hbq := s.pci.hbq ++ [bits v.toNat 6 34 * 64] } }

/-- The host barge at work completes or fails (R434, R435). -/
def State.hostBargeEnd (s : State) (code : W16) : State :=
  let s := { s with pci := { s.pci with
    hbar := none, hbq := s.pci.hbq.drop 1, done := s.pci.done + 1, code := if code = 0 then s.pci.code else code } }
  if s.pci.hbq.isEmpty && s.pci.irqEn then s.msix s.pci.vector.toNat else s

/-- HOST_BARGE_START (R433, R434): the descriptor at the head of the queue is read; it waits at S6 (17 R581). -/
def execHostBargeStart (s : State) : Host.Outcome State Fault Refusal :=
  .next (match s.pci.hbq, s.pci.hbar with
    | a :: _, none =>
      if 6 ≤ s.dev.shed.toNat then s
      else if !s.openMem a 64 then
        (s.raise { code := 0x030D, kind := 7, part := 0x10, addr := a }).hostBargeEnd 0x030D
      else
        let s := s.bump
        { s with pci := { s.pci with hbar := some { desc := s.read a 64, busy := true } } }
    | _, _ => s)

/-! ### MSI-X -/

/-- Pending vectors that nothing masks any more are sent (R436). -/
def State.sendPending (s : State) : State :=
  if !s.pci.msixEn || !s.pci.up || s.pci.fmask then s
  else
    let due := s.pci.pend.filter s.pci.unmasked.contains
    due.foldl (fun (s : State) v => s.send (.msix v))
      { s with pci := { s.pci with pend := s.pci.pend.filter fun v => !s.pci.unmasked.contains v } }

/-- A 32-bit word of BAR4 (R428, R436): entry v of the table has words 4v to 4v + 3, of which the last holds its mask bit; the pending
bits follow from word 8,192 on. -/
def Pci.word4 (c : Pci) (i : Nat) : W32 :=
  if i < 8192 then
    (if i % 4 = 3 then (if c.unmasked.contains (i / 4) then 0 else 1) else slook 0 c.table i)
  else BitVec.ofNat 32 (((List.range 32).map fun k => if c.pend.contains (32 * (i - 8192) + k) then 2 ^ k else 0).foldl (· + ·) 0)

/-- A write of a word of BAR4; the pending bits are read-only. -/
def Pci.setWord4 (c : Pci) (i : Nat) (v : W32) : Pci :=
  if 8192 ≤ i then c
  else if i % 4 = 3 then { c with unmasked := if v.getLsbD 0 then setDel (i / 4) c.unmasked else setIns (i / 4) c.unmasked }
  else { c with table := sput 0 c.table i v }

/-- MSIX_UNMASK (R428, R436): masks are set or cleared, in the table or in the capability, and what nothing masks any more is sent; or
BAR4 is read. -/
def execMsixUnmask (op : MsixOp) (s : State) : Host.Outcome State Fault Refusal :=
  .next (if s.dev.held then s
    else match op with
    | .write off d =>
      if !s.pci.mse then s
      else
        let pci := (List.range (d.length / 4)).foldl (fun (c : Pci) k =>
          c.setWord4 (off.toNat / 4 + k) (BitVec.ofNat 32 (leNat ((d.drop (4 * k)).take 4)))) s.pci
        ({ s with pci }).sendPending
    | .read off n =>
      if !s.pci.mse then s
      else s.send (.pciCompletion 0 false ((List.range (n / 4)).flatMap fun k => leBytes 4 (s.pci.word4 (off.toNat / 4 + k)).toNat))
    | .function en m => ({ s with pci := { s.pci with msixEn := en, fmask := m } }).sendPending)

/-! ### The link -/

/-- A barge in flight that has begun to write host memory is cut off (R438). -/
def cutBarge (b : Barge) : Barge :=
  if b.busy ∧ b.moved ∧ (BDesc.ofBytes b.desc).dsp = 1 ∧ b.code = 0 then { b with code := 0x0903 } else b

/-- ENABLE of every egress ring clears. -/
def State.stopRings (s : State) : State :=
  { s with lkp := { s.lkp with
      egr := (s.lkp.egr.map fun (p : Nat × EgrRing) => (p.1, { p.2 with enable := false })).filter fun p => decide (p.2 ≠ ({} : EgrRing)) } }

/-- The host link counts as down (R437, R438, R448; 16 R560). -/
def State.linkDown (s : State) : State :=
  if !s.pci.up then s
  else
    let s := { s with pci := { s.pci with
      up := false, linkdn := stick32 s.pci.linkdn 1, hbar := s.pci.hbar.map cutBarge } }
    let s := s.raise { code := 0x0903, kind := 3 }
    let s := s.stopRings
    let s := { s with
      ras := { s.ras with ringEn := false }
      reach := s.reach.map fun (x : Reach) => { x with barges := x.barges.map cutBarge } }
    s.freeSems 1 1

/-- The port's configuration is lost, and ENABLE of every egress ring clears, a link that was down already or not (12 R412). -/
def State.resetHostPort (s : State) : State :=
  let s := s.linkDown.stopRings
  { s with pci := { s.pci with
    d0 := true, bme := false, mse := false, msixEn := false, fmask := false, size := 0x24
    base := BitVec.ofNat 12 (s.pci.base.toNat / 256 * 256), unmasked := [], pend := [], table := [] } }

/-- PCI_LINK_DOWN (R437): the link is lost, or Bus Master Enable becomes 0, or the function enters D3hot. -/
def execPciLinkDown (why : Fin 3) (s : State) : Host.Outcome State Fault Refusal :=
  .next (
    if s.dev.held then s
    else if why = 0 then
      let s := s.resetHostPort
      { s with pci := { s.pci with trained := false, width := 0, speed := 0 } }
    else
      let s := s.linkDown
      { s with pci := if why = 1 then { s.pci with bme := false } else { s.pci with d0 := false } })

/-- PCI_LINK_UP (R428, R437): trained at a width and speed that the port takes, in D0 with Bus Master Enable, and with what configuration
has set besides. Records held for rings that are enabled go out at the next lock point, or at once while no schedule is in force
(R438; 10 R624). -/
def execPciLinkUp (width : BitVec 6) (speed : BitVec 3) (msixEn fmask : Bool) (s : State) : Host.Outcome State Fault Refusal :=
  .next (
    if s.dev.held || s.pwr.clk.getLsbD 0 || !linkWf width speed then s
    else
      (({ s with pci := { s.pci with
        trained := true, d0 := true, bme := true, mse := true, up := true, width, speed, msixEn, fmask } }).sendPending).unlessForced
        State.applyEgrs)

/-- PCIE_PERST_N (18 R602): low resets the host port only; its release lets the link train. -/
def execPciePerstN (low : Bool) (s : State) : Host.Outcome State Fault Refusal :=
  .next (
    if s.dev.held || !low then s
    else
      let s := s.resetHostPort
      { s with pci := { s.pci with trained := false, width := 0, speed := 0 } })

/-- HOST_PORT_RESET (12 R412): a hot reset, or a Function Level Reset, which keeps the link trained. -/
def execHostPortReset (flr : Bool) (s : State) : Host.Outcome State Fault Refusal :=
  .next (
    if s.dev.held then s
    else
      let s := s.resetHostPort
      if flr then s else { s with pci := { s.pci with trained := false, width := 0, speed := 0 } })

/-! ### Errors -/

/-- UNEXPECTED_COMPLETION (R439): it is reported through AER and answers nothing. -/
def execUnexpectedCompletion (s : State) : Host.Outcome State Fault Refusal :=
  .next (if s.dev.held then s else s.send (.aer 4 none))

end Sys2Proof.Machine
end

