-- ==== Sys2Proof/Machine/Barge.lean ====
section
/-! DEFINITION. Barges from dispatch to completion (11_memory_system R366, R374 to R380; 13 R434, R435, R438; 14 R471, R473). A dispatch
makes every check and moves the bytes in one step; a read of a peer's memory goes on until its last RDATA. -/

namespace Sys2Proof.Machine

/-! ### The barge that a command names -/

/-- The barge of a reference. -/
def State.bargeAt (s : State) : BargeRef → Option Barge
  | .reach n t => some s.reach[n].barges[t]
  | .host => s.pci.hbar

/-- Change the barge of a reference. -/
def State.modBarge (s : State) (b : BargeRef) (f : Barge → Barge) : State :=
  match b with
  | .reach n t => s.modReach n fun x => { x with barges := x.barges.set t (f x.barges[t]) }
  | .host => { s with pci := { s.pci with hbar := s.pci.hbar.map f } }

/-- UNIT of a barge's SOURCE (19 R618). -/
def bargePart : BargeRef → Nat
  | .reach n _ => n
  | .host => 0x10

/-- The step that issued a barge is in flight and not stopped. -/
def State.bargeStep (s : State) (g : Barge) : Option StepRun :=
  (s.jobRun g.job).step.bind fun x => if x.no = g.step ∧ x.stop = .none then some x else none

/-- A barge ends with a code (07 R233; 13 R435). -/
def State.endBarge (s : State) (b : BargeRef) (code : W16) : State :=
  match b with
  | .reach n t => s.endReachBarge n t code
  | .host => s.hostBargeEnd code

/-- The context of a barge (R374; 13 R434). -/
def State.bargeCtx (s : State) (b : BargeRef) (g : Barge) : Nat :=
  match b with
  | .reach _ _ => ((s.job? g.job).map (·.ctx)).getD 0
  | .host => 0

/-- A barge fails with an event that fails its step (R375, R379): the unit that issued it stops. -/
def State.failBarge (s : State) (b : BargeRef) (g : Barge) (e : Ev) : State :=
  let s := s.raise { e with job := g.job, ctx := s.bargeCtx b g, kind := 7, part := bargePart b }
  let s := match b with
    | .reach n _ =>
      if (s.bargeStep g).isNone then s
      else
        let s := if s.working g.job n then s.stopUnit (.reach n) else s
        s.failJob g.job e.code
    | .host => s
  s.endBarge b (BitVec.ofNat 16 e.code)

/-! ### Checks at dispatch -/

/-- The bits of a coupling handle that must be zero (14 R471). -/
def handleBad (h : Nat) : Bool := bitAt h 63 || bits h 43 5 != 0

/-- Peer node and port of a handle. -/
def handleNode (h : Nat) : Nat := bits h 48 15
/-- The port of a handle. -/
def handlePort (h : Nat) : Nat := bits h 40 3

/-- Does the descriptor name a member of the step? -/
def BDesc.memberOf (d : BDesc) (x : Option StepRun) : Option Member := x.bind fun x => x.members[d.member]?

/-- A range lies where the barge may reach it (R374); `wr`: it is written. -/
def State.rangeOk (s : State) (g : Barge) (d : BDesc) (wr : Bool) (p : Nat × Nat) : Bool :=
  match storeReach p.1 with
  | some m =>
    match s.job? g.job with
    | some e =>
      let lo := storeBase m + e.rsBase
      let img := ((s.kernelOf g.job e.kernel).map fun b => imgNat b 12 4).getD 0
      bitAt (s.jobReaches g.job) m && decide (lo ≤ p.1) && decide (p.1 + p.2 ≤ lo + e.rsLen) &&
        (decide (p.1 + p.2 ≤ storeBase m + e.kbase) || decide (storeBase m + e.kbase + img ≤ p.1))
    | none => false
  | none =>
    let c := match d.memberOf (s.bargeStep g) with
      | some m => m.ctx
      | none => ((s.job? g.job).map (·.ctx)).getD 0
    (s.ctxOf c).regions.any fun r => r.covers p.1 p.2 && (if wr then r.wr else r.rd)

/-- The event of one range, 0 for none (R374, R375; 13 R434). -/
def State.rangeEvent (s : State) (b : BargeRef) (g : Barge) (d : BDesc) (wr : Bool) (p : Nat × Nat) : Nat :=
  match b with
  | .host => if s.openMem p.1 p.2 then 0 else 0x030D
  | .reach _ _ => if !s.addrOk p.1 p.2 then 0x030D else if !s.rangeOk g d wr p then 0x030C else 0

/-- The first range that fails its check, with its event. -/
def State.badRange (s : State) (b : BargeRef) (g : Barge) (d : BDesc) : Option (Nat × Nat) :=
  let go (wr : Bool) (rs : List (Nat × Nat)) : Option (Nat × Nat) := rs.findSome? fun p =>
    let e := s.rangeEvent b g d wr p
    if e = 0 then none else some (e, p.1)
  match go false d.reads with
  | some x => some x
  | none => go true d.writes

/-- The descriptor breaks R379 or, on a coupling space, 14 R471. -/
def State.descBad (s : State) (b : BargeRef) (g : Barge) (d : BDesc) : Bool :=
  let members := (((s.bargeStep g).map fun x => x.members.length)).getD 0
  let role := ((s.job? g.job).map fun e => e.role != 0).getD false
  d.bad members (b == .host) role || (d.ssp == 2 && handleBad d.src) || (d.dsp == 2 && handleBad d.dst)

/-! ### Issue order (R380) -/

/-- The canal stop that serves a device address (01 R21): 0 to 15 the reaches, 16 to 19 the M-dies. -/
def State.stopOf (s : State) (a : Nat) : Option Nat :=
  match storeReach a with
  | some m => some m.val
  | none => (s.mdieOf a).map fun d => 16 + d.val

/-- The stops of device ranges. -/
def State.stopsOf (s : State) (rs : List (Nat × Nat)) : List Nat :=
  (rs.flatMap fun p => (linesOf p.1 p.2).filterMap fun line => s.stopOf (64 * line)).eraseDups

/-- The stops that a barge of reach n takes its data from: 20 is the host port's, 21 the coupling ports'. ZERO takes none. -/
def State.srcStops (s : State) (d : BDesc) : List Nat :=
  if d.kind = 5 then [] else if d.ssp = 0 then s.stopsOf d.reads else [19 + d.ssp]

/-- The stops that a barge's data go to. -/
def State.dstStops (s : State) (d : BDesc) : List Nat :=
  s.stopsOf d.writes ++ if d.dsp = 0 then [] else [19 + d.dsp]

/-- A barge has more to write: it has not dispatched, or reads a peer's memory, or owes a digest. -/
def State.stillWrites (s : State) (n : Fin 16) (k : Fin 16) (g : Barge) : Bool :=
  g.busy && (!g.moved || (BDesc.ofBytes g.desc).dig || s.cpl.reads.any fun r => r.reach == n.val && r.tag == k.val && !r.dead)

/-- Two barges write over one coupling port to one node (14 R473). -/
def sameFlow (d e : BDesc) : Bool :=
  d.dsp == 2 && e.dsp == 2 && handlePort d.dst == handlePort e.dst && handleNode d.dst == handleNode e.dst

/-- An earlier barge of the same reach, from a common source stop to a common destination stop or over one coupling port to one node, has
more to write: this one writes after it (01 R23, 11 R380, 14 R473). -/
def State.bargeBehind (s : State) (b : BargeRef) (g : Barge) (d : BDesc) : Bool :=
  match b with
  | .reach n _ =>
    (List.finRange 16).any fun k =>
      let h := s.reach[n].barges[k]
      let e := BDesc.ofBytes h.desc
      decide (h.nth < g.nth) && s.stillWrites n k h &&
        ((s.srcStops e).any (s.srcStops d).contains && (s.dstStops e).any (s.dstStops d).contains || sameFlow d e)
  | .host => false

/-! ### Moving bytes -/

/-- A byte on its way with the mark of the line that it came from (R365). -/
abbrev MByte := Byte × Bool

/-- `n` bytes of device memory with their marks. -/
def State.markedRead (s : State) (a n : Nat) : List MByte :=
  (List.range n).map fun i => (s.byte (a + i), s.poisoned ((a + i) / 64))

/-- Marked bytes are written line by line: a poisoned byte marks its line (R365); at most `fuel` lines. -/
def State.markedGo (s : State) (a : Nat) (bs : List MByte) : (fuel : Nat) → State
  | 0 => s
  | f + 1 =>
    if bs.isEmpty then s
    else
      let k := 64 - a % 64
      let now := bs.take k
      (s.writeLine a (now.map (·.1)) (now.any (·.2))).markedGo (a + k) (bs.drop k) f

/-- Marked bytes are written from `a` on. -/
def State.markedWrite (s : State) (a : Nat) (bs : List MByte) : State := s.markedGo a bs (bs.length / 64 + 2)

/-- Element i of a row, of `w` bits, with its mark (02 R41, R42). -/
def rowElem (w : Nat) (row : List MByte) (i : Nat) : Nat × Bool :=
  if w = 4 then
    let x := (row[i / 2]?).getD (0, false)
    (bits x.1.toNat (4 * (i % 2)) 4, x.2)
  else
    let xs := (row.drop (w / 8 * i)).take (w / 8)
    (leNat (xs.map (·.1)), xs.any (·.2))

/-- Elements of `w` bits as bytes, with their marks. -/
def packElems (w : Nat) : List (Nat × Bool) → List MByte
  | [] => []
  | [x] => if w = 4 then [(BitVec.ofNat 8 x.1, x.2)] else (leBytes (w / 8) x.1).map fun b => (b, x.2)
  | x :: y :: es =>
    if w = 4 then (BitVec.ofNat 8 (x.1 + 16 * y.1), x.2 || y.2) :: packElems w es
    else ((leBytes (w / 8) x.1).map fun b => (b, x.2)) ++ packElems w (y :: es)

/-- The bytes of source row r: of device memory, or of what a host source delivers. -/
def State.srcRow (s : State) (d : BDesc) (input : List Byte) (r : Nat) : List MByte :=
  if d.ssp = 0 then s.markedRead (d.src + r * d.spitch) d.rowBytes
  else ((input.drop (r * d.rowBytes)).take d.rowBytes).map fun x => (x, false)

/-- Every source row. -/
def State.srcRows (s : State) (d : BDesc) : List (List MByte) := (List.range d.rows).map (s.srcRow d [])

/-- Source bytes go into the digest (R378). -/
def State.digestTakes (s : State) (b : BargeRef) (dig : Bool) (row : List MByte) : State :=
  if dig then s.modBarge b fun g => { g with got := g.got ++ row.map (·.1), gotBad := g.gotBad || row.any (·.2) } else s

/-- A host barge's write to device memory counts as the host's (12 R407). -/
def State.bargeWrote (s : State) (b : BargeRef) (a n : Nat) : State := if b == .host then s.hostWrote a n else s

/-- Bytes leave for a peer in DATA frames of at most 4,096 bytes (14 R459), at most `fuel` of them. -/
def State.sendData (s : State) (h ctx job : Nat) (bs : List Byte) : (fuel : Nat) → State
  | 0 => s
  | f + 1 =>
    if bs.isEmpty then s
    else
      (s.sendFrame (handlePort h) (handleNode h) 1 0 ctx job (leBytes 8 (h % 2 ^ 40) ++ bs.take 4096)).sendData
        (h + 4096) ctx job (bs.drop 4096) f

/-- One row of a COPY reaches its destination; the Bool says that a poisoned byte stopped it (R366). -/
def State.putRow (s : State) (b : BargeRef) (d : BDesc) (ctx job r : Nat) (row : List MByte) : State × Bool :=
  let a := d.dst + r * d.dpitch
  if d.dsp = 0 then ((s.markedWrite a row).bargeWrote b a row.length, false)
  else
    let ok := (row.takeWhile fun x => !x.2).map (·.1)
    let s := if ok.isEmpty then s
      else if d.dsp = 1 then s.send (.hostWrite a ok)
      else s.sendData a ctx job ok (ok.length / 4096 + 1)
    (s, decide (ok.length < row.length))

/-- Rows of a COPY from row r on, with what a host source delivers. -/
def State.copyRows (s : State) (b : BargeRef) (d : BDesc) (ctx job : Nat) (input : List Byte) (r : Nat) :
    (rows : Nat) → State × Bool
  | 0 => (s, false)
  | k + 1 =>
    let row := s.srcRow d input r
    let s := if d.ssp = 1 then s.send (.hostRead (d.src + r * d.spitch) d.rowBytes) else s
    let s := if d.ssp = 0 then s.notePoison job (d.src + r * d.spitch) d.rowBytes else s
    let (s, stop) := (s.digestTakes b d.dig row).putRow b d ctx job r row
    if stop then (s, true) else s.copyRows b d ctx job input (r + 1) k

/-- Requests for one row of a peer's memory, of at most 4,096 bytes each (14 R459, R473), at most `fuel` of them. -/
def State.askRow (s : State) (n t : Nat) (d : BDesc) (ctx job src dst len : Nat) : (fuel : Nat) → State
  | 0 => s
  | f + 1 =>
    if len = 0 then s
    else
      let k := min len 4096
      let p := handlePort src
      let q := handleNode src
      let seq := (s.cpl.flow p q).next
      let s := s.sendFrame p q 2 (BitVec.ofNat 32 k) ctx job (leBytes 8 (src % 2 ^ 40) ++ leBytes 8 dst)
      let x : RemRead := { port := p, node := q, seq, space := d.dsp, dst, len := k, reach := n, tag := t }
      let s := s.modCpl fun c => { c with reads := c.reads ++ [x] }
      s.askRow n t d ctx job (src + k) (dst + k) (len - k) f

/-- Requests for every row. -/
def State.askRows (s : State) (b : BargeRef) (d : BDesc) (ctx job : Nat) : State :=
  match b with
  | .reach n t => (List.range d.rows).foldl (fun (s : State) r =>
      s.askRow n t d ctx job (d.src + r * d.spitch) (d.dst + r * d.dpitch) d.rowBytes (d.rowBytes / 4096 + 1)) s
  | .host => s

/-- Row r of a split: its pieces, its prescale and the elements that do not split exactly (04 R141, R142). -/
def splitRow (row : List MByte) : List MByte × List MByte × List MByte × Int × Bool × List Nat :=
  let bad := row.any (·.2)
  let vs := (List.range (row.length / 4)).map fun i => decode .p32 0 (rowElem 32 row i).1
  let sigma := splitSigma vs
  let ps := vs.map (splitElem sigma)
  let piece (get : Nat × Nat × Nat → Nat) : List MByte :=
    packElems 16 (ps.map fun p => ((p.map get).getD 0x8000, bad))
  (piece (·.1), piece (·.2.1), piece (·.2.2), sigma, bad,
   (List.range ps.length).filter fun i => ((ps[i]?).getD none).isNone)

/-- SPLIT_INEXACT of a barge (04 R142): the element's address and the row's prescale; the barge's code is the event. -/
def State.bargeInexact (s : State) (b : BargeRef) (g : Barge) (sigma : Int) (a : Nat) : State :=
  let s := s.raise { code := 0x0205, job := g.job, ctx := s.bargeCtx b g, kind := 7, part := bargePart b, addr := a,
                     d0 := (sigma % (2 ^ 64 : Nat)).toNat }
  s.modBarge b fun (g : Barge) => { g with code := 0x0205 }

/-- The transfer of a kind other than COPY (R377). -/
def State.moveKind (s : State) (b : BargeRef) (g : Barge) (d : BDesc) : State :=
  let w := d.width
  let rows := s.srcRows d
  let put (s : State) (a : Nat) (bs : List MByte) : State := (s.markedWrite a bs).bargeWrote b a bs.length
  let s := if d.kind = 5 then s
    else (List.range d.rows).foldl (fun (s : State) r => s.notePoison g.job (d.src + r * d.spitch) d.rowBytes) s
  let s := if d.kind = 5 then s else rows.foldl (fun (s : State) row => s.digestTakes b d.dig row) s
  match d.kind with
  | 2 =>
    (List.range d.elems).foldl (fun (s : State) j =>
      let col := rows.map fun row => rowElem w row j
      put s (d.dst + j * d.cbytes) (packElems w (col ++ List.replicate (128 - d.rows) (0, false)))) s
  | 3 =>
    (List.range d.elems).foldl (fun (s : State) i =>
      put s (d.dst + i * d.dpitch) (packElems w (rows.map fun row => rowElem w row i))) s
  | 4 =>
    rows.zipIdx.foldl (fun (s : State) (p : List MByte × Nat) =>
      let q := splitRow p.1
      let a := d.dst + p.2 * d.dpitch
      let s := put s a q.1
      let s := put s (a + d.pstride) q.2.1
      let s := put s (a + 2 * d.pstride) q.2.2.1
      let s := put s (d.siga + p.2) [(BitVec.ofInt 8 q.2.2.2.1, q.2.2.2.2.1)]
      q.2.2.2.2.2.foldl (fun (s : State) i => s.bargeInexact b g q.2.2.2.1 (d.src + p.2 * d.spitch + 4 * i)) s) s
  | _ =>
    (List.range d.rows).foldl (fun (s : State) r =>
      put s (d.dst + r * d.dpitch) (List.replicate d.rowBytes (0, false))) s

/-! ### Dispatch -/

/-- A barge meets poison on its way to host memory or to a peer (R366, R367; 13 R434): its job consumes it, unless its step is over. -/
def State.bargePoison (s : State) (b : BargeRef) (g : Barge) : State :=
  match b with
  | .host => s.failBarge b g { code := 0x0303 }
  | .reach _ _ =>
    match s.bargeStep g with
    | some x => s.failBarge b g { code := 0x0303, addr := x.poison.getD 0 }
    | none => s.endBarge b 0x0303

/-- The address of the first poisoned source byte of a host barge. -/
def State.firstPoison (s : State) (d : BDesc) : Nat :=
  ((d.reads.findSome? fun p => ((linesOf p.1 p.2).find? s.poisoned).map (64 * ·))).getD 0

/-- A host or coupling link that a barge needs is down: its code (13 R438; 14 R471), 0 for none. -/
def State.bargeLink (s : State) (d : BDesc) : W16 :=
  if (d.ssp == 1 || d.dsp == 1) && !s.pci.up then 0x0903
  else if (d.ssp == 2 && !s.portUp (handlePort d.src)) || (d.dsp == 2 && !s.portUp (handlePort d.dst)) then 0x0501
  else 0

/-- A barge dispatches (R375, R379): `kind` says which kinds the command names, `cut` that the host's completions timed out after
`input`, whatever the host link does meanwhile (13 R438). A COPY from host memory is not dispatched with less than it reads, nor a
barge before those that R380 puts ahead of it. -/
def State.dispatch (s : State) (b : BargeRef) (kinds : Nat → Bool) (input : List Byte) (cut : Bool) : State :=
  match s.bargeAt b with
  | none => s
  | some g =>
    let d := BDesc.ofBytes g.desc
    let host := d.ssp == 1 && d.kind == 1
    if !g.busy || g.moved || !kinds d.kind || (cut && !host) ||
        (!cut && host && decide (input.length < d.rows * d.rowBytes)) || s.bargeBehind b g d then s
    else if s.descBad b g d then s.failBarge b g { code := 0x030E }
    else if s.bargeLink d ≠ 0 ∧ !(cut && s.bargeLink d == 0x0903) then
      let s := if s.bargeLink d = 0x0501 then
          s.raise { code := 0x0501, job := g.job, ctx := s.bargeCtx b g, kind := 7, part := bargePart b }
        else s
      s.endBarge b (s.bargeLink d)
    else
      match s.badRange b g d with
      | some e => s.failBarge b g { code := e.1, addr := e.2 }
      | none =>
        let s := d.reads.foldl (fun (s : State) p => s.llc p.1 p.2 !d.noalloc) s
        let s := d.writes.foldl (fun (s : State) p => s.llc p.1 p.2) s
        let s := s.bump.modBarge b fun g => { g with moved := true }
        let ctx := s.bargeCtx b g
        if d.kind ≠ 1 then s.moveKind b g d
        else if d.ssp = 2 then s.askRows b d ctx g.job
        else
          let rows := if cut then min d.rows (input.length / d.rowBytes) else d.rows
          let first := s.firstPoison d
          let (s, stop) := s.copyRows b d ctx g.job input 0 rows
          if stop then
            (match b with
             | .host => s.failBarge b g { code := 0x0303, addr := first }
             | .reach _ _ => s.bargePoison b g)
          else if cut then
            let rest := input.drop (rows * d.rowBytes)
            let s := if d.rows ≤ rows then s else s.send (.hostRead (d.src + rows * d.spitch) d.rowBytes)
            let s := if rest.isEmpty ∨ d.rows ≤ rows then s
              else (s.putRow b d ctx g.job rows (rest.map fun x => (x, false))).1
            let s := { s with pci := { s.pci with cplto := stick32 s.pci.cplto 1 } }
            let s := (s.send (.aer 3 none)).raise
              { code := 0x0904, job := g.job, ctx, kind := 7, part := bargePart b }
            s.endBarge b 0x0904
          else s

/-- COPY (R376, R377), and a descriptor whose KIND is reserved, which R379 refuses. -/
def execBargeCopy (b : BargeRef) (input : List Byte) (s : State) : Host.Outcome State Fault Refusal :=
  .next (s.dispatch b (fun k => decide (k < 2 ∨ 5 < k)) input false)

/-- LANEMAJOR (R377). -/
def execBargeLanemajor (b : BargeRef) (s : State) : Host.Outcome State Fault Refusal := .next (s.dispatch b (· == 2) [] false)

/-- TRANSPOSE (R377). -/
def execBargeTranspose (b : BargeRef) (s : State) : Host.Outcome State Fault Refusal := .next (s.dispatch b (· == 3) [] false)

/-- SPLIT (R377; 04 R141, R142). -/
def execBargeSplit (b : BargeRef) (s : State) : Host.Outcome State Fault Refusal := .next (s.dispatch b (· == 4) [] false)

/-- ZERO (R377). -/
def execBargeZero (b : BargeRef) (s : State) : Host.Outcome State Fault Refusal := .next (s.dispatch b (· == 5) [] false)

/-- PCI_CPL_TIMEOUT (13 R438): a barge that reads host memory has had no completion for 50 ms; `input` is what came before. -/
def execPciCplTimeout (b : BargeRef) (input : List Byte) (s : State) : Host.Outcome State Fault Refusal :=
  .next (s.dispatch b (· == 1) input true)

/-! ### Completion -/

/-- A read of a peer's memory by the barge goes on (14 R473). -/
def State.bargeReading (s : State) : BargeRef → Bool
  | .reach n t => s.cpl.reads.any fun r => r.reach == n.val && r.tag == t.val && !r.dead
  | .host => false

/-- BARGE_COMPLETE (R378, R380; 13 R435): the digest is written after the last data, and the barge is over. -/
def execBargeComplete (b : BargeRef) (s : State) : Host.Outcome State Fault Refusal :=
  .next (match s.bargeAt b with
    | none => s
    | some g =>
      if !g.busy || !g.moved || s.bargeReading b then s
      else
        let d := BDesc.ofBytes g.desc
        let s := if d.dig && (g.code == 0 || g.code == 0x0205) then
            (s.write d.diga (leBytes 32 (sm3 g.got).toNat) g.gotBad).bargeWrote b d.diga 32
          else s
        let s := s.modBarge b fun g => { g with got := [], gotBad := false }
        s.endBarge b g.code)

end Sys2Proof.Machine
end

