-- ==== Sys2Proof/Machine/Flash.lean ====
section
/-! DEFINITION. Flash operations of the ports (12_profiles_and_startup R389, R399, R411, R426). -/

namespace Sys2Proof.Machine

/-- What a port may do to a page at a flash offset (R389, R399): READ, and ERASE or PROGRAM. -/
def State.flashMay (s : State) (a : Nat) (write : Bool) : Bool :=
  let slot (k : Bool) : Bool := !write || s.prf.recovery || s.prf.fwSlot != k
  if a < 0x2000 then true
  else if 0x10000 ≤ a ∧ a < 0x20000 then !write
  else if 0x100000 ≤ a ∧ a < 0x2100000 then slot false
  else if 0x2100000 ≤ a ∧ a < 0x4100000 then slot true
  else if 0x4100000 ≤ a ∧ a < 0x4500000 then true
  else if 0x8000000 ≤ a ∧ a < 0x9000000 then !write
  else false

/-- The buffer of an operation lies in DRAM in use outside the device area, or in recovery in the staging memory (R399, R411). -/
def State.flashBuf (s : State) (a n : Nat) : Bool :=
  if s.prf.recovery then decide (a + n ≤ 0x4000000) else s.inDram a n && decide (2 ^ 30 ≤ a)

/-- A command is within the rules of R399 and R426. -/
def State.flashOk (s : State) (op pages : Nat) : Bool :=
  let a := s.prf.flashAddr.toNat
  let n := 256 * pages
  let unit := if op = 2 then 0x10000 else 256
  s.prf.flashOp.isNone && decide (1 ≤ pages) && a % unit == 0 && n % unit == 0 &&
    (List.range pages).all (fun i => s.flashMay (a + 256 * i) (op != 1)) &&
    (op == 2 || s.flashBuf s.prf.flashDev.toNat n)

/-- A write of PRF_FLASH_CMD that its lock accepts (R426). -/
def State.flashCmd (s : State) (p : Port) (v : W64) : State :=
  let op := bits v.toNat 30 2
  let pages := bits v.toNat 0 25
  let cmd := BitVec.ofNat 64 (op * 2 ^ 30 + pages)
  if op = 0 then { s with prf := { s.prf with flashCmd := cmd } }
  else if !s.flashOk op pages then s.raise { code := 0x0A0A, kind := portKind p }
  else { s with prf := { s.prf with
    flashCmd := cmd, flashDone := 0
    flashOp := some { op, addr := s.prf.flashAddr.toNat, dev := s.prf.flashDev.toNat, pages, port := p } } }

/-- The effect of the first `k` pages of an operation. -/
def State.flashDo (s : State) (q : FlashOp) (k : Nat) : State :=
  match q.op with
  | 1 => s.write q.dev (s.flashRead q.addr (256 * k))
  | 2 => s.flashErase q.addr (256 * k)
  | _ => s.bump.flashWrite q.addr (s.bump.read q.dev (256 * k))

/-- FLASH_OP_DONE (R426, R427): the operation ends; a failure comes after `done` pages. -/
def execFlashOpDone (ok : Bool) (done : BitVec 25) (s : State) : Host.Outcome State Fault Refusal :=
  .next (match s.prf.flashOp with
    | none => s
    | some q =>
      let k := if ok then q.pages else min done.toNat (q.pages - 1)
      let s := s.flashDo q k
      let s := { s with prf := { s.prf with
        flashOp := none, flashDone := BitVec.ofNat 32 k, flashErr := !ok, flashCode := if ok then 0 else 0x0A0B } }
      if ok then s else s.raise { code := 0x0A0B, kind := portKind q.port, addr := q.addr + 256 * k })

end Sys2Proof.Machine
end

