-- ==== Sys2Proof/Machine/Frames.lean ====
section
/-! DEFINITION. Transport frames as they arrive (14_coupling R457 to R459, R469 to R473; 15 R515): what every frame is checked for, flows and
their acknowledgements, and remote access. -/

namespace Sys2Proof

/-- The frame's header keeps R458 and R459 for a frame of its TYPE: VER, LEN and the bits that are zero, AUX where the TYPE has no use for
it, and SEQ 0 on HELLO and ACK. -/
def RxFrame.headOk (x : RxFrame) (ftype : Nat) : Bool :=
  x.ver == 1 && x.typ.isNone && x.len.isNone && x.zero && decide (x.payload.length ≤ 4104) &&
    ([2, 5, 7, 9, 10, 11].contains ftype || x.aux == 0) && (!(ftype == 4 || ftype == 6) || x.seq == 0)

end Sys2Proof

namespace Sys2Proof.Machine

/-! ### Ports (R457) -/

/-- UNCORR_CNT of a port (R497). -/
def State.uncorr (s : State) (p : Fin 8) (words : Nat) : State :=
  if words = 0 then s else s.modCpl fun c => { c with uncorr := c.uncorr.set p (stick32 c.uncorr[p] words) }

/-- CPL_LINK_UP: the PCS of a port locks. -/
def execCplLinkUp (p : Fin 8) (s : State) : Host.Outcome State Fault Refusal :=
  .next (
    if s.dev.held then s
    else
      let old := s.portsUp
      (s.modCpl fun c => { c with pcs := c.pcs ||| BitVec.ofNat 8 (2 ^ p.val) }).portEdges old)

/-- CPL_LINK_DOWN: the PCS of a port loses its lock; `words` counts RS codewords that could not be corrected (R497). -/
def execCplLinkDown (p : Fin 8) (words : Nat) (s : State) : Host.Outcome State Fault Refusal :=
  .next (
    if s.dev.held then s
    else
      let old := s.portsUp
      ((s.uncorr p words).modCpl fun c => { c with pcs := c.pcs &&& ~~~(BitVec.ofNat 8 (2 ^ p.val)) }).portEdges old)

/-! ### Receiving (R458, R459, R469; 15 R515) -/

/-- A little-endian field of a payload. -/
def payNat (b : List Byte) (o n : Nat) : Nat := leNat ((b.drop o).take n)

/-- CPL_FRAME_BAD (R499). -/
def State.frameBad (s : State) (p : Fin 8) : State := s.modCpl fun c => { c with bad := c.bad.set p (stick32 c.bad[p] 1) }

/-- The frame's KEYID is one that its TYPE may carry and that is in force (15 R515). -/
def State.frameKey (s : State) (x : RxFrame) (ftype : Nat) : Bool :=
  if x.keyid = 0 then ftype == 6 || ftype == 7 || ftype == 13
  else s.cpl.keys.any fun k => k.node == x.src.toNat && (k.keyid == x.keyid.toNat || k.prev == some x.keyid.toNat)

/-- The frames of a flow that an ACK field covers are done; those that had waited for the window of 1,024 go out (R469). -/
def State.ackUpTo (s : State) (p n : Nat) (ack : W32) : State :=
  let f := s.cpl.flow p n
  let done := f.unacked.takeWhile fun (x : TxFrame) => newer32 ack x.seq
  let rest := f.unacked.drop done.length
  let past := f.past ++ (done.filter fun x => x.ftype == 1).map fun x => (x.seq, x.job, x.ctx)
  let s := s.modFlow p n fun f => { f with unacked := rest, past := past.drop (past.length - 1024) }
  if s.portUp p && !f.failed then ((rest.take 1024).drop (1024 - done.length)).foldl (fun (s : State) x => s.emitFrame p n x) s
  else s

/-- The frame is for this device (R456, R458): of the transport's EtherType, and to its node or to every member of the sender's basin. -/
def State.frameMine (s : State) (x : RxFrame) : Bool :=
  x.ether == 0x88B5 && (x.dst == s.cpl.node || (x.dst == 0x7FFF && x.src.toNat / 256 == s.cpl.node.toNat / 256))

/-- A frame arrives: one for another device is discarded, one that fails its checks is counted too; frames of a flow are applied in order, a duplicate is
acknowledged again, and a frame ahead of its turn is not applied (R469). `form`: its format is that of its TYPE. -/
def State.receive (s : State) (x : RxFrame) (ftype : Nat) (form : Bool) (act : State → State) : State :=
  let p := x.port.val
  let n := x.src.toNat
  let s := if s.dev.held || !s.cpl.pcs.getLsbD p then s else s.uncorr x.port x.words
  if s.dev.held || !s.portUp p || !s.frameMine x then s
  else if !x.headOk ftype || !s.frameKey x ftype || !form then s.frameBad x.port
  else
    let s := s.ackUpTo p n x.ack
    if ftype = 4 || ftype = 6 then act s
    else
      let e := (s.cpl.flow p n).expect
      if x.seq = e then (act (s.modFlow p n fun f => { f with expect := e + 1 })).sendPlain p n 4 []
      else if newer32 e x.seq then s.sendPlain p n 4 []
      else s

/-- ACK (R469). -/
def execAck (x : RxFrame) (s : State) : Host.Outcome State Fault Refusal := .next (s.receive x 4 x.ok id)

/-! ### Remote access (R471 to R473) -/

/-- Why a frame is refused, 0 when it is not (R472); `wr`: DATA. -/
def State.remoteRefuse (s : State) (x : RxFrame) (wr : Bool) (a n : Nat) : Nat :=
  let c := x.ctx.toNat
  if !s.isMember x.src.toNat then 1
  else if c = 0 ∨ s.ctx.npctx < c then 2
  else if !(s.ctxOf c).regions.any fun g => g.covers a n && (if wr then g.wr else g.rd) then 3
  else if !s.openMem a n then 4
  else 0

/-- A refused frame is answered with a NAK and counted (R472). -/
def State.nak (s : State) (x : RxFrame) (reason : Nat) : State :=
  let s := s.modCpl fun c => { c with refused := stick32 c.refused 1 }
  s.sendFrame x.port x.src.toNat 5 (BitVec.ofNat 32 reason) x.ctx.toNat 0xFFFF (leBytes 4 x.seq.toNat)

/-- DATA (R459, R472): written through the LLC slice of each line. -/
def execData (x : RxFrame) (s : State) : Host.Outcome State Fault Refusal :=
  let a := payNat x.payload 0 8
  let d := x.payload.drop 8
  .next (s.receive x 1 (x.ok && decide (9 ≤ x.payload.length) && decide (x.payload.length ≤ 4104)) fun s =>
    let r := s.remoteRefuse x true a d.length
    if r ≠ 0 then s.nak x r else (s.write a d).llc a d.length)

/-- RREQ (R459, R472): the answer carries the marks of poisoned lines. -/
def execRreq (x : RxFrame) (s : State) : Host.Outcome State Fault Refusal :=
  let a := payNat x.payload 0 8
  let n := x.aux.toNat
  .next (s.receive x 2 (x.ok && x.payload.length == 16 && decide (1 ≤ n) && decide (n ≤ 4096)) fun s =>
    let r := s.remoteRefuse x false a n
    if r ≠ 0 then s.nak x r
    else
      let s := (s.llc a n).bump
      let marks := (List.range n).filter fun i => s.poisoned ((a + i) / 64)
      s.sendFrame x.port x.src.toNat 3 0 x.ctx.toNat 0xFFFF (s.read a n) marks)

/-- The oldest read of a flow that has not been answered (R469, R473). -/
def State.oldestRead (s : State) (x : RxFrame) : Option RemRead :=
  s.cpl.reads.find? fun r => r.port == x.port.val && r.node == x.src.toNat

/-- Data that a read has brought lands at its destination (R473; R365, R366). -/
def State.landRead (s : State) (r : RemRead) (bs : List MByte) : State :=
  match (if h : r.reach < 16 ∧ r.tag < 16 then some (BargeRef.reach ⟨r.reach, h.1⟩ ⟨r.tag, h.2⟩) else none) with
  | none => s
  | some b =>
    match s.bargeAt b with
    | none => s
    | some g =>
      let d := BDesc.ofBytes g.desc
      let s := s.digestTakes b d.dig bs
      let s := match bs.findIdx? (·.2) with
        | some i => s.modStep g.job fun y => { y with
            poison := if y.poison.isNone then some ((r.dst + i) / 64 * 64) else y.poison }
        | none => s
      if r.space = 0 then s.markedWrite r.dst bs
      else
        let ok := (bs.takeWhile fun x => !x.2).map (·.1)
        let s := if ok.isEmpty then s
          else if r.space = 1 then s.send (.hostWrite r.dst ok)
          else s.sendData r.dst (s.bargeCtx b g) g.job ok (ok.length / 4096 + 1)
        if ok.length < bs.length then
          (s.dropReads fun q => q.reach == r.reach && q.tag == r.tag).bargePoison b g
        else s

/-- RDATA (R459, R473): it answers the oldest read of its flow. -/
def execRdata (x : RxFrame) (s : State) : Host.Outcome State Fault Refusal :=
  .next (s.receive x 3 (x.ok && decide (1 ≤ x.payload.length) && decide (x.payload.length ≤ 4096)) fun s =>
    match s.oldestRead x with
    | none => s
    | some r =>
      if r.len ≠ x.payload.length then s.frameBad x.port
      else
        let s := s.modCpl fun c => { c with reads := c.reads.erase r }
        if r.dead then s else s.landRead r (x.payload.zipIdx.map fun q => (q.1, x.marks.contains q.2)))

/-- CPL_REMOTE_REFUSED at the sender (R473, R499). -/
def State.refusedEv (s : State) (x : RxFrame) (job ctx : Nat) : State :=
  s.raise { code := 0x0506, job, ctx, kind := 5, part := x.port }

/-- NAK (R472, R473): a refused read ends its barge and fails the step; a refused write fails the job's step in flight. -/
def execNak (x : RxFrame) (s : State) : Host.Outcome State Fault Refusal :=
  let seq : W32 := BitVec.ofNat 32 (payNat x.payload 0 4)
  let f := s.cpl.flow x.port x.src.toNat
  let sent := (f.unacked.find? fun y => y.seq == seq && y.ftype == 1).map fun y => (y.job, y.ctx)
  let sent := match sent with
    | some q => some q
    | none => (f.past.find? fun y => y.1 == seq).map (·.2)
  .next (s.receive x 5 (x.ok && x.payload.length == 4) fun s =>
    match s.cpl.reads.find? fun r => r.port == x.port.val && r.node == x.src.toNat && r.seq == seq with
    | some r =>
      if r.dead then s.endRead r 0x0506 else
      let job := if h : r.reach < 16 ∧ r.tag < 16 then (s.reach[r.reach]'h.1).barges[r.tag].job else 0xFFFF
      let s := s.refusedEv x job (((s.job? job).map (·.ctx)).getD 0)
      (s.endRead r 0x0506).failJob job 0x0506
    | none =>
      match sent with
      | some (j, c) => (s.refusedEv x j c).failJob j 0x0506
      | none => s)

/-- FRAME_RESEND (R469, R470): 25 µs have passed; the frames of a flow go again from the oldest, or the flow fails after 8
resends of it. -/
def execFrameResend (p : Fin 8) (n : BitVec 15) (s : State) : Host.Outcome State Fault Refusal :=
  .next (
    let f := s.cpl.flow p n.toNat
    match f.unacked with
    | [] => s
    | x :: _ =>
      if s.dev.held || f.failed || !s.portUp p then s
      else if 8 ≤ x.resends then s.flowFail p n.toNat
      else
        let go := (f.unacked.take 1024).filter fun y => !s.frameStops n.toNat y.ftype
        let s := s.modFlow p n.toNat fun f => { f with
          unacked := f.unacked.map fun y => if go.contains y then { y with resends := y.resends + 1 } else y }
        let s := s.modCpl fun c => { c with retry := c.retry.set p (stick32 c.retry[p] go.length) }
        go.foldl (fun (s : State) y => s.emitFrame p n.toNat y) s)

end Sys2Proof.Machine
end

