-- ==== Sys2Proof/Machine/Members.lean ====
section
/-! DEFINITION. Membership and the managers of a basin (14_coupling R460 to R468, R477 to R491): HELLO, joining, commands, mirroring, claims,
reliefs and switches; link keys (15 R513 to R516). -/

namespace Sys2Proof.Machine

/-! ### Link keys (15 R513, R514, R516) -/

/-- The device can take part in a key exchange (15 R503, R505). -/
def State.canKey (s : State) : Bool := s.sec.idOk && s.sec.rngOk

/-- A KEYX payload (15 R513). -/
def kexPayload (step keyid : Nat) (static ephem : List Byte) (check : BitVec 256) : List Byte :=
  let pad (l : List Byte) : List Byte := (l ++ List.replicate 64 0).take 64
  leBytes 1 step ++ leBytes 1 keyid ++ leBytes 2 0 ++ pad static ++ pad ephem ++ leBytes 32 check.toNat

/-- OFFER to a node under a KEYID, with a fresh ephemeral key; an exchange with the node that is not over gives way. -/
def State.offerKey (s : State) (n keyid : Nat) : State :=
  if !s.canKey then s
  else
    let d := s.sec.draws
    let s := s.draw.modCpl fun c => { c with
      kex := (c.kex.filter fun k => k.node != n) ++ [{ node := n, keyid, offered := true, draw := d }] }
    s.sendCtrl n 13 0 (kexPayload 1 keyid Config.identityKey (Config.ephemeralKey d) 0)

/-- The KEYID that follows (15 R516). -/
def nextKeyid (k : Nat) : Nat := if 255 ≤ k then 1 else k + 1

/-- The KEYID of the next exchange with a node: 1 for the first. -/
def State.freshKeyid (s : State) (n : Nat) : Nat := match s.cpl.key n with | some k => nextKeyid k.keyid | none => 1

/-- The frames of a node's flows that wait for a key go out. -/
def State.unstall (s : State) (n : Nat) : State :=
  (s.cpl.flows.filter fun e => e.1.2 == n && !e.2.failed).foldl (fun (s : State) e =>
    if s.portUp e.1.1 then
      ((e.2.unacked.take 1024).filter fun x => x.ftype != 7 && x.ftype != 13).foldl (fun (s : State) x => s.emitFrame e.1.1 n x) s
    else s) s

/-- A key with a node comes into force; the one before it stays acceptable (15 R516). -/
def State.installKey (s : State) (n keyid : Nat) : State :=
  let first := (s.cpl.key n).isNone
  let k : LinkKey := { node := n, keyid, prev := (s.cpl.key n).map (·.keyid), since := s.time }
  let s := s.modCpl fun c => { c with
    keys := (c.keys.filter fun q => q.node != n) ++ [k], kex := c.kex.filter fun q => q.node != n }
  if first then s.unstall n else s

/-- The receiver accepts a STATIC key (15 R514). -/
def State.staticOk (s : State) (x : RxFrame) (static : List Byte) : Bool :=
  let n := x.src.toNat
  if n / 256 ≠ s.cpl.sect.basin then false
  else if 2 ≤ n % 256 then
    (if 2 ≤ s.dev.role.toNat && n % 256 ≥ 2 then
      (s.cpl.members.any fun p => p.1 == n % 256 && p.2 == sm3 static) ||
        (s.cpl.sect.entry (n % 256)).id == sm3 static
     else s.cpl.members.any fun p => p.1 == n % 256 && p.2 == sm3 static)
  else if 2 ≤ s.dev.role.toNat then
    Config.chainValid static && s.cpl.peerProf == some (profDigest (s.slotImg s.activeSlot))
  else s.cpl.mgrKeys.any fun p => p.1 == n && p.2 == static

/-- SEC_PEER_BAD drops the exchange (15 R514). -/
def State.peerBad (s : State) (x : RxFrame) : State :=
  (s.modCpl fun c => { c with kex := c.kex.filter fun q => q.node != x.src.toNat }).raise
    { code := 0x060A, kind := 5, part := x.port, addr := x.src.toNat }

/-- A KEYX frame arrives; `step` is the one that its command names. -/
def State.receiveKex (s : State) (x : RxFrame) (step : Nat) (act : State → State) : State :=
  s.receive x 13 (x.payload.length == 164 && payNat x.payload 0 1 == step && payNat x.payload 1 1 != 0) act

/-- OFFER (15 R513): answered with the own keys and confirmation value. -/
def execOffer (x : RxFrame) (s : State) : Host.Outcome State Fault Refusal :=
  let static := (x.payload.drop 4).take 64
  let ephem := (x.payload.drop 68).take 64
  let keyid := payNat x.payload 1 1
  let n := x.src.toNat
  .next (s.receiveKex x 1 fun s =>
    if !s.canKey then s
    else if !s.staticOk x static then s.peerBad x
    else
      let d := s.sec.draws
      let s := s.draw.modCpl fun c => { c with
        kex := (c.kex.filter fun k => k.node != n) ++ [{ node := n, keyid, offered := false, draw := d, static, ephem }] }
      s.sendCtrl n 13 0 (kexPayload 2 keyid Config.identityKey (Config.ephemeralKey d) (Config.kexCheck d static ephem)))

/-- ANSWER (15 R513, R516): a right confirmation value is confirmed in turn, and the new key is in force. -/
def execAnswer (x : RxFrame) (s : State) : Host.Outcome State Fault Refusal :=
  let static := (x.payload.drop 4).take 64
  let ephem := (x.payload.drop 68).take 64
  let keyid := payNat x.payload 1 1
  let n := x.src.toNat
  .next (s.receiveKex x 2 fun s =>
    match s.cpl.kex.find? fun k => k.node == n && k.keyid == keyid && k.offered with
    | none => s
    | some k =>
      if !s.staticOk x static then s.peerBad x
      else if !x.ok then s
      else (s.sendCtrl n 13 0 (kexPayload 3 keyid [] [] (Config.kexCheck k.draw static ephem))).installKey n keyid)

/-- CONFIRM (15 R513, R516): with a right confirmation value the new key is in force. -/
def execConfirm (x : RxFrame) (s : State) : Host.Outcome State Fault Refusal :=
  let keyid := payNat x.payload 1 1
  let n := x.src.toNat
  .next (s.receiveKex x 3 fun s =>
    if x.ok && s.cpl.kex.any fun k => k.node == n && k.keyid == keyid && !k.offered then s.installKey n keyid else s)

/-- REKEY_TIMER (15 R516): half of a key's use limit has passed and the lower node of the pair agrees a new one; or the limit has come
without one. -/
def execRekeyTimer (n : BitVec 15) (limit : Bool) (s : State) : Host.Outcome State Fault Refusal :=
  .next (
    let n := n.toNat
    match s.cpl.key n with
    | none => s
    | some k =>
      if s.dev.held || k.dead then s
      else if limit then
        let s := s.modCpl fun c => { c with keys := c.keys.map fun q => if q.node = n then { q with dead := true } else q }
        let s := s.raise { code := 0x0606, kind := 5, addr := n }
        (s.cpl.flows.filter fun e => e.1.2 == n).foldl (fun (s : State) e => s.flowFail e.1.1 n) s
      else if n ≤ s.cpl.node.toNat || !s.canKey then s
      else
        ({ s with sec := { s.sec with rekey := stick32 s.sec.rekey 1 } }).offerKey n (nextKeyid k.keyid))

/-- KEYX_RETRY (15 R516): an exchange that this device offered and that has not ended is offered again. -/
def execKeyxRetry (n : BitVec 15) (s : State) : Host.Outcome State Fault Refusal :=
  .next (match s.cpl.kex.find? fun k => k.node == n.toNat && k.offered with
    | some k => if s.dev.held then s else s.offerKey n.toNat k.keyid
    | none => s)

/-- OLD_KEY_EXPIRE (15 R516). -/
def execOldKeyExpire (n : BitVec 15) (s : State) : Host.Outcome State Fault Refusal :=
  .next (s.modCpl fun c => { c with keys := c.keys.map fun q => if q.node = n.toNat then { q with prev := none } else q })

/-! ### What a worker and its manager send (R460, R462, R463, R464, R484, R485) -/

/-- HELLO (R460). -/
def State.helloBody (s : State) : List Byte :=
  let img := s.slotImg s.activeSlot
  let on := s.lkp.inForce
  leBytes 1 s.dev.role.toNat ++ leBytes 1 s.cpl.mstate.code ++ leBytes 1 s.cpl.wstate.code ++ leBytes 1 0 ++
    leBytes 8 (if 2 ≤ s.dev.role.toNat then s.cpl.mseq.toNat else 0) ++ leBytes 4 (if on then s.cpl.sect.epoch.toNat else 0) ++
    leBytes 32 (if on then (profDigest img).toNat else 0) ++ leBytes 16 0

/-- A certificate chain with its length before it (R460, R463, R464). -/
def State.chainPart (s : State) : List Byte := leBytes 4 s.certChain.length ++ s.certChain

/-- HELLO to a node on every port for control traffic. -/
def State.hello (s : State) (n : Nat) : State :=
  let body := if s.cpl.signed n 6 then s.helloBody ++ s.chainPart else s.helloBody
  s.mgrPorts.foldl (fun (s : State) p => s.sendPlain p n 6 body) s

/-- HELLO_SEND (R485): a manager's HELLO to its peer, or an active manager's to every member. -/
def execHelloSend (members : Bool) (s : State) : Host.Outcome State Fault Refusal :=
  .next (
    if s.dev.held || s.dev.role.toNat < 2 || s.cpl.node = 0x7FFF then s
    else if !members then s.hello s.peerNode
    else if s.cpl.acting then s.workerNodes.foldl (fun (s : State) n => s.hello n) s
    else s)

/-- A worker's pending error records go to the manager that it follows (R484, R485), at most `fuel` frames. -/
def State.sendFwd (s : State) (n : Nat) : (fuel : Nat) → State
  | 0 => s
  | f + 1 =>
    if s.cpl.fwd.isEmpty then s
    else
      let rs := s.cpl.fwd.take 63
      let s := s.sendCtrl n 11 (BitVec.ofNat 32 rs.length) (rs.flatMap ErrRec.bytes)
      (s.modCpl fun c => { c with fwd := c.fwd.drop 63 }).sendFwd n f

/-- Error records in RECORD frames to a manager that it has not acknowledged are pending again (R485, R489). -/
def Cpl.reclaim (c : Cpl) (n : Nat) : List ErrRec :=
  let back := (c.flows.filter fun e => e.1.2 == n).flatMap fun e =>
    (e.2.unacked.filter fun x => x.ftype == 11).flatMap fun x =>
      (List.range (x.payload.length / 64)).map fun i => errRecOf ((x.payload.drop (64 * i)).take 64)
  (back ++ c.fwd).drop (back.length + c.fwd.length - 4096)

/-- The newest STATUS to a manager that it has not acknowledged (R489). -/
def Cpl.lastStatus (c : Cpl) (n : Nat) : Option (List Byte) :=
  (((c.flows.filter fun e => e.1.2 == n).flatMap fun e => e.2.unacked.filter fun x => x.ftype == 12).getLast?).map (·.payload)

/-- The pending records, when an active manager is heard and a port is up. -/
def State.flushFwd (s : State) : State :=
  match s.cpl.follows with
  | some n => if s.dev.role = 1 && !s.mgrPorts.isEmpty then s.sendFwd n (s.cpl.fwd.length / 63 + 1) else s
  | none => s

/-- STATUS_SEND (R462, R484). -/
def execStatusSend (s : State) : Host.Outcome State Fault Refusal :=
  .next (match s.cpl.follows with
    | some n =>
      if s.dev.held || s.dev.role ≠ 1 || s.cpl.node = 0x7FFF then s
      else
        let rseq := if s.ras.seq = 0 then 0 else (s.ras.seq - 1).toNat
        let body := leBytes 4 s.cpl.sect.epoch.toNat ++ leBytes 1 s.dev.shed.toNat ++ leBytes 1 s.cpl.wstate.code ++
          leBytes 1 s.dev.st.code ++ leBytes 1 (b2n s.dev.flagged + 2 * b2n s.sec.debug) ++ leBytes 4 rseq ++ leBytes 4 0
        (s.sendCtrl n 12 0 body).flushFwd
    | none => s)

/-- JOIN to both managers (R463, R477). -/
def State.sendJoin (s : State) : State :=
  let img := s.slotImg s.activeSlot
  let body := leBytes 32 (profDigest img).toNat ++ leBytes 32 s.fwDigest.toNat ++ leBytes 4 s.cpl.sect.epoch.toNat ++
    leBytes 4 s.certChain.length ++ (Config.identityKey ++ List.replicate 64 0).take 64 ++ s.certChain
  (s.sendCtrl (s.nodeOf 0) 7 0 body).sendCtrl (s.nodeOf 1) 7 0 body

/-- JOIN_SEND (R477): every 10 ms until answered. -/
def execJoinSend (s : State) : Host.Outcome State Fault Refusal :=
  .next (if s.dev.held || s.cpl.wstate ≠ .joining then s else s.sendJoin)

/-- A worker begins to join again (R477). -/
def State.rejoin (s : State) : State := (s.modCpl fun c => { c with wstate := .joining, reason := 0 }).sendJoin

/-- REJOIN_TIMER (R477): 1 s after leaving, with a worker profile active. -/
def execRejoinTimer (s : State) : Host.Outcome State Fault Refusal :=
  .next (if s.cpl.wstate = .detached && s.cpl.left && s.dev.role = 1 && s.lkp.inForce then s.rejoin else s)

/-! ### Precedence of two managers (R488) -/

/-- A manager with a sequence and side wins over one with another. -/
def wins (m : W64) (side : Nat) (m' : W64) (side' : Nat) : Bool := newer64 m m' || (m == m' && decide (side < side'))

/-- The peer manager, with its sequence, wins over this one. -/
def State.peerWins (s : State) (m : W64) : Bool := wins m (1 - s.side) s.cpl.mseq s.side

/-- This manager claims to act. -/
def Cpl.claims (c : Cpl) : Bool := c.acting || c.mstate == .claiming

/-- FENCE to a manager that loses (R465, R488). -/
def State.sendFence (s : State) (loser winner : Nat) (m : W64) : State :=
  s.sendCtrl loser 8 0 (leBytes 4 3 ++ leBytes 2 winner ++ leBytes 2 0 ++ leBytes 8 m.toNat)

/-- A worker follows another manager (R488, R489): what the one before has not acknowledged, STATUS and RECORD, goes to the new one. -/
def State.follow (s : State) (n f : Nat) (m : W64) : State :=
  let s := s.modCpl fun c => { c with follows := some n, fseq := m, fwd := c.reclaim f }
  match s.cpl.lastStatus f with
  | some b => s.sendCtrl n 12 0 b
  | none => s

/-- A worker hears a manager that acts (R488): it follows the winner, tells the loser, and hands over the records that it kept (R485).
An ACTIVE command (`announce`) of an equal sequence comes from a standby that has just taken over from a manager fallen silent: the worker
follows it, and returns to the other, side A, only when it hears that one again (R489; log 132). -/
def State.hear (s : State) (n : Nat) (m : W64) (announce : Bool) : State :=
  if 2 ≤ s.dev.role.toNat then s
  else
    let take (s : State) : State := s.modCpl fun c => { c with follows := some n, fseq := m }
    let s := match s.cpl.follows with
      | none => take s
      | some f =>
        if f = n then take s
        else if wins m (n % 256) s.cpl.fseq (f % 256) then (s.follow n f m).sendFence f n m
        else if announce && m == s.cpl.fseq then s.follow n f m
        else s.sendFence n f s.cpl.fseq
    s.flushFwd

/-! ### Mirroring (R467, R468, R486, R487) -/

/-- A request for a snapshot (R487). -/
def State.askSnapshot (s : State) : State :=
  (s.modCpl fun c => { c with asked := true, snap := [] }).sendCtrl s.peerNode 9 2 []

/-- The records of a payload, or `none` where it is no whole number of them (R467); at most `fuel`. -/
def mirRecs (b : List Byte) : (fuel : Nat) → Option (List MirRec)
  | 0 => if b.isEmpty then some [] else none
  | f + 1 =>
    if b.isEmpty then some []
    else
      let n := payNat b 10 2
      if b.length < 16 + n ∨ payNat b 12 4 ≠ 0 then none
      else (mirRecs (b.drop (16 + n)) f).map fun rs =>
        ({ mseq := BitVec.ofNat 64 (payNat b 0 8), kind := payNat b 8 2, body := (b.drop 16).take n } : MirRec) :: rs

/-- A record's change of the basin state (R468): a member number that passes to the spare's device ends its pending relief. -/
def Cpl.applyMir (c : Cpl) (r : MirRec) : Cpl :=
  let f (o n : Nat) : Nat := payNat r.body o n
  match r.kind with
  | 1 =>
    let m := f 64 1
    let rest := c.members.filter fun p => p.1 != m
    let id := BitVec.ofNat 256 (f 0 32)
    { c with
      members := if f 80 1 = 1 then rest ++ [(m, id)] else rest
      pendRel := if f 80 1 = 1 then c.pendRel.filter fun q => !(q.1 == m && c.members.contains (q.2.1, id)) else c.pendRel }
  | 2 => { c with epoch := BitVec.ofNat 32 (f 0 4), pendSw := none }
  | 3 => { c with pendSw := some (BitVec.ofNat 32 (f 0 4), BitVec.ofNat 64 (f 8 8)) }
  | 4 =>
    { c with pendRel := (c.pendRel.filter fun q => q.1 != f 0 1) ++ [(f 0 1, f 1 1, f 2 1, BitVec.ofNat 64 (f 8 8))] }
  | 5 => { c with heldRecs := c.heldRecs ++ [(payNat r.body 20 4 / 2 ^ 17, r.body)] }
  | 6 => { c with heldRecs := c.heldRecs.filter fun p => !(p.1 == f 0 2 && payNat p.2 8 4 == f 4 4) }
  | _ => c

/-- The body length of a record kind. -/
def mirLen (kind : Nat) : Nat :=
  match kind with | 1 => 84 | 2 => 4 | 3 => 16 | 4 => 16 | 5 => 64 | 6 => 8 | _ => 0

/-- A record of the stream on the standby: applied in order; an unknown one is discarded and a snapshot requested (R468, R486). -/
def State.mirRecord (s : State) (p : Fin 8) (r : MirRec) : State :=
  if r.kind = 0 ∨ 7 ≤ r.kind ∨ r.body.length ≠ mirLen r.kind then (s.frameBad p).askSnapshot
  else if r.mseq ≠ s.cpl.mseq + 1 then s
  else s.modCpl fun c => { c.applyMir r with mseq := r.mseq }

/-- An acknowledgement of what has been applied. -/
def State.mirAck (s : State) : State := s.sendCtrl s.peerNode 9 1 (leBytes 8 s.cpl.mseq.toNat)

/-- MIRROR RECORDS (R467, R486). -/
def execMirrorRecords (x : RxFrame) (s : State) : Host.Outcome State Fault Refusal :=
  let rs := mirRecs x.payload (x.payload.length / 16 + 1)
  .next (s.receive x 9 (x.ok && x.aux == 0 && rs.isSome) fun s =>
    if s.cpl.mstate ≠ .standby ∨ x.src.toNat ≠ s.peerNode then s
    else ((rs.getD []).foldl (fun (s : State) r => s.mirRecord x.port r) s).mirAck)

/-- MIRROR ACK (R467, R486, R487). -/
def execMirrorAck (x : RxFrame) (s : State) : Host.Outcome State Fault Refusal :=
  let q : W64 := BitVec.ofNat 64 (payNat x.payload 0 8)
  .next (s.receive x 9 (x.ok && x.aux == 1 && x.payload.length == 8) fun s =>
    if x.src.toNat ≠ s.peerNode then s
    else
      let s := s.modCpl fun c => { c with
        macked := if newer64 q c.macked then q else c.macked
        mstate := if c.mstate = .solo ∧ c.snapSent then .active else c.mstate
        snapSent := if c.mstate = .solo then false else c.snapSent }
      if s.cpl.mstate = .active then s.payOwed else s)

/-- The records of a snapshot (R467, R468). -/
def State.snapRecs (s : State) : List (List Byte) :=
  let c := s.cpl
  let rec_ (kind : Nat) (body : List Byte) : List Byte := mirrorRec c.mseq kind body
  (c.members.map fun p => rec_ 1 (memberRec { c.sect.entry p.1 with id := p.2 } 1)) ++
    [rec_ 2 (leBytes 4 c.epoch.toNat)] ++
    (match c.pendSw with
     | some (e, k) => [rec_ 3 (leBytes 4 e.toNat ++ leBytes 4 0 ++ leBytes 8 k.toNat)]
     | none => []) ++
    (c.pendRel.map fun q => rec_ 4 (leBytes 1 q.1 ++ leBytes 1 q.2.1 ++ leBytes 1 q.2.2.1 ++ leBytes 5 0 ++ leBytes 8 q.2.2.2.toNat)) ++
    (c.heldRecs.map fun p => rec_ 5 p.2) ++ [rec_ 7 []]

/-- Records go in frames of whole records, at most 4,104 bytes each. -/
def packRecs : (now : List Byte) → List (List Byte) → List (List Byte)
  | now, [] => [now]
  | now, r :: rs => if 4104 < now.length + r.length then now :: packRecs r rs else packRecs (now ++ r) rs

/-- SNAPSHOT_REQ (R487). -/
def execSnapshotReq (x : RxFrame) (s : State) : Host.Outcome State Fault Refusal :=
  .next (s.receive x 9 (x.ok && x.aux == 2 && x.payload.isEmpty) fun s =>
    if !s.cpl.acting ∨ x.src.toNat ≠ s.peerNode then s
    else
      let s := (packRecs [] s.snapRecs).foldl (fun (s : State) b => s.sendCtrl s.peerNode 9 3 b) s
      s.modCpl fun c => { c with snapSent := true })

/-- SNAPSHOT (R467, R487): applied when its last record has come; the manager is the standby then. -/
def execSnapshot (x : RxFrame) (s : State) : Host.Outcome State Fault Refusal :=
  let rs := mirRecs x.payload (x.payload.length / 16 + 1)
  .next (s.receive x 9 (x.ok && x.aux == 3 && rs.isSome) fun s =>
    if s.dev.role.toNat < 2 ∨ x.src.toNat ≠ s.peerNode ∨ !s.cpl.asked then s
    else
      if (rs.getD []).any fun r => decide (r.kind = 0 ∨ 7 < r.kind ∨ r.body.length ≠ mirLen r.kind) then (s.frameBad x.port).askSnapshot
      else
      let all := s.cpl.snap ++ rs.getD []
      match all.getLast? with
      | some r =>
        if r.kind ≠ 7 then s.modCpl fun c => { c with snap := all }
        else
          let s := s.modCpl fun c =>
            let c := { c with members := [], pendSw := none, pendRel := [], heldRecs := [] }
            let c := all.foldl Cpl.applyMir c
            { c with snap := [], asked := false, mseq := r.mseq, mstate := .standby, master := false }
          s.mirAck
      | none => s)

/-! ### HELLO, CLAIM and REFUSE (R485, R487, R488) -/

/-- HELLO (R460, R470, R487, R488). -/
def execHello (x : RxFrame) (s : State) : Host.Outcome State Fault Refusal :=
  let role := payNat x.payload 0 1
  let ms := payNat x.payload 1 1
  let m : W64 := BitVec.ofNat 64 (payNat x.payload 4 8)
  let n := x.src.toNat
  .next (s.receive x 6 (x.ok && decide (64 ≤ x.payload.length) && decide (1 ≤ role) && decide (role ≤ 3)) fun s =>
    let s := if (s.cpl.flow x.port n).failed then s.restartFlow x.port n else s
    let acts := decide (ms = 2 ∨ ms = 3)
    if s.dev.role.toNat < 2 then (if 2 ≤ role && acts && s.cpl.node != 0x7FFF then s.hear n m false else s)
    else if n ≠ s.peerNode ∨ s.cpl.node = 0x7FFF then s
    else
      let s := s.modCpl fun c => { c with peerProf := some (BitVec.ofNat 256 (payNat x.payload 16 32)) }
      let s := if (s.cpl.key n).isNone && !(s.cpl.kex.any fun k => k.node == n) && s.side == 0 then s.offerKey n 1 else s
      match s.cpl.mstate with
      | .none =>
        if s.cpl.asked then s
        else if acts then s.askSnapshot
        else if ms ≠ 0 then s
        else if s.side = 0 then s.modCpl fun c => { c with
            mstate := .active, master := true, timeSet := c.timeSet || decide (c.sect.upstream = 0x7FFF) }
        else s.modCpl fun c => { c with mstate := .standby, master := false }
      | _ => if s.cpl.claims && acts && s.peerWins m then s.fence m else s)

/-- A CLAIM or REFUSE payload (R461). -/
def State.claimBody (s : State) : List Byte :=
  leBytes 8 s.cpl.mseq.toNat ++ leBytes 1 s.side ++ leBytes 1 s.cpl.mstate.code ++ leBytes 6 0

/-- CLAIM (R461, R487). -/
def execClaim (x : RxFrame) (s : State) : Host.Outcome State Fault Refusal :=
  let m : W64 := BitVec.ofNat 64 (payNat x.payload 0 8)
  .next (s.receive x 10 (x.ok && x.aux == 0 && x.payload.length == 16) fun s =>
    if x.src.toNat ≠ s.peerNode ∨ !s.cpl.claims then s
    else if s.peerWins m then s.fence m
    else if s.cpl.acting then s.sendCtrl s.peerNode 10 1 s.claimBody
    else s)

/-- REFUSE (R461, R487). -/
def execRefuse (x : RxFrame) (s : State) : Host.Outcome State Fault Refusal :=
  let m : W64 := BitVec.ofNat 64 (payNat x.payload 0 8)
  .next (s.receive x 10 (x.ok && x.aux == 1 && x.payload.length == 16) fun s =>
    if x.src.toNat ≠ s.peerNode ∨ !s.peerWins m then s
    else if s.cpl.mstate = .claiming then s.modCpl fun c => { c with mstate := .standby }
    else if s.cpl.acting then s.fence m
    else s)

/-- STANDBY_TIMEOUT (R487): no frame from the active manager for 200 µs. -/
def execStandbyTimeout (s : State) : Host.Outcome State Fault Refusal :=
  .next (
    if s.cpl.mstate ≠ .standby then s
    else
      let s := s.modCpl fun c => { c with mstate := .claiming }
      s.mgrPorts.foldl (fun (s : State) p => s.sendFrame p s.peerNode 10 0 0 0xFFFF s.claimBody) s)

/-- ACTIVE to every member (R465, R487). -/
def State.announce (s : State) : State :=
  s.actAll (leBytes 4 5 ++ leBytes 2 s.cpl.node.toNat ++ leBytes 2 0 ++ leBytes 8 s.cpl.mseq.toNat ++ leBytes 4 s.cpl.epoch.toNat)

/-- CLAIM_TIMEOUT (R487): promoted. -/
def execClaimTimeout (s : State) : Host.Outcome State Fault Refusal :=
  .next (
    if s.cpl.mstate ≠ .claiming then s
    else
      let s := s.goSolo.announce
      let s := s.cpl.heldRecs.foldl (fun (s : State) p => s.forward p.2) s
      (s.modCpl fun c => { c with failover := stick32 c.failover 1 }).raise { code := 0x050C, d0 := s.cpl.mseq.toNat })

/-- STANDBY_ACK_TIMEOUT (R487). -/
def execStandbyAckTimeout (s : State) : Host.Outcome State Fault Refusal :=
  .next (if s.cpl.mstate ≠ .active then s else (s.raise { code := 0x050F, addr := 1 - s.side }).goSolo)

/-- PEER_HELLO_TIMEOUT (R487). -/
def execPeerHelloTimeout (s : State) : Host.Outcome State Fault Refusal :=
  .next (
    if s.dev.role.toNat < 2 ∨ s.cpl.node = 0x7FFF ∨ s.cpl.mstate ≠ .none ∨ s.cpl.asked then s else s.goSolo)

/-- FENCED_TIMEOUT (R487). -/
def execFencedTimeout (s : State) : Host.Outcome State Fault Refusal :=
  .next (if s.cpl.mstate ≠ .fenced then s else s.askSnapshot)

/-! ### Joining (R477, R478) -/

/-- ADMIT (R464). -/
def State.admitBody (s : State) (member reason : Nat) : List Byte :=
  let img := s.slotImg s.activeSlot
  let pad (l : List Byte) : List Byte := (l ++ List.replicate 64 0).take 64
  leBytes 1 member ++ leBytes 1 reason ++ leBytes 2 0 ++ leBytes 4 s.cpl.epoch.toNat ++ leBytes 32 (profDigest img).toNat ++
    imgPart img ((profHdr img).len - 128) 64 ++ pad (Config.operatorKey s.prf.opKey) ++ pad Config.identityKey ++ s.chainPart

/-- The manager's answer to a JOIN (R478): the member number, or the first reason against it. -/
def State.judge (s : State) (x : RxFrame) : Nat × Nat :=
  let id := sm3 ((x.payload.drop 72).take 64)
  match (if x.ok then s.cpl.sect.members.find? fun e => e.id == id else none) with
  | none => (0, 4)
  | some e =>
    if BitVec.ofNat 256 (payNat x.payload 0 32) ≠ e.profile then (0, 1)
    else if BitVec.ofNat 256 (payNat x.payload 32 32) ≠ s.fwDigest then (0, 2)
    else if payNat x.payload 64 4 ≠ s.cpl.epoch.toNat then (0, 3)
    else if s.cpl.members.any fun p => p.1 == e.member && p.2 != id then (0, 5)
    else (e.member, 0)

/-- JOIN (R463, R478): admitted, mirrored and announced, or held back with a reason. -/
def execJoin (x : RxFrame) (s : State) : Host.Outcome State Fault Refusal :=
  let id := sm3 ((x.payload.drop 72).take 64)
  .next (s.receive x 7 (x.aux == 0 && decide (136 ≤ x.payload.length)) fun s =>
    if !s.cpl.acting then s
    else
      let r := s.judge x
      if r.2 ≠ 0 then
        let s := s.raise { code := 0x0507, addr := r.2, d0 := bits id.toNat 0 64, d1 := bits id.toNat 64 64
                           d2 := bits id.toNat 128 64, d3 := bits id.toNat 192 64 }
        s.sendFrame x.port x.src.toNat 7 (BitVec.ofNat 32 (2 ^ 31 + r.2)) 0 0xFFFF (s.admitBody 0 r.2)
      else
        let s := s.modCpl fun c => { c with members := (c.members.filter fun p => p.1 != r.1) ++ [(r.1, id)] }
        let s := s.mirror 1 (memberRec { s.cpl.sect.entry r.1 with id } 1)
        let o : Owed := { after := s.cpl.mseq, port := some x.port, node := x.src.toNat, ftype := 7, aux := BitVec.ofNat 32 (2 ^ 31)
                          payload := s.admitBody r.1 0 }
        let s := if s.cpl.mstate = .active ∧ newer64 s.cpl.mseq s.cpl.macked then
            s.modCpl fun c => { c with owed := c.owed ++ [o] }
          else s.pay o
        s.actAll (membershipCmd 0 r.1 1 id))

/-- ADMIT (R464, R477; 15 R514): its profile signature must be the operator's. -/
def execAdmit (x : RxFrame) (s : State) : Host.Outcome State Fault Refusal :=
  let m := payNat x.payload 0 1
  let pub := (x.payload.drop 104).take 64
  .next (s.receive x 7 (x.ok && x.aux.getLsbD 31 && decide (236 ≤ x.payload.length)) fun s =>
    if s.cpl.wstate ≠ .joining then s
    else if sm3 pub ≠ s.prf.opKey ∨
        !Config.sm2Verify pub (BitVec.ofNat 256 (payNat x.payload 8 32)) ((x.payload.drop 40).take 64) then s.frameBad x.port
    else if m = 0 then s.hold (payNat x.payload 1 1)
    else
      let old := s.portsUp
      (s.modCpl fun c => { c with
        node := BitVec.ofNat 15 (c.sect.basin * 256 + m), wstate := .unsync, reason := 0, timeSet := false, insync := 0
        epoch := BitVec.ofNat 32 (payNat x.payload 4 4)
        mgrKeys := (c.mgrKeys.filter fun p => p.1 != x.src.toNat) ++ [(x.src.toNat, (x.payload.drop 168).take 64)]
        follows := some x.src.toNat }).portEdges old)

/-! ### Commands of the manager (R465, R466) -/

/-- A CTRL frame arrives whose CMD is the one that its command names; a member acts on those of the manager that it follows. -/
def State.receiveCtrl (s : State) (x : RxFrame) (cmd len : Nat) (act : State → State) : State :=
  s.receive x 8 (x.ok && payNat x.payload 0 4 == cmd && decide (len ≤ x.payload.length)) act

/-- The frame comes from the manager that this device follows: on the standby, from its peer. -/
def State.fromManager (s : State) (x : RxFrame) : Bool :=
  if 2 ≤ s.dev.role.toNat then x.src.toNat == s.peerNode && !s.cpl.acting else s.cpl.follows == some x.src.toNat

/-- The loaded slot of this device's role whose COUPLING EPOCH is E (R491). No frame tells a member the new membership table, whose digest
would decide between two: then one of them (log 98). -/
def State.slotOfEpoch (s : State) (e : W32) : Option Nat :=
  let ks := (List.range 4).filter fun k =>
    let p := (s.prf.slots[k]?).getD {}
    p.valid && (p.role.toNat == (if 2 ≤ s.dev.role.toNat then 2 else 1)) && (coupOf (profSect p.image 6)).epoch == e
  match ks with
  | [k] => some k
  | _ => ks[Config.epochSlot e % ks.length]?

/-- CTRL ACTIVATE (R465, R491): prepared for cycle k; a worker leaves when it has no profile of the epoch (R477). -/
def execCtrlActivate (x : RxFrame) (s : State) : Host.Outcome State Fault Refusal :=
  let e : W32 := BitVec.ofNat 32 (payNat x.payload 4 4)
  let k := payNat x.payload 8 8
  .next (s.receiveCtrl x 1 16 fun s =>
    if !s.fromManager x then s
    else match s.slotOfEpoch e with
      | some p => (s.modCpl fun c => { c with pendSw := some (e, BitVec.ofNat 64 k) }).prepareSlot p (some k)
      | none => if s.dev.role = 1 then s.leave (Config.leftCause 1) else s)

/-- CTRL ASSUME (R465, R490). -/
def execAssume (x : RxFrame) (s : State) : Host.Outcome State Fault Refusal :=
  let m := payNat x.payload 4 1
  let k : W64 := BitVec.ofNat 64 (payNat x.payload 8 8)
  .next (s.receiveCtrl x 2 16 fun s =>
    if !s.fromManager x ∨ s.dev.role ≠ 1 then s
    else
      let p := payNat x.payload 5 1 % 4
      (s.modCpl fun c => { c with assume_ := some (m, p, k) }).prepareSlot p none)

/-- CTRL FENCE (R465, R487, R488). -/
def execFence (x : RxFrame) (s : State) : Host.Outcome State Fault Refusal :=
  let m : W64 := BitVec.ofNat 64 (payNat x.payload 8 8)
  .next (s.receiveCtrl x 3 16 fun s =>
    if s.cpl.claims && payNat x.payload 4 2 == s.peerNode && s.peerWins m then s.fence m else s)

/-- One MEMBERSHIP entry (R466): an addition, with a key exchange (15 R513), or a withdrawal at a cycle. -/
def State.memberEntry (s : State) (cycle : Nat) (e : List Byte) : State :=
  let m := payNat e 0 1
  let n := s.nodeOf m
  match payNat e 1 1 with
  | 1 =>
    let s := s.modCpl fun c => { c with members := (c.members.filter fun p => p.1 != m) ++ [(m, BitVec.ofNat 256 (payNat e 4 32))] }
    if s.cpl.node.toNat = n || s.cpl.node = 0x7FFF || (s.cpl.key n).isSome then s else s.offerKey n 1
  | 2 => s.modCpl fun c => { c with pendOut := (c.pendOut.filter fun w => w.1 != m) ++ [(m, BitVec.ofNat 64 cycle)] }
  | _ => s

/-- CTRL MEMBERSHIP (R465, R466). -/
def execMembership (x : RxFrame) (s : State) : Host.Outcome State Fault Refusal :=
  let n := payNat x.payload 4 2
  .next (s.receiveCtrl x 4 (16 + 36 * max 1 n) fun s =>
    if !s.fromManager x ∨ 2 ≤ s.dev.role.toNat then s
    else (List.range n).foldl (fun (s : State) i =>
      s.memberEntry (payNat x.payload 8 8) ((x.payload.drop (16 + 36 * i)).take 36)) s)

/-- CTRL ACTIVE (R465, R487, R488). -/
def execActive (x : RxFrame) (s : State) : Host.Outcome State Fault Refusal :=
  let m : W64 := BitVec.ofNat 64 (payNat x.payload 8 8)
  .next (s.receiveCtrl x 5 20 fun s =>
    if 2 ≤ s.dev.role.toNat || s.cpl.node = 0x7FFF || payNat x.payload 4 2 != x.src.toNat then s
    else
      let s := s.hear x.src.toNat m true
      if s.cpl.follows = some x.src.toNat then
        s.modCpl fun c => { c with epoch := BitVec.ofNat 32 (payNat x.payload 16 4) }
      else s)

/-! ### What workers report (R484, R485, R490) -/

/-- RECORD (R484, R486): held for the standby's sake, then forwarded to the collector. -/
def execRecord (x : RxFrame) (s : State) : Host.Outcome State Fault Refusal :=
  let k := x.aux.toNat
  .next (s.receive x 11 (x.ok && decide (1 ≤ k) && decide (k ≤ 63) && x.payload.length == 64 * k) fun s =>
    if !s.cpl.acting then s
    else (List.range k).foldl (fun (s : State) i =>
      let b := (x.payload.drop (64 * i)).take 64
      let s := s.modCpl fun c => { c with heldRecs := c.heldRecs ++ [(x.src.toNat, b)] }
      let s := s.mirror 5 b
      if s.cpl.mstate = .active then s.modCpl fun c => { c with owed := c.owed ++ [{ after := c.mseq, ftype := 0, payload := b }] }
      else s.forward b) s)

/-- The first cycle that starts at least `ms` after now. -/
def State.cycleAfter (s : State) (ms : Nat) : Nat :=
  let lc := max 1 s.lcNs
  (s.time.toNat + ms * 1000000 + lc - 1) / lc

/-- A spare that can take over a member: its entry BACKS it, it has joined, and it is not taking over already (R490). -/
def State.spareFor (s : State) (m : Nat) : Option MembE :=
  s.cpl.sect.members.find? fun e =>
    e.spare && e.backs == m && s.cpl.hasMember e.member && !s.cpl.pendRel.any fun q => q.1 == m || q.2.1 == e.member

/-- A member is relieved by its spare (R490); the cycle, or `none` without a spare. -/
def State.relieve (s : State) (m : Nat) : State × Option Nat :=
  match s.spareFor m with
  | none => (s, none)
  | some e =>
    let k := s.cycleAfter 600
    let p := (Config.spareSlot m).toNat
    let s := s.modCpl fun c => { c with pendRel := c.pendRel ++ [(m, e.member, p, BitVec.ofNat 64 k)] }
    let s := s.mirror 4 (leBytes 1 m ++ leBytes 1 e.member ++ leBytes 1 p ++ leBytes 5 0 ++ leBytes 8 k)
    let s := s.act (s.nodeOf e.member) 8
      (leBytes 4 2 ++ leBytes 1 m ++ leBytes 1 p ++ leBytes 2 0 ++ leBytes 8 k)
    let id := ((s.cpl.members.find? fun q => q.1 == m).map (·.2)).getD (s.cpl.sect.entry m).id
    (s.actAll (membershipCmd k m 2 id), some k)

/-- STATUS (R462, R484, R490). -/
def execStatus (x : RxFrame) (s : State) : Host.Outcome State Fault Refusal :=
  .next (s.receive x 12 (x.ok && x.payload.length == 16) fun s =>
    if !s.cpl.acting || !s.isMember x.src.toNat then s
    else
      let m := memberOf x.src.toNat
      let s := s.modCpl fun c => { c with views := (c.views.filter fun p => p.1 != m) ++ [(m, x.payload)] }
      let st := payNat x.payload 6 1
      if st = 2 ∨ st = 3 then (s.relieve m).1 else s)

/-- CPL_MEMBER_LOST (R485, R490): no STATUS from a member for 10 ms. -/
def execCplMemberLost (m : Byte) (s : State) : Host.Outcome State Fault Refusal :=
  .next (
    if !s.cpl.acting || !s.cpl.hasMember m.toNat then s
    else ((s.raise { code := 0x050F, addr := m.toNat }).relieve m.toNat).1)

/-- CPL_MGR_LOST (R485): a worker hears no active manager for 10 ms. -/
def execCplMgrLost (s : State) : Host.Outcome State Fault Refusal :=
  .next (
    match s.cpl.follows with
    | some f =>
      if s.dev.role ≠ 1 || s.cpl.node = 0x7FFF then s
      else (s.modCpl fun c => { c with follows := none, fwd := c.reclaim f }).raise { code := 0x050E }
    | none => s)

/-! ### CPL_CMD (R495) -/

/-- The result of a coupling command. -/
def State.cplResult (s : State) (st code cycle : Nat) : State :=
  s.modCpl fun c => { c with
    resState := BitVec.ofNat 8 st, resCode := BitVec.ofNat 16 code, resCycle := BitVec.ofNat 32 cycle }

/-- A coupling command is refused (R495). -/
def State.cplRefuse (s : State) (p : Port) : State := (s.raise { code := 0x0A0E, kind := portKind p }).cplResult 3 0x0A0E 0

/-- BASIN_SWITCH (R491): the manager prepares its own slot and commands every member, the standby among them. -/
def State.basinSwitch (s : State) (p : Port) (slot delay : Nat) : State :=
  let x := (s.prf.slots[slot]?).getD {}
  if !s.cpl.acting || !x.valid || x.role ≠ 2 then s.cplRefuse p
  else
    let e := (coupOf (profSect x.image 6)).epoch
    let k := s.cycleAfter delay
    let s := s.modCpl fun c => { c with pendSw := some (e, BitVec.ofNat 64 k) }
    let s := s.mirror 3 (leBytes 4 e.toNat ++ leBytes 4 0 ++ leBytes 8 k)
    let cmd := leBytes 4 1 ++ leBytes 4 e.toNat ++ leBytes 8 k
    let s := s.actAll cmd
    let s := if s.cpl.mstate = .active then s.act s.peerNode 8 cmd else s
    (s.prepareSlot slot (some k)).cplResult 1 0 k

/-- A write of CPL_CMD that RWL accepts. The Bool says that R12 discards a value. -/
def State.cplCmd (s : State) (p : Port) (v : W64) : State × Bool :=
  let op := bits v.toNat 0 4
  let slot := bits v.toNat 4 2
  let m := bits v.toNat 16 8
  let d := bits v.toNat 24 16
  let old := bits s.cpl.cmd.toNat 24 16
  let badDelay := op == 1 && (decide (d < 600) || decide (60000 < d))
  let delay := if badDelay then old else d
  let badOp := op == 0 || decide (5 ≤ op)
  let s := s.modCpl fun c => { c with
    cmd := BitVec.ofNat 64 (delay * 2 ^ 24 + m * 2 ^ 16 + slot * 16 + (if badOp then bits c.cmd.toNat 0 4 else op)) }
  if badOp then (s, true)
  else
    let s := s.modCpl fun c => { c with
      resOp := BitVec.ofNat 4 op, resPort := BitVec.ofNat 4 (portNum p), resState := 1, resCode := 0, resCycle := 0 }
    let s :=
      if op = 1 then s.basinSwitch p slot delay
      else if op = 2 then
        (if s.dev.role = 1 && s.cpl.node != 0x7FFF then (s.leave (Config.leftCause 2)).cplResult 2 0 0 else s.cplRefuse p)
      else if op = 3 then
        (if s.cpl.wstate = .held || (s.cpl.wstate = .detached && s.cpl.left && s.dev.role = 1 && s.lkp.inForce) then
          s.rejoin.cplResult 2 0 0
         else s.cplRefuse p)
      else if !s.cpl.acting then s.cplRefuse p
      else match s.relieve m with
        | (s, some k) => s.cplResult 1 0 k
        | (s, none) => s.cplRefuse p
    (s, badDelay)

/-! ### Basin time (R482, R483) -/

/-- CPL_UNSYNC (R477, R483). -/
def State.unsync (s : State) : State :=
  if s.cpl.wstate ≠ .member || s.cpl.master then s
  else
    (s.modCpl fun c => { c with wstate := .unsync, synced := false, insync := 0, unsync := stick32 c.unsync 1 }).raise
      { code := 0x0509, d0 := (s.cpl.offset.setWidth 64 : W64).toNat }

/-- The return to MEMBER (R477): at the first join the selected profile is activated. -/
def State.resync (s : State) : State :=
  let s := (s.modCpl fun c => { c with wstate := .member }).raise { code := 0x050A }
  if s.lkp.inForce then s else s.prepareSlot s.activeSlot none

/-- An offset as CPL_SYNC holds it (R496). -/
def heldOffset (d : Int) : W32 := BitVec.ofInt 32 (max (-(2147483647 : Int)) (min 2147483647 d))

/-- A slave's first key exchanges (15 R513): with both managers. -/
def State.firstKeys (s : State) : State :=
  [0, 1].foldl (fun (s : State) m => if (s.cpl.key (s.nodeOf m)).isNone then s.offerKey (s.nodeOf m) 1 else s) s

/-- A 1588 message that this device takes (R482): of its domain, on a port that is up. -/
def State.ptpTaken (s : State) (x : PtpMsg) : Bool :=
  !s.dev.held && s.cpl.node != 0x7FFF && s.portUp x.port && x.domain.toNat == s.cpl.sect.domain

/-- The message comes from a manager of the basin whose time this device follows (R475, R482): a manager's upstream basin, or the own. -/
def State.ptpMaster (s : State) (x : PtpMsg) : Bool :=
  let up := s.cpl.sect.upstream
  let basin := if s.cpl.master && up != 0x7FFF then up / 256 else s.cpl.sect.basin
  x.src.toNat / 256 == basin && decide (x.src.toNat % 256 < 2)

/-- The device is a slave of basin time (R482): every member but a master of a root basin. -/
def State.slave (s : State) : Bool := !(s.cpl.master && s.cpl.sect.upstream == 0x7FFF)

/-- SYNC (R477, R482, R483): the master's time at which it left, with correctionField added. The first one of a join sets TIME, as does a
manager's first (log 131); a later one measures the offset, which is slewed away. -/
def execSync (x : PtpMsg) (s : State) : Host.Outcome State Fault Refusal :=
  .next (
    let c := s.cpl
    let t1 := x.time
    if !s.ptpTaken x || !s.ptpMaster x || !s.slave || (c.wstate != .unsync && c.wstate != .member) then s
    else if !c.timeSet then
      ((s.setBasinTime (BitVec.ofInt 64 (t1.toNat + c.delay))).modCpl fun c => { c with
        lastSync := none, offset := 0, insync := 0 }).firstKeys
    else
      let off : Int := (s.time.toNat : Int) - (t1.toNat : Int) - c.delay
      let near := decide (-200 ≤ off) && decide (off ≤ 200)
      let far := decide (off < -2000) || decide (2000 < off)
      let gone := decide (off < -1000000) || decide (1000000 < off)
      let s := s.modCpl fun c => { c with
        offset := heldOffset off, lastSync := some (t1, s.time), slew := if gone then 0 else -off
        insync := if near then (if c.insync = 255 then 255 else c.insync + 1) else 0 }
      if gone && !s.cpl.acting then s.leave (Config.leftCause 0)
      else if far then s.unsync
      else if s.cpl.wstate = .unsync && decide (4 ≤ s.cpl.insync.toNat) then s.resync
      else s)

/-- SYNC_LOSS (R483): no Sync for 100 ms counts as beyond ±2 µs. -/
def execSyncLoss (s : State) : Host.Outcome State Fault Refusal :=
  .next (if s.cpl.node = 0x7FFF then s else (s.modCpl fun c => { c with insync := 0 }).unsync)

/-- SYNC_SEND (R482): the master's Sync leaves every port that is up, each followed by an Announce (log 131). -/
def execSyncSend (s : State) : Host.Outcome State Fault Refusal :=
  .next (
    if !s.cpl.master || s.cpl.node = 0x7FFF then s
    else ((List.range 8).filter s.portUp).foldl (fun (s : State) p =>
      (s.send (.ptp p s.cpl.sect.domain 0 s.time)).send (.ptp p s.cpl.sect.domain 3 s.time)) s)

/-- DELAY_REQ (R482): the master answers with the time of its arrival. -/
def execDelayReq (x : PtpMsg) (s : State) : Host.Outcome State Fault Refusal :=
  .next (if !s.cpl.master || !s.ptpTaken x then s else s.send (.ptp x.port s.cpl.sect.domain 2 s.time))

/-- DELAY_REQ_SEND (R482): a slave's Delay_Req on the first port that is up. -/
def execDelayReqSend (s : State) : Host.Outcome State Fault Refusal :=
  .next (
    if !s.slave || s.cpl.node = 0x7FFF then s
    else match (List.range 8).filter s.portUp with
      | p :: _ => (s.modCpl fun c => { c with dreq := some s.time }).send (.ptp p s.cpl.sect.domain 1 s.time)
      | [] => s)

/-- DELAY_RESP (R482): the path delay is half the sum of the two ways. -/
def execDelayResp (x : PtpMsg) (s : State) : Host.Outcome State Fault Refusal :=
  .next (if !s.ptpTaken x || !s.ptpMaster x then s
    else match s.cpl.dreq, s.cpl.lastSync with
    | some t3, some (t1, t2) =>
      s.modCpl fun c => { c with
        dreq := none
        delay := ((t2.toNat : Int) - t1.toNat + ((x.time.toNat : Int) - t3.toNat)) / 2 }
    | some _, none => s.modCpl fun c => { c with dreq := none }
    | none, _ => s)

end Sys2Proof.Machine
end

