-- ==== Sys2Proof/Machine/RegWrite.lean ====
section
/-! DEFINITION. Writes of BAR0 registers by either port (00 R9 to R14; 13 R443, R447 to R454; 15 R527; 16 R556; 12 R410, R411), and the
commands that are such a write. -/

namespace Sys2Proof.Machine

/-! ### The map (00 R10; 19 R613) -/

/-- Offsets within a block that hold a register. -/
def inBlock (o : Nat) (l : List Nat) : Bool := l.contains o

/-- Offsets `base + step · i` for i below n. -/
def inRow (o base step n : Nat) : Bool := decide (base ≤ o) && (o - base) % step == 0 && decide (o < base + step * n)

/-- A register is defined at a BAR0 offset (R10, R613); the DBG_ block, whose writes R615 discards, counts as none. -/
def regDefined (off : Nat) : Bool :=
  if off < 0x10000 then inBlock off [0x0, 0x8, 0x10]
  else if off < 0x20000 then inRow (off - 0x10000) 0 8 32 || inBlock (off - 0x10000) [0x100, 0x108, 0x110]
  else if off < 0x40000 then
    let o := off - 0x20000
    inBlock o [0x0, 0x8, 0x10, 0x100, 0x108, 0x110, 0x118] || inRow o 0x20 8 8
  else if off < 0x80000 then
    let o := off - 0x40000
    inBlock o [0x0, 0x8, 0x10, 0x18, 0x20, 0x28, 0x30, 0xF00, 0xF08] || inRow o 0x2000 8 1024 || inRow o 0x4000 8 4096
  else if off < 0x100000 then inBlock (off - 0x80000) [0x0, 0x8]
  else if off < 0x200000 then
    inBlock (off % 0x10000) [0x0, 0x8, 0x10, 0x18, 0x20, 0x40, 0x48, 0x50, 0x58, 0x60, 0x100, 0x108, 0x110, 0x120, 0x128, 0x130,
      0x200, 0x208, 0x210, 0x218, 0x220, 0x300, 0x308, 0x310, 0x318, 0x400, 0x408, 0x410, 0x418, 0x420, 0x800, 0x808]
  else if off < 0x300000 then
    let o := off % 0x40000
    inBlock o [0x0, 0x8, 0x10, 0x18, 0x20, 0x28, 0x30, 0x40, 0x48] || inRow o 0x100 8 8
  else if off < 0x304000 then inBlock (off % 0x1000) [0x0, 0x8, 0x10, 0x18, 0x20, 0x28]
  else if off < 0x380000 then false
  else if off < 0x3C0000 then inRow (off - 0x380000) 0 8 8
  else if off < 0x400000 then inRow (off - 0x3C0000) 0 8 6
  else if off < 0x480000 then inRow (off - 0x400000) 0 8 8 || inRow (off - 0x400000) 0x100 8 16
  else if off < 0x500000 then inRow (off - 0x480000) 0 8 10
  else if off < 0x580000 then
    let o := off - 0x500000
    inRow o 0 8 6 || inRow o 0x100 8 16 || inBlock o [0x200, 0x208, 0x210, 0x218, 0x230]
  else if off < 0x5C0000 then
    let o := off - 0x580000
    inRow o 0 8 7 || inBlock o [0x40, 0x48, 0x50] || inRow o 0x100 8 9
  else inBlock off [0x5C0000, 0x5C0008]

/-! ### _CLR registers -/

/-- A counter that a bit clears. -/
def clrCnt (v i : Nat) (c : W32) : W32 := if bitAt v i then 0 else c
/-- A performance counter that a bit clears. -/
def clrPerf (v i : Nat) (p : Perf) : Perf := if bitAt v i then {} else p

/-- A _CLR register of reach n (02 R68; 03 R109, R111; 04 R151; 05 R187; 06 R213; 07 R248). -/
def Reach.clr (x : Reach) (o v : Nat) : Option Reach :=
  let c := x.cnt
  let p := x.perf
  match o with
  | 0x808 => some { x with cnt := { c with clamp := clrCnt v 1 c.clamp, narint := clrCnt v 0 c.narint } }
  | 0x060 => some { x with perf := { p with
      mac := clrPerf v 3 p.mac, macRem := if bitAt v 3 then 0 else p.macRem, sstall := clrPerf v 2 p.sstall
      wstall := clrPerf v 1 p.wstall, busy := clrPerf v 0 p.busy } }
  | 0x130 => some { x with cnt := { c with
      chkinv := clrCnt v 2 c.chkinv, range := clrCnt v 1 c.range, limit := clrCnt v 0 c.limit } }
  | 0x220 => some { x with cnt := { c with norm := clrCnt v 0 c.norm } }
  | 0x318 => some { x with cnt := { c with
      narrow := clrCnt v 2 c.narrow, rerun := clrCnt v 1 c.rerun, deny := clrCnt v 0 c.deny } }
  | 0x418 => some { x with perf := { p with
      dstall := clrPerf v 2 p.dstall, sfuBusy := clrPerf v 1 p.sfuBusy, veBusy := clrPerf v 0 p.veBusy } }
  | _ => none

/-- MEM_d_CLR (11 R386). -/
def MDie.clr (m : MDie) (v : Nat) : MDie :=
  { m with
    miss := clrPerf v 5 m.miss, hit := clrPerf v 4 m.hit, retry := clrCnt v 3 m.retry, quarCnt := clrCnt v 2 m.quarCnt
    ce := clrCnt v 1 m.ce, ue := clrCnt v 0 m.ue }

/-- NMU_d_CLR (09 R302). -/
def Nmu.clr (x : Nmu) (v : Nat) : Nmu :=
  let c := x.cnt
  { x with
    busy := clrPerf v 6 x.busy
    cnt := { skew := clrCnt v 0 c.skew, limit := clrCnt v 1 c.limit, torn := clrCnt v 2 c.torn, rownar := clrCnt v 3 c.rownar
             clamp := clrCnt v 4 c.clamp, narint := clrCnt v 5 c.narint } }

/-- CPL_CLR (14 R498). -/
def Cpl.clr (c : Cpl) (v : Nat) : Cpl :=
  let port (l : Vector W32 8) : Vector W32 8 := Vector.ofFn fun (i : Fin 8) => clrCnt v (8 + i.val) l[i]
  { c with
    uncorr := port c.uncorr, retry := port c.retry, bad := port c.bad, lost := clrCnt v 3 c.lost
    refused := clrCnt v 2 c.refused, failover := clrCnt v 1 c.failover, unsync := clrCnt v 0 c.unsync }

/-- RAS_CLR (16 R567). -/
def Ras.clr (r : Ras) (v : Nat) : Ras :=
  { r with
    dupTiles := clrPerf v 8 r.dupTiles, ringDrop := clrCnt v 7 r.ringDrop, refused := clrCnt v 6 r.refused
    late := clrCnt v 5 r.late, fail := clrCnt v 4 r.fail, replay := clrCnt v 3 r.replay, dupSkip := clrCnt v 2 r.dupSkip
    transient := clrCnt v 1 r.transient, mismatch := clrCnt v 0 r.mismatch }

/-- A write of a _CLR register; `none` at any other offset. -/
def State.clrWrite (s : State) (off v : Nat) : Option State :=
  match off with
  | 0x10110 => some { s with semRefused := clrCnt v 1 s.semRefused, semBroken := clrCnt v 0 s.semBroken }
  | 0x40028 => some { s with lkp := { s.lkp with
      stale := clrCnt v 2 s.lkp.stale, ovr := clrCnt v 1 s.lkp.ovr, full := clrCnt v 0 s.lkp.full } }
  | 0x380038 => some { s with pci := { s.pci with
      cplto := clrCnt v 3 s.pci.cplto, linkdn := clrCnt v 2 s.pci.linkdn, b2bad := clrCnt v 1 s.pci.b2bad
      badacc := clrCnt v 0 s.pci.badacc } }
  | 0x3C0028 => some { s with mgt := { s.mgt with
      authFail := clrCnt v 1 s.mgt.authFail, recDrop := clrCnt v 0 s.mgt.recDrop } }
  | 0x400038 => some { s with cpl := s.cpl.clr v }
  | 0x480048 => some { s with sec := { s.sec with denied := clrCnt v 1 s.sec.denied, rekey := clrCnt v 0 s.sec.rekey } }
  | 0x500230 => some { s with ras := s.ras.clr v }
  | 0x580030 => some { s with pwr := { s.pwr with
      shedCnt := clrCnt v 3 s.pwr.shedCnt, pmbErr := clrCnt v 2 s.pwr.pmbErr, droopCnt := clrCnt v 1 s.pwr.droopCnt
      overCnt := clrCnt v 0 s.pwr.overCnt } }
  | _ =>
    if off < 0x100000 then none
    else if h : (off - 0x100000) / 0x10000 < 16 then
      let n : Fin 16 := ⟨(off - 0x100000) / 0x10000, h⟩
      (s.reach[n].clr (off % 0x10000) v).map fun x => { s with reach := s.reach.set n x }
    else if h : (off - 0x200000) / 0x40000 < 4 then
      (if off % 0x40000 = 0x30 then some (s.modMdie ⟨(off - 0x200000) / 0x40000, h⟩ fun m => m.clr v) else none)
    else if off < 0x300000 then none
    else if h : (off - 0x300000) / 0x1000 < 4 then
      (if off % 0x1000 = 0x28 then some (s.modNmu ⟨(off - 0x300000) / 0x1000, h⟩ fun x => x.clr v) else none)
    else none

/-- The offset is that of a _CLR register. -/
def isClr (off : Nat) : Bool := (State.reset.clrWrite off 0).isSome

/-! ### Access -/

/-- A port's accesses reach the register block: the host's with Memory Space Enable set (13 R432), a session's while it is open. -/
def State.portOn (s : State) (p : Port) : Bool :=
  !s.dev.held &&
    match p with
    | .host => s.pci.mse
    | .mgmt i => s.mgt.sess[i].isSome

/-- A write of an RWL field (00 R11; 13 R449): refused unless the port holds the semaphore. The Nat is the outcome of 13 R443. -/
def State.rwl (s : State) (p : Port) (n : Fin 32) (f : State → State × Bool) : State × Nat :=
  if s.holds p n then let r := f s; (r.1, if r.2 then 2 else 0) else (s.semRefuse, 1)

/-- A write that cannot be discarded. -/
def keep (f : State → State) (s : State) : State × Bool := (f s, false)

/-- LKP_NARTRAP_CTL (08 R268). -/
def State.narCtl (s : State) (v : W64) : State :=
  let j := bits v.toNat 0 16
  match s.job? j with
  | none => s
  | some _ =>
    (s.modJob j fun y => { y with rearm := y.rearm || bitAt v.toNat 16, resume := y.resume || bitAt v.toNat 17 }).unlessForced
      fun s => s.trapRequests j

/-- PRF_CMD (12 R412, R423, R427): a reserved OP is discarded and starts nothing; RESTART is a warm reset, refused like any command
while a change or polder command is in progress. -/
def State.prfCmdWrite (s : State) (p : Port) (v : W64) : State × Bool :=
  let op := bits v.toNat 8 4
  if op = 0 ∨ 6 ≤ op then
    ({ s with prf := { s.prf with
      cmd := BitVec.ofNat 64 (bits s.prf.cmd.toNat 8 4 * 256 + bits v.toNat 7 1 * 128 + bits v.toNat 4 2 * 16 + bits v.toNat 0 2) } }, true)
  else if op = 5 then (if s.prf.chg ≠ .none then s.prfBusy p v else s.warmReset s.board, false)
  else (s.prfCmd p v, false)

/-- PRF_FLASH_ADDR and PRF_FLASH_DEV (12 R426). -/
def State.flashAddrWrite (s : State) (v : W64) : State := { s with prf := { s.prf with flashAddr := v.setWidth 29 } }

/-- The buffer's address is a multiple of 64. -/
def State.flashDevWrite (s : State) (v : W64) : State × Bool :=
  if bits v.toNat 0 6 ≠ 0 then (s, true) else ({ s with prf := { s.prf with flashDev := v.setWidth 40 } }, false)

/-- A write of a flash register. -/
def State.flashReg (s : State) (p : Port) (off : Nat) (v : W64) : State × Bool :=
  match off with
  | 0x20100 => keep (fun s => s.flashAddrWrite v) s
  | 0x20108 => s.flashDevWrite v
  | _ => keep (fun s => s.flashCmd p v) s

/-- PWR_FLOOR (17 R591): 6 and 7 are reserved. -/
def State.floorWrite (s : State) (v : W64) : State × Bool :=
  if 6 ≤ bits v.toNat 0 3 then (s, true)
  else (({ s with pwr := { s.pwr with floor := v.setWidth 3 } }).demandMoved, false)

/-- PCI_HBQ_CFG (13 R453). -/
def State.hbqCfg (s : State) (v : W64) : State :=
  { s with pci := { s.pci with irqEn := bitAt v.toNat 11, vector := v.setWidth 11 } }

/-- MGT_COLL_HI (13 R454). -/
def State.collHiWrite (s : State) (v : W64) : State := { s with mgt := { s.mgt with collHi := v } }

/-- MGT_COLL_LO (13 R454): the address takes effect for the next RECORD. -/
def State.collLoWrite (s : State) (v : W64) : State := { s with mgt := { s.mgt with collLo := v, coll := s.mgt.collHi ++ v } }

/-- Writes that a draining or drained device serves (16 R556), besides the _CLR registers. -/
def drainServes (off : Nat) : Bool :=
  (decide (0x10000 ≤ off) && decide (off < 0x10100)) || off == 0x480030 || off == 0x500200 || off == 0x500208 || off == 0x500210

/-- A write of a register that is neither a _CLR register nor SEC_MODE; RO registers take none (00 R11). -/
def State.plainWrite (s : State) (p : Port) (off : Nat) (v : W64) : State × Nat :=
  let done (s : State) : State × Nat := (s, 0)
  if h : 0x10000 ≤ off ∧ off < 0x10100 then done (s.semWrite p ⟨(off - 0x10000) / 8, by omega⟩ v)
  else match off with
  | 0x20008 => s.rwl p 1 fun s => s.prfCmdWrite p v
  | 0x20100 => s.rwl p 2 fun s => s.flashReg p 0x20100 v
  | 0x20108 => s.rwl p 2 fun s => s.flashReg p 0x20108 v
  | 0x20110 => s.rwl p 2 fun s => s.flashReg p 0x20110 v
  | 0x40010 => done (s.abort p v)
  | 0x40F00 => done (s.narCtl v)
  | 0x80000 => done (s.ctxCmd p v)
  | 0x380008 => s.rwl p 5 fun s => s.b2Win v
  | 0x380010 => done (s.hbqCmd p v)
  | 0x380018 => s.rwl p 5 (keep fun s => s.hbqCfg v)
  | 0x3C0008 => s.rwl p 5 (keep fun s => s.collHiWrite v)
  | 0x3C0010 => s.rwl p 5 (keep fun s => s.collLoWrite v)
  | 0x400008 => s.rwl p 6 fun s => s.cplCmd p v
  | 0x480030 => s.rwl p 7 (keep fun s => s.attCmd p v)
  | 0x500200 => s.rwl p 8 fun s => s.rasBase v
  | 0x500208 => s.rwl p 8 fun s => s.rasCfg v
  | 0x500210 => done (s.rasHead v)
  | 0x580018 => s.rwl p 9 fun s => s.floorWrite v
  | _ =>
    if 0x44000 ≤ off ∧ off < 0x4C000 then
      let e := (off - 0x44000) / 0x20
      match off % 0x20 with
      | 0x00 => s.rwl p 4 fun s => s.egrBase e v
      | 0x08 => s.rwl p 4 fun s => s.egrCfg e v
      | 0x10 => done (s.egrHead e v)
      | _ => done s
    else if h : 0x100000 ≤ off ∧ off < 0x200000 then
      let n : Fin 16 := ⟨(off - 0x100000) / 0x10000, by omega⟩
      match off % 0x10000 with
      | 0x100 => done (s.modReach n fun x => { x with
          qlane := BitVec.ofNat 8 (bits v.toNat 9 8), qword := BitVec.ofNat 9 (bits v.toNat 0 9) })
      | 0x208 => s.rwl p 3 (keep fun s => s.sfuReload n p v)
      | 0x210 => s.rwl p 3 (keep fun s => if bitAt v.toNat 0 then s.sfuSwitch n p else s)
      | _ => done s
    else done s

/-- A write of SEC_MODE (15 R527, R532): only a session with MAINTENANCE authority writes it. -/
def State.secModeWrite (s : State) (p : Port) (v : W64) : State × Nat :=
  match p with
  | .host => (s.authDenied p, 3)
  | .mgmt i =>
    match s.mgt.sess[i] with
    | some x => if !x.maint then (s.authDenied p, 3)
      else if s.draining then (s.drainedRefuse, 2)
      else (s.secMode x.id v, 0)
    | none => (s, 3)

/-- A write of a register by a port, with its outcome (13 R443): 0 applied, 1 refused under RWL, 2 discarded, 3 needs MAINTENANCE. -/
def State.regWrite (s : State) (p : Port) (off : Nat) (v : W64) : State × Nat :=
  if !s.prf.ready then
    (if s.prf.recovery && p == Port.host && (off == 0x20100 || off == 0x20108 || off == 0x20110) then
      let r := s.flashReg p off v
      (r.1, if r.2 then 2 else 0)
     else (s, 2))
  else if off % 8 ≠ 0 ∨ !regDefined off then (s, 2)
  else if off = 0x480028 then s.secModeWrite p v
  else
    match s.clrWrite off v.toNat with
    | some s => (s, 0)
    | none => if s.draining && !drainServes off then (s.drainedRefuse, 2) else s.plainWrite p off v

/-- PCI_BAD_ACCESS (13 R429). -/
def State.badAccess (s : State) : State := { s with pci := { s.pci with badacc := stick32 s.pci.badacc 1 } }

/-- A port's write, where it reaches the registers; the host's must be aligned (13 R429). -/
def State.portWrite (s : State) (p : Port) (off : Nat) (v : W64) : State :=
  if !s.portOn p then s
  else if p = .host ∧ off % 8 ≠ 0 ∧ s.prf.ready then s.badAccess
  else (s.regWrite p off v).1

/-! ### The host's accesses and the commands that are a write -/

/-- An access keeps R429: a naturally aligned one of 64 bits, or of 32 bits by a read. -/
def bar0Ok (off len : Nat) (read : Bool) : Bool := (len == 8 && off % 8 == 0) || (read && len == 4 && off % 4 == 0)

/-- PCI_BAD_ACCESS (R9, R429, R439; 12 R410): a request of the host's at BAR0. An access that keeps R429 is served, a 32-bit read by the
addressed half of the register. Of the others a read completes with all bits zero, a write is discarded, and both are counted, but for a
write before the ready point. A request that is not supported is answered so, and it and an error that the link corrects are reported. -/
def execPciBadAccess (off : BitVec 26) (req : HostReq) (s : State) : Host.Outcome State Fault Refusal :=
  .next (
    if s.dev.held then s
    else match req with
      | .unsupported => (s.send (.pciCompletion 2 false [])).send (.aer 0 none)
      | .replayed => s.send (.aer 5 none)
      | .read len =>
        if !s.pci.mse then s
        else if bar0Ok off.toNat len true then
          (if s.sec.debug then s.bump else s).send (.pciCompletion 0 false
            (((leBytes 8 (s.readReg (off.toNat / 8 * 8)).toNat).drop (off.toNat % 8)).take len))
        else s.badAccess.send (.pciCompletion 0 false (List.replicate len 0))
      | .write d =>
        if !s.pci.mse then s
        else if bar0Ok off.toNat d.length false then s.portWrite .host off.toNat (BitVec.ofNat 64 (leNat d))
        else if s.prf.ready then s.badAccess else s)

/-- REGISTER_WRITE. -/
def execRegisterWrite (p : Port) (off : BitVec 26) (v : W64) (s : State) : Host.Outcome State Fault Refusal :=
  .next (s.portWrite p off.toNat v)

/-- COUNTER_CLEAR: a write of a _CLR register. -/
def execCounterClear (p : Port) (off : BitVec 26) (v : W64) (s : State) : Host.Outcome State Fault Refusal :=
  .next (if isClr off.toNat then s.portWrite p off.toNat v else s)

/-- SFU_RELOAD (05 R172). -/
def execSfuReload (p : Port) (n : Fin 16) (v : W64) (s : State) : Host.Outcome State Fault Refusal :=
  .next (s.portWrite p (0x100208 + n.val * 0x10000) v)

/-- SFU_SWITCH (05 R173): REQ is written 1. -/
def execSfuSwitch (p : Port) (n : Fin 16) (s : State) : Host.Outcome State Fault Refusal :=
  .next (s.portWrite p (0x100210 + n.val * 0x10000) 1)

/-- LKP_ABORT (10 R332). -/
def execLkpAbort (p : Port) (job : W16) (step : BitVec 48) (s : State) : Host.Outcome State Fault Refusal :=
  .next (s.portWrite p 0x40010 (job ++ step))

/-- LKP_NARTRAP_CTL with REARM (08 R268). -/
def execNartrapRearm (p : Port) (job : W16) (s : State) : Host.Outcome State Fault Refusal :=
  .next (s.portWrite p 0x40F00 (BitVec.ofNat 64 (2 ^ 16 + job.toNat)))

/-- LKP_NARTRAP_CTL with RESUME (08 R268). -/
def execNartrapResume (p : Port) (job : W16) (s : State) : Host.Outcome State Fault Refusal :=
  .next (s.portWrite p 0x40F00 (BitVec.ofNat 64 (2 ^ 17 + job.toNat)))

/-- CTX_CMD CREATE (10 R324) of the command block at BLOCK · 128. -/
def execCreate (p : Port) (block : BitVec 33) (s : State) : Host.Outcome State Fault Refusal :=
  .next (s.portWrite p 0x80000 (BitVec.ofNat 64 (block.toNat * 128 + 1)))

/-- CTX_CMD DESTROY (10 R324). -/
def execDestroy (p : Port) (block : BitVec 33) (s : State) : Host.Outcome State Fault Refusal :=
  .next (s.portWrite p 0x80000 (BitVec.ofNat 64 (block.toNat * 128 + 2)))

/-- A write of LKP_EGR_e_BASE, or with `cfg` of LKP_EGR_e_CFG (10 R347). -/
def execEgrRingConfig (p : Port) (e : BitVec 10) (cfg : Bool) (v : W64) (s : State) : Host.Outcome State Fault Refusal :=
  .next (s.portWrite p (0x44000 + e.toNat * 0x20 + if cfg then 8 else 0) v)

/-- A write of LKP_EGR_e_HEAD (10 R348). -/
def execEgrHeadWrite (p : Port) (e : BitVec 10) (head : W32) (s : State) : Host.Outcome State Fault Refusal :=
  .next (s.portWrite p (0x44000 + e.toNat * 0x20 + 0x10) (head.setWidth 64))

/-- A value of PRF_CMD. -/
def prfWord (op : Nat) (drainOk : Bool) (slot polder : BitVec 2) : W64 :=
  BitVec.ofNat 64 (op * 256 + b2n drainOk * 128 + slot.toNat * 16 + polder.toNat)

/-- PRF_CMD ACTIVATE (12 R406, R414, R423). -/
def execActivate (p : Port) (slot : BitVec 2) (drainOk : Bool) (s : State) : Host.Outcome State Fault Refusal :=
  .next (s.portWrite p 0x20008 (prfWord 1 drainOk slot 0))

/-- PRF_CMD VERIFY (12 R407). -/
def execVerify (p : Port) (slot : BitVec 2) (s : State) : Host.Outcome State Fault Refusal :=
  .next (s.portWrite p 0x20008 (prfWord 2 false slot 0))

/-- PRF_CMD POLDER_DRAIN (12 R421). -/
def execPolderDrain (p : Port) (k : BitVec 2) (s : State) : Host.Outcome State Fault Refusal :=
  .next (s.portWrite p 0x20008 (prfWord 3 false 0 k))

/-- PRF_CMD POLDER_RESUME (12 R421). -/
def execPolderResume (p : Port) (k : BitVec 2) (s : State) : Host.Outcome State Fault Refusal :=
  .next (s.portWrite p 0x20008 (prfWord 4 false 0 k))

/-- PRF_CMD RESTART (12 R412): `b` is what the start finds. -/
def execRestart (p : Port) (b : StartIn) (s : State) : Host.Outcome State Fault Refusal :=
  .next (
    let t := ({ s with board := b }).portWrite p 0x20008 (prfWord 5 false 0 0)
    if t.fresh = s.fresh then { t with board := s.board } else t)

/-- A value of PRF_FLASH_CMD. -/
def flashWord (op : Nat) (pages : BitVec 25) : W64 := BitVec.ofNat 64 (op * 2 ^ 30 + pages.toNat)

/-- PRF_FLASH_CMD READ (12 R399, R426). -/
def execFlashRead (p : Port) (pages : BitVec 25) (s : State) : Host.Outcome State Fault Refusal :=
  .next (s.portWrite p 0x20110 (flashWord 1 pages))

/-- PRF_FLASH_CMD ERASE. -/
def execFlashErase (p : Port) (pages : BitVec 25) (s : State) : Host.Outcome State Fault Refusal :=
  .next (s.portWrite p 0x20110 (flashWord 2 pages))

/-- PRF_FLASH_CMD PROGRAM. -/
def execFlashProgram (p : Port) (pages : BitVec 25) (s : State) : Host.Outcome State Fault Refusal :=
  .next (s.portWrite p 0x20110 (flashWord 3 pages))

/-- A write of PCI_B2_WIN (13 R432): BASE. -/
def execB2WinWrite (p : Port) (base : BitVec 12) (s : State) : Host.Outcome State Fault Refusal :=
  .next (s.portWrite p 0x380008 (BitVec.ofNat 64 (base.toNat * 2 ^ 28)))

/-- A write of PCI_HBQ_CMD (13 R433): DESC. -/
def execHbqCmd (p : Port) (desc : BitVec 34) (s : State) : Host.Outcome State Fault Refusal :=
  .next (s.portWrite p 0x380010 (BitVec.ofNat 64 (desc.toNat * 64)))

/-- The offset of SEM_n (13 R451). -/
def semOff (n : Fin 32) : Nat := 0x10000 + 8 * n.val

/-- SEM_n TAKE (13 R448). -/
def execTake (p : Port) (n : Fin 32) (s : State) : Host.Outcome State Fault Refusal := .next (s.portWrite p (semOff n) 8)

/-- SEM_n RELEASE (13 R448). -/
def execRelease (p : Port) (n : Fin 32) (s : State) : Host.Outcome State Fault Refusal := .next (s.portWrite p (semOff n) 16)

/-- SEM_n BREAK (13 R448). -/
def execBreak (p : Port) (n : Fin 32) (s : State) : Host.Outcome State Fault Refusal := .next (s.portWrite p (semOff n) 32)

/-- A value of CPL_CMD (14 R495). -/
def cplWord (op slot member delay : Nat) : W64 := BitVec.ofNat 64 (delay * 2 ^ 24 + member * 2 ^ 16 + slot * 16 + op)

/-- CPL_CMD BASIN_SWITCH (14 R491, R495). -/
def execBasinSwitch (p : Port) (slot : BitVec 2) (delay : BitVec 16) (s : State) : Host.Outcome State Fault Refusal :=
  .next (s.portWrite p 0x400008 (cplWord 1 slot.toNat 0 delay.toNat))

/-- CPL_CMD LEAVE (14 R477). -/
def execLeave (p : Port) (s : State) : Host.Outcome State Fault Refusal := .next (s.portWrite p 0x400008 (cplWord 2 0 0 0))

/-- CPL_CMD JOIN (14 R477). -/
def execCplJoinCmd (p : Port) (s : State) : Host.Outcome State Fault Refusal := .next (s.portWrite p 0x400008 (cplWord 3 0 0 0))

/-- CPL_CMD RELIEVE (14 R490). -/
def execRelieve (p : Port) (member : Byte) (s : State) : Host.Outcome State Fault Refusal :=
  .next (s.portWrite p 0x400008 (cplWord 4 0 member.toNat 0))

/-- SEC_MODE with DEBUG written 1 and MAINT as it stands (15 R528). -/
def execDebugEnter (p : Port) (s : State) : Host.Outcome State Fault Refusal :=
  .next (s.portWrite p 0x480028 (BitVec.ofNat 64 (2 + b2n s.sec.maint)))

/-- SEC_MODE with MAINT written (15 R526). -/
def execMaintMode (p : Port) (on : Bool) (s : State) : Host.Outcome State Fault Refusal :=
  .next (s.portWrite p 0x480028 (BitVec.ofNat 64 (b2n on)))

/-- A write of SEC_ATT_CMD (15 R524). -/
def execSecAttCmd (p : Port) (buf : BitVec 34) (go : Bool) (s : State) : Host.Outcome State Fault Refusal :=
  .next (s.portWrite p 0x480030 (BitVec.ofNat 64 (buf.toNat * 64 + b2n go)))

/-- A write of RAS_RING_BASE, or with `cfg` of RAS_RING_CFG (16 R565). -/
def execRasRingConfig (p : Port) (cfg : Bool) (v : W64) (s : State) : Host.Outcome State Fault Refusal :=
  .next (s.portWrite p (if cfg then 0x500208 else 0x500200) v)

/-- A write of RAS_RING_HEAD (16 R566). -/
def execRasRingHeadWrite (p : Port) (head : W32) (s : State) : Host.Outcome State Fault Refusal :=
  .next (s.portWrite p 0x500210 (head.setWidth 64))

/-- A write of PWR_FLOOR (17 R591). -/
def execPwrFloorWrite (p : Port) (floor : BitVec 3) (s : State) : Host.Outcome State Fault Refusal :=
  .next (s.portWrite p 0x580018 (floor.setWidth 64))

end Sys2Proof.Machine
end

