-- ==== Sys2Proof/Machine/Emp.lean ====
section
/-! DEFINITION. The management port: EMP requests and their replies (13 R440 to R446; 15 R517, R518, R523; 16 R558, R559), and its
link. A request's payload stands from byte 0; where the command itself fixes byte 0 (the steps of SESSION, OP of MAINT), that byte is
not read. -/

namespace Sys2Proof

/-- The datagram is one that the device takes (R441): to its port, whole, and not too long. -/
def EmpReq.taken (q : EmpReq) : Bool := q.port == 49210 && !q.frag && decide (q.payload.length ≤ 1192)

/-- The header keeps R441. -/
def EmpReq.form (q : EmpReq) : Bool :=
  q.magic == 0xE3B1 && q.version == 1 && ((q.len.map fun n => n.toNat == q.payload.length).getD true) && q.status == 0 &&
    q.flags == 0 && q.zero == 0

end Sys2Proof

namespace Sys2Proof.Machine

/-- The port is served (R410; 17 R586). -/
def State.empServed (s : State) : Bool := s.mgtServed && !s.dev.held

/-- The open session of an identifier. -/
def State.sessOf (s : State) (id : W64) : Option (Fin 4) :=
  (List.finRange 4).find? fun (i : Fin 4) => (s.mgt.sess[i].map (·.id)) == some id

/-- EMP_AUTH_FAIL (R444). -/
def State.authFail (s : State) : State := { s with mgt := { s.mgt with authFail := stick32 s.mgt.authFail 1 } }

/-- A reply leaves. -/
def State.empSend (s : State) (q : EmpReq) (status : Nat) (reply : List Byte) : State :=
  s.send (.empReply q.session.toNat q.seq status reply)

/-- The session that a request comes in, and whether the request is a new one or repeats the last accepted one (R444). -/
inductive EmpIn where
  | discard
  | authFail
  | again (status : Nat) (reply : List Byte)
  | busy
  | fresh (i : Fin 4) (maint : Bool)
  deriving DecidableEq, Repr

/-- What R444 and R445 say of a request before its command is looked at. -/
def State.empIn (s : State) (q : EmpReq) : EmpIn :=
  if !s.empServed || !q.taken then .discard
  else
    match s.sessOf q.session with
    | none => .authFail
    | some i =>
      if !q.ok then .authFail
      else
        match s.mgt.sess[i] with
        | none => .authFail
        | some x =>
          let new : EmpIn := if q.busy then .busy else .fresh i x.maint
          match x.seq with
          | some l => if l = q.seq then .again x.status x.reply else if newer32 q.seq l then new else .discard
          | none => new

/-- A carried-out request is answered and its reply stored, unless the command has ended the session. -/
def State.empAnswer (s : State) (i : Fin 4) (q : EmpReq) (status : Nat) (reply : List Byte) : State :=
  if (s.mgt.sess[i].map (·.id)) = some q.session then
    (s.modSess i fun x => { x with seq := some q.seq, status, reply }).empSend q status reply
  else s

/-- What a command makes of the state: a status and a reply payload. -/
abbrev EmpRes := State × Nat × List Byte

/-- A request in a session: authority, form, then the command `f` (R442, R444; 15 R527). -/
def State.emp (s : State) (q : EmpReq) (maint form : Bool) (f : Fin 4 → State → EmpRes) : State :=
  match s.empIn q with
  | .discard => s
  | .authFail => s.authFail
  | .again st r => s.empSend q st r
  | .busy => s.empSend q 3 []
  | .fresh i m =>
    if maint && !m then (s.authDenied (.mgmt i)).empAnswer i q 2 []
    else if !q.form || !form then s.empAnswer i q 1 []
    else
      let r := f i s
      r.1.empAnswer i q r.2.1 r.2.2

/-- Bytes of a request's payload as a number. -/
def reqNat (q : EmpReq) (o n : Nat) : Nat := leNat ((q.payload.drop o).take n)

/-! ### READ and WRITE -/

/-- READ keeps R442. -/
def readForm (q : EmpReq) : Bool :=
  q.payload.length == 8 && reqNat q 0 4 % 8 == 0 && decide (1 ≤ reqNat q 4 2) && decide (reqNat q 4 2 ≤ 148) && reqNat q 6 2 == 0

/-- The values of a READ. -/
def State.empValues (s : State) (q : EmpReq) : List Byte :=
  (List.range (reqNat q 4 2)).flatMap fun k => leBytes 8 (s.readReg (reqNat q 0 4 + 8 * k)).toNat

/-- EMP_READ (R442). What the DBG_ block gives in debug state is free (19 R615): the counter of free values moves on. -/
def execEmpRead (q : EmpReq) (s : State) : Host.Outcome State Fault Refusal :=
  .next (s.emp q false (readForm q) fun _ s =>
    ((if s.sec.debug then s.bump else s), 0, q.payload ++ s.empValues q))

/-- WRITE keeps R442. -/
def writeForm (q : EmpReq) : Bool :=
  let n := q.payload.length / 16
  q.payload.length % 16 == 0 && decide (1 ≤ n) && decide (n ≤ 74) && (List.range n).all fun k => reqNat q (16 * k + 4) 4 == 0

/-- The pairs of a WRITE in order, and their outcome bytes (R443). -/
def State.empPairs (s : State) (q : EmpReq) (p : Port) : State × List Byte :=
  (List.range (q.payload.length / 16)).foldl (fun (r : State × List Byte) k =>
    let w := r.1.regWrite p (reqNat q (16 * k) 4) (BitVec.ofNat 64 (reqNat q (16 * k + 8) 8))
    (w.1, r.2 ++ [BitVec.ofNat 8 w.2])) (s, [])

/-- EMP_WRITE (R442, R443). -/
def execEmpWrite (q : EmpReq) (s : State) : Host.Outcome State Fault Refusal :=
  .next (s.emp q false (writeForm q) fun i s =>
    let r := s.empPairs q (.mgmt i)
    (r.1, 0, r.2))

/-! ### ATTEST, RESTART, RECORD_ACK -/

/-- A fragment of a kept report, or BAD_FORMAT (15 R523). -/
def attFragment (report nonce : List Byte) (q : EmpReq) : Nat × List Byte :=
  let i := reqNat q 36 4
  if q.payload.take 32 ≠ nonce ∨ report.length ≤ 1024 * i then (1, [])
  else (0, leBytes 4 report.length ++ leBytes 4 i ++ (report.drop (1024 * i)).take 1024)

/-- ATTEST in a session (15 R523, R524). -/
def State.attest (s : State) (q : EmpReq) (i : Fin 4) : EmpRes :=
  if s.attStop ≠ 0 then (s, 2, [])
  else if reqNat q 36 4 = 0 then
    (if s.sec.att.isSome then (s.raise { code := 0x0609, kind := portKind (.mgmt i) }, 3, [])
    else
      let nonce := q.payload.take 32
      let r := s.report nonce (BitVec.ofNat 32 (reqNat q 32 4))
      let a := attFragment r nonce q
      (s.draw.modSess i fun x => { x with report := some (r, nonce) }, a.1, a.2))
  else
    match s.mgt.sess[i].bind (·.report) with
    | some k =>
      let a := attFragment k.1 k.2 q
      (s, a.1, a.2)
    | none => (s, 1, [])

/-- ATTEST (15 R523). -/
def execAttest (q : EmpReq) (s : State) : Host.Outcome State Fault Refusal :=
  .next (s.emp q false (q.payload.length == 40) fun i s => s.attest q i)

/-- EMP_RESTART (R442): the warm reset of 12 R412 follows the reply; `b` is what the start finds. -/
def execEmpRestart (q : EmpReq) (b : StartIn) (s : State) : Host.Outcome State Fault Refusal :=
  let r := s.emp q true q.payload.isEmpty fun _ s => (s, 0, [])
  .next (match s.empIn q with
    | .fresh _ true => if q.form && q.payload.isEmpty then r.warmReset b else r
    | _ => r)

/-- Records up to number n are acknowledged (R446). -/
def State.ackRecords (s : State) (n : W32) : State :=
  let m := s.mgt
  let left (l : List ErrRec) : List ErrRec := l.filter fun r => newer32 r.seq n
  { s with mgt := { m with
    recs := left m.recs, sent := (left (m.recs.take m.sent)).length, acked := if newer32 n m.acked then n else m.acked } }

/-- RECORD_ACK (R442, R446). -/
def execRecordAck (q : EmpReq) (s : State) : Host.Outcome State Fault Refusal :=
  .next (s.emp q false (q.payload.length == 4) fun _ s => (s.ackRecords (BitVec.ofNat 32 (reqNat q 0 4)), 0, []))

/-- EMP_UNKNOWN_CMD (R444): CMD is none of a request's in R442. -/
def execEmpUnknownCmd (cmd : Byte) (q : EmpReq) (s : State) : Host.Outcome State Fault Refusal :=
  .next (if [1, 2, 3, 4, 5, 7, 8].contains cmd.toNat then s else s.emp q false true fun _ s => (s, 4, []))

/-! ### SESSION (15 R517, R518) -/

/-- A SESSION request carries SESSION 0 and a zero tag; any other does not authenticate. -/
def State.sessionReq (s : State) (q : EmpReq) (f : State → EmpRes) : State :=
  if !s.empServed || !q.taken then s
  else if q.session ≠ 0 then s.authFail
  else if q.busy then s.empSend q 3 []
  else
    let r := f s
    r.1.empSend q r.2.1 r.2.2

/-- CHAIN: a fragment of the certificate chain. -/
def execChain (q : EmpReq) (s : State) : Host.Outcome State Fault Refusal :=
  .next (s.sessionReq q fun s =>
    if !q.form || q.payload.length ≠ 8 then (s, 1, [])
    else (s, 0, (s.certChain.drop (1024 * reqNat q 4 4)).take 1024))

/-- A credential is accepted (R517); `c` holds its 256 bytes. -/
def State.credential (s : State) (c : List Byte) : Bool :=
  let f (o n : Nat) : Nat := leNat ((c.drop o).take n)
  let op := (c.drop 104).take 64
  f 0 4 == 0xFD31C0DE && (f 4 1 == 1 || f 4 1 == 2) && sm3 op == s.prf.opKey &&
    Config.sm2Verify op (sm3 (c.take 192)) ((c.drop 192).take 64) && (f 8 32 == 0 || f 8 32 == s.sec.idDigest.toNat)

/-- SEC_SESSION_REFUSED with the credential's SCOPE. -/
def State.sessionRefused (s : State) (scope : Nat) : State :=
  s.raise { code := 0x0604, kind := portKind (.mgmt 0)
            d0 := bits scope 0 64, d1 := bits scope 64 64, d2 := bits scope 128 64, d3 := bits scope 192 64 }

/-- The lowest-numbered free session. -/
def Mgt.freeSlot (m : Mgt) : Option (Fin 4) := (List.finRange 4).find? fun (i : Fin 4) => m.sess[i].isNone

/-- A session opens: identifier, ephemeral key and nonce come from the generator, and the identity key signs the reply. -/
def State.openSession (s : State) (q : EmpReq) (i : Fin 4) : EmpRes :=
  let d := s.sec.draws
  let id := Config.random64 d
  let pad (n : Nat) (l : List Byte) : List Byte := (l ++ List.replicate n 0).take n
  let head := leBytes 8 id.toNat ++ pad 64 (Config.ephemeralKey (d + 1)) ++
    ((List.range 4).flatMap fun k => leBytes 8 (Config.random64 (d + 2 + k)).toNat)
  let sig := pad 64 (Config.sm2Sign (d + 6) (sm3 (q.payload ++ head)))
  let x : Session :=
    { id, maint := reqNat q 8 1 == 2, coll := bitAt (reqNat q 1 1) 0, nth := s.mgt.opened, station := (q.payload.drop 44).take 64 }
  ({ s with
     sec := { s.sec with draws := d + 7 }
     mgt := { s.mgt with sess := s.mgt.sess.set i (some x), opened := s.mgt.opened + 1 } }, 0, head ++ sig)

/-- OPEN. -/
def execSessionOpen (q : EmpReq) (s : State) : Host.Outcome State Fault Refusal :=
  .next (s.sessionReq q fun s =>
    if !q.form || q.payload.length ≠ 356 then (s, 1, [])
    else if s.attStop ≠ 0 then (s, 2, [])
    else
      let c := (q.payload.drop 4).take 256
      if !s.credential c || (bitAt (reqNat q 1 1) 0 && !bitAt (reqNat q 9 1) 0) then (s.sessionRefused (reqNat q 12 32), 2, [])
      else
        match s.mgt.freeSlot with
        | none => (s, 3, [])
        | some i => s.openSession q i)

/-! ### MAINT (16 R558, R559) -/

/-- What the active half of the fault log says, the records owed to it included. -/
def State.logNow (s : State) : FLog :=
  s.prf.flogOwed.foldl (fun f r => f.apply r.1 r.2) (flogOf (s.half s.prf.flogHalf))

/-- CONFIRM names this device. -/
def State.confirmed (s : State) (q : EmpReq) : Bool := reqNat q 8 8 == bits s.sec.idDigest.toNat 0 64

/-- A reply of MAINT: RESULT, SEQ and what follows. -/
def maintReply (result : Nat) (seq : W32) (rest : List Byte) : List Byte := leBytes 4 result ++ leBytes 4 seq.toNat ++ rest

/-- The MAINT record (12 R396). -/
def recMaint (op a0 a1 : Nat) (station : List Byte) (time : W64) : Nat × List Byte :=
  (7, flogBody (leBytes 1 op ++ leBytes 1 a0 ++ leBytes 1 a1) (leBytes 32 (sm3 station).toNat ++ leBytes 8 time.toNat))

/-- A clearing operation: `good`, its arguments are in range; `there`, there is something to clear; `flash`, the flash works. -/
def State.maintClear (s : State) (q : EmpReq) (op : Nat) (good there flash : Bool) (i : Fin 4) : EmpRes :=
  if !good || !s.confirmed q then (s, 0, maintReply 1 0 [])
  else if !there then (s, 0, maintReply 2 0 [])
  else if !flash then (s, 0, maintReply 3 0 [])
  else
    let s := s.flogFlush
    let x := s.mgt.sess[i]
    let rec_ := recMaint op (reqNat q 2 2) (reqNat q 4 2) ((x.map (·.station)).getD []) s.time
    let s := s.flogAppend rec_
    let seq := s.prf.flogSeq - 1
    (s.raise { code := 0x080C, kind := portKind (.mgmt i), addr := op, d0 := ((x.map fun (y : Session) => y.id).getD 0).toNat
               d1 := reqNat q 2 2, d2 := reqNat q 4 2 }, 0, maintReply 0 seq [])

/-- MAINT requests have the fields of R558. -/
def maintForm (q : EmpReq) : Bool := q.payload.length == 20 && reqNat q 1 1 == 0 && reqNat q 6 2 == 0

/-- CLEAR_FLAG. -/
def execClearFlag (q : EmpReq) (flash : Bool) (s : State) : Host.Outcome State Fault Refusal :=
  .next (s.emp q true (maintForm q) fun i s => s.maintClear q 1 true s.logNow.flag.isSome flash i)

/-- CLEAR_MARK. -/
def execClearMark (q : EmpReq) (flash : Bool) (s : State) : Host.Outcome State Fault Refusal :=
  .next (s.emp q true (maintForm q) fun i s =>
    s.maintClear q 2 (decide (reqNat q 2 2 < 32)) (s.logNow.marks.contains (reqNat q 2 2)) flash i)

/-- CLEAR_LANE. -/
def execClearLane (q : EmpReq) (flash : Bool) (s : State) : Host.Outcome State Fault Refusal :=
  .next (s.emp q true (maintForm q) fun i s =>
    let n := reqNat q 2 2
    let l := reqNat q 4 2
    s.maintClear q 3 (decide (n < 16) && decide (l < 256)) ((slook 0 s.logNow.bypass (4 * n + l / 64)).getLsbD (l % 64)) flash i)

/-- LOG_READ: a fragment of the active half. -/
def execLogRead (q : EmpReq) (flash : Bool) (s : State) : Host.Outcome State Fault Refusal :=
  .next (s.emp q true (maintForm q) fun _ s =>
    let f := reqNat q 16 4
    if !s.confirmed q || decide (0x800000 ≤ 1024 * f) then (s, 0, maintReply 1 0 [])
    else if !flash then (s, 0, maintReply 3 0 [])
    else (s, 0, maintReply 0 0 (s.flashRead (halfBase s.prf.flogHalf + 1024 * f) 1024)))

/-! ### The rest of the port (R440, R454) -/

/-- ICMPV6_ECHO: an echo request with `data` is answered. -/
def execIcmpv6Echo (data : List Byte) (s : State) : Host.Outcome State Fault Refusal :=
  .next (if s.empServed then s.send (.ipv6 0 data) else s)

/-- NEIGHBOUR_DISCOVERY: a solicitation for one of the device's addresses is answered with the MAC address; a router's prefix gives the
device one more address. -/
def execNeighbourDiscovery (x : NdMsg) (s : State) : Host.Outcome State Fault Refusal :=
  .next (if !s.empServed then s
    else match x with
    | .solicit t => if s.mgt.addrs.contains t then s.send (.ipv6 1 ((leBytes 16 t.toNat).reverse ++ (leBytes 6 s.mgt.mac.toNat).reverse)) else s
    | .prefix_ p =>
      let a := ipv6Addr p s.mgt.mac
      if s.mgt.addrs.contains a then s else { s with mgt := { s.mgt with addrs := s.mgt.addrs ++ [a] } })

/-- The Ethernet link's state. -/
def State.mgtLink (s : State) (up : Bool) : State := { s with mgt := { s.mgt with link := up } }

/-- MGT_LINK_DOWN (R454): the lock schedule runs on (01 R20). -/
def execMgtLinkDown (s : State) : Host.Outcome State Fault Refusal := .next (s.mgtLink false)

/-- MGT_LINK_UP (R440): a device that is held has no port. -/
def execMgtLinkUp (s : State) : Host.Outcome State Fault Refusal := .next (if s.dev.held then s else s.mgtLink true)

end Sys2Proof.Machine
end

