-- ==== Sys2Proof/Machine/MemRas.lean ====
section
/-! DEFINITION. Errors of memory and of the die-to-die links (11 R357, R362 to R364, R368 to R370, R381 to R384): what a read finds in a
line, quarantine, failing rows and modules that fail. -/

namespace Sys2Proof.Machine

/-! ### Failing rows (R369, R370) -/

/-- A row of a bank as one number. -/
def rowKey (bank row : Nat) : Nat := 2 ^ 32 * bank + row

/-- Change a channel. -/
def State.modChan (s : State) (d : Fin 4) (i : Fin 8) (f : Chan → Chan) : State :=
  s.modMdie d fun m => { m with chans := m.chans.set i (f m.chans[i]) }

/-- Entries of the retirement table in use. -/
def Chan.entries (c : Chan) : List RetRow := c.rows.filter fun r => r.state != .repaired

/-- The lowest free index of the table of 256 entries. -/
def Chan.freeIdx (c : Chan) : Option Nat := (List.range 256).find? fun k => !c.entries.any fun r => r.idx == k

/-- A row is copied to a spare, which a new entry names. -/
def State.redirect (s : State) (d : Fin 4) (i : Fin 8) (bank row idx : Nat) (st : RowState) : State :=
  let s := s.modChan d i fun c => { c with
    rows := c.rows ++ [{ bank, row, state := st, idx }], copying := setIns (rowKey bank row) c.copying }
  s.oweLog (recRetire (8 * d.val + i.val) bank row idx (if st = .permanent then 2 else 1))

/-- An event that names a channel and a row. -/
def State.rowEvent (s : State) (code : Nat) (d : Fin 4) (i : Fin 8) (bank row : Nat) : State :=
  let c := 8 * d.val + i.val
  s.raise { code, kind := 2, part := d, addr := c, d0 := c, d1 := bank, d2 := row }

/-- A row fails while the table is full: the channel is marked for map-out at the next training. -/
def State.tableFull (s : State) (d : Fin 4) (i : Fin 8) : State :=
  let c := 8 * d.val + i.val
  let s := if s.mdie[d].chans[i].marked then s else s.oweLog (recMark c)
  (s.modChan d i fun c => { c with marked := true }).raise { code := 0x0309, kind := 2, part := d, addr := c, d0 := c }

/-- A row fails (R369). -/
def State.rowFails (s : State) (d : Fin 4) (i : Fin 8) (bank row : Nat) : State :=
  let c := s.mdie[d].chans[i]
  let has (st : RowState) : Bool := c.rows.any fun r => r.bank == bank && r.row == row && r.state == st
  let s := s.modChan d i fun c => { c with tracker := c.tracker.filter fun e => e.1 != rowKey bank row }
  if c.copying.contains (rowKey bank row) then s
  else
    match c.freeIdx with
    | none => s.tableFull d i
    | some idx =>
      if has .permanent then s.redirect d i bank row idx .permanent
      else if has .pending then s
      else if has .repaired then (s.redirect d i bank row idx .permanent).rowEvent 0x0308 d i bank row
      else (s.redirect d i bank row idx .pending).rowEvent 0x0308 d i bank row

/-- A patrol scrub period in ns (R364). -/
def scrubPeriod : Nat := 24 * 3600 * 10 ^ 9

/-- A corrected error of a row enters the tracker of 64 rows, which drops the row with the oldest error when it is full. -/
def trackError (l : List (Nat × List W64)) (k : Nat) (t : W64) : List (Nat × List W64) :=
  let recent (e : List W64) : List W64 := e.filter fun x => decide ((t - x).toNat < scrubPeriod)
  match l.find? fun e => e.1 == k with
  | some e => l.map fun q => if q.1 = k then (k, recent e.2 ++ [t]) else q
  | none =>
    if l.length < 64 then l ++ [(k, [t])]
    else
      let age (e : Nat × List W64) : Nat := ((e.2.head?).map fun (x : W64) => (t - x).toNat).getD 0
      match l.find? fun e => l.all fun q => decide (age q ≤ age e) with
      | some old => (l.filter fun q => q.1 != old.1) ++ [(k, [t])]
      | none => l

/-- A corrected error of a row: the fourth within a period makes the row fail. -/
def State.rowCorrected (s : State) (d : Fin 4) (i : Fin 8) (bank row : Nat) : State :=
  let s := s.modChan d i fun c => { c with tracker := trackError c.tracker (rowKey bank row) s.time }
  match s.mdie[d].chans[i].tracker.find? fun e => e.1 == rowKey bank row with
  | some e => if 4 ≤ e.2.length then s.rowFails d i bank row else s
  | none => s

/-! ### Lines (R362, R363, R368) -/

/-- The lowest-numbered usable M-die. -/
def State.lowestDie (s : State) : Fin 4 :=
  ((List.finRange 4).find? fun (d : Fin 4) => !(s.mdie[d].d2d0 == 0 && s.mdie[d].d2d1 == 0)).getD 0

/-- The M-die block that counts an error of an address: its own, or for a reach store the lowest-numbered usable M-die (R383). -/
def State.eccDie (s : State) (a : Nat) : Fin 4 := (s.mdieOf a).getD s.lowestDie

/-- The unit that raises an error of an address (19 R618). -/
def State.eccSource (s : State) (a : Nat) : Nat × Nat :=
  match storeReach a with
  | some n => (1, n)
  | none => (2, s.eccDie a)

/-- An entry for a block on an M-die. -/
def MDie.addQuar (m : MDie) (block : Nat) : MDie := { m with quar := m.quar ++ [{ block, rewritten := [] }] }

/-- A line poisoned in a shared region puts its block under quarantine, where every M-die that drives the block has an entry free
(R368). -/
def State.quarantine (s : State) (line : Nat) (d : Fin 4) : State :=
  if !(s.ctx.shared.any fun g => g.covers (64 * line) 64) || s.quarantined line then s
  else
    let dies := s.blockDies (line / 64)
    if dies.all fun (x : Fin 4) => decide (s.mdie[x].quar.length < 32) then
      let s := dies.foldl (fun (s : State) (x : Fin 4) => s.modMdie x fun m => m.addQuar (line / 64)) s
      (s.modMdie d fun m => { m with quarCnt := stick32 m.quarCnt 1 }).raise
        { code := 0x0304, kind := 2, part := d, addr := line / 64 * 4096 }
    else s.raise { code := 0x0305, kind := 2, part := d, addr := 64 * line }

/-- A read finds a line uncorrectable: its data stand as read, its mark is set and MEM_UE is raised once for the line (R362, R363).
`dram`: the error lies in DRAM; `dropped`: the write-back met a newer write (R364). -/
def State.uncorrectable (s : State) (line : Nat) (data : List Byte) (dram dropped : Bool) : State :=
  let a := 64 * line
  let d := s.eccDie a
  let src := s.eccSource a
  let old := s.poison.contains line
  let s := if dropped then s else
    { s with mem := putBytes s.mem a ((data ++ List.replicate 64 0).take 64), poison := setIns line s.poison }
  if old then s
  else
    let s := (s.modMdie d fun m => { m with ue := stick32 m.ue 1 }).raise { code := 0x0302, kind := src.1, part := src.2, addr := a }
    if dram && !dropped then
      (s.modMdie d fun m => { m with poisonLast := BitVec.ofNat 34 line, poisonValid := true }).quarantine line d
    else s

/-- The channel of a DRAM line: M-die and channel of it. -/
def State.chanAt (s : State) (a : Nat) : Option (Fin 4 × Fin 8) :=
  match s.chanOf a with
  | some c => if h : c / 8 < 4 then some (⟨c / 8, h⟩, ⟨c % 8, by omega⟩) else none
  | none => none

/-- An error in one of the lockkeeper's own stores (R383): the lowest-numbered usable M-die counts it, and one that cannot be corrected
raises MEM_UE. -/
def State.lkpError (s : State) (found : Fin 3) : State :=
  let d := s.lowestDie
  if found = 1 then s.modMdie d fun m => { m with ce := stick32 m.ce 1 }
  else (s.modMdie d fun m => { m with ue := stick32 m.ue 1 }).raise { code := 0x0302, kind := 6 }

/-- PATROL_SCRUB (R362 to R364), and whatever other read meets an error: `found` is 0 for a clean line, 1 for a corrected and 2 for an
uncorrectable one; `loc` says where the error lies: 0 in the memory that the address names, 1 in the LLC, 2 in a store of the
lockkeeper; `data`, what an uncorrectable line reads as; `dropped`, its write-back met a newer
write; `bank` and `row`, where a DRAM line lies. -/
def execPatrolScrub (line : BitVec 34) (found : Fin 3) (loc : Fin 3) (data : List Byte) (dropped : Bool) (bank : BitVec 4) (row : W32)
    (s : State) : Host.Outcome State Fault Refusal :=
  let a := 64 * line.toNat
  let dram := s.inDram a 64 && loc == 0
  .next (
    if s.dev.held || found = 0 then s
    else if loc = 2 then s.lkpError found
    else if !s.addrOk a 64 then s
    else
      let t := if found = 1 then s.modMdie (s.eccDie a) fun m => { m with ce := stick32 m.ce 1 }
        else s.uncorrectable line.toNat data dram dropped
      if !dram then t
      else
        match s.chanAt a with
        | some (d, i) => if found = 1 then t.rowCorrected d i bank.toNat row.toNat else t.rowFails d i bank.toNat row.toNat
        | none => t)

/-- ROW_COPY_DONE (R370): held accesses go to the spare. Lines that could not be corrected keep their mark: `bad` lists them. -/
def execRowCopyDone (c : Fin 32) (bank : BitVec 4) (row : W32) (bad : List (BitVec 34 × List Byte)) (s : State) :
    Host.Outcome State Fault Refusal :=
  let d : Fin 4 := ⟨c.val / 8, by omega⟩
  let i : Fin 8 := ⟨c.val % 8, by omega⟩
  let k := rowKey bank.toNat row.toNat
  .next (
    if !s.mdie[d].chans[i].copying.contains k then s
    else
      let s := s.modChan d i fun x => { x with copying := setDel k x.copying }
      bad.foldl (fun (s : State) l =>
        if s.inDram (64 * l.1.toNat) 64 then s.uncorrectable l.1.toNat l.2 true false else s) s)

/-! ### Die-to-die links (R355 to R357) -/

/-- MEM_D2D_RETRY (R357). -/
def execMemD2dRetry (d : Fin 4) (s : State) : Host.Outcome State Fault Refusal :=
  .next (if s.dev.held then s else s.modMdie d fun m => { m with retry := stick32 m.retry 1 })

/-- A line is delivered with the poison mark. -/
def State.markLine (s : State) (line : Nat) : State :=
  if s.addrOk (64 * line) 64 then { s with poison := setIns line s.poison } else s

/-- D2D_MODULE_DOWN (R357, 16 R554): module `m` of M-die `d` goes down while running; `lines` are where what was in flight over it is
delivered. With its second module the M-die goes: its DRAM and scratchpad can no longer be reached, and its NMU stops (R356). -/
def execD2dModuleDown (d : Fin 4) (m : Fin 2) (lines : List (BitVec 34)) (s : State) : Host.Outcome State Fault Refusal :=
  let up := if m = 0 then s.mdie[d].d2d0 != 0 else s.mdie[d].d2d1 != 0
  .next (
    if s.dev.held || !up then s
    else
      let s := lines.foldl (fun (s : State) l => s.markLine l.toNat) s
      let s := s.modMdie d fun x => { x with d2d0 := if m = 0 then 0 else x.d2d0, d2d1 := if m = 1 then 0 else x.d2d1 }
      let s := s.modMdie d fun x => { x with gone := x.d2d0 == 0 && x.d2d1 == 0 }
      let s := s.raise { code := 0x030B, kind := 2, part := d, addr := m }
      if s.prf.ready then s.drainDevice 4 none d else s)

end Sys2Proof.Machine
end

