-- ==== Sys2Proof/Machine/Supply.lean ====
section
/-! DEFINITION. Power, temperature, reference clocks and PPS as they reach the device (17 R574 to R577, R580, R586, R587, R590, R592,
R594). -/

namespace Sys2Proof.Machine

/-! ### Rails (R574, R577, R592) -/

/-- The rails that a round reads: those polled. -/
def State.pollRails (s : State) : List (Fin 9) := (List.finRange 9).filter fun (r : Fin 9) => s.pwr.polled r.val

/-- Change a rail. -/
def State.modRail (s : State) (r : Fin 9) (f : Rail → Rail) : State :=
  { s with pwr := { s.pwr with rails := s.pwr.rails.set r (f s.pwr.rails[r]) } }

/-- PWR_PMBUS_ERR (R574). -/
def State.pmbusErr (s : State) : State := { s with pwr := { s.pwr with pmbErr := stick32 s.pwr.pmbErr 1 } }

/-- A STATUS_WORD is read: PWR_RAIL_FAULT when it reports a warning or fault that the last one did not (R595). -/
def State.readStatus (s : State) (r : Fin 9) (w : W16) : State :=
  let old := s.pwr.rails[r].status
  let s := s.modRail r fun x => { x with status := w }
  if (statusFault w && !statusFault old) || (statusWarn w && !statusWarn old) then
    s.raise { code := 0x0706, addr := r, d0 := w.toNat }
  else s

/-- One rail of a round: `none` for a transaction that fails; three in a row invalidate the rail's readings. -/
def State.pollRail (s : State) (r : Fin 9) (x : Option RailRead) : State :=
  match x with
  | none =>
    s.pmbusErr.modRail r fun y => { y with fails := y.fails + 1, valid := y.valid && decide (y.fails + 1 < 3) }
  | some q =>
    let s := s.modRail r fun y => { y with vout := q.vout, iout := q.iout, temp := q.temp.getD y.temp, valid := true, fails := 0 }
    match q.status with
    | some w => s.readStatus r w
    | none => s

/-- PWR_RAIL_r shows a round at S0, and from S1 on every 100 ms (R580). -/
def State.showRails (s : State) : State :=
  if s.dev.shed = 0 ∨ 100000000 ≤ (s.time - s.pwr.railsAt).toNat then
    { s with pwr := { s.pwr with railShown := s.pwr.rails, railsAt := s.time } }
  else s

/-- Package power is the mean of the rounds of the last 10 ms (R571). -/
def State.averagePower (s : State) : State :=
  let l := (s.pwr.rounds.filter fun x => decide ((s.time - x.1).toNat < 10000000)) ++ [(s.time, s.pwr.package)]
  { s with pwr := { s.pwr with
    rounds := l, power := BitVec.ofNat 16 (min 65535 ((l.map (·.2)).foldl (· + ·) 0 / l.length)) } }

/-- PMBUS_POLL (R574): one telemetry round, with what each rail answers. -/
def execPmbusPoll (x : Vector (Option RailRead) 9) (s : State) : Host.Outcome State Fault Refusal :=
  .next (
    if s.dev.held || s.pollRails.isEmpty then s
    else
      let s := s.pollRails.foldl (fun (s : State) (r : Fin 9) => s.pollRail r x[r]) s
      s.averagePower.showRails.powerFlags.demandMoved)

/-- PMB_ALERT (R574): STATUS_WORD of every polled rail is read. -/
def execPmbAlert (x : Vector (Option W16) 9) (s : State) : Host.Outcome State Fault Refusal :=
  .next (
    if s.dev.held then s
    else
      let s := s.pollRails.foldl (fun (s : State) (r : Fin 9) =>
        match x[r] with
        | some w => s.readStatus r w
        | none => s.pmbusErr) s
      s.showRails.demandMoved)

/-! ### Temperature (R575, R577, R590) -/

/-- The hottest sensor: the lowest-numbered of those with the highest reading. -/
def hottest (t : Vector (BitVec 8) 24) : Fin 24 :=
  (List.finRange 24).foldl (fun (m i : Fin 24) => if t[m].toInt < t[i].toInt then i else m) 0

/-- Temperature demands after a reading, bit i for Si: those of S1 to S5 end below their threshold less HYST. -/
def Pwr.hotAfter (p : Pwr) (x : Int) : Byte :=
  let low (i : Nat) : Bool :=
    let th : Int := ((p.sect.th[i - 1]?).getD 0 : Nat)
    decide (th ≤ x) || (p.hot.getLsbD i && decide (th - p.sect.hyst ≤ x))
  BitVec.ofNat 8 (((List.range 8).map fun i =>
    2 ^ i * b2n (if i = 0 then false else if i ≤ 5 then low i else if i = 6 then decide (106 ≤ x) else decide (110 ≤ x))).foldl
      (· + ·) 0)

/-- TEMP_SAMPLE (R575): the readings of the 24 sensors in °C, signed. -/
def execTempSample (t : Vector (BitVec 8) 24) (s : State) : Host.Outcome State Fault Refusal :=
  .next (
    if s.dev.held then s
    else
      let k := hottest t
      let old := s.pwr.thermal
      let s : State := { s with pwr := { s.pwr with
        temps := t, maxSensor := BitVec.ofNat 8 k.val, maxTemp := t[k], hot := s.pwr.hotAfter t[k].toInt } }
      let s : State := if s.dev.shed = 0 ∨ 100000000 ≤ (s.time - s.pwr.shownAt).toNat then
          { s with pwr := { s.pwr with shown := t, shownAt := s.time } }
        else s
      let s := if 6 ≤ s.pwr.thermal ∧ old < s.pwr.thermal then s.raise { code := 0x0708, addr := k, d0 := t[k].toNat } else s
      s.demandMoved)

/-! ### Pins (R576, R577) -/

/-- PWR_WARN: PWR_WARN_N counts as asserted or as released. -/
def execPwrWarn (on : Bool) (s : State) : Host.Outcome State Fault Refusal :=
  .next (
    if s.dev.held || s.pwr.warn = on then s
    else
      let s := { s with pwr := { s.pwr with warn := on } }
      (if on then s.raise { code := 0x0704 } else s).demandMoved)

/-- PWR_CRIT: PWR_CRIT_N counts as asserted or as released. -/
def execPwrCrit (on : Bool) (s : State) : Host.Outcome State Fault Refusal :=
  .next (
    if s.dev.held || s.pwr.crit = on then s
    else
      let s := { s with pwr := { s.pwr with crit := on, critHold := 0 } }
      (if on then s.raise { code := 0x0705 } else s).demandMoved)

/-- PWR_CRIT_HOLD: PWR_CRIT_N has been asserted for 20 ms, or with `long` for 500 ms. -/
def execPwrCritHold (long : Bool) (s : State) : Host.Outcome State Fault Refusal :=
  .next (
    if s.dev.held || !s.pwr.crit then s
    else
      let k := if long then 2 else 1
      ({ s with pwr := { s.pwr with critHold := max k s.pwr.critHold } }).demandMoved)

/-- PWR_DROOP: the monitor of a rail fires. -/
def execPwrDroop (rail : Fin 4) (s : State) : Host.Outcome State Fault Refusal :=
  .next (
    if s.dev.held then s
    else
      let s := { s with pwr := { s.pwr with droop := true, droopCnt := stick32 s.pwr.droopCnt 1 } }
      (s.raise { code := 0x0703, addr := rail }).demandMoved)

/-- DROOP_DEMAND_END: DWELL_MS has passed without a further droop. -/
def execDroopDemandEnd (s : State) : Host.Outcome State Fault Refusal :=
  .next (if s.dev.held then s else ({ s with pwr := { s.pwr with droop := false } }).demandMoved)

/-! ### Reference clocks (R586) -/

/-- The host link is lost (13 R437; 12 R412). -/
def State.hostLinkLost (s : State) : State :=
  let s := s.resetHostPort
  { s with pci := { s.pci with trained := false, width := 0, speed := 0 } }

/-- A bit of the lost inputs. -/
def State.setClk (s : State) (k : Nat) (on : Bool) : State :=
  let m := BitVec.ofNat 5 (2 ^ k)
  { s with pwr := { s.pwr with clk := if on then s.pwr.clk ||| m else s.pwr.clk &&& ~~~m } }

/-- CLK_LOSS: input 0 REFCLK_PCIE, 1 REFCLK_LINK, 2 REFCLK_SYS, 3 REFCLK_MEM, 4 PPS_IN. -/
def execClkLoss (k : Fin 5) (s : State) : Host.Outcome State Fault Refusal :=
  .next (
    if s.dev.held || s.pwr.clk.getLsbD k then s
    else
      let ports := s.portsUp
      let s := (s.raise { code := 0x070A, addr := k }).setClk k true
      let s := if k = 0 then s.hostLinkLost else s.portEdges ports
      s.demandMoved)

/-- CLK_RETURN: REFCLK_PCIE, or with `link` REFCLK_LINK, is within tolerance again and its PLL has locked. -/
def execClkReturn (link : Bool) (s : State) : Host.Outcome State Fault Refusal :=
  .next (
    if s.dev.held then s
    else
      let ports := s.portsUp
      (s.setClk (b2n link) false).portEdges ports)

/-! ### PPS (R587, R594) -/

/-- PPS_IN disciplines TIME: on a standalone device (ROLE 0) and on the manager of a root basin whose own time is the basin's;
a device whose time another device sets ignores it (R482). -/
def State.ppsDisciplines (s : State) : Bool :=
  !s.dev.held && s.prf.ready &&
    (s.dev.role == 0 || (2 ≤ s.dev.role.toNat && s.cpl.sect.upstream == 0x7FFF && (s.cpl.master || s.cpl.node == 0x7FFF)))

/-- TIME mod 10^9 as an offset from the nearest pulse. -/
def ppsOff (t : W64) : Int := if t.toNat % 1000000000 < 500000000 then (t.toNat % 1000000000 : Nat) else (t.toNat % 1000000000 : Nat) - 1000000000

/-- TIM_PPS_LOST is raised. -/
def State.ppsLost (s : State) : State := s.raise { code := 0x070B }

/-- PPS_IN: a rising edge at TIME, towards which TIME is slewed. A pulse more than 1 ms from its instant is discarded. -/
def execPpsIn (s : State) : Host.Outcome State Fault Refusal :=
  .next (
    if !s.ppsDisciplines then s
    else
      let o := ppsOff s.time
      if o < -1000000 ∨ 1000000 < o then s.ppsLost
      else
        let good := decide (-100 ≤ o) && decide (o ≤ 100)
        let s := { s with cpl := { s.cpl with slew := -o } }
        ({ s with pwr := { s.pwr with
          ppsOffset := BitVec.ofInt 32 o, ppsPresent := true
          ppsGood := if good then min 4 (s.pwr.ppsGood + 1) else 0 } }).setClk 4 false)

/-- TIM_PPS_LOST: no pulse for 2 s. -/
def execTimPpsLost (s : State) : Host.Outcome State Fault Refusal :=
  .next (if !s.ppsDisciplines then s
    else ({ s with pwr := { s.pwr with ppsPresent := false }, cpl := { s.cpl with slew := 0 } }).ppsLost)

/-! ### The test access port (15 R529; 18 R598, R610) -/

/-- The instruction that acts when `i` is shifted in. -/
def State.tapActs (s : State) (i : TapIr) : TapIr :=
  match i with
  | .idcode => .idcode
  | .sample => if s.dev.rstLow then .sample else .bypass
  | .extest => if s.dev.rstLow then .extest else .bypass
  | .priv => if s.sec.debug then .priv else .bypass
  | .bypass => .bypass
  | .other => .bypass

/-- TAP_INSTRUCTION: IDCODE gives 0x1FD0256F and BYPASS its one bit. What a private instruction does in debug state is not
described. -/
def execTapInstruction (i : TapIr) (s : State) : Host.Outcome State Fault Refusal :=
  if s.tap.reset then .next s
  else
    match s.tapActs i with
    | .priv => .refused .privateInstruction
    | .idcode => .next (({ s with tap := { s.tap with ir := .idcode } }).send (.tdo 32 0x1FD0256F))
    | .bypass => .next (({ s with tap := { s.tap with ir := .bypass } }).send (.tdo 1 0))
    | x => .next { s with tap := { s.tap with ir := x } }

/-- TRST_N: low holds the port in reset. -/
def execTrstN (low : Bool) (s : State) : Host.Outcome State Fault Refusal :=
  .next { s with tap := { ir := if low then .idcode else s.tap.ir, reset := low } }

end Sys2Proof.Machine
end

