-- ==== Sys2Proof/Machine/TileQueue.lean ====
section
/-! DEFINITION. Classes 0xA and 0xB of the control stream: TQ, TWAIT, BISSUE and BWAIT (07 R223, R232, R233). -/

namespace Sys2Proof.Machine

/-- The fields of a tile word that TQ adds xA, xB and xC to: lowest bit and width (R232). -/
def tqFields (op : Nat) : Option (Nat × Nat) × Option (Nat × Nat) × Option (Nat × Nat) :=
  match op with
  | 1 => (some (42, 22), some (80, 8), none)
  | 2 => (some (42, 22), none, none)
  | 3 => (some (50, 22), some (80, 8), some (28, 22))
  | 4 => (some (42, 22), some (80, 8), none)
  | 5 => (some (50, 22), some (96, 20), some (28, 22))
  | 6 => (some (42, 22), none, none)
  | 7 => (some (42, 22), none, none)
  | _ => (none, none, none)

/-- One adjustment: `none` when the field would leave its range (R232, R246). -/
def tqAdd (word : Nat) (f : Option (Nat × Nat)) (x : W64) : Option Nat :=
  match f with
  | none => some word
  | some (lo, len) =>
    let v : Int := bits word lo len + x.toInt
    if v < 0 ∨ (2 ^ len : Nat) ≤ v then none
    else some (word - bits word lo len * 2 ^ lo + v.toNat * 2 ^ lo)

/-- The tile-table word INDEX of the kernel image placed in reach n's store. -/
def State.tileWord (s : State) (n : Fin 16) (index : Nat) : Nat :=
  let u := s.reach[n].u
  s.readNat (storeBase n + u.kbase + u.tileOff + 16 * index) 16

/-- TQ's effect on a reach: a poisoned adjustment is consumed (R218), one that leaves its field raises VEC_ADDR, else the word
enters the queue or TQ waits while the queue is full (R232). -/
def tqEff (n : Fin 16) (w : CtlWord) (s : State) : State :=
  let u := s.reach[n].u
  let word := s.tileWord n w.index
  let f := tqFields (bits word 124 4)
  if (f.1.isSome && u.xp w.a) || (f.2.1.isSome && u.xp w.b) || (f.2.2.isSome && u.xp w.c) then s.consumePoison (.reach n)
  else
    match ((tqAdd word f.1 (u.x w.a)).bind fun y => tqAdd y f.2.1 (u.x w.b)).bind fun y => tqAdd y f.2.2 (u.x w.c) with
    | none => s.failAt (.reach n) 0x0112
    | some y => s.await (.reach n) (.tqFull (BitVec.ofNat 128 y) w.index)

/-- TQ (R232). -/
def execTq (r : Res) (w : CtlWord) (s : State) : Host.Outcome State Fault Refusal :=
  .next <| ctl r { a := .sc, b := .sc, c := .sc, lay := .t, nmu := false } w [] (fun _ => {})
    (fun s => if (s.unit r).tileLen ≤ w.index then some 0x0111 else none)
    (fun s => match r with | .reach n => tqEff n w s | .nmu _ => s) s

/-- TWAIT: completes when the queue is empty and every queued instruction is done (R232). -/
def execTwait (r : Res) (w : CtlWord) (s : State) : Host.Outcome State Fault Refusal :=
  .next (ctl r { lay := .t, nmu := false } w [] (fun _ => {}) (fun _ => none) (fun s => s.await r .twait) s)

/-- The descriptor that a BISSUE at address `a` reads. -/
def State.bargeDesc (s : State) (r : Res) (a : Nat) : List Byte := s.read (unitAddr r a) 64

/-- The spans of a BISSUE (R237): its descriptor, and the bytes of the reach's own store that the barge reads and writes. -/
def bissueSpans (r : Res) (w : CtlWord) (s : State) : Spans :=
  match r with
  | .reach n =>
    let a := ((s.unit r).x w.a).toNat
    let d := BDesc.ofBytes (s.bargeDesc r a)
    { rd := (a, a + 64) :: spanIn n d.reads, wr := spanIn n d.writes }
  | .nmu _ => {}

/-- BISSUE: the descriptor is copied and the barge goes into flight, once the tag is free (R233). -/
def execBissue (r : Res) (w : CtlWord) (s : State) : Host.Outcome State Fault Refusal :=
  .next <| ctl r { a := .sc, lay := .q, nmu := false } w [w.a] (bissueSpans r w)
    (fun s =>
      let a := ((s.unit r).x w.a).toNat
      if bits w.immQ 4 12 ≠ 0 then some 0x0111
      else if a % 64 ≠ 0 || !s.accOk r a 64 false then some 0x0112 else none)
    (fun s =>
      let a := ((s.unit r).x w.a).toNat
      (s.touch r a 64).await r (.tag (w.immQ % 16) (s.bargeDesc r a))) s

/-- BWAIT: waits for the tags of its mask and writes the outcome into xD (R233). -/
def execBwait (r : Res) (w : CtlWord) (s : State) : Host.Outcome State Fault Refusal :=
  .next (ctl r { d := .sc, lay := .q, nmu := false } w [] (fun _ => {}) (fun _ => none)
    (fun s => s.await r (.bwait w.immQ w.d.toNat)) s)

end Sys2Proof.Machine
end

