-- ==== Sys2Proof/Machine/Verdict.lean ====
section
/-! DEFINITION. Decisions on sampled tiles (16 R538, R539, R542 to R546, R563) and the outcomes of in-field tests (R552, R553, R564). -/

namespace Sys2Proof.Machine

/-! ### Sampled tiles -/

/-- Decision k of a reach is over: its operands are unpinned, and what waited for it goes on (R540 to R542). -/
def State.dupDone (s : State) (n : Fin 16) (k : Nat) (d : Dup) : State :=
  let s := s.modReach n fun x => { x with dups := x.dups.eraseIdx k }
  (s.lateStart n).tryPost d.job

/-- RAS_DUP_TILES counts a decided tile (R563). -/
def State.countTile (s : State) : State :=
  let p := s.ras.dupTiles.add 1
  ({ s with ras := { s.ras with dupTiles := p.1 } }).perfOvf p.2 0 0 0x500008

/-- A tile is decided. -/
def State.decided (s : State) (n : Fin 16) (k : Nat) (d : Dup) : State := s.countTile.dupDone n k d

/-- Decision k of a reach changes. -/
def State.setDup (s : State) (n : Fin 16) (k : Nat) (d : Dup) : State := s.modReach n fun x => { x with dups := x.dups.set k d }

/-- Decision k of a reach, offered to a taker where it still waits for one (R538, R543). -/
def State.dupAt (s : State) (n : Fin 16) (k : Nat) : Option Dup := (s.reach[n].dups[k]?).map fun d => s.offer n d

/-- An event about a fault names a reach (R568). -/
def State.faultEvent (s : State) (code n : Nat) (d : Dup) (d0 d1 : Nat) : State :=
  s.raise { code, job := d.job, ctx := ((s.job? d.job).map (·.ctx)).getD 0, kind := 1, part := n, addr := d.tindex, d0, d1 }

/-- RAS_DUP_MISMATCH: the tile is offered to a referee (R543). -/
def State.mismatch (s : State) (n : Fin 16) (k : Nat) (d : Dup) (sig : W64) : State :=
  let s := { s with ras := { s.ras with mismatch := stick32 s.ras.mismatch 1 } }
  let s := s.faultEvent 0x0801 n d d.primary.toNat sig.toNat
  let d := { d with second := sig, phase := .refOffered, inUse := none }
  let s := s.setDup n k d
  s.setDup n k (s.offer n d)

/-- A permanent decision names reaches and drains the device (R543, R555). -/
def State.permanent (s : State) (n : Fin 16) (k : Nat) (d : Dup) (named : List Nat) : State :=
  let s := named.foldl (fun (s : State) m => s.faultEvent 0x0804 m d 0 0) s
  let s := named.foldl (fun (s : State) m => s.drainDevice 1 (some m)) s
  s.decided n k d

/-- A transient decision names the suspect; one in the primary replays the step (R544). -/
def State.transient (s : State) (n : Fin 16) (k : Nat) (d : Dup) : State :=
  let s := { s with ras := { s.ras with transient := stick32 s.ras.transient 1 } }
  let s := s.faultEvent 0x0803 d.suspect d 0 0
  let s := s.decided n k d
  if d.suspect = n.val then s.transientPrimary d.job d.step else s

/-- DUP_CHECK_RESULT (R543): the checker of decision `k` of primary `n` has formed a signature. -/
def execDupCheckResult (n : Fin 16) (k : Byte) (sig : W64) (s : State) : Host.Outcome State Fault Refusal :=
  .next (match s.dupAt n k.toNat with
    | some d =>
      if d.phase ≠ .checking then s
      else if sig = d.primary then s.decided n k.toNat d
      else s.mismatch n k.toNat d sig
    | none => s)

/-- DUP_REFEREE_RESULT (R543). -/
def execDupRefereeResult (n : Fin 16) (k : Byte) (sig : W64) (s : State) : Host.Outcome State Fault Refusal :=
  .next (match s.dupAt n k.toNat with
    | some d =>
      let d := { d with third := sig }
      let suspect (m : Nat) : State := s.setDup n k.toNat { d with phase := .suspect, suspect := m, inUse := none }
      if d.phase ≠ .referee then s
      else if sig = d.second then suspect n
      else if sig = d.primary then suspect d.checker
      else s.permanent n k.toNat d [n.val, d.checker]
    | none => s)

/-- DUP_SUSPECT_RESULT (R543): the suspect has executed the tile again. -/
def execDupSuspectResult (n : Fin 16) (k : Byte) (sig : W64) (s : State) : Host.Outcome State Fault Refusal :=
  .next (match s.dupAt n k.toNat with
    | some d =>
      if d.phase ≠ .suspect then s
      else if sig = d.third then s.transient n k.toNat d
      else s.permanent n k.toNat d [d.suspect]
    | none => s)

/-- DUP_ABANDON (R539): 40 µs have passed without a taker. -/
def execDupAbandon (n : Fin 16) (k : Byte) (s : State) : Host.Outcome State Fault Refusal :=
  .next (match s.reach[n].dups[k.toNat]? with
    | some d =>
      if d.phase ≠ .offered then s
      else ({ s with ras := { s.ras with dupSkip := stick32 s.ras.dupSkip 1 } }).dupDone n k.toNat d
    | none => s)

/-- DUP_NO_TAKER (R543): 40 µs have passed without a taker for the referee's run or the re-execution. -/
def execDupNoTaker (n : Fin 16) (k : Byte) (s : State) : Host.Outcome State Fault Refusal :=
  .next (match s.reach[n].dups[k.toNat]? with
    | some d => if d.phase = .refOffered ∨ d.phase = .suspect then s.permanent n k.toNat d [n.val] else s
    | none => s)

/-! ### In-field tests -/

/-- Change a reach's test state. -/
def State.modTest (s : State) (n : Fin 16) (f : TestSt → TestSt) : State := s.modReach n fun x => { x with test := f x.test }

/-- A kernel has completed: the next one in ORDER follows, and after the last the pass is complete (R552, R564). -/
def TestSt.advance (t : TestSt) (time : W64) : TestSt :=
  let t := { t with retry := false, lanes := 0, outside := false }
  if t.next.toNat + 1 < 24 then { t with next := t.next + 1 }
  else { t with
    next := 0, lastMs := BitVec.ofNat 32 (time.toNat / 1000000), since := time, late := false
    passes := if t.passes = 0xFFFF then t.passes else t.passes + 1 }

/-- Lanes fail twice: each is bypassed at the lock point that ends the slot (R552; 03 R102). -/
def State.testLanes (s : State) (n : Fin 16) (bad : BitVec 256) : State :=
  let s := (List.range 256).foldl (fun (s : State) l =>
    if bad.getLsbD l then s.raise { code := 0x0808, kind := 1, part := n, addr := l } else s) s
  s.modTest n fun t => { t.advance s.time with newBypass := t.newBypass ||| bad }

/-- RAS_TEST_FAIL names the kernel and the lanes (R552, R568). -/
def State.testFail (s : State) (n : Fin 16) (kernel : Nat) (bad : BitVec 256) (outside : Bool) : State :=
  let s := { s with ras := { s.ras with fail := stick32 s.ras.fail 1 } }
  let s := s.modTest n fun t => { t with retry := true, lanes := bad, outside }
  s.raise { code := 0x0807, kind := 1, part := n, addr := kernel, d0 := bits bad.toNat 0 64, d1 := bits bad.toNat 64 64
            d2 := bits bad.toNat 128 64, d3 := bits bad.toNat 192 64 }

/-- A test slot is in progress on a reach (R549, R555). -/
def State.testing (s : State) (n : Fin 16) : Bool :=
  (s.reach[n].u.slot.map fun a => a.slot.kind == 4).getD false && s.dev.st == .running

/-- Microseconds that each test kernel takes at ARITH 800 MHz (R550). -/
def kernelUs : List Nat := [20, 20, 15, 20, 20, 15, 15, 10, 10, 25, 20, 15, 20, 15, 10, 15, 15, 10, 15, 15, 5, 10, 15, 10]

/-- The scaled time in nanoseconds of a reach's next test kernel (R550). -/
def State.kernelNs (s : State) (n : Fin 16) : Nat :=
  kernelUs.getD (((s.testOrder n)[s.reach[n].test.next.toNat]?).getD 0) 0 * 1000 * 800 / s.arithMHz

/-- The next kernel of a reach fits before its slot's exit: entry, the kernels before it and the exit take the rest (R550, R552). -/
def State.kernelFits (s : State) (n : Fin 16) : Bool :=
  (s.reach[n].u.slot.map fun a => decide (10000 + s.reach[n].test.used + s.kernelNs n + 10000 ≤ a.slot.len * 1000)).getD false

/-- TEST_KERNEL_DONE (R552): a kernel has finished on a reach; `bad` are the lanes whose signatures are wrong, `outside` says that
another unit's is. A kernel that did not fit before the slot's exit was not started. -/
def execTestKernelDone (n : Fin 16) (bad : BitVec 256) (outside : Bool) (s : State) : Host.Outcome State Fault Refusal :=
  let t := s.reach[n].test
  let kernel := ((s.testOrder n)[t.next.toNat]?).getD 0
  let clean := bad == 0 && !outside
  .next (
    if !s.testing n || !s.kernelFits n then s
    else
    let s := s.modTest n fun t => { t with used := t.used + s.kernelNs n }
    if !t.retry then (if clean then s.modTest n fun t => t.advance s.time else s.testFail n kernel bad outside)
    else if clean then
      let s := { s with ras := { s.ras with transient := stick32 s.ras.transient 1 } }
      (s.modTest n fun t => t.advance s.time).raise { code := 0x0803, kind := 1, part := n, addr := kernel }
    else if !outside && !t.outside && bad == t.lanes then s.testLanes n bad
    else (s.modTest n fun t => { t with retry := false }).testPermanent n 2)

/-- RAS_TEST_LATE (R553): 2 s have passed since the last completed pass, since the first cycle start before one, or since the last such
event; with no schedule in force there is no test slot to be late for. -/
def execRasTestLate (n : Fin 16) (s : State) : Host.Outcome State Fault Refusal :=
  .next (
    if s.dev.held || !s.prf.ready || !s.lkp.inForce || !s.inService n then s
    else
      let s := { s with ras := { s.ras with late := stick32 s.ras.late 1 } }
      (s.modTest n fun t => { t with late := true, since := s.time }).raise { code := 0x0809, kind := 1, part := n })

end Sys2Proof.Machine
end

