-- ==== Sys2Proof/Machine/Dispatch.lean ====
section
/-! DEFINITION. The meaning of each command: one arm per constructor of Instr, one call each. -/

namespace Sys2Proof.Machine

/-- The effect of a command on everything but the queue. -/
def exec (i : Instr) (s : State) : Host.Outcome State Fault Refusal :=
  match i with
  | .tileMac n => Sys2Proof.Machine.execTileMac n s
  | .wload n => Sys2Proof.Machine.execWload n s
  | .wloadComplete n => Sys2Proof.Machine.execWloadComplete n s
  | .tileElem n => Sys2Proof.Machine.execTileElem n s
  | .openGrp n => Sys2Proof.Machine.execOpen n s
  | .closeGrp n => Sys2Proof.Machine.execClose n s
  | .fwpw n => Sys2Proof.Machine.execFwpw n s
  | .slotadd n => Sys2Proof.Machine.execSlotadd n s
  | .slotUpdate n => Sys2Proof.Machine.execSlotUpdate n s
  | .add r w => Sys2Proof.Machine.execAdd r w s
  | .sub r w => Sys2Proof.Machine.execSub r w s
  | .and r w => Sys2Proof.Machine.execAnd r w s
  | .or r w => Sys2Proof.Machine.execOr r w s
  | .xor r w => Sys2Proof.Machine.execXor r w s
  | .shl r w => Sys2Proof.Machine.execShl r w s
  | .shr r w => Sys2Proof.Machine.execShr r w s
  | .sra r w => Sys2Proof.Machine.execSra r w s
  | .mul r w => Sys2Proof.Machine.execMul r w s
  | .addi r w => Sys2Proof.Machine.execAddi r w s
  | .li r w => Sys2Proof.Machine.execLi r w s
  | .lih r w => Sys2Proof.Machine.execLih r w s
  | .xld r w => Sys2Proof.Machine.execXld r w s
  | .xst r w => Sys2Proof.Machine.execXst r w s
  | .setvl r w => Sys2Proof.Machine.execSetvl r w s
  | .br r w => Sys2Proof.Machine.execBr r w s
  | .waiteq r w => Sys2Proof.Machine.execWaiteq r w s
  | .waiteqMatch r => Sys2Proof.Machine.execWaiteqMatch r s
  | .yield r w => Sys2Proof.Machine.execYield r w s
  | .endStep r w => Sys2Proof.Machine.execEnd r w s
  | .trap r w => Sys2Proof.Machine.execTrap r w s
  | .vld r w => Sys2Proof.Machine.execVld r w s
  | .vst r w => Sys2Proof.Machine.execVst r w s
  | .vadd r w => Sys2Proof.Machine.execVadd r w s
  | .vsub r w => Sys2Proof.Machine.execVsub r w s
  | .vmul r w => Sys2Proof.Machine.execVmul r w s
  | .vfma r w => Sys2Proof.Machine.execVfma r w s
  | .vmax r w => Sys2Proof.Machine.execVmax r w s
  | .vmin r w => Sys2Proof.Machine.execVmin r w s
  | .vabs r w => Sys2Proof.Machine.execVabs r w s
  | .vneg r w => Sys2Proof.Machine.execVneg r w s
  | .vcmp r w => Sys2Proof.Machine.execVcmp r w s
  | .vsel r w => Sys2Proof.Machine.execVsel r w s
  | .vcvt r w => Sys2Proof.Machine.execVcvt r w s
  | .vsplit r w => Sys2Proof.Machine.execVsplit r w s
  | .vsum r w => Sys2Proof.Machine.execVsum r w s
  | .vsumsq r w => Sys2Proof.Machine.execVsumsq r w s
  | .vmaxi r w => Sys2Proof.Machine.execVmaxi r w s
  | .vmini r w => Sys2Proof.Machine.execVmini r w s
  | .winmax r w => Sys2Proof.Machine.execWinmax r w s
  | .winmin r w => Sys2Proof.Machine.execWinmin r w s
  | .sfn r w => Sys2Proof.Machine.execSfn r w s
  | .gate r w => Sys2Proof.Machine.execGate r w s
  | .wcomb r w => Sys2Proof.Machine.execWcomb r w s
  | .wred r w => Sys2Proof.Machine.execWred r w s
  | .rowstat r w => Sys2Proof.Machine.execRowstat r w s
  | .wround r w => Sys2Proof.Machine.execWround r w s
  | .wprod r w => Sys2Proof.Machine.execWprod r w s
  | .quant r w => Sys2Proof.Machine.execQuant r w s
  | .sidex r w => Sys2Proof.Machine.execSidex r w s
  | .qcheck r w => Sys2Proof.Machine.execQcheck r w s
  | .tq r w => Sys2Proof.Machine.execTq r w s
  | .twait r w => Sys2Proof.Machine.execTwait r w s
  | .bissue r w => Sys2Proof.Machine.execBissue r w s
  | .bwait r w => Sys2Proof.Machine.execBwait r w s
  | .lrateCheck r w => Sys2Proof.Machine.execLrateCheck r w s
  | .lrateCommit r w => Sys2Proof.Machine.execLrateCommit r w s
  | .lrateBiasc r w => Sys2Proof.Machine.execLrateBiasc r w s
  | .lrateReport r w => Sys2Proof.Machine.execLrateReport r w s
  | .fd1ShardUpdate d k => Sys2Proof.Machine.execFd1ShardUpdate d k s
  | .bargeCopy b input => Sys2Proof.Machine.execBargeCopy b input s
  | .bargeLanemajor b => Sys2Proof.Machine.execBargeLanemajor b s
  | .bargeTranspose b => Sys2Proof.Machine.execBargeTranspose b s
  | .bargeSplit b => Sys2Proof.Machine.execBargeSplit b s
  | .bargeZero b => Sys2Proof.Machine.execBargeZero b s
  | .bargeComplete b => Sys2Proof.Machine.execBargeComplete b s
  | .sfuReload p n v => Sys2Proof.Machine.execSfuReload p n v s
  | .sfuLoadDone n => Sys2Proof.Machine.execSfuLoadDone n s
  | .sfuSwitch p n => Sys2Proof.Machine.execSfuSwitch p n s
  | .counterClear p off v => Sys2Proof.Machine.execCounterClear p off v s
  | .registerWrite p off v => Sys2Proof.Machine.execRegisterWrite p off v s
  | .pciBadAccess off req => Sys2Proof.Machine.execPciBadAccess off req s
  | .lockPoint => Sys2Proof.Machine.execLockPoint s
  | .lkpAbort p job step => Sys2Proof.Machine.execLkpAbort p job step s
  | .nartrapRearm p job => Sys2Proof.Machine.execNartrapRearm p job s
  | .nartrapResume p job => Sys2Proof.Machine.execNartrapResume p job s
  | .create p block => Sys2Proof.Machine.execCreate p block s
  | .destroy p block => Sys2Proof.Machine.execDestroy p block s
  | .ctxCmdEffect => Sys2Proof.Machine.execCtxCmdEffect s
  | .egrRingConfig p e cfg v => Sys2Proof.Machine.execEgrRingConfig p e cfg v s
  | .egrHeadWrite p e head => Sys2Proof.Machine.execEgrHeadWrite p e head s
  | .admission => Sys2Proof.Machine.execAdmission s
  | .activate p slot drainOk => Sys2Proof.Machine.execActivate p slot drainOk s
  | .verify p slot => Sys2Proof.Machine.execVerify p slot s
  | .weightVerifyDone => Sys2Proof.Machine.execWeightVerifyDone s
  | .polderDrain p k => Sys2Proof.Machine.execPolderDrain p k s
  | .polderResume p k => Sys2Proof.Machine.execPolderResume p k s
  | .polderResumeDone lanes ok => Sys2Proof.Machine.execPolderResumeDone lanes ok s
  | .restart p b => Sys2Proof.Machine.execRestart p b s
  | .polderDrained => Sys2Proof.Machine.execPolderDrained s
  | .fullDrainSwitch => Sys2Proof.Machine.execFullDrainSwitch s
  | .chgDrainAbort => Sys2Proof.Machine.execChgDrainAbort s
  | .flashRead p pages => Sys2Proof.Machine.execFlashRead p pages s
  | .flashErase p pages => Sys2Proof.Machine.execFlashErase p pages s
  | .flashProgram p pages => Sys2Proof.Machine.execFlashProgram p pages s
  | .flashOpDone ok done => Sys2Proof.Machine.execFlashOpDone ok done s
  | .faultLogAppend => Sys2Proof.Machine.execFaultLogAppend s
  | .sysRstNLow => Sys2Proof.Machine.execSysRstNLow s
  | .coldStart b flash => Sys2Proof.Machine.execColdStart b flash s
  | .watchdogFire b => Sys2Proof.Machine.execWatchdogFire b s
  | .pciePerstN low => Sys2Proof.Machine.execPciePerstN low s
  | .hostPortReset flr => Sys2Proof.Machine.execHostPortReset flr s
  | .bar2Read off len => Sys2Proof.Machine.execBar2Read off len s
  | .bar2Write off data bad => Sys2Proof.Machine.execBar2Write off data bad s
  | .b2WinWrite p base => Sys2Proof.Machine.execB2WinWrite p base s
  | .bar2Resize k => Sys2Proof.Machine.execBar2Resize k s
  | .hbqCmd p desc => Sys2Proof.Machine.execHbqCmd p desc s
  | .hostBargeStart => Sys2Proof.Machine.execHostBargeStart s
  | .pciLinkDown why => Sys2Proof.Machine.execPciLinkDown why s
  | .pciLinkUp width speed msixEn fmask => Sys2Proof.Machine.execPciLinkUp width speed msixEn fmask s
  | .pciCplTimeout b input => Sys2Proof.Machine.execPciCplTimeout b input s
  | .msixUnmask op => Sys2Proof.Machine.execMsixUnmask op s
  | .empRead q => Sys2Proof.Machine.execEmpRead q s
  | .empWrite q => Sys2Proof.Machine.execEmpWrite q s
  | .attest q => Sys2Proof.Machine.execAttest q s
  | .empRestart q b => Sys2Proof.Machine.execEmpRestart q b s
  | .recordAck q => Sys2Proof.Machine.execRecordAck q s
  | .chain q => Sys2Proof.Machine.execChain q s
  | .sessionOpen q => Sys2Proof.Machine.execSessionOpen q s
  | .clearFlag q flash => Sys2Proof.Machine.execClearFlag q flash s
  | .clearMark q flash => Sys2Proof.Machine.execClearMark q flash s
  | .clearLane q flash => Sys2Proof.Machine.execClearLane q flash s
  | .logRead q flash => Sys2Proof.Machine.execLogRead q flash s
  | .empRecordSend => Sys2Proof.Machine.execEmpRecordSend s
  | .empRecordResend => Sys2Proof.Machine.execEmpRecordResend s
  | .empSessionExpire k => Sys2Proof.Machine.execEmpSessionExpire k s
  | .icmpv6Echo data => Sys2Proof.Machine.execIcmpv6Echo data s
  | .neighbourDiscovery x => Sys2Proof.Machine.execNeighbourDiscovery x s
  | .semTake p n => Sys2Proof.Machine.execTake p n s
  | .semRelease p n => Sys2Proof.Machine.execRelease p n s
  | .semBreak p n => Sys2Proof.Machine.execBreak p n s
  | .cplLinkUp p => Sys2Proof.Machine.execCplLinkUp p s
  | .cplLinkDown p words => Sys2Proof.Machine.execCplLinkDown p words s
  | .data x => Sys2Proof.Machine.execData x s
  | .rreq x => Sys2Proof.Machine.execRreq x s
  | .rdata x => Sys2Proof.Machine.execRdata x s
  | .ack x => Sys2Proof.Machine.execAck x s
  | .nak x => Sys2Proof.Machine.execNak x s
  | .hello x => Sys2Proof.Machine.execHello x s
  | .join x => Sys2Proof.Machine.execJoin x s
  | .admitFrame x => Sys2Proof.Machine.execAdmit x s
  | .ctrlActivate x => Sys2Proof.Machine.execCtrlActivate x s
  | .assume x => Sys2Proof.Machine.execAssume x s
  | .fence x => Sys2Proof.Machine.execFence x s
  | .membership x => Sys2Proof.Machine.execMembership x s
  | .active x => Sys2Proof.Machine.execActive x s
  | .mirrorRecords x => Sys2Proof.Machine.execMirrorRecords x s
  | .mirrorAck x => Sys2Proof.Machine.execMirrorAck x s
  | .snapshotReq x => Sys2Proof.Machine.execSnapshotReq x s
  | .snapshot x => Sys2Proof.Machine.execSnapshot x s
  | .claim x => Sys2Proof.Machine.execClaim x s
  | .refuse x => Sys2Proof.Machine.execRefuse x s
  | .record x => Sys2Proof.Machine.execRecord x s
  | .status x => Sys2Proof.Machine.execStatus x s
  | .offer x => Sys2Proof.Machine.execOffer x s
  | .answer x => Sys2Proof.Machine.execAnswer x s
  | .confirm x => Sys2Proof.Machine.execConfirm x s
  | .sync x => Sys2Proof.Machine.execSync x s
  | .delayReq x => Sys2Proof.Machine.execDelayReq x s
  | .syncSend => Sys2Proof.Machine.execSyncSend s
  | .frameResend p n => Sys2Proof.Machine.execFrameResend p n s
  | .helloSend members => Sys2Proof.Machine.execHelloSend members s
  | .statusSend => Sys2Proof.Machine.execStatusSend s
  | .joinSend => Sys2Proof.Machine.execJoinSend s
  | .cplMemberLost m => Sys2Proof.Machine.execCplMemberLost m s
  | .cplMgrLost => Sys2Proof.Machine.execCplMgrLost s
  | .standbyTimeout => Sys2Proof.Machine.execStandbyTimeout s
  | .claimTimeout => Sys2Proof.Machine.execClaimTimeout s
  | .standbyAckTimeout => Sys2Proof.Machine.execStandbyAckTimeout s
  | .peerHelloTimeout => Sys2Proof.Machine.execPeerHelloTimeout s
  | .fencedTimeout => Sys2Proof.Machine.execFencedTimeout s
  | .syncLoss => Sys2Proof.Machine.execSyncLoss s
  | .rejoinTimer => Sys2Proof.Machine.execRejoinTimer s
  | .rekeyTimer n limit => Sys2Proof.Machine.execRekeyTimer n limit s
  | .keyxRetry n => Sys2Proof.Machine.execKeyxRetry n s
  | .oldKeyExpire n => Sys2Proof.Machine.execOldKeyExpire n s
  | .basinSwitch p slot delay => Sys2Proof.Machine.execBasinSwitch p slot delay s
  | .leave p => Sys2Proof.Machine.execLeave p s
  | .cplJoinCmd p => Sys2Proof.Machine.execCplJoinCmd p s
  | .relieve p member => Sys2Proof.Machine.execRelieve p member s
  | .debugEnter p => Sys2Proof.Machine.execDebugEnter p s
  | .maintMode p on => Sys2Proof.Machine.execMaintMode p on s
  | .secAttCmd p buf go => Sys2Proof.Machine.execSecAttCmd p buf go s
  | .attReportDone => Sys2Proof.Machine.execAttReportDone s
  | .secRngFail => Sys2Proof.Machine.execSecRngFail s
  | .dupCheckResult n k sig => Sys2Proof.Machine.execDupCheckResult n k sig s
  | .dupRefereeResult n k sig => Sys2Proof.Machine.execDupRefereeResult n k sig s
  | .dupSuspectResult n k sig => Sys2Proof.Machine.execDupSuspectResult n k sig s
  | .dupAbandon n k => Sys2Proof.Machine.execDupAbandon n k s
  | .dupNoTaker n k => Sys2Proof.Machine.execDupNoTaker n k s
  | .testKernelDone n bad outside => Sys2Proof.Machine.execTestKernelDone n bad outside s
  | .rasTestLate n => Sys2Proof.Machine.execRasTestLate n s
  | .errorRingWrite => Sys2Proof.Machine.execErrorRingWrite s
  | .rasRingConfig p cfg v => Sys2Proof.Machine.execRasRingConfig p cfg v s
  | .rasRingHeadWrite p head => Sys2Proof.Machine.execRasRingHeadWrite p head s
  | .patrolScrub line found loc data dropped bank row => Sys2Proof.Machine.execPatrolScrub line found loc data dropped bank row s
  | .rowCopyDone c bank row bad => Sys2Proof.Machine.execRowCopyDone c bank row bad s
  | .memD2dRetry d => Sys2Proof.Machine.execMemD2dRetry d s
  | .d2dModuleDown d m lines => Sys2Proof.Machine.execD2dModuleDown d m lines s
  | .pmbusPoll x => Sys2Proof.Machine.execPmbusPoll x s
  | .pmbAlert x => Sys2Proof.Machine.execPmbAlert x s
  | .tempSample t => Sys2Proof.Machine.execTempSample t s
  | .pwrWarn on => Sys2Proof.Machine.execPwrWarn on s
  | .pwrCrit on => Sys2Proof.Machine.execPwrCrit on s
  | .pwrCritHold long => Sys2Proof.Machine.execPwrCritHold long s
  | .pwrDroop rail => Sys2Proof.Machine.execPwrDroop rail s
  | .shedDescent => Sys2Proof.Machine.execShedDescent s
  | .vddArithSettle ok => Sys2Proof.Machine.execVddArithSettle ok s
  | .s7Stop => Sys2Proof.Machine.execS7Stop s
  | .pwrFloorWrite p floor => Sys2Proof.Machine.execPwrFloorWrite p floor s
  | .clkLoss k => Sys2Proof.Machine.execClkLoss k s
  | .clkReturn link => Sys2Proof.Machine.execClkReturn link s
  | .ppsIn => Sys2Proof.Machine.execPpsIn s
  | .timPpsLost => Sys2Proof.Machine.execTimPpsLost s
  | .timWrap => Sys2Proof.Machine.execTimWrap s
  | .reservedControlWord r cls fn => Sys2Proof.Machine.execReservedControlWord r cls fn s
  | .reservedTileOp n => Sys2Proof.Machine.execReservedTileOp n s
  | .empUnknownCmd cmd q => Sys2Proof.Machine.execEmpUnknownCmd cmd q s
  | .mgtLinkDown => Sys2Proof.Machine.execMgtLinkDown s
  | .mgtLinkUp => Sys2Proof.Machine.execMgtLinkUp s
  | .tapInstruction k => Sys2Proof.Machine.execTapInstruction k s
  | .trstN low => Sys2Proof.Machine.execTrstN low s
  | .delayReqSend => Sys2Proof.Machine.execDelayReqSend s
  | .delayResp x => Sys2Proof.Machine.execDelayResp x s
  | .droopDemandEnd => Sys2Proof.Machine.execDroopDemandEnd s
  | .powerLoss => Sys2Proof.Machine.execPowerLoss s
  | .unexpectedCompletion => Sys2Proof.Machine.execUnexpectedCompletion s

end Sys2Proof.Machine
end

