-- ==== Sys2Proof/Safety.lean ====
section
/-! DEFINITION. What claims say of states and steps: steps that complete, units that are ready, what a command leaves as it was, memory
in canonical form, owners of semaphores. -/

namespace Sys2Proof

open Sys2Proof.Machine

/-! ### Invariants -/

/-- Memory is in its canonical form: addresses strictly rising, no byte listed that reads as an unlisted one. -/
abbrev Memory.wf (m : List Host.Cell) : Prop := swf (0 : Byte) m = true

/-- Every semaphore is FREE, or owned by the host port or the management port (13 R448, R451: 3 is no owner). -/
def SemsOwned (s : State) : Prop := ∀ n : Fin 32, s.sem[n].owner ≠ 3

/-- Memory and the flash are in canonical form, and no semaphore has an owner that is no port. -/
def KeptForm (s : State) : Prop := Memory.wf s.mem ∧ swf (0xFF : Byte) s.prf.flash = true ∧ SemsOwned s

/-! ### Completion -/

/-- A command completes: its outcome is a next state. -/
def Completes (c : Instr) (s : State) : Prop := ∃ t, exec c s = .next t

/-- The command answers a next state, and the state has the property. -/
def Gives (c : Instr) (s : State) (P : State → Prop) : Prop := ∃ t, exec c s = .next t ∧ P t

/-! ### Units -/

/-- The unit runs and waits for nothing, no hazard or pin holds an instruction with these spans (07 R235, R237), and the word that it
dispatches and the next lie in the code area, which PC of R249 can name. -/
structure Ready (s : State) (r : Res) (sp : Spans) : Prop where
  go   : s.canDispatch r sp = true
  next : (s.unit r).next + 1 < (s.unit r).codeLen
  code : (s.unit r).codeLen ≤ 2 ^ 17

/-- A unit whose instruction has dispatched and is done: PC names it and the next word follows (07 R249). -/
def advanced (u : Machine.Unit) : Machine.Unit := { u with pc := BitVec.ofNat 17 u.next, next := u.next + 1 }

/-- A unit on which an instruction that waits has dispatched. -/
def waiting (u : Machine.Unit) (w : Wait) : Machine.Unit := { u with pc := BitVec.ofNat 17 u.next, wait := w }

/-- A state in which one unit, its event counters and its performance counters have changed, and nothing else. -/
def unitOnly (s : State) (r : Res) (u : Machine.Unit) (c : ReachCnt) (p : ReachPerf) (k : NmuCnt) (b : Perf) : State :=
  match r with
  | .reach n => s.modReach n fun x => { x with u := u, cnt := c, perf := p }
  | .nmu d => s.modNmu d fun x => { x with u := u, cnt := k, busy := b }

/-- No first-NaR report is armed on the unit's job (08 R264), and none of its performance counters is about to pass its end. -/
structure Quiet (s : State) (r : Res) : Prop where
  unarmed : (s.jobRun (s.unit r).job).armed = false
  room    : match r with
    | .reach n => (s.reach[n].perf.veBusy.count.toNat + 2 ^ 32 < 2 ^ 48) ∧ (s.reach[n].perf.sfuBusy.count.toNat + 2 ^ 32 < 2 ^ 48)
    | .nmu d => s.nmu[d].busy.count.toNat + 2 ^ 32 < 2 ^ 48

/-- A first-NaR report on the unit's job does not stop it: the job's trap is not armed, or NSTOP is 0 (08 R267). -/
def NoTrapStop (s : State) (r : Res) : Prop :=
  (s.jobRun (s.unit r).job).armed = false ∨ ((s.job? (s.unit r).job).map JobE.nstop).getD false = false

/-- Elements 0 up of vector register `d` hold the list; every other element of every register is as it was (07 R216). -/
def VecWritten (u v : Machine.Unit) (d : BitVec 6) (es : List (W32 × Bool)) : Prop :=
  (∀ i, (h : i < es.length) → v.v d i = es[i]) ∧
    ∀ (k : BitVec 6) (i : Nat), i < 512 → (k ≠ d ∨ es.length ≤ i) → v.v k i = u.v k i

/-- The unit changed its vector registers alone, and went on to the next word. -/
def vecMoved (u v : Machine.Unit) : Prop := v = { advanced u with vregs := v.vregs }

/-- No hit or miss counter of a cache slice is about to pass its end (11 R385), so that an access of an NMU raises no PERF_OVF. -/
def LlcRoom (s : State) : Prop := ∀ d : Fin 4, s.mdie[d].hit.count.toNat + 2 < 2 ^ 48 ∧ s.mdie[d].miss.count.toNat + 2 < 2 ^ 48

/-! ### Frames -/

/-- Every byte outside the spans, given as address and length, reads as before, unless it lies in a line under another key, whose
bytes are unspecified anyway (15 R511). -/
def BytesKept (s t : State) (ws : List (Nat × Nat)) : Prop :=
  ∀ b, s.keyOk (b / 64) = true → (∀ w ∈ ws, b < w.1 ∨ w.1 + w.2 ≤ b) → t.byte b = s.byte b

/-- The bytes from `a` on read as the list. -/
def BytesAre (t : State) (a : Nat) (bs : List Byte) : Prop := ∀ i, (h : i < bs.length) → t.byte (a + i) = bs[i]

/-- Every reach and NMU but one unit is as it was. -/
def OthersKept (s t : State) (r : Res) : Prop :=
  (∀ n : Fin 16, r ≠ .reach n → t.reach[n] = s.reach[n]) ∧ ∀ d : Fin 4, r ≠ .nmu d → t.nmu[d] = s.nmu[d]

/-- TIME, the device's own registers, the ports, profiles, semaphores, power, security and contexts are as they were, and nothing
left the device. -/
def DeviceKept (s t : State) : Prop :=
  t.pending = s.pending ∧ t.time = s.time ∧ t.out = s.out ∧ t.ctx = s.ctx ∧ t.dev = s.dev ∧ t.sec = s.sec ∧ t.pci = s.pci ∧
    t.prf = s.prf ∧ t.sem = s.sem ∧ t.semRefused = s.semRefused ∧ t.semBroken = s.semBroken ∧ t.pwr = s.pwr ∧ t.tap = s.tap ∧
    t.board = s.board ∧ t.shadow = s.shadow

/-- Memory, its poison marks and its keys are as they were. -/
def MemoryKept (s t : State) : Prop := t.mem = s.mem ∧ t.poison = s.poison ∧ t.lineKey = s.lineKey

/-- No reach, NMU or M-die has changed, and no schedule or context. -/
def UnitsKept (s t : State) : Prop :=
  t.reach = s.reach ∧ t.nmu = s.nmu ∧ t.mdie = s.mdie ∧ t.lkp = s.lkp ∧ t.ctx = s.ctx

/-- Every line of memory is under the key that it was written with (15 R509, R511): no byte of it is unspecified. -/
def AllKeyed (s : State) : Prop := ∀ line, s.keyOk line = true

/-- No two spans, given as address and length, share a byte. -/
def Apart (ws : List (Nat × Nat)) : Prop := ws.Pairwise fun x y => x.1 + x.2 ≤ y.1 ∨ y.1 + y.2 ≤ x.1

/-- No span of one list shares a byte with one of the other. -/
def ApartFrom (xs ys : List (Nat × Nat)) : Prop := ∀ x ∈ xs, ∀ y ∈ ys, x.1 + x.2 ≤ y.1 ∨ y.1 + y.2 ≤ x.1

/-! ### Events -/

/-- The state after an event was raised: the record has the next sequence number, EVENT, JOB, CONTEXT and SOURCE of 19 R617, R618,
and is the newest of those kept for the collector (13 R446). -/
def Raised (s t : State) (code job : Nat) (source : W32) : Prop :=
  ∃ e : ErrRec, e.seq = s.ras.seq ∧ e.event = BitVec.ofNat 16 code ∧ e.job = BitVec.ofNat 16 job ∧ e.source = source ∧
    t.ras.seq = s.ras.seq + 1 ∧ t.mgt.recs.getLast? = some e

/-- The newest record kept for the collector is of the event. -/
def LastEvent (t : State) (code : Nat) : Prop := (t.mgt.recs.getLast?).map (·.event) = some (BitVec.ofNat 16 code)

/-- SOURCE of an event of the device as a whole, or of a port (19 R618). -/
def srcOf (s : State) (kind part : Nat) : W32 := sourceWord s.cpl.node kind part

/-- The KIND of a port (19 R618). -/
def kindOf : Port → Nat
  | .host => 3
  | .mgmt _ => 4

/-- A step that was in flight is marked as stopped in the way given, or is over and its number among the failed ones (10 R319,
R333; 16 R555). -/
def StepStops (s t : State) (j : Nat) (w : StepEnd) : Prop :=
  ∀ x, (s.jobRun j).step = some x → x.stop = .none →
    (∃ y, (t.jobRun j).step = some y ∧ y.no = x.no ∧ y.stop = w) ∨
      ((t.jobRun j).step = none ∧ (t.jobRun j).failed = (s.jobRun j).failed ++ [x.no])

/-- The step of the unit's job fails (02 R40, 10 R319): the unit has stopped, the event's record with the unit's job, context and
SOURCE is among those kept for the collector, and a step that was in flight is marked failed, or is over and its number among the
failed ones. -/
def StepFails (s t : State) (r : Res) (code addr d0 : Nat) : Prop :=
  let j := (s.unit r).job
  (t.unit r).run = .stopped ∧
    (∃ e ∈ t.mgt.recs, e.seq = s.ras.seq ∧ e.event = BitVec.ofNat 16 code ∧ e.job = BitVec.ofNat 16 j ∧
      e.ctx = BitVec.ofNat 32 ((s.unit r).ctx % 2 ^ 20) ∧ e.source = sourceWord s.cpl.node (resSource r).1 (resSource r).2 ∧
      e.addr = BitVec.ofNat 64 addr ∧ e.d0 = BitVec.ofNat 64 d0) ∧
    StepStops s t j (.failed (BitVec.ofNat 16 code))

/-- Staging has room for the records of the step in flight of a job (10 R328), so that none is dropped. -/
def StagingRoom (s : State) (j : Nat) : Prop :=
  ∀ x, (s.jobRun j).step = some x → s.lkp.held.length + x.members.length < 4096

/-! ### Registers -/

/-- Register accesses of the port reach the block and are served: the port is open, the ready point has come, and no drain is on
(12 R410; 13 R432; 16 R556). -/
structure OpenPort (s : State) (p : Port) : Prop where
  on    : s.portOn p = true
  ready : s.prf.ready = true
  free  : s.draining = false

/-! ### Starts -/

/-- A start has been made (12 R409 to R412): nothing is kept but the flash, the pins are sampled, memory, semaphores and sessions are as
at reset; where the ROM accepts no firmware slot the device is in recovery, without randomness it stops before the ready point, else it
has reached it. -/
def Started (s t : State) (b : StartIn) : Prop :=
  t.pending = s.pending ∧ t.dev.held = false ∧ t.dev.rstLow = false ∧ t.prf.pinSel = b.sel ∧ t.prf.pairSide = b.pairSide ∧
    t.mgt.mode = b.mgtMode ∧ t.mem = [] ∧ t.poison = [] ∧ (∀ n : Fin 32, t.sem[n].owner = 0) ∧
    (∀ i : Fin 4, t.mgt.sess[i] = none) ∧
    if s.fwOf false = none ∧ s.fwOf true = none then t.prf.recovery = true ∧ t.prf.ready = false
    else t.prf.recovery = false ∧ t.prf.ready = b.rngOk

/-! ### Requests and frames -/

/-- A request is new in a session that is open and, where `maint`, has MAINTENANCE authority (13 R444). -/
structure NewReq (s : State) (q : EmpReq) (i : Fin 4) (maint : Bool) : Prop where
  new  : s.empIn q = .fresh i maint
  form : q.form = true

/-- The state after a request has been answered: the reply leaves last, and the session keeps it for a repeat (13 R444). -/
def Replies (t : State) (q : EmpReq) (i : Fin 4) (status : Nat) (payload : List Byte) : Prop :=
  t.out.getLast? = some (.empReply q.session.toNat q.seq status payload) ∧
    (t.mgt.sess[i].map fun x => (x.id, x.seq, x.status, x.reply)) = some (q.session, some q.seq, status, payload)

/-- A frame for this device arrives at a port that is up, with a right header, under a key that it may carry (14 R456, R458, R459; 15 R515). -/
structure Arrives (s : State) (x : RxFrame) (ftype : Nat) : Prop where
  on   : s.dev.held = false
  up   : s.portUp x.port = true
  mine : s.frameMine x = true
  head : x.headOk ftype = true
  key  : s.frameKey x ftype = true

/-- A frame of a flow arrives in its turn (14 R469). -/
structure InTurn (s : State) (x : RxFrame) (ftype : Nat) extends Arrives s x ftype : Prop where
  turn : x.seq = (s.cpl.flow x.port x.src.toNat).expect

/-- A 1588 message of the time that this device follows arrives at a slave of it (14 R482). -/
structure HearsTime (s : State) (x : PtpMsg) : Prop where
  taken  : s.ptpTaken x = true
  master : s.ptpMaster x = true
  slave  : s.slave = true

/-- The frame of a flow that was sent last and is not acknowledged: TYPE, AUX and payload. -/
def lastSent (t : State) (p n : Nat) : Option (Nat × W32 × List Byte) :=
  ((t.cpl.flow p n).unacked.getLast?).map fun x => (x.ftype, x.aux, x.payload)

/-- The next frame of the reverse flow is awaited: this one has been applied. -/
def Applied (s t : State) (x : RxFrame) : Prop :=
  (t.cpl.flow x.port x.src.toNat).expect = (s.cpl.flow x.port x.src.toNat).expect + 1

/-! ### Tile work -/

/-- A reach runs, its control stream waits for nothing, and the head of its tile queue is `e`, of the OP. -/
structure Heads (s : State) (n : Fin 16) (e : TileEntry) (rest : List TileEntry) (op : Nat) : Prop where
  queue : s.reach[n].tq = e :: rest
  run   : s.reach[n].u.run = .running
  wait  : s.reach[n].u.wait = .none
  op    : bits e.word.toNat 124 4 = op

end Sys2Proof
end

