-- ==== Sys2Proof/Certificates/Slice0/Obligations.lean ====
section
/-! DEFINITION. The statements about the model. Each docstring names the rules of the spec that it formalises; a statement whose
docstring names a log entry rests on a choice of the model there. -/

open Sys2Proof Sys2Proof.Machine

/-! ### The step -/

/-- A step takes the command at the front of the queue and answers what exec answers on the rest. Every command completes in every
state, but for a private instruction of the test access port in debug state (18 R610). On an empty queue a nanosecond passes (19 R623),
but TIME reaches neither a lock point nor its own end by itself, and stands while the device is held in reset: that is the model's
choice, log entry 2. -/
def Obligations.StepRunsTheFrontCommand : Prop :=
  (∀ (c : Instr) (cs : List Instr) (s : State), s.pending = c :: cs → step s = exec c { s with pending := cs }) ∧
    (∀ (c : Instr) (s : State), (c = .tapInstruction .priv → s.sec.debug = false ∨ s.tap.reset = true) → ∃ t, exec c s = .next t) ∧
    ∀ s : State, s.pending = [] →
      (s.dev.held = true → step s = .next s) ∧
      (s.dev.held = false → s.lockAt = none → s.time.toNat + 1 < 2 ^ 64 →
        ∃ t, step s = .next t ∧ t.time = s.time + 1 ∧ UnitsKept s t ∧ MemoryKept s t) ∧
      (∀ l, s.lockAt = some l → l ≤ s.time.toNat + 1 → step s = .next s)

/-! ### Control stream: scalar registers -/

/-- The register forms of class 0x1 (07 R223): xD becomes the result, carrying the poison of xA and xB (R218), x0 keeps reading zero
(R215), the next word follows, and nothing else changes. -/
def Obligations.ScalarRegisterResult : Prop :=
  ∀ (r : Res) (w : CtlWord) (s : State), Ready s r {} → w.d.toNat < 32 → w.a.toNat < 32 → w.b.toNat < 32 → w.c = 0 → w.low = 0 →
    let a := (s.unit r).x w.a
    let b := (s.unit r).x w.b
    let puts (i : Instr) (v : W64) : Prop :=
      exec i s = .next (s.modU r fun u => advanced (u.setX w.d v (u.xp w.a || u.xp w.b)))
    puts (.add r w) (a + b) ∧ puts (.sub r w) (a - b) ∧ puts (.and r w) (a &&& b) ∧ puts (.or r w) (a ||| b) ∧
      puts (.xor r w) (a ^^^ b) ∧ puts (.shl r w) (a <<< b.extractLsb' 0 6) ∧ puts (.shr r w) (a >>> b.extractLsb' 0 6) ∧
      puts (.sra r w) (a.sshiftRight (b.extractLsb' 0 6).toNat) ∧ puts (.mul r w) ((a.setWidth 128 * b.setWidth 128).setWidth 64)

/-- ADDI, LI and LIH (07 R223): IMM is 30 bits and sign-extended; LIH keeps xA[29:0] below it. SETVL sets VL to xA, 1 to 256; any
other value is VEC_ILLEGAL and fails the step (R246). -/
def Obligations.ScalarImmediateResult : Prop :=
  ∀ (r : Res) (w : CtlWord) (s : State), Ready s r {} → w.b = 0 → w.c = 0 →
    let a := (s.unit r).x w.a
    let v := a.toNat
    (w.d.toNat < 32 → w.a.toNat < 32 → exec (.addi r w) s =
      .next (s.modU r fun u => advanced (u.setX w.d (a + w.low.signExtend 64) (u.xp w.a)))) ∧
    (w.d.toNat < 32 → w.a = 0 → exec (.li r w) s = .next (s.modU r fun u => advanced (u.setX w.d (w.low.signExtend 64) false))) ∧
    (w.d.toNat < 32 → w.a.toNat < 32 → exec (.lih r w) s =
      .next (s.modU r fun u => advanced (u.setX w.d (w.low.signExtend 34 ++ a.extractLsb' 0 30) (u.xp w.a)))) ∧
    (w.d = 0 → w.a.toNat < 32 → w.low = 0 → (s.unit r).xp w.a = false → 1 ≤ v → v ≤ 256 →
      exec (.setvl r w) s = .next (s.modU r fun u => { advanced u with vl := BitVec.ofNat 9 v })) ∧
    (w.d = 0 → w.a.toNat < 32 → w.low = 0 → (s.unit r).xp w.a = false → (v = 0 ∨ 256 < v) → StagingRoom s (s.unit r).job →
      Gives (.setvl r w) s fun t => StepFails s t r 0x0111 (s.unit r).next 0 ∧ (t.unit r).vl = (s.unit r).vl)

/-- x0 reads as zero and discards writes (07 R215): an instruction of class 0x1 with D = 0 only moves on, and one that reads x0 uses
zero, unpoisoned. -/
def Obligations.X0IsZero : Prop :=
  ∀ (r : Res) (w : CtlWord) (s : State), Ready s r {} → w.b = 0 → w.c = 0 → w.low = 0 →
    (w.d = 0 → w.a.toNat < 32 →
      ∀ i ∈ [Instr.add r w, .sub r w, .and r w, .or r w, .xor r w, .shl r w, .shr r w, .sra r w, .mul r w, .addi r w, .lih r w],
        exec i s = .next (s.modU r advanced)) ∧
    (w.d.toNat < 32 → w.a = 0 →
      ∀ i ∈ [Instr.add r w, .sub r w, .and r w, .or r w, .xor r w, .shl r w, .shr r w, .sra r w, .mul r w, .addi r w, .li r w, .lih r w],
        exec i s = .next (s.modU r fun u => advanced (u.setX w.d 0 false)))

/-- XLD reads 64 bits at xA + IMM with the line's poison, XST writes xB there with its poison (07 R218, R223); no other byte changes. -/
def Obligations.ScalarLoadAndStore : Prop :=
  ∀ (r : Res) (w : CtlWord) (s : State), w.a.toNat < 32 → w.c = 0 → (s.unit r).xp w.a = false →
    let a := addrPlus ((s.unit r).x w.a) w.immI
    a % 8 = 0 →
    (w.d.toNat < 32 → w.b = 0 → Ready s r { rd := [(a, a + 8)] } → s.accOk r a 8 false = true →
      Gives (.xld r w) s fun t =>
        t.unit r = advanced ((s.unit r).setX w.d (BitVec.ofNat 64 (leNat (s.read (unitAddr r a) 8))) (s.poisonedRange (unitAddr r a) 8)) ∧
          OthersKept s t r ∧ DeviceKept s t ∧ MemoryKept s t ∧ BytesKept s t []) ∧
    (w.d = 0 → w.b.toNat < 32 → Ready s r { wr := [(a, a + 8)] } → s.accOk r a 8 true = true →
      Gives (.xst r w) s fun t =>
        t.unit r = advanced (s.unit r) ∧ BytesAre t (unitAddr r a) (leBytes 8 ((s.unit r).x w.b).toNat) ∧
          ((s.unit r).xp w.b = true → unitAddr r a / 64 ∈ t.poison) ∧
          OthersKept s t r ∧ DeviceKept s t ∧ BytesKept s t [(unitAddr r a, 8)])

/-! ### Control stream: branches, waits and the end of work -/

/-- BR: COND compares xA and xB as R225 says; a taken branch goes to PC + OFF, which lies in the code area (R234), another goes on. -/
def Obligations.BranchGoesToItsTarget : Prop :=
  ∀ (r : Res) (w : CtlWord) (s : State), s.canDispatch r {} = true → (s.unit r).next < (s.unit r).codeLen →
    (s.unit r).codeLen ≤ 2 ^ 17 → w.d = 0 → w.a.toNat < 32 → w.b.toNat < 32 → w.c = 0 → w.cond ≠ 7 →
    (s.unit r).xp w.a = false → (s.unit r).xp w.b = false →
    let a := (s.unit r).x w.a
    let b := (s.unit r).x w.b
    let holds : Prop := match w.cond with
      | 0 => True | 1 => a = b | 2 => a ≠ b | 3 => a.slt b = true | 4 => a.slt b = false | 5 => a < b | _ => b ≤ a
    (holds → ∀ k : Nat, (k : Int) = (s.unit r).next + w.off → k < (s.unit r).codeLen →
      exec (.br r w) s = .next (s.modU r fun u => { u with pc := BitVec.ofNat 17 u.next, next := k })) ∧
    (¬ holds → (s.unit r).next + 1 < (s.unit r).codeLen → exec (.br r w) s = .next (s.modU r advanced))

/-- WAITEQ completes at once where the word at xA equals xB and waits where it does not; WAITEQ_MATCH ends the wait once the word is
there, and only then (07 R223, R234). -/
def Obligations.WaiteqWaitsForTheWord : Prop :=
  (∀ (r : Res) (w : CtlWord) (s : State), w.d = 0 → w.a.toNat < 32 → w.b.toNat < 32 → w.c = 0 → w.low = 0 →
    (s.unit r).xp w.a = false → (s.unit r).xp w.b = false →
    let a := ((s.unit r).x w.a).toNat
    let v := (s.unit r).x w.b
    a % 8 = 0 → s.accOk r a 8 false = true → Ready s r { rd := [(a, a + 8)] } →
    (s.readNat (unitAddr r a) 8 ≠ v.toNat → exec (.waiteq r w) s = .next (s.modU r fun u => waiting u (.waitEq a v))) ∧
    (s.readNat (unitAddr r a) 8 = v.toNat → Gives (.waiteq r w) s fun t =>
      t.unit r = advanced (s.unit r) ∧ OthersKept s t r ∧ DeviceKept s t ∧ MemoryKept s t)) ∧
  ∀ (r : Res) (s : State) (a : Nat) (v : W64), (s.unit r).wait = .waitEq a v → (s.unit r).run = .running →
    (s.unit r).pc.toNat + 1 < (s.unit r).codeLen →
    (s.readNat (unitAddr r a) 8 ≠ v.toNat → exec (.waiteqMatch r) s = .next s) ∧
    (s.readNat (unitAddr r a) 8 = v.toNat → Gives (.waiteqMatch r) s fun t =>
      t.unit r = { s.unit r with wait := .none, next := (s.unit r).pc.toNat + 1 } ∧ OthersKept s t r ∧ DeviceKept s t ∧ MemoryKept s t)

/-- YIELD ends the segment's work and END the step's on this resource, once the tile queue is empty and its work done, and, for END,
every barge complete; TWAIT goes on then; until then each waits (07 R232, R239). -/
def Obligations.YieldEndAndTwait : Prop :=
  ∀ (r : Res) (w : CtlWord) (s : State), Ready s r {} → w.d = 0 → w.a = 0 → w.b = 0 → w.c = 0 → w.low = 0 →
    let here := BitVec.ofNat 17 (s.unit r).next
    (s.tileIdle r = true →
      exec (.yield r w) s = .next (s.modU r fun u => { u with pc := here, wait := .none, run := .yielded, next := u.next + 1 }) ∧
      (r.isNmu = false → exec (.twait r w) s = .next (s.modU r advanced))) ∧
    (s.tileIdle r = false →
      exec (.yield r w) s = .next (s.modU r fun u => waiting u .yield) ∧
      (r.isNmu = false → exec (.twait r w) s = .next (s.modU r fun u => waiting u .twait)) ∧
      exec (.endStep r w) s = .next (s.modU r fun u => waiting u .ending)) ∧
    (s.tileIdle r = true → s.bargeBusy r 0xFFFF = true → exec (.endStep r w) s = .next (s.modU r fun u => waiting u .ending)) ∧
    (s.tileIdle r = true → s.bargeBusy r 0xFFFF = false → Gives (.endStep r w) s fun t =>
      t.unit r = { s.unit r with pc := here, wait := .none, run := .ended } ∧ OthersKept s t r ∧ MemoryKept s t ∧
        ∀ y, (t.jobRun (s.unit r).job).step = some y → resNum r ∈ y.ended)

/-- TQ puts the tile-table word INDEX, with xA, xB and xC added to the fields of R232, behind the queue of 16, or waits while it is
full; BISSUE copies the 64 bytes at xA and starts the barge under its tag, or waits while the tag is busy; BWAIT waits for its tags
and writes 0 or the event code of the failed barge with the lowest tag (07 R232, R233). -/
def Obligations.TileQueueAndBargeIssue : Prop :=
  ∀ (n : Fin 16) (w : CtlWord) (s : State),
    let r : Res := .reach n
    let u := s.reach[n].u
    (Ready s r {} → w.d = 0 → w.a.toNat < 32 → w.b.toNat < 32 → w.c.toNat < 32 → bits w.low.toNat 0 14 = 0 → w.index < u.tileLen →
      u.xp w.a = false → u.xp w.b = false → u.xp w.c = false →
      ∀ y, ((tqAdd (s.tileWord n w.index) (tqFields (bits (s.tileWord n w.index) 124 4)).1 (u.x w.a)).bind
          fun z => tqAdd z (tqFields (bits (s.tileWord n w.index) 124 4)).2.1 (u.x w.b)).bind
          (fun z => tqAdd z (tqFields (bits (s.tileWord n w.index) 124 4)).2.2 (u.x w.c)) = some y →
        (s.reach[n].tq.length < 16 → exec (.tq r w) s = .next (s.modReach n fun x =>
          { x with u := advanced x.u, tq := x.tq ++ [⟨BitVec.ofNat 128 y, u.next, w.index⟩] })) ∧
        (16 ≤ s.reach[n].tq.length → exec (.tq r w) s =
          .next (s.modU r fun u => waiting u (.tqFull (BitVec.ofNat 128 y) w.index)))) ∧
    (w.d = 0 → w.a.toNat < 32 → w.b = 0 → w.c = 0 → w.low.toNat < 16 → u.xp w.a = false →
      let a := (u.x w.a).toNat
      Ready s r (bissueSpans r w s) → a % 64 = 0 → s.accOk r a 64 false = true →
        let desc := s.read (unitAddr r a) 64
        (s.bargeBusy r (2 ^ w.low.toNat) = false → Gives (.bissue r w) s fun t =>
          t.unit r = advanced u ∧ OthersKept s t r ∧ DeviceKept s t ∧ MemoryKept s t ∧
            ((t.reach[n].barges.toList[w.low.toNat]?).map fun b => (b.desc, b.busy, b.moved, b.code)) = some (desc, true, false, 0)) ∧
        (s.bargeBusy r (2 ^ w.low.toNat) = true → Gives (.bissue r w) s fun t => t.unit r = waiting u (.tag w.low.toNat desc))) ∧
    (Ready s r {} → w.d.toNat < 32 → w.a = 0 → w.b = 0 → w.c = 0 → w.low.toNat < 2 ^ 16 →
      (s.bargeBusy r w.low.toNat = true → exec (.bwait r w) s = .next (s.modU r fun u => waiting u (.bwait w.low.toNat w.d.toNat))) ∧
      (s.bargeBusy r w.low.toNat = false → ∀ v : W16,
        (v = 0 ∧ ∀ k : Fin 16, bitAt w.low.toNat k = true → s.reach[n].barges[k].code = 0) ∨
          (v ≠ 0 ∧ ∃ k : Fin 16, bitAt w.low.toNat k = true ∧ s.reach[n].barges[k].code = v ∧
            ∀ j : Fin 16, j < k → bitAt w.low.toNat j = true → s.reach[n].barges[j].code = 0) →
        exec (.bwait r w) s = .next (s.modU r fun u => advanced (u.setX w.d (v.setWidth 64) false))))

/-! ### Control stream: vector registers -/

/-- The elementwise instructions (07 R216, R223 to R225; 02 R58, R61): elements 0 to VL − 1 of vD become the exact result of the decoded
operands, rounded once into FMT_D, poisoned where an operand is; every other element, register and byte is as it was. -/
def Obligations.ElementwiseResult : Prop :=
  ∀ (r : Res) (w : CtlWord) (s : State), Ready s r {} → Quiet s r → fmtV w.fmtS = true → fmtV w.fmtD = true →
    let u := s.unit r
    let f := fmtOf w.fmtS
    let bits_ (k : BitVec 6) (i : Nat) : Nat := (u.v k i).1.toNat % 2 ^ f.width
    let rawB (i : Nat) : Nat := if w.bs then (u.x w.b).toNat % 2 ^ f.width else bits_ w.b i
    let A (i : Nat) : Val := decode f w.qs (bits_ w.a i)
    let B (i : Nat) : Val := decode f w.qs (rawB i)
    let C (i : Nat) : Val := decode f w.qs (bits_ w.c i)
    let pA (i : Nat) : Bool := (u.v w.a i).2
    let pB (i : Nat) : Bool := if w.bs then u.xp w.b else (u.v w.b i).2
    let pC (i : Nat) : Bool := (u.v w.c i).2
    let rounds (v : Val) (p : Bool) : W32 × Bool := (BitVec.ofNat 32 (roundTo (fmtOf w.fmtD) w.qd w.ovf v).pat, p)
    let gives (i : Instr) (form : Form) (e : Nat → W32 × Bool) : Prop := wordOk r form w = true →
      ∃ v c p k b, exec i s = .next (unitOnly s r v c p k b) ∧ vecMoved u v ∧ VecWritten u v w.d ((List.range u.vl.toNat).map e)
    gives (.vadd r w) (form4 w true false) (fun i => rounds (addVal (A i) (B i)) (pA i || pB i)) ∧
    gives (.vsub r w) (form4 w true false) (fun i => rounds (addVal (A i) (negS w (B i))) (pA i || pB i)) ∧
    gives (.vmul r w) (form4 w true false) (fun i => rounds (mulVal (ieeeS w) (A i) (B i)) (pA i || pB i)) ∧
    gives (.vfma r w) (form4 w true true)
      (fun i => rounds (addVal (mulVal (ieeeS w) (A i) (B i)) (C i)) (pA i || pB i || pC i)) ∧
    gives (.vmax r w) (form4 w true false) (fun i => rounds (pickVal (ieeeS w) true (A i) (B i)) (pA i || pB i)) ∧
    gives (.vmin r w) (form4 w true false) (fun i => rounds (pickVal (ieeeS w) false (A i) (B i)) (pA i || pB i)) ∧
    gives (.vabs r w) (form4 w false false) (fun i => rounds (absVal (A i)) (pA i)) ∧
    gives (.vneg r w) (form4 w false false) (fun i => rounds (negS w (A i)) (pA i)) ∧
    gives (.vcmp r w) { form4 w true false with lay := .v fun x => bits x 0 5 == 0 && bits x 5 3 != 7 }
      (fun i => rounds (if cmpHolds (bits w.x 5 3) (ieeeS w) (A i) (B i) then .fin 1 else .zero false) (pA i || pB i)) ∧
    (w.fmtD = w.fmtS → gives (.vsel r w) (form4 w true true)
      (fun i => if bits_ w.a i ≠ 0 then (BitVec.ofNat 32 (rawB i), pA i || pB i) else (BitVec.ofNat 32 (bits_ w.c i), pA i || pC i))) ∧
    gives (.vcvt r w) { d := .ve, a := .ve, lay := .v fun x => x == 0 } (fun i => rounds (A i) (pA i))

/-- SFN and GATE (05 R153 to R157, R174, R184): elementwise functions of the SFU, rounded once into FMT_D. What the native, shipped and FD1
functions give is within the spec's bounds and else open, log entry 33. -/
def Obligations.SfuFunctionResult : Prop :=
  ∀ (r : Res) (w : CtlWord) (s : State), Ready s r {} → Quiet s r →
    let u := s.unit r
    let f := fmtOf w.fmtS
    let g (i : Nat) : Val := decode f w.qs ((u.v w.a i).1.toNat % 2 ^ f.width)
    let y (i : Nat) : Val := if bitAt w.x 6 then .fin 1 else decode f w.qs ((u.v w.b i).1.toNat % 2 ^ f.width)
    let pY (i : Nat) : Bool := !bitAt w.x 6 && (u.v w.b i).2
    let rounds (v : Val) (p : Bool) : W32 × Bool := (BitVec.ofNat 32 (roundTo (fmtOf w.fmtD) w.qd w.ovf v).pat, p)
    let gives (i : Instr) (e : Nat → W32 × Bool) : Prop :=
      ∃ v c p k b, exec i s = .next (unitOnly s r v c p k b) ∧ vecMoved u v ∧ VecWritten u v w.d ((List.range u.vl.toNat).map e)
    let sfn : Prop := wordOk r { d := .ve, a := .ve, lay := .v fun _ => true } w = true ∧ sfnChk r w s = none ∧ sfnSteps s r w < 2 ^ 24
    (sfn → sfnFd1 w = true →
      gives (.sfn r w) fun i => (BitVec.ofNat 32 (fd1Val (sfnFunc w) ((u.v w.a i).1.extractLsb' 0 16)).toNat, (u.v w.a i).2)) ∧
    (sfn → sfnFd1 w = false → sfnFunc w ≤ 1 → gives (.sfn r w) fun i => rounds (nativeOut (fmtOf w.fmtD) w.qd w.ovf (sfnFunc w) f.isIeee (g i)) (u.v w.a i).2) ∧
    (sfn → sfnFd1 w = false → 2 ≤ sfnFunc w → sfnFunc w ≤ 8 → s.useShipped r = true →
      gives (.sfn r w) fun i => rounds (shippedVal (fmtOf w.fmtD) w.qd w.ovf (sfnFunc w) f.isIeee (g i)) (u.v w.a i).2) ∧
    (sfn → sfnFd1 w = false → 2 ≤ sfnFunc w → s.useShipped r = false → ∀ e, imgEntry (s.sfuImage r) (sfnFunc w) = some e →
      gives (.sfn r w) fun i => rounds (microVal (s.sfuImage r) e (fmtOf w.fmtD) w.qd w.ovf f.isIeee (g i)) (u.v w.a i).2) ∧
    (r.isNmu = false → fmtSfu w.fmtS = true → fmtSfu w.fmtD = true →
      wordOk r { d := .ve, a := .ve, b := if bitAt w.x 6 then .free else .ve, nmu := false
                 lay := .v fun x => bits x 0 6 == 0 && bits x 7 2 != 3 } w = true →
      gives (.gate r w) fun i => rounds (gateOut (fmtOf w.fmtD) w.qd w.ovf (bits w.x 7 2) f.isIeee (g i) (y i)) ((u.v w.a i).2 || pY i))

/-- VSPLIT (07 R226, 04 R141): σ of the row goes to xC, and the p16 pieces h, m and l of each p32 element to vD, vD + 1 and vD + 2. -/
def Obligations.SplitPieces : Prop :=
  ∀ (n : Fin 16) (w : CtlWord) (s : State), Ready s (.reach n) {} → Quiet s (.reach n) →
    wordOk (.reach n) { d := .ve3, a := .ve, c := .sc, lay := .v fun x => x == 0, nmu := false } w = true →
    w.fmtS = 2 → w.fmtD = 1 →
    let u := s.reach[n].u
    let x (i : Nat) : Val := decode .p32 0 (u.v w.a i).1.toNat
    let sigma := splitSigma ((List.range u.vl.toNat).map x)
    (∀ i < u.vl.toNat, (splitElem sigma (x i)).isSome = true) →
    let poison := (List.range u.vl.toNat).any fun i => (u.v w.a i).2
    Gives (.vsplit (.reach n) w) s fun t =>
      (∀ i < u.vl.toNat, ∀ h m l, splitElem sigma (x i) = some (h, m, l) →
        (t.unit (.reach n)).v w.d i = (BitVec.ofNat 32 h, poison) ∧ (t.unit (.reach n)).v (w.d + 1) i = (BitVec.ofNat 32 m, poison) ∧
          (t.unit (.reach n)).v (w.d + 2) i = (BitVec.ofNat 32 l, poison)) ∧
      (∀ (k : BitVec 6) (i : Nat), i < 512 → (k ≠ w.d ∧ k ≠ w.d + 1 ∧ k ≠ w.d + 2 ∨ u.vl.toNat ≤ i) → (t.unit (.reach n)).v k i = u.v k i) ∧
      t.unit (.reach n) = { (advanced u).setX w.c (BitVec.ofInt 64 sigma) poison with vregs := (t.unit (.reach n)).vregs } ∧
      OthersKept s t (.reach n) ∧ DeviceKept s t ∧ MemoryKept s t

/-- VLD (07 R216, R217, R226): element i takes the pattern at its address, poisoned by its line, and nothing else of the unit but the
position and the report of a NaN or NaR element (08 R264) changes; no byte of memory does. -/
def Obligations.VectorLoad : Prop :=
  ∀ (r : Res) (w : CtlWord) (s : State),
    wordOk r { d := .ve, a := .sc, b := .sc, lay := .m } w = true → Ready s r { rd := [memSpan s r w] } →
    (s.unit r).xp w.a = false → (s.unit r).xp w.b = false → memChk r w false s = none → NoTrapStop s r →
    let u := s.unit r
    let f := fmtOf w.fmtS
    let elem (i : Nat) : W32 × Bool :=
      let a := unitAddr r (elemAddr f.width (u.x w.a) (u.x w.b) w.immM i)
      let x := s.readNat a (elemBytes f)
      (BitVec.ofNat 32 (if f.width = 4 then x / 16 ^ (i % 2) % 16 else x), s.poisonedRange a (elemBytes f))
    Gives (.vld r w) s fun t => t.unit r = { advanced u with vregs := (t.unit r).vregs, trap := (t.unit r).trap } ∧
      VecWritten u (t.unit r) w.d ((List.range u.vl.toNat).map elem) ∧
      ((∀ i < u.vl.toNat, patIsNan f ((elem i).1.toNat % 2 ^ f.width) = false) → (t.unit r).trap = u.trap) ∧
      OthersKept s t r ∧ DeviceKept s t ∧ MemoryKept s t ∧ BytesKept s t []

/-- VST (07 R217, R226) completes wherever its accesses are allowed, and changes nothing of the unit but the position and the report of a
NaN or NaR element (08 R264). A row of elements behind each other is written from the first element's address on, in order; with a stride
each element is written at its own address; where the row does not run past the last 64-bit address, no other byte changes. -/
def Obligations.VectorStore : Prop :=
  ∀ (r : Res) (w : CtlWord) (s : State),
    wordOk r { d := .ve, a := .sc, b := .sc, lay := .m } w = true → Ready s r { wr := [memSpan s r w] } →
    (s.unit r).xp w.a = false → (s.unit r).xp w.b = false → memChk r w true s = none → NoTrapStop s r →
    let u := s.unit r
    let f := fmtOf w.fmtS
    let at_ (i : Nat) : Nat := unitAddr r (elemAddr f.width (u.x w.a) (u.x w.b) w.immM i)
    Gives (.vst r w) s fun t => t.unit r = { advanced u with trap := (t.unit r).trap } ∧ OthersKept s t r ∧ DeviceKept s t ∧
      ((∀ i < u.vl.toNat, patIsNan f ((u.v w.d i).1.toNat % 2 ^ f.width) = false) → (t.unit r).trap = u.trap) ∧
      (addrPlus (u.x w.a) w.immM + 2048 ≤ 2 ^ 64 →
        BytesKept s t ((List.range u.vl.toNat).map fun i => (at_ i, elemBytes f)) ∧
        ((u.x w.b = 0 ∨ (u.x w.b).toNat = elemBytes f) → f.width ≠ 4 → ∀ i < u.vl.toNat,
          BytesAre t (at_ i) (leBytes (f.width / 8) (u.v w.d i).1.toNat)))

/-- The reductions and WPROD write one record at xD (07 R227, R228; 04 R129, R130, R134): VSUM and VSUMSQ the FWP record of the exact
sum, VMAXI and VMINI the winner with INDEX = xB + i, WPROD the exact product; no other byte and no register changes. -/
def Obligations.ReductionRecords : Prop :=
  ∀ (r : Res) (w : CtlWord) (s : State), Quiet s r → fmtV w.fmtS = true → (s.unit r).xp w.d = false →
    let u := s.unit r
    let f := fmtOf w.fmtS
    let a := (u.x w.d).toNat
    let idx := List.range u.vl.toNat
    let x (i : Nat) : Val := decode f w.qs ((u.v w.a i).1.toNat % 2 ^ f.width)
    let poison := idx.any fun i => (u.v w.a i).2
    let writes (i : Instr) (form : Form) (n al : Nat) (bs : List Byte) : Prop :=
      wordOk r form w = true → Ready s r { wr := [(a, a + n)] } → a % al = 0 → s.accOk r a n true = true →
        Gives i s fun t => t.unit r = advanced u ∧ OthersKept s t r ∧ DeviceKept s t ∧ BytesAre t (unitAddr r a) bs ∧
          BytesKept s t [(unitAddr r a, n)]
    let win (i : Nat) : Winner :=
      { index := ((u.x w.b).toNat + i) % 2 ^ 32, pat := (u.v w.a i).1.toNat % 2 ^ f.width, poison := (u.v w.a i).2 || u.xp w.b }
    let winForm : Form := { d := .sc, a := .ve, b := .sc, lay := .v fun x => x == 0 }
    writes (.vsum r w) formSum 96 32 (Fwp.ofVals w.fmtS poison (idx.map x)).bytes ∧
    writes (.vsumsq r w) formSum 96 32 (Fwp.ofVals w.fmtS poison (idx.map fun i => (squareVal (x i)).1)).bytes ∧
    writes (.vmaxi r w) winForm 8 8 (winnerOf true f w.qs (idx.map win)).bytes ∧
    writes (.vmini r w) winForm 8 8 (winnerOf false f w.qs (idx.map win)).bytes ∧
    writes (.wprod r w) { d := .sc, a := .sc, b := .sc, lay := .v fun x => x == 0 } 96 32
      ({ Fwp.ofVals w.fmtS (u.xp w.a || u.xp w.b) [((Term.ofVal (mulVal f.isIeee (decode f w.qs ((u.x w.a).toNat % 2 ^ f.width))
        (decode f w.qs ((u.x w.b).toNat % 2 ^ f.width)))).range .q32).1.val] with acc := 1 }).bytes

/-- The wide adder (07 R228; 04 R136; 05 R176 to R178; 02 R58): WINMAX, WINMIN and WRED combine the records that they read, ROWSTAT forms
mean and variance, each written at xD; WROUND rounds the record at xA into xD. -/
def Obligations.WideAdderResult : Prop :=
  ∀ (r : Res) (w : CtlWord) (s : State), Quiet s r → (s.unit r).xp w.a = false →
    let u := s.unit r
    let d := (u.x w.d).toNat
    let a := (u.x w.a).toNat
    let b := (u.x w.b).toNat
    let n := (u.x w.c).toNat
    let writes (i : Instr) (form : Form) (rd : List (Nat × Nat)) (len : Nat) (bs : List Byte) : Prop :=
      wordOk r form w = true → u.xp w.d = false → Ready s r { rd := rd, wr := [(d, d + len)] } → s.accOk r d len true = true →
        Gives i s fun t => t.unit r = advanced u ∧ OthersKept s t r ∧ DeviceKept s t ∧ BytesKept s t [(unitAddr r d, len)] ∧
          BytesAre t (unitAddr r d) bs
    let form2 : Form := { d := .sc, a := .sc, b := .sc, lay := .v fun x => x == 0 }
    let formN : Form := { d := .sc, a := .sc, c := .sc, lay := .v fun x => x == 0 }
    (fmtV w.fmtS = true → u.xp w.b = false → d % 8 = 0 → a % 8 = 0 → b % 8 = 0 → s.accOk r a 8 false = true → s.accOk r b 8 false = true →
      ∀ up : Bool, writes (if up then .winmax r w else .winmin r w) form2 [(a, a + 8), (b, b + 8)] 8
        (winnerOf up (fmtOf w.fmtS) w.qs [s.readWinner r a, s.readWinner r b]).bytes) ∧
    (u.xp w.b = false → d % 8 = 0 → a % 32 = 0 → b % 32 = 0 → s.accOk r a 96 false = true → s.accOk r b 96 false = true →
      let z := rowStat w.ovf (s.readFwp r a) (s.readFwp r b)
      let f := rowFmt (s.readFwp r a)
      writes (.rowstat r w) form2 [(a, a + 96), (b, b + 96)] 8
        (leBytes 4 (roundTo f 0 w.ovf z.m).pat ++ leBytes 4 (roundTo f 0 w.ovf z.v).pat)) ∧
    (u.xp w.c = false → 1 ≤ n → n ≤ 65536 → d % 32 = 0 → a % 32 = 0 → s.accOk r a (96 * n) false = true →
      let rec_ (i : Nat) : Fwp := s.readFwp r (a + 96 * i)
      writes (.wred r w) formN [(a, a + 96 * n)] 96
        ((List.range (n - 1)).foldl (fun (c : Fwp) i => (c.combine (rec_ (i + 1))).1) (rec_ 0)).bytes) ∧
    (w.b = 0 → w.c = 0 → w.d.toNat < 32 → w.a.toNat < 32 → w.x = 0 → scaleOk w.fmtS w.qs = true → scaleOk w.fmtD w.qd = true →
      fmtV w.fmtD = true → a % 32 = 0 → s.accOk r a 96 false = true → Ready s r { rd := [(a, a + 96)] } →
      Gives (.wround r w) s fun t => OthersKept s t r ∧ DeviceKept s t ∧ MemoryKept s t ∧
        t.unit r = advanced (u.setX w.d (BitVec.ofNat 64 (roundTo (fmtOf w.fmtD) w.qd w.ovf (s.readFwp r a).val).pat) (s.readFwp r a).poison))

/-- WCOMB (07 R228, 04 R136): where the two arrays share no byte, record i at xD becomes its combination with record i at xA, for each of
the xC records. -/
def Obligations.CombineRecords : Prop :=
  ∀ (r : Res) (w : CtlWord) (s : State), Quiet s r →
    wordOk r { d := .sc, a := .sc, c := .sc, lay := .v fun x => x == 0 } w = true →
    (s.unit r).xp w.d = false → (s.unit r).xp w.a = false → (s.unit r).xp w.c = false →
    let u := s.unit r
    let d := (u.x w.d).toNat
    let a := (u.x w.a).toNat
    let n := (u.x w.c).toNat
    1 ≤ n → n ≤ 65536 → d % 32 = 0 → a % 32 = 0 → s.accOk r d (96 * n) true = true → s.accOk r a (96 * n) false = true →
    Ready s r { rd := [(a, a + 96 * n), (d, d + 96 * n)], wr := [(d, d + 96 * n)] } → (d + 96 * n ≤ a ∨ a + 96 * n ≤ d) →
    (∀ i < n, r.isNmu = true → s.keyOk ((d + 96 * i) / 64) = true ∧ s.keyOk ((d + 96 * i) / 64 + 1) = true ∧
      s.keyOk ((a + 96 * i) / 64) = true ∧ s.keyOk ((a + 96 * i) / 64 + 1) = true) →
    Gives (.wcomb r w) s fun t => t.unit r = advanced u ∧ OthersKept s t r ∧ DeviceKept s t ∧
      BytesKept s t [(unitAddr r d, 96 * n)] ∧
      ∀ i < n, ∃ p, Fwp.ofBytes (t.read (unitAddr r (d + 96 * i)) 96) =
        { ((Fwp.ofBytes (s.read (unitAddr r (d + 96 * i)) 96)).combine (Fwp.ofBytes (s.read (unitAddr r (a + 96 * i)) 96))).1 with
          poison := p }

/-! ### Control stream: quantisation -/

/-- QUANT (06 R192 to R195, R204; 07 R229): where its writes share no byte, each row's codes, scale, zero point, side entries and error
record stand where the parameter block says, and no other byte and no register changes; a NaR row may be reported (08 R264). -/
def Obligations.QuantWritesItsRows : Prop :=
  ∀ (r : Res) (w : CtlWord) (s : State), NoTrapStop s r → wordOk r { a := .sc, lay := .q } w = true → (s.unit r).xp w.a = false →
    let u := s.unit r
    let a := (u.x w.a).toNat
    let p := readQParam s r a
    let ws := quantAll p 0 0 (quantRows s r p)
    Ready s r { rd := [(a, a + 64), (p.src, p.src + (p.nrow - 1) * p.sstride + bytesOf p.fmtS p.len)]
                wr := ws.map fun x => (x.1, x.1 + x.2.1.length) } →
    quantChk r w s = none →
    Gives (.quant r w) s fun t => t.unit r = { advanced u with trap := (t.unit r).trap } ∧ OthersKept s t r ∧ DeviceKept s t ∧
      ((∀ q ∈ quantRows s r p, q.1.nan = false) → (t.unit r).trap = u.trap) ∧
      BytesKept s t (ws.map fun x => (unitAddr r x.1, x.2.1.length)) ∧
      (ws.Pairwise (fun x y => x.1 + x.2.1.length ≤ y.1 ∨ y.1 + y.2.1.length ≤ x.1) → ∀ x ∈ ws, BytesAre t (unitAddr r x.1) x.2.1)

/-- SIDEX (06 R200 to R203, 07 R230): the slot-add entries of the tile's escaped operands stand one behind the other from OUT on, xD
holds their number, and no other byte or register changes. -/
def Obligations.SidexWritesEntries : Prop :=
  ∀ (n : Fin 16) (w : CtlWord) (s : State), let r : Res := .reach n
    Quiet s r → wordOk r { d := .sc, a := .sc, lay := .q, nmu := false } w = true → (s.unit r).xp w.a = false →
    let u := s.unit r
    let a := (u.x w.a).toNat
    let p := readXParam s r a
    let ents := (List.range p.rows).flatMap fun t => (List.range p.ncol).flatMap fun j => (sideEntries s r p (sideList s r p) t j).1
    Ready s r { rd := [(a, a + 64), (p.list, p.list + 8 * p.cnt), (p.zp, p.zp + p.rows),
                       (p.arow 0, p.arow (p.rows - 1) + bytesOf p.fa p.klen), (p.wcol 0, p.wcol p.ncol)]
                wr := [(p.out, p.out + 8 * p.nout)] } →
    sidexChk r w s = none → ents.length ≤ p.nout →
    Gives (.sidex r w) s fun t =>
      t.unit r = advanced (u.setX w.d (BitVec.ofNat 64 ents.length) false) ∧ OthersKept s t r ∧ DeviceKept s t ∧
        BytesKept s t [(unitAddr r p.out, 8 * ents.length)] ∧
        ∀ i, (h : i < ents.length) → BytesAre t (unitAddr r (p.out + 8 * i)) (leBytes 8 ents[i].1)

/-- QCHECK (06 R205 to R207, 07 R231): PASS where the threshold is NaR or the mean error is at most it, INVALID where the record is NaR
or counts nothing, else RERUN while the budget lasts, which it lowers by one, and then DENIED. -/
def Obligations.QcheckDecides : Prop :=
  ∀ (n : Fin 16) (w : CtlWord) (s : State), let r : Res := .reach n
    Quiet s r → wordOk r { d := .sc, a := .sc, lay := .q, nmu := false } w = true → (s.unit r).xp w.a = false →
    let u := s.unit r
    let a := (u.x w.a).toNat
    a % 32 = 0 → s.accOk r a 96 false = true → w.immQ < (s.threshOf u.job).length → Ready s r { rd := [(a, a + 96)] } →
    let q := s.readFwp r a
    let thr := decodePosit 32 ((s.threshOf u.job).getD w.immQ 0).toNat
    let small : Prop := q.pinf = false ∧ q.ninf = false ∧ (quireRead .q32 q.image).1 ≤ thr.rat * ((q.acc : Nat) : Rat)
    let x := s.reach[n]
    let code (k left denied : Nat) : Prop := Gives (.qcheck r w) s fun t =>
      t.unit r = advanced (u.setX w.d (BitVec.ofNat 64 k) q.poison) ∧ t.reach[n].rerunLeft = left ∧ t.reach[n].denied = denied ∧
        t.reach[n].cnt = { x.cnt with rerun := if k = 1 then stick32 x.cnt.rerun 1 else x.cnt.rerun, deny := if k = 2 then stick32 x.cnt.deny 1 else x.cnt.deny } ∧
        (k = 2 → Raised s t 0x010D u.job (srcOf s 1 n) ∧ ∃ e, t.mgt.recs.getLast? = some e ∧ e.addr = BitVec.ofNat 64 w.immQ) ∧
        (k ≠ 2 → t.mgt = s.mgt ∧ t.ras = s.ras) ∧ OthersKept s t r ∧ DeviceKept s t ∧ MemoryKept s t
    (thr.isNan = true → code 0 x.rerunLeft x.denied) ∧
    (thr.isNan = false → (q.nan = true ∨ q.acc = 0) → code 3 x.rerunLeft x.denied) ∧
    (thr.isNan = false → q.nan = false → q.acc ≠ 0 → small → code 0 x.rerunLeft x.denied) ∧
    (thr.isNan = false → q.nan = false → q.acc ≠ 0 → ¬ small → 0 < x.rerunLeft → code 1 (x.rerunLeft - 1) x.denied) ∧
    (thr.isNan = false → q.nan = false → q.acc ≠ 0 → ¬ small → x.rerunLeft = 0 → code 2 0 (x.denied + 1))

/-! ### Steps that fail -/

/-- Words that fail the step (02 R40; 03 R82, R91, R92; 07 R221, R223, R234, R246): TRAP with its code in the first detail word, a reserved
CLASS or FN, a control word that breaks its form, a reserved tile OP, and a tile word for the first of its faults; ADDR is the PC. The unit
stops and the step is marked failed whatever else holds; the record is among those kept for the collector where staging has room for the
step's own. -/
def Obligations.BadWordsFailTheStep : Prop :=
  ∀ (r : Res) (s : State),
    let j := (s.unit r).job
    let fails (i : Instr) (code addr d0 : Nat) : Prop := Gives i s fun t =>
      (t.unit r).run = .stopped ∧ StepStops s t j (.failed (BitVec.ofNat 16 code)) ∧ OthersKept s t r ∧ MemoryKept s t ∧
        (StagingRoom s j → StepFails s t r code addr d0)
    (s.canDispatch r {} = true → (s.unit r).next < 2 ^ 17 →
      (∀ w : CtlWord, (s.unit r).next < (s.unit r).codeLen → wordOk r { lay := .q } w = true →
        fails (.trap r w) 0x0113 (s.unit r).next w.immQ) ∧
      (∀ cls fn, ctlDefined cls.toNat fn.toNat = false → fails (.reservedControlWord r cls fn) 0x0111 (s.unit r).next 0) ∧
      (∀ w : CtlWord, wordOk r formRR w = false →
        ∀ i ∈ [Instr.add r w, .sub r w, .and r w, .or r w, .xor r w, .shl r w, .shr r w, .sra r w, .mul r w],
          fails i 0x0111 (s.unit r).next 0)) ∧
    (∀ (n : Fin 16) (e : TileEntry) (rest : List TileEntry), r = .reach n →
      (∀ op, op = 0 ∨ 8 ≤ op → Heads s n e rest op → fails (.reservedTileOp n) 0x0104 e.pc (e.word.toNat / 2 ^ 64)) ∧
      (∀ code, Heads s n e rest 1 → macWait n s e.word.toNat = false → macChk n s e.word.toNat = some code →
        fails (.tileMac n) code e.pc (if code = 0x0104 then e.word.toNat / 2 ^ 64 else 0)))

/-! ### Tile instructions -/

/-- TILE_MAC, TILE_ELEM and SLOTADD leave the queue and owe their slots the updates of their runs, vectors and entries, behind those
already owed (03 R84, R88, R97; 04 R138 to R140); TILE_MAC waits while its store is being filled (03 R80). Nothing lands yet: the bank,
the registers and memory are as they were. Where every operand of a lane is a number, the term of a run is the exact sum of the products
times 2^SHIFT (R84). -/
def Obligations.TileWordsOweUpdates : Prop :=
  (∀ (lane : Nat) (ieee poison : Bool) (shift : Int) (ps : List (Val × Val)),
    let number (v : Val) : Prop := (∃ x, v = .fin x) ∨ ∃ b, v = .zero b
    (∀ p ∈ ps, number p.1 ∧ number p.2) →
    let l := laneTerm lane ieee false shift poison ps
    l.t.v = (ps.map fun p => p.1.rat * p.2.rat * pow2 shift).sum ∧ l.t.nan = false ∧ l.t.pinf = false ∧ l.t.ninf = false ∧
      l.t.poison = poison ∧ l.ranged = 0 ∧ l.carried = false) ∧
  ∀ (n : Fin 16) (s : State) (e : TileEntry) (rest : List TileEntry),
    let x := e.word.toNat
    let owes (i : Instr) (us : List (List Upd)) : Prop := Gives i s fun t =>
      t.reach[n].tq = rest ∧ t.reach[n].pend = s.reach[n].pend ++ us ∧ t.reach[n].bank = s.reach[n].bank ∧
        t.reach[n].grps = s.reach[n].grps ∧ t.reach[n].u = s.reach[n].u ∧ OthersKept s t (.reach n) ∧ DeviceKept s t ∧ MemoryKept s t
    (Heads s n e rest 1 → macWait n s x = true → exec (.tileMac n) s = .next s) ∧
    (Heads s n e rest 1 → macWait n s x = false → macChk n s x = none → owes (.tileMac n) (macUpds s n e)) ∧
    (Heads s n e rest 3 → elemChk n s x = none → owes (.tileElem n) (elemUpds s n e)) ∧
    (Heads s n e rest 7 → slotaddChk n s x = none → bitAt x 123 = true → (entryUpds n s e (s.tileGrp n x) 0 (bits x 64 16 + 1)).2 = false →
      owes (.slotadd n) (entryUpds n s e (s.tileGrp n x) 0 (bits x 64 16 + 1)).1) ∧
    (Heads s n e rest 7 → slotaddChk n s x = none → bitAt x 123 = false →
      owes (.slotadd n) ((List.range (s.tileGrp n x).n).flatMap fun t =>
        recUpds (s.tileGrp n x) e (bits x 88 3) t ((s.reach[n].lanes.take (bits x 80 8 + 1)).zipIdx.map fun p =>
          (p.1, s.readFwp (.reach n) (slotaddRec n x t p.2 - storeBase n))) 0 0))

/-- WLOAD waits while a fill is in progress or its store is LOADED; else it starts the fill, whose columns are those of the tile in the
reach store, and WLOAD_COMPLETE makes the store LOADED (03 R76, R79, R86, R87). -/
def Obligations.WeightLoadFillsItsStore : Prop :=
  ∀ (n : Fin 16) (s : State),
    (∀ (e : TileEntry) (rest : List TileEntry), Heads s n e rest 2 →
      let x := e.word.toNat
      let cb := bytesOf (bits x 112 4) 128
      (wloadWait n s x = true → exec (.wload n) s = .next s) ∧
      (wloadWait n s x = false → wloadChk n s x = none → Gives (.wload n) s fun t =>
        t.reach[n].tq = rest ∧ t.reach[n].u = s.reach[n].u ∧ t.reach[n].bank = s.reach[n].bank ∧ OthersKept s t (.reach n) ∧
          DeviceKept s t ∧ MemoryKept s t ∧ (t.reach[n].fill.map fun k => k.val) = some (bits x 91 1) ∧
          ∃ w, t.reach[n].ws.toList[bits x 91 1]? = some w ∧ w.filling = true ∧ w.fmt = bits x 112 4 ∧ w.ncol = bits x 80 8 + 1 ∧
            ∀ j l, ((s.reach[n].lanes.take (bits x 80 8 + 1))[j]?) = some l → ∀ i < cb,
              slook 0 w.cols (256 * l + i) = s.byte (storeBase n + bits x 42 22 + j * cb + i))) ∧
    (s.reach[n].fill = none → exec (.wloadComplete n) s = .next s) ∧
    (∀ k, s.reach[n].fill = some k → exec (.wloadComplete n) s = .next (s.modReach n fun x =>
      { x with fill := none, ws := x.ws.set k { x.ws[k] with filling := false, state := .loaded } }))

/-- OPEN opens the group that its word describes and clears its slots in every lane (04 R116, R117), touching no other slot; it waits
for updates owed to them (03 R98). -/
def Obligations.OpenClearsItsSlots : Prop :=
  ∀ (n : Fin 16) (s : State) (e : TileEntry) (rest : List TileEntry), Heads s n e rest 4 →
    let x := e.word.toNat
    let g := openOf x
    (s.reach[n].owesCells g.cells.1 g.cells.2 = true → exec (.openGrp n) s = .next s) ∧
    (s.reach[n].owesCells g.cells.1 g.cells.2 = false → openChk n s x = none → Gives (.openGrp n) s fun t =>
      t.reach[n].tq = rest ∧ t.reach[n].u = s.reach[n].u ∧ OthersKept s t (.reach n) ∧ DeviceKept s t ∧ MemoryKept s t ∧
        t.reach[n].grps.toList[bits x 88 3]? = some g ∧
        (∀ k, k ≠ bits x 88 3 → t.reach[n].grps.toList[k]? = s.reach[n].grps.toList[k]?) ∧
        (swf 0 s.reach[n].bank.words = true → ∀ lane w, lane < 256 → w < 512 →
          slook 0 t.reach[n].bank.words (512 * lane + w) =
            if g.cells.1 ≤ w / 2 ∧ w / 2 < g.cells.2 then 0 else slook 0 s.reach[n].bank.words (512 * lane + w)))

/-- CLOSE of a group without statistics writes one row per value slot: the slots' values rounded once into FMT_O and packed, and the
group is closed (04 R126 to R128; 02 R58); FWPW writes the records of the slots and closes the group only where its word says so (04 R132,
R134). Both wait for updates owed to the group (03 R98). -/
def Obligations.CloseAndFwpwWriteTheSlots : Prop :=
  ∀ (n : Fin 16) (s : State) (e : TileEntry) (rest : List TileEntry),
    let x := e.word.toNat
    let g := s.tileGrp n x
    let lanes := s.reach[n].lanes.take (bits x 80 8 + 1)
    let base := storeBase n
    (s.jobRun s.reach[n].u.job).armed = false →
    (∀ op i, (op = 5 ∧ i = Instr.closeGrp n) ∨ (op = 6 ∧ i = Instr.fwpw n) → Heads s n e rest op → outWait n s x = true →
      exec i s = .next s) ∧
    (Heads s n e rest 5 → outWait n s x = false → closeChk n s x = none → g.xs = false →
      bits x 122 2 = 0 → bitAt x 120 = false → bitAt x 119 = false → bitAt x 117 = false →
      let f := fmtOf g.fmtO
      let row (t : Nat) : List Byte := packCodes f.width (lanes.map fun l =>
        (roundTo f g.qo (bitAt x 121) (s.reach[n].bank.fwp g l t).val).pat)
      let at_ (t : Nat) : Nat := base + bits x 50 22 + t * (bits x 16 12 * 32)
      (1 < g.n → (row 0).length ≤ bits x 16 12 * 32) →
      Gives (.closeGrp n) s fun t =>
        t.reach[n].tq = rest ∧ t.reach[n].u = s.reach[n].u ∧ t.reach[n].bank = s.reach[n].bank ∧
          t.reach[n].grps.toList[bits x 88 3]? = some {} ∧ OthersKept s t (.reach n) ∧ DeviceKept s t ∧
          (∀ k < g.n, BytesAre t (at_ k) (row k)) ∧ BytesKept s t ((List.range g.n).map fun k => (at_ k, (row k).length))) ∧
    (Heads s n e rest 6 → outWait n s x = false → fwpwChk n s x = none → g.xs = false →
      let at_ (t j : Nat) : Nat := base + bits x 42 22 + (t * (bits x 80 8 + 1) + j) * 96
      Gives (.fwpw n) s fun t =>
        t.reach[n].tq = rest ∧ t.reach[n].u = s.reach[n].u ∧ t.reach[n].bank = s.reach[n].bank ∧
          t.reach[n].grps.toList[bits x 88 3]? = (if bitAt x 123 then some {} else s.reach[n].grps.toList[bits x 88 3]?) ∧
          OthersKept s t (.reach n) ∧ DeviceKept s t ∧
          (∀ k < g.n, ∀ j l, lanes[j]? = some l → BytesAre t (at_ k j) (s.reach[n].bank.fwp g l k).bytes) ∧
          BytesKept s t [(at_ 0 0, g.n * (bits x 80 8 + 1) * 96)])

/-- SLOT_UPDATE lands the updates of the oldest issue cycle (03 R97, 04 R121; 02 R56, R57): in a group that is open and below its
limit, the slot of each lane that has a finite term and holds no NaR becomes its sum with the term in the slot's fixed point, modulo its
width; the count of products grows by M. -/
def Obligations.SlotUpdateAccumulates : Prop :=
  ∀ (n : Fin 16) (s : State) (v : Upd) (cs : List (List Upd)), s.reach[n].pend = [v] :: cs → s.reach[n].u.wait = .none →
    (s.jobRun s.reach[n].u.job).armed = false →
    let g := s.reach[n].grps[v.grp]?.getD {}
    let old := s.reach[n].bank
    let c := old.cnt g.cls v.slot
    g.isOpen = true → v.kind = .exact → c.limit = false → c.acc + v.m < 2 ^ 30 → v.slot ≤ clsLast g.cls → g.cls ≤ 2 →
    (v.terms.map (·.lane)).Nodup →
    Gives (.slotUpdate n) s fun t =>
      t.reach[n].pend = cs ∧ t.reach[n].u = s.reach[n].u ∧ OthersKept s t (.reach n) ∧ DeviceKept s t ∧ MemoryKept s t ∧
        (t.reach[n].bank.cnt g.cls v.slot).acc = c.acc + v.m ∧
        ∀ l ∈ v.terms, l.lane < 256 → l.t.nan = false → old.image g.cls l.lane v.slot ≠ (clsOf g.cls).nar →
          (t.reach[n].bank.image g.cls l.lane v.slot : Int) =
            ((old.image g.cls l.lane v.slot : Int) + truncZ (l.t.v * pow2 (clsOf g.cls).frac)) % (2 ^ (clsOf g.cls).width : Nat)

/-! ### Parameter update -/

/-- LRATE on an NMU (09 R279 to R283, R289, R290). CHECK of a shard that passes gives the rate and marks the header BUSY for the job, of
any other it gives the status and raises the event; COMMIT sets STEP to E + 1, clears BUSY and BUSY_JOB and counts the shard; BIASC gives
the bias correction; REPORT raises UPD_ROW_NAR. -/
def Obligations.LrateOperations : Prop :=
  ∀ (d : Fin 4) (w : CtlWord) (s : State), let r : Res := .nmu d
    Ready s r {} → AllKeyed s → w.d.toNat < 32 → w.a.toNat < 32 → w.b.toNat < 32 → w.c.toNat < 32 → w.low.toNat < 4 →
    let u := s.nmu[d].u
    u.xp w.a = false → u.xp w.b = false →
    let a := (u.x w.a).toNat
    let h := readShard s a
    let src := sourceWord s.cpl.node 2 d
    let puts (t : State) (v : W64) (p : Bool) : Prop := t.unit r = advanced (u.setX w.d v p) ∧ OthersKept s t r ∧ DeviceKept s t
    (u.xp w.c = false → checkStatus s d a (u.x w.b) = none → schedChk s d (u.x w.c).toNat = none →
      Gives (.lrateCheck r w) s fun t =>
        puts t ((rateOf s (u.x w.c).toNat h.step).setWidth 64) (s.poisonedRange a 64 || s.poisonedRange (u.x w.c).toNat 64) ∧
          BytesAre t (a + 7) [1] ∧ BytesAre t (a + 56) (leBytes 2 u.job) ∧ BytesKept s t [(a + 7, 1), (a + 56, 2)]) ∧
    (u.xp w.c = false → ∀ status event, checkStatus s d a (u.x w.b) = some (status, event) →
      Gives (.lrateCheck r w) s fun t => puts t (BitVec.ofNat 64 (status * 2 ^ 56)) (inWindow s d a 64 && s.poisonedRange a 64) ∧
        LastEvent t event ∧ (LlcRoom s → Raised s t event u.job src) ∧ MemoryKept s t) ∧
    (s.nmu[d].poisonW = false → a % 64 = 0 → inWindow s d a 64 = true → h.busy = true → h.busyJob = u.job → h.step = (u.x w.b).toNat →
      Gives (.lrateCommit r w) s fun t =>
        puts t 0 (s.poisonedRange a 64) ∧ BytesAre t (a + 8) (leBytes 4 ((u.x w.b).toNat + 1)) ∧
          BytesAre t (a + 7) (leBytes 1 (h.flags / 2 * 2)) ∧ BytesAre t (a + 56) [0, 0] ∧
          BytesKept s t [(a + 7, 5), (a + 56, 2)] ∧
          ∀ x, (s.jobRun u.job).step = some x → ((t.jobRun u.job).step.map StepRun.shards) = some (x.shards + 1)) ∧
    (s.nmu[d].poisonW = false → a % 64 = 0 → inWindow s d a 64 = true → ¬ (h.busy = true ∧ h.busyJob = u.job ∧ h.step = (u.x w.b).toNat) →
      Gives (.lrateCommit r w) s fun t => puts t 0x8400000000000000 false ∧ LastEvent t 0x011A ∧ (LlcRoom s → Raised s t 0x011A u.job src) ∧
        MemoryKept s t) ∧
    exec (.lrateBiasc r w) s = .next (s.modU r fun u =>
      advanced (u.setX w.d ((biasOf ((u.x w.c).setWidth 32) (u.x w.b).toNat).setWidth 64) (u.xp w.c))) ∧
    (Gives (.lrateReport r w) s fun t => puts t 0 false ∧ Raised s t 0x0119 u.job src ∧ MemoryKept s t)

/-- The FD1 engine (09 R292 to R297, R288 to R290): a shard of its list that is due is updated element by element by the job's rule, its
gradients become zero, STEP counts up to at most 65,535, and the engine goes to the next shard; no other byte changes. -/
def Obligations.Fd1UpdatesAShard : Prop :=
  ∀ (d : Fin 4) (i : W32) (s : State), AllKeyed s → (∀ line, s.poisoned line = false) →
    let u := s.nmu[d].u
    let a := s.readNat (argField s d 128 8 + 8 * i.toNat) 8
    let h := readShard s a
    let b := readFd1 s (argField s d 152 8)
    let e : Int := (((s.jobRun u.job).step.map StepRun.no).getD 0).toNat + b.off
    u.run = .fd1 → i.toNat = u.next → i.toNat < argField s d 136 4 → fd1Chk s d i.toNat = none → h.fd1Ok s d a = true →
    (∀ v ∈ h.tscale.map (decodePosit 16), v.isNan = false ∧ 0 < v.rat) → h.busy = false → (h.step : Int) = (if e < 65535 then e else 65535) →
    argField s d 144 8 = 0 →
    let base := a + h.off[0]?.getD 0
    let step := min (h.step + 1) 65535
    let elem (k : Nat) : Nat × Nat × Nat := fd1Elem b (decodePosit 16 b.lr) (biasC16 b.b1 step) (biasC16 b.b2 step)
      (h.tscale.map (decodePosit 16)) [s.readNat (base + 8 * k) 2, s.readNat (base + 8 * k + 2) 2, s.readNat (base + 8 * k + 4) 2,
        s.readNat (base + 8 * k + 6) 2]
    Gives (.fd1ShardUpdate d i) s fun t =>
      t.nmu[d].u.next = i.toNat + 1 ∧
        (∀ k < h.rowLen, BytesAre t (base + 8 * k)
          (leBytes 2 (elem k).1 ++ [0, 0] ++ leBytes 2 (elem k).2.1 ++ leBytes 2 (elem k).2.2)) ∧
        BytesAre t (a + 8) (leBytes 4 step) ∧ BytesAre t (a + 7) [0] ∧ BytesAre t (a + 56) [0, 0] ∧
        BytesKept s t [(a + 7, 5), (a + 56, 2), (base, 8 * h.rowLen)]

/-! ### Barges -/

/-- A barge within device memory whose checks pass moves its rows as its KIND says (11 R374 to R377; 04 R141): COPY row by row, LANEMAJOR
into columns padded with zeros, TRANSPOSE element (r, i) to (i, r), SPLIT into three pieces and the prescale, ZERO zeros. Nothing outside
the ranges of R374 is written, the barge stays in flight, and no reach's registers change. A barge that an earlier one holds back waits (01
R23; 11 R380). -/
def Obligations.BargesMoveTheirRows : Prop :=
  (∀ (n k t : Fin 16) (input : List Byte) (s : State),
    let g := s.reach[n].barges[t]
    let h := s.reach[n].barges[k]
    let d := BDesc.ofBytes g.desc
    let e := BDesc.ofBytes h.desc
    h.busy = true → h.moved = false → h.nth < g.nth →
    (∃ x ∈ s.srcStops e, x ∈ s.srcStops d) → (∃ x ∈ s.dstStops e, x ∈ s.dstStops d) →
    ∀ i ∈ [Instr.bargeCopy (.reach n t) input, .bargeLanemajor (.reach n t), .bargeTranspose (.reach n t), .bargeSplit (.reach n t)],
      exec i s = .next s) ∧
  ∀ (n t : Fin 16) (s : State), AllKeyed s →
    let b : BargeRef := .reach n t
    let g := s.reach[n].barges[t]
    let d := BDesc.ofBytes g.desc
    let w := d.width
    g.busy = true → g.moved = false → d.ssp = 0 → d.dsp = 0 → s.descBad b g d = false → s.badRange b g d = none →
    s.bargeBehind b g d = false → ApartFrom d.reads d.writes → Apart d.writes →
    let moves (i : Instr) (P : State → Prop) : Prop := Gives i s fun u =>
      BytesKept s u d.writes ∧ u.reach[n].barges[t].busy = true ∧ u.reach[n].barges[t].moved = true ∧ P u ∧
        (∀ k : Fin 16, u.reach[k].u = s.reach[k].u) ∧ u.nmu = s.nmu ∧ DeviceKept s u
    (d.kind = 1 → ∀ input, moves (.bargeCopy b input) fun u =>
      ∀ k < d.rows, BytesAre u (d.dst + k * d.dpitch) (s.read (d.src + k * d.spitch) d.rowBytes)) ∧
    (d.kind = 2 → moves (.bargeLanemajor b) fun u => ∀ j < d.elems, ∀ k < 128,
      u.rowCode w (d.dst + j * d.cbytes) k = if k < d.rows then s.rowCode w (d.src + k * d.spitch) j else 0) ∧
    (d.kind = 3 → moves (.bargeTranspose b) fun u => ∀ k < d.rows, ∀ i < d.elems,
      u.rowCode w (d.dst + i * d.dpitch) k = s.rowCode w (d.src + k * d.spitch) i) ∧
    (d.kind = 4 → moves (.bargeSplit b) fun u => ∀ k < d.rows,
      let x (i : Nat) : Val := decode .p32 0 (s.rowCode 32 (d.src + k * d.spitch) i)
      let sigma := splitSigma ((List.range (d.rowBytes / 4)).map x)
      BytesAre u (d.siga + k) [BitVec.ofInt 8 sigma] ∧
        ∀ i < d.rowBytes / 4, ∀ h m l, splitElem sigma (x i) = some (h, m, l) →
          u.rowCode 16 (d.dst + k * d.dpitch) i = h ∧ u.rowCode 16 (d.dst + d.pstride + k * d.dpitch) i = m ∧
            u.rowCode 16 (d.dst + 2 * d.pstride + k * d.dpitch) i = l) ∧
    (d.kind = 5 → moves (.bargeZero b) fun u => ∀ k < d.rows, BytesAre u (d.dst + k * d.dpitch) (List.replicate d.rowBytes 0))

/-- BARGE_COMPLETE (07 R233; 11 R378, R380): the digest of the source bytes is written where the descriptor asks for one, and the barge is
over, with its outcome under its tag. -/
def Obligations.BargeCompletes : Prop :=
  ∀ (n t : Fin 16) (s : State),
    let g := s.reach[n].barges[t]
    let d := BDesc.ofBytes g.desc
    g.busy = true → g.moved = true → (∀ x ∈ s.cpl.reads, x.dead = false → ¬(x.reach = n.val ∧ x.tag = t.val)) →
    s.reach[n].u.wait = .none → s.reach[n].lateClear = false → s.reach[n].waitBarges = false →
    Gives (.bargeComplete (.reach n t)) s fun u =>
      u.reach[n].barges[t].busy = false ∧ u.reach[n].barges[t].code = g.code ∧ u.reach[n].u = s.reach[n].u ∧
        (∀ k : Fin 16, k ≠ t → u.reach[n].barges[k] = s.reach[n].barges[k]) ∧ OthersKept s u (.reach n) ∧ DeviceKept s u ∧
        (d.dig = true → g.code = 0 → BytesAre u d.diga (leBytes 32 (sm3 g.got).toNat) ∧ BytesKept s u [(d.diga, 32)]) ∧
        (d.dig = false → MemoryKept s u)

/-! ### SFU banks -/

/-- RCH_n_SFU_RELOAD, the end of a load, and RCH_n_SFU_SWITCH (05 R167 to R170, R172, R173; 10 R624; 12 R415): a bank that is neither ACTIVE
nor PENDING starts to load; an image that passes its checks makes it READY, another EMPTY; the lockkeeper's own load follows one that was
not its own. A switch makes a READY bank PENDING while a schedule is in force, and else ACTIVE and the other READY. -/
def Obligations.SfuBankLifeCycle : Prop :=
  ∀ (n : Fin 16) (s : State),
    let x := s.reach[n]
    let only (i : Instr) (P : Reach → Prop) : Prop := Gives i s fun t =>
      P t.reach[n] ∧ t.reach[n].u = x.u ∧ t.reach[n].bank = x.bank ∧ OthersKept s t (.reach n) ∧ DeviceKept s t ∧ MemoryKept s t
    (∀ (p : Port) (v : W64) (k : Nat), k = (v.extractLsb' 0 1).toNat → OpenPort s p → s.holds p 3 = true → s.banksFrozen = false →
      x.loadingBank = none →
      ((x.bankAt k).state = .empty ∨ (x.bankAt k).state = .ready →
        only (.sfuReload p n v) fun y => y.bankAt k = { state := .loading, src := (v.extractLsb' 1 28).toNat * 4096 } ∧
          y.bankAt (1 - k) = x.bankAt (1 - k) ∧ y.active = x.active) ∧
      ((x.bankAt k).state = .active → Gives (.sfuReload p n v) s fun t =>
        t.reach = s.reach ∧ Raised s t 0x0105 0xFFFF (sourceWord s.cpl.node (match p with | .host => 3 | .mgmt _ => 4) 0))) ∧
    (∀ (k : Fin 2), (x.bankAt k).state = .loading → (x.bankAt (1 - k)).state ≠ .loading → AllKeyed s →
      let g := x.bankAt k
      let newDigests := ((manEntries (profSect (s.slotImg g.slot.toNat) 2)).filter fun e => e.kind == 3).map (·.digest)
      let tab := if g.own then profSect (s.slotImg g.slot.toNat) 4 else s.read g.src 4096
      let good : Prop := if g.own then imgOk newDigests tab = true
        else (s.inDram g.src 4096 = true ∨ s.inSpad g.src 4096 = true) ∧ s.poisonedRange g.src 4096 = false ∧
          imgOk s.prf.sfuDigests tab = true
      (s.prf.chg ≠ .loading →
        (good → only (.sfuLoadDone n) fun y => y.bankAt k = { state := .ready, image := tab } ∧ y.bankAt (1 - k) = x.bankAt (1 - k)) ∧
        (¬good → only (.sfuLoadDone n) fun y => y.bankAt k = {} ∧ y.bankAt (1 - k) = x.bankAt (1 - k)) ∧
        (¬good → Gives (.sfuLoadDone n) s fun t => Raised s t 0x0108 0xFFFF (srcOf s 1 n))) ∧
      (s.prf.chg = .loading →
        (¬(g.own = true ∧ g.slot = s.prf.target) → only (.sfuLoadDone n) fun y =>
          y.bankAt (1 - x.active) = { state := .loading, own := true, slot := s.prf.target }) ∧
        (g.own = true → g.slot = s.prf.target → good → Gives (.sfuLoadDone n) s fun t =>
          t.reach[n].bankAt k = { state := .ready, image := tab } ∧ t.prf.loads = setDel n s.prf.loads ∧ OthersKept s t (.reach n) ∧
            MemoryKept s t))) ∧
    (∀ (p : Port) (k : Fin 2), x.active = k → (x.bankAt k).state = .active → OpenPort s p → s.holds p 3 = true → s.banksFrozen = false →
      let kept (y : Reach) : Prop :=
        (y.bankAt (1 - k)).image = (x.bankAt (1 - k)).image ∧ (y.bankAt k).image = (x.bankAt k).image
      ((x.bankAt (1 - k)).state = .ready →
        (s.lkp.inForce = true → only (.sfuSwitch p n) fun y => y.active = k ∧ (y.bankAt (1 - k)).state = .pending ∧
          (y.bankAt k).state = .active ∧ y.swAt = s.time ∧ kept y) ∧
        (s.lkp.inForce = false → only (.sfuSwitch p n) fun y => y.active = 1 - k.val ∧ (y.bankAt (1 - k)).state = .active ∧
          (y.bankAt k).state = .ready ∧ kept y)) ∧
      ((x.bankAt (1 - k)).state = .empty ∨ (x.bankAt (1 - k)).state = .loading → Gives (.sfuSwitch p n) s fun t =>
        t.reach = s.reach ∧ Raised s t 0x0106 0xFFFF (srcOf s (kindOf p) 0)))

/-! ### Registers and semaphores -/

/-- SEM_n (13 R448, R449): a write acts as the one of TAKE, RELEASE and BREAK that it sets; one that sets none does nothing, and one
that sets more counts SEM_REFUSED. A FREE semaphore is taken and an own one released; another port's is broken once it has been
held for SEM_HOLD, with SEM_BROKEN; a release or an early break of another port's counts SEM_REFUSED; every other write does nothing. Link loss frees the host's, and the end
of the last session management's. -/
def Obligations.SemaphoresChangeHands : Prop :=
  ∀ (p : Port) (n : Fin 32) (s : State), s.portOn p = true → s.prf.ready = true →
    let me : BitVec 2 := match p with | .host => 1 | .mgmt _ => 2
    let o := s.sem[n].owner
    let becomes (w : BitVec 2) : Host.Outcome State Fault Refusal := .next { s with sem := s.sem.set n { owner := w, since := s.time } }
    let refused : Host.Outcome State Fault Refusal := .next { s with semRefused := stick32 s.semRefused 1 }
    let broken (t : State) (cause : Nat) : Prop := t.sem[n].owner = 0 ∧ ∃ e ∈ t.mgt.recs, e.event = 0x0908 ∧
      e.addr = BitVec.ofNat 64 n ∧ e.d0 = BitVec.ofNat 64 cause ∧ e.d1 = BitVec.ofNat 64 o.toNat ∧ e.d2 = BitVec.ofNat 64 (s.heldMs n)
    (∀ v : W64,
      let write (i : Host.Outcome State Fault Refusal) : Prop := exec (.registerWrite p (BitVec.ofNat 26 (0x10000 + 8 * n)) v) s = i
      match v.getLsbD 3, v.getLsbD 4, v.getLsbD 5 with
      | true, false, false => write (exec (.semTake p n) s)
      | false, true, false => write (exec (.semRelease p n) s)
      | false, false, true => write (exec (.semBreak p n) s)
      | false, false, false => write (.next s)
      | _, _, _ => write refused) ∧
    (s.dev.held = false → s.pci.up = true → o = 1 → Gives (.pciLinkDown 1) s fun t => broken t 1) ∧
    (∀ (k : Fin 4) (x : Session), s.mgt.sess[k] = some x → (∀ j : Fin 4, j ≠ k → s.mgt.sess[j] = none) → o = 2 →
      Gives (.empSessionExpire k) s fun t => broken t 2) ∧
    (o = 0 → exec (.semTake p n) s = becomes me ∧ exec (.semRelease p n) s = .next s ∧ exec (.semBreak p n) s = .next s) ∧
    (o = me → exec (.semTake p n) s = .next s ∧ exec (.semRelease p n) s = becomes 0 ∧ exec (.semBreak p n) s = .next s) ∧
    (o ≠ 0 → o ≠ me → exec (.semTake p n) s = .next s ∧ exec (.semRelease p n) s = refused ∧
      (s.heldMs n < s.prf.semHold → exec (.semBreak p n) s = refused) ∧
      (s.prf.semHold ≤ s.heldMs n → Gives (.semBreak p n) s fun t =>
        t.sem = s.sem.set n { owner := me, since := s.time } ∧ t.semBroken = stick32 s.semBroken 1 ∧ t.semRefused = s.semRefused ∧
          Raised s t 0x0908 0xFFFF (sourceWord s.cpl.node 0 0) ∧ UnitsKept s t ∧ MemoryKept s t ∧ t.prf = s.prf ∧ t.dev = s.dev))

/-- Commands that write a register are writes of it (00 R14), and a write of an RWL register by a port that does not hold its semaphore
only counts SEM_REFUSED (00 R11; 13 R449). -/
def Obligations.WritesOfRwlRegisters : Prop :=
  ∀ (p : Port) (s : State) (v : W64),
    (∀ (n : Fin 16) (e : BitVec 10) (cfg : Bool) (k : BitVec 2) (x : BitVec 12) (f : BitVec 3),
      exec (.sfuReload p n v) s = exec (.registerWrite p (BitVec.ofNat 26 (0x100208 + n * 0x10000)) v) s ∧
      exec (.egrRingConfig p e cfg v) s =
        exec (.registerWrite p (BitVec.ofNat 26 (0x44000 + e.toNat * 0x20 + if cfg then 8 else 0)) v) s ∧
      exec (.verify p k) s = exec (.registerWrite p 0x20008 (0x200 + k.setWidth 64 * 16)) s ∧
      exec (.polderDrain p k) s = exec (.registerWrite p 0x20008 (0x300 + k.setWidth 64)) s ∧
      exec (.b2WinWrite p x) s = exec (.registerWrite p 0x380008 (x.setWidth 64 <<< 28)) s ∧
      exec (.pwrFloorWrite p f) s = exec (.registerWrite p 0x580018 (f.setWidth 64)) s ∧
      exec (.rasRingConfig p cfg v) s = exec (.registerWrite p (if cfg then 0x500208 else 0x500200) v) s) ∧
    (OpenPort s p → ∀ off : Nat, ∀ k : Fin 32,
      (off, k.val) ∈ [(0x20008, 1), (0x20100, 2), (0x20108, 2), (0x20110, 2), (0x380008, 5), (0x380018, 5), (0x3C0008, 5), (0x3C0010, 5),
        (0x400008, 6), (0x480030, 7), (0x500200, 8), (0x500208, 8), (0x580018, 9)] ∨
        (k = 3 ∧ ∃ n < 16, off = 0x100208 + n * 0x10000 ∨ off = 0x100210 + n * 0x10000) ∨
        (k = 4 ∧ ∃ e < 1024, off = 0x44000 + e * 0x20 ∨ off = 0x44008 + e * 0x20) →
      s.sem[k].owner ≠ (match p with | .host => 1 | .mgmt _ => 2) →
      exec (.registerWrite p (BitVec.ofNat 26 off) v) s = .next { s with semRefused := stick32 s.semRefused 1 })

/-- A register write reaches nothing while the port is closed or, but for the flash registers in recovery, before the ready point, nor at
an offset that is not a multiple of 8, which PCI_BAD_ACCESS counts of the host, or names no register (00 R12; 12 R410; 13 R429, R432);
a _CLR register clears the counters whose bits are 1 and no other (19 R622;
02 R68; 03 R111; 04 R151; 05 R187; 06 R213; 07 R248; 09 R302; 10 R351; 11 R386; 13 R453, R454; 14 R498; 15 R534; 16 R567; 17 R596). A ring's
BASE that is not a multiple of 64 is taken as a reserved value (R12): that is the model's reading, log entry 3. -/
def Obligations.RegisterWritesAndClears : Prop :=
  ∀ (p : Port) (s : State) (v : W64),
    (∀ off, s.portOn p = false → exec (.registerWrite p off v) s = .next s) ∧
    (∀ off, s.prf.ready = false → s.prf.recovery = false → exec (.registerWrite p off v) s = .next s) ∧
    (∀ off, s.prf.ready = true → (off.toNat % 8 = 0 ∧ regDefined off.toNat = false) ∨ (off.toNat % 8 ≠ 0 ∧ p ≠ .host) →
      exec (.registerWrite p off v) s = .next s) ∧
    (∀ off, s.portOn .host = true → s.prf.ready = true → off.toNat % 8 ≠ 0 → exec (.registerWrite .host off v) s =
      .next { s with pci := { s.pci with badacc := stick32 s.pci.badacc 1 } }) ∧
    (∀ e : BitVec 10, OpenPort s p → v.toNat % 64 ≠ 0 →
      (s.holds p 4 = true → exec (.egrRingConfig p e false v) s = .next s) ∧ (s.holds p 8 = true → exec (.rasRingConfig p false v) s = .next s)) ∧
    (s.portOn p = true → s.prf.ready = true →
      let z (i : Nat) (c : W32) : W32 := if v.getLsbD i then 0 else c
      let zp (i : Nat) (c : Perf) : Perf := if v.getLsbD i then {} else c
      let clears (off : Nat) (t : State) : Prop := exec (.counterClear p (BitVec.ofNat 26 off) v) s = .next t
      (∀ n : Fin 16,
        let cnt (off : Nat) (f : ReachCnt → ReachCnt) : Prop :=
          clears (0x100000 + n * 0x10000 + off) (s.modReach n fun x => { x with cnt := f x.cnt })
        cnt 0x808 (fun c => { c with clamp := z 1 c.clamp, narint := z 0 c.narint }) ∧
        cnt 0x130 (fun c => { c with chkinv := z 2 c.chkinv, range := z 1 c.range, limit := z 0 c.limit }) ∧
        cnt 0x220 (fun c => { c with norm := z 0 c.norm }) ∧
        cnt 0x318 (fun c => { c with narrow := z 2 c.narrow, rerun := z 1 c.rerun, deny := z 0 c.deny }) ∧
        clears (0x100000 + n * 0x10000 + 0x060) (s.modReach n fun x => { x with perf := { x.perf with
          mac := zp 3 x.perf.mac, macRem := if v.getLsbD 3 then 0 else x.perf.macRem, sstall := zp 2 x.perf.sstall
          wstall := zp 1 x.perf.wstall, busy := zp 0 x.perf.busy } }) ∧
        clears (0x100000 + n * 0x10000 + 0x418) (s.modReach n fun x => { x with perf := { x.perf with
          dstall := zp 2 x.perf.dstall, sfuBusy := zp 1 x.perf.sfuBusy, veBusy := zp 0 x.perf.veBusy } })) ∧
      (∀ d : Fin 4,
        clears (0x200030 + d * 0x40000) (s.modMdie d fun m => { m with
          miss := zp 5 m.miss, hit := zp 4 m.hit, retry := z 3 m.retry, quarCnt := z 2 m.quarCnt, ce := z 1 m.ce, ue := z 0 m.ue }) ∧
        clears (0x300028 + d * 0x1000) (s.modNmu d fun x => { x with
          busy := zp 6 x.busy
          cnt := { skew := z 0 x.cnt.skew, limit := z 1 x.cnt.limit, torn := z 2 x.cnt.torn, rownar := z 3 x.cnt.rownar
                   clamp := z 4 x.cnt.clamp, narint := z 5 x.cnt.narint } })) ∧
      clears 0x40028 { s with lkp := { s.lkp with stale := z 2 s.lkp.stale, ovr := z 1 s.lkp.ovr, full := z 0 s.lkp.full } } ∧
      clears 0x400038 { s with cpl := { s.cpl with
        uncorr := Vector.ofFn fun (i : Fin 8) => z (8 + i) s.cpl.uncorr[i], retry := Vector.ofFn fun (i : Fin 8) => z (8 + i) s.cpl.retry[i]
        bad := Vector.ofFn fun (i : Fin 8) => z (8 + i) s.cpl.bad[i], lost := z 3 s.cpl.lost, refused := z 2 s.cpl.refused
        failover := z 1 s.cpl.failover, unsync := z 0 s.cpl.unsync } } ∧
      clears 0x480048 { s with sec := { s.sec with denied := z 1 s.sec.denied, rekey := z 0 s.sec.rekey } } ∧
      clears 0x500230 { s with ras := { s.ras with
        dupTiles := zp 8 s.ras.dupTiles, ringDrop := z 7 s.ras.ringDrop, refused := z 6 s.ras.refused, late := z 5 s.ras.late
        fail := z 4 s.ras.fail, replay := z 3 s.ras.replay, dupSkip := z 2 s.ras.dupSkip, transient := z 1 s.ras.transient
        mismatch := z 0 s.ras.mismatch } } ∧
      exec (.counterClear p 0x10110 v) s = .next { s with semRefused := z 1 s.semRefused, semBroken := z 0 s.semBroken } ∧
      exec (.counterClear p 0x380038 v) s = .next { s with pci := { s.pci with
        cplto := z 3 s.pci.cplto, linkdn := z 2 s.pci.linkdn, b2bad := z 1 s.pci.b2bad, badacc := z 0 s.pci.badacc } } ∧
      exec (.counterClear p 0x3C0028 v) s = .next { s with mgt := { s.mgt with
        authFail := z 1 s.mgt.authFail, recDrop := z 0 s.mgt.recDrop } } ∧
      exec (.counterClear p 0x580030 v) s = .next { s with pwr := { s.pwr with
        shedCnt := z 3 s.pwr.shedCnt, pmbErr := z 2 s.pwr.pmbErr, droopCnt := z 1 s.pwr.droopCnt, overCnt := z 0 s.pwr.overCnt } })

/-! ### Rings and contexts -/

/-- A write of an egress ring's BASE or CFG waits for the next lock point while a schedule is in force, and else takes effect at once, a
new base or size emptying the ring (10 R347, R624); HEAD is taken where TAIL − HEAD is at most the size, else EGR_HEAD_BAD names the
ring and the value (10 R348). -/
def Obligations.EgressRingRegisters : Prop :=
  ∀ (p : Port) (e : BitVec 10) (v : W64) (s : State), OpenPort s p →
    let g := s.egrRing e.toNat
    let unheld : Prop := ∀ q ∈ s.lkp.held, q.egr ≠ e.toNat
    let ring (i : Instr) (r : EgrRing) : Prop := Gives i s fun t => t.egrRing e.toNat = r ∧ (∀ k, k ≠ e.toNat → t.egrRing k = s.egrRing k) ∧
      t.lkp.held = s.lkp.held ∧ t.reach = s.reach ∧ t.nmu = s.nmu ∧ MemoryKept s t ∧ DeviceKept s t
    (s.holds p 4 = true → v.toNat % 64 = 0 → s.lkp.inForce = true → ring (.egrRingConfig p e false v) { g with newBase := some v }) ∧
    (s.holds p 4 = true → v.toNat % 64 = 0 → s.lkp.inForce = false → unheld → g.newCfg = none → ring (.egrRingConfig p e false v)
      { g with base := v, newBase := none, head := if v = g.base then g.head else 0, tail := if v = g.base then g.tail else 0 }) ∧
    (s.holds p 4 = true → 4 ≤ (v.extractLsb' 0 5).toNat → (v.extractLsb' 0 5).toNat ≤ 16 → s.lkp.inForce = true →
      ring (.egrRingConfig p e true v) { g with newCfg := some (v.getLsbD 16, v.extractLsb' 5 11, v.extractLsb' 0 5) }) ∧
    (s.holds p 4 = true → 4 ≤ (v.extractLsb' 0 5).toNat → (v.extractLsb' 0 5).toNat ≤ 16 → s.lkp.inForce = false → unheld → g.newBase = none →
      let same := v.extractLsb' 0 5 = g.size
      ring (.egrRingConfig p e true v) { g with
        enable := v.getLsbD 16, vector := v.extractLsb' 5 11, size := v.extractLsb' 0 5, newCfg := none
        head := if same then g.head else 0, tail := if same then g.tail else 0 }) ∧
    (∀ h : W32, (g.tail - h).toNat ≤ 2 ^ g.size.toNat → unheld → ring (.egrHeadWrite p e h) { g with head := h }) ∧
    (∀ h : W32, (g.tail - h).toNat ≤ 2 ^ g.size.toNat → Gives (.egrHeadWrite p e h) s fun t => (t.egrRing e.toNat).head = h ∧
      t.mgt = s.mgt ∧ t.ras = s.ras ∧ t.reach = s.reach ∧ t.nmu = s.nmu) ∧
    (∀ h : W32, 2 ^ g.size.toNat < (g.tail - h).toNat → exec (.egrHeadWrite p e h) s =
      .next (s.raise { code := 0x0413, kind := 6, addr := e.toNat, d0 := h.toNat }))

/-- The host's error ring (16 R560, R565, R566; 10 R624): BASE and CFG wait for a lock point while a schedule is in force, and else take effect
at once, a new base or size emptying the ring; ERROR_RING_WRITE writes the oldest record at BASE + 64 · (TAIL mod size) and moves TAIL, and
drops it with a count where the ring is full; a HEAD that would leave more than the ring holds is RAS_HEAD_BAD. -/
def Obligations.ErrorRing : Prop :=
  ∀ (p : Port) (v : W64) (s : State),
    (OpenPort s p → s.holds p 8 = true → s.lkp.inForce = true →
      (v.toNat % 64 = 0 → exec (.rasRingConfig p false v) s = .next { s with ras := { s.ras with newBase := some v } }) ∧
      (4 ≤ (v.extractLsb' 0 5).toNat → (v.extractLsb' 0 5).toNat ≤ 16 → exec (.rasRingConfig p true v) s = .next { s with
        ras := { s.ras with newCfg := some (v.getLsbD 16, v.extractLsb' 5 11, v.extractLsb' 0 5) } })) ∧
    (OpenPort s p → s.holds p 8 = true → s.lkp.inForce = false → s.ras.newBase = none → s.ras.newCfg = none →
      (v.toNat % 64 = 0 → exec (.rasRingConfig p false v) s = .next { s with ras := { s.ras with
        ringBase := v, ringHead := if v = s.ras.ringBase then s.ras.ringHead else 0
        ringTail := if v = s.ras.ringBase then s.ras.ringTail else 0 } }) ∧
      (4 ≤ (v.extractLsb' 0 5).toNat → (v.extractLsb' 0 5).toNat ≤ 16 → exec (.rasRingConfig p true v) s = .next { s with
        ras := { s.ras with
          ringEn := v.getLsbD 16, ringVec := v.extractLsb' 5 11, ringSize := v.extractLsb' 0 5
          ringHead := if v.extractLsb' 0 5 = s.ras.ringSize then s.ras.ringHead else 0
          ringTail := if v.extractLsb' 0 5 = s.ras.ringSize then s.ras.ringTail else 0 } })) ∧
    (OpenPort s p → ∀ h : W32,
      ((s.ras.ringTail - h).toNat ≤ 2 ^ s.ras.ringSize.toNat →
        exec (.rasRingHeadWrite p h) s = .next { s with ras := { s.ras with ringHead := h } }) ∧
      (2 ^ s.ras.ringSize.toNat < (s.ras.ringTail - h).toNat →
        exec (.rasRingHeadWrite p h) s = .next (s.raise { code := 0x080E, d0 := h.toNat }))) ∧
    (∀ e es, s.ras.errQ = e :: es → s.ras.ringEn = true → s.pci.up = true →
      let size := 2 ^ s.ras.ringSize.toNat
      ((s.ras.ringTail - s.ras.ringHead).toNat < size → Gives .errorRingWrite s fun t =>
        (∃ l, t.out = s.out ++ .hostWrite (s.ras.ringBase.toNat + 64 * (s.ras.ringTail.toNat % size)) e.bytes :: l ∧
          (s.lkp.inForce = true → l = [])) ∧
          t.ras = { s.ras with errQ := es, ringTail := s.ras.ringTail + 1 } ∧ t.reach = s.reach ∧ MemoryKept s t) ∧
      ((s.ras.ringTail - s.ras.ringHead).toNat = size → exec .errorRingWrite s =
        .next { s with ras := { s.ras with errQ := es, ringDrop := stick32 s.ras.ringDrop 1 } }))

/-- A context command joins the queue of 64 with its block as it stands, or is refused with CTX_CMD_BAD or CTX_CMD_BUSY (10 R324, R325);
its effect, in order, opens a FREE context with a new generation or closes a LIVE one, and RESULT of the block says so. With no schedule
in force it takes effect at once (R624). -/
def Obligations.ContextCommands : Prop :=
  ∀ (s : State),
    (∀ (p : Port) (b : BitVec 33) (i : Instr) (op : Nat), OpenPort s p → (i = .create p b ∧ op = 1) ∨ (i = .destroy p b ∧ op = 2) →
      let blk := b.toNat * 128
      let src := sourceWord s.cpl.node (match p with | .host => 3 | .mgmt _ => 4) 0
      (s.openMem blk 128 = true → s.ctx.queue.length < 64 → s.lkp.inForce = true → exec i s = .next { s with
        ctx := { s.ctx with queue := s.ctx.queue ++ [{ op := op, blk := blk, data := s.read blk 128 }] } }) ∧
      (s.openMem blk 128 = true → s.ctx.queue.length < 64 → s.lkp.inForce = false → Gives i s fun t =>
        (s.dev.shed.toNat < 6 → t.ctx.queue = []) ∧ t.reach = s.reach ∧ t.nmu = s.nmu ∧ t.lkp = s.lkp) ∧
      (s.openMem blk 128 = true → 64 ≤ s.ctx.queue.length → Gives i s fun t => t.ctx = s.ctx ∧ Raised s t 0x0412 0xFFFF src) ∧
      (s.openMem blk 128 = false → Gives i s fun t => t.ctx = s.ctx ∧ Raised s t 0x0414 0xFFFF src)) ∧
    (∀ q qs, s.ctx.queue = q :: qs → s.dev.shed.toNat < 6 → s.lkp.inForce = false → Gives .ctxCmdEffect s fun t =>
      t.ctx.queue = qs ∧ t.reach = s.reach ∧ t.nmu = s.nmu ∧ t.lkp = s.lkp) ∧
    (∀ q qs, s.ctx.queue = q :: qs → s.dev.shed.toNat < 6 → s.lkp.inForce = true → ctxBlkBad q.data = false →
      let c := leNat (q.data.take 4) % 2 ^ 20
      let x := s.ctxOf c
      let gs := ctxBlkRegions q.data
      let effect (y : Ctx) (P : State → Prop) : Prop := Gives .ctxCmdEffect s fun t =>
        t.ctx.queue = qs ∧ t.ctxOf c = y ∧ (∀ k, k ≠ c → t.ctxOf k = s.ctxOf k) ∧ t.reach = s.reach ∧ t.lkp = s.lkp ∧ P t
      let result (t : State) (status : Nat) (gen : W32) : Prop :=
        BytesAre t (q.blk + 120) (leBytes 8 (2 ^ 63 + status * 2 ^ 56 + gen.toNat))
      (c ≤ s.ctx.npctx → effect x fun t => result t 2 x.gen) ∧
      (s.ctx.npctx < c → q.op = 2 → x.state = .live → effect { x with state := .closing, blk := some q.blk } fun t => MemoryKept s t) ∧
      (s.ctx.npctx < c → q.op = 2 → x.state ≠ .live → effect x fun t => result t 1 x.gen) ∧
      (s.ctx.npctx < c → q.op = 1 → x.state ≠ .free → effect x fun t => result t 1 x.gen) ∧
      (s.ctx.npctx < c → q.op = 1 → x.state = .free → s.ctx.ctxs.countP (fun p => p.2.state == .live) + 1 ≤ s.ctx.ctxMax →
        (∀ g ∈ gs, g.within s.ctx.sess = true) →
        (∀ k y, (k, y) ∈ s.ctx.ctxs → k ≠ c → y.state ≠ .free → ∀ h ∈ y.regions, h.wr = true → ∀ g ∈ gs,
          h.base + h.size ≤ g.base ∨ g.base + g.size ≤ h.base) →
        effect { x with state := .live, gen := x.gen + 1, regions := gs, blk := none } fun t => result t 0 (x.gen + 1)))

/-! ### Lock points and jobs -/

/-- LOCK_POINT takes TIME to the next lock point (10 R305, R306), where every pending configuration of a ring takes effect (10 R347;
16 R565) and, below S6, every queued context command (R325); with none to come it does nothing. TIM_WRAP leaves TIME at zero (19 R623).
LKP_ABORT (10 R332 to R334) ends the job's step of that number, or acknowledges that it has committed; LKP_NARTRAP_CTL (08 R268) asks for the
trap to be armed, or the job to go on, at the next lock point, or at once with no schedule in force (10 R624). A job that is not in the table
is left alone; LKP_ABORT_LAST says that it has no such step, which is the model's choice, log entry 128. -/
def Obligations.LockPointsAndJobControl : Prop :=
  (∀ s : State,
    (s.lockAt = none → exec .lockPoint s = .next s) ∧
    (∀ l, s.lkp.inForce = true → s.lockAt = some l → l < 2 ^ 64 → Gives .lockPoint s fun t =>
      t.time = BitVec.ofNat 64 l ∧ t.ras.newBase = none ∧ t.ras.newCfg = none ∧
        (∀ e, (t.egrRing e).newBase = none ∧ (t.egrRing e).newCfg = none) ∧ (s.dev.shed.toNat < 6 → t.ctx.queue = [])) ∧
    (Gives .timWrap s fun t => t.time = 0)) ∧
  ∀ (p : Port) (job : W16) (no : BitVec 48) (s : State), OpenPort s p →
    let j := job.toNat
    let y := s.jobRun j
    let answered (t : State) (status : Nat) : Prop := t.lkp.abortJob = job ∧ t.lkp.abortStatus = BitVec.ofNat 8 status ∧
      t.lkp.abortPort = (match p with | .host => 1 | .mgmt _ => 2) ∧ t.lkp.abortStep = no.setWidth 32
    (s.job? j = none → exec (.lkpAbort p job no) s = .next { s with lkp := { s.lkp with
        abortJob := job, abortStatus := 5, abortPort := (match p with | .host => 1 | .mgmt _ => 2), abortStep := no.setWidth 32 } } ∧
      exec (.nartrapRearm p job) s = .next s ∧
      exec (.nartrapResume p job) s = .next s) ∧
    (∀ e, s.job? j = some e →
      (∀ x, y.step = some x → x.no.toNat % 2 ^ 48 = no.toNat → x.stop = .none → Gives (.lkpAbort p job no) s fun t =>
        answered t 1 ∧ StepStops s t j .aborted ∧ t.time = s.time) ∧
      (y.step = none → no.toNat < y.nextStep.toNat → (∀ f ∈ y.failed, f.toNat % 2 ^ 48 ≠ no.toNat) →
        Gives (.lkpAbort p job no) s fun t => answered t 4 ∧ t.jobRun j = y ∧ MemoryKept s t ∧ t.reach = s.reach) ∧
      (y.step = none → y.nextStep.toNat ≤ no.toNat → Gives (.lkpAbort p job no) s fun t => answered t 5 ∧ t.jobRun j = y) ∧
      (s.lkp.inForce = true →
        exec (.nartrapRearm p job) s = .next (s.modJob j fun y => { y with rearm := true }) ∧
        exec (.nartrapResume p job) s = .next (s.modJob j fun y => { y with resume := true })) ∧
      (s.lkp.inForce = false →
        (Gives (.nartrapRearm p job) s fun t => (t.jobRun j).armed = (y.armed || e.ntrap) ∧ t.reach = s.reach ∧ t.nmu = s.nmu ∧
          MemoryKept s t) ∧
        (Gives (.nartrapResume p job) s fun t => (t.jobRun j).held = false ∧ t.reach = s.reach ∧ t.nmu = s.nmu ∧ MemoryKept s t)))

/-! ### Profiles -/

/-- PRF_CMD (12 R413, R414, R423, R424, R427): while a change is in progress a command is refused with CHG_BUSY; one for an invalid slot,
a held polder or a polder that is not held with PRF_CMD_BAD, and ACTIVATE too of a profile with the worker role or in a device with a node
number; ACTIVATE of a profile whose start-only fields differ, whose drain fields differ without DRAIN_OK, or whose jobs or rings clash, with
its own event; any other is begun, as an initial activation, a full drain or a staged change, or for the active profile as an admission
alone, and the result registers say by whom. With no schedule in force (10 R624) a polder that is drained is held at once. -/
def Obligations.ProfileCommands : Prop :=
  ∀ (p : Port) (slot k : BitVec 2) (ok : Bool) (b : StartIn) (s : State), OpenPort s p → s.holds p 1 = true →
    let valid := ((s.prf.slots[slot.toNat]?).map PSlot.valid).getD false
    let img := s.slotImg slot.toNat
    let cur := s.slotImg s.activeSlot
    let named (t : State) (op : Nat) : Prop := t.prf.resOp = BitVec.ofNat 4 op ∧
      t.prf.resPort = (match p with | .host => 1 | .mgmt _ => 2) ∧ UnitsKept s t ∧ MemoryKept s t
    let refused (i : Instr) (op code : Nat) : Prop := Gives i s fun t => named t op ∧ t.prf.chg = s.prf.chg ∧ t.prf.resState = 3 ∧
      t.prf.resCode = BitVec.ofNat 16 code ∧ t.prf.resCount = s.prf.resCount ∧ Raised s t code 0xFFFF (srcOf s (kindOf p) 0)
    let taken (i : Instr) (op : Nat) (P : State → Prop) : Prop := Gives i s fun t => named t op ∧ t.prf.resCode = 0 ∧
      t.prf.resCount = s.prf.resCount + 1 ∧ P t
    let begun (i : Instr) (op : Nat) (chg : Chg) : Prop := taken i op fun t => t.prf.chg = chg ∧ t.prf.resState = 1
    let starts (initial full recheck : Bool) : Prop := taken (.activate p slot ok) 1 fun t => t.prf.chg = .verifying false ∧
      t.prf.resState = 1 ∧ t.prf.initial = initial ∧ t.prf.full = full ∧ t.prf.recheck = recheck ∧ t.prf.work = slot ∧
        t.prf.target = if recheck then s.prf.target else slot
    let cmds : List (Instr × Nat) :=
      [(.activate p slot ok, 1), (.verify p slot, 2), (.polderDrain p k, 3), (.polderResume p k, 4), (.restart p b, 5)]
    (s.prf.chg ≠ .none → ∀ c ∈ cmds, refused c.1 c.2 0x0A03) ∧
    (s.prf.chg = .none →
      (valid = false → refused (.activate p slot ok) 1 0x0A0E ∧ refused (.verify p slot) 2 0x0A0E) ∧
      (valid = true → begun (.verify p slot) 2 (.verifying true)) ∧
      (valid = true → slot.toNat = s.activeSlot → s.lkp.inForce = true → starts false false true) ∧
      (valid = true → slot.toNat ≠ s.activeSlot ∨ s.lkp.inForce = false →
        (s.cpl.node ≠ 0x7FFF ∨ (profHdr img).role = 1 → refused (.activate p slot ok) 1 0x0A0E) ∧
        (s.cpl.node = 0x7FFF → (profHdr img).role ≠ 1 →
          (s.startDiffers (profHdr img) = true → refused (.activate p slot ok) 1 0x0A04) ∧
          (s.startDiffers (profHdr img) = false →
            (s.lkp.inForce = false → starts true false false) ∧
            (s.lkp.inForce = true → drainDiffers cur img = true →
              (ok = false → refused (.activate p slot ok) 1 0x0A05) ∧ (ok = true → starts false true false)) ∧
            (s.lkp.inForce = true → drainDiffers cur img = false →
              (clash (profSect cur 1) (profSect img 1) ≠ none → refused (.activate p slot ok) 1 0x0A06) ∧
              (clash (profSect cur 1) (profSect img 1) = none → starts false false false))))) ∧
      (s.prf.held.getLsbD k.toNat = false → s.lkp.inForce = true → begun (.polderDrain p k) 3 (.draining k.toNat false)) ∧
      (s.prf.held.getLsbD k.toNat = false → s.lkp.inForce = false →
        (s.polderDrained k.toNat = true → taken (.polderDrain p k) 3 fun t =>
          t.prf.chg = .none ∧ t.prf.resState = 2 ∧ t.prf.held.getLsbD k.toNat = true) ∧
        (s.polderDrained k.toNat = false → begun (.polderDrain p k) 3 (.draining k.toNat true))) ∧
      (s.prf.held.getLsbD k.toNat = true → refused (.polderDrain p k) 3 0x0A0E) ∧
      (s.prf.held.getLsbD k.toNat = true → begun (.polderResume p k) 4 (.resuming k.toNat)) ∧
      (s.prf.held.getLsbD k.toNat = false → refused (.polderResume p k) 4 0x0A0E))

/-- Verification marks the weight images whose digests match, and then VERIFY is done or admission follows; a mismatch ends the command
(12 R406, R407). Admission, of the whole profile or of the combined table of each stage (10 R335, R336, R343; 12 R414), leaves its outcome in
LKP_ADM_RESULT: a refusal ends the command; the active table admitted again is done; an initial activation of the profile that is loaded
awaits the first cycle start; any other has every reach load the new SFU table (12 R415). -/
def Obligations.VerificationAndAdmission : Prop :=
  ∀ s : State,
    let c := s.cand s.prf.work.toNat
    let todo : List (ManE × Nat) := c.man.zipIdx.filter fun q => q.1.kind == 4 && !s.prf.verified.contains (s.prf.work.toNat, q.2)
    (∀ only, s.prf.chg = .verifying only → AllKeyed s →
      ((∀ q ∈ todo, (s.manBytes c.img q.1).map sm3 = some q.1.digest) → Gives .weightVerifyDone s fun t =>
        (∀ q ∈ c.man.zipIdx, q.1.kind = 4 → (s.prf.work.toNat, q.2) ∈ t.prf.verified) ∧ UnitsKept s t ∧ MemoryKept s t ∧
          t.prf.chg = (if only then .none else .admitting) ∧ (only = true → s.prf.op ≠ 0 → s.prf.resMine = true →
            t.prf.resState = 2 ∧ t.prf.resCode = 0)) ∧
      ((∃ q ∈ todo, (s.manBytes c.img q.1).map sm3 ≠ some q.1.digest) → Gives .weightVerifyDone s fun t =>
        t.prf.chg = .none ∧ LastEvent t 0x0A09 ∧ (s.prf.op ≠ 0 → s.prf.resMine = true → t.prf.resState = 3 ∧ t.prf.resCode = 0x0A09) ∧
          UnitsKept s t ∧ MemoryKept s t)) ∧
    (s.prf.chg = .admitting →
      let staged := !s.prf.initial && !s.prf.full && !s.prf.recheck
      let found := if staged then s.admitStaged c else s.admitWhole c
      (∀ r, found = some r → Gives .admission s fun t =>
        t.prf.chg = .none ∧ t.lkp.admCode = BitVec.ofNat 16 r.code ∧ t.lkp.admJob = BitVec.ofNat 16 r.job ∧
          t.lkp.admSlot = BitVec.ofNat 13 r.slot ∧ t.lkp.admRuns = s.lkp.admRuns + 1 ∧ LastEvent t r.code ∧
          (s.prf.op ≠ 0 → s.prf.resMine = true → t.prf.resState = 3 ∧ t.prf.resCode = BitVec.ofNat 16 r.code) ∧
          t.reach = s.reach ∧ MemoryKept s t) ∧
      (found = none → Gives .admission s fun t => t.lkp.admCode = 0 ∧ t.lkp.admRuns = s.lkp.admRuns + 1 ∧ MemoryKept s t ∧
        (s.prf.recheck = true → t.prf.chg = .none ∧ t.reach = s.reach) ∧
        (s.prf.recheck = false → s.prf.initial = true → s.prf.work = s.dev.profile → t.prf.chg = .entering ∧ t.reach = s.reach) ∧
        (s.prf.recheck = false → s.prf.initial = false ∨ s.prf.work ≠ s.dev.profile →
          t.prf.chg = .loading ∧ t.prf.loads = List.range 16 ∧ ∀ n : Fin 16, t.reach[n].u = s.reach[n].u ∧
            (s.reach[n].loadingBank = none → t.reach[n].bankAt (1 - s.reach[n].active) =
              { state := .loading, own := true, slot := s.prf.target }))))

/-- Changes under way (12 R415, R418, R419, R421): a polder or the drained device passes at a lock point, and those commands answer that
lock point, or with no schedule in force (10 R624) hold the drained polder at once; where DRAIN_MS has passed first, the steps in the way end
as aborts do, with CHG_DRAIN_ABORT; a resumed polder takes the lanes that its tests found failing into the bypass, which clears the weight
stores of their reach (03 R79, R102), and returns or stays held. -/
def Obligations.ChangesUnderWay : Prop :=
  ∀ s : State,
    (∀ k b l, s.prf.chg = .draining k b ∨ s.prf.chg = .staging k b → s.lockAt = some l → l < 2 ^ 64 →
      let n := s.lockPointAt l
      (n.prf.switched.getLsbD k ≠ s.prf.switched.getLsbD k ∨ n.prf.held ≠ s.prf.held → exec .polderDrained s = .next n) ∧
      (n.prf.switched = s.prf.switched → n.prf.held = s.prf.held → n.dev.profile = s.dev.profile →
        exec .polderDrained s = .next s)) ∧
    (∀ k b, s.prf.chg = .draining k b → s.lockAt = none →
      (s.polderDrained k = false → exec .polderDrained s = .next s) ∧
      (s.polderDrained k = true → k < 4 → Gives .polderDrained s fun t =>
        t.prf.chg = .none ∧ t.prf.held.getLsbD k = true ∧ UnitsKept s t ∧ MemoryKept s t)) ∧
    (∀ l, s.prf.chg = .fullDrain → s.lockAt = some l → l < 2 ^ 64 →
      let n := s.lockPointAt l
      exec .fullDrainSwitch s = .next (if n.prf.chg = .fullDrain then s else n)) ∧
    (∀ k, s.prf.chg = .draining k true ∨ s.prf.chg = .staging k true → s.polderDrained k = false → Gives .chgDrainAbort s fun t =>
      t.prf.chg = s.prf.chg ∧ LastEvent t 0x0A07 ∧ t.time = s.time ∧
        ∀ j, s.onPolder k j = true → StepStops s t j .aborted) ∧
    (s.prf.chg = .fullDrain → s.allDrained = false → Gives .chgDrainAbort s fun t =>
      t.prf.chg = .fullDrain ∧ t.prf.limit = true ∧ LastEvent t 0x0A07 ∧ t.time = s.time ∧ ∀ j, StepStops s t j .aborted) ∧
    (∀ k lanes ok, s.prf.chg = .resuming k → Gives (.polderResumeDone lanes ok) s fun t =>
      (t.prf.chg = .none ∨ t.prf.chg = .returning k) ∧ t.lkp.admRuns = s.lkp.admRuns + 1 ∧
        (∀ n : Fin 16, n.val / 4 = k → t.reach[n].bypass = s.reach[n].bypass ||| lanes[n.val % 4] ∧
          t.dev.reachOk.getLsbD n = ok.getLsbD (n.val % 4) ∧
          (lanes[n.val % 4] &&& ~~~s.reach[n].bypass ≠ 0 → s.reach[n].dups = [] →
            t.reach[n].ws = Vector.replicate 2 {} ∧ t.reach[n].fill = none)) ∧
        (∀ n : Fin 16, n.val / 4 ≠ k → t.reach[n].bypass = s.reach[n].bypass) ∧ t.nmu = s.nmu)

/-! ### Starts, resets and the flash -/

/-- Warm resets, a cold start and the watchdog make a start (12 R409 to R412; 18 R599), a RESTART while no change is in progress (12 R427). Reset, the loss of power and the stop at S7 keep the
flash alone (17 R582, R583; 18 R601). -/
def Obligations.StartsAndResets : Prop :=
  ∀ (b : StartIn) (s : State),
    (∀ p, OpenPort s p → s.holds p 1 = true → s.prf.chg = .none → Gives (.restart p b) s fun t => Started s t b) ∧
    (s.dev.rstLow = true → Gives (.coldStart b none) s fun t => Started s t b) ∧
    (s.dev.rstLow = false → exec (.coldStart b none) s = .next s) ∧
    (s.dev.held = false → s.prf.recovery = false → Gives (.watchdogFire b) s fun t => Started s t b) ∧
    (∀ i ∈ [Instr.sysRstNLow, .powerLoss], Gives i s fun t => t.dev = {} ∧ t.prf = { ({} : Prf) with flash := s.prf.flash } ∧
      t.reach = State.reset.reach ∧ t.mem = [] ∧ t.mgt = {} ∧ t.sem = State.reset.sem ∧ t.pending = s.pending) ∧
    (s.dev.shed = 7 → s.dev.held = false → Gives .s7Stop s fun t => t.dev = { ({} : Dev) with rstLow := false } ∧ t.mem = [] ∧
      t.prf = { ({} : Prf) with flash := s.prf.flash } ∧ t.reach = State.reset.reach) ∧
    (s.dev.shed ≠ 7 → exec .s7Stop s = .next s) ∧
    (Gives .sysRstNLow s fun t => t.tap = s.tap ∧ t.out = s.out ++ [.pin 0 false, .pin 1 false])

/-- A flash command that keeps R399 and R426 is begun and any other is FLASH_DENIED; at its end a READ has brought its pages to
memory, an ERASE has set its bytes to 0xFF and a PROGRAM has brought its buffer to the flash, and nothing else of either has changed; a
failed one says how many pages it did (12 R426, R427). FAULT_LOG_APPEND puts the oldest owed record at the first erased place (R397). -/
def Obligations.FlashOperations : Prop :=
  ∀ (p : Port) (pages : BitVec 25) (s : State), AllKeyed s → swf 0xFF s.prf.flash = true →
    let cmd (i : Instr) (op : Nat) : Prop :=
      (s.flashOk op pages.toNat = true → exec i s = .next { s with prf := { s.prf with
        flashCmd := BitVec.ofNat 64 (op * 2 ^ 30 + pages.toNat), flashDone := 0
        flashOp := some { op, addr := s.prf.flashAddr.toNat, dev := s.prf.flashDev.toNat, pages := pages.toNat, port := p } } }) ∧
      (s.flashOk op pages.toNat = false → Gives i s fun t => t.prf = s.prf ∧ Raised s t 0x0A0A 0xFFFF (srcOf s (kindOf p) 0))
    (OpenPort s p → s.holds p 2 = true → cmd (.flashRead p pages) 1 ∧ cmd (.flashErase p pages) 2 ∧ cmd (.flashProgram p pages) 3) ∧
    (∀ (q : FlashOp) (ok : Bool) (done : BitVec 25), s.prf.flashOp = some q →
      let k := if ok then q.pages else min done.toNat (q.pages - 1)
      let flash (t : State) (a : Nat) : Byte := slook 0xFF t.prf.flash a
      Gives (.flashOpDone ok done) s fun t =>
        t.prf.flashOp = none ∧ t.prf.flashDone = BitVec.ofNat 32 k ∧ t.prf.flashErr = !ok ∧ t.reach = s.reach ∧ DeviceKept { s with prf := t.prf } t ∧
        (q.op = 1 → BytesAre t q.dev (s.flashRead q.addr (256 * k)) ∧ BytesKept s t [(q.dev, 256 * k)] ∧ t.prf.flash = s.prf.flash) ∧
        (q.op = 2 → (∀ a, flash t a = if q.addr ≤ a ∧ a < q.addr + 256 * k then 0xFF else flash s a) ∧ MemoryKept s t) ∧
        (q.op = 3 → (∀ a, flash t a = if q.addr ≤ a ∧ a < q.addr + 256 * k then s.byte (q.dev + (a - q.addr)) else flash s a) ∧
          MemoryKept s t) ∧
        (ok = false → t.prf.flashCode = 0x0A0B ∧ Raised s t 0x0A0B 0xFFFF (srcOf s (kindOf q.port) 0))) ∧
    (∀ r rs, s.prf.flogOwed = r :: rs → s.prf.flogPos + 4096 ≤ 131072 → r.2.length = 51 → Gives .faultLogAppend s fun t =>
      let a := 0x8000000 + s.prf.flogHalf * 0x800000 + 64 * s.prf.flogPos
      t = { s with prf := t.prf } ∧ t.prf.flogOwed = rs ∧ t.prf.flogPos = s.prf.flogPos + 1 ∧ t.prf.flogSeq = s.prf.flogSeq + 1 ∧
        t.flashRead a 64 = flogBytes s.prf.flogSeq r.1 r.2 ∧
        ∀ b, b < a ∨ a + 64 ≤ b → slook 0xFF t.prf.flash b = slook 0xFF s.prf.flash b)

/-! ### The host port -/

/-- BAR2 (13 R429 to R432, R453): a read that the window serves completes with the bytes of device memory and the mark of their lines, a
write reaches exactly its bytes; another read completes with Completer Abort and another write is dropped, each counted; a malformed
access of BAR0 is counted apart, and a read of half a register gives that half. BASE moves in steps of the window's size, and a new size
keeps it aligned. -/
def Obligations.HostMemoryWindow : Prop :=
  ∀ (p : Port) (off len k : Nat) (data : List Byte) (bad : Bool) (base : BitVec 12) (s : State), s.dev.held = false → s.pci.mse = true →
    let a := s.pci.base.toNat * 2 ^ 28 + off
    let serves (n : Nat) : Prop := s.dev.shed.toNat < 6 ∧ s.openMem a n = true ∧ off + n ≤ 2 ^ s.pci.size.toNat
    let b2bad : State := { s with pci := { s.pci with b2bad := stick32 s.pci.b2bad 1 } }
    (s.prf.ready = true → serves len → Gives (.bar2Read off len) s fun t =>
      t.out = s.out ++ [.pciCompletion 0 (s.poisonedRange a len) (s.read a len)] ∧ t.reach = s.reach ∧ MemoryKept s t ∧ t.pci = s.pci) ∧
    (s.prf.ready = true → ¬serves len →
      exec (.bar2Read off len) s = .next { b2bad with out := s.out ++ [.pciCompletion 1 false [], .aer 1 (some false)] }) ∧
    (s.prf.ready = true → s.draining = false → serves data.length → Gives (.bar2Write off data bad) s fun t =>
      BytesAre t a data ∧ BytesKept s t [(a, data.length)] ∧ t.reach = s.reach ∧ t.pci = s.pci ∧
        (bad = true → data ≠ [] → a / 64 ∈ t.poison ∧ LastEvent t 0x0905)) ∧
    (s.prf.ready = true → s.draining = false → ¬serves data.length → exec (.bar2Write off data false) s = .next b2bad) ∧
    (∀ (reg : BitVec 26) (n : Nat),
      let o := reg.toNat
      let badacc : State := { s with pci := { s.pci with badacc := stick32 s.pci.badacc 1 } }
      let whole : Prop := n = 8 ∧ o % 8 = 0
      let half : Prop := n = 4 ∧ o % 4 = 0
      (whole ∨ half → Gives (.pciBadAccess reg (.read n)) s fun t => UnitsKept s t ∧ MemoryKept s t ∧ t.pci = s.pci ∧
        t.out = s.out ++ [.pciCompletion 0 false (((leBytes 8 (s.readReg (o - o % 8)).toNat).drop (o % 8)).take n)]) ∧
      (¬(whole ∨ half) → exec (.pciBadAccess reg (.read n)) s =
        .next { badacc with out := s.out ++ [.pciCompletion 0 false (List.replicate n 0)] }) ∧
      (∀ d : List Byte, d.length = n →
        (whole → exec (.pciBadAccess reg (.write d)) s = exec (.registerWrite .host reg (BitVec.ofNat 64 (leNat d))) s) ∧
        (¬whole → exec (.pciBadAccess reg (.write d)) s = .next (if s.prf.ready then badacc else s)))) ∧
    (OpenPort s p → s.holds p 5 = true → exec (.b2WinWrite p base) s = .next
      (if base.toNat % 2 ^ (s.pci.size.toNat - 28) = 0 then { s with pci := { s.pci with base := base } } else s)) ∧
    (28 ≤ k → k ≤ 36 → Gives (.bar2Resize k) s fun t =>
      t.pci.size.toNat = k ∧ t.pci.base.toNat % 2 ^ (k - 28) = 0 ∧ t = { s with pci := { s.pci with size := t.pci.size, base := t.pci.base } })

/-- The host barge queue takes 64 descriptors and refuses more with HBQ_BUSY; the next is started from its 64 bytes, or fails at once
where they lie in no memory that they may lie in (13 R433 to R435). A barge whose host read times out is over with PCI_CPL_TIMEOUT (R438). -/
def Obligations.HostBargeQueue : Prop :=
  ∀ s : State,
    (∀ (p : Port) (desc : BitVec 34), OpenPort s p →
      (s.pci.hbq.length < 64 → exec (.hbqCmd p desc) s =
        .next { s with pci := { s.pci with hbq := s.pci.hbq ++ [desc.toNat * 64] } }) ∧
      (64 ≤ s.pci.hbq.length → Gives (.hbqCmd p desc) s fun t => t.pci = s.pci ∧ Raised s t 0x0906 0xFFFF (srcOf s (kindOf p) 0))) ∧
    (s.pci.hbar ≠ none → exec .hostBargeStart s = .next s) ∧
    (∀ a as, s.pci.hbq = a :: as → s.pci.hbar = none → s.dev.shed.toNat < 6 → AllKeyed s →
      (s.openMem a 64 = true → Gives .hostBargeStart s fun t =>
        t.pci = { s.pci with hbar := some { desc := s.read a 64, busy := true } } ∧ UnitsKept s t ∧ MemoryKept s t) ∧
      (s.openMem a 64 = false → Gives .hostBargeStart s fun t =>
        t.pci.hbar = none ∧ t.pci.hbq = as ∧ t.pci.done = s.pci.done + 1 ∧ t.pci.code = 0x030D ∧
          Raised s t 0x030D 0xFFFF (srcOf s 7 0x10) ∧ t.reach = s.reach ∧ MemoryKept s t)) ∧
    (∀ (n k : Fin 16) (input : List Byte),
      let g := s.reach[n].barges[k]
      let d := BDesc.ofBytes g.desc
      g.busy = true → g.moved = false → d.kind = 1 → d.ssp = 1 → d.dsp = 0 → s.descBad (.reach n k) g d = false →
      s.bargeBehind (.reach n k) g d = false → s.badRange (.reach n k) g d = none → s.reach[n].u.wait = .none →
      s.reach[n].lateClear = false → s.reach[n].waitBarges = false →
      Gives (.pciCplTimeout (.reach n k) input) s fun t =>
        t.reach[n].barges[k].busy = false ∧ t.reach[n].barges[k].code = 0x0904 ∧ t.pci.cplto = stick32 s.pci.cplto 1 ∧
          LastEvent t 0x0904 ∧ t.out.getLast? = some (.aer 3 none) ∧ BytesKept s t d.writes)

/-- The host link (12 R412; 13 R428, R436 to R439; 18 R602): when it goes down it is counted, the rings stop and the host's semaphores become
FREE; a reset of the port also loses its configuration; when it comes up its configuration is what the command carries. BAR4 reads and
writes the table of vectors; a vector whose masks clear sends its pending message. Errors of the link are reported. -/
def Obligations.HostLink : Prop :=
  ∀ s : State, s.dev.held = false →
    let down (t : State) : Prop := t.pci.up = false ∧ t.pci.linkdn = stick32 s.pci.linkdn 1 ∧ t.ras.ringEn = false ∧
      (∀ e, (t.egrRing e).enable = false) ∧ (∀ n : Fin 32, t.sem[n].owner = if s.sem[n].owner = 1 then 0 else s.sem[n].owner) ∧
      MemoryKept s t ∧ (∀ n : Fin 16, t.reach[n].u = s.reach[n].u) ∧ t.nmu = s.nmu
    let bare (t : State) : Prop := t.pci.mse = false ∧ t.pci.msixEn = false ∧ t.pci.size = 0x24 ∧ t.pci.base.toNat % 256 = 0 ∧
      t.pci.unmasked = [] ∧ t.pci.pend = [] ∧ t.pci.table = [] ∧ t.pci.hbq = s.pci.hbq
    let sent (t : State) (v : Nat) : Prop := .msix v ∈ t.out ∧ v ∉ t.pci.pend
    (s.pci.up = true →
      (Gives (.pciLinkDown 0) s fun t => down t ∧ bare t ∧ t.pci.trained = false) ∧
      (Gives (.pciLinkDown 1) s fun t => down t ∧ t.pci.bme = false ∧ t.pci.mse = s.pci.mse ∧ t.pci.base = s.pci.base) ∧
      (Gives (.pciLinkDown 2) s fun t => down t ∧ t.pci.d0 = false ∧ t.pci.mse = s.pci.mse) ∧
      (Gives (.pciePerstN true) s fun t => down t ∧ bare t ∧ t.pci.trained = false) ∧
      (Gives (.hostPortReset false) s fun t => down t ∧ bare t ∧ t.pci.trained = false) ∧
      (Gives (.hostPortReset true) s fun t => down t ∧ bare t ∧ t.pci.trained = s.pci.trained)) ∧
    (∀ i ∈ [Instr.pciLinkDown 0, .pciePerstN true, .hostPortReset false, .hostPortReset true],
      Gives i s fun t => bare t ∧ ∀ e, (t.egrRing e).enable = false) ∧
    exec (.pciePerstN false) s = .next s ∧
    (s.pwr.clk.getLsbD 0 = false → ∀ width speed en mask, (Instr.pciLinkUp width speed en mask).wellFormed = true →
      Gives (.pciLinkUp width speed en mask) s fun t =>
        t.pci.up = true ∧ t.pci.trained = true ∧ t.pci.bme = true ∧ t.pci.mse = true ∧ t.pci.width = width ∧ t.pci.speed = speed ∧
          t.pci.msixEn = en ∧ t.pci.fmask = mask ∧ t.reach = s.reach ∧ t.nmu = s.nmu ∧ t.mdie = s.mdie ∧ t.ctx = s.ctx ∧ MemoryKept s t ∧
          (s.lkp.inForce = true → t.lkp = s.lkp) ∧
          (en = true → mask = false → ∀ v ∈ s.pci.pend, v ∈ s.pci.unmasked → sent t v)) ∧
    (s.pci.mse = true →
      (∀ (v : BitVec 11) (w : W32),
        let wr : Instr := .msixUnmask (.write (BitVec.ofNat 16 (16 * v.toNat + 12)) (leBytes 4 w.toNat))
        (w.getLsbD 0 = false → Gives wr s fun t => v.toNat ∈ t.pci.unmasked ∧ UnitsKept s t ∧ MemoryKept s t ∧
          (s.pci.msixEn = true → s.pci.up = true → s.pci.fmask = false → v.toNat ∈ s.pci.pend → sent t v.toNat)) ∧
        (w.getLsbD 0 = true → Gives wr s fun t => v.toNat ∉ t.pci.unmasked ∧ UnitsKept s t ∧ MemoryKept s t)) ∧
      (∀ (o : BitVec 16) (w : W32), o.toNat < 32768 → o.toNat % 4 = 0 → o.toNat / 4 % 4 ≠ 3 →
        Gives (.msixUnmask (.write o (leBytes 4 w.toNat))) s fun t => t.pci.word4 (o.toNat / 4) = w ∧ UnitsKept s t ∧ MemoryKept s t) ∧
      ∀ (o : BitVec 16) (n : Nat), exec (.msixUnmask (.read o n)) s = .next (s.send (.pciCompletion 0 false
        ((List.range (n / 4)).flatMap fun k => leBytes 4 (s.pci.word4 (o.toNat / 4 + k)).toNat)))) ∧
    (∀ en mask, Gives (.msixUnmask (.function en mask)) s fun t => t.pci.msixEn = en ∧ t.pci.fmask = mask ∧ UnitsKept s t ∧ MemoryKept s t ∧
      (en = true → mask = false → s.pci.up = true → ∀ v ∈ s.pci.pend, v ∈ s.pci.unmasked → sent t v)) ∧
    exec .unexpectedCompletion s = .next { s with out := s.out ++ [.aer 4 none] } ∧
    (∀ off, exec (.pciBadAccess off .unsupported) s = .next { s with out := s.out ++ [.pciCompletion 2 false [], .aer 0 none] } ∧
      exec (.pciBadAccess off .replayed) s = .next { s with out := s.out ++ [.aer 5 none] })

/-! ### The management port -/

/-- What every request in a session is held against (13 R441, R444, R445; 15 R527): a datagram that the port does not take is dropped; a request
beyond the 16 that await replies is answered BUSY; one of no open session, or whose tag fails, only counts; one that
repeats the last accepted SEQ gets the stored reply; an older one is dropped; without the authority that it needs it is answered
NOT_AUTHORISED and counted; a malformed one is answered BAD_FORMAT. -/
def Obligations.RequestsAreChecked : Prop :=
  ∀ (q : EmpReq) (flash : Bool) (b : StartIn) (s : State),
    let open_ : List Instr := [.empRead q, .empWrite q, .attest q, .recordAck q, .empUnknownCmd 0x7F q]
    let maint : List Instr := [.empRestart q b, .clearFlag q flash, .clearMark q flash, .clearLane q flash, .logRead q flash]
    (∀ i ∈ open_ ++ maint,
      (s.empIn q = .discard → exec i s = .next s) ∧
      (s.empIn q = .authFail → exec i s = .next { s with mgt := { s.mgt with authFail := stick32 s.mgt.authFail 1 } }) ∧
      (s.empIn q = .busy → exec i s = .next (s.send (.empReply q.session.toNat q.seq 3 []))) ∧
      (∀ st r, s.empIn q = .again st r → exec i s = .next (s.send (.empReply q.session.toNat q.seq st r)))) ∧
    (∀ k, s.empIn q = .fresh k false → ∀ i ∈ maint, Gives i s fun t =>
      Replies t q k 2 [] ∧ t.sec.denied = stick32 s.sec.denied 1 ∧ Raised s t 0x0603 0xFFFF (srcOf s 4 0) ∧ UnitsKept s t ∧ MemoryKept s t) ∧
    (∀ k m, s.empIn q = .fresh k m → q.form = false → (∀ i ∈ open_, Gives i s fun t => Replies t q k 1 [] ∧ UnitsKept s t ∧ MemoryKept s t) ∧
      (m = true → ∀ i ∈ maint, Gives i s fun t => Replies t q k 1 [] ∧ UnitsKept s t ∧ MemoryKept s t)) ∧
    (s.empServed = false ∨ q.taken = false → s.empIn q = .discard) ∧
    (s.empServed = true → q.taken = true → (∀ k : Fin 4, (s.mgt.sess[k].map (·.id)) ≠ some q.session) → s.empIn q = .authFail)

/-- The requests themselves (13 R442, R443, R446; 15 R523): READ gives the registers, WRITE writes and says of each pair what came of it,
ATTEST makes a report and gives its first fragment, RECORD_ACK lets acknowledged records go, RESTART replies and then restarts, and a
reserved CMD is UNKNOWN_CMD. -/
def Obligations.RequestsInASession : Prop :=
  ∀ (q : EmpReq) (k : Fin 4) (m : Bool) (s : State), NewReq s q k m →
    (readForm q = true → Gives (.empRead q) s fun t =>
      Replies t q k 0 (q.payload ++ (List.range (reqNat q 4 2)).flatMap fun i => leBytes 8 (s.readReg (reqNat q 0 4 + 8 * i)).toNat) ∧
        UnitsKept s t ∧ MemoryKept s t ∧ t.prf = s.prf ∧ t.sem = s.sem) ∧
    (writeForm q = true → q.payload.length = 16 → s.prf.ready = true → s.draining = false →
      let off := reqNat q 0 4
      let v : W64 := BitVec.ofNat 64 (reqNat q 8 8)
      (off = 0x3C0008 → s.holds (.mgmt k) 5 = true → Gives (.empWrite q) s fun t => Replies t q k 0 [0] ∧ t.mgt.collHi = v) ∧
      (off = 0x3C0008 → s.holds (.mgmt k) 5 = false → Gives (.empWrite q) s fun t =>
        Replies t q k 0 [1] ∧ t.mgt.collHi = s.mgt.collHi ∧ t.semRefused = stick32 s.semRefused 1) ∧
      (off % 8 ≠ 0 ∨ regDefined off = false → Gives (.empWrite q) s fun t => Replies t q k 0 [2] ∧ t.prf = s.prf ∧ UnitsKept s t) ∧
      (off = 0x480028 → m = false → Gives (.empWrite q) s fun t => Replies t q k 0 [3] ∧ t.sec.denied = stick32 s.sec.denied 1)) ∧
    (q.payload.length = 40 → reqNat q 36 4 = 0 → s.sec.idOk = true → s.sec.rngOk = true →
      (s.sec.att = none →
        let r := s.report (q.payload.take 32) (BitVec.ofNat 32 (reqNat q 32 4))
        Gives (.attest q) s fun t => Replies t q k 0 (leBytes 4 r.length ++ leBytes 4 0 ++ r.take 1024) ∧ UnitsKept s t ∧
          (t.mgt.sess[k].map (·.report)) = some (some (r, q.payload.take 32))) ∧
      (s.sec.att ≠ none → Gives (.attest q) s fun t => Replies t q k 3 [] ∧ Raised s t 0x0609 0xFFFF (srcOf s 4 0))) ∧
    (q.payload.length = 4 →
      let n : W32 := BitVec.ofNat 32 (reqNat q 0 4)
      Gives (.recordAck q) s fun t => Replies t q k 0 [] ∧ t.mgt.recs = s.mgt.recs.filter (fun r => newer32 r.seq n) ∧
        t.mgt.acked = (if newer32 n s.mgt.acked then n else s.mgt.acked) ∧ UnitsKept s t) ∧
    (q.payload = [] → m = true → ∀ b, Gives (.empRestart q b) s fun t =>
      Started s t b ∧ ∃ l, t.out = s.out ++ .empReply q.session.toNat q.seq 0 [] :: l) ∧
    (∀ cmd : Byte, cmd.toNat ∉ [1, 2, 3, 4, 5, 7, 8] → Gives (.empUnknownCmd cmd q) s fun t => Replies t q k 4 [] ∧ UnitsKept s t)

/-- MAINT (16 R558, R559; 12 R396): the wrong device is told so, and so is a station with nothing to clear or a flash that fails; else a
record of the clearing goes to the fault log, RAS_MAINT is raised and the reply names the record. LOG_READ gives 1,024 bytes of the log. -/
def Obligations.MaintenanceRequests : Prop :=
  ∀ (q : EmpReq) (k : Fin 4) (flash : Bool) (s : State), NewReq s q k true → maintForm q = true →
    let a0 := reqNat q 2 2
    let a1 := reqNat q 4 2
    let there (op : Nat) : Bool := match op with
      | 1 => s.logNow.flag.isSome
      | 2 => s.logNow.marks.contains a0
      | _ => (slook 0 s.logNow.bypass (4 * a0 + a1 / 64)).getLsbD (a1 % 64)
    (∀ c ∈ [(Instr.clearFlag q flash, 1, true), (.clearMark q flash, 2, decide (a0 < 32)), (.clearLane q flash, 3, decide (a0 < 16) && decide (a1 < 256))],
      (c.2.2 = false ∨ s.confirmed q = false → Gives c.1 s fun t => Replies t q k 0 (maintReply 1 0 []) ∧ t.prf = s.prf) ∧
      (c.2.2 = true → s.confirmed q = true → there c.2.1 = false → Gives c.1 s fun t => Replies t q k 0 (maintReply 2 0 []) ∧ t.prf = s.prf) ∧
      (c.2.2 = true → s.confirmed q = true → there c.2.1 = true → flash = false → Gives c.1 s fun t =>
        Replies t q k 0 (maintReply 3 0 []) ∧ t.prf = s.prf) ∧
      (c.2.2 = true → s.confirmed q = true → there c.2.1 = true → flash = true → Gives c.1 s fun t =>
        Replies t q k 0 (maintReply 0 (t.prf.flogSeq - 1) []) ∧ LastEvent t 0x080C ∧ t.prf.flogOwed = [] ∧ UnitsKept s t ∧ MemoryKept s t ∧
          ∃ x, s.mgt.sess[k] = some x ∧
            t.flashRead (0x8000000 + t.prf.flogHalf * 0x800000 + 64 * (t.prf.flogPos - 1)) 64 =
              flogBytes (t.prf.flogSeq - 1) 7 (recMaint c.2.1 a0 a1 x.station s.time).2)) ∧
    (∀ f, f = reqNat q 16 4 →
      (s.confirmed q = false ∨ 0x800000 ≤ 1024 * f → Gives (.logRead q flash) s fun t => Replies t q k 0 (maintReply 1 0 []) ∧ t.prf = s.prf) ∧
      (s.confirmed q = true → 1024 * f < 0x800000 → flash = true → Gives (.logRead q flash) s fun t =>
        Replies t q k 0 (maintReply 0 0 (s.flashRead (0x8000000 + s.prf.flogHalf * 0x800000 + 1024 * f) 1024)) ∧ t.prf = s.prf))

/-- Sessions open under a credential that the operator signed, while one of the four is free (15 R517, R518), as the collector's only where the
credential says so; when the last one ends the
port's semaphores become FREE, and maintenance state ends with the last session of that authority (13 R444, R448; 15 R526). RECORD carries
up to 18 of the records not sent (13 R446). The port answers ICMPv6 while it is served (R440): a solicitation for an address of its own with
its MAC address, and it takes the address that a router's prefix gives it. -/
def Obligations.SessionsAndRecords : Prop :=
  ∀ (q : EmpReq) (k : Fin 4) (data : List Byte) (s : State),
    (s.empServed = true → q.taken = true → ∀ i ∈ [Instr.chain q, .sessionOpen q],
      (q.session ≠ 0 → exec i s = .next { s with mgt := { s.mgt with authFail := stick32 s.mgt.authFail 1 } }) ∧
      (q.session = 0 → q.busy = true → exec i s = .next (s.send (.empReply 0 q.seq 3 [])))) ∧
    (s.empServed = true → q.taken = true → q.session = 0 → q.busy = false → q.form = true →
      (q.payload.length = 8 → exec (.chain q) s =
        .next (s.send (.empReply 0 q.seq 0 ((s.certChain.drop (1024 * reqNat q 4 4)).take 1024)))) ∧
      (q.payload.length = 356 → s.sec.idOk = true → s.sec.rngOk = true →
        (s.credential ((q.payload.drop 4).take 256) = false ∨ (bitAt (reqNat q 1 1) 0 = true ∧ bitAt (reqNat q 9 1) 0 = false) →
          Gives (.sessionOpen q) s fun t =>
          t.mgt.sess = s.mgt.sess ∧ Raised s t 0x0604 0xFFFF (srcOf s 4 0) ∧ t.out = s.out ++ [.empReply 0 q.seq 2 []] ∧ t.sem = s.sem) ∧
        (s.credential ((q.payload.drop 4).take 256) = true → (bitAt (reqNat q 1 1) 0 = true → bitAt (reqNat q 9 1) 0 = true) →
          (∀ i, s.mgt.freeSlot = some i → Gives (.sessionOpen q) s fun t =>
            (t.mgt.sess[i].map fun x => (x.maint, x.coll, x.seq)) = some (reqNat q 8 1 == 2, bitAt (reqNat q 1 1) 0, none) ∧
              (∀ j : Fin 4, j ≠ i → t.mgt.sess[j] = s.mgt.sess[j]) ∧ t.sec.draws = s.sec.draws + 7 ∧
              (∃ reply, t.out = s.out ++ [.empReply 0 q.seq 0 reply] ∧ reply.length = 168) ∧ UnitsKept s t ∧ MemoryKept s t) ∧
          (s.mgt.freeSlot = none → exec (.sessionOpen q) s = .next (s.send (.empReply 0 q.seq 3 [])))))) ∧
    (∀ x, s.mgt.sess[k] = some x → Gives (.empSessionExpire k) s fun t =>
      t.mgt.sess = s.mgt.sess.set k none ∧ UnitsKept s t ∧ MemoryKept s t ∧
        ((∀ j : Fin 4, j ≠ k → s.mgt.sess[j] = none) → t.sec.maint = false ∧
          ∀ n : Fin 32, t.sem[n].owner = if s.sem[n].owner = 2 then 0 else s.sem[n].owner) ∧
        ((∃ j : Fin 4, ∃ y, j ≠ k ∧ s.mgt.sess[j] = some y ∧ y.maint = true) → t.sem = s.sem ∧ t.sec = s.sec)) ∧
    (∀ i, s.mgt.collector = some i → s.mgtServed = true → s.mgt.coll ≠ 0 →
      let sends (c : Instr) (from_ : Nat) : Prop := s.mgt.recs.drop from_ ≠ [] → Gives c s fun t =>
        let rs := (s.mgt.recs.drop from_).take 18
        t.out = s.out ++ [.empRecord (((s.mgt.sess[i].map (·.recNum)).getD 0) + 1) rs] ∧ t.mgt.sent = from_ + rs.length ∧
          t.mgt.recs = s.mgt.recs ∧ UnitsKept s t ∧ MemoryKept s t
      sends .empRecordSend s.mgt.sent ∧ sends .empRecordResend 0) ∧
    (s.empServed = true → exec (.icmpv6Echo data) s = .next (s.send (.ipv6 0 data)) ∧
      (∀ a : BitVec 128,
        (a ∈ s.mgt.addrs → exec (.neighbourDiscovery (.solicit a)) s =
          .next (s.send (.ipv6 1 ((leBytes 16 a.toNat).reverse ++ (leBytes 6 s.mgt.mac.toNat).reverse)))) ∧
        (a ∉ s.mgt.addrs → exec (.neighbourDiscovery (.solicit a)) s = .next s)) ∧
      ∀ x : BitVec 64, Gives (.neighbourDiscovery (.prefix_ x)) s fun t =>
        (∃ a ∈ t.mgt.addrs, a.toNat / 2 ^ 64 = x.toNat) ∧ (∀ a ∈ s.mgt.addrs, a ∈ t.mgt.addrs) ∧ t.out = s.out ∧
          UnitsKept s t ∧ MemoryKept s t) ∧
    exec .mgtLinkDown s = .next { s with mgt := { s.mgt with link := false } } ∧
    (s.dev.held = false → exec .mgtLinkUp s = .next { s with mgt := { s.mgt with link := true } })

/-! ### Coupling -/

/-- Transport frames in their turn (14 R456 to R458, R469 to R473, R497): a frame for another device is discarded and one that fails its checks is
counted too; DATA is written where the member may write and is else answered with a NAK
and counted; RREQ is answered with the bytes and the marks of their lines; RDATA lands at the read's destination; an acknowledgement
frees the frames that it covers; a NAK of a write fails the step that sent it; after 25 µs without one the frames of a flow go again, and
after 8 times the flow fails. A port's lock comes and goes with its link. -/
def Obligations.TransportFrames : Prop :=
  ∀ (x : RxFrame) (p : Fin 8) (n : BitVec 15) (words : Nat) (s : State),
    let from_ := x.src.toNat
    let a := payNat x.payload 0 8
    let refused (t : State) (reason : Nat) : Prop := t.cpl.refused = stick32 s.cpl.refused 1 ∧ MemoryKept s t ∧
      lastSent t x.port from_ = some (5, BitVec.ofNat 32 reason, leBytes 4 x.seq.toNat)
    (x.ok = true → InTurn s x 1 → 9 ≤ x.payload.length → x.payload.length ≤ 4104 →
      let r := s.remoteRefuse x true a (x.payload.length - 8)
      (r = 0 → Gives (.data x) s fun t => Applied s t x ∧ BytesAre t a (x.payload.drop 8) ∧
        BytesKept s t [(a, x.payload.length - 8)] ∧ t.reach = s.reach) ∧
      (r ≠ 0 → Gives (.data x) s fun t => Applied s t x ∧ refused t r)) ∧
    (x.ok = true → InTurn s x 2 → x.payload.length = 16 → 1 ≤ x.aux.toNat → x.aux.toNat ≤ 4096 → AllKeyed s →
      let r := s.remoteRefuse x false a x.aux.toNat
      (r = 0 → Gives (.rreq x) s fun t => Applied s t x ∧ lastSent t x.port from_ = some (3, 0, s.read a x.aux.toNat) ∧
        (((t.cpl.flow x.port from_).unacked.getLast?).map fun y => y.marks) =
          some ((List.range x.aux.toNat).filter fun i => s.poisoned ((a + i) / 64)) ∧ MemoryKept s t) ∧
      (r ≠ 0 → Gives (.rreq x) s fun t => Applied s t x ∧ refused t r)) ∧
    (x.ok = true → InTurn s x 3 → 1 ≤ x.payload.length → x.payload.length ≤ 4096 → ∀ r, s.oldestRead x = some r →
      (r.len = x.payload.length → r.dead = true → Gives (.rdata x) s fun t =>
        Applied s t x ∧ t.cpl.reads = s.cpl.reads.erase r ∧ UnitsKept s t ∧ MemoryKept s t) ∧
      (r.len = x.payload.length → r.dead = false → r.space = 0 → x.marks = [] → r.reach < 16 → r.tag < 16 → Gives (.rdata x) s fun t =>
        Applied s t x ∧ BytesAre t r.dst x.payload ∧ BytesKept s t [(r.dst, x.payload.length)] ∧ t.cpl.reads = s.cpl.reads.erase r) ∧
      (r.len ≠ x.payload.length → Gives (.rdata x) s fun t =>
        t.cpl.bad[x.port] = stick32 s.cpl.bad[x.port] 1 ∧ t.cpl.reads = s.cpl.reads ∧ MemoryKept s t)) ∧
    (x.ok = true → Arrives s x 4 → Gives (.ack x) s fun t =>
      (t.cpl.flow x.port from_).unacked = (s.cpl.flow x.port from_).unacked.dropWhile (fun y => newer32 x.ack y.seq) ∧
        t.cpl.uncorr[x.port] = stick32 s.cpl.uncorr[x.port] x.words ∧ UnitsKept s t ∧ MemoryKept s t) ∧
    (s.dev.held = false → s.portUp x.port = true → s.frameMine x = true → x.headOk 4 = false ∨ s.frameKey x 4 = false ∨ x.ok = false →
      Gives (.ack x) s fun t => t.cpl.bad[x.port] = stick32 s.cpl.bad[x.port] 1 ∧ t.cpl.flows = s.cpl.flows ∧ UnitsKept s t ∧ MemoryKept s t) ∧
    (s.dev.held = false → s.frameMine x = false → Gives (.ack x) s fun t =>
      t.cpl.bad = s.cpl.bad ∧ t.cpl.flows = s.cpl.flows ∧ UnitsKept s t ∧ MemoryKept s t) ∧
    (x.ok = true → InTurn s x 5 → x.payload.length = 4 →
      let seq : W32 := BitVec.ofNat 32 (payNat x.payload 0 4)
      (∀ r ∈ s.cpl.reads, r.seq ≠ seq) → ∀ y, (s.cpl.flow x.port from_).unacked.find? (fun y => y.seq == seq && y.ftype == 1) = some y →
        Gives (.nak x) s fun t => Applied s t x ∧ (StagingRoom s y.job → LastEvent t 0x0506) ∧
          StepStops s t y.job (.failed 0x0506) ∧ MemoryKept s t) ∧
    (∀ y ys, (s.cpl.flow p n.toNat).unacked = y :: ys → s.dev.held = false → (s.cpl.flow p n.toNat).failed = false → s.portUp p = true →
      let go := ((y :: ys).take 1024).filter fun z => !s.frameStops n.toNat z.ftype
      (y.resends < 8 → Gives (.frameResend p n) s fun t =>
        t.out.length = s.out.length + go.length ∧ t.cpl.retry[p] = stick32 s.cpl.retry[p] go.length ∧
          (t.cpl.flow p n.toNat).unacked.map (·.seq) = (y :: ys).map (·.seq) ∧ UnitsKept s t ∧ MemoryKept s t) ∧
      (8 ≤ y.resends → Gives (.frameResend p n) s fun t => (t.cpl.flow p n.toNat).failed = true)) ∧
    (s.dev.held = false →
      (Gives (.cplLinkUp p) s fun t => t.cpl.pcs = s.cpl.pcs ||| BitVec.ofNat 8 (2 ^ p.val) ∧ UnitsKept s t ∧ MemoryKept s t ∧
        (s.portUp p = false → t.portUp p = true → LastEvent t 0x0502)) ∧
      (Gives (.cplLinkDown p words) s fun t => t.cpl.pcs = s.cpl.pcs &&& ~~~(BitVec.ofNat 8 (2 ^ p.val)) ∧
        t.cpl.uncorr[p] = stick32 s.cpl.uncorr[p] words))

/-- Frames of the basin in their turn (14 R460 to R468, R477, R478, R484 to R491): a worker follows the manager that it hears, joins, prepares,
takes part and withdraws as it is told; managers agree who acts, mirror, hand over, admit workers and pass records on. -/
def Obligations.BasinFrames : Prop :=
  ∀ (x : RxFrame) (s : State), x.ok = true →
    let n := x.src.toNat
    let pay := payNat x.payload
    let w8 : W64 := BitVec.ofNat 64 (pay 8 8)
    let ctrl (cmd len : Nat) : Prop := InTurn s x 8 ∧ pay 0 4 = cmd ∧ len ≤ x.payload.length
    let worker : Prop := s.dev.role.toNat < 2
    let fenced (t : State) : Prop := t.cpl.mstate = .fenced ∧ t.cpl.master = false ∧ Raised s t 0x050D 0xFFFF (srcOf s 0 0)
    (Arrives s x 6 → 64 ≤ x.payload.length → s.cpl.node ≠ 0x7FFF →
      (worker → 2 ≤ pay 0 1 → pay 0 1 ≤ 3 → pay 1 1 = 2 ∨ pay 1 1 = 3 → s.cpl.follows = none → Gives (.hello x) s fun t =>
        t.cpl.follows = some n ∧ t.cpl.fseq = BitVec.ofNat 64 (pay 4 8)) ∧
      (¬worker → n = s.peerNode → s.cpl.mstate = .none → s.cpl.asked = false → 1 ≤ pay 0 1 → pay 0 1 ≤ 3 → pay 1 1 = 0 →
        Gives (.hello x) s fun t => t.cpl.mstate = (if s.side = 0 then .active else .standby) ∧ t.cpl.master = decide (s.side = 0))) ∧
    (InTurn s x 7 → x.aux = 0 → 136 ≤ x.payload.length → s.cpl.acting = true →
      ((s.judge x).2 ≠ 0 → Gives (.join x) s fun t => t.cpl.members = s.cpl.members ∧ Raised s t 0x0507 0xFFFF (srcOf s 0 0) ∧
        lastSent t x.port n = some (7, BitVec.ofNat 32 (2 ^ 31 + (s.judge x).2), s.admitBody 0 (s.judge x).2)) ∧
      ((s.judge x).2 = 0 → Gives (.join x) s fun t => ((s.judge x).1, sm3 ((x.payload.drop 72).take 64)) ∈ t.cpl.members)) ∧
    (InTurn s x 7 → x.aux.getLsbD 31 = true → 236 ≤ x.payload.length → s.cpl.wstate = .joining →
      sm3 ((x.payload.drop 104).take 64) = s.prf.opKey →
      Config.sm2Verify ((x.payload.drop 104).take 64) (BitVec.ofNat 256 (pay 8 32)) ((x.payload.drop 40).take 64) = true →
      (pay 0 1 ≠ 0 → Gives (.admitFrame x) s fun t => t.cpl.node = BitVec.ofNat 15 (s.cpl.sect.basin * 256 + pay 0 1) ∧
        t.cpl.wstate = .unsync ∧ t.cpl.epoch = BitVec.ofNat 32 (pay 4 4) ∧ t.cpl.follows = some n) ∧
      (pay 0 1 = 0 → Gives (.admitFrame x) s fun t => t.cpl.node = 0x7FFF ∧ t.cpl.wstate = .held ∧
        t.cpl.reason = BitVec.ofNat 8 (pay 1 1) ∧ LastEvent t 0x0508)) ∧
    (s.fromManager x = true →
      (ctrl 1 16 → ∀ k, s.slotOfEpoch (BitVec.ofNat 32 (pay 4 4)) = some k → s.prf.chg = .none →
        s.startDiffers (profHdr (s.slotImg k)) = false → Gives (.ctrlActivate x) s fun t =>
          t.cpl.pendSw = some (BitVec.ofNat 32 (pay 4 4), w8) ∧ t.prf.chg = .verifying false ∧ t.prf.target = BitVec.ofNat 2 k ∧
            t.prf.atCycle = some (pay 8 8) ∧ UnitsKept s t) ∧
      (ctrl 2 16 → s.dev.role = 1 → Gives (.assume x) s fun t => t.cpl.assume_ = some (pay 4 1, pay 5 1 % 4, w8) ∧ UnitsKept s t) ∧
      (ctrl 4 52 → worker → pay 4 2 = 1 →
        (pay 17 1 = 1 → Gives (.membership x) s fun t => (pay 16 1, BitVec.ofNat 256 (pay 20 32)) ∈ t.cpl.members ∧ UnitsKept s t) ∧
        (pay 17 1 = 2 → Gives (.membership x) s fun t => (pay 16 1, w8) ∈ t.cpl.pendOut ∧ UnitsKept s t))) ∧
    (ctrl 3 16 → s.cpl.claims = true → pay 4 2 = s.peerNode → s.peerWins w8 = true → Gives (.fence x) s fenced) ∧
    (ctrl 5 20 → worker → s.cpl.node ≠ 0x7FFF → pay 4 2 = n → s.cpl.follows = none → Gives (.active x) s fun t =>
      t.cpl.follows = some n ∧ t.cpl.fseq = w8 ∧ t.cpl.epoch = BitVec.ofNat 32 (pay 16 4)) ∧
    (n = s.peerNode →
      (InTurn s x 9 → x.aux = 0 → s.cpl.mstate = .standby → ∀ r, mirRecs x.payload (x.payload.length / 16 + 1) = some [r] →
        1 ≤ r.kind → r.kind < 7 → r.body.length = mirLen r.kind → r.mseq = s.cpl.mseq + 1 → Gives (.mirrorRecords x) s fun t =>
          t.cpl.mseq = r.mseq ∧ t.cpl.mstate = .standby ∧ UnitsKept s t ∧
            (r.kind = 2 → t.cpl.epoch = BitVec.ofNat 32 (payNat r.body 0 4) ∧ t.cpl.pendSw = none)) ∧
      (InTurn s x 9 → x.aux = 1 → x.payload.length = 8 → newer64 (BitVec.ofNat 64 (pay 0 8)) s.cpl.macked = true →
        Gives (.mirrorAck x) s fun t => t.cpl.macked = BitVec.ofNat 64 (pay 0 8) ∧
          (s.cpl.mstate = .solo → s.cpl.snapSent = true → t.cpl.mstate = .active)) ∧
      (InTurn s x 9 → x.aux = 2 → x.payload = [] → s.cpl.acting = true → Gives (.snapshotReq x) s fun t =>
        t.cpl.snapSent = true ∧ t.cpl.mstate = s.cpl.mstate ∧ UnitsKept s t) ∧
      (InTurn s x 9 → x.aux = 3 → ¬worker → s.cpl.asked = true → ∀ rs, mirRecs x.payload (x.payload.length / 16 + 1) = some rs →
        let known (r : MirRec) : Prop := 1 ≤ r.kind ∧ r.kind ≤ 7 ∧ r.body.length = mirLen r.kind
        (∀ r, (∀ q ∈ rs, known q) → (s.cpl.snap ++ rs).getLast? = some r → r.kind = 7 → Gives (.snapshot x) s fun t =>
          t.cpl.mstate = .standby ∧ t.cpl.mseq = r.mseq ∧ t.cpl.asked = false ∧ t.cpl.snap = [] ∧ UnitsKept s t) ∧
        ((∃ q ∈ rs, ¬known q) → Gives (.snapshot x) s fun t =>
          t.cpl.bad[x.port] = stick32 s.cpl.bad[x.port] 1 ∧ t.cpl.asked = true ∧ t.cpl.snap = [] ∧ UnitsKept s t)) ∧
      (InTurn s x 10 → x.aux = 0 → x.payload.length = 16 → s.cpl.claims = true →
        (s.peerWins (BitVec.ofNat 64 (pay 0 8)) = true → Gives (.claim x) s fenced) ∧
        (s.peerWins (BitVec.ofNat 64 (pay 0 8)) = false → Gives (.claim x) s fun t => t.cpl.mstate = s.cpl.mstate ∧
          ∀ p ps, s.mgrPorts = p :: ps → s.cpl.acting = true → lastSent t p n = some (10, 1, s.claimBody))) ∧
      (InTurn s x 10 → x.aux = 1 → x.payload.length = 16 → s.peerWins (BitVec.ofNat 64 (pay 0 8)) = true → s.cpl.mstate = .claiming →
        Gives (.refuse x) s fun t => t.cpl.mstate = .standby ∧ UnitsKept s t)) ∧
    (InTurn s x 11 → x.aux = 1 → x.payload.length = 64 → s.cpl.mstate = .solo → Gives (.record x) s fun t =>
      t.mgt.recs.getLast? = some (errRecOf x.payload) ∧ UnitsKept s t) ∧
    (InTurn s x 12 → x.payload.length = 16 → s.cpl.acting = true → s.isMember n = true → Gives (.status x) s fun t =>
      (n % 256, x.payload) ∈ t.cpl.views ∧ UnitsKept s t ∧
        (pay 6 1 = 2 ∨ pay 6 1 = 3 → ∀ e, s.spareFor (n % 256) = some e → ∃ q ∈ t.cpl.pendRel, q.1 = n % 256 ∧ q.2.1 = e.member))

/-- Link keys (15 R513, R514, R516): an OFFER whose key is accepted begins an exchange, a confirmed one puts the new key in force and keeps
the old acceptable, and a key that is refused is SEC_PEER_BAD; half way to its limit the lower node of a pair offers the next, and a key
at its limit is dead. -/
def Obligations.LinkKeys : Prop :=
  ∀ (x : RxFrame) (n : BitVec 15) (s : State), s.dev.held = false →
    let from_ := x.src.toNat
    let keyid := payNat x.payload 1 1
    let static := (x.payload.drop 4).take 64
    let kex (step : Nat) : Prop := InTurn s x 13 ∧ x.payload.length = 164 ∧ payNat x.payload 0 1 = step ∧ keyid ≠ 0
    let inForce (t : State) : Prop := (t.cpl.key from_).map (fun k => (k.keyid, k.prev)) = some (keyid, (s.cpl.key from_).map (·.keyid)) ∧
      (∀ q ∈ t.cpl.kex, q.node ≠ from_) ∧ UnitsKept s t
    (kex 1 → s.sec.idOk = true → s.sec.rngOk = true →
      (s.staticOk x static = true → Gives (.offer x) s fun t =>
        (∃ q ∈ t.cpl.kex, q.node = from_ ∧ q.keyid = keyid ∧ q.offered = false ∧ q.static = static) ∧ UnitsKept s t) ∧
      (s.staticOk x static = false → Gives (.offer x) s fun t => (∀ q ∈ t.cpl.kex, q.node ≠ from_) ∧
        Raised s t 0x060A 0xFFFF (srcOf s 5 x.port))) ∧
    (kex 2 → s.staticOk x static = true → x.ok = true → (∃ q ∈ s.cpl.kex, q.node = from_ ∧ q.keyid = keyid ∧ q.offered = true) →
      Gives (.answer x) s inForce) ∧
    (kex 3 → x.ok = true → (∃ q ∈ s.cpl.kex, q.node = from_ ∧ q.keyid = keyid ∧ q.offered = false) → Gives (.confirm x) s inForce) ∧
    (∀ k, s.cpl.key n.toNat = some k → k.dead = false →
      (s.cpl.node.toNat < n.toNat → s.sec.idOk = true → s.sec.rngOk = true → Gives (.rekeyTimer n false) s fun t =>
        t.sec.rekey = stick32 s.sec.rekey 1 ∧ UnitsKept s t ∧
          ∃ q ∈ t.cpl.kex, q.node = n.toNat ∧ q.offered = true ∧ q.keyid = if 255 ≤ k.keyid then 1 else k.keyid + 1) ∧
      (Gives (.rekeyTimer n true) s fun t => (t.cpl.key n.toNat).map (·.dead) = some true)) ∧
    ((∃ q ∈ s.cpl.kex, q.node = n.toNat ∧ q.offered = true) → s.sec.idOk = true → s.sec.rngOk = true → Gives (.keyxRetry n) s fun t =>
      t.sec.draws = s.sec.draws + 1 ∧ (∃ q ∈ t.cpl.kex, q.node = n.toNat ∧ q.offered = true ∧ q.draw = s.sec.draws) ∧ UnitsKept s t) ∧
    (Gives (.oldKeyExpire n) s fun t => (∀ q ∈ t.cpl.keys, q.node = n.toNat → q.prev = none) ∧ t = { s with cpl := { s.cpl with keys := t.cpl.keys } })

/-- Basin time (14 R477, R481 to R483): the first Sync sets TIME, and every slot in progress ends; later ones give the offset, which is slewed
away; four in a row within 200 ns make the device MEMBER, one beyond 2 µs, or none for 100 ms, UNSYNC, and one beyond 1 ms takes a device that
is no acting manager out of its basin. The master sends Sync, each with an Announce after it, and answers Delay_Req; half the sum of the two
ways is the path delay. That an Announce follows each Sync, and what a manager that is a slave does, is the model's choice, log entry 131. -/
def Obligations.BasinTime : Prop :=
  ∀ (x : PtpMsg) (s : State), s.cpl.node ≠ 0x7FFF →
    let off : Int := (s.time.toNat : Int) - x.time.toNat - s.cpl.delay
    let ports := (List.range 8).filter s.portUp
    let dom := s.cpl.sect.domain
    let lost (t : State) : Prop := t.cpl.wstate = .unsync ∧ t.cpl.insync = 0 ∧ t.cpl.unsync = stick32 s.cpl.unsync 1 ∧
      Raised s t 0x0509 0xFFFF (srcOf s 0 0) ∧ UnitsKept s t
    (HearsTime s x →
      (s.cpl.wstate = .unsync ∨ s.cpl.wstate = .member → s.cpl.timeSet = false → Gives (.sync x) s fun t =>
        t.time = BitVec.ofInt 64 (x.time.toNat + s.cpl.delay) ∧ t.cpl.timeSet = true ∧ t.cpl.offset = 0 ∧ ∀ r, (t.unit r).slot = none) ∧
      (s.cpl.timeSet = true →
        (s.cpl.wstate = .member → -200 ≤ off → off ≤ 200 → Gives (.sync x) s fun t =>
          t.cpl.offset = BitVec.ofInt 32 off ∧ t.cpl.wstate = .member ∧ t.cpl.slew = -off ∧
            t.cpl.insync = (if s.cpl.insync = 255 then 255 else s.cpl.insync + 1) ∧ t.time = s.time ∧ UnitsKept s t) ∧
        (s.cpl.wstate = .unsync → -200 ≤ off → off ≤ 200 → 3 ≤ s.cpl.insync.toNat → Gives (.sync x) s fun t =>
          t.cpl.wstate = .member ∧ LastEvent t 0x050A ∧ t.time = s.time ∧ UnitsKept s t) ∧
        (s.cpl.wstate = .unsync → -200 ≤ off → off ≤ 200 → s.cpl.insync.toNat < 3 → Gives (.sync x) s fun t =>
          t.cpl.wstate = .unsync ∧ t.cpl.insync = s.cpl.insync + 1 ∧ t.time = s.time ∧ UnitsKept s t) ∧
        (s.cpl.wstate = .member → s.cpl.master = false → (-1000000 ≤ off ∧ off < -2000) ∨ (2000 < off ∧ off ≤ 1000000) →
          Gives (.sync x) s fun t => lost t ∧ t.cpl.slew = -off) ∧
        (s.cpl.wstate = .unsync ∨ s.cpl.wstate = .member → off < -1000000 ∨ 1000000 < off → s.cpl.acting = false →
          Gives (.sync x) s fun t => t.cpl.wstate = .detached ∧ t.cpl.node = 0x7FFF ∧ LastEvent t 0x050B)) ∧
      ∀ t3 s1 s2, s.cpl.dreq = some t3 → s.cpl.lastSync = some (s1, s2) → exec (.delayResp x) s = .next { s with cpl := { s.cpl with
        dreq := none, delay := ((s2.toNat : Int) - s1.toNat + ((x.time.toNat : Int) - t3.toNat)) / 2 } }) ∧
    (s.cpl.wstate = .member → s.cpl.master = false → Gives .syncLoss s lost) ∧
    (s.slave = true → ∀ q qs, ports = q :: qs →
      exec .delayReqSend s = .next (State.send { s with cpl := { s.cpl with dreq := some s.time } } (.ptp q dom 1 s.time))) ∧
    (s.cpl.master = true →
      exec .syncSend s = .next { s with out := s.out ++ ports.flatMap fun q => [.ptp q dom 0 s.time, .ptp q dom 3 s.time] } ∧
      (s.ptpTaken x = true → exec (.delayReq x) s = .next (s.send (.ptp x.port dom 2 s.time))))

/-- The timers of a basin (14 R460, R462, R477, R485, R487) and CPL_CMD (14 R477, R490, R491, R495). -/
def Obligations.BasinTimersAndCommands : Prop :=
  ∀ (p : Port) (slot : BitVec 2) (delay : BitVec 16) (m : Byte) (s : State), s.dev.held = false →
    let mgr (i : Instr) (st : MState) : Prop := Gives i s fun t => t.cpl.mstate = st ∧ UnitsKept s t ∧ t.time = s.time
    (2 ≤ s.dev.role.toNat → s.cpl.node ≠ 0x7FFF → Gives (.helloSend false) s fun t =>
      t.out.length = s.out.length + (if s.frameStops s.peerNode 6 then 0 else s.mgrPorts.length) ∧ UnitsKept s t ∧ MemoryKept s t) ∧
    (∀ n q qs, s.cpl.follows = some n → s.dev.role = 1 → s.cpl.node ≠ 0x7FFF → s.cpl.fwd = [] → s.mgrPorts = q :: qs →
      Gives .statusSend s fun t => (lastSent t q n).map (fun y => (y.1, y.2.2.length)) = some (12, 16) ∧ UnitsKept s t) ∧
    (∀ q qs, s.cpl.wstate = .joining → s.mgrPorts = q :: qs → Gives .joinSend s fun t =>
      (lastSent t q (s.nodeOf 0)).map (·.1) = some 7 ∧ (lastSent t q (s.nodeOf 1)).map (·.1) = some 7 ∧ UnitsKept s t) ∧
    (s.cpl.acting = true → s.cpl.hasMember m.toNat = true → Gives (.cplMemberLost m) s fun t =>
      Raised s t 0x050F 0xFFFF (srcOf s 0 0) ∧ UnitsKept s t) ∧
    (s.dev.role = 1 → s.cpl.node ≠ 0x7FFF → s.cpl.follows ≠ none → Gives .cplMgrLost s fun t =>
      t.cpl.follows = none ∧ Raised s t 0x050E 0xFFFF (srcOf s 0 0) ∧ UnitsKept s t) ∧
    (s.cpl.mstate = .standby → mgr .standbyTimeout .claiming) ∧
    (s.cpl.mstate = .claiming → mgr .claimTimeout .solo ∧ Gives .claimTimeout s fun t =>
      t.cpl.failover = stick32 s.cpl.failover 1 ∧ t.cpl.master = true ∧ LastEvent t 0x050C) ∧
    (s.cpl.mstate = .active → mgr .standbyAckTimeout .solo) ∧
    (2 ≤ s.dev.role.toNat → s.cpl.node ≠ 0x7FFF → s.cpl.mstate = .none → s.cpl.asked = false → mgr .peerHelloTimeout .solo) ∧
    (s.cpl.mstate = .fenced → Gives .fencedTimeout s fun t => t.cpl.asked = true ∧ t.cpl.snap = [] ∧ UnitsKept s t) ∧
    (s.cpl.wstate = .detached → s.cpl.left = true → s.dev.role = 1 → s.lkp.inForce = true → Gives .rejoinTimer s fun t =>
      t.cpl.wstate = .joining ∧ t.cpl.reason = 0 ∧ UnitsKept s t) ∧
    (s.cpl.wstate ≠ .detached ∨ s.cpl.left = false ∨ s.dev.role ≠ 1 ∨ s.lkp.inForce = false → exec .rejoinTimer s = .next s) ∧
    (OpenPort s p → s.holds p 6 = true →
      let x := (s.prf.slots[slot.toNat]?).getD {}
      let refused (i : Instr) : Prop := Gives i s fun t => t.cpl.resState = 3 ∧ t.cpl.resCode = 0x0A0E ∧
        Raised s t 0x0A0E 0xFFFF (srcOf s (kindOf p) 0) ∧ UnitsKept s t
      (s.cpl.acting = true → x.valid = true → x.role = 2 → 600 ≤ delay.toNat → delay.toNat ≤ 60000 →
        Gives (.basinSwitch p slot delay) s fun t => t.cpl.resState = 1 ∧ t.cpl.resCode = 0 ∧
          t.cpl.resCycle = BitVec.ofNat 32 (s.cycleAfter delay.toNat) ∧
          t.cpl.pendSw = some ((coupOf (profSect x.image 6)).epoch, BitVec.ofNat 64 (s.cycleAfter delay.toNat)) ∧ UnitsKept s t) ∧
      (s.cpl.acting = false → refused (.basinSwitch p slot delay) ∧ refused (.relieve p m)) ∧
      (s.dev.role = 1 → s.cpl.node ≠ 0x7FFF → Gives (.leave p) s fun t =>
        t.cpl.node = 0x7FFF ∧ t.cpl.wstate = .detached ∧ t.cpl.resState = 2 ∧ LastEvent t 0x050B) ∧
      (s.dev.role ≠ 1 ∨ s.cpl.node = 0x7FFF → refused (.leave p)) ∧
      (s.cpl.wstate = .held → Gives (.cplJoinCmd p) s fun t => t.cpl.wstate = .joining ∧ t.cpl.resState = 2 ∧ UnitsKept s t) ∧
      (s.cpl.wstate = .member → refused (.cplJoinCmd p)) ∧
      (s.cpl.acting = true → s.spareFor m.toNat = none → refused (.relieve p m)) ∧
      (∀ e, s.cpl.acting = true → s.spareFor m.toNat = some e → Gives (.relieve p m) s fun t =>
        t.cpl.resState = 1 ∧ t.cpl.resCycle = BitVec.ofNat 32 (s.cycleAfter 600) ∧ UnitsKept s t ∧
          ∃ q ∈ t.cpl.pendRel, q.1 = m.toNat ∧ q.2.1 = e.member ∧ q.2.2.2 = BitVec.ofNat 64 (s.cycleAfter 600)))

/-! ### Security and test -/

/-- SEC_MODE is written by sessions with MAINTENANCE authority alone (15 R526 to R528, R532): MAINT enters and leaves maintenance state,
DEBUG clears the die, ends the sessions and puts no schedule in force. Attestation reports go into their buffer (R524); while one is being made
another request is refused, and without identity or randomness it stops (R503, R505). The test access port gives IDCODE and BYPASS at any time, SAMPLE/PRELOAD and EXTEST while SYS_RST_N is low, and BYPASS
for any other; a private instruction in debug state has no effect that the spec gives, and is refused (R529; 18 R598, R610). That a low
TRST_N selects IDCODE is presumed, log entry 92. -/
def Obligations.SecurityAndTest : Prop :=
  ∀ (p : Port) (k : Fin 4) (on low : Bool) (buf : BitVec 34) (s : State),
    (OpenPort s p → (p = .host ∨ ∃ i x, p = .mgmt i ∧ s.mgt.sess[i] = some x ∧ x.maint = false) →
      ∀ i ∈ [Instr.maintMode p on, .debugEnter p], Gives i s fun t => t.sec = { s.sec with denied := stick32 s.sec.denied 1 } ∧
        Raised s t 0x0603 0xFFFF (srcOf s (kindOf p) 0) ∧ UnitsKept s t ∧ MemoryKept s t) ∧
    (∀ x, OpenPort s (.mgmt k) → s.mgt.sess[k] = some x → x.maint = true →
      (s.sec.maint = on → exec (.maintMode (.mgmt k) on) s = .next s) ∧
      (s.sec.maint ≠ on → Gives (.maintMode (.mgmt k) on) s fun t => t.sec = { s.sec with maint := on } ∧
        Raised s t 0x0607 0xFFFF (srcOf s 0 0) ∧ UnitsKept s t ∧ MemoryKept s t) ∧
      (s.sec.debug = true → exec (.debugEnter (.mgmt k)) s = .next s) ∧
      (s.sec.debug = false → Gives (.debugEnter (.mgmt k)) s fun t => t.sec.debug = true ∧ t.cpl.node = 0x7FFF ∧
        t.sec.masters = (if s.sec.rngOk then 2 else s.sec.masters) ∧
        (∀ i : Fin 4, t.mgt.sess[i] = none) ∧ t.lkp.inForce = false ∧ t.lkp.jobs = [] ∧
        (s.demand ≤ s.dev.shed.toNat → s.pwr.descend = false → s.prf.atCycle = none → LastEvent t 0x0608) ∧
        (s.ctx.queue = [] → (∀ c ∈ s.ctx.ctxs, c.2.state ≠ .closing) → ∀ c ∈ t.mem, c.1 < 0xF000000000))) ∧
    (OpenPort s p → s.holds p 7 = true →
      exec (.secAttCmd p buf false) s = .next { s with sec := { s.sec with attBuf := buf } } ∧
      (s.sec.att ≠ none → Gives (.secAttCmd p buf true) s fun t => t.sec = s.sec ∧ Raised s t 0x0609 0xFFFF (srcOf s (kindOf p) 0) ∧
        UnitsKept s t ∧ MemoryKept s t) ∧
      (s.sec.att = none → s.sec.idOk = false ∨ s.sec.rngOk = false → exec (.secAttCmd p buf true) s = .next { s with sec := { s.sec with
        attBuf := buf, attErr := true, attCode := if s.sec.idOk then 0x0602 else 0x0601 } }) ∧
      (s.sec.att = none → s.sec.idOk = true → s.sec.rngOk = true → AllKeyed s →
        let a := buf.toNat * 64
        (s.inDram a 328080 = true → 2 ^ 30 ≤ a → Gives (.secAttCmd p buf true) s fun t => t.sec = { s.sec with
          attBuf := buf
          att := some { buf := a, port := p, nonce := s.read a 32, ctx := BitVec.ofNat 32 (s.readNat (a + 32) 4) } } ∧ UnitsKept s t) ∧
        (s.inDram a 328080 = false ∨ a < 2 ^ 30 → Gives (.secAttCmd p buf true) s fun t =>
          t.sec.att = none ∧ t.sec.attErr = true ∧ t.sec.attCode = 0x030D ∧ Raised s t 0x030D 0xFFFF (srcOf s (kindOf p) 0)))) ∧
    (∀ q, s.sec.att = some q → s.sec.idOk = true → s.sec.rngOk = true → Gives .attReportDone s fun t =>
      let r := s.report q.nonce q.ctx
      BytesAre t q.buf r ∧ BytesKept s t [(q.buf, r.length)] ∧ t.sec = { s.sec with
        att := none, attErr := false, attCode := 0, attLen := BitVec.ofNat 32 r.length, draws := s.sec.draws + 1 } ∧ t.reach = s.reach ∧ t.nmu = s.nmu) ∧
    (s.dev.held = false → s.sec.rngOk = true → Gives .secRngFail s fun t =>
      t.sec = { s.sec with rngOk := false } ∧ Raised s t 0x0602 0xFFFF (srcOf s 0 0)) ∧
    exec (.trstN low) s = .next { s with tap := { ir := if low then .idcode else s.tap.ir, reset := low } } ∧
    (∀ i, s.tap.reset = true → exec (.tapInstruction i) s = .next s) ∧
    (s.tap.reset = false →
      exec (.tapInstruction .idcode) s = .next { s with tap := { s.tap with ir := .idcode }, out := s.out ++ [.tdo 32 0x1FD0256F] } ∧
      (∀ i : TapIr, i ∈ [TapIr.bypass, .other] ∨ (i ∈ [TapIr.sample, .extest] ∧ s.dev.rstLow = false) ∨ (i = .priv ∧ s.sec.debug = false) →
        exec (.tapInstruction i) s = .next { s with tap := { s.tap with ir := .bypass }, out := s.out ++ [.tdo 1 0] }) ∧
      (∀ i ∈ [TapIr.sample, .extest], s.dev.rstLow = true → exec (.tapInstruction i) s = .next { s with tap := { s.tap with ir := i } }) ∧
      (s.sec.debug = true → exec (.tapInstruction .priv) s = .refused .privateInstruction))

/-! ### Reliability -/

/-- Decisions on sampled tiles, in-field tests, memory errors and die-to-die links (11 R357, R362, R363, R370; 16 R538, R539, R543, R552 to
R555): agreement decides a tile, a mismatch calls a referee, a transient is counted and a permanent fault flags the device; a kernel that
fails is run again before its lanes are bypassed; an error of a line is corrected and counted, or poisons the line. -/
def Obligations.FaultsAreDecided : Prop :=
  ∀ (n : Fin 16) (k : Byte) (sig : W64) (s : State),
    let d? := s.reach[n].dups[k.toNat]?
    let gone (t : State) : Prop := t.reach[n].dups = s.reach[n].dups.eraseIdx k.toNat
    let flags (i : Instr) : Prop := Gives i s fun t => t.dev.flagged = true ∧ gone t
    (∀ d, d? = some d → d.phase = .checking →
      (sig = d.primary → Gives (.dupCheckResult n k sig) s fun t => gone t ∧ t.ras.dupTiles = (s.ras.dupTiles.add 1).1 ∧
        t.ras.mismatch = s.ras.mismatch ∧ t.dev.flagged = s.dev.flagged) ∧
      (sig ≠ d.primary → Gives (.dupCheckResult n k sig) s fun t => t.ras.mismatch = stick32 s.ras.mismatch 1 ∧
        Raised s t 0x0801 d.job (srcOf s 1 n) ∧ ∃ e, t.reach[n].dups[k.toNat]? = some e ∧ e.second = sig ∧
          (e.phase = .refOffered ∨ e.phase = .referee))) ∧
    (∀ d, d? = some d → d.phase = .referee →
      (sig = d.second → Gives (.dupRefereeResult n k sig) s fun t => ∃ e, t.reach[n].dups[k.toNat]? = some e ∧ e.phase = .suspect ∧
        e.suspect = n ∧ e.third = sig ∧ UnitsKept { s with reach := t.reach } t) ∧
      (sig ≠ d.second → sig = d.primary → Gives (.dupRefereeResult n k sig) s fun t =>
        ∃ e, t.reach[n].dups[k.toNat]? = some e ∧ e.phase = .suspect ∧ e.suspect = d.checker) ∧
      (sig ≠ d.second → sig ≠ d.primary → flags (.dupRefereeResult n k sig))) ∧
    (∀ d, d? = some d → d.phase = .suspect →
      (sig = d.third → Gives (.dupSuspectResult n k sig) s fun t => gone t ∧ t.ras.transient = stick32 s.ras.transient 1 ∧
        t.dev.flagged = s.dev.flagged) ∧
      (sig ≠ d.third → flags (.dupSuspectResult n k sig)) ∧ flags (.dupNoTaker n k)) ∧
    (∀ d, d? = some d → d.phase = .refOffered → flags (.dupNoTaker n k)) ∧
    (∀ d, d? = some d → d.phase = .offered → Gives (.dupAbandon n k) s fun t => gone t ∧ t.ras.dupSkip = stick32 s.ras.dupSkip 1 ∧
      t.dev.flagged = s.dev.flagged) ∧
    (∀ (bad : BitVec 256) (outside : Bool), s.testing n = false ∨ s.kernelFits n = false → exec (.testKernelDone n bad outside) s = .next s) ∧
    (∀ (bad : BitVec 256) (outside : Bool), s.testing n = true → s.kernelFits n = true →
      let t0 : TestSt := { s.reach[n].test with used := s.reach[n].test.used + s.kernelNs n }
      (t0.retry = false → bad = 0 → outside = false → exec (.testKernelDone n bad outside) s =
        .next (s.modReach n fun x => { x with test := t0.advance s.time })) ∧
      (t0.retry = true → bad = 0 → outside = false → Gives (.testKernelDone n bad outside) s fun t =>
        t.reach[n].test = t0.advance s.time ∧ t.ras.transient = stick32 s.ras.transient 1 ∧ Raised s t 0x0803 0xFFFF (srcOf s 1 n)) ∧
      (t0.retry = false → bad ≠ 0 ∨ outside = true → Gives (.testKernelDone n bad outside) s fun t =>
        t.reach[n].test = { t0 with retry := true, lanes := bad, outside } ∧ t.ras.fail = stick32 s.ras.fail 1 ∧
          Raised s t 0x0807 0xFFFF (srcOf s 1 n)) ∧
      (t0.retry = true → bad ≠ 0 → bad = t0.lanes → outside = false → t0.outside = false → Gives (.testKernelDone n bad outside) s fun t =>
        t.reach[n].test.newBypass = t0.newBypass ||| bad ∧ LastEvent t 0x0808 ∧ t.dev = s.dev) ∧
      (t0.retry = true → outside = true → Gives (.testKernelDone n bad outside) s fun t => t.dev.flagged = true)) ∧
    (s.dev.held = false → s.prf.ready = true → s.lkp.inForce = true → s.inService n = true → Gives (.rasTestLate n) s fun t =>
      t.ras.late = stick32 s.ras.late 1 ∧ t.reach[n].test.late = true ∧ t.reach[n].test.since = s.time ∧ Raised s t 0x0809 0xFFFF (srcOf s 1 n)) ∧
    (∀ (line : BitVec 34) (data : List Byte) (bank : BitVec 4) (row : W32), s.dev.held = false →
      let a := 64 * line.toNat
      let counted (d : Fin 4) : State := s.modMdie d fun m => { m with ce := stick32 m.ce 1 }
      let poisoned (t : State) : Prop := line.toNat ∈ t.poison ∧ BytesAre t a data ∧ BytesKept s t [(a, 64)]
      (∀ l : Fin 3, exec (.patrolScrub line 0 l data false bank row) s = .next s) ∧
      exec (.patrolScrub line 1 2 data false bank row) s = .next (counted s.lowestDie) ∧
      (Gives (.patrolScrub line 2 2 data false bank row) s fun t => Raised s t 0x0302 0xFFFF (srcOf s 6 0) ∧ MemoryKept s t ∧
        t.mdie[s.lowestDie].ue = stick32 s.mdie[s.lowestDie].ue 1) ∧
      (s.addrOk a 64 = true →
        exec (.patrolScrub line 1 1 data false bank row) s = .next (counted (s.eccDie a)) ∧
        (s.inDram a 64 = false → exec (.patrolScrub line 1 0 data false bank row) s = .next (counted (s.eccDie a))) ∧
        (AllKeyed s → s.poison.contains line.toNat = false → data.length = 64 →
          (Gives (.patrolScrub line 2 0 data false bank row) s poisoned) ∧
          Gives (.patrolScrub line 2 1 data false bank row) s fun t => poisoned t ∧
            Raised s t 0x0302 0xFFFF (srcOf s (s.eccSource a).1 (s.eccSource a).2)))) ∧
    (∀ (c : Fin 4) (i : Fin 8) (bank : BitVec 4) (row : W32) (h : 8 * c.val + i.val < 32),
      2 ^ 32 * bank.toNat + row.toNat ∈ s.mdie[c].chans[i].copying → ∀ bad, Gives (.rowCopyDone ⟨8 * c.val + i.val, h⟩ bank row bad) s fun t =>
        t.mdie[c].chans[i].copying = setDel (2 ^ 32 * bank.toNat + row.toNat) s.mdie[c].chans[i].copying ∧
          t.mdie[c].chans[i].rows = s.mdie[c].chans[i].rows ∧ t.reach = s.reach ∧ (bad = [] → MemoryKept s t) ∧
          ∀ l ∈ bad, s.inDram (64 * l.1.toNat) 64 = true → l.1.toNat ∈ t.poison) ∧
    (∀ (c : Fin 4) (lines : List (BitVec 34)), s.dev.held = false →
      exec (.memD2dRetry c) s = .next (s.modMdie c fun m => { m with retry := stick32 m.retry 1 }) ∧
      let marks (t : State) : Prop := t.mem = s.mem ∧ (s.prf.ready = true → t.dev.flagged = true) ∧
        ∀ l ∈ lines, s.addrOk (64 * l.toNat) 64 = true → l.toNat ∈ t.poison
      (s.mdie[c].d2d0 ≠ 0 → Gives (.d2dModuleDown c 0 lines) s fun t =>
        t.mdie[c].d2d0 = 0 ∧ t.mdie[c].d2d1 = s.mdie[c].d2d1 ∧ marks t) ∧
      (s.mdie[c].d2d1 ≠ 0 → Gives (.d2dModuleDown c 1 lines) s fun t =>
        t.mdie[c].d2d1 = 0 ∧ t.mdie[c].d2d0 = s.mdie[c].d2d0 ∧ marks t))

/-! ### Power and time -/

/-- Telemetry, temperatures, pins and clocks give the demands, which while a schedule is in force wait for its lock points, and else take
effect at once (17 R570, R574 to R579, R586, R587, R590, R591, R594; 10 R624). -/
def Obligations.PowerAndClocks : Prop :=
  ∀ (on : Bool) (k : Fin 5) (rail : Fin 4) (temps : Vector (BitVec 8) 24) (s : State), s.dev.held = false →
    let clk (b : BitVec 5) : State := { s with pwr := { s.pwr with clk := b } }
    let l := s.dev.shed.toNat
    let waits (t : State) : Prop := UnitsKept s t ∧ MemoryKept s t ∧ t.dev = s.dev
    let acts (t : State) : Prop := (s.lkp.inForce = true → waits t) ∧ (s.lkp.inForce = false → t.demand ≤ t.dev.shed.toNat)
    let event (t : State) (code : Nat) : Prop := s.lkp.inForce = true → Raised s t code 0xFFFF (srcOf s 0 0)
    (s.pollRails = [] → ∀ x, exec (.pmbusPoll x) s = .next s) ∧
    (∀ x : Vector (Option RailRead) 9, s.pollRails ≠ [] → Gives (.pmbusPoll x) s fun t => acts t ∧
      (∀ r : Fin 9, s.pwr.polled r = true → ∀ q, x[r] = some q → t.pwr.rails[r].vout = q.vout ∧ t.pwr.rails[r].iout = q.iout ∧
        t.pwr.rails[r].valid = true ∧ ∀ w, q.status = some w → t.pwr.rails[r].status = w) ∧
      (∀ r : Fin 9, s.pwr.polled r = true → x[r] = none → t.pwr.rails[r].fails = s.pwr.rails[r].fails + 1) ∧
      ∀ r : Fin 9, s.pwr.polled r = false → t.pwr.rails[r] = s.pwr.rails[r]) ∧
    (∀ x : Vector (Option W16) 9, Gives (.pmbAlert x) s fun t => acts t ∧
      ∀ r : Fin 9, s.pwr.polled r = true → ∀ w, x[r] = some w → t.pwr.rails[r].status = w) ∧
    (Gives (.tempSample temps) s fun t => t.pwr.temps = temps ∧ (∀ i : Fin 24, temps[i].toInt ≤ t.pwr.maxTemp.toInt) ∧
      (∃ i : Fin 24, t.pwr.maxSensor.toNat = i ∧ t.pwr.maxTemp = temps[i]) ∧ acts t) ∧
    (s.pwr.warn = on → exec (.pwrWarn on) s = .next s) ∧
    (s.pwr.warn ≠ on → Gives (.pwrWarn on) s fun t => t.pwr.warn = on ∧ acts t ∧ (on = true → event t 0x0704) ∧
      (on = true → s.prf.ready = true → 3 ≤ t.demand)) ∧
    (s.pwr.crit = on → exec (.pwrCrit on) s = .next s) ∧
    (s.pwr.crit ≠ on → Gives (.pwrCrit on) s fun t => t.pwr.crit = on ∧ t.pwr.critHold = 0 ∧ acts t ∧ (on = true → event t 0x0705) ∧
      (on = true → s.prf.ready = true → 5 ≤ t.demand)) ∧
    (s.pwr.crit = false → exec (.pwrCritHold on) s = .next s) ∧
    (s.pwr.crit = true → Gives (.pwrCritHold on) s fun t => t.pwr.critHold = max (if on then 2 else 1) s.pwr.critHold ∧ acts t ∧
      (s.prf.ready = true ∨ on = true → (if on then 7 else 6) ≤ t.demand)) ∧
    (Gives (.pwrDroop rail) s fun t => t.pwr.droop = true ∧ t.pwr.droopCnt = stick32 s.pwr.droopCnt 1 ∧ acts t ∧ event t 0x0703) ∧
    (Gives .droopDemandEnd s fun t => t.pwr.droop = false ∧ acts t) ∧
    (l = 0 ∨ l = 7 ∨ l ≤ s.demand ∨ s.pwr.descend = true ∨ s.pwr.rising ≠ none → exec .shedDescent s = .next s) ∧
    (l ≠ 0 → l ≠ 7 → s.demand < l → s.pwr.descend = false → s.pwr.rising = none →
      let c := s.levelArith (l - 1)
      (s.pwr.commands = true → c.toNat < s.pwr.vset.toNat → Gives .shedDescent s fun t =>
        t.pwr = { s.pwr with vset := c, rising := some c } ∧ t.out = s.out ++ [.pmbus 0 0x21 (vddOf c)] ∧ waits t) ∧
      (s.pwr.commands = false ∨ s.pwr.vset.toNat ≤ c.toNat →
        (s.lkp.inForce = true → exec .shedDescent s = .next { s with pwr := { s.pwr with descend := true } }) ∧
        (s.lkp.inForce = false → Gives .shedDescent s fun t => t.dev.shed.toNat = l - 1))) ∧
    (s.pwr.rising = none → exec (.vddArithSettle on) s = .next s) ∧
    (∀ c, s.pwr.rising = some c →
      (c = s.levelArith l → Gives (.vddArithSettle true) s fun t => t.pwr = { s.pwr with rising := none } ∧
        t.dev = (if s.lkp.inForce = false ∧ c.toNat < s.dev.arithSet.toNat ∧ s.pwr.vset.toNat ≤ c.toNat then
          { s.dev with arithSet := c } else s.dev) ∧ UnitsKept s t) ∧
      (c ≠ s.levelArith l →
        (s.lkp.inForce = true → exec (.vddArithSettle true) s = .next { s with pwr := { s.pwr with rising := none, descend := true } }) ∧
        (s.lkp.inForce = false → s.demand < l → l ≠ 7 → Gives (.vddArithSettle true) s fun t => t.dev.shed.toNat = l - 1)) ∧
      (Gives (.vddArithSettle false) s fun t => t.pwr = { s.pwr with rising := none, vset := s.dev.arithSet } ∧
        Raised s t 0x0706 0xFFFF (srcOf s 0 0) ∧ t.dev = s.dev)) ∧
    (s.pwr.clk.getLsbD k = true → exec (.clkLoss k) s = .next s) ∧
    (s.pwr.clk.getLsbD k = false → Gives (.clkLoss k) s fun t => t.pwr.clk = s.pwr.clk ||| BitVec.ofNat 5 (2 ^ k.val) ∧
      (k = 0 → t.pci.up = false ∧ t.pci.trained = false) ∧ (k = 1 → ∀ p : Fin 8, t.portUp p = false) ∧
      (k = 2 ∨ k = 3 → t.demand = 7) ∧ (2 ≤ k.val → acts t ∧ event t 0x070A)) ∧
    (s.pwr.clk.getLsbD (if on then 1 else 0) = false → exec (.clkReturn on) s = .next s) ∧
    (s.pwr.clk.getLsbD 0 = true → exec (.clkReturn false) s = .next (clk (s.pwr.clk &&& ~~~1))) ∧
    (s.pwr.clk.getLsbD 1 = true → Gives (.clkReturn true) s fun t => t.pwr.clk = s.pwr.clk &&& ~~~2 ∧ waits t) ∧
    (s.ppsDisciplines = false → exec .ppsIn s = .next s ∧ exec .timPpsLost s = .next s) ∧
    (s.ppsDisciplines = true →
      let r := s.time.toNat % 1000000000
      let off : Int := if r < 500000000 then r else (r : Int) - 1000000000
      (-1000000 ≤ off → off ≤ 1000000 → Gives .ppsIn s fun t => t.pwr.ppsOffset = BitVec.ofInt 32 off ∧ t.pwr.ppsPresent = true ∧
        t.pwr.ppsGood = (if -100 ≤ off ∧ off ≤ 100 then min 4 (s.pwr.ppsGood + 1) else 0) ∧ t.cpl.slew = -off ∧ t.time = s.time ∧
          UnitsKept s t) ∧
      (off < -1000000 ∨ 1000000 < off → Gives .ppsIn s fun t => t.pwr = s.pwr ∧ Raised s t 0x070B 0xFFFF (srcOf s 0 0)) ∧
      (Gives .timPpsLost s fun t => t.pwr = { s.pwr with ppsPresent := false } ∧ t.cpl.slew = 0 ∧
        Raised s t 0x070B 0xFFFF (srcOf s 0 0))) ∧
    (∀ (p : Port) (f : BitVec 3), OpenPort s p → s.holds p 9 = true →
      let x : State := { s with pwr := { s.pwr with floor := f } }
      (6 ≤ f.toNat → exec (.pwrFloorWrite p f) s = .next s) ∧
      (f.toNat < 6 → Gives (.pwrFloorWrite p f) s fun t => t.pwr.floor = f ∧ acts t) ∧
      (f.toNat < 6 → s.lkp.inForce = false → l < x.demand → Gives (.pwrFloorWrite p f) s fun t => t.dev.shed.toNat = x.demand))

/-! ### Every step -/

/-- Every step keeps memory and flash in canonical form, and every semaphore FREE or owned by one of the two ports (13 R448, R451). -/
def Obligations.StepsKeepTheForm : Prop :=
  ∀ s t : State, KeptForm s → step s = .next t → KeptForm t

/-- The form holds after reset. -/
def Obligations.ResetHasTheForm : Prop := KeptForm State.reset
end

