-- ==== Sys2Proof/Laws/Sparse.lean ====
section
/-! SUPPORT. Laws of sparse maps and sets: what a key holds after a write, and that writes and removals keep the canonical form. -/

namespace Sys2Proof.Machine

/-! ### What a key holds -/

@[simp] theorem slook_nil {α : Type} (d : α) (k : Nat) : slook d [] k = d := rfl

/-- Dropping the keys up to `k` changes nothing above `k`. -/
theorem slook_dropWhile {α : Type} (d : α) (m : List (Nat × α)) (k i : Nat) (h : k < i) :
    slook d (m.dropWhile fun e => e.1 ≤ k) i = slook d m i := by
  induction m with
  | nil => rfl
  | cons e m ih =>
    obtain ⟨j, w⟩ := e
    by_cases hj : j ≤ k
    · have h1 : ¬ i < j := by omega
      have h2 : ¬ j = i := by omega
      simp [hj, ih, slook, h1, h2]
    · simp [hj]

/-- With the keys up to `k` dropped, no key up to `k` is listed. -/
theorem slook_dropWhile_le {α : Type} (d : α) (m : List (Nat × α)) (k i : Nat) (h : i ≤ k) :
    slook d (m.dropWhile fun e => e.1 ≤ k) i = d := by
  induction m with
  | nil => rfl
  | cons e m ih =>
    obtain ⟨j, w⟩ := e
    by_cases hj : j ≤ k
    · simp [hj, ih]
    · have h1 : i < j := by omega
      simp [hj, slook, h1]

/-- A key that was written holds what was written. -/
@[simp] theorem slook_sput_same {α : Type} [DecidableEq α] (d : α) (m : List (Nat × α)) (k : Nat) (v : α) :
    slook d (sput d m k v) k = v := by
  induction m with
  | nil => by_cases hv : v = d <;> simp [sput, hv, slook]
  | cons e m ih =>
    obtain ⟨j, w⟩ := e
    by_cases h1 : k < j
    · by_cases hv : v = d <;> simp [sput, h1, hv, slook]
    · by_cases h2 : k = j
      · subst h2
        by_cases hv : v = d
        · simp [sput, hv, slook_dropWhile_le]
        · simp [sput, hv, slook]
      · have h3 : ¬ j = k := fun h => h2 h.symm
        simp [sput, h1, h2, slook, h3, ih]

/-- Every other key holds what it held. -/
theorem slook_sput_ne {α : Type} [DecidableEq α] (d : α) (m : List (Nat × α)) (k i : Nat) (v : α) (h : i ≠ k) :
    slook d (sput d m k v) i = slook d m i := by
  induction m with
  | nil =>
    by_cases hv : v = d
    · simp [sput, hv]
    · have : ¬ k = i := fun e => h e.symm
      simp [sput, hv, slook, this]
  | cons e m ih =>
    obtain ⟨j, w⟩ := e
    by_cases h1 : k < j
    · by_cases hv : v = d
      · simp [sput, h1, hv]
      · have h2 : ¬ k = i := fun e => h e.symm
        by_cases h3 : i < k
        · have h4 : i < j := by omega
          simp [sput, h1, hv, slook, h3, h4]
        · simp [sput, h1, hv, slook, h2, h3]
    · by_cases h2 : k = j
      · subst h2
        have h4 : ¬ k = i := fun e => h e.symm
        by_cases hv : v = d
        · by_cases h3 : i < k
          · simp [sput, hv, slook, h3, slook_dropWhile_le d m k i (by omega)]
          · simp [sput, hv, slook, h3, h4, slook_dropWhile d m k i (by omega)]
        · simp [sput, hv, slook, h4]
      · simp [sput, h1, h2, slook, ih]

/-! ### The canonical form -/

/-- A higher bound is a stronger form. -/
theorem swfFrom_mono {α : Type} [DecidableEq α] (d : α) (m : List (Nat × α)) (a b : Nat) (h : a ≤ b)
    (hm : swfFrom d b m = true) : swfFrom d a m = true := by
  cases m with
  | nil => rfl
  | cons e m =>
    obtain ⟨j, w⟩ := e
    simp only [swfFrom, Bool.and_eq_true, decide_eq_true_eq] at hm ⊢
    exact ⟨⟨by omega, hm.1.2⟩, hm.2⟩

/-- Nothing is dropped below the bound of a canonical list. -/
theorem dropWhile_swfFrom {α : Type} [DecidableEq α] (d : α) (m : List (Nat × α)) (k : Nat)
    (hm : swfFrom d (k + 1) m = true) : (m.dropWhile fun e => e.1 ≤ k) = m := by
  cases m with
  | nil => rfl
  | cons e m =>
    obtain ⟨j, w⟩ := e
    simp only [swfFrom, Bool.and_eq_true, decide_eq_true_eq] at hm
    have : ¬ j ≤ k := by omega
    simp [this]

/-- A write keeps the form, under a bound not above its key. -/
theorem sput_swfFrom {α : Type} [DecidableEq α] (d : α) (m : List (Nat × α)) (b k : Nat) (v : α) (hk : b ≤ k)
    (hm : swfFrom d b m = true) : swfFrom d b (sput d m k v) = true := by
  induction m generalizing b with
  | nil => by_cases hv : v = d <;> simp [sput, hv, swfFrom, hk]
  | cons e m ih =>
    obtain ⟨j, w⟩ := e
    have hm' := hm
    simp only [swfFrom, Bool.and_eq_true, decide_eq_true_eq] at hm'
    by_cases h1 : k < j
    · by_cases hv : v = d
      · simpa [sput, h1, hv] using hm
      · simp only [sput, h1, hv, if_true, if_false, swfFrom, Bool.and_eq_true, decide_eq_true_eq]
        exact ⟨⟨hk, hv⟩, ⟨by omega, hm'.1.2⟩, hm'.2⟩
    · by_cases h2 : k = j
      · subst h2
        by_cases hv : v = d
        · simp only [sput, hv, lt_irrefl, if_true, if_false]
          rw [dropWhile_swfFrom d m k hm'.2]
          exact swfFrom_mono d m b (k + 1) (by omega) hm'.2
        · simp only [sput, hv, lt_irrefl, if_true, if_false, swfFrom, Bool.and_eq_true, decide_eq_true_eq]
          exact ⟨⟨hk, hv⟩, hm'.2⟩
      · simp only [sput, h1, h2, if_false, swfFrom, Bool.and_eq_true, decide_eq_true_eq]
        exact ⟨hm'.1, ih (j + 1) (by omega) hm'.2⟩

/-- A write keeps the canonical form. -/
theorem sput_swf {α : Type} [DecidableEq α] (d : α) (m : List (Nat × α)) (k : Nat) (v : α) (hm : swf d m = true) :
    swf d (sput d m k v) = true := sput_swfFrom d m 0 k v (Nat.zero_le k) hm

/-- Taking entries out keeps the form. -/
theorem filter_swfFrom {α : Type} [DecidableEq α] (d : α) (f : Nat × α → Bool) (m : List (Nat × α)) (b : Nat)
    (hm : swfFrom d b m = true) : swfFrom d b (m.filter f) = true := by
  induction m generalizing b with
  | nil => rfl
  | cons e m ih =>
    obtain ⟨j, w⟩ := e
    simp only [swfFrom, Bool.and_eq_true, decide_eq_true_eq] at hm
    have := ih (j + 1) hm.2
    by_cases hf : f (j, w) = true
    · simp only [List.filter_cons, hf, if_true, swfFrom, Bool.and_eq_true, decide_eq_true_eq]
      exact ⟨hm.1, this⟩
    · simp only [List.filter_cons, hf]
      exact swfFrom_mono d _ b (j + 1) (by omega) this

/-- Taking entries out keeps the canonical form. -/
theorem filter_swf {α : Type} [DecidableEq α] (d : α) (f : Nat × α → Bool) (m : List (Nat × α)) (hm : swf d m = true) :
    swf d (m.filter f) = true := filter_swfFrom d f m 0 hm

@[simp] theorem nil_swf {α : Type} [DecidableEq α] (d : α) : swf d ([] : List (Nat × α)) = true := rfl

/-! ### Sets -/

/-- An inserted number is in the set. -/
@[simp] theorem mem_setIns (k : Nat) (m : List Nat) (i : Nat) : i ∈ setIns k m ↔ i = k ∨ i ∈ m := by
  induction m with
  | nil => simp [setIns]
  | cons j m ih =>
    by_cases h1 : k < j
    · simp [setIns, h1]
    · by_cases h2 : k = j
      · subst h2; simp [setIns]
      · simp [setIns, h1, h2, ih]; tauto

/-- A removed number is not in the set, and every other stays. -/
@[simp] theorem mem_setDel (k : Nat) (m : List Nat) (i : Nat) : i ∈ setDel k m ↔ i ∈ m ∧ i ≠ k := by
  simp [setDel]

end Sys2Proof.Machine
end

