-- ==== Sys2Proof/Laws/State.lean ====
section
/-! SUPPORT. What the operations over parts of the state leave as it was, field by field, so that no proof unfolds an update of the
state; and what they make of the field that they change. -/

namespace Sys2Proof.Machine.Laws

open Sys2Proof.Machine

variable (s : State)

@[simp] theorem modReach_pending (n : Fin 16) (f : Reach → Reach) : (s.modReach n f).pending = s.pending := rfl
@[simp] theorem modReach_fresh (n : Fin 16) (f : Reach → Reach) : (s.modReach n f).fresh = s.fresh := rfl
@[simp] theorem modReach_time (n : Fin 16) (f : Reach → Reach) : (s.modReach n f).time = s.time := rfl
@[simp] theorem modReach_out (n : Fin 16) (f : Reach → Reach) : (s.modReach n f).out = s.out := rfl
@[simp] theorem modReach_mem (n : Fin 16) (f : Reach → Reach) : (s.modReach n f).mem = s.mem := rfl
@[simp] theorem modReach_poison (n : Fin 16) (f : Reach → Reach) : (s.modReach n f).poison = s.poison := rfl
@[simp] theorem modReach_lineKey (n : Fin 16) (f : Reach → Reach) : (s.modReach n f).lineKey = s.lineKey := rfl
@[simp] theorem modReach_nmu (n : Fin 16) (f : Reach → Reach) : (s.modReach n f).nmu = s.nmu := rfl
@[simp] theorem modReach_mdie (n : Fin 16) (f : Reach → Reach) : (s.modReach n f).mdie = s.mdie := rfl
@[simp] theorem modReach_lkp (n : Fin 16) (f : Reach → Reach) : (s.modReach n f).lkp = s.lkp := rfl
@[simp] theorem modReach_ctx (n : Fin 16) (f : Reach → Reach) : (s.modReach n f).ctx = s.ctx := rfl
@[simp] theorem modReach_dev (n : Fin 16) (f : Reach → Reach) : (s.modReach n f).dev = s.dev := rfl
@[simp] theorem modReach_sec (n : Fin 16) (f : Reach → Reach) : (s.modReach n f).sec = s.sec := rfl
@[simp] theorem modReach_cpl (n : Fin 16) (f : Reach → Reach) : (s.modReach n f).cpl = s.cpl := rfl
@[simp] theorem modReach_ras (n : Fin 16) (f : Reach → Reach) : (s.modReach n f).ras = s.ras := rfl
@[simp] theorem modReach_mgt (n : Fin 16) (f : Reach → Reach) : (s.modReach n f).mgt = s.mgt := rfl
@[simp] theorem modReach_pci (n : Fin 16) (f : Reach → Reach) : (s.modReach n f).pci = s.pci := rfl
@[simp] theorem modReach_prf (n : Fin 16) (f : Reach → Reach) : (s.modReach n f).prf = s.prf := rfl
@[simp] theorem modReach_sem (n : Fin 16) (f : Reach → Reach) : (s.modReach n f).sem = s.sem := rfl
@[simp] theorem modReach_semRefused (n : Fin 16) (f : Reach → Reach) : (s.modReach n f).semRefused = s.semRefused := rfl
@[simp] theorem modReach_semBroken (n : Fin 16) (f : Reach → Reach) : (s.modReach n f).semBroken = s.semBroken := rfl
@[simp] theorem modReach_pwr (n : Fin 16) (f : Reach → Reach) : (s.modReach n f).pwr = s.pwr := rfl
@[simp] theorem modReach_tap (n : Fin 16) (f : Reach → Reach) : (s.modReach n f).tap = s.tap := rfl
@[simp] theorem modReach_board (n : Fin 16) (f : Reach → Reach) : (s.modReach n f).board = s.board := rfl
@[simp] theorem modReach_shadow (n : Fin 16) (f : Reach → Reach) : (s.modReach n f).shadow = s.shadow := rfl

@[simp] theorem modNmu_pending (d : Fin 4) (f : Nmu → Nmu) : (s.modNmu d f).pending = s.pending := rfl
@[simp] theorem modNmu_fresh (d : Fin 4) (f : Nmu → Nmu) : (s.modNmu d f).fresh = s.fresh := rfl
@[simp] theorem modNmu_time (d : Fin 4) (f : Nmu → Nmu) : (s.modNmu d f).time = s.time := rfl
@[simp] theorem modNmu_out (d : Fin 4) (f : Nmu → Nmu) : (s.modNmu d f).out = s.out := rfl
@[simp] theorem modNmu_mem (d : Fin 4) (f : Nmu → Nmu) : (s.modNmu d f).mem = s.mem := rfl
@[simp] theorem modNmu_poison (d : Fin 4) (f : Nmu → Nmu) : (s.modNmu d f).poison = s.poison := rfl
@[simp] theorem modNmu_lineKey (d : Fin 4) (f : Nmu → Nmu) : (s.modNmu d f).lineKey = s.lineKey := rfl
@[simp] theorem modNmu_reach (d : Fin 4) (f : Nmu → Nmu) : (s.modNmu d f).reach = s.reach := rfl
@[simp] theorem modNmu_mdie (d : Fin 4) (f : Nmu → Nmu) : (s.modNmu d f).mdie = s.mdie := rfl
@[simp] theorem modNmu_lkp (d : Fin 4) (f : Nmu → Nmu) : (s.modNmu d f).lkp = s.lkp := rfl
@[simp] theorem modNmu_ctx (d : Fin 4) (f : Nmu → Nmu) : (s.modNmu d f).ctx = s.ctx := rfl
@[simp] theorem modNmu_dev (d : Fin 4) (f : Nmu → Nmu) : (s.modNmu d f).dev = s.dev := rfl
@[simp] theorem modNmu_sec (d : Fin 4) (f : Nmu → Nmu) : (s.modNmu d f).sec = s.sec := rfl
@[simp] theorem modNmu_cpl (d : Fin 4) (f : Nmu → Nmu) : (s.modNmu d f).cpl = s.cpl := rfl
@[simp] theorem modNmu_ras (d : Fin 4) (f : Nmu → Nmu) : (s.modNmu d f).ras = s.ras := rfl
@[simp] theorem modNmu_mgt (d : Fin 4) (f : Nmu → Nmu) : (s.modNmu d f).mgt = s.mgt := rfl
@[simp] theorem modNmu_pci (d : Fin 4) (f : Nmu → Nmu) : (s.modNmu d f).pci = s.pci := rfl
@[simp] theorem modNmu_prf (d : Fin 4) (f : Nmu → Nmu) : (s.modNmu d f).prf = s.prf := rfl
@[simp] theorem modNmu_sem (d : Fin 4) (f : Nmu → Nmu) : (s.modNmu d f).sem = s.sem := rfl
@[simp] theorem modNmu_semRefused (d : Fin 4) (f : Nmu → Nmu) : (s.modNmu d f).semRefused = s.semRefused := rfl
@[simp] theorem modNmu_semBroken (d : Fin 4) (f : Nmu → Nmu) : (s.modNmu d f).semBroken = s.semBroken := rfl
@[simp] theorem modNmu_pwr (d : Fin 4) (f : Nmu → Nmu) : (s.modNmu d f).pwr = s.pwr := rfl
@[simp] theorem modNmu_tap (d : Fin 4) (f : Nmu → Nmu) : (s.modNmu d f).tap = s.tap := rfl
@[simp] theorem modNmu_board (d : Fin 4) (f : Nmu → Nmu) : (s.modNmu d f).board = s.board := rfl
@[simp] theorem modNmu_shadow (d : Fin 4) (f : Nmu → Nmu) : (s.modNmu d f).shadow = s.shadow := rfl

@[simp] theorem modMdie_pending (d : Fin 4) (f : MDie → MDie) : (s.modMdie d f).pending = s.pending := rfl
@[simp] theorem modMdie_fresh (d : Fin 4) (f : MDie → MDie) : (s.modMdie d f).fresh = s.fresh := rfl
@[simp] theorem modMdie_time (d : Fin 4) (f : MDie → MDie) : (s.modMdie d f).time = s.time := rfl
@[simp] theorem modMdie_out (d : Fin 4) (f : MDie → MDie) : (s.modMdie d f).out = s.out := rfl
@[simp] theorem modMdie_mem (d : Fin 4) (f : MDie → MDie) : (s.modMdie d f).mem = s.mem := rfl
@[simp] theorem modMdie_poison (d : Fin 4) (f : MDie → MDie) : (s.modMdie d f).poison = s.poison := rfl
@[simp] theorem modMdie_lineKey (d : Fin 4) (f : MDie → MDie) : (s.modMdie d f).lineKey = s.lineKey := rfl
@[simp] theorem modMdie_reach (d : Fin 4) (f : MDie → MDie) : (s.modMdie d f).reach = s.reach := rfl
@[simp] theorem modMdie_nmu (d : Fin 4) (f : MDie → MDie) : (s.modMdie d f).nmu = s.nmu := rfl
@[simp] theorem modMdie_lkp (d : Fin 4) (f : MDie → MDie) : (s.modMdie d f).lkp = s.lkp := rfl
@[simp] theorem modMdie_ctx (d : Fin 4) (f : MDie → MDie) : (s.modMdie d f).ctx = s.ctx := rfl
@[simp] theorem modMdie_dev (d : Fin 4) (f : MDie → MDie) : (s.modMdie d f).dev = s.dev := rfl
@[simp] theorem modMdie_sec (d : Fin 4) (f : MDie → MDie) : (s.modMdie d f).sec = s.sec := rfl
@[simp] theorem modMdie_cpl (d : Fin 4) (f : MDie → MDie) : (s.modMdie d f).cpl = s.cpl := rfl
@[simp] theorem modMdie_ras (d : Fin 4) (f : MDie → MDie) : (s.modMdie d f).ras = s.ras := rfl
@[simp] theorem modMdie_mgt (d : Fin 4) (f : MDie → MDie) : (s.modMdie d f).mgt = s.mgt := rfl
@[simp] theorem modMdie_pci (d : Fin 4) (f : MDie → MDie) : (s.modMdie d f).pci = s.pci := rfl
@[simp] theorem modMdie_prf (d : Fin 4) (f : MDie → MDie) : (s.modMdie d f).prf = s.prf := rfl
@[simp] theorem modMdie_sem (d : Fin 4) (f : MDie → MDie) : (s.modMdie d f).sem = s.sem := rfl
@[simp] theorem modMdie_semRefused (d : Fin 4) (f : MDie → MDie) : (s.modMdie d f).semRefused = s.semRefused := rfl
@[simp] theorem modMdie_semBroken (d : Fin 4) (f : MDie → MDie) : (s.modMdie d f).semBroken = s.semBroken := rfl
@[simp] theorem modMdie_pwr (d : Fin 4) (f : MDie → MDie) : (s.modMdie d f).pwr = s.pwr := rfl
@[simp] theorem modMdie_tap (d : Fin 4) (f : MDie → MDie) : (s.modMdie d f).tap = s.tap := rfl
@[simp] theorem modMdie_board (d : Fin 4) (f : MDie → MDie) : (s.modMdie d f).board = s.board := rfl
@[simp] theorem modMdie_shadow (d : Fin 4) (f : MDie → MDie) : (s.modMdie d f).shadow = s.shadow := rfl

@[simp] theorem modU_pending (r : Res) (f : Machine.Unit → Machine.Unit) : (s.modU r f).pending = s.pending := by cases r <;> rfl
@[simp] theorem modU_fresh (r : Res) (f : Machine.Unit → Machine.Unit) : (s.modU r f).fresh = s.fresh := by cases r <;> rfl
@[simp] theorem modU_time (r : Res) (f : Machine.Unit → Machine.Unit) : (s.modU r f).time = s.time := by cases r <;> rfl
@[simp] theorem modU_out (r : Res) (f : Machine.Unit → Machine.Unit) : (s.modU r f).out = s.out := by cases r <;> rfl
@[simp] theorem modU_mem (r : Res) (f : Machine.Unit → Machine.Unit) : (s.modU r f).mem = s.mem := by cases r <;> rfl
@[simp] theorem modU_poison (r : Res) (f : Machine.Unit → Machine.Unit) : (s.modU r f).poison = s.poison := by cases r <;> rfl
@[simp] theorem modU_lineKey (r : Res) (f : Machine.Unit → Machine.Unit) : (s.modU r f).lineKey = s.lineKey := by cases r <;> rfl
@[simp] theorem modU_mdie (r : Res) (f : Machine.Unit → Machine.Unit) : (s.modU r f).mdie = s.mdie := by cases r <;> rfl
@[simp] theorem modU_lkp (r : Res) (f : Machine.Unit → Machine.Unit) : (s.modU r f).lkp = s.lkp := by cases r <;> rfl
@[simp] theorem modU_ctx (r : Res) (f : Machine.Unit → Machine.Unit) : (s.modU r f).ctx = s.ctx := by cases r <;> rfl
@[simp] theorem modU_dev (r : Res) (f : Machine.Unit → Machine.Unit) : (s.modU r f).dev = s.dev := by cases r <;> rfl
@[simp] theorem modU_sec (r : Res) (f : Machine.Unit → Machine.Unit) : (s.modU r f).sec = s.sec := by cases r <;> rfl
@[simp] theorem modU_cpl (r : Res) (f : Machine.Unit → Machine.Unit) : (s.modU r f).cpl = s.cpl := by cases r <;> rfl
@[simp] theorem modU_ras (r : Res) (f : Machine.Unit → Machine.Unit) : (s.modU r f).ras = s.ras := by cases r <;> rfl
@[simp] theorem modU_mgt (r : Res) (f : Machine.Unit → Machine.Unit) : (s.modU r f).mgt = s.mgt := by cases r <;> rfl
@[simp] theorem modU_pci (r : Res) (f : Machine.Unit → Machine.Unit) : (s.modU r f).pci = s.pci := by cases r <;> rfl
@[simp] theorem modU_prf (r : Res) (f : Machine.Unit → Machine.Unit) : (s.modU r f).prf = s.prf := by cases r <;> rfl
@[simp] theorem modU_sem (r : Res) (f : Machine.Unit → Machine.Unit) : (s.modU r f).sem = s.sem := by cases r <;> rfl
@[simp] theorem modU_semRefused (r : Res) (f : Machine.Unit → Machine.Unit) : (s.modU r f).semRefused = s.semRefused := by cases r <;> rfl
@[simp] theorem modU_semBroken (r : Res) (f : Machine.Unit → Machine.Unit) : (s.modU r f).semBroken = s.semBroken := by cases r <;> rfl
@[simp] theorem modU_pwr (r : Res) (f : Machine.Unit → Machine.Unit) : (s.modU r f).pwr = s.pwr := by cases r <;> rfl
@[simp] theorem modU_tap (r : Res) (f : Machine.Unit → Machine.Unit) : (s.modU r f).tap = s.tap := by cases r <;> rfl
@[simp] theorem modU_board (r : Res) (f : Machine.Unit → Machine.Unit) : (s.modU r f).board = s.board := by cases r <;> rfl
@[simp] theorem modU_shadow (r : Res) (f : Machine.Unit → Machine.Unit) : (s.modU r f).shadow = s.shadow := by cases r <;> rfl

@[simp] theorem send_pending (o : Out) : (s.send o).pending = s.pending := rfl
@[simp] theorem send_fresh (o : Out) : (s.send o).fresh = s.fresh := rfl
@[simp] theorem send_time (o : Out) : (s.send o).time = s.time := rfl
@[simp] theorem send_mem (o : Out) : (s.send o).mem = s.mem := rfl
@[simp] theorem send_poison (o : Out) : (s.send o).poison = s.poison := rfl
@[simp] theorem send_lineKey (o : Out) : (s.send o).lineKey = s.lineKey := rfl
@[simp] theorem send_reach (o : Out) : (s.send o).reach = s.reach := rfl
@[simp] theorem send_nmu (o : Out) : (s.send o).nmu = s.nmu := rfl
@[simp] theorem send_mdie (o : Out) : (s.send o).mdie = s.mdie := rfl
@[simp] theorem send_lkp (o : Out) : (s.send o).lkp = s.lkp := rfl
@[simp] theorem send_ctx (o : Out) : (s.send o).ctx = s.ctx := rfl
@[simp] theorem send_dev (o : Out) : (s.send o).dev = s.dev := rfl
@[simp] theorem send_sec (o : Out) : (s.send o).sec = s.sec := rfl
@[simp] theorem send_cpl (o : Out) : (s.send o).cpl = s.cpl := rfl
@[simp] theorem send_ras (o : Out) : (s.send o).ras = s.ras := rfl
@[simp] theorem send_mgt (o : Out) : (s.send o).mgt = s.mgt := rfl
@[simp] theorem send_pci (o : Out) : (s.send o).pci = s.pci := rfl
@[simp] theorem send_prf (o : Out) : (s.send o).prf = s.prf := rfl
@[simp] theorem send_sem (o : Out) : (s.send o).sem = s.sem := rfl
@[simp] theorem send_semRefused (o : Out) : (s.send o).semRefused = s.semRefused := rfl
@[simp] theorem send_semBroken (o : Out) : (s.send o).semBroken = s.semBroken := rfl
@[simp] theorem send_pwr (o : Out) : (s.send o).pwr = s.pwr := rfl
@[simp] theorem send_tap (o : Out) : (s.send o).tap = s.tap := rfl
@[simp] theorem send_board (o : Out) : (s.send o).board = s.board := rfl
@[simp] theorem send_shadow (o : Out) : (s.send o).shadow = s.shadow := rfl

@[simp] theorem bump_pending : (s.bump).pending = s.pending := rfl
@[simp] theorem bump_time : (s.bump).time = s.time := rfl
@[simp] theorem bump_out : (s.bump).out = s.out := rfl
@[simp] theorem bump_mem : (s.bump).mem = s.mem := rfl
@[simp] theorem bump_poison : (s.bump).poison = s.poison := rfl
@[simp] theorem bump_lineKey : (s.bump).lineKey = s.lineKey := rfl
@[simp] theorem bump_reach : (s.bump).reach = s.reach := rfl
@[simp] theorem bump_nmu : (s.bump).nmu = s.nmu := rfl
@[simp] theorem bump_mdie : (s.bump).mdie = s.mdie := rfl
@[simp] theorem bump_lkp : (s.bump).lkp = s.lkp := rfl
@[simp] theorem bump_ctx : (s.bump).ctx = s.ctx := rfl
@[simp] theorem bump_dev : (s.bump).dev = s.dev := rfl
@[simp] theorem bump_sec : (s.bump).sec = s.sec := rfl
@[simp] theorem bump_cpl : (s.bump).cpl = s.cpl := rfl
@[simp] theorem bump_ras : (s.bump).ras = s.ras := rfl
@[simp] theorem bump_mgt : (s.bump).mgt = s.mgt := rfl
@[simp] theorem bump_pci : (s.bump).pci = s.pci := rfl
@[simp] theorem bump_prf : (s.bump).prf = s.prf := rfl
@[simp] theorem bump_sem : (s.bump).sem = s.sem := rfl
@[simp] theorem bump_semRefused : (s.bump).semRefused = s.semRefused := rfl
@[simp] theorem bump_semBroken : (s.bump).semBroken = s.semBroken := rfl
@[simp] theorem bump_pwr : (s.bump).pwr = s.pwr := rfl
@[simp] theorem bump_tap : (s.bump).tap = s.tap := rfl
@[simp] theorem bump_board : (s.bump).board = s.board := rfl
@[simp] theorem bump_shadow : (s.bump).shadow = s.shadow := rfl

@[simp] theorem modJob_pending (j : Nat) (f : JobRun → JobRun) : (s.modJob j f).pending = s.pending := rfl
@[simp] theorem modJob_fresh (j : Nat) (f : JobRun → JobRun) : (s.modJob j f).fresh = s.fresh := rfl
@[simp] theorem modJob_time (j : Nat) (f : JobRun → JobRun) : (s.modJob j f).time = s.time := rfl
@[simp] theorem modJob_out (j : Nat) (f : JobRun → JobRun) : (s.modJob j f).out = s.out := rfl
@[simp] theorem modJob_mem (j : Nat) (f : JobRun → JobRun) : (s.modJob j f).mem = s.mem := rfl
@[simp] theorem modJob_poison (j : Nat) (f : JobRun → JobRun) : (s.modJob j f).poison = s.poison := rfl
@[simp] theorem modJob_lineKey (j : Nat) (f : JobRun → JobRun) : (s.modJob j f).lineKey = s.lineKey := rfl
@[simp] theorem modJob_reach (j : Nat) (f : JobRun → JobRun) : (s.modJob j f).reach = s.reach := rfl
@[simp] theorem modJob_nmu (j : Nat) (f : JobRun → JobRun) : (s.modJob j f).nmu = s.nmu := rfl
@[simp] theorem modJob_mdie (j : Nat) (f : JobRun → JobRun) : (s.modJob j f).mdie = s.mdie := rfl
@[simp] theorem modJob_ctx (j : Nat) (f : JobRun → JobRun) : (s.modJob j f).ctx = s.ctx := rfl
@[simp] theorem modJob_dev (j : Nat) (f : JobRun → JobRun) : (s.modJob j f).dev = s.dev := rfl
@[simp] theorem modJob_sec (j : Nat) (f : JobRun → JobRun) : (s.modJob j f).sec = s.sec := rfl
@[simp] theorem modJob_cpl (j : Nat) (f : JobRun → JobRun) : (s.modJob j f).cpl = s.cpl := rfl
@[simp] theorem modJob_ras (j : Nat) (f : JobRun → JobRun) : (s.modJob j f).ras = s.ras := rfl
@[simp] theorem modJob_mgt (j : Nat) (f : JobRun → JobRun) : (s.modJob j f).mgt = s.mgt := rfl
@[simp] theorem modJob_pci (j : Nat) (f : JobRun → JobRun) : (s.modJob j f).pci = s.pci := rfl
@[simp] theorem modJob_prf (j : Nat) (f : JobRun → JobRun) : (s.modJob j f).prf = s.prf := rfl
@[simp] theorem modJob_sem (j : Nat) (f : JobRun → JobRun) : (s.modJob j f).sem = s.sem := rfl
@[simp] theorem modJob_semRefused (j : Nat) (f : JobRun → JobRun) : (s.modJob j f).semRefused = s.semRefused := rfl
@[simp] theorem modJob_semBroken (j : Nat) (f : JobRun → JobRun) : (s.modJob j f).semBroken = s.semBroken := rfl
@[simp] theorem modJob_pwr (j : Nat) (f : JobRun → JobRun) : (s.modJob j f).pwr = s.pwr := rfl
@[simp] theorem modJob_tap (j : Nat) (f : JobRun → JobRun) : (s.modJob j f).tap = s.tap := rfl
@[simp] theorem modJob_board (j : Nat) (f : JobRun → JobRun) : (s.modJob j f).board = s.board := rfl
@[simp] theorem modJob_shadow (j : Nat) (f : JobRun → JobRun) : (s.modJob j f).shadow = s.shadow := rfl

@[simp] theorem modStep_pending (j : Nat) (f : StepRun → StepRun) : (s.modStep j f).pending = s.pending := rfl
@[simp] theorem modStep_fresh (j : Nat) (f : StepRun → StepRun) : (s.modStep j f).fresh = s.fresh := rfl
@[simp] theorem modStep_time (j : Nat) (f : StepRun → StepRun) : (s.modStep j f).time = s.time := rfl
@[simp] theorem modStep_out (j : Nat) (f : StepRun → StepRun) : (s.modStep j f).out = s.out := rfl
@[simp] theorem modStep_mem (j : Nat) (f : StepRun → StepRun) : (s.modStep j f).mem = s.mem := rfl
@[simp] theorem modStep_poison (j : Nat) (f : StepRun → StepRun) : (s.modStep j f).poison = s.poison := rfl
@[simp] theorem modStep_lineKey (j : Nat) (f : StepRun → StepRun) : (s.modStep j f).lineKey = s.lineKey := rfl
@[simp] theorem modStep_reach (j : Nat) (f : StepRun → StepRun) : (s.modStep j f).reach = s.reach := rfl
@[simp] theorem modStep_nmu (j : Nat) (f : StepRun → StepRun) : (s.modStep j f).nmu = s.nmu := rfl
@[simp] theorem modStep_mdie (j : Nat) (f : StepRun → StepRun) : (s.modStep j f).mdie = s.mdie := rfl
@[simp] theorem modStep_ctx (j : Nat) (f : StepRun → StepRun) : (s.modStep j f).ctx = s.ctx := rfl
@[simp] theorem modStep_dev (j : Nat) (f : StepRun → StepRun) : (s.modStep j f).dev = s.dev := rfl
@[simp] theorem modStep_sec (j : Nat) (f : StepRun → StepRun) : (s.modStep j f).sec = s.sec := rfl
@[simp] theorem modStep_cpl (j : Nat) (f : StepRun → StepRun) : (s.modStep j f).cpl = s.cpl := rfl
@[simp] theorem modStep_ras (j : Nat) (f : StepRun → StepRun) : (s.modStep j f).ras = s.ras := rfl
@[simp] theorem modStep_mgt (j : Nat) (f : StepRun → StepRun) : (s.modStep j f).mgt = s.mgt := rfl
@[simp] theorem modStep_pci (j : Nat) (f : StepRun → StepRun) : (s.modStep j f).pci = s.pci := rfl
@[simp] theorem modStep_prf (j : Nat) (f : StepRun → StepRun) : (s.modStep j f).prf = s.prf := rfl
@[simp] theorem modStep_sem (j : Nat) (f : StepRun → StepRun) : (s.modStep j f).sem = s.sem := rfl
@[simp] theorem modStep_semRefused (j : Nat) (f : StepRun → StepRun) : (s.modStep j f).semRefused = s.semRefused := rfl
@[simp] theorem modStep_semBroken (j : Nat) (f : StepRun → StepRun) : (s.modStep j f).semBroken = s.semBroken := rfl
@[simp] theorem modStep_pwr (j : Nat) (f : StepRun → StepRun) : (s.modStep j f).pwr = s.pwr := rfl
@[simp] theorem modStep_tap (j : Nat) (f : StepRun → StepRun) : (s.modStep j f).tap = s.tap := rfl
@[simp] theorem modStep_board (j : Nat) (f : StepRun → StepRun) : (s.modStep j f).board = s.board := rfl
@[simp] theorem modStep_shadow (j : Nat) (f : StepRun → StepRun) : (s.modStep j f).shadow = s.shadow := rfl

@[simp] theorem modEgr_pending (e : Nat) (f : EgrRing → EgrRing) : (s.modEgr e f).pending = s.pending := rfl
@[simp] theorem modEgr_fresh (e : Nat) (f : EgrRing → EgrRing) : (s.modEgr e f).fresh = s.fresh := rfl
@[simp] theorem modEgr_time (e : Nat) (f : EgrRing → EgrRing) : (s.modEgr e f).time = s.time := rfl
@[simp] theorem modEgr_out (e : Nat) (f : EgrRing → EgrRing) : (s.modEgr e f).out = s.out := rfl
@[simp] theorem modEgr_mem (e : Nat) (f : EgrRing → EgrRing) : (s.modEgr e f).mem = s.mem := rfl
@[simp] theorem modEgr_poison (e : Nat) (f : EgrRing → EgrRing) : (s.modEgr e f).poison = s.poison := rfl
@[simp] theorem modEgr_lineKey (e : Nat) (f : EgrRing → EgrRing) : (s.modEgr e f).lineKey = s.lineKey := rfl
@[simp] theorem modEgr_reach (e : Nat) (f : EgrRing → EgrRing) : (s.modEgr e f).reach = s.reach := rfl
@[simp] theorem modEgr_nmu (e : Nat) (f : EgrRing → EgrRing) : (s.modEgr e f).nmu = s.nmu := rfl
@[simp] theorem modEgr_mdie (e : Nat) (f : EgrRing → EgrRing) : (s.modEgr e f).mdie = s.mdie := rfl
@[simp] theorem modEgr_ctx (e : Nat) (f : EgrRing → EgrRing) : (s.modEgr e f).ctx = s.ctx := rfl
@[simp] theorem modEgr_dev (e : Nat) (f : EgrRing → EgrRing) : (s.modEgr e f).dev = s.dev := rfl
@[simp] theorem modEgr_sec (e : Nat) (f : EgrRing → EgrRing) : (s.modEgr e f).sec = s.sec := rfl
@[simp] theorem modEgr_cpl (e : Nat) (f : EgrRing → EgrRing) : (s.modEgr e f).cpl = s.cpl := rfl
@[simp] theorem modEgr_ras (e : Nat) (f : EgrRing → EgrRing) : (s.modEgr e f).ras = s.ras := rfl
@[simp] theorem modEgr_mgt (e : Nat) (f : EgrRing → EgrRing) : (s.modEgr e f).mgt = s.mgt := rfl
@[simp] theorem modEgr_pci (e : Nat) (f : EgrRing → EgrRing) : (s.modEgr e f).pci = s.pci := rfl
@[simp] theorem modEgr_prf (e : Nat) (f : EgrRing → EgrRing) : (s.modEgr e f).prf = s.prf := rfl
@[simp] theorem modEgr_sem (e : Nat) (f : EgrRing → EgrRing) : (s.modEgr e f).sem = s.sem := rfl
@[simp] theorem modEgr_semRefused (e : Nat) (f : EgrRing → EgrRing) : (s.modEgr e f).semRefused = s.semRefused := rfl
@[simp] theorem modEgr_semBroken (e : Nat) (f : EgrRing → EgrRing) : (s.modEgr e f).semBroken = s.semBroken := rfl
@[simp] theorem modEgr_pwr (e : Nat) (f : EgrRing → EgrRing) : (s.modEgr e f).pwr = s.pwr := rfl
@[simp] theorem modEgr_tap (e : Nat) (f : EgrRing → EgrRing) : (s.modEgr e f).tap = s.tap := rfl
@[simp] theorem modEgr_board (e : Nat) (f : EgrRing → EgrRing) : (s.modEgr e f).board = s.board := rfl
@[simp] theorem modEgr_shadow (e : Nat) (f : EgrRing → EgrRing) : (s.modEgr e f).shadow = s.shadow := rfl

@[simp] theorem modRing_pending (r : Nat) (f : InRing → InRing) : (s.modRing r f).pending = s.pending := rfl
@[simp] theorem modRing_fresh (r : Nat) (f : InRing → InRing) : (s.modRing r f).fresh = s.fresh := rfl
@[simp] theorem modRing_time (r : Nat) (f : InRing → InRing) : (s.modRing r f).time = s.time := rfl
@[simp] theorem modRing_out (r : Nat) (f : InRing → InRing) : (s.modRing r f).out = s.out := rfl
@[simp] theorem modRing_mem (r : Nat) (f : InRing → InRing) : (s.modRing r f).mem = s.mem := rfl
@[simp] theorem modRing_poison (r : Nat) (f : InRing → InRing) : (s.modRing r f).poison = s.poison := rfl
@[simp] theorem modRing_lineKey (r : Nat) (f : InRing → InRing) : (s.modRing r f).lineKey = s.lineKey := rfl
@[simp] theorem modRing_reach (r : Nat) (f : InRing → InRing) : (s.modRing r f).reach = s.reach := rfl
@[simp] theorem modRing_nmu (r : Nat) (f : InRing → InRing) : (s.modRing r f).nmu = s.nmu := rfl
@[simp] theorem modRing_mdie (r : Nat) (f : InRing → InRing) : (s.modRing r f).mdie = s.mdie := rfl
@[simp] theorem modRing_ctx (r : Nat) (f : InRing → InRing) : (s.modRing r f).ctx = s.ctx := rfl
@[simp] theorem modRing_dev (r : Nat) (f : InRing → InRing) : (s.modRing r f).dev = s.dev := rfl
@[simp] theorem modRing_sec (r : Nat) (f : InRing → InRing) : (s.modRing r f).sec = s.sec := rfl
@[simp] theorem modRing_cpl (r : Nat) (f : InRing → InRing) : (s.modRing r f).cpl = s.cpl := rfl
@[simp] theorem modRing_ras (r : Nat) (f : InRing → InRing) : (s.modRing r f).ras = s.ras := rfl
@[simp] theorem modRing_mgt (r : Nat) (f : InRing → InRing) : (s.modRing r f).mgt = s.mgt := rfl
@[simp] theorem modRing_pci (r : Nat) (f : InRing → InRing) : (s.modRing r f).pci = s.pci := rfl
@[simp] theorem modRing_prf (r : Nat) (f : InRing → InRing) : (s.modRing r f).prf = s.prf := rfl
@[simp] theorem modRing_sem (r : Nat) (f : InRing → InRing) : (s.modRing r f).sem = s.sem := rfl
@[simp] theorem modRing_semRefused (r : Nat) (f : InRing → InRing) : (s.modRing r f).semRefused = s.semRefused := rfl
@[simp] theorem modRing_semBroken (r : Nat) (f : InRing → InRing) : (s.modRing r f).semBroken = s.semBroken := rfl
@[simp] theorem modRing_pwr (r : Nat) (f : InRing → InRing) : (s.modRing r f).pwr = s.pwr := rfl
@[simp] theorem modRing_tap (r : Nat) (f : InRing → InRing) : (s.modRing r f).tap = s.tap := rfl
@[simp] theorem modRing_board (r : Nat) (f : InRing → InRing) : (s.modRing r f).board = s.board := rfl
@[simp] theorem modRing_shadow (r : Nat) (f : InRing → InRing) : (s.modRing r f).shadow = s.shadow := rfl

@[simp] theorem modCtx_pending (c : Nat) (f : Ctx → Ctx) : (s.modCtx c f).pending = s.pending := rfl
@[simp] theorem modCtx_fresh (c : Nat) (f : Ctx → Ctx) : (s.modCtx c f).fresh = s.fresh := rfl
@[simp] theorem modCtx_time (c : Nat) (f : Ctx → Ctx) : (s.modCtx c f).time = s.time := rfl
@[simp] theorem modCtx_out (c : Nat) (f : Ctx → Ctx) : (s.modCtx c f).out = s.out := rfl
@[simp] theorem modCtx_mem (c : Nat) (f : Ctx → Ctx) : (s.modCtx c f).mem = s.mem := rfl
@[simp] theorem modCtx_poison (c : Nat) (f : Ctx → Ctx) : (s.modCtx c f).poison = s.poison := rfl
@[simp] theorem modCtx_lineKey (c : Nat) (f : Ctx → Ctx) : (s.modCtx c f).lineKey = s.lineKey := rfl
@[simp] theorem modCtx_reach (c : Nat) (f : Ctx → Ctx) : (s.modCtx c f).reach = s.reach := rfl
@[simp] theorem modCtx_nmu (c : Nat) (f : Ctx → Ctx) : (s.modCtx c f).nmu = s.nmu := rfl
@[simp] theorem modCtx_mdie (c : Nat) (f : Ctx → Ctx) : (s.modCtx c f).mdie = s.mdie := rfl
@[simp] theorem modCtx_lkp (c : Nat) (f : Ctx → Ctx) : (s.modCtx c f).lkp = s.lkp := rfl
@[simp] theorem modCtx_dev (c : Nat) (f : Ctx → Ctx) : (s.modCtx c f).dev = s.dev := rfl
@[simp] theorem modCtx_sec (c : Nat) (f : Ctx → Ctx) : (s.modCtx c f).sec = s.sec := rfl
@[simp] theorem modCtx_cpl (c : Nat) (f : Ctx → Ctx) : (s.modCtx c f).cpl = s.cpl := rfl
@[simp] theorem modCtx_ras (c : Nat) (f : Ctx → Ctx) : (s.modCtx c f).ras = s.ras := rfl
@[simp] theorem modCtx_mgt (c : Nat) (f : Ctx → Ctx) : (s.modCtx c f).mgt = s.mgt := rfl
@[simp] theorem modCtx_pci (c : Nat) (f : Ctx → Ctx) : (s.modCtx c f).pci = s.pci := rfl
@[simp] theorem modCtx_prf (c : Nat) (f : Ctx → Ctx) : (s.modCtx c f).prf = s.prf := rfl
@[simp] theorem modCtx_sem (c : Nat) (f : Ctx → Ctx) : (s.modCtx c f).sem = s.sem := rfl
@[simp] theorem modCtx_semRefused (c : Nat) (f : Ctx → Ctx) : (s.modCtx c f).semRefused = s.semRefused := rfl
@[simp] theorem modCtx_semBroken (c : Nat) (f : Ctx → Ctx) : (s.modCtx c f).semBroken = s.semBroken := rfl
@[simp] theorem modCtx_pwr (c : Nat) (f : Ctx → Ctx) : (s.modCtx c f).pwr = s.pwr := rfl
@[simp] theorem modCtx_tap (c : Nat) (f : Ctx → Ctx) : (s.modCtx c f).tap = s.tap := rfl
@[simp] theorem modCtx_board (c : Nat) (f : Ctx → Ctx) : (s.modCtx c f).board = s.board := rfl
@[simp] theorem modCtx_shadow (c : Nat) (f : Ctx → Ctx) : (s.modCtx c f).shadow = s.shadow := rfl

@[simp] theorem modCpl_pending (f : Cpl → Cpl) : (s.modCpl f).pending = s.pending := rfl
@[simp] theorem modCpl_fresh (f : Cpl → Cpl) : (s.modCpl f).fresh = s.fresh := rfl
@[simp] theorem modCpl_time (f : Cpl → Cpl) : (s.modCpl f).time = s.time := rfl
@[simp] theorem modCpl_out (f : Cpl → Cpl) : (s.modCpl f).out = s.out := rfl
@[simp] theorem modCpl_mem (f : Cpl → Cpl) : (s.modCpl f).mem = s.mem := rfl
@[simp] theorem modCpl_poison (f : Cpl → Cpl) : (s.modCpl f).poison = s.poison := rfl
@[simp] theorem modCpl_lineKey (f : Cpl → Cpl) : (s.modCpl f).lineKey = s.lineKey := rfl
@[simp] theorem modCpl_reach (f : Cpl → Cpl) : (s.modCpl f).reach = s.reach := rfl
@[simp] theorem modCpl_nmu (f : Cpl → Cpl) : (s.modCpl f).nmu = s.nmu := rfl
@[simp] theorem modCpl_mdie (f : Cpl → Cpl) : (s.modCpl f).mdie = s.mdie := rfl
@[simp] theorem modCpl_lkp (f : Cpl → Cpl) : (s.modCpl f).lkp = s.lkp := rfl
@[simp] theorem modCpl_ctx (f : Cpl → Cpl) : (s.modCpl f).ctx = s.ctx := rfl
@[simp] theorem modCpl_dev (f : Cpl → Cpl) : (s.modCpl f).dev = s.dev := rfl
@[simp] theorem modCpl_sec (f : Cpl → Cpl) : (s.modCpl f).sec = s.sec := rfl
@[simp] theorem modCpl_ras (f : Cpl → Cpl) : (s.modCpl f).ras = s.ras := rfl
@[simp] theorem modCpl_mgt (f : Cpl → Cpl) : (s.modCpl f).mgt = s.mgt := rfl
@[simp] theorem modCpl_pci (f : Cpl → Cpl) : (s.modCpl f).pci = s.pci := rfl
@[simp] theorem modCpl_prf (f : Cpl → Cpl) : (s.modCpl f).prf = s.prf := rfl
@[simp] theorem modCpl_sem (f : Cpl → Cpl) : (s.modCpl f).sem = s.sem := rfl
@[simp] theorem modCpl_semRefused (f : Cpl → Cpl) : (s.modCpl f).semRefused = s.semRefused := rfl
@[simp] theorem modCpl_semBroken (f : Cpl → Cpl) : (s.modCpl f).semBroken = s.semBroken := rfl
@[simp] theorem modCpl_pwr (f : Cpl → Cpl) : (s.modCpl f).pwr = s.pwr := rfl
@[simp] theorem modCpl_tap (f : Cpl → Cpl) : (s.modCpl f).tap = s.tap := rfl
@[simp] theorem modCpl_board (f : Cpl → Cpl) : (s.modCpl f).board = s.board := rfl
@[simp] theorem modCpl_shadow (f : Cpl → Cpl) : (s.modCpl f).shadow = s.shadow := rfl

@[simp] theorem modFlow_pending (p n : Nat) (f : Flow → Flow) : (s.modFlow p n f).pending = s.pending := rfl
@[simp] theorem modFlow_fresh (p n : Nat) (f : Flow → Flow) : (s.modFlow p n f).fresh = s.fresh := rfl
@[simp] theorem modFlow_time (p n : Nat) (f : Flow → Flow) : (s.modFlow p n f).time = s.time := rfl
@[simp] theorem modFlow_out (p n : Nat) (f : Flow → Flow) : (s.modFlow p n f).out = s.out := rfl
@[simp] theorem modFlow_mem (p n : Nat) (f : Flow → Flow) : (s.modFlow p n f).mem = s.mem := rfl
@[simp] theorem modFlow_poison (p n : Nat) (f : Flow → Flow) : (s.modFlow p n f).poison = s.poison := rfl
@[simp] theorem modFlow_lineKey (p n : Nat) (f : Flow → Flow) : (s.modFlow p n f).lineKey = s.lineKey := rfl
@[simp] theorem modFlow_reach (p n : Nat) (f : Flow → Flow) : (s.modFlow p n f).reach = s.reach := rfl
@[simp] theorem modFlow_nmu (p n : Nat) (f : Flow → Flow) : (s.modFlow p n f).nmu = s.nmu := rfl
@[simp] theorem modFlow_mdie (p n : Nat) (f : Flow → Flow) : (s.modFlow p n f).mdie = s.mdie := rfl
@[simp] theorem modFlow_lkp (p n : Nat) (f : Flow → Flow) : (s.modFlow p n f).lkp = s.lkp := rfl
@[simp] theorem modFlow_ctx (p n : Nat) (f : Flow → Flow) : (s.modFlow p n f).ctx = s.ctx := rfl
@[simp] theorem modFlow_dev (p n : Nat) (f : Flow → Flow) : (s.modFlow p n f).dev = s.dev := rfl
@[simp] theorem modFlow_sec (p n : Nat) (f : Flow → Flow) : (s.modFlow p n f).sec = s.sec := rfl
@[simp] theorem modFlow_ras (p n : Nat) (f : Flow → Flow) : (s.modFlow p n f).ras = s.ras := rfl
@[simp] theorem modFlow_mgt (p n : Nat) (f : Flow → Flow) : (s.modFlow p n f).mgt = s.mgt := rfl
@[simp] theorem modFlow_pci (p n : Nat) (f : Flow → Flow) : (s.modFlow p n f).pci = s.pci := rfl
@[simp] theorem modFlow_prf (p n : Nat) (f : Flow → Flow) : (s.modFlow p n f).prf = s.prf := rfl
@[simp] theorem modFlow_sem (p n : Nat) (f : Flow → Flow) : (s.modFlow p n f).sem = s.sem := rfl
@[simp] theorem modFlow_semRefused (p n : Nat) (f : Flow → Flow) : (s.modFlow p n f).semRefused = s.semRefused := rfl
@[simp] theorem modFlow_semBroken (p n : Nat) (f : Flow → Flow) : (s.modFlow p n f).semBroken = s.semBroken := rfl
@[simp] theorem modFlow_pwr (p n : Nat) (f : Flow → Flow) : (s.modFlow p n f).pwr = s.pwr := rfl
@[simp] theorem modFlow_tap (p n : Nat) (f : Flow → Flow) : (s.modFlow p n f).tap = s.tap := rfl
@[simp] theorem modFlow_board (p n : Nat) (f : Flow → Flow) : (s.modFlow p n f).board = s.board := rfl
@[simp] theorem modFlow_shadow (p n : Nat) (f : Flow → Flow) : (s.modFlow p n f).shadow = s.shadow := rfl

@[simp] theorem modSess_pending (i : Fin 4) (f : Session → Session) : (s.modSess i f).pending = s.pending := rfl
@[simp] theorem modSess_fresh (i : Fin 4) (f : Session → Session) : (s.modSess i f).fresh = s.fresh := rfl
@[simp] theorem modSess_time (i : Fin 4) (f : Session → Session) : (s.modSess i f).time = s.time := rfl
@[simp] theorem modSess_out (i : Fin 4) (f : Session → Session) : (s.modSess i f).out = s.out := rfl
@[simp] theorem modSess_mem (i : Fin 4) (f : Session → Session) : (s.modSess i f).mem = s.mem := rfl
@[simp] theorem modSess_poison (i : Fin 4) (f : Session → Session) : (s.modSess i f).poison = s.poison := rfl
@[simp] theorem modSess_lineKey (i : Fin 4) (f : Session → Session) : (s.modSess i f).lineKey = s.lineKey := rfl
@[simp] theorem modSess_reach (i : Fin 4) (f : Session → Session) : (s.modSess i f).reach = s.reach := rfl
@[simp] theorem modSess_nmu (i : Fin 4) (f : Session → Session) : (s.modSess i f).nmu = s.nmu := rfl
@[simp] theorem modSess_mdie (i : Fin 4) (f : Session → Session) : (s.modSess i f).mdie = s.mdie := rfl
@[simp] theorem modSess_lkp (i : Fin 4) (f : Session → Session) : (s.modSess i f).lkp = s.lkp := rfl
@[simp] theorem modSess_ctx (i : Fin 4) (f : Session → Session) : (s.modSess i f).ctx = s.ctx := rfl
@[simp] theorem modSess_dev (i : Fin 4) (f : Session → Session) : (s.modSess i f).dev = s.dev := rfl
@[simp] theorem modSess_sec (i : Fin 4) (f : Session → Session) : (s.modSess i f).sec = s.sec := rfl
@[simp] theorem modSess_cpl (i : Fin 4) (f : Session → Session) : (s.modSess i f).cpl = s.cpl := rfl
@[simp] theorem modSess_ras (i : Fin 4) (f : Session → Session) : (s.modSess i f).ras = s.ras := rfl
@[simp] theorem modSess_pci (i : Fin 4) (f : Session → Session) : (s.modSess i f).pci = s.pci := rfl
@[simp] theorem modSess_prf (i : Fin 4) (f : Session → Session) : (s.modSess i f).prf = s.prf := rfl
@[simp] theorem modSess_sem (i : Fin 4) (f : Session → Session) : (s.modSess i f).sem = s.sem := rfl
@[simp] theorem modSess_semRefused (i : Fin 4) (f : Session → Session) : (s.modSess i f).semRefused = s.semRefused := rfl
@[simp] theorem modSess_semBroken (i : Fin 4) (f : Session → Session) : (s.modSess i f).semBroken = s.semBroken := rfl
@[simp] theorem modSess_pwr (i : Fin 4) (f : Session → Session) : (s.modSess i f).pwr = s.pwr := rfl
@[simp] theorem modSess_tap (i : Fin 4) (f : Session → Session) : (s.modSess i f).tap = s.tap := rfl
@[simp] theorem modSess_board (i : Fin 4) (f : Session → Session) : (s.modSess i f).board = s.board := rfl
@[simp] theorem modSess_shadow (i : Fin 4) (f : Session → Session) : (s.modSess i f).shadow = s.shadow := rfl

@[simp] theorem raiseAt_pending (w : W64) (e : Ev) : (s.raiseAt w e).pending = s.pending := rfl
@[simp] theorem raiseAt_fresh (w : W64) (e : Ev) : (s.raiseAt w e).fresh = s.fresh := rfl
@[simp] theorem raiseAt_time (w : W64) (e : Ev) : (s.raiseAt w e).time = s.time := rfl
@[simp] theorem raiseAt_out (w : W64) (e : Ev) : (s.raiseAt w e).out = s.out := rfl
@[simp] theorem raiseAt_mem (w : W64) (e : Ev) : (s.raiseAt w e).mem = s.mem := rfl
@[simp] theorem raiseAt_poison (w : W64) (e : Ev) : (s.raiseAt w e).poison = s.poison := rfl
@[simp] theorem raiseAt_lineKey (w : W64) (e : Ev) : (s.raiseAt w e).lineKey = s.lineKey := rfl
@[simp] theorem raiseAt_reach (w : W64) (e : Ev) : (s.raiseAt w e).reach = s.reach := rfl
@[simp] theorem raiseAt_nmu (w : W64) (e : Ev) : (s.raiseAt w e).nmu = s.nmu := rfl
@[simp] theorem raiseAt_mdie (w : W64) (e : Ev) : (s.raiseAt w e).mdie = s.mdie := rfl
@[simp] theorem raiseAt_lkp (w : W64) (e : Ev) : (s.raiseAt w e).lkp = s.lkp := rfl
@[simp] theorem raiseAt_ctx (w : W64) (e : Ev) : (s.raiseAt w e).ctx = s.ctx := rfl
@[simp] theorem raiseAt_dev (w : W64) (e : Ev) : (s.raiseAt w e).dev = s.dev := rfl
@[simp] theorem raiseAt_sec (w : W64) (e : Ev) : (s.raiseAt w e).sec = s.sec := rfl
@[simp] theorem raiseAt_pci (w : W64) (e : Ev) : (s.raiseAt w e).pci = s.pci := rfl
@[simp] theorem raiseAt_prf (w : W64) (e : Ev) : (s.raiseAt w e).prf = s.prf := rfl
@[simp] theorem raiseAt_sem (w : W64) (e : Ev) : (s.raiseAt w e).sem = s.sem := rfl
@[simp] theorem raiseAt_semRefused (w : W64) (e : Ev) : (s.raiseAt w e).semRefused = s.semRefused := rfl
@[simp] theorem raiseAt_semBroken (w : W64) (e : Ev) : (s.raiseAt w e).semBroken = s.semBroken := rfl
@[simp] theorem raiseAt_pwr (w : W64) (e : Ev) : (s.raiseAt w e).pwr = s.pwr := rfl
@[simp] theorem raiseAt_tap (w : W64) (e : Ev) : (s.raiseAt w e).tap = s.tap := rfl
@[simp] theorem raiseAt_board (w : W64) (e : Ev) : (s.raiseAt w e).board = s.board := rfl
@[simp] theorem raiseAt_shadow (w : W64) (e : Ev) : (s.raiseAt w e).shadow = s.shadow := rfl

@[simp] theorem raise_pending (e : Ev) : (s.raise e).pending = s.pending := rfl
@[simp] theorem raise_fresh (e : Ev) : (s.raise e).fresh = s.fresh := rfl
@[simp] theorem raise_time (e : Ev) : (s.raise e).time = s.time := rfl
@[simp] theorem raise_out (e : Ev) : (s.raise e).out = s.out := rfl
@[simp] theorem raise_mem (e : Ev) : (s.raise e).mem = s.mem := rfl
@[simp] theorem raise_poison (e : Ev) : (s.raise e).poison = s.poison := rfl
@[simp] theorem raise_lineKey (e : Ev) : (s.raise e).lineKey = s.lineKey := rfl
@[simp] theorem raise_reach (e : Ev) : (s.raise e).reach = s.reach := rfl
@[simp] theorem raise_nmu (e : Ev) : (s.raise e).nmu = s.nmu := rfl
@[simp] theorem raise_mdie (e : Ev) : (s.raise e).mdie = s.mdie := rfl
@[simp] theorem raise_lkp (e : Ev) : (s.raise e).lkp = s.lkp := rfl
@[simp] theorem raise_ctx (e : Ev) : (s.raise e).ctx = s.ctx := rfl
@[simp] theorem raise_dev (e : Ev) : (s.raise e).dev = s.dev := rfl
@[simp] theorem raise_sec (e : Ev) : (s.raise e).sec = s.sec := rfl
@[simp] theorem raise_pci (e : Ev) : (s.raise e).pci = s.pci := rfl
@[simp] theorem raise_prf (e : Ev) : (s.raise e).prf = s.prf := rfl
@[simp] theorem raise_sem (e : Ev) : (s.raise e).sem = s.sem := rfl
@[simp] theorem raise_semRefused (e : Ev) : (s.raise e).semRefused = s.semRefused := rfl
@[simp] theorem raise_semBroken (e : Ev) : (s.raise e).semBroken = s.semBroken := rfl
@[simp] theorem raise_pwr (e : Ev) : (s.raise e).pwr = s.pwr := rfl
@[simp] theorem raise_tap (e : Ev) : (s.raise e).tap = s.tap := rfl
@[simp] theorem raise_board (e : Ev) : (s.raise e).board = s.board := rfl
@[simp] theorem raise_shadow (e : Ev) : (s.raise e).shadow = s.shadow := rfl

@[simp] theorem semOwn_pending (n : Fin 32) (o : BitVec 2) : (s.semOwn n o).pending = s.pending := rfl
@[simp] theorem semOwn_fresh (n : Fin 32) (o : BitVec 2) : (s.semOwn n o).fresh = s.fresh := rfl
@[simp] theorem semOwn_time (n : Fin 32) (o : BitVec 2) : (s.semOwn n o).time = s.time := rfl
@[simp] theorem semOwn_out (n : Fin 32) (o : BitVec 2) : (s.semOwn n o).out = s.out := rfl
@[simp] theorem semOwn_mem (n : Fin 32) (o : BitVec 2) : (s.semOwn n o).mem = s.mem := rfl
@[simp] theorem semOwn_poison (n : Fin 32) (o : BitVec 2) : (s.semOwn n o).poison = s.poison := rfl
@[simp] theorem semOwn_lineKey (n : Fin 32) (o : BitVec 2) : (s.semOwn n o).lineKey = s.lineKey := rfl
@[simp] theorem semOwn_reach (n : Fin 32) (o : BitVec 2) : (s.semOwn n o).reach = s.reach := rfl
@[simp] theorem semOwn_nmu (n : Fin 32) (o : BitVec 2) : (s.semOwn n o).nmu = s.nmu := rfl
@[simp] theorem semOwn_mdie (n : Fin 32) (o : BitVec 2) : (s.semOwn n o).mdie = s.mdie := rfl
@[simp] theorem semOwn_lkp (n : Fin 32) (o : BitVec 2) : (s.semOwn n o).lkp = s.lkp := rfl
@[simp] theorem semOwn_ctx (n : Fin 32) (o : BitVec 2) : (s.semOwn n o).ctx = s.ctx := rfl
@[simp] theorem semOwn_dev (n : Fin 32) (o : BitVec 2) : (s.semOwn n o).dev = s.dev := rfl
@[simp] theorem semOwn_sec (n : Fin 32) (o : BitVec 2) : (s.semOwn n o).sec = s.sec := rfl
@[simp] theorem semOwn_cpl (n : Fin 32) (o : BitVec 2) : (s.semOwn n o).cpl = s.cpl := rfl
@[simp] theorem semOwn_ras (n : Fin 32) (o : BitVec 2) : (s.semOwn n o).ras = s.ras := rfl
@[simp] theorem semOwn_mgt (n : Fin 32) (o : BitVec 2) : (s.semOwn n o).mgt = s.mgt := rfl
@[simp] theorem semOwn_pci (n : Fin 32) (o : BitVec 2) : (s.semOwn n o).pci = s.pci := rfl
@[simp] theorem semOwn_prf (n : Fin 32) (o : BitVec 2) : (s.semOwn n o).prf = s.prf := rfl
@[simp] theorem semOwn_semRefused (n : Fin 32) (o : BitVec 2) : (s.semOwn n o).semRefused = s.semRefused := rfl
@[simp] theorem semOwn_semBroken (n : Fin 32) (o : BitVec 2) : (s.semOwn n o).semBroken = s.semBroken := rfl
@[simp] theorem semOwn_pwr (n : Fin 32) (o : BitVec 2) : (s.semOwn n o).pwr = s.pwr := rfl
@[simp] theorem semOwn_tap (n : Fin 32) (o : BitVec 2) : (s.semOwn n o).tap = s.tap := rfl
@[simp] theorem semOwn_board (n : Fin 32) (o : BitVec 2) : (s.semOwn n o).board = s.board := rfl
@[simp] theorem semOwn_shadow (n : Fin 32) (o : BitVec 2) : (s.semOwn n o).shadow = s.shadow := rfl

@[simp] theorem semRefuse_pending : (s.semRefuse).pending = s.pending := rfl
@[simp] theorem semRefuse_fresh : (s.semRefuse).fresh = s.fresh := rfl
@[simp] theorem semRefuse_time : (s.semRefuse).time = s.time := rfl
@[simp] theorem semRefuse_out : (s.semRefuse).out = s.out := rfl
@[simp] theorem semRefuse_mem : (s.semRefuse).mem = s.mem := rfl
@[simp] theorem semRefuse_poison : (s.semRefuse).poison = s.poison := rfl
@[simp] theorem semRefuse_lineKey : (s.semRefuse).lineKey = s.lineKey := rfl
@[simp] theorem semRefuse_reach : (s.semRefuse).reach = s.reach := rfl
@[simp] theorem semRefuse_nmu : (s.semRefuse).nmu = s.nmu := rfl
@[simp] theorem semRefuse_mdie : (s.semRefuse).mdie = s.mdie := rfl
@[simp] theorem semRefuse_lkp : (s.semRefuse).lkp = s.lkp := rfl
@[simp] theorem semRefuse_ctx : (s.semRefuse).ctx = s.ctx := rfl
@[simp] theorem semRefuse_dev : (s.semRefuse).dev = s.dev := rfl
@[simp] theorem semRefuse_sec : (s.semRefuse).sec = s.sec := rfl
@[simp] theorem semRefuse_cpl : (s.semRefuse).cpl = s.cpl := rfl
@[simp] theorem semRefuse_ras : (s.semRefuse).ras = s.ras := rfl
@[simp] theorem semRefuse_mgt : (s.semRefuse).mgt = s.mgt := rfl
@[simp] theorem semRefuse_pci : (s.semRefuse).pci = s.pci := rfl
@[simp] theorem semRefuse_prf : (s.semRefuse).prf = s.prf := rfl
@[simp] theorem semRefuse_sem : (s.semRefuse).sem = s.sem := rfl
@[simp] theorem semRefuse_semBroken : (s.semRefuse).semBroken = s.semBroken := rfl
@[simp] theorem semRefuse_pwr : (s.semRefuse).pwr = s.pwr := rfl
@[simp] theorem semRefuse_tap : (s.semRefuse).tap = s.tap := rfl
@[simp] theorem semRefuse_board : (s.semRefuse).board = s.board := rfl
@[simp] theorem semRefuse_shadow : (s.semRefuse).shadow = s.shadow := rfl

@[simp] theorem oweLog_pending (r : Nat × List Byte) : (s.oweLog r).pending = s.pending := rfl
@[simp] theorem oweLog_fresh (r : Nat × List Byte) : (s.oweLog r).fresh = s.fresh := rfl
@[simp] theorem oweLog_time (r : Nat × List Byte) : (s.oweLog r).time = s.time := rfl
@[simp] theorem oweLog_out (r : Nat × List Byte) : (s.oweLog r).out = s.out := rfl
@[simp] theorem oweLog_mem (r : Nat × List Byte) : (s.oweLog r).mem = s.mem := rfl
@[simp] theorem oweLog_poison (r : Nat × List Byte) : (s.oweLog r).poison = s.poison := rfl
@[simp] theorem oweLog_lineKey (r : Nat × List Byte) : (s.oweLog r).lineKey = s.lineKey := rfl
@[simp] theorem oweLog_reach (r : Nat × List Byte) : (s.oweLog r).reach = s.reach := rfl
@[simp] theorem oweLog_nmu (r : Nat × List Byte) : (s.oweLog r).nmu = s.nmu := rfl
@[simp] theorem oweLog_mdie (r : Nat × List Byte) : (s.oweLog r).mdie = s.mdie := rfl
@[simp] theorem oweLog_lkp (r : Nat × List Byte) : (s.oweLog r).lkp = s.lkp := rfl
@[simp] theorem oweLog_ctx (r : Nat × List Byte) : (s.oweLog r).ctx = s.ctx := rfl
@[simp] theorem oweLog_dev (r : Nat × List Byte) : (s.oweLog r).dev = s.dev := rfl
@[simp] theorem oweLog_sec (r : Nat × List Byte) : (s.oweLog r).sec = s.sec := rfl
@[simp] theorem oweLog_cpl (r : Nat × List Byte) : (s.oweLog r).cpl = s.cpl := rfl
@[simp] theorem oweLog_ras (r : Nat × List Byte) : (s.oweLog r).ras = s.ras := rfl
@[simp] theorem oweLog_mgt (r : Nat × List Byte) : (s.oweLog r).mgt = s.mgt := rfl
@[simp] theorem oweLog_pci (r : Nat × List Byte) : (s.oweLog r).pci = s.pci := rfl
@[simp] theorem oweLog_sem (r : Nat × List Byte) : (s.oweLog r).sem = s.sem := rfl
@[simp] theorem oweLog_semRefused (r : Nat × List Byte) : (s.oweLog r).semRefused = s.semRefused := rfl
@[simp] theorem oweLog_semBroken (r : Nat × List Byte) : (s.oweLog r).semBroken = s.semBroken := rfl
@[simp] theorem oweLog_pwr (r : Nat × List Byte) : (s.oweLog r).pwr = s.pwr := rfl
@[simp] theorem oweLog_tap (r : Nat × List Byte) : (s.oweLog r).tap = s.tap := rfl
@[simp] theorem oweLog_board (r : Nat × List Byte) : (s.oweLog r).board = s.board := rfl
@[simp] theorem oweLog_shadow (r : Nat × List Byte) : (s.oweLog r).shadow = s.shadow := rfl

@[simp] theorem draw_pending : (s.draw).pending = s.pending := rfl
@[simp] theorem draw_fresh : (s.draw).fresh = s.fresh := rfl
@[simp] theorem draw_time : (s.draw).time = s.time := rfl
@[simp] theorem draw_out : (s.draw).out = s.out := rfl
@[simp] theorem draw_mem : (s.draw).mem = s.mem := rfl
@[simp] theorem draw_poison : (s.draw).poison = s.poison := rfl
@[simp] theorem draw_lineKey : (s.draw).lineKey = s.lineKey := rfl
@[simp] theorem draw_reach : (s.draw).reach = s.reach := rfl
@[simp] theorem draw_nmu : (s.draw).nmu = s.nmu := rfl
@[simp] theorem draw_mdie : (s.draw).mdie = s.mdie := rfl
@[simp] theorem draw_lkp : (s.draw).lkp = s.lkp := rfl
@[simp] theorem draw_ctx : (s.draw).ctx = s.ctx := rfl
@[simp] theorem draw_dev : (s.draw).dev = s.dev := rfl
@[simp] theorem draw_cpl : (s.draw).cpl = s.cpl := rfl
@[simp] theorem draw_ras : (s.draw).ras = s.ras := rfl
@[simp] theorem draw_mgt : (s.draw).mgt = s.mgt := rfl
@[simp] theorem draw_pci : (s.draw).pci = s.pci := rfl
@[simp] theorem draw_prf : (s.draw).prf = s.prf := rfl
@[simp] theorem draw_sem : (s.draw).sem = s.sem := rfl
@[simp] theorem draw_semRefused : (s.draw).semRefused = s.semRefused := rfl
@[simp] theorem draw_semBroken : (s.draw).semBroken = s.semBroken := rfl
@[simp] theorem draw_pwr : (s.draw).pwr = s.pwr := rfl
@[simp] theorem draw_tap : (s.draw).tap = s.tap := rfl
@[simp] theorem draw_board : (s.draw).board = s.board := rfl
@[simp] theorem draw_shadow : (s.draw).shadow = s.shadow := rfl

/-! ### Records in order, dropped reads, refused accesses -/

@[simp] theorem orderRecords_pending (q : W32) : (s.orderRecords q).pending = s.pending := by unfold State.orderRecords; dsimp only; split <;> rfl
@[simp] theorem orderRecords_fresh (q : W32) : (s.orderRecords q).fresh = s.fresh := by unfold State.orderRecords; dsimp only; split <;> rfl
@[simp] theorem orderRecords_time (q : W32) : (s.orderRecords q).time = s.time := by unfold State.orderRecords; dsimp only; split <;> rfl
@[simp] theorem orderRecords_out (q : W32) : (s.orderRecords q).out = s.out := by unfold State.orderRecords; dsimp only; split <;> rfl
@[simp] theorem orderRecords_mem (q : W32) : (s.orderRecords q).mem = s.mem := by unfold State.orderRecords; dsimp only; split <;> rfl
@[simp] theorem orderRecords_poison (q : W32) : (s.orderRecords q).poison = s.poison := by unfold State.orderRecords; dsimp only; split <;> rfl
@[simp] theorem orderRecords_lineKey (q : W32) : (s.orderRecords q).lineKey = s.lineKey := by unfold State.orderRecords; dsimp only; split <;> rfl
@[simp] theorem orderRecords_reach (q : W32) : (s.orderRecords q).reach = s.reach := by unfold State.orderRecords; dsimp only; split <;> rfl
@[simp] theorem orderRecords_nmu (q : W32) : (s.orderRecords q).nmu = s.nmu := by unfold State.orderRecords; dsimp only; split <;> rfl
@[simp] theorem orderRecords_mdie (q : W32) : (s.orderRecords q).mdie = s.mdie := by unfold State.orderRecords; dsimp only; split <;> rfl
@[simp] theorem orderRecords_lkp (q : W32) : (s.orderRecords q).lkp = s.lkp := by unfold State.orderRecords; dsimp only; split <;> rfl
@[simp] theorem orderRecords_ctx (q : W32) : (s.orderRecords q).ctx = s.ctx := by unfold State.orderRecords; dsimp only; split <;> rfl
@[simp] theorem orderRecords_dev (q : W32) : (s.orderRecords q).dev = s.dev := by unfold State.orderRecords; dsimp only; split <;> rfl
@[simp] theorem orderRecords_sec (q : W32) : (s.orderRecords q).sec = s.sec := by unfold State.orderRecords; dsimp only; split <;> rfl
@[simp] theorem orderRecords_pci (q : W32) : (s.orderRecords q).pci = s.pci := by unfold State.orderRecords; dsimp only; split <;> rfl
@[simp] theorem orderRecords_prf (q : W32) : (s.orderRecords q).prf = s.prf := by unfold State.orderRecords; dsimp only; split <;> rfl
@[simp] theorem orderRecords_sem (q : W32) : (s.orderRecords q).sem = s.sem := by unfold State.orderRecords; dsimp only; split <;> rfl
@[simp] theorem orderRecords_semRefused (q : W32) : (s.orderRecords q).semRefused = s.semRefused := by unfold State.orderRecords; dsimp only; split <;> rfl
@[simp] theorem orderRecords_semBroken (q : W32) : (s.orderRecords q).semBroken = s.semBroken := by unfold State.orderRecords; dsimp only; split <;> rfl
@[simp] theorem orderRecords_pwr (q : W32) : (s.orderRecords q).pwr = s.pwr := by unfold State.orderRecords; dsimp only; split <;> rfl
@[simp] theorem orderRecords_tap (q : W32) : (s.orderRecords q).tap = s.tap := by unfold State.orderRecords; dsimp only; split <;> rfl
@[simp] theorem orderRecords_board (q : W32) : (s.orderRecords q).board = s.board := by unfold State.orderRecords; dsimp only; split <;> rfl
@[simp] theorem orderRecords_shadow (q : W32) : (s.orderRecords q).shadow = s.shadow := by unfold State.orderRecords; dsimp only; split <;> rfl

@[simp] theorem dropReads_pending (g : RemRead → Bool) : (s.dropReads g).pending = s.pending := rfl
@[simp] theorem dropReads_fresh (g : RemRead → Bool) : (s.dropReads g).fresh = s.fresh := rfl
@[simp] theorem dropReads_time (g : RemRead → Bool) : (s.dropReads g).time = s.time := rfl
@[simp] theorem dropReads_out (g : RemRead → Bool) : (s.dropReads g).out = s.out := rfl
@[simp] theorem dropReads_mem (g : RemRead → Bool) : (s.dropReads g).mem = s.mem := rfl
@[simp] theorem dropReads_poison (g : RemRead → Bool) : (s.dropReads g).poison = s.poison := rfl
@[simp] theorem dropReads_lineKey (g : RemRead → Bool) : (s.dropReads g).lineKey = s.lineKey := rfl
@[simp] theorem dropReads_reach (g : RemRead → Bool) : (s.dropReads g).reach = s.reach := rfl
@[simp] theorem dropReads_nmu (g : RemRead → Bool) : (s.dropReads g).nmu = s.nmu := rfl
@[simp] theorem dropReads_mdie (g : RemRead → Bool) : (s.dropReads g).mdie = s.mdie := rfl
@[simp] theorem dropReads_lkp (g : RemRead → Bool) : (s.dropReads g).lkp = s.lkp := rfl
@[simp] theorem dropReads_ctx (g : RemRead → Bool) : (s.dropReads g).ctx = s.ctx := rfl
@[simp] theorem dropReads_dev (g : RemRead → Bool) : (s.dropReads g).dev = s.dev := rfl
@[simp] theorem dropReads_sec (g : RemRead → Bool) : (s.dropReads g).sec = s.sec := rfl
@[simp] theorem dropReads_ras (g : RemRead → Bool) : (s.dropReads g).ras = s.ras := rfl
@[simp] theorem dropReads_mgt (g : RemRead → Bool) : (s.dropReads g).mgt = s.mgt := rfl
@[simp] theorem dropReads_pci (g : RemRead → Bool) : (s.dropReads g).pci = s.pci := rfl
@[simp] theorem dropReads_prf (g : RemRead → Bool) : (s.dropReads g).prf = s.prf := rfl
@[simp] theorem dropReads_sem (g : RemRead → Bool) : (s.dropReads g).sem = s.sem := rfl
@[simp] theorem dropReads_semRefused (g : RemRead → Bool) : (s.dropReads g).semRefused = s.semRefused := rfl
@[simp] theorem dropReads_semBroken (g : RemRead → Bool) : (s.dropReads g).semBroken = s.semBroken := rfl
@[simp] theorem dropReads_pwr (g : RemRead → Bool) : (s.dropReads g).pwr = s.pwr := rfl
@[simp] theorem dropReads_tap (g : RemRead → Bool) : (s.dropReads g).tap = s.tap := rfl
@[simp] theorem dropReads_board (g : RemRead → Bool) : (s.dropReads g).board = s.board := rfl
@[simp] theorem dropReads_shadow (g : RemRead → Bool) : (s.dropReads g).shadow = s.shadow := rfl

@[simp] theorem badAccess_pending : s.badAccess.pending = s.pending := rfl
@[simp] theorem badAccess_fresh : s.badAccess.fresh = s.fresh := rfl
@[simp] theorem badAccess_time : s.badAccess.time = s.time := rfl
@[simp] theorem badAccess_out : s.badAccess.out = s.out := rfl
@[simp] theorem badAccess_mem : s.badAccess.mem = s.mem := rfl
@[simp] theorem badAccess_poison : s.badAccess.poison = s.poison := rfl
@[simp] theorem badAccess_lineKey : s.badAccess.lineKey = s.lineKey := rfl
@[simp] theorem badAccess_reach : s.badAccess.reach = s.reach := rfl
@[simp] theorem badAccess_nmu : s.badAccess.nmu = s.nmu := rfl
@[simp] theorem badAccess_mdie : s.badAccess.mdie = s.mdie := rfl
@[simp] theorem badAccess_lkp : s.badAccess.lkp = s.lkp := rfl
@[simp] theorem badAccess_ctx : s.badAccess.ctx = s.ctx := rfl
@[simp] theorem badAccess_dev : s.badAccess.dev = s.dev := rfl
@[simp] theorem badAccess_sec : s.badAccess.sec = s.sec := rfl
@[simp] theorem badAccess_cpl : s.badAccess.cpl = s.cpl := rfl
@[simp] theorem badAccess_ras : s.badAccess.ras = s.ras := rfl
@[simp] theorem badAccess_mgt : s.badAccess.mgt = s.mgt := rfl
@[simp] theorem badAccess_prf : s.badAccess.prf = s.prf := rfl
@[simp] theorem badAccess_sem : s.badAccess.sem = s.sem := rfl
@[simp] theorem badAccess_semRefused : s.badAccess.semRefused = s.semRefused := rfl
@[simp] theorem badAccess_semBroken : s.badAccess.semBroken = s.semBroken := rfl
@[simp] theorem badAccess_pwr : s.badAccess.pwr = s.pwr := rfl
@[simp] theorem badAccess_tap : s.badAccess.tap = s.tap := rfl
@[simp] theorem badAccess_board : s.badAccess.board = s.board := rfl
@[simp] theorem badAccess_shadow : s.badAccess.shadow = s.shadow := rfl

/-! ### The field that an operation changes -/

@[simp] theorem modReach_reach (n : Fin 16) (f : Reach → Reach) : (s.modReach n f).reach = s.reach.set n (f s.reach[n]) := rfl
@[simp] theorem modNmu_nmu (d : Fin 4) (f : Nmu → Nmu) : (s.modNmu d f).nmu = s.nmu.set d (f s.nmu[d]) := rfl
@[simp] theorem modMdie_mdie (d : Fin 4) (f : MDie → MDie) : (s.modMdie d f).mdie = s.mdie.set d (f s.mdie[d]) := rfl
@[simp] theorem badAccess_pci : s.badAccess.pci = { s.pci with badacc := stick32 s.pci.badacc 1 } := rfl
/-- Ordering its records changes no number that the next record takes. -/
@[simp] theorem orderRecords_seq (q : W32) : (s.orderRecords q).ras.seq = s.ras.seq := by
  unfold State.orderRecords; dsimp only; split <;> rfl
@[simp] theorem send_out (o : Out) : (s.send o).out = s.out ++ [o] := rfl
@[simp] theorem bump_fresh : s.bump.fresh = s.fresh + 1 := rfl
@[simp] theorem modCpl_cpl (f : Cpl → Cpl) : (s.modCpl f).cpl = f s.cpl := rfl
@[simp] theorem semRefuse_semRefused : s.semRefuse.semRefused = stick32 s.semRefused 1 := rfl
@[simp] theorem semOwn_sem (n : Fin 32) (o : BitVec 2) : (s.semOwn n o).sem = s.sem.set n { owner := o, since := s.time } := rfl

/-- A record that is raised takes the next number (16 R560). -/
@[simp] theorem raiseAt_seq (w : W64) (e : Ev) : (s.raiseAt w e).ras.seq = s.ras.seq + 1 := rfl
@[simp] theorem raise_seq (e : Ev) : (s.raise e).ras.seq = s.ras.seq + 1 := rfl

/-- The reach that changes, and another. -/
@[simp] theorem modReach_same (n : Fin 16) (f : Reach → Reach) : (s.modReach n f).reach[n] = f s.reach[n] := by
  simp [State.modReach]
theorem modReach_ne {n m : Fin 16} (h : m ≠ n) (f : Reach → Reach) : (s.modReach n f).reach[m] = s.reach[m] := by
  have : n.val ≠ m.val := fun e => h (Fin.ext e.symm)
  simp [State.modReach, Vector.getElem_set_ne, this]

/-- The NMU that changes, and another. -/
@[simp] theorem modNmu_same (d : Fin 4) (f : Nmu → Nmu) : (s.modNmu d f).nmu[d] = f s.nmu[d] := by
  simp [State.modNmu]
theorem modNmu_ne {d m : Fin 4} (h : m ≠ d) (f : Nmu → Nmu) : (s.modNmu d f).nmu[m] = s.nmu[m] := by
  have : d.val ≠ m.val := fun e => h (Fin.ext e.symm)
  simp [State.modNmu, Vector.getElem_set_ne, this]

/-- A unit that changes is what the change makes of it. -/
@[simp] theorem modU_unit (r : Res) (f : Machine.Unit → Machine.Unit) : (s.modU r f).unit r = f (s.unit r) := by
  cases r <;> simp [State.modU, State.unit, State.modReach, State.modNmu]

/-- Two changes of one unit are one change. -/
theorem modU_modU (r : Res) (f g : Machine.Unit → Machine.Unit) : (s.modU r f).modU r g = s.modU r fun u => g (f u) := by
  cases r <;> simp [State.modU, State.modReach, State.modNmu]

/-- A job's record after a change of it, and another's. -/
@[simp] theorem modJob_same (j : Nat) (f : JobRun → JobRun) : (s.modJob j f).jobRun j = f (s.jobRun j) := by
  simp [State.jobRun, State.modJob]
theorem modJob_ne {j k : Nat} (h : k ≠ j) (f : JobRun → JobRun) : (s.modJob j f).jobRun k = s.jobRun k := by
  simp only [State.jobRun, State.modJob]
  exact slook_sput_ne _ _ _ _ _ h

/-- A ring after a change of it, and another. -/
@[simp] theorem modEgr_same (e : Nat) (f : EgrRing → EgrRing) : (s.modEgr e f).egrRing e = f (s.egrRing e) := by
  simp [State.egrRing, State.modEgr]
theorem modEgr_ne {e k : Nat} (h : k ≠ e) (f : EgrRing → EgrRing) : (s.modEgr e f).egrRing k = s.egrRing k := by
  simp only [State.egrRing, State.modEgr]
  exact slook_sput_ne _ _ _ _ _ h

end Sys2Proof.Machine.Laws
end

