-- ==== Sys2Proof/Laws/Memory.lean ====
section
/-! SUPPORT. Laws of memory: a byte reads as it was last written, every other byte as before; every operation keeps the canonical
form; and what a write leaves as it was. -/

namespace Sys2Proof.Machine.Laws

open Sys2Proof.Machine

/-! ### Bytes in the map -/

/-- What a byte of the map is after bytes were put into it. -/
theorem slook_putBytes (m : List Host.Cell) (a : Nat) (bs : List Byte) (k : Nat) :
    slook 0 (putBytes m a bs) k = if a ≤ k ∧ k < a + bs.length then bs.getD (k - a) 0 else slook 0 m k := by
  induction bs generalizing m a with
  | nil => simp [putBytes, show ¬(a ≤ k ∧ k < a) by omega]
  | cons b bs ih =>
    rw [putBytes, ih, List.length_cons]
    by_cases h : k = a
    · subst h
      rw [if_neg (by omega), if_pos (by omega), slook_sput_same]
      simp
    · rw [slook_sput_ne _ _ _ _ _ h]
      by_cases h2 : a ≤ k ∧ k < a + (bs.length + 1)
      · rw [if_pos (by omega), if_pos h2, show k - a = k - (a + 1) + 1 by omega, List.getD_cons_succ]
      · rw [if_neg (by omega), if_neg h2]

/-- Putting bytes keeps the canonical form. -/
theorem putBytes_wf (m : List Host.Cell) (a : Nat) (bs : List Byte) (h : Memory.wf m) : Memory.wf (putBytes m a bs) := by
  induction bs generalizing m a with
  | nil => exact h
  | cons b bs ih => exact ih _ _ (sput_swf 0 m a b h)

/-! ### What a write leaves as it was -/

variable (s : State)

@[simp] theorem settleLine_pending (l : Nat) : (s.settleLine l).pending = s.pending := by unfold State.settleLine; split <;> rfl
@[simp] theorem settleLine_fresh (l : Nat) : (s.settleLine l).fresh = s.fresh := by unfold State.settleLine; split <;> rfl
@[simp] theorem settleLine_time (l : Nat) : (s.settleLine l).time = s.time := by unfold State.settleLine; split <;> rfl
@[simp] theorem settleLine_out (l : Nat) : (s.settleLine l).out = s.out := by unfold State.settleLine; split <;> rfl
@[simp] theorem settleLine_reach (l : Nat) : (s.settleLine l).reach = s.reach := by unfold State.settleLine; split <;> rfl
@[simp] theorem settleLine_nmu (l : Nat) : (s.settleLine l).nmu = s.nmu := by unfold State.settleLine; split <;> rfl
@[simp] theorem settleLine_lkp (l : Nat) : (s.settleLine l).lkp = s.lkp := by unfold State.settleLine; split <;> rfl
@[simp] theorem settleLine_ctx (l : Nat) : (s.settleLine l).ctx = s.ctx := by unfold State.settleLine; split <;> rfl
@[simp] theorem settleLine_dev (l : Nat) : (s.settleLine l).dev = s.dev := by unfold State.settleLine; split <;> rfl
@[simp] theorem settleLine_sec (l : Nat) : (s.settleLine l).sec = s.sec := by unfold State.settleLine; split <;> rfl
@[simp] theorem settleLine_pci (l : Nat) : (s.settleLine l).pci = s.pci := by unfold State.settleLine; split <;> rfl
@[simp] theorem settleLine_prf (l : Nat) : (s.settleLine l).prf = s.prf := by unfold State.settleLine; split <;> rfl
@[simp] theorem settleLine_sem (l : Nat) : (s.settleLine l).sem = s.sem := by unfold State.settleLine; split <;> rfl
@[simp] theorem settleLine_semRefused (l : Nat) : (s.settleLine l).semRefused = s.semRefused := by unfold State.settleLine; split <;> rfl
@[simp] theorem settleLine_semBroken (l : Nat) : (s.settleLine l).semBroken = s.semBroken := by unfold State.settleLine; split <;> rfl
@[simp] theorem settleLine_pwr (l : Nat) : (s.settleLine l).pwr = s.pwr := by unfold State.settleLine; split <;> rfl
@[simp] theorem settleLine_tap (l : Nat) : (s.settleLine l).tap = s.tap := by unfold State.settleLine; split <;> rfl
@[simp] theorem settleLine_board (l : Nat) : (s.settleLine l).board = s.board := by unfold State.settleLine; split <;> rfl
@[simp] theorem settleLine_shadow (l : Nat) : (s.settleLine l).shadow = s.shadow := by unfold State.settleLine; split <;> rfl
@[simp] theorem settleLine_poison (l : Nat) : (s.settleLine l).poison = s.poison := by unfold State.settleLine; split <;> rfl
@[simp] theorem settleLine_lineKey (l : Nat) : (s.settleLine l).lineKey = s.lineKey := by unfold State.settleLine; split <;> rfl
@[simp] theorem settleLine_mdie (l : Nat) : (s.settleLine l).mdie = s.mdie := by unfold State.settleLine; split <;> rfl
@[simp] theorem settleLine_ras (l : Nat) : (s.settleLine l).ras = s.ras := by unfold State.settleLine; split <;> rfl
@[simp] theorem settleLine_mgt (l : Nat) : (s.settleLine l).mgt = s.mgt := by unfold State.settleLine; split <;> rfl
@[simp] theorem settleLine_cpl (l : Nat) : (s.settleLine l).cpl = s.cpl := by unfold State.settleLine; split <;> rfl

/-- A whole-line write changes quarantine alone, and may raise an event (11 R368). -/
theorem rewritten_cases (l : Nat) : ∃ m : Vector MDie 4, s.rewritten l = { s with mdie := m } ∨
    ∃ e, s.rewritten l = ({ s with mdie := m } : State).raise e := by
  by_cases h1 : s.quarantined l = true
  · let t : State := [0, 1, 2, 3].foldl (fun (s : State) (d : Fin 4) => s.modMdie d fun m => m.rewrite l (s.blockLinesOf (l / 64) d)) s
    have ht : t = { s with mdie := t.mdie } := rfl
    have he : s.rewritten l = if t.quarantined l then t
        else t.raise { code := 0x0306, kind := 2, part := ((t.mdieOf (64 * l)).getD 0).val, addr := l / 64 * 4096 } := by
      rw [State.rewritten, if_pos h1]
    refine ⟨t.mdie, ?_⟩
    rw [he]
    by_cases h2 : t.quarantined l = true
    · rw [if_pos h2]; exact .inl ht
    · rw [if_neg h2]; exact .inr ⟨_, rfl⟩
  · exact ⟨s.mdie, .inl (by rw [State.rewritten, if_neg h1])⟩

@[simp] theorem rewritten_pending (l : Nat) : (s.rewritten l).pending = s.pending := by
  obtain ⟨m, h | ⟨e, h⟩⟩ := rewritten_cases s l
  · rw [h]
  · rw [h]; rfl
@[simp] theorem rewritten_fresh (l : Nat) : (s.rewritten l).fresh = s.fresh := by
  obtain ⟨m, h | ⟨e, h⟩⟩ := rewritten_cases s l
  · rw [h]
  · rw [h]; rfl
@[simp] theorem rewritten_time (l : Nat) : (s.rewritten l).time = s.time := by
  obtain ⟨m, h | ⟨e, h⟩⟩ := rewritten_cases s l
  · rw [h]
  · rw [h]; rfl
@[simp] theorem rewritten_out (l : Nat) : (s.rewritten l).out = s.out := by
  obtain ⟨m, h | ⟨e, h⟩⟩ := rewritten_cases s l
  · rw [h]
  · rw [h]; rfl
@[simp] theorem rewritten_reach (l : Nat) : (s.rewritten l).reach = s.reach := by
  obtain ⟨m, h | ⟨e, h⟩⟩ := rewritten_cases s l
  · rw [h]
  · rw [h]; rfl
@[simp] theorem rewritten_nmu (l : Nat) : (s.rewritten l).nmu = s.nmu := by
  obtain ⟨m, h | ⟨e, h⟩⟩ := rewritten_cases s l
  · rw [h]
  · rw [h]; rfl
@[simp] theorem rewritten_lkp (l : Nat) : (s.rewritten l).lkp = s.lkp := by
  obtain ⟨m, h | ⟨e, h⟩⟩ := rewritten_cases s l
  · rw [h]
  · rw [h]; rfl
@[simp] theorem rewritten_ctx (l : Nat) : (s.rewritten l).ctx = s.ctx := by
  obtain ⟨m, h | ⟨e, h⟩⟩ := rewritten_cases s l
  · rw [h]
  · rw [h]; rfl
@[simp] theorem rewritten_dev (l : Nat) : (s.rewritten l).dev = s.dev := by
  obtain ⟨m, h | ⟨e, h⟩⟩ := rewritten_cases s l
  · rw [h]
  · rw [h]; rfl
@[simp] theorem rewritten_sec (l : Nat) : (s.rewritten l).sec = s.sec := by
  obtain ⟨m, h | ⟨e, h⟩⟩ := rewritten_cases s l
  · rw [h]
  · rw [h]; rfl
@[simp] theorem rewritten_pci (l : Nat) : (s.rewritten l).pci = s.pci := by
  obtain ⟨m, h | ⟨e, h⟩⟩ := rewritten_cases s l
  · rw [h]
  · rw [h]; rfl
@[simp] theorem rewritten_prf (l : Nat) : (s.rewritten l).prf = s.prf := by
  obtain ⟨m, h | ⟨e, h⟩⟩ := rewritten_cases s l
  · rw [h]
  · rw [h]; rfl
@[simp] theorem rewritten_sem (l : Nat) : (s.rewritten l).sem = s.sem := by
  obtain ⟨m, h | ⟨e, h⟩⟩ := rewritten_cases s l
  · rw [h]
  · rw [h]; rfl
@[simp] theorem rewritten_semRefused (l : Nat) : (s.rewritten l).semRefused = s.semRefused := by
  obtain ⟨m, h | ⟨e, h⟩⟩ := rewritten_cases s l
  · rw [h]
  · rw [h]; rfl
@[simp] theorem rewritten_semBroken (l : Nat) : (s.rewritten l).semBroken = s.semBroken := by
  obtain ⟨m, h | ⟨e, h⟩⟩ := rewritten_cases s l
  · rw [h]
  · rw [h]; rfl
@[simp] theorem rewritten_pwr (l : Nat) : (s.rewritten l).pwr = s.pwr := by
  obtain ⟨m, h | ⟨e, h⟩⟩ := rewritten_cases s l
  · rw [h]
  · rw [h]; rfl
@[simp] theorem rewritten_tap (l : Nat) : (s.rewritten l).tap = s.tap := by
  obtain ⟨m, h | ⟨e, h⟩⟩ := rewritten_cases s l
  · rw [h]
  · rw [h]; rfl
@[simp] theorem rewritten_board (l : Nat) : (s.rewritten l).board = s.board := by
  obtain ⟨m, h | ⟨e, h⟩⟩ := rewritten_cases s l
  · rw [h]
  · rw [h]; rfl
@[simp] theorem rewritten_shadow (l : Nat) : (s.rewritten l).shadow = s.shadow := by
  obtain ⟨m, h | ⟨e, h⟩⟩ := rewritten_cases s l
  · rw [h]
  · rw [h]; rfl
@[simp] theorem rewritten_mem (l : Nat) : (s.rewritten l).mem = s.mem := by
  obtain ⟨m, h | ⟨e, h⟩⟩ := rewritten_cases s l
  · rw [h]
  · rw [h]; rfl
@[simp] theorem rewritten_poison (l : Nat) : (s.rewritten l).poison = s.poison := by
  obtain ⟨m, h | ⟨e, h⟩⟩ := rewritten_cases s l
  · rw [h]
  · rw [h]; rfl
@[simp] theorem rewritten_lineKey (l : Nat) : (s.rewritten l).lineKey = s.lineKey := by
  obtain ⟨m, h | ⟨e, h⟩⟩ := rewritten_cases s l
  · rw [h]
  · rw [h]; rfl

/-- A write within a line changes memory, marks, keys and quarantine, and may raise an event (11 R365, R368). -/
theorem writeLine_cases (a : Nat) (bs : List Byte) (p : Bool) : ∃ (m : List Host.Cell) (k : List Nat) (q : List (Nat × Nat)) (d : Vector MDie 4),
    s.writeLine a bs p = { s with mem := m, poison := k, lineKey := q, mdie := d } ∨
      ∃ e, s.writeLine a bs p = ({ s with mem := m, poison := k, lineKey := q, mdie := d } : State).raise e := by
  by_cases h : bs.length = 64
  · let t : State := { s with
      mem := putBytes s.mem a bs
      poison := if p then setIns (a / 64) s.poison else setDel (a / 64) s.poison
      lineKey := if 64 * (a / 64) < s.dramEnd then sput 0 s.lineKey (a / 64) (s.keyTag (a / 64)) else s.lineKey }
    have ht : s.writeLine a bs p = t.rewritten (a / 64) := by
      unfold State.writeLine
      simp only [h, decide_true, if_true]
      rfl
    obtain ⟨d, hd⟩ := rewritten_cases t (a / 64)
    exact ⟨t.mem, t.poison, t.lineKey, d, by rw [ht]; exact hd⟩
  · unfold State.writeLine
    simp only [h, decide_false, if_false, Bool.false_eq_true]
    by_cases hk : s.keyOk (a / 64) = true
    · have hs : s.settleLine (a / 64) = s := by rw [State.settleLine, if_pos hk]
      rw [hs]
      exact ⟨_, _, _, s.mdie, .inl rfl⟩
    · have hs : s.settleLine (a / 64) = { s with mem := putBytes s.mem (64 * (a / 64)) (s.read (64 * (a / 64)) 64) } := by
        rw [State.settleLine, if_neg hk]
      rw [hs]
      exact ⟨_, _, _, s.mdie, .inl rfl⟩

@[simp] theorem writeLine_pending (a : Nat) (bs : List Byte) (p : Bool) : (s.writeLine a bs p).pending = s.pending := by
  obtain ⟨m, k, q, d, h | ⟨e, h⟩⟩ := writeLine_cases s a bs p
  · rw [h]
  · rw [h]; rfl
@[simp] theorem writeLine_fresh (a : Nat) (bs : List Byte) (p : Bool) : (s.writeLine a bs p).fresh = s.fresh := by
  obtain ⟨m, k, q, d, h | ⟨e, h⟩⟩ := writeLine_cases s a bs p
  · rw [h]
  · rw [h]; rfl
@[simp] theorem writeLine_time (a : Nat) (bs : List Byte) (p : Bool) : (s.writeLine a bs p).time = s.time := by
  obtain ⟨m, k, q, d, h | ⟨e, h⟩⟩ := writeLine_cases s a bs p
  · rw [h]
  · rw [h]; rfl
@[simp] theorem writeLine_out (a : Nat) (bs : List Byte) (p : Bool) : (s.writeLine a bs p).out = s.out := by
  obtain ⟨m, k, q, d, h | ⟨e, h⟩⟩ := writeLine_cases s a bs p
  · rw [h]
  · rw [h]; rfl
@[simp] theorem writeLine_reach (a : Nat) (bs : List Byte) (p : Bool) : (s.writeLine a bs p).reach = s.reach := by
  obtain ⟨m, k, q, d, h | ⟨e, h⟩⟩ := writeLine_cases s a bs p
  · rw [h]
  · rw [h]; rfl
@[simp] theorem writeLine_nmu (a : Nat) (bs : List Byte) (p : Bool) : (s.writeLine a bs p).nmu = s.nmu := by
  obtain ⟨m, k, q, d, h | ⟨e, h⟩⟩ := writeLine_cases s a bs p
  · rw [h]
  · rw [h]; rfl
@[simp] theorem writeLine_lkp (a : Nat) (bs : List Byte) (p : Bool) : (s.writeLine a bs p).lkp = s.lkp := by
  obtain ⟨m, k, q, d, h | ⟨e, h⟩⟩ := writeLine_cases s a bs p
  · rw [h]
  · rw [h]; rfl
@[simp] theorem writeLine_ctx (a : Nat) (bs : List Byte) (p : Bool) : (s.writeLine a bs p).ctx = s.ctx := by
  obtain ⟨m, k, q, d, h | ⟨e, h⟩⟩ := writeLine_cases s a bs p
  · rw [h]
  · rw [h]; rfl
@[simp] theorem writeLine_dev (a : Nat) (bs : List Byte) (p : Bool) : (s.writeLine a bs p).dev = s.dev := by
  obtain ⟨m, k, q, d, h | ⟨e, h⟩⟩ := writeLine_cases s a bs p
  · rw [h]
  · rw [h]; rfl
@[simp] theorem writeLine_sec (a : Nat) (bs : List Byte) (p : Bool) : (s.writeLine a bs p).sec = s.sec := by
  obtain ⟨m, k, q, d, h | ⟨e, h⟩⟩ := writeLine_cases s a bs p
  · rw [h]
  · rw [h]; rfl
@[simp] theorem writeLine_pci (a : Nat) (bs : List Byte) (p : Bool) : (s.writeLine a bs p).pci = s.pci := by
  obtain ⟨m, k, q, d, h | ⟨e, h⟩⟩ := writeLine_cases s a bs p
  · rw [h]
  · rw [h]; rfl
@[simp] theorem writeLine_prf (a : Nat) (bs : List Byte) (p : Bool) : (s.writeLine a bs p).prf = s.prf := by
  obtain ⟨m, k, q, d, h | ⟨e, h⟩⟩ := writeLine_cases s a bs p
  · rw [h]
  · rw [h]; rfl
@[simp] theorem writeLine_sem (a : Nat) (bs : List Byte) (p : Bool) : (s.writeLine a bs p).sem = s.sem := by
  obtain ⟨m, k, q, d, h | ⟨e, h⟩⟩ := writeLine_cases s a bs p
  · rw [h]
  · rw [h]; rfl
@[simp] theorem writeLine_semRefused (a : Nat) (bs : List Byte) (p : Bool) : (s.writeLine a bs p).semRefused = s.semRefused := by
  obtain ⟨m, k, q, d, h | ⟨e, h⟩⟩ := writeLine_cases s a bs p
  · rw [h]
  · rw [h]; rfl
@[simp] theorem writeLine_semBroken (a : Nat) (bs : List Byte) (p : Bool) : (s.writeLine a bs p).semBroken = s.semBroken := by
  obtain ⟨m, k, q, d, h | ⟨e, h⟩⟩ := writeLine_cases s a bs p
  · rw [h]
  · rw [h]; rfl
@[simp] theorem writeLine_pwr (a : Nat) (bs : List Byte) (p : Bool) : (s.writeLine a bs p).pwr = s.pwr := by
  obtain ⟨m, k, q, d, h | ⟨e, h⟩⟩ := writeLine_cases s a bs p
  · rw [h]
  · rw [h]; rfl
@[simp] theorem writeLine_tap (a : Nat) (bs : List Byte) (p : Bool) : (s.writeLine a bs p).tap = s.tap := by
  obtain ⟨m, k, q, d, h | ⟨e, h⟩⟩ := writeLine_cases s a bs p
  · rw [h]
  · rw [h]; rfl
@[simp] theorem writeLine_board (a : Nat) (bs : List Byte) (p : Bool) : (s.writeLine a bs p).board = s.board := by
  obtain ⟨m, k, q, d, h | ⟨e, h⟩⟩ := writeLine_cases s a bs p
  · rw [h]
  · rw [h]; rfl
@[simp] theorem writeLine_shadow (a : Nat) (bs : List Byte) (p : Bool) : (s.writeLine a bs p).shadow = s.shadow := by
  obtain ⟨m, k, q, d, h | ⟨e, h⟩⟩ := writeLine_cases s a bs p
  · rw [h]
  · rw [h]; rfl

@[simp] theorem writeGo_pending (a : Nat) (bs : List Byte) (p : Bool) (k : Nat) : (s.writeGo a bs p k).pending = s.pending := by
  induction k generalizing s a bs with
  | zero => rfl
  | succ k ih => unfold State.writeGo; split
                 · rfl
                 · rw [ih]; simp
@[simp] theorem write_pending (a : Nat) (bs : List Byte) (p : Bool) : (s.write a bs p).pending = s.pending := by simp [State.write]
@[simp] theorem writeGo_fresh (a : Nat) (bs : List Byte) (p : Bool) (k : Nat) : (s.writeGo a bs p k).fresh = s.fresh := by
  induction k generalizing s a bs with
  | zero => rfl
  | succ k ih => unfold State.writeGo; split
                 · rfl
                 · rw [ih]; simp
@[simp] theorem write_fresh (a : Nat) (bs : List Byte) (p : Bool) : (s.write a bs p).fresh = s.fresh := by simp [State.write]
@[simp] theorem writeGo_time (a : Nat) (bs : List Byte) (p : Bool) (k : Nat) : (s.writeGo a bs p k).time = s.time := by
  induction k generalizing s a bs with
  | zero => rfl
  | succ k ih => unfold State.writeGo; split
                 · rfl
                 · rw [ih]; simp
@[simp] theorem write_time (a : Nat) (bs : List Byte) (p : Bool) : (s.write a bs p).time = s.time := by simp [State.write]
@[simp] theorem writeGo_out (a : Nat) (bs : List Byte) (p : Bool) (k : Nat) : (s.writeGo a bs p k).out = s.out := by
  induction k generalizing s a bs with
  | zero => rfl
  | succ k ih => unfold State.writeGo; split
                 · rfl
                 · rw [ih]; simp
@[simp] theorem write_out (a : Nat) (bs : List Byte) (p : Bool) : (s.write a bs p).out = s.out := by simp [State.write]
@[simp] theorem writeGo_reach (a : Nat) (bs : List Byte) (p : Bool) (k : Nat) : (s.writeGo a bs p k).reach = s.reach := by
  induction k generalizing s a bs with
  | zero => rfl
  | succ k ih => unfold State.writeGo; split
                 · rfl
                 · rw [ih]; simp
@[simp] theorem write_reach (a : Nat) (bs : List Byte) (p : Bool) : (s.write a bs p).reach = s.reach := by simp [State.write]
@[simp] theorem writeGo_nmu (a : Nat) (bs : List Byte) (p : Bool) (k : Nat) : (s.writeGo a bs p k).nmu = s.nmu := by
  induction k generalizing s a bs with
  | zero => rfl
  | succ k ih => unfold State.writeGo; split
                 · rfl
                 · rw [ih]; simp
@[simp] theorem write_nmu (a : Nat) (bs : List Byte) (p : Bool) : (s.write a bs p).nmu = s.nmu := by simp [State.write]
@[simp] theorem writeGo_lkp (a : Nat) (bs : List Byte) (p : Bool) (k : Nat) : (s.writeGo a bs p k).lkp = s.lkp := by
  induction k generalizing s a bs with
  | zero => rfl
  | succ k ih => unfold State.writeGo; split
                 · rfl
                 · rw [ih]; simp
@[simp] theorem write_lkp (a : Nat) (bs : List Byte) (p : Bool) : (s.write a bs p).lkp = s.lkp := by simp [State.write]
@[simp] theorem writeGo_ctx (a : Nat) (bs : List Byte) (p : Bool) (k : Nat) : (s.writeGo a bs p k).ctx = s.ctx := by
  induction k generalizing s a bs with
  | zero => rfl
  | succ k ih => unfold State.writeGo; split
                 · rfl
                 · rw [ih]; simp
@[simp] theorem write_ctx (a : Nat) (bs : List Byte) (p : Bool) : (s.write a bs p).ctx = s.ctx := by simp [State.write]
@[simp] theorem writeGo_dev (a : Nat) (bs : List Byte) (p : Bool) (k : Nat) : (s.writeGo a bs p k).dev = s.dev := by
  induction k generalizing s a bs with
  | zero => rfl
  | succ k ih => unfold State.writeGo; split
                 · rfl
                 · rw [ih]; simp
@[simp] theorem write_dev (a : Nat) (bs : List Byte) (p : Bool) : (s.write a bs p).dev = s.dev := by simp [State.write]
@[simp] theorem writeGo_sec (a : Nat) (bs : List Byte) (p : Bool) (k : Nat) : (s.writeGo a bs p k).sec = s.sec := by
  induction k generalizing s a bs with
  | zero => rfl
  | succ k ih => unfold State.writeGo; split
                 · rfl
                 · rw [ih]; simp
@[simp] theorem write_sec (a : Nat) (bs : List Byte) (p : Bool) : (s.write a bs p).sec = s.sec := by simp [State.write]
@[simp] theorem writeGo_pci (a : Nat) (bs : List Byte) (p : Bool) (k : Nat) : (s.writeGo a bs p k).pci = s.pci := by
  induction k generalizing s a bs with
  | zero => rfl
  | succ k ih => unfold State.writeGo; split
                 · rfl
                 · rw [ih]; simp
@[simp] theorem write_pci (a : Nat) (bs : List Byte) (p : Bool) : (s.write a bs p).pci = s.pci := by simp [State.write]
@[simp] theorem writeGo_prf (a : Nat) (bs : List Byte) (p : Bool) (k : Nat) : (s.writeGo a bs p k).prf = s.prf := by
  induction k generalizing s a bs with
  | zero => rfl
  | succ k ih => unfold State.writeGo; split
                 · rfl
                 · rw [ih]; simp
@[simp] theorem write_prf (a : Nat) (bs : List Byte) (p : Bool) : (s.write a bs p).prf = s.prf := by simp [State.write]
@[simp] theorem writeGo_sem (a : Nat) (bs : List Byte) (p : Bool) (k : Nat) : (s.writeGo a bs p k).sem = s.sem := by
  induction k generalizing s a bs with
  | zero => rfl
  | succ k ih => unfold State.writeGo; split
                 · rfl
                 · rw [ih]; simp
@[simp] theorem write_sem (a : Nat) (bs : List Byte) (p : Bool) : (s.write a bs p).sem = s.sem := by simp [State.write]
@[simp] theorem writeGo_semRefused (a : Nat) (bs : List Byte) (p : Bool) (k : Nat) : (s.writeGo a bs p k).semRefused = s.semRefused := by
  induction k generalizing s a bs with
  | zero => rfl
  | succ k ih => unfold State.writeGo; split
                 · rfl
                 · rw [ih]; simp
@[simp] theorem write_semRefused (a : Nat) (bs : List Byte) (p : Bool) : (s.write a bs p).semRefused = s.semRefused := by simp [State.write]
@[simp] theorem writeGo_semBroken (a : Nat) (bs : List Byte) (p : Bool) (k : Nat) : (s.writeGo a bs p k).semBroken = s.semBroken := by
  induction k generalizing s a bs with
  | zero => rfl
  | succ k ih => unfold State.writeGo; split
                 · rfl
                 · rw [ih]; simp
@[simp] theorem write_semBroken (a : Nat) (bs : List Byte) (p : Bool) : (s.write a bs p).semBroken = s.semBroken := by simp [State.write]
@[simp] theorem writeGo_pwr (a : Nat) (bs : List Byte) (p : Bool) (k : Nat) : (s.writeGo a bs p k).pwr = s.pwr := by
  induction k generalizing s a bs with
  | zero => rfl
  | succ k ih => unfold State.writeGo; split
                 · rfl
                 · rw [ih]; simp
@[simp] theorem write_pwr (a : Nat) (bs : List Byte) (p : Bool) : (s.write a bs p).pwr = s.pwr := by simp [State.write]
@[simp] theorem writeGo_tap (a : Nat) (bs : List Byte) (p : Bool) (k : Nat) : (s.writeGo a bs p k).tap = s.tap := by
  induction k generalizing s a bs with
  | zero => rfl
  | succ k ih => unfold State.writeGo; split
                 · rfl
                 · rw [ih]; simp
@[simp] theorem write_tap (a : Nat) (bs : List Byte) (p : Bool) : (s.write a bs p).tap = s.tap := by simp [State.write]
@[simp] theorem writeGo_board (a : Nat) (bs : List Byte) (p : Bool) (k : Nat) : (s.writeGo a bs p k).board = s.board := by
  induction k generalizing s a bs with
  | zero => rfl
  | succ k ih => unfold State.writeGo; split
                 · rfl
                 · rw [ih]; simp
@[simp] theorem write_board (a : Nat) (bs : List Byte) (p : Bool) : (s.write a bs p).board = s.board := by simp [State.write]
@[simp] theorem writeGo_shadow (a : Nat) (bs : List Byte) (p : Bool) (k : Nat) : (s.writeGo a bs p k).shadow = s.shadow := by
  induction k generalizing s a bs with
  | zero => rfl
  | succ k ih => unfold State.writeGo; split
                 · rfl
                 · rw [ih]; simp
@[simp] theorem write_shadow (a : Nat) (bs : List Byte) (p : Bool) : (s.write a bs p).shadow = s.shadow := by simp [State.write]

/-! ### Reading after writing -/

theorem keyTag_congr {s t : State} (hs : t.sec = s.sec) (hc : t.ctx = s.ctx) (l : Nat) : t.keyTag l = s.keyTag l := by
  simp [State.keyTag, hs, hc]

theorem dramEnd_congr {s t : State} (hd : t.dev = s.dev) : t.dramEnd = s.dramEnd := by rw [State.dramEnd, State.dramEnd, hd]

theorem keyOk_congr {s t : State} (hs : t.sec = s.sec) (hc : t.ctx = s.ctx) (hd : t.dev = s.dev) {l : Nat}
    (hk : slook 0 t.lineKey l = slook 0 s.lineKey l) : t.keyOk l = s.keyOk l := by
  rw [State.keyOk, State.keyOk, dramEnd_congr hd, keyTag_congr hs hc, hk]

theorem getElem?_read (a n i : Nat) : (s.read a n)[i]? = if i < n then some (s.byte (a + i)) else none := by
  by_cases h : i < n <;> simp [State.read, h]

@[simp] theorem length_read (a n : Nat) : (s.read a n).length = n := by simp [State.read]

/-- A line that is settled reads as it did. -/
theorem settled_mem (l b : Nat) (hb : b / 64 = l) : slook 0 (s.settleLine l).mem b = s.byte b := by
  unfold State.settleLine State.byte
  rw [hb]
  split
  · rfl
  · rw [slook_putBytes, if_pos (by simp; omega), List.getD_eq_getElem?_getD, getElem?_read, if_pos (by omega),
      show 64 * l + (b - 64 * l) = b by omega]
    simp [State.byte, *]

theorem settled_other (l b : Nat) (hb : b / 64 ≠ l) : slook 0 (s.settleLine l).mem b = slook 0 s.mem b := by
  unfold State.settleLine
  split
  · rfl
  · rw [slook_putBytes, if_neg (by simp; omega)]

/-- The map after a write within a line. -/
theorem writeLine_mem (a : Nat) (bs : List Byte) (p : Bool) :
    (s.writeLine a bs p).mem = putBytes (if bs.length = 64 then s else s.settleLine (a / 64)).mem a bs := by
  unfold State.writeLine
  by_cases h : bs.length = 64 <;> simp [h]

theorem writeLine_lineKey (a : Nat) (bs : List Byte) (p : Bool) : (s.writeLine a bs p).lineKey =
    if 64 * (a / 64) < s.dramEnd then sput 0 s.lineKey (a / 64) (s.keyTag (a / 64)) else s.lineKey := by
  unfold State.writeLine
  by_cases h : bs.length = 64
  · simp [h]
  · simp [h, dramEnd_congr (settleLine_dev s _), keyTag_congr (settleLine_sec s _) (settleLine_ctx s _)]

/-- Bytes written within a line read as written; every other byte reads as before (15 R509, R511). -/
theorem byte_writeLine (a : Nat) (bs : List Byte) (p : Bool) (b : Nat) (fit : a % 64 + bs.length ≤ 64) :
    (s.writeLine a bs p).byte b = if a ≤ b ∧ b < a + bs.length then bs.getD (b - a) 0 else s.byte b := by
  by_cases hb : b / 64 = a / 64
  · have hk : (s.writeLine a bs p).keyOk (b / 64) = true := by
      unfold State.keyOk
      rw [writeLine_lineKey, hb, keyTag_congr (writeLine_sec s _ _ _) (writeLine_ctx s _ _ _)]
      rw [dramEnd_congr (writeLine_dev s _ _ _), Bool.or_eq_true, decide_eq_true_eq, decide_eq_true_eq]
      by_cases h : 64 * (a / 64) < s.dramEnd
      · right; rw [if_pos h, slook_sput_same]
      · left; omega
    rw [State.byte, hk, if_pos rfl, writeLine_mem, slook_putBytes]
    by_cases hin : a ≤ b ∧ b < a + bs.length
    · rw [if_pos hin, if_pos hin]
    · rw [if_neg hin, if_neg hin, if_neg (by omega), settled_mem s _ _ hb]
  · have hin : ¬(a ≤ b ∧ b < a + bs.length) := by omega
    have hk : (s.writeLine a bs p).keyOk (b / 64) = s.keyOk (b / 64) := by
      refine keyOk_congr (writeLine_sec s _ _ _) (writeLine_ctx s _ _ _) (writeLine_dev s _ _ _) ?_
      rw [writeLine_lineKey]
      split
      · exact slook_sput_ne _ _ _ _ _ hb
      · rfl
    rw [if_neg hin, State.byte, State.byte, hk, writeLine_mem, slook_putBytes, if_neg hin, writeLine_fresh]
    split
    · split
      · rfl
      · exact settled_other s _ _ hb
    · rfl

theorem byte_writeGo (a : Nat) (bs : List Byte) (p : Bool) (k b : Nat) (h : a % 64 + bs.length ≤ 64 * k) :
    (s.writeGo a bs p k).byte b = if a ≤ b ∧ b < a + bs.length then bs.getD (b - a) 0 else s.byte b := by
  induction k generalizing s a bs with
  | zero => rw [if_neg (by omega)]; rfl
  | succ k ih =>
    unfold State.writeGo
    by_cases he : bs = []
    · subst he
      simp [show ¬(a ≤ b ∧ b < a) by omega]
    · have hne : bs.isEmpty = false := by simp [he]
      have hl : (bs.take (64 - a % 64)).length = min (64 - a % 64) bs.length := List.length_take
      rw [hne]
      simp only [Bool.false_eq_true, if_false]
      rw [ih, byte_writeLine _ _ _ _ _ (by omega)]
      · simp only [List.length_drop, hl]
        by_cases h1 : a + (64 - a % 64) ≤ b ∧ b < a + (64 - a % 64) + (bs.length - (64 - a % 64))
        · rw [if_pos h1, if_pos (by omega), List.getD_eq_getElem?_getD, List.getElem?_drop, List.getD_eq_getElem?_getD,
            show 64 - a % 64 + (b - (a + (64 - a % 64))) = b - a by omega]
        · rw [if_neg h1]
          by_cases h2 : a ≤ b ∧ b < a + min (64 - a % 64) bs.length
          · rw [if_pos h2, if_pos (by omega), List.getD_eq_getElem?_getD, List.getD_eq_getElem?_getD, List.getElem?_take_of_lt (by omega)]
          · rw [if_neg h2, if_neg (by omega)]
      · simp only [List.length_drop]
        omega

/-- Bytes written read as written, and every other byte as before. -/
theorem byte_write (a : Nat) (bs : List Byte) (p : Bool) (b : Nat) :
    (s.write a bs p).byte b = if a ≤ b ∧ b < a + bs.length then bs.getD (b - a) 0 else s.byte b :=
  byte_writeGo s a bs p _ b (by omega)

/-- The bytes written stand at their address. -/
theorem write_bytesAre (a : Nat) (bs : List Byte) (p : Bool) : BytesAre (s.write a bs p) a bs := by
  intro i h
  rw [byte_write, if_pos (by omega), Nat.add_sub_cancel_left, List.getD_eq_getElem?_getD, List.getElem?_eq_getElem h]
  rfl

/-- A write changes no byte outside it. -/
theorem write_bytesKept (a : Nat) (bs : List Byte) (p : Bool) : BytesKept s (s.write a bs p) [(a, bs.length)] := by
  intro b _ h
  have := h _ (List.mem_singleton.mpr rfl)
  rw [byte_write, if_neg (by simp at this; omega)]

/-- A read of what was just written gives it back. -/
theorem read_write (a : Nat) (bs : List Byte) (p : Bool) : (s.write a bs p).read a bs.length = bs := by
  apply List.ext_getElem?
  intro i
  rw [getElem?_read]
  split
  · next h => exact (congrArg some (write_bytesAre s a bs p i h)).trans (List.getElem?_eq_getElem h).symm
  · next h => rw [List.getElem?_eq_none (by omega)]

/-! ### The canonical form -/

theorem settleLine_mem (l : Nat) :
    (s.settleLine l).mem = if s.keyOk l = true then s.mem else putBytes s.mem (64 * l) (s.read (64 * l) 64) := by
  by_cases hk : s.keyOk l = true
  · rw [State.settleLine, if_pos hk, if_pos hk]
  · rw [State.settleLine, if_neg hk, if_neg hk]

theorem settleLine_wf (l : Nat) (h : Memory.wf s.mem) : Memory.wf (s.settleLine l).mem := by
  rw [settleLine_mem]
  generalize s.read (64 * l) 64 = bs
  split
  · exact h
  · exact putBytes_wf _ _ _ h

theorem writeLine_wf (a : Nat) (bs : List Byte) (p : Bool) (h : Memory.wf s.mem) : Memory.wf (s.writeLine a bs p).mem := by
  rw [writeLine_mem]
  apply putBytes_wf
  split
  · exact h
  · exact settleLine_wf s _ h

theorem writeGo_wf (a : Nat) (bs : List Byte) (p : Bool) (k : Nat) (h : Memory.wf s.mem) : Memory.wf (s.writeGo a bs p k).mem := by
  induction k generalizing s a bs with
  | zero => exact h
  | succ k ih =>
    unfold State.writeGo
    split
    · exact h
    · exact ih _ _ _ (writeLine_wf s _ _ _ h)

/-- A write keeps memory in canonical form. -/
theorem write_wf (a : Nat) (bs : List Byte) (p : Bool) (h : Memory.wf s.mem) : Memory.wf (s.write a bs p).mem :=
  writeGo_wf s a bs p _ h

theorem writeNat_wf (a n x : Nat) (p : Bool) (h : Memory.wf s.mem) : Memory.wf (s.writeNat a n x p).mem := write_wf s _ _ _ h

theorem markedGo_wf (a : Nat) (bs : List MByte) (k : Nat) (h : Memory.wf s.mem) : Memory.wf (s.markedGo a bs k).mem := by
  induction k generalizing s a bs with
  | zero => exact h
  | succ k ih =>
    unfold State.markedGo
    split
    · exact h
    · exact ih _ _ _ (writeLine_wf s _ _ _ h)

/-- A barge's write keeps memory in canonical form. -/
theorem markedWrite_wf (a : Nat) (bs : List MByte) (h : Memory.wf s.mem) : Memory.wf (s.markedWrite a bs).mem := markedGo_wf s a bs _ h

/-- What every step of a fold keeps, the fold keeps. -/
theorem foldl_keeps {α β : Type} (P : State → α) (g : State → β → State) (h : ∀ s x, P (g s x) = P s) (l : List β) (s : State) :
    P (l.foldl g s) = P s := by
  induction l generalizing s with
  | nil => rfl
  | cons x l ih => rw [List.foldl_cons, ih, h]

/-- Entering a block on several M-dies touches no byte. -/
theorem addQuars_mem (b : Nat) (ds : List (Fin 4)) :
    (ds.foldl (fun (s : State) (x : Fin 4) => s.modMdie x fun m => m.addQuar b) s).mem = s.mem :=
  foldl_keeps (·.mem) (fun (s : State) (x : Fin 4) => s.modMdie x fun m => m.addQuar b) (fun _ _ => rfl) ds s

/-- What quarantining a line can do (11 R368). -/
theorem quarantine_cases (l : Nat) (d : Fin 4) : s.quarantine l d = s ∨ (∃ e, s.quarantine l d = s.raise e) ∨
    ∃ (n : MDie → MDie) (e : Ev) (ds : List (Fin 4)), s.quarantine l d =
      ((ds.foldl (fun (s : State) (x : Fin 4) => s.modMdie x fun m => m.addQuar (l / 64)) s).modMdie d n).raise e := by
  by_cases h : (!(s.ctx.shared.any fun g => g.covers (64 * l) 64) || s.quarantined l) = true
  · exact .inl (by rw [State.quarantine, if_pos h])
  · by_cases h2 : ((s.blockDies (l / 64)).all fun (x : Fin 4) => decide (s.mdie[x].quar.length < 32)) = true
    · refine .inr (.inr ?_)
      rw [State.quarantine, if_neg h, if_pos h2]
      exact ⟨_, _, _, rfl⟩
    · refine .inr (.inl ?_)
      rw [State.quarantine, if_neg h, if_neg h2]
      exact ⟨_, rfl⟩

/-- Quarantine touches no byte (11 R368). -/
theorem quarantine_mem (l : Nat) (d : Fin 4) : (s.quarantine l d).mem = s.mem := by
  obtain h | ⟨e, h⟩ | ⟨n, e, ds, h⟩ := quarantine_cases s l d
  · rw [h]
  · rw [h, raise_mem]
  · rw [h, raise_mem, modMdie_mem, addQuars_mem]

/-- Writing an uncorrectable line back keeps memory in canonical form (11 R362). -/
theorem uncorrectable_wf (l : Nat) (data : List Byte) (dram dropped : Bool) (h : Memory.wf s.mem) :
    Memory.wf (s.uncorrectable l data dram dropped).mem := by
  have back : Memory.wf (putBytes s.mem (64 * l) ((data ++ List.replicate 64 0).take 64)) := putBytes_wf _ _ _ h
  unfold State.uncorrectable
  generalize (data ++ List.replicate 64 0).take 64 = bs at *
  cases dropped <;> dsimp only [Bool.false_eq_true, if_false, if_true] <;> split <;> try assumption
  · split
    · rw [quarantine_mem]; exact back
    · exact back
  · split
    · rw [quarantine_mem]; exact h
    · exact h

/-- What a loss of everything but the flash leaves is in canonical form (17 R582). -/
theorem lost_wf : Memory.wf s.lost.mem := rfl

/-- Clearing the die keeps memory in canonical form (15 R528). -/
theorem clearDie_wf (h : Memory.wf s.mem) : Memory.wf (s.mem.filter fun c => decide (c.1 < 0xF000000000)) := filter_swf 0 _ _ h

/-- Memory has its canonical form after reset. -/
theorem reset_wf : Memory.wf State.reset.mem := rfl

/-! ### The flash -/

/-- Programming keeps the flash in canonical form (12 R394). -/
theorem flashWrite_swf (a : Nat) (bs : List Byte) (h : swf (0xFF : Byte) s.prf.flash = true) :
    swf (0xFF : Byte) (s.flashWrite a bs).prf.flash = true := by
  show swf (0xFF : Byte) (bs.zipIdx.foldl (fun m p => sput 0xFF m (a + p.2) p.1) s.prf.flash) = true
  generalize bs.zipIdx = ps
  generalize s.prf.flash = m at *
  induction ps generalizing m with
  | nil => exact h
  | cons p ps ih => exact ih _ (sput_swf _ _ _ _ h)

/-- Erasing keeps the flash in canonical form (12 R399). -/
theorem flashErase_swf (a n : Nat) (h : swf (0xFF : Byte) s.prf.flash = true) :
    swf (0xFF : Byte) (s.flashErase a n).prf.flash = true := filter_swf _ _ _ h

end Sys2Proof.Machine.Laws
end

