-- ==== Sys2Proof/Laws/Units.lean ====
section
/-! SUPPORT. What the operations that many meanings share do: dispatching, retiring and refusing an instruction, raising an event,
writing a register, freeing semaphores, and numbers as bytes. -/

namespace Sys2Proof.Machine.Laws

open Sys2Proof.Machine

variable (s : State)

/-! ### Numbers as bytes (00 R6) -/

@[simp] theorem length_leBytes (n x : Nat) : (leBytes n x).length = n := by
  induction n generalizing x with
  | zero => rfl
  | succ n ih => simp [leBytes, ih]

theorem leNat_leBytes (n x : Nat) : leNat (leBytes n x) = x % 256 ^ n := by
  induction n generalizing x with
  | zero => simp [leBytes, leNat, Nat.mod_one]
  | succ n ih => rw [pow_succ', Nat.mod_mul]; simp [leBytes, leNat, ih]

/-- A number written reads back, modulo its width. -/
theorem readNat_writeNat (a n x : Nat) (p : Bool) : (s.writeNat a n x p).readNat a n = x % 256 ^ n := by
  have := read_write s a (leBytes n x) p
  rw [length_leBytes] at this
  rw [State.readNat, State.writeNat, this, leNat_leBytes]

/-! ### Registers of a unit -/

/-- What a scalar register holds after a write (07 R215, R218): x0 stays as it reads. -/
theorem x_setX (u : Machine.Unit) (k i : BitVec 6) (v : W64) (p : Bool) :
    (u.setX k v p).x i = if i.toNat % 32 = k.toNat % 32 ∧ k.toNat % 32 ≠ 0 then v else u.x i := by
  unfold Machine.Unit.setX Machine.Unit.x
  by_cases hk : k.toNat % 32 = 0
  · simp [hk]
  · by_cases hi : i.toNat % 32 = k.toNat % 32
    · simp [hk, hi]
    · have : k.toNat % 32 ≠ i.toNat % 32 := fun h => hi h.symm
      simp [hk, hi, Vector.getElem_set_ne, this]

theorem xp_setX (u : Machine.Unit) (k i : BitVec 6) (v : W64) (p : Bool) :
    (u.setX k v p).xp i = if i.toNat % 32 = k.toNat % 32 ∧ k.toNat % 32 ≠ 0 then p else u.xp i := by
  unfold Machine.Unit.setX Machine.Unit.xp
  by_cases hk : k.toNat % 32 = 0
  · simp [hk]
  · by_cases hi : i.toNat % 32 = k.toNat % 32
    · simp [hk, hi]
    · have : k.toNat % 32 ≠ i.toNat % 32 := fun h => hi h.symm
      simp [hk, hi, Vector.getElem_set_ne, this]

/-- A write of a scalar register changes nothing else of the unit. -/
theorem setX_eq (u : Machine.Unit) (k : BitVec 6) (v : W64) (p : Bool) : u.setX k v p = { u with xregs := (u.setX k v p).xregs } := by
  unfold Machine.Unit.setX
  split <;> rfl

/-- What a vector element holds after another was written (07 R216). -/
theorem v_setV (u : Machine.Unit) (k : BitVec 6) (d : Nat) (i j : Nat) (e : W32 × Bool) :
    (u.setV d j e).v k i = if 512 * k.toNat + i = 512 * d + j then e else u.v k i := by
  unfold Machine.Unit.setV Machine.Unit.v
  by_cases h : 512 * k.toNat + i = 512 * d + j
  · rw [if_pos h, h]; exact slook_sput_same _ _ _ _
  · rw [if_neg h]; exact slook_sput_ne _ _ _ _ _ h

/-- Elements written one behind the other. -/
theorem v_setVs (u : Machine.Unit) (k : BitVec 6) (d j : Nat) (es : List (W32 × Bool)) (i : Nat) :
    (u.setVs d j es).v k i = if 512 * d + j ≤ 512 * k.toNat + i ∧ 512 * k.toNat + i < 512 * d + j + es.length
      then es.getD (512 * k.toNat + i - (512 * d + j)) (0, false) else u.v k i := by
  induction es generalizing u j with
  | nil =>
    rw [if_neg (by rw [List.length_nil]; omega)]
    rfl
  | cons e es ih =>
    rw [Machine.Unit.setVs, ih, v_setV]
    simp only [List.length_cons]
    by_cases h : 512 * k.toNat + i = 512 * d + j
    · rw [if_neg (by omega), if_pos h, if_pos (by omega), show 512 * k.toNat + i - (512 * d + j) = 0 by omega]
      rfl
    · by_cases h2 : 512 * d + j ≤ 512 * k.toNat + i ∧ 512 * k.toNat + i < 512 * d + j + (es.length + 1)
      · rw [if_pos (by omega), if_pos h2,
          show 512 * k.toNat + i - (512 * d + j) = 512 * k.toNat + i - (512 * d + (j + 1)) + 1 by omega]
        rfl
      · rw [if_neg (by omega), if_neg h, if_neg h2]

/-- Elements written change no other part of the unit. -/
theorem setVs_eq (u : Machine.Unit) (d j : Nat) (es : List (W32 × Bool)) :
    u.setVs d j es = { u with vregs := (u.setVs d j es).vregs } := by
  induction es generalizing u j with
  | nil => rfl
  | cons e es ih => rw [Machine.Unit.setVs, ih]; rfl

/-! ### Dispatch (07 R235, R246) -/

/-- A unit that is ready runs and waits for nothing. -/
theorem ready_run {s : State} {r : Res} {sp : Spans} (h : Ready s r sp) : (s.unit r).run = .running ∧ (s.unit r).wait = .none := by
  have := h.go
  simp only [State.canDispatch, Bool.and_eq_true, beq_iff_eq] at this
  exact this.1

@[simp] theorem fetched_unit (r : Res) : (s.fetched r).unit r = { s.unit r with pc := BitVec.ofNat 17 (s.unit r).next } := by
  simp [State.fetched]

/-- A unit that is ready dispatches: a well-formed word whose operands are unpoisoned acts where no event of its checks is due. -/
theorem ctl_acts {s : State} {r : Res} {f : Form} {w : CtlWord} {key : List (BitVec 6)} {spans : State → Spans} {chk : State → Option Nat}
    {eff : State → State} (h : Ready s r (spans s)) (hw : wordOk r f w = true) (hk : key.any ((s.fetched r).unit r).xp = false)
    (hc : chk (s.fetched r) = none) : ctl r f w key spans chk eff s = eff (s.fetched r) := by
  have hn : ¬(s.unit r).codeLen ≤ (s.unit r).next := by have := h.next; omega
  unfold ctl
  rw [h.go]
  simp only [Bool.not_true, Bool.false_eq_true, if_false, hn, decide_false, Bool.false_or, hw, hk, hc]

/-- A word that breaks its form fails the step with VEC_ILLEGAL. -/
theorem ctl_illegal {s : State} {r : Res} {f : Form} {w : CtlWord} {key : List (BitVec 6)} {spans : State → Spans} {chk : State → Option Nat}
    {eff : State → State} (h : Ready s r (spans s)) (hw : wordOk r f w = false) :
    ctl r f w key spans chk eff s = (s.fetched r).failAt r 0x0111 := by
  unfold ctl
  rw [h.go]
  simp [hw]

/-- The first event of an instruction's checks fails the step. -/
theorem ctl_event {s : State} {r : Res} {f : Form} {w : CtlWord} {key : List (BitVec 6)} {spans : State → Spans} {chk : State → Option Nat}
    {eff : State → State} {code : Nat} (h : Ready s r (spans s)) (hw : wordOk r f w = true)
    (hk : key.any ((s.fetched r).unit r).xp = false) (hc : chk (s.fetched r) = some code) :
    ctl r f w key spans chk eff s = (s.fetched r).failAt r code := by
  have hn : ¬(s.unit r).codeLen ≤ (s.unit r).next := by have := h.next; omega
  unfold ctl
  rw [h.go]
  simp only [Bool.not_true, Bool.false_eq_true, if_false, hn, decide_false, Bool.false_or, hw, hk, hc]

/-- Where the unit cannot dispatch, at most VE_DSTALL counts (07 R247). -/
theorem ctl_held {s : State} {r : Res} {f : Form} {w : CtlWord} {key : List (BitVec 6)} {spans : State → Spans} {chk : State → Option Nat}
    {eff : State → State} (h : s.canDispatch r (spans s) = false) : ctl r f w key spans chk eff s = s.heldBack r := by
  unfold ctl
  rw [h]
  simp

/-- An instruction that is done goes on to the next word. -/
theorem retire_next {t : State} {r : Res} (hr : (t.unit r).run = .running) (h : (t.unit r).pc.toNat + 1 < (t.unit r).codeLen) :
    t.retire r = t.modU r fun u => { u with next := (t.unit r).pc.toNat + 1 } := by
  unfold State.retire
  simp [hr, h]

/-- An instruction that changes its unit alone, keeping its run, position and code area, leaves the unit with the change made and the
next word to dispatch. -/
theorem ctlReg_unit {s : State} {r : Res} {f : Form} {w : CtlWord} {chk : State → Option Nat} {g : Machine.Unit → Machine.Unit}
    (h : Ready s r {}) (hw : wordOk r f w = true) (hc : chk (s.fetched r) = none)
    (hg : ∀ u, (g u).run = u.run ∧ (g u).pc = u.pc ∧ (g u).codeLen = u.codeLen) :
    ctlReg r f w chk (fun t => t.modU r g) s =
      s.modU r fun u => { g { u with pc := BitVec.ofNat 17 u.next } with next := u.next + 1 } := by
  have hrun := (ready_run h).1
  have hn := h.next
  have hc17 := h.code
  obtain ⟨g1, g2, g3⟩ := hg { s.unit r with pc := BitVec.ofNat 17 (s.unit r).next }
  have hpc : (BitVec.ofNat 17 (s.unit r).next).toNat = (s.unit r).next := by
    rw [BitVec.toNat_ofNat]
    exact Nat.mod_eq_of_lt (by omega)
  unfold ctlReg
  rw [ctl_acts h hw rfl hc, retire_next]
  · rw [modU_unit, fetched_unit, g2, hpc, State.fetched, modU_modU, modU_modU]
    cases r <;> simp [State.modU, State.unit, State.modReach, State.modNmu]
  · rw [modU_unit, fetched_unit, g1]; exact hrun
  · rw [modU_unit, fetched_unit, g2, g3, hpc]; exact hn

/-! ### Events (16 R560, 13 R446) -/

/-- A record kept is the newest. -/
theorem keepRecord_last (m : Mgt) (r : ErrRec) : (keepRecord m r).recs.getLast? = some r := by
  unfold keepRecord
  split <;> simp

/-- An event that is raised is raised. -/
theorem raise_raised (e : Ev) : Raised s (s.raise e) e.code e.job (sourceWord s.cpl.node e.kind e.part) :=
  ⟨s.record s.time e, rfl, rfl, rfl, rfl, rfl, keepRecord_last _ _⟩

/-! ### Registers and semaphores -/

/-- A write through a port that is closed does nothing (13 R432). -/
theorem portWrite_closed {p : Port} (h : s.portOn p = false) (off : Nat) (v : W64) : s.portWrite p off v = s := by
  simp [State.portWrite, h]

/-- A write through an open port to an aligned offset is a register write. -/
theorem portWrite_open {p : Port} (h : s.portOn p = true) (off : Nat) (ha : off % 8 = 0) (v : W64) :
    s.portWrite p off v = (s.regWrite p off v).1 := by
  simp [State.portWrite, h, ha]

/-- A misaligned write of the host only counts PCI_BAD_ACCESS (13 R429); management's goes to the registers, where none lies. -/
theorem portWrite_misaligned (h : s.portOn .host = true) (hr : s.prf.ready = true) (off : Nat) (ha : off % 8 ≠ 0) (v : W64) :
    s.portWrite .host off v = s.badAccess := by
  simp [State.portWrite, h, ha, hr]

/-- A semaphore after another, or the same, got an owner. -/
theorem semOwn_owner (n m : Fin 32) (o : BitVec 2) : ((s.semOwn n o).sem[m]).owner = if m = n then o else s.sem[m].owner := by
  by_cases h : m = n
  · subst h; simp
  · have : n.val ≠ m.val := fun e => h (Fin.ext e.symm)
    simp [h, Vector.getElem_set_ne, this]

/-- SEM_BROKEN changes no owner. -/
theorem semBreakEv_sem (n : Fin 32) (cause : Nat) : (s.semBreakEv n cause).sem = s.sem := rfl

/-- One semaphore of the fold of `freeSems`. -/
theorem freeSems_go (o : BitVec 2) (cause : Nat) (l : List (Fin 32)) (m : Fin 32) (_ho : o ≠ 0) :
    ((l.foldl (fun (s : State) (n : Fin 32) => if s.sem[n].owner = o then (s.semBreakEv n cause).semOwn n 0 else s) s).sem[m]).owner =
      if m ∈ l ∧ s.sem[m].owner = o then 0 else s.sem[m].owner := by
  induction l generalizing s with
  | nil => simp
  | cons n l ih =>
    rw [List.foldl_cons, ih]
    by_cases h : s.sem[n].owner = o
    · rw [if_pos h, semOwn_owner, semBreakEv_sem]
      by_cases hm : m = n
      · subst hm
        have h' : s.sem[m.val].owner = o := h
        simp [h']
      · simp [hm]
    · rw [if_neg h]
      by_cases hm : m = n
      · subst hm
        have h' : ¬s.sem[m.val].owner = o := h
        simp [h']
      · simp [hm]

/-- Semaphores of one owner become FREE, and no other changes (13 R448). -/
theorem freeSems_owner (o : BitVec 2) (cause : Nat) (m : Fin 32) (ho : o ≠ 0) :
    ((s.freeSems o cause).sem[m]).owner = if s.sem[m].owner = o then 0 else s.sem[m].owner := by
  unfold State.freeSems
  rw [freeSems_go s o cause _ m ho]
  simp

end Sys2Proof.Machine.Laws
end

