-- ==== Sys2Proof/Tests/Slice0.lean ====
section
/-! SUPPORT. Tests: ill-formed commands, witnesses of the hypotheses of the statements, and small examples worked out from the spec's
rules. A witness's docstring names its statement. -/

namespace Sys2Proof.Tests

set_option Elab.async false

open Sys2Proof Sys2Proof.Machine

/-! ### Helpers -/

/-- The outcome is a next state with the property. -/
def gives (i : Instr) (s : State) (f : State → Bool) : Bool :=
  match exec i s with
  | .next t => f t
  | _ => false

theorem ready_of {s : State} {r : Res} {sp : Spans}
    (h : (s.canDispatch r sp && decide ((s.unit r).next + 1 < (s.unit r).codeLen) && decide ((s.unit r).codeLen ≤ 2 ^ 17)) = true) :
    Ready s r sp := by
  simp only [Bool.and_eq_true, decide_eq_true_eq] at h
  exact ⟨h.1.1, h.1.2, h.2⟩

theorem openPort_of {s : State} {p : Port} (h : (s.portOn p && s.prf.ready && !s.draining) = true) : OpenPort s p := by
  simp only [Bool.and_eq_true, Bool.not_eq_true'] at h
  exact ⟨h.1.1, h.1.2, h.2⟩

theorem allKeyed_of {s : State} (h : decide (s.lineKey = [] ∧ s.ctx.ctxs = [] ∧ s.sec.debug = false) = true) : AllKeyed s := by
  obtain ⟨a, b, c⟩ := of_decide_eq_true h
  intro line
  simp [State.keyOk, State.keyTag, a, b, c, slook, b2n]

theorem heads_of {s : State} {n : Fin 16} {e : TileEntry} {rest : List TileEntry} {op : Nat}
    (h : (decide (s.reach[n].tq = e :: rest) && decide (s.reach[n].u.run = .running) && decide (s.reach[n].u.wait = .none) &&
      decide (bits e.word.toNat 124 4 = op)) = true) : Heads s n e rest op := by
  simp only [Bool.and_eq_true, decide_eq_true_eq] at h
  exact ⟨h.1.1.1, h.1.1.2, h.1.2, h.2⟩

theorem inTurn_of {s : State} {x : RxFrame} {k : Nat}
    (h : (!s.dev.held && s.portUp x.port && s.frameMine x && x.headOk k && s.frameKey x k &&
      decide (x.seq = (s.cpl.flow x.port x.src.toNat).expect)) = true) : InTurn s x k := by
  simp only [Bool.and_eq_true, Bool.not_eq_true', decide_eq_true_eq] at h
  exact ⟨⟨h.1.1.1.1.1, h.1.1.1.1.2, h.1.1.1.2, h.1.1.2, h.1.2⟩, h.2⟩

theorem hearsTime_of {s : State} {x : PtpMsg} (h : (s.ptpTaken x && s.ptpMaster x && s.slave) = true) : HearsTime s x := by
  simp only [Bool.and_eq_true] at h
  exact ⟨h.1.1, h.1.2, h.2⟩

theorem quiet_reach {s : State} {n : Fin 16} (h : (!(s.jobRun (s.unit (.reach n)).job).armed &&
      decide ((s.reach[n].perf.veBusy.count.toNat + 2 ^ 32 < 2 ^ 48) ∧ (s.reach[n].perf.sfuBusy.count.toNat + 2 ^ 32 < 2 ^ 48))) = true) :
    Quiet s (.reach n) := by
  simp only [Bool.and_eq_true, Bool.not_eq_true'] at h
  exact ⟨h.1, of_decide_eq_true h.2⟩

theorem quiet_nmu {s : State} {d : Fin 4} (h : (!(s.jobRun (s.unit (.nmu d)).job).armed &&
      decide (s.nmu[d].busy.count.toNat + 2 ^ 32 < 2 ^ 48)) = true) : Quiet s (.nmu d) := by
  simp only [Bool.and_eq_true, Bool.not_eq_true'] at h
  exact ⟨h.1, of_decide_eq_true h.2⟩

theorem stagingRoom_of {s : State} {j : Nat}
    (h : (match (s.jobRun j).step with | none => true | some x => decide (s.lkp.held.length + x.members.length < 4096)) = true) :
    StagingRoom s j := by
  intro x hx
  rw [hx] at h
  exact of_decide_eq_true h

/-- A device that runs, with the host's accesses enabled, all channels and reaches in service, 4 GiB of memory and no cache (11 R372: the
scratchpads take their slices). -/
def s0 : State :=
  { State.reset with
    time := 1000000
    dev := { held := false, rstLow := false, st := .running, dramUnits := 8, chanUsable := BitVec.allOnes 32
             reachUsable := BitVec.allOnes 16, reachOk := BitVec.allOnes 16 }
    sec := { masters := 1, idOk := true, rngOk := true }
    prf := { ready := true, semHold := 5 }
    mdie := Vector.replicate 4 { spad := 12 }
    pci := { mse := true } }

/-- A unit in the middle of a segment: words 0 to 15 of the code area, word 3 next, and a region of 256 KiB. -/
def u0 : Machine.Unit :=
  { run := .running, job := 5, next := 3, codeLen := 16, tileOff := 0x800, tileLen := 4, kbase := 0x1000, imgLen := 0x1000
    rsLen := 0x40000, vl := 4 }

/-- Reach 0 and the NMU of M-die 1 run; the NMU's window is the second MiB. -/
def s1 : State :=
  (s0.modReach 0 fun x => { x with u := u0 }).modNmu 1 fun x => { x with u := u0, wins := [(0x100000, 0x1FFFFF)] }

/-- At shed level S1, where the performance counters hold (17 R580): how long a unit waits has no effect that can be read. -/
def atS1 (s : State) : State := { s with dev := { s.dev with shed := 1 } }

/-- Reach 0. -/
def R : Res := .reach 0

/-- The NMU of M-die 1. -/
def N : Res := .nmu 1

/-- A control word with its fields. -/
def cw (d a b c low : Nat) : CtlWord := ⟨.ofNat 6 d, .ofNat 6 a, .ofNat 6 b, .ofNat 6 c, .ofNat 30 low⟩

/-- Bits [29:0] of layout V: FMT_S, FMT_D, OVF, QS, QD, X. -/
def lv (fs fd ovf qs qd x : Nat) : Nat := fs * 2 ^ 26 + fd * 2 ^ 22 + ovf * 2 ^ 21 + qs * 2 ^ 15 + qd * 2 ^ 9 + x

/-- Scalar registers x1, x2, … of a unit. -/
def withX (s : State) (r : Res) (xs : List (W64 × Bool)) : State :=
  s.modU r fun u => (xs.zipIdx 1).foldl (fun u p => u.setX (BitVec.ofNat 6 p.2) p.1.1 p.1.2) u

/-- Elements 0 up of a vector register of a unit. -/
def withV (s : State) (r : Res) (k : Nat) (es : List Nat) : State := s.modU r fun u => u.setVs k 0 (es.map fun e => (BitVec.ofNat 32 e, false))

/-- Bytes in memory. -/
def withMem (s : State) (a : Nat) (bs : List Byte) : State := { s with mem := putBytes s.mem a bs }

/-- Two lists of bytes of equal length agree; a list holds at an address. -/
def holdsAt (t : State) (a : Nat) (bs : List Byte) : Bool := t.read a bs.length == bs

/-- The listed bytes of memory outside a span are as they were. -/
def memKept (s t : State) (a n : Nat) : Bool :=
  t.mem.filter (fun c => c.1 < a || a + n ≤ c.1) == s.mem.filter (fun c => c.1 < a || a + n ≤ c.1)

/-- The elements of a vector register. -/
def velems (u : Machine.Unit) (k : BitVec 6) (n : Nat) : List (W32 × Bool) := (List.range n).map (u.v k)

/-! ### The step -/

/-- A schedule of one cycle of 1 ms without slots is in force. -/
def sF : State := { s0 with lkp := { inForce := true, sched := { tables := [[]], lvl := [0, 0, 0, 0, 0, 0] }, lastLock := 1000000 } }

/-- StepRunsTheFrontCommand. -/
theorem witness_step : ({ s0 with pending := [.timWrap] }).pending = .timWrap :: [] ∧
    (State.reset.pending = [] ∧ State.reset.dev.held = true) ∧
    (s0.pending = [] ∧ s0.dev.held = false ∧ s0.lockAt = none ∧ s0.time.toNat + 1 < 2 ^ 64) ∧
    (({ sF with time := 1999999 }).pending = [] ∧ ({ sF with time := 1999999 }).lockAt = some 2000000) := by decide +kernel

/-- 19 R623: TIME counts nanoseconds. -/
theorem test_step_time : (match step s0 with | .next t => t.time == 1000001 | _ => false) = true := by decide +kernel

/-! ### Scalar registers -/

/-- x1 = 7 and x2 = −2, poisoned, on the reach and the NMU. -/
def sX : State := withX (withX s1 R [(7, false), (0xFFFFFFFFFFFFFFFE, true)]) N [(7, false), (0xFFFFFFFFFFFFFFFE, true)]

/-- ScalarRegisterResult; X0IsZero. -/
theorem witness_ready : Ready sX R {} ∧ Ready sX N {} := ⟨ready_of (by decide +kernel), ready_of (by decide +kernel)⟩

/-- xD and its poison, the next word and PC after an instruction. -/
def xAfter (i : Instr) (s : State) (r : Res) (k : BitVec 6) : W64 × Bool × Nat × BitVec 17 :=
  match exec i s with
  | .next t => ((t.unit r).x k, (t.unit r).xp k, (t.unit r).next, (t.unit r).pc)
  | _ => (0, false, 0, 0)

theorem test_add : xAfter (.add R (cw 3 1 2 0 0)) sX R 3 = (5, true, 4, 3) := by decide +kernel
theorem test_sub : xAfter (.sub N (cw 3 1 2 0 0)) sX N 3 = (9, true, 4, 3) := by decide +kernel
theorem test_and : xAfter (.and R (cw 3 1 2 0 0)) sX R 3 = (6, true, 4, 3) := by decide +kernel
theorem test_or : xAfter (.or R (cw 1 1 0 0 0)) sX R 1 = (7, false, 4, 3) := by decide +kernel
theorem test_xor : xAfter (.xor R (cw 3 1 1 0 0)) sX R 3 = (0, false, 4, 3) := by decide +kernel
/-- The shift takes xB[5:0]: −2 shifts by 62. -/
theorem test_shl : xAfter (.shl R (cw 3 1 2 0 0)) sX R 3 = (0xC000000000000000, true, 4, 3) := by decide +kernel
theorem test_shr : xAfter (.shr R (cw 3 2 1 0 0)) sX R 3 = (0x1FFFFFFFFFFFFFF, true, 4, 3) := by decide +kernel
theorem test_sra : xAfter (.sra R (cw 3 2 1 0 0)) sX R 3 = (0xFFFFFFFFFFFFFFFF, true, 4, 3) := by decide +kernel
theorem test_mul : xAfter (.mul R (cw 3 1 2 0 0)) sX R 3 = (0xFFFFFFFFFFFFFFF2, true, 4, 3) := by decide +kernel
theorem test_addi : xAfter (.addi R (cw 3 1 0 0 0x3FFFFFFF)) sX R 3 = (6, false, 4, 3) := by decide +kernel
theorem test_li : xAfter (.li R (cw 3 0 0 0 0x20000000)) sX R 3 = (0xFFFFFFFFE0000000, false, 4, 3) := by decide +kernel
theorem test_lih : xAfter (.lih R (cw 3 1 0 0 0x20000001)) sX R 3 = (0xF800000040000007, false, 4, 3) := by decide +kernel
/-- x0 discards the write (R215). -/
theorem test_x0 : xAfter (.add R (cw 0 1 1 0 0)) sX R 0 = (0, false, 4, 3) := by decide +kernel

/-- ScalarImmediateResult: the two forms of SETVL. -/
theorem witness_setvl : (1 ≤ ((sX.unit R).x 1).toNat ∧ ((sX.unit R).x 1).toNat ≤ 256 ∧ (sX.unit R).xp 1 = false) ∧
    (((withX s1 R [(256, false)]).unit R).x 1).toNat = 256 ∧ (((withX s1 R [(257, false)]).unit R).x 1).toNat = 257 ∧
    StagingRoom (withX s1 R [(257, false)]) 5 :=
  ⟨by decide +kernel, by decide +kernel, by decide +kernel, stagingRoom_of (by decide +kernel)⟩

theorem test_setvl : gives (.setvl R (cw 0 1 0 0 0)) (withX s1 R [(256, false)]) (fun t => (t.unit R).vl == 256) = true := by decide +kernel
theorem test_setvl_illegal : gives (.setvl R (cw 0 1 0 0 0)) (withX s1 R [(257, false)])
    (fun t => (t.unit R).vl == 4 && (t.unit R).run == .stopped && (t.mgt.recs.getLast?).map (fun e => (e.event, e.addr, e.source, e.job)) ==
      some (0x0111, 3, sourceWord 0x7FFF 1 0, 5)) = true := by decide +kernel

/-! ### Scalar loads and stores -/

/-- x1 = 0x20008 on the reach and 0x1FFFF8 on the NMU, the last word of its window; x2 poisoned. -/
def sM : State := withMem (withX (withX s1 R [(0x20008, false), (0x1122334455667788, true)]) N [(0x1FFFF8, false), (0x1122334455667788, true)])
  (storeBase 0 + 0x20010) (leBytes 8 0x8877665544332211)

/-- ScalarLoadAndStore: loads at xA + 8 and xA − 8, stores likewise. -/
theorem witness_xld : (addrPlus ((sM.unit R).x 1) (cw 3 1 0 0 8).immI = 0x20010 ∧ sM.accOk R 0x20010 8 false = true ∧
      sM.accOk N 0x1FFFF8 8 false = true ∧ sM.accOk R 0x20000 8 true = true ∧ sM.accOk N 0x1FFFF8 8 true = true ∧ (sM.unit R).xp 1 = false) ∧
    Ready sM R { rd := [(0x20010, 0x20018)] } ∧ Ready sM N { rd := [(0x1FFFF8, 0x200000)] } ∧
    Ready sM R { wr := [(0x20000, 0x20008)] } ∧ Ready sM N { wr := [(0x1FFFF8, 0x200000)] } :=
  ⟨by decide +kernel, ready_of (by decide +kernel), ready_of (by decide +kernel), ready_of (by decide +kernel), ready_of (by decide +kernel)⟩

theorem test_xld : xAfter (.xld R (cw 3 1 0 0 8)) sM R 3 = (0x8877665544332211, false, 4, 3) := by decide +kernel
theorem test_xld_nmu : xAfter (.xld N (cw 3 1 0 0 0)) sM N 3 = (0, false, 4, 3) := by decide +kernel
theorem test_xst : gives (.xst R (cw 0 1 2 0 0x3FFFFFF8)) sM (fun t => t.mem == putBytes sM.mem 0xF800020000 (leBytes 8 0x1122334455667788) &&
    t.poison == [0xF800020000 / 64] && (t.unit R).next == 4) = true := by decide +kernel

/-! ### Branches and waits -/

/-- x1 = −2, x2 = 7. -/
def sB : State := withX s1 R [(0xFFFFFFFFFFFFFFFE, false), (7, false)]

/-- BranchGoesToItsTarget: the branch may be the last word of the code area; targets 0 and codeLen − 1. -/
theorem witness_br : sB.canDispatch R {} = true ∧ (sB.unit R).next < (sB.unit R).codeLen ∧
    (cw 0 1 2 0 (3 * 2 ^ 27 + 0x7FFFFFD)).off = -3 ∧ (cw 0 1 2 0 (3 * 2 ^ 27 + 12)).off = 12 ∧ (cw 0 1 2 0 (3 * 2 ^ 27)).cond = 3 := by
  decide +kernel

/-- −2 < 7 as signed numbers, not as unsigned ones (R225). -/
theorem test_br_lt : gives (.br R (cw 0 1 2 0 (3 * 2 ^ 27 + 0x7FFFFFD))) sB (fun t => (t.unit R).next == 0 && (t.unit R).pc == 3) = true := by
  decide +kernel
theorem test_br_ltu : gives (.br R (cw 0 1 2 0 (5 * 2 ^ 27 + 0x7FFFFFD))) sB (fun t => (t.unit R).next == 4) = true := by decide +kernel

/-- A word that is awaited. -/
def sW : State := withX s1 R [(0x20000, false), (7, false)]
/-- The unit waits for it. -/
def sW1 : State := sW.modU R fun u => waiting u (.waitEq 0x20000 7)
/-- The word has come. -/
def sW2 : State := withMem sW1 0xF800020000 [7]

/-- WaiteqWaitsForTheWord. -/
theorem witness_waiteq : (sW.accOk R 0x20000 8 false = true ∧ sW.readNat (unitAddr R 0x20000) 8 = 0) ∧
    Ready sW R { rd := [(0x20000, 0x20008)] } ∧
    ((sW1.unit R).wait = .waitEq 0x20000 7 ∧ (sW1.unit R).run = .running ∧ (sW1.unit R).pc.toNat + 1 < (sW1.unit R).codeLen ∧
      sW1.readNat (unitAddr R 0x20000) 8 = 0 ∧ sW2.readNat (unitAddr R 0x20000) 8 = 7) ∧
    (withMem sW 0xF800020000 [7]).readNat (unitAddr R 0x20000) 8 = 7 ∧ Ready (withMem sW 0xF800020000 [7]) R { rd := [(0x20000, 0x20008)] } :=
  ⟨by decide +kernel, ready_of (by decide +kernel), by decide +kernel, by decide +kernel, ready_of (by decide +kernel)⟩

theorem test_waiteq : gives (.waiteq R (cw 0 1 2 0 0)) sW (fun t => t.unit R == sW1.unit R) = true := by decide +kernel
theorem test_waiteq_match : gives (.waiteqMatch R) sW2 (fun t => (t.unit R).wait == .none && (t.unit R).next == 4) = true := by decide +kernel

/-- A queued tile word keeps YIELD, END and TWAIT waiting; a barge in flight END. -/
def sT : State := s1.modReach 0 fun x => { x with tq := [⟨0, 1, 0⟩] }
def sG : State := s1.modReach 0 fun x => { x with barges := x.barges.set 15 { busy := true } }

/-- YieldEndAndTwait. -/
theorem witness_yield : (Ready s1 R {} ∧ Ready s1 N {} ∧ Ready sT R {} ∧ Ready sG R {}) ∧
    (s1.tileIdle R = true ∧ s1.bargeBusy R 0xFFFF = false ∧ sT.tileIdle R = false ∧ sG.tileIdle R = true ∧ sG.bargeBusy R 0xFFFF = true) :=
  ⟨⟨ready_of (by decide +kernel), ready_of (by decide +kernel), ready_of (by decide +kernel), ready_of (by decide +kernel)⟩, by decide +kernel⟩

theorem test_yield : gives (.yield R (cw 0 0 0 0 0)) s1 (fun t => (t.unit R).run == .yielded && (t.unit R).next == 4) = true := by decide +kernel
theorem test_twait : gives (.twait R (cw 0 0 0 0 0)) sT (fun t => (t.unit R).wait == .twait && (t.unit R).pc == 3) = true := by decide +kernel
theorem test_end : gives (.endStep R (cw 0 0 0 0 0)) s1 (fun t => (t.unit R).run == .ended) = true := by decide +kernel

/-! ### The tile queue and barges -/

/-- The tile-table word 3 is the last; its RS_A is 0x100 and OP 1; x1 = 0x40, x3 = 0. -/
def sQ : State := (withMem (withX s1 R [(0x40, false), (0, false), (0, false)]) (0xF800001800 + 48) (leBytes 16 (2 ^ 124 + 0x100 * 2 ^ 42)))

/-- A reach whose queue is full, one whose tags are all free, one with tag 3 busy. -/
def sQfull : State := sQ.modReach 0 fun x => { x with tq := List.replicate 16 ⟨0, 1, 0⟩ }

/-- A descriptor of ZERO (KIND 5): 64 bytes to device address 0xF800020000, in the reach's own store. -/
def zeroDesc : List Byte := leBytes 64 (5 + 0)

/-- TileQueueAndBargeIssue: TQ. -/
theorem witness_tq : (Ready sQ R {} ∧ Ready sQfull R {}) ∧ (cw 0 1 2 3 (3 * 2 ^ 14)).index = 3 ∧ (sQ.unit R).tileLen = 4 ∧
    (sQ.tileWord 0 3 = 2 ^ 124 + 0x100 * 2 ^ 42 ∧ sQ.reach[0].tq.length < 16 ∧ 16 ≤ sQfull.reach[0].tq.length) ∧
    ((tqAdd (sQ.tileWord 0 3) (some (42, 22)) ((sQ.unit R).x 1)).bind (fun z => tqAdd z (some (80, 8)) ((sQ.unit R).x 2))) =
      some (2 ^ 124 + 0x140 * 2 ^ 42) :=
  ⟨⟨ready_of (by decide +kernel), ready_of (by decide +kernel)⟩, by decide +kernel⟩

theorem test_tq : gives (.tq R (cw 0 1 2 3 (3 * 2 ^ 14))) sQ
    (fun t => t.reach[0].tq == [⟨2 ^ 124 + 0x140 * 2 ^ 42, 3, 3⟩] && (t.unit R).next == 4) = true := by decide +kernel
theorem test_tq_full : gives (.tq R (cw 0 1 2 3 (3 * 2 ^ 14))) sQfull
    (fun t => (t.unit R).wait == .tqFull (2 ^ 124 + 0x140 * 2 ^ 42) 3 && t.reach[0].tq.length == 16) = true := by decide +kernel

/-- x1 points to a descriptor; tag 15 is busy in the second state. -/
def sI : State := withX s1 R [(0x20000, false)]
def sI2 : State := sI.modReach 0 fun x => { x with barges := x.barges.set 15 { busy := true } }

/-- TileQueueAndBargeIssue: BISSUE of tag 15. -/
theorem witness_bissue : (sI.accOk R 0x20000 64 false = true ∧ sI.bargeBusy R (2 ^ 15) = false ∧ sI2.bargeBusy R (2 ^ 15) = true) ∧
    Ready sI R (bissueSpans R (cw 0 1 0 0 15) sI) ∧ Ready sI2 R (bissueSpans R (cw 0 1 0 0 15) sI2) :=
  ⟨by decide +kernel, ready_of (by decide +kernel), ready_of (by decide +kernel)⟩

theorem test_bissue : gives (.bissue R (cw 0 1 0 0 15)) sI
    (fun t => t.reach[0].barges[15].busy && t.reach[0].barges[15].desc.length == 64 && (t.unit R).next == 4) = true := by decide +kernel

/-- Barges of tags 2 and 5 have failed, with different codes; tag 7 is in flight. -/
def sBw : State := s1.modReach 0 fun x =>
  { x with barges := ((x.barges.set 2 { code := 0x030D }).set 5 { code := 0x0302 }).set 7 { busy := true } }

/-- TileQueueAndBargeIssue: BWAIT for the busy tag, for the failed ones and for one that has not failed. -/
theorem witness_bwait : Ready sBw R {} ∧ (sBw.bargeBusy R 0x80 = true ∧ sBw.bargeBusy R 0x24 = false ∧ sBw.bargeBusy R 0x01 = false) ∧
    (∃ k : Fin 16, bitAt 0x24 k = true ∧ sBw.reach[0].barges[k].code = 0x030D ∧
      ∀ j : Fin 16, j < k → bitAt 0x24 j = true → sBw.reach[0].barges[j].code = 0) ∧
    ∀ k : Fin 16, bitAt 0x01 k = true → sBw.reach[0].barges[k].code = 0 :=
  ⟨ready_of (by decide +kernel), by decide +kernel, ⟨2, by decide +kernel⟩, by decide +kernel⟩

theorem test_bwait : xAfter (.bwait R (cw 3 0 0 0 0x24)) sBw R 3 = (0x030D, false, 4, 3) := by decide +kernel

/-! ### Vector registers -/

/-- v1 = 1, 2, −1, NaR and v2 = 0.5, −2, 3, 1 in p16; v3 = 0, 1, 0, 1. -/
def sV : State := withV (withV (withV s1 R 1 [0x4000, 0x4800, 0xC000, 0x8000]) R 2 [0x3800, 0xB800, 0x4C00, 0x4000]) R 3 [0, 0x4000, 0, 0x4000]

/-- ElementwiseResult, on the reach and on an NMU: every form of a p16 word keeps the rules. -/
theorem witness_vector : (Ready sV R {} ∧ Ready sV N {} ∧ Quiet sV R ∧ Quiet sV N) ∧
    (fmtV 1 = true ∧ (cw 4 1 2 3 (lv 1 1 0 0 0 0)).fmtS = 1 ∧ (cw 4 1 2 3 (lv 1 1 0 0 0 0)).fmtD = 1) ∧
    ∀ r ∈ [R, N], wordOk r (form4 (cw 4 1 2 3 (lv 1 1 0 0 0 0)) true true) (cw 4 1 2 3 (lv 1 1 0 0 0 0)) = true ∧
      wordOk r (form4 (cw 4 1 2 0 (lv 1 1 0 0 0 0)) true false) (cw 4 1 2 0 (lv 1 1 0 0 0 0)) = true ∧
      wordOk r (form4 (cw 4 1 2 0 (lv 1 1 0 0 0 256)) true false) (cw 4 1 2 0 (lv 1 1 0 0 0 256)) = true ∧
      wordOk r (form4 (cw 4 1 0 0 (lv 1 1 0 0 0 0)) false false) (cw 4 1 0 0 (lv 1 1 0 0 0 0)) = true ∧
      wordOk r { d := .ve, a := .ve, lay := .v fun x => x == 0 } (cw 4 1 0 0 (lv 1 0 0 0 0 0)) = true ∧
      wordOk r { form4 (cw 4 1 2 0 (lv 1 1 0 0 0 192)) true false with lay := .v fun x => bits x 0 5 == 0 && bits x 5 3 != 7 }
        (cw 4 1 2 0 (lv 1 1 0 0 0 192)) = true :=
  ⟨⟨ready_of (by decide +kernel), ready_of (by decide +kernel), quiet_reach (by decide +kernel), quiet_nmu (by decide +kernel)⟩,
    by decide +kernel⟩

/-- The patterns of v4 after an instruction. -/
def vAfter (i : Instr) (s : State) (r : Res) : List Nat :=
  match exec i s with
  | .next t => (velems (t.unit r) 4 5).map fun e => e.1.toNat
  | _ => []

/-- 1 + 0.5, 2 − 2, −1 + 3, NaR; element 4 is left alone (R216). -/
theorem test_vadd : vAfter (.vadd R (cw 4 1 2 0 (lv 1 1 0 0 0 0))) sV R = [0x4400, 0, 0x4800, 0x8000, 0] := by decide +kernel
theorem test_vsub : vAfter (.vsub R (cw 4 1 2 0 (lv 1 1 0 0 0 0))) sV R = [0x3800, 0x5000, 0xB000, 0x8000, 0] := by decide +kernel
theorem test_vmul : vAfter (.vmul R (cw 4 1 2 0 (lv 1 1 0 0 0 0))) sV R = [0x3800, 0xB000, 0xB400, 0x8000, 0] := by decide +kernel
theorem test_vfma : vAfter (.vfma R (cw 4 1 2 3 (lv 1 1 0 0 0 0))) sV R = [0x3800, 0xB400, 0xB400, 0x8000, 0] := by decide +kernel
/-- NaR is the first NaN operand and is taken (R225). -/
theorem test_vmax : vAfter (.vmax R (cw 4 1 2 0 (lv 1 1 0 0 0 0))) sV R = [0x4000, 0x4800, 0x4C00, 0x8000, 0] := by decide +kernel
theorem test_vmin : vAfter (.vmin R (cw 4 1 2 0 (lv 1 1 0 0 0 0))) sV R = [0x3800, 0xB800, 0xC000, 0x8000, 0] := by decide +kernel
theorem test_vabs : vAfter (.vabs R (cw 4 1 0 0 (lv 1 1 0 0 0 0))) sV R = [0x4000, 0x4800, 0x4000, 0x8000, 0] := by decide +kernel
theorem test_vneg : vAfter (.vneg R (cw 4 1 0 0 (lv 1 1 0 0 0 0))) sV R = [0xC000, 0xB800, 0x4000, 0x8000, 0] := by decide +kernel
/-- COND 6 holds where an operand is NaN (R225). -/
theorem test_vcmp : vAfter (.vcmp R (cw 4 1 2 0 (lv 1 1 0 0 0 192))) sV R = [0, 0, 0, 0x4000, 0] := by decide +kernel
theorem test_vsel : vAfter (.vsel R (cw 4 3 1 2 (lv 1 1 0 0 0 0))) sV R = [0x3800, 0x4800, 0x4C00, 0x8000, 0] := by decide +kernel
/-- 1, 2, −1 and NaR in p8: 0x40, 0x48, 0xC0, 0x80. -/
theorem test_vcvt : vAfter (.vcvt R (cw 4 1 0 0 (lv 1 0 0 0 0 0))) sV R = [0x40, 0x48, 0xC0, 0x80, 0] := by decide +kernel

/-! ### The SFU -/

/-- The unit's job is reproducible; its FD1 unit is on. -/
def sRep : State := sV.modU R fun u => { u with repro := true }
def sFd1 : State := sV.modU R fun u => { u with fd1sfu := true }

/-- A table image with a micro-program of FUNC 0x10 that ends at once, in reach 0's active bank. -/
def sImg : State := sV.modReach 0 fun x =>
  { x with banks := x.banks.set 0 { state := .active, image := leBytes 64 (1 * 2 ^ 48) ++ leBytes 8 (0x10 * 2 ^ 56 + 2 * 2 ^ 48 + 2624 * 2 ^ 32 + 2 * 2 ^ 8) } }

/-- SfuFunctionResult: FD1, native, shipped and micro-program functions, and GATE. -/
theorem witness_sfn : (Ready sV R {} ∧ Ready sRep R {} ∧ Ready sFd1 R {} ∧ Ready sImg R {} ∧ Quiet sRep R ∧ Quiet sFd1 R ∧ Quiet sImg R) ∧
    (sfnChk R (cw 4 1 0 0 (lv 1 1 0 0 0 1)) sFd1 = none ∧ sfnFd1 (cw 4 1 0 0 (lv 1 1 0 0 0 1)) = true) ∧
    (sfnChk R (cw 4 1 0 0 (lv 1 1 0 0 0 2)) sV = none ∧ sfnFunc (cw 4 1 0 0 (lv 1 1 0 0 0 2)) = 1) ∧
    (sfnChk R (cw 4 1 0 0 (lv 1 1 0 0 0 16)) sRep = none ∧ sRep.useShipped R = true) ∧
    (sfnChk N (cw 4 1 0 0 (lv 1 1 0 0 0 4)) sV = none ∧ sV.useShipped N = true) ∧
    (sfnChk R (cw 4 1 0 0 (lv 1 1 0 0 0 32)) sImg = none ∧ sImg.useShipped R = false ∧ (imgEntry (sImg.sfuImage R) 0x10).isSome = true ∧
      sfnSteps sImg R (cw 4 1 0 0 (lv 1 1 0 0 0 32)) < 2 ^ 24) ∧
    (fmtSfu 1 = true ∧ wordOk R { d := .ve, a := .ve, b := .ve, nmu := false, lay := .v fun x => bits x 0 6 == 0 && bits x 7 2 != 3 }
      (cw 4 1 2 0 (lv 1 1 0 0 0 128)) = true ∧
      wordOk R { d := .ve, a := .ve, b := .free, nmu := false, lay := .v fun x => bits x 0 6 == 0 && bits x 7 2 != 3 }
        (cw 4 1 63 0 (lv 1 1 0 0 0 320)) = true) :=
  ⟨⟨ready_of (by decide +kernel), ready_of (by decide +kernel), ready_of (by decide +kernel), ready_of (by decide +kernel),
    quiet_reach (by decide +kernel), quiet_reach (by decide +kernel), quiet_reach (by decide +kernel)⟩, by decide +kernel⟩

/-- v1 and v2 hold NaR alone. -/
def sNar : State := withV (withV s1 R 1 [0x8000, 0x8000, 0x8000, 0x8000]) R 2 [0x8000, 0x8000, 0x8000, 0x8000]

/-- Functions of NaN give NaR (R157). -/
theorem test_sfn_nar : vAfter (.sfn R (cw 4 1 0 0 (lv 1 1 0 0 0 2))) sNar R = [0x8000, 0x8000, 0x8000, 0x8000, 0] := by decide +kernel
theorem test_gate_nar : vAfter (.gate R (cw 4 1 2 0 (lv 1 1 0 0 0 128))) sNar R = [0x8000, 0x8000, 0x8000, 0x8000, 0] := by decide +kernel

/-! ### Split -/

/-- v1 = 1, 2^-20 + 1, 0, −2 in p32. -/
def sS : State := withV s1 R 1 [0x40000000, 0x40000080, 0, 0xB8000000]

/-- SplitPieces. -/
theorem witness_split : (Ready sS R {} ∧ Quiet sS R) ∧
    wordOk R { d := .ve3, a := .ve, c := .sc, lay := .v fun x => x == 0, nmu := false } (cw 61 1 0 31 (lv 2 1 0 0 0 0)) = true ∧
    ∀ i < 4, (splitElem (splitSigma ((List.range 4).map fun i => decode .p32 0 ((sS.unit R).v 1 i).1.toNat))
      (decode .p32 0 ((sS.unit R).v 1 i).1.toNat)).isSome = true :=
  ⟨⟨ready_of (by decide +kernel), quiet_reach (by decide +kernel)⟩, by decide +kernel⟩

/-- The row 1, 1 + 2^-20, 0, −2 has σ = 1 (04 R141). -/
theorem test_vsplit : gives (.vsplit R (cw 61 1 0 31 (lv 2 1 0 0 0 0))) sS (fun t => (t.unit R).x 31 == 1 &&
    [61, 62, 63].map (fun k => (velems (t.unit R) k 4).map fun e => e.1.toNat) == [[0x3800, 0x3800, 0, 0xC000], [0, 0x1C00, 0, 0], [0, 0, 0, 0]]) = true := by
  decide +kernel

/-! ### Vector loads and stores -/

/-- Bits [29:0] of layout M: FMT and IMM. -/
def lm (f imm : Nat) : Nat := f * 2 ^ 26 + imm * 2 ^ 4

/-- x1 = 0x20000, x2 = 0 and x3 = 8; v1 = 1, 2, 3, 4 as numbers. -/
def sL : State := withMem (withV (withX s1 R [(0x20000, false), (0, false), (8, false)]) R 1 [1, 2, 3, 4]) (0xF800020000)
  [0x21, 0x43, 0x65, 0x87, 0, 0, 0, 0, 0x78]

/-- VectorLoad: a packed 4-bit row, and a strided 8-bit one; VectorStore: packed and strided. -/
theorem witness_vld : (Ready sL R { rd := [memSpan sL R (cw 4 1 2 0 (lm 8 0))] } ∧ Ready sL R { rd := [memSpan sL R (cw 4 1 3 0 (lm 0 0))] } ∧
      Ready sL R { wr := [memSpan sL R (cw 1 1 2 0 (lm 1 0))] } ∧ Ready sL R { wr := [memSpan sL R (cw 1 1 3 0 (lm 1 0x3FFFF8))] }) ∧
    (memChk R (cw 4 1 2 0 (lm 8 0)) false sL = none ∧ memChk R (cw 4 1 3 0 (lm 0 0)) false sL = none ∧
      memChk R (cw 1 1 2 0 (lm 1 0)) true sL = none ∧ memChk R (cw 1 1 3 0 (lm 1 0x3FFFF8)) true sL = none) ∧
    wordOk R { d := .ve, a := .sc, b := .sc, lay := .m } (cw 63 1 3 0 (lm 1 0x3FFFF8)) = true ∧ (cw 1 1 3 0 (lm 1 0x3FFFF8)).immM = -8 :=
  ⟨⟨ready_of (by decide +kernel), ready_of (by decide +kernel), ready_of (by decide +kernel), ready_of (by decide +kernel)⟩, by decide +kernel⟩

/-- Job 5's NaR trap is armed, with NSTOP 0; a NaR of p16 stands at x1. -/
def sArm : State :=
  withMem (({ sL with lkp := { sL.lkp with sched := { sL.lkp.sched with jobs := List.replicate 6 {} } } }).modJob 5 fun y => { y with armed := true })
    0xF800020000 [0, 0x80]

/-- VectorLoad, VectorStore, QuantWritesItsRows: a trap that is not armed, and one that does not stop the job. -/
theorem witness_no_trap_stop : NoTrapStop sL R ∧ (sArm.jobRun (sArm.unit R).job).armed = true ∧ NoTrapStop sArm R :=
  ⟨.inl (by decide +kernel), by decide +kernel, .inr (by decide +kernel)⟩

/-- A NaR that VLD writes is the vector unit's (08 R264). -/
theorem test_vld_nar : gives (.vld R (cw 4 1 2 0 (lm 1 0))) sArm (fun t => ((t.unit R).trap.map fun (p : TrapRep) => (p.part, p.pc, p.lane)) == some (1, 3, 0)) = true := by
  decide +kernel

theorem test_vld_i4 : vAfter (.vld R (cw 4 1 2 0 (lm 8 0))) sL R = [1, 2, 3, 4, 0] := by decide +kernel
theorem test_vld_stride : vAfter (.vld R (cw 4 1 3 0 (lm 0 0))) sL R = [0x21, 0x78, 0, 0, 0] := by decide +kernel
theorem test_vst : gives (.vst R (cw 1 1 2 0 (lm 1 0))) sL (fun t => holdsAt t 0xF800020000 [1, 0, 2, 0, 3, 0, 4, 0, 0x78]) = true := by
  decide +kernel
theorem test_vst_i4 : gives (.vst R (cw 1 1 2 0 (lm 8 0))) sL (fun t => holdsAt t 0xF800020000 [0x21, 0x43, 0x65, 0x87]) = true := by
  decide +kernel

/-! ### Reductions and the wide adder -/

/-- x1 = 0x20000, x2 = 0x20100, x3 = 0x20200, x4 = 2; v1 = 1, 2, −1, 2 in p16. -/
def sA : State := withV (withX s1 R [(0x20000, false), (0x20100, false), (0x20200, false), (2, false)]) R 1 [0x4000, 0x4800, 0xC000, 0x4800]

/-- ReductionRecords. -/
theorem witness_reduce : (Quiet sA R ∧ Ready sA R { wr := [(0x20000, 0x20060)] } ∧ Ready sA R { wr := [(0x20000, 0x20008)] }) ∧
    (wordOk R formSum (cw 1 1 0 0 (lv 1 0 0 0 0 0)) = true ∧
      wordOk R { d := .sc, a := .ve, b := .sc, lay := .v fun x => x == 0 } (cw 1 1 4 0 (lv 1 0 0 0 0 0)) = true ∧
      wordOk R { d := .sc, a := .sc, b := .sc, lay := .v fun x => x == 0 } (cw 1 4 4 0 (lv 1 0 0 0 0 0)) = true ∧
      sA.accOk R 0x20000 96 true = true ∧ sA.accOk R 0x20000 8 true = true ∧ (sA.unit R).xp 1 = false) :=
  ⟨⟨quiet_reach (by decide +kernel), ready_of (by decide +kernel), ready_of (by decide +kernel)⟩, by decide +kernel⟩

/-- The record of the sum 4 of four p16 values. -/
def rec4 : Fwp := Fwp.ofVals 1 false [.fin 4]

theorem test_vsum : gives (.vsum R (cw 1 1 0 0 (lv 1 0 0 0 0 0))) sA
    (fun t => holdsAt t 0xF800020000 ({ rec4 with acc := 4 }).bytes && (t.unit R).next == 4) = true := by decide +kernel
theorem test_vsumsq : gives (.vsumsq R (cw 1 1 0 0 (lv 1 0 0 0 0 0))) sA
    (fun t => holdsAt t 0xF800020000 ({ Fwp.ofVals 1 false [.fin 10] with acc := 4 }).bytes) = true := by decide +kernel
/-- 2 is the largest, first at element 1; its INDEX is xB + 1 (R227). -/
theorem test_vmaxi : gives (.vmaxi R (cw 1 1 4 0 (lv 1 0 0 0 0 0))) sA (fun t => t.readNat 0xF800020000 8 == 3 * 2 ^ 32 + 0x4800) = true := by
  decide +kernel
theorem test_vmini : gives (.vmini R (cw 1 1 4 0 (lv 1 0 0 0 0 0))) sA (fun t => t.readNat 0xF800020000 8 == 4 * 2 ^ 32 + 0xC000) = true := by
  decide +kernel
/-- 1 · 2 in p16, counted as one term. -/
theorem test_wprod : gives (.wprod R (cw 1 5 6 0 (lv 1 0 0 0 0 0)))
    (sA.modU R fun u => (u.setX 5 0x4000 false).setX 6 0x4800 false)
    (fun t => holdsAt t 0xF800020000 ({ Fwp.ofVals 1 false [.fin 2] with acc := 1 }).bytes) = true := by decide +kernel

/-- Winner records at 0x20100 and 0x20200. -/
def sWin : State := withMem (withMem sA 0xF800020100 (leBytes 8 (9 * 2 ^ 32 + 0x4000))) 0xF800020200 (leBytes 8 (3 * 2 ^ 32 + 0x4000))
/-- Two records at 0x20100 and one at 0x20200. -/
def sRec : State := withMem (withMem (withMem sA 0xF800020100 ({ rec4 with acc := 4 }).bytes) 0xF800020160 ({ rec4 with acc := 4 }).bytes)
  0xF800020200 ({ Fwp.ofVals 1 false [.fin 10] with acc := 4 }).bytes

/-- WideAdderResult: WINMAX and WINMIN, ROWSTAT, WRED, WROUND; CombineRecords. -/
theorem witness_adder : (Quiet sWin R ∧ Quiet sRec R ∧ Ready sWin R { rd := [(0x20100, 0x20108), (0x20200, 0x20208)], wr := [(0x20000, 0x20008)] } ∧
      Ready sRec R { rd := [(0x20100, 0x20160), (0x20200, 0x20260)], wr := [(0x20000, 0x20008)] } ∧
      Ready sRec R { rd := [(0x20100, 0x20100 + 96 * 2)], wr := [(0x20000, 0x20060)] } ∧ Ready sRec R { rd := [(0x20100, 0x20160)] } ∧
      Ready sRec R { rd := [(0x20100, 0x20100 + 96 * 2), (0x20000, 0x20000 + 96 * 2)], wr := [(0x20000, 0x20000 + 96 * 2)] }) ∧
    (wordOk R { d := .sc, a := .sc, b := .sc, lay := .v fun x => x == 0 } (cw 1 2 3 0 (lv 1 0 0 0 0 0)) = true ∧
      wordOk R { d := .sc, a := .sc, c := .sc, lay := .v fun x => x == 0 } (cw 1 2 0 4 (lv 0 0 0 0 0 0)) = true ∧
      sRec.accOk R 0x20100 192 false = true ∧ sRec.accOk R 0x20200 96 false = true ∧ sRec.accOk R 0x20000 192 true = true ∧
      scaleOk 1 0 = true) :=
  ⟨⟨quiet_reach (by decide +kernel), quiet_reach (by decide +kernel), ready_of (by decide +kernel), ready_of (by decide +kernel),
    ready_of (by decide +kernel), ready_of (by decide +kernel), ready_of (by decide +kernel)⟩, by decide +kernel⟩

/-- Equal values: the lower INDEX wins (04 R130). -/
theorem test_winmax : gives (.winmax R (cw 1 2 3 0 (lv 1 0 0 0 0 0))) sWin (fun t => t.readNat 0xF800020000 8 == 3 * 2 ^ 32 + 0x4000) = true := by
  decide +kernel
theorem test_winmin : gives (.winmin R (cw 1 2 3 0 (lv 1 0 0 0 0 0))) sWin (fun t => t.readNat 0xF800020000 8 == 3 * 2 ^ 32 + 0x4000) = true := by
  decide +kernel
/-- Mean 4/4 = 1, variance (10 − 4 · 1)/4 = 1.5, in p32 (05 R176). -/
theorem test_rowstat : gives (.rowstat R (cw 1 2 3 0 (lv 0 0 0 0 0 0))) sRec
    (fun t => t.readNat 0xF800020000 4 == 0x40000000 && t.readNat 0xF800020004 4 == 0x44000000) = true := by decide +kernel
theorem test_wred : gives (.wred R (cw 1 2 0 4 (lv 0 0 0 0 0 0))) sRec
    (fun t => holdsAt t 0xF800020000 ({ Fwp.ofVals 1 false [.fin 8] with acc := 8 }).bytes) = true := by decide +kernel
theorem test_wround : xAfter (.wround R (cw 5 2 0 0 (lv 0 1 0 0 0 0))) sRec R 5 = (0x5000, false, 4, 3) := by decide +kernel
/-- An empty record has ACC_CNT 0 and image 0; combining it leaves the other's sum. -/
theorem test_wcomb : gives (.wcomb R (cw 1 2 0 4 (lv 0 0 0 0 0 0)))
    (withMem (withMem sRec 0xF800020000 ({ rec4 with acc := 4 }).bytes) 0xF800020060 ({ rec4 with acc := 4 }).bytes)
    (fun t => holdsAt t 0xF800020060 ({ Fwp.ofVals 1 false [.fin 8] with acc := 8 }).bytes) = true := by decide +kernel

/-! ### Quantisation -/

/-- A block for one row of four p16 elements into i8 with G = 1. -/
def qblk : List Byte := leBytes 4 0x20100 ++ leBytes 4 0 ++ leBytes 2 0 ++ leBytes 2 3 ++ leBytes 1 1 ++ leBytes 1 6 ++ leBytes 2 0x4000 ++ leBytes 1 0 ++
  leBytes 1 0 ++ leBytes 2 0 ++ leBytes 4 0x20200 ++ leBytes 4 0 ++ leBytes 4 0x20300 ++ leBytes 4 0x20400 ++ leBytes 4 0 ++ leBytes 4 0x20500 ++
  leBytes 4 0x20600
/-- The row is 1, 2, −1 and 0.5. -/
def sQn : State := withMem (withMem (withX s1 R [(0x20000, false)]) 0xF800020000 qblk) 0xF800020100 [0, 0x40, 0, 0x48, 0, 0xC0, 0, 0x38]

/-- QuantWritesItsRows. -/
theorem witness_quant :
    let p := readQParam sQn R 0x20000
    let ws := quantAll p 0 0 (quantRows sQn R p)
    (Quiet sQn R ∧ Ready sQn R { rd := [(0x20000, 0x20000 + 64), (p.src, p.src + (p.nrow - 1) * p.sstride + bytesOf p.fmtS p.len)]
                                 wr := ws.map fun x => (x.1, x.1 + x.2.1.length) }) ∧
    (wordOk R { a := .sc, lay := .q } (cw 0 1 0 0 0) = true ∧ quantChk R (cw 0 1 0 0 0) sQn = none ∧ (sQn.unit R).xp 1 = false) ∧
    ws.Pairwise (fun x y => x.1 + x.2.1.length ≤ y.1 ∨ y.1 + y.2.1.length ≤ x.1) :=
  ⟨⟨quiet_reach (by decide +kernel), ready_of (by decide +kernel)⟩, by decide +kernel, by decide +kernel⟩

/-- σ is 2/127 rounded into p8, 2^-6; the codes are 64, 127 (clamped), −64 and 32 (06 R193). -/
theorem test_quant : gives (.quant R (cw 0 1 0 0 0)) sQn
    (fun t => holdsAt t 0xF800020200 [64, 127, 0xC0, 32] && holdsAt t 0xF800020300 [0x18] && t.reach[0].cnt.clamp == 1) = true := by
  decide +kernel

/-- A tile of one row and one column of i8, and an activation entry for element 0, whose code escapes. -/
def xblk : List Byte := leBytes 16 (2 ^ 124 + 6 * 2 ^ 116 + 6 * 2 ^ 112 + 0x20100 * 2 ^ 42) ++ leBytes 16 (2 * 2 ^ 124 + 0x20200 * 2 ^ 42) ++
  leBytes 4 0x20300 ++ leBytes 2 0 ++ leBytes 2 0 ++ leBytes 4 0x20400 ++ leBytes 4 0x20500 ++ leBytes 4 16
def sSx : State := withMem (withMem (withMem (withMem (withX s1 R [(0x20000, false)]) 0xF800020000 xblk) 0xF800020100 [0x80]) 0xF800020200 [2])
  0xF800020300 (leBytes 8 (0x48000000 * 2 ^ 32))

/-- SidexWritesEntries. -/
theorem witness_sidex :
    let p := readXParam sSx R 0x20000
    (Quiet sSx R ∧ Ready sSx R { rd := [(0x20000, 0x20000 + 64), (p.list, p.list + 8 * p.cnt), (p.zp, p.zp + p.rows),
        (p.arow 0, p.arow (p.rows - 1) + bytesOf p.fa p.klen), (p.wcol 0, p.wcol p.ncol)], wr := [(p.out, p.out + 8 * p.nout)] }) ∧
    (wordOk R { d := .sc, a := .sc, lay := .q, nmu := false } (cw 3 1 0 0 0) = true ∧ sidexChk R (cw 3 1 0 0 0) sSx = none ∧
      ((List.range p.rows).flatMap fun t => (List.range p.ncol).flatMap fun j => (sideEntries sSx R p (sideList sSx R p) t j).1).length = 1) :=
  ⟨⟨quiet_reach (by decide +kernel), ready_of (by decide +kernel)⟩, by decide +kernel⟩

/-- The escaped activation 2 meets the weight 2: one entry of 4 for row 0 and column 0 (06 R200, R201). -/
theorem test_sidex : gives (.sidex R (cw 3 1 0 0 0)) sSx
    (fun t => t.readNat 0xF800020500 8 == 0x50000000 * 2 ^ 32 && (t.unit R).x 3 == 1) = true := by decide +kernel

/-- An error record of 4 over four elements at x1, a threshold of 1, 0.5 or NaR, and a budget. -/
def sQc (thr : W32) (left acc : Nat) : State :=
  let s := withMem (withX s1 R [(0x20000, false)]) 0xF800020000 ({ Fwp.ofVals 1 false [.fin 4] with acc := acc }).bytes
  { s.modReach 0 fun x => { x with rerunLeft := left } with prf := { s.prf with thresh := [thr] } }

/-- QcheckDecides: the five outcomes, at mean error equal to the threshold and above it. -/
theorem witness_qcheck : (∀ thr ∈ [0x40000000, 0x38000000, 0x80000000], Ready (sQc thr 1 4) R { rd := [(0x20000, 0x20060)] } ∧ Quiet (sQc thr 1 4) R) ∧
    (Ready (sQc 0x38000000 0 4) R { rd := [(0x20000, 0x20060)] } ∧ Ready (sQc 0x38000000 0 0) R { rd := [(0x20000, 0x20060)] }) ∧
    ((sQc 0x40000000 1 4).accOk R 0x20000 96 false = true ∧ (cw 3 1 0 0 0).immQ < ((sQc 0x40000000 1 4).threshOf 5).length) ∧
    ((decodePosit 32 0x80000000).isNan = true ∧ ((sQc 0x38000000 0 0).readFwp R 0x20000).acc = 0 ∧
      ((sQc 0x40000000 1 4).readFwp R 0x20000).acc = 4 ∧
      (quireRead .q32 ((sQc 0x40000000 1 4).readFwp R 0x20000).image).1 ≤ (decodePosit 32 0x40000000).rat * 4 ∧
      ¬(quireRead .q32 ((sQc 0x40000000 1 4).readFwp R 0x20000).image).1 ≤ (decodePosit 32 0x38000000).rat * 4) := by
  refine ⟨?_, ⟨ready_of (by decide +kernel), ready_of (by decide +kernel)⟩, by decide +kernel, by decide +kernel⟩
  simp only [List.mem_cons, List.not_mem_nil, or_false]
  rintro _ (rfl | rfl | rfl) <;> exact ⟨ready_of (by decide +kernel), quiet_reach (by decide +kernel)⟩

/-- xD, the budget and the denials after QCHECK. -/
def qAfter (s : State) : W64 × Nat × Nat :=
  match exec (.qcheck R (cw 3 1 0 0 0)) s with
  | .next t => ((t.unit R).x 3, t.reach[0].rerunLeft, t.reach[0].denied)
  | _ => (9, 0, 0)

theorem test_qcheck : qAfter (sQc 0x40000000 1 4) = (0, 1, 0) ∧ qAfter (sQc 0x38000000 1 4) = (1, 0, 0) ∧ qAfter (sQc 0x38000000 0 4) = (2, 0, 1) ∧
    qAfter (sQc 0x38000000 0 0) = (3, 0, 0) ∧ qAfter (sQc 0x80000000 0 0) = (0, 0, 0) := by decide +kernel

/-! ### Steps that fail -/

/-- A tile entry with its PC. -/
def te (w : Nat) : TileEntry := ⟨BitVec.ofNat 128 w, 9, 2⟩

/-- Reach 0 with a tile queue. -/
def sH (w : Nat) : State := s1.modReach 0 fun x => { x with tq := [te w] }

/-- A step of the unit's job is in flight. -/
def sStep (s : State) : State := ({ s with lkp := { s.lkp with sched := { s.lkp.sched with jobs := List.replicate 6 {} } } }).modJob 5 fun y => { y with step := some { no := 77, rel := 0, res := [0], begun := [0] } }

/-- BadWordsFailTheStep: control words, reserved tile words with OP 0, 8 and 15, a TILE_MAC with MODE 3, and one whose store is EMPTY. -/
theorem witness_bad : (s1.canDispatch R {} = true ∧ (s1.unit R).next < (s1.unit R).codeLen ∧ wordOk R { lay := .q } (cw 0 0 0 0 0xABCD) = true) ∧
    (ctlDefined 0 0 = false ∧ ctlDefined 15 63 = false ∧ wordOk R formRR (cw 32 0 0 0 0) = false ∧ wordOk R formRR (cw 1 0 0 0 1) = false) ∧
    (Heads (sH 0) 0 (te 0) [] 0 ∧ Heads (sH (8 * 2 ^ 124)) 0 (te (8 * 2 ^ 124)) [] 8 ∧ Heads (sH (15 * 2 ^ 124)) 0 (te (15 * 2 ^ 124)) [] 15) ∧
    (Heads (sH (2 ^ 124 + 3 * 2 ^ 122)) 0 (te (2 ^ 124 + 3 * 2 ^ 122)) [] 1 ∧ macWait 0 (sH (2 ^ 124 + 3 * 2 ^ 122)) (2 ^ 124 + 3 * 2 ^ 122) = false ∧
      macChk 0 (sH (2 ^ 124 + 3 * 2 ^ 122)) (2 ^ 124 + 3 * 2 ^ 122) = some 0x0104) ∧ StagingRoom s1 5 ∧ StagingRoom (sStep s1) 5 :=
  ⟨by decide +kernel, by decide +kernel, ⟨heads_of (by decide +kernel), heads_of (by decide +kernel), heads_of (by decide +kernel)⟩,
    ⟨heads_of (by decide +kernel), by decide +kernel, by decide +kernel⟩, stagingRoom_of (by decide +kernel), stagingRoom_of (by decide +kernel)⟩

/-- EVENT, ADDR and first detail of the newest record. -/
def evAfter (i : Instr) (s : State) : Option (W16 × W64 × W64) :=
  match exec i s with
  | .next t => (t.mgt.recs.getLast?).map fun e => (e.event, e.addr, e.d0)
  | _ => none

theorem test_trap : evAfter (.trap R (cw 0 0 0 0 0xABCD)) s1 = some (0x0113, 3, 0xABCD) := by decide +kernel
theorem test_trap_step : gives (.trap R (cw 0 0 0 0 0xABCD)) ((sStep s1).modNmu 1 fun x => { x with u := {} })
    (fun t => (t.jobRun 5).step.isNone && (t.jobRun 5).failed == [77] && (t.unit R).run == .stopped) = true := by decide +kernel
theorem test_reserved_word : evAfter (.reservedControlWord R 0 0) s1 = some (0x0111, 3, 0) := by decide +kernel
theorem test_reserved_tile : evAfter (.reservedTileOp 0) (sH (9 * 2 ^ 124 + 5 * 2 ^ 64)) = some (0x0104, 9, 9 * 2 ^ 60 + 5) := by decide +kernel
theorem test_mac_empty : evAfter (.tileMac 0) (atS1 <| sH (2 ^ 124 + 2 ^ 116 + 2 ^ 112)) = some (0x0104, 9, 2 ^ 60 + 2 ^ 52 + 2 ^ 48) := by decide +kernel

/-! ### Tile instructions -/

/-- A tile word: OP, [123:121], FMT_A, FMT_W, GRP, SLOT, [79:72], [71:64], address, stride. -/
def tw (op m fa fw grp slot tok k addr str : Nat) : Nat :=
  op * 2 ^ 124 + m * 2 ^ 121 + fa * 2 ^ 116 + fw * 2 ^ 112 + grp * 2 ^ 88 + slot * 2 ^ 80 + tok * 2 ^ 72 + k * 2 ^ 64 + addr * 2 ^ 42 + str * 2 ^ 30

/-- Group 0 open with two q16 slots for p16; store 0 LOADED with the column 1, 2 in lane 0; activations 2, 3 at 0x20000. -/
def sTw (q : List TileEntry) : State :=
  (withMem s1 0xF800020000 [0, 0x48, 0, 0x4C]).modReach 0 fun x =>
    { x with
      tq := q
      grps := x.grps.set 0 { isOpen := true, cls := 1, fmtO := 1, n := 2 }
      ws := x.ws.set 0 { state := .loaded, fmt := 1, ncol := 1, cols := [(1, 0x40), (3, 0x48)] } }

/-- Words for that state: TILE_MAC, TILE_ELEM of 2, 3 with themselves, SLOTADD of one entry, SLOTADD of one record per slot. -/
def wMac : Nat := tw 1 0 1 1 0 0 0 2 0x20000 0
def wElem : Nat := 3 * 2 ^ 124 + 2 ^ 116 + 2 ^ 112 + 1 * 2 ^ 92 + 0x20000 * 2 ^ 50 + 0x20000 * 2 ^ 28
def wAdd : Nat := tw 7 4 0 0 0 0 0 0 0x20040 0
def wAddR : Nat := tw 7 0 0 0 0 0 0 0 0x20080 0

/-- The product of a run is exact: 2 · 1 + 3 · 2 = 8. -/
theorem test_mac_terms : (macUpds (sTw [te wMac]) 0 (te wMac)).map (fun c => c.map fun u => (u.slot, u.m, u.terms.map fun l => (l.lane, l.t.v))) =
    [[(0, 2, [(0, 8)])]] := by decide +kernel

/-- TileWordsOweUpdates: a store that is being filled; each word that may act; entries none of which is bad. -/
theorem witness_tile : (Heads (sTw [te wMac]) 0 (te wMac) [] 1 ∧ Heads (sTw [te wElem]) 0 (te wElem) [] 3 ∧ Heads (sTw [te wAdd]) 0 (te wAdd) [] 7 ∧
      Heads (sTw [te wAddR]) 0 (te wAddR) [] 7) ∧
    (macWait 0 (sTw [te wMac]) wMac = false ∧ macChk 0 (sTw [te wMac]) wMac = none ∧ elemChk 0 (sTw [te wElem]) wElem = none ∧
      slotaddChk 0 (sTw [te wAdd]) wAdd = none ∧ bitAt wAdd 123 = true ∧
      (entryUpds 0 (sTw [te wAdd]) (te wAdd) ((sTw [te wAdd]).tileGrp 0 wAdd) 0 1).2 = false ∧
      slotaddChk 0 (sTw [te wAddR]) wAddR = none ∧ bitAt wAddR 123 = false) ∧
    (macWait 0 ((sTw [te wMac]).modReach 0 fun x => { x with ws := x.ws.set 0 { filling := true } }) wMac = true) :=
  ⟨⟨heads_of (by decide +kernel), heads_of (by decide +kernel), heads_of (by decide +kernel), heads_of (by decide +kernel)⟩,
    by decide +kernel, by decide +kernel⟩

/-- The list of pairs of a lane holds numbers alone. -/
theorem witness_lane : ∀ p ∈ [(Val.fin 2, Val.fin 1), (Val.zero true, Val.fin 2)],
    ((∃ x, p.1 = .fin x) ∨ ∃ b, p.1 = .zero b) ∧ ((∃ x, p.2 = .fin x) ∨ ∃ b, p.2 = .zero b) := by
  simp

theorem test_tile_mac : gives (.tileMac 0) (atS1 <| sTw [te wMac]) (fun t => t.reach[0].tq == [] && t.reach[0].pend.length == 1) = true := by decide +kernel
theorem test_tile_elem : gives (.tileElem 0) (sTw [te wElem])
    (fun t => t.reach[0].pend.map (fun c => c.map fun u => u.terms.map fun l => (l.lane, l.t.v)) == [[[(0, 4), (1, 9)]]]) = true := by decide +kernel
theorem test_slotadd : gives (.slotadd 0) (withMem (sTw [te wAdd]) 0xF800020040 (leBytes 8 (0x48000000 * 2 ^ 32 + 2 ^ 16)))
    (fun t => t.reach[0].pend.map (fun c => c.map fun u => (u.slot, u.terms.map fun l => (l.lane, l.t.v))) == [[(1, [(0, 2)])]]) = true := by
  decide +kernel

/-- WLOAD of one column of i8 at 0x20000 into store 1; a LOADED store 0 keeps one waiting. -/
def wLoad (k : Nat) : Nat := 2 * 2 ^ 124 + 6 * 2 ^ 112 + k * 2 ^ 91 + 0x20000 * 2 ^ 42
def sFill : State := s1.modReach 0 fun x => { x with fill := some 1, ws := x.ws.set 1 { filling := true, fmt := 6, ncol := 1 } }

/-- WeightLoadFillsItsStore. -/
theorem witness_wload : (Heads (sTw [te (wLoad 0)]) 0 (te (wLoad 0)) [] 2 ∧ Heads (sTw [te (wLoad 1)]) 0 (te (wLoad 1)) [] 2) ∧
    (wloadWait 0 (sTw [te (wLoad 0)]) (wLoad 0) = true ∧ wloadWait 0 (sTw [te (wLoad 1)]) (wLoad 1) = false ∧
      wloadChk 0 (sTw [te (wLoad 1)]) (wLoad 1) = none ∧ s1.reach[0].fill = none ∧ sFill.reach[0].fill = some 1) :=
  ⟨⟨heads_of (by decide +kernel), heads_of (by decide +kernel)⟩, by decide +kernel⟩

theorem test_wload : gives (.wload 0) (atS1 <| sTw [te (wLoad 1)])
    (fun t => t.reach[0].fill == some 1 && t.reach[0].ws[1].cols == [(1, 0x48), (3, 0x4C)] && t.reach[0].ws[1].state == .empty) = true := by
  decide +kernel
theorem test_wload_complete : gives (.wloadComplete 0) sFill (fun t => t.reach[0].ws[1].state == .loaded && t.reach[0].fill.isNone) = true := by
  decide +kernel

/-- OPEN of group 7: one q32 slot for p32 with XS, at slot 3. -/
def wOpen : Nat := 4 * 2 ^ 124 + 2 * 2 ^ 122 + 2 ^ 120 + 2 * 2 ^ 116 + 7 * 2 ^ 88 + 3 * 2 ^ 80 + 0x20020 * 2 ^ 42
/-- Its cells are those that an update is owed to. -/
def sOwe : State := (sTw [te wOpen]).modReach 0 fun x =>
  { x with grps := x.grps.set 6 { isOpen := true, cls := 2, n := 4 }, pend := [[⟨6, 3, .exact, 1, [], 0, 0⟩]] }

/-- OpenClearsItsSlots: the word waits, and acts on a bank in which other slots hold values. -/
theorem witness_open : (Heads (sTw [te wOpen]) 0 (te wOpen) [] 4 ∧ Heads sOwe 0 (te wOpen) [] 4) ∧
    ((sTw [te wOpen]).reach[0].owesCells (openOf wOpen).cells.1 (openOf wOpen).cells.2 = false ∧
      sOwe.reach[0].owesCells (openOf wOpen).cells.1 (openOf wOpen).cells.2 = true ∧ openChk 0 (sTw [te wOpen]) wOpen = none ∧
      (openOf wOpen).cells = (12, 16) ∧ swf 0 ([(23, 1), (24, 2), (31, 3), (32, 4)] : List (Nat × W64)) = true) :=
  ⟨⟨heads_of (by decide +kernel), heads_of (by decide +kernel)⟩, by decide +kernel⟩

theorem test_open : gives (.openGrp 0) (atS1 <| (sTw [te wOpen]).modReach 0 fun x => { x with bank := { x.bank with words := [(23, 1), (24, 2), (31, 3), (32, 4)] } })
    (fun t => t.reach[0].bank.words == [(23, 1), (32, 4)] && t.reach[0].grps[7].isOpen) = true := by decide +kernel

/-- CLOSE of group 0 into 0x20100, and FWPW with CLR, of one column; the slots hold 1 and −2. -/
def wClose : Nat := 5 * 2 ^ 124 + 0x20100 * 2 ^ 50 + 1 * 2 ^ 16
def wFwpw : Nat := 6 * 2 ^ 124 + 2 ^ 123 + 0x20200 * 2 ^ 42
def sCl (w : Nat) : State := (sTw [te w]).modReach 0 fun x =>
  { x with bank := (x.bank.setImage 1 0 0 (2 ^ 112)).setImage 1 0 1 (2 ^ 256 - 2 ^ 113) }

/-- CloseAndFwpwWriteTheSlots: both words act, and wait for an update owed to the group. -/
theorem witness_close : (Heads (sCl wClose) 0 (te wClose) [] 5 ∧ Heads (sCl wFwpw) 0 (te wFwpw) [] 6) ∧
    (outWait 0 (sCl wClose) wClose = false ∧ closeChk 0 (sCl wClose) wClose = none ∧ outWait 0 (sCl wFwpw) wFwpw = false ∧
      fwpwChk 0 (sCl wFwpw) wFwpw = none ∧ ((sCl wClose).tileGrp 0 wClose).xs = false ∧ ((sCl wClose).tileGrp 0 wClose).n = 2 ∧
      ((sCl wClose).jobRun (sCl wClose).reach[0].u.job).armed = false ∧ bits wClose 122 2 = 0) ∧
    outWait 0 ((sCl wClose).modReach 0 fun x => { x with pend := [[⟨0, 1, .exact, 1, [], 0, 0⟩]] }) wClose = true :=
  ⟨⟨heads_of (by decide +kernel), heads_of (by decide +kernel)⟩, by decide +kernel, by decide +kernel⟩

theorem test_close : gives (.closeGrp 0) (atS1 <| sCl wClose)
    (fun t => holdsAt t 0xF800020100 [0, 0x40] && holdsAt t 0xF800020120 [0, 0xB8] && !t.reach[0].grps[0].isOpen) = true := by decide +kernel
theorem test_fwpw : gives (.fwpw 0) (atS1 <| sCl wFwpw)
    (fun t => holdsAt t 0xF800020200 ({ Fwp.ofVals 1 false [.fin 1] with cls := 1, zs := 0, acc := 0 }).bytes && !t.reach[0].grps[0].isOpen) = true := by
  decide +kernel

/-- An update of slot 1 by −2.5 in lane 0 is owed; the slot holds 1 and has counted 7 products. -/
def updX : Upd := ⟨0, 1, .exact, 3, [{ lane := 0, t := { v := -(5 / 2) } }], 0, 0⟩
def sUp : State := (sTw []).modReach 0 fun x =>
  { x with pend := [[updX]], bank := (x.bank.setImage 1 0 1 (2 ^ 112)).setCnt 1 1 { acc := 7 } }

/-- SlotUpdateAccumulates. -/
theorem witness_update : sUp.reach[0].pend = [updX] :: [] ∧ sUp.reach[0].u.wait = .none ∧ (sUp.jobRun sUp.reach[0].u.job).armed = false ∧
    (sUp.reach[0].grps[0]?.getD ({} : Grp)).isOpen = true ∧ (sUp.reach[0].bank.cnt 1 1).acc = 7 ∧ 1 ≤ clsLast 1 ∧ (updX.terms.map (·.lane)).Nodup ∧
    sUp.reach[0].bank.image 1 0 1 ≠ (clsOf 1).nar := by decide +kernel

/-- 1 − 2.5 = −1.5 in units of 2^-112, modulo 2^256 (02 R54). -/
theorem test_slot_update : gives (.slotUpdate 0) sUp
    (fun t => t.reach[0].bank.image 1 0 1 == 2 ^ 256 - 3 * 2 ^ 111 && (t.reach[0].bank.cnt 1 1).acc == 10 && t.reach[0].pend == []) = true := by
  decide +kernel

/-! ### Parameter update -/

/-- A native shard header at 0x100000 on the NMU of M-die 1: STEP 41, 1 row of 4 p16 weights at offset 64, no other tensor. -/
def shard (flags step job : Nat) : List Byte :=
  leBytes 4 0xFD2D0A51 ++ leBytes 2 1 ++ [0, BitVec.ofNat 8 flags] ++ leBytes 4 step ++ leBytes 4 1 ++ leBytes 4 4 ++ leBytes 2 0x1FFF ++ leBytes 2 0 ++
    leBytes 4 64 ++ leBytes 12 0 ++ leBytes 8 0 ++ leBytes 8 0 ++ leBytes 2 job ++ leBytes 6 0
/-- A schedule with the constant rate 0.5 (KIND 0). -/
def rate : List Byte := leBytes 4 0x38000000 ++ leBytes 60 0
/-- x1 is the shard's address, x2 = 41, x3 the schedule's; x4 = 0. -/
def sU (flags step job : Nat) : State :=
  (withMem (withMem (withX s1 N [(0x100000, false), (41, false), (0x200000, false)]) 0x100000 (shard flags step job)) 0x200000 rate).modNmu 1
    fun x => { x with wins := [(0x100000, 0x1FFFFF), (0x200000, 0x20003F)] }

/-- LrateOperations: a CHECK that passes, one of a BUSY shard, one of another step, a COMMIT, BIASC and REPORT. -/
theorem witness_lrate : (∀ p ∈ [(0, 41, 0), (1, 41, 5), (0, 40, 0)], Ready (sU p.1 p.2.1 p.2.2) N {} ∧ AllKeyed (sU p.1 p.2.1 p.2.2) ∧ LlcRoom (sU p.1 p.2.1 p.2.2)) ∧
    (checkStatus (sU 0 41 0) 1 0x100000 41 = none ∧ schedChk (sU 0 41 0) 1 0x200000 = none) ∧
    (checkStatus (sU 1 41 5) 1 0x100000 41 = some (0x83, 0x0118) ∧ checkStatus (sU 0 40 0) 1 0x100000 41 = some (0x81, 0x0116)) ∧
    ((sU 1 41 5).nmu[1].poisonW = false ∧ inWindow (sU 1 41 5) 1 0x100000 64 = true ∧ (readShard (sU 1 41 5) 0x100000).busy = true ∧
      (readShard (sU 1 41 5) 0x100000).busyJob = (sU 1 41 5).nmu[1].u.job ∧ (readShard (sU 1 41 5) 0x100000).step = 41) ∧
    ((sU 0 40 0).nmu[1].poisonW = false ∧ inWindow (sU 0 40 0) 1 0x100000 64 = true ∧ (readShard (sU 0 40 0) 0x100000).busy = false) := by
  refine ⟨?_, by decide +kernel, by decide +kernel, by decide +kernel, by decide +kernel⟩
  simp only [List.mem_cons, List.not_mem_nil, or_false]
  rintro _ (rfl | rfl | rfl) <;> exact ⟨ready_of (by decide +kernel), allKeyed_of (by decide +kernel), by unfold LlcRoom; decide +kernel⟩

theorem test_check : gives (.lrateCheck N (cw 5 1 2 3 0)) (sU 0 41 0)
    (fun t => (t.unit N).x 5 == 0x38000000 && holdsAt t 0x100007 [1] && holdsAt t 0x100038 [5, 0] && (t.unit N).next == 4) = true := by decide +kernel
theorem test_check_busy : gives (.lrateCheck N (cw 5 1 2 3 0)) (sU 1 41 5)
    (fun t => (t.unit N).x 5 == 0x8300000000000000 && t.nmu[1].cnt.torn == 1) = true := by decide +kernel
theorem test_commit : gives (.lrateCommit N (cw 5 1 2 0 0)) (sU 1 41 5)
    (fun t => t.mem == putBytes (sU 0 42 0).mem 0x200000 rate && (t.unit N).x 5 == 0) = true := by decide +kernel
theorem test_commit_refused : gives (.lrateCommit N (cw 5 1 2 0 0)) (sU 0 40 0)
    (fun t => t.mem == (sU 0 40 0).mem && (t.unit N).x 5 == 0x8400000000000000) = true := by decide +kernel
/-- 1/(1 − 0.5^n) is NaR for n = 0 (09 R282). -/
theorem test_biasc : xAfter (.lrateBiasc N (cw 5 0 0 1 0)) (withX s1 N [(0x38000000, false)]) N 5 = (0x80000000, false, 4, 3) := by decide +kernel
theorem test_report : evAfter (.lrateReport N (cw 5 1 2 3 0)) (sU 0 41 0) = some (0x0119, 0x100000, 41) := by decide +kernel

/-- An FD1 job on the NMU of M-die 1: rule 1 with β1 = 0, λ = 0 and rate 0.5, a list of one shard of two elements at 0x100000 whose STEP is 41
in step 41: the header. -/
def fd1Hdr : List Byte :=
  leBytes 4 0xFD2D0A51 ++ leBytes 2 1 ++ [1, 0] ++ leBytes 4 41 ++ leBytes 4 1 ++ leBytes 4 2 ++ leBytes 2 0x1111 ++ leBytes 2 0 ++
    leBytes 4 64 ++ leBytes 12 0 ++ leBytes 2 0x4000 ++ leBytes 2 0x4000 ++ leBytes 2 0x4000 ++ leBytes 2 0x4000 ++ leBytes 16 0
/-- Its elements (W, G, M1, M2) are (1, 2, 0, 0) and (−1, 0.5, 0, 0). -/
def sFd : State :=
  let s := withMem (withMem (withMem (withMem s1 0x100000 fd1Hdr) 0x100040 (leBytes 2 0x4000 ++ leBytes 2 0x4800 ++ leBytes 4 0 ++
    leBytes 2 0xC000 ++ leBytes 2 0x3800 ++ leBytes 4 0)) 0x300000 (leBytes 128 0 ++ leBytes 8 0x301000 ++ leBytes 8 1 ++ leBytes 8 0 ++ leBytes 8 0x302000))
    0x301000 (leBytes 8 0x100000)
  let s := withMem s 0x302000 (leBytes 4 1 ++ leBytes 2 0 ++ leBytes 2 0 ++ leBytes 2 0 ++ leBytes 2 0 ++ leBytes 2 0x3800 ++ leBytes 2 0 ++ leBytes 16 0)
  let s := s.modNmu 1 fun x => { x with upd := 1, argBlk := 0x300000, wins := [(0x100000, 0x1FFFFF), (0x300000, 0x302FFF)], u := { x.u with run := .fd1, next := 0 } }
  s.modJob 5 fun y => { y with step := some { no := 41, rel := 0, res := [17], begun := [17] } }

/-- Fd1UpdatesAShard. -/
theorem witness_fd1 : AllKeyed sFd ∧ (sFd.poison = [] ∧ ∀ d : Fin 4, sFd.mdie[d].quar = []) ∧
    (sFd.nmu[1].u.run = .fd1 ∧ (0 : W32).toNat = sFd.nmu[1].u.next ∧ (0 : W32).toNat < argField sFd 1 136 4 ∧ fd1Chk sFd 1 0 = none ∧
      argField sFd 1 144 8 = 0 ∧ sFd.readNat (argField sFd 1 128 8) 8 = 0x100000) ∧
    ((readShard sFd 0x100000).fd1Ok sFd 1 0x100000 = true ∧ (readShard sFd 0x100000).busy = false ∧ (readShard sFd 0x100000).step = 41 ∧
      ∀ v ∈ (readShard sFd 0x100000).tscale.map (decodePosit 16), v.isNan = false ∧ 0 < v.rat) :=
  ⟨allKeyed_of (by decide +kernel), by decide +kernel, by decide +kernel, by decide +kernel⟩

/-- W − 0.5 · G with M = G: 0 and −1.25; gradients cleared, STEP 42 (09 R294 to R296). -/
theorem test_fd1 : gives (.fd1ShardUpdate 1 0) (atS1 sFd)
    (fun t => holdsAt t 0x100040 (leBytes 4 0 ++ leBytes 2 0x4800 ++ leBytes 2 0 ++ leBytes 2 0xBE00 ++ leBytes 2 0 ++ leBytes 2 0x3800 ++ leBytes 2 0) &&
      holdsAt t 0x100007 [0] && holdsAt t 0x100008 [42, 0, 0, 0] && t.nmu[1].u.next == 1) = true := by decide +kernel

/-! ### Barges -/

/-- A descriptor: KIND, format, source, destination, row bytes, rows, pitches, σ's address, plane stride. -/
def bd (kind fmt src dst rb rows sp dp siga ps : Nat) : List Byte :=
  leBytes 2 (kind * 2 ^ 12) ++ leBytes 2 0xFFFF ++ leBytes 1 fmt ++ leBytes 3 0 ++ leBytes 8 src ++ leBytes 8 dst ++ leBytes 4 rb ++ leBytes 4 rows ++
    leBytes 4 sp ++ leBytes 4 dp ++ leBytes 8 0 ++ leBytes 8 siga ++ leBytes 4 ps ++ leBytes 4 0

/-- Job 5 runs on reach 0, whose store it may use up to 256 KiB, and has a barge under tag 15. -/
def sBg (desc : List Byte) : State :=
  let s := withMem s1 0xF800020000 [1, 2, 3, 4, 5, 6, 7, 8, 9, 10, 11, 12]
  let j : JobE := { rsLen := 0x40000 }
  let e : SlotE := { job := 5, kind := 1, every := 0, phase := 0, reach := 1, nmu := 0, start := 0, len := 10 }
  { s.modReach 0 fun x => { x with barges := x.barges.set 15 { desc, busy := true, job := 5 } } with
    lkp := { s.lkp with sched := { jobs := List.replicate 6 j, tables := [[e]], lvl := [0] } } }

/-- COPY of two rows of 3 bytes, LANEMAJOR of three rows of two codes, TRANSPOSE of two rows of two p16 codes, SPLIT of a row of two p32
values, ZERO of two rows. -/
def dCopy : List Byte := bd 1 0 0xF800020000 0xF800020101 3 2 4 8 0 0
def dLane : List Byte := bd 2 6 0xF800020000 0xF800020400 2 3 2 0 0 0
def dTran : List Byte := bd 3 1 0xF800020000 0xF800020100 4 2 4 64 0 0
def dSplit : List Byte := bd 4 2 0xF800020040 0xF800020100 8 1 0 0 0xF800020203 64
def dZero : List Byte := bd 5 0 0 0xF800020001 2 2 0 4 0 0

/-- Barge 3 of reach 0 was issued before barge 15, between the same stops, and has not moved. -/
def sBehind : State := (sBg dCopy).modReach 0 fun x =>
  { x with barges := (x.barges.set 3 { desc := dCopy, busy := true, job := 5, nth := 6 }).set 15 { desc := dCopy, busy := true, job := 5, nth := 7 } }

/-- BargesMoveTheirRows: a barge that waits. -/
theorem witness_barge_behind : (sBehind.reach[0].barges[3].busy = true ∧ sBehind.reach[0].barges[3].moved = false ∧
    sBehind.reach[0].barges[3].nth < sBehind.reach[0].barges[15].nth) ∧
    (∃ x ∈ sBehind.srcStops (BDesc.ofBytes dCopy), x ∈ sBehind.srcStops (BDesc.ofBytes dCopy)) ∧
    ∃ x ∈ sBehind.dstStops (BDesc.ofBytes dCopy), x ∈ sBehind.dstStops (BDesc.ofBytes dCopy) := by decide +kernel

/-- BargesMoveTheirRows. -/
theorem witness_barge : ∀ d ∈ [dCopy, dLane, dTran, dSplit, dZero],
    AllKeyed (sBg d) ∧ ((sBg d).reach[0].barges[15].busy = true ∧ (sBg d).reach[0].barges[15].moved = false) ∧
      ((BDesc.ofBytes d).ssp = 0 ∧ (BDesc.ofBytes d).dsp = 0 ∧ (sBg d).descBad (.reach 0 15) (sBg d).reach[0].barges[15] (BDesc.ofBytes d) = false ∧
        (sBg d).badRange (.reach 0 15) (sBg d).reach[0].barges[15] (BDesc.ofBytes d) = none ∧
        (sBg d).bargeBehind (.reach 0 15) (sBg d).reach[0].barges[15] (BDesc.ofBytes d) = false) ∧
      ApartFrom (BDesc.ofBytes d).reads (BDesc.ofBytes d).writes ∧ Apart (BDesc.ofBytes d).writes := by
  simp only [List.mem_cons, List.not_mem_nil, or_false]
  rintro _ (rfl | rfl | rfl | rfl | rfl) <;>
    exact ⟨allKeyed_of (by decide +kernel), by decide +kernel, by decide +kernel, by unfold ApartFrom; decide +kernel, by unfold Apart; decide +kernel⟩

/-- Bytes of reach 0's store after a command. -/
def bytesAfter (i : Instr) (s : State) (a n : Nat) : List Byte :=
  match exec i s with
  | .next t => t.read (0xF800000000 + a) n
  | _ => []

theorem test_copy : bytesAfter (.bargeCopy (.reach 0 15) []) (sBg dCopy) 0x20100 12 = [0, 1, 2, 3, 0, 0, 0, 0, 0, 5, 6, 7] := by decide +kernel
theorem test_barge_order : gives (.bargeCopy (.reach 0 15) []) sBehind (· == sBehind) = true ∧
    bytesAfter (.bargeCopy (.reach 0 3) []) sBehind 0x20101 3 = [1, 2, 3] := by decide +kernel
theorem test_lanemajor : bytesAfter (.bargeLanemajor (.reach 0 15)) (sBg dLane) 0x20400 4 = [1, 3, 5, 0] ∧
    bytesAfter (.bargeLanemajor (.reach 0 15)) (sBg dLane) 0x20480 4 = [2, 4, 6, 0] := by decide +kernel
theorem test_transpose : bytesAfter (.bargeTranspose (.reach 0 15)) (sBg dTran) 0x20100 4 = [1, 2, 5, 6] ∧
    bytesAfter (.bargeTranspose (.reach 0 15)) (sBg dTran) 0x20140 4 = [3, 4, 7, 8] := by decide +kernel
/-- The row −2, 1 has σ = 1: pieces −1 and 0.5 (04 R141). -/
theorem test_split : bytesAfter (.bargeSplit (.reach 0 15))
      (withMem (sBg dSplit) 0xF800020040 [0, 0, 0, 0xB8, 0, 0, 0, 0x40]) 0x20100 4 = [0, 0xC0, 0, 0x38] ∧
    bytesAfter (.bargeSplit (.reach 0 15)) (withMem (sBg dSplit) 0xF800020040 [0, 0, 0, 0xB8, 0, 0, 0, 0x40]) 0x20203 1 = [1] := by decide +kernel
theorem test_zero : bytesAfter (.bargeZero (.reach 0 15)) (sBg dZero) 0x20000 8 = [1, 0, 0, 4, 5, 0, 0, 8] := by decide +kernel

/-- A barge that has moved its bytes, with a digest into 0x20100 and without; one that failed. -/
def sDone (dig : Bool) (code : W16) : State := s1.modReach 0 fun x => { x with barges := x.barges.set 0 {
  desc := leBytes 2 (2 ^ 12 + if dig then 128 else 0) ++ leBytes 38 0 ++ leBytes 8 (if dig then 0xF800020100 else 0) ++ leBytes 16 0
  busy := true, moved := true, code, got := [0x61, 0x62, 0x63] } }

/-- BargeCompletes. -/
theorem witness_barge_done : ∀ s ∈ [sDone true 0, sDone false 0x030D], (s.reach[0].barges[0].busy = true ∧ s.reach[0].barges[0].moved = true ∧
    s.cpl.reads = [] ∧ s.reach[0].u.wait = .none ∧ s.reach[0].lateClear = false ∧ s.reach[0].waitBarges = false) ∧
    ((BDesc.ofBytes (sDone true 0).reach[0].barges[0].desc).dig = true ∧ (BDesc.ofBytes (sDone false 0x030D).reach[0].barges[0].desc).dig = false) := by
  decide +kernel

/-- The digest of "abc" is the example of the SM3 standard: 66C7F0F4 … 8F4BA8E0, its first byte at the lowest address. -/
theorem test_barge_done : gives (.bargeComplete (.reach 0 0)) (sDone true 0)
    (fun t => holdsAt t 0xF800020100 [0x66, 0xC7, 0xF0, 0xF4] && holdsAt t 0xF80002011C [0x8F, 0x4B, 0xA8, 0xE0]) = true := by decide +kernel
theorem test_barge_failed : gives (.bargeComplete (.reach 0 0)) (sDone false 0x030D)
    (fun t => t.reach[0].barges[0].code == 0x030D && !t.reach[0].barges[0].busy && t.mem == []) = true := by decide +kernel

/-! ### SFU banks -/

/-- Reach 0 with banks in two states, bank 0 active. -/
def sBk (a b : SfuBank) : State :=
  let s := { s0 with sem := s0.sem.set 3 { owner := 1 } }
  s.modReach 0 fun x => { x with banks := (x.banks.set 0 a).set 1 b }

/-- SfuBankLifeCycle: a write for a READY and for the ACTIVE bank, a load that ends with an image that is no image, a switch. A load with a
good image needs the digests that R167 keeps in the firmware: it is met where they are those of the image. -/
theorem witness_sfu : (∀ s ∈ [sBk { state := .active } { state := .ready }, sBk { state := .active } { state := .loading, src := 0x40000000 }],
      s.banksFrozen = false ∧ s.lkp.inForce = false ∧ s.holds .host 3 = true ∧ OpenPort s .host) ∧
    ((sBk { state := .active } { state := .ready }).reach[0].loadingBank = none ∧
      ((sBk { state := .active } { state := .ready }).reach[0].bankAt 1).state = .ready ∧
      ((sBk { state := .active } { state := .ready }).reach[0].bankAt 0).state = .active) ∧
    ((sBk { state := .active } { state := .loading, src := 0x40000000 }).prf.chg = .none ∧
      (sBk { state := .active } { state := .loading, src := 0x40000000 }).inDram 0x40000000 4096 = true ∧
      imgOk [] (List.replicate 4096 0) = false) ∧ AllKeyed (sBk { state := .active } { state := .loading, src := 0x40000000 }) := by
  refine ⟨?_, by decide +kernel, ⟨by decide +kernel, by decide +kernel, by decide +kernel⟩, allKeyed_of (by decide +kernel)⟩
  simp only [List.mem_cons, List.not_mem_nil, or_false]
  rintro _ (rfl | rfl) <;> exact ⟨by decide +kernel, by decide +kernel, by decide +kernel, openPort_of (by decide +kernel)⟩

/-- The same under a schedule; a profile change to slot 2 loads its tables into the inactive banks. -/
def sBkF (a b : SfuBank) : State := { sBk a b with lkp := sF.lkp }
def sBkL (g : SfuBank) : State := { sBk { state := .active } g with prf := { s0.prf with chg := .loading, target := 2, loads := [0] } }

/-- SfuBankLifeCycle: a switch under a schedule, one that no bank is ready for, the lockkeeper's own load for the change, for an earlier
one, and a load that was no load of its own. A good own image needs the digests of the firmware. -/
theorem witness_sfu_change : ((sBkF { state := .active } { state := .ready }).lkp.inForce = true ∧ OpenPort (sBkF { state := .active } { state := .ready }) .host ∧
      (sBkF { state := .active } { state := .ready }).holds .host 3 = true ∧ (sBkF { state := .active } { state := .ready }).banksFrozen = false ∧
      (sBkF { state := .active } { state := .ready }).reach[0].active = 0) ∧
    (((sBk { state := .active } {}).reach[0].bankAt 1).state = .empty ∧ (sBk { state := .active } {}).banksFrozen = false) ∧
    (∀ g ∈ [{ state := .loading, own := true, slot := 2 }, { state := .loading, own := true, slot := 1 }, ({ state := .loading } : SfuBank)],
      (sBkL g).prf.chg = .loading ∧ ((sBkL g).reach[0].bankAt 1) = g ∧ ((sBkL g).reach[0].bankAt 0).state ≠ .loading) ∧ AllKeyed (sBkL {}) :=
  ⟨⟨by decide +kernel, openPort_of (by decide +kernel), by decide +kernel, by decide +kernel, by decide +kernel⟩, by decide +kernel, by decide +kernel,
    allKeyed_of (by decide +kernel)⟩

theorem test_sfu_pending : gives (.sfuSwitch .host 0) (sBkF { state := .active } { state := .ready })
      (fun t => t.reach[0].active == 0 && (t.reach[0].bankAt 1).state == .pending && t.reach[0].swAt == 1000000) = true ∧
    (evAfter (.sfuSwitch .host 0) (sBk { state := .active } {})).map (·.1) = some 0x0106 := by decide +kernel
/-- The end of a load that was not the lockkeeper's own, or for another change, starts its own (12 R415). -/
theorem test_sfu_own : gives (.sfuLoadDone 0) (sBkL { state := .loading, src := 0x40000000 })
      (fun t => t.reach[0].bankAt 1 == { state := .loading, own := true, slot := 2 }) = true ∧
    gives (.sfuLoadDone 0) (sBk { state := .active } { state := .loading, src := 0x40000000 })
      (fun t => t.reach[0].bankAt 1 == {} && (t.mgt.recs.getLast?).map (·.event) == some 0x0108) = true := by decide +kernel

theorem test_sfu_reload : gives (.sfuReload .host 0 0x80001) (sBk { state := .active } { state := .ready })
    (fun t => t.reach[0].bankAt 1 == { state := .loading, src := 0x40000000 }) = true := by decide +kernel
theorem test_sfu_busy : evAfter (.sfuReload .host 0 0) (sBk { state := .active } { state := .ready }) = some (0x0105, 0, 0) := by decide +kernel
theorem test_sfu_switch : gives (.sfuSwitch .host 0) (sBk { state := .active } { state := .ready, image := [1] })
    (fun t => t.reach[0].active == 1 && t.reach[0].bankAt 1 == { state := .active, image := [1] } && (t.reach[0].bankAt 0).state == .ready) = true := by
  decide +kernel

/-! ### Registers and semaphores -/

/-- Semaphore 31 with an owner since 10 ms before TIME, or 4 ms. -/
def sSem (o : BitVec 2) (ms : Nat) : State :=
  { s0 with time := 100000000, sem := s0.sem.set 31 { owner := o, since := 100000000 - BitVec.ofNat 64 (ms * 1000000) }
            mgt := { s0.mgt with sess := s0.mgt.sess.set 2 (some { id := 9, maint := false, coll := false, nth := 0 }) } }

/-- SemaphoresChangeHands: FREE, own, another's for 4 ms and for 5, which is SEM_HOLD; from either port. -/
theorem witness_sem : (sSem 0 0).portOn .host = true ∧ (sSem 0 0).portOn (.mgmt 2) = true ∧ (sSem 0 0).prf.ready = true ∧ (sSem 0 0).sem[31].owner = 0 ∧
    (sSem 1 4).sem[31].owner = 1 ∧ ((sSem 1 4).dev.held = false ∧ ({ sSem 1 4 with pci.up := true }).pci.up = true) ∧
    ((sSem 2 4).mgt.sess[2].isSome = true ∧ ∀ j : Fin 4, j ≠ 2 → (sSem 2 4).mgt.sess[j] = none) ∧ (sSem 2 4).heldMs 31 < (sSem 2 4).prf.semHold ∧ (sSem 2 5).prf.semHold ≤ (sSem 2 5).heldMs 31 := by
  decide +kernel

/-- The owner and SEM_REFUSED after a command. -/
def semAfter (i : Instr) (s : State) : BitVec 2 × W32 :=
  match exec i s with
  | .next t => (t.sem[31].owner, t.semRefused)
  | _ => (3, 0)

theorem test_sem_take : semAfter (.semTake (.mgmt 2) 31) (sSem 0 0) = (2, 0) ∧ semAfter (.semTake .host 31) (sSem 2 9) = (2, 0) := by decide +kernel
theorem test_sem_release : semAfter (.semRelease .host 31) (sSem 1 0) = (0, 0) ∧ semAfter (.semRelease .host 31) (sSem 2 0) = (2, 1) := by
  decide +kernel
theorem test_sem_break : semAfter (.semBreak .host 31) (sSem 2 4) = (2, 1) ∧ semAfter (.semBreak .host 31) (sSem 2 5) = (1, 0) := by decide +kernel

/-- A write of TAKE and BREAK is refused, one of neither does nothing; link loss and the last session's end free (13 R448). -/
theorem test_sem_lost : semAfter (.registerWrite .host 0x100F8 0x28) (sSem 0 0) = (0, 1) ∧ semAfter (.registerWrite .host 0x100F8 0) (sSem 0 0) = (0, 0) ∧
    semAfter (.pciLinkDown 1) { sSem 1 4 with pci.up := true } = (0, 0) ∧ semAfter (.empSessionExpire 2) (sSem 2 4) = (0, 0) := by decide +kernel

/-- WritesOfRwlRegisters: one fixed register, one of a reach, one of a ring. -/
theorem witness_rwl : OpenPort s0 .host ∧ (∀ k ∈ [(1 : Fin 32), 3, 4, 9], s0.sem[k].owner ≠ 1) ∧
    (0x20008, 1) ∈ [(0x20008, 1), (0x20100, 2)] ∧ (0x100208 + 15 * 0x10000 < 2 ^ 26 ∧ 0x44008 + 1023 * 0x20 < 2 ^ 26) :=
  ⟨openPort_of (by decide +kernel), by decide +kernel, by decide +kernel, by decide +kernel⟩

theorem test_rwl : gives (.registerWrite .host (BitVec.ofNat 26 (0x44008 + 1023 * 0x20)) 5) s0 (fun t => t.semRefused == 1 && t.lkp.egr == []) = true := by
  decide +kernel

/-- RegisterWritesAndClears: no MSE, no ready point, no register, and a device that serves. -/
theorem witness_regs : ({ s0 with pci := {} }).portOn .host = false ∧ (State.reset.prf.ready = false ∧ State.reset.prf.recovery = false) ∧
    (s0.prf.ready = true ∧ regDefined 0x3FFFFF8 = false ∧ (0x20004 : BitVec 26).toNat % 8 ≠ 0) ∧ s0.portOn .host = true ∧
    (s0.draining = false ∧ ({ s0 with sem := s0.sem.set 4 { owner := 1 } }).holds .host 4 = true) := by decide +kernel

theorem test_clear : gives (.counterClear .host 0x10110 2) { s0 with semRefused := 7, semBroken := 8 }
    (fun t => t.semRefused == 0 && t.semBroken == 8) = true := by decide +kernel
/-- 03 R111: CLR_WSTALL clears the count and its OVF, and no other counter; a misaligned write of the host is a bad access (13 R429). -/
theorem test_clear_stall : gives (.counterClear .host 0x100060 2) (s0.modReach 0 fun x => { x with perf := { x.perf with
      wstall := { count := 9, ovf := true }, sstall := { count := 8 } } })
      (fun t => t.reach[0].perf.wstall == {} && t.reach[0].perf.sstall.count == 8) = true ∧
    gives (.registerWrite .host 0x20004 5) s0 (fun t => t.pci.badacc == 1) = true := by decide +kernel
theorem test_no_register : gives (.registerWrite .host 0x3FFFFF8 5) s0 (fun t => t == s0) = true := by decide +kernel

/-! ### Rings and contexts -/

/-- Semaphores 4 and 8 are the host's; ring 1023 holds 16 records, all of which the host has still to read. -/
def sR (force : Bool) : State :=
  { s0 with
    sem := (s0.sem.set 4 { owner := 1 }).set 8 { owner := 1 }
    lkp := { (if force then sF.lkp else {}) with egr := [(1023, { tail := 0xFFFFFFFF, head := 0xFFFFFFEF, base := 0x1000 })] }
    pci := { s0.pci with up := true }
    ras := { s0.ras with ringEn := true, ringTail := 20, ringHead := 4, ringBase := 0x8000, errQ := [{ seq := 1, event := 0x0603 }] } }

/-- EgressRingRegisters: with a schedule in force and without. HEAD may be the tail itself, or 16 below it, and not 17. -/
theorem witness_egr : OpenPort (sR true) .host ∧ OpenPort (sR false) .host ∧ ((sR true).holds .host 4 = true ∧ (sR false).holds .host 4 = true ∧
    (sR true).lkp.inForce = true ∧ (sR false).lkp.inForce = false ∧ (sR true).lkp.held = [] ∧ (sR false).lkp.held = [] ∧
    ((sR false).egrRing 1023).newBase = none) ∧
    (((sR true).egrRing 1023).tail - 0xFFFFFFEF).toNat = 2 ^ ((sR true).egrRing 1023).size.toNat ∧
    2 ^ ((sR true).egrRing 1023).size.toNat < (((sR true).egrRing 1023).tail - 0xFFFFFFEE).toNat ∧ ((sR false).egrRing 1023).newCfg = none :=
  ⟨openPort_of (by decide +kernel), openPort_of (by decide +kernel), by decide +kernel⟩

/-- The ring after a command. -/
def ringAfter (i : Instr) (s : State) : EgrRing :=
  match exec i s with
  | .next t => t.egrRing 1023
  | _ => {}

theorem test_egr_base : (ringAfter (.egrRingConfig .host 1023 false 0x2000) (sR true)).newBase = some 0x2000 ∧
    (ringAfter (.egrRingConfig .host 1023 false 0x2000) (sR false)) = { base := 0x2000 } := by decide +kernel
theorem test_egr_head : (ringAfter (.egrHeadWrite .host 1023 0xFFFFFFFF) (sR true)).head = 0xFFFFFFFF ∧
    (ringAfter (.egrHeadWrite .host 1023 0xFFFFFFEE) (sR true)).head = 0xFFFFFFEF := by decide +kernel

/-- ErrorRing: a full ring, one with a place, and a HEAD that leaves 17 records. -/
theorem witness_error_ring : OpenPort (sR true) .host ∧ OpenPort (sR false) .host ∧ ((sR false).holds .host 8 = true ∧ (sR false).lkp.inForce = false ∧
    (sR false).ras.newBase = none ∧ (sR false).ras.newCfg = none) ∧ ((sR true).holds .host 8 = true ∧ (sR true).ras.errQ = { seq := 1, event := 0x0603 } :: [] ∧
    (sR true).ras.ringEn = true ∧ (sR true).pci.up = true ∧ ((sR true).ras.ringTail - (sR true).ras.ringHead).toNat = 2 ^ (sR true).ras.ringSize.toNat ∧
    ((sR true).ras.ringTail - 5).toNat < 16 ∧ 2 ^ (sR true).ras.ringSize.toNat < ((sR true).ras.ringTail - 3).toNat) :=
  ⟨openPort_of (by decide +kernel), openPort_of (by decide +kernel), by decide +kernel, by decide +kernel⟩

/-- Record 20 goes to place 20 mod 16 = 4; the full ring drops it (16 R560). -/
theorem test_error_ring : gives .errorRingWrite { sR true with ras := { (sR true).ras with ringHead := 5 } }
      (fun t => (t.out.map fun o => match o with | .hostWrite a d => (a, d.length) | _ => (0, 0)) == [(0x8100, 64)] && t.ras.ringTail == 21) = true ∧
    gives .errorRingWrite (sR true) (fun t => t.ras.ringDrop == 1 && t.out == []) = true := by decide +kernel
theorem test_ring_config : gives (.rasRingConfig .host false 0x4000) (sR true) (fun t => t.ras.newBase == some 0x4000 && t.ras.ringBase == 0x8000) = true ∧
    gives (.rasRingConfig .host false 0x4000) (sR false) (fun t => t.ras.ringBase == 0x4000 && t.ras.ringTail == 0 && t.ras.newBase == none) = true := by
  decide +kernel
theorem test_ring_head : gives (.rasRingHeadWrite .host 3) (sR true) (fun t => t.ras.ringHead == 4) = true := by decide +kernel

/-- A command block at 0x40000000 for a context, with one region of 16 blocks at block 0x50000; contexts 0 to 3 are the profile's, 5 is LIVE
with the region of 16 blocks behind, 6 is CLOSING. -/
def blk (ctx base : Nat) : List Byte := leBytes 4 ctx ++ leBytes 12 0 ++ leBytes 8 (base * 2 ^ 36 + 16 * 2 ^ 8 + 7) ++ leBytes 104 0
def sC (op ctx base : Nat) : State :=
  { sF with ctx := {
      npctx := 3, ctxMax := 3, sess := [{ base := 0x50000, size := 64 }]
      ctxs := [(5, { state := .live, gen := 8, regions := [{ base := 0x50010, size := 16, wr := true, rd := true, valid := true }] }), (6, { state := .closing })]
      queue := [{ op, blk := 0x40000000, data := blk ctx base }] } }

/-- ContextCommands: room in the queue, no room, no place for a block; and every branch of the effect. -/
theorem witness_ctx : (OpenPort sF .host ∧ sF.lkp.inForce = true ∧ sF.openMem 0x40000000 128 = true ∧ sF.openMem 0 128 = false ∧ sF.ctx.queue.length < 64 ∧
      64 ≤ ({ sF with ctx.queue := List.replicate 64 { op := 1, blk := 0, data := [] } }).ctx.queue.length) ∧
    (ctxBlkBad (blk 4 0x50000) = false ∧ leNat ((blk 4 0x50000).take 4) % 2 ^ 20 = 4 ∧ (sC 1 4 0x50000).dev.shed.toNat < 6) ∧
    (3 ≤ (sC 1 3 0x50000).ctx.npctx ∧ ((sC 2 5 0).ctxOf 5).state = .live ∧ ((sC 2 6 0).ctxOf 6).state = .closing ∧
      ((sC 1 4 0).ctxOf 4).state = .free ∧ (sC 1 4 0).ctx.ctxs.countP (fun p => p.2.state == .live) + 1 ≤ (sC 1 4 0).ctx.ctxMax) ∧
    ((∀ g ∈ ctxBlkRegions (blk 4 0x50000), g.within (sC 1 4 0).ctx.sess = true) ∧
      ∀ p ∈ (sC 1 4 0).ctx.ctxs, p.1 ≠ 4 → p.2.state ≠ .free → ∀ h ∈ p.2.regions, h.wr = true → ∀ g ∈ ctxBlkRegions (blk 4 0x50000),
        h.base + h.size ≤ g.base ∨ g.base + g.size ≤ h.base) :=
  ⟨⟨openPort_of (by decide +kernel), by decide +kernel⟩, by decide +kernel, by decide +kernel, by decide +kernel⟩

/-- ContextCommands: with no schedule in force. -/
theorem witness_ctx_idle : OpenPort s0 .host ∧ s0.lkp.inForce = false ∧ s0.openMem 0x40000000 128 = true ∧ s0.ctx.queue.length < 64 ∧
    ({ sC 1 4 0x50000 with lkp := {} }).lkp.inForce = false ∧ ({ sC 1 4 0x50000 with lkp := {} }).ctx.queue.length = 1 :=
  ⟨openPort_of (by decide +kernel), by decide +kernel⟩

/-- STATE, GEN of a context and STATUS of the block after the command takes effect. -/
def ctxAfter (s : State) (c : Nat) : CtxState × W32 × Nat :=
  match exec .ctxCmdEffect s with
  | .next t => ((t.ctxOf c).state, (t.ctxOf c).gen, t.readNat 0x4000007F 1)
  | _ => (.free, 0, 0)

theorem test_create : ctxAfter (sC 1 4 0x50000) 4 = (.live, 1, 0x80) ∧ ctxAfter (sC 1 4 0x50008) 4 = (.free, 0, 0x83) ∧
    ctxAfter (sC 1 5 0x50000) 5 = (.live, 8, 0x81) ∧ ctxAfter (sC 1 3 0x50000) 3 = (.free, 0, 0x82) := by decide +kernel
theorem test_destroy : ctxAfter (sC 2 5 0) 5 = (.closing, 8, 0) ∧ ctxAfter (sC 2 6 0) 6 = (.closing, 0, 0x81) := by decide +kernel
/-- A region may lie in two areas of the session list that touch (10 R325). -/
theorem test_create_spans : ctxAfter { sC 1 4 0x50008 with ctx := { (sC 1 4 0x50008).ctx with ctxs := [], sess := [{ base := 0x50000, size := 16 }, { base := 0x50010, size := 16 }] } } 4 =
    (.live, 1, 0x80) := by decide +kernel
theorem test_create_idle : gives (.create .host 0x800000) (withMem { s0 with ctx := (sC 1 4 0).ctx } 0x40000000 (blk 4 0x50000))
    (fun t => t.ctx.queue == [] && (t.ctxOf 4).state == .live && t.read 0x4000007F 1 == [0x80]) = true := by decide +kernel
theorem test_create_queued : gives (.create .host 0x800000) sF (fun t => t.ctx.queue == [{ op := 1, blk := 0x40000000, data := List.replicate 128 0 }]) = true := by
  decide +kernel

/-! ### Memory -/

/-- The example of 11 R360: with channel 13 out of service and LU 5, 0x12_3456_7890 is in channel 23 at 2,522,177,168. -/
theorem test_place : ({ s0 with dev := { s0.dev with chanUsable := 0xFFFFDFFF, lu := 5 } }).dramPlace 0x1234567890 =
    some (23, 2522177168) := by decide +kernel

/-! ### Lock points and jobs -/

/-- The schedule of `sF` with one job, whose step 7 is in flight where `fl`, with next step number 8. -/
def sJob (fl : Bool) : State :=
  let s : State := { sF with lkp := { sF.lkp with sched := { sF.lkp.sched with jobs := [{ ctx := 1 }] } } }
  s.modJob 0 fun y => { y with nextStep := 8, step := if fl then some { no := 7, rel := 0, members := [] } else none }

/-- LockPointsAndJobControl. -/
theorem witness_lock : s0.lockAt = none ∧ ((sR true).lkp.inForce = true ∧ (sR true).lockAt = some 2000000) ∧ OpenPort (sJob true) .host ∧
    OpenPort (sJob false) .host ∧ ((sJob true).job? 1 = none ∧ (sJob true).job? 0 = some { ctx := 1 } ∧ (sJob true).lkp.inForce = true) ∧
    (((sJob true).jobRun 0).step = some { no := 7, rel := 0, members := [] } ∧ ((sJob false).jobRun 0).step = none ∧
      ((sJob false).jobRun 0).nextStep = 8 ∧ ((sJob false).jobRun 0).failed = []) :=
  ⟨by decide +kernel, by decide +kernel, openPort_of (by decide +kernel), openPort_of (by decide +kernel), by decide +kernel, by decide +kernel⟩

/-- LockPointsAndJobControl: a job that is in the table while no schedule is in force (10 R624). -/
def sJobIdle : State := { sJob false with lkp := { (sJob false).lkp with inForce := false } }
theorem witness_job_idle : OpenPort sJobIdle .host ∧ sJobIdle.job? 0 = some { ctx := 1 } ∧ sJobIdle.lkp.inForce = false ∧ (sJob true).job? 9 = none :=
  ⟨openPort_of (by decide +kernel), by decide +kernel⟩

theorem test_abort_unknown : gives (.lkpAbort .host 9 7) (sJob true) (fun t => t.lkp.abortStatus == 5 && t.lkp.abortJob == 9 && t.lkp.abortStep == 7) = true := by
  decide +kernel

/-- 10 R332 to R334: step 7 in flight, committed, and not released yet. -/
theorem test_abort : gives (.lkpAbort .host 0 7) (sJob true) (fun t => t.lkp.abortStatus == 1 && ((t.jobRun 0).step.map (·.stop) == some .aborted ||
      (t.jobRun 0).failed == [7])) = true ∧
    gives (.lkpAbort .host 0 7) (sJob false) (fun t => t.lkp.abortStatus == 4) = true ∧
    gives (.lkpAbort .host 0 8) (sJob false) (fun t => t.lkp.abortStatus == 5 && t.lkp.abortStep == 8) = true := by decide +kernel
theorem test_lock_point : gives .lockPoint sF (fun t => t.time == 2000000 && t.lkp.cycle == 2) = true := by decide +kernel
theorem test_tim_wrap : gives .timWrap { s0 with time := 0xFFFFFFFFFFFFFFFF } (fun t => t.time == 0) = true := by decide +kernel
theorem test_nartrap_idle : gives (.nartrapResume .host 0) (sJobIdle.modJob 0 fun y => { y with held := true }) (fun t => !(t.jobRun 0).held && !(t.jobRun 0).resume) = true := by
  decide +kernel
theorem test_nartrap : gives (.nartrapRearm .host 0) (sJob true) (fun t => (t.jobRun 0).rearm && !(t.jobRun 0).resume) = true ∧
    gives (.nartrapResume .host 0) (sJob true) (fun t => (t.jobRun 0).resume && !(t.jobRun 0).rearm) = true := by decide +kernel

/-! ### Profiles -/

/-- A manifest with one weight image of n bytes at 0x40000000 and the digest. -/
def manW (n : Nat) (digest : BitVec 256) : List Byte :=
  leBytes 16 1 ++ leBytes 2 4 ++ leBytes 2 0xFFFF ++ leBytes 4 0 ++ leBytes 8 0x40000000 ++ leBytes 8 n ++ leBytes 32 digest.toNat ++ leBytes 8 0

/-- A schedule image of one job, of context 1, without kernels, and one slot of the kind of 10 R310 on the reaches: cycles of 50 µs. -/
def schedMin (kind reach : Nat) : List Byte :=
  leBytes 4 0xFD2E5C01 ++ leBytes 2 1 ++ leBytes 2 50 ++ leBytes 6 0 ++ leBytes 2 1 ++ leBytes 4 0 ++ leBytes 2 1 ++ leBytes 2 0 ++ leBytes 4 64 ++
    leBytes 4 0 ++ leBytes 4 0xC000 ++ leBytes 28 0 ++ leBytes 4 1 ++ leBytes 4 0x20 ++ leBytes 4 0xFFFFFFFF ++ leBytes 116 0 ++
    leBytes 16 (kind * 2 ^ 108 + reach * 2 ^ 56)

/-- A profile image with that schedule and a manifest: PLIMIT 4,200, one context, COMPILED 1. -/
def profMin (kind : Nat) (man : List Byte) (reach : Nat := 0) : List Byte :=
  leBytes 24 0 ++ leBytes 2 4200 ++ leBytes 2 1 ++ leBytes 12 0 ++ leBytes 4 1 ++ leBytes 4 1 ++ leBytes 16 0 ++
    leBytes 8 0 ++ leBytes 4 208 ++ leBytes 4 256 ++ leBytes 4 man.length ++ leBytes 4 464 ++ leBytes 168 0 ++ schedMin kind reach ++ man

/-- No schedule; slot 1 holds an image of which no start-only field is set, the others none; the host owns semaphores 1 and 2. -/
def sP : State :=
  { s0 with mdie := State.reset.mdie, prf := { s0.prf with slots := s0.prf.slots.set 1 { fault := 0 } }, cpl := { s0.cpl with node := 0x7FFF }
            sem := (s0.sem.set 1 { owner := 1 }).set 2 { owner := 1 } }
/-- The same under the 1 ms schedule. -/
def sPF : State := { sP with lkp := sF.lkp }

/-- ProfileCommands: each case. -/
theorem witness_profile : OpenPort sP .host ∧ OpenPort sPF .host ∧ (sP.holds .host 1 = true ∧ sPF.holds .host 1 = true) ∧
    (sP.prf.chg = .none ∧ ((sP.prf.slots[1]?).map PSlot.valid).getD false = true ∧ ((sP.prf.slots[0]?).map PSlot.valid).getD false = false ∧
      sP.lkp.inForce = false ∧ (profHdr (sP.slotImg 1)).role ≠ 1 ∧ sP.startDiffers (profHdr (sP.slotImg 1)) = false) ∧
    ({ sP with dev := { sP.dev with rate := 1 } }).startDiffers (profHdr (sP.slotImg 1)) = true ∧
    (sPF.prf.chg = .none ∧ sPF.lkp.inForce = true ∧ sPF.prf.held.getLsbD 3 = false ∧
      ({ sPF with prf := { sPF.prf with held := 8 } }).prf.held.getLsbD 3 = true) ∧
    (OpenPort { sP with prf := { sP.prf with chg := .admitting } } .host) :=
  ⟨openPort_of (by decide +kernel), openPort_of (by decide +kernel), by decide +kernel, by decide +kernel, by decide +kernel, by decide +kernel,
    openPort_of (by decide +kernel)⟩

/-- The active profile is that of slot 0, whose job 0 runs on reach 0; slot 1 holds the same, one without a schedule, or one whose job 0 runs on
reach 4, so that both would be active after the first stage (12 R414). -/
def sPA (img : List Byte) : State :=
  { sPF with prf := { sPF.prf with slots := (sPF.prf.slots.set 0 { fault := 0, image := profMin 1 (leBytes 16 0) 0x10 }).set 1 { fault := 0, image := img } } }

/-- ProfileCommands under a schedule: the active profile again, drain fields that differ, a clash, and none; a polder with and without steps and no
schedule. -/
theorem witness_profile_change : (∀ img ∈ [[], profMin 1 (leBytes 16 0) 1, profMin 1 (leBytes 16 0) 0x10], OpenPort (sPA img) .host ∧ (sPA img).holds .host 1 = true ∧
      (sPA img).activeSlot = 0 ∧ (sPA img).startDiffers (profHdr ((sPA img).slotImg 1)) = false ∧ (sPA img).cpl.node = 0x7FFF) ∧
    drainDiffers ((sPA []).slotImg 0) ((sPA []).slotImg 1) = true ∧
    (drainDiffers (profMin 1 (leBytes 16 0) 0x10) (profMin 1 (leBytes 16 0) 1) = false ∧
      clash (profSect (profMin 1 (leBytes 16 0) 0x10) 1) (profSect (profMin 1 (leBytes 16 0) 1) 1) ≠ none ∧
      clash (profSect (profMin 1 (leBytes 16 0) 0x10) 1) (profSect (profMin 1 (leBytes 16 0) 0x10) 1) = none) ∧
    (sP.polderDrained 3 = true ∧ (sP.modReach 13 fun x => { x with barges := x.barges.set 2 { busy := true } }).polderDrained 3 = false) ∧
    ({ sP with cpl := { sP.cpl with node := 0x105 } }).cpl.node ≠ 0x7FFF := by
  refine ⟨?_, by decide +kernel, by decide +kernel, by decide +kernel, by decide +kernel⟩
  simp only [List.mem_cons, List.not_mem_nil, or_false]
  rintro _ (rfl | rfl | rfl) <;> exact ⟨openPort_of (by decide +kernel), by decide +kernel⟩

/-- What the result registers show: STATE, CODE, OP. -/
def prfRes (i : Instr) (s : State) : Nat × Nat × Nat :=
  match exec i s with
  | .next t => (t.prf.resState.toNat, t.prf.resCode.toNat, t.prf.resOp.toNat)
  | _ => (0, 0, 0)

theorem test_activate : prfRes (.activate .host 1 true) sP = (1, 0, 1) ∧ prfRes (.activate .host 2 true) sP = (3, 0x0A0E, 1) ∧
    prfRes (.activate .host 1 true) { sP with dev := { sP.dev with rate := 1 } } = (3, 0x0A04, 1) ∧
    prfRes (.activate .host 1 true) { sP with prf := { sP.prf with chg := .admitting } } = (3, 0x0A03, 1) := by decide +kernel
/-- What kind of change an ACTIVATE has begun. -/
def begun (i : Instr) (s : State) : Option (Bool × Bool × Bool) :=
  match exec i s with
  | .next t => if t.prf.chg = .verifying false then some (t.prf.initial, t.prf.full, t.prf.recheck) else none
  | _ => none

theorem test_activate_change : begun (.activate .host 0 false) (sPA []) = some (false, false, true) ∧
    begun (.activate .host 1 true) (sPA []) = some (false, true, false) ∧ prfRes (.activate .host 1 false) (sPA []) = (3, 0x0A05, 1) ∧
    prfRes (.activate .host 1 true) (sPA (profMin 1 (leBytes 16 0) 1)) = (3, 0x0A06, 1) ∧
    begun (.activate .host 1 false) (sPA (profMin 1 (leBytes 16 0) 0x10)) = some (false, false, false) ∧ begun (.activate .host 1 true) sP = some (true, false, false) := by
  decide +kernel
theorem test_restart_busy : prfRes (.restart .host {}) { sP with prf := { sP.prf with chg := .fullDrain } } = (3, 0x0A03, 5) := by decide +kernel
theorem test_verify : prfRes (.verify .host 1) sP = (1, 0, 2) ∧ prfRes (.verify .host 0) sP = (3, 0x0A0E, 2) := by decide +kernel
theorem test_polder : prfRes (.polderDrain .host 3) sPF = (1, 0, 3) ∧ prfRes (.polderDrain .host 3) sP = (2, 0, 3) ∧
    prfRes (.polderDrain .host 3) { sP with prf := { sP.prf with held := 8 } } = (3, 0x0A0E, 3) ∧
    prfRes (.polderResume .host 3) sPF = (3, 0x0A0E, 4) ∧
    prfRes (.polderResume .host 3) { sPF with prf := { sPF.prf with held := 8 } } = (1, 0, 4) := by decide +kernel

/-- Slot 1 is at work with an image. -/
def sAdm (img : List Byte) (chg : Chg) : State :=
  { sP with dev := { sP.dev with profile := 1, reachOk := 0 }
            prf := { sP.prf with slots := sP.prf.slots.set 1 { fault := 0, image := img }, work := 1, target := 1, chg, op := 1, resMine := true, initial := true } }

/-- The digest of "abc" (GB/T 32905, example 1), its first byte lowest. -/
def sm3abc : BitVec 256 := 0xe0a84b8f2ba07d29a2f7f25c87c46741e2e410dc6bd4f2d1d9edee62f4f0c766

/-- VerificationAndAdmission: an image without weight images; a first mismatch; a schedule admitted and one refused. -/
theorem witness_verification : AllKeyed (sAdm (profMin 3 (leBytes 16 0)) (.verifying true)) ∧
    ((sAdm (profMin 3 (leBytes 16 0)) (.admitting)).admitWhole ((sAdm (profMin 3 (leBytes 16 0)) (.admitting)).cand 1)) = none ∧
    (((sAdm (profMin 5 (leBytes 16 0)) (.admitting)).admitWhole ((sAdm (profMin 5 (leBytes 16 0)) (.admitting)).cand 1)).map (·.code)) = some 0x0402 :=
  ⟨allKeyed_of (by decide +kernel), by decide +kernel, by decide +kernel⟩

theorem test_admission : gives .admission (sAdm (profMin 3 (leBytes 16 0)) .admitting) (fun t => t.prf.chg == .entering && t.lkp.admRuns == 1) = true ∧
    gives .admission (sAdm (profMin 5 (leBytes 16 0)) .admitting) (fun t => t.prf.chg == .none && t.lkp.admCode == 0x0402 && t.prf.resState == 3) = true := by
  decide +kernel

/-- VerificationAndAdmission under a schedule: stages, the active profile again, and a full drain or another profile. -/
def sAdmF (initial full recheck : Bool) (kind : Nat) : State :=
  { sAdm (profMin kind (leBytes 16 0)) .admitting with
    lkp := sF.lkp, prf := { (sAdm (profMin kind (leBytes 16 0)) .admitting).prf with initial, full, recheck } }

theorem witness_admission : ((sAdmF false false false 3).admitStaged ((sAdmF false false false 3).cand 1) = none ∧
      (((sAdmF false false false 5).admitStaged ((sAdmF false false false 5).cand 1)).map (·.code)) = some 0x0402) ∧
    (∀ q ∈ [(false, true, false), (false, false, true), (true, false, false)],
      (sAdmF q.1 q.2.1 q.2.2 3).admitWhole ((sAdmF q.1 q.2.1 q.2.2 3).cand 1) = none) ∧
    ((sAdmF true false false 3).prf.work = (sAdmF true false false 3).dev.profile ∧ (sAdmF false true false 3).reach[4].loadingBank = none) := by decide +kernel

theorem test_admission_next : gives .admission (sAdmF false false false 3) (fun t => t.prf.chg == .loading && t.prf.loads.length == 16 &&
      t.reach[4].bankAt 1 == { state := .loading, own := true, slot := 1 }) = true ∧
    gives .admission (sAdmF false false true 3) (fun t => t.prf.chg == .none && t.prf.resState == 2 && t.prf.loads == []) = true ∧
    gives .admission (sAdmF false false false 5) (fun t => t.prf.chg == .none && t.lkp.admCode == 0x0402 && t.prf.resState == 3) = true := by decide +kernel

/-- Weight images that match and that do not. -/
theorem witness_weights : (∀ q ∈ ((withMem (sAdm (profMin 3 (manW 3 sm3abc)) (.verifying true)) 0x40000000 [0x61, 0x62, 0x63]).cand 1).man,
      ((withMem (sAdm (profMin 3 (manW 3 sm3abc)) (.verifying true)) 0x40000000 [0x61, 0x62, 0x63]).manBytes (profMin 3 (manW 3 sm3abc)) q).map sm3 =
        some q.digest) ∧
    (((sAdm (profMin 3 (manW 3 0)) (.verifying true)).cand 1).man.map (·.kind) = [4] ∧
      ∃ q ∈ ((sAdm (profMin 3 (manW 3 0)) (.verifying true)).cand 1).man,
        ((sAdm (profMin 3 (manW 3 0)) (.verifying true)).manBytes (profMin 3 (manW 3 0)) q).map sm3 ≠ some q.digest) := by decide +kernel

theorem test_weights : gives .weightVerifyDone (withMem (sAdm (profMin 3 (manW 3 sm3abc)) (.verifying true)) 0x40000000 [0x61, 0x62, 0x63])
      (fun t => t.prf.verified == [(1, 0)] && t.prf.resState == 2) = true ∧
    gives .weightVerifyDone (sAdm (profMin 3 (manW 3 0)) (.verifying true)) (fun t => t.prf.verified == [] && t.prf.resCode == 0x0A09) = true := by
  decide +kernel

/-- Polder 0 is being drained (or the device), with a step of job 0 on its reach 0 in flight where `fl`. -/
def sDr (chg : Chg) (fl : Bool) : State :=
  let e : SlotE := { job := 0, kind := 1, every := 0, phase := 0, reach := 1, nmu := 0, start := 0, len := 10 }
  let s : State := { sPF with time := 1020000, prf := { sPF.prf with chg, op := 3, resMine := true, target := 1 }
                              lkp := { sPF.lkp with lastLock := 1020000, sched := { sPF.lkp.sched with jobs := [{ ctx := 1 }], tables := [[e]] } } }
  if fl then s.modJob 0 fun y => { y with step := some { no := 7, rel := 0 } } else s

/-- ChangesUnderWay. -/
theorem witness_changes : ((sDr (.draining 0 true) false).lockAt = some 2000000 ∧
      ((sDr (.draining 0 true) false).lockPointAt 2000000).prf.held ≠ (sDr (.draining 0 true) false).prf.held) ∧
    (((sDr (.draining 0 true) true).lockPointAt 2000000).prf.held = (sDr (.draining 0 true) true).prf.held ∧
      ((sDr (.draining 0 true) true).lockPointAt 2000000).prf.switched = (sDr (.draining 0 true) true).prf.switched ∧
      ((sDr (.draining 0 true) true).lockPointAt 2000000).dev.profile = (sDr (.draining 0 true) true).dev.profile) ∧
    (((sDr .fullDrain false).lockPointAt 2000000).prf.chg ≠ .fullDrain ∧ ((sDr .fullDrain true).lockPointAt 2000000).prf.chg = .fullDrain) ∧
    ((sDr (.draining 0 true) true).polderDrained 0 = false ∧ (sDr (.draining 0 true) true).onPolder 0 0 = true) ∧
    (sDr (.resuming 1) false).prf.chg = .resuming 1 ∧ (sDr (.resuming 1) false).reach[5].dups = [] := by decide +kernel

/-- ChangesUnderWay: a polder that is drained with no schedule in force, with and without a barge in its way, and the device at its limit. -/
def sDrIdle (busy : Bool) : State :=
  let s : State := { sP with prf := { sP.prf with chg := .draining 3 false, op := 3, resMine := true } }
  if busy then s.modReach 13 fun x => { x with barges := x.barges.set 2 { busy := true } } else s
theorem witness_changes_idle : (∀ b, (sDrIdle b).lockAt = none ∧ (sDrIdle b).prf.chg = .draining 3 false) ∧
    (sDrIdle false).polderDrained 3 = true ∧ (sDrIdle true).polderDrained 3 = false ∧ (sDr .fullDrain true).allDrained = false := by decide +kernel

theorem test_drained_idle : gives .polderDrained (sDrIdle false) (fun t => t.prf.chg == .none && t.prf.held == 8 && t.prf.resState == 2) = true ∧
    gives .polderDrained (sDrIdle true) (· == sDrIdle true) = true := by decide +kernel
theorem test_full_abort : gives .chgDrainAbort (sDr .fullDrain true) (fun t => t.prf.limit && t.prf.chg == .fullDrain &&
    ((t.jobRun 0).step.map (·.stop) == some .aborted || (t.jobRun 0).failed == [7])) = true := by decide +kernel
/-- The reach whose bypass changes loses its weight stores (03 R79, R102). -/
theorem test_resume_stores : gives (.polderResumeDone (Vector.replicate 4 3) 15) ((sDr (.resuming 1) false).modReach 5 fun x =>
    { x with ws := x.ws.set 1 { state := .loaded, fmt := 1 } }) (fun t => t.reach[5].ws[1] == {}) = true := by decide +kernel

theorem test_drained : gives .polderDrained (sDr (.draining 0 true) false) (fun t => t.prf.held == 1 && t.prf.resState == 2 && t.time == 2000000) = true ∧
    gives .polderDrained (sDr (.draining 0 true) true) (fun t => t.prf.held == 0 && t.time == 1020000) = true := by decide +kernel
theorem test_full_drain : gives .fullDrainSwitch (sDr .fullDrain false) (fun t => t.prf.chg == .entering && t.time == 2000000) = true := by decide +kernel
theorem test_drain_abort : gives .chgDrainAbort (sDr (.draining 0 true) true) (fun t => ((t.jobRun 0).step.map (·.stop) == some .aborted ||
    (t.jobRun 0).failed == [7]) && (evAfter .chgDrainAbort (sDr (.draining 0 true) true)).map (·.1) == some 0x0A07) = true := by decide +kernel
theorem test_resume : gives (.polderResumeDone (Vector.replicate 4 3) 14) (sDr (.resuming 1) false) (fun t => t.reach[5].bypass == 3 &&
    t.reach[3].bypass == 0 && t.dev.reachOk == 0xFFEF && t.lkp.admRuns == 1) = true := by decide +kernel

/-! ### Starts, resets and the flash -/

/-- StartsAndResets. -/
theorem witness_starts : OpenPort sP .host ∧ sP.holds .host 1 = true ∧ sP.prf.chg = .none ∧ (State.reset.dev.rstLow = true ∧ sP.dev.rstLow = false ∧
    sP.dev.held = false ∧ sP.prf.recovery = false) ∧ (({ sP with dev := { sP.dev with shed := 7 } }).dev.shed = 7 ∧ sP.dev.shed ≠ 7) :=
  ⟨openPort_of (by decide +kernel), by decide +kernel⟩

theorem no_fw {s : State} (h : ∀ l, Config.fwCheck Config.rilvasKey l = none) (p : Bool) : pickFw s.fwOf p = none := by
  simp [pickFw, State.fwOf, h]

/-- With no firmware slot that the ROM accepts the device enters recovery (12 R411), and shows the slot that the pins name (R422). -/
theorem test_cold_start (h : ∀ l, Config.fwCheck Config.rilvasKey l = none) :
    gives (.coldStart { sel := 2 } none) State.reset (fun t => t.prf.recovery && !t.prf.ready && !t.dev.held && t.dev.profile == 2 && t.prf.target == 2) = true := by
  simp only [gives, exec, execColdStart, State.start, no_fw h]
  rfl
theorem test_sys_rst : gives .sysRstNLow sP (fun t => t.dev.held && t.sem[1].owner == 0 && t.prf.slots[1].fault == 1) = true := by decide +kernel
theorem test_s7 : gives .s7Stop { sP with dev := { sP.dev with shed := 7 } } (fun t => t.dev.held && !t.dev.rstLow) = true := by decide +kernel

/-- A flash command at 0x4100000 (the first profile slot) with its buffer at 0x40000000; a flash byte that is not erased. -/
def sFl (q : Option FlashOp) : State :=
  withMem { sP with prf := { sP.prf with flashAddr := 0x4100000, flashDev := 0x40000000, flash := [(0x4100003, 5), (0x4110000, 6)], flashOp := q
                                         flogOwed := [(7, List.replicate 51 9)], flogHalf := 1, flogPos := 2, flogSeq := 3 } } 0x40000000 [1, 2]

/-- An operation on one page. -/
def fOp (op : Nat) : FlashOp := { op, addr := 0x4100000, dev := 0x40000000, pages := 256, port := .host }

/-- FlashOperations. -/
theorem witness_flash : AllKeyed (sFl none) ∧ AllKeyed (sFl (some (fOp 1))) ∧ swf (0xFF : Byte) (sFl none).prf.flash = true ∧
    OpenPort (sFl none) .host ∧ ((sFl none).holds .host 2 = true ∧
    (sFl none).flashOk 1 256 = true ∧ (sFl none).flashOk 2 256 = true ∧ (sFl none).flashOk 3 256 = true ∧ (sFl none).flashOk 2 255 = false ∧
    (sFl none).flashOk 1 0 = false ∧ (sFl (some (fOp 1))).flashOk 3 1 = false) ∧
    (sFl none).prf.flogPos + 4096 ≤ 131072 :=
  ⟨allKeyed_of (by decide +kernel), allKeyed_of (by decide +kernel), by decide +kernel, openPort_of (by decide +kernel), by decide +kernel,
    by decide +kernel⟩

theorem test_flash_begin : gives (.flashErase .host 256) (sFl none) (fun t => t.prf.flashOp == some (fOp 2) && t.prf.flashDone == 0) = true ∧
    (evAfter (.flashErase .host 255) (sFl none)).map (·.1) = some 0x0A0A := by decide +kernel
theorem test_flash_read : gives (.flashOpDone true 0) (sFl (some { fOp 1 with pages := 1 })) (fun t => t.read 0x40000000 4 == [255, 255, 255, 5] &&
    t.prf.flashDone == 1 && t.prf.flashOp == none) = true := by decide +kernel
theorem test_flash_erase : gives (.flashOpDone true 0) (sFl (some (fOp 2))) (fun t => t.flashRead 0x4100003 1 == [255] &&
    t.flashRead 0x4110000 1 == [6]) = true := by decide +kernel
theorem test_flash_program : gives (.flashOpDone true 0) (sFl (some { fOp 3 with pages := 1 })) (fun t => t.flashRead 0x4100000 4 == [1, 2, 0, 0]) = true ∧
    gives (.flashOpDone false 0) (sFl (some (fOp 3))) (fun t => t.flashRead 0x4100000 4 == [255, 255, 255, 5] && t.prf.flashErr &&
      t.prf.flashCode == 0x0A0B) = true := by decide +kernel
theorem test_fault_log : gives .faultLogAppend (sFl none) (fun t => t.prf.flogPos == 3 && t.prf.flogOwed == [] &&
    t.flashRead 0x8800080 64 == flogBytes 3 7 (List.replicate 51 9)) = true := by decide +kernel

/-! ### The host port -/

/-- BASE 4: byte 0 of BAR2 is device address 0x40000000; four bytes stand at its byte 2; the host owns semaphore 5. -/
def sHost : State :=
  withMem { s0 with pci := { s0.pci with base := 4, up := true, msixEn := true, pend := [3, 9], unmasked := [9] }
                    sem := s0.sem.set 5 { owner := 1 } } 0x40000002 [1, 2, 3, 4]

/-- HostMemoryWindow: accesses that the window serves, beyond its end of 64 GiB, and into the device area. -/
theorem witness_window : (sHost.dev.held = false ∧ sHost.pci.mse = true ∧ sHost.prf.ready = true ∧ sHost.draining = false) ∧
    (sHost.dev.shed.toNat < 6 ∧ sHost.openMem (sHost.pci.base.toNat * 2 ^ 28 + 2) 4 = true ∧ 2 + 4 ≤ 2 ^ sHost.pci.size.toNat) ∧
    ¬ (2 ^ 36 - 2 + 4 ≤ 2 ^ sHost.pci.size.toNat) ∧ sHost.openMem (0 * 2 ^ 28 + 2) 4 = false ∧
    (OpenPort sHost .host ∧ sHost.holds .host 5 = true) :=
  ⟨by decide +kernel, by decide +kernel, by decide +kernel, by decide +kernel, openPort_of (by decide +kernel), by decide +kernel⟩

theorem test_bar2_read : gives (.bar2Read 2 4) { sHost with dev.shed := 1 } (fun t => t.out == [.pciCompletion 0 false [1, 2, 3, 4]]) = true ∧
    gives (.bar2Read (2 ^ 36 - 2) 4) sHost (fun t => t.pci.b2bad == 1 && t.out == [.pciCompletion 1 false [], .aer 1 (some false)]) = true := by decide +kernel
theorem test_bar2_write : gives (.bar2Write 62 [5, 6, 7, 8] true) { sHost with dev.shed := 1 } (fun t => t.read 0x4000003E 4 == [5, 6, 7, 8] &&
      t.poison == [0x1000000, 0x1000001] && t.read 0x40000002 4 == [1, 2, 3, 4]) = true := by decide +kernel
/-- A read of three bytes, of the upper half of a register, and a write of a half (00 R9, 13 R429). -/
theorem test_bad_access : gives (.pciBadAccess 0x3C0008 (.read 3)) sHost (fun t => t.out == [.pciCompletion 0 false [0, 0, 0]] && t.pci.badacc == 1) = true ∧
    gives (.pciBadAccess 0x3C000C (.read 4)) { sHost with mgt.collHi := 0x1122334455667788 }
      (fun t => t.out == [.pciCompletion 0 false [0x44, 0x33, 0x22, 0x11]] && t.pci.badacc == 0) = true ∧
    gives (.pciBadAccess 0x3C0008 (.write [1, 2, 3, 4])) sHost (fun t => t.out == [] && t.pci.badacc == 1 && t.mgt.collHi == 0) = true ∧
    gives (.pciBadAccess 0x3C0008 (.write [1, 2, 0, 0, 0, 0, 0, 0])) sHost (fun t => t.pci.badacc == 0 && t.mgt.collHi == 0x201) = true := by decide +kernel
theorem test_b2_win : gives (.b2WinWrite .host 0x300) sHost (fun t => t.pci.base == 0x300) = true ∧
    gives (.b2WinWrite .host 0x301) sHost (fun t => t.pci.base == 4) = true := by decide +kernel
theorem test_bar2_resize : gives (.bar2Resize 28) sHost (fun t => t.pci.size == 28 && t.pci.base == 4) = true ∧
    gives (.bar2Resize 36) sHost (fun t => t.pci.base == 0) = true := by decide +kernel

/-- A host barge: 64 queued, or one at an address, and a barge of reach 0 that reads host memory. -/
def sHb (a : Nat) : State := { sHost with pci := { sHost.pci with hbq := [a] } }
/-- A COPY of two rows of 3 bytes from host memory. -/
def dHost : List Byte := leBytes 2 (2 ^ 12 + 2 ^ 10) ++ leBytes 2 0xFFFF ++ leBytes 4 0 ++ leBytes 8 0x9000 ++ leBytes 8 0xF800020101 ++
  leBytes 4 3 ++ leBytes 4 2 ++ leBytes 4 4 ++ leBytes 4 4 ++ leBytes 24 0
/-- The reach whose barge reads host memory, with the link up. -/
def sHr : State := { sBg dHost with pci := { (sBg dHost).pci with up := true } }

/-- HostBargeQueue. -/
theorem witness_hbq : OpenPort sHost .host ∧ (sHost.pci.hbq.length < 64 ∧
      64 ≤ ({ sHost with pci := { sHost.pci with hbq := List.replicate 64 0x40000000 } }).pci.hbq.length) ∧
    ({ sHost with pci.hbar := some {} }).pci.hbar ≠ none ∧ AllKeyed (sHb 0x40000000) ∧ AllKeyed (sHb 64) ∧
    ((sHb 0x40000000).openMem 0x40000000 64 = true ∧ (sHb 64).openMem 64 64 = false ∧ (sHb 64).pci.hbar = none) ∧
    (sHr.reach[0].barges[15].busy = true ∧ sHr.reach[0].barges[15].moved = false ∧ (BDesc.ofBytes dHost).kind = 1 ∧ (BDesc.ofBytes dHost).ssp = 1 ∧
      (BDesc.ofBytes dHost).dsp = 0 ∧ sHr.pci.up = true ∧ sHr.descBad (.reach 0 15) sHr.reach[0].barges[15] (BDesc.ofBytes dHost) = false ∧
      sHr.badRange (.reach 0 15) sHr.reach[0].barges[15] (BDesc.ofBytes dHost) = none ∧ sHr.reach[0].u.wait = .none ∧ sHr.reach[0].lateClear = false ∧
      sHr.bargeBehind (.reach 0 15) sHr.reach[0].barges[15] (BDesc.ofBytes dHost) = false ∧ sHr.reach[0].waitBarges = false) :=
  ⟨openPort_of (by decide +kernel), by decide +kernel, by decide +kernel, allKeyed_of (by decide +kernel), allKeyed_of (by decide +kernel),
    by decide +kernel, by decide +kernel⟩

theorem test_hbq : gives (.hbqCmd .host 0x1000001) sHost (fun t => t.pci.hbq == [0x40000040]) = true ∧
    (evAfter (.hbqCmd .host 1) { sHost with pci := { sHost.pci with hbq := List.replicate 64 0x40000000 } }).map (·.1) = some 0x0906 := by decide +kernel
theorem test_host_barge : gives .hostBargeStart (sHb 0x40000000) (fun t => (t.pci.hbar.map fun g => g.desc.take 6) == some [0, 0, 1, 2, 3, 4]) = true ∧
    gives .hostBargeStart (sHb 64) (fun t => t.pci.hbar == none && t.pci.hbq == [] && t.pci.done == 1 && t.pci.code == 0x030D) = true := by decide +kernel
/-- Four of the six bytes came: one row and a part of the next (13 R438). -/
theorem test_cpl_timeout : gives (.pciCplTimeout (.reach 0 15) [7, 8, 9, 6]) sHr (fun t => t.reach[0].barges[15].code == 0x0904 &&
    !t.reach[0].barges[15].busy && t.read 0xF800020100 8 == [0, 7, 8, 9, 0, 6, 0, 0] && t.out == [.hostRead 0x9000 3, .hostRead 0x9004 3, .aer 3 none]) = true := by decide +kernel

/-- HostLink. -/
theorem witness_link : sHost.dev.held = false ∧ sHost.pci.up = true ∧ sHost.pwr.clk.getLsbD 0 = false ∧ (9 ∈ sHost.pci.pend ∧ 9 ∈ sHost.pci.unmasked) ∧ sHost.pci.mse = true ∧
    (Instr.pciLinkUp 16 5 true false).wellFormed = true ∧
    (sHost.pci.msixEn = true ∧ sHost.pci.fmask = false ∧ (3 : BitVec 11).toNat ∈ sHost.pci.pend) := by decide +kernel

theorem test_link_down : gives (.pciLinkDown 1) sHost (fun t => !t.pci.up && t.pci.linkdn == 1 && t.sem[5].owner == 0 && t.pci.mse) = true ∧
    gives (.pciLinkDown 0) sHost (fun t => !t.pci.mse && t.pci.base == 0) = true := by decide +kernel
theorem test_flr : gives (.hostPortReset true) { sHost with pci.trained := true } (fun t => t.pci.trained && !t.pci.mse) = true ∧
    gives (.hostPortReset false) { sHost with pci.trained := true } (fun t => !t.pci.trained && t.pci.pend == []) = true ∧
    gives (.pciePerstN true) { sHost with pci.trained := true } (fun t => !t.pci.trained && t.sem[5].owner == 0) = true := by decide +kernel
theorem test_link_up : gives (.pciLinkUp 16 5 true false) sHost (fun t => t.out == [.msix 9] && t.pci.pend == [3] && t.pci.width == 16) = true := by decide +kernel
/-- Vector 3 is unmasked by a write of its control word; its address is read back; the function mask holds every message (13 R436). -/
theorem test_unmask : gives (.msixUnmask (.write 60 (leBytes 4 0))) sHost (fun t => t.out.contains (.msix 3) && t.pci.unmasked.contains 3 && !t.pci.pend.contains 3) = true ∧
    gives (.msixUnmask (.write 48 (leBytes 4 7))) sHost (fun t => t.pci.word4 12 == 7 && t.pci.pend.contains 3) = true ∧
    gives (.msixUnmask (.function true true)) sHost (fun t => t.out == [] && t.pci.fmask && t.pci.pend == [3, 9]) = true := by decide +kernel
theorem test_unexpected : gives .unexpectedCompletion sHost (fun t => t.out == [.aer 4 none]) = true ∧
    gives (.pciBadAccess 0 .unsupported) sHost (fun t => t.out == [.pciCompletion 2 false [], .aer 0 none]) = true ∧
    gives (.pciBadAccess 0 .replayed) sHost (fun t => t.out == [.aer 5 none]) = true := by decide +kernel

/-! ### The management port -/

/-- A session of identifier 77 in place 1, of MAINTENANCE authority where `m`, whose last request has number 5; the port owns semaphore 5. -/
def sE (m : Bool) : State :=
  { s0 with mgt := { s0.mgt with link := true, sess := s0.mgt.sess.set 1 (some { id := 77, maint := m, coll := true, nth := 0, seq := some 5, reply := [4] })
                                 opened := 1 }
            sem := s0.sem.set 5 { owner := 2 }, sec := { s0.sec with maint := m } }

/-- A request in that session. -/
def rq (seq : W32) (payload : List Byte) : EmpReq := { session := 77, seq, payload }

/-- RequestsAreChecked: discarded, failing authentication, a repeat, without authority, malformed. -/
theorem witness_requests : (sE true).empIn (rq 4 []) = .discard ∧ (sE true).empIn { rq 6 [] with ok := false } = .authFail ∧
    (sE true).empIn (rq 5 []) = .again 0 [4] ∧ (sE false).empIn (rq 6 []) = .fresh 1 false ∧
    (sE true).empIn { rq 6 [] with flags := 1 } = .fresh 1 true ∧ ({ rq 6 [] with flags := 1 } : EmpReq).form = false ∧
    (sE true).empIn { rq 6 [] with busy := true } = .busy ∧ ({ rq 6 [] with frag := true } : EmpReq).taken = false ∧ (rq 6 []).taken = true ∧
    ((sE true).empServed = true ∧ ∀ k : Fin 4, ((sE true).mgt.sess[k].map (·.id)) ≠ some 78) := by decide +kernel

/-- Status and payload of the reply sent last. -/
def reply (i : Instr) (s : State) : Option (Nat × List Byte) :=
  match exec i s with
  | .next t => match t.out.getLast? with
    | some (.empReply _ _ st r) => some (st, r)
    | _ => none
  | _ => none

theorem test_requests : reply (.empRead (rq 5 [])) (sE true) = some (0, [4]) ∧ reply (.empRead (rq 4 [])) (sE true) = none ∧
    reply (.clearFlag (rq 6 []) true) (sE false) = some (2, []) ∧ reply (.recordAck { rq 6 [] with flags := 1 }) (sE true) = some (1, []) ∧
    reply (.recordAck { rq 6 [] with busy := true }) (sE true) = some (3, []) ∧ reply (.recordAck { rq 6 [] with port := 1 }) (sE true) = none ∧
    gives (.empRead { rq 6 [] with ok := false }) (sE true) (fun t => t.mgt.authFail == 1 && t.out == []) = true := by decide +kernel

/-- RequestsInASession: a read of the register at 0x3C0008, writes, a report with a nonce of 32 bytes, an acknowledgement, a restart. -/
theorem witness_session_requests : NewReq (sE true) (rq 6 []) 1 true ∧ NewReq (sE false) (rq 6 []) 1 false ∧
    readForm (rq 6 (leBytes 4 0x3C0008 ++ leBytes 4 2)) = true ∧
    (writeForm (rq 6 (leBytes 8 0x3C0008 ++ leBytes 8 9)) = true ∧ (rq 6 (leBytes 8 0x3C0008 ++ leBytes 8 9)).payload.length = 16 ∧
      (sE true).prf.ready = true ∧ (sE true).draining = false ∧ (sE true).holds (.mgmt 1) 5 = true ∧
      ({ sE true with sem := State.reset.sem }).holds (.mgmt 1) 5 = false ∧ regDefined 0x3FFFF8 = false) ∧
    ((rq 6 (leBytes 40 1)).payload.length = 40 ∧ reqNat (rq 6 (leBytes 40 1)) 36 4 = 0 ∧ (sE true).sec.idOk = true ∧ (sE true).sec.rngOk = true ∧
      (sE true).sec.att = none ∧ ({ sE true with sec.att := some { buf := 0, port := .host, nonce := [], ctx := 0 } }).sec.att ≠ none) ∧
    ((rq 6 (leBytes 4 7)).payload.length = 4 ∧ (rq 6 []).payload = [] ∧ (0x7F : Byte).toNat ∉ [1, 2, 3, 4, 5, 7, 8]) :=
  ⟨⟨by decide +kernel, rfl⟩, ⟨by decide +kernel, rfl⟩, by decide +kernel, by decide +kernel, by decide +kernel, by decide +kernel⟩

theorem test_emp_read : reply (.empRead (rq 6 (leBytes 4 0x3C0008 ++ leBytes 4 2))) { sE true with mgt.collHi := 0x1122, mgt.collLo := 3 } =
    some (0, leBytes 4 0x3C0008 ++ leBytes 4 2 ++ leBytes 8 0x1122 ++ leBytes 8 3) := by decide +kernel
theorem test_emp_write : reply (.empWrite (rq 6 (leBytes 8 0x3C0008 ++ leBytes 8 9))) (sE true) = some (0, [0]) ∧
    reply (.empWrite (rq 6 (leBytes 8 0x3C0008 ++ leBytes 8 9))) { sE true with sem := State.reset.sem } = some (0, [1]) ∧
    reply (.empWrite (rq 6 (leBytes 8 0x3FFFF8 ++ leBytes 8 9))) (sE true) = some (0, [2]) ∧
    reply (.empWrite (rq 6 (leBytes 8 0x480028 ++ leBytes 8 9))) (sE false) = some (0, [3]) := by decide +kernel
theorem test_attest : reply (.attest (rq 6 (leBytes 40 1))) { sE true with sec.att := some { buf := 0, port := .host, nonce := [], ctx := 0 } } =
    some (3, []) := by decide +kernel
theorem test_record_ack : gives (.recordAck (rq 6 (leBytes 4 7))) { sE true with mgt.recs := [{ seq := 7 }, { seq := 8 }], mgt.sent := 2 }
    (fun t => t.mgt.recs == [{ seq := 8 }] && t.mgt.sent == 1 && t.mgt.acked == 7) = true := by decide +kernel
theorem test_emp_restart (h : ∀ l, Config.fwCheck Config.rilvasKey l = none) : gives (.empRestart (rq 6 []) {}) (sE true)
    (fun t => t.prf.recovery && t.out.head? == some (.empReply 77 6 0 []) && t.mgt.sess[1] == none) = true := by
  have e : exec (.empRestart (rq 6 []) {}) (sE true) = .next (((sE true).send (.empReply 77 6 0 [])).warmReset {}) := rfl
  simp only [gives, e, State.warmReset, State.start, no_fw h]
  rfl
theorem test_unknown : reply (.empUnknownCmd 0x7F (rq 6 [])) (sE true) = some (4, []) := by decide +kernel

/-- The fault log owes a flag, a mark of channel 3 and lane 70 of reach 2 in the bypass. -/
def sM7 : State := { sE true with prf := { (sE true).prf with flogOwed := [recFlag 1 0 0 0, recMark 3, recBypass 2 1 64] } }
/-- A MAINT request with its two arguments and CONFIRM. -/
def rqM (a0 a1 conf : Nat) : EmpReq := rq 6 (leBytes 2 0 ++ leBytes 2 a0 ++ leBytes 2 a1 ++ leBytes 2 0 ++ leBytes 8 conf ++ leBytes 4 0)

/-- MaintenanceRequests: what is there, and what is not. -/
theorem witness_maint : NewReq sM7 (rqM 3 70 0) 1 true ∧ maintForm (rqM 3 70 0) = true ∧
    (sM7.confirmed (rqM 3 0 0) = true ∧ sM7.confirmed (rqM 3 0 1) = false) ∧
    (sM7.logNow.flag.isSome = true ∧ (sE true).logNow.flag.isSome = false ∧ sM7.logNow.marks.contains 3 = true ∧ sM7.logNow.marks.contains 2 = false ∧
      (slook 0 sM7.logNow.bypass (4 * 2 + 70 / 64)).getLsbD (70 % 64) = true ∧ (slook 0 sM7.logNow.bypass (4 * 2 + 71 / 64)).getLsbD (71 % 64) = false) :=
  ⟨⟨by decide +kernel, rfl⟩, by decide +kernel, by decide +kernel, by decide +kernel⟩

/-- RESULT of a MAINT request. -/
def result (i : Instr) (s : State) : Option Nat := (reply i s).map fun r => leNat (r.2.take 4)

theorem test_clear_flag : result (.clearFlag (rqM 0 0 0) true) sM7 = some 0 ∧ result (.clearFlag (rqM 0 0 1) true) sM7 = some 1 ∧
    result (.clearFlag (rqM 0 0 0) true) (sE true) = some 2 ∧ result (.clearFlag (rqM 0 0 0) false) sM7 = some 3 := by decide +kernel
theorem test_clear_mark : result (.clearMark (rqM 3 0 0) true) sM7 = some 0 ∧ result (.clearMark (rqM 32 0 0) true) sM7 = some 1 ∧
    result (.clearMark (rqM 2 0 0) true) sM7 = some 2 := by decide +kernel
theorem test_clear_lane : result (.clearLane (rqM 2 70 0) true) sM7 = some 0 ∧ result (.clearLane (rqM 16 0 0) true) sM7 = some 1 ∧
    result (.clearLane (rqM 2 71 0) true) sM7 = some 2 ∧
    gives (.clearLane (rqM 2 70 0) true) sM7 (fun t => t.prf.flogPos == 4 && t.prf.flogOwed == [] && t.logNow.bypass == []) = true := by decide +kernel
theorem test_log_read : reply (.logRead (rqM 0 0 0) true) sM7 = some (0, leBytes 8 0 ++ List.replicate 1024 0xFF) := by decide +kernel

/-- An OPEN with a zero credential; a credential that the operator signed, as far as the kernel can see. -/
def rqO : EmpReq := { session := 0, seq := 1, payload := List.replicate 356 0 }
def credOk : List Byte := leBytes 4 0xFD31C0DE ++ leBytes 4 1 ++ List.replicate 248 0

/-- SessionsAndRecords: refused; accepted, if the signature verifies; full; a session that ends last and one that does not; records. -/
theorem witness_sessions : ((sE true).empServed = true ∧ rqO.taken = true ∧ rqO.busy = false ∧ rqO.session = 0 ∧ rqO.form = true ∧ rqO.payload.length = 356 ∧ (sE true).sec.idOk = true ∧
      (sE true).sec.rngOk = true ∧ (sE true).credential ((rqO.payload.drop 4).take 256) = false ∧ bitAt (reqNat rqO 1 1) 0 = false) ∧
    ((sE true).mgt.freeSlot = some 0 ∧ ({ sE true with mgt.sess := Vector.replicate 4 ((sE true).mgt.sess[1]) }).mgt.freeSlot = none) ∧
    (∀ j : Fin 4, j ≠ 1 → (sE true).mgt.sess[j] = none) ∧ ((sE true).mgt.collector = some 1 ∧ (sE true).mgtServed = true ∧
      ({ sE true with mgt.coll := 1 }).mgt.coll ≠ 0) := by decide +kernel

theorem witness_credential (h : Config.sm2Verify (List.replicate 64 0) (sm3 (credOk.take 192)) (List.replicate 64 0) = true) :
    ({ sE true with prf.opKey := sm3 (List.replicate 64 0) }).credential credOk = true := by
  have e1 : (credOk.drop 104).take 64 = List.replicate 64 0 := by decide +kernel
  have e2 : (credOk.drop 192).take 64 = List.replicate 64 0 := by decide +kernel
  have e3 : (leNat ((credOk.drop 0).take 4) == 0xFD31C0DE && (leNat ((credOk.drop 4).take 1) == 1 || leNat ((credOk.drop 4).take 1) == 2)) = true := by
    decide +kernel
  have e4 : (leNat ((credOk.drop 8).take 32) == 0) = true := by decide +kernel
  simp [State.credential, e1, e2]
  simp_all

theorem test_chain : gives (.chain { rqO with payload := leBytes 8 0 }) (sE true) (fun t => t.out.length == 1) = true := by decide +kernel
theorem test_session_open : gives (.sessionOpen rqO) (sE true) (fun t => t.out == [.empReply 0 1 2 []] && t.mgt.sess[0] == none) = true ∧
    (evAfter (.sessionOpen rqO) (sE true)).map (·.1) = some 0x0604 := by decide +kernel
theorem test_expire : gives (.empSessionExpire 1) (sE true) (fun t => t.mgt.sess[1] == none && t.sem[5].owner == 0 && !t.sec.maint) = true := by
  decide +kernel
theorem test_records : gives .empRecordSend { sE true with mgt.coll := 1, mgt.recs := [{ seq := 7 }, { seq := 8 }], mgt.sent := 1 }
      (fun t => t.out == [.empRecord 1 [{ seq := 8 }]] && t.mgt.sent == 2) = true ∧
    gives .empRecordResend { sE true with mgt.coll := 1, mgt.recs := [{ seq := 7 }, { seq := 8 }], mgt.sent := 1 }
      (fun t => t.out == [.empRecord 1 [{ seq := 7 }, { seq := 8 }]] && t.mgt.sent == 2) = true := by decide +kernel
theorem test_icmp : gives (.icmpv6Echo [1]) (sE true) (fun t => t.out == [.ipv6 0 [1]]) = true ∧
    gives (.neighbourDiscovery (.solicit 5)) { sE true with mgt.addrs := [5], mgt.mac := 0x020304050607 }
      (fun t => t.out == [.ipv6 1 [0, 0, 0, 0, 0, 0, 0, 0, 0, 0, 0, 0, 0, 0, 0, 5, 2, 3, 4, 5, 6, 7]]) = true ∧
    gives (.neighbourDiscovery (.solicit 6)) { sE true with mgt.addrs := [5] } (fun t => t.out == []) = true ∧
    gives (.neighbourDiscovery (.prefix_ 0x20010DB8)) (sE true) (fun t => t.mgt.addrs.any fun a => a.toNat / 2 ^ 64 == 0x20010DB8) = true := by decide +kernel
theorem test_mgt_link : gives .mgtLinkDown (sE true) (fun t => !t.mgt.link) = true ∧ gives .mgtLinkUp s0 (fun t => t.mgt.link) = true := by decide +kernel

/-! ### Coupling -/

/-- Member 5 of basin 1 follows manager 0, knows member 6, and has link keys with both; its ports are up; context 2 may be read and
written from outside in 16 blocks from 0x40000000. -/
def sW5 : State :=
  { s0 with
    dev := { s0.dev with role := 1 }
    ctx := { npctx := 3, ctxs := [(2, { state := .live, regions := [{ base := 0x40000, size := 16, wr := true, rd := true, valid := true }] })] }
    cpl := { node := 0x105, wstate := .member, timeSet := true, pcs := 0xFF, sect := { basin := 1, ports := 0xFF, mgrPorts := 2 }
             members := [(6, 0)], follows := some 0x100, keys := [{ node := 0x100, keyid := 3 }, { node := 0x106, keyid := 3 }] } }

/-- A frame from member 6 on port 2, and one from manager 0 on port 1. -/
def x6 (payload : List Byte) (aux : W32 := 0) : RxFrame := { port := 2, src := 0x106, keyid := 3, ctx := 2, aux, payload }
def xM (payload : List Byte) (aux : W32 := 0) : RxFrame := { port := 1, src := 0x100, keyid := 3, aux, payload }

/-- DATA and RREQ: where the member may write and read, and with an address beyond its region. -/
def payA (a : Nat) (bs : List Byte) : List Byte := leBytes 8 a ++ bs

/-- The member has asked member 6 for three bytes for barge 15 of reach 0, and has sent it a DATA frame. -/
def sRd (resends : Nat) : State :=
  { sW5 with cpl := { sW5.cpl with
      reads := [{ port := 2, node := 0x106, seq := 9, space := 0, dst := 0xF800020101, len := 3, reach := 0, tag := 15 }]
      flows := [((2, 0x106), { next := 5, unacked := [{ seq := 4, ftype := 1, aux := 0, ctx := 1, job := 5, payload := [7], resends }] })] } }

theorem keyed_w5 (s : State) (h : s.lineKey = []) (h1 : s.sec.debug = false)
    (h2 : (s.ctx.ctxs.all fun e => decide (e.1 ≤ s.ctx.npctx) && e.2.priv.all (fun b => !b)) = true) : AllKeyed s := by
  intro line
  have h3 : s.ctx.ctxs.find? (fun e => e.2.keyed s.ctx.npctx e.1 (64 * line)) = none := by
    apply List.find?_eq_none.mpr
    intro e he hk
    have he' := List.all_eq_true.mp h2 e he
    simp only [Bool.and_eq_true, decide_eq_true_eq] at he'
    simp only [Ctx.keyed, he'.1, if_true, List.any_eq_true, Bool.and_eq_true] at hk
    obtain ⟨p, hp, hp1, -⟩ := hk
    have := List.all_eq_true.mp he'.2 p.2 (List.of_mem_zip (show (p.1, p.2) ∈ _ from hp)).2
    simp [hp1] at this
  simp [State.keyOk, State.keyTag, h, h1, h3, slook, b2n]

/-- A worker that hears no manager; managers of side 0 and 1 in a state. -/
def sNo : State := { sW5 with cpl := { sW5.cpl with follows := none } }
def sMg (side : Bool) (m : MState) : State :=
  { sW5 with
    dev := { sW5.dev with role := 2 }, prf := { sW5.prf with pairSide := side }
    cpl := { sW5.cpl with node := if side then 0x101 else 0x100, mstate := m, follows := none
                          keys := [{ node := 0x100, keyid := 3 }, { node := 0x101, keyid := 3 }, { node := 0x106, keyid := 3 }] } }
/-- A frame from manager 1. -/
def xP (payload : List Byte) (aux : W32 := 0) : RxFrame := { port := 1, src := 0x101, keyid := 3, aux, payload }

/-- A HELLO of a manager that acts, or in no state. -/
def pHello (ms : Nat) : List Byte := leBytes 1 3 ++ leBytes 1 ms ++ leBytes 2 0 ++ leBytes 8 9 ++ leBytes 52 0
/-- TransportFrames: each kind of frame; flows that go again and that fail; a port. -/
theorem witness_transport : (InTurn sW5 (x6 (payA 0x40000000 [1, 2])) 1 ∧ InTurn sW5 (x6 (payA 0x40000000 (leBytes 8 0)) 3) 2 ∧
      InTurn (sRd 0) (x6 [1, 2, 3]) 3 ∧ InTurn (sRd 0) (x6 (leBytes 4 4)) 5) ∧
    (sW5.remoteRefuse (x6 []) true 0x40000000 2 = 0 ∧ sW5.remoteRefuse (x6 []) true 0x40010000 2 = 3 ∧
      sW5.remoteRefuse (x6 []) false 0x40000000 3 = 0 ∧ sW5.remoteRefuse (x6 []) false 0x4000FFFE 3 = 3) ∧ AllKeyed sW5 ∧
    ((sRd 0).oldestRead (x6 [1, 2, 3]) = some { port := 2, node := 0x106, seq := 9, space := 0, dst := 0xF800020101, len := 3, reach := 0, tag := 15 }) ∧
    ((sRd 0).frameKey (x6 []) 4 = true ∧ (∀ r ∈ (sRd 0).cpl.reads, r.seq ≠ BitVec.ofNat 32 (payNat (leBytes 4 4) 0 4)) ∧
      (((sRd 0).cpl.flow 2 0x106).unacked.find? (fun y => y.seq == 4 && y.ftype == 1)).isSome = true ∧ StagingRoom (sRd 0) 5) ∧
    (((sRd 7).cpl.flow 2 0x106).failed = false ∧ (sRd 7).portUp 2 = true ∧ ((sRd 8).cpl.flow 2 0x106).unacked.head?.map (·.resends) = some 8) ∧
    (({ sW5 with cpl := { sW5.cpl with pcs := 0 } }).portUp 2 = false ∧ sW5.portUp 2 = true) :=
  ⟨⟨inTurn_of (by decide +kernel), inTurn_of (by decide +kernel), inTurn_of (by decide +kernel), inTurn_of (by decide +kernel)⟩, by decide +kernel,
    keyed_w5 _ (by decide +kernel) (by decide +kernel) (by decide +kernel), by decide +kernel,
    ⟨by decide +kernel, by decide +kernel, by decide +kernel, stagingRoom_of (by decide +kernel)⟩, by decide +kernel, by decide +kernel⟩

/-- A frame's place in no flow: ACK and HELLO; a header that is wrong, a key that is not in force, a frame for another device; a read whose
barge is over. -/
theorem witness_arrives : (Arrives (sRd 0) (x6 []) 4 ∧ Arrives sNo (xM (pHello 2)) 6 ∧ Arrives (sMg false .none) (xP (pHello 0)) 6) ∧
    (({ x6 [] with ver := 2 }).headOk 4 = false ∧ ({ x6 [] with typ := some 0x20 }).headOk 4 = false ∧ ({ x6 [] with len := some 9 }).headOk 4 = false ∧
      (sRd 0).frameKey { x6 [] with keyid := 9 } 4 = false ∧ (sRd 0).frameMine (x6 []) = true ∧ (sRd 0).frameMine { x6 [] with dst := 0x107 } = false) :=
  ⟨⟨(inTurn_of (by decide +kernel)).toArrives, (inTurn_of (by decide +kernel)).toArrives, (inTurn_of (by decide +kernel)).toArrives⟩, by decide +kernel⟩

theorem test_foreign : gives (.ack { x6 [] with dst := 0x107, ack := 5 }) (sRd 0) (fun t => t.cpl.bad[2] == 0 && (t.cpl.flow 2 0x106).unacked.length == 1) = true ∧
    gives (.ack { x6 [] with ver := 2, ack := 5 }) (sRd 0) (fun t => t.cpl.bad[2] == 1 && (t.cpl.flow 2 0x106).unacked.length == 1) = true ∧
    gives (.ack { x6 [] with typ := some 0x20, words := 3 }) (sRd 0) (fun t => t.cpl.bad[2] == 1 && t.cpl.uncorr[2] == 3) = true := by decide +kernel
theorem test_dead_read : gives (.rdata (x6 [1, 2, 3])) (let s := sRd 0; { s with cpl := { s.cpl with reads := s.cpl.reads.map fun r => { r with dead := true } } })
    (fun t => t.cpl.reads == [] && t.mem == []) = true := by decide +kernel
theorem test_data : gives (.data (x6 (payA 0x40000000 [1, 2]))) sW5 (fun t => t.read 0x40000000 3 == [1, 2, 0] && t.cpl.refused == 0) = true ∧
    gives (.data (x6 (payA 0x40010000 [1, 2]))) sW5 (fun t => lastSent t 2 0x106 == some (5, 3, [0, 0, 0, 0]) && t.cpl.refused == 1) = true := by decide +kernel
theorem test_rreq : gives (.rreq (x6 (payA 0x40000000 (leBytes 8 0)) 3)) { withMem sW5 0x40000000 [7, 8, 9] with poison := [0x1000000] }
    (fun t => lastSent t 2 0x106 == some (3, 0, [7, 8, 9]) && ((t.cpl.flow 2 0x106).unacked.map (·.marks)) == [[0, 1, 2]]) = true := by decide +kernel
theorem test_rdata : gives (.rdata (x6 [1, 2, 3])) (sRd 0) (fun t => t.read 0xF800020100 4 == [0, 1, 2, 3] && t.cpl.reads == []) = true ∧
    gives (.rdata (x6 [1, 2])) (sRd 0) (fun t => t.cpl.bad[2] == 1 && t.cpl.reads.length == 1) = true := by decide +kernel
theorem test_ack : gives (.ack { x6 [] with ack := 5 }) (sRd 0) (fun t => (t.cpl.flow 2 0x106).unacked == []) = true ∧
    gives (.ack { x6 [] with ack := 4 }) (sRd 0) (fun t => (t.cpl.flow 2 0x106).unacked.length == 1) = true := by decide +kernel
theorem test_nak : (evAfter (.nak (x6 (leBytes 4 4))) (sRd 0)).map (·.1) = some 0x0506 := by decide +kernel
theorem test_resend : gives (.frameResend 2 0x106) (sRd 7) (fun t => t.out.length == 1 && t.cpl.retry[2] == 1 && !(t.cpl.flow 2 0x106).failed) = true ∧
    gives (.frameResend 2 0x106) (sRd 8) (fun t => (t.cpl.flow 2 0x106).failed && t.cpl.lost == 1) = true := by decide +kernel
theorem test_cpl_link : gives (.cplLinkUp 2) { sW5 with cpl := { sW5.cpl with pcs := 0 } } (fun t => t.cpl.pcs == 4) = true ∧
    gives (.cplLinkDown 2 6) sW5 (fun t => t.cpl.pcs == 0xFB && t.cpl.uncorr[2] == 6) = true := by decide +kernel

/-- The head of a CTRL frame: CMD, what stands in bytes 4 to 7, and bytes 8 to 15. -/
def pCtrl (cmd a b : Nat) (rest : List Byte) : List Byte := leBytes 4 cmd ++ leBytes 4 a ++ leBytes 8 b ++ rest

/-- BasinFrames: HELLO; JOIN and ADMIT. -/
theorem witness_hello : (sNo.dev.held = false ∧ sNo.portUp 1 = true ∧ sNo.frameKey (xM (pHello 2)) 6 = true ∧ 64 ≤ (xM (pHello 2)).payload.length ∧
      sNo.cpl.node ≠ 0x7FFF ∧ sNo.dev.role.toNat < 2 ∧ payNat (pHello 2) 0 1 = 3 ∧ payNat (pHello 2) 1 1 = 2 ∧ sNo.cpl.follows = none) ∧
    ((sMg false .none).frameKey (xP (pHello 0)) 6 = true ∧ ¬ (sMg false .none).dev.role.toNat < 2 ∧
      (0x101 : BitVec 15).toNat = (sMg false .none).peerNode ∧ (sMg false .none).cpl.asked = false ∧ payNat (pHello 0) 1 1 = 0) := by decide +kernel

/-- A JOIN with the key `static`, for the profile and firmware whose digests are those of no bytes. -/
def pJoin (static : List Byte) : List Byte :=
  leBytes 32 7 ++ leBytes 32 (sW5.fwDigest).toNat ++ leBytes 4 0 ++ leBytes 4 0 ++ static
def xJ (static : List Byte) : RxFrame := { port := 1, src := 0x7FFF, dst := 0x100, keyid := 0, payload := pJoin static }
/-- An acting manager whose profile lists member 6 with that identity. -/
def sJ : State :=
  { sMg false .solo with cpl := { (sMg false .solo).cpl with
      members := [], sect := { sW5.cpl.sect with members := [{ id := sm3 (List.replicate 64 1), profile := 7, member := 6, spare := false, backs := 0 }] } } }

theorem witness_join : InTurn sJ (xJ (List.replicate 64 2)) 7 ∧ InTurn sJ (xJ (List.replicate 64 1)) 7 ∧
    sJ.cpl.acting = true ∧ 136 ≤ (xJ (List.replicate 64 2)).payload.length ∧ (sJ.judge (xJ (List.replicate 64 2))).2 = 4 :=
  ⟨inTurn_of (by decide +kernel), inTurn_of (by decide +kernel), by decide +kernel, by decide +kernel, by decide +kernel⟩

/-- A member that joins gets its ADMIT, if the signature verifies. -/
def sJo : State := { sW5 with prf := { sW5.prf with opKey := sm3 (List.replicate 64 1) }
                              cpl := { sW5.cpl with node := 0x7FFF, wstate := .joining, follows := none } }
def xAd (m reason : Nat) : RxFrame :=
  { port := 1, src := 0x100, keyid := 0, aux := 0x80000000
    payload := leBytes 1 m ++ leBytes 1 reason ++ leBytes 2 0 ++ leBytes 4 8 ++ leBytes 32 7 ++ List.replicate 64 3 ++ List.replicate 64 1 ++ List.replicate 64 5 ++ leBytes 4 0 }

theorem witness_admit : (InTurn sJo (xAd 6 0) 7 ∧ InTurn sJo (xAd 0 2) 7) ∧ (sJo.cpl.wstate = .joining ∧ (xAd 6 0).aux.getLsbD 31 = true ∧
    236 ≤ (xAd 6 0).payload.length ∧ sm3 (((xAd 6 0).payload.drop 104).take 64) = sJo.prf.opKey) :=
  ⟨⟨inTurn_of (by decide +kernel), inTurn_of (by decide +kernel)⟩, by decide +kernel⟩

theorem test_hello : gives (.hello (xM (pHello 2))) sNo (fun t => t.cpl.follows == some 0x100 && t.cpl.fseq == 9) = true ∧
    gives (.hello (xP (pHello 0))) (sMg false .none) (fun t => t.cpl.mstate == .active && t.cpl.master) = true ∧
    gives (.hello { xM (pHello 0) with src := 0x100 }) (sMg true .none) (fun t => t.cpl.mstate == .standby && !t.cpl.master) = true := by decide +kernel
theorem test_join : gives (.join (xJ (List.replicate 64 2))) sJ (fun t => t.cpl.members == []) = true ∧
    (evAfter (.join (xJ (List.replicate 64 2))) sJ).map (·.1) = some 0x0507 := by decide +kernel
/-- Without a signature that verifies an ADMIT is only counted. -/
theorem test_admit : gives (.admitFrame { xAd 6 0 with payload := List.replicate 236 0 }) sJo (fun t => t.cpl.wstate == .joining && t.cpl.bad[1] == 1) = true := by
  decide +kernel

theorem leNat_leBytes (n x : Nat) : leNat (leBytes n x) = x % 256 ^ n := by
  induction n generalizing x with
  | zero => simp [leBytes, leNat, Nat.mod_one]
  | succ n ih => rw [pow_succ', Nat.mod_mul]; simp [leBytes, leNat, ih]

theorem length_leBytes (n x : Nat) : (leBytes n x).length = n := by
  induction n generalizing x with
  | zero => rfl
  | succ n ih => simp [leBytes, ih]

/-- A JOIN that is admitted (14 R478): the identity is listed, and profile, firmware and epoch agree. -/
theorem witness_judge : (sJ.judge (xJ (List.replicate 64 1))).2 = 0 := by
  have h0 : (xJ (List.replicate 64 1)).ok = true := rfl
  have hs : ((pJoin (List.replicate 64 1)).drop 72).take 64 = List.replicate 64 1 := by
    simp only [pJoin, List.drop_append, length_leBytes, List.length_append]
    simp [List.drop_eq_nil_of_le, length_leBytes]
  have h1 : payNat (pJoin (List.replicate 64 1)) 0 32 = 7 := by
    simp only [payNat, pJoin, List.drop_zero, List.append_assoc]
    rw [List.take_left' (length_leBytes 32 7), leNat_leBytes]; norm_num
  have h2 : BitVec.ofNat 256 (payNat (pJoin (List.replicate 64 1)) 32 32) = sW5.fwDigest := by
    simp only [payNat, pJoin, List.append_assoc]
    rw [List.drop_left' (length_leBytes 32 7), List.take_left' (length_leBytes 32 _), leNat_leBytes,
      Nat.mod_eq_of_lt (by have := sW5.fwDigest.isLt; norm_num at this ⊢; exact this), BitVec.ofNat_toNat, BitVec.setWidth_eq]
  have h3 : payNat (pJoin (List.replicate 64 1)) 64 4 = 0 := by
    simp only [payNat, pJoin, List.drop_append, length_leBytes, List.length_append, List.take_append]
    simp [List.drop_eq_nil_of_le, length_leBytes]
    rfl
  have h4 : sJ.fwDigest = sW5.fwDigest := rfl
  have h5 : sJ.cpl.sect.members = [{ id := sm3 (List.replicate 64 1), profile := 7, member := 6, spare := false, backs := 0 }] := rfl
  have h6 : sJ.cpl.members = [] := rfl
  have h7 : sJ.cpl.epoch = 0 := rfl
  simp only [State.judge, xJ, hs, h1, h2, h3, h4, h5, h6, h7]
  simp

/-- An acting manager's frames to a worker that follows it: its slot 1 holds a worker profile of epoch 0. -/
def sAc : State := { sW5 with mdie := State.reset.mdie, prf := { sW5.prf with slots := sW5.prf.slots.set 1 { fault := 0, role := 1 } } }
/-- MEMBERSHIP with one entry of member 9. -/
def pMem (action : Nat) : List Byte := pCtrl 4 1 77 (leBytes 1 9 ++ leBytes 1 action ++ leBytes 2 0 ++ leBytes 32 5)

theorem witness_ctrl : (InTurn sAc (xM (pCtrl 1 0 20 [])) 8 ∧ InTurn sNo (xM (pCtrl 5 0x100 6 (leBytes 4 4))) 8 ∧
      InTurn (sMg false .solo) (xP (pCtrl 3 0x101 6 [])) 8) ∧
    (sAc.fromManager (xM []) = true ∧ sAc.slotOfEpoch 0 = some 1 ∧ sAc.prf.chg = .none ∧ sAc.startDiffers (profHdr (sAc.slotImg 1)) = false ∧
      16 ≤ (pCtrl 1 0 20 []).length ∧ payNat (pCtrl 1 0 20 []) 0 4 = 1 ∧ sAc.dev.role = 1) ∧
    (52 ≤ (pMem 1).length ∧ payNat (pMem 1) 4 2 = 1 ∧ payNat (pMem 1) 17 1 = 1 ∧ payNat (pMem 2) 17 1 = 2) ∧
    ((sMg false .solo).cpl.claims = true ∧ payNat (pCtrl 3 0x101 6 []) 4 2 = (sMg false .solo).peerNode ∧ (sMg false .solo).peerWins 6 = true ∧
      (sMg false .solo).peerWins 0 = false) :=
  ⟨⟨inTurn_of (by decide +kernel), inTurn_of (by decide +kernel), inTurn_of (by decide +kernel)⟩, by decide +kernel, by decide +kernel, by decide +kernel⟩

theorem test_ctrl_activate : gives (.ctrlActivate (xM (pCtrl 1 0 20 []))) sAc (fun t => t.cpl.pendSw == some (0, 20) && t.prf.chg == .verifying false &&
    t.prf.target == 1 && t.prf.atCycle == some 20) = true := by decide +kernel
theorem test_assume : gives (.assume (xM (pCtrl 2 9 20 []))) sAc (fun t => t.cpl.assume_ == some (9, 0, 20)) = true := by decide +kernel
theorem test_membership : gives (.membership (xM (pMem 1))) sAc (fun t => t.cpl.members == [(6, 0), (9, 5)]) = true ∧
    gives (.membership (xM (pMem 2))) sAc (fun t => t.cpl.pendOut == [(9, 77)]) = true := by decide +kernel
theorem test_fence : gives (.fence (xP (pCtrl 3 0x101 6 []))) (sMg false .solo) (fun t => t.cpl.mstate == .fenced && !t.cpl.master) = true := by decide +kernel
theorem test_active : gives (.active (xM (pCtrl 5 0x100 6 (leBytes 4 4)))) sNo (fun t => t.cpl.follows == some 0x100 && t.cpl.fseq == 6 &&
    t.cpl.epoch == 4) = true := by decide +kernel

/-- A mirror record of a new epoch, and the end of a snapshot. -/
def pMir (kind : Nat) (body : List Byte) : List Byte := mirrorRec 1 kind body

theorem witness_mirror : (InTurn (sMg false .standby) (xP (pMir 2 (leBytes 4 8))) 9 ∧ InTurn (sMg false .solo) (xP (leBytes 8 3) 1) 9) ∧
    mirRecs (pMir 2 (leBytes 4 8)) ((pMir 2 (leBytes 4 8)).length / 16 + 1) = some [{ mseq := 1, kind := 2, body := leBytes 4 8 }] ∧
    ((leBytes 4 8).length = mirLen 2 ∧ (1 : W64) = (sMg false .standby).cpl.mseq + 1) ∧ newer64 3 (sMg false .solo).cpl.macked = true ∧
    mirRecs (pMir 7 []) ((pMir 7 []).length / 16 + 1) = some [{ mseq := 1, kind := 7, body := [] }] ∧
    (((xP [] 3).src.toNat = (sMg false .solo).peerNode) ∧ (sMg false .solo).cpl.acting = true) ∧
    (InTurn (sMg false .solo) (xP (leBytes 16 6)) 10 ∧ InTurn (sMg true .claiming) { xP (leBytes 16 6) 1 with src := 0x100 } 10 ∧
      (sMg true .claiming).peerWins 6 = true ∧ (sMg false .solo).mgrPorts = [1]) :=
  ⟨⟨inTurn_of (by decide +kernel), inTurn_of (by decide +kernel)⟩, by decide +kernel, by decide +kernel, by decide +kernel, by decide +kernel,
    by decide +kernel, ⟨inTurn_of (by decide +kernel), inTurn_of (by decide +kernel), by decide +kernel, by decide +kernel⟩⟩

theorem test_mirror_records : gives (.mirrorRecords (xP (pMir 2 (leBytes 4 8)))) (sMg false .standby) (fun t => t.cpl.mseq == 1 && t.cpl.epoch == 8) = true := by
  decide +kernel
theorem test_mirror_ack : gives (.mirrorAck (xP (leBytes 8 3) 1)) { sMg false .solo with cpl := { (sMg false .solo).cpl with snapSent := true } }
    (fun t => t.cpl.macked == 3 && t.cpl.mstate == .active) = true := by decide +kernel
theorem test_snapshot_req : gives (.snapshotReq (xP [] 2)) (sMg false .solo) (fun t => t.cpl.snapSent && t.cpl.mstate == .solo) = true := by decide +kernel
theorem test_snapshot : gives (.snapshot (xP (pMir 7 []) 3)) { sMg false .fenced with cpl := { (sMg false .fenced).cpl with asked := true } }
    (fun t => t.cpl.mstate == .standby && t.cpl.mseq == 1 && !t.cpl.asked && t.cpl.members == []) = true := by decide +kernel
/-- BasinFrames: a record of no KIND in a snapshot (14 R468), which is asked for again. -/
theorem witness_snapshot : (∀ k ∈ [7, 9], InTurn (sMg false .fenced) (xP (pMir k []) 3) 9 ∧
      mirRecs (pMir k []) ((pMir k []).length / 16 + 1) = some [{ mseq := 1, kind := k, body := [] }]) ∧ mirLen 7 = 0 := by
  refine ⟨?_, by decide +kernel⟩
  simp only [List.mem_cons, List.not_mem_nil, or_false]
  rintro _ (rfl | rfl) <;> exact ⟨inTurn_of (by decide +kernel), by decide +kernel⟩
theorem test_snapshot_bad : gives (.snapshot (xP (pMir 9 []) 3)) { sMg false .fenced with cpl := { (sMg false .fenced).cpl with asked := true } }
    (fun t => t.cpl.mstate == .fenced && t.cpl.asked && t.cpl.bad[1] == 1 && t.cpl.snap == []) = true := by decide +kernel
theorem test_claim : gives (.claim (xP (leBytes 8 6 ++ leBytes 8 0))) (sMg false .solo) (fun t => t.cpl.mstate == .fenced) = true ∧
    gives (.claim (xP (leBytes 16 0))) (sMg false .solo) (fun t => t.cpl.mstate == .solo &&
      (lastSent t 1 0x101).map (fun y => (y.1, y.2.1)) == some (10, 1)) = true := by decide +kernel
theorem test_refuse : gives (.refuse { xP (leBytes 8 6 ++ leBytes 8 0) 1 with src := 0x100 }) (sMg true .claiming) (fun t => t.cpl.mstate == .standby) = true := by
  decide +kernel
theorem test_record : gives (.record { x6 (leBytes 8 5 ++ leBytes 4 6 ++ leBytes 2 0x0603 ++ leBytes 50 0) 1 with port := 1 }) (sMg false .solo)
    (fun t => (t.mgt.recs.map fun (e : ErrRec) => (e.ts, e.seq, e.event)) == [(5, 6, 0x0603)]) = true := by decide +kernel

/-- A manager whose member 6 has a spare, 9. -/
def sSp : State :=
  { sMg false .solo with cpl := { (sMg false .solo).cpl with
      members := [(6, 0), (9, 0)], sect := { sW5.cpl.sect with members := [{ id := 0, profile := 0, member := 9, spare := true, backs := 6 }] } } }
def pSt (st : Nat) : List Byte := leBytes 6 0 ++ leBytes 1 st ++ leBytes 9 0

theorem witness_status : InTurn sSp (x6 (pSt 3)) 12 ∧ sSp.isMember 0x106 = true ∧ payNat (pSt 3) 6 1 = 3 ∧ (sSp.spareFor 6).map (·.member) = some 9 ∧
    (sMg false .solo).spareFor 6 = none :=
  ⟨inTurn_of (by decide +kernel), by decide +kernel⟩

theorem test_status : gives (.status (x6 (pSt 3))) sSp (fun t => t.cpl.views == [(6, pSt 3)] && (t.cpl.pendRel.map fun q => (q.1, q.2.1)) == [(6, 9)]) = true ∧
    gives (.status (x6 (pSt 1))) sSp (fun t => t.cpl.pendRel == []) = true := by decide +kernel

/-! ### Link keys -/

/-- A KEYX frame of a step and key number 4 with a STATIC key. -/
def xK (step : Nat) (static : List Byte) : RxFrame :=
  { port := 2, src := 0x106, keyid := 0, payload := leBytes 1 step ++ leBytes 1 4 ++ leBytes 2 0 ++ static ++ leBytes 96 0 }
/-- Member 6 has that identity; an exchange under number 4 is under way where `k`, offered by this device or not. -/
def sK (k : Option Bool) : State :=
  { sW5 with cpl := { sW5.cpl with members := [(6, sm3 (List.replicate 64 1))]
                                   kex := match k with | some o => [{ node := 0x106, keyid := 4, offered := o, draw := 0 }] | none => [] } }

/-- LinkKeys. -/
theorem witness_keys : (∀ k ∈ [none, some true, some false], ∀ step ∈ [1, 2, 3], InTurn (sK k) (xK step (List.replicate 64 1)) 13) ∧
    ((xK 1 (List.replicate 64 1)).payload.length = 164 ∧ payNat (xK 1 (List.replicate 64 1)).payload 0 1 = 1 ∧
      payNat (xK 1 (List.replicate 64 1)).payload 1 1 = 4 ∧ (sK none).sec.idOk = true ∧ (sK none).sec.rngOk = true) ∧
    ((sK none).staticOk (xK 1 []) (List.replicate 64 1) = true ∧ (sK none).staticOk (xK 1 []) (List.replicate 64 2) = false) ∧
    ((sK none).cpl.key 0x106 = some { node := 0x106, keyid := 3 } ∧ (sK none).cpl.node.toNat < (0x106 : BitVec 15).toNat) ∧
    ((∃ q ∈ (sK (some true)).cpl.kex, q.node = 0x106 ∧ q.keyid = 4 ∧ q.offered = true) ∧
      ∃ q ∈ (sK (some false)).cpl.kex, q.node = 0x106 ∧ q.keyid = 4 ∧ q.offered = false) := by
  refine ⟨?_, by decide +kernel, by decide +kernel, by decide +kernel, by decide +kernel⟩
  intro k hk step hs
  simp only [List.mem_cons, List.not_mem_nil, or_false] at hk hs
  obtain rfl | rfl | rfl := hk <;> obtain rfl | rfl | rfl := hs <;> exact inTurn_of (by decide +kernel)

theorem test_offer : gives (.offer (xK 1 (List.replicate 64 1))) (sK none) (fun t => (t.cpl.kex.map fun (q : Kex) => (q.node, q.keyid, q.offered)) == [(0x106, 4, false)]) = true ∧
    (evAfter (.offer (xK 1 (List.replicate 64 2))) (sK none)).map (·.1) = some 0x060A := by decide +kernel
theorem test_answer : gives (.answer (xK 2 (List.replicate 64 1))) (sK (some true)) (fun t =>
    ((t.cpl.key 0x106).map fun (k : LinkKey) => (k.keyid, k.prev)) == some (4, some 3) && t.cpl.kex == []) = true := by decide +kernel
theorem test_confirm : gives (.confirm (xK 3 (List.replicate 64 1))) (sK (some false)) (fun t => ((t.cpl.key 0x106).map (·.keyid)) == some 4) = true ∧
    gives (.confirm (xK 3 (List.replicate 64 1))) (sK (some true)) (fun t => ((t.cpl.key 0x106).map (·.keyid)) == some 3) = true := by decide +kernel
theorem test_rekey : gives (.rekeyTimer 0x106 false) (sK none) (fun t => t.sec.rekey == 1 && (t.cpl.kex.map (·.keyid)) == [4]) = true ∧
    gives (.rekeyTimer 0x100 false) (sK none) (fun t => t.sec.rekey == 0) = true ∧
    gives (.rekeyTimer 0x106 true) (sK none) (fun t => ((t.cpl.key 0x106).map (·.dead)) == some true) = true := by decide +kernel
theorem test_keyx_retry : gives (.keyxRetry 0x106) (sK (some true)) (fun t => t.sec.draws == 1 && (t.cpl.kex.map (·.keyid)) == [4]) = true := by decide +kernel
theorem test_old_key : gives (.oldKeyExpire 0x106) { sW5 with cpl := { sW5.cpl with keys := [{ node := 0x106, keyid := 4, prev := some 3 }] } }
    (fun t => t.cpl.keys == [{ node := 0x106, keyid := 4 }]) = true := by decide +kernel

/-! ### Basin time -/

/-- The worker at TIME 1,000,000 with a place in its basin and a count of Syncs in a row within 200 ns; the master of a basin. -/
def sTm (m : MemSt) (k : Byte) (set : Bool) : State := { sW5 with cpl := { sW5.cpl with wstate := m, insync := k, timeSet := set, follows := none } }
def sMs : State := { sMg false .solo with cpl := { (sMg false .solo).cpl with master := true } }

/-- BasinTime: each band of the offset TIME − T1. -/
theorem witness_time : (sTm .unsync 0 false).dev.held = false ∧ ((sTm .unsync 0 false).cpl.node ≠ 0x7FFF ∧ (sTm .unsync 0 false).cpl.master = false ∧
      (sTm .unsync 0 false).dev.role = 1 ∧ (sTm .member 0 true).time.toNat = 1000000 ∧ (sTm .member 0 true).cpl.delay = 0) ∧
    (3 ≤ (sTm .unsync 3 true).cpl.insync.toNat ∧ (sTm .unsync 2 true).cpl.insync.toNat < 3) ∧
    ((-200 : Int) ≤ 1000000 - 999800 - 0 ∧ (1000000 : Int) - 999800 - 0 ≤ 200 ∧ (2000 : Int) < 1000000 - 997999 - 0 ∧
      (1000000 : Int) - 997999 - 0 ≤ 1000000 ∧ (1000000 : Int) < 2100000 - 1000000 - 0) ∧
    ((List.range 8).filter sMs.portUp = [0, 1, 2, 3, 4, 5, 6, 7] ∧ sMs.cpl.master = true ∧ sMs.dev.held = false ∧ sMs.cpl.node ≠ 0x7FFF) := by
  decide +kernel

/-- A 1588 message of manager 0 on port 1. -/
def pm (t : W64) : PtpMsg := { port := 1, src := 0x100, time := t }

/-- BasinTime: the messages are heard, and one of another domain is not. -/
theorem witness_hears : (∀ m ∈ [MemSt.unsync, .member], ∀ b, HearsTime (sTm m 0 b) (pm 999800)) ∧ (sTm .member 0 true).slave = true ∧
    sMs.ptpTaken { pm 0 with src := 0x106 } = true ∧ (sTm .member 0 true).ptpTaken { pm 0 with domain := 1 } = false := by
  refine ⟨?_, by decide +kernel, by decide +kernel, by decide +kernel⟩
  intro m hm b
  simp only [List.mem_cons, List.not_mem_nil, or_false] at hm
  obtain rfl | rfl := hm <;> cases b <;> exact hearsTime_of (by decide +kernel)

theorem test_sync_first : gives (.sync (pm 5000000)) (sTm .unsync 0 false) (fun t => t.time == 5000000 && t.cpl.timeSet && t.cpl.offset == 0) = true := by decide +kernel
theorem test_sync : gives (.sync (pm 999800)) (sTm .member 7 true) (fun t => t.cpl.offset == 200 && t.cpl.insync == 8 && t.cpl.wstate == .member) = true ∧
    gives (.sync (pm 999799)) (sTm .member 7 true) (fun t => t.cpl.insync == 0 && t.cpl.wstate == .member) = true ∧
    gives (.sync (pm 1000200)) (sTm .unsync 3 true) (fun t => t.cpl.wstate == .member && t.cpl.offset == 0xFFFFFF38) = true ∧
    gives (.sync (pm 997999)) (sTm .member 7 true) (fun t => t.cpl.wstate == .unsync && t.cpl.unsync == 1) = true := by decide +kernel
theorem test_sync_gone : gives (.sync (pm 2000001)) (sTm .member 7 true) (fun t => t.cpl.wstate == .detached && t.cpl.node == 0x7FFF) = true := by decide +kernel
theorem test_sync_loss : gives .syncLoss (sTm .member 7 true) (fun t => t.cpl.wstate == .unsync && t.cpl.insync == 0) = true := by decide +kernel
theorem test_sync_send : gives .syncSend sMs (fun t => t.out.length == 16 && t.out.head? == some (.ptp 0 0 0 1000000)) = true ∧
    gives (.delayReq { pm 0 with port := 3, src := 0x106 }) sMs (fun t => t.out == [.ptp 3 0 2 1000000]) = true := by decide +kernel
/-- t1 = 100, t2 = 160, t3 = 200, t4 = 240: (60 + 40) / 2 (14 R482). -/
theorem test_delay : gives .delayReqSend (sTm .member 7 true) (fun t => t.cpl.dreq == some 1000000 && t.out == [.ptp 0 0 1 1000000]) = true ∧
    gives (.delayResp (pm 240)) { sTm .member 7 true with cpl := { (sTm .member 7 true).cpl with dreq := some 200, lastSync := some (100, 160) } }
      (fun t => t.cpl.delay == 50 && t.cpl.dreq == none) = true := by decide +kernel

/-! ### Timers and commands of a basin -/

/-- The port owns semaphore 6. -/
def own6 (s : State) : State := { s with sem := s.sem.set 6 { owner := 1 } }
/-- A manager whose slot 1 holds a manager profile. -/
def sBs : State := own6 { sSp with prf := { sSp.prf with slots := sSp.prf.slots.set 1 { fault := 0, role := 2 } } }

/-- BasinTimersAndCommands. -/
theorem witness_timers : (sMs.dev.held = false ∧ 2 ≤ sMs.dev.role.toNat ∧ sMs.frameStops sMs.peerNode 6 = false ∧ sMs.mgrPorts = [1]) ∧
    (sW5.cpl.follows = some 0x100 ∧ sW5.cpl.fwd = [] ∧ sW5.mgrPorts = [1]) ∧ (sJo.cpl.wstate = .joining ∧ sJo.mgrPorts = [1]) ∧
    (sSp.cpl.acting = true ∧ sSp.cpl.hasMember 6 = true) ∧
    (∀ m ∈ [MState.standby, .claiming, .active, .none, .fenced], (sMg true m).cpl.mstate = m ∧ (sMg true m).cpl.asked = false) ∧
    (({ sF with dev := { sF.dev with role := 1 }, cpl := { sF.cpl with left := true } }).cpl.wstate = .detached ∧ sF.lkp.inForce = true) ∧
    (OpenPort sBs .host ∧ sBs.holds .host 6 = true ∧ ((sBs.prf.slots[1]?).getD ({} : PSlot)).valid = true ∧ ((sBs.prf.slots[1]?).getD ({} : PSlot)).role = 2 ∧
      (sBs.spareFor 6).map (·.member) = some 9 ∧ sBs.spareFor 9 = none) ∧
    (OpenPort (own6 sW5) .host ∧ (own6 sW5).holds .host 6 = true ∧ (own6 sW5).cpl.acting = false) :=
  ⟨by decide +kernel, by decide +kernel, by decide +kernel, by decide +kernel, by decide +kernel, by decide +kernel,
    ⟨openPort_of (by decide +kernel), by decide +kernel, by decide +kernel, by decide +kernel, by decide +kernel, by decide +kernel⟩,
    openPort_of (by decide +kernel), by decide +kernel, by decide +kernel⟩

theorem test_hello_send : gives (.helloSend false) sMs (fun t => t.out.length == 1) = true := by decide +kernel
theorem test_status_send : gives .statusSend sW5 (fun t => (lastSent t 1 0x100).map (fun y => (y.1, y.2.2.length)) == some (12, 16)) = true := by decide +kernel
theorem test_lost : (evAfter (.cplMemberLost 6) sSp).map (·.1) = some 0x050F ∧ (evAfter .cplMgrLost sW5).map (·.1) = some 0x050E ∧
    gives .cplMgrLost sW5 (fun t => t.cpl.follows == none) = true := by decide +kernel
theorem test_timeouts : gives .standbyTimeout (sMg true .standby) (fun t => t.cpl.mstate == .claiming) = true ∧
    gives .claimTimeout (sMg true .claiming) (fun t => t.cpl.mstate == .solo && t.cpl.failover == 1 && t.cpl.master) = true ∧
    gives .standbyAckTimeout (sMg true .active) (fun t => t.cpl.mstate == .solo) = true ∧
    gives .peerHelloTimeout (sMg true .none) (fun t => t.cpl.mstate == .solo) = true ∧
    gives .fencedTimeout (sMg true .fenced) (fun t => t.cpl.asked) = true := by decide +kernel
theorem test_basin_switch : gives (.basinSwitch .host 1 600) sBs (fun t => t.cpl.resState == 1 && t.cpl.pendSw == some (0, BitVec.ofNat 64 (sBs.cycleAfter 600))) = true ∧
    gives (.basinSwitch .host 1 600) (own6 sW5) (fun t => t.cpl.resState == 3 && t.cpl.resCode == 0x0A0E) = true := by decide +kernel
theorem test_leave : gives (.leave .host) (own6 sW5) (fun t => t.cpl.node == 0x7FFF && t.cpl.resState == 2) = true ∧
    gives (.leave .host) sBs (fun t => t.cpl.resState == 3) = true := by decide +kernel
theorem test_relieve : gives (.relieve .host 6) sBs (fun t => t.cpl.resState == 1 && (t.cpl.pendRel.map fun q => (q.1, q.2.1)) == [(6, 9)]) = true ∧
    gives (.relieve .host 9) sBs (fun t => t.cpl.resState == 3) = true := by decide +kernel
theorem test_join_cmd : gives (.cplJoinCmd .host) (own6 sW5) (fun t => t.cpl.resState == 3 && t.cpl.wstate == .member) = true := by decide +kernel

/-! ### Security and test -/

/-- Sessions as in `sE`; semaphore 7 belongs to the host; a report is being made where `att`. -/
def sSc (m att : Bool) : State :=
  { sE m with sem := s0.sem.set 7 { owner := 1 }, tap := { reset := false }
              sec := { (sE m).sec with maint := m, att := if att then some { buf := 0x40000000, port := .host, nonce := [], ctx := 0 } else none } }

/-- SecurityAndTest. -/
theorem witness_security : (OpenPort (sSc true false) .host ∧ OpenPort (sSc false false) (.mgmt 1) ∧ OpenPort (sSc true false) (.mgmt 1)) ∧
    (((sSc false false).mgt.sess[1].map (·.maint)) = some false ∧ ((sSc true false).mgt.sess[1].map (·.maint)) = some true ∧
      (sSc true false).sec.maint = true ∧ (sSc true false).sec.debug = false) ∧
    ((sSc true true).holds .host 7 = true ∧ (sSc true true).sec.att ≠ none ∧ (sSc true false).sec.att = none ∧ (sSc true false).sec.idOk = true ∧
      (sSc true false).sec.rngOk = true ∧ (sSc true false).inDram 0x40000000 328080 = true ∧ (sSc true false).inDram 0x100000000 328080 = false) ∧
    AllKeyed (sSc true false) ∧ ((sSc true false).tap.reset = false ∧ s0.tap.reset = true) ∧
    ({ sSc true false with sec := { (sSc true false).sec with debug := true } }).sec.debug = true :=
  ⟨⟨openPort_of (by decide +kernel), openPort_of (by decide +kernel), openPort_of (by decide +kernel)⟩, by decide +kernel, by decide +kernel,
    allKeyed_of (by decide +kernel), by decide +kernel, by decide +kernel⟩

theorem test_maint : gives (.maintMode (.mgmt 1) false) (sSc true false) (fun t => !t.sec.maint) = true ∧
    gives (.maintMode .host false) (sSc true false) (fun t => t.sec.maint && t.sec.denied == 1) = true ∧
    gives (.maintMode (.mgmt 1) true) (sSc false false) (fun t => !t.sec.maint && t.sec.denied == 1) = true := by decide +kernel
theorem test_debug : gives (.debugEnter (.mgmt 1)) (withMem (sSc true false) 0xF800000000 [1]) (fun t => t.sec.debug && t.sec.masters == 2 && t.mem == [] &&
    t.mgt.sess[1] == none) = true ∧ (evAfter (.debugEnter (.mgmt 1)) (sSc true false)).map (·.1) = some 0x0608 := by decide +kernel
theorem test_att_cmd : gives (.secAttCmd .host 0x1000000 true) (sSc true false) (fun t => (t.sec.att.map (·.buf)) == some 0x40000000) = true ∧
    gives (.secAttCmd .host 0x4000000 true) (sSc true false) (fun t => t.sec.att == none && t.sec.attErr && t.sec.attCode == 0x030D) = true ∧
    gives (.secAttCmd .host 5 false) (sSc true false) (fun t => t.sec.attBuf == 5) = true := by decide +kernel
/-- SecurityAndTest: entry into debug state with nothing else to record, and a device without identity (15 R503, R505). -/
theorem witness_debug : (sSc true false).demand ≤ (sSc true false).dev.shed.toNat ∧ (sSc true false).pwr.descend = false ∧
    (sSc true false).prf.atCycle = none ∧ (sSc true false).ctx.queue = [] ∧ (sSc true false).ctx.ctxs = [] ∧
    ({ sSc true false with sec := { (sSc true false).sec with idOk := false } }).sec.att = none := by decide +kernel
theorem test_att_stop : gives (.secAttCmd .host 0x1000000 true) { sSc true false with sec := { (sSc true false).sec with idOk := false } }
    (fun t => t.sec.att == none && t.sec.attErr && t.sec.attCode == 0x0601) = true := by decide +kernel
theorem test_rng : gives .secRngFail s0 (fun t => !t.sec.rngOk) = true := by decide +kernel
theorem test_tap : gives (.tapInstruction .idcode) (sSc true false) (fun t => t.out == [.tdo 32 0x1FD0256F]) = true ∧
    gives (.tapInstruction .priv) (sSc true false) (fun t => t.tap.ir == .bypass && t.out == [.tdo 1 0]) = true ∧
    gives (.trstN true) (sSc true false) (fun t => t.tap.reset) = true := by decide +kernel
theorem test_tap_private : exec (.tapInstruction .priv) { sSc true false with sec := { (sSc true false).sec with debug := true } } = .refused .privateInstruction := rfl

/-! ### Reliability -/

/-- Reach 2 has a sampled tile in a phase, with signatures 7 of the primary, 8 of the checker and `third` of the referee. -/
def sDu (ph : DupPhase) (third : W64) : State :=
  s0.modReach 2 fun x => { x with dups := [{ phase := ph, primary := 7, second := 8, third, checker := 6, suspect := 6, job := 5 }] }
/-- Reach 2 runs a test slot, and its last kernel is to be repeated with the lanes where `retry`. -/
def sTs (retry : Bool) (lanes : BitVec 256) : State :=
  s0.modReach 2 fun x => { x with
    u := { slot := some { slot := { job := 0xFFFF, kind := 4, every := 0, phase := 0, reach := 4, nmu := 0, start := 0, len := 400 }, endT := 2000000 } }
    test := { next := 23, retry, lanes } }
/-- Channel 3 of M-die 1 copies row 9 of bank 2; module 0 of that die is up. -/
def sCh : State := s0.modMdie 1 fun m => { m with d2d0 := 2, d2d1 := 2, chans := m.chans.set 3 { usable := true, copying := [2 ^ 33 + 9] } }

/-- FaultsAreDecided. -/
theorem witness_faults : (∀ ph ∈ [DupPhase.checking, .referee, .suspect, .refOffered, .offered], ((sDu ph 8).reach[2].dups[(0 : Byte).toNat]?).map (·.phase) = some ph) ∧
    ((sTs false 0).testing 2 = true ∧ (sTs false 0).reach[2].test.retry = false ∧ (sTs true 6).testing 2 = true ∧ (sTs true 6).reach[2].test.retry = true ∧
      (sTs true 6).reach[2].test.lanes = 6 ∧ (sTs true 6).reach[2].test.outside = false) ∧
    (sF.dev.held = false ∧ sF.prf.ready = true ∧ sF.lkp.inForce = true ∧ sF.inService 2 = true) ∧
    (sCh.dev.held = false ∧ sCh.addrOk (64 * (0x1000000 : BitVec 34).toNat) 64 = true ∧ sCh.poison.contains (0x1000000 : BitVec 34).toNat = false) ∧ AllKeyed sCh ∧
    (2 ^ 32 * (2 : BitVec 4).toNat + (9 : W32).toNat ∈ sCh.mdie[1].chans[3].copying ∧ sCh.mdie[1].d2d0 ≠ 0 ∧ sCh.mdie[1].d2d1 ≠ 0 ∧ sCh.prf.ready = true) :=
  ⟨by decide +kernel, by decide +kernel, by decide +kernel, by decide +kernel, allKeyed_of (by decide +kernel), by decide +kernel⟩

/-- How many decisions a reach has left, RAS counters for tiles, mismatches and transients, and whether the device is flagged. -/
def after (i : Instr) (s : State) : Nat × Nat × Nat × Nat × Bool :=
  match exec i s with
  | .next t => (t.reach[2].dups.length, t.ras.dupTiles.count.toNat, t.ras.mismatch.toNat, t.ras.transient.toNat, t.dev.flagged)
  | _ => (9, 9, 9, 9, true)

theorem test_dup_check : after (.dupCheckResult 2 0 7) (sDu .checking 0) = (0, 1, 0, 0, false) ∧
    after (.dupCheckResult 2 0 8) (sDu .checking 0) = (1, 0, 1, 0, false) := by decide +kernel
theorem test_dup_referee : gives (.dupRefereeResult 2 0 8) (sDu .referee 0) (fun t => (t.reach[2].dups.map fun (d : Dup) => (d.phase, d.suspect)) == [(.suspect, 2)]) = true ∧
    gives (.dupRefereeResult 2 0 7) (sDu .referee 0) (fun t => (t.reach[2].dups.map fun (d : Dup) => (d.phase, d.suspect)) == [(.suspect, 6)]) = true ∧
    after (.dupRefereeResult 2 0 9) (sDu .referee 0) = (0, 1, 0, 0, true) := by decide +kernel
theorem test_dup_suspect : after (.dupSuspectResult 2 0 8) (sDu .suspect 8) = (0, 1, 0, 1, false) ∧
    after (.dupSuspectResult 2 0 9) (sDu .suspect 8) = (0, 1, 0, 0, true) := by decide +kernel
theorem test_dup_timeouts : after (.dupAbandon 2 0) (sDu .offered 0) = (0, 0, 0, 0, false) ∧ after (.dupNoTaker 2 0) (sDu .refOffered 0) = (0, 1, 0, 0, true) := by
  decide +kernel
/-- The 24th kernel completes a pass; a mismatch repeats it; the same lanes again are bypassed (16 R552). -/
theorem test_kernel : gives (.testKernelDone 2 0 false) (sTs false 0) (fun t => t.reach[2].test.passes == 1 && t.reach[2].test.next == 0) = true ∧
    gives (.testKernelDone 2 6 false) (sTs false 0) (fun t => t.reach[2].test.retry && t.reach[2].test.lanes == 6 && t.ras.fail == 1) = true ∧
    gives (.testKernelDone 2 6 false) (sTs true 6) (fun t => t.reach[2].test.newBypass == 6 && !t.dev.flagged) = true ∧
    gives (.testKernelDone 2 0 true) (sTs true 6) (fun t => t.dev.flagged) = true := by decide +kernel
/-- FaultsAreDecided: kernels for which the slot has time left, and for which it has none; a kernel that does not fit waits. -/
theorem witness_kernel_fits : (sTs false 0).kernelFits 2 = true ∧ (sTs true 6).kernelFits 2 = true ∧
    ((sTs false 0).modReach 2 fun x => { x with test := { x.test with used := 400000 } }).kernelFits 2 = false := by decide +kernel
theorem test_kernel_waits : let s := (sTs false 0).modReach 2 fun x => { x with test := { x.test with used := 400000 } }
    gives (.testKernelDone 2 0 false) s (· == s) = true := by decide +kernel
theorem test_late : gives (.rasTestLate 2) sF (fun t => t.ras.late == 1 && t.reach[2].test.late) = true := by decide +kernel
theorem test_scrub : gives (.patrolScrub 0x1000000 1 1 [] false 0 0) s0 (fun t => (t.mdie.toList.map fun m => m.ce.toNat) == [1, 0, 0, 0]) = true ∧
    gives (.patrolScrub 0x1000000 2 1 (List.replicate 64 7) false 0 0) s0 (fun t => t.poison == [0x1000000] && t.read 0x4000003F 2 == [7, 0]) = true := by
  decide +kernel
/-- An error of the lockkeeper's own stores is counted at the M-die of the lowest number (11 R383). -/
theorem test_scrub_own : gives (.patrolScrub 0 1 2 [] false 0 0) s0 (fun t => (t.mdie.toList.map fun m => m.ce.toNat) == [1, 0, 0, 0] && t.poison == []) = true ∧
    (evAfter (.patrolScrub 0 2 2 [] false 0 0) s0).map (·.1) = some 0x0302 := by decide +kernel
/-- A line of the row that could not be read is poisoned. -/
theorem test_row_copy_bad : gives (.rowCopyDone 11 2 9 [(0x1000000, List.replicate 64 7)]) sCh
    (fun t => t.mdie[1].chans[3].copying == [] && t.poison == [0x1000000]) = true := by decide +kernel
theorem test_row_copy : gives (.rowCopyDone 11 2 9 []) sCh (fun t => t.mdie[1].chans[3].copying == []) = true := by decide +kernel
theorem test_d2d : gives (.d2dModuleDown 1 0 [0x1000000]) sCh (fun t => t.mdie[1].d2d0 == 0 && t.mdie[1].d2d1 == 2 && t.dev.flagged &&
      t.poison == [0x1000000]) = true ∧ gives (.memD2dRetry 1) sCh (fun t => t.mdie[1].retry == 1) = true := by decide +kernel

/-! ### Power and time -/

/-- A schedule is in force, rail 0 is polled, and semaphore 9 belongs to the host. -/
def sPw (shed : BitVec 3) : State :=
  { sF with dev := { sF.dev with shed }, sem := s0.sem.set 9 { owner := 1 }
            pwr := { sF.pwr with sect := { sF.pwr.sect with present := true, rails := [(0x40, 0)] } } }
/-- At S2, where the lockkeeper commands no voltage; VDD_ARITH has been raised for a setting. -/
def sRi (r : Option (BitVec 2)) : State := { sF with dev := { sF.dev with shed := 2 }, pwr := { sF.pwr with rising := r } }
/-- What one rail answers. -/
def q1 (st : W16) : RailRead := { vout := 850, iout := 100, status := some st }

/-- PowerAndClocks. -/
theorem witness_power : ((sPw 0).dev.held = false ∧ (sPw 0).lkp.inForce = true ∧ (sPw 0).pollRails ≠ [] ∧ (sPw 0).pwr.polled (0 : Fin 9) = true ∧
      (sPw 0).pwr.polled (1 : Fin 9) = false) ∧ ((sPw 0).pwr.warn = false ∧ (sPw 0).pwr.crit = false ∧ (sPw 0).prf.ready = true) ∧
    ((sRi none).dev.shed ≠ 0 ∧ (sRi none).dev.shed ≠ 7 ∧ (sRi none).demand < (sRi none).dev.shed.toNat ∧ (sRi none).pwr.descend = false ∧
      (sRi none).pwr.rising = none ∧ (sRi none).pwr.commands = false) ∧
    ((sRi (some ((sRi none).levelArith 2))).pwr.rising = some ((sRi none).levelArith 2) ∧ (3 : BitVec 2) ≠ (sRi none).levelArith 2) ∧
    (s0.pwr.clk.getLsbD 3 = false ∧ ({ s0.pwr with clk := 1 } : Pwr).clk.getLsbD 0 = true) ∧
    (s0.ppsDisciplines = true ∧ s0.time.toNat % 1000000000 = 1000000 ∧ (1000001 : Int) > 1000000) ∧
    (OpenPort (sPw 0) .host ∧ (sPw 0).holds .host 9 = true ∧
      ({ s0 with sem := s0.sem.set 9 { owner := 1 } }).dev.shed.toNat < ({ s0 with pwr := { s0.pwr with floor := 4 } }).demand) :=
  ⟨by decide +kernel, by decide +kernel, by decide +kernel, by decide +kernel, by decide +kernel, by decide +kernel,
    openPort_of (by decide +kernel), by decide +kernel, by decide +kernel⟩

/-- PowerAndClocks with no schedule in force, and at S2 where VDD_ARITH stands at the voltage of 200 MHz. -/
def sIdle (shed : BitVec 3) : State := { sPw shed with lkp := {} }
def sCm : State := { sPw 2 with pwr := { (sPw 2).pwr with vset := 3 } }
theorem witness_power_idle : (sIdle 0).lkp.inForce = false ∧ (sIdle 0).pollRails ≠ [] ∧ OpenPort (sIdle 0) .host ∧ (sIdle 0).holds .host 9 = true ∧
    ((sIdle 2).demand < 2 ∧ (sIdle 2).pwr.descend = false ∧ (sIdle 2).pwr.rising = none ∧ (sIdle 2).pwr.vset.toNat ≤ ((sIdle 2).levelArith 1).toNat) ∧
    (sCm.demand < sCm.dev.shed.toNat ∧ sCm.pwr.descend = false ∧ sCm.pwr.rising = none ∧ sCm.pwr.commands = true ∧ (sCm.levelArith 1).toNat < sCm.pwr.vset.toNat) :=
  ⟨by decide +kernel, by decide +kernel, openPort_of (by decide +kernel), by decide +kernel, by decide +kernel, by decide +kernel⟩

/-- With no schedule in force a demand acts at once, and so does a descent (10 R624). -/
theorem test_power_idle : gives (.pwrWarn true) (sIdle 0) (fun t => t.dev.shed == 3) = true ∧ gives .shedDescent (sIdle 2) (fun t => t.dev.shed == 1) = true := by
  decide +kernel
theorem test_descent_voltage : gives .shedDescent sCm (fun t => t.pwr.rising == some (sCm.levelArith 1) && t.out.length == 1 && t.dev.shed == 2) = true := by decide +kernel
theorem test_clk_links : gives (.clkLoss 0) { s0 with pci := { s0.pci with up := true, trained := true } } (fun t => !t.pci.up && !t.pci.trained && t.pwr.clk == 1) = true ∧
    gives (.clkLoss 1) { s0 with cpl := { s0.cpl with pcs := 4, sect := { s0.cpl.sect with ports := 4 } } } (fun t => !t.portUp 2 && t.pwr.clk == 2) = true := by
  decide +kernel
theorem test_poll : gives (.pmbusPoll (Vector.replicate 9 (some (q1 0x8000)))) (sPw 0) (fun t => t.pwr.rails[(0 : Fin 9)].vout == 850 &&
      t.pwr.rails[(0 : Fin 9)].valid && t.pwr.rails[(1 : Fin 9)] == {} && t.demand == 3) = true ∧
    gives (.pmbusPoll (Vector.replicate 9 none)) (sPw 0) (fun t => t.pwr.rails[(0 : Fin 9)].fails == 1 && t.pwr.pmbErr == 1) = true := by decide +kernel
theorem test_alert : (evAfter (.pmbAlert (Vector.replicate 9 (some 0x0020))) (sPw 0)).map (·.1) = some 0x0706 := by decide +kernel
theorem test_temp : gives (.tempSample ((Vector.replicate 24 40).set 5 103)) (sPw 0) (fun t => t.pwr.maxSensor == 5 && t.pwr.maxTemp == 103 && t.demand == 4) = true := by
  decide +kernel
theorem test_pins : gives (.pwrWarn true) (sPw 0) (fun t => t.demand == 3) = true ∧ gives (.pwrCrit true) (sPw 0) (fun t => t.demand == 5) = true ∧
    gives (.pwrCritHold false) { sPw 0 with pwr := { (sPw 0).pwr with crit := true } } (fun t => t.demand == 6) = true ∧
    gives (.pwrCritHold true) { sPw 0 with pwr := { (sPw 0).pwr with crit := true } } (fun t => t.demand == 7) = true := by decide +kernel
theorem test_droop : gives (.pwrDroop 1) (sPw 0) (fun t => t.pwr.droop && t.pwr.droopCnt == 1) = true ∧
    gives .droopDemandEnd { sPw 0 with pwr := { (sPw 0).pwr with droop := true } } (fun t => !t.pwr.droop) = true := by decide +kernel
theorem test_descent : gives .shedDescent (sRi none) (fun t => t.pwr.descend && t.dev.shed == 2) = true ∧
    gives (.vddArithSettle false) (sRi (some 0)) (fun t => t.pwr.rising == none && !t.pwr.descend) = true := by decide +kernel
theorem test_clk : gives (.clkLoss 3) (sPw 0) (fun t => t.pwr.clk == 8 && t.demand == 7) = true ∧
    gives (.clkReturn false) { s0 with pwr := { s0.pwr with clk := 1 } } (fun t => t.pwr.clk == 0) = true := by decide +kernel
theorem test_pps : gives .ppsIn s0 (fun t => t.pwr.ppsOffset == 1000000 && t.pwr.ppsGood == 0 && t.pwr.ppsPresent) = true ∧
    gives .ppsIn { s0 with time := 999999950 } (fun t => t.pwr.ppsOffset == 0xFFFFFFCE && t.pwr.ppsGood == 1) = true ∧
    (evAfter .ppsIn { s0 with time := 1000001 }).map (·.1) = some 0x070B := by decide +kernel
theorem test_floor : gives (.pwrFloorWrite .host 4) (sPw 0) (fun t => t.pwr.floor == 4 && t.dev.shed == 0) = true ∧
    gives (.pwrFloorWrite .host 4) { s0 with sem := s0.sem.set 9 { owner := 1 } } (fun t => t.dev.shed == 4) = true ∧
    gives (.pwrFloorWrite .host 6) { s0 with sem := s0.sem.set 9 { owner := 1 } } (fun t => t.pwr.floor == 0) = true := by decide +kernel

/-! ### Every step -/

/-- StepsKeepTheForm: a state with a byte in memory, one in the flash and a semaphore taken has the form, and it takes a step. -/
theorem witness_form : KeptForm { withMem s0 5 [7] with sem := s0.sem.set 3 { owner := 2 }, prf := { s0.prf with flash := [(9, 8)] } } :=
  ⟨by decide +kernel, by decide +kernel, by unfold SemsOwned; decide +kernel⟩

/-- Nothing keeps the reset state from a first step. -/
theorem test_reset_step : (match step State.reset with | .next _ => true | _ => false) = true := by decide +kernel

/-! ### Ill-formed commands -/

/-- Every check of `Instr.wellFormed` refuses a command. -/
theorem test_ill_formed : ∀ i ∈ [Instr.pciBadAccess 0 (.read 0), .pciBadAccess 0 (.read 4097), .pciBadAccess 0 (.write []), .msixUnmask (.write 2 [0, 0, 0, 0]),
    .msixUnmask (.write 0 [0]), .msixUnmask (.read 0 3), .pciLinkUp 3 1 true false, .pciLinkUp 4 0 true false, .pciLinkUp 4 6 true false, .coldStart {} (some [(2 ^ 29, 0)]), .bar2Read 0 0, .bar2Read 0 4097,
    .bar2Read 4095 2, .bar2Read (2 ^ 36) 1, .bar2Write 0 [] false, .bar2Write 0 (List.replicate 513 0) false, .bar2Write 4095 [0, 0] false, .bar2Resize 27,
    .bar2Resize 37, .icmpv6Echo (List.replicate 1233 0), .patrolScrub 0 2 1 [0] false 0 0,
    .rowCopyDone 0 0 0 [(0, [0])],  .data { port := 0, src := 0, payload := List.replicate 4105 0 },
    .rdata { port := 0, src := 0, payload := [0], marks := [1] }], i.wellFormed = false := by decide +kernel
/-- Their largest forms pass. -/
theorem test_well_formed : ∀ i ∈ [Instr.pciBadAccess 1 (.read 4096), .pciBadAccess 0 (.write [1]), .msixUnmask (.write 4 [0, 0, 0, 0]), .msixUnmask (.read 8 8),
    .pciLinkUp 4 5 true false, .empRead { payload := List.replicate 1193 0 }, .coldStart {} none, .bar2Read (2 ^ 36 - 4096) 4096, .bar2Write 3584 (List.replicate 512 0) true,
    .bar2Resize 28, .bar2Resize 36, .patrolScrub 0 1 1 [0] false 0 0, .data { port := 0, src := 0, payload := List.replicate 4104 0 }], i.wellFormed = true := by
  decide +kernel

end Sys2Proof.Tests
end

/-! PROOF. Frames that compose, and what dispatching, reading, occupying the vector unit and retiring do to a reach: laws that the proofs
about single instructions share. -/

namespace Sys2Proof.Machine.Frames

open Sys2Proof.Machine Sys2Proof.Machine.Laws

variable (s : State)

/-! ### Frames that compose -/

/-- No other unit, no part of the device and no byte of memory changes. -/
def Framed (s t : State) (r : Res) : Prop := OthersKept s t r ∧ DeviceKept s t ∧ MemoryKept s t

theorem Framed.trans {s t u : State} {r : Res} (h : Framed s t r) (g : Framed t u r) : Framed s u r := by
  obtain ⟨⟨hReach, hNmu⟩, hDev, hMem, hPoison, hKey⟩ := h
  obtain ⟨⟨gReach, gNmu⟩, gDev, gMem, gPoison, gKey⟩ := g
  refine ⟨⟨fun m hm => (gReach m hm).trans (hReach m hm), fun d hd => (gNmu d hd).trans (hNmu d hd)⟩, ?_,
    gMem.trans hMem, gPoison.trans hPoison, gKey.trans hKey⟩
  simp only [DeviceKept] at hDev gDev ⊢
  simp only [gDev, hDev, and_self]

theorem Framed.refl (r : Res) : Framed s s r :=
  ⟨⟨fun _ _ => rfl, fun _ _ => rfl⟩, by simp [DeviceKept], by simp [MemoryKept]⟩

theorem framed_modReach (n : Fin 16) (f : Reach → Reach) : Framed s (s.modReach n f) (.reach n) :=
  ⟨⟨fun _ hm => modReach_ne s (fun e => hm (congrArg Res.reach e.symm)) f, fun _ _ => rfl⟩,
    by simp [DeviceKept], by simp [MemoryKept]⟩

/-- What the lockkeeper keeps lies outside the frame. -/
theorem framed_lkp (r : Res) (l : Lkp) : Framed s { s with lkp := l } r :=
  ⟨⟨fun _ _ => rfl, fun _ _ => rfl⟩, by simp [DeviceKept], by simp [MemoryKept]⟩

theorem framed_modStep (r : Res) (j : Nat) (f : StepRun → StepRun) : Framed s (s.modStep j f) r := framed_lkp s r _

theorem framed_raise (r : Res) (e : Ev) : Framed s (s.raise e) r :=
  ⟨⟨fun _ _ => by rw [raise_reach], fun _ _ => by rw [raise_nmu]⟩, by simp [DeviceKept], by simp [MemoryKept]⟩

/-! ### Operations of a reach -/

/-- A change of a reach's unit is a change of the reach. -/
theorem modU_reach (n : Fin 16) (f : Machine.Unit → Machine.Unit) :
    s.modU (.reach n) f = s.modReach n fun x => { x with u := f x.u } := rfl

/-- Two changes of one reach are one change. -/
theorem modReach_modReach (n : Fin 16) (f g : Reach → Reach) : (s.modReach n f).modReach n g = s.modReach n fun x => g (f x) := by
  simp [State.modReach]

/-- A change that leaves a reach as it was changes nothing. -/
theorem modReach_eq_self {n : Fin 16} {f : Reach → Reach} (h : f s.reach[n] = s.reach[n]) : s.modReach n f = s := by
  unfold State.modReach
  rw [h, show s.reach.set n s.reach[n] = s.reach from Vector.set_getElem_self _]

/-- Noting a poisoned line changes the lockkeeper's record alone (11 R367). -/
theorem notePoison_lkp (j a k : Nat) : ∃ l, s.notePoison j a k = { s with lkp := l } := by
  unfold State.notePoison
  split
  · exact ⟨_, rfl⟩
  · exact ⟨s.lkp, rfl⟩

/-- A reach's read changes at most the lockkeeper's record. -/
theorem touch_reach_lkp (n : Fin 16) (a k : Nat) : ∃ l, s.touch (.reach n) a k = { s with lkp := l } :=
  notePoison_lkp s _ _ _

/-- A performance counter with room counts without losing an increment (19 R621). -/
theorem perf_add_kept (p : Perf) (k : Nat) (h : p.count.toNat + k < 2 ^ 48) : (p.add k).2 = false := by
  by_cases hk : k = 0
  · simp [Perf.add, hk]
  · rw [Perf.add, if_neg hk, if_pos h]

/-- Where VE_BUSY has room, occupying the vector unit changes a reach's performance counters alone (07 R236). -/
theorem vecBusyK_perf (n : Fin 16) (k : Nat) (h : s.reach[n].perf.veBusy.count.toNat + k < 2 ^ 48) :
    ∃ p, s.vecBusyK (.reach n) k = s.modReach n fun x => { x with perf := p } := by
  simp only [State.vecBusyK, State.countPerf]
  split
  · exact ⟨s.reach[n].perf, (modReach_eq_self s rfl).symm⟩
  · rw [perf_add_kept _ _ h]
    exact ⟨{ s.reach[n].perf with veBusy := (s.reach[n].perf.veBusy.add k).1 }, by simp [State.perfOvf, State.modReach]⟩

/-! ### Dispatch and retirement (07 R235, R249) -/

/-- A unit dispatches without touching the registers that its operands are read from. -/
theorem fetched_x (s : State) (r : Res) (k : BitVec 6) : ((s.fetched r).unit r).x k = (s.unit r).x k := by
  rw [fetched_unit]; rfl

theorem fetched_xp (s : State) (r : Res) (k : BitVec 6) : ((s.fetched r).unit r).xp k = (s.unit r).xp k := by
  rw [fetched_unit]; rfl

theorem fetched_job (s : State) (r : Res) : ((s.fetched r).unit r).job = (s.unit r).job := by
  rw [fetched_unit]

theorem fetched_reach (s : State) (n : Fin 16) :
    (s.fetched (.reach n)).reach[n] = { s.reach[n] with u := { s.reach[n].u with pc := BitVec.ofNat 17 s.reach[n].u.next } } := by
  rw [State.fetched, modU_reach, modReach_same]

theorem fetched_rerunLeft (s : State) (n : Fin 16) : (s.fetched (.reach n)).reach[n].rerunLeft = s.reach[n].rerunLeft := by
  rw [fetched_reach]

theorem fetched_accOk (s : State) (n : Fin 16) (a k : Nat) (wr : Bool) :
    (s.fetched (.reach n)).accOk (.reach n) a k wr = s.accOk (.reach n) a k wr := by
  simp only [State.accOk, fetched_reach]

/-- An instruction that left run, PC and code area of a ready unit as they were at its dispatch goes on to the next word. -/
theorem retire_of_ready {s t : State} {r : Res} {sp : Spans} (h : Ready s r sp) (hrun : (t.unit r).run = (s.unit r).run)
    (hpc : (t.unit r).pc = BitVec.ofNat 17 (s.unit r).next) (hcode : (t.unit r).codeLen = (s.unit r).codeLen) :
    t.retire r = t.modU r fun u => { u with next := (s.unit r).next + 1 } := by
  have hpcNat : (t.unit r).pc.toNat = (s.unit r).next := by
    have hnext := h.next
    have hlen := h.code
    rw [hpc, BitVec.toNat_ofNat, Nat.mod_eq_of_lt (by omega)]
  rw [retire_next (hrun.trans (ready_run h).1) (by rw [hpcNat, hcode]; exact h.next), hpcNat]

/-- Writing a scalar register commutes with going on to the next word. -/
theorem setX_advanced (u : Machine.Unit) (k : BitVec 6) (v : W64) (p : Bool) :
    { ({ u with pc := BitVec.ofNat 17 u.next } : Machine.Unit).setX k v p with next := u.next + 1 } = advanced (u.setX k v p) := by
  unfold Machine.Unit.setX
  split
  · rfl
  · rfl

end Sys2Proof.Machine.Frames

/-! PROOF. QCHECK (06 R205 to R207, 07 R231): its outcome codes, the effect of each, the state that the instruction leaves, and the
obligation that rests on them. -/

namespace Sys2Proof.Machine.Qcheck

open Sys2Proof.Machine Sys2Proof.Machine.Laws Sys2Proof.Machine.Frames

variable (s : State)

/-! ### The outcome codes (06 R205, 07 R231) -/

section
variable {thr : W32} {a : Fwp} (left : Nat)

theorem qcheckCode_of_disabled (ht : (decodePosit 32 thr.toNat).isNan = true) : qcheckCode thr left a = 0 := by
  simp [qcheckCode, ht]

theorem qcheckCode_of_invalid (ht : (decodePosit 32 thr.toNat).isNan = false) (ha : a.nan = true ∨ a.acc = 0) :
    qcheckCode thr left a = 3 := by
  simp [qcheckCode, ht, ha]

/-- The layer does not exceed: neither infinity nor a sum of squares above the threshold times the count. -/
def WithinThreshold (thr : W32) (a : Fwp) : Prop :=
  a.pinf = false ∧ a.ninf = false ∧ (quireRead .q32 a.image).1 ≤ (decodePosit 32 thr.toNat).rat * ((a.acc : Nat) : Rat)

theorem qcheckCode_of_within (ht : (decodePosit 32 thr.toNat).isNan = false) (hn : a.nan = false) (hc : a.acc ≠ 0)
    (h : WithinThreshold thr a) : qcheckCode thr left a = 0 := by
  obtain ⟨hPinf, hNinf, hLe⟩ := h
  simp [qcheckCode, ht, hn, hc, hPinf, hNinf, hLe]

/-- A layer that exceeds is run again while the budget lasts. -/
theorem qcheckCode_of_exceeding (ht : (decodePosit 32 thr.toNat).isNan = false) (hn : a.nan = false) (hc : a.acc ≠ 0)
    (h : ¬ WithinThreshold thr a) : qcheckCode thr left a = if 0 < left then 1 else 2 := by
  rw [WithinThreshold, ← and_assoc] at h
  simp [qcheckCode, ht, hn, hc, h]

end

/-! ### The effect of an outcome (06 R205, R206, R210) -/

/-- What the outcome of QCHECK does beside its code: RERUN spends the budget, DENIED records the layer. -/
def effect (n : Fin 16) (lyr k : Nat) : State :=
  if k = 1 then s.rerunGranted n else if k = 2 then s.rerunDenied n lyr else s

theorem effect_framed (n : Fin 16) (lyr k : Nat) : Framed s (effect s n lyr k) (.reach n) := by
  unfold effect
  split
  · exact (framed_modReach s n _).trans (framed_modStep _ _ _ _)
  · split
    · exact ((framed_raise s _ _).trans (framed_modReach _ n _)).trans (framed_modStep _ _ _ _)
    · exact Framed.refl s _

/-- The reach after an outcome: its budget, its denials and its two counters. -/
theorem effect_reach (n : Fin 16) (lyr k : Nat) : (effect s n lyr k).reach[n] =
    { s.reach[n] with
      rerunLeft := if k = 1 then s.reach[n].rerunLeft - 1 else s.reach[n].rerunLeft
      denied := if k = 2 then s.reach[n].denied + 1 else s.reach[n].denied
      cnt := { s.reach[n].cnt with
        rerun := if k = 1 then stick32 s.reach[n].cnt.rerun 1 else s.reach[n].cnt.rerun
        deny := if k = 2 then stick32 s.reach[n].cnt.deny 1 else s.reach[n].cnt.deny } } := by
  unfold effect
  by_cases h1 : k = 1
  · simp [h1, State.rerunGranted]
  · by_cases h2 : k = 2
    · simp [h2, State.rerunDenied]
    · simp [h1, h2]

/-- No outcome but DENIED raises an event. -/
theorem effect_raises_nothing (n : Fin 16) (lyr : Nat) {k : Nat} (h : k ≠ 2) :
    (effect s n lyr k).mgt = s.mgt ∧ (effect s n lyr k).ras = s.ras := by
  simp only [effect, if_neg h]
  split
  · exact ⟨rfl, rfl⟩
  · exact ⟨rfl, rfl⟩

/-- DENIED raises QNT_RERUN_DENIED, and its record names the layer. -/
theorem effect_denied_raised (n : Fin 16) (lyr : Nat) :
    Raised s (effect s n lyr 2) 0x010D s.reach[n].u.job (srcOf s 1 n) ∧
      ∃ e, (effect s n lyr 2).mgt.recs.getLast? = some e ∧ e.addr = BitVec.ofNat 64 lyr :=
  ⟨raise_raised s { code := 0x010D, job := s.reach[n].u.job, ctx := s.reach[n].u.ctx, kind := 1, part := n, addr := lyr },
    _, keepRecord_last _ _, rfl⟩

/-! ### The instruction (07 R231) -/

section
variable (n : Fin 16) (w : CtlWord)

/-- The address in the reach store of the record that the word names. -/
def recordAddr : Nat := ((s.unit (.reach n)).x w.a).toNat

/-- The record that the word names. -/
def record : Fwp := s.readFwp (.reach n) (recordAddr s n w)

/-- The threshold of the layer that the word names (06 R207). -/
def threshold : W32 := (s.threshOf (s.unit (.reach n)).job).getD w.immQ 0

/-- The code that QCHECK finds. -/
def found : Nat := qcheckCode (threshold s n w) s.reach[n].rerunLeft (record s n w)

/-- The state in which the word has dispatched, its record has been read and its code has been written. -/
def judged : State :=
  ((s.fetched (.reach n)).touch (.reach n) (recordAddr s n w) 96).modU (.reach n) fun u =>
    u.setX w.d (BitVec.ofNat 64 (found s n w)) (record s n w).poison

/-- The state in which the code has had its effect, before the instruction retires. -/
def decided : State := effect (judged s n w) n w.immQ (found s n w)

/-- The word's accesses and its layer are legal, its address register is not poisoned, and the unit is ready for it. -/
structure Legal : Prop where
  word  : wordOk (.reach n) { d := .sc, a := .sc, lay := .q, nmu := false } w = true
  reg   : (s.unit (.reach n)).xp w.a = false
  align : recordAddr s n w % 32 = 0
  acc   : s.accOk (.reach n) (recordAddr s n w) 96 false = true
  layer : w.immQ < (s.threshOf (s.unit (.reach n)).job).length
  ready : Ready s (.reach n) { rd := [(recordAddr s n w, recordAddr s n w + 96)] }

variable {s n w}

/-- A legal QCHECK writes its code, has the code's effect, and retires. -/
theorem exec_qcheck (h : Legal s n w) : exec (.qcheck (.reach n) w) s =
    .next (((decided s n w).vecBusyK (.reach n) 2).retire (.reach n)) := by
  have hAlign : ((s.unit (.reach n)).x w.a).toNat % 32 = 0 := h.align
  have hAcc : (s.fetched (.reach n)).accOk (.reach n) ((s.unit (.reach n)).x w.a).toNat 96 false = true :=
    (fetched_accOk s n _ _ _).trans h.acc
  have hLayer : ¬ ((s.fetched (.reach n)).threshOf (s.unit (.reach n)).job).length ≤ w.immQ := Nat.not_le.mpr h.layer
  change execQcheck (.reach n) w s = _
  unfold execQcheck
  dsimp only
  rw [ctl_acts h.ready h.word]
  · simp only [fetched_x, fetched_job, fetched_rerunLeft]
    rfl
  · simp only [List.any_cons, List.any_nil, fetched_xp, h.reg, Bool.or_self]
  · simp only [recOk, fetched_x, fetched_job, hAlign, hAcc, hLayer, beq_self_eq_true, Bool.and_self, Bool.not_true,
      Bool.false_eq_true, if_false]

/-! ### What it leaves -/

theorem judged_framed (s : State) (n : Fin 16) (w : CtlWord) : Framed s (judged s n w) (.reach n) := by
  obtain ⟨l, hl⟩ := touch_reach_lkp (s.fetched (.reach n)) n (recordAddr s n w) 96
  rw [judged, hl]
  exact ((framed_modReach s n _).trans (framed_lkp _ _ l)).trans (framed_modReach _ n _)

/-- Reading the record and writing the code raise no event. -/
theorem judged_raises_nothing (s : State) (n : Fin 16) (w : CtlWord) :
    (judged s n w).mgt = s.mgt ∧ (judged s n w).ras = s.ras ∧ (judged s n w).cpl = s.cpl := by
  obtain ⟨l, hl⟩ := touch_reach_lkp (s.fetched (.reach n)) n (recordAddr s n w) 96
  rw [judged, hl]
  exact ⟨rfl, rfl, rfl⟩

/-- The unit once the code has been written. -/
def judgedUnit (s : State) (n : Fin 16) (w : CtlWord) : Machine.Unit :=
  ({ s.reach[n].u with pc := BitVec.ofNat 17 s.reach[n].u.next } : Machine.Unit).setX w.d (BitVec.ofNat 64 (found s n w))
    (record s n w).poison

/-- Dispatching the word and writing its code leave the unit running as it was, with PC at the word. -/
theorem judgedUnit_kept (s : State) (n : Fin 16) (w : CtlWord) :
    (judgedUnit s n w).run = s.reach[n].u.run ∧ (judgedUnit s n w).pc = BitVec.ofNat 17 s.reach[n].u.next ∧
      (judgedUnit s n w).codeLen = s.reach[n].u.codeLen ∧ (judgedUnit s n w).job = s.reach[n].u.job := by
  rw [judgedUnit, setX_eq]
  exact ⟨rfl, rfl, rfl, rfl⟩

theorem judged_reach (s : State) (n : Fin 16) (w : CtlWord) :
    (judged s n w).reach[n] = { s.reach[n] with u := judgedUnit s n w } := by
  obtain ⟨l, hl⟩ := touch_reach_lkp (s.fetched (.reach n)) n (recordAddr s n w) 96
  rw [judged, hl, modU_reach, modReach_same,
    show ({ s.fetched (.reach n) with lkp := l } : State).reach = (s.fetched (.reach n)).reach from rfl, fetched_reach]
  rfl

/-- A legal QCHECK on a unit whose counters have room: after the code's effect, only performance counters and the next word change. -/
theorem exec_qcheck_retired (h : Legal s n w) (hq : Quiet s (.reach n)) : ∃ p, exec (.qcheck (.reach n) w) s =
    .next ((decided s n w).modReach n fun x =>
      { x with perf := p, u := { x.u with next := s.reach[n].u.next + 1 } }) := by
  have hRoom : s.reach[n].perf.veBusy.count.toNat + 2 ^ 32 < 2 ^ 48 := hq.room.1
  have hUnit : (decided s n w).reach[n].u = judgedUnit s n w := by rw [decided, effect_reach, judged_reach]
  have hPerf : (decided s n w).reach[n].perf = s.reach[n].perf := by rw [decided, effect_reach, judged_reach]
  obtain ⟨p, hp⟩ := vecBusyK_perf (decided s n w) n 2 (by rw [hPerf]; omega)
  have hBusy : ((decided s n w).vecBusyK (.reach n) 2).unit (.reach n) = judgedUnit s n w := by
    rw [hp, State.unit, modReach_same, hUnit]
  obtain ⟨hRun, hPc, hCode, -⟩ := judgedUnit_kept s n w
  refine ⟨p, ?_⟩
  rw [exec_qcheck h,
    retire_of_ready h.ready (by rw [hBusy]; exact hRun) (by rw [hBusy]; exact hPc) (by rw [hBusy]; exact hCode),
    hp, modU_reach, modReach_modReach]
  rfl

/-- What a legal QCHECK leaves (06 R205, R206, R210; 07 R231): its code in xD and the code's effect on the reach and on the records kept. -/
theorem qcheck_gives (h : Legal s n w) (hq : Quiet s (.reach n)) : Gives (.qcheck (.reach n) w) s fun t =>
    t.unit (.reach n) = advanced ((s.unit (.reach n)).setX w.d (BitVec.ofNat 64 (found s n w)) (record s n w).poison) ∧
      t.reach[n].rerunLeft = (if found s n w = 1 then s.reach[n].rerunLeft - 1 else s.reach[n].rerunLeft) ∧
      t.reach[n].denied = (if found s n w = 2 then s.reach[n].denied + 1 else s.reach[n].denied) ∧
      t.reach[n].cnt = { s.reach[n].cnt with
        rerun := if found s n w = 1 then stick32 s.reach[n].cnt.rerun 1 else s.reach[n].cnt.rerun
        deny := if found s n w = 2 then stick32 s.reach[n].cnt.deny 1 else s.reach[n].cnt.deny } ∧
      (found s n w = 2 → Raised s t 0x010D (s.unit (.reach n)).job (srcOf s 1 n) ∧
        ∃ e, t.mgt.recs.getLast? = some e ∧ e.addr = BitVec.ofNat 64 w.immQ) ∧
      (found s n w ≠ 2 → t.mgt = s.mgt ∧ t.ras = s.ras) ∧ OthersKept s t (.reach n) ∧ DeviceKept s t ∧ MemoryKept s t := by
  obtain ⟨p, hp⟩ := exec_qcheck_retired h hq
  obtain ⟨hMgt, hRas, hCpl⟩ := judged_raises_nothing s n w
  refine ⟨_, hp, ?_, ?_, ?_, ?_, fun hk => ?_, fun hk => ?_, ?_⟩
  · rw [State.unit, modReach_same, decided, effect_reach, judged_reach]
    exact setX_advanced _ _ _ _
  · rw [modReach_same, decided, effect_reach, judged_reach]
  · rw [modReach_same, decided, effect_reach, judged_reach]
  · rw [modReach_same, decided, effect_reach, judged_reach]
  · rw [decided, hk]
    obtain ⟨-, -, -, hUnitJob⟩ := judgedUnit_kept s n w
    obtain ⟨⟨e, hSeq, hEvent, hJob, hSource, hNext, hLast⟩, hAddr⟩ := effect_denied_raised (judged s n w) n w.immQ
    rw [judged_reach, hUnitJob] at hJob
    rw [srcOf, hCpl] at hSource
    rw [hRas] at hSeq hNext
    exact ⟨⟨e, hSeq, hEvent, hJob, hSource, hNext, hLast⟩, hAddr⟩
  · obtain ⟨gMgt, gRas⟩ := effect_raises_nothing (judged s n w) n w.immQ hk
    exact ⟨gMgt.trans hMgt, gRas.trans hRas⟩
  · exact ((judged_framed s n w).trans (effect_framed _ n _ _)).trans (framed_modReach _ n _)

end

/-- Settles O20: the five cases are the branches of `qcheckCode`, and `qcheck_gives` says what each code leaves. -/
theorem qcheckDecides : Obligations.QcheckDecides := by
  unfold Obligations.QcheckDecides
  intro n w s r hQuiet hWord hReg u a hAlign hAcc hLayer hReady q thr small x code
  have hGives := qcheck_gives (s := s) (n := n) (w := w) ⟨hWord, hReg, hAlign, hAcc, hLayer, hReady⟩ hQuiet
  have hCode : ∀ k left denied, found s n w = k → (if k = 1 then x.rerunLeft - 1 else x.rerunLeft) = left →
      (if k = 2 then x.denied + 1 else x.denied) = denied → code k left denied := by
    rintro _ _ _ rfl rfl rfl
    exact hGives
  refine ⟨fun hThr => ?_, fun hThr hInvalid => ?_, fun hThr hNan hCount hWithin => ?_, fun hThr hNan hCount hExceeds hLeft => ?_,
    fun hThr hNan hCount hExceeds hLeft => ?_⟩
  · exact hCode 0 _ _ (qcheckCode_of_disabled _ hThr) rfl rfl
  · exact hCode 3 _ _ (qcheckCode_of_invalid _ hThr hInvalid) rfl rfl
  · exact hCode 0 _ _ (qcheckCode_of_within _ hThr hNan hCount hWithin) rfl rfl
  · exact hCode 1 _ _ ((qcheckCode_of_exceeding _ hThr hNan hCount hExceeds).trans (if_pos hLeft)) rfl rfl
  · exact hCode 2 _ _ ((qcheckCode_of_exceeding _ hThr hNan hCount hExceeds).trans (if_neg hLeft.not_gt)) hLeft rfl

end Sys2Proof.Machine.Qcheck

/-! PROOF. Accesses of an NMU to memory (09 R274; 11 R365, R367, R371, R385): what a read leaves as it was, that a slice whose counters
have room raises no event, and the frames of NMU commands. Laws that the proofs about NMU instructions share. -/

namespace Sys2Proof.Machine.NmuAccess

open Sys2Proof.Machine Sys2Proof.Machine.Laws Sys2Proof.Machine.Frames

variable (s : State)

/-! ### Bytes and marks that two states share -/

theorem keyOk_eq {s t : State} (hd : DeviceKept s t) (hm : MemoryKept s t) (line : Nat) : t.keyOk line = s.keyOk line := by
  obtain ⟨-, -, -, hctx, hdev, hsec, -⟩ := hd
  exact keyOk_congr hsec hctx hdev (by rw [hm.2.2])

/-- A line under its own key reads as it did wherever memory is as it was. -/
theorem byte_eq {s t : State} (hd : DeviceKept s t) (hm : MemoryKept s t) {b : Nat} (hk : s.keyOk (b / 64) = true) : t.byte b = s.byte b := by
  rw [State.byte, State.byte, keyOk_eq hd hm, hk, if_pos rfl, if_pos rfl, hm.1]

theorem read_congr {s t : State} (h : ∀ b, t.byte b = s.byte b) (a n : Nat) : t.read a n = s.read a n := by
  simp only [State.read, h]

/-- Whether a line is under quarantine depends on the M-dies' entries alone. -/
theorem quarantined_congr {s t : State} (h : t.mdie.map (·.quar) = s.mdie.map (·.quar)) (line : Nat) : t.quarantined line = s.quarantined line := by
  have go (u : State) : u.quarantined line = (u.mdie.map (·.quar)).toList.any fun l => l.any fun q => q.block == line / 64 := by
    rw [State.quarantined, Vector.toList_map, List.any_map]
    rfl
  rw [go, go, h]

theorem poisonedRange_congr {s t : State} (h : ∀ line, t.poisoned line = s.poisoned line) (a n : Nat) :
    t.poisonedRange a n = s.poisonedRange a n := by
  rw [State.poisonedRange, State.poisonedRange, funext h]

/-! ### Frames of a command of an NMU -/

theorem deviceKept_trans {s t u : State} (h : DeviceKept s t) (g : DeviceKept t u) : DeviceKept s u := by
  simp only [DeviceKept] at h g ⊢
  simp only [g, h, and_self]

theorem memoryKept_trans {s t u : State} (h : MemoryKept s t) (g : MemoryKept t u) : MemoryKept s u :=
  ⟨g.1.trans h.1, g.2.1.trans h.2.1, g.2.2.trans h.2.2⟩

/-- No unit changes, and nothing of the device. -/
structure Beside (s t : State) : Prop where
  reach  : t.reach = s.reach
  nmu    : t.nmu = s.nmu
  device : DeviceKept s t

theorem Beside.trans {s t u : State} (h : Beside s t) (g : Beside t u) : Beside s u :=
  ⟨g.reach.trans h.reach, g.nmu.trans h.nmu, deviceKept_trans h.device g.device⟩

theorem raise_beside (e : Ev) : Beside s (s.raise e) := ⟨rfl, rfl, by simp [DeviceKept]⟩

theorem write_beside (a : Nat) (bs : List Byte) (p : Bool) : Beside s (s.write a bs p) :=
  ⟨write_reach s a bs p, write_nmu s a bs p, by simp [DeviceKept]⟩

theorem modStep_beside (j : Nat) (f : StepRun → StepRun) : Beside s (s.modStep j f) := ⟨rfl, rfl, by simp [DeviceKept]⟩

/-- Nothing of the device or of memory has changed; lines are delivered with the marks they had, and the steps in flight have committed
what they had. -/
structure Alike (s t : State) : Prop where
  device   : DeviceKept s t
  memory   : MemoryKept s t
  poisoned : ∀ line, t.poisoned line = s.poisoned line
  shards   : ∀ j, (t.jobRun j).step.map StepRun.shards = (s.jobRun j).step.map StepRun.shards

theorem Alike.trans {s t u : State} (h : Alike s t) (g : Alike t u) : Alike s u :=
  ⟨deviceKept_trans h.device g.device, memoryKept_trans h.memory g.memory, fun l => (g.poisoned l).trans (h.poisoned l),
    fun j => (g.shards j).trans (h.shards j)⟩

theorem Alike.byte {s t : State} (h : Alike s t) (hk : AllKeyed s) (b : Nat) : t.byte b = s.byte b := byte_eq h.device h.memory (hk _)

theorem Alike.poisonedRange {s t : State} (h : Alike s t) (a n : Nat) : t.poisonedRange a n = s.poisonedRange a n :=
  poisonedRange_congr h.poisoned a n

/-- What a later state keeps of a state it keeps of every state alike. -/
theorem Alike.bytesKept {s t u : State} {ws : List (Nat × Nat)} (h : Alike s t) (g : BytesKept t u ws) : BytesKept s u ws :=
  fun b hk hb => (g b ((keyOk_eq h.device h.memory _).trans hk) hb).trans (byte_eq h.device h.memory hk)

theorem modNmu_alike (d : Fin 4) (f : Nmu → Nmu) : Alike s (s.modNmu d f) :=
  ⟨by simp [DeviceKept], ⟨rfl, rfl, rfl⟩, fun _ => rfl, fun _ => rfl⟩

/-- An access that reads: the state is alike, and no unit has changed. -/
structure Accessed (s t : State) : Prop extends Alike s t where
  reach : t.reach = s.reach
  nmu   : t.nmu = s.nmu

theorem Accessed.refl : Accessed s s := ⟨⟨by simp [DeviceKept], by simp [MemoryKept], fun _ => rfl, fun _ => rfl⟩, rfl, rfl⟩

theorem Accessed.trans {s t u : State} (h : Accessed s t) (g : Accessed t u) : Accessed s u :=
  ⟨h.toAlike.trans g.toAlike, g.reach.trans h.reach, g.nmu.trans h.nmu⟩

theorem Accessed.beside {s t : State} (h : Accessed s t) : Beside s t := ⟨h.reach, h.nmu, h.device⟩

/-! ### The slices (11 R371, R385) -/

/-- What one access makes of an M-die: its quarantine is as it was, each counter counts at most one, and one that has room loses nothing;
`h` and `m` say that the first increment of a counter is lost. -/
structure Counted (x y : MDie) (h m : Bool) : Prop where
  quar   : y.quar = x.quar
  hit    : y.hit.count.toNat ≤ x.hit.count.toNat + 1
  miss   : y.miss.count.toNat ≤ x.miss.count.toNat + 1
  hitOk  : x.hit.count.toNat + 1 < 2 ^ 48 → h = false
  missOk : x.miss.count.toNat + 1 < 2 ^ 48 → m = false

theorem tick_le (p : Perf) (on : Bool) : (p.tick on).count.toNat ≤ p.count.toNat + 1 := by
  have hb : b2n on ≤ 1 := by cases on <;> decide
  unfold Perf.tick
  dsimp only
  split
  · omega
  · rw [BitVec.toNat_add, BitVec.toNat_ofNat]
    omega

/-- A counter that has room loses no increment. -/
theorem loses_of_room {p : Perf} {on : Bool} (h : p.count.toNat + 1 < 2 ^ 48) : p.loses on = false := by
  have hne : (p.count == BitVec.allOnes 48) = false := by
    rw [beq_eq_false_iff_ne]
    intro e
    rw [e] at h
    exact absurd h (by decide)
  rw [Perf.loses, hne, Bool.false_and, Bool.false_and]

theorem modMdie_self (d : Fin 4) : (s.modMdie d fun _ => s.mdie[d]) = s := by
  unfold State.modMdie
  rw [show s.mdie.set d s.mdie[d] = s.mdie from Vector.set_getElem_self _]

theorem modMdie_modMdie (d : Fin 4) (f g : MDie → MDie) : (s.modMdie d f).modMdie d g = s.modMdie d fun x => g (f x) := by
  simp [State.modMdie]

/-- Bringing a line in changes the cache of one M-die alone (11 R372). -/
theorem allocate_cases (held : Bool) (d : Fin 4) (line : Nat) : ∃ x : MDie,
    (if held then s else s.modMdie d fun m => m.allocate line (Config.llcWay s.fresh line % m.ways)) = (s.modMdie d fun _ => x) ∧
      x.quar = s.mdie[d].quar ∧ x.hit = s.mdie[d].hit ∧ x.miss = s.mdie[d].miss := by
  split
  · exact ⟨s.mdie[d], (modMdie_self s d).symm, rfl, rfl, rfl⟩
  · exact ⟨s.mdie[d].allocate line (Config.llcWay s.fresh line % s.mdie[d].ways), rfl, rfl, rfl, rfl⟩

/-- What the passage of a line through the slices can do: nothing, or a change of one M-die and the loss of increments. -/
theorem llcLine_cases (alloc : Bool) (line : Nat) : State.llcLine alloc s line = s ∨ ∃ (d : Fin 4) (y : MDie) (h m : Bool) (o p : Nat),
    Counted s.mdie[d] y h m ∧ State.llcLine alloc s line = ((s.modMdie d fun _ => y).perfOvf h 2 d o).perfOvf m 2 d p := by
  unfold State.llcLine
  split
  · exact .inl rfl
  · split
    · exact .inl rfl
    · next d _ =>
      dsimp only
      obtain ⟨x, hx, hQuar, hHit, hMiss⟩ :=
        allocate_cases s (s.mdie[d].caches line || !alloc || s.mdie[d].sets == 0) d line
      rw [hx]
      refine .inr ⟨d, ?_⟩
      split
      · exact ⟨x, false, false, 0, 0, ⟨hQuar, by rw [hHit]; omega, by rw [hMiss]; omega, fun _ => rfl, fun _ => rfl⟩, rfl⟩
      · rw [modMdie_modMdie]
        refine ⟨_, _, _, _, _, ⟨?_, ?_, ?_, loses_of_room, loses_of_room⟩, rfl⟩
        · exact hQuar
        · rw [hHit]; exact tick_le _ _
        · rw [hMiss]; exact tick_le _ _

theorem perfOvf_accessed (lost : Bool) (k p o : Nat) : Accessed s (s.perfOvf lost k p o) := by
  unfold State.perfOvf
  split
  · exact ⟨⟨(raise_beside s _).device, ⟨rfl, rfl, rfl⟩, fun _ => rfl, fun _ => rfl⟩, rfl, rfl⟩
  · exact Accessed.refl s

theorem modMdie_accessed {d : Fin 4} {y : MDie} (h : y.quar = s.mdie[d].quar) : Accessed s (s.modMdie d fun _ => y) := by
  refine ⟨⟨by simp [DeviceKept], ⟨rfl, rfl, rfl⟩, fun line => ?_, fun _ => rfl⟩, rfl, rfl⟩
  have hQuar : (s.modMdie d fun _ => y).mdie.map (·.quar) = s.mdie.map (·.quar) := by
    simp only [State.modMdie, Vector.map_set, h]
    ext i hi : 1
    by_cases e : d.val = i
    · subst e; simp
    · simp [Vector.getElem_set_ne, e]
  rw [State.poisoned, State.poisoned, quarantined_congr hQuar]
  rfl

theorem llcLine_accessed (alloc : Bool) (line : Nat) : Accessed s (State.llcLine alloc s line) := by
  obtain h | ⟨d, y, h, m, o, p, hy, he⟩ := llcLine_cases s alloc line
  · rw [h]; exact Accessed.refl s
  · rw [he]
    exact ((modMdie_accessed s hy.quar).trans (perfOvf_accessed _ _ _ _ _)).trans (perfOvf_accessed _ _ _ _ _)

/-- The slices draw no free value. -/
theorem llc_fresh (a n : Nat) {alloc : Bool} : (s.llc a n alloc).fresh = s.fresh := by
  have hPerf (t : State) (lost : Bool) (k p o : Nat) : (t.perfOvf lost k p o).fresh = t.fresh := by
    unfold State.perfOvf
    split <;> rfl
  refine foldl_keeps (·.fresh) (State.llcLine alloc) (fun t line => ?_) _ s
  obtain h | ⟨d, y, h, m, o, p, -, he⟩ := llcLine_cases t alloc line
  · rw [h]
  · rw [he, hPerf, hPerf, modMdie_fresh]

theorem llc_accessed (a n : Nat) {alloc : Bool} : Accessed s (s.llc a n alloc) := by
  unfold State.llc
  induction linesOf a n generalizing s with
  | nil => exact Accessed.refl s
  | cons l ls ih => exact (llcLine_accessed s alloc l).trans (ih _)

/-- Bytes are as they were, whatever key their line is under. -/
theorem llc_byte (a n b : Nat) {alloc : Bool} : (s.llc a n alloc).byte b = s.byte b := by
  have h := llc_accessed s a n (alloc := alloc)
  rw [State.byte, State.byte, keyOk_eq h.device h.memory, h.memory.1, llc_fresh]

/-- Every counter of the slices has room for `k` increments; `LlcRoom` is room for two. -/
def Room (k : Nat) (s : State) : Prop := ∀ d : Fin 4, s.mdie[d].hit.count.toNat + k < 2 ^ 48 ∧ s.mdie[d].miss.count.toNat + k < 2 ^ 48

/-- No event was raised: what numbers, keeps and forwards records is as it was. -/
def Unraised (s t : State) : Prop := t.ras = s.ras ∧ t.mgt = s.mgt ∧ t.cpl = s.cpl

theorem Unraised.trans {s t u : State} (h : Unraised s t) (g : Unraised t u) : Unraised s u :=
  ⟨g.1.trans h.1, g.2.1.trans h.2.1, g.2.2.trans h.2.2⟩

/-- The passage of a line raises no event where the counters have room, and takes one increment of it. -/
theorem llcLine_unraised (alloc : Bool) (line : Nat) {k : Nat} (hr : Room (k + 1) s) :
    Unraised s (State.llcLine alloc s line) ∧ Room k (State.llcLine alloc s line) := by
  obtain h | ⟨d, y, h, m, o, p, hy, he⟩ := llcLine_cases s alloc line
  · rw [h]
    exact ⟨⟨rfl, rfl, rfl⟩, fun e => by have := hr e; omega⟩
  · obtain ⟨hHit, hMiss⟩ := hr d
    obtain ⟨-, yHit, yMiss, hitOk, missOk⟩ := hy
    obtain rfl : h = false := hitOk (by omega)
    obtain rfl : m = false := missOk (by omega)
    rw [he]
    refine ⟨⟨rfl, rfl, rfl⟩, fun e => ?_⟩
    change ((s.mdie.set d y)[e]).hit.count.toNat + k < 2 ^ 48 ∧ ((s.mdie.set d y)[e]).miss.count.toNat + k < 2 ^ 48
    by_cases hde : d = e
    · subst hde
      rw [show (s.mdie.set d y)[d] = y by simp]
      omega
    · rw [show (s.mdie.set d y)[e] = s.mdie[e] by simp [Vector.getElem_set_ne, Fin.val_ne_of_ne hde]]
      have := hr e
      omega

theorem llcLines_unraised (alloc : Bool) (ls : List Nat) (hr : Room ls.length s) : Unraised s (ls.foldl (State.llcLine alloc) s) := by
  induction ls generalizing s with
  | nil => exact ⟨rfl, rfl, rfl⟩
  | cons l ls ih =>
    obtain ⟨hFirst, hRoom⟩ := llcLine_unraised s alloc l hr
    exact hFirst.trans (ih _ hRoom)

/-- Bytes no more than a line lie in two lines at most. -/
theorem length_linesOf_le (a : Nat) {n : Nat} (h : n ≤ 64) : (linesOf a n).length ≤ 2 := by
  unfold linesOf
  split
  · simp
  · rw [List.length_map, List.length_range]
    omega

theorem llc_unraised (a : Nat) {n : Nat} (h : n ≤ 64) (hr : LlcRoom s) : Unraised s (s.llc a n) := by
  refine llcLines_unraised s true _ fun d => ?_
  have hl := length_linesOf_le a h
  have := hr d
  omega

/-! ### Reads of an NMU -/

/-- Noting a poisoned line changes no count of shards (11 R367). -/
theorem notePoison_accessed (j a n : Nat) : Accessed s (s.notePoison j a n) := by
  unfold State.notePoison
  split
  · refine ⟨⟨(modStep_beside s _ _).device, ⟨rfl, rfl, rfl⟩, fun _ => rfl, fun k => ?_⟩, rfl, rfl⟩
    by_cases hk : k = j
    · subst hk
      rw [State.modStep, modJob_same, Option.map_map]
      refine congrArg (Option.map · _) (funext fun x => ?_)
      rw [Function.comp_apply]
      split <;> rfl
    · rw [State.modStep, modJob_ne _ hk]
  · exact Accessed.refl s

theorem notePoison_unraised (j a n : Nat) : Unraised s (s.notePoison j a n) ∧ (s.notePoison j a n).mdie = s.mdie := by
  obtain ⟨l, h⟩ := notePoison_lkp s j a n
  rw [h]
  exact ⟨⟨rfl, rfl, rfl⟩, rfl⟩

theorem bump_accessed : Accessed s s.bump :=
  ⟨⟨by simp [DeviceKept, State.bump], ⟨rfl, rfl, rfl⟩, fun _ => rfl, fun _ => rfl⟩, rfl, rfl⟩

theorem touch_accessed (d : Fin 4) (a n : Nat) : Accessed s (s.touch (.nmu d) a n) :=
  ((notePoison_accessed s _ _ _).trans (llc_accessed _ a n)).trans (bump_accessed _)

theorem touch_unraised (d : Fin 4) (a : Nat) {n : Nat} (h : n ≤ 64) (hr : LlcRoom s) : Unraised s (s.touch (.nmu d) a n) := by
  obtain ⟨hNote, hMdie⟩ := notePoison_unraised s (s.unit (.nmu d)).job (unitAddr (.nmu d) a) n
  refine hNote.trans (llc_unraised _ a h fun e => ?_)
  rw [hMdie]
  exact hr e

/-! ### Dispatch and retirement of an NMU (07 R235, R249) -/

theorem fetched_nmu (d : Fin 4) :
    (s.fetched (.nmu d)).nmu[d] = { s.nmu[d] with u := { s.nmu[d].u with pc := BitVec.ofNat 17 s.nmu[d].u.next } } :=
  modNmu_same s d _

/-- A change of an NMU's unit is a change of the NMU. -/
theorem modU_nmu (d : Fin 4) (f : Machine.Unit → Machine.Unit) : s.modU (.nmu d) f = s.modNmu d fun x => { x with u := f x.u } := rfl

theorem fetched_alike (d : Fin 4) : Alike s (s.fetched (.nmu d)) := by
  rw [State.fetched, modU_nmu]
  exact modNmu_alike s d _

theorem modNmu_othersKept (d : Fin 4) (f : Nmu → Nmu) : OthersKept s (s.modNmu d f) (.nmu d) :=
  ⟨fun _ _ => rfl, fun _ he => modNmu_ne s (fun h => he (congrArg Res.nmu h.symm)) f⟩

/-- The NMU has dispatched its word, and its unit is as it then was; no other unit has changed and nothing of the device. -/
structure Dispatched (s t : State) (d : Fin 4) : Prop where
  unit   : t.nmu[d].u = { s.nmu[d].u with pc := BitVec.ofNat 17 s.nmu[d].u.next }
  others : OthersKept s t (.nmu d)
  device : DeviceKept s t

theorem fetched_dispatched (d : Fin 4) : Dispatched s (s.fetched (.nmu d)) d :=
  ⟨by rw [fetched_nmu], modNmu_othersKept s d _, by simp [DeviceKept, State.fetched]⟩

theorem Dispatched.beside {s t u : State} {d : Fin 4} (h : Dispatched s t d) (g : Beside t u) : Dispatched s u d := by
  obtain ⟨hUnit, ⟨hReach, hNmu⟩, hDev⟩ := h
  obtain ⟨gReach, gNmu, gDev⟩ := g
  exact ⟨by rw [gNmu, hUnit], ⟨fun n hn => by rw [gReach, hReach n hn], fun e he => by rw [gNmu, hNmu e he]⟩, deviceKept_trans hDev gDev⟩

/-- A change of the NMU that is none of its control-stream unit. -/
theorem Dispatched.modNmu {s t : State} {d : Fin 4} (h : Dispatched s t d) {f : Nmu → Nmu} (hf : (f t.nmu[d]).u = t.nmu[d].u) :
    Dispatched s (t.modNmu d f) d := by
  obtain ⟨hUnit, ⟨hReach, hNmu⟩, hDev⟩ := h
  obtain ⟨gReach, gNmu⟩ := modNmu_othersKept t d f
  exact ⟨by rw [modNmu_same, hf, hUnit], ⟨fun n hn => (gReach n hn).trans (hReach n hn), fun e he => (gNmu e he).trans (hNmu e he)⟩,
    deviceKept_trans hDev (by simp [DeviceKept])⟩

/-- Changes of a unit that agree on it are one change. -/
theorem modU_congr {t : State} {r : Res} {f g : Machine.Unit → Machine.Unit} (h : f (t.unit r) = g (t.unit r)) : t.modU r f = t.modU r g := by
  cases r with
  | reach n => simp only [State.modU, State.modReach, show f t.reach[n].u = g t.reach[n].u from h]
  | nmu d => simp only [State.modU, State.modNmu, show f t.nmu[d].u = g t.nmu[d].u from h]

/-- An instruction of an NMU that ends by writing one scalar register leaves its unit advanced with the register written. -/
theorem Dispatched.retire_eq {s t : State} {d : Fin 4} {sp : Spans} (h : Dispatched s t d) (hr : Ready s (.nmu d) sp)
    {g : Machine.Unit → Machine.Unit} {k : BitVec 6} {v : W64} {p : Bool} (hg : g t.nmu[d].u = t.nmu[d].u.setX k v p) :
    (t.modU (.nmu d) g).retire (.nmu d) = t.modU (.nmu d) fun _ => advanced (s.nmu[d].u.setX k v p) := by
  have hUnit : (t.modU (.nmu d) g).unit (.nmu d) =
      ({ s.nmu[d].u with pc := BitVec.ofNat 17 s.nmu[d].u.next } : Machine.Unit).setX k v p := by
    rw [modU_unit, show t.unit (.nmu d) = t.nmu[d].u from rfl, hg, h.unit]
  have hKept := setX_eq ({ s.nmu[d].u with pc := BitVec.ofNat 17 s.nmu[d].u.next } : Machine.Unit) k v p
  rw [retire_of_ready hr (by rw [hUnit, hKept]; rfl) (by rw [hUnit, hKept]; rfl) (by rw [hUnit, hKept]; rfl), modU_modU]
  refine modU_congr ?_
  rw [show t.unit (.nmu d) = t.nmu[d].u from rfl, hg, h.unit]
  exact setX_advanced _ _ _ _

/-- The unit has gone on to the next word with one scalar register written; no other unit has changed and nothing of the device. -/
def Puts (s t : State) (d : Fin 4) (k : BitVec 6) (v : W64) (p : Bool) : Prop :=
  t.unit (.nmu d) = advanced (s.nmu[d].u.setX k v p) ∧ OthersKept s t (.nmu d) ∧ DeviceKept s t

theorem Dispatched.puts {s t : State} {d : Fin 4} (h : Dispatched s t d) (k : BitVec 6) (v : W64) (p : Bool) :
    Puts s (t.modU (.nmu d) fun _ => advanced (s.nmu[d].u.setX k v p)) d k v p := by
  obtain ⟨-, ⟨hReach, hNmu⟩, hDev⟩ := h
  exact ⟨modU_unit _ _ _, ⟨fun n hn => hReach n hn, fun e he => ((modNmu_othersKept t d _).2 e he).trans (hNmu e he)⟩,
    deviceKept_trans hDev (by simp [DeviceKept])⟩

end Sys2Proof.Machine.NmuAccess

/-! PROOF. LRATE (09 R279 to R283, R286, R289, R290): what its reads depend on, what its two header writes leave in memory, what a refusal
raises, the state that each operation leaves, and the obligation that rests on them. -/

namespace Sys2Proof.Machine.Lrate

open Sys2Proof.Machine Sys2Proof.Machine.Laws Sys2Proof.Machine.Frames Sys2Proof.Machine.NmuAccess

variable (s : State)

/-! ### What the reads of LRATE depend on -/

theorem readShard_congr {s t : State} (h : ∀ b, t.byte b = s.byte b) (a : Nat) : readShard t a = readShard s a := by
  simp only [readShard, State.readNat, read_congr h]

theorem readRate_congr {s t : State} (h : ∀ b, t.byte b = s.byte b) (a : Nat) : readRate t a = readRate s a := by
  simp only [readRate, State.readNat, read_congr h]

/-- A rate depends on the bytes of its descriptor alone (R285). The function is unfolded behind a name, since the kernel would else
evaluate the schedule that its `match` looks at. -/
theorem rateOf_congr {s t : State} (h : ∀ b, t.byte b = s.byte b) (a n : Nat) : rateOf t a n = rateOf s a n := by
  generalize hf : rateOf = f
  delta rateOf at hf
  subst hf
  beta_reduce
  rw [readRate_congr h, read_congr h]

/-- Whether an address is served depends on the channels and the M-dies alone (11 R356, R358); unfolded behind a name as `rateOf` is. -/
theorem goneAt_congr {s t : State} (hChan : ∀ a, t.chanOf a = s.chanOf a) (hMdie : t.mdie = s.mdie) (a : Nat) : t.goneAt a = s.goneAt a := by
  generalize hf : State.goneAt = f
  delta State.goneAt at hf
  subst hf
  beta_reduce
  rw [hChan, hMdie]

theorem addrOk_congr {s t : State} (hDev : t.dev = s.dev) (hChan : ∀ a, t.chanOf a = s.chanOf a) (hMdie : t.mdie = s.mdie) (a n : Nat) :
    t.addrOk a n = s.addrOk a n := by
  have hSpad (d : Fin 4) : t.spadLen d = s.spadLen d := by rw [State.spadLen, State.spadLen, hMdie]
  simp only [State.addrOk, State.inSpad, State.inSpadOf, hSpad, State.inDram, goneAt_congr hChan hMdie, dramEnd_congr hDev, hMdie]

theorem fetched_chanOf (d : Fin 4) (a : Nat) : (s.fetched (.nmu d)).chanOf a = s.chanOf a := rfl

theorem fetched_addrOk (d : Fin 4) (a n : Nat) : (s.fetched (.nmu d)).addrOk a n = s.addrOk a n :=
  addrOk_congr (s := s) (t := s.fetched (.nmu d)) rfl (fetched_chanOf s d) rfl a n

theorem fetched_inWindow (d : Fin 4) (a n : Nat) : inWindow (s.fetched (.nmu d)) d a n = inWindow s d a n := by
  rw [inWindow, inWindow, fetched_nmu]

theorem fetched_readShard (d : Fin 4) (a : Nat) : readShard (s.fetched (.nmu d)) a = readShard s a := readShard_congr (fun _ => rfl) a

theorem fetched_checkStatus (d : Fin 4) (a : Nat) (e : W64) : checkStatus (s.fetched (.nmu d)) d a e = checkStatus s d a e := by
  have hCommon (h : Shard) : h.commonOk (s.fetched (.nmu d)) d a = h.commonOk s d a := by simp only [Shard.commonOk, fetched_inWindow]
  have hNative (h : Shard) : h.nativeOk (s.fetched (.nmu d)) d a = h.nativeOk s d a := by rw [Shard.nativeOk, Shard.nativeOk, hCommon]
  rw [checkStatus, checkStatus, fetched_readShard, hNative]

theorem fetched_schedChk (d : Fin 4) (a : Nat) : schedChk (s.fetched (.nmu d)) d a = schedChk s d a := by
  have hRate : readRate (s.fetched (.nmu d)) a = readRate s a := readRate_congr (fun _ => rfl) a
  have hRead : nmuRead (s.fetched (.nmu d)) d a 64 = nmuRead s d a 64 := by rw [nmuRead, nmuRead, fetched_addrOk, fetched_inWindow]
  rw [schedChk, schedChk, hRead, hRate]

/-- A shard that passes the tests of R278 has its header in a window and no reserved bit of FLAGS set. -/
theorem nativeOk_header {d : Fin 4} {a : Nat} {h : Shard} (hOk : h.nativeOk s d a = true) : inWindow s d a 64 = true ∧ h.flags / 2 = 0 := by
  simp only [Shard.nativeOk, Shard.commonOk, Bool.and_eq_true, beq_iff_eq] at hOk
  obtain ⟨⟨⟨⟨⟨-, hCommon⟩, -⟩, -⟩, -⟩, -⟩ := hOk
  obtain ⟨⟨⟨⟨⟨⟨⟨⟨⟨⟨⟨-, hWindow⟩, -⟩, -⟩, hFlags⟩, -⟩, -⟩, -⟩, -⟩, -⟩, -⟩, -⟩ := hCommon
  exact ⟨hWindow, hFlags⟩

/-- A shard that CHECK accepts is native (R278, R280). -/
theorem nativeOk_of_accepted {d : Fin 4} {a : Nat} {e : W64} (h : checkStatus s d a e = none) : (readShard s a).nativeOk s d a = true := by
  by_contra hNot
  rw [Bool.not_eq_true] at hNot
  simp [checkStatus, hNot] at h

/-! ### The header writes (R280, R281) -/

/-- Marking a header BUSY writes FLAGS and BUSY_JOB and no other byte. -/
theorem markBusy_bytes (a flags job : Nat) :
    BytesAre (s.markBusy a flags job) (a + 7) (leBytes 1 (flags / 2 * 2 + 1)) ∧ BytesAre (s.markBusy a flags job) (a + 56) (leBytes 2 job) ∧
      BytesKept s (s.markBusy a flags job) [(a + 7, 1), (a + 56, 2)] := by
  unfold State.markBusy
  refine ⟨fun i hi => ?_, fun i hi => ?_, fun b _ hb => ?_⟩
  · rw [length_leBytes] at hi
    rw [llc_byte, byte_write, if_neg (by omega)]
    exact write_bytesAre s _ _ _ i _
  · rw [llc_byte]
    exact write_bytesAre _ _ _ _ i hi
  · have hFlags : b < a + 7 ∨ a + 7 + 1 ≤ b := hb (a + 7, 1) (by simp)
    have hJob : b < a + 56 ∨ a + 56 + 2 ≤ b := hb (a + 56, 2) (by simp)
    rw [llc_byte, byte_write, byte_write, length_leBytes, length_leBytes, if_neg (by omega), if_neg (by omega)]

theorem markBusy_beside (a flags job : Nat) : Beside s (s.markBusy a flags job) :=
  ((write_beside s _ _ _).trans (write_beside _ _ _ _)).trans (llc_accessed _ _ _).beside

/-- The line of a header after its commit. -/
def commitLine (h : List Byte) (flags step : Nat) : List Byte :=
  h.take 7 ++ leBytes 1 (flags / 2 * 2) ++ leBytes 4 step ++ (h.drop 12).take 44 ++ leBytes 2 0 ++ h.drop 58

theorem length_commitLine {h : List Byte} (hl : h.length = 64) (flags step : Nat) : (commitLine h flags step).length = 64 := by
  simp [commitLine, hl]

theorem commitLine_getElem? {h : List Byte} (hl : h.length = 64) (flags step i : Nat) : (commitLine h flags step)[i]? =
    if i < 58 then
      if i < 56 then
        if i < 12 then if i < 8 then if i < 7 then h[i]? else (leBytes 1 (flags / 2 * 2))[i - 7]? else (leBytes 4 step)[i - 8]?
        else h[i]?
      else (leBytes 2 0)[i - 56]?
    else h[i]? := by
  have h7 : min 7 64 = 7 := rfl
  have h44 : min 44 52 = 44 := rfl
  simp only [commitLine, List.getElem?_append, List.getElem?_take, List.getElem?_drop, List.length_append, List.length_take,
    List.length_drop, length_leBytes, hl, Nat.reduceAdd, Nat.reduceSub, h7, h44]
  grind

/-- A commit writes the header's whole line. -/
theorem writeCommit_byte (a flags step b : Nat) : some ((s.writeCommit a flags step).byte b) =
    if a ≤ b ∧ b < a + 64 then (commitLine (s.read a 64) flags step)[b - a]? else some (s.byte b) := by
  have hLen := length_commitLine (length_read s a 64) flags step
  change some (((s.write a (commitLine (s.read a 64) flags step) _).llc a 64).byte b) = _
  rw [llc_byte, byte_write, hLen]
  split
  · rw [List.getD_eq_getElem?_getD, List.getElem?_eq_getElem (by omega), Option.getD_some]
  · rfl

/-- A number that stands at offset `k` of the line is read back at its address. -/
theorem writeCommit_bytesAre {a flags step k n x : Nat} (hk : k + n ≤ 64)
    (h : ∀ i < n, (commitLine (s.read a 64) flags step)[k + i]? = (leBytes n x)[i]?) :
    BytesAre (s.writeCommit a flags step) (a + k) (leBytes n x) := by
  intro i hi
  have hn := length_leBytes n x
  have hByte := writeCommit_byte s a flags step (a + k + i)
  rw [if_pos (by omega), show a + k + i - a = k + i by omega, h i (by omega), List.getElem?_eq_getElem hi] at hByte
  exact Option.some.inj hByte

/-- A commit writes FLAGS, STEP and BUSY_JOB and no other byte. -/
theorem writeCommit_bytes (a flags step : Nat) :
    BytesAre (s.writeCommit a flags step) (a + 7) (leBytes 1 (flags / 2 * 2)) ∧ BytesAre (s.writeCommit a flags step) (a + 8) (leBytes 4 step) ∧
      BytesAre (s.writeCommit a flags step) (a + 56) (leBytes 2 0) ∧ BytesKept s (s.writeCommit a flags step) [(a + 7, 5), (a + 56, 2)] := by
  have hLine := commitLine_getElem? (length_read s a 64) flags step
  refine ⟨writeCommit_bytesAre s (by decide) fun i hi => ?_, writeCommit_bytesAre s (by decide) fun i hi => ?_,
    writeCommit_bytesAre s (by decide) fun i hi => ?_, fun b _ hb => ?_⟩
  · grind
  · grind
  · grind
  · have hFlags : b < a + 7 ∨ a + 7 + 5 ≤ b := hb (a + 7, 5) (by simp)
    have hJob : b < a + 56 ∨ a + 56 + 2 ≤ b := hb (a + 56, 2) (by simp)
    have hByte := writeCommit_byte s a flags step b
    rw [hLine, getElem?_read] at hByte
    grind

theorem writeCommit_beside (a flags step : Nat) : Beside s (s.writeCommit a flags step) :=
  (write_beside s _ _ _).trans (llc_accessed _ _ _).beside

/-- A commit's write takes no step in flight further. -/
theorem writeCommit_shards (a flags step j : Nat) :
    ((s.writeCommit a flags step).jobRun j).step.map StepRun.shards = (s.jobRun j).step.map StepRun.shards := by
  refine ((llc_accessed _ a 64).shards j).trans ?_
  rw [State.jobRun, write_lkp]
  rfl

theorem countShard_shards {j n : Nat} (h : (s.jobRun j).step.map StepRun.shards = some n) :
    ((s.countShard j).jobRun j).step.map StepRun.shards = some (n + 1) := by
  obtain ⟨x, hx, rfl⟩ := Option.map_eq_some_iff.mp h
  rw [State.countShard, State.modStep, modJob_same, hx]
  rfl

/-! ### What an event leaves (09 R280) -/

theorem raised_lastEvent {s t : State} {code job : Nat} {source : W32} (h : Raised s t code job source) : LastEvent t code := by
  obtain ⟨e, -, hEvent, -, -, -, hLast⟩ := h
  rw [LastEvent, hLast, Option.map_some, hEvent]

/-- An event counts as the first since an earlier state where none was raised in between. -/
theorem raised_of_unraised {s t u : State} {code job : Nat} {source : W32} (h : Unraised s t) (g : Raised t u code job source) :
    Raised s u code job source := by
  obtain ⟨hRas, -, -⟩ := h
  rwa [Raised, ← hRas]

/-- The state in which an NMU's instruction has raised an event of its shard, written a scalar register and retired. -/
def reported (t : State) (d : Fin 4) (code a d0 d1 : Nat) (k : BitVec 6) (v : W64) (p : Bool) : State :=
  ((t.updEvent d code a d0 d1).modU (.nmu d) fun u => u.setX k v p).retire (.nmu d)

section
variable {s} {t : State} {d : Fin 4} {sp : Spans}

theorem updEvent_dispatched (h : Dispatched s t d) (code a d0 d1 : Nat) : Dispatched s (t.updEvent d code a d0 d1) d := by
  unfold State.updEvent
  exact (h.beside (raise_beside t _)).modNmu rfl

theorem reported_puts (hr : Ready s (.nmu d) sp) (h : Dispatched s t d) (code a d0 d1 : Nat) (k : BitVec 6) (v : W64) (p : Bool) :
    Puts s (reported t d code a d0 d1 k v p) d k v p := by
  have hEvent := updEvent_dispatched h code a d0 d1
  rw [reported, hEvent.retire_eq hr rfl]
  exact hEvent.puts k v p

theorem reported_memory (hr : Ready s (.nmu d) sp) (h : Dispatched s t d) (code a d0 d1 : Nat) (k : BitVec 6) (v : W64) (p : Bool) :
    MemoryKept t (reported t d code a d0 d1 k v p) := by
  rw [reported, (updEvent_dispatched h code a d0 d1).retire_eq hr rfl]
  exact ⟨rfl, rfl, rfl⟩

theorem reported_raised (hr : Ready s (.nmu d) sp) (h : Dispatched s t d) (code a d0 d1 : Nat) (k : BitVec 6) (v : W64) (p : Bool) :
    Raised t (reported t d code a d0 d1 k v p) code s.nmu[d].u.job (sourceWord t.cpl.node 2 d) := by
  have hJob : t.nmu[d].u.job = s.nmu[d].u.job := by rw [h.unit]
  rw [reported, (updEvent_dispatched h code a d0 d1).retire_eq hr rfl, ← hJob]
  exact raise_raised t { code, job := t.nmu[d].u.job, ctx := t.nmu[d].u.ctx, kind := 2, part := d, addr := a, d0, d1 }

end

/-! ### The operations -/

/-- The word names scalar registers alone, and no bit of IMM but the operation's (09 R279). -/
structure Word (w : CtlWord) : Prop where
  d   : w.d.toNat < 32
  a   : w.a.toNat < 32
  b   : w.b.toNat < 32
  c   : w.c.toNat < 32
  low : w.low.toNat < 4

/-- The NMU is ready for an LRATE of legal form whose shard and step number are unpoisoned. -/
structure Legal (s : State) (d : Fin 4) (w : CtlWord) : Prop where
  ready : Ready s (.nmu d) {}
  word  : Word w
  regA  : s.nmu[d].u.xp w.a = false
  regB  : s.nmu[d].u.xp w.b = false

section
variable (d : Fin 4) (w : CtlWord)

/-- The address of the header that the word names. -/
def headerAddr : Nat := (s.nmu[d].u.x w.a).toNat

/-- The header that the word names. -/
def header : Shard := readShard s (headerAddr s d w)

/-- The step number that the word names. -/
def stepNo : W64 := s.nmu[d].u.x w.b

/-- The address of the schedule that the word names. -/
def schedAddr : Nat := (s.nmu[d].u.x w.c).toNat

/-- The tests of COMMIT (R281): the header can be read, and is BUSY for this job at this step. -/
def commits : Bool :=
  decide (headerAddr s d w % 64 = 0) && inWindow s d (headerAddr s d w) 64 && (header s d w).busy &&
    decide ((header s d w).busyJob = s.nmu[d].u.job) && decide ((header s d w).step = (stepNo s d w).toNat)

theorem commits_iff : commits s d w = true ↔ headerAddr s d w % 64 = 0 ∧ inWindow s d (headerAddr s d w) 64 = true ∧
    (header s d w).busy = true ∧ (header s d w).busyJob = s.nmu[d].u.job ∧ (header s d w).step = (stepNo s d w).toNat := by
  simp only [commits, Bool.and_eq_true, decide_eq_true_eq, and_assoc]

/-- The state in which the word has dispatched and its header been read. -/
def headerRead : State := (s.fetched (.nmu d)).touchHeader d (headerAddr s d w)

/-- The state in which CHECK has read the header and forgotten the poison of the shard before (09 R290). -/
def checking : State := (headerRead s d w).modNmu d fun x => { x with poisonW := false }

/-- The state in which CHECK has read the schedule and taken the shard's areas. -/
def taken : State := ((checking s d w).touch (.nmu d) (schedAddr s d w) 64).takeShard d (headerAddr s d w) (header s d w)

/-- The state in which CHECK has marked the header of a shard that it accepts. -/
def accepted : State := (taken s d w).markBusy (headerAddr s d w) (header s d w).flags s.nmu[d].u.job

/-- The state in which COMMIT has written the header and counted the shard. -/
def committed : State :=
  ((headerRead s d w).writeCommit (headerAddr s d w) (header s d w).flags ((stepNo s d w).toNat + 1)).countShard s.nmu[d].u.job

/-! ### The states on the way -/

theorem touchHeader_accessed (a : Nat) : Accessed s (s.touchHeader d a) := by
  unfold State.touchHeader
  split
  · exact touch_accessed s d a 64
  · exact Accessed.refl s

theorem headerRead_dispatched : Dispatched s (headerRead s d w) d :=
  (fetched_dispatched s d).beside (touchHeader_accessed _ d _).beside

theorem headerRead_alike : Alike s (headerRead s d w) := (fetched_alike s d).trans (touchHeader_accessed _ d _).toAlike

/-- Reading a header raises no event where the slices' counters have room. -/
theorem headerRead_unraised (h : LlcRoom s) : Unraised s (headerRead s d w) := by
  unfold headerRead State.touchHeader
  split
  · exact touch_unraised (s.fetched (.nmu d)) d _ (by decide) h
  · exact ⟨rfl, rfl, rfl⟩

theorem checking_dispatched : Dispatched s (checking s d w) d := (headerRead_dispatched s d w).modNmu rfl

theorem checking_alike : Alike s (checking s d w) := (headerRead_alike s d w).trans (modNmu_alike _ d _)

theorem taken_dispatched : Dispatched s (taken s d w) d := by
  unfold taken State.takeShard
  exact ((checking_dispatched s d w).beside (touch_accessed _ d _ _).beside).modNmu rfl

theorem taken_alike : Alike s (taken s d w) := by
  unfold taken State.takeShard
  exact ((checking_alike s d w).trans (touch_accessed _ d _ _).toAlike).trans (modNmu_alike _ d _)

theorem accepted_dispatched : Dispatched s (accepted s d w) d := (taken_dispatched s d w).beside (markBusy_beside _ _ _ _)

theorem committed_dispatched : Dispatched s (committed s d w) d :=
  ((headerRead_dispatched s d w).beside (writeCommit_beside _ _ _ _)).beside (modStep_beside _ _ _)

end

section
variable {s} {d : Fin 4} {w : CtlWord}

/-! ### What each operation comes to -/

/-- An LRATE of legal form, whose operands are unpoisoned and whose schedule has no event due, has its operation's effect and retires. -/
theorem lrate_acts {op : Nat} {key : List (BitVec 6)} {chk : Fin 4 → State → Option Nat} {eff : Fin 4 → State → State}
    (h : Legal s d w) (hop : op < 4) (hk : ∀ k ∈ key, s.nmu[d].u.xp k = false) (hc : chk d (s.fetched (.nmu d)) = none) :
    lrate op key chk eff (.nmu d) w s = (eff d (s.fetched (.nmu d))).retire (.nmu d) := by
  obtain ⟨hD, hA, hB, hC, hLow⟩ := h.word
  have hForm : (BitVec.ofNat 30 (w.low.toNat / 4 * 4 + op)).toNat / 4 = 0 := by
    rw [BitVec.toNat_ofNat]
    omega
  unfold lrate
  dsimp only
  rw [ctl_acts h.ready]
  · simp [wordOk, useOk, layOk, hD, hA, hB, hC]
  · rw [Res.isNmu, if_pos rfl, List.any_eq_false]
    intro k hkey
    rw [fetched_xp, show s.unit (.nmu d) = s.nmu[d].u from rfl, hk k hkey]
    decide
  · rw [hForm, if_neg (by decide), hc]

theorem fetched_nmu_x (k : BitVec 6) : (s.fetched (.nmu d)).nmu[d].u.x k = s.nmu[d].u.x k := fetched_x s (.nmu d) k

theorem fetched_nmu_xp (k : BitVec 6) : (s.fetched (.nmu d)).nmu[d].u.xp k = s.nmu[d].u.xp k := fetched_xp s (.nmu d) k

theorem fetched_nmu_job : (s.fetched (.nmu d)).nmu[d].u.job = s.nmu[d].u.job := fetched_job s (.nmu d)

theorem fetched_headerAddr : ((s.fetched (.nmu d)).nmu[d].u.x w.a).toNat = headerAddr s d w := congrArg BitVec.toNat (fetched_nmu_x w.a)

theorem fetched_header : readShard (s.fetched (.nmu d)) (headerAddr s d w) = header s d w := fetched_readShard s d _

theorem fetched_stepNo : (s.fetched (.nmu d)).nmu[d].u.x w.b = stepNo s d w := fetched_nmu_x w.b

theorem fetched_schedAddr : ((s.fetched (.nmu d)).nmu[d].u.x w.c).toNat = schedAddr s d w := congrArg BitVec.toNat (fetched_nmu_x w.c)

theorem fetched_touchHeader : (s.fetched (.nmu d)).touchHeader d (headerAddr s d w) = headerRead s d w := rfl

theorem headerRead_modNmu : ((headerRead s d w).modNmu d fun x => { x with poisonW := false }) = checking s d w := rfl

theorem exec_report (h : Legal s d w) : exec (.lrateReport (.nmu d) w) s = .next (reported (s.fetched (.nmu d)) d 0x0119 (headerAddr s d w)
    (stepNo s d w).toNat (schedAddr s d w % 4) w.d 0 false) := by
  change execLrateReport (.nmu d) w s = _
  unfold execLrateReport
  rw [lrate_acts h (by decide) (by simpa using h.regA) rfl]
  simp only [fetched_headerAddr, fetched_stepNo, fetched_schedAddr]
  rfl

theorem exec_biasc (h : Legal s d w) : exec (.lrateBiasc (.nmu d) w) s = .next (s.modU (.nmu d) fun u =>
    advanced (u.setX w.d ((biasOf ((u.x w.c).setWidth 32) (u.x w.b).toNat).setWidth 64) (u.xp w.c))) := by
  change execLrateBiasc (.nmu d) w s = _
  unfold execLrateBiasc
  rw [lrate_acts h (by decide) (by simpa using h.regB) rfl, (fetched_dispatched s d).retire_eq h.ready rfl]
  simp only [fetched_nmu_x, fetched_nmu_xp]
  rw [State.fetched, modU_modU]
  exact congrArg Host.Outcome.next (modU_congr rfl)

theorem headerRead_nmu : (headerRead s d w).nmu = (s.fetched (.nmu d)).nmu := (touchHeader_accessed _ d _).nmu

theorem headerRead_inWindow (a n : Nat) : inWindow (headerRead s d w) d a n = inWindow s d a n := by
  rw [inWindow, headerRead_nmu]
  exact fetched_inWindow s d a n

theorem headerRead_poisonW : (headerRead s d w).nmu[d].poisonW = s.nmu[d].poisonW := by
  rw [headerRead_nmu, fetched_nmu]

/-- COMMIT tests the header, and then writes it or answers HDR_BAD (R281). -/
theorem exec_commit (h : Legal s d w) (hp : s.nmu[d].poisonW = false) : exec (.lrateCommit (.nmu d) w) s = .next (
    if commits s d w then ((committed s d w).modU (.nmu d) fun u => u.setX w.d 0 (s.poisonedRange (headerAddr s d w) 64)).retire (.nmu d)
    else reported (headerRead s d w) d 0x011A (headerAddr s d w) (header s d w).step (stepNo s d w).toNat w.d 0x8400000000000000 false) := by
  change execLrateCommit (.nmu d) w s = _
  unfold execLrateCommit
  rw [lrate_acts h (by decide) (by simpa using ⟨h.regA, h.regB⟩) rfl]
  simp only [fetched_headerAddr, fetched_stepNo, fetched_nmu_job, fetched_header, fetched_touchHeader, headerRead_poisonW, hp,
    headerRead_inWindow, (headerRead_alike s d w).poisonedRange, Bool.false_eq_true, if_false]
  change Host.Outcome.next (State.retire (if commits s d w then _ else _) _) = _
  split
  · rfl
  · rfl

/-- CHECK answers the status of a shard that does not pass, and raises its event (R280). -/
theorem exec_check_refused (h : Legal s d w) (hc : s.nmu[d].u.xp w.c = false) {status event : Nat}
    (hStatus : checkStatus s d (headerAddr s d w) (stepNo s d w) = some (status, event)) :
    exec (.lrateCheck (.nmu d) w) s = .next (reported (checking s d w) d event (headerAddr s d w) (header s d w).step (stepNo s d w).toNat
      w.d (BitVec.ofNat 64 (status * 2 ^ 56)) (inWindow s d (headerAddr s d w) 64 && s.poisonedRange (headerAddr s d w) 64)) := by
  change execLrateCheck (.nmu d) w s = _
  unfold execLrateCheck
  rw [lrate_acts h (by decide) (by simpa using ⟨h.regA, h.regB, hc⟩)]
  · simp only [fetched_headerAddr, fetched_stepNo, fetched_header, fetched_touchHeader, fetched_checkStatus, hStatus,
      fetched_inWindow, (fetched_alike s d).poisonedRange]
    rfl
  · simp only [fetched_headerAddr, fetched_stepNo, fetched_checkStatus, hStatus]
    rfl

/-- CHECK accepts a shard that passes and answers its rate (R280, R286). -/
theorem exec_check_accepted (h : Legal s d w) (hk : AllKeyed s) (hc : s.nmu[d].u.xp w.c = false)
    (hStatus : checkStatus s d (headerAddr s d w) (stepNo s d w) = none) (hSched : schedChk s d (schedAddr s d w) = none) :
    exec (.lrateCheck (.nmu d) w) s = .next (((accepted s d w).modU (.nmu d) fun u => u.setX w.d
      ((rateOf s (schedAddr s d w) (header s d w).step).setWidth 64)
      (s.poisonedRange (headerAddr s d w) 64 || s.poisonedRange (schedAddr s d w) 64)).retire (.nmu d)) := by
  have hWindow := (nativeOk_header s (nativeOk_of_accepted s hStatus)).1
  change execLrateCheck (.nmu d) w s = _
  unfold execLrateCheck
  rw [lrate_acts h (by decide) (by simpa using ⟨h.regA, h.regB, hc⟩)]
  · simp only [fetched_headerAddr, fetched_stepNo, fetched_schedAddr, fetched_nmu_job, fetched_header, fetched_touchHeader,
      fetched_checkStatus, hStatus, fetched_inWindow, (fetched_alike s d).poisonedRange, hWindow, headerRead_modNmu,
      rateOf_congr ((checking_alike s d w).byte hk), (checking_alike s d w).poisonedRange, Bool.true_and]
    rfl
  · simp only [fetched_headerAddr, fetched_stepNo, fetched_schedAddr, fetched_checkStatus, hStatus, fetched_schedChk, hSched]
    rfl

/-! ### What each operation leaves -/

/-- A shard that is accepted has its header marked, and no other byte changes. -/
theorem accepted_bytes (hStatus : checkStatus s d (headerAddr s d w) (stepNo s d w) = none) :
    BytesAre (accepted s d w) (headerAddr s d w + 7) [1] ∧ BytesAre (accepted s d w) (headerAddr s d w + 56) (leBytes 2 s.nmu[d].u.job) ∧
      BytesKept s (accepted s d w) [(headerAddr s d w + 7, 1), (headerAddr s d w + 56, 2)] := by
  have hFlags : (header s d w).flags / 2 = 0 := (nativeOk_header s (nativeOk_of_accepted s hStatus)).2
  obtain ⟨hMark, hJob, hKept⟩ := markBusy_bytes (taken s d w) (headerAddr s d w) (header s d w).flags s.nmu[d].u.job
  rw [hFlags] at hMark
  exact ⟨hMark, hJob, (taken_alike s d w).bytesKept hKept⟩

/-- A commit writes FLAGS, STEP and BUSY_JOB of the header and no other byte (R281). -/
theorem committed_bytes : BytesAre (committed s d w) (headerAddr s d w + 8) (leBytes 4 ((stepNo s d w).toNat + 1)) ∧
    BytesAre (committed s d w) (headerAddr s d w + 7) (leBytes 1 ((header s d w).flags / 2 * 2)) ∧
    BytesAre (committed s d w) (headerAddr s d w + 56) [0, 0] ∧
    BytesKept s (committed s d w) [(headerAddr s d w + 7, 5), (headerAddr s d w + 56, 2)] := by
  obtain ⟨hFlags, hStep, hJob, hKept⟩ := writeCommit_bytes (headerRead s d w) (headerAddr s d w) (header s d w).flags ((stepNo s d w).toNat + 1)
  exact ⟨hStep, hFlags, hJob, (headerRead_alike s d w).bytesKept hKept⟩

/-- A commit counts one shard of the step in flight (R289). -/
theorem committed_shards {x : StepRun} (hx : (s.jobRun s.nmu[d].u.job).step = some x) :
    ((committed s d w).jobRun s.nmu[d].u.job).step.map StepRun.shards = some (x.shards + 1) := by
  refine countShard_shards _ ?_
  rw [writeCommit_shards, (headerRead_alike s d w).shards, hx]
  rfl

/-- What an event of a shard leaves behind a header that has been read: its record, the register written, and memory as it was. -/
theorem reported_of_read (h : Legal s d w) {t : State} (hd : Dispatched s t d) (ha : Alike s t) (code a d0 d1 : Nat) (v : W64) (p : Bool)
    (hq : LlcRoom s → Unraised s t) :
    Puts s (reported t d code a d0 d1 w.d v p) d w.d v p ∧ LastEvent (reported t d code a d0 d1 w.d v p) code ∧
      (LlcRoom s → Raised s (reported t d code a d0 d1 w.d v p) code s.nmu[d].u.job (sourceWord s.cpl.node 2 d)) ∧
      MemoryKept s (reported t d code a d0 d1 w.d v p) := by
  have hRaised := reported_raised h.ready hd code a d0 d1 w.d v p
  refine ⟨reported_puts h.ready hd code a d0 d1 w.d v p, raised_lastEvent hRaised, fun hRoom => ?_,
    memoryKept_trans ha.memory (reported_memory h.ready hd code a d0 d1 w.d v p)⟩
  obtain ⟨hRas, hMgt, hCpl⟩ := hq hRoom
  rw [hCpl] at hRaised
  exact raised_of_unraised ⟨hRas, hMgt, hCpl⟩ hRaised

end

/-- Settles O27: each operation comes to one state, by `exec_check_accepted`, `exec_check_refused`, `exec_commit`, `exec_biasc` and
`exec_report`, and the clauses read that state. -/
theorem lrateOperations : Obligations.LrateOperations := by
  unfold Obligations.LrateOperations
  intro d w s r hReady hKeyed hD hA hB hC hLow u hXa hXb a h src puts
  have hLegal : Legal s d w := ⟨hReady, ⟨hD, hA, hB, hC, hLow⟩, hXa, hXb⟩
  refine ⟨fun hXc hStatus hSched => ?_, fun hXc status event hStatus => ?_, fun hPoison hAlign hWindow hBusy hJob hStep => ?_,
    fun hPoison hAlign hWindow hNot => ?_, exec_biasc hLegal, ?_⟩
  · have hDone := accepted_dispatched s d w
    refine ⟨_, exec_check_accepted hLegal hKeyed hXc hStatus hSched, ?_⟩
    rw [hDone.retire_eq hReady rfl]
    exact ⟨hDone.puts _ _ _, accepted_bytes hStatus⟩
  · exact ⟨_, exec_check_refused hLegal hXc hStatus, reported_of_read hLegal (checking_dispatched s d w) (checking_alike s d w) _ _ _ _ _ _
      (headerRead_unraised s d w)⟩
  · have hDone := committed_dispatched s d w
    have hCommits := (commits_iff s d w).mpr ⟨hAlign, hWindow, hBusy, hJob, hStep⟩
    refine ⟨_, (exec_commit hLegal hPoison).trans (congrArg _ (if_pos hCommits)), ?_⟩
    rw [hDone.retire_eq hReady rfl]
    obtain ⟨hStepNo, hFlags, hNoJob, hKept⟩ := committed_bytes (s := s) (d := d) (w := w)
    exact ⟨hDone.puts _ _ _, hStepNo, hFlags, hNoJob, hKept, fun x hx => committed_shards hx⟩
  · have hRefused : ¬ commits s d w = true := fun hCommits => by
      obtain ⟨-, -, hTests⟩ := (commits_iff s d w).mp hCommits
      exact hNot hTests
    exact ⟨_, (exec_commit hLegal hPoison).trans (congrArg _ (if_neg hRefused)), reported_of_read hLegal (headerRead_dispatched s d w)
      (headerRead_alike s d w) _ _ _ _ _ _ (headerRead_unraised s d w)⟩
  · have hFetched := fetched_dispatched s d
    exact ⟨_, exec_report hLegal, reported_puts hReady hFetched _ _ _ _ _ _ _, reported_raised hReady hFetched _ _ _ _ _ _ _,
      memoryKept_trans (fetched_alike s d).memory (reported_memory hReady hFetched _ _ _ _ _ _ _)⟩

end Sys2Proof.Machine.Lrate

/-! PROOF. The registers of the egress rings (10 R347, R348, R624): where a write of them goes, what a configuration that takes effect makes
of its ring, what records that go out leave as it was, and the obligation that rests on them. -/

namespace Sys2Proof.Machine.EgressRings

open Sys2Proof.Machine Sys2Proof.Machine.Laws Sys2Proof.Machine.NmuAccess

variable (s : State)

/-! ### Where a write of a ring's register goes (00 R10, R11; 19 R613) -/

/-- The write of the register at offset `k` among those of ring `e`: BASE and CFG are RWL fields under semaphore 4, HEAD is not. -/
def ringWrite (s : State) (p : Port) (e k : Nat) (v : W64) : State × Nat :=
  match k with
  | 0x00 => s.rwl p 4 fun s => s.egrBase e v
  | 0x08 => s.rwl p 4 fun s => s.egrCfg e v
  | 0x10 => (s.egrHead e v, 0)
  | _ => (s, 0)

/-- Through an open port, a write of a register that is no _CLR register is a plain write. -/
theorem portWrite_plain {s : State} {p : Port} (h : OpenPort s p) {off : Nat} (hAlign : off % 8 = 0) (hDef : regDefined off = true)
    (hMode : off ≠ 0x480028) (v : W64) (hClr : s.clrWrite off v.toNat = none) : s.portWrite p off v = (s.plainWrite p off v).1 := by
  rw [portWrite_open s h.on off hAlign, State.regWrite]
  simp [h.ready, h.free, hAlign, hDef, hMode, hClr]

/-- The offsets of the rings' registers are none of those that a plain write names one by one. -/
theorem plainWrite_ring (p : Port) {e k : Nat} (he : e < 1024) (hk : k < 0x20) (v : W64) :
    s.plainWrite p (0x44000 + e * 0x20 + k) v = ringWrite s p e k v := by
  generalize hOff : 0x44000 + e * 0x20 + k = off
  have hRing : (off - 0x44000) / 0x20 = e := by omega
  have hReg : off % 0x20 = k := by omega
  unfold State.plainWrite
  rw [dif_neg (by omega)]
  split
  case h_19 =>
    subst hRing hReg
    exact if_pos (by omega)
  all_goals omega

theorem clrWrite_ring {off : Nat} (hLow : 0x44000 ≤ off) (hHigh : off < 0x4C000) (v : Nat) : s.clrWrite off v = none := by
  unfold State.clrWrite
  split
  case h_9 => exact if_pos (by omega)
  all_goals omega

theorem inRow_of {o base step n i : Nat} (ho : o = base + step * i) (hi : i < n) (hs : 0 < step) : inRow o base step n = true := by
  have hLt : step * i < step * n := Nat.mul_lt_mul_of_pos_left hi hs
  subst ho
  simp [inRow, hLt]

theorem regDefined_ring {off : Nat} (hLow : 0x44000 ≤ off) (hHigh : off < 0x4C000) (hAlign : off % 8 = 0) : regDefined off = true := by
  have hRow : inRow (off - 0x40000) 0x4000 8 4096 = true := inRow_of (i := (off - 0x44000) / 8) (by omega) (by omega) (by decide)
  rw [regDefined, if_neg (by omega), if_neg (by omega), if_neg (by omega), if_pos (by omega)]
  simp only [hRow, Bool.or_true]

/-- Through an open port, a write at an aligned offset among a ring's registers is that register's write. -/
theorem portWrite_ring {s : State} {p : Port} (h : OpenPort s p) {e k : Nat} (he : e < 1024) (hk : k < 0x20) (hAlign : k % 8 = 0)
    (v : W64) : s.portWrite p (0x44000 + e * 0x20 + k) v = (ringWrite s p e k v).1 := by
  rw [portWrite_plain h (by omega) (regDefined_ring (by omega) (by omega) (by omega)) (by omega) v
    (clrWrite_ring s (by omega) (by omega) _), plainWrite_ring s p he hk]

/-! ### One ring becomes another -/

/-- Ring `e` has become `r`; no other ring, no record held, no unit, no part of the device and no byte of memory has changed. -/
def RingBecomes (s t : State) (e : Nat) (r : EgrRing) : Prop :=
  t.egrRing e = r ∧ (∀ k, k ≠ e → t.egrRing k = s.egrRing k) ∧ t.lkp.held = s.lkp.held ∧ t.reach = s.reach ∧ t.nmu = s.nmu ∧
    MemoryKept s t ∧ DeviceKept s t

theorem RingBecomes.refl (e : Nat) : RingBecomes s s e (s.egrRing e) := by
  simp [RingBecomes, MemoryKept, DeviceKept]

theorem RingBecomes.modEgr {s t : State} {e : Nat} {r : EgrRing} (h : RingBecomes s t e r) (f : EgrRing → EgrRing) :
    RingBecomes s (t.modEgr e f) e (f r) := by
  obtain ⟨hRing, hOthers, hHeld, hReach, hNmu, hMem, hDev⟩ := h
  exact ⟨by rw [modEgr_same, hRing], fun k hk => (modEgr_ne t hk f).trans (hOthers k hk), hHeld, hReach, hNmu, hMem, hDev⟩

theorem modEgr_ringBecomes (e : Nat) (f : EgrRing → EgrRing) : RingBecomes s (s.modEgr e f) e (f (s.egrRing e)) :=
  (RingBecomes.refl s e).modEgr f

theorem RingBecomes.trans {s t u : State} {e : Nat} {r q : EgrRing} (h : RingBecomes s t e r) (g : RingBecomes t u e q) :
    RingBecomes s u e q := by
  obtain ⟨-, hOthers, hHeld, hReach, hNmu, hMem, hDev⟩ := h
  obtain ⟨gRing, gOthers, gHeld, gReach, gNmu, gMem, gDev⟩ := g
  exact ⟨gRing, fun k hk => (gOthers k hk).trans (hOthers k hk), gHeld.trans hHeld, gReach.trans hReach, gNmu.trans hNmu,
    memoryKept_trans hMem gMem, deviceKept_trans hDev gDev⟩

/-! ### A configuration that takes effect (10 R347, R624) -/

/-- No record is held for the ring. -/
def Unheld (s : State) (e : Nat) : Prop := ∀ q ∈ s.lkp.held, q.egr ≠ e

/-- A change of the ring itself holds no record for it. -/
theorem Unheld.modEgr {s : State} {e : Nat} (h : Unheld s e) (f : EgrRing → EgrRing) : Unheld (s.modEgr e f) e := h

/-- Records go out only of those held for the ring. -/
theorem drainHeld_unheld {s : State} {e : Nat} (h : Unheld s e) (n : Nat) : s.drainHeld e n = s := by
  cases n with
  | zero => rfl
  | succ n =>
    have hNone : (s.lkp.held.find? fun q => q.egr == e) = none := List.find?_eq_none.mpr (by simpa [Unheld] using h)
    simp only [State.drainHeld, hNone]

/-- The ring once its pending values have taken effect: a new base or size empties it. -/
def applied (g : EgrRing) : EgrRing :=
  let base := g.newBase.getD g.base
  let cfg := g.newCfg.getD (g.enable, g.vector, g.size)
  let kept := if base ≠ g.base ∨ cfg.2.2 ≠ g.size then { g with tail := 0, head := 0 } else g
  { kept with base, enable := cfg.1, vector := cfg.2.1, size := cfg.2.2, newBase := none, newCfg := none }

theorem applied_of_none {g : EgrRing} (hBase : g.newBase = none) (hCfg : g.newCfg = none) : applied g = g := by
  obtain ⟨_, _, _, _, _, _, newBase, newCfg⟩ := g
  obtain rfl : newBase = none := hBase
  obtain rfl : newCfg = none := hCfg
  simp [applied]

theorem applied_newBase {g : EgrRing} (hCfg : g.newCfg = none) (v : W64) : applied { g with newBase := some v } =
    { g with base := v, newBase := none, head := if v = g.base then g.head else 0, tail := if v = g.base then g.tail else 0 } := by
  by_cases h : v = g.base <;> simp [applied, hCfg, h]

theorem applied_newCfg {g : EgrRing} (hBase : g.newBase = none) (en : Bool) (vec : BitVec 11) (size : BitVec 5) :
    applied { g with newCfg := some (en, vec, size) } = { g with
      enable := en, vector := vec, size, newCfg := none
      head := if size = g.size then g.head else 0, tail := if size = g.size then g.tail else 0 } := by
  by_cases h : size = g.size <;> simp [applied, hBase, h]

/-- Dropping the records held for a ring that has none drops nothing. -/
theorem dropHeld_unheld {s : State} {e : Nat} (h : Unheld s e) :
    { s with lkp := { s.lkp with held := s.lkp.held.filter fun q => q.egr != e } } = s := by
  rw [List.filter_eq_self.mpr (by simpa [Unheld] using h)]

/-- Where no record is held for the ring, its configuration takes effect on the ring and on nothing else. -/
theorem applyEgr_ringBecomes {e : Nat} (h : Unheld s e) : RingBecomes s (s.applyEgr e) e (applied (s.egrRing e)) := by
  unfold State.applyEgr
  dsimp only
  split
  case isTrue hNone =>
    simp only [Bool.and_eq_true, Option.isNone_iff_eq_none] at hNone
    obtain ⟨hBase, hCfg⟩ := hNone
    rw [drainHeld_unheld h, applied_of_none hBase hCfg]
    exact RingBecomes.refl s e
  case isFalse =>
    split
    case isTrue hNew =>
      rw [dropHeld_unheld (h.modEgr _), drainHeld_unheld ((h.modEgr _).modEgr _), applied, if_pos hNew]
      exact (modEgr_ringBecomes s e _).modEgr _
    case isFalse hSame =>
      rw [drainHeld_unheld (h.modEgr _), applied, if_neg hSame]
      exact modEgr_ringBecomes s e _

/-! ### The three writes (10 R347, R348, R624) -/

/-- A field of a word's value is the field of the word (00 R5). -/
theorem bits_toNat (v : W64) (lo len : Nat) : bits v.toNat lo len = (v.extractLsb' lo len).toNat := by
  rw [bits, BitVec.extractLsb'_toNat, Nat.shiftRight_eq_div_pow]

theorem bitAt_toNat (v : W64) (i : Nat) : bitAt v.toNat i = v.getLsbD i := by
  rw [BitVec.getLsbD, Nat.testBit_eq_decide_div_mod_eq]
  rfl

/-- A write of BASE leaves its value pending, and that takes effect at once unless a schedule is in force. -/
theorem egrBase_eq {e : Nat} {v : W64} (hAlign : v.toNat % 64 = 0) : (s.egrBase e v).1 =
    (s.modEgr e fun g => { g with newBase := some v }).unlessForced fun s => s.applyEgr e := by
  simp [State.egrBase, hAlign]

/-- The values that a write of CFG leaves pending. -/
def cfgWord (v : W64) : Bool × BitVec 11 × BitVec 5 := (v.getLsbD 16, v.extractLsb' 5 11, v.extractLsb' 0 5)

theorem egrCfg_eq {e : Nat} {v : W64} (hLow : 4 ≤ (v.extractLsb' 0 5).toNat) (hHigh : (v.extractLsb' 0 5).toNat ≤ 16) :
    (s.egrCfg e v).1 = (s.modEgr e fun g => { g with newCfg := some (cfgWord v) }).unlessForced fun s => s.applyEgr e := by
  have hServed : (decide ((v.extractLsb' 0 5).toNat < 4) || decide (16 < (v.extractLsb' 0 5).toNat)) = false := by
    rw [decide_eq_false (Nat.not_lt.mpr hLow), decide_eq_false (Nat.not_lt.mpr hHigh), Bool.or_false]
  simp only [State.egrCfg, bits_toNat, bitAt_toNat, BitVec.ofNat_toNat, BitVec.setWidth_eq, hServed, Bool.false_eq_true, if_false, cfgWord]

theorem unlessForced_inForce {s : State} (h : s.lkp.inForce = true) (f : State → State) : s.unlessForced f = s := if_pos h

theorem unlessForced_idle {s : State} (h : s.lkp.inForce = false) (f : State → State) : s.unlessForced f = f s := by
  simp [State.unlessForced, h]

/-- A change of the ring that is to take effect, where no schedule is in force and no record is held for the ring. -/
theorem takesEffect_ringBecomes {s : State} {e : Nat} (hIdle : s.lkp.inForce = false) (h : Unheld s e) (f : EgrRing → EgrRing) :
    RingBecomes s ((s.modEgr e f).unlessForced fun s => s.applyEgr e) e (applied (f (s.egrRing e))) := by
  rw [unlessForced_idle (s := s.modEgr e f) hIdle, ← modEgr_same s e f]
  exact (modEgr_ringBecomes s e f).trans (applyEgr_ringBecomes _ (h.modEgr f))

/-- A change of the ring while a schedule is in force, whatever its pending values are. -/
theorem waits_ringBecomes {s : State} {e : Nat} (hForced : s.lkp.inForce = true) (f : EgrRing → EgrRing) :
    RingBecomes s ((s.modEgr e f).unlessForced fun s => s.applyEgr e) e (f (s.egrRing e)) := by
  rw [unlessForced_inForce (s := s.modEgr e f) hForced]
  exact modEgr_ringBecomes s e f

theorem egrHead_accepted {e : Nat} {h : W32} (hRoom : ((s.egrRing e).tail - h).toNat ≤ 2 ^ (s.egrRing e).size.toNat) :
    s.egrHead e (h.setWidth 64) = (s.modEgr e fun g => { g with head := h }).drainHeld e s.lkp.held.length := by
  have hWord : (h.setWidth 64).setWidth 32 = h := by simp
  simp only [State.egrHead, hWord, if_pos hRoom]
  rfl

theorem egrHead_refused {e : Nat} {h : W32} (hPast : 2 ^ (s.egrRing e).size.toNat < ((s.egrRing e).tail - h).toNat) :
    s.egrHead e (h.setWidth 64) = s.raise { code := 0x0413, kind := 6, addr := e, d0 := h.toNat } := by
  have hWord : (h.setWidth 64).setWidth 32 = h := by simp
  have hNat : (h.setWidth 64).toNat = h.toNat := BitVec.toNat_setWidth_of_le (by decide)
  simp only [State.egrHead, hWord, if_neg (Nat.not_le.mpr hPast), hNat]

/-! ### Records that go out (10 R328, R331) -/

/-- The ring's HEAD, the units and what is kept of events are as they were. -/
structure HeadKept (s t : State) (e : Nat) : Prop where
  head  : (t.egrRing e).head = (s.egrRing e).head
  mgt   : t.mgt = s.mgt
  ras   : t.ras = s.ras
  reach : t.reach = s.reach
  nmu   : t.nmu = s.nmu

theorem HeadKept.refl (e : Nat) : HeadKept s s e := ⟨rfl, rfl, rfl, rfl, rfl⟩

theorem HeadKept.trans {s t u : State} {e : Nat} (h : HeadKept s t e) (g : HeadKept t u e) : HeadKept s u e :=
  ⟨g.head.trans h.head, g.mgt.trans h.mgt, g.ras.trans h.ras, g.reach.trans h.reach, g.nmu.trans h.nmu⟩

/-- A vector that is raised is marked pending or leaves the device (13 R436). -/
theorem msix_cases (v : Nat) : ∃ p o, s.msix v = { s with pci := p, out := o } := by
  unfold State.msix
  split
  · exact ⟨s.pci, s.out, rfl⟩
  split
  · exact ⟨_, s.out, rfl⟩
  split
  · exact ⟨s.pci, _, rfl⟩
  · exact ⟨s.pci, s.out, rfl⟩

theorem dueVec_headKept (v j e : Nat) : HeadKept s (s.dueVec v j) e := by
  unfold State.dueVec
  split
  · obtain ⟨p, o, h⟩ := msix_cases s v
    rw [h]
    exact ⟨rfl, rfl, rfl, rfl, rfl⟩
  · exact ⟨rfl, rfl, rfl, rfl, rfl⟩

theorem dueVector_headKept (k j e : Nat) : HeadKept s (s.dueVector k j) e := by
  unfold State.dueVector
  dsimp only
  split
  · exact dueVec_headKept s _ j e
  · exact HeadKept.refl s e

theorem held_headKept (l : List ComplRec) (e : Nat) : HeadKept s { s with lkp := { s.lkp with held := l } } e := ⟨rfl, rfl, rfl, rfl, rfl⟩

/-- A record that is written moves TAIL of its ring alone (10 R328). -/
theorem writeRecord_headKept (r : ComplRec) (e : Nat) : HeadKept s (s.writeRecord r) e := by
  refine ⟨?_, rfl, rfl, rfl, rfl⟩
  unfold State.writeRecord
  dsimp only
  by_cases h : e = r.egr
  · subst h
    rw [modEgr_same]
    rfl
  · rw [modEgr_ne _ h]
    rfl

/-- Records that go out leave HEAD to the host. -/
theorem drainHeld_headKept (e n : Nat) : HeadKept s (s.drainHeld e n) e := by
  induction n generalizing s with
  | zero => exact HeadKept.refl s e
  | succ n ih =>
    unfold State.drainHeld
    dsimp only
    split
    case h_1 r _ =>
      split
      case isTrue =>
        exact (((held_headKept s _ e).trans (writeRecord_headKept _ r e)).trans (dueVector_headKept _ e 0xFFFF e)).trans (ih _)
      case isFalse => exact HeadKept.refl s e
    case h_2 => exact HeadKept.refl s e

/-! ### The commands -/

section

variable {s : State} {p : Port} {e : BitVec 10} {v : W64}

theorem exec_base (hOpen : OpenPort s p) (hHolds : s.holds p 4 = true) :
    exec (.egrRingConfig p e false v) s = .next (s.egrBase e.toNat v).1 := by
  change Host.Outcome.next (s.portWrite p (0x44000 + e.toNat * 0x20 + 0x00) v) = _
  rw [portWrite_ring hOpen e.isLt (by decide) (by decide)]
  simp only [ringWrite, State.rwl, hHolds, if_true]

theorem exec_cfg (hOpen : OpenPort s p) (hHolds : s.holds p 4 = true) :
    exec (.egrRingConfig p e true v) s = .next (s.egrCfg e.toNat v).1 := by
  change Host.Outcome.next (s.portWrite p (0x44000 + e.toNat * 0x20 + 0x08) v) = _
  rw [portWrite_ring hOpen e.isLt (by decide) (by decide)]
  simp only [ringWrite, State.rwl, hHolds, if_true]

theorem exec_head (hOpen : OpenPort s p) (h : W32) :
    exec (.egrHeadWrite p e h) s = .next (s.egrHead e.toNat (h.setWidth 64)) := by
  change Host.Outcome.next (s.portWrite p (0x44000 + e.toNat * 0x20 + 0x10) (h.setWidth 64)) = _
  rw [portWrite_ring hOpen e.isLt (by decide) (by decide)]
  rfl

end

/-- Settles O35: each write is the ring's own operation, by `portWrite_ring`; it waits by `waits_ringBecomes` or takes effect by
`takesEffect_ringBecomes`, and a HEAD that is accepted lets records go out, which leave it (`drainHeld_headKept`). -/
theorem egressRingRegisters : Obligations.EgressRingRegisters := by
  unfold Obligations.EgressRingRegisters
  intro p e v s hOpen g unheld ring
  refine ⟨fun hHolds hAlign hForced => ?_, fun hHolds hAlign hIdle hUnheld hCfg => ?_, fun hHolds hLow hHigh hForced => ?_,
    fun hHolds hLow hHigh hIdle hUnheld hBase => ?_, fun h hRoom hUnheld => ?_, fun h hRoom => ?_, fun h hPast => ?_⟩
  · refine ⟨_, exec_base hOpen hHolds, ?_⟩
    rw [egrBase_eq s hAlign]
    exact waits_ringBecomes hForced _
  · refine ⟨_, exec_base hOpen hHolds, ?_⟩
    rw [egrBase_eq s hAlign, ← applied_newBase hCfg]
    exact takesEffect_ringBecomes hIdle hUnheld _
  · refine ⟨_, exec_cfg hOpen hHolds, ?_⟩
    rw [egrCfg_eq s hLow hHigh]
    exact waits_ringBecomes hForced _
  · refine ⟨_, exec_cfg hOpen hHolds, ?_⟩
    rw [egrCfg_eq s hLow hHigh, ← applied_newCfg hBase]
    exact takesEffect_ringBecomes hIdle hUnheld _
  · refine ⟨_, exec_head hOpen h, ?_⟩
    rw [egrHead_accepted s hRoom, drainHeld_unheld (Unheld.modEgr hUnheld _)]
    exact modEgr_ringBecomes s e.toNat _
  · refine ⟨_, exec_head hOpen h, ?_⟩
    rw [egrHead_accepted s hRoom]
    obtain ⟨hHead, hMgt, hRas, hReach, hNmu⟩ := drainHeld_headKept (s.modEgr e.toNat fun g => { g with head := h }) e.toNat s.lkp.held.length
    exact ⟨by rw [hHead, modEgr_same], hMgt, hRas, hReach, hNmu⟩
  · rw [exec_head hOpen h, egrHead_refused s hPast]

end Sys2Proof.Machine.EgressRings

/-! PROOF. What posting completion records and ending steps leave alone (10 R319, R328 to R334): everything but the device's books. -/

namespace Sys2Proof.Machine.Faults

open Sys2Proof.Machine Sys2Proof.Machine.Laws Sys2Proof.Machine.Frames Sys2Proof.Machine.EgressRings

variable (s : State)

/-! ### What posting a record leaves alone (10 R328 to R331) -/

/-- The state without its books: the schedule's records, the rings and records kept for the ports, and what has left the device. -/
def unbooked : State :=
  { s with out := [], lkp := {}, cpl := {}, mgt := {}, pci := {}, ras := { s.ras with seq := 0, errQ := [] } }

@[simp] theorem raise_unbooked (e : Ev) : unbooked (s.raise e) = unbooked s := rfl

@[simp] theorem modJob_unbooked (j : Nat) (f : JobRun → JobRun) : unbooked (s.modJob j f) = unbooked s := rfl

@[simp] theorem modStep_unbooked (j : Nat) (f : StepRun → StepRun) : unbooked (s.modStep j f) = unbooked s := rfl

@[simp] theorem stopStep_unbooked (j : Nat) (w : StepEnd) : unbooked (s.stopStep j w) = unbooked s := rfl

@[simp] theorem writeRecord_unbooked (r : ComplRec) : unbooked (s.writeRecord r) = unbooked s := rfl

@[simp] theorem msix_unbooked (v : Nat) : unbooked (s.msix v) = unbooked s := by
  obtain ⟨p, o, h⟩ := msix_cases s v
  rw [h]
  rfl

@[simp] theorem dueVec_unbooked (v j : Nat) : unbooked (s.dueVec v j) = unbooked s := by
  unfold State.dueVec
  split
  · exact msix_unbooked s v
  · rfl

@[simp] theorem dueVector_unbooked (e j : Nat) : unbooked (s.dueVector e j) = unbooked s := by
  unfold State.dueVector
  dsimp only
  split
  · exact dueVec_unbooked s _ j
  · rfl

@[simp] theorem post_unbooked (r : ComplRec) : unbooked (s.post r) = unbooked s := by
  unfold State.post
  dsimp only
  split
  · rw [writeRecord_unbooked, dueVector_unbooked]
  split
  · exact dueVector_unbooked s _ _
  · rw [raise_unbooked, dueVector_unbooked]

@[simp] theorem postAll_unbooked (j : Nat) (e : JobE) (x : StepRun) (status : Nat) (ev : W16) :
    unbooked (s.postAll j e x status ev) = unbooked s := by
  unfold State.postAll
  split
  · exact post_unbooked s _
  · exact foldl_keeps unbooked _ (fun t _ => post_unbooked t _) _ s

@[simp] theorem endStopped_unbooked (j : Nat) : unbooked (s.endStopped j) = unbooked s := by
  unfold State.endStopped
  split
  · next x e _ _ =>
    split
    · rfl
    · dsimp only
      rw [modJob_unbooked]
      cases x.stop with
      | none => rfl
      | failed ev => exact postAll_unbooked s j e x 2 ev
      | aborted => exact postAll_unbooked s j e x 1 0
      | flagged => exact postAll_unbooked s j e x 6 0
  · rfl

@[simp] theorem failStep_unbooked (j : Nat) (e : Ev) : unbooked (s.failStep j e) = unbooked s := by
  rw [State.failStep, endStopped_unbooked, stopStep_unbooked, raise_unbooked]

@[simp] theorem failJob_unbooked (j e : Nat) : unbooked (s.failJob j e) = unbooked s := by
  rw [State.failJob, endStopped_unbooked, stopStep_unbooked]

@[simp] theorem notePoison_unbooked (j a k : Nat) : unbooked (s.notePoison j a k) = unbooked s := by
  obtain ⟨l, h⟩ := notePoison_lkp s j a k
  rw [h]
  rfl

@[simp] theorem endSteps_unbooked (pick : State → Nat → Bool) (w : StepEnd) : unbooked (s.endSteps pick w) = unbooked s :=
  foldl_keeps unbooked _ (fun t j => by rw [endStopped_unbooked, stopStep_unbooked]) _ s

/-- What every step of a fold over a state and an index keeps, the fold keeps. -/
theorem foldl_fst_keeps {α β γ : Type} (P : State → α) (g : State × γ → β → State × γ) (h : ∀ p x, P (g p x).1 = P p.1)
    (l : List β) (p : State × γ) : P (l.foldl g p).1 = P p.1 := by
  induction l generalizing p with
  | nil => rfl
  | cons x l ih => rw [List.foldl_cons, ih, h]

theorem postOk_unbooked (j : Nat) (e : JobE) (x : StepRun) : unbooked (s.postOk j e x) = unbooked s := by
  unfold State.postOk
  split
  · exact post_unbooked s _
  · exact foldl_fst_keeps unbooked _ (fun p _ => post_unbooked p.1 _) _ (s, 0)

theorem tryPost_unbooked (j : Nat) : unbooked (s.tryPost j) = unbooked s := by
  unfold State.tryPost
  split
  · next x e _ _ =>
    split
    · exact endStopped_unbooked s j
    split
    · rfl
    split
    · dsimp only
      rw [failStep_unbooked]
      split
      · exact foldl_keeps unbooked _ (fun t _ => notePoison_unbooked t _ _ _) _ s
      · rfl
    · rw [modStep_unbooked, postOk_unbooked]
  · rfl

theorem stepEnd_unbooked (j k : Nat) : unbooked (s.stepEnd j k) = unbooked s := by
  rw [State.stepEnd, tryPost_unbooked, modStep_unbooked]

end Sys2Proof.Machine.Faults

/-! PROOF. What stopping, starting and replaying work leaves alone (07 R219, R220, R239; 16 R544): the open decisions on sampled tiles, the
counters of decisions and the device's own registers. -/

namespace Sys2Proof.Machine.Faults

open Sys2Proof.Machine Sys2Proof.Machine.Laws Sys2Proof.Machine.Frames Sys2Proof.Machine.NmuAccess

variable (s : State)

/-- The decisions that are open on every reach, the counters of what was decided, and the device's own registers. -/
structure Verdicts where
  dups      : Fin 16 → List Dup
  tiles     : Perf
  mismatch  : W32
  transient : W32
  skipped   : W32
  dev       : Dev

/-- Those of a state. -/
def verdicts : Verdicts :=
  ⟨fun n => s.reach[n].dups, s.ras.dupTiles, s.ras.mismatch, s.ras.transient, s.ras.dupSkip, s.dev⟩

/-- They are none of the device's books. -/
theorem verdicts_of_unbooked {s t : State} (h : unbooked t = unbooked s) : verdicts t = verdicts s := by
  change verdicts (unbooked t) = verdicts (unbooked s)
  rw [h]

@[simp] theorem raise_verdicts (e : Ev) : verdicts (s.raise e) = verdicts s := rfl

@[simp] theorem modJob_verdicts (j : Nat) (f : JobRun → JobRun) : verdicts (s.modJob j f) = verdicts s := rfl

@[simp] theorem modStep_verdicts (j : Nat) (f : StepRun → StepRun) : verdicts (s.modStep j f) = verdicts s := rfl

@[simp] theorem modNmu_verdicts (d : Fin 4) (f : Nmu → Nmu) : verdicts (s.modNmu d f) = verdicts s := rfl

@[simp] theorem modMdie_verdicts (d : Fin 4) (f : MDie → MDie) : verdicts (s.modMdie d f) = verdicts s := rfl

@[simp] theorem bump_verdicts : verdicts s.bump = verdicts s := rfl

@[simp] theorem dropReads_verdicts (g : RemRead → Bool) : verdicts (s.dropReads g) = verdicts s := rfl

@[simp] theorem notePoison_verdicts (j a k : Nat) : verdicts (s.notePoison j a k) = verdicts s :=
  verdicts_of_unbooked (notePoison_unbooked s j a k)

@[simp] theorem stepEnd_verdicts (j k : Nat) : verdicts (s.stepEnd j k) = verdicts s :=
  verdicts_of_unbooked (stepEnd_unbooked s j k)

@[simp] theorem perfOvf_verdicts (lost : Bool) (k p o : Nat) : verdicts (s.perfOvf lost k p o) = verdicts s := by
  unfold State.perfOvf
  split
  · exact raise_verdicts s _
  · rfl

/-- A change of a reach that keeps its decisions. -/
theorem modReach_verdicts {n : Fin 16} {f : Reach → Reach} (h : (f s.reach[n]).dups = s.reach[n].dups) :
    verdicts (s.modReach n f) = verdicts s := by
  have hDups : (fun m : Fin 16 => (s.modReach n f).reach[m].dups) = fun m : Fin 16 => s.reach[m].dups := by
    funext m
    by_cases hm : m = n
    · rw [hm, modReach_same, h]
    · rw [modReach_ne s hm]
  rw [verdicts, hDups]
  rfl

@[simp] theorem modU_verdicts (r : Res) (f : Machine.Unit → Machine.Unit) : verdicts (s.modU r f) = verdicts s := by
  cases r with
  | reach n => exact modReach_verdicts s rfl
  | nmu d => rfl

/-! ### Writes and reads of memory -/

theorem writeLine_verdicts (a : Nat) (bs : List Byte) (p : Bool) : verdicts (s.writeLine a bs p) = verdicts s := by
  obtain ⟨m, k, q, d, h | ⟨e, h⟩⟩ := writeLine_cases s a bs p
  · rw [h]; rfl
  · rw [h]; rfl

@[simp] theorem write_verdicts (a : Nat) (bs : List Byte) (p : Bool) : verdicts (s.write a bs p) = verdicts s := by
  unfold State.write
  generalize bs.length / 64 + 2 = fuel
  induction fuel generalizing s a bs with
  | zero => rfl
  | succ f ih =>
    rw [State.writeGo]
    split
    · rfl
    · dsimp only
      rw [ih, writeLine_verdicts]

@[simp] theorem llc_verdicts (a n : Nat) : verdicts (s.llc a n) = verdicts s := by
  refine foldl_keeps verdicts (State.llcLine true) (fun t line => ?_) _ s
  obtain h | ⟨d, y, lost, missed, o, p, -, h⟩ := llcLine_cases t true line
  · rw [h]
  · rw [h, perfOvf_verdicts, perfOvf_verdicts, modMdie_verdicts]

/-! ### Units that stop, pass and start (07 R219, R220, R239; 10 R317) -/

@[simp] theorem stopUnit_verdicts (r : Res) : verdicts (s.stopUnit r) = verdicts s := by
  cases r with
  | reach n => exact (modReach_verdicts _ rfl).trans (modU_verdicts s _ _)
  | nmu d => exact modU_verdicts s _ _

@[simp] theorem endStopped_verdicts (j : Nat) : verdicts (s.endStopped j) = verdicts s :=
  verdicts_of_unbooked (endStopped_unbooked s j)

@[simp] theorem failOn_verdicts (r : Res) (e : Ev) : verdicts (s.failOn r e) = verdicts s := by
  rw [State.failOn, endStopped_verdicts, State.stopStep, modStep_verdicts, stopUnit_verdicts, raise_verdicts]

@[simp] theorem saveUnit_verdicts (r : Res) : verdicts (s.saveUnit r) = verdicts s := by
  unfold State.saveUnit
  dsimp only
  split
  · split
    · exact modJob_verdicts s _ _
    · rfl
  · rfl

@[simp] theorem clearUnit_verdicts (r : Res) : verdicts (s.clearUnit r) = verdicts s := by
  cases r with
  | reach n => exact (modReach_verdicts _ rfl).trans (saveUnit_verdicts s _)
  | nmu d => exact (modU_verdicts _ _ _).trans (saveUnit_verdicts s _)

@[simp] theorem passUnit_verdicts (r : Res) : verdicts (s.passUnit r) = verdicts s := by
  cases r with
  | reach n =>
    unfold State.passUnit
    dsimp only
    split
    · rw [clearUnit_verdicts, modReach_verdicts]; rfl
    · rw [modReach_verdicts, modReach_verdicts] <;> rfl
  | nmu d => exact clearUnit_verdicts s _

@[simp] theorem restore_verdicts (r : Res) (j : Nat) : verdicts (s.restore r j) = verdicts s := by
  unfold State.restore
  split
  · rw [modJob_verdicts]
    cases r with
    | reach n => exact (modReach_verdicts _ rfl).trans (modU_verdicts s _ _)
    | nmu d => exact modU_verdicts s _ _
  · rfl

@[simp] theorem markBegun_verdicts (j k : Nat) : verdicts (s.markBegun j k) = verdicts s := rfl

theorem startReach_verdicts (n : Fin 16) (a : ActSlot) (e : JobE) (x : StepRun) : verdicts (s.startReach n a e x) = verdicts s := by
  unfold State.startReach
  dsimp only
  split
  · rw [stepEnd_verdicts, markBegun_verdicts, modReach_verdicts]; rfl
  · split
    · rw [restore_verdicts, modU_verdicts, write_verdicts, modReach_verdicts]; rfl
    · rw [markBegun_verdicts, modReach_verdicts _ rfl, modU_verdicts, write_verdicts, modReach_verdicts]; rfl

theorem startNmu_verdicts (d : Fin 4) (a : ActSlot) (e : JobE) (x : StepRun) : verdicts (s.startNmu d a e x) = verdicts s := by
  unfold State.startNmu
  dsimp only
  split
  · rw [stepEnd_verdicts, markBegun_verdicts]
  · simp only [apply_ite verdicts, restore_verdicts, modNmu_verdicts, failOn_verdicts, stepEnd_verdicts, markBegun_verdicts,
      notePoison_verdicts, bump_verdicts, llc_verdicts, ite_self]

@[simp] theorem tryStart_verdicts (r : Res) : verdicts (s.tryStart r) = verdicts s := by
  unfold State.tryStart
  split
  · rfl
  split
  · rfl
  dsimp only
  split
  · next x _ _ =>
    split
    · rfl
    cases r with
    | reach n => simp only [apply_ite verdicts, startReach_verdicts, passUnit_verdicts, ite_self]
    | nmu d => simp only [apply_ite verdicts, startNmu_verdicts, passUnit_verdicts, ite_self]
  · rfl

theorem lateStart_verdicts (n : Fin 16) : verdicts (s.lateStart n) = verdicts s := by
  unfold State.lateStart
  dsimp only
  split
  · rfl
  have hCleared : verdicts (if s.reach[n].lateClear then s.clearUnit (.reach n) else s) = verdicts s := by
    rw [apply_ite verdicts, clearUnit_verdicts, ite_self]
  split
  · exact hCleared
  · rw [tryStart_verdicts, modReach_verdicts _ rfl, hCleared]

/-! ### Replay (16 R544) -/

theorem writeArgs_verdicts (j : Nat) (e : JobE) (x : StepRun) (n : Nat) : verdicts (s.writeArgs j e x n) = verdicts s := by
  rw [State.writeArgs, write_verdicts, foldl_keeps verdicts _ (fun t _ => write_verdicts t _ _ _), write_verdicts]

theorem writeAllArgs_verdicts (j : Nat) (e : JobE) (x : StepRun) : verdicts (s.writeAllArgs j e x) = verdicts s :=
  foldl_keeps verdicts _ (fun t n => writeArgs_verdicts t j e x n) _ s

theorem replayOn_verdicts (j : Nat) (r : Res) : verdicts (s.replayOn j r) = verdicts s := by
  unfold State.replayOn
  dsimp only
  split
  · rfl
  cases r with
  | reach n =>
    dsimp only
    split
    · rw [tryStart_verdicts, modReach_verdicts _ rfl, dropReads_verdicts, modU_verdicts]
    · rw [modReach_verdicts _ rfl, dropReads_verdicts, modU_verdicts]
  | nmu d =>
    dsimp only
    split
    · rw [tryStart_verdicts, modU_verdicts]
    · rw [modU_verdicts]

theorem replay_verdicts (j : Nat) : verdicts (s.replay j) = verdicts s := by
  unfold State.replay
  split
  · dsimp only
    rw [foldl_keeps verdicts, writeAllArgs_verdicts, modJob_verdicts]
    · rfl
    · intro t k
      split
      · split
        · exact replayOn_verdicts t j _
        · rfl
      · rfl
  · rfl

theorem transientPrimary_verdicts (j : Nat) (no : W64) : verdicts (s.transientPrimary j no) = verdicts s := by
  unfold State.transientPrimary
  split
  · split
    · rfl
    split
    · exact verdicts_of_unbooked (failJob_unbooked s j _)
    · exact replay_verdicts s j
  · rfl

end Sys2Proof.Machine.Faults

/-! PROOF. The drain (16 R554, R555), and how decisions on sampled tiles change and end (16 R539 to R544, R563). -/

namespace Sys2Proof.Machine.Faults

open Sys2Proof.Machine Sys2Proof.Machine.Laws Sys2Proof.Machine.Frames

variable (s : State)

/-! ### The drain (16 R555) -/

/-- What a drain leaves alone: reaches, memory and its dies. -/
structure Undrained (s t : State) : Prop where
  reach  : t.reach = s.reach
  mdie   : t.mdie = s.mdie
  mem    : t.mem = s.mem
  poison : t.poison = s.poison

theorem Undrained.trans {s t u : State} (h : Undrained s t) (g : Undrained t u) : Undrained s u :=
  ⟨g.reach.trans h.reach, g.mdie.trans h.mdie, g.mem.trans h.mem, g.poison.trans h.poison⟩

theorem undrained_of_unbooked {s t : State} (h : unbooked t = unbooked s) : Undrained s t :=
  ⟨(congrArg State.reach h :), (congrArg State.mdie h :), (congrArg State.mem h :), (congrArg State.poison h :)⟩

/-- Ending steps changes no register of the device. -/
theorem endSteps_dev (pick : State → Nat → Bool) (w : StepEnd) : (s.endSteps pick w).dev = s.dev :=
  (congrArg State.dev (endSteps_unbooked s pick w) :)

theorem drained_undrained : Undrained s s.drained :=
  have h := undrained_of_unbooked (endSteps_unbooked s (fun _ _ => true) .flagged)
  ⟨h.reach, h.mdie, h.mem, h.poison⟩

theorem drained_flagged : s.drained.dev.flagged = s.dev.flagged :=
  (congrArg Dev.flagged (endSteps_dev s (fun _ _ => true) .flagged) :)

/-- A device that drains is flagged, and its reaches, memory and M-dies are as they were (16 R554, R555). -/
theorem drainDevice_flags (cause : Nat) (reach : Option Nat) (die : Nat) :
    Undrained s (s.drainDevice cause reach die) ∧ (s.drainDevice cause reach die).dev.flagged = true := by
  have hEnd (c : Bool) {t : State} (pick : State → Nat → Bool) (h : Undrained s t) (hf : t.dev.flagged = true) :
      let u := t.endSteps pick .flagged
      let v := if c && u.dev.st == .draining then u.unlessForced State.drained else u
      Undrained s v ∧ v.dev.flagged = true := by
    have hu := h.trans (undrained_of_unbooked (endSteps_unbooked t pick .flagged))
    have huf := (congrArg Dev.flagged (endSteps_dev t pick .flagged)).trans hf
    dsimp only
    split
    · unfold State.unlessForced
      split
      · exact ⟨hu, huf⟩
      · exact ⟨hu.trans (drained_undrained _), (drained_flagged _).trans huf⟩
    · exact ⟨hu, huf⟩
  unfold State.drainDevice
  cases hf : s.dev.flagged with
  | true => exact hEnd false _ ⟨rfl, rfl, rfl, rfl⟩ hf
  | false => exact hEnd true _ ⟨rfl, rfl, rfl, rfl⟩ rfl

theorem drains_flag (cause : Nat) (named : List Nat) (h : s.dev.flagged = true ∨ named ≠ []) :
    let t := named.foldl (fun (s : State) m => s.drainDevice cause (some m)) s
    t.reach = s.reach ∧ t.dev.flagged = true := by
  induction named generalizing s with
  | nil => exact ⟨rfl, h.resolve_right (fun h => h rfl)⟩
  | cons m ms ih =>
    obtain ⟨hKept, hFlag⟩ := drainDevice_flags s cause (some m) 0
    obtain ⟨hReach, hFlagged⟩ := ih _ (.inl hFlag)
    exact ⟨hReach.trans hKept.reach, hFlagged⟩

/-! ### The end of a decision (16 R540 to R542, R563) -/

/-- What waited for a decision that is over decides nothing. -/
theorem dupDone_verdicts (n : Fin 16) (k : Nat) (d : Dup) : verdicts (s.dupDone n k d) =
    verdicts (s.modReach n fun x => { x with dups := x.dups.eraseIdx k }) := by
  rw [State.dupDone, verdicts_of_unbooked (tryPost_unbooked _ _), lateStart_verdicts]

theorem dupDone_dups (n : Fin 16) (k : Nat) (d : Dup) : (s.dupDone n k d).reach[n].dups = s.reach[n].dups.eraseIdx k := by
  have h := congrArg (fun v : Verdicts => v.dups n) (dupDone_verdicts s n k d)
  dsimp only [verdicts] at h
  rw [h, modReach_same]

theorem countTile_unbooked : unbooked s.countTile = unbooked { s with ras := { s.ras with dupTiles := (s.ras.dupTiles.add 1).1 } } := by
  unfold State.countTile State.perfOvf
  dsimp only
  split
  · rfl
  · rfl

/-- A tile that is decided: its decision has left the reach and RAS_DUP_TILES has counted it; no other decision counter and no register
of the device has changed. -/
structure Over (s t : State) (n : Fin 16) (k : Nat) : Prop where
  gone      : t.reach[n].dups = s.reach[n].dups.eraseIdx k
  tiles     : t.ras.dupTiles = (s.ras.dupTiles.add 1).1
  mismatch  : t.ras.mismatch = s.ras.mismatch
  transient : t.ras.transient = s.ras.transient
  dev       : t.dev = s.dev

theorem decided_over (n : Fin 16) (k : Nat) (d : Dup) : Over s (s.decided n k d) n k := by
  have hCount := countTile_unbooked s
  have hDone := dupDone_verdicts s.countTile n k d
  refine ⟨?_, ?_, ?_, ?_, ?_⟩
  · rw [State.decided, dupDone_dups, show s.countTile.reach = s.reach from (congrArg State.reach hCount :)]
  · exact (congrArg Verdicts.tiles hDone).trans (congrArg (fun t : State => t.ras.dupTiles) hCount :)
  · exact (congrArg Verdicts.mismatch hDone).trans (congrArg (fun t : State => t.ras.mismatch) hCount :)
  · exact (congrArg Verdicts.transient hDone).trans (congrArg (fun t : State => t.ras.transient) hCount :)
  · exact (congrArg Verdicts.dev hDone).trans (congrArg State.dev hCount :)

/-- The event of a permanent fault, for each reach that is named (16 R543). -/
def faultsNamed (d : Dup) (named : List Nat) : State := named.foldl (fun (s : State) m => s.faultEvent 0x0804 m d 0 0) s

theorem faultsNamed_reach (d : Dup) (named : List Nat) : (faultsNamed s d named).reach = s.reach :=
  foldl_keeps State.reach (fun (s : State) m => s.faultEvent 0x0804 m d 0 0) (fun _ _ => rfl) named s

/-- A permanent decision flags the device (16 R543, R554). -/
theorem permanent_flags (n : Fin 16) (k : Nat) (d : Dup) {named : List Nat} (h : named ≠ []) :
    (s.permanent n k d named).dev.flagged = true ∧ (s.permanent n k d named).reach[n].dups = s.reach[n].dups.eraseIdx k := by
  let drained : State := named.foldl (fun (s : State) m => s.drainDevice 1 (some m)) (faultsNamed s d named)
  obtain ⟨hReach, hFlag⟩ : drained.reach = (faultsNamed s d named).reach ∧ drained.dev.flagged = true :=
    drains_flag (faultsNamed s d named) 1 named (.inr h)
  have hOver : Over drained (s.permanent n k d named) n k := decided_over drained n k d
  exact ⟨(congrArg Dev.flagged hOver.dev).trans hFlag, by rw [hOver.gone, hReach, faultsNamed_reach]⟩

/-- RAS_TRANSIENT has counted. -/
def transientCounted : State := { s with ras := { s.ras with transient := stick32 s.ras.transient 1 } }

/-- A transient decision counts, and flags nothing: the replay of a step decides nothing (16 R544). -/
theorem transient_counts (n : Fin 16) (k : Nat) (d : Dup) :
    (s.transient n k d).reach[n].dups = s.reach[n].dups.eraseIdx k ∧ (s.transient n k d).ras.transient = stick32 s.ras.transient 1 ∧
      (s.transient n k d).dev.flagged = s.dev.flagged := by
  let noted : State := (transientCounted s).faultEvent 0x0803 d.suspect d 0 0
  have hOver : Over noted (noted.decided n k d) n k := decided_over noted n k d
  have hReplay : verdicts (s.transient n k d) = verdicts (noted.decided n k d) := by
    rw [State.transient, apply_ite verdicts, transientPrimary_verdicts, ite_self]
    rfl
  exact ⟨(congrArg (fun v : Verdicts => v.dups n) hReplay).trans hOver.gone, (congrArg Verdicts.transient hReplay).trans hOver.transient,
    (congrArg (fun v : Verdicts => v.dev.flagged) hReplay).trans (congrArg Dev.flagged hOver.dev)⟩

theorem setDup_same (n : Fin 16) {k : Nat} {d : Dup} (e : Dup) (h : s.reach[n].dups[k]? = some d) :
    (s.setDup n k e).reach[n].dups[k]? = some e := by
  obtain ⟨hk, -⟩ := List.getElem?_eq_some_iff.mp h
  rw [State.setDup, modReach_same]
  exact List.getElem?_set_self hk

/-- A referee is sought, or found at once (16 R543). -/
theorem offer_refOffered (n : Fin 16) {d : Dup} (h : d.phase = .refOffered) :
    (s.offer n d).second = d.second ∧ ((s.offer n d).phase = .refOffered ∨ (s.offer n d).phase = .referee) := by
  unfold State.offer
  rw [h]
  dsimp only
  split
  · exact ⟨rfl, .inr rfl⟩
  · exact ⟨rfl, .inl h⟩

theorem offer_taken (n : Fin 16) {d : Dup} (h : d.phase ≠ .offered) (h' : d.phase ≠ .refOffered) : s.offer n d = d := by
  unfold State.offer
  split
  · contradiction
  · contradiction
  · rfl

/-- An event is raised, whatever else of the state changes before and after it. -/
theorem raised_around {s s' t t' : State} {code job : Nat} {source : W32} (h : Raised s' t' code job source)
    (hBefore : s'.ras.seq = s.ras.seq) (hAfter : t'.ras.seq = t.ras.seq) (hKept : t'.mgt = t.mgt) : Raised s t code job source := by
  obtain ⟨e, hSeq, hEvent, hJob, hSource, hNext, hLast⟩ := h
  exact ⟨e, hSeq.trans hBefore, hEvent, hJob, hSource, by rw [← hAfter, hNext, hBefore], by rw [← hKept, hLast]⟩

/-- An event names the device as it was before, whatever else has changed since. -/
theorem raised_of_raise {s t : State} (e : Ev) (hSeq : t.ras.seq = s.ras.seq) (hCpl : t.cpl = s.cpl) :
    Raised s (t.raise e) e.code e.job (srcOf s e.kind e.part) := by
  rw [srcOf, ← hCpl]
  exact raised_around (raise_raised t e) hSeq rfl rfl

/-- An event about a fault names its reach (16 R568). -/
theorem faultEvent_raised (code n : Nat) (d : Dup) (d0 d1 : Nat) :
    Raised s (s.faultEvent code n d d0 d1) code d.job (srcOf s 1 n) := raise_raised s _

/-- RAS_DUP_MISMATCH has counted. -/
def mismatchCounted : State := { s with ras := { s.ras with mismatch := stick32 s.ras.mismatch 1 } }

/-- A decision whose two signatures differ waits for a referee. -/
def referred (d : Dup) (sig : W64) : Dup := { d with second := sig, phase := .refOffered, inUse := none }

theorem mismatch_refers (n : Fin 16) {k : Nat} {d : Dup} (sig : W64) (h : s.reach[n].dups[k]? = some d) :
    (s.mismatch n k d sig).ras.mismatch = stick32 s.ras.mismatch 1 ∧ Raised s (s.mismatch n k d sig) 0x0801 d.job (srcOf s 1 n) ∧
      ∃ e, (s.mismatch n k d sig).reach[n].dups[k]? = some e ∧ e.second = sig ∧ (e.phase = .refOffered ∨ e.phase = .referee) := by
  let t := (mismatchCounted s).faultEvent 0x0801 n d d.primary.toNat sig.toNat
  have hRaised : Raised (mismatchCounted s) t 0x0801 d.job (srcOf s 1 n) := faultEvent_raised _ _ _ _ _ _
  obtain ⟨hSecond, hPhase⟩ := offer_refOffered (t.setDup n k (referred d sig)) n (d := referred d sig) rfl
  exact ⟨rfl, raised_around hRaised rfl rfl rfl, _, setDup_same _ n _ (setDup_same t n _ h), hSecond, hPhase⟩

end Sys2Proof.Machine.Faults

/-! PROOF. The commands of decisions on sampled tiles and of in-field tests (16 R538, R539, R543, R549 to R553). -/

namespace Sys2Proof.Machine.Faults

open Sys2Proof.Machine Sys2Proof.Machine.Laws Sys2Proof.Machine.Frames

/-! ### The commands of decisions -/

section

variable {s : State} {n : Fin 16} {k : Byte} {d : Dup} {sig : W64}

/-- The decision is not waiting for a taker. -/
theorem dupAt_taken (h : s.reach[n].dups[k.toNat]? = some d) (hOff : d.phase ≠ .offered) (hRef : d.phase ≠ .refOffered) :
    s.dupAt n k.toNat = some d := by
  rw [State.dupAt, h, Option.map_some, offer_taken s n hOff hRef]

theorem exec_checkResult (h : s.reach[n].dups[k.toNat]? = some d) (hp : d.phase = .checking) : exec (.dupCheckResult n k sig) s =
    .next (if sig = d.primary then s.decided n k.toNat d else s.mismatch n k.toNat d sig) := by
  change execDupCheckResult n k sig s = _
  rw [execDupCheckResult, dupAt_taken h (by simp [hp]) (by simp [hp])]
  simp only [hp, ne_eq, not_true_eq_false, if_false]

/-- A decision that knows its suspect: reach `m` executes the tile again. -/
def suspected (d : Dup) (sig : W64) (m : Nat) : Dup := { d with third := sig, phase := .suspect, suspect := m, inUse := none }

theorem exec_refereeResult (h : s.reach[n].dups[k.toNat]? = some d) (hp : d.phase = .referee) : exec (.dupRefereeResult n k sig) s =
    .next (if sig = d.second then s.setDup n k.toNat (suspected d sig n)
      else if sig = d.primary then s.setDup n k.toNat (suspected d sig d.checker)
      else s.permanent n k.toNat { d with third := sig } [n.val, d.checker]) := by
  change execDupRefereeResult n k sig s = _
  rw [execDupRefereeResult, dupAt_taken h (by simp [hp]) (by simp [hp])]
  simp only [hp, ne_eq, not_true_eq_false, if_false]
  rfl

theorem exec_suspectResult (h : s.reach[n].dups[k.toNat]? = some d) (hp : d.phase = .suspect) : exec (.dupSuspectResult n k sig) s =
    .next (if sig = d.third then s.transient n k.toNat d else s.permanent n k.toNat d [d.suspect]) := by
  change execDupSuspectResult n k sig s = _
  rw [execDupSuspectResult, dupAt_taken h (by simp [hp]) (by simp [hp])]
  simp only [hp, ne_eq, not_true_eq_false, if_false]

theorem exec_noTaker (h : s.reach[n].dups[k.toNat]? = some d) (hp : d.phase = .refOffered ∨ d.phase = .suspect) :
    exec (.dupNoTaker n k) s = .next (s.permanent n k.toNat d [n.val]) := by
  change execDupNoTaker n k s = _
  rw [execDupNoTaker, h]
  simp only [hp, if_true]

theorem exec_abandon (h : s.reach[n].dups[k.toNat]? = some d) (hp : d.phase = .offered) : exec (.dupAbandon n k) s =
    .next (({ s with ras := { s.ras with dupSkip := stick32 s.ras.dupSkip 1 } } : State).dupDone n k.toNat d) := by
  change execDupAbandon n k s = _
  rw [execDupAbandon, h]
  simp only [hp, ne_eq, not_true_eq_false, if_false]

/-- A decision that a reach of `named` fails for good is over, and the device is flagged. -/
theorem flags_of_permanent {i : Instr} {named : List Nat} (h : exec i s = .next (s.permanent n k.toNat d named)) (hNamed : named ≠ []) :
    Gives i s fun t => t.dev.flagged = true ∧ t.reach[n].dups = s.reach[n].dups.eraseIdx k.toNat :=
  ⟨_, h, permanent_flags s n k.toNat d hNamed⟩

theorem checkResult_agrees (h : s.reach[n].dups[k.toNat]? = some d) (hp : d.phase = .checking) (hs : sig = d.primary) :
    Gives (.dupCheckResult n k sig) s fun t => t.reach[n].dups = s.reach[n].dups.eraseIdx k.toNat ∧
      t.ras.dupTiles = (s.ras.dupTiles.add 1).1 ∧ t.ras.mismatch = s.ras.mismatch ∧ t.dev.flagged = s.dev.flagged := by
  have hOver := decided_over s n k.toNat d
  exact ⟨_, (exec_checkResult h hp).trans (by rw [if_pos hs]), hOver.gone, hOver.tiles, hOver.mismatch, congrArg Dev.flagged hOver.dev⟩

theorem checkResult_differs (h : s.reach[n].dups[k.toNat]? = some d) (hp : d.phase = .checking) (hs : sig ≠ d.primary) :
    Gives (.dupCheckResult n k sig) s fun t => t.ras.mismatch = stick32 s.ras.mismatch 1 ∧ Raised s t 0x0801 d.job (srcOf s 1 n) ∧
      ∃ e, t.reach[n].dups[k.toNat]? = some e ∧ e.second = sig ∧ (e.phase = .refOffered ∨ e.phase = .referee) :=
  ⟨_, (exec_checkResult h hp).trans (by rw [if_neg hs]), mismatch_refers s n sig h⟩

theorem abandon_skips (h : s.reach[n].dups[k.toNat]? = some d) (hp : d.phase = .offered) :
    Gives (.dupAbandon n k) s fun t => t.reach[n].dups = s.reach[n].dups.eraseIdx k.toNat ∧
      t.ras.dupSkip = stick32 s.ras.dupSkip 1 ∧ t.dev.flagged = s.dev.flagged := by
  have hDone := dupDone_verdicts { s with ras := { s.ras with dupSkip := stick32 s.ras.dupSkip 1 } } n k.toNat d
  exact ⟨_, exec_abandon h hp, dupDone_dups _ n k.toNat d, (congrArg Verdicts.skipped hDone :),
    (congrArg (fun v : Verdicts => v.dev.flagged) hDone :)⟩

end

/-! ### In-field tests (16 R549 to R553) -/

section

variable (s : State) (n : Fin 16)

/-- The test state of a reach once its kernel has taken its time (16 R550). -/
def timedTest : TestSt := { s.reach[n].test with used := s.reach[n].test.used + s.kernelNs n }

/-- The state once a kernel has taken its time. -/
def timed : State := s.modTest n fun x => { x with used := x.used + s.kernelNs n }

@[simp] theorem modTest_test (f : TestSt → TestSt) : (s.modTest n f).reach[n].test = f s.reach[n].test := by
  rw [State.modTest, modReach_same]

@[simp] theorem timed_test : (timed s n).reach[n].test = timedTest s n := modTest_test s n _

theorem kernel_refused {bad : BitVec 256} {outside : Bool} (h : s.testing n = false ∨ s.kernelFits n = false) :
    exec (.testKernelDone n bad outside) s = .next s := by
  change execTestKernelDone n bad outside s = _
  rw [execTestKernelDone]
  obtain h | h := h
  · simp only [h, Bool.not_false, Bool.true_or, if_true]
  · simp only [h, Bool.not_false, Bool.or_true, if_true]

variable {s n} {bad : BitVec 256} {outside : Bool}

/-- A lane is wrong, or another unit: the kernel is not clean. -/
theorem not_clean (h : bad ≠ 0 ∨ outside = true) : (bad == 0 && !outside) = false := by
  obtain h | h := h
  · rw [beq_eq_false_iff_ne.mpr h, Bool.false_and]
  · rw [h, Bool.not_true, Bool.and_false]

/-- What TEST_KERNEL_DONE does where a kernel has run, by whether it was a rerun and whether its signatures are right (16 R552). -/
theorem exec_kernel (hTest : s.testing n = true) (hFits : s.kernelFits n = true) :
    let kernel := ((s.testOrder n)[s.reach[n].test.next.toNat]?).getD 0
    let t := timed s n
    exec (.testKernelDone n bad outside) s = .next (
      if s.reach[n].test.retry = false then
        if (bad == 0 && !outside) = true then t.modTest n fun x => x.advance s.time else t.testFail n kernel bad outside
      else if (bad == 0 && !outside) = true then
        (({ t with ras := { t.ras with transient := stick32 t.ras.transient 1 } } : State).modTest n fun x => x.advance s.time).raise
          { code := 0x0803, kind := 1, part := n, addr := kernel }
      else if (!outside && !s.reach[n].test.outside && bad == s.reach[n].test.lanes) = true then t.testLanes n bad
      else (t.modTest n fun x => { x with retry := false }).testPermanent n 2) := by
  change execTestKernelDone n bad outside s = _
  simp only [execTestKernelDone, hTest, hFits, Bool.not_true, Bool.or_self, Bool.false_eq_true, if_false, Bool.not_eq_true']
  rfl

theorem kernel_passes (hTest : s.testing n = true) (hFits : s.kernelFits n = true) (hFirst : s.reach[n].test.retry = false) :
    exec (.testKernelDone n 0 false) s = .next (s.modReach n fun x => { x with test := (timedTest s n).advance s.time }) := by
  rw [exec_kernel hTest hFits, if_pos hFirst, if_pos (by decide), State.modTest, timed, State.modTest, modReach_modReach]
  rfl

theorem kernel_transient (hTest : s.testing n = true) (hFits : s.kernelFits n = true) (hAgain : s.reach[n].test.retry = true) :
    Gives (.testKernelDone n 0 false) s fun t => t.reach[n].test = (timedTest s n).advance s.time ∧
      t.ras.transient = stick32 s.ras.transient 1 ∧ Raised s t 0x0803 0xFFFF (srcOf s 1 n) := by
  refine ⟨_, (exec_kernel hTest hFits).trans (by rw [if_neg (by rw [hAgain]; decide), if_pos (by decide)]), ?_, rfl, ?_⟩
  · rw [raise_reach, modTest_test]
    exact congrArg (TestSt.advance · s.time) (timed_test s n)
  · exact raised_of_raise _ rfl rfl

theorem kernel_fails (hTest : s.testing n = true) (hFits : s.kernelFits n = true) (hFirst : s.reach[n].test.retry = false)
    (hBad : bad ≠ 0 ∨ outside = true) : Gives (.testKernelDone n bad outside) s fun t =>
      t.reach[n].test = { timedTest s n with retry := true, lanes := bad, outside } ∧ t.ras.fail = stick32 s.ras.fail 1 ∧
        Raised s t 0x0807 0xFFFF (srcOf s 1 n) := by
  refine ⟨_, (exec_kernel hTest hFits).trans (by rw [if_pos hFirst, if_neg (by rw [not_clean hBad]; decide)]), ?_, rfl, ?_⟩
  · rw [State.testFail, raise_reach, modTest_test]
    exact congrArg (fun x : TestSt => { x with retry := true, lanes := bad, outside }) (timed_test s n)
  · exact raised_of_raise _ rfl rfl

/-- RAS_LANE_BYPASS is raised for each lane of a list that is bad. -/
def laneEvents (n : Fin 16) (bad : BitVec 256) (s : State) (lanes : List Nat) : State :=
  lanes.foldl (fun (s : State) l => if bad.getLsbD l then s.raise { code := 0x0808, kind := 1, part := n, addr := l } else s) s

theorem laneEvents_kept (lanes : List Nat) : (laneEvents n bad s lanes).dev = s.dev ∧ (laneEvents n bad s lanes).reach = s.reach := by
  constructor
  · exact foldl_keeps State.dev _ (fun t l => by split <;> rfl) lanes s
  · exact foldl_keeps State.reach _ (fun t l => by split <;> rfl) lanes s

theorem laneEvents_last (lanes : List Nat) (h : LastEvent s 0x0808 ∨ ∃ l ∈ lanes, bad.getLsbD l = true) :
    LastEvent (laneEvents n bad s lanes) 0x0808 := by
  induction lanes generalizing s with
  | nil => exact h.resolve_right (by simp)
  | cons l ls ih =>
    rw [laneEvents, List.foldl_cons]
    cases hl : bad.getLsbD l with
    | true => exact ih (.inl (congrArg (Option.map ErrRec.event) (keepRecord_last _ _)))
    | false => exact ih (h.imp_right fun ⟨i, hi, hb⟩ => ⟨i, (List.mem_cons.mp hi).resolve_left (by rintro rfl; simp [hl] at hb), hb⟩)

/-- A mask of lanes that is not empty holds a lane. -/
theorem exists_lane (h : bad ≠ 0) : ∃ l ∈ List.range 256, bad.getLsbD l = true := by
  by_contra hNone
  refine h (BitVec.eq_of_getLsbD_eq fun i hi => ?_)
  have := fun hb => hNone ⟨i, List.mem_range.mpr hi, hb⟩
  simpa using this

theorem kernel_bypasses (hTest : s.testing n = true) (hFits : s.kernelFits n = true) (hAgain : s.reach[n].test.retry = true)
    (hBad : bad ≠ 0) (hSame : bad = s.reach[n].test.lanes) (hLanes : s.reach[n].test.outside = false) :
    Gives (.testKernelDone n bad false) s fun t =>
      t.reach[n].test.newBypass = (timedTest s n).newBypass ||| bad ∧ LastEvent t 0x0808 ∧ t.dev = s.dev := by
  obtain ⟨hDev, hReach⟩ := laneEvents_kept (s := timed s n) (n := n) (bad := bad) (List.range 256)
  refine ⟨(timed s n).testLanes n bad, (exec_kernel hTest hFits).trans ?_, ?_, ?_, hDev⟩
  · rw [if_neg (by rw [hAgain]; decide), if_neg (by rw [not_clean (.inl hBad)]; decide),
      if_pos (by rw [hLanes, ← hSame, beq_self_eq_true]; decide)]
  · change ((laneEvents n bad (timed s n) (List.range 256)).modTest n _).reach[n].test.newBypass = _
    rw [modTest_test, hReach, timed_test]
  · change LastEvent ((laneEvents n bad (timed s n) (List.range 256)).modTest n _) 0x0808
    rw [LastEvent, State.modTest, modReach_mgt]
    exact laneEvents_last (List.range 256) (.inr (exists_lane hBad))

/-- A kernel whose rerun fails outside the lanes is a permanent fault (16 R552, R554). -/
theorem kernel_flags (hTest : s.testing n = true) (hFits : s.kernelFits n = true) (hAgain : s.reach[n].test.retry = true) :
    Gives (.testKernelDone n bad true) s fun t => t.dev.flagged = true :=
  ⟨_, (exec_kernel hTest hFits).trans (by
    rw [if_neg (by rw [hAgain]; decide), if_neg (by rw [Bool.not_true, Bool.and_false]; decide), if_neg (by simp)]
    rfl),
    (drainDevice_flags _ 2 (some n.val) 0).2⟩

theorem testLate_counts (hHeld : s.dev.held = false) (hReady : s.prf.ready = true) (hForce : s.lkp.inForce = true)
    (hServes : s.inService n = true) : Gives (.rasTestLate n) s fun t => t.ras.late = stick32 s.ras.late 1 ∧
      t.reach[n].test.late = true ∧ t.reach[n].test.since = s.time ∧ Raised s t 0x0809 0xFFFF (srcOf s 1 n) := by
  let counted : State := { s with ras := { s.ras with late := stick32 s.ras.late 1 } }
  let noted : State := counted.modTest n fun t => { t with late := true, since := s.time }
  have hTest : noted.reach[n].test = { counted.reach[n].test with late := true, since := s.time } := modTest_test counted n _
  refine ⟨noted.raise { code := 0x0809, kind := 1, part := n }, ?_, rfl, congrArg TestSt.late hTest, congrArg TestSt.since hTest,
    raised_of_raise _ rfl rfl⟩
  change execRasTestLate n s = _
  simp only [execRasTestLate, hHeld, hReady, hForce, hServes, Bool.not_true, Bool.or_self, Bool.false_eq_true, if_false]
  rfl

end

end Sys2Proof.Machine.Faults

/-! PROOF. Errors of memory (11 R362 to R370): what quarantine and failing rows leave alone, and what becomes of a line that cannot be
corrected. -/

namespace Sys2Proof.Machine.Faults

open Sys2Proof.Machine Sys2Proof.Machine.Laws Sys2Proof.Machine.Frames

variable (s : State)

/-! ### What errors of memory leave alone (11 R362 to R370) -/

/-- What decides how bytes of memory read. -/
structure Contents where
  mem     : List Host.Cell
  poison  : List Nat
  lineKey : List (Nat × Nat)
  sec     : Sec
  ctx     : CtxTab
  dev     : Dev

/-- That of a state. -/
def contents : Contents := ⟨s.mem, s.poison, s.lineKey, s.sec, s.ctx, s.dev⟩

@[simp] theorem modMdie_contents (d : Fin 4) (f : MDie → MDie) : contents (s.modMdie d f) = contents s := rfl

@[simp] theorem modChan_contents (d : Fin 4) (i : Fin 8) (f : Chan → Chan) : contents (s.modChan d i f) = contents s := rfl

@[simp] theorem raise_contents (e : Ev) : contents (s.raise e) = contents s := rfl

/-- Channels of every M-die, and whether it can be reached; the reaches and the device's own registers. -/
structure Ways where
  reach : Vector Reach 16
  dev   : Dev
  chans : Fin 4 → Vector Chan 8
  gone  : Fin 4 → Bool

/-- Those of a state. -/
def ways : Ways := ⟨s.reach, s.dev, fun d => s.mdie[d].chans, fun d => s.mdie[d].gone⟩

@[simp] theorem raise_ways (e : Ev) : ways (s.raise e) = ways s := rfl

theorem modMdie_same (d : Fin 4) (f : MDie → MDie) : (s.modMdie d f).mdie[d] = f s.mdie[d] := by
  simp [State.modMdie]

theorem modMdie_ne {d m : Fin 4} (h : m ≠ d) (f : MDie → MDie) : (s.modMdie d f).mdie[m] = s.mdie[m] := by
  have : d.val ≠ m.val := fun e => h (Fin.ext e.symm)
  simp [State.modMdie, Vector.getElem_set_ne, this]

/-- A change of an M-die that keeps a field keeps it on every M-die. -/
theorem modMdie_field {α : Type} {d : Fin 4} {f : MDie → MDie} (P : MDie → α) (h : P (f s.mdie[d]) = P s.mdie[d]) (m : Fin 4) :
    P (s.modMdie d f).mdie[m] = P s.mdie[m] := by
  by_cases hm : m = d
  · rw [hm, modMdie_same, h]
  · rw [modMdie_ne s hm]

theorem modMdie_ways {d : Fin 4} {f : MDie → MDie} (hChans : (f s.mdie[d]).chans = s.mdie[d].chans)
    (hGone : (f s.mdie[d]).gone = s.mdie[d].gone) : ways (s.modMdie d f) = ways s := by
  rw [ways, funext (modMdie_field s MDie.chans hChans), funext (modMdie_field s MDie.gone hGone)]
  rfl

theorem addQuars_contents (b : Nat) (ds : List (Fin 4)) :
    contents (ds.foldl (fun (s : State) (x : Fin 4) => s.modMdie x fun m => m.addQuar b) s) = contents s :=
  foldl_keeps contents (fun (s : State) (x : Fin 4) => s.modMdie x fun m => m.addQuar b) (fun _ _ => rfl) ds s

theorem addQuars_ways (b : Nat) (ds : List (Fin 4)) :
    ways (ds.foldl (fun (s : State) (x : Fin 4) => s.modMdie x fun m => m.addQuar b) s) = ways s :=
  foldl_keeps ways (fun (s : State) (x : Fin 4) => s.modMdie x fun m => m.addQuar b) (fun t _ => modMdie_ways t rfl rfl) ds s

theorem countQuar_ways (d : Fin 4) : ways (s.modMdie d fun m => { m with quarCnt := stick32 m.quarCnt 1 }) = ways s :=
  modMdie_ways s rfl rfl

/-- Quarantine changes the entries and their count alone (11 R368). -/
theorem quarantine_keeps (line : Nat) (d : Fin 4) :
    contents (s.quarantine line d) = contents s ∧ ways (s.quarantine line d) = ways s := by
  by_cases hFree : (!(s.ctx.shared.any fun g => g.covers (64 * line) 64) || s.quarantined line) = true
  · rw [State.quarantine, if_pos hFree]
    exact ⟨rfl, rfl⟩
  by_cases hRoom : ((s.blockDies (line / 64)).all fun (x : Fin 4) => decide (s.mdie[x].quar.length < 32)) = true
  · rw [State.quarantine, if_neg hFree, if_pos hRoom]
    exact ⟨by rw [raise_contents, modMdie_contents, addQuars_contents], by rw [raise_ways, countQuar_ways, addQuars_ways]⟩
  · rw [State.quarantine, if_neg hFree, if_neg hRoom]
    exact ⟨raise_contents s _, raise_ways s _⟩

/-- A row that fails changes its channel and the log owed (11 R369). -/
theorem redirect_contents (d : Fin 4) (i : Fin 8) (bank row idx : Nat) (st : RowState) :
    contents (s.redirect d i bank row idx st) = contents s := rfl

theorem rowEvent_contents (code : Nat) (d : Fin 4) (i : Fin 8) (bank row : Nat) : contents (s.rowEvent code d i bank row) = contents s := rfl

theorem tableFull_contents (d : Fin 4) (i : Fin 8) : contents (s.tableFull d i) = contents s := by
  unfold State.tableFull
  dsimp only
  rw [raise_contents, modChan_contents]
  split
  · rfl
  · rfl

theorem rowFails_contents (d : Fin 4) (i : Fin 8) (bank row : Nat) : contents (s.rowFails d i bank row) = contents s := by
  unfold State.rowFails
  dsimp only
  split
  · rfl
  split
  · exact tableFull_contents _ d i
  · simp only [apply_ite contents, rowEvent_contents, redirect_contents, modChan_contents, ite_self]

/-! ### A line that cannot be corrected (11 R362, R363, R365) -/

/-- The 64 bytes that a line reads as. -/
def lineBytes (data : List Byte) : List Byte := (data ++ List.replicate 64 0).take 64

/-- A line holds bytes and the poison mark. -/
def marked (line : Nat) (data : List Byte) : State :=
  { s with mem := putBytes s.mem (64 * line) (lineBytes data), poison := setIns line s.poison }

theorem lineBytes_of_length {data : List Byte} (h : data.length = 64) : lineBytes data = data := by
  rw [lineBytes, List.take_append_of_le_length (by omega), List.take_of_length_le (by omega)]

/-- MEM_UE is counted and raised for a line (11 R362, 19 R618). -/
def counted (line : Nat) (data : List Byte) : State :=
  ((marked s line data).modMdie (s.eccDie (64 * line)) fun m => { m with ue := stick32 m.ue 1 }).raise
    { code := 0x0302, kind := (s.eccSource (64 * line)).1, part := (s.eccSource (64 * line)).2, addr := 64 * line }

theorem uncorrectable_eq (line : Nat) (data : List Byte) (dram : Bool) : s.uncorrectable line data dram false =
    if s.poison.contains line then marked s line data
    else if dram then ((counted s line data).modMdie (s.eccDie (64 * line)) fun m =>
      { m with poisonLast := BitVec.ofNat 34 line, poisonValid := true }).quarantine line (s.eccDie (64 * line))
    else counted s line data := by
  unfold State.uncorrectable
  simp only [Bool.false_eq_true, if_false, Bool.not_false, Bool.and_true]
  rfl

theorem uncorrectable_contents (line : Nat) (data : List Byte) (dram : Bool) :
    contents (s.uncorrectable line data dram false) = contents (marked s line data) := by
  rw [uncorrectable_eq]
  split
  · rfl
  split
  · exact (quarantine_keeps _ _ _).1
  · rfl

theorem uncorrectable_ways (line : Nat) (data : List Byte) (dram : Bool) : ways (s.uncorrectable line data dram false) = ways s := by
  have hCounted : ways (counted s line data) = ways s := by
    rw [counted, raise_ways, modMdie_ways _ rfl rfl]
    rfl
  rw [uncorrectable_eq]
  split
  · rfl
  split
  · rw [(quarantine_keeps _ _ _).2, modMdie_ways _ rfl rfl, hCounted]
  · exact hCounted

/-- A line that is marked reads as its bytes, with the mark, and no other byte changes, whatever else of the state does. -/
theorem reads_marked {s t : State} (hKeyed : AllKeyed s) {line : Nat} {data : List Byte} (hLen : data.length = 64)
    (h : contents t = contents (marked s line data)) :
    line ∈ t.poison ∧ BytesAre t (64 * line) data ∧ BytesKept s t [(64 * line, 64)] := by
  have hMem : t.mem = putBytes s.mem (64 * line) data := by
    rw [show t.mem = putBytes s.mem (64 * line) (lineBytes data) from (congrArg Contents.mem h :), lineBytes_of_length hLen]
  have hKey (l : Nat) : t.keyOk l = true := by
    rw [keyOk_congr (s := s) (congrArg Contents.sec h :) (congrArg Contents.ctx h :) (congrArg Contents.dev h :)
      (by rw [show t.lineKey = s.lineKey from (congrArg Contents.lineKey h :)])]
    exact hKeyed l
  have hByte (b : Nat) : t.byte b = slook 0 (putBytes s.mem (64 * line) data) b := by
    rw [State.byte, if_pos (hKey _), hMem]
  refine ⟨?_, fun i hi => ?_, fun b hb hOut => ?_⟩
  · rw [show t.poison = setIns line s.poison from (congrArg Contents.poison h :), mem_setIns]
    exact .inl rfl
  · rw [hByte, slook_putBytes, if_pos (by omega)]
    simp [hi]
  · have := hOut _ (List.mem_singleton.mpr rfl)
    rw [hByte, slook_putBytes, if_neg (by dsimp only at this; omega), State.byte, if_pos hb]

theorem uncorrectable_raises {line : Nat} {data : List Byte} (h : s.poison.contains line = false) :
    Raised s (s.uncorrectable line data false false) 0x0302 0xFFFF
      (srcOf s (s.eccSource (64 * line)).1 (s.eccSource (64 * line)).2) := by
  rw [uncorrectable_eq, if_neg (by rw [h]; decide), if_neg (by decide)]
  exact raised_of_raise _ rfl rfl

end Sys2Proof.Machine.Faults

/-! PROOF. The commands of memory errors and of die-to-die links (11 R357, R362 to R370, R383; 16 R554), and the obligation that rests on all of
these. -/

namespace Sys2Proof.Machine.Faults

open Sys2Proof.Machine Sys2Proof.Machine.Laws Sys2Proof.Machine.Frames

/-! ### Scrubbing (11 R362 to R364, R383) -/

section

variable {s : State} {line : BitVec 34} {data : List Byte} {bank : BitVec 4} {row : W32}

/-- An error that was corrected is counted at an M-die. -/
def corrected (s : State) (d : Fin 4) : State := s.modMdie d fun m => { m with ce := stick32 m.ce 1 }

theorem exec_scrub_clean (l : Fin 3) : exec (.patrolScrub line 0 l data false bank row) s = .next s := by
  change execPatrolScrub line 0 l data false bank row s = _
  simp only [execPatrolScrub, decide_true, Bool.or_true, if_true]

/-- An error in a store of the lockkeeper (11 R383). -/
theorem exec_scrub_own {found : Fin 3} (hHeld : s.dev.held = false) (hFound : found ≠ 0) :
    exec (.patrolScrub line found 2 data false bank row) s = .next (s.lkpError found) := by
  change execPatrolScrub line found 2 data false bank row s = _
  simp only [execPatrolScrub, hHeld, hFound, decide_false, Bool.or_self, Bool.false_eq_true, if_false, if_true]

/-- An error of an address outside the lockkeeper, that does not lie in DRAM. -/
theorem exec_scrub_store {found loc : Fin 3} (hHeld : s.dev.held = false) (hFound : found ≠ 0) (hLoc : loc ≠ 2)
    (hAddr : s.addrOk (64 * line.toNat) 64 = true) (hDram : (s.inDram (64 * line.toNat) 64 && loc == 0) = false) :
    exec (.patrolScrub line found loc data false bank row) s = .next (
      if found = 1 then corrected s (s.eccDie (64 * line.toNat)) else s.uncorrectable line.toNat data false false) := by
  change execPatrolScrub line found loc data false bank row s = _
  simp only [execPatrolScrub, hHeld, hFound, hLoc, hAddr, hDram, decide_false, Bool.or_self, Bool.false_eq_true, Bool.not_true,
    Bool.not_false, if_false, if_true]
  rfl

theorem scrub_corrects {loc : Fin 3} (hHeld : s.dev.held = false) (hLoc : loc ≠ 2)
    (hAddr : s.addrOk (64 * line.toNat) 64 = true) (hDram : (s.inDram (64 * line.toNat) 64 && loc == 0) = false) :
    exec (.patrolScrub line 1 loc data false bank row) s = .next (corrected s (s.eccDie (64 * line.toNat))) := by
  rw [exec_scrub_store hHeld (by decide) hLoc hAddr hDram, if_pos rfl]

theorem exec_scrub_uncorrectable {loc : Fin 3} (hHeld : s.dev.held = false) (hLoc : loc ≠ 2)
    (hAddr : s.addrOk (64 * line.toNat) 64 = true) (hDram : (s.inDram (64 * line.toNat) 64 && loc == 0) = false) :
    exec (.patrolScrub line 2 loc data false bank row) s = .next (s.uncorrectable line.toNat data false false) := by
  rw [exec_scrub_store hHeld (by decide) hLoc hAddr hDram, if_neg (by decide)]

/-- The row of a channel fails, where an address has a channel. -/
def rowOf (t : State) (at_ : Option (Fin 4 × Fin 8)) (bank row : Nat) : State :=
  match at_ with
  | some (d, i) => t.rowFails d i bank row
  | none => t

theorem rowOf_contents (t : State) (at_ : Option (Fin 4 × Fin 8)) (bank row : Nat) : contents (rowOf t at_ bank row) = contents t := by
  cases at_ with
  | none => rfl
  | some p => exact rowFails_contents t p.1 p.2 bank row

theorem exec_scrub_dram (hHeld : s.dev.held = false) (hAddr : s.addrOk (64 * line.toNat) 64 = true)
    (hDram : s.inDram (64 * line.toNat) 64 = true) : exec (.patrolScrub line 2 0 data false bank row) s =
      .next (rowOf (s.uncorrectable line.toNat data true false) (s.chanAt (64 * line.toNat)) bank.toNat row.toNat) := by
  change execPatrolScrub line 2 0 data false bank row s = _
  simp only [execPatrolScrub, hHeld, hAddr, hDram, Bool.or_self, Bool.false_eq_true, Bool.not_true, Bool.and_self, beq_self_eq_true,
    if_false, show ((2 : Fin 3) = 0) = False by simp, show ((2 : Fin 3) = 1) = False by simp,
    show ((0 : Fin 3) = 2) = False by simp, decide_false]
  generalize s.chanAt (64 * line.toNat) = at_
  cases at_ with
  | none => rfl
  | some p => rfl

/-- An error that cannot be corrected, in the memory that an address names: the line is marked, whatever becomes of its row. -/
theorem scrub_marks (hHeld : s.dev.held = false) (hAddr : s.addrOk (64 * line.toNat) 64 = true) (hKeyed : AllKeyed s)
    (hLen : data.length = 64) : Gives (.patrolScrub line 2 0 data false bank row) s fun t =>
      line.toNat ∈ t.poison ∧ BytesAre t (64 * line.toNat) data ∧ BytesKept s t [(64 * line.toNat, 64)] := by
  cases hDram : s.inDram (64 * line.toNat) 64 with
  | false => exact ⟨_, exec_scrub_uncorrectable hHeld (by decide) hAddr (by rw [hDram, Bool.false_and]),
      reads_marked hKeyed hLen (uncorrectable_contents s _ data false)⟩
  | true => exact ⟨_, exec_scrub_dram hHeld hAddr hDram,
      reads_marked hKeyed hLen ((rowOf_contents _ _ _ _).trans (uncorrectable_contents s _ data true))⟩

/-- An error that cannot be corrected, in the LLC: the line is marked, and MEM_UE raised. -/
theorem scrub_llc_marks (hHeld : s.dev.held = false) (hAddr : s.addrOk (64 * line.toNat) 64 = true) (hKeyed : AllKeyed s)
    (hClean : s.poison.contains line.toNat = false) (hLen : data.length = 64) :
    Gives (.patrolScrub line 2 1 data false bank row) s fun t =>
      (line.toNat ∈ t.poison ∧ BytesAre t (64 * line.toNat) data ∧ BytesKept s t [(64 * line.toNat, 64)]) ∧
        Raised s t 0x0302 0xFFFF (srcOf s (s.eccSource (64 * line.toNat)).1 (s.eccSource (64 * line.toNat)).2) :=
  ⟨_, exec_scrub_uncorrectable hHeld (by decide) hAddr (Bool.and_false _),
    reads_marked hKeyed hLen (uncorrectable_contents s _ data false), uncorrectable_raises s hClean⟩

theorem scrub_own_corrects (hHeld : s.dev.held = false) :
    exec (.patrolScrub line 1 2 data false bank row) s = .next (corrected s s.lowestDie) := by
  rw [exec_scrub_own hHeld (by decide), State.lkpError, if_pos rfl, corrected]

theorem lkpError_counts : Raised s (s.lkpError 2) 0x0302 0xFFFF (srcOf s 6 0) ∧ MemoryKept s (s.lkpError 2) ∧
    (s.lkpError 2).mdie[s.lowestDie].ue = stick32 s.mdie[s.lowestDie].ue 1 := by
  let t := s.modMdie s.lowestDie fun m => { m with ue := stick32 m.ue 1 }
  have hError : s.lkpError 2 = t.raise { code := 0x0302, kind := 6 } := by
    rw [State.lkpError, if_neg (by decide)]
  rw [hError]
  refine ⟨raised_of_raise _ rfl rfl, ⟨rfl, rfl, rfl⟩, ?_⟩
  rw [raise_mdie, modMdie_same]

end

/-! ### A row that has been copied (11 R370) -/

section

variable (s : State)

/-- The channel of an address depends on the device's registers alone (11 R360). -/
theorem chanOf_dev (a : Nat) : s.chanOf a = ({ State.reset with dev := s.dev } : State).chanOf a := rfl

/-- Unfolded behind a name, as in `goneAt_congr`, where no M-die has changed at all. -/
theorem goneAt_of_gone {s t : State} (hDev : t.dev = s.dev) (hGone : ∀ d : Fin 4, t.mdie[d].gone = s.mdie[d].gone) (a : Nat) :
    t.goneAt a = s.goneAt a := by
  have hChan : t.chanOf a = s.chanOf a := by rw [chanOf_dev t, chanOf_dev s, hDev]
  generalize hf : State.goneAt = f
  delta State.goneAt at hf
  subst hf
  beta_reduce
  rw [hChan]
  generalize s.chanOf a = at_
  cases at_ with
  | none => rfl
  | some c =>
    dsimp only
    split
    · next hc => exact hGone ⟨c / 8, hc⟩
    · rfl

theorem any_gone : s.mdie.toList.any (·.gone) = (List.finRange 4).any fun d => s.mdie[d].gone := by
  rw [Bool.eq_iff_iff]
  simp [Vector.any_eq_true, Fin.exists_iff]

/-- Whether an address lies in DRAM that can be reached depends on the device's registers and on the M-dies that have gone (11 R356). -/
theorem inDram_congr {s t : State} (hDev : t.dev = s.dev) (hGone : ∀ d : Fin 4, t.mdie[d].gone = s.mdie[d].gone) (a n : Nat) :
    t.inDram a n = s.inDram a n := by
  have hAny : t.mdie.toList.any (·.gone) = s.mdie.toList.any (·.gone) := by
    rw [any_gone, any_gone, funext hGone]
  simp only [State.inDram, goneAt_of_gone hDev hGone, dramEnd_congr hDev, hAny]

theorem inDram_ways {s t : State} (h : ways t = ways s) (a n : Nat) : t.inDram a n = s.inDram a n :=
  inDram_congr (congrArg Ways.dev h :) (fun d => (congrArg (fun w : Ways => w.gone d) h :)) a n

/-- A line of a row that could not be read is marked, where it lies in DRAM (11 R370). -/
def markBadLine (l : BitVec 34 × List Byte) : State :=
  if s.inDram (64 * l.1.toNat) 64 then s.uncorrectable l.1.toNat l.2 true false else s

theorem markBadLine_ways (l : BitVec 34 × List Byte) : ways (markBadLine s l) = ways s := by
  rw [markBadLine, apply_ite ways, uncorrectable_ways, ite_self]

/-- Every such line of a row is marked. -/
def markBad (bad : List (BitVec 34 × List Byte)) : State := bad.foldl markBadLine s

theorem markBad_ways (bad : List (BitVec 34 × List Byte)) : ways (markBad s bad) = ways s :=
  foldl_keeps ways _ markBadLine_ways bad s

theorem uncorrectable_poison (line : Nat) (data : List Byte) (dram : Bool) :
    (s.uncorrectable line data dram false).poison = setIns line s.poison :=
  (congrArg Contents.poison (uncorrectable_contents s line data dram) :)

theorem mem_markBadLine {line : Nat} {l : BitVec 34 × List Byte}
    (h : line ∈ s.poison ∨ l.1.toNat = line ∧ s.inDram (64 * l.1.toNat) 64 = true) : line ∈ (markBadLine s l).poison := by
  unfold markBadLine
  split
  · rw [uncorrectable_poison, mem_setIns]
    exact h.symm.imp_left fun h => h.1.symm
  · next hOut => exact h.resolve_right fun h => hOut h.2

theorem mem_markBad {line : Nat} (bad : List (BitVec 34 × List Byte))
    (h : line ∈ s.poison ∨ ∃ l ∈ bad, l.1.toNat = line ∧ s.inDram (64 * l.1.toNat) 64 = true) : line ∈ (markBad s bad).poison := by
  induction bad generalizing s with
  | nil => exact h.resolve_right (by simp)
  | cons b bs ih =>
    refine ih (markBadLine s b) ?_
    obtain h | ⟨l, hl, hLine, hIn⟩ := h
    · exact .inl (mem_markBadLine s (.inl h))
    obtain rfl | hl := List.mem_cons.mp hl
    · exact .inl (mem_markBadLine s (.inr ⟨hLine, hIn⟩))
    · exact .inr ⟨l, hl, hLine, by rw [inDram_ways (markBadLine_ways s b), hIn]⟩

variable {s} {c : Fin 4} {i : Fin 8} {bank : BitVec 4} {row : W32}

theorem modChan_same (f : Chan → Chan) : (s.modChan c i f).mdie[c].chans[i] = f s.mdie[c].chans[i] := by
  rw [State.modChan, modMdie_same]
  simp

theorem exec_rowCopyDone (h : 8 * c.val + i.val < 32) (hCopy : 2 ^ 32 * bank.toNat + row.toNat ∈ s.mdie[c].chans[i].copying)
    (bad : List (BitVec 34 × List Byte)) : exec (.rowCopyDone ⟨8 * c.val + i.val, h⟩ bank row bad) s = .next (
      markBad (s.modChan c i fun x => { x with copying := setDel (2 ^ 32 * bank.toNat + row.toNat) x.copying }) bad) := by
  have hDie : (⟨(8 * c.val + i.val) / 8, by omega⟩ : Fin 4) = c := Fin.ext (by dsimp only; omega)
  have hChan : (⟨(8 * c.val + i.val) % 8, by omega⟩ : Fin 8) = i := Fin.ext (by dsimp only; omega)
  change execRowCopyDone ⟨8 * c.val + i.val, h⟩ bank row bad s = _
  simp only [execRowCopyDone, hDie, hChan, rowKey, List.contains_iff_mem.mpr hCopy, Bool.not_true, Bool.false_eq_true, if_false]
  rfl

theorem rowCopyDone_frees (h : 8 * c.val + i.val < 32) (hCopy : 2 ^ 32 * bank.toNat + row.toNat ∈ s.mdie[c].chans[i].copying)
    (bad : List (BitVec 34 × List Byte)) : Gives (.rowCopyDone ⟨8 * c.val + i.val, h⟩ bank row bad) s fun t =>
      t.mdie[c].chans[i].copying = setDel (2 ^ 32 * bank.toNat + row.toNat) s.mdie[c].chans[i].copying ∧
        t.mdie[c].chans[i].rows = s.mdie[c].chans[i].rows ∧ t.reach = s.reach ∧ (bad = [] → MemoryKept s t) ∧
        ∀ l ∈ bad, s.inDram (64 * l.1.toNat) 64 = true → l.1.toNat ∈ t.poison := by
  let freed : State := s.modChan c i fun x => { x with copying := setDel (2 ^ 32 * bank.toNat + row.toNat) x.copying }
  have hFreed : freed.mdie[c].chans[i] = _ := modChan_same _
  have hWays := markBad_ways freed bad
  have hChan : (markBad freed bad).mdie[c].chans[i] = freed.mdie[c].chans[i] := (congrArg (fun w : Ways => (w.chans c)[i]) hWays :)
  refine ⟨markBad freed bad, exec_rowCopyDone h hCopy bad, ?_, ?_, (congrArg Ways.reach hWays :), ?_, fun l hl hIn => ?_⟩
  · rw [hChan, hFreed]
  · rw [hChan, hFreed]
  · rintro rfl
    exact ⟨rfl, rfl, rfl⟩
  · refine mem_markBad freed bad (.inr ⟨l, hl, rfl, ?_⟩)
    rw [inDram_congr (s := s) (t := freed) rfl (modMdie_field s MDie.gone rfl), hIn]

end

/-! ### Die-to-die links (11 R357, 16 R554) -/

section

variable (s : State)

/-- Lines that are delivered with the poison mark; no other mark goes. -/
theorem markLines_marks (lines : List (BitVec 34)) : ∃ p, lines.foldl (fun (s : State) l => s.markLine l.toNat) s = { s with poison := p } ∧
    (∀ l ∈ s.poison, l ∈ p) ∧ ∀ l ∈ lines, s.addrOk (64 * l.toNat) 64 = true → l.toNat ∈ p := by
  induction lines generalizing s with
  | nil => exact ⟨s.poison, rfl, fun _ h => h, by simp⟩
  | cons x xs ih =>
    obtain ⟨q, hq, hFirst, hx⟩ : ∃ q, s.markLine x.toNat = { s with poison := q } ∧ (∀ l ∈ s.poison, l ∈ q) ∧
        (s.addrOk (64 * x.toNat) 64 = true → x.toNat ∈ q) := by
      unfold State.markLine
      split
      · exact ⟨_, rfl, fun l h => (mem_setIns _ _ _).mpr (.inr h), fun _ => (mem_setIns _ _ _).mpr (.inl rfl)⟩
      · next hOut => exact ⟨s.poison, rfl, fun _ h => h, fun h => absurd h hOut⟩
    obtain ⟨p, hp, hKept, hMarked⟩ := ih { s with poison := q }
    have hAddrs (a : Nat) : ({ s with poison := q } : State).addrOk a 64 = s.addrOk a 64 :=
      Lrate.addrOk_congr (s := s) (t := { s with poison := q }) rfl (chanOf_dev _) rfl a 64
    refine ⟨p, by rw [List.foldl_cons, hq, hp], fun l h => hKept l (hFirst l h), fun l hl hAddr => ?_⟩
    obtain rfl | hl := List.mem_cons.mp hl
    · exact hKept _ (hx hAddr)
    · exact hMarked l hl (by rw [hAddrs, hAddr])

variable {s} {c : Fin 4} {lines : List (BitVec 34)}

theorem exec_d2dRetry (hHeld : s.dev.held = false) :
    exec (.memD2dRetry c) s = .next (s.modMdie c fun m => { m with retry := stick32 m.retry 1 }) := by
  change execMemD2dRetry c s = _
  simp only [execMemD2dRetry, hHeld, Bool.false_eq_true, if_false]

/-- A module of an M-die has gone down, before anything drains: what was in flight over it is marked (11 R356, R357). -/
def moduleDown (s : State) (c : Fin 4) (m : Fin 2) (p : List Nat) : State :=
  ((({ s with poison := p } : State).modMdie c fun x =>
    { x with d2d0 := if m = 0 then 0 else x.d2d0, d2d1 := if m = 1 then 0 else x.d2d1 }).modMdie c fun x =>
    { x with gone := x.d2d0 == 0 && x.d2d1 == 0 }).raise { code := 0x030B, kind := 2, part := c, addr := m }

theorem moduleDown_modules (m : Fin 2) (p : List Nat) :
    (moduleDown s c m p).mdie[c].d2d0 = (if m = 0 then 0 else s.mdie[c].d2d0) ∧
      (moduleDown s c m p).mdie[c].d2d1 = (if m = 1 then 0 else s.mdie[c].d2d1) := by
  rw [moduleDown, raise_mdie, modMdie_same, modMdie_same]
  exact ⟨rfl, rfl⟩

/-- A module that was up goes down: its state is 0, the other's stands, the lines in flight are marked, and a device that is ready drains
(11 R357, 16 R554). -/
theorem moduleDown_gives (m : Fin 2) (hHeld : s.dev.held = false)
    (hUp : (if m = 0 then s.mdie[c].d2d0 != 0 else s.mdie[c].d2d1 != 0) = true) : Gives (.d2dModuleDown c m lines) s fun t =>
      t.mdie[c].d2d0 = (if m = 0 then 0 else s.mdie[c].d2d0) ∧ t.mdie[c].d2d1 = (if m = 1 then 0 else s.mdie[c].d2d1) ∧
        t.mem = s.mem ∧ (s.prf.ready = true → t.dev.flagged = true) ∧
        ∀ l ∈ lines, s.addrOk (64 * l.toNat) 64 = true → l.toNat ∈ t.poison := by
  obtain ⟨p, hLines, -, hMarked⟩ := markLines_marks s lines
  have hExec : exec (.d2dModuleDown c m lines) s = .next (
      if s.prf.ready = true then (moduleDown s c m p).drainDevice 4 none c else moduleDown s c m p) := by
    change execD2dModuleDown c m lines s = _
    simp only [execD2dModuleDown, hHeld, hUp, hLines, Bool.not_true, Bool.or_self, Bool.false_eq_true, if_false]
    rfl
  obtain ⟨hFirst, hSecond⟩ := moduleDown_modules (s := s) (c := c) m p
  refine ⟨_, hExec, ?_⟩
  cases hReady : s.prf.ready with
  | false =>
    rw [if_neg (by decide)]
    exact ⟨hFirst, hSecond, rfl, by simp, hMarked⟩
  | true =>
    rw [if_pos rfl]
    obtain ⟨hKept, hFlagged⟩ := drainDevice_flags (moduleDown s c m p) 4 none c
    exact ⟨by rw [hKept.mdie, hFirst], by rw [hKept.mdie, hSecond], hKept.mem, fun _ => hFlagged,
      fun l hl hAddr => by rw [hKept.poison]; exact hMarked l hl hAddr⟩

end

/-- Settles O57, command by command: what the end of a decision leaves is `decided_over`, `transient_counts` and `permanent_flags`, which rest
on `verdicts`; what becomes of a line is `uncorrectable_contents`, and what a module's fall leaves is `moduleDown_gives`. -/
theorem faultsAreDecided : Obligations.FaultsAreDecided := by
  unfold Obligations.FaultsAreDecided
  intro n k sig s d? gone flags
  refine ⟨fun d hd hp => ⟨checkResult_agrees hd hp, checkResult_differs hd hp⟩,
    fun d hd hp => ⟨fun hs => ?_, fun hs hs' => ?_, fun hs hs' => ?_⟩,
    fun d hd hp => ⟨fun hs => ?_, fun hs => ?_, flags_of_permanent (exec_noTaker hd (.inr hp)) (by simp)⟩,
    fun d hd hp => flags_of_permanent (exec_noTaker hd (.inl hp)) (by simp), fun d hd hp => abandon_skips hd hp,
    fun bad outside h => kernel_refused s n h, fun bad outside hTest hFits => ?_, testLate_counts, fun line data bank row hHeld => ?_,
    fun c i bank row h hCopy bad => rowCopyDone_frees h hCopy bad, fun c lines hHeld => ?_⟩
  · exact ⟨_, (exec_refereeResult hd hp).trans (by rw [if_pos hs]), suspected d sig n, setDup_same s n _ hd, rfl, rfl, rfl,
      rfl, rfl, rfl, rfl, rfl⟩
  · exact ⟨_, (exec_refereeResult hd hp).trans (by rw [if_neg hs, if_pos hs']), suspected d sig d.checker, setDup_same s n _ hd, rfl, rfl⟩
  · exact flags_of_permanent ((exec_refereeResult hd hp).trans (by rw [if_neg hs, if_neg hs'])) (by simp)
  · exact ⟨_, (exec_suspectResult hd hp).trans (by rw [if_pos hs]), transient_counts s n k.toNat d⟩
  · exact flags_of_permanent ((exec_suspectResult hd hp).trans (by rw [if_neg hs])) (by simp)
  · exact ⟨fun hFirst hBad hOut => by rw [hBad, hOut]; exact kernel_passes hTest hFits hFirst,
      fun hAgain hBad hOut => by rw [hBad, hOut]; exact kernel_transient hTest hFits hAgain,
      fun hFirst hBad => kernel_fails hTest hFits hFirst hBad,
      fun hAgain hBad hSame hOut hLanes => by rw [hOut]; exact kernel_bypasses hTest hFits hAgain hBad hSame hLanes,
      fun hAgain hOut => by rw [hOut]; exact kernel_flags hTest hFits hAgain⟩
  · exact ⟨exec_scrub_clean, scrub_own_corrects hHeld, ⟨_, exec_scrub_own hHeld (by decide), lkpError_counts⟩,
      fun hAddr => ⟨scrub_corrects hHeld (by decide) hAddr (Bool.and_false _),
        fun hDram => scrub_corrects hHeld (by decide) hAddr (by rw [hDram, Bool.false_and]),
        fun hKeyed hClean hLen => ⟨scrub_marks hHeld hAddr hKeyed hLen, scrub_llc_marks hHeld hAddr hKeyed hClean hLen⟩⟩⟩
  · refine ⟨exec_d2dRetry hHeld, fun hUp => moduleDown_gives 0 hHeld (bne_iff_ne.mpr hUp), fun hUp => ?_⟩
    obtain ⟨t, hExec, hFirst, hSecond, hMarks⟩ := moduleDown_gives (lines := lines) 1 hHeld (bne_iff_ne.mpr hUp)
    exact ⟨t, hExec, hSecond, hFirst, hMarks⟩

end Sys2Proof.Machine.Faults

/-! PROOF. The hardware semaphores (13 R448, R449): where a write of SEM_n goes, what each of the three writes makes of a semaphore, and
what link loss and the end of the last session free, each with its record. -/

namespace Sys2Proof.Machine.Semaphores

open Sys2Proof.Machine Sys2Proof.Machine.Laws Sys2Proof.Machine.EgressRings

/-! ### Where a write of SEM_n goes (13 R451; 16 R556) -/

section

variable (s : State)

theorem clrWrite_sem (n : Fin 32) (v : Nat) : s.clrWrite (semOff n) v = none := by
  unfold semOff State.clrWrite
  split
  case h_9 => exact if_pos (by omega)
  all_goals omega

theorem regDefined_sem (n : Fin 32) : regDefined (semOff n) = true := by
  have hRow : inRow (semOff n - 0x10000) 0 8 32 = true := inRow_of (i := n) (by rw [semOff]; omega) n.isLt (by decide)
  rw [regDefined, if_neg (by rw [semOff]; omega), if_pos (by rw [semOff]; omega), hRow, Bool.true_or]

/-- A device that drains serves its semaphores. -/
theorem drainServes_sem (n : Fin 32) : drainServes (semOff n) = true := by
  have hLow : 0x10000 ≤ semOff n := by rw [semOff]; omega
  have hHigh : semOff n < 0x10100 := by rw [semOff]; omega
  simp [drainServes, hLow, hHigh]

theorem plainWrite_sem (p : Port) (n : Fin 32) (v : W64) : s.plainWrite p (semOff n) v = (s.semWrite p n v, 0) := by
  have hIndex : (⟨(semOff n - 0x10000) / 8, by rw [semOff]; omega⟩ : Fin 32) = n := Fin.ext (by dsimp only [semOff]; omega)
  rw [State.plainWrite, dif_pos (by rw [semOff]; omega), hIndex]

variable {s} {p : Port}

theorem portWrite_sem (hOn : s.portOn p = true) (hReady : s.prf.ready = true) (n : Fin 32) (v : W64) :
    s.portWrite p (semOff n) v = s.semWrite p n v := by
  have hAlign : semOff n % 8 = 0 := by rw [semOff]; omega
  have hMode : semOff n ≠ 0x480028 := by rw [semOff]; omega
  rw [portWrite_open s hOn _ hAlign, State.regWrite]
  simp [hReady, hAlign, hMode, regDefined_sem, clrWrite_sem, drainServes_sem, plainWrite_sem]

theorem exec_semWrite (hOn : s.portOn p = true) (hReady : s.prf.ready = true) (n : Fin 32) (v : W64) :
    exec (.registerWrite p (BitVec.ofNat 26 (0x10000 + 8 * n)) v) s = .next (s.semWrite p n v) := by
  have hOff : (BitVec.ofNat 26 (0x10000 + 8 * n.val)).toNat = semOff n := by
    rw [BitVec.toNat_ofNat, semOff]
    omega
  change Host.Outcome.next (s.portWrite p (BitVec.ofNat 26 (0x10000 + 8 * n.val)).toNat v) = _
  rw [hOff, portWrite_sem hOn hReady]

theorem exec_semTake (hOn : s.portOn p = true) (hReady : s.prf.ready = true) (n : Fin 32) :
    exec (.semTake p n) s = .next (s.semTake p n) := congrArg _ (portWrite_sem hOn hReady n 8)

theorem exec_semRelease (hOn : s.portOn p = true) (hReady : s.prf.ready = true) (n : Fin 32) :
    exec (.semRelease p n) s = .next (s.semRelease p n) := congrArg _ (portWrite_sem hOn hReady n 16)

theorem exec_semBreak (hOn : s.portOn p = true) (hReady : s.prf.ready = true) (n : Fin 32) :
    exec (.semBreak p n) s = .next (s.semBreak p n) := congrArg _ (portWrite_sem hOn hReady n 32)

end

/-! ### TAKE, RELEASE and BREAK (13 R448, R449) -/

section

variable {s : State} {p : Port} {n : Fin 32}

/-- No port's number is FREE's. -/
theorem ownerOf_ne_free (p : Port) : ownerOf p ≠ 0 := by
  cases p with
  | host => exact (by decide : (1 : BitVec 2) ≠ 0)
  | mgmt i => exact (by decide : (2 : BitVec 2) ≠ 0)

theorem semTake_free (h : s.sem[n].owner = 0) : s.semTake p n = s.semOwn n (ownerOf p) := if_pos h

theorem semTake_held (h : s.sem[n].owner ≠ 0) : s.semTake p n = s := if_neg h

theorem semRelease_free (h : s.sem[n].owner = 0) : s.semRelease p n = s := if_pos h

theorem semRelease_own (h : s.sem[n].owner = ownerOf p) : s.semRelease p n = s.semOwn n 0 := by
  rw [State.semRelease, if_neg (by rw [h]; exact ownerOf_ne_free p), State.holds, h, if_pos (beq_self_eq_true _)]

theorem semRelease_other (hHeld : s.sem[n].owner ≠ 0) (hOther : s.sem[n].owner ≠ ownerOf p) : s.semRelease p n = s.semRefuse := by
  rw [State.semRelease, if_neg hHeld, State.holds, if_neg (by simpa using hOther)]

theorem semBreak_free (h : s.sem[n].owner = 0) : s.semBreak p n = s := by
  rw [State.semBreak, h]
  rfl

theorem semBreak_own (h : s.sem[n].owner = ownerOf p) : s.semBreak p n = s := by
  rw [State.semBreak, State.holds, h, beq_self_eq_true, Bool.or_true, if_pos rfl]

theorem semBreak_other (hHeld : s.sem[n].owner ≠ 0) (hOther : s.sem[n].owner ≠ ownerOf p) : s.semBreak p n =
    if s.prf.semHold ≤ s.heldMs n then (s.semBreakEv n 0).semOwn n (ownerOf p) else s.semRefuse := by
  rw [State.semBreak, State.holds, decide_eq_false hHeld, beq_eq_false_iff_ne.mpr hOther, Bool.or_self, if_neg Bool.false_ne_true]

end

/-! ### Records that stay among the newest (13 R446) -/

/-- The record is among the newest `k` of a list. -/
def Among (e : ErrRec) (k : Nat) (l : List ErrRec) : Prop := ∃ older newer, l = older ++ e :: newer ∧ newer.length < k

theorem Among.mem {e : ErrRec} {k : Nat} {l : List ErrRec} (h : Among e k l) : e ∈ l := by
  obtain ⟨older, newer, rfl, -⟩ := h
  simp

theorem Among.mono {e : ErrRec} {k m : Nat} {l : List ErrRec} (h : Among e k l) (hk : k ≤ m) : Among e m l := by
  obtain ⟨older, newer, hl, hNewer⟩ := h
  exact ⟨older, newer, hl, by omega⟩

theorem keepRecord_among (m : Mgt) (e : ErrRec) : Among e 1 (keepRecord m e).recs := by
  unfold keepRecord
  split
  · exact ⟨m.recs, [], rfl, Nat.one_pos⟩
  · exact ⟨m.recs.drop 1, [], rfl, Nat.one_pos⟩

/-- A record among the newest is not the one that goes to make room for another. -/
theorem Among.keepRecord {e : ErrRec} {k : Nat} {m : Mgt} (h : Among e k m.recs) (hk : k < 4096) (r : ErrRec) :
    Among e (k + 1) (keepRecord m r).recs := by
  obtain ⟨older, newer, hRecs, hNewer⟩ := h
  unfold Machine.keepRecord
  rw [hRecs]
  split
  · exact ⟨older, newer ++ [r], by simp, by simpa using hNewer⟩
  · next hFull =>
    cases older with
    | nil => exact absurd (by simp; omega) hFull
    | cons x older => exact ⟨older, newer ++ [r], by simp, by simpa using hNewer⟩

/-! ### Semaphores that become FREE (13 R448) -/

section

variable (s : State)

/-- The record of SEM_BROKEN: the semaphore, the cause, the owner that lost it and its HELD_MS. -/
structure BreakRecord (n : Fin 32) (cause : Nat) (e : ErrRec) : Prop where
  event : e.event = 0x0908
  addr  : e.addr = BitVec.ofNat 64 n
  cause : e.d0 = BitVec.ofNat 64 cause
  owner : e.d1 = BitVec.ofNat 64 s.sem[n].owner.toNat
  held  : e.d2 = BitVec.ofNat 64 (s.heldMs n)

/-- What a record says of a semaphore rests on its owner and on how long it has been held. -/
theorem BreakRecord.congr {s t : State} {n : Fin 32} {cause : Nat} {e : ErrRec} (h : BreakRecord t n cause e) (hSem : t.sem[n] = s.sem[n])
    (hTime : t.time = s.time) : BreakRecord s n cause e := by
  have hHeld : t.heldMs n = s.heldMs n := by rw [State.heldMs, State.heldMs, hSem, hTime]
  exact ⟨h.event, h.addr, h.cause, hSem ▸ h.owner, hHeld ▸ h.held⟩

theorem semBreakEv_records (n : Fin 32) (cause : Nat) : ∃ e, BreakRecord s n cause e ∧ (s.semBreakEv n cause).mgt = keepRecord s.mgt e :=
  ⟨s.record s.time { code := 0x0908, addr := n, d0 := cause, d1 := s.sem[n].owner.toNat, d2 := s.heldMs n },
    ⟨rfl, rfl, rfl, rfl, rfl⟩, rfl⟩

theorem semBreakEv_raised (n : Fin 32) (cause : Nat) :
    Raised s (s.semBreakEv n cause) 0x0908 0xFFFF (sourceWord s.cpl.node 0 0) :=
  raise_raised { s with semBroken := stick32 s.semBroken 1 }
    { code := 0x0908, addr := n, d0 := cause, d1 := s.sem[n].owner.toNat, d2 := s.heldMs n }

/-- One semaphore becomes FREE if it has the owner; `freeSems` does so to each in turn. -/
def freeSem (o : BitVec 2) (cause : Nat) (s : State) (n : Fin 32) : State :=
  if s.sem[n].owner = o then (s.semBreakEv n cause).semOwn n 0 else s

theorem freeSems_eq (o : BitVec 2) (cause : Nat) : s.freeSems o cause = (List.finRange 32).foldl (freeSem o cause) s := rfl

theorem freeSem_time (o : BitVec 2) (cause : Nat) (n : Fin 32) : (freeSem o cause s n).time = s.time := by
  unfold freeSem
  split <;> rfl

theorem freeSem_other (o : BitVec 2) (cause : Nat) {n m : Fin 32} (h : n ≠ m) : (freeSem o cause s m).sem[n] = s.sem[n] := by
  have hVal : m.val ≠ n.val := fun e => h (Fin.ext e.symm)
  unfold freeSem
  split
  · simp [semBreakEv_sem, Vector.getElem_set_ne, hVal]
  · rfl

variable {s} {o : BitVec 2} {cause : Nat}

theorem freeSem_among {e : ErrRec} {k : Nat} (h : Among e k s.mgt.recs) (hk : k < 4096) (n : Fin 32) :
    Among e (k + 1) (freeSem o cause s n).mgt.recs := by
  unfold freeSem
  split
  · obtain ⟨r, -, hMgt⟩ := semBreakEv_records s n cause
    rw [semOwn_mgt, hMgt]
    exact h.keepRecord hk r
  · exact h.mono (Nat.le_succ k)

theorem freeSemFold_among {e : ErrRec} {k : Nat} (l : List (Fin 32)) (h : Among e k s.mgt.recs) (hk : k + l.length ≤ 4096) :
    Among e (k + l.length) (l.foldl (freeSem o cause) s).mgt.recs := by
  induction l generalizing s k with
  | nil => exact h
  | cons m l ih =>
    rw [List.length_cons] at hk
    rw [List.foldl_cons, List.length_cons, Nat.add_comm l.length, ← Nat.add_assoc]
    exact ih (freeSem_among h (by omega) m) (by omega)

theorem freeSemFold_records {n : Fin 32} (hOwner : s.sem[n].owner = o) (l : List (Fin 32)) (hMem : n ∈ l) (hl : l.length ≤ 4096) :
    ∃ e, BreakRecord s n cause e ∧ Among e l.length (l.foldl (freeSem o cause) s).mgt.recs := by
  induction l generalizing s with
  | nil => exact absurd hMem List.not_mem_nil
  | cons m l ih =>
    rw [List.length_cons] at hl
    by_cases hm : n = m
    · subst hm
      obtain ⟨e, hRecord, hMgt⟩ := semBreakEv_records s n cause
      have hFirst : Among e 1 (freeSem o cause s n).mgt.recs := by
        rw [freeSem, if_pos hOwner, semOwn_mgt, hMgt]
        exact keepRecord_among _ e
      exact ⟨e, hRecord, (freeSemFold_among l hFirst (by omega)).mono (by rw [List.length_cons]; omega)⟩
    · have hKept := freeSem_other s o cause hm
      obtain ⟨e, hRecord, hAmong⟩ := ih (by rw [hKept, hOwner]) ((List.mem_cons.mp hMem).resolve_left hm) (by omega)
      exact ⟨e, hRecord.congr hKept (freeSem_time s o cause m), hAmong.mono (Nat.le_succ _)⟩

/-- Each semaphore of the owner becomes FREE, and its record is among the newest 32. -/
theorem freeSems_breaks {n : Fin 32} (hOwner : s.sem[n].owner = o) (ho : o ≠ 0) (cause : Nat) :
    (s.freeSems o cause).sem[n].owner = 0 ∧ ∃ e, BreakRecord s n cause e ∧ Among e 32 (s.freeSems o cause).mgt.recs := by
  refine ⟨by rw [freeSems_owner s o cause n ho, if_pos hOwner], ?_⟩
  have h := freeSemFold_records (cause := cause) hOwner (List.finRange 32) (List.mem_finRange n) (by simp)
  rw [List.length_finRange] at h
  rwa [freeSems_eq]

end

/-! ### Link loss and the end of the last session (13 R437, R444, R448) -/

section

variable {s : State}

theorem linkDown_frees (hUp : s.pci.up = true) : ∃ t : State, s.linkDown = t.freeSems 1 1 ∧ t.sem = s.sem ∧ t.time = s.time := by
  unfold State.linkDown
  simp only [hUp, Bool.not_true, Bool.false_eq_true, if_false]
  exact ⟨_, rfl, rfl, rfl⟩

/-- With the link down, Bus Master Enable becoming 0 clears that bit besides. -/
theorem exec_linkDown (hHeld : s.dev.held = false) :
    ∃ t, exec (.pciLinkDown 1) s = .next t ∧ t.sem = s.linkDown.sem ∧ t.mgt = s.linkDown.mgt := by
  refine ⟨{ s.linkDown with pci := { s.linkDown.pci with bme := false } }, ?_, rfl, rfl⟩
  change execPciLinkDown 1 s = _
  simp only [execPciLinkDown, hHeld]
  rfl

theorem setMaint_sem (m : Bool) (session : W64) : (s.setMaint m session).sem = s.sem := by
  unfold State.setMaint
  split <;> rfl

/-- Leaving maintenance state adds at most its own record. -/
theorem setMaint_among {e : ErrRec} {k : Nat} (h : Among e k s.mgt.recs) (hk : k < 4096) (m : Bool) (session : W64) :
    Among e (k + 1) (s.setMaint m session).mgt.recs := by
  unfold State.setMaint
  split
  · exact h.mono (Nat.le_succ k)
  · exact h.keepRecord hk _

/-- The end of the only session frees management's semaphores; maintenance state may end with it. -/
theorem endSession_last {k : Fin 4} {x : Session} (hOpen : s.mgt.sess[k] = some x) (hLast : ∀ j : Fin 4, j ≠ k → s.mgt.sess[j] = none) :
    ∃ t : State, t.sem = s.sem ∧ t.time = s.time ∧
      (s.endSession k = t.freeSems 2 2 ∨ s.endSession k = (t.freeSems 2 2).setMaint false x.id) := by
  have hNone : ((s.mgt.sess.set k none).toList.all (·.isNone)) = true := by
    rw [Vector.all_toList, Vector.all_eq_true]
    intro i hi
    by_cases h : k.val = i
    · subst h; simp
    · rw [Vector.getElem_set_ne _ _ h]
      exact Option.isNone_iff_eq_none.mpr (hLast ⟨i, hi⟩ fun e => h (congrArg Fin.val e).symm)
  refine ⟨{ s with mgt := { s.mgt with sess := s.mgt.sess.set k none } }, rfl, rfl, ?_⟩
  simp only [State.endSession, hOpen, hNone, if_true]
  split
  · exact .inl rfl
  · exact .inr rfl

end

/-- Settles O32: a write goes to its semaphore by `exec_semWrite`, and is one of the three writes, of which each case has its own lemma;
what is lost becomes FREE, with its record, by `freeSems_breaks`. -/
theorem semaphoresChangeHands : Obligations.SemaphoresChangeHands := by
  unfold Obligations.SemaphoresChangeHands
  intro p n s hOn hReady me o becomes refused broken
  have hMe : me = ownerOf p := by cases p <;> rfl
  have hTake := exec_semTake hOn hReady n
  have hRelease := exec_semRelease hOn hReady n
  have hBreak := exec_semBreak hOn hReady n
  refine ⟨fun v => ?_, fun hHeld hUp hOwner => ?_, fun k x hOpen hLast hOwner => ?_, fun hFree => ?_, fun hOwn => ?_,
    fun hHeld hOther => ?_⟩
  · have hWrite := exec_semWrite hOn hReady n v
    simp only [State.semWrite, bitAt_toNat] at hWrite
    dsimp only
    rw [hWrite, hTake, hRelease, hBreak]
    cases v.getLsbD 3 <;> cases v.getLsbD 4 <;> cases v.getLsbD 5 <;> rfl
  · obtain ⟨t, hDown, hSem, hTime⟩ := linkDown_frees hUp
    obtain ⟨hFreed, e, hRecord, hAmong⟩ := freeSems_breaks (s := t) (n := n) (o := 1) (by rw [hSem]; exact hOwner) (by decide) 1
    obtain ⟨hEvent, hAddr, hCause, hPrev, hMs⟩ := hRecord.congr (s := s) (by rw [hSem]) hTime
    obtain ⟨u, hExec, hSemKept, hMgtKept⟩ := exec_linkDown hHeld
    exact ⟨u, hExec, by rw [hSemKept, hDown, hFreed], e, by rw [hMgtKept, hDown]; exact hAmong.mem, hEvent, hAddr, hCause, hPrev, hMs⟩
  · obtain ⟨t, hSem, hTime, hEnd⟩ := endSession_last hOpen hLast
    obtain ⟨hFreed, e, hRecord, hAmong⟩ := freeSems_breaks (s := t) (n := n) (o := 2) (by rw [hSem]; exact hOwner) (by decide) 2
    obtain ⟨hEvent, hAddr, hCause, hPrev, hMs⟩ := hRecord.congr (s := s) (by rw [hSem]) hTime
    refine ⟨s.endSession k, rfl, ?_, e, ?_, hEvent, hAddr, hCause, hPrev, hMs⟩
    · obtain h | h := hEnd
      · rw [h, hFreed]
      · rw [h, setMaint_sem, hFreed]
    · obtain h | h := hEnd
      · rw [h]; exact hAmong.mem
      · rw [h]; exact (setMaint_among hAmong (by decide) _ _).mem
  · rw [hTake, hRelease, hBreak, semTake_free hFree, semRelease_free hFree, semBreak_free hFree, ← hMe]
    exact ⟨rfl, rfl, rfl⟩
  · have hOwner : s.sem[n].owner = ownerOf p := hOwn.trans hMe
    rw [hTake, hRelease, hBreak, semTake_held (by rw [hOwner]; exact ownerOf_ne_free p), semRelease_own hOwner, semBreak_own hOwner]
    exact ⟨rfl, rfl, rfl⟩
  · have hNot : s.sem[n].owner ≠ ownerOf p := hMe ▸ hOther
    have hBroken := semBreak_other hHeld hNot
    refine ⟨by rw [hTake, semTake_held hHeld], by rw [hRelease, semRelease_other hHeld hNot]; rfl, fun hEarly => ?_, fun hDue => ?_⟩
    · rw [hBreak, hBroken, if_neg (Nat.not_le.mpr hEarly)]
      rfl
    · refine ⟨_, hBreak, ?_⟩
      rw [hBroken, if_pos hDue, ← hMe]
      exact ⟨rfl, rfl, rfl, semBreakEv_raised s n 0, ⟨rfl, rfl, rfl, rfl, rfl⟩, ⟨rfl, rfl, rfl⟩, rfl, rfl⟩

end Sys2Proof.Machine.Semaphores

/-! PROOF. The host barge queue and the timeout of host reads (13 R433 to R435, R438): what a descriptor that is queued, started or refused
makes of the queue, and what a barge that a timeout cuts off has moved. -/

namespace Sys2Proof.Machine.HostBarges

open Sys2Proof.Machine Sys2Proof.Machine.Laws Sys2Proof.Machine.NmuAccess Sys2Proof.Machine.Lrate Sys2Proof.Machine.EgressRings
  Sys2Proof.Machine.Faults

/-! ### The queue (13 R433) -/

section

variable {s : State} {p : Port} {desc : BitVec 34}

/-- What a write of PCI_HBQ_CMD carries: the address of a descriptor, in units of 64 bytes from bit 6 on. -/
def descWord (desc : BitVec 34) : W64 := BitVec.ofNat 64 (desc.toNat * 64)

theorem bits_descWord (desc : BitVec 34) : bits (descWord desc).toNat 6 34 = desc.toNat := by
  have hLt := desc.isLt
  rw [descWord, bits, BitVec.toNat_ofNat]
  omega

theorem exec_hbqCmd (h : OpenPort s p) (desc : BitVec 34) : exec (.hbqCmd p desc) s = .next (s.hbqCmd p (descWord desc)) := by
  change Host.Outcome.next (s.portWrite p 0x380010 (descWord desc)) = _
  rw [portWrite_plain h (by decide) (by decide) (by decide) _ rfl]
  rfl

theorem hbqCmd_room (h : s.pci.hbq.length < 64) : s.hbqCmd p (descWord desc) =
    { s with pci := { s.pci with hbq := s.pci.hbq ++ [desc.toNat * 64] } } := by
  rw [State.hbqCmd, if_neg (Nat.not_le.mpr h), bits_descWord]

theorem hbqCmd_full (h : 64 ≤ s.pci.hbq.length) (v : W64) : s.hbqCmd p v = s.raise { code := 0x0906, kind := kindOf p } := by
  rw [State.hbqCmd, if_pos h]
  cases p <;> rfl

end

/-! ### The start of a host barge (13 R434, R435) -/

section

variable {s : State} {a : Nat} {as : List Nat}

theorem exec_start_busy (h : s.pci.hbar ≠ none) : exec .hostBargeStart s = .next s := by
  obtain ⟨g, hBusy⟩ := Option.ne_none_iff_exists'.mp h
  change execHostBargeStart s = _
  rw [execHostBargeStart, hBusy]
  cases s.pci.hbq <;> rfl

/-- The event of a descriptor that lies in no memory that it may lie in. -/
def descEvent (a : Nat) : Ev := { code := 0x030D, kind := 7, part := 0x10, addr := a }

theorem exec_start_idle (hQueue : s.pci.hbq = a :: as) (hIdle : s.pci.hbar = none) (hShed : s.dev.shed.toNat < 6) :
    exec .hostBargeStart s = .next (if s.openMem a 64 = true
      then { s.bump with pci := { s.pci with hbar := some { desc := s.bump.read a 64, busy := true } } }
      else (s.raise (descEvent a)).hostBargeEnd 0x030D) := by
  change execHostBargeStart s = _
  simp only [execHostBargeStart, hQueue, hIdle, if_neg (Nat.not_le.mpr hShed)]
  rw [← hQueue]
  cases s.openMem a 64 <;> rfl

/-- A vector that is raised is marked pending or leaves the device (13 R436). -/
theorem msix_pending (s : State) (v : Nat) : ∃ l o, s.msix v = { s with pci := { s.pci with pend := l }, out := o } := by
  unfold State.msix
  split
  · exact ⟨s.pci.pend, s.out, rfl⟩
  split
  · exact ⟨_, s.out, rfl⟩
  split
  · exact ⟨s.pci.pend, _, rfl⟩
  · exact ⟨s.pci.pend, s.out, rfl⟩

/-- A host barge that has failed is over: it has left the queue and is counted, its code is kept, and its vector may be raised. -/
theorem hostBargeEnd_failed (s : State) {code : W16} (h : code ≠ 0) : ∃ l o, s.hostBargeEnd code =
    { s with pci := { s.pci with hbar := none, hbq := s.pci.hbq.drop 1, done := s.pci.done + 1, code := code, pend := l }, out := o } := by
  simp only [State.hostBargeEnd, if_neg h]
  split
  · exact msix_pending _ _
  · exact ⟨s.pci.pend, s.out, rfl⟩

theorem start_fails (hQueue : s.pci.hbq = a :: as) : let t := (s.raise (descEvent a)).hostBargeEnd 0x030D
    t.pci.hbar = none ∧ t.pci.hbq = as ∧ t.pci.done = s.pci.done + 1 ∧ t.pci.code = 0x030D ∧
      Raised s t 0x030D 0xFFFF (srcOf s 7 0x10) ∧ t.reach = s.reach ∧ MemoryKept s t := by
  obtain ⟨l, o, hEnd⟩ := hostBargeEnd_failed (s.raise (descEvent a)) (code := 0x030D) (by decide)
  dsimp only
  rw [hEnd]
  exact ⟨rfl, by rw [raise_pci, hQueue]; rfl, rfl, rfl, raised_around (raise_raised s (descEvent a)) rfl rfl rfl, rfl, rfl, rfl, rfl⟩

end

/-! ### Marked bytes on their way to memory (11 R365) -/

section

variable (s : State)

/-- What every write within a line keeps, a write of marked bytes keeps. -/
theorem markedGo_keeps {α : Type} (P : State → α) (h : ∀ s a bs p, P (State.writeLine s a bs p) = P s) (a : Nat) (bs : List MByte)
    (k : Nat) : P (s.markedGo a bs k) = P s := by
  induction k generalizing s a bs with
  | zero => rfl
  | succ k ih =>
    unfold State.markedGo
    split
    · rfl
    · exact (ih _ _ _).trans (h _ _ _ _)

theorem byte_markedGo (a : Nat) (bs : List MByte) (k : Nat) {b : Nat} (hb : b < a ∨ a + bs.length ≤ b) :
    (s.markedGo a bs k).byte b = s.byte b := by
  induction k generalizing s a bs with
  | zero => rfl
  | succ k ih =>
    unfold State.markedGo
    split
    · rfl
    · have hTake : ((bs.take (64 - a % 64)).map (·.1)).length = min (64 - a % 64) bs.length := by rw [List.length_map, List.length_take]
      rw [ih _ _ _ (by rw [List.length_drop]; omega), byte_writeLine _ _ _ _ _ (by omega), if_neg (by omega)]

/-- What a reach does when a barge of its is over rests on these alone (07 R239; 16 R541). -/
def waits (x : Reach) : Machine.Unit × Bool × Bool := (x.u, x.lateClear, x.waitBarges)

/-- Bytes have been moved for a barge of a reach: no byte outside the ranges has changed, nor what the reach waits for, nor the host
port. -/
structure Moves (s t : State) (n : Fin 16) (ws : List (Nat × Nat)) : Prop where
  bytes : ∀ b, (∀ w ∈ ws, b < w.1 ∨ w.1 + w.2 ≤ b) → t.byte b = s.byte b
  waits : waits t.reach[n] = waits s.reach[n]
  pci   : t.pci = s.pci

variable {s} {n k : Fin 16} {ws : List (Nat × Nat)}

theorem Moves.refl : Moves s s n ws := ⟨fun _ _ => rfl, rfl, rfl⟩

theorem Moves.trans {t u : State} (h : Moves s t n ws) (g : Moves t u n ws) : Moves s u n ws :=
  ⟨fun b hb => (g.bytes b hb).trans (h.bytes b hb), g.waits.trans h.waits, g.pci.trans h.pci⟩

theorem send_moves (o : Out) : Moves s (s.send o) n ws := ⟨fun _ _ => rfl, rfl, rfl⟩

theorem modBarge_moves (f : Barge → Barge) : Moves s (s.modBarge (.reach n k) f) n ws := by
  refine ⟨fun _ _ => rfl, ?_, rfl⟩
  rw [State.modBarge, modReach_same]
  rfl

theorem digestTakes_moves (dig : Bool) (row : List MByte) : Moves s (s.digestTakes (.reach n k) dig row) n ws := by
  unfold State.digestTakes
  split
  · exact modBarge_moves _
  · exact Moves.refl

theorem markedWrite_moves {a m : Nat} (hMem : (a, m) ∈ ws) {bs : List MByte} (hLen : bs.length ≤ m) :
    Moves s (s.markedWrite a bs) n ws where
  bytes b hb := byte_markedGo s a bs _ (by have := hb _ hMem; dsimp only at this; omega)
  waits := markedGo_keeps s (fun s => waits s.reach[n]) (fun s a bs p => by rw [writeLine_reach]) a bs _
  pci := markedGo_keeps s State.pci writeLine_pci a bs _

end

/-! ### Rows from host memory (13 R438; 11 R377) -/

/-- A COPY from host memory to device memory. -/
structure FromHost (d : BDesc) : Prop where
  kind : d.kind = 1
  ssp  : d.ssp = 1
  dsp  : d.dsp = 0
  size : 0 < d.rowBytes

section

variable {s : State} {n k : Fin 16} {d : BDesc}

theorem row_mem_writes (h : FromHost d) {r : Nat} (hr : r < d.rows) : (d.dst + r * d.dpitch, d.rowBytes) ∈ d.writes := by
  rw [BDesc.writes, h.dsp, h.kind]
  exact List.mem_append_left _ (List.mem_map.mpr ⟨r, List.mem_range.mpr hr, rfl⟩)

/-- A row goes to device memory whole, and nothing stops it. -/
theorem putRow_device (h : FromHost d) (ctx job r : Nat) (row : List MByte) :
    s.putRow (.reach n k) d ctx job r row = (s.markedWrite (d.dst + r * d.dpitch) row, false) := by
  simp only [State.putRow, h.dsp, if_true]
  rfl

theorem length_srcRow_le (h : FromHost d) (input : List Byte) (r : Nat) : (s.srcRow d input r).length ≤ d.rowBytes := by
  rw [State.srcRow, h.ssp, if_neg (by decide), List.length_map]
  exact List.length_take_le _ _

/-- R379 refuses a descriptor whose rows have no bytes. -/
theorem rowBytes_pos {b : BargeRef} {g : Barge} (h : s.descBad b g d = false) : 0 < d.rowBytes := by
  refine Nat.pos_of_ne_zero fun hZero => ?_
  simp [State.descBad, BDesc.bad, hZero] at h

/-- One row of the copy. -/
def rowCopied (s : State) (n k : Fin 16) (d : BDesc) (input : List Byte) (r : Nat) : State :=
  ((s.send (.hostRead (d.src + r * d.spitch) d.rowBytes)).digestTakes (.reach n k) d.dig (s.srcRow d input r)).markedWrite
    (d.dst + r * d.dpitch) (s.srcRow d input r)

theorem rowCopied_moves (h : FromHost d) (input : List Byte) {r : Nat} (hr : r < d.rows) : Moves s (rowCopied s n k d input r) n d.writes :=
  ((send_moves _).trans (digestTakes_moves _ _)).trans (markedWrite_moves (row_mem_writes h hr) (length_srcRow_le h input r))

theorem copyRows_succ (h : FromHost d) (ctx job : Nat) (input : List Byte) (r rows : Nat) :
    s.copyRows (.reach n k) d ctx job input r (rows + 1) =
      (rowCopied s n k d input r).copyRows (.reach n k) d ctx job input (r + 1) rows := by
  simp only [State.copyRows, h.ssp, if_true, putRow_device h]
  rfl

theorem copyRows_moves (h : FromHost d) (ctx job : Nat) (input : List Byte) {r rows : Nat} (hr : r + rows ≤ d.rows) :
    (s.copyRows (.reach n k) d ctx job input r rows).2 = false ∧
      Moves s (s.copyRows (.reach n k) d ctx job input r rows).1 n d.writes := by
  induction rows generalizing s r with
  | zero => exact ⟨rfl, Moves.refl⟩
  | succ rows ih =>
    rw [copyRows_succ h]
    obtain ⟨hStop, hMoves⟩ := ih (s := rowCopied s n k d input r) (r := r + 1) (by omega)
    exact ⟨hStop, (rowCopied_moves h input (by omega)).trans hMoves⟩

end

/-! ### A host read that times out (13 R438) -/

section

variable (s : State) (n k : Fin 16) (d : BDesc) (input : List Byte)

/-- The lines of the barge's ranges have passed through the slices. -/
def passed : State :=
  (d.writes.foldl (fun (s : State) p => s.llc p.1 p.2) (d.reads.foldl (fun (s : State) p => s.llc p.1 p.2 !d.noalloc) s)).bump

theorem llcFold_accessed (alloc : Bool) (ps : List (Nat × Nat)) : Accessed s (ps.foldl (fun (s : State) p => s.llc p.1 p.2 alloc) s) := by
  induction ps generalizing s with
  | nil => exact Accessed.refl s
  | cons p ps ih => exact (llc_accessed s p.1 p.2).trans (ih _)

theorem passed_accessed : Accessed s (passed s d) :=
  ((llcFold_accessed s _ _).trans (llcFold_accessed _ _ _)).trans (bump_accessed _)

theorem passed_pci : (passed s d).pci = s.pci := by
  obtain ⟨-, -, -, -, -, -, hPci, -⟩ := (passed_accessed s d).device
  exact hPci

/-- The whole rows that have come. -/
def wholeRows : Nat := min d.rows (input.length / d.rowBytes)

/-- What has come of the row after them. -/
def partRow : List Byte := input.drop (wholeRows d input * d.rowBytes)

theorem length_partRow_le (h : FromHost d) (hPart : wholeRows d input < d.rows) : (partRow d input).length ≤ d.rowBytes := by
  have hRows : wholeRows d input = input.length / d.rowBytes := by rw [wholeRows] at hPart ⊢; omega
  rw [partRow, List.length_drop, hRows, Nat.mul_comm, ← Nat.mod_eq_sub]
  exact (Nat.mod_lt _ h.size).le

/-- The barge has dispatched. -/
def begun : State := (passed s d).modBarge (.reach n k) fun g => { g with moved := true }

/-- Its whole rows have been copied; the Bool would say that something stopped it. -/
def rowsCopied (ctx job : Nat) : State × Bool := (begun s n k d).copyRows (.reach n k) d ctx job input 0 (wholeRows d input)

/-- What has come of the row that the timeout meets is written too. -/
def partCopied (t : State) (ctx job : Nat) : State :=
  let t := if d.rows ≤ wholeRows d input then t else t.send (.hostRead (d.src + wholeRows d input * d.spitch) d.rowBytes)
  if (partRow d input).isEmpty ∨ d.rows ≤ wholeRows d input then t
  else (t.putRow (.reach n k) d ctx job (wholeRows d input) ((partRow d input).map fun x => (x, false))).1

/-- The timeout is counted and reported. -/
def timeoutReported (t : State) (ctx job : Nat) : State :=
  (({ t with pci := { t.pci with cplto := stick32 t.pci.cplto 1 } } : State).send (.aer 3 none)).raise
    { code := 0x0904, job, ctx, kind := 7, part := n }

/-- Then the barge is over. -/
def timedOut (t : State) (ctx job : Nat) : State := (timeoutReported n t ctx job).endReachBarge n k 0x0904

variable {s n k d input}

theorem rowsCopied_moves (h : FromHost d) (ctx job : Nat) : (rowsCopied s n k d input ctx job).2 = false ∧
    Moves (passed s d) (rowsCopied s n k d input ctx job).1 n d.writes := by
  obtain ⟨hStop, hMoves⟩ := copyRows_moves (n := n) (k := k) (s := begun s n k d)
    h ctx job input (r := 0) (rows := wholeRows d input) (by rw [wholeRows]; omega)
  exact ⟨hStop, (modBarge_moves _).trans hMoves⟩

theorem partCopied_moves (h : FromHost d) (t : State) (ctx job : Nat) : Moves t (partCopied n k d input t ctx job) n d.writes := by
  unfold partCopied
  by_cases hAll : d.rows ≤ wholeRows d input
  · simp only [hAll, or_true, if_true]
    exact Moves.refl
  · simp only [hAll, or_false, if_false]
    split
    · exact send_moves _
    · rw [putRow_device h]
      exact (send_moves _).trans (markedWrite_moves (row_mem_writes h (by omega))
        (by rw [List.length_map]; exact length_partRow_le d input h (by omega)))

/-- A barge that reads host memory needs the host link alone. -/
theorem bargeLink_fromHost (h : FromHost d) : s.bargeLink d = if s.pci.up = true then 0 else 0x0903 := by
  cases hUp : s.pci.up <;> simp [State.bargeLink, h.ssp, h.dsp, hUp]

/-- A link that is down ends a barge before its time, but not before its timeout (13 R438). -/
theorem cut_passes_link (h : FromHost d) : ¬(s.bargeLink d ≠ 0 ∧ (!(true && s.bargeLink d == 0x0903)) = true) := by
  rw [bargeLink_fromHost h]
  cases s.pci.up <;> decide

/-- What a barge that is cut off has moved. -/
def cutOff (s : State) (n k : Fin 16) (d : BDesc) (input : List Byte) (ctx job : Nat) : State :=
  partCopied n k d input (rowsCopied s n k d input ctx job).1 ctx job

theorem cutOff_moves (h : FromHost d) (ctx job : Nat) : Moves (passed s d) (cutOff s n k d input ctx job) n d.writes :=
  (rowsCopied_moves h ctx job).2.trans (partCopied_moves h _ ctx job)

/-- A COPY from host memory that dispatches is cut off by the timeout, its link up or down. -/
theorem exec_cplTimeout (h : FromHost d) {g : Barge} (hg : s.reach[n].barges[k] = g) (hd : BDesc.ofBytes g.desc = d) (hBusy : g.busy = true)
    (hMoved : g.moved = false) (hDesc : s.descBad (.reach n k) g d = false) (hBehind : s.bargeBehind (.reach n k) g d = false)
    (hRange : s.badRange (.reach n k) g d = none) : ∃ ctx, exec (.pciCplTimeout (.reach n k) input) s =
      .next (timedOut n k (cutOff s n k d input ctx g.job) ctx g.job) := by
  have hAt : s.bargeAt (.reach n k) = some g := congrArg some hg
  refine ⟨(begun s n k d).bargeCtx (.reach n k) g, ?_⟩
  have hStop := (rowsCopied_moves (s := s) (n := n) (k := k) (input := input) h ((begun s n k d).bargeCtx (.reach n k) g) g.job).1
  have hSrc : (1 : Nat) ≠ 2 := by decide
  simp only [rowsCopied, begun, passed, wholeRows] at hStop
  change execPciCplTimeout (.reach n k) input s = _
  simp only [execPciCplTimeout, State.dispatch, hAt, hd, hBusy, hMoved, h.kind, h.ssp, hDesc, hBehind, hRange, cut_passes_link h, hSrc, hStop,
    beq_self_eq_true, Bool.not_true, Bool.and_self, Bool.false_and, Bool.and_false, Bool.or_self, Bool.false_eq_true, ne_eq,
    not_true_eq_false, if_false, if_true]
  rfl

/-- The end of a barge that its reach does not wait for. -/
theorem endReachBarge_idle {t : State} {code : W16} (hWait : t.reach[n].u.wait = .none) (hClear : t.reach[n].lateClear = false)
    (hBarges : t.reach[n].waitBarges = false) : t.endReachBarge n k code =
      t.modReach n fun x => { x with barges := x.barges.set k { x.barges[k] with busy := false, code } } := by
  let ended : State := t.modReach n fun x => { x with barges := x.barges.set k { x.barges[k] with busy := false, code } }
  have hReach : ended.reach[n] = _ := modReach_same t n _
  have hSettle : ended.settle (.reach n) = ended := by
    have hUnit : (ended.unit (.reach n)).wait = .none := by rw [State.unit, hReach, hWait]
    simp only [State.settle, hUnit]
  change (ended.settle (.reach n)).lateStart n = ended
  rw [hSettle, State.lateStart, hReach, hClear, hBarges]
  rfl

theorem timedOut_gives {t : State} (hWait : t.reach[n].u.wait = .none) (hClear : t.reach[n].lateClear = false)
    (hBarges : t.reach[n].waitBarges = false) (ctx job : Nat) : let u := timedOut n k t ctx job
    u.reach[n].barges[k].busy = false ∧ u.reach[n].barges[k].code = 0x0904 ∧ u.pci.cplto = stick32 t.pci.cplto 1 ∧
      LastEvent u 0x0904 ∧ u.out.getLast? = some (.aer 3 none) ∧ ∀ b, u.byte b = t.byte b := by
  have hEnd : timedOut n k t ctx job = _ := endReachBarge_idle (t := timeoutReported n t ctx job) hWait hClear hBarges
  have hLast : LastEvent (timeoutReported n t ctx job) 0x0904 := raised_lastEvent (raise_raised _ _)
  dsimp only
  rw [hEnd, modReach_same]
  exact ⟨by simp, by simp, rfl, hLast, by rw [modReach_out]; exact List.getLast?_concat, fun _ => rfl⟩

end

/-- Settles O45: the queue by `hbqCmd_room` and `hbqCmd_full`, the start by `exec_start_idle` and `start_fails`; a timeout cuts a COPY off
(`exec_cplTimeout`) after it has moved what came (`cutOff_moves`), and ends it by `timedOut_gives`. -/
theorem hostBargeQueue : Obligations.HostBargeQueue := by
  unfold Obligations.HostBargeQueue
  intro s
  refine ⟨fun p desc hOpen => ⟨fun hRoom => ?_, fun hFull => ?_⟩, exec_start_busy,
    fun a as hQueue hIdle hShed hKeyed => ⟨fun hMem => ?_, fun hMem => ?_⟩, ?_⟩
  · rw [exec_hbqCmd hOpen, hbqCmd_room hRoom]
  · refine ⟨_, exec_hbqCmd hOpen desc, ?_⟩
    rw [hbqCmd_full hFull]
    exact ⟨rfl, raise_raised s _⟩
  · have hRead : s.bump.read a 64 = s.read a 64 := read_congr (fun b => (bump_accessed s).byte hKeyed b) a 64
    refine ⟨_, exec_start_idle hQueue hIdle hShed, ?_⟩
    rw [if_pos hMem, hRead]
    exact ⟨rfl, ⟨rfl, rfl, rfl, rfl, rfl⟩, rfl, rfl, rfl⟩
  · refine ⟨_, exec_start_idle hQueue hIdle hShed, ?_⟩
    rw [if_neg (by rw [hMem]; decide)]
    exact start_fails hQueue
  · intro n k input g d hBusy hMoved hKind hSsp hDsp hDesc hBehind hRange hWait hClear hBarges
    have hHost : FromHost d := ⟨hKind, hSsp, hDsp, rowBytes_pos hDesc⟩
    obtain ⟨ctx, hExec⟩ := exec_cplTimeout (input := input) hHost rfl rfl hBusy hMoved hDesc hBehind hRange
    have hPassed := passed_accessed s d
    obtain ⟨hBytes, hWaits, hPci⟩ := cutOff_moves (s := s) (n := n) (k := k) (input := input) hHost ctx g.job
    have hSame : waits (cutOff s n k d input ctx g.job).reach[n] = waits s.reach[n] := by rw [hWaits, hPassed.reach]
    obtain ⟨hUnit, hLate⟩ := Prod.ext_iff.mp hSame
    obtain ⟨hLateClear, hWaitBarges⟩ := Prod.ext_iff.mp hLate
    obtain ⟨hOver, hCode, hCounted, hEvent, hOut, hKept⟩ := timedOut_gives (k := k) (t := cutOff s n k d input ctx g.job) (n := n)
      ((congrArg Unit.wait hUnit).trans hWait) (hLateClear.trans hClear) (hWaitBarges.trans hBarges) ctx g.job
    refine ⟨_, hExec, hOver, hCode, ?_, hEvent, hOut, hPassed.bytesKept fun b _ hb => (hKept b).trans (hBytes b hb)⟩
    rw [hCounted, hPci, passed_pci]

end Sys2Proof.Machine.HostBarges

/-! PROOF. The host's error ring (16 R560, R565, R566; 10 R624): where a write of its registers goes, what a configuration that takes effect
at once makes of the ring, and what becomes of the oldest record. -/

namespace Sys2Proof.Machine.HostErrorRing

open Sys2Proof.Machine Sys2Proof.Machine.EgressRings

variable {s : State} {p : Port} {v : W64}

/-! ### Where a write of the ring's registers goes (16 R565, R566) -/

/-- A write of an RWL field by the port that holds its semaphore is applied (00 R11). -/
theorem rwl_held {n : Fin 32} (h : s.holds p n = true) (f : State → State × Bool) : (s.rwl p n f).1 = (f s).1 := by
  simp only [State.rwl, h, if_true]

theorem exec_base (hOpen : OpenPort s p) (hHolds : s.holds p 8 = true) : exec (.rasRingConfig p false v) s = .next (s.rasBase v).1 := by
  change Host.Outcome.next (s.portWrite p 0x500200 v) = _
  rw [portWrite_plain hOpen (by decide) (by decide) (by decide) _ rfl]
  exact congrArg _ (rwl_held hHolds fun s => s.rasBase v)

theorem exec_cfg (hOpen : OpenPort s p) (hHolds : s.holds p 8 = true) : exec (.rasRingConfig p true v) s = .next (s.rasCfg v).1 := by
  change Host.Outcome.next (s.portWrite p 0x500208 v) = _
  rw [portWrite_plain hOpen (by decide) (by decide) (by decide) _ rfl]
  exact congrArg _ (rwl_held hHolds fun s => s.rasCfg v)

theorem exec_head (hOpen : OpenPort s p) (h : W32) : exec (.rasRingHeadWrite p h) s = .next (s.rasHead (h.setWidth 64)) := by
  change Host.Outcome.next (s.portWrite p 0x500210 (h.setWidth 64)) = _
  rw [portWrite_plain hOpen (by decide) (by decide) (by decide) _ rfl]
  rfl

/-! ### BASE and CFG (16 R565; 10 R624) -/

/-- A write of BASE leaves its value pending, and that takes effect at once unless a schedule is in force. -/
theorem rasBase_eq (hAlign : v.toNat % 64 = 0) : (s.rasBase v).1 =
    ({ s with ras := { s.ras with newBase := some v } } : State).unlessForced State.applyRas := by
  simp only [State.rasBase, hAlign, ne_eq, not_true_eq_false, if_false]

/-- So does a write of CFG whose SIZE is served. -/
theorem rasCfg_eq (hLow : 4 ≤ (v.extractLsb' 0 5).toNat) (hHigh : (v.extractLsb' 0 5).toNat ≤ 16) : (s.rasCfg v).1 =
    ({ s with ras := { s.ras with newCfg := some (cfgWord v) } } : State).unlessForced State.applyRas := by
  simp only [State.rasCfg, bits_toNat, bitAt_toNat, BitVec.ofNat_toNat, BitVec.setWidth_eq, decide_eq_false (Nat.not_lt.mpr hLow),
    decide_eq_false (Nat.not_lt.mpr hHigh), Bool.or_false, Bool.false_eq_true, if_false, cfgWord]

/-- A base that takes effect alone empties the ring where it is another. -/
theorem applyRas_newBase (hBase : s.ras.newBase = none) (hCfg : s.ras.newCfg = none) (v : W64) :
    ({ s with ras := { s.ras with newBase := some v } } : State).applyRas = { s with ras := { s.ras with
      ringBase := v, ringHead := if v = s.ras.ringBase then s.ras.ringHead else 0
      ringTail := if v = s.ras.ringBase then s.ras.ringTail else 0 } } := by
  by_cases h : v = s.ras.ringBase <;> simp [State.applyRas, hBase, hCfg, h]

/-- A configuration that takes effect alone empties the ring where its size is another. -/
theorem applyRas_newCfg (hBase : s.ras.newBase = none) (hCfg : s.ras.newCfg = none) (en : Bool) (vec : BitVec 11) (size : BitVec 5) :
    ({ s with ras := { s.ras with newCfg := some (en, vec, size) } } : State).applyRas = { s with ras := { s.ras with
      ringEn := en, ringVec := vec, ringSize := size
      ringHead := if size = s.ras.ringSize then s.ras.ringHead else 0
      ringTail := if size = s.ras.ringSize then s.ras.ringTail else 0 } } := by
  by_cases h : size = s.ras.ringSize <;> simp [State.applyRas, hBase, hCfg, h]

/-! ### HEAD (16 R566) -/

theorem rasHead_accepted {h : W32} (hRoom : (s.ras.ringTail - h).toNat ≤ 2 ^ s.ras.ringSize.toNat) :
    s.rasHead (h.setWidth 64) = { s with ras := { s.ras with ringHead := h } } := by
  have hWord : (h.setWidth 64).setWidth 32 = h := by simp
  simp only [State.rasHead, hWord, if_pos hRoom]

theorem rasHead_refused {h : W32} (hPast : 2 ^ s.ras.ringSize.toNat < (s.ras.ringTail - h).toNat) :
    s.rasHead (h.setWidth 64) = s.raise { code := 0x080E, d0 := h.toNat } := by
  have hWord : (h.setWidth 64).setWidth 32 = h := by simp
  have hNat : (h.setWidth 64).toNat = h.toNat := BitVec.toNat_setWidth_of_le (by decide)
  simp only [State.rasHead, hWord, if_neg (Nat.not_le.mpr hPast), hNat]

/-! ### The oldest record (16 R560, R566) -/

/-- A vector that is raised is marked pending, or leaves the device after what has left it (13 R436). -/
theorem msix_appends (s : State) (k : Nat) : ∃ q l, s.msix k = { s with pci := q, out := s.out ++ l } := by
  unfold State.msix
  split
  · exact ⟨s.pci, [], by rw [List.append_nil]⟩
  split
  · exact ⟨_, [], by rw [List.append_nil]⟩
  split
  · exact ⟨s.pci, [.msix k], rfl⟩
  · exact ⟨s.pci, [], by rw [List.append_nil]⟩

/-- A vector that is due sends at most its message, and none while a schedule is in force: it then waits for a lock point (10 R331). -/
theorem dueVec_appends (s : State) (k j : Nat) :
    ∃ q w l, s.dueVec k j = { s with pci := q, lkp := w, out := s.out ++ l } ∧ (s.lkp.inForce = true → l = []) := by
  unfold State.dueVec
  split
  case isTrue hIdle =>
    obtain ⟨q, l, h⟩ := msix_appends s k
    exact ⟨q, s.lkp, l, h, fun hForced => by simp [hForced] at hIdle⟩
  case isFalse => exact ⟨s.pci, _, [], by rw [List.append_nil], fun _ => rfl⟩

section

variable {e : ErrRec} {es : List ErrRec}

/-- The state after the oldest record has gone to its place in the ring, and before the ring's vector is due. -/
def recordWritten (s : State) (e : ErrRec) (es : List ErrRec) : State :=
  { s with
    ras := { s.ras with errQ := es, ringTail := s.ras.ringTail + 1 }
    out := s.out ++ [.hostWrite (s.ras.ringBase.toNat + 64 * (s.ras.ringTail.toNat % 2 ^ s.ras.ringSize.toNat)) e.bytes] }

theorem exec_write_room (hQueue : s.ras.errQ = e :: es) (hEnabled : s.ras.ringEn = true) (hUp : s.pci.up = true)
    (hRoom : (s.ras.ringTail - s.ras.ringHead).toNat < 2 ^ s.ras.ringSize.toNat) :
    exec .errorRingWrite s = .next ((recordWritten s e es).dueVec s.ras.ringVec.toNat 0xFFFF) := by
  change execErrorRingWrite s = _
  rw [execErrorRingWrite, hQueue]
  dsimp only
  rw [if_neg (by simp [hUp]), if_neg (by simp [hEnabled]), if_neg (Nat.ne_of_lt hRoom)]
  rfl

theorem exec_write_full (hQueue : s.ras.errQ = e :: es) (hEnabled : s.ras.ringEn = true) (hUp : s.pci.up = true)
    (hFull : (s.ras.ringTail - s.ras.ringHead).toNat = 2 ^ s.ras.ringSize.toNat) :
    exec .errorRingWrite s = .next { s with ras := { s.ras with errQ := es, ringDrop := stick32 s.ras.ringDrop 1 } } := by
  change execErrorRingWrite s = _
  rw [execErrorRingWrite, hQueue]
  dsimp only
  rw [if_neg (by simp [hUp]), if_neg (by simp [hEnabled]), if_pos hFull]

end

/-- Settles O36: BASE and CFG are left pending by `rasBase_eq` and `rasCfg_eq`, and take effect at once by `applyRas_newBase` and
`applyRas_newCfg`; HEAD is `rasHead_accepted` or `rasHead_refused`. The oldest record goes to its place before the ring's vector is due,
which adds at most a message (`dueVec_appends`), or it is dropped. -/
theorem errorRing : Obligations.ErrorRing := by
  unfold Obligations.ErrorRing
  intro p v s
  refine ⟨fun hOpen hHolds hForced => ⟨fun hAlign => ?_, fun hLow hHigh => ?_⟩,
    fun hOpen hHolds hIdle hBase hCfg => ⟨fun hAlign => ?_, fun hLow hHigh => ?_⟩,
    fun hOpen h => ⟨fun hRoom => ?_, fun hPast => ?_⟩, fun e es hQueue hEnabled hUp => ⟨fun hRoom => ?_, fun hFull => ?_⟩⟩
  · rw [exec_base hOpen hHolds, rasBase_eq hAlign, unlessForced_inForce (by exact hForced)]
  · rw [exec_cfg hOpen hHolds, rasCfg_eq hLow hHigh, unlessForced_inForce (by exact hForced), cfgWord]
  · rw [exec_base hOpen hHolds, rasBase_eq hAlign, unlessForced_idle (by exact hIdle), applyRas_newBase hBase hCfg]
  · rw [exec_cfg hOpen hHolds, rasCfg_eq hLow hHigh, unlessForced_idle (by exact hIdle), cfgWord, applyRas_newCfg hBase hCfg]
  · rw [exec_head hOpen, rasHead_accepted hRoom]
  · rw [exec_head hOpen, rasHead_refused hPast]
  · obtain ⟨q, w, l, hDue, hForced⟩ := dueVec_appends (recordWritten s e es) s.ras.ringVec.toNat 0xFFFF
    refine ⟨_, exec_write_room hQueue hEnabled hUp hRoom, ?_⟩
    rw [hDue]
    exact ⟨⟨l, by simp [recordWritten], hForced⟩, rfl, rfl, rfl, rfl, rfl⟩
  · exact exec_write_full hQueue hEnabled hUp hFull

end Sys2Proof.Machine.HostErrorRing

/-! PROOF. Steps that fail on a unit (02 R40; 10 R319, R328): what stopping a unit and posting a step's records leave alone, that a step
in flight stops, and that its record is kept while staging has room. -/

namespace Sys2Proof.Machine.FailedSteps

open Sys2Proof.Machine Sys2Proof.Machine.Laws Sys2Proof.Machine.Frames Sys2Proof.Machine.Faults Sys2Proof.Machine.EgressRings

variable (s : State)

/-! ### Posting records (10 R328) -/

@[simp] theorem msix_lkp (v : Nat) : (s.msix v).lkp = s.lkp := by
  obtain ⟨p, o, h⟩ := msix_cases s v
  rw [h]

@[simp] theorem msix_mgt (v : Nat) : (s.msix v).mgt = s.mgt := by
  obtain ⟨p, o, h⟩ := msix_cases s v
  rw [h]

@[simp] theorem msix_ras (v : Nat) : (s.msix v).ras = s.ras := by
  obtain ⟨p, o, h⟩ := msix_cases s v
  rw [h]

/-- A vector that is due changes no job, no held record and none of the records kept for the collector. -/
theorem dueVec_books (v j : Nat) :
    (s.dueVec v j).lkp.jobs = s.lkp.jobs ∧ (s.dueVec v j).lkp.held = s.lkp.held ∧ (s.dueVec v j).mgt = s.mgt := by
  unfold State.dueVec
  split
  · exact ⟨by rw [msix_lkp], by rw [msix_lkp], msix_mgt s v⟩
  · exact ⟨rfl, rfl, rfl⟩

theorem dueVector_books (e j : Nat) : (s.dueVector e j).lkp.jobs = s.lkp.jobs ∧ (s.dueVector e j).lkp.held = s.lkp.held ∧
    (s.dueVector e j).mgt = s.mgt := by
  unfold State.dueVector
  dsimp only
  split
  · exact dueVec_books s _ j
  · exact ⟨rfl, rfl, rfl⟩

@[simp] theorem post_jobs (r : ComplRec) : (s.post r).lkp.jobs = s.lkp.jobs := by
  have h := (dueVector_books s r.egr (s.signalJob r)).1
  unfold State.post
  dsimp only
  split
  · exact h
  split
  · exact h
  · exact h

/-- Where staging has room, posting a record raises nothing, and stages at most that record. -/
theorem post_room (r : ComplRec) (h : s.lkp.held.length < 4096) :
    (s.post r).mgt = s.mgt ∧ (s.post r).lkp.held.length ≤ s.lkp.held.length + 1 := by
  obtain ⟨-, hHeld, hMgt⟩ := dueVector_books s r.egr (s.signalJob r)
  unfold State.post
  dsimp only
  split
  · refine ⟨hMgt, ?_⟩
    change (s.dueVector r.egr (s.signalJob r)).lkp.held.length ≤ _
    rw [hHeld]
    omega
  · rw [if_pos (by rw [hHeld]; exact h)]
    refine ⟨hMgt, ?_⟩
    rw [List.length_append, hHeld]
    simp

theorem foldl_post_room {α : Type} (f : State → α → ComplRec) (l : List α) (h : s.lkp.held.length + l.length ≤ 4096) :
    (l.foldl (fun t m => t.post (f t m)) s).mgt = s.mgt := by
  induction l generalizing s with
  | nil => rfl
  | cons m l ih =>
    rw [List.length_cons] at h
    obtain ⟨hMgt, hHeld⟩ := post_room s (f s m) (by omega)
    rw [List.foldl_cons, ih _ (by omega), hMgt]

theorem postAll_jobs (j : Nat) (e : JobE) (x : StepRun) (status : Nat) (ev : W16) :
    (s.postAll j e x status ev).lkp.jobs = s.lkp.jobs := by
  unfold State.postAll
  split
  · exact post_jobs s _
  · exact foldl_keeps (fun t => t.lkp.jobs) _ (fun t _ => post_jobs t _) _ s

theorem postAll_room (j : Nat) (e : JobE) (x : StepRun) (status : Nat) (ev : W16) (h : s.lkp.held.length + x.members.length < 4096) :
    (s.postAll j e x status ev).mgt = s.mgt := by
  unfold State.postAll
  split
  · exact (post_room s _ (by omega)).1
  · exact foldl_post_room s _ _ (by omega)

/-! ### The end of a step that has been stopped (10 R319, R333) -/

/-- A step that has been stopped goes on to its end while a unit works on it, or is over, its records posted. -/
theorem endStopped_cases (j : Nat) : s.endStopped j = s ∨ ∃ (x : StepRun) (t : State), (s.jobRun j).step = some x ∧ x.stop ≠ .none ∧
    t.lkp.jobs = s.lkp.jobs ∧ (s.lkp.held.length + x.members.length < 4096 → t.mgt = s.mgt) ∧
    s.endStopped j = t.modJob j fun r => { r with step := none, failed := r.failed ++ [x.no] } := by
  unfold State.endStopped
  split
  · next x e hx _ =>
    by_cases h : (decide (x.stop = .none) || (List.range 20).any (s.working j)) = true
    · exact .inl (if_pos h)
    · rw [if_neg h]
      refine .inr ⟨x, _, hx, fun hs => h (by simp [hs]), ?_, fun hRoom => ?_, rfl⟩
      · cases x.stop with
        | none => rfl
        | failed ev => exact postAll_jobs s j e x 2 ev
        | aborted => exact postAll_jobs s j e x 1 0
        | flagged => exact postAll_jobs s j e x 6 0
      · cases x.stop with
        | none => rfl
        | failed ev => exact postAll_room s j e x 2 ev hRoom
        | aborted => exact postAll_room s j e x 1 0 hRoom
        | flagged => exact postAll_room s j e x 6 0 hRoom
  · exact .inl rfl

theorem jobRun_congr {s t : State} (h : t.lkp.jobs = s.lkp.jobs) (j : Nat) : t.jobRun j = s.jobRun j := by
  rw [State.jobRun, State.jobRun, h]

/-- What is said of a job's step rests on the lockkeeper's record alone. -/
theorem stepStops_congr {s t u : State} {j : Nat} {w : StepEnd} (h : t.lkp = s.lkp) (hs : StepStops t u j w) : StepStops s u j w := by
  unfold StepStops at hs ⊢
  rwa [jobRun_congr (congrArg Lkp.jobs h)] at hs

theorem stagingRoom_congr {s t : State} {j : Nat} (h : t.lkp = s.lkp) (hs : StagingRoom s j) : StagingRoom t j := by
  unfold StagingRoom at hs ⊢
  rwa [jobRun_congr (congrArg Lkp.jobs h), h]

/-- A step that is stopped for a reason stays so, or is over. -/
theorem stopStep_stops (j : Nat) (w : StepEnd) : StepStops s ((s.stopStep j w).endStopped j) j w := by
  intro x hx hStop
  have hMarked : ((s.stopStep j w).jobRun j).step = some { x with stop := w } := by
    rw [State.stopStep, State.modStep, modJob_same, hx, Option.map_some, if_pos hStop]
  rcases endStopped_cases (s.stopStep j w) j with h | ⟨y, t, hy, -, hJobs, -, hEnd⟩
  · rw [h]
    exact .inl ⟨_, hMarked, rfl, rfl⟩
  · rw [hMarked] at hy
    obtain rfl := Option.some.inj hy
    rw [hEnd, modJob_same, jobRun_congr hJobs]
    refine .inr ⟨rfl, ?_⟩
    rw [State.stopStep, State.modStep, modJob_same]

/-- Where staging has room for the step's records, ending it keeps those for the collector as they are. -/
theorem stopStep_room {j : Nat} (w : StepEnd) (h : StagingRoom s j) : ((s.stopStep j w).endStopped j).mgt = s.mgt := by
  rcases endStopped_cases (s.stopStep j w) j with hEnd | ⟨y, t, hy, -, -, hMgt, hEnd⟩
  · rw [hEnd]; rfl
  · rw [State.stopStep, State.modStep, modJob_same, Option.map_eq_some_iff] at hy
    obtain ⟨x, hx, hxy⟩ := hy
    have hMembers : y.members = x.members := by
      subst hxy
      split
      · rfl
      · rfl
    rw [hEnd, modJob_mgt, hMgt (by rw [hMembers]; exact h x hx)]
    rfl

/-! ### A unit that stops (02 R40, 04 R120) -/

@[simp] theorem stopUnit_unit (r : Res) : (s.stopUnit r).unit r = { s.unit r with run := .stopped, wait := .none } := by
  cases r with
  | reach n => simp [State.stopUnit, State.unit, State.modU, Reach.dropGroups]
  | nmu d => simp [State.stopUnit, State.unit, State.modU]

/-- Stopping a unit changes that unit's reach or NMU alone. -/
theorem framed_stopUnit (r : Res) : Framed s (s.stopUnit r) r := by
  cases r with
  | reach n => exact (framed_modReach s n _).trans (framed_modReach _ n _)
  | nmu d =>
    exact ⟨⟨fun _ _ => rfl, fun _ hm => modNmu_ne s (fun e => hm (congrArg Res.nmu e.symm)) _⟩,
      by simp [DeviceKept, State.stopUnit], by simp [MemoryKept, State.stopUnit]⟩

@[simp] theorem stopUnit_lkp (r : Res) : (s.stopUnit r).lkp = s.lkp := by cases r <;> rfl
@[simp] theorem stopUnit_mgt (r : Res) : (s.stopUnit r).mgt = s.mgt := by cases r <;> rfl

/-- What the books do not hold is equal where they alone differ. -/
theorem reach_of_unbooked {t : State} (h : unbooked t = unbooked s) : t.reach = s.reach := by
  have hReach := congrArg State.reach h
  exact hReach

theorem nmu_of_unbooked {t : State} (h : unbooked t = unbooked s) : t.nmu = s.nmu := by
  have hNmu := congrArg State.nmu h
  exact hNmu

theorem memory_of_unbooked {t : State} (h : unbooked t = unbooked s) : MemoryKept s t := by
  have hMem := congrArg State.mem h
  have hPoison := congrArg State.poison h
  have hKey := congrArg State.lineKey h
  exact ⟨hMem, hPoison, hKey⟩

/-- A step that fails on a unit leaves what stopping the unit leaves, but for the device's books. -/
theorem failOn_unbooked (r : Res) (e : Ev) : unbooked (s.failOn r e) = unbooked (s.stopUnit r) := by
  unfold State.failOn
  dsimp only
  rw [endStopped_unbooked, stopStep_unbooked]
  cases r <;> rfl

theorem failOn_unit (r : Res) (e : Ev) : (s.failOn r e).unit r = { s.unit r with run := .stopped, wait := .none } := by
  have h := failOn_unbooked s r e
  rw [← stopUnit_unit]
  cases r with
  | reach n => simp only [State.unit, reach_of_unbooked _ h]
  | nmu d => simp only [State.unit, nmu_of_unbooked _ h]

theorem failOn_othersKept (r : Res) (e : Ev) : OthersKept s (s.failOn r e) r := by
  have h := failOn_unbooked s r e
  have hKept := (framed_stopUnit s r).1
  unfold OthersKept at hKept ⊢
  rwa [reach_of_unbooked _ h, nmu_of_unbooked _ h]

theorem failOn_memoryKept (r : Res) (e : Ev) : MemoryKept s (s.failOn r e) := by
  obtain ⟨hMem, hPoison, hKey⟩ := (framed_stopUnit s r).2.2
  obtain ⟨gMem, gPoison, gKey⟩ := memory_of_unbooked _ (failOn_unbooked s r e)
  exact ⟨gMem.trans hMem, gPoison.trans hPoison, gKey.trans hKey⟩

/-! ### A step that fails -/

/-- Two states agree on what a record of a unit's failing step says: its job and context, the schedule, and the numbers of records. -/
structure SameCause (s t : State) (r : Res) : Prop where
  job  : (t.unit r).job = (s.unit r).job
  ctx  : (t.unit r).ctx = (s.unit r).ctx
  lkp  : t.lkp = s.lkp
  ras  : t.ras = s.ras
  node : t.cpl = s.cpl

theorem SameCause.refl (r : Res) : SameCause s s r := ⟨rfl, rfl, rfl, rfl, rfl⟩

theorem fetched_sameCause (r : Res) : SameCause s (s.fetched r) r :=
  ⟨by rw [fetched_unit], by rw [fetched_unit], by simp [State.fetched], by simp [State.fetched], by simp [State.fetched]⟩

variable {s} {t : State} {r : Res}

/-- A step that was in flight stops, or is over. -/
theorem SameCause.failOn_stops (h : SameCause s t r) (e : Ev) :
    StepStops s (t.failOn r e) (s.unit r).job (.failed (BitVec.ofNat 16 e.code)) := by
  unfold State.failOn
  dsimp only
  rw [h.job]
  exact stepStops_congr (by rw [stopUnit_lkp, raise_lkp, h.lkp]) (stopStep_stops _ _ _)

/-- The step of a unit's job fails: while staging has room for its records, the event's record is the newest for the collector. -/
theorem SameCause.failOn_record (h : SameCause s t r) (e : Ev) (hRoom : StagingRoom s (s.unit r).job) :
    (t.failOn r e).mgt = (t.raise { e with job := (s.unit r).job, ctx := (s.unit r).ctx, kind := (resSource r).1, part := (resSource r).2 }).mgt := by
  unfold State.failOn
  dsimp only
  rw [h.job, h.ctx, stopStep_room, stopUnit_mgt]
  exact stagingRoom_congr (by rw [stopUnit_lkp, raise_lkp, h.lkp]) hRoom

theorem SameCause.failOn_last (h : SameCause s t r) (e : Ev) (hRoom : StagingRoom s (s.unit r).job) :
    ∃ x, (t.failOn r e).mgt.recs.getLast? = some x ∧ x.seq = s.ras.seq ∧ x.event = BitVec.ofNat 16 e.code ∧
      x.job = BitVec.ofNat 16 (s.unit r).job ∧ x.ctx = BitVec.ofNat 32 ((s.unit r).ctx % 2 ^ 20) ∧
      x.source = sourceWord s.cpl.node (resSource r).1 (resSource r).2 ∧ x.addr = BitVec.ofNat 64 e.addr ∧ x.d0 = BitVec.ofNat 64 e.d0 := by
  rw [h.failOn_record e hRoom]
  refine ⟨_, keepRecord_last _ _, ?_, rfl, rfl, rfl, ?_, rfl, rfl⟩
  · exact congrArg Ras.seq h.ras
  · exact congrArg (fun c : Cpl => sourceWord c.node _ _) h.node

theorem SameCause.failOn_fails (h : SameCause s t r) (e : Ev) (hRoom : StagingRoom s (s.unit r).job) :
    StepFails s (t.failOn r e) r e.code e.addr e.d0 := by
  obtain ⟨x, hx, hFields⟩ := h.failOn_last e hRoom
  exact ⟨by rw [failOn_unit], ⟨x, List.mem_of_getLast? hx, hFields⟩, h.failOn_stops e⟩

/-- A step fails on the instruction that its unit has dispatched. -/
theorem failAt_fails {code d0 : Nat} (hNext : (s.unit r).next < 2 ^ 17) (hRoom : StagingRoom s (s.unit r).job) :
    StepFails s ((s.fetched r).failAt r code d0) r code (s.unit r).next d0 := by
  have h := (fetched_sameCause s r).failOn_fails { code, addr := ((s.fetched r).unit r).pc.toNat, d0 } hRoom
  dsimp only at h
  have hpc : ((s.fetched r).unit r).pc.toNat = (s.unit r).next := by
    rw [fetched_unit]
    exact (BitVec.toNat_ofNat _ _).trans (Nat.mod_eq_of_lt hNext)
  rw [hpc] at h
  rw [State.failAt, hpc]
  exact h

end Sys2Proof.Machine.FailedSteps

/-! PROOF. The step (19 R623; 18 R610), the state after reset, and class 0x1 of the control stream (07 R215, R218, R223): what a scalar
instruction writes, what XLD and XST move, and the words that fail a step. -/

namespace Sys2Proof.Machine.Scalars

open Sys2Proof.Machine Sys2Proof.Machine.Laws Sys2Proof.Machine.Frames Sys2Proof.Machine.NmuAccess Sys2Proof.Machine.FailedSteps

/-! ### The step -/

/-- A private instruction acts in debug state alone (15 R529). -/
theorem tapActs_ne_priv {s : State} {i : TapIr} (h : i = .priv → s.sec.debug = false) : s.tapActs i ≠ .priv := by
  cases i with
  | priv => simp [State.tapActs, h rfl]
  | sample => simp only [State.tapActs]; split <;> decide
  | extest => simp only [State.tapActs]; split <;> decide
  | bypass => exact fun he => TapIr.noConfusion he
  | idcode => exact fun he => TapIr.noConfusion he
  | other => exact fun he => TapIr.noConfusion he

theorem completes_ite {p : Prop} [Decidable p] {a b : Host.Outcome State Fault Refusal} (ha : ∃ t, a = .next t) (hb : ∃ t, b = .next t) :
    ∃ t, (if p then a else b) = .next t := by
  split
  · exact ha
  · exact hb

/-- Every command completes but a private instruction of the test access port in debug state. -/
theorem exec_completes (c : Instr) (s : State) (h : c = .tapInstruction .priv → s.sec.debug = false ∨ s.tap.reset = true) :
    ∃ t, exec c s = .next t := by
  cases c
  case waiteqMatch r =>
    change ∃ t, execWaiteqMatch r s = .next t
    unfold execWaiteqMatch
    split
    · exact ⟨_, rfl⟩
    · exact ⟨_, rfl⟩
  case fd1ShardUpdate d i =>
    change ∃ t, execFd1ShardUpdate d i s = .next t
    unfold execFd1ShardUpdate
    refine completes_ite ⟨_, rfl⟩ ?_
    split
    · exact ⟨_, rfl⟩
    · exact completes_ite ⟨_, rfl⟩ (completes_ite ⟨_, rfl⟩ ⟨_, rfl⟩)
  case tapInstruction i =>
    change ∃ t, execTapInstruction i s = .next t
    unfold execTapInstruction
    split
    · exact ⟨_, rfl⟩
    · next hReset =>
      split
      · next hPriv => exact absurd hPriv (tapActs_ne_priv fun hi => (h (congrArg _ hi)).resolve_right (by simpa using hReset))
      · exact ⟨_, rfl⟩
      · exact ⟨_, rfl⟩
      · exact ⟨_, rfl⟩
  all_goals exact ⟨_, rfl⟩

/-- TIME that passes leaves the units, the lockkeeper, the contexts and memory. -/
theorem setTime_keeps (s : State) (t : W64) : (s.setTime t).time = t ∧ UnitsKept s (s.setTime t) ∧ MemoryKept s (s.setTime t) := by
  unfold State.setTime
  by_cases hSlew : s.cpl.slew = 0
  · simp only [hSlew, if_true]
    split
    · exact ⟨rfl, ⟨rfl, rfl, rfl, rfl, rfl⟩, rfl, rfl, rfl⟩
    · exact ⟨rfl, ⟨rfl, rfl, rfl, rfl, rfl⟩, rfl, rfl, rfl⟩
  · simp only [hSlew, if_false]
    split
    · exact ⟨rfl, ⟨rfl, rfl, rfl, rfl, rfl⟩, rfl, rfl, rfl⟩
    · exact ⟨rfl, ⟨rfl, rfl, rfl, rfl, rfl⟩, rfl, rfl, rfl⟩

theorem step_idle {s : State} (h : s.pending = []) : step s = .next s.idle := by
  unfold step
  rw [h]

/-- Settles O1: a queue that is not empty is `rfl`; every command completes by `exec_completes`; and on an empty queue TIME passes or
stands as `State.idle` says. -/
theorem stepRunsTheFrontCommand : Obligations.StepRunsTheFrontCommand := by
  unfold Obligations.StepRunsTheFrontCommand
  refine ⟨fun c cs s h => ?_, exec_completes, fun s hEmpty => ⟨fun hHeld => ?_, fun hHeld hLock hRoom => ?_, fun l hLock hPast => ?_⟩⟩
  · unfold step
    rw [h]
  · rw [step_idle hEmpty, State.idle]
    simp [hHeld]
  · refine ⟨s.setTime (s.time + 1), ?_, setTime_keeps s _⟩
    rw [step_idle hEmpty, State.idle]
    have hStop : s.time.toNat + 1 < min (2 ^ 64) (2 ^ 64) := by omega
    simp only [hHeld, hLock, Option.getD_none, hStop, decide_true, Bool.not_false, Bool.and_self, if_true]
  · rw [step_idle hEmpty, State.idle]
    have hStop : ¬ s.time.toNat + 1 < min l (2 ^ 64) := by omega
    simp only [hLock, Option.getD_some, hStop, decide_false, Bool.and_false, Bool.false_eq_true, if_false]

/-- Settles O60: memory and flash are empty, and every semaphore is FREE. -/
theorem resetHasTheForm : Obligations.ResetHasTheForm := by
  unfold Obligations.ResetHasTheForm KeptForm
  refine ⟨reset_wf, nil_swf _, fun n => ?_⟩
  change (Vector.replicate 32 ({} : Sem))[n].owner ≠ 3
  simp

/-! ### Dispatch (07 R235, R246) -/

variable {s : State} {r : Res} {w : CtlWord}

/-- A word inside the code area that keeps its form and uses no poisoned operand acts, wherever the next word lies. -/
theorem ctl_dispatches {f : Form} {key : List (BitVec 6)} {spans : State → Spans} {chk : State → Option Nat} {eff : State → State}
    (hGo : s.canDispatch r (spans s) = true) (hIn : (s.unit r).next < (s.unit r).codeLen) (hw : wordOk r f w = true)
    (hk : key.any ((s.fetched r).unit r).xp = false) (hc : chk (s.fetched r) = none) :
    ctl r f w key spans chk eff s = eff (s.fetched r) := by
  have hn : ¬(s.unit r).codeLen ≤ (s.unit r).next := by omega
  unfold ctl
  rw [hGo]
  simp only [Bool.not_true, Bool.false_eq_true, if_false, hn, decide_false, Bool.false_or, hw, hk, hc]

/-- A word that breaks its form fails the step, wherever it lies. -/
theorem ctl_breaks {f : Form} {key : List (BitVec 6)} {spans : State → Spans} {chk : State → Option Nat} {eff : State → State}
    (hGo : s.canDispatch r (spans s) = true) (hw : wordOk r f w = false) :
    ctl r f w key spans chk eff s = (s.fetched r).failAt r 0x0111 := by
  unfold ctl
  rw [hGo]
  simp [hw]

theorem framed_modU (s : State) (r : Res) (f : Machine.Unit → Machine.Unit) : Framed s (s.modU r f) r := by
  cases r with
  | reach n => exact framed_modReach s n _
  | nmu d => exact ⟨modNmu_othersKept s d _, (modNmu_alike s d _).device, (modNmu_alike s d _).memory⟩

theorem modU_byte (s : State) (r : Res) (f : Machine.Unit → Machine.Unit) (b : Nat) : (s.modU r f).byte b = s.byte b := by
  cases r with
  | reach n => rfl
  | nmu d => rfl

theorem modU_read (s : State) (r : Res) (f : Machine.Unit → Machine.Unit) (a n : Nat) : (s.modU r f).read a n = s.read a n :=
  read_congr (modU_byte s r f) a n

theorem modU_poisonedRange (s : State) (r : Res) (f : Machine.Unit → Machine.Unit) (a n : Nat) :
    (s.modU r f).poisonedRange a n = s.poisonedRange a n := by
  cases r with
  | reach k => rfl
  | nmu d => rfl

theorem fetched_accOk_any (s : State) (r : Res) (a n : Nat) (wr : Bool) : (s.fetched r).accOk r a n wr = s.accOk r a n wr := by
  cases r with
  | reach k => exact fetched_accOk s k a n wr
  | nmu d => simp only [State.accOk, fetched_nmu]

theorem fetched_readNat (s : State) (r : Res) (a n : Nat) : (s.fetched r).readNat a n = s.readNat a n := by
  rw [State.readNat, State.readNat, State.fetched, modU_read]

theorem fetched_any_xp (s : State) (r : Res) (key : List (BitVec 6)) : key.any ((s.fetched r).unit r).xp = key.any (s.unit r).xp := by
  rw [fetched_unit]
  rfl

/-! ### Reads of a unit (11 R367; 09 R274) -/

/-- A unit's read leaves every unit, the device and memory as they were. -/
theorem touch_kept (s : State) (r : Res) (a n : Nat) : Accessed s (s.touch r a n) := by
  cases r with
  | reach k => exact notePoison_accessed s _ _ _
  | nmu d => exact touch_accessed s d a n

theorem accessed_unit {t : State} (h : Accessed s t) (r : Res) : t.unit r = s.unit r := by
  cases r with
  | reach n => simp only [State.unit, h.reach]
  | nmu d => simp only [State.unit, h.nmu]

theorem framed_of_accessed {t : State} (h : Accessed s t) (r : Res) : Framed s t r := by
  refine ⟨⟨fun _ _ => ?_, fun _ _ => ?_⟩, h.device, h.memory⟩
  · rw [h.reach]
  · rw [h.nmu]

/-- No byte changes where memory and the device are as they were. -/
theorem bytesKept_of_framed {t : State} (h : Framed s t r) (ws : List (Nat × Nat)) : BytesKept s t ws :=
  fun _ hKey _ => byte_eq h.2.1 h.2.2 hKey

/-! ### Writes of a scalar register (07 R215, R218) -/

theorem setX_kept (u : Machine.Unit) (k : BitVec 6) (v : W64) (p : Bool) :
    (u.setX k v p).run = u.run ∧ (u.setX k v p).pc = u.pc ∧ (u.setX k v p).codeLen = u.codeLen := by
  unfold Machine.Unit.setX
  split
  · exact ⟨rfl, rfl, rfl⟩
  · exact ⟨rfl, rfl, rfl⟩

/-- Writes to x0 are discarded. -/
theorem setX_zero {u : Machine.Unit} {k : BitVec 6} (hk : k = 0) (v : W64) (p : Bool) : u.setX k v p = u := by
  rw [hk]
  rfl

theorem x_zero {u : Machine.Unit} {k : BitVec 6} (hk : k = 0) : u.x k = 0 := by
  rw [hk]
  rfl

theorem xp_zero {u : Machine.Unit} {k : BitVec 6} (hk : k = 0) : u.xp k = false := by
  rw [hk]
  rfl

/-- An instruction that writes one scalar register from values of its unit leaves the unit with that register written and goes on. -/
theorem ctlReg_setX {f : Form} {v : Machine.Unit → W64} {p : Machine.Unit → Bool} (h : Ready s r {}) (hw : wordOk r f w = true)
    (hv : ∀ u q, v { u with pc := q } = v u) (hp : ∀ u q, p { u with pc := q } = p u) :
    ctlReg r f w (fun _ => none) (fun t => t.modU r fun u => u.setX w.d (v u) (p u)) s =
      s.modU r fun u => advanced (u.setX w.d (v u) (p u)) := by
  rw [ctlReg_unit h hw rfl fun u => setX_kept u w.d (v u) (p u)]
  refine modU_congr ?_
  dsimp only
  rw [hv, hp, setX_advanced]

/-! ### Class 0x1 (07 R223) -/

theorem formRR_ok (hd : w.d.toNat < 32) (ha : w.a.toNat < 32) (hb : w.b.toNat < 32) (hc : w.c = 0) (hl : w.low = 0) :
    wordOk r formRR w = true := by
  simp [wordOk, formRR, useOk, layOk, hd, ha, hb, hc, hl]

theorem formImm_ok (hd : w.d.toNat < 32) (ha : w.a.toNat < 32) (hb : w.b = 0) (hc : w.c = 0) :
    wordOk r { d := .sc, a := .sc, lay := .imm } w = true := by
  simp [wordOk, useOk, layOk, hd, ha, hb, hc]

theorem formLi_ok (hd : w.d.toNat < 32) (ha : w.a = 0) (hb : w.b = 0) (hc : w.c = 0) : wordOk r { d := .sc, lay := .imm } w = true := by
  simp [wordOk, useOk, layOk, hd, ha, hb, hc]

/-- A register form writes what its operation makes of xA and xB. -/
theorem scalar2_puts (h : Ready s r {}) (hw : wordOk r formRR w = true) {op : W64 → W64 → W64} {v : W64}
    (hv : op ((s.unit r).x w.a) ((s.unit r).x w.b) = v) :
    scalar2 op r w s = s.modU r fun u => advanced (u.setX w.d v (u.xp w.a || u.xp w.b)) := by
  unfold scalar2
  rw [ctlReg_setX h hw (fun _ _ => rfl) (fun _ _ => rfl)]
  exact modU_congr (by rw [hv])

/-- An immediate form writes what its operation makes of xA and IMM. -/
theorem scalarImm_puts (h : Ready s r {}) (hw : wordOk r { d := .sc, a := .sc, lay := .imm } w = true) {op : W64 → Int → W64} {v : W64}
    (hv : op ((s.unit r).x w.a) w.immI = v) :
    scalarImm op r w s = s.modU r fun u => advanced (u.setX w.d v (u.xp w.a)) := by
  unfold scalarImm
  rw [ctlReg_setX h hw (fun _ _ => rfl) (fun _ _ => rfl)]
  exact modU_congr (by rw [hv])

/-- LI writes IMM. -/
theorem li_puts (h : Ready s r {}) (hw : wordOk r { d := .sc, lay := .imm } w = true) :
    exec (.li r w) s = .next (s.modU r fun u => advanced (u.setX w.d (BitVec.ofInt 64 w.immI) false)) :=
  congrArg Host.Outcome.next (ctlReg_setX (v := fun _ => BitVec.ofInt 64 w.immI) (p := fun _ => false) h hw (fun _ _ => rfl) (fun _ _ => rfl))

theorem shift_field (b : W64) : (b.extractLsb' 0 6).toNat = b.toNat % 64 := by
  simp [BitVec.extractLsb'_toNat]

/-- MUL: the low half of the product of 128 bits. -/
theorem low_of_product (a b : W64) : (a.setWidth 128 * b.setWidth 128).setWidth 64 = a * b := by
  apply BitVec.eq_of_toNat_eq
  simp only [BitVec.toNat_setWidth, BitVec.toNat_mul]
  rw [Nat.mod_mod_of_dvd _ (by decide), Nat.mod_eq_of_lt (by omega : a.toNat < 2 ^ 128), Nat.mod_eq_of_lt (by omega : b.toNat < 2 ^ 128)]

/-- Settles O2: each register form is `scalar2` of its operation. -/
theorem scalarRegisterResult : Obligations.ScalarRegisterResult := by
  unfold Obligations.ScalarRegisterResult
  intro r w s h hd ha hb hc hl
  have hw : wordOk r formRR w = true := formRR_ok hd ha hb hc hl
  have puts {op : W64 → W64 → W64} {v : W64} (hv : op ((s.unit r).x w.a) ((s.unit r).x w.b) = v) :
      Host.Outcome.next (scalar2 op r w s) = (.next (s.modU r fun u => advanced (u.setX w.d v (u.xp w.a || u.xp w.b))) :
        Host.Outcome State Fault Refusal) := congrArg Host.Outcome.next (scalar2_puts h hw hv)
  refine ⟨puts rfl, puts rfl, puts rfl, puts rfl, puts rfl, puts ?_, puts ?_, puts ?_, puts ?_⟩
  · rw [BitVec.shiftLeft_eq', shift_field]
  · rw [BitVec.ushiftRight_eq', shift_field]
  · rw [shift_field]
  · rw [low_of_product]

/-- IMM of layout I is its 30 bits as a signed number (R222). -/
theorem immI_toInt (w : CtlWord) : w.immI = w.low.toInt := by
  have hLow : w.low.toNat < 2 ^ 30 := w.low.isLt
  rw [CtlWord.immI, sbits, signedOf, bits, BitVec.toInt_eq_toNat_cond]
  simp only [Nat.pow_zero, Nat.div_one, Nat.mod_eq_of_lt hLow]
  split
  · rw [if_pos (by omega)]
  · rw [if_neg (by omega)]

theorem ofInt_immI (w : CtlWord) : BitVec.ofInt 64 w.immI = w.low.signExtend 64 := by
  rw [immI_toInt]
  rfl

/-- LIH: IMM above the low 30 bits of xA. -/
theorem lih_value (a : W64) (w : CtlWord) :
    BitVec.ofInt 64 ((a.toNat % 2 ^ 30 : Nat) + w.immI * (2 ^ 30 : Nat)) = w.low.signExtend 34 ++ a.extractLsb' 0 30 := by
  have hLow : -2 ^ 29 ≤ w.low.toInt ∧ w.low.toInt < 2 ^ 29 := ⟨BitVec.le_toInt w.low, BitVec.toInt_lt⟩
  apply BitVec.eq_of_toNat_eq
  rw [immI_toInt, BitVec.toNat_ofInt, BitVec.toNat_append, BitVec.signExtend, BitVec.toNat_ofInt, BitVec.extractLsb'_toNat,
    ← Nat.shiftLeft_add_eq_or_of_lt (Nat.mod_lt _ (by decide)), Nat.shiftLeft_eq, Nat.shiftRight_zero]
  omega

/-- SETVL sets VL from xA. -/
theorem exec_setvl (h : Ready s r {}) (hw : wordOk r { a := .sc, lay := .reg } w = true) (hp : (s.unit r).xp w.a = false)
    (hLow : 1 ≤ ((s.unit r).x w.a).toNat) (hHigh : ((s.unit r).x w.a).toNat ≤ 256) :
    exec (.setvl r w) s = .next (s.modU r fun u => { advanced u with vl := BitVec.ofNat 9 ((s.unit r).x w.a).toNat }) := by
  change Host.Outcome.next (ctl r _ w _ _ _ _ s) = _
  rw [ctl_acts h hw]
  · rw [retire_of_ready h]
    · rw [State.fetched, modU_modU, modU_modU]
      exact congrArg Host.Outcome.next (modU_congr rfl)
    · rw [modU_unit, fetched_unit]
    · rw [modU_unit, fetched_unit]
    · rw [modU_unit, fetched_unit]
  · rw [fetched_any_xp]
    simp [hp]
  · dsimp only
    rw [fetched_x, if_neg (by simp; omega)]

/-- SETVL of a length that VL cannot hold fails the step. -/
theorem exec_setvl_refused (h : Ready s r {}) (hw : wordOk r { a := .sc, lay := .reg } w = true) (hp : (s.unit r).xp w.a = false)
    (hv : ((s.unit r).x w.a).toNat = 0 ∨ 256 < ((s.unit r).x w.a).toNat) :
    exec (.setvl r w) s = .next ((s.fetched r).failAt r 0x0111) := by
  change Host.Outcome.next (ctl r _ w _ _ _ _ s) = _
  rw [ctl_event h hw]
  · rw [fetched_any_xp]
    simp [hp]
  · dsimp only
    rw [fetched_x, if_pos (by simp; omega)]

/-- The word that a ready unit dispatches has a number that PC can name. -/
theorem ready_next_lt {sp : Spans} (h : Ready s r sp) : (s.unit r).next < 2 ^ 17 := by
  have hNext := h.next
  have hCode := h.code
  omega

theorem failAt_vl (s : State) (r : Res) (code d0 : Nat) : (((s.fetched r).failAt r code d0).unit r).vl = (s.unit r).vl := by
  rw [State.failAt, failOn_unit, fetched_unit]

/-- Settles O3. -/
theorem scalarImmediateResult : Obligations.ScalarImmediateResult := by
  unfold Obligations.ScalarImmediateResult
  intro r w s h hb hc
  have hSet (hd : w.d = 0) (ha : w.a.toNat < 32) (hl : w.low = 0) : wordOk r { a := .sc, lay := .reg } w = true := by
    simp [wordOk, useOk, layOk, hd, ha, hb, hc, hl]
  refine ⟨fun hd ha => ?_, fun hd ha => ?_, fun hd ha => ?_, fun hd ha hl hp hLow hHigh => ?_, fun hd ha hl hp hv hRoom => ?_⟩
  · exact congrArg Host.Outcome.next (scalarImm_puts h (formImm_ok hd ha hb hc) (by rw [ofInt_immI]))
  · rw [li_puts h (formLi_ok hd ha hb hc), ofInt_immI]
  · exact congrArg Host.Outcome.next (scalarImm_puts h (formImm_ok hd ha hb hc) (lih_value _ w))
  · exact exec_setvl h (hSet hd ha hl) hp hLow hHigh
  · exact ⟨_, exec_setvl_refused h (hSet hd ha hl) hp hv, failAt_fails (ready_next_lt h) hRoom, failAt_vl s r _ _⟩

/-- Settles O4: a write to x0 leaves the unit, and an operand that is x0 is zero and unpoisoned. -/
theorem x0IsZero : Obligations.X0IsZero := by
  unfold Obligations.X0IsZero
  intro r w s h hb hc hl
  have hImm (w : CtlWord) (hl : w.low = 0) : w.immI = 0 := by
    rw [immI_toInt, hl]
    rfl
  have hb' : w.b.toNat < 32 := by rw [hb]; decide
  have hOp (op : W64 → W64 → W64) (hd : w.d.toNat < 32) (ha : w.a.toNat < 32) :=
    congrArg (Host.Outcome.next (φ := Fault) (ρ := Refusal)) (scalar2_puts h (formRR_ok (r := r) hd ha hb' hc hl) (op := op) rfl)
  have hOpI (op : W64 → Int → W64) (hd : w.d.toNat < 32) (ha : w.a.toNat < 32) :=
    congrArg (Host.Outcome.next (φ := Fault) (ρ := Refusal)) (scalarImm_puts h (formImm_ok (r := r) hd ha hb hc) (op := op) rfl)
  refine ⟨fun hd ha i hi => ?_, fun hd ha i hi => ?_⟩
  · have hd' : w.d.toNat < 32 := by rw [hd]; decide
    simp only [setX_zero hd] at hOp hOpI
    simp only [List.mem_cons, List.not_mem_nil, or_false] at hi
    rcases hi with rfl | rfl | rfl | rfl | rfl | rfl | rfl | rfl | rfl | rfl | rfl
    · exact hOp _ hd' ha
    · exact hOp _ hd' ha
    · exact hOp _ hd' ha
    · exact hOp _ hd' ha
    · exact hOp _ hd' ha
    · exact hOp _ hd' ha
    · exact hOp _ hd' ha
    · exact hOp _ hd' ha
    · exact hOp _ hd' ha
    · exact hOpI _ hd' ha
    · exact hOpI _ hd' ha
  · have ha' : w.a.toNat < 32 := by rw [ha]; decide
    simp only [xp_zero ha, xp_zero hb, x_zero ha, x_zero hb, hImm w hl, Bool.or_self] at hOp hOpI
    simp only [List.mem_cons, List.not_mem_nil, or_false] at hi
    rcases hi with rfl | rfl | rfl | rfl | rfl | rfl | rfl | rfl | rfl | rfl | rfl | rfl
    · exact hOp _ hd ha'
    · exact hOp _ hd ha'
    · exact hOp _ hd ha'
    · exact hOp _ hd ha'
    · exact hOp _ hd ha'
    · exact hOp _ hd ha'
    · exact hOp _ hd ha'
    · exact hOp _ hd ha'
    · exact hOp _ hd ha'
    · exact hOpI _ hd ha'
    · rw [li_puts h (formLi_ok hd ha hb hc), hImm w hl]
      rfl
    · exact hOpI _ hd ha'

end Sys2Proof.Machine.Scalars

/-! PROOF. Scalar loads and stores, branches, and instructions that wait (07 R218, R223, R225, R232 to R234, R239). -/

namespace Sys2Proof.Machine.Waits

open Sys2Proof.Machine Sys2Proof.Machine.Laws Sys2Proof.Machine.Frames Sys2Proof.Machine.NmuAccess Sys2Proof.Machine.Faults
  Sys2Proof.Machine.FailedSteps Sys2Proof.Machine.Scalars

variable {s : State} {r : Res} {w : CtlWord}

/-! ### XLD (07 R218, R223) -/

/-- The state after a unit has read and written a scalar register from what it read. -/
theorem exec_xld {a : Nat} (ha : addrPlus ((s.unit r).x w.a) w.immI = a) (h : Ready s r { rd := [(a, a + 8)] })
    (hw : wordOk r { d := .sc, a := .sc, lay := .imm } w = true) (hp : (s.unit r).xp w.a = false) (hAlign : a % 8 = 0)
    (hOk : s.accOk r a 8 false = true) :
    exec (.xld r w) s = .next (((s.fetched r).touch r a 8).modU r fun u =>
      { u.setX w.d (BitVec.ofNat 64 (s.readNat (unitAddr r a) 8)) (s.poisonedRange (unitAddr r a) 8) with next := (s.unit r).next + 1 }) := by
  subst ha
  change Host.Outcome.next (ctl r _ w _ _ _ _ s) = _
  have hUnit := accessed_unit (touch_kept (s.fetched r) r (addrPlus ((s.unit r).x w.a) w.immI) 8) r
  rw [ctl_acts h hw]
  · dsimp only
    rw [fetched_x, fetched_readNat, State.fetched, modU_poisonedRange, ← State.fetched, retire_of_ready h, modU_modU]
    · rw [modU_unit, (setX_kept _ _ _ _).1, hUnit, fetched_unit]
    · rw [modU_unit, (setX_kept _ _ _ _).2.1, hUnit, fetched_unit]
    · rw [modU_unit, (setX_kept _ _ _ _).2.2, hUnit, fetched_unit]
  · rw [fetched_any_xp]
    simp [hp]
  · simp [-fetched_unit, fetched_x, fetched_accOk_any, hOk, hAlign]

theorem xld_gives {a : Nat} (ha : addrPlus ((s.unit r).x w.a) w.immI = a) (h : Ready s r { rd := [(a, a + 8)] })
    (hw : wordOk r { d := .sc, a := .sc, lay := .imm } w = true) (hp : (s.unit r).xp w.a = false) (hAlign : a % 8 = 0)
    (hOk : s.accOk r a 8 false = true) :
    Gives (.xld r w) s fun t =>
      t.unit r = advanced ((s.unit r).setX w.d (BitVec.ofNat 64 (s.readNat (unitAddr r a) 8)) (s.poisonedRange (unitAddr r a) 8)) ∧
        Framed s t r := by
  have hTouch := touch_kept (s.fetched r) r a 8
  refine ⟨_, exec_xld ha h hw hp hAlign hOk, ?_, ?_⟩
  · rw [modU_unit, accessed_unit hTouch, fetched_unit]
    exact setX_advanced _ _ _ _
  · exact ((framed_modU s r _).trans (framed_of_accessed hTouch r)).trans (framed_modU _ r _)

/-! ### XST (07 R218, R223) -/

theorem unitAddr_mod (r : Res) (a : Nat) (h : a % 8 = 0) : unitAddr r a % 8 = 0 := by
  cases r with
  | reach n =>
    simp only [unitAddr, storeBase]
    omega
  | nmu d => exact h

/-- Eight bytes at a multiple of 8 lie in one line; poisoned ones mark it (11 R365). -/
theorem write_marks (s : State) {a : Nat} {bs : List Byte} (ha : a % 8 = 0) (hl : bs.length = 8) : a / 64 ∈ (s.write a bs true).poison := by
  have hTake : bs.take (64 - a % 64) = bs := List.take_of_length_le (by omega)
  have hDrop : bs.drop (64 - a % 64) = [] := List.drop_eq_nil_iff.mpr (by omega)
  have hNe : bs.isEmpty = false := by
    cases bs with
    | nil => simp at hl
    | cons b bs => rfl
  have hWrite : s.write a bs true = s.writeLine a bs true := by
    simp only [State.write, hl, State.writeGo, hNe, hTake, hDrop, List.isEmpty_nil, if_true, Bool.false_eq_true, if_false]
  rw [hWrite]
  simp [State.writeLine, hl]

theorem noteShardPoison_cases (s : State) (r : Res) (a n : Nat) : s.noteShardPoison r a n = s ∨
    ∃ d, r = .nmu d ∧ s.noteShardPoison r a n = s.modNmu d fun x => { x with poisonW := true } := by
  unfold State.noteShardPoison
  cases r with
  | reach k => exact .inl rfl
  | nmu d =>
    dsimp only
    split
    · exact .inr ⟨d, rfl, rfl⟩
    · exact .inl rfl

/-- A mark that a store leaves for the shard check changes no unit and nothing beside it. -/
theorem noteShardPoison_kept (s : State) (r : Res) (a n : Nat) :
    (s.noteShardPoison r a n).unit r = s.unit r ∧ Framed s (s.noteShardPoison r a n) r ∧
      ∀ b, (s.noteShardPoison r a n).byte b = s.byte b := by
  rcases noteShardPoison_cases s r a n with h | ⟨d, rfl, h⟩
  · rw [h]
    exact ⟨rfl, Framed.refl s r, fun _ => rfl⟩
  · rw [h]
    exact ⟨by simp [State.unit], ⟨modNmu_othersKept s d _, (modNmu_alike s d _).device, (modNmu_alike s d _).memory⟩, fun _ => rfl⟩

/-- What a unit's store leaves: its bytes, and nothing else but what goes with them. -/
structure Stored (s t : State) (r : Res) (a : Nat) (bs : List Byte) : Prop where
  unit   : t.unit r = s.unit r
  others : OthersKept s t r
  device : DeviceKept s t
  byte   : ∀ b, t.byte b = (s.write (unitAddr r a) bs false).byte b

/-- Which bytes a write leaves does not depend on their mark. -/
theorem byte_write_mark (s : State) (a : Nat) (bs : List Byte) (p q : Bool) (b : Nat) : (s.write a bs p).byte b = (s.write a bs q).byte b := by
  rw [byte_write, byte_write]

/-- The state before a store's access passes the cache. -/
def written (s : State) (r : Res) (a : Nat) (bs : List Byte) (p : Bool) : State :=
  if p then (s.write (unitAddr r a) bs p).noteShardPoison r a bs.length else s.write (unitAddr r a) bs p

theorem written_stored (s : State) (r : Res) (a : Nat) (bs : List Byte) (p : Bool) : Stored s (written s r a bs p) r a bs := by
  have hWrite : Stored s (s.write (unitAddr r a) bs p) r a bs := by
    have h := write_beside s (unitAddr r a) bs p
    refine ⟨?_, ⟨fun _ _ => by rw [h.reach], fun _ _ => by rw [h.nmu]⟩, h.device, fun b => byte_write_mark s _ _ _ _ b⟩
    cases r with
    | reach n => simp only [State.unit, h.reach]
    | nmu d => simp only [State.unit, h.nmu]
  unfold written
  split
  · obtain ⟨hUnit, ⟨⟨hReach, hNmu⟩, hDevice, -⟩, hByte⟩ := noteShardPoison_kept (s.write (unitAddr r a) bs p) r a bs.length
    obtain ⟨gReach, gNmu⟩ := hWrite.others
    exact ⟨hUnit.trans hWrite.unit, ⟨fun m hm => (hReach m hm).trans (gReach m hm), fun d hd => (hNmu d hd).trans (gNmu d hd)⟩,
      deviceKept_trans hWrite.device hDevice, fun b => (hByte b).trans (hWrite.byte b)⟩
  · exact hWrite

theorem store_eq (s : State) (r : Res) (a : Nat) (bs : List Byte) (p : Bool) :
    s.store r a bs p = if r.isNmu then (written s r a bs p).llc a bs.length else written s r a bs p := rfl

theorem store_stored (s : State) (r : Res) (a : Nat) (bs : List Byte) (p : Bool) : Stored s (s.store r a bs p) r a bs := by
  rw [store_eq]
  have h := written_stored s r a bs p
  split
  · have hLlc := llc_accessed (written s r a bs p) a bs.length (alloc := true)
    refine ⟨(accessed_unit hLlc r).trans h.unit, ⟨fun m hm => ?_, fun d hd => ?_⟩, deviceKept_trans h.device hLlc.device,
      fun b => (llc_byte _ _ _ b).trans (h.byte b)⟩
    · rw [hLlc.reach]
      exact h.others.1 m hm
    · rw [hLlc.nmu]
      exact h.others.2 d hd
  · exact h

theorem store_marks (s : State) (r : Res) {a : Nat} {bs : List Byte} (ha : a % 8 = 0) (hl : bs.length = 8) :
    unitAddr r a / 64 ∈ (s.store r a bs true).poison := by
  have hWritten : unitAddr r a / 64 ∈ (written s r a bs true).poison := by
    rw [written, if_pos rfl, (noteShardPoison_kept _ r a bs.length).2.1.2.2.2.1]
    exact write_marks s (unitAddr_mod r a ha) hl
  rw [store_eq]
  split
  · rw [(llc_accessed _ a bs.length (alloc := true)).memory.2.1]
    exact hWritten
  · exact hWritten

theorem exec_xst {a : Nat} (ha : addrPlus ((s.unit r).x w.a) w.immI = a) (h : Ready s r { wr := [(a, a + 8)] })
    (hw : wordOk r { a := .sc, b := .sc, lay := .imm } w = true) (hp : (s.unit r).xp w.a = false) (hAlign : a % 8 = 0)
    (hOk : s.accOk r a 8 true = true) :
    exec (.xst r w) s = .next (((s.fetched r).store r a (leBytes 8 ((s.unit r).x w.b).toNat) ((s.unit r).xp w.b)).modU r fun u =>
      { u with next := (s.unit r).next + 1 }) := by
  subst ha
  change Host.Outcome.next (ctl r _ w _ _ _ _ s) = _
  have hUnit := (store_stored (s.fetched r) r (addrPlus ((s.unit r).x w.a) w.immI) (leBytes 8 ((s.unit r).x w.b).toNat) ((s.unit r).xp w.b)).unit
  rw [ctl_acts h hw]
  · dsimp only
    rw [fetched_x, fetched_x, fetched_xp, retire_of_ready h]
    · rw [hUnit, fetched_unit]
    · rw [hUnit, fetched_unit]
    · rw [hUnit, fetched_unit]
  · rw [fetched_any_xp]
    simp [hp]
  · simp [-fetched_unit, fetched_x, fetched_accOk_any, hOk, hAlign]

theorem modU_bytes {t : State} {f : Machine.Unit → Machine.Unit} : (t.modU r f).poison = t.poison ∧ ∀ b, (t.modU r f).byte b = t.byte b :=
  ⟨modU_poison t r f, modU_byte t r f⟩

/-- What holds of the bytes after a write into a state whose unit has dispatched holds of the bytes written into the state. -/
theorem stored_bytes {t : State} {a : Nat} {bs : List Byte} (h : ∀ b, t.byte b = ((s.fetched r).write a bs false).byte b) :
    BytesAre t a bs ∧ BytesKept s t [(a, bs.length)] := by
  refine ⟨fun i hi => ?_, fun b hKey hOut => ?_⟩
  · rw [h, write_bytesAre _ a bs false i hi]
  · have hOut' := hOut _ (List.mem_singleton.mpr rfl)
    rw [h, byte_write, if_neg (by simp only at hOut'; omega), State.fetched, modU_byte]

theorem xst_gives {a : Nat} (ha : addrPlus ((s.unit r).x w.a) w.immI = a) (h : Ready s r { wr := [(a, a + 8)] })
    (hw : wordOk r { a := .sc, b := .sc, lay := .imm } w = true) (hp : (s.unit r).xp w.a = false) (hAlign : a % 8 = 0)
    (hOk : s.accOk r a 8 true = true) :
    Gives (.xst r w) s fun t =>
      t.unit r = advanced (s.unit r) ∧ BytesAre t (unitAddr r a) (leBytes 8 ((s.unit r).x w.b).toNat) ∧
        ((s.unit r).xp w.b = true → unitAddr r a / 64 ∈ t.poison) ∧ OthersKept s t r ∧ DeviceKept s t ∧
        BytesKept s t [(unitAddr r a, 8)] := by
  have hStore := store_stored (s.fetched r) r a (leBytes 8 ((s.unit r).x w.b).toNat) ((s.unit r).xp w.b)
  obtain ⟨⟨hReach, hNmu⟩, hDevice, -⟩ := framed_modU s r fun u => { u with pc := BitVec.ofNat 17 u.next }
  refine ⟨_, exec_xst ha h hw hp hAlign hOk, ?_⟩
  generalize hEnd : ((s.fetched r).store r a (leBytes 8 ((s.unit r).x w.b).toNat) ((s.unit r).xp w.b)) = t at hStore ⊢
  obtain ⟨⟨gReach, gNmu⟩, gDevice, -⟩ := framed_modU t r fun u => { u with next := (s.unit r).next + 1 }
  obtain ⟨hPoison, hByte⟩ := modU_bytes (r := r) (t := t) (f := fun u => { u with next := (s.unit r).next + 1 })
  obtain ⟨hAre, hKept⟩ := stored_bytes (s := s) (r := r) fun b => (hByte b).trans (hStore.byte b)
  rw [length_leBytes] at hKept
  refine ⟨?_, hAre, fun hx => ?_, ⟨fun m hm => ?_, fun d hd => ?_⟩, ?_, hKept⟩
  · rw [modU_unit, hStore.unit, fetched_unit]
    rfl
  · rw [hPoison, ← hEnd, hx]
    exact store_marks _ r hAlign (length_leBytes _ _)
  · exact ((gReach m hm).trans (hStore.others.1 m hm)).trans (hReach m hm)
  · exact ((gNmu d hd).trans (hStore.others.2 d hd)).trans (hNmu d hd)
  · exact deviceKept_trans (deviceKept_trans hDevice hStore.device) gDevice

/-- Settles O5: XLD by `xld_gives`, XST by `xst_gives`. -/
theorem scalarLoadAndStore : Obligations.ScalarLoadAndStore := by
  unfold Obligations.ScalarLoadAndStore
  intro r w s ha hc hp a hAlign
  refine ⟨fun hd hb h hOk => ?_, fun hd hb h hOk => ?_⟩
  · obtain ⟨t, hExec, hUnit, hFramed⟩ := xld_gives rfl h (formImm_ok hd ha hb hc) hp hAlign hOk
    exact ⟨t, hExec, hUnit, hFramed.1, hFramed.2.1, hFramed.2.2, bytesKept_of_framed hFramed _⟩
  · exact xst_gives rfl h (by simp [wordOk, useOk, layOk, ha, hb, hc, hd]) hp hAlign hOk

/-! ### BR (07 R223, R225, R234) -/

/-- The conditions of R225, as the registers' values compare. -/
theorem brTaken_iff {cond : Nat} (hCond : cond ≤ 6) (a b : W64) : brTaken cond a b = true ↔
    match (generalizing := false) cond with
      | 0 => True | 1 => a = b | 2 => a ≠ b | 3 => a.slt b = true | 4 => a.slt b = false | 5 => a < b | _ => b ≤ a := by
  match cond with
  | 0 => simp [brTaken]
  | 1 => simp [brTaken]
  | 2 => simp [brTaken]
  | 3 => simp [brTaken, BitVec.slt]
  | 4 => simp [brTaken, BitVec.slt]
  | 5 => simp [brTaken, BitVec.lt_def]
  | 6 => simp [brTaken, BitVec.le_def]
  | _ + 7 => omega

theorem cond_le (h : w.cond ≠ 7) : w.cond ≤ 6 := by
  have hLt : w.cond < 8 := Nat.mod_lt _ (by decide)
  omega

theorem fetched_pc_toNat (h : (s.unit r).next < 2 ^ 17) : ((s.fetched r).unit r).pc.toNat = (s.unit r).next := by
  rw [fetched_unit]
  exact (BitVec.toNat_ofNat _ _).trans (Nat.mod_eq_of_lt h)

/-- A branch's two outcomes, once its target is known to lie in the code area where it is taken. -/
theorem exec_br (hGo : s.canDispatch r {} = true) (hIn : (s.unit r).next < (s.unit r).codeLen) (hCode : (s.unit r).codeLen ≤ 2 ^ 17)
    (hw : wordOk r { a := .sc, b := .sc, lay := .j } w = true) (ha : (s.unit r).xp w.a = false) (hb : (s.unit r).xp w.b = false)
    (hTarget : brTaken w.cond ((s.unit r).x w.a) ((s.unit r).x w.b) = true →
      0 ≤ ((s.unit r).next : Int) + w.off ∧ ((s.unit r).next : Int) + w.off < (s.unit r).codeLen) :
    exec (.br r w) s = .next (if brTaken w.cond ((s.unit r).x w.a) ((s.unit r).x w.b) then
      (s.fetched r).modU r fun u => { u with next := (((s.unit r).next : Int) + w.off).toNat } else (s.fetched r).retire r) := by
  have hpc := fetched_pc_toNat (s := s) (r := r) (by omega)
  have hLen : ((s.fetched r).unit r).codeLen = (s.unit r).codeLen := by rw [fetched_unit]
  change Host.Outcome.next (ctl r _ w _ _ _ _ s) = _
  rw [ctl_dispatches hGo hIn hw]
  · simp only [fetched_x, hpc]
  · rw [fetched_any_xp]
    simp [ha, hb]
  · simp only [fetched_x, hpc, hLen]
    by_cases hTaken : brTaken w.cond ((s.unit r).x w.a) ((s.unit r).x w.b) = true
    · obtain ⟨hLow, hHigh⟩ := hTarget hTaken
      simp [hTaken, Int.not_lt.mpr hLow, Int.not_le.mpr hHigh]
    · simp [hTaken]

/-- Settles O6. -/
theorem branchGoesToItsTarget : Obligations.BranchGoesToItsTarget := by
  unfold Obligations.BranchGoesToItsTarget
  intro r w s hGo hIn hCode hd ha hb hc hCond hpa hpb a b holds
  have hw : wordOk r { a := .sc, b := .sc, lay := .j } w = true := by simp [wordOk, useOk, layOk, ha, hb, hc, hd, hCond]
  have hIff : brTaken w.cond a b = true ↔ holds := brTaken_iff (cond_le hCond) a b
  refine ⟨fun hHolds k hk hLen => ?_, fun hHolds hNext => ?_⟩
  · rw [exec_br hGo hIn hCode hw hpa hpb fun _ => by omega, if_pos (hIff.mpr hHolds), ← hk, State.fetched, modU_modU]
    rfl
  · rw [exec_br hGo hIn hCode hw hpa hpb fun hTaken => absurd (hIff.mp hTaken) hHolds, if_neg fun hTaken => hHolds (hIff.mp hTaken),
      retire_of_ready ⟨hGo, hNext, hCode⟩, State.fetched, modU_modU]
    · exact congrArg Host.Outcome.next (modU_congr rfl)
    · rw [fetched_unit]
    · rw [fetched_unit]
    · rw [fetched_unit]

/-! ### Beginning to wait (07 R232 to R234, R239) -/

/-- A unit that dispatches an instruction that waits. -/
theorem fetched_wait (s : State) (r : Res) (x : Wait) :
    ((s.fetched r).modU r fun u => { u with wait := x }) = s.modU r fun u => waiting u x := by
  rw [State.fetched, modU_modU]
  rfl

theorem await_eq (s : State) (r : Res) (x : Wait) : (s.fetched r).await r x = (s.modU r fun u => waiting u x).settle r := by
  rw [State.await, fetched_wait]

/-- A unit that waited for nothing, and has ended a wait of its own, is as it was. -/
theorem wait_over {u : Machine.Unit} (h : u.wait = .none) (x : Wait) (n : Nat) :
    { waiting u x with wait := .none, next := n } = { u with pc := BitVec.ofNat 17 u.next, next := n } := by
  cases u
  cases h
  rfl

/-- A unit whose wait is over at once goes on to the next word. -/
theorem over_retire {sp : Spans} (h : Ready s r sp) (x : Wait) :
    ((s.modU r fun u => waiting u x).modU r fun u => { u with wait := .none }).retire r = s.modU r advanced := by
  obtain ⟨-, hWait⟩ := ready_run h
  rw [retire_of_ready h, modU_modU, modU_modU]
  · exact modU_congr (wait_over hWait x _)
  · rw [modU_unit, modU_unit]; rfl
  · rw [modU_unit, modU_unit]; rfl
  · rw [modU_unit, modU_unit]; rfl

theorem modU_tileIdle (s : State) (r : Res) (f : Machine.Unit → Machine.Unit) : (s.modU r f).tileIdle r = s.tileIdle r := by
  cases r with
  | reach n => simp only [State.tileIdle, Reach.tileIdle, modU_reach, modReach_same]
  | nmu d => rfl

theorem modU_bargeBusy (s : State) (r : Res) (f : Machine.Unit → Machine.Unit) (m : Nat) : (s.modU r f).bargeBusy r m = s.bargeBusy r m := by
  cases r with
  | reach n => simp only [State.bargeBusy, modU_reach, modReach_same]
  | nmu d => rfl

theorem modU_bargeCode (s : State) (r : Res) (f : Machine.Unit → Machine.Unit) (m : Nat) : (s.modU r f).bargeCode r m = s.bargeCode r m := by
  cases r with
  | reach n => simp only [State.bargeCode, modU_reach, modReach_same]
  | nmu d => rfl

/-! ### WAITEQ (07 R223, R234) -/

/-- A WAITEQ that waits and finds its word retires after the read, else goes on waiting. -/
theorem settle_waitEq {a : Nat} {v : W64} (h : (s.unit r).wait = .waitEq a v) :
    s.settle r = if s.readNat (unitAddr r a) 8 = v.toNat then ((s.touch r a 8).modU r fun u => { u with wait := .none }).retire r else s := by
  unfold State.settle
  dsimp only
  rw [h]

theorem modU_readNat (s : State) (r : Res) (f : Machine.Unit → Machine.Unit) (a n : Nat) : (s.modU r f).readNat a n = s.readNat a n := by
  rw [State.readNat, State.readNat, modU_read]

theorem exec_waiteq {a : Nat} (ha : ((s.unit r).x w.a).toNat = a) (h : Ready s r { rd := [(a, a + 8)] })
    (hw : wordOk r { a := .sc, b := .sc, lay := .reg } w = true) (hpa : (s.unit r).xp w.a = false) (hpb : (s.unit r).xp w.b = false)
    (hAlign : a % 8 = 0) (hOk : s.accOk r a 8 false = true) :
    exec (.waiteq r w) s = .next (if s.readNat (unitAddr r a) 8 = ((s.unit r).x w.b).toNat then
      (((s.modU r fun u => waiting u (.waitEq a ((s.unit r).x w.b))).touch r a 8).modU r fun u => { u with wait := .none }).retire r
      else s.modU r fun u => waiting u (.waitEq a ((s.unit r).x w.b))) := by
  subst ha
  change Host.Outcome.next (ctl r _ w _ _ _ _ s) = _
  rw [ctl_acts h hw]
  · dsimp only
    rw [fetched_x, fetched_x, await_eq, settle_waitEq (by rw [modU_unit]; rfl), modU_readNat]
  · rw [fetched_any_xp]
    simp [hpa, hpb]
  · simp [-fetched_unit, fetched_x, fetched_accOk_any, hOk, hAlign]

theorem exec_waiteqMatch {a : Nat} {v : W64} (h : (s.unit r).wait = .waitEq a v) : exec (.waiteqMatch r) s = .next (s.settle r) := by
  change execWaiteqMatch r s = _
  unfold execWaiteqMatch
  rw [h]

/-- The unit after a wait that has ended on a read: it goes on, and nothing else changes. -/
theorem ended_wait {t : State} {a : Nat} (hRun : (t.unit r).run = .running) (hNext : (t.unit r).pc.toNat + 1 < (t.unit r).codeLen) :
    let u := ((t.touch r a 8).modU r fun u => { u with wait := .none }).retire r
    u.unit r = { t.unit r with wait := .none, next := (t.unit r).pc.toNat + 1 } ∧ Framed t u r := by
  have hTouch := touch_kept t r a 8
  have hUnit := accessed_unit hTouch r
  dsimp only
  rw [retire_next, modU_unit, modU_unit, hUnit]
  · exact ⟨rfl, ((framed_of_accessed hTouch r).trans (framed_modU _ r _)).trans (framed_modU _ r _)⟩
  · rw [modU_unit, hUnit, hRun]
  · rw [modU_unit, hUnit]
    exact hNext

/-- Settles O7. -/
theorem waiteqWaitsForTheWord : Obligations.WaiteqWaitsForTheWord := by
  unfold Obligations.WaiteqWaitsForTheWord
  refine ⟨?_, fun r s a v hWait hRun hNext => ?_⟩
  · intro r w s hd ha hb hc hl hpa hpb a v hAlign hOk h
    have hw : wordOk r { a := .sc, b := .sc, lay := .reg } w = true := by simp [wordOk, useOk, layOk, ha, hb, hc, hd, hl]
    have hExec := exec_waiteq rfl h hw hpa hpb hAlign hOk
    refine ⟨fun hNe => by rw [hExec, if_neg hNe], fun hEq => ⟨_, by rw [hExec, if_pos hEq], ?_⟩⟩
    obtain ⟨hRun, hNone⟩ := ready_run h
    have hpc : (BitVec.ofNat 17 (s.unit r).next).toNat = (s.unit r).next :=
      (BitVec.toNat_ofNat _ _).trans (Nat.mod_eq_of_lt (ready_next_lt h))
    obtain ⟨hUnit, hFramed⟩ := ended_wait (t := s.modU r fun u => waiting u (.waitEq a v)) (r := r) (a := a)
      (by rw [modU_unit]; exact hRun) (by rw [modU_unit]; change (BitVec.ofNat 17 (s.unit r).next).toNat + 1 < _; rw [hpc]; exact h.next)
    obtain ⟨hOthers, hDevice, hMemory⟩ := (framed_modU s r _).trans hFramed
    refine ⟨hUnit.trans ?_, hOthers, hDevice, hMemory⟩
    rw [modU_unit]
    refine (wait_over hNone _ _).trans ?_
    change ({ s.unit r with pc := _, next := (BitVec.ofNat 17 (s.unit r).next).toNat + 1 } : Machine.Unit) = _
    rw [hpc]
    rfl
  · rw [exec_waiteqMatch hWait, settle_waitEq hWait]
    refine ⟨fun hNe => by rw [if_neg hNe], fun hEq => ⟨_, by rw [exec_waiteqMatch hWait, settle_waitEq hWait, if_pos hEq], ?_⟩⟩
    exact ended_wait hRun hNext

end Sys2Proof.Machine.Waits

/-! PROOF. The end of a segment or step, the tile queue and barges (07 R232, R233, R239; 10 R318), and the words that fail a step
(02 R40; 03 R91, R92, R109; 07 R234, R246). -/

namespace Sys2Proof.Machine.Queues

open Sys2Proof.Machine Sys2Proof.Machine.Laws Sys2Proof.Machine.Frames Sys2Proof.Machine.NmuAccess Sys2Proof.Machine.Faults
  Sys2Proof.Machine.FailedSteps Sys2Proof.Machine.Scalars Sys2Proof.Machine.Waits

variable {s : State} {r : Res} {w : CtlWord}

/-! ### What a wait comes to (07 R232 to R234, R239) -/

theorem settle_yield (h : (s.unit r).wait = .yield) : s.settle r =
    if s.tileIdle r then s.modU r fun u => { u with wait := .none, run := .yielded, next := u.pc.toNat + 1 } else s := by
  unfold State.settle
  simp only [h]

theorem settle_twait (h : (s.unit r).wait = .twait) :
    s.settle r = if s.tileIdle r then (s.modU r fun u => { u with wait := .none }).retire r else s := by
  unfold State.settle
  simp only [h]

theorem settle_ending (h : (s.unit r).wait = .ending) : s.settle r = if s.tileIdle r && !s.bargeBusy r 0xFFFF then
    (s.modU r fun u => { u with wait := .none, run := .ended }).stepEnd (s.unit r).job (resNum r) else s := by
  unfold State.settle
  simp only [h]

theorem settle_bwait {mask dst : Nat} (h : (s.unit r).wait = .bwait mask dst) : s.settle r = if s.bargeBusy r mask then s else
    ((s.modU r fun u => { u with wait := .none }).modU r fun u => u.setX (BitVec.ofNat 6 dst) (s.bargeCode r mask) false).retire r := by
  unfold State.settle
  simp only [h]

theorem settle_tqFull {n : Fin 16} {y : BitVec 128} {k : Nat} (h : (s.unit (.reach n)).wait = .tqFull y k) : s.settle (.reach n) =
    if s.reach[n].tq.length < 16 then
      ((s.modReach n fun x => { x with tq := x.tq ++ [⟨y, (s.unit (.reach n)).pc.toNat, k⟩] }).modU (.reach n) fun u =>
        { u with wait := .none }).retire (.reach n)
    else s := by
  unfold State.settle
  simp only [h]

theorem settle_tag {n : Fin 16} {t : Nat} {desc : List Byte} (h : (s.unit (.reach n)).wait = .tag t desc) : s.settle (.reach n) =
    if s.bargeBusy (.reach n) (2 ^ t) then s else
      ((s.issueBarge n t desc).modU (.reach n) fun u => { u with wait := .none }).retire (.reach n) := by
  unfold State.settle
  simp only [h]

theorem waiting_wait (u : Machine.Unit) (x : Wait) : (waiting u x).wait = x := rfl

theorem next_toNat {sp : Spans} (h : Ready s r sp) : (BitVec.ofNat 17 (s.unit r).next).toNat = (s.unit r).next :=
  (BitVec.toNat_ofNat _ _).trans (Nat.mod_eq_of_lt (ready_next_lt h))

/-! ### YIELD, TWAIT and END (07 R232, R239) -/

theorem exec_yield (h : Ready s r {}) (hw : wordOk r { lay := .reg } w = true) :
    exec (.yield r w) s = .next ((s.modU r fun u => waiting u .yield).settle r) := by
  change Host.Outcome.next (ctl r _ w _ _ _ _ s) = _
  rw [ctl_acts h hw rfl rfl, await_eq]

theorem exec_twait (h : Ready s r {}) (hw : wordOk r { lay := .t, nmu := false } w = true) :
    exec (.twait r w) s = .next ((s.modU r fun u => waiting u .twait).settle r) := by
  change Host.Outcome.next (ctl r _ w _ _ _ _ s) = _
  rw [ctl_acts h hw rfl rfl, await_eq]

theorem exec_endStep (h : Ready s r {}) (hw : wordOk r { lay := .reg } w = true) :
    exec (.endStep r w) s = .next ((s.modU r fun u => waiting u .ending).settle r) := by
  change Host.Outcome.next (ctl r _ w _ _ _ _ s) = _
  rw [ctl_acts h hw rfl rfl, await_eq]

/-- A step in flight keeps the resources that have executed END until it is over (10 R318). -/
def EndedKept (s t : State) (j : Nat) : Prop :=
  ∀ y, (t.jobRun j).step = some y → ∃ x, (s.jobRun j).step = some x ∧ y.ended = x.ended

theorem EndedKept.trans {s t u : State} {j : Nat} (h : EndedKept s t j) (g : EndedKept t u j) : EndedKept s u j := by
  intro z hz
  obtain ⟨y, hy, hzy⟩ := g z hz
  obtain ⟨x, hx, hyx⟩ := h y hy
  exact ⟨x, hx, hzy.trans hyx⟩

theorem endedKept_of_jobs {t : State} {j : Nat} (h : t.lkp.jobs = s.lkp.jobs) : EndedKept s t j := by
  intro y hy
  rw [jobRun_congr h] at hy
  exact ⟨y, hy, rfl⟩

theorem modStep_endedKept (s : State) (j : Nat) {f : StepRun → StepRun} (h : ∀ x, (f x).ended = x.ended) : EndedKept s (s.modStep j f) j := by
  intro y hy
  rw [State.modStep, modJob_same, Option.map_eq_some_iff] at hy
  obtain ⟨x, hx, rfl⟩ := hy
  exact ⟨x, hx, h x⟩

theorem stopStep_endedKept (s : State) (j : Nat) (e : StepEnd) : EndedKept s (s.stopStep j e) j :=
  modStep_endedKept s j fun x => by split <;> rfl

theorem endStopped_endedKept (s : State) (j : Nat) : EndedKept s (s.endStopped j) j := by
  rcases endStopped_cases s j with h | ⟨x, t, -, -, -, -, h⟩
  · rw [h]
    exact endedKept_of_jobs rfl
  · rw [h]
    intro y hy
    rw [modJob_same] at hy
    simp at hy

theorem notePoison_endedKept (s : State) (j a n : Nat) : EndedKept s (s.notePoison j a n) j := by
  unfold State.notePoison
  split
  · exact modStep_endedKept s j fun x => by split <;> rfl
  · exact endedKept_of_jobs rfl

theorem foldl_endedKept {α : Type} {j : Nat} {f : State → α → State} (h : ∀ s x, EndedKept s (f s x) j) (l : List α) (s : State) :
    EndedKept s (l.foldl f s) j := by
  induction l generalizing s with
  | nil => exact endedKept_of_jobs rfl
  | cons x l ih => exact (h s x).trans (ih _)

theorem failStep_endedKept (s : State) (j : Nat) (e : Ev) : EndedKept s (s.failStep j e) j :=
  ((endedKept_of_jobs rfl).trans (stopStep_endedKept _ j _)).trans (endStopped_endedKept _ j)

theorem postOk_jobs (s : State) (j : Nat) (e : JobE) (x : StepRun) : (s.postOk j e x).lkp.jobs = s.lkp.jobs := by
  unfold State.postOk
  split
  · exact post_jobs s _
  · exact foldl_fst_keeps (fun t => t.lkp.jobs) _ (fun p _ => post_jobs p.1 _) _ (s, 0)

theorem tryPost_endedKept (s : State) (j : Nat) : EndedKept s (s.tryPost j) j := by
  unfold State.tryPost
  split
  · next x e _ _ =>
    split
    · exact endStopped_endedKept s j
    split
    · exact endedKept_of_jobs rfl
    split
    · refine EndedKept.trans ?_ (failStep_endedKept _ j _)
      split
      · exact foldl_endedKept (fun t _ => notePoison_endedKept t j _ _) _ s
      · exact endedKept_of_jobs rfl
    · exact (endedKept_of_jobs (postOk_jobs s j e x)).trans (modStep_endedKept _ j fun _ => rfl)
  · exact endedKept_of_jobs rfl

/-- A resource that has executed END is among those that have. -/
theorem stepEnd_ended (s : State) (j k : Nat) {y : StepRun} (hy : ((s.stepEnd j k).jobRun j).step = some y) : k ∈ y.ended := by
  obtain ⟨x, hx, hEnded⟩ := tryPost_endedKept _ j y hy
  rw [State.modStep, modJob_same, Option.map_eq_some_iff] at hx
  obtain ⟨z, -, rfl⟩ := hx
  rw [hEnded]
  exact (mem_setIns _ _ _).mpr (.inl rfl)

theorem unit_of_unbooked {t : State} (h : unbooked t = unbooked s) (r : Res) : t.unit r = s.unit r := by
  cases r with
  | reach n => simp only [State.unit, reach_of_unbooked _ h]
  | nmu d => simp only [State.unit, nmu_of_unbooked _ h]

theorem othersKept_of_unbooked {t : State} (h : unbooked t = unbooked s) (r : Res) : OthersKept s t r :=
  ⟨fun _ _ => by rw [reach_of_unbooked _ h], fun _ _ => by rw [nmu_of_unbooked _ h]⟩

theorem othersKept_trans {s t u : State} (h : OthersKept s t r) (g : OthersKept t u r) : OthersKept s u r :=
  ⟨fun m hm => (g.1 m hm).trans (h.1 m hm), fun d hd => (g.2 d hd).trans (h.2 d hd)⟩

/-- Settles O8: each of the three begins to wait, and `State.settle` ends the wait at once where what it waits for has come. -/
theorem yieldEndAndTwait : Obligations.YieldEndAndTwait := by
  unfold Obligations.YieldEndAndTwait
  intro r w s h hd ha hb hc hl here
  have hReg : wordOk r { lay := .reg } w = true := by simp [wordOk, useOk, layOk, ha, hb, hc, hd, hl]
  have hTw (hr : r.isNmu = false) : wordOk r { lay := .t, nmu := false } w = true := by
    simp [wordOk, useOk, layOk, ha, hb, hc, hd, hl, hr, bits]
  refine ⟨fun hIdle => ⟨?_, fun hr => ?_⟩, fun hBusy => ⟨?_, fun hr => ?_, ?_⟩, fun hIdle hBarge => ?_, fun hIdle hBarge => ?_⟩
  · rw [exec_yield h hReg, settle_yield (by rw [modU_unit]; rfl), modU_tileIdle, if_pos hIdle, modU_modU]
    refine congrArg Host.Outcome.next (modU_congr ?_)
    dsimp only [waiting]
    rw [next_toNat h]
  · rw [exec_twait h (hTw hr), settle_twait (by rw [modU_unit]; rfl), modU_tileIdle, if_pos hIdle, over_retire h]
  · rw [exec_yield h hReg, settle_yield (by rw [modU_unit]; rfl), modU_tileIdle, if_neg (by simp [hBusy])]
  · rw [exec_twait h (hTw hr), settle_twait (by rw [modU_unit]; rfl), modU_tileIdle, if_neg (by simp [hBusy])]
  · rw [exec_endStep h hReg, settle_ending (by rw [modU_unit]; rfl), modU_tileIdle, if_neg (by simp [hBusy])]
  · rw [exec_endStep h hReg, settle_ending (by rw [modU_unit]; rfl), modU_tileIdle, modU_bargeBusy, if_neg (by simp [hBarge])]
  · refine ⟨_, by rw [exec_endStep h hReg, settle_ending (by rw [modU_unit]; rfl), modU_tileIdle, modU_bargeBusy,
      if_pos (by simp [hIdle, hBarge])], ?_⟩
    have hEnd := stepEnd_unbooked (((s.modU r fun u => waiting u .ending).modU r fun u => { u with wait := .none, run := .ended }))
      ((s.modU r fun u => waiting u .ending).unit r).job (resNum r)
    have hFramed := (framed_modU s r fun u => waiting u .ending).trans (framed_modU _ r fun u => { u with wait := .none, run := .ended })
    refine ⟨?_, othersKept_trans hFramed.1 (othersKept_of_unbooked hEnd r), memoryKept_trans hFramed.2.2 (memory_of_unbooked _ hEnd),
      fun y hy => ?_⟩
    · rw [unit_of_unbooked hEnd, modU_unit, modU_unit]
      rfl
    · have hJob : ((s.modU r fun u => waiting u .ending).unit r).job = (s.unit r).job := by rw [modU_unit]; rfl
      rw [← hJob] at hy
      exact stepEnd_ended _ _ _ hy

/-! ### TQ (07 R232) -/

/-- Two changes of a reach that agree on it are one. -/
theorem modReach_congr {n : Fin 16} {f g : Reach → Reach} (h : f s.reach[n] = g s.reach[n]) : s.modReach n f = s.modReach n g := by
  simp only [State.modReach, h]

theorem fetched_tileWord (s : State) (n : Fin 16) (k : Nat) : (s.fetched (.reach n)).tileWord n k = s.tileWord n k := by
  simp only [State.tileWord, fetched_reach, fetched_readNat]

/-- The adjusted word that TQ queues (R232). -/
def tqWord (s : State) (n : Fin 16) (w : CtlWord) : Option Nat :=
  let word := s.tileWord n w.index
  let f := tqFields (bits word 124 4)
  ((tqAdd word f.1 (s.reach[n].u.x w.a)).bind fun y => tqAdd y f.2.1 (s.reach[n].u.x w.b)).bind fun y => tqAdd y f.2.2 (s.reach[n].u.x w.c)

theorem exec_tq {n : Fin 16} {y : Nat} (h : Ready s (.reach n) {})
    (hw : wordOk (.reach n) { a := .sc, b := .sc, c := .sc, lay := .t, nmu := false } w = true) (hIn : w.index < s.reach[n].u.tileLen)
    (ha : s.reach[n].u.xp w.a = false) (hb : s.reach[n].u.xp w.b = false) (hc : s.reach[n].u.xp w.c = false) (hy : tqWord s n w = some y) :
    exec (.tq (.reach n) w) s =
      .next ((s.modU (.reach n) fun u => waiting u (.tqFull (BitVec.ofNat 128 y) w.index)).settle (.reach n)) := by
  have hx (k : BitVec 6) : (s.fetched (.reach n)).reach[n].u.x k = s.reach[n].u.x k := fetched_x s (.reach n) k
  have hxp (k : BitVec 6) : (s.fetched (.reach n)).reach[n].u.xp k = s.reach[n].u.xp k := fetched_xp s (.reach n) k
  change Host.Outcome.next (ctl _ _ w _ _ _ _ s) = _
  rw [ctl_acts h hw rfl]
  · dsimp only
    unfold tqEff
    simp only [hx, hxp, fetched_tileWord, ha, hb, hc, Bool.and_false, Bool.or_self, Bool.false_eq_true, if_false]
    rw [show ((tqAdd (s.tileWord n w.index) (tqFields (bits (s.tileWord n w.index) 124 4)).1 (s.reach[n].u.x w.a)).bind
      fun y => tqAdd y (tqFields (bits (s.tileWord n w.index) 124 4)).2.1 (s.reach[n].u.x w.b)).bind
      (fun y => tqAdd y (tqFields (bits (s.tileWord n w.index) 124 4)).2.2 (s.reach[n].u.x w.c)) = some y from hy]
    exact congrArg Host.Outcome.next (await_eq s _ _)
  · rw [fetched_unit]
    exact if_neg (Nat.not_le.mpr hIn)

/-- Retiring a reach whose tile queue has changed with its wait. -/
theorem tq_retire {n : Fin 16} (h : Ready s (.reach n) {}) (x : Wait) (e : TileEntry) :
    (((s.modU (.reach n) fun u => waiting u x).modReach n fun x => { x with tq := x.tq ++ [e] }).modU (.reach n) fun u =>
      { u with wait := .none }).retire (.reach n) = s.modReach n fun x => { x with u := advanced x.u, tq := x.tq ++ [e] } := by
  have hUnit : ((((s.modU (.reach n) fun u => waiting u x).modReach n fun x => { x with tq := x.tq ++ [e] }).modU (.reach n) fun u =>
      { u with wait := .none }).unit (.reach n)) = { waiting (s.unit (.reach n)) x with wait := .none } := by
    rw [modU_unit]
    simp [State.unit, modU_reach]
  rw [retire_of_ready h, modU_reach, modU_reach, modU_reach, modReach_modReach, modReach_modReach, modReach_modReach]
  · refine modReach_congr ?_
    dsimp only
    exact congrArg (fun u => ({ s.reach[n] with u, tq := s.reach[n].tq ++ [e] } : Reach)) (wait_over (ready_run h).2 x _)
  · rw [hUnit]; rfl
  · rw [hUnit]; rfl
  · rw [hUnit]; rfl

/-! ### BISSUE (07 R233) -/

theorem exec_bissue {n : Fin 16} (h : Ready s (.reach n) (bissueSpans (.reach n) w s))
    (hw : wordOk (.reach n) { a := .sc, lay := .q, nmu := false } w = true) (hp : s.reach[n].u.xp w.a = false) (hTag : w.low.toNat < 16)
    (hAlign : (s.reach[n].u.x w.a).toNat % 64 = 0) (hOk : s.accOk (.reach n) (s.reach[n].u.x w.a).toNat 64 false = true) :
    exec (.bissue (.reach n) w) s = .next (((s.fetched (.reach n)).touch (.reach n) (s.reach[n].u.x w.a).toNat 64).await (.reach n)
      (.tag w.low.toNat (s.read (unitAddr (.reach n) (s.reach[n].u.x w.a).toNat) 64))) := by
  have hx (k : BitVec 6) : ((s.fetched (.reach n)).unit (.reach n)).x k = s.reach[n].u.x k := fetched_x s (.reach n) k
  have hImm : w.immQ = w.low.toNat := by simp [CtlWord.immQ, bits]; omega
  change Host.Outcome.next (ctl _ _ w _ _ _ _ s) = _
  rw [ctl_acts h hw]
  · dsimp only
    rw [hx, State.bargeDesc, State.fetched, modU_read, hImm, Nat.mod_eq_of_lt hTag]
  · rw [fetched_any_xp]
    simpa [State.unit] using hp
  · have hField : bits w.low.toNat 4 12 = 0 := by simp [bits]; omega
    simp only [hx, hImm, hField, fetched_accOk_any, hOk, hAlign, ne_eq, not_true_eq_false, if_false, decide_false, Bool.not_true,
      Bool.or_self, Bool.false_eq_true]

/-- The waiting state of a BISSUE, with the step's first poisoned line noted. -/
theorem touch_await (n : Fin 16) (a k : Nat) (x : Wait) : ∃ l, ((s.fetched (.reach n)).touch (.reach n) a k).await (.reach n) x =
    (({ s with lkp := l } : State).modU (.reach n) fun u => waiting u x).settle (.reach n) := by
  obtain ⟨l, hl⟩ := touch_reach_lkp (s.fetched (.reach n)) n a k
  refine ⟨l, ?_⟩
  rw [hl, State.await, ← fetched_wait]
  rfl

theorem lkp_bargeBusy (s : State) (l : Lkp) (r : Res) (m : Nat) : ({ s with lkp := l } : State).bargeBusy r m = s.bargeBusy r m := by
  cases r with
  | reach n => rfl
  | nmu d => rfl

theorem issueBarge_eq (s : State) {n : Fin 16} {t : Nat} (ht : t < 16) (desc : List Byte) : ∃ b : Barge, b.desc = desc ∧ b.busy = true ∧
    b.moved = false ∧ b.code = 0 ∧ s.issueBarge n t desc = s.modReach n fun x => { x with barges := x.barges.set t b } := by
  rw [State.issueBarge, dif_pos ht]
  exact ⟨_, rfl, rfl, rfl, rfl, modReach_congr rfl⟩

/-- A BISSUE whose tag is free starts its barge and goes on. -/
theorem bissue_starts {n : Fin 16} {sp : Spans} (h : Ready s (.reach n) sp) {t : Nat} (ht : t < 16) (desc : List Byte) :
    let u := (((s.modU (.reach n) fun u => waiting u (.tag t desc)).issueBarge n t desc).modU (.reach n) fun u =>
      { u with wait := .none }).retire (.reach n)
    u.unit (.reach n) = advanced s.reach[n].u ∧ Framed s u (.reach n) ∧
      ((u.reach[n].barges.toList[t]?).map fun b => (b.desc, b.busy, b.moved, b.code)) = some (desc, true, false, 0) := by
  obtain ⟨b, hDesc, hBusy, hMoved, hCode, hIssue⟩ := issueBarge_eq (s.modU (.reach n) fun u => waiting u (.tag t desc)) (n := n) ht desc
  have hUnit : ((((s.modU (.reach n) fun u => waiting u (.tag t desc)).modReach n fun x => { x with barges := x.barges.set t b }).modU
      (.reach n) fun u => { u with wait := .none }).unit (.reach n)) = { waiting (s.unit (.reach n)) (.tag t desc) with wait := .none } := by
    rw [modU_unit]
    simp [State.unit, modU_reach]
  rw [hIssue]
  dsimp only
  rw [retire_of_ready h]
  · refine ⟨?_, (((framed_modU s _ _).trans (framed_modReach _ n _)).trans (framed_modU _ _ _)).trans (framed_modU _ _ _), ?_⟩
    · rw [modU_unit, hUnit]
      exact wait_over (ready_run h).2 _ _
    · simp [modU_reach, ht, hDesc, hBusy, hMoved, hCode]
  · rw [hUnit]; rfl
  · rw [hUnit]; rfl
  · rw [hUnit]; rfl

/-! ### BWAIT (07 R233) -/

theorem exec_bwait {n : Fin 16} (h : Ready s (.reach n) {}) (hw : wordOk (.reach n) { d := .sc, lay := .q, nmu := false } w = true)
    (hMask : w.low.toNat < 2 ^ 16) : exec (.bwait (.reach n) w) s =
      .next ((s.modU (.reach n) fun u => waiting u (.bwait w.low.toNat w.d.toNat)).settle (.reach n)) := by
  have hImm : w.immQ = w.low.toNat := by simp [CtlWord.immQ, bits]; omega
  change Host.Outcome.next (ctl _ _ w _ _ _ _ s) = _
  rw [ctl_acts h hw rfl rfl, await_eq, hImm]

/-- A barge under a tag, by its number. -/
theorem barges_getElem? (x : Reach) (k : Nat) : x.barges.toList[k]? = if h : k < 16 then some x.barges[k] else none := by
  split
  · next h => simp [h]
  · next h => simp [Nat.not_lt.mp h]

/-- BWAIT's outcome is 0 where no barge of its tags has failed, else that of the lowest that has. -/
theorem bargeCode_eq {n : Fin 16} {m : Nat} {v : W16} (h : (v = 0 ∧ ∀ k : Fin 16, bitAt m k = true → s.reach[n].barges[k].code = 0) ∨
    (v ≠ 0 ∧ ∃ k : Fin 16, bitAt m k = true ∧ s.reach[n].barges[k].code = v ∧
      ∀ j : Fin 16, j < k → bitAt m j = true → s.reach[n].barges[j].code = 0)) : s.bargeCode (.reach n) m = v.setWidth 64 := by
  unfold State.bargeCode
  dsimp only
  rcases h with ⟨rfl, hNone⟩ | ⟨hv, k, hk, rfl, hLower⟩
  · rw [List.find?_eq_none.mpr]
    · rfl
    · intro t ht
      have ht' : t < 16 := List.mem_range.mp ht
      rw [barges_getElem?, dif_pos ht']
      intro hFailed
      rw [Bool.and_eq_true] at hFailed
      have := hNone ⟨t, ht'⟩ hFailed.1
      simp at hFailed
      exact hFailed.2 this
  · have hFind : ((List.range 16).find? fun t => bitAt m t &&
        ((s.reach[n].barges.toList[t]?).map fun (b : Barge) => b.code != 0).getD false) = some k.val := by
      rw [List.find?_range_eq_some]
      refine ⟨?_, List.mem_range.mpr k.isLt, fun j hj => ?_⟩
      · rw [barges_getElem?, dif_pos k.isLt]
        simpa [hk] using hv
      · have hj' : j < 16 := Nat.lt_trans hj k.isLt
        rw [barges_getElem?, dif_pos hj']
        cases hBit : bitAt m j
        · rfl
        · have := hLower ⟨j, hj'⟩ hj hBit
          simpa using this
    rw [hFind]
    dsimp only
    rw [barges_getElem?, dif_pos k.isLt]
    rfl

/-- A BWAIT whose barges are over writes its register and goes on. -/
theorem bwait_over {sp : Spans} (h : Ready s r sp) (x : Wait) (k : BitVec 6) (v : W64) :
    (((s.modU r fun u => waiting u x).modU r fun u => { u with wait := .none }).modU r fun u => u.setX k v false).retire r =
      s.modU r fun u => advanced (u.setX k v false) := by
  have hOver : ({ waiting (s.unit r) x with wait := .none } : Machine.Unit) = { s.unit r with pc := BitVec.ofNat 17 (s.unit r).next } :=
    wait_over (ready_run h).2 x _
  rw [modU_modU, modU_modU, retire_of_ready h, modU_modU]
  · exact modU_congr <| (congrArg (fun u : Machine.Unit => ({ u.setX k v false with next := (s.unit r).next + 1 } : Machine.Unit)) hOver).trans (setX_advanced _ _ _ _)
  · rw [modU_unit, (setX_kept _ _ _ _).1]; rfl
  · rw [modU_unit, (setX_kept _ _ _ _).2.1]; rfl
  · rw [modU_unit, (setX_kept _ _ _ _).2.2]; rfl

/-- Settles O9. -/
theorem tileQueueAndBargeIssue : Obligations.TileQueueAndBargeIssue := by
  unfold Obligations.TileQueueAndBargeIssue
  intro n w s r u
  refine ⟨?_, ?_, ?_⟩
  · intro h hd ha hb hc hLow hIn hpa hpb hpc y hy
    have hExec := exec_tq h (by simp [wordOk, useOk, layOk, ha, hb, hc, hd, hLow, Res.isNmu]) hIn hpa hpb hpc hy
    have hTq : (s.modU (.reach n) fun u => waiting u (.tqFull (BitVec.ofNat 128 y) w.index)).reach[n].tq = s.reach[n].tq := by
      rw [modU_reach, modReach_same]
    have hpc : ((s.modU (.reach n) fun u => waiting u (.tqFull (BitVec.ofNat 128 y) w.index)).unit (.reach n)).pc.toNat = s.reach[n].u.next := by
      rw [modU_unit]
      exact next_toNat h
    rw [hExec, settle_tqFull (by rw [modU_unit]; rfl), hTq, hpc]
    exact ⟨fun hRoom => by rw [if_pos hRoom, tq_retire h], fun hFull => by rw [if_neg (Nat.not_lt.mpr hFull)]⟩
  · intro hd ha hb hc hTag hpa a h hAlign hOk desc
    have hQ : bits w.low.toNat 16 14 = 0 := by simp [bits]; omega
    have hExec := exec_bissue h (by simp [wordOk, useOk, layOk, ha, hb, hc, hd, hQ, Res.isNmu]) hpa hTag hAlign hOk
    obtain ⟨l, hAwait⟩ := touch_await (s := s) n a 64 (.tag w.low.toNat desc)
    have hReady : Ready ({ s with lkp := l } : State) (.reach n) (bissueSpans (.reach n) w s) := ⟨h.go, h.next, h.code⟩
    have hSettle := settle_tag (s := ({ s with lkp := l } : State).modU (.reach n) fun u => waiting u (.tag w.low.toNat desc)) (n := n)
      (t := w.low.toNat) (desc := desc) (by rw [modU_unit]; rfl)
    rw [modU_bargeBusy, lkp_bargeBusy] at hSettle
    refine ⟨fun hFree => ⟨_, by rw [hExec, hAwait, hSettle, if_neg (by simp [r] at hFree; simp [hFree])], ?_⟩,
      fun hBusy => ⟨_, by rw [hExec, hAwait, hSettle, if_pos hBusy], modU_unit _ _ _⟩⟩
    obtain ⟨hUnit, hFramed, hBarge⟩ := bissue_starts hReady hTag desc
    obtain ⟨hOthers, hDevice, hMemory⟩ := (framed_lkp s (.reach n) l).trans hFramed
    exact ⟨hUnit, hOthers, hDevice, hMemory, hBarge⟩
  · intro h hd ha hb hc hMask
    have hQ : bits w.low.toNat 16 14 = 0 := by simp [bits]; omega
    have hExec := exec_bwait h (by simp [wordOk, useOk, layOk, ha, hb, hc, hd, hQ, Res.isNmu]) hMask
    have hSettle := settle_bwait (s := s.modU (.reach n) fun u => waiting u (.bwait w.low.toNat w.d.toNat)) (r := .reach n)
      (mask := w.low.toNat) (dst := w.d.toNat) (by rw [modU_unit]; rfl)
    rw [modU_bargeBusy, modU_bargeCode, BitVec.ofNat_toNat, BitVec.setWidth_eq] at hSettle
    rw [hExec, hSettle]
    refine ⟨fun hBusy => by rw [if_pos hBusy], fun hFree v hv => ?_⟩
    rw [if_neg (by simp [r] at hFree; simp [hFree]), bargeCode_eq hv, bwait_over h]

end Sys2Proof.Machine.Queues

/-! PROOF. Issue of tile words and the words that fail a step (02 R40; 03 R91, R92, R109; 07 R234, R246). -/

namespace Sys2Proof.Machine.BadWords

open Sys2Proof.Machine Sys2Proof.Machine.Laws Sys2Proof.Machine.Frames Sys2Proof.Machine.NmuAccess Sys2Proof.Machine.Faults
  Sys2Proof.Machine.FailedSteps Sys2Proof.Machine.Scalars Sys2Proof.Machine.Waits Sys2Proof.Machine.Queues

variable {s t : State} {n : Fin 16}

/-! ### What counting leaves (03 R109 to R112; 19 R621) -/

/-- The newest record stays among those kept when one more is. -/
theorem mem_keepRecord {m : Mgt} {e : ErrRec} (h : m.recs.getLast? = some e) (x : ErrRec) : e ∈ (keepRecord m x).recs := by
  unfold keepRecord
  split
  · exact List.mem_append_left _ (List.mem_of_getLast? h)
  · next hFull =>
    refine List.mem_append_left _ (List.mem_of_getLast? ?_)
    rw [List.getLast?_drop, if_neg (by omega), h]

/-- A performance counter of a reach has counted: its reach's counters have changed, and an event may have been raised. -/
structure CountedOn (s t : State) (n : Fin 16) : Prop where
  reach  : ∃ p, t.reach[n] = { s.reach[n] with perf := p }
  framed : Framed s t (.reach n)
  lkp    : t.lkp = s.lkp
  recs   : ∀ e, s.mgt.recs.getLast? = some e → e ∈ t.mgt.recs

theorem perfOvf_countedOn (s : State) (n : Fin 16) (lost : Bool) (k p o : Nat) : CountedOn s (s.perfOvf lost k p o) n := by
  unfold State.perfOvf
  split
  · exact ⟨⟨_, rfl⟩, framed_raise s _ _, rfl, fun e he => mem_keepRecord he _⟩
  · exact ⟨⟨_, rfl⟩, Framed.refl s _, rfl, fun e he => List.mem_of_getLast? he⟩

theorem modPerf_countedOn {p : ReachPerf} (h : CountedOn (s.modReach n fun x => { x with perf := p }) t n) : CountedOn s t n := by
  obtain ⟨⟨q, hq⟩, hFramed, hLkp, hRecs⟩ := h
  exact ⟨⟨q, by rw [hq, modReach_same]⟩, (framed_modReach s n _).trans hFramed, hLkp, hRecs⟩

theorem CountedOn.refl (s : State) (n : Fin 16) : CountedOn s s n :=
  ⟨⟨_, rfl⟩, Framed.refl s _, rfl, fun _ he => List.mem_of_getLast? he⟩

theorem countPerf_countedOn (s : State) (n : Fin 16) (k off : Nat) (get : ReachPerf → Perf) (set : ReachPerf → Perf → ReachPerf) :
    CountedOn s (s.countPerf n k off get set) n := by
  unfold State.countPerf
  split
  · exact CountedOn.refl s n
  · exact modPerf_countedOn (p := set s.reach[n].perf _) (by
      rw [modReach_congr (g := fun x => { x with perf := set x.perf ((get s.reach[n].perf).add k).1 }) rfl]
      exact perfOvf_countedOn _ n _ _ _ _)

theorem bump_countedOn (h : CountedOn s t n) : CountedOn s t.bump n :=
  ⟨h.reach, h.framed.trans ⟨⟨fun _ _ => rfl, fun _ _ => rfl⟩, by simp [DeviceKept], by simp [MemoryKept]⟩, h.lkp, h.recs⟩

theorem tileStall_countedOn (s : State) (n : Fin 16) (op : Nat) : CountedOn s (s.tileStall n op) n := by
  unfold State.tileStall
  split
  · next k _ =>
    cases k with
    | weight => exact bump_countedOn (countPerf_countedOn s n _ _ _ _)
    | slot => exact bump_countedOn (countPerf_countedOn s n _ _ _ _)
    | dispatch => exact bump_countedOn (countPerf_countedOn s n _ _ _ _)
  · exact CountedOn.refl s n

theorem CountedOn.unit (h : CountedOn s t n) : t.unit (.reach n) = s.unit (.reach n) := by
  obtain ⟨p, hp⟩ := h.reach
  simp only [State.unit, hp]

/-! ### Issue of the head of the tile queue (03 R89, R92, R96) -/

section
variable {e : TileEntry} {rest : List TileEntry} {op : Nat} {opOk : Nat → Bool} {wait : State → Nat → Bool} {chk : State → Nat → Option Nat}
  {eff : State → TileEntry → State}

/-- The state after the head has left the queue. -/
def dequeued (s : State) (n : Fin 16) (rest : List TileEntry) : State := s.modReach n fun x => { x with tq := rest }

theorem dequeued_reach (s : State) (n : Fin 16) (rest : List TileEntry) : (dequeued s n rest).reach[n] = { s.reach[n] with tq := rest } :=
  modReach_same s n _

theorem dequeued_unit (s : State) (n : Fin 16) (rest : List TileEntry) : (dequeued s n rest).unit (.reach n) = s.unit (.reach n) := by
  simp only [State.unit, dequeued_reach]

theorem dequeued_sameCause (s : State) (n : Fin 16) (rest : List TileEntry) : SameCause s (dequeued s n rest) (.reach n) :=
  ⟨by rw [dequeued_unit], by rw [dequeued_unit], rfl, rfl, rfl⟩

/-- A word that waits stays at the head. -/
theorem tileIssue_waits (h : Heads s n e rest op) (hWait : wait s e.word.toNat = true) : tileIssue n opOk wait chk eff s = s := by
  unfold tileIssue
  rw [h.queue]
  simp [hWait]

/-- A word that fails its checks leaves the queue, and the step fails. -/
theorem tileIssue_fails {code : Nat} (h : Heads s n e rest op) (hOp : opOk op = true) (hWait : wait s e.word.toNat = false)
    (hChk : chk (dequeued s n rest) e.word.toNat = some code) : tileIssue n opOk wait chk eff s =
      (((dequeued s n rest).failOn (.reach n)
        { code, addr := e.pc, d0 := if code = 0x0104 then e.word.toNat / 2 ^ 64 else 0 }).tileStall n op) := by
  unfold tileIssue
  rw [h.queue]
  dsimp only
  rw [h.op, h.run, hOp, hWait]
  simp only [bne_self_eq_false, Bool.not_true, Bool.or_self, Bool.false_eq_true, if_false]
  rw [show chk (s.modReach n fun x => { x with tq := rest }) e.word.toNat = some code from hChk]
  rfl

/-- A word that passes its checks leaves the queue and acts. -/
theorem tileIssue_acts (h : Heads s n e rest op) (hOp : opOk op = true) (hWait : wait s e.word.toNat = false)
    (hChk : chk (dequeued s n rest) e.word.toNat = none) : tileIssue n opOk wait chk eff s =
      ((eff (dequeued s n rest) e).settle (.reach n)).tileStall n op := by
  unfold tileIssue
  rw [h.queue]
  dsimp only
  rw [h.op, h.run, hOp, hWait]
  simp only [bne_self_eq_false, Bool.not_true, Bool.or_self, Bool.false_eq_true, if_false]
  rw [show chk (s.modReach n fun x => { x with tq := rest }) e.word.toNat = none from hChk]
  rfl

end

theorem dequeued_accOk (s : State) (n : Fin 16) (rest : List TileEntry) (a k : Nat) (wr : Bool) :
    (dequeued s n rest).accOk (.reach n) a k wr = s.accOk (.reach n) a k wr := by
  simp only [State.accOk, dequeued_reach]

theorem dequeued_tileGrp (s : State) (n : Fin 16) (rest : List TileEntry) (x : Nat) : (dequeued s n rest).tileGrp n x = s.tileGrp n x := by
  simp only [State.tileGrp, dequeued_reach]

theorem dequeued_tileSpansOk (s : State) (n : Fin 16) (rest : List TileEntry) (x : Nat) :
    (dequeued s n rest).tileSpansOk n x = s.tileSpansOk n x := by
  simp only [State.tileSpansOk, dequeued_reach, dequeued_accOk]

theorem dequeued_macChk (s : State) (n : Fin 16) (rest : List TileEntry) (x : Nat) : macChk n (dequeued s n rest) x = macChk n s x := by
  simp only [macChk, dequeued_tileGrp, dequeued_tileSpansOk, dequeued_reach]

/-! ### Steps that fail -/

/-- A step fails on a unit: what holds whether or not staging has room for its records. -/
structure Fails (s t : State) (r : Res) (code addr d0 : Nat) : Prop where
  run    : (t.unit r).run = .stopped
  stops  : StepStops s t (s.unit r).job (.failed (BitVec.ofNat 16 code))
  others : OthersKept s t r
  memory : MemoryKept s t
  fails  : StagingRoom s (s.unit r).job → StepFails s t r code addr d0

theorem failOn_allFails {r : Res} (h : SameCause s t r) (hFramed : Framed s t r) (e : Ev) : Fails s (t.failOn r e) r e.code e.addr e.d0 :=
  ⟨by rw [failOn_unit], h.failOn_stops e, othersKept_trans hFramed.1 (failOn_othersKept t r e),
    memoryKept_trans hFramed.2.2 (failOn_memoryKept t r e), h.failOn_fails e⟩

theorem failAt_allFails {r : Res} {code d0 : Nat} (hNext : (s.unit r).next < 2 ^ 17) :
    Fails s ((s.fetched r).failAt r code d0) r code (s.unit r).next d0 := by
  have h := failOn_allFails (fetched_sameCause s r) (framed_modU s r _) { code, addr := ((s.fetched r).unit r).pc.toNat, d0 }
  dsimp only at h
  rw [fetched_pc_toNat hNext] at h
  rw [State.failAt, fetched_pc_toNat hNext]
  exact h

/-- Counting a stall after the failure leaves the record among those kept. -/
theorem Fails.counted {u : State} {e : Ev} (hCause : SameCause s t (.reach n)) (h : Fails s (t.failOn (.reach n) e) (.reach n) e.code e.addr e.d0)
    (hCount : CountedOn (t.failOn (.reach n) e) u n) : Fails s u (.reach n) e.code e.addr e.d0 := by
  have hStops : StepStops s u (s.unit (.reach n)).job (.failed (BitVec.ofNat 16 e.code)) := by
    have hs := h.stops
    unfold StepStops at hs ⊢
    rwa [jobRun_congr (congrArg Lkp.jobs hCount.lkp)]
  refine ⟨by rw [hCount.unit]; exact h.run, hStops, othersKept_trans h.others hCount.framed.1, memoryKept_trans h.memory hCount.framed.2.2,
    fun hRoom => ⟨by rw [hCount.unit]; exact h.run, ?_, hStops⟩⟩
  obtain ⟨x, hx, hFields⟩ := hCause.failOn_last e hRoom
  exact ⟨x, hCount.recs x hx, hFields⟩

/-- A tile word that fails its checks fails the step. -/
theorem tileIssue_allFails {e : TileEntry} {rest : List TileEntry} {op code : Nat} {opOk : Nat → Bool} {wait : State → Nat → Bool}
    {chk : State → Nat → Option Nat} {eff : State → TileEntry → State} (h : Heads s n e rest op) (hOp : opOk op = true)
    (hWait : wait s e.word.toNat = false) (hChk : chk (dequeued s n rest) e.word.toNat = some code) :
    Fails s (tileIssue n opOk wait chk eff s) (.reach n) code e.pc (if code = 0x0104 then e.word.toNat / 2 ^ 64 else 0) := by
  rw [tileIssue_fails h hOp hWait hChk]
  have hCause := dequeued_sameCause s n rest
  exact Fails.counted hCause (failOn_allFails hCause (framed_modReach s n _)
    { code, addr := e.pc, d0 := if code = 0x0104 then e.word.toNat / 2 ^ 64 else 0 }) (tileStall_countedOn _ n op)

theorem gives_of_fails {r : Res} {i : Instr} {code addr d0 : Nat} (hExec : exec i s = .next t) (h : Fails s t r code addr d0) :
    Gives i s fun t => (t.unit r).run = .stopped ∧ StepStops s t (s.unit r).job (.failed (BitVec.ofNat 16 code)) ∧ OthersKept s t r ∧
      MemoryKept s t ∧ (StagingRoom s (s.unit r).job → StepFails s t r code addr d0) :=
  ⟨t, hExec, h.run, h.stops, h.others, h.memory, h.fails⟩

theorem exec_reserved {r : Res} {cls : BitVec 4} {fn : BitVec 6} (hGo : s.canDispatch r {} = true)
    (h : ctlDefined cls.toNat fn.toNat = false) : exec (.reservedControlWord r cls fn) s = .next ((s.fetched r).failAt r 0x0111) := by
  change Host.Outcome.next _ = _
  rw [h, hGo]
  rfl

/-- A register form of class 0x1 that breaks its form fails the step. -/
theorem scalar2_breaks {r : Res} {w : CtlWord} (hGo : s.canDispatch r {} = true) (hw : wordOk r formRR w = false) (op : W64 → W64 → W64) :
    scalar2 op r w s = (s.fetched r).failAt r 0x0111 := by
  unfold scalar2 ctlReg
  exact ctl_breaks (spans := fun _ => {}) hGo hw

/-- Settles O21. -/
theorem badWordsFailTheStep : Obligations.BadWordsFailTheStep := by
  unfold Obligations.BadWordsFailTheStep
  intro r s j fails
  refine ⟨fun hGo hNext => ⟨fun w hIn hw => ?_, fun cls fn h => ?_, fun w hw i hi => ?_⟩, fun n e rest hr => ⟨fun op hOp h => ?_, fun code h hWait hChk => ?_⟩⟩
  · refine gives_of_fails (t := (s.fetched r).failAt r 0x0113 w.immQ) ?_ (failAt_allFails hNext)
    change Host.Outcome.next (ctl r _ w _ _ _ _ s) = _
    rw [ctl_dispatches hGo hIn hw rfl rfl]
  · exact gives_of_fails (exec_reserved hGo h) (failAt_allFails hNext)
  · have hFails (op : W64 → W64 → W64) (hExec : exec i s = .next (scalar2 op r w s)) : fails i 0x0111 (s.unit r).next 0 :=
      gives_of_fails (hExec.trans (congrArg _ (scalar2_breaks hGo hw op))) (failAt_allFails hNext)
    simp only [List.mem_cons, List.not_mem_nil, or_false] at hi
    rcases hi with rfl | rfl | rfl | rfl | rfl | rfl | rfl | rfl | rfl
    · exact hFails _ rfl
    · exact hFails _ rfl
    · exact hFails _ rfl
    · exact hFails _ rfl
    · exact hFails _ rfl
    · exact hFails _ rfl
    · exact hFails _ rfl
    · exact hFails _ rfl
    · exact hFails _ rfl
  · subst hr
    refine gives_of_fails rfl (tileIssue_allFails (code := 0x0104) h ?_ rfl rfl)
    rcases hOp with rfl | hOp
    · rfl
    · simp [hOp]
  · subst hr
    exact gives_of_fails rfl (tileIssue_allFails h rfl hWait (by rw [dequeued_macChk, hChk]))

end Sys2Proof.Machine.BadWords

/-! PROOF. Tile words that owe slot updates (03 R84, R88, R97; 04 R138 to R140), weight loads (03 R76, R79, R86, R87) and OPEN (04 R116,
R117): what issuing a word leaves alone, the terms of a run, the columns of a store, and the slots that are cleared. -/

namespace Sys2Proof.Machine.Tiles

open Sys2Proof.Machine Sys2Proof.Machine.Laws Sys2Proof.Machine.Frames Sys2Proof.Machine.NmuAccess Sys2Proof.Machine.FailedSteps
  Sys2Proof.Machine.Scalars Sys2Proof.Machine.Queues Sys2Proof.Machine.BadWords

/-! ### The terms of a run (03 R84) -/

/-- A value that is a number: not an infinity, a NaN or an escape. -/
def IsNumber (v : Val) : Prop := (∃ x, v = .fin x) ∨ ∃ b, v = .zero b

/-- A term with a rational value and no special state. -/
structure Plain (t : Term) (v : Rat) : Prop where
  v    : t.v = v
  pinf : t.pinf = false
  ninf : t.ninf = false
  nan  : t.nan = false

/-- The product of two numbers is exact. -/
theorem mulVal_plain (ieee : Bool) {a b : Val} (ha : IsNumber a) (hb : IsNumber b) : Plain (Term.ofVal (mulVal ieee a b)) (a.rat * b.rat) := by
  rcases ha with ⟨x, rfl⟩ | ⟨p, rfl⟩
  · rcases hb with ⟨y, rfl⟩ | ⟨q, rfl⟩
    · exact ⟨rfl, rfl, rfl, rfl⟩
    · exact ⟨by simp [mulVal, Term.ofVal, Val.rat], rfl, rfl, rfl⟩
  · rcases hb with ⟨y, rfl⟩ | ⟨q, rfl⟩
    · exact ⟨by simp [mulVal, Term.ofVal, Val.rat], rfl, rfl, rfl⟩
    · exact ⟨by simp [mulVal, Term.ofVal, Val.rat], rfl, rfl, rfl⟩

/-- The sum of terms without special states is the sum of their values. -/
theorem sum_plain {α : Type} (f : α → Term) (v : α → Rat) (l : List α) (h : ∀ x ∈ l, Plain (f x) (v x)) :
    Plain (Term.sum (l.map f)) (l.map v).sum := by
  induction l with
  | nil => exact ⟨rfl, rfl, rfl, rfl⟩
  | cons x l ih =>
    have hx := h x List.mem_cons_self
    cases l with
    | nil => exact ⟨by simp [Term.sum, hx.v], hx.pinf, hx.ninf, hx.nan⟩
    | cons y l =>
      obtain ⟨iv, ip, iN, inan⟩ := ih fun z hz => h z (List.mem_cons_of_mem x hz)
      rw [List.map_cons] at iv ip iN inan
      simp only [List.map_cons, Term.sum]
      refine ⟨?_, ?_, ?_, ?_⟩
      · rw [hx.v, iv]
        simp
      · rw [hx.pinf, ip]; rfl
      · rw [hx.ninf, iN]; rfl
      · rw [hx.nan, inan]; rfl

theorem isNan_of_number {v : Val} (h : IsNumber v) : v.isNan = false := by
  rcases h with ⟨x, rfl⟩ | ⟨b, rfl⟩
  · rfl
  · rfl

/-- Where every operand is a number, a lane's term is the exact sum of the products times 2^SHIFT. -/
theorem laneTerm_exact (lane : Nat) (ieee poison : Bool) (shift : Int) (ps : List (Val × Val))
    (h : ∀ p ∈ ps, IsNumber p.1 ∧ IsNumber p.2) :
    let l := laneTerm lane ieee false shift poison ps
    Plain l.t (ps.map fun p => p.1.rat * p.2.rat * pow2 shift).sum ∧ l.t.poison = poison ∧ l.ranged = 0 ∧ l.carried = false := by
  have hSum := sum_plain (fun p : Val × Val => { Term.ofVal (mulVal ieee p.1 p.2) with v := (Term.ofVal (mulVal ieee p.1 p.2)).v * pow2 shift })
    (fun p => p.1.rat * p.2.rat * pow2 shift) ps fun p hp => by
      obtain ⟨hv, hp1, hp2, hp3⟩ := mulVal_plain ieee (h p hp).1 (h p hp).2
      exact ⟨by rw [hv], hp1, hp2, hp3⟩
  simp only [laneTerm, Bool.false_eq_true, if_false, List.map_map, List.countP_map]
  refine ⟨⟨hSum.v, hSum.pinf, hSum.ninf, hSum.nan⟩, trivial, ?_, ?_⟩
  · exact List.countP_eq_zero.mpr fun p _ => Bool.false_ne_true
  · rw [List.any_eq_false]
    intro p hp
    simp [isNan_of_number (h p hp).1, isNan_of_number (h p hp).2]

/-! ### What issuing a word leaves (03 R96, R97) -/

variable {s t u : State} {n : Fin 16}

/-- A reach's queue, owed updates, bank, groups and unit are as they were, and nothing beside the reach has changed. -/
structure TileKept (s t : State) (n : Fin 16) : Prop where
  tq     : t.reach[n].tq = s.reach[n].tq
  pend   : t.reach[n].pend = s.reach[n].pend
  bank   : t.reach[n].bank = s.reach[n].bank
  grps   : t.reach[n].grps = s.reach[n].grps
  u      : t.reach[n].u = s.reach[n].u
  framed : Framed s t (.reach n)

theorem TileKept.refl (s : State) (n : Fin 16) : TileKept s s n := ⟨rfl, rfl, rfl, rfl, rfl, Framed.refl s _⟩

theorem TileKept.trans (h : TileKept s t n) (g : TileKept t u n) : TileKept s u n :=
  ⟨g.tq.trans h.tq, g.pend.trans h.pend, g.bank.trans h.bank, g.grps.trans h.grps, g.u.trans h.u, h.framed.trans g.framed⟩

theorem lkp_tileKept (s : State) (n : Fin 16) (l : Lkp) : TileKept s { s with lkp := l } n := ⟨rfl, rfl, rfl, rfl, rfl, framed_lkp s _ l⟩

theorem ras_tileKept (s : State) (n : Fin 16) (x : Ras) : TileKept s { s with ras := x } n :=
  ⟨rfl, rfl, rfl, rfl, rfl, ⟨fun _ _ => rfl, fun _ _ => rfl⟩, by simp [DeviceKept], by simp [MemoryKept]⟩

theorem tileKept_of_counted (h : CountedOn s t n) : TileKept s t n := by
  obtain ⟨p, hp⟩ := h.reach
  exact ⟨by rw [hp], by rw [hp], by rw [hp], by rw [hp], by rw [hp], h.framed⟩

/-- A change of a reach beside its queue, updates, bank, groups and unit. -/
theorem modReach_tileKept {f : Reach → Reach} (htq : (f s.reach[n]).tq = s.reach[n].tq) (hpend : (f s.reach[n]).pend = s.reach[n].pend)
    (hbank : (f s.reach[n]).bank = s.reach[n].bank) (hgrps : (f s.reach[n]).grps = s.reach[n].grps) (hu : (f s.reach[n]).u = s.reach[n].u) :
    TileKept s (s.modReach n f) n :=
  ⟨by rw [modReach_same, htq], by rw [modReach_same, hpend], by rw [modReach_same, hbank], by rw [modReach_same, hgrps],
    by rw [modReach_same, hu], framed_modReach s n f⟩

/-- A read by the tensor engine changes the lockkeeper's record alone (11 R367). -/
theorem tileTouch_lkp (s : State) (n : Fin 16) (x : Nat) : ∃ l, s.tileTouch n x = { s with lkp := l } := by
  unfold State.tileTouch
  generalize (tileSpans (fun k => s.reach[n].grps[k]?.getD {}) x).1 = ps
  generalize s.reach[n].u.job = j
  suffices h : ∀ (t : State), (∃ l, t = { s with lkp := l }) →
      ∃ l, ps.foldl (fun t p => t.notePoison j (storeBase n + p.1) (p.2 - p.1)) t = { s with lkp := l } from h s ⟨s.lkp, rfl⟩
  induction ps with
  | nil => exact fun t ht => ht
  | cons p ps ih =>
    rintro t ⟨l, rfl⟩
    obtain ⟨k, hk⟩ := notePoison_lkp { s with lkp := l } j (storeBase n + p.1) (p.2 - p.1)
    exact ih _ ⟨k, hk⟩

theorem tileTouch_tileKept (s : State) (n : Fin 16) (x : Nat) : TileKept s (s.tileTouch n x) n := by
  obtain ⟨l, hl⟩ := tileTouch_lkp s n x
  rw [hl]
  exact lkp_tileKept s n l

theorem countMac_tileKept (s : State) (n : Fin 16) (c p : Nat) : TileKept s (s.countMac n c p) n := by
  unfold State.countMac
  exact ((tileKept_of_counted (countPerf_countedOn s n _ _ _ _)).trans (modReach_tileKept rfl rfl rfl rfl rfl)).trans
    (tileKept_of_counted (countPerf_countedOn _ n _ _ _ _))

theorem dupSelect_tileKept (s : State) (n : Fin 16) (d : Dup) : TileKept s (s.dupSelect n d) n := by
  have hDraw : TileKept s (s.modReach n fun x => { x with draws := x.draws + 1 }) n := modReach_tileKept rfl rfl rfl rfl rfl
  unfold State.dupSelect
  dsimp only
  split
  · exact TileKept.refl s n
  split
  · exact hDraw
  split
  · exact hDraw.trans (ras_tileKept _ n _)
  · exact hDraw.trans (modReach_tileKept rfl rfl rfl rfl rfl)

theorem modWs_tileKept (s : State) (n : Fin 16) (k : Nat) (f : WStore → WStore) : TileKept s (s.modWs n k f) n := by
  unfold State.modWs
  split
  · exact modReach_tileKept rfl rfl rfl rfl rfl
  · exact TileKept.refl s n

/-- A unit that waits for nothing has nothing to settle. -/
theorem settle_none {r : Res} (h : (s.unit r).wait = .none) : s.settle r = s := by
  unfold State.settle
  simp only [h]

/-! ### Words that owe updates (03 R84, R88; 04 R138, R139) -/

/-- The head has left the queue, the updates are owed behind those already owed, and nothing else has changed. -/
structure Owed (s t : State) (n : Fin 16) (rest : List TileEntry) (us : List (List Upd)) : Prop where
  tq     : t.reach[n].tq = rest
  pend   : t.reach[n].pend = s.reach[n].pend ++ us
  bank   : t.reach[n].bank = s.reach[n].bank
  grps   : t.reach[n].grps = s.reach[n].grps
  u      : t.reach[n].u = s.reach[n].u
  framed : Framed s t (.reach n)

theorem Owed.kept {rest : List TileEntry} {us : List (List Upd)} (h : Owed s t n rest us) (g : TileKept t u n) : Owed s u n rest us :=
  ⟨g.tq.trans h.tq, g.pend.trans h.pend, g.bank.trans h.bank, g.grps.trans h.grps, g.u.trans h.u, h.framed.trans g.framed⟩

/-- Updates are owed once they stand behind those of a state that the dequeued one has become. -/
theorem owed_of_kept {rest : List TileEntry} (h : TileKept (dequeued s n rest) t n) (us : List (List Upd)) :
    Owed s (t.modReach n fun x => { x with pend := x.pend ++ us }) n rest us := by
  have hD := dequeued_reach s n rest
  refine ⟨?_, ?_, ?_, ?_, ?_, ((framed_modReach s n _).trans h.framed).trans (framed_modReach t n _)⟩
  · rw [modReach_same, h.tq, hD]
  · rw [modReach_same, h.pend, hD]
  · rw [modReach_same, h.bank, hD]
  · rw [modReach_same, h.grps, hD]
  · rw [modReach_same, h.u, hD]

theorem issueMul_owed (s : State) (n : Fin 16) (rest : List TileEntry) (e : TileEntry) (us : List (List Upd)) (prods : Nat) (wbuf : Option Nat)
    (spans : List (Nat × Nat)) : Owed s ((dequeued s n rest).issueMul n e us prods wbuf spans) n rest us :=
  ((owed_of_kept (tileTouch_tileKept _ n _) us).kept (countMac_tileKept _ n _ _)).kept (dupSelect_tileKept _ n _)

theorem macEff_owed (s : State) (n : Fin 16) (rest : List TileEntry) (e : TileEntry) :
    Owed s (macEff n (dequeued s n rest) e) n rest (macUpds (dequeued s n rest) n e) := by
  unfold macEff
  dsimp only
  split
  · exact (issueMul_owed s n rest e _ _ _ _).kept (modWs_tileKept _ n _ _)
  · exact issueMul_owed s n rest e _ _ _ _

/-- The rows that a word reads do not depend on the queue. -/
theorem dequeued_tileRow (s : State) (n : Fin 16) (rest : List TileEntry) (f : Nat) (q : Int) (a k : Nat) :
    (dequeued s n rest).tileRow n f q a k = s.tileRow n f q a k := rfl

theorem dequeued_lanes (s : State) (n : Fin 16) (rest : List TileEntry) : (dequeued s n rest).reach[n].lanes = s.reach[n].lanes := by
  rw [dequeued_reach]
  rfl

theorem dequeued_width (s : State) (n : Fin 16) (rest : List TileEntry) : (dequeued s n rest).reach[n].width = s.reach[n].width := by
  rw [Reach.width, Reach.width, dequeued_lanes]

theorem dequeued_ws (s : State) (n : Fin 16) (rest : List TileEntry) : (dequeued s n rest).reach[n].ws = s.reach[n].ws := by
  rw [dequeued_reach]

theorem dequeued_macUpds (s : State) (n : Fin 16) (rest : List TileEntry) (e : TileEntry) : macUpds (dequeued s n rest) n e = macUpds s n e := by
  simp only [macUpds, dequeued_tileRow, dequeued_lanes, dequeued_ws]

theorem dequeued_elemUpds (s : State) (n : Fin 16) (rest : List TileEntry) (e : TileEntry) : elemUpds (dequeued s n rest) n e = elemUpds s n e := by
  simp only [elemUpds, dequeued_tileRow, dequeued_lanes]

theorem dequeued_entryUpds (s : State) (n : Fin 16) (rest : List TileEntry) (e : TileEntry) (g : Grp) (i c : Nat) :
    entryUpds n (dequeued s n rest) e g i c = entryUpds n s e g i c := by
  have hNat (a k : Nat) : (dequeued s n rest).readNat a k = s.readNat a k := rfl
  have hPoison (a k : Nat) : (dequeued s n rest).poisonedRange a k = s.poisonedRange a k := rfl
  induction c generalizing i with
  | zero => rfl
  | succ c ih => simp only [entryUpds, ih, hNat, hPoison, dequeued_lanes]

theorem dequeued_elemChk (s : State) (n : Fin 16) (rest : List TileEntry) (x : Nat) : elemChk n (dequeued s n rest) x = elemChk n s x := by
  simp only [elemChk, dequeued_tileGrp, dequeued_tileSpansOk, dequeued_width]

theorem dequeued_slotaddChk (s : State) (n : Fin 16) (rest : List TileEntry) (x : Nat) : slotaddChk n (dequeued s n rest) x = slotaddChk n s x := by
  have hRead (a k : Nat) : (dequeued s n rest).read a k = s.read a k := rfl
  simp only [slotaddChk, dequeued_tileGrp, dequeued_tileSpansOk, dequeued_width, hRead]

section
variable {e : TileEntry} {rest : List TileEntry} {op : Nat} {opOk : Nat → Bool} {wait : State → Nat → Bool} {chk : State → Nat → Option Nat}
  {eff : State → TileEntry → State} {us : List (List Upd)}

/-- A word that acts and owes updates owes them when it has issued. -/
theorem tileIssue_owed (h : Heads s n e rest op) (hOp : opOk op = true) (hWait : wait s e.word.toNat = false)
    (hChk : chk (dequeued s n rest) e.word.toNat = none) (hEff : Owed s (eff (dequeued s n rest) e) n rest us) :
    Owed s (tileIssue n opOk wait chk eff s) n rest us := by
  have hNone : ((eff (dequeued s n rest) e).unit (.reach n)).wait = .none := by
    change (eff (dequeued s n rest) e).reach[n].u.wait = _
    rw [hEff.u, h.wait]
  rw [tileIssue_acts h hOp hWait hChk, settle_none hNone]
  exact hEff.kept (tileKept_of_counted (tileStall_countedOn _ n op))

theorem gives_of_owed {i : Instr} (hExec : exec i s = .next t) (h : Owed s t n rest us) : Gives i s fun t =>
    t.reach[n].tq = rest ∧ t.reach[n].pend = s.reach[n].pend ++ us ∧ t.reach[n].bank = s.reach[n].bank ∧
      t.reach[n].grps = s.reach[n].grps ∧ t.reach[n].u = s.reach[n].u ∧ OthersKept s t (.reach n) ∧ DeviceKept s t ∧ MemoryKept s t :=
  ⟨t, hExec, h.tq, h.pend, h.bank, h.grps, h.u, h.framed⟩

end

theorem slotaddEntries_owed {e : TileEntry} {rest : List TileEntry}
    (hOk : (entryUpds n s e (s.tileGrp n e.word.toNat) 0 (bits e.word.toNat 64 16 + 1)).2 = false) :
    Owed s (slotaddEntries n (dequeued s n rest) e) n rest (entryUpds n s e (s.tileGrp n e.word.toNat) 0 (bits e.word.toNat 64 16 + 1)).1 := by
  unfold slotaddEntries
  simp only [dequeued_entryUpds, dequeued_tileGrp, hOk, Bool.false_eq_true, if_false]
  exact owed_of_kept (tileTouch_tileKept _ n _) _

/-- The updates that a SLOTADD of records owes. -/
def recordUpds (s : State) (n : Fin 16) (e : TileEntry) : List (List Upd) :=
  let x := e.word.toNat
  (List.range (s.tileGrp n x).n).flatMap fun t =>
    recUpds (s.tileGrp n x) e (bits x 88 3) t ((s.reach[n].lanes.take (bits x 80 8 + 1)).zipIdx.map fun p =>
      (p.1, s.readFwp (.reach n) (slotaddRec n x t p.2 - storeBase n))) 0 0

theorem slotaddRecs_owed (s : State) (n : Fin 16) (rest : List TileEntry) (e : TileEntry) :
    Owed s (slotaddRecs n (dequeued s n rest) e) n rest (recordUpds s n e) := by
  have hFwp (a : Nat) : (dequeued s n rest).readFwp (.reach n) a = s.readFwp (.reach n) a := rfl
  unfold slotaddRecs recordUpds
  simp only [dequeued_tileGrp, dequeued_lanes, hFwp]
  exact owed_of_kept (tileTouch_tileKept _ n _) _

/-- Settles O22: the terms by `laneTerm_exact`; each word owes its updates by `tileIssue_owed`. -/
theorem tileWordsOweUpdates : Obligations.TileWordsOweUpdates := by
  unfold Obligations.TileWordsOweUpdates
  refine ⟨?_, ?_⟩
  · intro lane ieee poison shift ps number h l
    obtain ⟨⟨hv, hp, hn, hNan⟩, hPoison, hRanged, hCarried⟩ := laneTerm_exact lane ieee poison shift ps h
    exact ⟨hv, hNan, hp, hn, hPoison, hRanged, hCarried⟩
  · intro n s e rest x owes
    refine ⟨fun h hWait => ?_, fun h hWait hChk => ?_, fun h hChk => ?_, fun h hChk hSrc hOk => ?_, fun h hChk hSrc => ?_⟩
    · exact congrArg Host.Outcome.next (tileIssue_waits h hWait)
    · refine gives_of_owed rfl (tileIssue_owed h rfl hWait (by rw [dequeued_macChk, hChk]) ?_)
      have hOwed := macEff_owed s n rest e
      rwa [dequeued_macUpds] at hOwed
    · refine gives_of_owed rfl (tileIssue_owed h rfl rfl (by rw [dequeued_elemChk, hChk]) ?_)
      dsimp only
      rw [dequeued_elemUpds]
      exact issueMul_owed s n rest e _ _ _ _
    · refine gives_of_owed rfl (tileIssue_owed h rfl rfl (by rw [dequeued_slotaddChk, hChk]) ?_)
      rw [if_pos hSrc]
      exact slotaddEntries_owed hOk
    · refine gives_of_owed rfl (tileIssue_owed h rfl rfl (by rw [dequeued_slotaddChk, hChk]) ?_)
      rw [if_neg (by simp [x] at hSrc; simp [hSrc])]
      exact slotaddRecs_owed s n rest e

end Sys2Proof.Machine.Tiles

/-! PROOF. Weight loads (03 R76, R79, R86, R87) and OPEN (04 R116, R117): the columns of a store, and the slots that are cleared. -/

namespace Sys2Proof.Machine.Tiles

open Sys2Proof.Machine Sys2Proof.Machine.Laws Sys2Proof.Machine.Frames Sys2Proof.Machine.NmuAccess Sys2Proof.Machine.FailedSteps
  Sys2Proof.Machine.Scalars Sys2Proof.Machine.Queues Sys2Proof.Machine.BadWords

variable {s t u : State} {n : Fin 16}

/-! ### The columns of a store (03 R76, R86) -/

/-- Bytes put one by one at rising keys are the bytes put. -/
theorem foldl_zipIdx_putBytes (bs : List Byte) (a k : Nat) (m : List (Nat × Byte)) :
    (bs.zipIdx k).foldl (fun m p => sput 0 m (a + p.2) p.1) m = putBytes m (a + k) bs := by
  induction bs generalizing k m with
  | nil => rfl
  | cons b bs ih => rw [List.zipIdx_cons, List.foldl_cons, ih, putBytes]; rfl

theorem foldl_zipIdx_zero_putBytes (bs : List Byte) (a : Nat) (m : List (Nat × Byte)) :
    bs.zipIdx.foldl (fun m p => sput 0 m (a + p.2) p.1) m = putBytes m a bs := foldl_zipIdx_putBytes bs a 0 m

/-- What loading a lane's column makes of the columns, before the lanes that follow. -/
def colLoaded (s : State) (n : Fin 16) (fmt waddr l j : Nat) (w : WStore) : WStore :=
  let a := storeBase n + waddr + j * bytesOf fmt 128
  { w with
    cols := putBytes w.cols (256 * l) (s.read a (bytesOf fmt 128))
    poison := if s.poisonedRange a (bytesOf fmt 128) then w.poison ++ [l] else w.poison }

theorem loadCols_cons (s : State) (n : Fin 16) (fmt waddr l : Nat) (ls : List Nat) (j : Nat) (w : WStore) :
    loadCols s n fmt waddr (l :: ls) j w = loadCols s n fmt waddr ls (j + 1) (colLoaded s n fmt waddr l j w) := by
  simp only [loadCols, foldl_zipIdx_zero_putBytes, colLoaded]

/-- A map after bytes that were read were put: the bytes read at the keys put, and what stood there elsewhere. -/
theorem slook_putBytes_read (s : State) (m : List (Nat × Byte)) (key a c k : Nat) :
    slook 0 (putBytes m key (s.read a c)) k = if key ≤ k ∧ k < key + c then s.byte (a + (k - key)) else slook 0 m k := by
  rw [slook_putBytes, length_read]
  split
  · rw [List.getD_eq_getElem?_getD, getElem?_read, if_pos (by omega), Option.getD_some]
  · rfl

/-- Where columns fit their 256 keys, each lane's column holds the bytes at its place, and no other key changes. -/
theorem loadCols_cols {fmt : Nat} (hFit : bytesOf fmt 128 ≤ 256) (s : State) (n : Fin 16) (waddr : Nat) (ls : List Nat) (hNodup : ls.Nodup)
    (j : Nat) (w : WStore) :
    (∀ i l, ls[i]? = some l → ∀ b < bytesOf fmt 128, slook 0 (loadCols s n fmt waddr ls j w).cols (256 * l + b) =
      s.byte (storeBase n + waddr + (j + i) * bytesOf fmt 128 + b)) ∧
    ∀ k, (∀ l ∈ ls, k < 256 * l ∨ 256 * l + bytesOf fmt 128 ≤ k) → slook 0 (loadCols s n fmt waddr ls j w).cols k = slook 0 w.cols k := by
  induction ls generalizing j w with
  | nil => exact ⟨fun i l h => by simp at h, fun k _ => rfl⟩
  | cons l ls ih =>
    obtain ⟨hl, hNodup⟩ := List.nodup_cons.mp hNodup
    obtain ⟨hCols, hKept⟩ := ih hNodup (j + 1) (colLoaded s n fmt waddr l j w)
    rw [loadCols_cons]
    refine ⟨fun i m hm b hb => ?_, fun k hk => ?_⟩
    · cases i with
      | zero =>
        obtain rfl : l = m := by simpa using hm
        rw [hKept, colLoaded, slook_putBytes_read, if_pos (by omega), Nat.add_sub_cancel_left]
        · rfl
        · intro m hm
          have hne : m ≠ l := fun h => hl (h ▸ hm)
          omega
      | succ i =>
        rw [hCols i m (by simpa using hm) b hb, show j + 1 + i = j + (i + 1) by omega]
    · rw [hKept k fun m hm => hk m (List.mem_cons_of_mem l hm)]
      have hOut := hk l List.mem_cons_self
      rw [colLoaded, slook_putBytes_read, if_neg (by omega)]

/-- Loading columns leaves a store's state, format and number of columns. -/
theorem loadCols_kept (s : State) (n : Fin 16) (fmt waddr : Nat) (ls : List Nat) (j : Nat) (w : WStore) :
    (loadCols s n fmt waddr ls j w).filling = w.filling ∧ (loadCols s n fmt waddr ls j w).fmt = w.fmt ∧
      (loadCols s n fmt waddr ls j w).ncol = w.ncol := by
  induction ls generalizing j w with
  | nil => exact ⟨rfl, rfl, rfl⟩
  | cons l ls ih =>
    rw [loadCols_cons]
    exact ih (j + 1) (colLoaded s n fmt waddr l j w)

theorem lanes_nodup (x : Reach) : x.lanes.Nodup := List.nodup_range.filter _

/-- A tile format's column takes at most 256 bytes (03 R76). -/
theorem bytesOf_tile {fmt : Nat} (h : fmtTile fmt = true) : bytesOf fmt 128 ≤ 256 := by
  unfold fmtTile at h
  unfold bytesOf
  cases hf : Fmt.ofCode fmt with
  | none => rw [hf] at h; exact absurd h (by simp)
  | some f =>
    rw [hf] at h
    cases f
    all_goals first | decide | exact absurd h (by decide)

/-! ### WLOAD (03 R79, R86, R87) -/

theorem dequeued_wloadChk (s : State) (n : Fin 16) (rest : List TileEntry) (x : Nat) : wloadChk n (dequeued s n rest) x = wloadChk n s x := by
  simp only [wloadChk, dequeued_tileSpansOk, dequeued_width]

/-- A word that passes WLOAD's checks has a tile format. -/
theorem wload_fmtTile {x : Nat} (h : wloadChk n s x = none) : fmtTile (bits x 112 4) = true := by
  unfold wloadChk tileVerdict at h
  dsimp only at h
  split at h
  · simp at h
  split at h
  · simp at h
  · simp_all

theorem bits_lt (x lo len : Nat) : bits x lo len < 2 ^ len := Nat.mod_lt _ (Nat.two_pow_pos len)

/-- The store that a WLOAD begins to fill. -/
def wloaded (s : State) (n : Fin 16) (x : Nat) : WStore :=
  loadCols s n (bits x 112 4) (bits x 42 22) (s.reach[n].lanes.take (bits x 80 8 + 1)) 0
    { filling := true, fmt := bits x 112 4, ncol := bits x 80 8 + 1 }

/-- What the load of columns reads does not depend on the queue. -/
theorem dequeued_loadCols (s : State) (n : Fin 16) (rest : List TileEntry) (fmt waddr : Nat) (ls : List Nat) (j : Nat) (w : WStore) :
    loadCols (dequeued s n rest) n fmt waddr ls j w = loadCols s n fmt waddr ls j w := by
  induction ls generalizing j w with
  | nil => rfl
  | cons l ls ih =>
    rw [loadCols_cons, loadCols_cons, ih]
    rfl

theorem dequeued_wloaded (s : State) (n : Fin 16) (rest : List TileEntry) (x : Nat) : wloaded (dequeued s n rest) n x = wloaded s n x := by
  simp only [wloaded, dequeued_lanes, dequeued_loadCols]

theorem modWs_eq {k : Nat} (hk : k < 2) (s : State) (n : Fin 16) (f : WStore → WStore) :
    s.modWs n k f = s.modReach n fun x => { x with ws := x.ws.set k (f x.ws[k]) } := dif_pos hk

/-- The reach after WLOAD's start. -/
theorem wloadEff_reach (s : State) (n : Fin 16) (e : TileEntry) :
    (wloadEff n s e).reach[n] = { s.reach[n] with
      ws := s.reach[n].ws.set (bits e.word.toNat 91 1) (wloaded s n e.word.toNat) (bits_lt _ 91 1)
      fill := some (if bits e.word.toNat 91 1 = 0 then 0 else 1) } ∧ Framed s (wloadEff n s e) (.reach n) := by
  obtain ⟨l, hl⟩ := tileTouch_lkp s n e.word.toNat
  have hk : bits e.word.toNat 91 1 < 2 := bits_lt e.word.toNat 91 1
  unfold wloadEff
  simp only [hl, modWs_eq hk]
  refine ⟨?_, (framed_lkp s _ l).trans ((framed_modReach _ n _).trans (framed_modReach _ n _))⟩
  rw [modReach_same, modReach_same]
  rfl

theorem fill_val {k : Nat} (h : k < 2) : (some (if k = 0 then 0 else 1) : Option (Fin 2)).map (fun k => k.val) = some k := by
  split
  · next h0 => simp [h0]
  · next h0 => simp; omega

/-- What a WLOAD that starts leaves. -/
theorem wload_starts {e : TileEntry} {rest : List TileEntry} (h : Heads s n e rest 2) (hWait : wloadWait n s e.word.toNat = false)
    (hChk : wloadChk n s e.word.toNat = none) : ∃ t p, exec (.wload n) s = .next t ∧ Framed s t (.reach n) ∧
      t.reach[n] = { s.reach[n] with
        tq := rest, perf := p
        ws := s.reach[n].ws.set (bits e.word.toNat 91 1) (wloaded s n e.word.toNat) (bits_lt _ 91 1)
        fill := some (if bits e.word.toNat 91 1 = 0 then 0 else 1) } := by
  obtain ⟨hReach, hFramed⟩ := wloadEff_reach (dequeued s n rest) n e
  have hNone : ((wloadEff n (dequeued s n rest) e).unit (.reach n)).wait = .none := by
    change (wloadEff n (dequeued s n rest) e).reach[n].u.wait = _
    rw [hReach, dequeued_reach]
    exact h.wait
  have hIssue := tileIssue_acts (opOk := (· == 2)) (wait := wloadWait n) (chk := wloadChk n) (eff := wloadEff n) h rfl hWait
    (by rw [dequeued_wloadChk, hChk])
  rw [settle_none hNone] at hIssue
  have hCount := tileStall_countedOn (wloadEff n (dequeued s n rest) e) n 2
  obtain ⟨p, hp⟩ := hCount.reach
  refine ⟨_, p, congrArg Host.Outcome.next hIssue, ((framed_modReach s n _).trans hFramed).trans hCount.framed, ?_⟩
  rw [hp, hReach, dequeued_wloaded, dequeued_reach]

/-- The end of a fill. -/
theorem exec_wloadComplete (n : Fin 16) (s : State) : exec (.wloadComplete n) s = .next (match s.reach[n].fill with
    | some k => (s.modWs n k fun w => { w with filling := false, state := .loaded }).modReach n fun x => { x with fill := none }
    | none => s) := rfl

/-- Settles O23. -/
theorem weightLoadFillsItsStore : Obligations.WeightLoadFillsItsStore := by
  unfold Obligations.WeightLoadFillsItsStore
  refine fun n s => ⟨fun e rest h => ⟨fun hWait => ?_, fun hWait hChk => ?_⟩, fun h => ?_, fun k h => ?_⟩
  · exact congrArg Host.Outcome.next (tileIssue_waits h hWait)
  · obtain ⟨t, p, hExec, hFramed, hReach⟩ := wload_starts h hWait hChk
    obtain ⟨hFilling, hFmt, hNcol⟩ := loadCols_kept s n (bits e.word.toNat 112 4) (bits e.word.toNat 42 22)
      (s.reach[n].lanes.take (bits e.word.toNat 80 8 + 1)) 0
      { filling := true, fmt := bits e.word.toNat 112 4, ncol := bits e.word.toNat 80 8 + 1 }
    have hCols := (loadCols_cols (bytesOf_tile (wload_fmtTile hChk)) s n (bits e.word.toNat 42 22)
      (s.reach[n].lanes.take (bits e.word.toNat 80 8 + 1)) ((lanes_nodup _).sublist (List.take_sublist _ _)) 0
      { filling := true, fmt := bits e.word.toNat 112 4, ncol := bits e.word.toNat 80 8 + 1 }).1
    have hk : bits e.word.toNat 91 1 < 2 := bits_lt _ 91 1
    refine ⟨t, hExec, by rw [hReach], by rw [hReach], by rw [hReach], hFramed.1, hFramed.2.1, hFramed.2.2, ?_, wloaded s n e.word.toNat, ?_,
      hFilling, hFmt, hNcol, fun j l hl i hi => ?_⟩
    · rw [hReach]
      exact fill_val hk
    · rw [hReach]
      simp [hk]
    · rw [wloaded, hCols j l hl i hi, Nat.zero_add]
  · rw [exec_wloadComplete, h]
  · rw [exec_wloadComplete, h]
    dsimp only
    rw [modWs_eq k.isLt, modReach_modReach]
    rfl

/-! ### OPEN (04 R116, R117) -/

/-- What a canonical sparse map holds at a key once the entries of some keys are taken out. -/
theorem slook_filter_key {α : Type} [DecidableEq α] (d : α) (f : Nat → Bool) (m : List (Nat × α)) (b k : Nat)
    (hm : swfFrom d b m = true) : slook d (m.filter fun e => f e.1) k = if f k then slook d m k else d := by
  induction m generalizing b with
  | nil => simp
  | cons e m ih =>
    obtain ⟨j, v⟩ := e
    simp only [swfFrom, Bool.and_eq_true, decide_eq_true_eq] at hm
    have hRest := ih (j + 1) hm.2
    have hBelow : k ≤ j → slook d m k = d := fun hk => by
      have h := slook_dropWhile_le d m k k (Nat.le_refl k)
      rwa [dropWhile_swfFrom d m k (swfFrom_mono d m (k + 1) (j + 1) (by omega) hm.2)] at h
    by_cases hj : f j = true
    · rw [List.filter_cons_of_pos (by exact hj)]
      simp only [slook]
      by_cases hk : k < j
      · simp [hk]
      · by_cases hkj : j = k
        · subst hkj
          simp [hj]
        · simp [hk, hkj, hRest]
    · rw [List.filter_cons_of_neg (by exact hj), hRest]
      simp only [slook]
      by_cases hk : k < j
      · simp [hk, hBelow (by omega)]
      · by_cases hkj : j = k
        · subst hkj
          simp [hj]
        · simp [hk, hkj]

/-- The words of a bank after its cells [lo, hi) were cleared (R117). -/
theorem clear_words {b : Bank} (hb : swf 0 b.words = true) (lo hi : Nat) {lane w : Nat} (hw : w < 512) :
    slook 0 (b.clear lo hi).words (512 * lane + w) = if lo ≤ w / 2 ∧ w / 2 < hi then 0 else slook 0 b.words (512 * lane + w) := by
  have hKey : (512 * lane + w) % 512 / 2 = w / 2 := by omega
  have h := slook_filter_key 0 (fun k => decide (k % 512 / 2 < lo) || decide (hi ≤ k % 512 / 2)) b.words 0 (512 * lane + w) hb
  rw [hKey] at h
  refine h.trans ?_
  by_cases hIn : lo ≤ w / 2 ∧ w / 2 < hi
  · rw [if_pos hIn, if_neg (by simp; omega)]
  · rw [if_neg hIn, if_pos (by simp; omega)]

/-- The effect of an OPEN. -/
def opened (s : State) (n : Fin 16) (x : Nat) : State := s.modReach n fun y =>
  { y with bank := y.bank.clear (openOf x).cells.1 (openOf x).cells.2, grps := y.grps.set (bits x 88 3) (openOf x) (bits_lt x 88 3) }

theorem dequeued_openChk (s : State) (n : Fin 16) (rest : List TileEntry) (x : Nat) : openChk n (dequeued s n rest) x = openChk n s x := by
  simp only [openChk, dequeued_tileGrp, dequeued_reach]

theorem open_acts {e : TileEntry} {rest : List TileEntry} (h : Heads s n e rest 4)
    (hWait : s.reach[n].owesCells (openOf e.word.toNat).cells.1 (openOf e.word.toNat).cells.2 = false) (hChk : openChk n s e.word.toNat = none) :
    ∃ t p, exec (.openGrp n) s = .next t ∧ Framed s t (.reach n) ∧ t.reach[n] = { s.reach[n] with
      tq := rest, perf := p
      bank := s.reach[n].bank.clear (openOf e.word.toNat).cells.1 (openOf e.word.toNat).cells.2
      grps := s.reach[n].grps.set (bits e.word.toNat 88 3) (openOf e.word.toNat) (bits_lt _ 88 3) } := by
  have hReach : (opened (dequeued s n rest) n e.word.toNat).reach[n] = { s.reach[n] with
      tq := rest
      bank := s.reach[n].bank.clear (openOf e.word.toNat).cells.1 (openOf e.word.toNat).cells.2
      grps := s.reach[n].grps.set (bits e.word.toNat 88 3) (openOf e.word.toNat) (bits_lt _ 88 3) } := by
    rw [opened, modReach_same, dequeued_reach]
  have hNone : ((opened (dequeued s n rest) n e.word.toNat).unit (.reach n)).wait = .none := by
    change (opened (dequeued s n rest) n e.word.toNat).reach[n].u.wait = _
    rw [hReach]
    exact h.wait
  have hIssue := tileIssue_acts (opOk := (· == 4)) (wait := fun s x => s.reach[n].owesCells (openOf x).cells.1 (openOf x).cells.2)
    (chk := openChk n) (eff := fun s e => opened s n e.word.toNat) h rfl hWait (by rw [dequeued_openChk, hChk])
  rw [settle_none hNone] at hIssue
  have hCount := tileStall_countedOn (opened (dequeued s n rest) n e.word.toNat) n 4
  obtain ⟨p, hp⟩ := hCount.reach
  exact ⟨_, p, congrArg Host.Outcome.next hIssue, ((framed_modReach s n _).trans (framed_modReach _ n _)).trans hCount.framed, by rw [hp, hReach]⟩

/-- Settles O24. -/
theorem openClearsItsSlots : Obligations.OpenClearsItsSlots := by
  unfold Obligations.OpenClearsItsSlots
  refine fun n s e rest h => ⟨fun hWait => ?_, fun hWait hChk => ?_⟩
  · exact congrArg Host.Outcome.next (tileIssue_waits h hWait)
  · obtain ⟨t, p, hExec, hFramed, hReach⟩ := open_acts h hWait hChk
    have hk : bits e.word.toNat 88 3 < 8 := bits_lt _ 88 3
    refine ⟨t, hExec, by rw [hReach], by rw [hReach], hFramed.1, hFramed.2.1, hFramed.2.2, ?_, fun k hne => ?_, fun hb lane w _ hw => ?_⟩
    · rw [hReach]
      simp [hk]
    · rw [hReach]
      simp only [Vector.toList_set]
      exact List.getElem?_set_ne (Ne.symm hne)
    · rw [hReach]
      exact clear_words hb _ _ hw

end Sys2Proof.Machine.Tiles

/-! PROOF. The canonical form of memory and flash and the owners of semaphores are kept by every operation of the model (13 R448, R451):
one rule per operation, in the model's order, and one theorem over all commands. -/

section KeptFormRules

-- One proof after the other: some hundred short proofs that each wait for the one before would each hold a thread.
set_option Elab.async false

open Sys2Proof Sys2Proof.Machine Sys2Proof.Machine.Laws

namespace Sys2Proof

variable {s t : State}

/-! ### Choices, loops and bytes -/

theorem KeptForm.ite {c : Prop} [Decidable c] (hs : KeptForm s) (ht : KeptForm t) : KeptForm (if c then s else t) := by
  split
  · exact hs
  · exact ht

theorem KeptForm.dite {c : Prop} [Decidable c] {f : c → State} {g : ¬ c → State} (hf : ∀ h, KeptForm (f h)) (hg : ∀ h, KeptForm (g h)) :
    KeptForm (if h : c then f h else g h) := by
  split
  · exact hf _
  · exact hg _

theorem KeptForm.foldl {α : Type} {f : State → α → State} (hs : KeptForm s) (hf : ∀ t x, KeptForm t → KeptForm (f t x)) {l : List α} :
    KeptForm (l.foldl f s) := by
  induction l generalizing s with
  | nil => exact hs
  | cons x l ih => exact ih (hf s x hs)

theorem KeptForm.foldlFst {α β : Type} {f : State × β → α → State × β} {p : State × β} (hp : KeptForm p.1)
    (hf : ∀ q x, KeptForm q.1 → KeptForm (f q x).1) {l : List α} : KeptForm (l.foldl f p).1 := by
  induction l generalizing p with
  | nil => exact hp
  | cons x l ih => exact ih (hf p x hp)

/-- An update of other fields keeps the form. -/
theorem KeptForm.upd (h : KeptForm s) (hMem : t.mem = s.mem := by rfl) (hFlash : t.prf.flash = s.prf.flash := by rfl)
    (hSem : t.sem = s.sem := by rfl) : KeptForm t :=
  ⟨hMem ▸ h.1, hFlash ▸ h.2.1, fun n => by rw [hSem]; exact h.2.2 n⟩

/-- Whatever leaves the flash and the semaphores keeps the form where memory stays canonical. -/
theorem KeptForm.of_mem (h : KeptForm s) (hMem : Memory.wf t.mem) (hFlash : t.prf.flash = s.prf.flash := by rfl)
    (hSem : t.sem = s.sem := by rfl) : KeptForm t :=
  ⟨hMem, hFlash ▸ h.2.1, fun n => by rw [hSem]; exact h.2.2 n⟩

/-- A command that completes leaves the form. -/
def NextKept (o : Host.Outcome State Fault Refusal) : Prop := ∀ t, o = .next t → KeptForm t

theorem KeptForm.next (h : KeptForm s) : NextKept (.next s) := by
  intro t ht
  cases ht
  exact h

/-! ### Operations and commands, in the order of the model -/

theorem KeptForm.modReach (hs : KeptForm s) (n : Fin 16) (f : Reach → Reach) : KeptForm (s.modReach n f) :=
  hs.upd

theorem KeptForm.modNmu (hs : KeptForm s) (d : Fin 4) (f : Nmu → Nmu) : KeptForm (s.modNmu d f) :=
  hs.upd

theorem KeptForm.modMdie (hs : KeptForm s) (d : Fin 4) (f : MDie → MDie) : KeptForm (s.modMdie d f) :=
  hs.upd

theorem KeptForm.modU (hs : KeptForm s) (r : Res) (f : Machine.Unit → Machine.Unit) : KeptForm (s.modU r f) := by
  unfold State.modU
  split
  · exact hs.modReach _ _
  · exact hs.modNmu _ _

theorem KeptForm.send (hs : KeptForm s) (o : Machine.Out) : KeptForm (s.send o) :=
  hs.upd

theorem KeptForm.bump (hs : KeptForm s) : KeptForm s.bump :=
  hs.upd

theorem KeptForm.modJob (hs : KeptForm s) (j : Nat) (f : JobRun → JobRun) : KeptForm (s.modJob j f) :=
  hs.upd

theorem KeptForm.modStep (hs : KeptForm s) (j : Nat) (f : StepRun → StepRun) : KeptForm (s.modStep j f) :=
  hs.modJob _ _

theorem KeptForm.raiseAt (hs : KeptForm s) (t : W64) (e : Ev) : KeptForm (s.raiseAt t e) :=
  hs.upd

theorem KeptForm.raise (hs : KeptForm s) (e : Ev) : KeptForm (s.raise e) :=
  hs.raiseAt _ _

theorem KeptForm.orderRecords (hs : KeptForm s) (seq : W32) : KeptForm (s.orderRecords seq) :=
  .ite hs hs.upd

theorem KeptForm.perfOvf (hs : KeptForm s) (lost : Bool) (kind part off : Nat) : KeptForm (s.perfOvf lost kind part off) :=
  .ite (hs.raise _) hs

theorem KeptForm.modCnt (hs : KeptForm s) (n : Fin 16) (f : ReachCnt → ReachCnt) : KeptForm (s.modCnt n f) :=
  hs.modReach _ _

theorem KeptForm.countCvt (hs : KeptForm s) (r : Res) (clamps nars : Nat) : KeptForm (s.countCvt r clamps nars) := by
  unfold State.countCvt
  split
  · exact hs.modCnt _ _
  · exact hs.modNmu _ _

theorem KeptForm.countRange (hs : KeptForm s) (r : Res) (k : Nat) : KeptForm (s.countRange r k) := by
  unfold State.countRange
  split
  · exact hs.modCnt _ _
  · exact hs

theorem KeptForm.countLimit (hs : KeptForm s) (r : Res) (k : Nat) : KeptForm (s.countLimit r k) := by
  unfold State.countLimit
  split
  · exact hs.modCnt _ _
  · exact hs

theorem KeptForm.countNmu (hs : KeptForm s) (d : Fin 4) (k : Nat) : KeptForm (s.countNmu d k) :=
  .ite hs ((hs.modNmu _ _).perfOvf _ _ _ _)

theorem KeptForm.countPerf (hs : KeptForm s) (n : Fin 16) (k off : Nat) (get : ReachPerf → Perf) (set : ReachPerf → Perf → ReachPerf) :
    KeptForm (s.countPerf n k off get set) :=
  .ite hs ((hs.modReach _ _).perfOvf _ _ _ _)

theorem KeptForm.countStall (hs : KeptForm s) (n : Fin 16) (k : Stall) (least : Nat) : KeptForm (s.countStall n k least) := by
  unfold State.countStall
  split <;> exact (hs.countPerf _ _ _ _ _).bump

theorem KeptForm.llcLine (hs : KeptForm s) (alloc : Bool) (line : Nat) : KeptForm (State.llcLine alloc s line) :=
  .ite hs (by
    split
    · exact hs
    · exact .ite (.ite hs (hs.modMdie _ _)) ((((KeptForm.ite hs (hs.modMdie _ _)).modMdie _ _).perfOvf _ _ _ _).perfOvf _ _ _ _))

theorem KeptForm.llc (hs : KeptForm s) (a n : Nat) (alloc : Bool) : KeptForm (s.llc a n alloc) :=
  hs.foldl fun _ _ h1 => h1.llcLine _ _

theorem KeptForm.keysMoved (h : KeptForm s) (old : State) : KeptForm (s.keysMoved old) := h

theorem KeptForm.settleLine (h : KeptForm s) (line : Nat) : KeptForm (s.settleLine line) := by
  unfold State.settleLine
  generalize s.read (64 * line) 64 = bs
  refine .ite h (h.of_mem ?_)
  exact putBytes_wf _ _ _ h.1

theorem KeptForm.rewritten (hs : KeptForm s) (line : Nat) : KeptForm (s.rewritten line) :=
  .ite (.ite (hs.foldl fun _ _ h1 => h1.modMdie _ _) ((hs.foldl fun _ _ h1 => h1.modMdie _ _).raise _)) hs

theorem KeptForm.put (h : KeptForm s) (a : Nat) (bs : List Byte) (marks : List Nat) (keys : List (Nat × Nat)) :
    KeptForm { s with mem := putBytes s.mem a bs, poison := marks, lineKey := keys } := by
  refine h.of_mem ?_
  exact putBytes_wf _ _ _ h.1

theorem KeptForm.writeLine (h : KeptForm s) (a : Nat) (bs : List Byte) (poison : Bool) : KeptForm (s.writeLine a bs poison) := by
  unfold State.writeLine
  exact .ite ((KeptForm.put (.ite h (h.settleLine _)) _ _ _ _).rewritten _) (.put (.ite h (h.settleLine _)) _ _ _ _)

theorem KeptForm.writeGo (h : KeptForm s) (a : Nat) (bs : List Byte) (poison : Bool) (fuel : Nat) :
    KeptForm (s.writeGo a bs poison fuel) := by
  induction fuel generalizing s a bs with
  | zero => exact h
  | succ f ih => exact .ite h (ih (h.writeLine _ _ _) _ _)

theorem KeptForm.write (h : KeptForm s) (a : Nat) (bs : List Byte) (poison : Bool) : KeptForm (s.write a bs poison) := h.writeGo _ _ _ _

theorem KeptForm.writeNat (hs : KeptForm s) (a n a1 : Nat) (poison : Bool) : KeptForm (s.writeNat a n a1 poison) :=
  hs.write _ _ _

theorem KeptForm.modEgr (hs : KeptForm s) (e : Nat) (f : EgrRing → EgrRing) : KeptForm (s.modEgr e f) :=
  hs.upd

theorem KeptForm.writeRecord (hs : KeptForm s) (r : ComplRec) : KeptForm (s.writeRecord r) :=
  (hs.send _).modEgr _ _

theorem KeptForm.msix (hs : KeptForm s) (v : Nat) : KeptForm (s.msix v) :=
  .ite hs (.ite hs.upd (.ite (hs.send _) hs))

theorem KeptForm.dueVec (hs : KeptForm s) (v j : Nat) : KeptForm (s.dueVec v j) :=
  .ite (hs.msix _) hs.upd

theorem KeptForm.dueVector (hs : KeptForm s) (e j : Nat) : KeptForm (s.dueVector e j) :=
  .ite (hs.dueVec _ _) hs

theorem KeptForm.post (hs : KeptForm s) (r : ComplRec) : KeptForm (s.post r) :=
  .ite ((hs.dueVector _ _).writeRecord _) (.ite ((hs.dueVector _ _).upd) ((hs.dueVector _ _).raise _))

theorem KeptForm.drainHeld (h : KeptForm s) (e fuel : Nat) : KeptForm (s.drainHeld e fuel) := by
  induction fuel generalizing s with
  | zero => exact h
  | succ f ih =>
    unfold State.drainHeld
    dsimp only
    split
    · exact .ite (ih ((h.upd.writeRecord _).dueVector _ _)) h
    · exact h

theorem KeptForm.postAll (hs : KeptForm s) (j : Nat) (e : JobE) (a1 : StepRun) (status : Nat) (event : W16) : KeptForm (s.postAll j e a1
    status event) := by
  unfold State.postAll
  split
  · exact hs.post _
  · exact hs.foldl fun _ _ h1 => h1.post _

theorem KeptForm.endStopped (hs : KeptForm s) (j : Nat) : KeptForm (s.endStopped j) := by
  unfold State.endStopped
  split
  · exact .ite hs (KeptForm.modJob (by
    split
    · exact hs.postAll _ _ _ _ _
    · exact hs.postAll _ _ _ _ _
    · exact hs.postAll _ _ _ _ _
    · exact hs) _ _)
  · exact hs

theorem KeptForm.stopStep (hs : KeptForm s) (j : Nat) (w : StepEnd) : KeptForm (s.stopStep j w) :=
  hs.modStep _ _

theorem KeptForm.stopUnit (hs : KeptForm s) (r : Res) : KeptForm (s.stopUnit r) := by
  unfold State.stopUnit
  split
  · exact (hs.modU _ _).modReach _ _
  · exact hs.modU _ _

theorem KeptForm.failOn (hs : KeptForm s) (r : Res) (e : Ev) : KeptForm (s.failOn r e) :=
  (((hs.raise _).stopUnit _).stopStep _ _).endStopped _

theorem KeptForm.notePoison (hs : KeptForm s) (j a n : Nat) : KeptForm (s.notePoison j a n) := by
  unfold State.notePoison
  split
  · exact hs.modStep _ _
  · exact hs

theorem KeptForm.consumePoison (hs : KeptForm s) (r : Res) : KeptForm (s.consumePoison r) := by
  unfold State.consumePoison
  dsimp only
  split
  · exact .ite ((hs.stopUnit _).endStopped _) (hs.failOn _ _)
  · exact hs.failOn _ _

theorem KeptForm.postOk (hs : KeptForm s) (j : Nat) (e : JobE) (a1 : StepRun) : KeptForm (s.postOk j e a1) := by
  unfold State.postOk
  split
  · exact hs.post _
  · exact hs.foldlFst fun _ _ h1 => h1.post _

theorem KeptForm.failStep (hs : KeptForm s) (j : Nat) (ev : Ev) : KeptForm (s.failStep j ev) :=
  ((hs.raise _).stopStep _ _).endStopped _

theorem KeptForm.tryPost (hs : KeptForm s) (j : Nat) : KeptForm (s.tryPost j) := by
  unfold State.tryPost
  split
  · exact .ite (hs.endStopped _) (.ite hs (.ite (KeptForm.failStep (by
    split
    · exact hs.foldl fun _ _ h1 => h1.notePoison _ _ _
    · exact hs) _ _) ((hs.postOk _ _ _).modStep _ _)))
  · exact hs

theorem KeptForm.stepEnd (hs : KeptForm s) (j k : Nat) : KeptForm (s.stepEnd j k) :=
  (hs.modStep _ _).tryPost _

theorem KeptForm.touch (hs : KeptForm s) (r : Res) (a n : Nat) : KeptForm (s.touch r a n) :=
  .ite (((hs.notePoison _ _ _).llc _ _ _).bump) (hs.notePoison _ _ _)

theorem KeptForm.noteShardPoison (hs : KeptForm s) (r : Res) (a n : Nat) : KeptForm (s.noteShardPoison r a n) := by
  unfold State.noteShardPoison
  split
  · exact .ite (hs.modNmu _ _) hs
  · exact hs

theorem KeptForm.store (hs : KeptForm s) (r : Res) (a : Nat) (bs : List Byte) (p : Bool) : KeptForm (s.store r a bs p) :=
  .ite ((KeptForm.ite ((hs.write _ _ _).noteShardPoison _ _ _) (hs.write _ _ _)).llc _ _ _) (.ite ((hs.write _ _ _).noteShardPoison _ _ _)
    (hs.write _ _ _))

theorem KeptForm.heldBack (hs : KeptForm s) (r : Res) : KeptForm (s.heldBack r) := by
  unfold State.heldBack
  split
  · exact .ite (hs.countStall _ _ _) hs
  · exact hs

theorem KeptForm.fetched (hs : KeptForm s) (r : Res) : KeptForm (s.fetched r) :=
  hs.modU _ _

theorem KeptForm.failAt (hs : KeptForm s) (r : Res) (code d0 d1 d2 : Nat) (d3 : Nat) : KeptForm (s.failAt r code d0 d1 d2 d3) :=
  hs.failOn _ _

theorem KeptForm.retire (hs : KeptForm s) (r : Res) : KeptForm (s.retire r) :=
  .ite hs (.ite (hs.modU _ _) (hs.failAt _ _ _ _ _ _))

theorem KeptForm.ctl (h : KeptForm s) {r : Res} {f : Form} {w : CtlWord} {key : List (BitVec 6)} {spans : State → Spans}
    {chk : State → Option Nat} {eff : State → State} (hEff : ∀ t, KeptForm t → KeptForm (eff t)) :
    KeptForm (Machine.ctl r f w key spans chk eff s) := by
  unfold Machine.ctl
  have hFetched := h.fetched r
  refine .ite (h.heldBack r) (.ite (hFetched.failAt _ _ _ _ _ _) (.ite (hFetched.consumePoison _) ?_))
  split
  · exact hFetched.failAt _ _ _ _ _ _
  · exact hEff _ hFetched

theorem KeptForm.ctlReg (h : KeptForm s) {r : Res} {f : Form} {w : CtlWord} {chk : State → Option Nat} {eff : State → State}
    (hEff : ∀ t, KeptForm t → KeptForm (eff t)) : KeptForm (Machine.ctlReg r f w chk eff s) :=
  h.ctl fun t ht => (hEff t ht).retire r

theorem KeptForm.trapEvent (hs : KeptForm s) (r : Res) (t : TrapRep) : KeptForm (s.trapEvent r t) := by
  unfold State.trapEvent
  split
  · exact hs
  · exact .ite hs (.ite (((((hs.modU _ _).modJob _ _).stopUnit _).stopStep _ _).endStopped _) ((hs.modU _ _).modJob _ _))

theorem KeptForm.trapIf (hs : KeptForm s) (r : Res) (t : Option TrapRep) : KeptForm (s.trapIf r t) := by
  unfold State.trapIf
  split
  · exact hs.trapEvent _ _
  · exact hs

theorem KeptForm.writeVec (hs : KeptForm s) (r : Res) (part d fmt : Nat) (es : List Elem) : KeptForm (s.writeVec r part d fmt es) :=
  (((hs.modU _ _).countCvt _ _ _).countRange _ _).trapIf _ _

theorem KeptForm.vecBusy (hs : KeptForm s) (r : Res) (per : Nat) : KeptForm (s.vecBusy r per) := by
  unfold State.vecBusy
  split
  · exact hs.countPerf _ _ _ _ _
  · exact hs.countNmu _ _

theorem KeptForm.vecBusyK (hs : KeptForm s) (r : Res) (k : Nat) : KeptForm (s.vecBusyK r k) := by
  unfold State.vecBusyK
  split
  · exact hs.countPerf _ _ _ _ _
  · exact hs.countNmu _ _

theorem KeptForm.writeFwp (hs : KeptForm s) (r : Res) (a : Nat) (a1 : Fwp) : KeptForm (s.writeFwp r a a1) :=
  hs.store _ _ _ _

theorem KeptForm.dupSelect (hs : KeptForm s) (n : Fin 16) (d : Dup) : KeptForm (s.dupSelect n d) :=
  .ite hs (.ite (hs.modReach _ _) (.ite hs.upd ((hs.modReach _ _).modReach _ _)))

theorem KeptForm.storeRow (hs : KeptForm s) (r : Res) (a : Nat) (ps : List (List Byte × Bool)) : KeptForm (s.storeRow r a ps) :=
  (hs.store _ _ _ _).foldlFst fun _ _ h1 => .ite ((h1.write _ _ _).noteShardPoison _ _ _) h1

theorem KeptForm.vecOp (hs : KeptForm s) (nb nc : Bool) (f : Ops3 → Val) (r : Res) (w : CtlWord) (form : Form) : KeptForm (Machine.vecOp
    nb nc f r w form s) :=
  hs.ctlReg (fun _ h1 => (h1.writeVec _ _ _ _ _).vecBusy _ _)

theorem KeptForm.splitInexact (hs : KeptForm s) (r : Res) (sigma : Int) (i : Nat) : KeptForm (s.splitInexact r sigma i) :=
  hs.raise _

theorem KeptForm.trapRec (hs : KeptForm s) (r : Res) (part lane slot fmt : Nat) (nan carried : Bool) : KeptForm (s.trapRec r part lane
    slot fmt nan carried) :=
  .ite (hs.trapEvent _ _) hs

theorem KeptForm.vecSum (hs : KeptForm s) (sq : Bool) (r : Res) (w : CtlWord) : KeptForm (Machine.vecSum sq r w s) :=
  hs.ctl (fun _ h1 => ((((h1.writeFwp _ _ _).countRange _ _).trapRec _ _ _ _ _ _ _).vecBusy _ _).retire _)

theorem KeptForm.vecWinner (hs : KeptForm s) (isMax : Bool) (r : Res) (w : CtlWord) : KeptForm (Machine.vecWinner isMax r w s) :=
  hs.ctl (fun _ h1 => (((h1.store _ _ _ _).trapRec _ _ _ _ _ _ _).vecBusy _ _).retire _)

theorem KeptForm.winCombine (h : KeptForm s) (isMax : Bool) (r : Res) (w : CtlWord) : KeptForm (Machine.winCombine isMax r w s) := by
  unfold Machine.winCombine
  exact h.ctl fun _ ht => ((((((ht.touch _ _ _).touch _ _ _).store _ _ _ _).trapRec _ _ _ _ _ _ _).vecBusyK _ _).retire _)

theorem KeptForm.sfuBusy (hs : KeptForm s) (r : Res) (steps : Nat) : KeptForm (s.sfuBusy r steps) := by
  unfold State.sfuBusy
  split
  · exact hs.countPerf _ _ _ _ _
  · exact hs

theorem KeptForm.rerunDenied (hs : KeptForm s) (n : Fin 16) (lyr : Nat) : KeptForm (s.rerunDenied n lyr) :=
  ((hs.raise _).modReach _ _).modStep _ _

theorem KeptForm.rerunGranted (hs : KeptForm s) (n : Fin 16) : KeptForm (s.rerunGranted n) :=
  (hs.modReach _ _).modStep _ _

theorem KeptForm.issueBarge (hs : KeptForm s) (n : Fin 16) (t : Nat) (desc : List Byte) : KeptForm (s.issueBarge n t desc) :=
  .dite (fun _ => hs.modReach _ _) fun _ => hs

theorem KeptForm.settle (hs : KeptForm s) (r : Res) : KeptForm (s.settle r) := by
  unfold State.settle
  dsimp only
  split
  · exact hs
  · exact .ite (((hs.touch _ _ _).modU _ _).retire _) hs
  · split
    · exact .ite (((hs.modReach _ _).modU _ _).retire _) hs
    · exact hs
  · exact .ite ((hs.modU _ _).retire _) hs
  · split
    · exact .ite hs (((hs.issueBarge _ _ _).modU _ _).retire _)
    · exact hs
  · exact .ite hs (((hs.modU _ _).modU _ _).retire _)
  · exact .ite (hs.modU _ _) hs
  · exact .ite ((hs.modU _ _).stepEnd _ _) hs

theorem KeptForm.await (hs : KeptForm s) (r : Res) (w : Wait) : KeptForm (s.await r w) :=
  (hs.modU _ _).settle _

theorem KeptForm.scalar2 (hs : KeptForm s) (op : W64 → W64 → W64) (r : Res) (w : CtlWord) : KeptForm (Machine.scalar2 op r w s) :=
  hs.ctlReg (fun _ h1 => h1.modU _ _)

theorem KeptForm.scalarImm (hs : KeptForm s) (op : W64 → ℤ → W64) (r : Res) (w : CtlWord) : KeptForm (Machine.scalarImm op r w s) :=
  hs.ctlReg (fun _ h1 => h1.modU _ _)

theorem KeptForm.tileStall (hs : KeptForm s) (n : Fin 16) (op : Nat) : KeptForm (s.tileStall n op) := by
  unfold State.tileStall
  split
  · exact hs.countStall _ _ _
  · exact hs

theorem KeptForm.tileIssue (h : KeptForm s) {n : Fin 16} {opOk : Nat → Bool} {wait : State → Nat → Bool} {chk : State → Nat → Option Nat}
    {eff : State → TileEntry → State} (hEff : ∀ t e, KeptForm t → KeptForm (eff t e)) :
    KeptForm (Machine.tileIssue n opOk wait chk eff s) := by
  unfold Machine.tileIssue
  split
  · exact h
  · refine KeptForm.ite h (KeptForm.tileStall ?_ _ _)
    split
    · exact (h.modReach _ _).failOn _ _
    · exact (hEff _ _ (h.modReach _ _)).settle _

theorem KeptForm.tileTouch (hs : KeptForm s) (n : Fin 16) (a1 : Nat) : KeptForm (s.tileTouch n a1) :=
  hs.foldl fun _ _ h1 => h1.notePoison _ _ _

theorem KeptForm.countMac (hs : KeptForm s) (n : Fin 16) (cycles prods : Nat) : KeptForm (s.countMac n cycles prods) :=
  ((hs.countPerf _ _ _ _ _).modReach _ _).countPerf _ _ _ _ _

theorem KeptForm.issueMul (hs : KeptForm s) (n : Fin 16) (e : TileEntry) (us : List (List Upd)) (prods : Nat) (wbuf : Option Nat) (spans :
    List (Nat × Nat)) : KeptForm (s.issueMul n e us prods wbuf spans) :=
  (((hs.tileTouch _ _).modReach _ _).countMac _ _ _).dupSelect _ _

theorem KeptForm.modWs (hs : KeptForm s) (n : Fin 16) (k : Nat) (f : WStore → WStore) : KeptForm (s.modWs n k f) :=
  .dite (fun _ => hs.modReach _ _) fun _ => hs

theorem KeptForm.macEff (hs : KeptForm s) (n : Fin 16) (e : TileEntry) : KeptForm (Machine.macEff n s e) :=
  .ite ((hs.issueMul _ _ _ _ _ _).modWs _ _ _) (hs.issueMul _ _ _ _ _ _)

theorem KeptForm.wloadEff (hs : KeptForm s) (n : Fin 16) (e : TileEntry) : KeptForm (Machine.wloadEff n s e) :=
  ((hs.tileTouch _ _).modWs _ _ _).modReach _ _

theorem KeptForm.closeGrp (hs : KeptForm s) (n : Fin 16) (k : Nat) : KeptForm (s.closeGrp n k) :=
  .dite (fun _ => hs.modReach _ _) fun _ => hs

theorem KeptForm.writeRow (hs : KeptForm s) (n : Fin 16) (f : Fmt) (a : Nat) (pats : List Nat) (poison : List Bool) : KeptForm (s.writeRow
    n f a pats poison) :=
  (hs.write _ _ _).foldl fun _ _ h1 => .ite (h1.write _ _ _) h1

theorem KeptForm.closeRow (h : KeptForm s) (n : Fin 16) (x : Nat) (g : Grp) (e : TileEntry) (row : Nat) :
    KeptForm (Machine.closeRow n x g e s row).1 := by
  unfold Machine.closeRow
  extract_lets +onlyGivenNames f recs outs pats vals pois any r s1 s2 s3 st w s4 s5 sq s6 s7 s8
  have h3 : KeptForm s3 := ((h.countRange _ _).countCvt _ _ _).writeRow _ _ _ _ _
  have h4 : KeptForm s4 := .ite (h3.write _ _ _) h3
  have h5 : KeptForm s5 := .ite (h4.write _ _ _) h4
  have h6 : KeptForm s6 := .ite ((h5.countRange _ _).write _ _ _) h5
  have h7 : KeptForm s7 := .ite (h6.foldl fun _ _ hu => hu.write _ _ _) h6
  exact KeptForm.ite (h7.modReach _ _) h7

theorem KeptForm.foldRows {f : State → Nat → State × Option TrapRep} (h : KeptForm s) (hf : ∀ t x, KeptForm t → KeptForm (f t x).1)
    (rows : List Nat) : KeptForm (Machine.foldRows f s rows).1 := by
  induction rows generalizing s with
  | nil => exact h
  | cons x rows ih => exact ih (hf s x h)

theorem KeptForm.fwpwRow (hs : KeptForm s) (n : Fin 16) (a1 : Nat) (g : Grp) (e : TileEntry) (t : Nat) : KeptForm (Machine.fwpwRow n a1 g
    e s t).1 :=
  (hs.countRange _ _).foldl fun _ _ h1 => h1.writeFwp _ _ _

theorem KeptForm.slotaddRecs (hs : KeptForm s) (n : Fin 16) (e : TileEntry) : KeptForm (Machine.slotaddRecs n s e) :=
  (hs.tileTouch _ _).modReach _ _

theorem KeptForm.slotaddEntries (hs : KeptForm s) (n : Fin 16) (e : TileEntry) : KeptForm (Machine.slotaddEntries n s e) :=
  .ite (((hs.tileTouch _ _).modReach _ _).failOn _ _) ((hs.tileTouch _ _).modReach _ _)

theorem KeptForm.land (hs : KeptForm s) (n : Fin 16) (u : Upd) : KeptForm (s.land n u).1 := by
  unfold State.land
  dsimp only
  split
  · exact hs.countRange _ _
  · exact (((hs.modReach _ _).countRange _ _).countLimit _ _).modCnt _ _

theorem KeptForm.landCycle (h : KeptForm s) (n : Fin 16) (c : List Upd) : KeptForm (s.landCycle n c).1 := by
  unfold State.landCycle
  refine KeptForm.foldlFst (p := (s, [])) h fun _ _ hq => ?_
  exact hq.land _ _

theorem KeptForm.landAll (h : KeptForm s) (n : Fin 16) (cs : List (List Upd)) : KeptForm (s.landAll n cs) := by
  induction cs generalizing s with
  | nil => exact h.modReach _ _
  | cons c cs ih => exact ih ((h.landCycle n c).trapIf _ _)

theorem KeptForm.updEvent (hs : KeptForm s) (d : Fin 4) (code a d0 d1 : Nat) : KeptForm (s.updEvent d code a d0 d1) :=
  (hs.raise _).modNmu _ _

theorem KeptForm.markBusy (hs : KeptForm s) (a flags job : Nat) : KeptForm (s.markBusy a flags job) :=
  ((hs.write _ _ _).write _ _ _).llc _ _ _

theorem KeptForm.takeShard (hs : KeptForm s) (d : Fin 4) (a : Nat) (h : Shard) : KeptForm (s.takeShard d a h) :=
  hs.modNmu _ _

theorem KeptForm.writeCommit (hs : KeptForm s) (a flags step : Nat) : KeptForm (s.writeCommit a flags step) :=
  (hs.write _ _ _).llc _ _ _

theorem KeptForm.countShard (hs : KeptForm s) (j : Nat) : KeptForm (s.countShard j) :=
  hs.modStep _ _

theorem KeptForm.lrate (h : KeptForm s) {fn : Nat} {key : List (BitVec 6)} {chk : Fin 4 → State → Option Nat} {eff : Fin 4 → State → State}
    {r : Res} {w : CtlWord} (hEff : ∀ d t, KeptForm t → KeptForm (eff d t)) : KeptForm (Machine.lrate fn key chk eff r w s) := by
  refine h.ctl fun t ht => ?_
  cases r with
  | reach n => exact ht
  | nmu d => exact (hEff d t ht).retire _

theorem KeptForm.touchHeader (hs : KeptForm s) (d : Fin 4) (a : Nat) : KeptForm (s.touchHeader d a) :=
  .ite (hs.touch _ _ _) hs

theorem KeptForm.fd1Elems (h : KeptForm s) (b : Fd1) (lr c1 c2 : Val) (sc : List Val) (bad : Bool) (d : Fin 4) (base i n : Nat) :
    KeptForm (Machine.fd1Elems b lr c1 c2 sc bad s d base i n) := by
  induction n generalizing s i with
  | zero => exact h
  | succ n ih => exact ih ((h.touch _ _ _).store _ _ _ _) _

theorem KeptForm.fd1Shard (h : KeptForm s) (d : Fin 4) (a : Nat) (bad : Bool) : KeptForm (Machine.fd1Shard s d a bad) := by
  unfold Machine.fd1Shard
  extract_lets +onlyGivenNames u hd b no e e' scv bad' s1 d1
  have h1 : KeptForm s1 := (h.touchHeader _ _).modNmu _ _
  refine .ite (h1.updEvent _ _ _ _ _) (.ite (h1.updEvent _ _ _ _ _) (.ite (h1.updEvent _ _ _ _ _) (.ite (h1.updEvent _ _ _ _ _) ?_)))
  extract_lets +onlyGivenNames sc lr t s2 s3 per s4
  have h3 : KeptForm s3 := ((h1.takeShard _ _ _).markBusy _ _ _).fd1Elems _ _ _ _ _ _ _ _ _ _
  have h4 : KeptForm s4 := h3.countNmu _ _
  exact .ite (h4.consumePoison _) ((h4.writeCommit _ _ _).countShard _)

theorem KeptForm.saveUnit (hs : KeptForm s) (r : Res) : KeptForm (s.saveUnit r) := by
  unfold State.saveUnit
  dsimp only
  split
  · exact .ite (hs.modJob _ _) hs
  · exact hs

theorem KeptForm.clearUnit (hs : KeptForm s) (r : Res) : KeptForm (s.clearUnit r) := by
  unfold State.clearUnit
  split
  · exact (hs.saveUnit _).modReach _ _
  · exact (hs.saveUnit _).modU _ _

theorem KeptForm.passUnit (hs : KeptForm s) (r : Res) : KeptForm (s.passUnit r) := by
  unfold State.passUnit
  split
  · exact .ite ((hs.modReach _ _).clearUnit _) ((hs.modReach _ _).modReach _ _)
  · exact hs.clearUnit _

theorem KeptForm.completeTiles (hs : KeptForm s) (n : Fin 16) : KeptForm (s.completeTiles n) := by
  unfold State.completeTiles
  dsimp only
  split
  · exact ((hs.landAll _ _).modWs _ _ _).modReach _ _
  · exact hs.landAll _ _

theorem KeptForm.completeWork (hs : KeptForm s) (a1 : Res) : KeptForm (s.completeWork a1) := by
  unfold State.completeWork
  split
  · exact hs.completeTiles _
  · exact hs

theorem KeptForm.overrun (hs : KeptForm s) (r : Res) : KeptForm (s.overrun r) :=
  .ite hs (by
    split
    · exact .ite ((hs.stopUnit _).endStopped _) (.ite (hs.modU _ _) ((hs.modU _ _).upd))
    · exact hs.stopUnit _)

theorem KeptForm.gatherTaper (hs : KeptForm s) (n : Fin 16) : KeptForm (s.gatherTaper n) := by
  unfold State.gatherTaper
  dsimp only
  split
  · exact .ite ((hs.modReach _ _).modStep _ _) (hs.modReach _ _)
  · exact hs.modReach _ _

theorem KeptForm.endSlot (hs : KeptForm s) (r : Res) (t : Nat) : KeptForm (s.endSlot r t) := by
  unfold State.endSlot
  split
  · exact hs
  · exact .ite ((KeptForm.modU (by
    split
    · exact .ite ((((KeptForm.ite (hs.countStall _ _ _) hs).completeWork _).overrun _).gatherTaper _) (((KeptForm.ite (hs.countStall _ _ _)
        hs).completeWork _).overrun _)
    · exact (hs.completeWork _).overrun _) _ _).passUnit _) (KeptForm.modU (by
    split
    · exact .ite ((((KeptForm.ite (hs.countStall _ _ _) hs).completeWork _).overrun _).gatherTaper _) (((KeptForm.ite (hs.countStall _ _ _)
        hs).completeWork _).overrun _)
    · exact (hs.completeWork _).overrun _) _ _)

theorem KeptForm.restore (hs : KeptForm s) (r : Res) (j : Nat) : KeptForm (s.restore r j) := by
  unfold State.restore
  split
  · exact KeptForm.modJob (by
    split
    · exact (hs.modU _ _).modReach _ _
    · exact (hs.modU _ _).modNmu _ _) _ _
  · exact hs

theorem KeptForm.markBegun (hs : KeptForm s) (j k : Nat) : KeptForm (s.markBegun j k) :=
  hs.modStep _ _

theorem KeptForm.startReach (hs : KeptForm s) (n : Fin 16) (a : ActSlot) (e : JobE) (a1 : StepRun) : KeptForm (s.startReach n a e a1) := by
  unfold State.startReach
  dsimp only
  split
  · exact ((hs.modReach _ _).markBegun _ _).stepEnd _ _
  · exact .ite ((((hs.modReach _ _).write _ _ _).modU _ _).restore _ _) (((((hs.modReach _ _).write _ _ _).modU _ _).modReach _ _).markBegun
      _ _)

theorem KeptForm.startNmu (h : KeptForm s) (d : Fin 4) (a : ActSlot) (e : JobE) (x : StepRun) : KeptForm (s.startNmu d a e x) := by
  unfold State.startNmu
  extract_lets +onlyGivenNames j k blk img
  clear_value img
  split
  · exact (h.markBegun _ _).stepEnd _ _
  · extract_lets +onlyGivenNames run s1
    have h1 : KeptForm s1 := h.modNmu _ _
    refine .ite (h1.restore _ _) ?_
    extract_lets +onlyGivenNames s2 s3 ws
    have h3 : KeptForm s3 := (((h1.modNmu _ _).llc _ _ _).bump.notePoison _ _ _).markBegun _ _
    exact .ite (h3.failOn _ _) (.ite (((h3.modNmu _ _).modNmu _ _).stepEnd _ _) (h3.modNmu _ _))

theorem KeptForm.tryStart (hs : KeptForm s) (r : Res) : KeptForm (s.tryStart r) := by
  unfold State.tryStart
  dsimp only
  split
  · exact hs
  · exact .ite hs (by
    split
    · exact .ite hs (by
    split
    · exact .ite (.ite hs (hs.passUnit _)) ((KeptForm.ite hs (hs.passUnit _)).startReach _ _ _ _)
    · exact (KeptForm.ite hs (hs.passUnit _)).startNmu _ _ _ _)
    · exact hs)

theorem KeptForm.startSlot (hs : KeptForm s) (p : SlotE × Bool) (t : Nat) (r : Res) : KeptForm (s.startSlot p t r) :=
  .ite (KeptForm.passUnit (by
    split
    · exact (hs.modU _ _).modReach _ _
    · exact hs.modU _ _) _) ((hs.modU _ _).tryStart _)

theorem KeptForm.lateStart (hs : KeptForm s) (n : Fin 16) : KeptForm (s.lateStart n) :=
  .ite hs (.ite (.ite (hs.clearUnit _) hs) (((KeptForm.ite (hs.clearUnit _) hs).modReach _ _).tryStart _))

theorem KeptForm.modRing (hs : KeptForm s) (r : Nat) (f : InRing → InRing) : KeptForm (s.modRing r f) :=
  hs.upd

theorem KeptForm.takeRing (hs : KeptForm s) (j : Nat) (e : JobE) (r room : Nat) : KeptForm (s.takeRing j e r room).1 := by
  unfold State.takeRing
  dsimp only
  split
  · exact hs
  · split
    · exact hs.modRing _ _
    · split
      · exact (hs.modRing _ _).raise _
      · exact (hs.modRing _ _).modRing _ _

theorem KeptForm.takeRings (h : KeptForm s) (j : Nat) (e : JobE) (rings : List Nat) (room : Nat) : KeptForm (s.takeRings j e rings room).1
    := by
  induction rings generalizing s room with
  | nil => exact h
  | cons r rs ih =>
    unfold State.takeRings
    split
    · exact h
    · exact ih (h.takeRing _ _ _ _) _

theorem KeptForm.postStale (hs : KeptForm s) (j : Nat) (e : JobE) (no : W64) (d : Taken) : KeptForm (s.postStale j e no d) :=
  hs.upd.post _

theorem KeptForm.writeArgs (hs : KeptForm s) (j : Nat) (e : JobE) (a1 : StepRun) (n : Nat) : KeptForm (s.writeArgs j e a1 n) :=
  ((hs.write _ _ _).foldl fun _ _ h1 => h1.write _ _ _).write _ _ _

theorem KeptForm.writeAllArgs (hs : KeptForm s) (j : Nat) (e : JobE) (a1 : StepRun) : KeptForm (s.writeAllArgs j e a1) :=
  hs.foldl fun _ _ h1 => h1.writeArgs _ _ _ _

theorem KeptForm.releaseStep (hs : KeptForm s) (j : Nat) (e : JobE) : KeptForm (s.releaseStep j e) :=
  .ite ((hs.takeRings _ _ _ _).foldl fun _ _ h1 => h1.postStale _ _ _ _) ((((hs.takeRings _ _ _ _).foldl fun _ _ h1 => h1.postStale _ _ _
    _).modJob _ _).writeAllArgs _ _ _)

theorem KeptForm.releaseSlot (hs : KeptForm s) (j : Nat) : KeptForm (s.releaseSlot j) := by
  unfold State.releaseSlot
  split
  · exact hs
  · split
    · exact .ite hs (.ite ((hs.modStep _ _).failStep _ _) (hs.modStep _ _))
    · exact .ite hs (hs.releaseStep _ _)

theorem KeptForm.commit (hs : KeptForm s) (j t : Nat) : KeptForm (s.commit j t) := by
  unfold State.commit
  split
  · exact .ite ((KeptForm.ite (hs.write _ _ _) hs).modJob _ _) hs
  · exact hs

theorem KeptForm.ackAbort (hs : KeptForm s) (j : Nat) (e : JobE) (no status : Nat) : KeptForm (s.ackAbort j e no status) :=
  hs.post _

theorem KeptForm.abort (hs : KeptForm s) (p : Port) (v : W64) : KeptForm (s.abort p v) := by
  unfold State.abort
  dsimp only
  split
  · exact hs.upd
  · split
    · exact .ite (.ite (((hs.stopStep _ _).endStopped _).upd) ((hs.ackAbort _ _ _ _).upd)) (.ite ((hs.ackAbort _ _ _ _).upd) ((hs.ackAbort _ _
        _ _).upd))
    · exact .ite ((hs.ackAbort _ _ _ _).upd) ((hs.ackAbort _ _ _ _).upd)

theorem KeptForm.endSteps (hs : KeptForm s) (pick : State → Nat → Bool) (w : StepEnd) : KeptForm (s.endSteps pick w) :=
  hs.foldl fun _ _ h1 => (h1.stopStep _ _).endStopped _

theorem KeptForm.haltUnits (hs : KeptForm s) : KeptForm s.haltUnits :=
  hs.foldl fun _ _ h1 => (by
    split
    · exact .ite (h1.stopUnit _) h1
    · exact h1)

theorem KeptForm.haltSteps (hs : KeptForm s) (w : StepEnd) : KeptForm (s.haltSteps w) :=
  ((hs.foldl fun _ _ h1 => h1.stopStep _ _).haltUnits).foldl fun _ _ h1 => h1.endStopped _

theorem KeptForm.narTrap (hs : KeptForm s) (j : Nat) : KeptForm (s.narTrap j) := by
  unfold State.narTrap
  dsimp only
  split
  · exact .ite (((hs.upd.modJob _ _).foldl fun _ _ h1 => .ite (by
    split
    · exact h1.stopUnit _
    · exact h1) h1).endStopped _) (hs.upd.modJob _ _)
  · exact hs

theorem KeptForm.trapRequests (hs : KeptForm s) (j : Nat) : KeptForm (s.trapRequests j) := by
  unfold State.trapRequests
  split
  · exact hs.modJob _ _
  · exact hs

theorem KeptForm.modCtx (hs : KeptForm s) (c : Nat) (f : Ctx → Ctx) : KeptForm (s.modCtx c f) :=
  hs.upd

theorem KeptForm.ctxResult (hs : KeptForm s) (blk status : Nat) (gen : W32) : KeptForm (s.ctxResult blk status gen) :=
  hs.writeNat _ _ _ _

theorem KeptForm.ctxEffect (hs : KeptForm s) (q : CtxCmd) : KeptForm (s.ctxEffect q) :=
  .ite (hs.ctxResult _ _ _) (.ite (hs.ctxResult _ _ _) (.ite (.ite (hs.ctxResult _ _ _) (hs.modCtx _ _)) (.ite (hs.ctxResult _ _ _) (.ite
    (hs.ctxResult _ _ _) (.ite (hs.ctxResult _ _ _) (((hs.modCtx _ _).keysMoved _).ctxResult _ _ _))))))

theorem KeptForm.freeClosing (hs : KeptForm s) : KeptForm s.freeClosing :=
  hs.foldl fun _ _ h1 => (by
    split
    · exact ((h1.modCtx _ _).keysMoved _).ctxResult _ _ _
    · exact (h1.modCtx _ _).keysMoved _)

theorem KeptForm.ctxHead (hs : KeptForm s) : KeptForm s.ctxHead := by
  unfold State.ctxHead
  split
  · exact hs
  · exact .ite hs (hs.upd.ctxEffect _)

theorem KeptForm.ctxAll (hs : KeptForm s) : KeptForm s.ctxAll :=
  hs.foldl fun _ _ h1 => h1.ctxHead

theorem KeptForm.ctxCmd (hs : KeptForm s) (p : Port) (v : W64) : KeptForm (s.ctxCmd p v) :=
  .ite (hs.raise _) (.ite (hs.raise _) (.ite hs.upd hs.upd.ctxAll.freeClosing))

theorem KeptForm.applyEgr (hs : KeptForm s) (e : Nat) : KeptForm (s.applyEgr e) :=
  .ite (hs.drainHeld _ _) (((KeptForm.ite hs.upd hs).modEgr _ _).drainHeld _ _)

theorem KeptForm.applyEgrs (hs : KeptForm s) : KeptForm s.applyEgrs :=
  hs.foldl fun _ _ h1 => h1.applyEgr _

theorem KeptForm.unlessForced (h : KeptForm s) {f : State → State} (hf : ∀ t, KeptForm t → KeptForm (f t)) : KeptForm (s.unlessForced f) :=
  .ite h (hf s h)

theorem KeptForm.egrBase (hs : KeptForm s) (e : Nat) (v : W64) : KeptForm (s.egrBase e v).1 := by
  unfold State.egrBase
  split
  · exact hs
  · exact (hs.modEgr _ _).unlessForced (fun _ h1 => h1.applyEgr _)

theorem KeptForm.egrCfg (hs : KeptForm s) (e : Nat) (v : W64) : KeptForm (s.egrCfg e v).1 :=
  (hs.modEgr _ _).unlessForced (fun _ h1 => h1.applyEgr _)

theorem KeptForm.egrHead (hs : KeptForm s) (e : Nat) (v : W64) : KeptForm (s.egrHead e v) :=
  .ite ((hs.modEgr _ _).drainHeld _ _) (hs.raise _)

theorem KeptForm.applyRas (hs : KeptForm s) : KeptForm s.applyRas :=
  .ite hs hs.upd

theorem KeptForm.rasBase (hs : KeptForm s) (v : W64) : KeptForm (s.rasBase v).1 := by
  unfold State.rasBase
  split
  · exact hs
  · exact hs.upd.unlessForced (fun _ h1 => h1.applyRas)

theorem KeptForm.rasCfg (hs : KeptForm s) (v : W64) : KeptForm (s.rasCfg v).1 :=
  hs.upd.unlessForced (fun _ h1 => h1.applyRas)

theorem KeptForm.rasHead (hs : KeptForm s) (v : W64) : KeptForm (s.rasHead v) :=
  .ite hs.upd (hs.raise _)

theorem KeptForm.modFlow (hs : KeptForm s) (p n : Nat) (f : Machine.Flow → Machine.Flow) : KeptForm (s.modFlow p n f) :=
  hs.upd

theorem KeptForm.useKey (hs : KeptForm s) (n ftype : Nat) : KeptForm (s.useKey n ftype) :=
  .ite hs hs.upd

theorem KeptForm.emitFrame (hs : KeptForm s) (p n : Nat) (a1 : TxFrame) : KeptForm (s.emitFrame p n a1) :=
  .ite hs (((KeptForm.ite hs.upd hs).send _).useKey _ _)

theorem KeptForm.sendFrame (hs : KeptForm s) (p n ftype : Nat) (aux : W32) (ctx job : Nat) (payload : List Byte) (marks : List Nat) :
    KeptForm (s.sendFrame p n ftype aux ctx job payload marks) :=
  .ite ((hs.modFlow _ _ _).emitFrame _ _ _) (hs.modFlow _ _ _)

theorem KeptForm.sendPlain (hs : KeptForm s) (p n ftype : Nat) (payload : List Byte) : KeptForm (s.sendPlain p n ftype payload) :=
  .ite (hs.emitFrame _ _ _) hs

theorem KeptForm.sendCtrl (hs : KeptForm s) (n ftype : Nat) (aux : W32) (payload : List Byte) : KeptForm (s.sendCtrl n ftype aux payload)
    := by
  unfold State.sendCtrl
  split
  · exact hs.sendFrame _ _ _ _ _ _ _ _
  · exact hs

theorem KeptForm.failJob (hs : KeptForm s) (j ev : Nat) : KeptForm (s.failJob j ev) :=
  (hs.stopStep _ _).endStopped _

theorem KeptForm.endReachBarge (hs : KeptForm s) (n : Fin 16) (t : Fin 16) (code : W16) : KeptForm (s.endReachBarge n t code) :=
  ((hs.modReach _ _).settle _).lateStart _

theorem KeptForm.dropReads (hs : KeptForm s) (gone : RemRead → Bool) : KeptForm (s.dropReads gone) :=
  hs.upd

theorem KeptForm.endRead (hs : KeptForm s) (r : RemRead) (code : W16) : KeptForm (s.endRead r code) := by
  unfold State.endRead
  split
  · exact hs
  · exact .ite hs.upd (.dite (fun _ => (hs.upd.dropReads _).endReachBarge _ _ _) fun _ => hs.upd.dropReads _)

theorem KeptForm.restartFlow (hs : KeptForm s) (p n : Nat) : KeptForm (s.restartFlow p n) :=
  hs.upd.foldl fun _ _ h1 => h1.emitFrame _ _ _

theorem KeptForm.flowFail (hs : KeptForm s) (p n : Nat) : KeptForm (s.flowFail p n) := by
  unfold State.flowFail
  dsimp only
  split
  · exact ((hs.upd.foldl fun _ _ h1 => (h1.raise _).failJob _ _).foldl fun _ _ h1 => h1.endRead _ _).foldl fun _ _ h1 => h1.sendFrame _ _ _
      _ _ _ _ _
  · exact (hs.upd.foldl fun _ _ h1 => (h1.raise _).failJob _ _).foldl fun _ _ h1 => h1.endRead _ _

theorem KeptForm.portDown (hs : KeptForm s) (p : Nat) : KeptForm (s.portDown p) :=
  (hs.raise _).foldl fun _ _ h1 => h1.flowFail _ _

theorem KeptForm.portEdges (hs : KeptForm s) (old : BitVec 8) : KeptForm (s.portEdges old) :=
  hs.foldl fun _ _ h1 => .ite (h1.portDown _) (.ite (h1.raise _) h1)

theorem KeptForm.modBank (hs : KeptForm s) (n : Fin 16) (k : Nat) (f : SfuBank → SfuBank) : KeptForm (s.modBank n k f) :=
  hs.modReach _ _

theorem KeptForm.sfuReload (hs : KeptForm s) (n : Fin 16) (p : Port) (v : W64) : KeptForm (s.sfuReload n p v) :=
  .ite (hs.raise _) (.ite (hs.raise _) (.ite (hs.raise _) ((hs.modReach _ _).modBank _ _ _)))

theorem KeptForm.sfuSwitch (hs : KeptForm s) (n : Fin 16) (p : Port) : KeptForm (s.sfuSwitch n p) :=
  .ite (hs.raise _) (by
    split
    · exact (hs.modReach _ _).unlessForced (fun _ h1 => h1.modReach _ _)
    · exact hs
    · exact hs.raise _)

theorem KeptForm.applySwitches (hs : KeptForm s) (t : Nat) : KeptForm (s.applySwitches t) :=
  hs.foldl fun _ _ h1 => .ite (h1.modReach _ _) h1

theorem KeptForm.endLoad (hs : KeptForm s) (n : Fin 16) (k : Nat) : KeptForm (s.endLoad n k).1 := by
  unfold State.endLoad
  dsimp only
  split
  · exact hs.bump.modBank _ _ _
  · exact (hs.bump.modBank _ _ _).raise _

theorem KeptForm.ownLoad (hs : KeptForm s) (n : Fin 16) : KeptForm (s.ownLoad n) :=
  .ite hs (hs.modBank _ _ _)

theorem KeptForm.prepareBanks (hs : KeptForm s) : KeptForm s.prepareBanks :=
  hs.upd.foldl fun _ _ h1 => (h1.modBank _ _ _).ownLoad _

theorem KeptForm.powerFlags (hs : KeptForm s) : KeptForm s.powerFlags :=
  hs.upd

theorem KeptForm.setTime (h : KeptForm s) (time : W64) : KeptForm (s.setTime time) := by
  have hSlew (c : Cpl) : KeptForm (if s.cpl.slew = 0 then s else { s with cpl := c }) := .ite h h.upd
  unfold State.setTime
  refine .ite (KeptForm.upd ?_) (KeptForm.upd ?_)
  · exact hSlew _
  · exact hSlew _

theorem KeptForm.flashWrite (h : KeptForm s) (a : Nat) (bs : List Byte) : KeptForm (s.flashWrite a bs) :=
  ⟨h.1, flashWrite_swf s a bs h.2.1, h.2.2⟩

theorem KeptForm.flashErase (h : KeptForm s) (a n : Nat) : KeptForm (s.flashErase a n) := ⟨h.1, flashErase_swf s a n h.2.1, h.2.2⟩

theorem KeptForm.flogPut (hs : KeptForm s) (r : Nat × List Byte) : KeptForm (s.flogPut r) :=
  (hs.flashWrite _ _).upd

theorem KeptForm.checkpoint (hs : KeptForm s) (h : Nat) (f : FLog) : KeptForm (s.checkpoint h f) :=
  ((((hs.flashErase _ _).upd).flogPut _).foldl fun _ _ h1 => h1.flogPut _).flogPut _

theorem KeptForm.flogAppend (hs : KeptForm s) (r : Nat × List Byte) : KeptForm (s.flogAppend r) :=
  (KeptForm.ite ((hs.checkpoint _ _).flashErase _ _) hs).flogPut _

theorem KeptForm.oweLog (hs : KeptForm s) (r : Nat × List Byte) : KeptForm (s.oweLog r) :=
  hs.upd

theorem KeptForm.flogStep (hs : KeptForm s) : KeptForm s.flogStep := by
  unfold State.flogStep
  split
  · exact hs
  · exact hs.upd.flogAppend _

theorem KeptForm.flogFlush (hs : KeptForm s) : KeptForm s.flogFlush :=
  hs.foldl fun _ _ h1 => h1.flogStep

theorem KeptForm.modSess (hs : KeptForm s) (i : Fin 4) (f : Session → Session) : KeptForm (s.modSess i f) :=
  hs.upd

theorem KeptForm.sendRecords (hs : KeptForm s) : KeptForm s.sendRecords := by
  unfold State.sendRecords
  split
  · exact .ite hs hs.upd
  · exact hs

theorem KeptForm.sendAllRecords (hs : KeptForm s) : KeptForm s.sendAllRecords :=
  hs.foldl fun _ _ h1 => h1.sendRecords

theorem KeptForm.setVdd (hs : KeptForm s) (c : BitVec 2) : KeptForm (s.setVdd c) :=
  .ite (hs.upd.send _) hs

theorem KeptForm.arithDown (hs : KeptForm s) (c : BitVec 2) : KeptForm (s.arithDown c) :=
  hs.upd.setVdd _

theorem KeptForm.park (hs : KeptForm s) (r : Res) : KeptForm (s.park r) :=
  .ite (hs.completeWork _) (by
    split
    · exact .ite (((hs.completeWork _).stopUnit _).endStopped _) ((hs.completeWork _).modU _ _)
    · exact (hs.completeWork _).stopUnit _)

theorem KeptForm.clearAll (hs : KeptForm s) : KeptForm s.clearAll :=
  (hs.foldl fun _ _ h1 => h1.modReach _ _).foldl fun _ _ h1 => h1.modNmu _ _

theorem KeptForm.enterS6 (hs : KeptForm s) : KeptForm s.enterS6 :=
  (hs.haltSteps _).clearAll

theorem KeptForm.enterS7 (hs : KeptForm s) : KeptForm s.enterS7 :=
  hs.flogFlush.upd.sendAllRecords

theorem KeptForm.noteLevel (hs : KeptForm s) (new : Nat) : KeptForm (s.noteLevel new) :=
  hs.upd

theorem KeptForm.riseTo (h : KeptForm s) (new : Nat) : KeptForm (s.riseTo new) := by
  unfold State.riseTo
  extract_lets old ports s1 s2 s3 s4 s5 s6
  have h1 : KeptForm s1 := h.noteLevel _
  have h2 : KeptForm s2 := .ite (h1.arithDown _) h1
  have h3 : KeptForm s3 := h2.foldl fun _ _ hu => hu.park _
  have h4 : KeptForm s4 := .ite (h3.foldl fun _ _ hu => hu.modMdie _ _) h3
  have h5 : KeptForm s5 := h4.portEdges _
  have h6 : KeptForm s6 := .ite h5.enterS6 h5
  exact .ite h6.enterS7 h6

theorem KeptForm.shedClimb (hs : KeptForm s) : KeptForm s.shedClimb :=
  .ite (hs.riseTo _) hs

theorem KeptForm.stepDown (hs : KeptForm s) : KeptForm s.stepDown :=
  (KeptForm.ite ((hs.upd.foldl fun _ _ h1 => h1.clearUnit _).foldl fun _ _ h1 => h1.modMdie _ _) (hs.upd.foldl fun _ _ h1 => h1.clearUnit
    _)).portEdges _

theorem KeptForm.shedDescend (hs : KeptForm s) : KeptForm s.shedDescend :=
  .ite hs.stepDown hs.upd

theorem KeptForm.demandMoved (hs : KeptForm s) : KeptForm s.demandMoved :=
  (KeptForm.ite hs.upd hs).unlessForced (fun _ h1 => h1.shedClimb)

theorem KeptForm.descendReady (hs : KeptForm s) : KeptForm s.descendReady :=
  hs.upd.unlessForced (fun _ h1 => h1.shedDescend)

theorem KeptForm.arithSync (hs : KeptForm s) : KeptForm s.arithSync :=
  .ite hs.upd hs

theorem KeptForm.newPower (h : KeptForm s) (q : PwrSect) (plimit : Nat) : KeptForm (s.newPower q plimit) := by
  unfold State.newPower
  refine .ite (KeptForm.arithDown ?_ _) (.ite (KeptForm.upd ?_) (KeptForm.arithSync (KeptForm.upd ?_)))
  · exact h.upd.powerFlags
  · exact h.upd.powerFlags.setVdd _
  · exact h.upd.powerFlags

theorem KeptForm.lost (h : KeptForm s) : KeptForm s.lost := ⟨rfl, h.2.1, Scalars.resetHasTheForm.2.2⟩

theorem KeptForm.refreshUsable (hs : KeptForm s) : KeptForm s.refreshUsable :=
  hs.upd

theorem KeptForm.drained (hs : KeptForm s) : KeptForm s.drained :=
  (hs.endSteps _ _).upd

theorem KeptForm.drainDevice (hs : KeptForm s) (cause : Nat) (reach : Option Nat) (die : Nat) : KeptForm (s.drainDevice cause reach die) :=
  .ite (((KeptForm.ite hs.upd hs).endSteps _ _).unlessForced (fun _ h1 => h1.drained)) ((KeptForm.ite hs.upd hs).endSteps _ _)

theorem KeptForm.testPermanent (hs : KeptForm s) (n : Fin 16) (cause : Nat) : KeptForm (s.testPermanent n cause) :=
  (hs.raise _).drainDevice _ _ _

theorem KeptForm.replayOn (hs : KeptForm s) (j : Nat) (r : Res) : KeptForm (s.replayOn j r) :=
  .ite hs (.ite (KeptForm.tryStart (by
    split
    · exact ((hs.modU _ _).dropReads _).modReach _ _
    · exact hs.modU _ _) _) (by
    split
    · exact ((hs.modU _ _).dropReads _).modReach _ _
    · exact hs.modU _ _))

theorem KeptForm.replay (hs : KeptForm s) (j : Nat) : KeptForm (s.replay j) := by
  unfold State.replay
  split
  · exact ((hs.upd.modJob _ _).writeAllArgs _ _ _).foldl fun _ _ h1 => (by
    split
    · exact .ite (h1.replayOn _ _) h1
    · exact h1)
  · exact hs

theorem KeptForm.transientPrimary (hs : KeptForm s) (j : Nat) (no : W64) : KeptForm (s.transientPrimary j no) := by
  unfold State.transientPrimary
  split
  · exact .ite hs (.ite (hs.failJob _ _) (hs.replay _))
  · exact hs

theorem KeptForm.prfResult (hs : KeptForm s) (st code : Nat) : KeptForm (s.prfResult st code) :=
  .ite hs hs.upd

theorem KeptForm.chgClear (h : KeptForm s) : KeptForm s.chgClear := by
  unfold State.chgClear
  dsimp only
  split
  · exact KeptForm.upd h.upd.powerFlags
  · exact h.upd

theorem KeptForm.prfFail (hs : KeptForm s) (e : Ev) : KeptForm (s.prfFail e) :=
  ((hs.raise _).prfResult _ _).chgClear

theorem KeptForm.prfDone (hs : KeptForm s) : KeptForm s.prfDone :=
  (hs.prfResult _ _).chgClear

theorem KeptForm.activate (hs : KeptForm s) (slot : Nat) (drainOk : Bool) : KeptForm (s.activate slot drainOk) :=
  .ite hs.upd (.ite (hs.prfFail _) (.ite (hs.prfFail _) (.ite hs.upd (.ite (hs.prfFail _) (.ite hs.upd (by
    split
    · exact hs.prfFail _
    · exact hs.upd))))))

theorem KeptForm.prepareSlot (hs : KeptForm s) (slot : Nat) (k : Option Nat) : KeptForm (s.prepareSlot slot k) :=
  .ite hs hs.upd

theorem KeptForm.prfTake (hs : KeptForm s) (p : Port) (v : W64) (st code : Nat) : KeptForm (s.prfTake p v st code) :=
  hs.upd

theorem KeptForm.prfBusy (hs : KeptForm s) (p : Port) (v : W64) : KeptForm (s.prfBusy p v) :=
  (hs.prfTake _ _ _ _).raise _

theorem KeptForm.prfCount (hs : KeptForm s) : KeptForm s.prfCount :=
  .ite hs hs.upd

theorem KeptForm.verifyGo (h : KeptForm s) (c : Cand) (es : List (ManE × Nat)) : KeptForm (s.verifyGo c es).1 := by
  induction es generalizing s with
  | nil => exact h
  | cons e es ih =>
    obtain ⟨e, i⟩ := e
    unfold State.verifyGo
    split
    · exact ih h
    · split
      · exact ih h.upd
      · exact h

theorem KeptForm.admResult (hs : KeptForm s) (c : Cand) (r : Option Refuse) : KeptForm (s.admResult c r) :=
  hs.upd

theorem KeptForm.admRefused (hs : KeptForm s) (r : Refuse) (c : Sched) : KeptForm (s.admRefused r c) :=
  ((hs.raise _).prfResult _ _).chgClear

theorem KeptForm.beginLoads (hs : KeptForm s) : KeptForm s.beginLoads :=
  hs.upd.prepareBanks

theorem KeptForm.loadsDone (hs : KeptForm s) : KeptForm s.loadsDone :=
  .ite hs.upd (.ite hs.upd hs.upd)

theorem KeptForm.useFields (hs : KeptForm s) (k : Nat) : KeptForm (s.useFields k) :=
  ((hs.upd.newPower _ _).refreshUsable).portEdges _

theorem KeptForm.useMap (hs : KeptForm s) (k : Nat) : KeptForm (s.useMap k) :=
  (hs.upd.keysMoved _).foldl fun _ _ h1 => (by
    split
    · exact h1.ctxResult _ _ _
    · exact h1)

theorem KeptForm.clearReaches (hs : KeptForm s) (ns : List (Fin 16)) (bank : Bool) : KeptForm (s.clearReaches ns bank) :=
  hs.foldl fun _ _ h1 => h1.modReach _ _

theorem KeptForm.takeOver (h : KeptForm s) (k : Nat) : KeptForm (s.takeOver k) := by
  unfold State.takeOver
  extract_lets c old new bank first _ _ _ s1 s2 s3
  have h1 : KeptForm s1 := h.upd
  have h2 : KeptForm s2 := h1.clearReaches _ _
  clear_value s2
  have h3 : KeptForm s3 := .ite h2.upd h2
  exact (h3.useMap k).useFields k

theorem KeptForm.suspendJobs (hs : KeptForm s) (js : List Nat) : KeptForm (s.suspendJobs js) :=
  hs.foldl fun _ _ h1 => h1.raise _

theorem KeptForm.startNew (hs : KeptForm s) (js : List Nat) (old : List Byte) (new : List Byte) (c : Sched) : KeptForm (s.startNew js old
    new c) :=
  hs.foldl fun _ _ h1 => (by
    split
    · exact h1
    · exact .foldl (.ite (h1.modJob _ _) (h1.modJob _ _)) fun _ _ h2 => .ite h2 (h2.modRing _ _))

theorem KeptForm.finishStages (hs : KeptForm s) (c : Sched) (old : List Byte) (new : List Byte) : KeptForm (s.finishStages c old new) :=
  (((hs.startNew _ _ _ _).upd).useFields _).prfDone

theorem KeptForm.switchPolder (h : KeptForm s) (k : Nat) : KeptForm (s.switchPolder k) := by
  unfold State.switchPolder
  split
  · exact h
  · refine .ite (KeptForm.finishStages ?_ _ _ _) (KeptForm.upd ?_)
    all_goals exact ((h.upd.suspendJobs _).startNew _ _ _ _).clearReaches _ _

theorem KeptForm.holdPolder (hs : KeptForm s) (k : Nat) : KeptForm (s.holdPolder k) :=
  ((hs.suspendJobs _).upd).prfDone

theorem KeptForm.fullSwitch (hs : KeptForm s) (t : Nat) : KeptForm (s.fullSwitch t) :=
  .ite (((hs.takeOver _).upd).prfDone) ((hs.takeOver _).upd)

theorem KeptForm.changeAtCycle (hs : KeptForm s) (t : Nat) : KeptForm (s.changeAtCycle t) := by
  unfold State.changeAtCycle
  split
  · exact .ite (hs.switchPolder _) hs.upd
  · exact .ite (hs.holdPolder _) hs.upd
  · exact .ite (hs.fullSwitch _) hs
  · split
    · exact ((KeptForm.ite (hs.takeOver _) hs).upd).prfDone
    · exact .ite hs (.ite (hs.upd.fullSwitch _) hs.upd)
  · exact hs.upd.prfDone
  · exact hs

theorem KeptForm.abortPolder (hs : KeptForm s) (k : Nat) : KeptForm (s.abortPolder k) :=
  .ite hs ((hs.endSteps _ _).raise _)

theorem KeptForm.abortDevice (hs : KeptForm s) : KeptForm s.abortDevice :=
  .ite hs (((hs.endSteps _ _).raise _).upd)

theorem KeptForm.prfBegin (hs : KeptForm s) (p : Port) (v : W64) : KeptForm (s.prfBegin p v) :=
  .ite (hs.upd.prfFail _) (.ite hs.upd (.ite (hs.upd.unlessForced (fun _ h1 => h1.changeAtCycle _)) (.ite hs.upd (hs.upd.activate _ _))))

theorem KeptForm.prfCmd (hs : KeptForm s) (p : Port) (v : W64) : KeptForm (s.prfCmd p v) :=
  .ite (hs.prfBusy _ _) ((hs.prfBegin _ _).prfCount)

theorem KeptForm.bypassLanes (hs : KeptForm s) (n : Fin 16) (bad : BitVec 256) : KeptForm (s.bypassLanes n bad) :=
  (hs.modReach _ _).foldl fun _ _ h1 => .ite h1 (h1.oweLog _)

theorem KeptForm.resumeLanes (hs : KeptForm s) (n : Fin 16) (bad : BitVec 256) : KeptForm (s.resumeLanes n bad) :=
  .ite hs (((hs.foldl fun _ _ h1 => .ite (h1.raise _) h1).bypassLanes _ _).modReach _ _)

theorem KeptForm.modCpl (hs : KeptForm s) (f : Cpl → Cpl) : KeptForm (s.modCpl f) :=
  hs.upd

theorem KeptForm.dropLinks (hs : KeptForm s) : KeptForm s.dropLinks :=
  (hs.foldl fun _ _ h1 => h1.endRead _ _).modCpl _

theorem KeptForm.leave (hs : KeptForm s) (cause : Nat) : KeptForm (s.leave cause) :=
  ((KeptForm.ite (((hs.endSteps _ _).dropLinks).chgClear) ((hs.endSteps _ _).dropLinks)).modCpl _).raise _

theorem KeptForm.switchAll (hs : KeptForm s) : KeptForm s.switchAll :=
  hs.upd

theorem KeptForm.raiseAll (hs : KeptForm s) : KeptForm s.raiseAll :=
  hs.upd.foldl fun _ _ h1 => h1.msix _

theorem KeptForm.actWaiting (hs : KeptForm s) : KeptForm s.actWaiting :=
  (((((((hs.foldl fun _ _ h1 => h1.trapRequests _).raiseAll).applyEgrs).applyRas).switchAll).ctxAll).freeClosing).shedClimb

theorem KeptForm.setBasinTime (h : KeptForm s) (time : W64) : KeptForm (s.setBasinTime time) := by
  unfold State.setBasinTime
  extract_lets s1 s2 s3 s4 s5
  have h1 : KeptForm s1 := h.foldl fun _ _ hu => hu.narTrap _
  have h2 : KeptForm s2 := h1.haltSteps _
  have h3 : KeptForm s3 := .ite h2.actWaiting h2
  have h4 : KeptForm s4 := h3.setTime _
  have h5 : KeptForm s5 := h4.foldl fun u k hu => by
    split
    · exact hu.modU _ _
    · exact hu
  clear_value s5
  exact h5.upd

theorem KeptForm.hold (hs : KeptForm s) (reason : Nat) : KeptForm (s.hold reason) :=
  (((hs.endSteps _ _).dropLinks).modCpl _).raise _

theorem KeptForm.mirror (hs : KeptForm s) (kind : Nat) (body : List Byte) : KeptForm (s.mirror kind body) :=
  .ite ((hs.modCpl _).sendCtrl _ _ _ _) (hs.modCpl _)

theorem KeptForm.act (hs : KeptForm s) (n ftype : Nat) (payload : List Byte) : KeptForm (s.act n ftype payload) :=
  .ite (hs.modCpl _) (hs.sendCtrl _ _ _ _)

theorem KeptForm.actAll (hs : KeptForm s) (payload : List Byte) : KeptForm (s.actAll payload) :=
  hs.foldl fun _ _ h1 => h1.act _ _ _

theorem KeptForm.forward (hs : KeptForm s) (b : List Byte) : KeptForm (s.forward b) :=
  (hs.upd.modCpl _).mirror _ _

theorem KeptForm.pay (hs : KeptForm s) (o : Owed) : KeptForm (s.pay o) :=
  .ite (hs.forward _) (by
    split
    · exact hs.sendFrame _ _ _ _ _ _ _ _
    · exact hs.sendCtrl _ _ _ _)

theorem KeptForm.payOwed (hs : KeptForm s) : KeptForm s.payOwed :=
  (hs.modCpl _).foldl fun _ _ h1 => h1.pay _

theorem KeptForm.goSolo (hs : KeptForm s) : KeptForm s.goSolo :=
  (hs.modCpl _).payOwed

theorem KeptForm.fence (hs : KeptForm s) (winner : W64) : KeptForm (s.fence winner) :=
  (hs.upd.modCpl _).raise _

theorem KeptForm.managerStart (hs : KeptForm s) : KeptForm s.managerStart :=
  .ite hs (hs.modCpl _)

theorem KeptForm.relieved (hs : KeptForm s) (q : Nat × Nat × Nat × W64) : KeptForm (s.relieved q) :=
  ((((hs.modCpl _).mirror _ _).mirror _ _).actAll _).raise _

theorem KeptForm.takeAddress (hs : KeptForm s) (m : Nat) : KeptForm (s.takeAddress m) :=
  hs.modCpl _

theorem KeptForm.basinCycle (hs : KeptForm s) (k : Nat) : KeptForm (s.basinCycle k) :=
  .ite (.foldl (by
    split
    · exact .ite (KeptForm.takeAddress (by
    split
    · exact .ite (by
    split
    · exact .ite ((hs.modCpl _).leave _) (hs.modCpl _)
    · exact hs.modCpl _) (.ite ((KeptForm.modCpl (by
    split
    · exact .ite ((hs.modCpl _).leave _) (hs.modCpl _)
    · exact hs.modCpl _) _).mirror _ _) (KeptForm.modCpl (by
    split
    · exact .ite ((hs.modCpl _).leave _) (hs.modCpl _)
    · exact hs.modCpl _) _))
    · split
      · exact .ite ((hs.modCpl _).leave _) (hs.modCpl _)
      · exact hs.modCpl _) _) (by
    split
    · exact .ite (by
    split
    · exact .ite ((hs.modCpl _).leave _) (hs.modCpl _)
    · exact hs.modCpl _) (.ite ((KeptForm.modCpl (by
    split
    · exact .ite ((hs.modCpl _).leave _) (hs.modCpl _)
    · exact hs.modCpl _) _).mirror _ _) (KeptForm.modCpl (by
    split
    · exact .ite ((hs.modCpl _).leave _) (hs.modCpl _)
    · exact hs.modCpl _) _))
    · split
      · exact .ite ((hs.modCpl _).leave _) (hs.modCpl _)
      · exact hs.modCpl _)
    · split
      · exact .ite (by
    split
    · exact .ite ((hs.modCpl _).leave _) (hs.modCpl _)
    · exact hs.modCpl _) (.ite ((KeptForm.modCpl (by
    split
    · exact .ite ((hs.modCpl _).leave _) (hs.modCpl _)
    · exact hs.modCpl _) _).mirror _ _) (KeptForm.modCpl (by
    split
    · exact .ite ((hs.modCpl _).leave _) (hs.modCpl _)
    · exact hs.modCpl _) _))
      · split
        · exact .ite ((hs.modCpl _).leave _) (hs.modCpl _)
        · exact hs.modCpl _) fun _ _ h1 => h1.relieved _) (by
    split
    · exact .ite (KeptForm.takeAddress (by
    split
    · exact .ite (by
    split
    · exact .ite ((hs.modCpl _).leave _) (hs.modCpl _)
    · exact hs.modCpl _) (.ite ((KeptForm.modCpl (by
    split
    · exact .ite ((hs.modCpl _).leave _) (hs.modCpl _)
    · exact hs.modCpl _) _).mirror _ _) (KeptForm.modCpl (by
    split
    · exact .ite ((hs.modCpl _).leave _) (hs.modCpl _)
    · exact hs.modCpl _) _))
    · split
      · exact .ite ((hs.modCpl _).leave _) (hs.modCpl _)
      · exact hs.modCpl _) _) (by
    split
    · exact .ite (by
    split
    · exact .ite ((hs.modCpl _).leave _) (hs.modCpl _)
    · exact hs.modCpl _) (.ite ((KeptForm.modCpl (by
    split
    · exact .ite ((hs.modCpl _).leave _) (hs.modCpl _)
    · exact hs.modCpl _) _).mirror _ _) (KeptForm.modCpl (by
    split
    · exact .ite ((hs.modCpl _).leave _) (hs.modCpl _)
    · exact hs.modCpl _) _))
    · split
      · exact .ite ((hs.modCpl _).leave _) (hs.modCpl _)
      · exact hs.modCpl _)
    · split
      · exact .ite (by
    split
    · exact .ite ((hs.modCpl _).leave _) (hs.modCpl _)
    · exact hs.modCpl _) (.ite ((KeptForm.modCpl (by
    split
    · exact .ite ((hs.modCpl _).leave _) (hs.modCpl _)
    · exact hs.modCpl _) _).mirror _ _) (KeptForm.modCpl (by
    split
    · exact .ite ((hs.modCpl _).leave _) (hs.modCpl _)
    · exact hs.modCpl _) _))
      · split
        · exact .ite ((hs.modCpl _).leave _) (hs.modCpl _)
        · exact hs.modCpl _)

theorem KeptForm.raiseVectors (hs : KeptForm s) (ending : List Nat) : KeptForm (s.raiseVectors ending) :=
  hs.upd.foldl fun _ _ h1 => h1.msix _

theorem KeptForm.endTest (hs : KeptForm s) (r : Res) : KeptForm (s.endTest r) := by
  unfold State.endTest
  split
  · exact .ite hs (.ite ((((hs.bypassLanes _ _).modReach _ _).refreshUsable).testPermanent _ _) (((hs.bypassLanes _ _).modReach _
      _).refreshUsable))
  · exact hs

theorem KeptForm.startSlots (hs : KeptForm s) (k t : Nat) : KeptForm (s.startSlots k t) :=
  hs.foldl fun _ _ h1 => h1.foldl fun _ _ h2 => (by
    split
    · exact h2.startSlot _ _ _
    · exact h2)

theorem KeptForm.cycleStart (h : KeptForm s) (time : Nat) : KeptForm (s.cycleStart time) := by
  unfold State.cycleStart
  extract_lets k s1 s2 s3 s4
  have h1 : KeptForm s1 := .ite h.drained h
  have h2 : KeptForm s2 := h1.shedDescend.arithSync.basinCycle _
  have h4 : KeptForm s4 := (h2.changeAtCycle _).managerStart
  clear_value s4
  exact h4.upd

theorem KeptForm.lockWork (h : KeptForm s) (time : Nat) : KeptForm (s.lockWork time) := by
  unfold State.lockWork
  extract_lets s1 t first ending jobs _ s2 s3 s4 s5 s6 s7 s8 s9 last s10 _ s11 s12 k s13
  have h1 : KeptForm s1 := h.setTime _
  clear_value s1
  have h2 : KeptForm s2 := .ite h1 h1.upd
  have h3 : KeptForm s3 := h2.foldl fun _ _ hu => (hu.endSlot _ _).endTest _
  have h4 : KeptForm s4 := h3.foldl fun _ _ hu => .ite (hu.narTrap _) hu
  have h5 : KeptForm s5 := h4.foldl fun _ _ hu => hu.trapRequests _
  have h6 : KeptForm s6 := h5.foldl fun _ _ hu => hu.commit _ _
  have h8 : KeptForm s8 := ((h6.raiseVectors _).applyEgrs.applyRas.applySwitches _).ctxAll.freeClosing
  have h10 : KeptForm s10 := .ite (h8.shedClimb.cycleStart _) h8.shedClimb
  clear_value s10
  have h11 : KeptForm s11 := h10.upd
  have h12 : KeptForm s12 := h11.foldl fun _ _ hu => hu.releaseSlot _
  have h13 : KeptForm s13 := h10.foldl fun _ _ hu => hu.releaseSlot _
  exact .ite h10 (.ite (h12.startSlots _ _) (.ite h10 (h13.startSlots _ _)))

theorem KeptForm.lockPointAt (hs : KeptForm s) (t : Nat) : KeptForm (s.lockPointAt t) :=
  (hs.lockWork _).orderRecords _

theorem KeptForm.wrap (hs : KeptForm s) : KeptForm s.wrap :=
  (((hs.raiseAt _ _).foldl fun _ _ h1 => (by
    split
    · exact h1.modU _ _
    · exact h1)).lockWork _).orderRecords _

theorem KeptForm.idle (hs : KeptForm s) : KeptForm s.idle :=
  .ite (hs.setTime _) hs

theorem KeptForm.loadSlots (hs : KeptForm s) (fw : W32) : KeptForm (s.loadSlots fw) :=
  hs.foldl fun _ _ h1 => .ite h1.upd (h1.upd.raise _)

theorem KeptForm.restoreLog (hs : KeptForm s) : KeptForm s.restoreLog.1 := by
  unfold State.restoreLog
  split
  · exact hs.upd
  · exact hs.checkpoint _ _

theorem KeptForm.applyLog (h : KeptForm s) (f : FLog) : KeptForm (s.applyLog f) := by
  unfold State.applyLog
  extract_lets word s1 rows s2
  have h1 : KeptForm s1 := h.foldl fun _ _ hu => hu.modReach _ _
  have h2 : KeptForm s2 := h1.foldl fun _ _ hu => hu.modMdie _ _
  clear_value s2
  exact h2.upd

theorem KeptForm.spprChan (hs : KeptForm s) (d : Fin 4) (i : Fin 8) : KeptForm (s.spprChan d i) :=
  (hs.foldl fun _ _ h1 => .ite ((h1.modMdie _ _).oweLog _) ((((h1.modMdie _ _).oweLog _).oweLog _).raise _)).modMdie _ _

theorem KeptForm.trainMem (hs : KeptForm s) (b : StartIn) (rate lu : Nat) (spad : List Nat) : KeptForm (s.trainMem b rate lu spad) :=
  (((hs.foldl fun _ _ h1 => .ite (.ite (h1.modMdie _ _) ((h1.modMdie _ _).raise _)) ((KeptForm.ite (h1.modMdie _ _) ((h1.modMdie _ _).raise
    _)).raise _)).foldl fun _ _ h1 => h1.foldl fun _ _ h2 => .ite (h2.spprChan _ _) (h2.raise _)).foldl fun _ _ h1 => h1.modMdie _ _).upd

theorem KeptForm.testReaches (hs : KeptForm s) (b : StartIn) : KeptForm (s.testReaches b) :=
  (hs.foldl fun _ _ h1 => h1.bypassLanes _ _).upd

theorem KeptForm.loadBanks (hs : KeptForm s) : KeptForm s.loadBanks :=
  hs.foldl fun _ _ h1 => .ite (h1.modReach _ _) ((h1.modReach _ _).raise _)

theorem KeptForm.readyPoint (h : KeptForm s) (b : StartIn) : KeptForm (s.readyPoint b) := by
  unfold State.readyPoint
  extract_lets _ _ s1 x _ s2 s3 s4
  have h1 : KeptForm s1 := h.upd
  have h2 : KeptForm s2 := .ite ((h1.useMap _).useFields _).loadBanks (h1.upd.newPower _ _)
  have h3 : KeptForm s3 := h2.demandMoved
  clear_value s3
  have h4 : KeptForm s4 := h3.upd
  exact .ite h4.upd (.ite h4 (.ite (.ite (h4.modCpl _) h4) (.ite (h4.activate _ _) h4)))

theorem KeptForm.bootFirmware (h : KeptForm s) (v : W32) (slot fell : Bool) (x : Sec) (m : Mgt) :
    KeptForm { s with prf := { s.prf with fwVersion := v, fwSlot := slot, fallback := fell }, sec := x, mgt := m } := h.upd

theorem KeptForm.putSec (h : KeptForm s) (x : Sec) : KeptForm { s with sec := x } := h.upd

theorem KeptForm.putCompiled (h : KeptForm s) (c : Nat) : KeptForm { s with prf := { s.prf with compiled := c } } := h.upd

theorem KeptForm.putTime (h : KeptForm s) (time : W64) : KeptForm { s with time := time } := h.upd

theorem KeptForm.startRun (h : KeptForm s) (b : StartIn) (slot : Bool) (fw : W32) (fell dog : Bool) :
    KeptForm (s.startRun b slot fw fell dog) := by
  unfold State.startRun
  extract_lets _ _ s1 s2 _ s3
  have h1 : KeptForm s1 := h.bootFirmware _ _ _ _ _
  have h2 : KeptForm s2 := .ite h1 (h1.raise _)
  clear_value s2
  refine .ite (h2.raise _) ?_
  have h3 : KeptForm s3.restoreLog.1 := (h2.putSec _).restoreLog
  split
  next s4 f none_ hLog =>
    rw [hLog] at h3
    extract_lets s5 s6 x hd _ s7 s8 s9 s10 s11 s12 s13 s14
    have h6 : KeptForm s6 := (h3.applyLog _).loadSlots _
    clear_value s6
    have h7 : KeptForm s7 := h6.putCompiled _
    have h8 : KeptForm s8 := .ite (h7.trainMem _ _ _ _) (h7.trainMem _ _ _ _)
    have h10 : KeptForm s10 := ((h8.send _).testReaches _).refreshUsable
    clear_value s10
    have h11 : KeptForm s11 := h10.putTime _
    have h12 : KeptForm s12 := .ite (h11.raise _) h11
    have h13 : KeptForm s13 := .ite (h12.raise _) h12
    have h14 : KeptForm s14 := .ite (h13.raise _) h13
    exact h14.readyPoint _

theorem KeptForm.start (h : KeptForm s) (b : StartIn) (dog : Bool) : KeptForm (s.start b dog) := by
  unfold State.start
  extract_lets _ _ s1 _ _ s2 s3 hd pref _ s4
  have h1 : KeptForm s1 := h.lost.upd
  clear_value s1
  have h3 : KeptForm s3 := KeptForm.send (s := s2) h1.upd _
  clear_value s3
  have h4 : KeptForm s4 := h3.upd
  split
  · exact h4.startRun _ _ _ _ _
  · exact h4.upd

theorem KeptForm.warmReset (hs : KeptForm s) (b : StartIn) (dog : Bool) : KeptForm (s.warmReset b dog) :=
  hs.start _ _

theorem KeptForm.semRefuse (hs : KeptForm s) : KeptForm s.semRefuse :=
  hs.upd

theorem KeptForm.semBreakEv (hs : KeptForm s) (n : Fin 32) (cause : Nat) : KeptForm (s.semBreakEv n cause) :=
  hs.upd.raise _

theorem KeptForm.semOwn (h : KeptForm s) (n : Fin 32) {o : BitVec 2} (ho : o ≠ 3) : KeptForm (s.semOwn n o) := by
  refine ⟨h.1, h.2.1, fun m => ?_⟩
  rw [semOwn_owner]
  split
  · exact ho
  · exact h.2.2 m

theorem ownerOf_ne_three (p : Port) : ownerOf p ≠ 3 := by
  cases p with
  | host => decide
  | mgmt i => exact (by decide : (2 : BitVec 2) ≠ 3)

theorem KeptForm.freeSems (h : KeptForm s) (o : BitVec 2) (cause : Nat) : KeptForm (s.freeSems o cause) :=
  h.foldl (fun _ _ ht => .ite ((ht.semBreakEv _ _).semOwn _ (by decide)) ht)

theorem KeptForm.semTake (h : KeptForm s) (p : Port) (n : Fin 32) : KeptForm (s.semTake p n) := .ite (h.semOwn _ (ownerOf_ne_three p)) h

theorem KeptForm.semRelease (h : KeptForm s) (p : Port) (n : Fin 32) : KeptForm (s.semRelease p n) :=
  .ite h (.ite (h.semOwn _ (by decide)) h.semRefuse)

theorem KeptForm.semBreak (h : KeptForm s) (p : Port) (n : Fin 32) : KeptForm (s.semBreak p n) :=
  .ite h (.ite ((h.semBreakEv _ _).semOwn _ (ownerOf_ne_three p)) h.semRefuse)

theorem KeptForm.semWrite (hs : KeptForm s) (p : Port) (n : Fin 32) (v : W64) : KeptForm (s.semWrite p n v) :=
  .ite hs.semRefuse (.ite (hs.semTake _ _) (.ite (hs.semRelease _ _) (.ite (hs.semBreak _ _) hs)))

theorem KeptForm.setMaint (hs : KeptForm s) (m : Bool) (session : W64) : KeptForm (s.setMaint m session) :=
  .ite hs (hs.upd.raise _)

theorem KeptForm.endSession (hs : KeptForm s) (i : Fin 4) : KeptForm (s.endSession i) := by
  unfold State.endSession
  split
  · exact hs
  · exact .ite (.ite (hs.upd.freeSems _ _) hs.upd) ((KeptForm.ite (hs.upd.freeSems _ _) hs.upd).setMaint _ _)

theorem KeptForm.clearDie (h : KeptForm s) : KeptForm s.clearDie := by
  have hMem := clearDie_wf s h.1
  unfold State.clearDie
  generalize (s.mem.filter fun c => decide (c.1 < 0xF000000000)) = m at *
  exact KeptForm.foldl (KeptForm.foldl (h.of_mem hMem) (fun _ _ ht => ht.modReach _ _)) (fun _ _ ht => ht.modNmu _ _)

theorem KeptForm.forgetSchedule (h : KeptForm s) : KeptForm s.forgetSchedule := by
  unfold State.forgetSchedule
  extract_lets queue _ _ _ s1 s2
  have h1 : KeptForm s1 := h.upd
  have h2 : KeptForm s2 := .ite (h1.useMap _) h1
  clear_value s2
  exact h2.upd

theorem KeptForm.dropSchedule (h : KeptForm s) : KeptForm s.dropSchedule := by
  unfold State.dropSchedule
  extract_lets due _ s1 s2 s3
  have h1 : KeptForm s1 := KeptForm.forgetSchedule (KeptForm.freeClosing h.upd)
  have h2 : KeptForm s2 := h1.foldl fun _ _ hu => hu.msix _
  have h3 : KeptForm s3 := h2.applyEgrs.applyRas.switchAll.ctxAll.freeClosing
  exact h3.shedClimb.shedDescend.arithSync

theorem KeptForm.debugEnter (h : KeptForm s) (session : W64) : KeptForm (s.debugEnter session) := by
  unfold State.debugEnter
  extract_lets s1 s2 s3 s4 _ s5 _ s6
  have h1 : KeptForm s1 := h.haltSteps _
  have h2 : KeptForm s2 := h1.foldl fun _ _ hu => hu.endSession _
  have h3 : KeptForm s3 := .ite ((h2.leave _).modCpl _) h2.dropLinks
  have h4 : KeptForm s4 := h3.clearDie
  clear_value s4
  have h5 : KeptForm s5 := h4.upd.raise _
  have h6 : KeptForm s6 := .ite h5.upd h5
  exact h6.dropSchedule

theorem KeptForm.secMode (hs : KeptForm s) (session v : W64) : KeptForm (s.secMode session v) :=
  .ite ((hs.setMaint _ _).debugEnter _) (hs.setMaint _ _)

theorem KeptForm.authDenied (hs : KeptForm s) (p : Port) : KeptForm (s.authDenied p) :=
  hs.upd.raise _

theorem KeptForm.draw (hs : KeptForm s) : KeptForm s.draw :=
  hs.upd

theorem KeptForm.attFail (hs : KeptForm s) (code : Nat) : KeptForm (s.attFail code) :=
  hs.upd

theorem KeptForm.attCmd (hs : KeptForm s) (p : Port) (v : W64) : KeptForm (s.attCmd p v) :=
  .ite hs.upd (.ite (hs.raise _) (.ite (hs.upd.attFail _) (.ite ((hs.upd.attFail _).raise _) hs.upd)))

theorem KeptForm.b2Bad (hs : KeptForm s) : KeptForm s.b2Bad :=
  hs.upd

theorem KeptForm.drainedRefuse (hs : KeptForm s) : KeptForm s.drainedRefuse :=
  hs.upd

theorem KeptForm.hostWrote (hs : KeptForm s) (a n : Nat) : KeptForm (s.hostWrote a n) :=
  hs.upd

theorem KeptForm.completerAbort (hs : KeptForm s) : KeptForm s.completerAbort :=
  (hs.send _).send _

theorem KeptForm.b2Win (hs : KeptForm s) (v : W64) : KeptForm (s.b2Win v).1 := by
  unfold State.b2Win
  dsimp only
  split
  · exact hs
  · exact hs.upd

theorem KeptForm.hbqCmd (hs : KeptForm s) (p : Port) (v : W64) : KeptForm (s.hbqCmd p v) :=
  .ite (hs.raise _) hs.upd

theorem KeptForm.hostBargeEnd (hs : KeptForm s) (code : W16) : KeptForm (s.hostBargeEnd code) :=
  .ite (hs.upd.msix _) hs.upd

theorem KeptForm.sendPending (hs : KeptForm s) : KeptForm s.sendPending :=
  .ite hs (hs.upd.foldl fun _ _ h1 => h1.send _)

theorem KeptForm.stopRings (hs : KeptForm s) : KeptForm s.stopRings :=
  hs.upd

theorem KeptForm.linkDown (hs : KeptForm s) : KeptForm s.linkDown :=
  .ite hs (hs.upd.freeSems _ _)

theorem KeptForm.resetHostPort (hs : KeptForm s) : KeptForm s.resetHostPort :=
  hs.linkDown.stopRings.upd

theorem KeptForm.modBarge (hs : KeptForm s) (b : BargeRef) (f : Barge → Barge) : KeptForm (s.modBarge b f) := by
  unfold State.modBarge
  split
  · exact hs.modReach _ _
  · exact hs.upd

theorem KeptForm.endBarge (hs : KeptForm s) (b : BargeRef) (code : W16) : KeptForm (s.endBarge b code) := by
  unfold State.endBarge
  split
  · exact hs.endReachBarge _ _ _
  · exact hs.hostBargeEnd _

theorem KeptForm.failBarge (hs : KeptForm s) (b : BargeRef) (g : Barge) (e : Ev) : KeptForm (s.failBarge b g e) :=
  KeptForm.endBarge (by
    split
    · exact .ite (hs.raise _) ((KeptForm.ite ((hs.raise _).stopUnit _) (hs.raise _)).failJob _ _)
    · exact hs.raise _) _ _

theorem KeptForm.markedGo (h : KeptForm s) (a : Nat) (bs : List MByte) (fuel : Nat) : KeptForm (s.markedGo a bs fuel) := by
  induction fuel generalizing s a bs with
  | zero => exact h
  | succ f ih => exact .ite h (ih (h.writeLine _ _ _) _ _)

theorem KeptForm.markedWrite (hs : KeptForm s) (a : Nat) (bs : List MByte) : KeptForm (s.markedWrite a bs) :=
  hs.markedGo _ _ _

theorem KeptForm.digestTakes (hs : KeptForm s) (b : BargeRef) (dig : Bool) (row : List MByte) : KeptForm (s.digestTakes b dig row) :=
  .ite (hs.modBarge _ _) hs

theorem KeptForm.bargeWrote (hs : KeptForm s) (b : BargeRef) (a n : Nat) : KeptForm (s.bargeWrote b a n) :=
  .ite (hs.hostWrote _ _) hs

theorem KeptForm.sendData (h : KeptForm s) (to_ ctx job : Nat) (bs : List Byte) (fuel : Nat) : KeptForm (s.sendData to_ ctx job bs fuel)
    := by
  induction fuel generalizing s to_ bs with
  | zero => exact h
  | succ f ih => exact .ite h (ih (h.sendFrame _ _ _ _ _ _ _ _) _ _)

theorem KeptForm.putRow (hs : KeptForm s) (b : BargeRef) (d : BDesc) (ctx job r : Nat) (row : List MByte) : KeptForm (s.putRow b d ctx job
    r row).1 := by
  unfold State.putRow
  split
  · exact (hs.markedWrite _ _).bargeWrote _ _ _
  · exact .ite hs (.ite (hs.send _) (hs.sendData _ _ _ _ _))

theorem KeptForm.copyRows (h : KeptForm s) (b : BargeRef) (d : BDesc) (ctx job : Nat) (input : List Byte) (r rows : Nat) :
    KeptForm (s.copyRows b d ctx job input r rows).1 := by
  induction rows generalizing s r with
  | zero => exact h
  | succ k ih =>
    unfold State.copyRows
    extract_lets row s1 s2
    have h1 : KeptForm s1 := .ite (h.send _) h
    have h2 : KeptForm s2 := .ite (h1.notePoison _ _ _) h1
    have h3 := (h2.digestTakes b d.dig row).putRow b d ctx job r row
    split
    next hPut =>
      rw [hPut] at h3
      split
      · exact h3
      · exact ih h3 _

theorem KeptForm.askRow (h : KeptForm s) (n t : Nat) (d : BDesc) (ctx job src dst len fuel : Nat) :
    KeptForm (s.askRow n t d ctx job src dst len fuel) := by
  induction fuel generalizing s src dst len with
  | zero => exact h
  | succ f ih => exact .ite h (ih ((h.sendFrame _ _ _ _ _ _ _ _).modCpl _) _ _ _)

theorem KeptForm.askRows (hs : KeptForm s) (b : BargeRef) (d : BDesc) (ctx job : Nat) : KeptForm (s.askRows b d ctx job) := by
  unfold State.askRows
  split
  · exact hs.foldl fun _ _ h1 => h1.askRow _ _ _ _ _ _ _ _ _
  · exact hs

theorem KeptForm.bargeInexact (hs : KeptForm s) (b : BargeRef) (g : Barge) (sigma : Int) (a : Nat) : KeptForm (s.bargeInexact b g sigma a) :=
  (hs.raise _).modBarge _ _

theorem KeptForm.barge_put (h : KeptForm s) (b : BargeRef) (a : Nat) (bs : List MByte) :
    KeptForm ((s.markedWrite a bs).bargeWrote b a bs.length) := (h.markedWrite _ _).bargeWrote _ _ _

theorem KeptForm.moveKind (h : KeptForm s) (b : BargeRef) (g : Barge) (d : BDesc) : KeptForm (s.moveKind b g d) := by
  unfold State.moveKind
  extract_lets +onlyGivenNames w rows put s1 s2
  have h1 : KeptForm s1 := .ite h (h.foldl fun _ _ hu => hu.notePoison _ _ _)
  have h2 : KeptForm s2 := .ite h1 (h1.foldl fun _ _ hu => hu.digestTakes _ _ _)
  split
  · exact h2.foldl fun _ _ hu => hu.barge_put _ _ _
  · exact h2.foldl fun _ _ hu => hu.barge_put _ _ _
  · refine h2.foldl fun _ _ hu => KeptForm.foldl ?_ fun _ _ hv => hv.bargeInexact _ _ _ _
    exact (((hu.barge_put _ _ _).barge_put _ _ _).barge_put _ _ _).barge_put _ _ _
  · exact h2.foldl fun _ _ hu => hu.barge_put _ _ _

theorem KeptForm.bargePoison (hs : KeptForm s) (b : BargeRef) (g : Barge) : KeptForm (s.bargePoison b g) := by
  unfold State.bargePoison
  split
  · exact hs.failBarge _ _ _
  · split
    · exact hs.failBarge _ _ _
    · exact hs.endBarge _ _

theorem KeptForm.dispatch (h : KeptForm s) (b : BargeRef) (kinds : Nat → Bool) (input : List Byte) (cut : Bool) :
    KeptForm (s.dispatch b kinds input cut) := by
  unfold State.dispatch
  split
  · exact h
  extract_lets +onlyGivenNames d host
  refine .ite h (.ite (h.failBarge _ _ _) (.ite ((KeptForm.ite (h.raise _) h).endBarge _ _) ?_))
  split
  · exact h.failBarge _ _ _
  extract_lets +onlyGivenNames s1 s2 s3 ctx
  have h2 : KeptForm s2 := (h.foldl fun _ _ hu => hu.llc _ _ _).foldl fun _ _ hu => hu.llc _ _ _
  have h3 : KeptForm s3 := h2.bump.modBarge _ _
  refine .ite (h3.moveKind _ _ _) (.ite (h3.askRows _ _ _ _) ?_)
  extract_lets +onlyGivenNames rows first
  have hRows := h3.copyRows b d ctx (Barge.job ‹_›) input 0 rows
  split
  next s4 stop hCopied =>
    rw [hCopied] at hRows
    clear_value s3
    have h4 : KeptForm s4 := hRows
    refine .ite ?_ (.ite ?_ h4)
    · split
      · exact h4.failBarge _ _ _
      · exact h4.bargePoison _ _
    · extract_lets +onlyGivenNames rest s5 s6 s7
      have h5 : KeptForm s5 := .ite h4 (h4.send _)
      have h6 : KeptForm s6 := .ite h5 (h5.putRow _ _ _ _ _ _)
      clear_value s6
      exact (KeptForm.raise (KeptForm.send h6.upd _) _).endBarge _ _

theorem KeptForm.putFlashCmd (h : KeptForm s) (cmd : W64) : KeptForm { s with prf := { s.prf with flashCmd := cmd } } := h.upd

theorem KeptForm.beginFlashOp (h : KeptForm s) (cmd : W64) (done : W32) (op : Option FlashOp) :
    KeptForm { s with prf := { s.prf with flashCmd := cmd, flashDone := done, flashOp := op } } := h.upd

theorem KeptForm.flashCmd (h : KeptForm s) (p : Port) (v : W64) : KeptForm (s.flashCmd p v) :=
  .ite (h.putFlashCmd _) (.ite (h.raise _) (h.beginFlashOp _ _ _))

theorem KeptForm.flashDo (hs : KeptForm s) (q : FlashOp) (k : Nat) : KeptForm (s.flashDo q k) := by
  unfold State.flashDo
  split
  · exact hs.write _ _ _
  · exact hs.flashErase _ _
  · exact hs.bump.flashWrite _ _

theorem KeptForm.uncorr (hs : KeptForm s) (p : Fin 8) (words : Nat) : KeptForm (s.uncorr p words) :=
  .ite hs (hs.modCpl _)

theorem KeptForm.frameBad (hs : KeptForm s) (p : Fin 8) : KeptForm (s.frameBad p) :=
  hs.modCpl _

theorem KeptForm.ackUpTo (hs : KeptForm s) (p n : Nat) (ack : W32) : KeptForm (s.ackUpTo p n ack) :=
  .ite ((hs.modFlow _ _ _).foldl fun _ _ h1 => h1.emitFrame _ _ _) (hs.modFlow _ _ _)

theorem KeptForm.receive (h : KeptForm s) {x : RxFrame} {ftype : Nat} {form : Bool} {act : State → State}
    (hAct : ∀ t, KeptForm t → KeptForm (act t)) : KeptForm (s.receive x ftype form act) := by
  have hWords : KeptForm (if s.dev.held || !s.cpl.pcs.getLsbD x.port.val then s else s.uncorr x.port x.words) := .ite h (h.uncorr _ _)
  have hAcked := hWords.ackUpTo x.port.val x.src.toNat x.ack
  exact .ite hWords (.ite (hWords.frameBad _) (.ite (hAct _ hAcked)
    (.ite ((hAct _ (hAcked.modFlow _ _ _)).sendPlain _ _ _ _) (.ite (hAcked.sendPlain _ _ _ _) hAcked))))

theorem KeptForm.nak (hs : KeptForm s) (a1 : RxFrame) (reason : Nat) : KeptForm (s.nak a1 reason) :=
  (hs.modCpl _).sendFrame _ _ _ _ _ _ _ _

theorem KeptForm.landRead (hs : KeptForm s) (r : RemRead) (bs : List MByte) : KeptForm (s.landRead r bs) := by
  unfold State.landRead
  split
  · exact hs
  · split
    · exact hs
    · exact .ite (KeptForm.markedWrite (by
    split
    · exact (hs.digestTakes _ _ _).modStep _ _
    · exact hs.digestTakes _ _ _) _ _) (.ite (((KeptForm.ite (by
    split
    · exact (hs.digestTakes _ _ _).modStep _ _
    · exact hs.digestTakes _ _ _) (.ite (KeptForm.send (by
    split
    · exact (hs.digestTakes _ _ _).modStep _ _
    · exact hs.digestTakes _ _ _) _) (KeptForm.sendData (by
    split
    · exact (hs.digestTakes _ _ _).modStep _ _
    · exact hs.digestTakes _ _ _) _ _ _ _ _))).dropReads _).bargePoison _ _) (.ite (by
    split
    · exact (hs.digestTakes _ _ _).modStep _ _
    · exact hs.digestTakes _ _ _) (.ite (KeptForm.send (by
    split
    · exact (hs.digestTakes _ _ _).modStep _ _
    · exact hs.digestTakes _ _ _) _) (KeptForm.sendData (by
    split
    · exact (hs.digestTakes _ _ _).modStep _ _
    · exact hs.digestTakes _ _ _) _ _ _ _ _))))

theorem KeptForm.refusedEv (hs : KeptForm s) (a1 : RxFrame) (job ctx : Nat) : KeptForm (s.refusedEv a1 job ctx) :=
  hs.raise _

theorem KeptForm.offerKey (hs : KeptForm s) (n keyid : Nat) : KeptForm (s.offerKey n keyid) :=
  .ite hs ((hs.draw.modCpl _).sendCtrl _ _ _ _)

theorem KeptForm.unstall (hs : KeptForm s) (n : Nat) : KeptForm (s.unstall n) :=
  hs.foldl fun _ _ h1 => .ite (h1.foldl fun _ _ h2 => h2.emitFrame _ _ _) h1

theorem KeptForm.installKey (hs : KeptForm s) (n keyid : Nat) : KeptForm (s.installKey n keyid) :=
  .ite ((hs.modCpl _).unstall _) (hs.modCpl _)

theorem KeptForm.peerBad (hs : KeptForm s) (a1 : RxFrame) : KeptForm (s.peerBad a1) :=
  (hs.modCpl _).raise _

theorem KeptForm.receiveKex (h : KeptForm s) {x : RxFrame} {len : Nat} {act : State → State} (hAct : ∀ t, KeptForm t → KeptForm (act t)) :
    KeptForm (s.receiveKex x len act) := h.receive hAct

theorem KeptForm.hello (hs : KeptForm s) (n : Nat) : KeptForm (s.hello n) :=
  hs.foldl fun _ _ h1 => h1.sendPlain _ _ _ _

theorem KeptForm.sendFwd (h : KeptForm s) (n fuel : Nat) : KeptForm (s.sendFwd n fuel) := by
  induction fuel generalizing s with
  | zero => exact h
  | succ f ih => exact .ite h (ih ((h.sendCtrl _ _ _ _).modCpl _))

theorem KeptForm.flushFwd (hs : KeptForm s) : KeptForm s.flushFwd := by
  unfold State.flushFwd
  split
  · exact .ite (hs.sendFwd _ _) hs
  · exact hs

theorem KeptForm.sendJoin (hs : KeptForm s) : KeptForm s.sendJoin :=
  (hs.sendCtrl _ _ _ _).sendCtrl _ _ _ _

theorem KeptForm.rejoin (hs : KeptForm s) : KeptForm s.rejoin :=
  (hs.modCpl _).sendJoin

theorem KeptForm.sendFence (hs : KeptForm s) (loser winner : Nat) (m : W64) : KeptForm (s.sendFence loser winner m) :=
  hs.sendCtrl _ _ _ _

theorem KeptForm.follow (hs : KeptForm s) (n f : Nat) (m : W64) : KeptForm (s.follow n f m) := by
  unfold State.follow
  dsimp only
  split
  · exact (hs.modCpl _).sendCtrl _ _ _ _
  · exact hs.modCpl _

theorem KeptForm.hear (hs : KeptForm s) (n : Nat) (m : W64) (announce : Bool) : KeptForm (s.hear n m announce) :=
  .ite hs (KeptForm.flushFwd (by
    split
    · exact hs.modCpl _
    · exact .ite (hs.modCpl _) (.ite ((hs.follow _ _ _).sendFence _ _ _) (.ite (hs.follow _ _ _) (hs.sendFence _ _ _)))))

theorem KeptForm.askSnapshot (hs : KeptForm s) : KeptForm s.askSnapshot :=
  (hs.modCpl _).sendCtrl _ _ _ _

theorem KeptForm.mirRecord (hs : KeptForm s) (p : Fin 8) (r : MirRec) : KeptForm (s.mirRecord p r) :=
  .ite ((hs.frameBad _).askSnapshot) (.ite hs (hs.modCpl _))

theorem KeptForm.mirAck (hs : KeptForm s) : KeptForm s.mirAck :=
  hs.sendCtrl _ _ _ _

theorem KeptForm.announce (hs : KeptForm s) : KeptForm s.announce :=
  hs.actAll _

theorem KeptForm.receiveCtrl (h : KeptForm s) {x : RxFrame} {cmd len : Nat} {act : State → State}
    (hAct : ∀ t, KeptForm t → KeptForm (act t)) : KeptForm (s.receiveCtrl x cmd len act) := h.receive hAct

theorem KeptForm.memberEntry (hs : KeptForm s) (cycle : Nat) (e : List Byte) : KeptForm (s.memberEntry cycle e) := by
  unfold State.memberEntry
  split
  · exact .ite (hs.modCpl _) ((hs.modCpl _).offerKey _ _)
  · exact hs.modCpl _
  · exact hs

theorem KeptForm.relieve (hs : KeptForm s) (m : Nat) : KeptForm (s.relieve m).1 := by
  unfold State.relieve
  split
  · exact hs
  · exact (((hs.modCpl _).mirror _ _).act _ _ _).actAll _

theorem KeptForm.cplResult (hs : KeptForm s) (st code cycle : Nat) : KeptForm (s.cplResult st code cycle) :=
  hs.modCpl _

theorem KeptForm.cplRefuse (hs : KeptForm s) (p : Port) : KeptForm (s.cplRefuse p) :=
  (hs.raise _).cplResult _ _ _

theorem KeptForm.basinSwitch (hs : KeptForm s) (p : Port) (slot delay : Nat) : KeptForm (s.basinSwitch p slot delay) :=
  .ite (hs.cplRefuse _) (((KeptForm.ite ((((hs.modCpl _).mirror _ _).actAll _).act _ _ _) (((hs.modCpl _).mirror _ _).actAll _)).prepareSlot
    _ _).cplResult _ _ _)

theorem KeptForm.cplCmd (h : KeptForm s) (p : Port) (v : W64) : KeptForm (s.cplCmd p v).1 := by
  unfold State.cplCmd
  extract_lets op slot m d old badDelay delay badOp s1 s2
  have h1 : KeptForm s1 := h.modCpl _
  have h2 : KeptForm s2 := h1.modCpl _
  clear_value s1 s2
  split
  · exact h1
  refine .ite (h2.basinSwitch _ _ _) (.ite (.ite ((h2.leave _).cplResult _ _ _) (h2.cplRefuse _))
    (.ite (.ite (h2.rejoin.cplResult _ _ _) (h2.cplRefuse _)) (.ite (h2.cplRefuse _) ?_)))
  have h3 := h2.relieve m
  split
  · next hRelieved =>
    rw [hRelieved] at h3
    exact h3.cplResult _ _ _
  · next hRelieved =>
    rw [hRelieved] at h3
    exact h3.cplRefuse _

theorem KeptForm.unsync (hs : KeptForm s) : KeptForm s.unsync :=
  .ite hs ((hs.modCpl _).raise _)

theorem KeptForm.resync (hs : KeptForm s) : KeptForm s.resync :=
  .ite ((hs.modCpl _).raise _) (((hs.modCpl _).raise _).prepareSlot _ _)

theorem KeptForm.firstKeys (hs : KeptForm s) : KeptForm s.firstKeys :=
  hs.foldl fun _ _ h1 => .ite (h1.offerKey _ _) h1

theorem KeptForm.clrWrite (h : KeptForm s) {off v : Nat} (ht : s.clrWrite off v = some t) : KeptForm t := by
  unfold State.clrWrite at ht
  split at ht
  case h_9 =>
    split at ht
    · simp at ht
    split at ht
    · obtain ⟨x, -, rfl⟩ := Option.map_eq_some_iff.mp ht
      exact h.upd
    split at ht
    · split at ht
      · obtain rfl := Option.some.inj ht
        exact h.modMdie _ _
      · simp at ht
    split at ht
    · simp at ht
    split at ht
    · split at ht
      · obtain rfl := Option.some.inj ht
        exact h.modNmu _ _
      · simp at ht
    · simp at ht
  all_goals
    obtain rfl := Option.some.inj ht
    exact h.upd

theorem KeptForm.rwl (h : KeptForm s) {p : Port} {n : Fin 32} {f : State → State × Bool} (hf : ∀ t, KeptForm t → KeptForm (f t).1) :
    KeptForm (s.rwl p n f).1 := by
  unfold State.rwl
  split
  · exact hf s h
  · exact h.semRefuse

theorem KeptForm.keep (h : KeptForm s) {f : State → State} (hf : ∀ t, KeptForm t → KeptForm (f t)) : KeptForm (Machine.keep f s).1 := hf s h

theorem KeptForm.narCtl (hs : KeptForm s) (v : W64) : KeptForm (s.narCtl v) := by
  unfold State.narCtl
  dsimp only
  split
  · exact hs
  · exact (hs.modJob _ _).unlessForced (fun _ h1 => h1.trapRequests _)

theorem KeptForm.prfCmdWrite (hs : KeptForm s) (p : Port) (v : W64) : KeptForm (s.prfCmdWrite p v).1 := by
  unfold State.prfCmdWrite
  dsimp only
  split
  · exact hs.upd
  · split
    · exact .ite (hs.prfBusy _ _) (hs.warmReset _ _)
    · exact hs.prfCmd _ _

theorem KeptForm.flashAddrWrite (hs : KeptForm s) (v : W64) : KeptForm (s.flashAddrWrite v) :=
  hs.upd

theorem KeptForm.flashDevWrite (hs : KeptForm s) (v : W64) : KeptForm (s.flashDevWrite v).1 := by
  unfold State.flashDevWrite
  split
  · exact hs
  · exact hs.upd

theorem KeptForm.flashReg (hs : KeptForm s) (p : Port) (off : Nat) (v : W64) : KeptForm (s.flashReg p off v).1 := by
  unfold State.flashReg
  split
  · exact hs.keep (fun _ h1 => h1.flashAddrWrite _)
  · exact hs.flashDevWrite _
  · exact hs.keep (fun _ h1 => h1.flashCmd _ _)

theorem KeptForm.floorWrite (hs : KeptForm s) (v : W64) : KeptForm (s.floorWrite v).1 := by
  unfold State.floorWrite
  split
  · exact hs
  · exact hs.upd.demandMoved

theorem KeptForm.hbqCfg (hs : KeptForm s) (v : W64) : KeptForm (s.hbqCfg v) :=
  hs.upd

theorem KeptForm.collHiWrite (hs : KeptForm s) (v : W64) : KeptForm (s.collHiWrite v) :=
  hs.upd

theorem KeptForm.collLoWrite (hs : KeptForm s) (v : W64) : KeptForm (s.collLoWrite v) :=
  hs.upd

theorem KeptForm.reachReg (h : KeptForm s) (p : Port) (n : Fin 16) (off : Nat) (v : W64) :
    KeptForm (match off with
      | 0x100 => (s.modReach n fun x => { x with qlane := BitVec.ofNat 8 (bits v.toNat 9 8), qword := BitVec.ofNat 9 (bits v.toNat 0 9) }, 0)
      | 0x208 => s.rwl p 3 (Machine.keep fun s => s.sfuReload n p v)
      | 0x210 => s.rwl p 3 (Machine.keep fun s => if bitAt v.toNat 0 then s.sfuSwitch n p else s)
      | _ => (s, 0)).1 := by
  split
  · exact h.modReach _ _
  · exact h.rwl fun _ ht => ht.keep fun _ hu => hu.sfuReload _ _ _
  · exact h.rwl fun _ ht => ht.keep fun _ hu => .ite (hu.sfuSwitch _ _) hu
  · exact h

theorem KeptForm.egrReg (h : KeptForm s) (p : Port) (e off : Nat) (v : W64) :
    KeptForm (match off with
      | 0x00 => s.rwl p 4 fun s => s.egrBase e v
      | 0x08 => s.rwl p 4 fun s => s.egrCfg e v
      | 0x10 => (s.egrHead e v, 0)
      | _ => (s, 0)).1 := by
  split
  · exact h.rwl fun _ ht => ht.egrBase _ _
  · exact h.rwl fun _ ht => ht.egrCfg _ _
  · exact h.egrHead _ _
  · exact h

theorem KeptForm.plainWrite (h : KeptForm s) (p : Port) (off : Nat) (v : W64) : KeptForm (s.plainWrite p off v).1 := by
  unfold State.plainWrite
  dsimp only
  split
  · exact h.semWrite _ _ _
  split
  · exact h.rwl fun _ ht => ht.prfCmdWrite _ _
  · exact h.rwl fun _ ht => ht.flashReg _ _ _
  · exact h.rwl fun _ ht => ht.flashReg _ _ _
  · exact h.rwl fun _ ht => ht.flashReg _ _ _
  · exact h.abort _ _
  · exact h.narCtl _
  · exact h.ctxCmd _ _
  · exact h.rwl fun _ ht => ht.b2Win _
  · exact h.hbqCmd _ _
  · exact h.rwl fun _ ht => ht.keep fun _ hu => hu.hbqCfg _
  · exact h.rwl fun _ ht => ht.keep fun _ hu => hu.collHiWrite _
  · exact h.rwl fun _ ht => ht.keep fun _ hu => hu.collLoWrite _
  · exact h.rwl fun _ ht => ht.cplCmd _ _
  · exact h.rwl fun _ ht => ht.keep fun _ hu => hu.attCmd _ _
  · exact h.rwl fun _ ht => ht.rasBase _
  · exact h.rwl fun _ ht => ht.rasCfg _
  · exact h.rasHead _
  · exact h.rwl fun _ ht => ht.floorWrite _
  · split
    · exact h.egrReg p _ _ v
    split
    · exact h.reachReg p _ _ v
    · exact h

theorem KeptForm.secModeWrite (hs : KeptForm s) (p : Port) (v : W64) : KeptForm (s.secModeWrite p v).1 := by
  unfold State.secModeWrite
  split
  · exact hs.authDenied _
  · split
    · split
      · exact hs.authDenied _
      · split
        · exact hs.drainedRefuse
        · exact hs.secMode _ _
    · exact hs

theorem KeptForm.regWrite (h : KeptForm s) (p : Port) (off : Nat) (v : W64) : KeptForm (s.regWrite p off v).1 := by
  unfold State.regWrite
  split
  · split
    · exact h.flashReg p off v
    · exact h
  split
  · exact h
  split
  · exact h.secModeWrite p v
  split
  · next hClr => exact h.clrWrite hClr
  · split
    · exact h.drainedRefuse
    · exact h.plainWrite p off v

theorem KeptForm.badAccess (hs : KeptForm s) : KeptForm s.badAccess :=
  hs.upd

theorem KeptForm.portWrite (hs : KeptForm s) (p : Port) (off : Nat) (v : W64) : KeptForm (s.portWrite p off v) :=
  .ite hs (.ite hs.badAccess (hs.regWrite _ _ _))

theorem KeptForm.authFail (hs : KeptForm s) : KeptForm s.authFail :=
  hs.upd

theorem KeptForm.empSend (hs : KeptForm s) (q : EmpReq) (status : Nat) (reply : List Byte) : KeptForm (s.empSend q status reply) :=
  hs.send _

theorem KeptForm.empAnswer (hs : KeptForm s) (i : Fin 4) (q : EmpReq) (status : Nat) (reply : List Byte) : KeptForm (s.empAnswer i q
    status reply) :=
  .ite ((hs.modSess _ _).empSend _ _ _) hs

theorem KeptForm.emp (h : KeptForm s) {q : EmpReq} {maint form : Bool} {f : Fin 4 → State → EmpRes}
    (hf : ∀ i t, KeptForm t → KeptForm (f i t).1) : KeptForm (s.emp q maint form f) := by
  unfold State.emp
  split
  · exact h
  · exact h.authFail
  · exact h.empSend _ _ _
  · exact h.empSend _ _ _
  · exact .ite ((h.authDenied _).empAnswer _ _ _ _) (.ite (h.empAnswer _ _ _ _) ((hf _ _ h).empAnswer _ _ _ _))

theorem KeptForm.empPairs (h : KeptForm s) (q : EmpReq) (p : Port) : KeptForm (s.empPairs q p).1 := by
  unfold State.empPairs
  refine KeptForm.foldlFst (p := (s, [])) h fun _ _ hq => ?_
  exact hq.regWrite _ _ _

theorem KeptForm.attest (hs : KeptForm s) (q : EmpReq) (i : Fin 4) : KeptForm (s.attest q i).1 := by
  unfold State.attest
  split
  · exact hs
  · split
    · split
      · exact hs.raise _
      · exact hs.draw.modSess _ _
    · split <;> exact hs

theorem KeptForm.ackRecords (hs : KeptForm s) (n : W32) : KeptForm (s.ackRecords n) :=
  hs.upd

theorem KeptForm.sessionReq (h : KeptForm s) {q : EmpReq} {f : State → EmpRes} (hf : ∀ t, KeptForm t → KeptForm (f t).1) :
    KeptForm (s.sessionReq q f) :=
  .ite h (.ite h.authFail (.ite (h.empSend _ _ _) ((hf _ h).empSend _ _ _)))

theorem KeptForm.sessionRefused (hs : KeptForm s) (scope : Nat) : KeptForm (s.sessionRefused scope) :=
  hs.raise _

theorem KeptForm.openSession (hs : KeptForm s) (q : EmpReq) (i : Fin 4) : KeptForm (s.openSession q i).1 :=
  hs.upd

theorem KeptForm.maintClear (hs : KeptForm s) (q : EmpReq) (op : Nat) (good there flash : Bool) (i : Fin 4) : KeptForm (s.maintClear q op
    good there flash i).1 := by
  unfold State.maintClear
  split
  · exact hs
  · split
    · exact hs
    · split
      · exact hs
      · exact (hs.flogFlush.flogAppend _).raise _

theorem KeptForm.mgtLink (hs : KeptForm s) (up : Bool) : KeptForm (s.mgtLink up) :=
  hs.upd

theorem KeptForm.modChan (hs : KeptForm s) (d : Fin 4) (i : Fin 8) (f : Chan → Chan) : KeptForm (s.modChan d i f) :=
  hs.modMdie _ _

theorem KeptForm.redirect (hs : KeptForm s) (d : Fin 4) (i : Fin 8) (bank row idx : Nat) (st : RowState) : KeptForm (s.redirect d i bank
    row idx st) :=
  (hs.modChan _ _ _).oweLog _

theorem KeptForm.rowEvent (hs : KeptForm s) (code : Nat) (d : Fin 4) (i : Fin 8) (bank row : Nat) : KeptForm (s.rowEvent code d i bank
    row) :=
  hs.raise _

theorem KeptForm.tableFull (hs : KeptForm s) (d : Fin 4) (i : Fin 8) : KeptForm (s.tableFull d i) :=
  ((KeptForm.ite hs (hs.oweLog _)).modChan _ _ _).raise _

theorem KeptForm.rowFails (hs : KeptForm s) (d : Fin 4) (i : Fin 8) (bank row : Nat) : KeptForm (s.rowFails d i bank row) :=
  .ite (hs.modChan _ _ _) (by
    split
    · exact (hs.modChan _ _ _).tableFull _ _
    · exact .ite ((hs.modChan _ _ _).redirect _ _ _ _ _ _) (.ite (hs.modChan _ _ _) (.ite (((hs.modChan _ _ _).redirect _ _ _ _ _ _).rowEvent
        _ _ _ _ _) (((hs.modChan _ _ _).redirect _ _ _ _ _ _).rowEvent _ _ _ _ _))))

theorem KeptForm.rowCorrected (hs : KeptForm s) (d : Fin 4) (i : Fin 8) (bank row : Nat) : KeptForm (s.rowCorrected d i bank row) := by
  unfold State.rowCorrected
  dsimp only
  split
  · exact .ite ((hs.modChan _ _ _).rowFails _ _ _ _) (hs.modChan _ _ _)
  · exact hs.modChan _ _ _

theorem KeptForm.quarantine (hs : KeptForm s) (line : Nat) (d : Fin 4) : KeptForm (s.quarantine line d) :=
  .ite hs (.ite (((hs.foldl fun _ _ h1 => h1.modMdie _ _).modMdie _ _).raise _) (hs.raise _))

theorem KeptForm.uncorrectable (h : KeptForm s) (line : Nat) (data : List Byte) (dram dropped : Bool) :
    KeptForm (s.uncorrectable line data dram dropped) := by
  have hBack (bs : List Byte) (marks : List Nat) :
      KeptForm (if dropped then s else { s with mem := putBytes s.mem (64 * line) bs, poison := marks }) := by
    refine .ite h (h.of_mem ?_)
    exact putBytes_wf _ _ _ h.1
  have hNoted (u : State) (hu : KeptForm u) (e : Ev) (f : MDie → MDie) : KeptForm ((u.modMdie (s.eccDie (64 * line)) f).raise e) :=
    (hu.modMdie _ _).raise _
  exact .ite (hBack _ _) (.ite (((hNoted _ (hBack _ _) _ _).modMdie _ _).quarantine _ _) (hNoted _ (hBack _ _) _ _))

theorem KeptForm.lkpError (hs : KeptForm s) (found : Fin 3) : KeptForm (s.lkpError found) :=
  .ite (hs.modMdie _ _) ((hs.modMdie _ _).raise _)

theorem KeptForm.markLine (hs : KeptForm s) (line : Nat) : KeptForm (s.markLine line) :=
  .ite hs.upd hs

theorem KeptForm.modRail (hs : KeptForm s) (r : Fin 9) (f : Rail → Rail) : KeptForm (s.modRail r f) :=
  hs.upd

theorem KeptForm.pmbusErr (hs : KeptForm s) : KeptForm s.pmbusErr :=
  hs.upd

theorem KeptForm.readStatus (hs : KeptForm s) (r : Fin 9) (w : W16) : KeptForm (s.readStatus r w) :=
  .ite ((hs.modRail _ _).raise _) (hs.modRail _ _)

theorem KeptForm.pollRail (hs : KeptForm s) (r : Fin 9) (a1 : Option RailRead) : KeptForm (s.pollRail r a1) := by
  unfold State.pollRail
  split
  · exact hs.pmbusErr.modRail _ _
  · split
    · exact (hs.modRail _ _).readStatus _ _
    · exact hs.modRail _ _

theorem KeptForm.showRails (hs : KeptForm s) : KeptForm s.showRails :=
  .ite hs.upd hs

theorem KeptForm.averagePower (hs : KeptForm s) : KeptForm s.averagePower :=
  hs.upd

theorem KeptForm.hostLinkLost (hs : KeptForm s) : KeptForm s.hostLinkLost :=
  hs.resetHostPort.upd

theorem KeptForm.setClk (hs : KeptForm s) (k : Nat) (on : Bool) : KeptForm (s.setClk k on) :=
  hs.upd

theorem KeptForm.ppsLost (hs : KeptForm s) : KeptForm s.ppsLost :=
  hs.raise _

theorem KeptForm.tqEff (hs : KeptForm s) (n : Fin 16) (w : CtlWord) : KeptForm (Machine.tqEff n w s) :=
  .ite (hs.consumePoison _) (by
    split
    · exact hs.failAt _ _ _ _ _ _
    · exact hs.await _ _)

theorem KeptForm.dupDone (hs : KeptForm s) (n : Fin 16) (k : Nat) (d : Dup) : KeptForm (s.dupDone n k d) :=
  ((hs.modReach _ _).lateStart _).tryPost _

theorem KeptForm.countTile (hs : KeptForm s) : KeptForm s.countTile :=
  hs.upd.perfOvf _ _ _ _

theorem KeptForm.decided (hs : KeptForm s) (n : Fin 16) (k : Nat) (d : Dup) : KeptForm (s.decided n k d) :=
  hs.countTile.dupDone _ _ _

theorem KeptForm.setDup (hs : KeptForm s) (n : Fin 16) (k : Nat) (d : Dup) : KeptForm (s.setDup n k d) :=
  hs.modReach _ _

theorem KeptForm.faultEvent (hs : KeptForm s) (code n : Nat) (d : Dup) (d0 d1 : Nat) : KeptForm (s.faultEvent code n d d0 d1) :=
  hs.raise _

theorem KeptForm.mismatch (hs : KeptForm s) (n : Fin 16) (k : Nat) (d : Dup) (sig : W64) : KeptForm (s.mismatch n k d sig) :=
  ((hs.upd.faultEvent _ _ _ _ _).setDup _ _ _).setDup _ _ _

theorem KeptForm.permanent (hs : KeptForm s) (n : Fin 16) (k : Nat) (d : Dup) (named : List Nat) : KeptForm (s.permanent n k d named) :=
  ((hs.foldl fun _ _ h1 => h1.faultEvent _ _ _ _ _).foldl fun _ _ h1 => h1.drainDevice _ _ _).decided _ _ _

theorem KeptForm.transient (hs : KeptForm s) (n : Fin 16) (k : Nat) (d : Dup) : KeptForm (s.transient n k d) :=
  .ite (((hs.upd.faultEvent _ _ _ _ _).decided _ _ _).transientPrimary _ _) ((hs.upd.faultEvent _ _ _ _ _).decided _ _ _)

theorem KeptForm.modTest (hs : KeptForm s) (n : Fin 16) (f : TestSt → TestSt) : KeptForm (s.modTest n f) :=
  hs.modReach _ _

theorem KeptForm.testLanes (hs : KeptForm s) (n : Fin 16) (bad : BitVec 256) : KeptForm (s.testLanes n bad) :=
  (hs.foldl fun _ _ h1 => .ite (h1.raise _) h1).modTest _ _

theorem KeptForm.testFail (hs : KeptForm s) (n : Fin 16) (kernel : Nat) (bad : BitVec 256) (outside : Bool) : KeptForm (s.testFail n
    kernel bad outside) :=
  (hs.upd.modTest _ _).raise _

theorem KeptForm.execTileMac (hs : KeptForm s) (n : Fin 16) : NextKept (Machine.execTileMac n s) :=
  (hs.tileIssue (fun _ _ h1 => h1.macEff _ _)).next

theorem KeptForm.execWload (hs : KeptForm s) (n : Fin 16) : NextKept (Machine.execWload n s) :=
  (hs.tileIssue (fun _ _ h1 => h1.wloadEff _ _)).next

theorem KeptForm.execWloadComplete (hs : KeptForm s) (n : Fin 16) : NextKept (Machine.execWloadComplete n s) := by
  unfold Machine.execWloadComplete
  refine KeptForm.next ?_
  split
  · exact (hs.modWs _ _ _).modReach _ _
  · exact hs

theorem KeptForm.execTileElem (hs : KeptForm s) (n : Fin 16) : NextKept (Machine.execTileElem n s) :=
  (hs.tileIssue (fun _ _ h1 => h1.issueMul _ _ _ _ _ _)).next

theorem KeptForm.execOpen (hs : KeptForm s) (n : Fin 16) : NextKept (Machine.execOpen n s) :=
  (hs.tileIssue (fun _ _ h1 => h1.modReach _ _)).next

theorem KeptForm.execClose (hs : KeptForm s) (n : Fin 16) : NextKept (Machine.execClose n s) :=
  (hs.tileIssue (fun _ _ h1 => (((h1.tileTouch _ _).foldRows (fun _ _ h2 => h2.closeRow _ _ _ _ _) _).closeGrp _ _).trapIf _ _)).next

theorem KeptForm.execFwpw (hs : KeptForm s) (n : Fin 16) : NextKept (Machine.execFwpw n s) :=
  (hs.tileIssue (fun _ _ h1 => (KeptForm.ite (((h1.tileTouch _ _).foldRows (fun _ _ h2 => h2.fwpwRow _ _ _ _ _) _).closeGrp _ _)
    ((h1.tileTouch _ _).foldRows (fun _ _ h2 => h2.fwpwRow _ _ _ _ _) _)).trapIf _ _)).next

theorem KeptForm.execSlotadd (hs : KeptForm s) (n : Fin 16) : NextKept (Machine.execSlotadd n s) :=
  (hs.tileIssue (fun _ _ h1 => .ite (h1.slotaddEntries _ _) (h1.slotaddRecs _ _))).next

theorem KeptForm.execSlotUpdate (hs : KeptForm s) (n : Fin 16) : NextKept (Machine.execSlotUpdate n s) := by
  unfold Machine.execSlotUpdate
  refine KeptForm.next ?_
  split
  · exact hs
  · exact (((hs.modReach _ _).landCycle _ _).trapIf _ _).settle _

theorem KeptForm.execAdd (hs : KeptForm s) (r : Res) (w : CtlWord) : NextKept (Machine.execAdd r w s) :=
  (hs.scalar2 _ _ _).next

theorem KeptForm.execSub (hs : KeptForm s) (r : Res) (w : CtlWord) : NextKept (Machine.execSub r w s) :=
  (hs.scalar2 _ _ _).next

theorem KeptForm.execAnd (hs : KeptForm s) (r : Res) (w : CtlWord) : NextKept (Machine.execAnd r w s) :=
  (hs.scalar2 _ _ _).next

theorem KeptForm.execOr (hs : KeptForm s) (r : Res) (w : CtlWord) : NextKept (Machine.execOr r w s) :=
  (hs.scalar2 _ _ _).next

theorem KeptForm.execXor (hs : KeptForm s) (r : Res) (w : CtlWord) : NextKept (Machine.execXor r w s) :=
  (hs.scalar2 _ _ _).next

theorem KeptForm.execShl (hs : KeptForm s) (r : Res) (w : CtlWord) : NextKept (Machine.execShl r w s) :=
  (hs.scalar2 _ _ _).next

theorem KeptForm.execShr (hs : KeptForm s) (r : Res) (w : CtlWord) : NextKept (Machine.execShr r w s) :=
  (hs.scalar2 _ _ _).next

theorem KeptForm.execSra (hs : KeptForm s) (r : Res) (w : CtlWord) : NextKept (Machine.execSra r w s) :=
  (hs.scalar2 _ _ _).next

theorem KeptForm.execMul (hs : KeptForm s) (r : Res) (w : CtlWord) : NextKept (Machine.execMul r w s) :=
  (hs.scalar2 _ _ _).next

theorem KeptForm.execAddi (hs : KeptForm s) (r : Res) (w : CtlWord) : NextKept (Machine.execAddi r w s) :=
  (hs.scalarImm _ _ _).next

theorem KeptForm.execLi (hs : KeptForm s) (r : Res) (w : CtlWord) : NextKept (Machine.execLi r w s) :=
  (hs.ctlReg (fun _ h1 => h1.modU _ _)).next

theorem KeptForm.execLih (hs : KeptForm s) (r : Res) (w : CtlWord) : NextKept (Machine.execLih r w s) :=
  (hs.scalarImm _ _ _).next

theorem KeptForm.execXld (hs : KeptForm s) (r : Res) (w : CtlWord) : NextKept (Machine.execXld r w s) :=
  (hs.ctl (fun _ h1 => ((h1.touch _ _ _).modU _ _).retire _)).next

theorem KeptForm.execXst (hs : KeptForm s) (r : Res) (w : CtlWord) : NextKept (Machine.execXst r w s) :=
  (hs.ctl (fun _ h1 => (h1.store _ _ _ _).retire _)).next

theorem KeptForm.execSetvl (hs : KeptForm s) (r : Res) (w : CtlWord) : NextKept (Machine.execSetvl r w s) :=
  (hs.ctl (fun _ h1 => (h1.modU _ _).retire _)).next

theorem KeptForm.execBr (hs : KeptForm s) (r : Res) (w : CtlWord) : NextKept (Machine.execBr r w s) :=
  (hs.ctl (fun _ h1 => .ite (h1.modU _ _) (h1.retire _))).next

theorem KeptForm.execWaiteq (hs : KeptForm s) (r : Res) (w : CtlWord) : NextKept (Machine.execWaiteq r w s) :=
  (hs.ctl (fun _ h1 => h1.await _ _)).next

theorem KeptForm.execWaiteqMatch (h : KeptForm s) (r : Res) : NextKept (Machine.execWaiteqMatch r s) := by
  unfold Machine.execWaiteqMatch
  split
  · exact (h.settle r).next
  · exact h.next

theorem KeptForm.execYield (hs : KeptForm s) (r : Res) (w : CtlWord) : NextKept (Machine.execYield r w s) :=
  (hs.ctl (fun _ h1 => h1.await _ _)).next

theorem KeptForm.execEnd (hs : KeptForm s) (r : Res) (w : CtlWord) : NextKept (Machine.execEnd r w s) :=
  (hs.ctl (fun _ h1 => h1.await _ _)).next

theorem KeptForm.execTrap (hs : KeptForm s) (r : Res) (w : CtlWord) : NextKept (Machine.execTrap r w s) :=
  (hs.ctl (fun _ h1 => h1.failAt _ _ _ _ _ _)).next

theorem KeptForm.execVld (hs : KeptForm s) (r : Res) (w : CtlWord) : NextKept (Machine.execVld r w s) :=
  (hs.ctl (fun _ h1 => ((((h1.foldl fun _ _ h2 => h2.touch _ _ _).modU _ _).trapIf _ _).vecBusy _ _).retire _)).next

theorem KeptForm.execVst (hs : KeptForm s) (r : Res) (w : CtlWord) : NextKept (Machine.execVst r w s) :=
  (hs.ctl (fun _ h1 => (((KeptForm.ite (h1.storeRow _ _ _) (h1.foldl fun _ _ h2 => h2.store _ _ _ _)).trapIf _ _).vecBusy _ _).retire _)).next

theorem KeptForm.execVadd (hs : KeptForm s) (r : Res) (w : CtlWord) : NextKept (Machine.execVadd r w s) :=
  (hs.vecOp _ _ _ _ _ _).next

theorem KeptForm.execVsub (hs : KeptForm s) (r : Res) (w : CtlWord) : NextKept (Machine.execVsub r w s) :=
  (hs.vecOp _ _ _ _ _ _).next

theorem KeptForm.execVmul (hs : KeptForm s) (r : Res) (w : CtlWord) : NextKept (Machine.execVmul r w s) :=
  (hs.vecOp _ _ _ _ _ _).next

theorem KeptForm.execVfma (hs : KeptForm s) (r : Res) (w : CtlWord) : NextKept (Machine.execVfma r w s) :=
  (hs.vecOp _ _ _ _ _ _).next

theorem KeptForm.execVmax (hs : KeptForm s) (r : Res) (w : CtlWord) : NextKept (Machine.execVmax r w s) :=
  (hs.vecOp _ _ _ _ _ _).next

theorem KeptForm.execVmin (hs : KeptForm s) (r : Res) (w : CtlWord) : NextKept (Machine.execVmin r w s) :=
  (hs.vecOp _ _ _ _ _ _).next

theorem KeptForm.execVabs (hs : KeptForm s) (r : Res) (w : CtlWord) : NextKept (Machine.execVabs r w s) :=
  (hs.vecOp _ _ _ _ _ _).next

theorem KeptForm.execVneg (hs : KeptForm s) (r : Res) (w : CtlWord) : NextKept (Machine.execVneg r w s) :=
  (hs.vecOp _ _ _ _ _ _).next

theorem KeptForm.execVcmp (hs : KeptForm s) (r : Res) (w : CtlWord) : NextKept (Machine.execVcmp r w s) :=
  (hs.ctlReg (fun _ h1 => (h1.writeVec _ _ _ _ _).vecBusy _ _)).next

theorem KeptForm.execVsel (hs : KeptForm s) (r : Res) (w : CtlWord) : NextKept (Machine.execVsel r w s) :=
  (hs.ctlReg (fun _ h1 => (h1.writeVec _ _ _ _ _).vecBusy _ _)).next

theorem KeptForm.execVcvt (hs : KeptForm s) (r : Res) (w : CtlWord) : NextKept (Machine.execVcvt r w s) :=
  (hs.vecOp _ _ _ _ _ _).next

theorem KeptForm.execVsplit (hs : KeptForm s) (r : Res) (w : CtlWord) : NextKept (Machine.execVsplit r w s) :=
  (hs.ctlReg (fun _ h1 => (((((h1.writeVec _ _ _ _ _).writeVec _ _ _ _ _).writeVec _ _ _ _ _).modU _ _).foldl fun _ _ h2 => .ite
    (h2.splitInexact _ _ _) h2).vecBusy _ _)).next

theorem KeptForm.execVsum (hs : KeptForm s) (r : Res) (w : CtlWord) : NextKept (Machine.execVsum r w s) :=
  (hs.vecSum _ _ _).next

theorem KeptForm.execVsumsq (hs : KeptForm s) (r : Res) (w : CtlWord) : NextKept (Machine.execVsumsq r w s) :=
  (hs.vecSum _ _ _).next

theorem KeptForm.execVmaxi (hs : KeptForm s) (r : Res) (w : CtlWord) : NextKept (Machine.execVmaxi r w s) :=
  (hs.vecWinner _ _ _).next

theorem KeptForm.execVmini (hs : KeptForm s) (r : Res) (w : CtlWord) : NextKept (Machine.execVmini r w s) :=
  (hs.vecWinner _ _ _).next

theorem KeptForm.execWinmax (hs : KeptForm s) (r : Res) (w : CtlWord) : NextKept (Machine.execWinmax r w s) :=
  (hs.winCombine _ _ _).next

theorem KeptForm.execWinmin (hs : KeptForm s) (r : Res) (w : CtlWord) : NextKept (Machine.execWinmin r w s) :=
  (hs.winCombine _ _ _).next

theorem KeptForm.execSfn (hs : KeptForm s) (r : Res) (w : CtlWord) : NextKept (Machine.execSfn r w s) :=
  (hs.ctlReg (fun _ h1 => (h1.sfuBusy _ _).writeVec _ _ _ _ _)).next

theorem KeptForm.execGate (hs : KeptForm s) (r : Res) (w : CtlWord) : NextKept (Machine.execGate r w s) :=
  (hs.ctlReg (fun _ h1 => (h1.sfuBusy _ _).writeVec _ _ _ _ _)).next

theorem KeptForm.execWcomb (hs : KeptForm s) (r : Res) (w : CtlWord) : NextKept (Machine.execWcomb r w s) :=
  (hs.ctl (fun _ h1 => (h1.foldl fun _ _ h2 => ((((h2.touch _ _ _).touch _ _ _).writeFwp _ _ _).countLimit _ _).trapRec _ _ _ _ _ _
    _).retire _)).next

theorem KeptForm.execWred (hs : KeptForm s) (r : Res) (w : CtlWord) : NextKept (Machine.execWred r w s) :=
  (hs.ctl (fun _ h1 => ((((h1.touch _ _ _).writeFwp _ _ _).countLimit _ _).trapRec _ _ _ _ _ _ _).retire _)).next

theorem KeptForm.execRowstat (hs : KeptForm s) (r : Res) (w : CtlWord) : NextKept (Machine.execRowstat r w s) :=
  (hs.ctl (fun _ h1 => (KeptForm.trapRec (by
    split
    · exact (((((h1.touch _ _ _).touch _ _ _).store _ _ _ _).countRange _ _).countCvt _ _ _).modCnt _ _
    · exact ((((h1.touch _ _ _).touch _ _ _).store _ _ _ _).countRange _ _).countCvt _ _ _) _ _ _ _ _ _ _).retire _)).next

theorem KeptForm.execWround (hs : KeptForm s) (r : Res) (w : CtlWord) : NextKept (Machine.execWround r w s) :=
  (hs.ctl (fun _ h1 => ((((h1.touch _ _ _).modU _ _).countCvt _ _ _).trapRec _ _ _ _ _ _ _).retire _)).next

theorem KeptForm.execWprod (hs : KeptForm s) (r : Res) (w : CtlWord) : NextKept (Machine.execWprod r w s) :=
  (hs.ctl (fun _ h1 => (((h1.writeFwp _ _ _).countRange _ _).trapRec _ _ _ _ _ _ _).retire _)).next

theorem KeptForm.execQuant (h : KeptForm s) (r : Res) (w : CtlWord) : NextKept (Machine.execQuant r w s) := by
  refine KeptForm.next (h.ctl fun t ht => ?_)
  extract_lets p a rows t1 t2 t3 t4 t5 nars t6 cyc t7
  have h3 : KeptForm t3 := ((ht.touch _ _ _).foldl fun _ _ hu => hu.touch _ _ _).foldl fun _ _ hu => hu.store _ _ _ _
  have h5 : KeptForm t5 := (h3.countCvt _ _ _).countRange _ _
  have h6 : KeptForm t6 := by
    cases r with
    | reach n => exact h5.modCnt _ _
    | nmu d => exact h5
  have h7 : KeptForm t7 := h6.vecBusyK _ _
  split
  · exact (h7.trapEvent _ _).retire _
  · exact h7.retire _

theorem KeptForm.execSidex (hs : KeptForm s) (r : Res) (w : CtlWord) : NextKept (Machine.execSidex r w s) :=
  (hs.ctl (fun _ h1 => .ite (((((h1.touch _ _ _).foldl fun _ _ h2 => h2.store _ _ _ _).countRange _ _).vecBusyK _ _).failAt _ _ _ _ _ _)
    ((((((h1.touch _ _ _).foldl fun _ _ h2 => h2.store _ _ _ _).countRange _ _).vecBusyK _ _).modU _ _).retire _))).next

theorem KeptForm.execQcheck (hs : KeptForm s) (r : Res) (w : CtlWord) : NextKept (Machine.execQcheck r w s) :=
  (hs.ctl (fun _ h1 => (by
    split
    · exact h1
    · exact ((KeptForm.ite (((h1.touch _ _ _).modU _ _).rerunGranted _) (.ite (((h1.touch _ _ _).modU _ _).rerunDenied _ _) ((h1.touch _ _
        _).modU _ _))).vecBusyK _ _).retire _))).next

theorem KeptForm.execTq (hs : KeptForm s) (r : Res) (w : CtlWord) : NextKept (Machine.execTq r w s) :=
  (hs.ctl (fun _ h1 => (by
    split
    · exact h1.tqEff _ _
    · exact h1))).next

theorem KeptForm.execTwait (hs : KeptForm s) (r : Res) (w : CtlWord) : NextKept (Machine.execTwait r w s) :=
  (hs.ctl (fun _ h1 => h1.await _ _)).next

theorem KeptForm.execBissue (hs : KeptForm s) (r : Res) (w : CtlWord) : NextKept (Machine.execBissue r w s) :=
  (hs.ctl (fun _ h1 => (h1.touch _ _ _).await _ _)).next

theorem KeptForm.execBwait (hs : KeptForm s) (r : Res) (w : CtlWord) : NextKept (Machine.execBwait r w s) :=
  (hs.ctl (fun _ h1 => h1.await _ _)).next

theorem KeptForm.execLrateCheck (h : KeptForm s) (r : Res) (w : CtlWord) : NextKept (Machine.execLrateCheck r w s) := by
  refine KeptForm.next (h.lrate fun d t ht => ?_)
  extract_lets +onlyGivenNames u a c hd p st t1
  have h1 : KeptForm t1 := (ht.touchHeader _ _).modNmu _ _
  clear_value st
  rcases st with _ | ⟨status, event⟩
  · exact (((h1.touch _ _ _).takeShard _ _ _).markBusy _ _ _).modU _ _
  · exact (h1.updEvent _ _ _ _ _).modU _ _

theorem KeptForm.execLrateCommit (hs : KeptForm s) (r : Res) (w : CtlWord) : NextKept (Machine.execLrateCommit r w s) :=
  (hs.lrate (fun _ _ h1 => .ite ((h1.touchHeader _ _).consumePoison _) (.ite ((((h1.touchHeader _ _).writeCommit _ _ _).countShard _).modU _
    _) (((h1.touchHeader _ _).updEvent _ _ _ _ _).modU _ _)))).next

theorem KeptForm.execLrateBiasc (hs : KeptForm s) (r : Res) (w : CtlWord) : NextKept (Machine.execLrateBiasc r w s) :=
  (hs.lrate (fun _ _ h1 => h1.modU _ _)).next

theorem KeptForm.execLrateReport (hs : KeptForm s) (r : Res) (w : CtlWord) : NextKept (Machine.execLrateReport r w s) :=
  (hs.lrate (fun _ _ h1 => (h1.updEvent _ _ _ _ _).modU _ _)).next

theorem KeptForm.execFd1ShardUpdate (h : KeptForm s) (d : Fin 4) (i : W32) : NextKept (Machine.execFd1ShardUpdate d i s) := by
  unfold Machine.execFd1ShardUpdate
  extract_lets +onlyGivenNames u
  split
  · exact h.next
  split
  · exact (h.failOn _ _).next
  extract_lets +onlyGivenNames rs a bad s1 s2
  have h1 : KeptForm s1 := (h.foldl fun _ _ hu => hu.touch _ _ _).fd1Shard _ _ _
  have h2 : KeptForm s2 := h1.modNmu _ _
  split
  · exact h2.next
  split
  · exact ((h2.modNmu _ _).stepEnd _ _).next
  · exact h2.next

theorem KeptForm.execBargeCopy (hs : KeptForm s) (b : BargeRef) (input : List Byte) : NextKept (Machine.execBargeCopy b input s) :=
  (hs.dispatch _ _ _ _).next

theorem KeptForm.execBargeLanemajor (hs : KeptForm s) (b : BargeRef) : NextKept (Machine.execBargeLanemajor b s) :=
  (hs.dispatch _ _ _ _).next

theorem KeptForm.execBargeTranspose (hs : KeptForm s) (b : BargeRef) : NextKept (Machine.execBargeTranspose b s) :=
  (hs.dispatch _ _ _ _).next

theorem KeptForm.execBargeSplit (hs : KeptForm s) (b : BargeRef) : NextKept (Machine.execBargeSplit b s) :=
  (hs.dispatch _ _ _ _).next

theorem KeptForm.execBargeZero (hs : KeptForm s) (b : BargeRef) : NextKept (Machine.execBargeZero b s) :=
  (hs.dispatch _ _ _ _).next

theorem KeptForm.execBargeComplete (hs : KeptForm s) (b : BargeRef) : NextKept (Machine.execBargeComplete b s) := by
  unfold Machine.execBargeComplete
  refine KeptForm.next ?_
  split
  · exact hs
  · exact .ite hs (((KeptForm.ite ((hs.write _ _ _).bargeWrote _ _ _) hs).modBarge _ _).endBarge _ _)

theorem KeptForm.execSfuReload (hs : KeptForm s) (p : Port) (n : Fin 16) (v : W64) : NextKept (Machine.execSfuReload p n v s) :=
  (hs.portWrite _ _ _).next

theorem KeptForm.execSfuLoadDone (hs : KeptForm s) (n : Fin 16) : NextKept (Machine.execSfuLoadDone n s) := by
  unfold Machine.execSfuLoadDone
  refine KeptForm.next ?_
  split
  · exact hs
  · exact .ite (hs.endLoad _ _) (.ite ((hs.endLoad _ _).ownLoad _) (.ite (((hs.endLoad _ _).prfResult _ _).chgClear) (.ite (((hs.endLoad _
      _).upd).loadsDone) ((hs.endLoad _ _).upd))))

theorem KeptForm.execSfuSwitch (hs : KeptForm s) (p : Port) (n : Fin 16) : NextKept (Machine.execSfuSwitch p n s) :=
  (hs.portWrite _ _ _).next

theorem KeptForm.execCounterClear (hs : KeptForm s) (p : Port) (off : BitVec 26) (v : W64) : NextKept (Machine.execCounterClear p off v s)
    :=
  KeptForm.next (.ite (hs.portWrite _ _ _) hs)

theorem KeptForm.execRegisterWrite (hs : KeptForm s) (p : Port) (off : BitVec 26) (v : W64) : NextKept (Machine.execRegisterWrite p off v
    s) :=
  (hs.portWrite _ _ _).next

theorem KeptForm.execPciBadAccess (hs : KeptForm s) (off : BitVec 26) (req : HostReq) : NextKept (Machine.execPciBadAccess off req s) :=
  KeptForm.next (.ite hs (by
    split
    · exact (hs.send _).send _
    · exact hs.send _
    · exact .ite hs (.ite ((KeptForm.ite hs.bump hs).send _) (hs.badAccess.send _))
    · exact .ite hs (.ite (hs.portWrite _ _ _) (.ite hs.badAccess hs))))

theorem KeptForm.execLockPoint (hs : KeptForm s) : NextKept (Machine.execLockPoint s) := by
  unfold Machine.execLockPoint
  refine KeptForm.next ?_
  split
  · exact .ite (hs.lockPointAt _) hs.wrap
  · exact hs

theorem KeptForm.execLkpAbort (hs : KeptForm s) (p : Port) (job : W16) (step : BitVec 48) : NextKept (Machine.execLkpAbort p job step s) :=
  (hs.portWrite _ _ _).next

theorem KeptForm.execNartrapRearm (hs : KeptForm s) (p : Port) (job : W16) : NextKept (Machine.execNartrapRearm p job s) :=
  (hs.portWrite _ _ _).next

theorem KeptForm.execNartrapResume (hs : KeptForm s) (p : Port) (job : W16) : NextKept (Machine.execNartrapResume p job s) :=
  (hs.portWrite _ _ _).next

theorem KeptForm.execCreate (hs : KeptForm s) (p : Port) (block : BitVec 33) : NextKept (Machine.execCreate p block s) :=
  (hs.portWrite _ _ _).next

theorem KeptForm.execDestroy (hs : KeptForm s) (p : Port) (block : BitVec 33) : NextKept (Machine.execDestroy p block s) :=
  (hs.portWrite _ _ _).next

theorem KeptForm.execCtxCmdEffect (hs : KeptForm s) : NextKept (Machine.execCtxCmdEffect s) :=
  KeptForm.next (.ite hs.ctxHead hs.ctxHead.freeClosing)

theorem KeptForm.execEgrRingConfig (hs : KeptForm s) (p : Port) (e : BitVec 10) (cfg : Bool) (v : W64) : NextKept
    (Machine.execEgrRingConfig p e cfg v s) :=
  (hs.portWrite _ _ _).next

theorem KeptForm.execEgrHeadWrite (hs : KeptForm s) (p : Port) (e : BitVec 10) (head : W32) : NextKept (Machine.execEgrHeadWrite p e head
    s) :=
  (hs.portWrite _ _ _).next

theorem KeptForm.execAdmission (hs : KeptForm s) : NextKept (Machine.execAdmission s) := by
  unfold Machine.execAdmission
  refine KeptForm.next ?_
  dsimp only
  split
  · split
    · exact (hs.bump.admResult _ _).admRefused _ _
    · exact .ite ((hs.bump.admResult _ _).prfDone) (.ite hs.upd ((KeptForm.ite hs.upd.powerFlags (hs.bump.admResult _ _)).beginLoads))
  · exact hs

theorem KeptForm.execActivate (hs : KeptForm s) (p : Port) (slot : BitVec 2) (drainOk : Bool) : NextKept (Machine.execActivate p slot
    drainOk s) :=
  (hs.portWrite _ _ _).next

theorem KeptForm.execVerify (hs : KeptForm s) (p : Port) (slot : BitVec 2) : NextKept (Machine.execVerify p slot s) :=
  (hs.portWrite _ _ _).next

theorem KeptForm.execWeightVerifyDone (h : KeptForm s) : NextKept (Machine.execWeightVerifyDone s) := by
  unfold Machine.execWeightVerifyDone
  refine KeptForm.next ?_
  split
  · dsimp only
    have hGo := h.bump.verifyGo (s.cand s.prf.work.toNat) (s.cand s.prf.work.toNat).man.zipIdx
    split
    · next hBad =>
      rw [hBad] at hGo
      exact hGo.prfFail _
    · next hGood =>
      rw [hGood] at hGo
      exact .ite hGo.prfDone hGo.upd
  · exact h

theorem KeptForm.execPolderDrain (hs : KeptForm s) (p : Port) (k : BitVec 2) : NextKept (Machine.execPolderDrain p k s) :=
  (hs.portWrite _ _ _).next

theorem KeptForm.execPolderResume (hs : KeptForm s) (p : Port) (k : BitVec 2) : NextKept (Machine.execPolderResume p k s) :=
  (hs.portWrite _ _ _).next

theorem KeptForm.reachTested (h : KeptForm s) (ok : BitVec 16) : KeptForm { s with dev := { s.dev with reachOk := ok } } := h.upd

theorem KeptForm.execPolderResumeDone (h : KeptForm s) (lanes : Vector (BitVec 256) 4) (ok : BitVec 4) :
    NextKept (Machine.execPolderResumeDone lanes ok s) := by
  unfold Machine.execPolderResumeDone
  refine KeptForm.next ?_
  split
  · extract_lets s1 s2 c r s3 _ s4
    have h1 : KeptForm s1 := h.foldl fun _ _ hu => (hu.resumeLanes _ _).reachTested _
    have h3 : KeptForm s3 := h1.refreshUsable.bump.admResult _ _
    clear_value s3 r
    split
    · exact h3.prfFail _
    · exact KeptForm.unlessForced h3.upd fun _ hu => hu.changeAtCycle _
  · exact h

theorem KeptForm.execRestart (h : KeptForm s) (p : Port) (b : StartIn) : NextKept (Machine.execRestart p b s) := by
  unfold Machine.execRestart
  extract_lets t
  have ht : KeptForm t := h.upd.portWrite _ _ _
  clear_value t
  exact KeptForm.next (.ite ht.upd ht)

theorem KeptForm.execPolderDrained (hs : KeptForm s) : NextKept (Machine.execPolderDrained s) := by
  unfold Machine.execPolderDrained
  refine KeptForm.next ?_
  dsimp only
  split
  · exact .ite (hs.changeAtCycle _) hs
  · exact .ite hs (.ite (hs.lockPointAt _) hs)
  · exact hs

theorem KeptForm.execFullDrainSwitch (hs : KeptForm s) : NextKept (Machine.execFullDrainSwitch s) := by
  unfold Machine.execFullDrainSwitch
  refine KeptForm.next ?_
  split
  · exact .ite hs (.ite (hs.lockPointAt _) hs)
  · exact hs

theorem KeptForm.execChgDrainAbort (hs : KeptForm s) : NextKept (Machine.execChgDrainAbort s) := by
  unfold Machine.execChgDrainAbort
  refine KeptForm.next ?_
  split
  · exact hs.abortPolder _
  · exact hs.abortPolder _
  · exact hs.abortDevice
  · exact hs

theorem KeptForm.execFlashRead (hs : KeptForm s) (p : Port) (pages : BitVec 25) : NextKept (Machine.execFlashRead p pages s) :=
  (hs.portWrite _ _ _).next

theorem KeptForm.execFlashErase (hs : KeptForm s) (p : Port) (pages : BitVec 25) : NextKept (Machine.execFlashErase p pages s) :=
  (hs.portWrite _ _ _).next

theorem KeptForm.execFlashProgram (hs : KeptForm s) (p : Port) (pages : BitVec 25) : NextKept (Machine.execFlashProgram p pages s) :=
  (hs.portWrite _ _ _).next

theorem KeptForm.execFlashOpDone (hs : KeptForm s) (ok : Bool) (done : BitVec 25) : NextKept (Machine.execFlashOpDone ok done s) := by
  unfold Machine.execFlashOpDone
  refine KeptForm.next ?_
  split
  · exact hs
  · exact .ite ((hs.flashDo _ _).upd) (((hs.flashDo _ _).upd).raise _)

theorem KeptForm.execFaultLogAppend (hs : KeptForm s) : NextKept (Machine.execFaultLogAppend s) :=
  hs.flogStep.next

theorem KeptForm.execSysRstNLow (hs : KeptForm s) : NextKept (Machine.execSysRstNLow s) :=
  ((hs.lost.upd.send _).send _).next

theorem KeptForm.reflashed (h : KeptForm s) (l : List (Nat × Byte)) : KeptForm { s with prf := { s.prf with
    flash := l.foldl (fun (m : List (Nat × Byte)) (p : Nat × Byte) => if p.1 < 0x20000000 then sput 0xFF m p.1 p.2 else m) [] } } := by
  refine ⟨h.1, ?_, h.2.2⟩
  suffices hAll : ∀ m : List (Nat × Byte), swf 0xFF m = true →
      swf 0xFF (l.foldl (fun (m : List (Nat × Byte)) (p : Nat × Byte) => if p.1 < 0x20000000 then sput 0xFF m p.1 p.2 else m) m) = true from
    hAll [] (nil_swf _)
  induction l with
  | nil => exact fun m hm => hm
  | cons p l ih =>
    intro m hm
    refine ih _ ?_
    show swf 0xFF (if p.1 < 0x20000000 then sput 0xFF m p.1 p.2 else m) = true
    split
    · exact sput_swf _ _ _ _ hm
    · exact hm

theorem KeptForm.execColdStart (h : KeptForm s) (b : StartIn) (flash : Option (List (Nat × Byte))) :
    NextKept (Machine.execColdStart b flash s) := by
  unfold Machine.execColdStart
  refine KeptForm.next (.ite h ?_)
  extract_lets _ s1
  have h1 : KeptForm s1 := by
    cases flash with
    | none => exact h
    | some l => exact h.reflashed l
  clear_value s1
  exact KeptForm.start h1.upd b _

theorem KeptForm.execWatchdogFire (hs : KeptForm s) (b : StartIn) : NextKept (Machine.execWatchdogFire b s) :=
  KeptForm.next (.ite hs ((KeptForm.ite hs (hs.flogAppend _)).warmReset _ _))

theorem KeptForm.execPciePerstN (hs : KeptForm s) (low : Bool) : NextKept (Machine.execPciePerstN low s) :=
  KeptForm.next (.ite hs hs.resetHostPort.upd)

theorem KeptForm.execHostPortReset (hs : KeptForm s) (flr : Bool) : NextKept (Machine.execHostPortReset flr s) :=
  KeptForm.next (.ite hs (.ite hs.resetHostPort hs.resetHostPort.upd))

theorem KeptForm.execBar2Read (hs : KeptForm s) (off len : Nat) : NextKept (Machine.execBar2Read off len s) :=
  KeptForm.next (.ite hs (.ite hs.completerAbort (.ite hs.b2Bad.completerAbort (((hs.llc _ _ _).bump).send _))))

theorem KeptForm.execBar2Write (hs : KeptForm s) (off : Nat) (data : List Byte) (bad : Bool) : NextKept (Machine.execBar2Write off data
    bad s) :=
  KeptForm.next (.ite hs (.ite ((KeptForm.ite (hs.send _) hs).drainedRefuse) (.ite ((KeptForm.ite (hs.send _) hs).b2Bad) (.ite
    (((((KeptForm.ite (hs.send _) hs).write _ _ _).hostWrote _ _).llc _ _ _).raise _) ((((KeptForm.ite (hs.send _) hs).write _ _
    _).hostWrote _ _).llc _ _ _)))))

theorem KeptForm.execB2WinWrite (hs : KeptForm s) (p : Port) (base : BitVec 12) : NextKept (Machine.execB2WinWrite p base s) :=
  (hs.portWrite _ _ _).next

theorem KeptForm.execBar2Resize (hs : KeptForm s) (k : Nat) : NextKept (Machine.execBar2Resize k s) :=
  KeptForm.next (.ite hs hs.upd)

theorem KeptForm.execHbqCmd (hs : KeptForm s) (p : Port) (desc : BitVec 34) : NextKept (Machine.execHbqCmd p desc s) :=
  (hs.portWrite _ _ _).next

theorem KeptForm.execHostBargeStart (hs : KeptForm s) : NextKept (Machine.execHostBargeStart s) := by
  unfold Machine.execHostBargeStart
  refine KeptForm.next ?_
  split
  · exact .ite hs (.ite ((hs.raise _).hostBargeEnd _) hs.upd)
  · exact hs

theorem KeptForm.execPciLinkDown (hs : KeptForm s) (why : Fin 3) : NextKept (Machine.execPciLinkDown why s) :=
  KeptForm.next (.ite hs (.ite hs.resetHostPort.upd hs.linkDown.upd))

theorem KeptForm.execPciLinkUp (hs : KeptForm s) (width : BitVec 6) (speed : BitVec 3) (msixEn fmask : Bool) : NextKept
    (Machine.execPciLinkUp width speed msixEn fmask s) :=
  KeptForm.next (.ite hs (hs.upd.sendPending.unlessForced (fun _ h1 => h1.applyEgrs)))

theorem KeptForm.execPciCplTimeout (hs : KeptForm s) (b : BargeRef) (input : List Byte) : NextKept (Machine.execPciCplTimeout b input s) :=
  (hs.dispatch _ _ _ _).next

theorem KeptForm.execMsixUnmask (hs : KeptForm s) (op : MsixOp) : NextKept (Machine.execMsixUnmask op s) :=
  KeptForm.next (.ite hs (by
    split
    · exact .ite hs hs.upd.sendPending
    · exact .ite hs (hs.send _)
    · exact hs.upd.sendPending))

theorem KeptForm.execEmpRead (hs : KeptForm s) (q : EmpReq) : NextKept (Machine.execEmpRead q s) :=
  (hs.emp (fun _ _ h1 => .ite h1.bump h1)).next

theorem KeptForm.execEmpWrite (hs : KeptForm s) (q : EmpReq) : NextKept (Machine.execEmpWrite q s) :=
  (hs.emp (fun _ _ h1 => h1.empPairs _ _)).next

theorem KeptForm.execAttest (hs : KeptForm s) (q : EmpReq) : NextKept (Machine.execAttest q s) :=
  (hs.emp (fun _ _ h1 => h1.attest _ _)).next

theorem KeptForm.execEmpRestart (hs : KeptForm s) (q : EmpReq) (b : StartIn) : NextKept (Machine.execEmpRestart q b s) := by
  unfold Machine.execEmpRestart
  refine KeptForm.next ?_
  split
  · exact .ite ((hs.emp (fun _ _ h1 => h1)).warmReset _ _) (hs.emp (fun _ _ h1 => h1))
  · exact hs.emp (fun _ _ h1 => h1)

theorem KeptForm.execRecordAck (hs : KeptForm s) (q : EmpReq) : NextKept (Machine.execRecordAck q s) :=
  (hs.emp (fun _ _ h1 => h1.ackRecords _)).next

theorem KeptForm.execChain (hs : KeptForm s) (q : EmpReq) : NextKept (Machine.execChain q s) :=
  (hs.sessionReq (fun _ h1 => (by
    split <;> exact h1))).next

theorem KeptForm.execSessionOpen (h : KeptForm s) (q : EmpReq) : NextKept (Machine.execSessionOpen q s) := by
  refine KeptForm.next (h.sessionReq fun t ht => ?_)
  split
  · exact ht
  split
  · exact ht
  extract_lets c
  split
  · exact ht.sessionRefused _
  split
  · exact ht
  · exact ht.openSession _ _

theorem KeptForm.execClearFlag (hs : KeptForm s) (q : EmpReq) (flash : Bool) : NextKept (Machine.execClearFlag q flash s) :=
  (hs.emp (fun _ _ h1 => h1.maintClear _ _ _ _ _ _)).next

theorem KeptForm.execClearMark (hs : KeptForm s) (q : EmpReq) (flash : Bool) : NextKept (Machine.execClearMark q flash s) :=
  (hs.emp (fun _ _ h1 => h1.maintClear _ _ _ _ _ _)).next

theorem KeptForm.execClearLane (hs : KeptForm s) (q : EmpReq) (flash : Bool) : NextKept (Machine.execClearLane q flash s) :=
  (hs.emp (fun _ _ h1 => h1.maintClear _ _ _ _ _ _)).next

theorem KeptForm.execLogRead (h : KeptForm s) (q : EmpReq) (flash : Bool) : NextKept (Machine.execLogRead q flash s) := by
  refine KeptForm.next (h.emp fun i t ht => ?_)
  extract_lets f
  split
  · exact ht
  split
  · exact ht
  · exact ht

theorem KeptForm.execEmpRecordSend (hs : KeptForm s) : NextKept (Machine.execEmpRecordSend s) :=
  hs.sendRecords.next

theorem KeptForm.execEmpRecordResend (hs : KeptForm s) : NextKept (Machine.execEmpRecordResend s) :=
  hs.upd.sendRecords.next

theorem KeptForm.execEmpSessionExpire (hs : KeptForm s) (i : Fin 4) : NextKept (Machine.execEmpSessionExpire i s) :=
  (hs.endSession _).next

theorem KeptForm.execIcmpv6Echo (hs : KeptForm s) (data : List Byte) : NextKept (Machine.execIcmpv6Echo data s) :=
  KeptForm.next (.ite (hs.send _) hs)

theorem KeptForm.execNeighbourDiscovery (hs : KeptForm s) (a1 : NdMsg) : NextKept (Machine.execNeighbourDiscovery a1 s) :=
  KeptForm.next (.ite hs (by
    split
    · exact .ite (hs.send _) hs
    · exact .ite hs hs.upd))

theorem KeptForm.execTake (hs : KeptForm s) (p : Port) (n : Fin 32) : NextKept (Machine.execTake p n s) :=
  (hs.portWrite _ _ _).next

theorem KeptForm.execRelease (hs : KeptForm s) (p : Port) (n : Fin 32) : NextKept (Machine.execRelease p n s) :=
  (hs.portWrite _ _ _).next

theorem KeptForm.execBreak (hs : KeptForm s) (p : Port) (n : Fin 32) : NextKept (Machine.execBreak p n s) :=
  (hs.portWrite _ _ _).next

theorem KeptForm.execCplLinkUp (hs : KeptForm s) (p : Fin 8) : NextKept (Machine.execCplLinkUp p s) :=
  KeptForm.next (.ite hs ((hs.modCpl _).portEdges _))

theorem KeptForm.execCplLinkDown (hs : KeptForm s) (p : Fin 8) (words : Nat) : NextKept (Machine.execCplLinkDown p words s) :=
  KeptForm.next (.ite hs (((hs.uncorr _ _).modCpl _).portEdges _))

theorem KeptForm.execData (hs : KeptForm s) (a1 : RxFrame) : NextKept (Machine.execData a1 s) :=
  (hs.receive (fun _ h1 => .ite (h1.nak _ _) ((h1.write _ _ _).llc _ _ _))).next

theorem KeptForm.execRreq (hs : KeptForm s) (a1 : RxFrame) : NextKept (Machine.execRreq a1 s) :=
  (hs.receive (fun _ h1 => .ite (h1.nak _ _) (((h1.llc _ _ _).bump).sendFrame _ _ _ _ _ _ _ _))).next

theorem KeptForm.execRdata (hs : KeptForm s) (a1 : RxFrame) : NextKept (Machine.execRdata a1 s) :=
  (hs.receive (fun _ h1 => (by
    split
    · exact h1
    · exact .ite (h1.frameBad _) (.ite (h1.modCpl _) ((h1.modCpl _).landRead _ _))))).next

theorem KeptForm.execAck (h : KeptForm s) (x : RxFrame) : NextKept (Machine.execAck x s) := KeptForm.next (h.receive fun _ ht => ht)

theorem KeptForm.execNak (hs : KeptForm s) (a1 : RxFrame) : NextKept (Machine.execNak a1 s) :=
  (hs.receive (fun _ h1 => (by
    split
    · exact .ite (h1.endRead _ _) (((h1.refusedEv _ _ _).endRead _ _).failJob _ _)
    · split
      · exact (h1.refusedEv _ _ _).failJob _ _
      · exact h1))).next

theorem KeptForm.execHello (h : KeptForm s) (x : RxFrame) : NextKept (Machine.execHello x s) := by
  refine KeptForm.next (h.receive fun t ht => ?_)
  extract_lets t1 acts t2 t3
  have h1 : KeptForm t1 := .ite (ht.restartFlow _ _) ht
  have h3 : KeptForm t3 := .ite ((h1.modCpl _).offerKey _ _) (h1.modCpl _)
  refine .ite (.ite (h1.hear _ _ _) h1) (.ite h1 ?_)
  split
  · exact .ite h3 (.ite h3.askSnapshot (.ite h3 (.ite (h3.modCpl _) (h3.modCpl _))))
  · exact .ite (h3.fence _) h3

theorem KeptForm.execJoin (hs : KeptForm s) (a1 : RxFrame) : NextKept (Machine.execJoin a1 s) :=
  (hs.receive (fun _ h1 => .ite h1 (.ite ((h1.raise _).sendFrame _ _ _ _ _ _ _ _) ((KeptForm.ite (((h1.modCpl _).mirror _ _).modCpl _)
    (((h1.modCpl _).mirror _ _).pay _)).actAll _)))).next

theorem KeptForm.execAdmit (hs : KeptForm s) (a1 : RxFrame) : NextKept (Machine.execAdmit a1 s) :=
  (hs.receive (fun _ h1 => .ite h1 (.ite (h1.frameBad _) (.ite (h1.hold _) ((h1.modCpl _).portEdges _))))).next

theorem KeptForm.execCtrlActivate (hs : KeptForm s) (a1 : RxFrame) : NextKept (Machine.execCtrlActivate a1 s) :=
  (hs.receiveCtrl (fun _ h1 => .ite h1 (by
    split
    · exact (h1.modCpl _).prepareSlot _ _
    · exact .ite (h1.leave _) h1))).next

theorem KeptForm.execAssume (hs : KeptForm s) (a1 : RxFrame) : NextKept (Machine.execAssume a1 s) :=
  (hs.receiveCtrl (fun _ h1 => .ite h1 ((h1.modCpl _).prepareSlot _ _))).next

theorem KeptForm.execFence (hs : KeptForm s) (a1 : RxFrame) : NextKept (Machine.execFence a1 s) :=
  (hs.receiveCtrl (fun _ h1 => .ite (h1.fence _) h1)).next

theorem KeptForm.execMembership (hs : KeptForm s) (a1 : RxFrame) : NextKept (Machine.execMembership a1 s) :=
  (hs.receiveCtrl (fun _ h1 => .ite h1 (h1.foldl fun _ _ h2 => h2.memberEntry _ _))).next

theorem KeptForm.execActive (hs : KeptForm s) (a1 : RxFrame) : NextKept (Machine.execActive a1 s) :=
  (hs.receiveCtrl (fun _ h1 => .ite h1 (.ite ((h1.hear _ _ _).modCpl _) (h1.hear _ _ _)))).next

theorem KeptForm.execMirrorRecords (hs : KeptForm s) (a1 : RxFrame) : NextKept (Machine.execMirrorRecords a1 s) :=
  (hs.receive (fun _ h1 => .ite h1 ((h1.foldl fun _ _ h2 => h2.mirRecord _ _).mirAck))).next

theorem KeptForm.execMirrorAck (hs : KeptForm s) (a1 : RxFrame) : NextKept (Machine.execMirrorAck a1 s) :=
  (hs.receive (fun _ h1 => .ite h1 (.ite ((h1.modCpl _).payOwed) (h1.modCpl _)))).next

theorem KeptForm.execSnapshotReq (hs : KeptForm s) (a1 : RxFrame) : NextKept (Machine.execSnapshotReq a1 s) :=
  (hs.receive (fun _ h1 => .ite h1 ((h1.foldl fun _ _ h2 => h2.sendCtrl _ _ _ _).modCpl _))).next

theorem KeptForm.execSnapshot (h : KeptForm s) (x : RxFrame) : NextKept (Machine.execSnapshot x s) := by
  refine KeptForm.next (h.receive fun t ht => .ite ht (.ite (ht.frameBad _).askSnapshot ?_))
  extract_lets all
  split
  · exact .ite (ht.modCpl _) (ht.modCpl _).mirAck
  · exact ht

theorem KeptForm.execClaim (hs : KeptForm s) (a1 : RxFrame) : NextKept (Machine.execClaim a1 s) :=
  (hs.receive (fun _ h1 => .ite h1 (.ite (h1.fence _) (.ite (h1.sendCtrl _ _ _ _) h1)))).next

theorem KeptForm.execRefuse (hs : KeptForm s) (a1 : RxFrame) : NextKept (Machine.execRefuse a1 s) :=
  (hs.receive (fun _ h1 => .ite h1 (.ite (h1.modCpl _) (.ite (h1.fence _) h1)))).next

theorem KeptForm.execRecord (hs : KeptForm s) (a1 : RxFrame) : NextKept (Machine.execRecord a1 s) :=
  (hs.receive (fun _ h1 => .ite h1 (h1.foldl fun _ _ h2 => .ite (((h2.modCpl _).mirror _ _).modCpl _) (((h2.modCpl _).mirror _ _).forward
    _)))).next

theorem KeptForm.execStatus (hs : KeptForm s) (a1 : RxFrame) : NextKept (Machine.execStatus a1 s) :=
  (hs.receive (fun _ h1 => .ite h1 (.ite ((h1.modCpl _).relieve _) (h1.modCpl _)))).next

theorem KeptForm.execOffer (hs : KeptForm s) (a1 : RxFrame) : NextKept (Machine.execOffer a1 s) :=
  (hs.receiveKex (fun _ h1 => .ite h1 (.ite (h1.peerBad _) ((h1.draw.modCpl _).sendCtrl _ _ _ _)))).next

theorem KeptForm.execAnswer (hs : KeptForm s) (a1 : RxFrame) : NextKept (Machine.execAnswer a1 s) :=
  (hs.receiveKex (fun _ h1 => (by
    split
    · exact h1
    · exact .ite (h1.peerBad _) (.ite h1 ((h1.sendCtrl _ _ _ _).installKey _ _))))).next

theorem KeptForm.execConfirm (hs : KeptForm s) (a1 : RxFrame) : NextKept (Machine.execConfirm a1 s) :=
  (hs.receiveKex (fun _ h1 => .ite (h1.installKey _ _) h1)).next

theorem KeptForm.execSync (hs : KeptForm s) (a1 : PtpMsg) : NextKept (Machine.execSync a1 s) :=
  KeptForm.next (.ite hs (.ite (((hs.setBasinTime _).modCpl _).firstKeys) (.ite ((hs.modCpl _).leave _) (.ite ((hs.modCpl _).unsync) (.ite
    ((hs.modCpl _).resync) (hs.modCpl _))))))

theorem KeptForm.execDelayReq (hs : KeptForm s) (a1 : PtpMsg) : NextKept (Machine.execDelayReq a1 s) :=
  KeptForm.next (.ite hs (hs.send _))

theorem KeptForm.execSyncSend (hs : KeptForm s) : NextKept (Machine.execSyncSend s) :=
  KeptForm.next (.ite hs (hs.foldl fun _ _ h1 => (h1.send _).send _))

theorem KeptForm.execFrameResend (hs : KeptForm s) (p : Fin 8) (n : BitVec 15) : NextKept (Machine.execFrameResend p n s) := by
  unfold Machine.execFrameResend
  refine KeptForm.next ?_
  dsimp only
  split
  · exact hs
  · exact .ite hs (.ite (hs.flowFail _ _) (((hs.modFlow _ _ _).modCpl _).foldl fun _ _ h1 => h1.emitFrame _ _ _))

theorem KeptForm.execHelloSend (hs : KeptForm s) (members : Bool) : NextKept (Machine.execHelloSend members s) :=
  KeptForm.next (.ite hs (.ite (hs.hello _) (.ite (hs.foldl fun _ _ h1 => h1.hello _) hs)))

theorem KeptForm.execStatusSend (hs : KeptForm s) : NextKept (Machine.execStatusSend s) := by
  unfold Machine.execStatusSend
  refine KeptForm.next ?_
  split
  · exact .ite hs ((hs.sendCtrl _ _ _ _).flushFwd)
  · exact hs

theorem KeptForm.execJoinSend (hs : KeptForm s) : NextKept (Machine.execJoinSend s) :=
  KeptForm.next (.ite hs hs.sendJoin)

theorem KeptForm.execCplMemberLost (hs : KeptForm s) (m : Byte) : NextKept (Machine.execCplMemberLost m s) :=
  KeptForm.next (.ite hs ((hs.raise _).relieve _))

theorem KeptForm.execCplMgrLost (hs : KeptForm s) : NextKept (Machine.execCplMgrLost s) := by
  unfold Machine.execCplMgrLost
  refine KeptForm.next ?_
  split
  · exact .ite hs ((hs.modCpl _).raise _)
  · exact hs

theorem KeptForm.execStandbyTimeout (hs : KeptForm s) : NextKept (Machine.execStandbyTimeout s) :=
  KeptForm.next (.ite hs ((hs.modCpl _).foldl fun _ _ h1 => h1.sendFrame _ _ _ _ _ _ _ _))

theorem KeptForm.execClaimTimeout (hs : KeptForm s) : NextKept (Machine.execClaimTimeout s) :=
  KeptForm.next (.ite hs (((hs.goSolo.announce.foldl fun _ _ h1 => h1.forward _).modCpl _).raise _))

theorem KeptForm.execStandbyAckTimeout (hs : KeptForm s) : NextKept (Machine.execStandbyAckTimeout s) :=
  KeptForm.next (.ite hs ((hs.raise _).goSolo))

theorem KeptForm.execPeerHelloTimeout (hs : KeptForm s) : NextKept (Machine.execPeerHelloTimeout s) :=
  KeptForm.next (.ite hs hs.goSolo)

theorem KeptForm.execFencedTimeout (hs : KeptForm s) : NextKept (Machine.execFencedTimeout s) :=
  KeptForm.next (.ite hs hs.askSnapshot)

theorem KeptForm.execSyncLoss (hs : KeptForm s) : NextKept (Machine.execSyncLoss s) :=
  KeptForm.next (.ite hs ((hs.modCpl _).unsync))

theorem KeptForm.execRejoinTimer (hs : KeptForm s) : NextKept (Machine.execRejoinTimer s) :=
  KeptForm.next (.ite hs.rejoin hs)

theorem KeptForm.execRekeyTimer (hs : KeptForm s) (n : BitVec 15) (limit : Bool) : NextKept (Machine.execRekeyTimer n limit s) := by
  unfold Machine.execRekeyTimer
  refine KeptForm.next ?_
  dsimp only
  split
  · exact hs
  · exact .ite hs (.ite (((hs.modCpl _).raise _).foldl fun _ _ h1 => h1.flowFail _ _) (.ite hs (hs.upd.offerKey _ _)))

theorem KeptForm.execKeyxRetry (hs : KeptForm s) (n : BitVec 15) : NextKept (Machine.execKeyxRetry n s) := by
  unfold Machine.execKeyxRetry
  refine KeptForm.next ?_
  split
  · exact .ite hs (hs.offerKey _ _)
  · exact hs

theorem KeptForm.execOldKeyExpire (hs : KeptForm s) (n : BitVec 15) : NextKept (Machine.execOldKeyExpire n s) :=
  (hs.modCpl _).next

theorem KeptForm.execBasinSwitch (hs : KeptForm s) (p : Port) (slot : BitVec 2) (delay : BitVec 16) : NextKept (Machine.execBasinSwitch p
    slot delay s) :=
  (hs.portWrite _ _ _).next

theorem KeptForm.execLeave (hs : KeptForm s) (p : Port) : NextKept (Machine.execLeave p s) :=
  (hs.portWrite _ _ _).next

theorem KeptForm.execCplJoinCmd (hs : KeptForm s) (p : Port) : NextKept (Machine.execCplJoinCmd p s) :=
  (hs.portWrite _ _ _).next

theorem KeptForm.execRelieve (hs : KeptForm s) (p : Port) (member : Byte) : NextKept (Machine.execRelieve p member s) :=
  (hs.portWrite _ _ _).next

theorem KeptForm.execDebugEnter (hs : KeptForm s) (p : Port) : NextKept (Machine.execDebugEnter p s) :=
  (hs.portWrite _ _ _).next

theorem KeptForm.execMaintMode (hs : KeptForm s) (p : Port) (on : Bool) : NextKept (Machine.execMaintMode p on s) :=
  (hs.portWrite _ _ _).next

theorem KeptForm.execSecAttCmd (hs : KeptForm s) (p : Port) (buf : BitVec 34) (go : Bool) : NextKept (Machine.execSecAttCmd p buf go s) :=
  (hs.portWrite _ _ _).next

theorem KeptForm.execAttReportDone (h : KeptForm s) : NextKept (Machine.execAttReportDone s) := by
  unfold Machine.execAttReportDone
  refine KeptForm.next ?_
  split
  · exact h
  · extract_lets r s1
    have h1 : KeptForm s1 := h.draw.write _ _ _
    clear_value s1
    exact .ite (h.attFail _) h1.upd

theorem KeptForm.execSecRngFail (hs : KeptForm s) : NextKept (Machine.execSecRngFail s) :=
  KeptForm.next (.ite hs (hs.upd.raise _))

theorem KeptForm.execDupCheckResult (hs : KeptForm s) (n : Fin 16) (k : Byte) (sig : W64) : NextKept (Machine.execDupCheckResult n k sig
    s) := by
  unfold Machine.execDupCheckResult
  refine KeptForm.next ?_
  split
  · exact .ite hs (.ite (hs.decided _ _ _) (hs.mismatch _ _ _ _))
  · exact hs

theorem KeptForm.execDupRefereeResult (hs : KeptForm s) (n : Fin 16) (k : Byte) (sig : W64) : NextKept (Machine.execDupRefereeResult n k
    sig s) := by
  unfold Machine.execDupRefereeResult
  refine KeptForm.next ?_
  split
  · exact .ite hs (.ite (hs.setDup _ _ _) (.ite (hs.setDup _ _ _) (hs.permanent _ _ _ _)))
  · exact hs

theorem KeptForm.execDupSuspectResult (hs : KeptForm s) (n : Fin 16) (k : Byte) (sig : W64) : NextKept (Machine.execDupSuspectResult n k
    sig s) := by
  unfold Machine.execDupSuspectResult
  refine KeptForm.next ?_
  split
  · exact .ite hs (.ite (hs.transient _ _ _) (hs.permanent _ _ _ _))
  · exact hs

theorem KeptForm.execDupAbandon (hs : KeptForm s) (n : Fin 16) (k : Byte) : NextKept (Machine.execDupAbandon n k s) := by
  unfold Machine.execDupAbandon
  refine KeptForm.next ?_
  split
  · exact .ite hs (hs.upd.dupDone _ _ _)
  · exact hs

theorem KeptForm.execDupNoTaker (hs : KeptForm s) (n : Fin 16) (k : Byte) : NextKept (Machine.execDupNoTaker n k s) := by
  unfold Machine.execDupNoTaker
  refine KeptForm.next ?_
  split
  · exact .ite (hs.permanent _ _ _ _) hs
  · exact hs

theorem KeptForm.execTestKernelDone (hs : KeptForm s) (n : Fin 16) (bad : BitVec 256) (outside : Bool) : NextKept
    (Machine.execTestKernelDone n bad outside s) :=
  KeptForm.next (.ite hs (.ite (.ite ((hs.modTest _ _).modTest _ _) ((hs.modTest _ _).testFail _ _ _ _)) (.ite ((hs.upd.modTest _ _).raise
    _) (.ite ((hs.modTest _ _).testLanes _ _) (((hs.modTest _ _).modTest _ _).testPermanent _ _)))))

theorem KeptForm.execRasTestLate (hs : KeptForm s) (n : Fin 16) : NextKept (Machine.execRasTestLate n s) :=
  KeptForm.next (.ite hs ((hs.upd.modTest _ _).raise _))

theorem KeptForm.execErrorRingWrite (hs : KeptForm s) : NextKept (Machine.execErrorRingWrite s) := by
  unfold Machine.execErrorRingWrite
  refine KeptForm.next ?_
  split
  · exact hs
  · exact .ite hs (.ite hs.upd (.ite hs.upd (hs.upd.dueVec _ _)))

theorem KeptForm.execRasRingConfig (hs : KeptForm s) (p : Port) (cfg : Bool) (v : W64) : NextKept (Machine.execRasRingConfig p cfg v s) :=
  (hs.portWrite _ _ _).next

theorem KeptForm.execRasRingHeadWrite (hs : KeptForm s) (p : Port) (head : W32) : NextKept (Machine.execRasRingHeadWrite p head s) :=
  (hs.portWrite _ _ _).next

theorem KeptForm.execPatrolScrub (hs : KeptForm s) (line : BitVec 34) (found : Fin 3) (loc : Fin 3) (data : List Byte) (dropped : Bool)
    (bank : BitVec 4) (row : W32) : NextKept (Machine.execPatrolScrub line found loc data dropped bank row s) :=
  KeptForm.next (.ite hs (.ite (hs.lkpError _) (.ite hs (.ite (.ite (hs.modMdie _ _) (hs.uncorrectable _ _ _ _)) (by
    split
    · exact .ite ((KeptForm.ite (hs.modMdie _ _) (hs.uncorrectable _ _ _ _)).rowCorrected _ _ _ _) ((KeptForm.ite (hs.modMdie _ _)
        (hs.uncorrectable _ _ _ _)).rowFails _ _ _ _)
    · exact .ite (hs.modMdie _ _) (hs.uncorrectable _ _ _ _))))))

theorem KeptForm.execRowCopyDone (hs : KeptForm s) (c : Fin 32) (bank : BitVec 4) (row : W32) (bad : List (BitVec 34 × List Byte)) :
    NextKept (Machine.execRowCopyDone c bank row bad s) :=
  KeptForm.next (.ite hs ((hs.modChan _ _ _).foldl fun _ _ h1 => .ite (h1.uncorrectable _ _ _ _) h1))

theorem KeptForm.execMemD2dRetry (hs : KeptForm s) (d : Fin 4) : NextKept (Machine.execMemD2dRetry d s) :=
  KeptForm.next (.ite hs (hs.modMdie _ _))

theorem KeptForm.execD2dModuleDown (hs : KeptForm s) (d : Fin 4) (m : Fin 2) (lines : List (BitVec 34)) : NextKept
    (Machine.execD2dModuleDown d m lines s) :=
  KeptForm.next (.ite hs (.ite (((((hs.foldl fun _ _ h1 => h1.markLine _).modMdie _ _).modMdie _ _).raise _).drainDevice _ _ _) ((((hs.foldl
    fun _ _ h1 => h1.markLine _).modMdie _ _).modMdie _ _).raise _)))

theorem KeptForm.execPmbusPoll (hs : KeptForm s) (a1 : Vector (Option RailRead) 9) : NextKept (Machine.execPmbusPoll a1 s) :=
  KeptForm.next (.ite hs (((((hs.foldl fun _ _ h1 => h1.pollRail _ _).averagePower).showRails).powerFlags).demandMoved))

theorem KeptForm.execPmbAlert (hs : KeptForm s) (a1 : Vector (Option W16) 9) : NextKept (Machine.execPmbAlert a1 s) :=
  KeptForm.next (.ite hs (((hs.foldl fun _ _ h1 => (by
    split
    · exact h1.readStatus _ _
    · exact h1.pmbusErr)).showRails).demandMoved))

theorem KeptForm.execTempSample (hs : KeptForm s) (t : Vector (BitVec 8) 24) : NextKept (Machine.execTempSample t s) :=
  KeptForm.next (.ite hs ((KeptForm.ite ((KeptForm.ite hs.upd hs.upd).raise _) (.ite hs.upd hs.upd)).demandMoved))

theorem KeptForm.execPwrWarn (hs : KeptForm s) (on : Bool) : NextKept (Machine.execPwrWarn on s) :=
  KeptForm.next (.ite hs ((KeptForm.ite (hs.upd.raise _) hs.upd).demandMoved))

theorem KeptForm.execPwrCrit (hs : KeptForm s) (on : Bool) : NextKept (Machine.execPwrCrit on s) :=
  KeptForm.next (.ite hs ((KeptForm.ite (hs.upd.raise _) hs.upd).demandMoved))

theorem KeptForm.execPwrCritHold (hs : KeptForm s) (long : Bool) : NextKept (Machine.execPwrCritHold long s) :=
  KeptForm.next (.ite hs hs.upd.demandMoved)

theorem KeptForm.execPwrDroop (hs : KeptForm s) (rail : Fin 4) : NextKept (Machine.execPwrDroop rail s) :=
  KeptForm.next (.ite hs ((hs.upd.raise _).demandMoved))

theorem KeptForm.execShedDescent (hs : KeptForm s) : NextKept (Machine.execShedDescent s) :=
  KeptForm.next (.ite hs (.ite ((hs.setVdd _).upd) hs.descendReady))

theorem KeptForm.execVddArithSettle (hs : KeptForm s) (ok : Bool) : NextKept (Machine.execVddArithSettle ok s) := by
  unfold Machine.execVddArithSettle
  refine KeptForm.next ?_
  split
  · exact hs
  · exact .ite (.ite (hs.upd.unlessForced (fun _ h1 => h1.arithSync)) hs.upd.descendReady) hs.upd

theorem KeptForm.execS7Stop (hs : KeptForm s) : NextKept (Machine.execS7Stop s) :=
  KeptForm.next (.ite hs.lost.upd hs)

theorem KeptForm.execPwrFloorWrite (hs : KeptForm s) (p : Port) (floor : BitVec 3) : NextKept (Machine.execPwrFloorWrite p floor s) :=
  (hs.portWrite _ _ _).next

theorem KeptForm.execClkLoss (hs : KeptForm s) (k : Fin 5) : NextKept (Machine.execClkLoss k s) :=
  KeptForm.next (.ite hs ((KeptForm.ite (((hs.raise _).setClk _ _).hostLinkLost) (((hs.raise _).setClk _ _).portEdges _)).demandMoved))

theorem KeptForm.execClkReturn (hs : KeptForm s) (link : Bool) : NextKept (Machine.execClkReturn link s) :=
  KeptForm.next (.ite hs ((hs.setClk _ _).portEdges _))

theorem KeptForm.execPpsIn (hs : KeptForm s) : NextKept (Machine.execPpsIn s) :=
  KeptForm.next (.ite hs (.ite hs.ppsLost (hs.upd.setClk _ _)))

theorem KeptForm.execTimPpsLost (hs : KeptForm s) : NextKept (Machine.execTimPpsLost s) :=
  KeptForm.next (.ite hs hs.upd.ppsLost)

theorem KeptForm.execTimWrap (hs : KeptForm s) : NextKept (Machine.execTimWrap s) :=
  hs.wrap.next

theorem KeptForm.execReservedControlWord (hs : KeptForm s) (r : Res) (cls : BitVec 4) (fn : BitVec 6) : NextKept
    (Machine.execReservedControlWord r cls fn s) :=
  KeptForm.next (.ite ((hs.fetched _).failAt _ _ _ _ _ _) hs)

theorem KeptForm.execReservedTileOp (hs : KeptForm s) (n : Fin 16) : NextKept (Machine.execReservedTileOp n s) :=
  (hs.tileIssue (fun _ _ h1 => h1)).next

theorem KeptForm.execEmpUnknownCmd (hs : KeptForm s) (cmd : Byte) (q : EmpReq) : NextKept (Machine.execEmpUnknownCmd cmd q s) :=
  KeptForm.next (.ite hs (hs.emp (fun _ _ h1 => h1)))

theorem KeptForm.execMgtLinkDown (hs : KeptForm s) : NextKept (Machine.execMgtLinkDown s) :=
  (hs.mgtLink _).next

theorem KeptForm.execMgtLinkUp (hs : KeptForm s) : NextKept (Machine.execMgtLinkUp s) :=
  KeptForm.next (.ite hs (hs.mgtLink _))

theorem KeptForm.execTapInstruction (h : KeptForm s) (i : TapIr) : NextKept (Machine.execTapInstruction i s) := by
  unfold Machine.execTapInstruction
  split
  · exact h.next
  split
  · intro t ht
    cases ht
  · exact (h.upd.send _).next
  · exact (h.upd.send _).next
  · exact h.upd.next

theorem KeptForm.execTrstN (hs : KeptForm s) (low : Bool) : NextKept (Machine.execTrstN low s) :=
  hs.upd.next

theorem KeptForm.execDelayReqSend (hs : KeptForm s) : NextKept (Machine.execDelayReqSend s) :=
  KeptForm.next (.ite hs (by
    split
    · exact (hs.modCpl _).send _
    · exact hs))

theorem KeptForm.execDelayResp (hs : KeptForm s) (a1 : PtpMsg) : NextKept (Machine.execDelayResp a1 s) :=
  KeptForm.next (.ite hs (by
    split
    · exact hs.modCpl _
    · exact hs.modCpl _
    · exact hs))

theorem KeptForm.execDroopDemandEnd (hs : KeptForm s) : NextKept (Machine.execDroopDemandEnd s) :=
  KeptForm.next (.ite hs hs.upd.demandMoved)

theorem KeptForm.execPowerLoss (hs : KeptForm s) : NextKept (Machine.execPowerLoss s) :=
  hs.lost.next

theorem KeptForm.execUnexpectedCompletion (hs : KeptForm s) : NextKept (Machine.execUnexpectedCompletion s) :=
  KeptForm.next (.ite hs (hs.send _))

/-! ### Every step -/

/-- Every command keeps the form. -/
theorem KeptForm.exec (h : KeptForm s) (c : Instr) : NextKept (Machine.exec c s) := by
  cases c with
  | tileMac n => exact h.execTileMac n
  | wload n => exact h.execWload n
  | wloadComplete n => exact h.execWloadComplete n
  | tileElem n => exact h.execTileElem n
  | openGrp n => exact h.execOpen n
  | closeGrp n => exact h.execClose n
  | fwpw n => exact h.execFwpw n
  | slotadd n => exact h.execSlotadd n
  | slotUpdate n => exact h.execSlotUpdate n
  | add r w => exact h.execAdd r w
  | sub r w => exact h.execSub r w
  | and r w => exact h.execAnd r w
  | or r w => exact h.execOr r w
  | xor r w => exact h.execXor r w
  | shl r w => exact h.execShl r w
  | shr r w => exact h.execShr r w
  | sra r w => exact h.execSra r w
  | mul r w => exact h.execMul r w
  | addi r w => exact h.execAddi r w
  | li r w => exact h.execLi r w
  | lih r w => exact h.execLih r w
  | xld r w => exact h.execXld r w
  | xst r w => exact h.execXst r w
  | setvl r w => exact h.execSetvl r w
  | br r w => exact h.execBr r w
  | waiteq r w => exact h.execWaiteq r w
  | waiteqMatch r => exact h.execWaiteqMatch r
  | yield r w => exact h.execYield r w
  | endStep r w => exact h.execEnd r w
  | trap r w => exact h.execTrap r w
  | vld r w => exact h.execVld r w
  | vst r w => exact h.execVst r w
  | vadd r w => exact h.execVadd r w
  | vsub r w => exact h.execVsub r w
  | vmul r w => exact h.execVmul r w
  | vfma r w => exact h.execVfma r w
  | vmax r w => exact h.execVmax r w
  | vmin r w => exact h.execVmin r w
  | vabs r w => exact h.execVabs r w
  | vneg r w => exact h.execVneg r w
  | vcmp r w => exact h.execVcmp r w
  | vsel r w => exact h.execVsel r w
  | vcvt r w => exact h.execVcvt r w
  | vsplit r w => exact h.execVsplit r w
  | vsum r w => exact h.execVsum r w
  | vsumsq r w => exact h.execVsumsq r w
  | vmaxi r w => exact h.execVmaxi r w
  | vmini r w => exact h.execVmini r w
  | winmax r w => exact h.execWinmax r w
  | winmin r w => exact h.execWinmin r w
  | sfn r w => exact h.execSfn r w
  | gate r w => exact h.execGate r w
  | wcomb r w => exact h.execWcomb r w
  | wred r w => exact h.execWred r w
  | rowstat r w => exact h.execRowstat r w
  | wround r w => exact h.execWround r w
  | wprod r w => exact h.execWprod r w
  | quant r w => exact h.execQuant r w
  | sidex r w => exact h.execSidex r w
  | qcheck r w => exact h.execQcheck r w
  | tq r w => exact h.execTq r w
  | twait r w => exact h.execTwait r w
  | bissue r w => exact h.execBissue r w
  | bwait r w => exact h.execBwait r w
  | lrateCheck r w => exact h.execLrateCheck r w
  | lrateCommit r w => exact h.execLrateCommit r w
  | lrateBiasc r w => exact h.execLrateBiasc r w
  | lrateReport r w => exact h.execLrateReport r w
  | fd1ShardUpdate d k => exact h.execFd1ShardUpdate d k
  | bargeCopy b input => exact h.execBargeCopy b input
  | bargeLanemajor b => exact h.execBargeLanemajor b
  | bargeTranspose b => exact h.execBargeTranspose b
  | bargeSplit b => exact h.execBargeSplit b
  | bargeZero b => exact h.execBargeZero b
  | bargeComplete b => exact h.execBargeComplete b
  | sfuReload p n v => exact h.execSfuReload p n v
  | sfuLoadDone n => exact h.execSfuLoadDone n
  | sfuSwitch p n => exact h.execSfuSwitch p n
  | counterClear p off v => exact h.execCounterClear p off v
  | registerWrite p off v => exact h.execRegisterWrite p off v
  | pciBadAccess off req => exact h.execPciBadAccess off req
  | lockPoint => exact h.execLockPoint
  | lkpAbort p job step => exact h.execLkpAbort p job step
  | nartrapRearm p job => exact h.execNartrapRearm p job
  | nartrapResume p job => exact h.execNartrapResume p job
  | create p block => exact h.execCreate p block
  | destroy p block => exact h.execDestroy p block
  | ctxCmdEffect => exact h.execCtxCmdEffect
  | egrRingConfig p e cfg v => exact h.execEgrRingConfig p e cfg v
  | egrHeadWrite p e head => exact h.execEgrHeadWrite p e head
  | admission => exact h.execAdmission
  | activate p slot drainOk => exact h.execActivate p slot drainOk
  | verify p slot => exact h.execVerify p slot
  | weightVerifyDone => exact h.execWeightVerifyDone
  | polderDrain p k => exact h.execPolderDrain p k
  | polderResume p k => exact h.execPolderResume p k
  | polderResumeDone lanes ok => exact h.execPolderResumeDone lanes ok
  | restart p b => exact h.execRestart p b
  | polderDrained => exact h.execPolderDrained
  | fullDrainSwitch => exact h.execFullDrainSwitch
  | chgDrainAbort => exact h.execChgDrainAbort
  | flashRead p pages => exact h.execFlashRead p pages
  | flashErase p pages => exact h.execFlashErase p pages
  | flashProgram p pages => exact h.execFlashProgram p pages
  | flashOpDone ok done => exact h.execFlashOpDone ok done
  | faultLogAppend => exact h.execFaultLogAppend
  | sysRstNLow => exact h.execSysRstNLow
  | coldStart b flash => exact h.execColdStart b flash
  | watchdogFire b => exact h.execWatchdogFire b
  | pciePerstN low => exact h.execPciePerstN low
  | hostPortReset flr => exact h.execHostPortReset flr
  | bar2Read off len => exact h.execBar2Read off len
  | bar2Write off data bad => exact h.execBar2Write off data bad
  | b2WinWrite p base => exact h.execB2WinWrite p base
  | bar2Resize k => exact h.execBar2Resize k
  | hbqCmd p desc => exact h.execHbqCmd p desc
  | hostBargeStart => exact h.execHostBargeStart
  | pciLinkDown why => exact h.execPciLinkDown why
  | pciLinkUp width speed msixEn fmask => exact h.execPciLinkUp width speed msixEn fmask
  | pciCplTimeout b input => exact h.execPciCplTimeout b input
  | msixUnmask op => exact h.execMsixUnmask op
  | empRead q => exact h.execEmpRead q
  | empWrite q => exact h.execEmpWrite q
  | attest q => exact h.execAttest q
  | empRestart q b => exact h.execEmpRestart q b
  | recordAck q => exact h.execRecordAck q
  | chain q => exact h.execChain q
  | sessionOpen q => exact h.execSessionOpen q
  | clearFlag q flash => exact h.execClearFlag q flash
  | clearMark q flash => exact h.execClearMark q flash
  | clearLane q flash => exact h.execClearLane q flash
  | logRead q flash => exact h.execLogRead q flash
  | empRecordSend => exact h.execEmpRecordSend
  | empRecordResend => exact h.execEmpRecordResend
  | empSessionExpire k => exact h.execEmpSessionExpire k
  | icmpv6Echo data => exact h.execIcmpv6Echo data
  | neighbourDiscovery x => exact h.execNeighbourDiscovery x
  | semTake p n => exact h.execTake p n
  | semRelease p n => exact h.execRelease p n
  | semBreak p n => exact h.execBreak p n
  | cplLinkUp p => exact h.execCplLinkUp p
  | cplLinkDown p words => exact h.execCplLinkDown p words
  | data x => exact h.execData x
  | rreq x => exact h.execRreq x
  | rdata x => exact h.execRdata x
  | ack x => exact h.execAck x
  | nak x => exact h.execNak x
  | hello x => exact h.execHello x
  | join x => exact h.execJoin x
  | admitFrame x => exact h.execAdmit x
  | ctrlActivate x => exact h.execCtrlActivate x
  | assume x => exact h.execAssume x
  | fence x => exact h.execFence x
  | membership x => exact h.execMembership x
  | active x => exact h.execActive x
  | mirrorRecords x => exact h.execMirrorRecords x
  | mirrorAck x => exact h.execMirrorAck x
  | snapshotReq x => exact h.execSnapshotReq x
  | snapshot x => exact h.execSnapshot x
  | claim x => exact h.execClaim x
  | refuse x => exact h.execRefuse x
  | record x => exact h.execRecord x
  | status x => exact h.execStatus x
  | offer x => exact h.execOffer x
  | answer x => exact h.execAnswer x
  | confirm x => exact h.execConfirm x
  | sync x => exact h.execSync x
  | delayReq x => exact h.execDelayReq x
  | syncSend => exact h.execSyncSend
  | frameResend p n => exact h.execFrameResend p n
  | helloSend members => exact h.execHelloSend members
  | statusSend => exact h.execStatusSend
  | joinSend => exact h.execJoinSend
  | cplMemberLost m => exact h.execCplMemberLost m
  | cplMgrLost => exact h.execCplMgrLost
  | standbyTimeout => exact h.execStandbyTimeout
  | claimTimeout => exact h.execClaimTimeout
  | standbyAckTimeout => exact h.execStandbyAckTimeout
  | peerHelloTimeout => exact h.execPeerHelloTimeout
  | fencedTimeout => exact h.execFencedTimeout
  | syncLoss => exact h.execSyncLoss
  | rejoinTimer => exact h.execRejoinTimer
  | rekeyTimer n limit => exact h.execRekeyTimer n limit
  | keyxRetry n => exact h.execKeyxRetry n
  | oldKeyExpire n => exact h.execOldKeyExpire n
  | basinSwitch p slot delay => exact h.execBasinSwitch p slot delay
  | leave p => exact h.execLeave p
  | cplJoinCmd p => exact h.execCplJoinCmd p
  | relieve p member => exact h.execRelieve p member
  | debugEnter p => exact h.execDebugEnter p
  | maintMode p on => exact h.execMaintMode p on
  | secAttCmd p buf go => exact h.execSecAttCmd p buf go
  | attReportDone => exact h.execAttReportDone
  | secRngFail => exact h.execSecRngFail
  | dupCheckResult n k sig => exact h.execDupCheckResult n k sig
  | dupRefereeResult n k sig => exact h.execDupRefereeResult n k sig
  | dupSuspectResult n k sig => exact h.execDupSuspectResult n k sig
  | dupAbandon n k => exact h.execDupAbandon n k
  | dupNoTaker n k => exact h.execDupNoTaker n k
  | testKernelDone n bad outside => exact h.execTestKernelDone n bad outside
  | rasTestLate n => exact h.execRasTestLate n
  | errorRingWrite => exact h.execErrorRingWrite
  | rasRingConfig p cfg v => exact h.execRasRingConfig p cfg v
  | rasRingHeadWrite p head => exact h.execRasRingHeadWrite p head
  | patrolScrub line found loc data dropped bank row => exact h.execPatrolScrub line found loc data dropped bank row
  | rowCopyDone c bank row bad => exact h.execRowCopyDone c bank row bad
  | memD2dRetry d => exact h.execMemD2dRetry d
  | d2dModuleDown d m lines => exact h.execD2dModuleDown d m lines
  | pmbusPoll x => exact h.execPmbusPoll x
  | pmbAlert x => exact h.execPmbAlert x
  | tempSample t => exact h.execTempSample t
  | pwrWarn on => exact h.execPwrWarn on
  | pwrCrit on => exact h.execPwrCrit on
  | pwrCritHold long => exact h.execPwrCritHold long
  | pwrDroop rail => exact h.execPwrDroop rail
  | shedDescent => exact h.execShedDescent
  | vddArithSettle ok => exact h.execVddArithSettle ok
  | s7Stop => exact h.execS7Stop
  | pwrFloorWrite p floor => exact h.execPwrFloorWrite p floor
  | clkLoss k => exact h.execClkLoss k
  | clkReturn link => exact h.execClkReturn link
  | ppsIn => exact h.execPpsIn
  | timPpsLost => exact h.execTimPpsLost
  | timWrap => exact h.execTimWrap
  | reservedControlWord r cls fn => exact h.execReservedControlWord r cls fn
  | reservedTileOp n => exact h.execReservedTileOp n
  | empUnknownCmd cmd q => exact h.execEmpUnknownCmd cmd q
  | mgtLinkDown => exact h.execMgtLinkDown
  | mgtLinkUp => exact h.execMgtLinkUp
  | tapInstruction k => exact h.execTapInstruction k
  | trstN low => exact h.execTrstN low
  | delayReqSend => exact h.execDelayReqSend
  | delayResp x => exact h.execDelayResp x
  | droopDemandEnd => exact h.execDroopDemandEnd
  | powerLoss => exact h.execPowerLoss
  | unexpectedCompletion => exact h.execUnexpectedCompletion

end Sys2Proof

namespace Sys2Proof.Machine.KeptForms

open Sys2Proof.Machine

/-- Settles O59: a step is a command on the rest of the queue, or lets time pass. -/
theorem stepsKeepTheForm : Obligations.StepsKeepTheForm := by
  unfold Obligations.StepsKeepTheForm
  intro s t h ht
  unfold step at ht
  split at ht
  · exact h.idle.next t ht
  · exact KeptForm.exec (s := { s with pending := _ }) h.upd _ t ht

end Sys2Proof.Machine.KeptForms
end KeptFormRules

/-! PROOF. Elementwise vector instructions (07 R216, R223 to R226; 02 R58, R61), SFN and GATE (05 R153 to R157, R174, R184) and VSPLIT
(04 R141): what writing a vector result changes of a unit, and the elements that each instruction writes. -/

namespace Sys2Proof.Machine.Vectors

open Sys2Proof.Machine Sys2Proof.Machine.Laws Sys2Proof.Machine.Frames Sys2Proof.Machine.NmuAccess Sys2Proof.Machine.Scalars

/-! ### Operations that change one unit and its counters -/

/-- One unit is `u`, its performance counters are `p` or `b`, its event counters have moved, and nothing else has changed. -/
def Only (s t : State) (r : Res) (u : Machine.Unit) (p : ReachPerf) (b : Perf) : Prop := ∃ c k, t = unitOnly s r u c p k b

/-- The performance counters of a unit that is a reach. -/
def perfOf (s : State) (r : Res) : ReachPerf :=
  match r with
  | .reach n => s.reach[n].perf
  | .nmu _ => {}

/-- The performance counter of a unit that is an NMU. -/
def busyOf (s : State) (r : Res) : Perf :=
  match r with
  | .reach _ => {}
  | .nmu d => s.nmu[d].busy

/-- No performance counter is about to pass its end. -/
structure BusyRoom (p : ReachPerf) (b : Perf) : Prop where
  ve  : p.veBusy.count.toNat + 2 ^ 32 < 2 ^ 48
  sfu : p.sfuBusy.count.toNat + 2 ^ 32 < 2 ^ 48
  nmu : b.count.toNat + 2 ^ 32 < 2 ^ 48

variable {s t : State} {r : Res} {u : Machine.Unit} {w : CtlWord} {p : ReachPerf} {b : Perf}

theorem busyRoom_of_quiet (h : Quiet s r) : BusyRoom (perfOf s r) (busyOf s r) := by
  have hRoom := h.room
  cases r with
  | reach n => exact ⟨hRoom.1, hRoom.2, (by decide : (0 : Nat) + 2 ^ 32 < 2 ^ 48)⟩
  | nmu d => exact ⟨(by decide : (0 : Nat) + 2 ^ 32 < 2 ^ 48), (by decide : (0 : Nat) + 2 ^ 32 < 2 ^ 48), hRoom⟩

theorem set_set {α : Type} {n : Nat} (v : Vector α n) (k : Fin n) (x y : α) : (v.set k x).set k y = v.set k y := by
  ext i hi
  simp only [Vector.getElem_set]
  split
  · rfl
  · rfl

theorem modNmu_modNmu (s : State) (d : Fin 4) (f g : Nmu → Nmu) : (s.modNmu d f).modNmu d g = s.modNmu d fun x => g (f x) := by
  simp only [State.modNmu, set_set, Fin.getElem_fin, Vector.getElem_set_self]

theorem only_refl (s : State) (r : Res) : Only s s r (s.unit r) (perfOf s r) (busyOf s r) := by
  cases r with
  | reach n =>
    refine ⟨s.reach[n].cnt, {}, ?_⟩
    simp only [unitOnly, perfOf]
    exact (modReach_eq_self s rfl).symm
  | nmu d =>
    refine ⟨{}, s.nmu[d].cnt, ?_⟩
    have hSame : s.nmu.set d { s.nmu[d] with u := s.nmu[d].u, cnt := s.nmu[d].cnt, busy := s.nmu[d].busy } = s.nmu :=
      Vector.set_getElem_self _
    simp only [unitOnly, busyOf, State.modNmu, State.unit, hSame]

theorem Only.unit (h : Only s t r u p b) : t.unit r = u := by
  obtain ⟨c, k, rfl⟩ := h
  cases r with
  | reach n => exact congrArg Reach.u (modReach_same s n _)
  | nmu d => exact congrArg Nmu.u (modNmu_same s d _)

theorem Only.perf {n : Fin 16} (h : Only s t (.reach n) u p b) : t.reach[n].perf = p := by
  obtain ⟨c, k, rfl⟩ := h
  exact congrArg Reach.perf (modReach_same s n _)

theorem Only.busy {d : Fin 4} (h : Only s t (.nmu d) u p b) : t.nmu[d].busy = b := by
  obtain ⟨c, k, rfl⟩ := h
  exact congrArg Nmu.busy (modNmu_same s d _)

theorem Only.lkp (h : Only s t r u p b) : t.lkp = s.lkp := by
  obtain ⟨c, k, rfl⟩ := h
  cases r with
  | reach n => rfl
  | nmu d => rfl

theorem Only.framed (h : Only s t r u p b) : Framed s t r := by
  obtain ⟨c, k, rfl⟩ := h
  cases r with
  | reach n => exact framed_modReach s n _
  | nmu d => exact ⟨modNmu_othersKept s d _, (modNmu_alike s d _).device, (modNmu_alike s d _).memory⟩

theorem Only.modU (h : Only s t r u p b) (f : Machine.Unit → Machine.Unit) : Only s (t.modU r f) r (f u) p b := by
  obtain ⟨c, k, rfl⟩ := h
  cases r with
  | reach n => exact ⟨c, k, by simp only [unitOnly, State.modU, modReach_modReach]⟩
  | nmu d => exact ⟨c, k, by simp only [unitOnly, State.modU, modNmu_modNmu]⟩

theorem Only.modCnt {n : Fin 16} (h : Only s t (.reach n) u p b) (f : ReachCnt → ReachCnt) : Only s (t.modCnt n f) (.reach n) u p b := by
  obtain ⟨c, k, rfl⟩ := h
  exact ⟨f c, k, by simp only [unitOnly, State.modCnt, modReach_modReach]⟩

theorem Only.countCvt (h : Only s t r u p b) (clamps nars : Nat) : Only s (t.countCvt r clamps nars) r u p b := by
  cases r with
  | reach n =>
    simp only [State.countCvt]
    exact h.modCnt _
  | nmu d =>
    obtain ⟨c, k, rfl⟩ := h
    exact ⟨c, { k with clamp := stick32 k.clamp clamps, narint := stick32 k.narint nars }, by
      simp only [unitOnly, State.countCvt, modNmu_modNmu]⟩

theorem Only.countRange (h : Only s t r u p b) (a : Nat) : Only s (t.countRange r a) r u p b := by
  cases r with
  | reach n =>
    simp only [State.countRange]
    exact h.modCnt _
  | nmu d => exact h

theorem Only.countLimit (h : Only s t r u p b) (a : Nat) : Only s (t.countLimit r a) r u p b := by
  cases r with
  | reach n =>
    simp only [State.countLimit]
    exact h.modCnt _
  | nmu d => exact h

/-- A counter that counts within its room raises nothing. -/
theorem Only.countPerf {n : Fin 16} (h : Only s t (.reach n) u p b) {k : Nat} {get : ReachPerf → Perf} (off : Nat)
    (set : ReachPerf → Perf → ReachPerf) (hRoom : (get p).count.toNat + k < 2 ^ 48) :
    ∃ p', Only s (t.countPerf n k off get set) (.reach n) u p' b := by
  have hAdd : ((get t.reach[n].perf).add k).2 = false := perf_add_kept _ _ (by rw [h.perf]; exact hRoom)
  unfold State.countPerf
  split
  · exact ⟨p, h⟩
  · simp only [hAdd, State.perfOvf, Bool.false_eq_true, if_false]
    obtain ⟨c, k', rfl⟩ := h
    refine ⟨set p ((get p).add k).1, c, k', ?_⟩
    simp only [unitOnly, modReach_modReach, modReach_same]

theorem Only.countNmu {d : Fin 4} (h : Only s t (.nmu d) u p b) {k : Nat} (hRoom : b.count.toNat + k < 2 ^ 48) :
    ∃ b', Only s (t.countNmu d k) (.nmu d) u p b' := by
  have hAdd : (t.nmu[d].busy.add k).2 = false := perf_add_kept _ _ (by rw [h.busy]; exact hRoom)
  unfold State.countNmu
  split
  · exact ⟨b, h⟩
  · simp only [hAdd, State.perfOvf, Bool.false_eq_true, if_false]
    obtain ⟨c, k', rfl⟩ := h
    refine ⟨(b.add k).1, c, k', ?_⟩
    simp only [unitOnly, modNmu_modNmu, modNmu_same]

/-- The vector unit is occupied for a number of cycles. -/
theorem Only.vecBusyK (h : Only s t r u p b) (hRoom : BusyRoom p b) {k : Nat} (hk : k < 2 ^ 32) :
    ∃ p' b', Only s (t.vecBusyK r k) r u p' b' := by
  cases r with
  | reach n =>
    obtain ⟨p', h'⟩ := h.countPerf (k := k) (get := (·.veBusy)) 0x400 (fun p x => { p with veBusy := x }) (by have := hRoom.ve; omega)
    exact ⟨p', b, h'⟩
  | nmu d =>
    obtain ⟨b', h'⟩ := h.countNmu (k := k) (by have := hRoom.nmu; omega)
    exact ⟨p, b', h'⟩

theorem vecBusy_eq (t : State) (r : Res) (per : Nat) : ∃ k ≤ per * 16, t.vecBusy r per = t.vecBusyK r k := by
  have hVl := (t.unit r).vl.isLt
  cases r with
  | reach n => exact ⟨_, Nat.mul_le_mul_left per (by omega), rfl⟩
  | nmu d => exact ⟨_, Nat.mul_le_mul_left per (by omega), rfl⟩

theorem Only.vecBusy (h : Only s t r u p b) (hRoom : BusyRoom p b) {per : Nat} (hPer : per ≤ 16) :
    ∃ p' b', Only s (t.vecBusy r per) r u p' b' := by
  obtain ⟨k, hk, hEq⟩ := vecBusy_eq t r per
  rw [hEq]
  exact h.vecBusyK hRoom (by omega)

/-- The SFU of a reach is occupied; an NMU counts nothing. -/
theorem Only.sfuBusy (h : Only s t r u p b) (hRoom : BusyRoom p b) {steps : Nat} (hSteps : steps < 2 ^ 24) :
    ∃ p', Only s (t.sfuBusy r steps) r u p' b := by
  have hVl := (t.unit r).vl.isLt
  cases r with
  | reach n =>
    have hCycles : ((t.unit (.reach n)).vl.toNat + 31) / 32 * steps ≤ 17 * 2 ^ 24 := Nat.mul_le_mul (by omega) (by omega)
    exact h.countPerf (get := (·.sfuBusy)) 0x408 (fun p x => { p with sfuBusy := x }) (by have := hRoom.sfu; omega)
  | nmu d => exact ⟨p, h⟩

/-! ### First-NaR reports (08 R264) -/

/-- A job that is not armed gets no report. -/
theorem trapEvent_unarmed (h : (t.jobRun (t.unit r).job).armed = false) (x : TrapRep) : t.trapEvent r x = t := by
  cases r with
  | nmu d => rfl
  | reach n => simp [State.trapEvent, h]

theorem trapIf_unarmed (h : (t.jobRun (t.unit r).job).armed = false) (x : Option TrapRep) : t.trapIf r x = t := by
  cases x with
  | none => rfl
  | some x => exact trapEvent_unarmed h x

theorem trapRec_unarmed (h : (t.jobRun (t.unit r).job).armed = false) (part lane slot fmt : Nat) (nan carried : Bool) :
    t.trapRec r part lane slot fmt nan carried = t := by
  unfold State.trapRec
  split
  · exact trapEvent_unarmed h _
  · rfl

theorem Only.unarmed (h : Only s t r u p b) (hj : u.job = (s.unit r).job) (hq : (s.jobRun (s.unit r).job).armed = false) :
    (t.jobRun (t.unit r).job).armed = false := by
  rw [h.unit, hj, State.jobRun, h.lkp]
  exact hq

/-! ### Vector results (07 R216, R224) -/

/-- The patterns and poison bits that a result writes. -/
def written (es : List Elem) : List (W32 × Bool) := es.map fun e => (BitVec.ofNat 32 e.pat, e.poison)

/-- Writing a vector result of an unarmed job writes its elements and counts its conversions. -/
theorem Only.writeVec (h : Only s t r u p b) (hj : u.job = (s.unit r).job) (hq : (s.jobRun (s.unit r).job).armed = false)
    (part d fmt : Nat) (es : List Elem) : Only s (t.writeVec r part d fmt es) r (u.setVs d 0 (written es)) p b := by
  have hWritten := ((h.modU fun u => u.setVs d 0 (written es)).countCvt (es.countP (·.clamp)) (es.countP (·.narInt))).countRange
    (es.countP (·.ranged))
  unfold State.writeVec
  dsimp only
  rw [trapIf_unarmed]
  · exact hWritten
  · exact hWritten.unarmed (by rw [setVs_eq]; exact hj) hq

/-- The unit that an instruction leaves which wrote vector registers and went on. -/
def vecDone (u : Machine.Unit) (d : Nat) (es : List (W32 × Bool)) : Machine.Unit := advanced (u.setVs d 0 es)

theorem vecDone_moved (u : Machine.Unit) (d : Nat) (es : List (W32 × Bool)) : vecMoved u (vecDone u d es) := by
  unfold vecMoved vecDone
  rw [setVs_eq]
  rfl

theorem vecDone_written (u : Machine.Unit) (d : BitVec 6) {es : List (W32 × Bool)} (hLen : es.length ≤ 512) :
    VecWritten u (vecDone u d.toNat es) d es := by
  have hv (k : BitVec 6) (i : Nat) : (vecDone u d.toNat es).v k i = (u.setVs d.toNat 0 es).v k i := rfl
  refine ⟨fun i hi => ?_, fun k i hi hOther => ?_⟩
  · rw [hv, v_setVs, if_pos (by omega)]
    simp [hi]
  · have hk : k ≠ d → k.toNat ≠ d.toNat := fun hne he => hne (BitVec.eq_of_toNat_eq he)
    rw [hv, v_setVs, if_neg]
    rintro ⟨hLow, hHigh⟩
    rcases hOther with hne | hlen
    · have := hk hne
      omega
    · omega

/-- An instruction that retires leaves its unit one word on. -/
theorem Only.retire {sp : Spans} (h : Only s t r { u with pc := BitVec.ofNat 17 (s.unit r).next } p b) (hReady : Ready s r sp)
    (hRun : u.run = (s.unit r).run) (hCode : u.codeLen = (s.unit r).codeLen) (hNext : u.next = (s.unit r).next) :
    Only s (t.retire r) r (advanced u) p b := by
  rw [retire_of_ready hReady (by rw [h.unit]; exact hRun) (by rw [h.unit]) (by rw [h.unit]; exact hCode)]
  have hMoved := h.modU fun u => { u with next := (s.unit r).next + 1 }
  have hEq : { ({ u with pc := BitVec.ofNat 17 (s.unit r).next } : Machine.Unit) with next := (s.unit r).next + 1 } = advanced u := by
    rw [advanced, hNext]
  rw [← hEq]
  exact hMoved

theorem fetched_only (s : State) (r : Res) :
    Only s (s.fetched r) r { s.unit r with pc := BitVec.ofNat 17 (s.unit r).next } (perfOf s r) (busyOf s r) := by
  have h := (only_refl s r).modU fun u => { u with pc := BitVec.ofNat 17 u.next }
  exact h

theorem setVs_pc (u : Machine.Unit) (q : BitVec 17) (d j : Nat) (es : List (W32 × Bool)) :
    ({ u with pc := q } : Machine.Unit).setVs d j es = { u.setVs d j es with pc := q } := by
  induction es generalizing u j with
  | nil => rfl
  | cons e es ih => exact ih (u.setV d j e) (j + 1)

theorem setVs_job (u : Machine.Unit) (d j : Nat) (es : List (W32 × Bool)) : (u.setVs d j es).job = u.job := by rw [setVs_eq]

theorem setVs_control (u : Machine.Unit) (d j : Nat) (es : List (W32 × Bool)) :
    (u.setVs d j es).run = u.run ∧ (u.setVs d j es).codeLen = u.codeLen ∧ (u.setVs d j es).pc = u.pc ∧ (u.setVs d j es).next = u.next := by
  rw [setVs_eq]
  exact ⟨rfl, rfl, rfl, rfl⟩

/-- What a vector instruction owes: elements 0 up of vD written, its unit one word on, its counters moved, and nothing else changed. -/
def Writes (s : State) (r : Res) (d : BitVec 6) (es : List (W32 × Bool)) (o : Host.Outcome State Fault Refusal) : Prop :=
  ∃ v c p k b, o = .next (unitOnly s r v c p k b) ∧ vecMoved (s.unit r) v ∧ VecWritten (s.unit r) v d es

theorem writes_of_only {es : List (W32 × Bool)} {d : BitVec 6} (hLen : es.length ≤ 512)
    (h : Only s t r (vecDone (s.unit r) d.toNat es) p b) : Writes s r d es (.next t) := by
  obtain ⟨c, k, rfl⟩ := h
  exact ⟨_, c, p, k, b, rfl, vecDone_moved _ _ _, vecDone_written _ _ hLen⟩

/-- The state that has dispatched, written a result and counted retires into one that has written it. -/
theorem writes_of_retired {sp : Spans} {es : List (W32 × Bool)} {d : BitVec 6} (hReady : Ready s r sp) (hLen : es.length ≤ 512)
    (h : Only s t r ({ s.unit r with pc := BitVec.ofNat 17 (s.unit r).next }.setVs d.toNat 0 es) p b) :
    Writes s r d es (.next (t.retire r)) := by
  rw [setVs_pc] at h
  refine writes_of_only hLen (h.retire hReady ?_ ?_ ?_)
  · rw [setVs_eq]
  · rw [setVs_eq]
  · rw [setVs_eq]

theorem written_length (es : List Elem) : (written es).length = es.length := List.length_map _

/-- An instruction without memory spans that writes a vector result. -/
theorem writeVec_writes {f : Form} {chk : State → Option Nat} {es : State → List Elem} {part : Nat} (h : Ready s r {}) (hq : Quiet s r)
    (hw : wordOk r f w = true) (hc : chk (s.fetched r) = none) (hLen : (es (s.fetched r)).length ≤ 512) :
    Writes s r w.d (written (es (s.fetched r)))
      (.next (ctlReg r f w chk (fun s => (s.writeVec r part w.d.toNat w.fmtD (es s)).vecBusy r 1) s)) := by
  have hWritten := (fetched_only s r).writeVec rfl hq.unarmed part w.d.toNat w.fmtD (es (s.fetched r))
  obtain ⟨p, b, hBusy⟩ := hWritten.vecBusy (busyRoom_of_quiet hq) (per := 1) (by decide)
  unfold ctlReg
  rw [ctl_acts h hw rfl hc]
  exact writes_of_retired h (by rw [written_length]; exact hLen) hBusy

/-- The same of the SFU, whose cycles are counted first. -/
theorem sfuVec_writes {f : Form} {chk : State → Option Nat} {es : State → List Elem} {steps : State → Nat} (h : Ready s r {})
    (hq : Quiet s r) (hw : wordOk r f w = true) (hc : chk (s.fetched r) = none) (hLen : (es (s.fetched r)).length ≤ 512)
    (hSteps : steps (s.fetched r) < 2 ^ 24) :
    Writes s r w.d (written (es (s.fetched r)))
      (.next (ctlReg r f w chk (fun s => (s.sfuBusy r (steps s)).writeVec r 2 w.d.toNat w.fmtD (es s)) s)) := by
  obtain ⟨p, hBusy⟩ := (fetched_only s r).sfuBusy (busyRoom_of_quiet hq) hSteps
  have hWritten := hBusy.writeVec rfl hq.unarmed 2 w.d.toNat w.fmtD (es (s.fetched r))
  unfold ctlReg
  rw [ctl_acts h hw rfl hc]
  exact writes_of_retired h (by rw [written_length]; exact hLen) hWritten

theorem Writes.congr {d : BitVec 6} {es es' : List (W32 × Bool)} {o : Host.Outcome State Fault Refusal} (h : Writes s r d es o)
    (he : es = es') : Writes s r d es' o := he ▸ h

/-- The elements that a row of `one` writes. -/
theorem written_range (n : Nat) (one : Nat → Elem) :
    written ((List.range n).map one) = (List.range n).map fun i => (BitVec.ofNat 32 (one i).pat, (one i).poison) := by
  rw [written, List.map_map]
  rfl

theorem vl_le (u : Machine.Unit) : u.vl.toNat ≤ 512 := by
  have := u.vl.isLt
  omega

/-! ### Class 0x4 and VCVT (07 R223 to R226) -/

theorem fetched_vl (s : State) (r : Res) : ((s.fetched r).unit r).vl = (s.unit r).vl := by
  rw [fetched_unit]

theorem fetched_val (s : State) (r : Res) (sc : Bool) (k : BitVec 6) (f : Fmt) (q : Int) (i : Nat) :
    ((s.fetched r).unit r).val sc k f q i = (s.unit r).val sc k f q i := by
  rw [fetched_unit]
  rfl

theorem fetched_operands (s : State) (r : Res) (w : CtlWord) (i : Nat) : operands ((s.fetched r).unit r) w i = operands (s.unit r) w i := by
  rw [fetched_unit]
  rfl

theorem fetched_rawPat (s : State) (r : Res) (sc : Bool) (k : BitVec 6) (f : Fmt) (i : Nat) :
    rawPat ((s.fetched r).unit r) sc k f i = rawPat (s.unit r) sc k f i := by
  rw [fetched_unit]
  rfl

theorem fmtChkV_of_formats (hS : fmtV w.fmtS = true) (hD : fmtV w.fmtD = true) (s : State) : fmtChkV w s = none := by
  simp [fmtChkV, hS, hD]

/-- An elementwise instruction rounds what it makes of the operands of each element. -/
theorem vecOp_writes {nb nc : Bool} {f : Ops3 → Val} {form : Form} (h : Ready s r {}) (hq : Quiet s r) (hS : fmtV w.fmtS = true)
    (hD : fmtV w.fmtD = true) (hw : wordOk r form w = true) :
    Writes s r w.d ((List.range (s.unit r).vl.toNat).map fun i =>
        let o := operands (s.unit r) w i
        (BitVec.ofNat 32 (roundTo (fmtOf w.fmtD) w.qd w.ovf (f o)).pat, o.a.2 || (nb && o.b.2) || (nc && o.c.2)))
      (.next (vecOp nb nc f r w form s)) := by
  refine (writeVec_writes (es := fun s => (List.range (s.unit r).vl.toNat).map fun i =>
    mkElem (fmtOf w.fmtD) w.qd w.ovf (f (operands (s.unit r) w i)) _ _) h hq hw (fmtChkV_of_formats hS hD _) ?_).congr ?_
  · rw [List.length_map, List.length_range]
    exact vl_le _
  · simp only [written_range, fetched_vl, fetched_operands, mkElem]

theorem vcmp_writes {form : Form} (h : Ready s r {}) (hq : Quiet s r) (hS : fmtV w.fmtS = true) (hD : fmtV w.fmtD = true)
    (hForm : form = { form4 w true false with lay := .v fun x => bits x 0 5 == 0 && bits x 5 3 != 7 }) (hw : wordOk r form w = true) :
    Writes s r w.d ((List.range (s.unit r).vl.toNat).map fun i =>
        let o := operands (s.unit r) w i
        (BitVec.ofNat 32 (roundTo (fmtOf w.fmtD) w.qd w.ovf
          (if cmpHolds (bits w.x 5 3) (ieeeS w) o.a.1 o.b.1 then .fin 1 else .zero false)).pat, o.a.2 || o.b.2))
      (exec (.vcmp r w) s) := by
  subst hForm
  refine (writeVec_writes (es := fun s => (List.range (s.unit r).vl.toNat).map fun i =>
    mkElem (fmtOf w.fmtD) w.qd w.ovf _ ((operands (s.unit r) w i).a.2 || (operands (s.unit r) w i).b.2) false)
    h hq hw (fmtChkV_of_formats hS hD _) ?_).congr ?_
  · rw [List.length_map, List.length_range]
    exact vl_le _
  · simp only [written_range, fetched_vl, fetched_operands, mkElem]

theorem vsel_writes (h : Ready s r {}) (hq : Quiet s r) (hS : fmtV w.fmtS = true) (hSame : w.fmtD = w.fmtS)
    (hw : wordOk r (form4 w true true) w = true) :
    Writes s r w.d ((List.range (s.unit r).vl.toNat).map fun i =>
        let f := fmtOf w.fmtS
        let a := rawPat (s.unit r) false w.a f i
        let e := if a.1 ≠ 0 then rawPat (s.unit r) w.bs w.b f i else rawPat (s.unit r) false w.c f i
        (BitVec.ofNat 32 e.1, a.2 || e.2))
      (exec (.vsel r w) s) := by
  refine (writeVec_writes (es := fun s => (List.range (s.unit r).vl.toNat).map fun i =>
    let f := fmtOf w.fmtS
    let a := rawPat (s.unit r) false w.a f i
    let e := if a.1 ≠ 0 then rawPat (s.unit r) w.bs w.b f i else rawPat (s.unit r) false w.c f i
    { pat := e.1, poison := a.2 || e.2, nan := patIsNan f e.1, carried := true }) h hq hw ?_ ?_).congr ?_
  · simp [hS, hSame]
  · rw [List.length_map, List.length_range]
    exact vl_le _
  · simp only [written_range, fetched_vl, fetched_rawPat]

/-- Operand B is a scalar register where BS says so (R224). -/
theorem operands_b (u : Machine.Unit) (w : CtlWord) (i : Nat) :
    (operands u w i).b =
      (decode (fmtOf w.fmtS) w.qs (if w.bs then (u.x w.b).toNat % 2 ^ (fmtOf w.fmtS).width else (u.v w.b i).1.toNat % 2 ^ (fmtOf w.fmtS).width),
        if w.bs then u.xp w.b else (u.v w.b i).2) := by
  unfold operands Machine.Unit.val
  cases w.bs
  · rfl
  · rfl

theorem rawPat_b (u : Machine.Unit) (w : CtlWord) (i : Nat) :
    rawPat u w.bs w.b (fmtOf w.fmtS) i =
      (if w.bs then (u.x w.b).toNat % 2 ^ (fmtOf w.fmtS).width else (u.v w.b i).1.toNat % 2 ^ (fmtOf w.fmtS).width,
        if w.bs then u.xp w.b else (u.v w.b i).2) := by
  unfold rawPat
  cases w.bs
  · rfl
  · rfl

/-- An elementwise instruction, with the value and the poison bit of each element named. -/
theorem vecOp_gives {nb nc : Bool} {f : Ops3 → Val} {form : Form} {v : Nat → Val} {q : Nat → Bool} (h : Ready s r {}) (hq : Quiet s r)
    (hS : fmtV w.fmtS = true) (hD : fmtV w.fmtD = true) (hw : wordOk r form w = true) (hv : ∀ i, f (operands (s.unit r) w i) = v i)
    (hp : ∀ i, ((operands (s.unit r) w i).a.2 || (nb && (operands (s.unit r) w i).b.2) || (nc && (operands (s.unit r) w i).c.2)) = q i) :
    Writes s r w.d ((List.range (s.unit r).vl.toNat).map fun i => (BitVec.ofNat 32 (roundTo (fmtOf w.fmtD) w.qd w.ovf (v i)).pat, q i))
      (.next (vecOp nb nc f r w form s)) := by
  refine (vecOp_writes h hq hS hD hw).congr ?_
  simp only [hv, hp]

/-- Settles O10. -/
theorem elementwiseResult : Obligations.ElementwiseResult := by
  unfold Obligations.ElementwiseResult
  intro r w s h hq hS hD
  have hA (i : Nat) : ((operands (s.unit r) w i).a.2 || (false && (operands (s.unit r) w i).b.2) || (false && (operands (s.unit r) w i).c.2)) =
      ((s.unit r).v w.a i).2 := by
    simp only [Bool.false_and, Bool.or_false]
    rfl
  have hAB (i : Nat) : ((operands (s.unit r) w i).a.2 || (true && (operands (s.unit r) w i).b.2) || (false && (operands (s.unit r) w i).c.2)) =
      (((s.unit r).v w.a i).2 || if w.bs then (s.unit r).xp w.b else ((s.unit r).v w.b i).2) := by
    simp only [operands_b, Bool.true_and, Bool.false_and, Bool.or_false]
    rfl
  have hABC (i : Nat) : ((operands (s.unit r) w i).a.2 || (true && (operands (s.unit r) w i).b.2) || (true && (operands (s.unit r) w i).c.2)) =
      (((s.unit r).v w.a i).2 || (if w.bs then (s.unit r).xp w.b else ((s.unit r).v w.b i).2) || ((s.unit r).v w.c i).2) := by
    simp only [operands_b, Bool.true_and]
    rfl
  refine ⟨fun hw => ?_, fun hw => ?_, fun hw => ?_, fun hw => ?_, fun hw => ?_, fun hw => ?_, fun hw => ?_, fun hw => ?_, fun hw => ?_,
    fun hSame hw => ?_, fun hw => ?_⟩
  · exact vecOp_gives h hq hS hD hw (fun i => by rw [operands_b]; rfl) hAB
  · exact vecOp_gives h hq hS hD hw (fun i => by rw [operands_b]; rfl) hAB
  · exact vecOp_gives h hq hS hD hw (fun i => by rw [operands_b]; rfl) hAB
  · exact vecOp_gives h hq hS hD hw (fun i => by rw [operands_b]; rfl) hABC
  · exact vecOp_gives h hq hS hD hw (fun i => by rw [operands_b]; rfl) hAB
  · exact vecOp_gives h hq hS hD hw (fun i => by rw [operands_b]; rfl) hAB
  · exact vecOp_gives h hq hS hD hw (fun i => rfl) hA
  · exact vecOp_gives h hq hS hD hw (fun i => rfl) hA
  · refine (vcmp_writes h hq hS hD rfl hw).congr ?_
    simp only [operands_b]
    rfl
  · refine (vsel_writes h hq hS hSame hw).congr (List.map_congr_left fun i _ => ?_)
    dsimp only
    rw [rawPat_b]
    by_cases hSel : ((s.unit r).v w.a i).1.toNat % 2 ^ (fmtOf w.fmtS).width ≠ 0
    · have hSel' : (rawPat (s.unit r) false w.a (fmtOf w.fmtS) i).1 ≠ 0 := hSel
      rw [if_pos hSel, if_pos hSel']
      rfl
    · have hSel' : ¬(rawPat (s.unit r) false w.a (fmtOf w.fmtS) i).1 ≠ 0 := hSel
      rw [if_neg hSel, if_neg hSel']
      rfl
  · exact vecOp_gives h hq hS hD hw (fun i => rfl) hA

/-! ### SFN and GATE (05 R153 to R157, R174, R184) -/

theorem fetched_useShipped (s : State) (r : Res) : (s.fetched r).useShipped r = s.useShipped r := by
  simp only [State.useShipped, fetched_unit]

theorem fetched_sfuImage (s : State) (r : Res) : (s.fetched r).sfuImage r = s.sfuImage r := by
  cases r with
  | reach n => simp only [State.sfuImage, fetched_reach]
  | nmu d => rfl

theorem fetched_sfnSteps (s : State) (r : Res) (w : CtlWord) : sfnSteps (s.fetched r) r w = sfnSteps s r w := by
  simp only [sfnSteps, fetched_useShipped, fetched_sfuImage]

theorem fetched_sfnChk (s : State) (r : Res) (w : CtlWord) : sfnChk r w (s.fetched r) = sfnChk r w s := by
  simp only [sfnChk, State.funcPresent, fetched_useShipped, fetched_sfuImage]
  rw [fetched_unit]
  rfl

theorem fetched_sfnElem (s : State) (r : Res) (w : CtlWord) (i : Nat) : sfnElem (s.fetched r) r w i = sfnElem s r w i := by
  simp only [sfnElem, fetched_useShipped, fetched_sfuImage, fetched_val, fetched_rawPat]

/-- What SFN needs to act on its elements. -/
structure SfnActs (s : State) (r : Res) (w : CtlWord) : Prop where
  word  : wordOk r { d := .ve, a := .ve, lay := .v fun _ => true } w = true
  legal : sfnChk r w s = none
  steps : sfnSteps s r w < 2 ^ 24

theorem sfn_writes {e : Nat → W32 × Bool} (h : Ready s r {}) (hq : Quiet s r) (hActs : SfnActs s r w)
    (he : ∀ i, (BitVec.ofNat 32 (sfnElem s r w i).pat, (sfnElem s r w i).poison) = e i) :
    Writes s r w.d ((List.range (s.unit r).vl.toNat).map e) (exec (.sfn r w) s) := by
  refine (sfuVec_writes (es := fun s => (List.range (s.unit r).vl.toNat).map (sfnElem s r w)) (steps := fun s => sfnSteps s r w)
    h hq hActs.word ?_ ?_ ?_).congr ?_
  · rw [fetched_sfnChk]
    exact hActs.legal
  · rw [List.length_map, List.length_range]
    exact vl_le _
  · rw [fetched_sfnSteps]
    exact hActs.steps
  · simp only [written_range, fetched_vl, fetched_sfnElem, he]

/-- A legal FD1 function reads p16 patterns (R174). -/
theorem sfn_fd1_format (hc : sfnChk r w s = none) (hFd1 : sfnFd1 w = true) : w.fmtS = 1 := by
  by_contra hne
  simp only [sfnChk, hFd1] at hc
  split at hc
  · simp at hc
  · split at hc
    · simp at hc
    · simp [hne] at hc

/-- The element of a function that is not of FD1 is its value rounded. -/
theorem sfnElem_rounds {v : Val} (hFd1 : sfnFd1 w = false) {i : Nat}
    (hv : (if sfnFunc w ≤ 1 then nativeOut (fmtOf w.fmtD) w.qd w.ovf (sfnFunc w) (fmtOf w.fmtS).isIeee ((s.unit r).val false w.a (fmtOf w.fmtS) w.qs i).1
      else if s.useShipped r && decide (sfnFunc w ≤ 8) then
        shippedVal (fmtOf w.fmtD) w.qd w.ovf (sfnFunc w) (fmtOf w.fmtS).isIeee ((s.unit r).val false w.a (fmtOf w.fmtS) w.qs i).1
      else match imgEntry (s.sfuImage r) (sfnFunc w) with
        | some e => microVal (s.sfuImage r) e (fmtOf w.fmtD) w.qd w.ovf (fmtOf w.fmtS).isIeee ((s.unit r).val false w.a (fmtOf w.fmtS) w.qs i).1
        | none => .nan) = v) :
    (BitVec.ofNat 32 (sfnElem s r w i).pat, (sfnElem s r w i).poison) =
      (BitVec.ofNat 32 (roundTo (fmtOf w.fmtD) w.qd w.ovf v).pat, ((s.unit r).v w.a i).2) := by
  subst hv
  simp only [sfnElem, hFd1, Bool.false_eq_true, if_false, mkElem]
  rfl

/-- The element that GATE writes. -/
def gateElem (u : Machine.Unit) (w : CtlWord) (i : Nat) : Elem :=
  let f := fmtOf w.fmtS
  let g := u.val false w.a f w.qs i
  let y := if bitAt w.x 6 then (.fin 1, false) else u.val false w.b f w.qs i
  mkElem (fmtOf w.fmtD) w.qd w.ovf (gateOut (fmtOf w.fmtD) w.qd w.ovf (bits w.x 7 2) f.isIeee g.1 y.1) (g.2 || y.2) (g.1.isNan || y.1.isNan)

/-- The form of GATE (07 R223). -/
def gateForm (w : CtlWord) : Form :=
  { d := .ve, a := .ve, b := if bitAt w.x 6 then .free else .ve, nmu := false, lay := .v fun x => bits x 0 6 == 0 && bits x 7 2 != 3 }

theorem exec_gate (r : Res) (w : CtlWord) (s : State) :
    exec (.gate r w) s = .next (ctlReg r (gateForm w) w (fun _ => if fmtSfu w.fmtS && fmtSfu w.fmtD then none else some 0x0101)
      (fun s => (s.sfuBusy r (if bits w.x 7 2 = 1 then 3 else 1)).writeVec r 2 w.d.toNat w.fmtD
        ((List.range (s.unit r).vl.toNat).map (gateElem (s.unit r) w))) s) := rfl

theorem fetched_gateElem (s : State) (r : Res) (w : CtlWord) (i : Nat) : gateElem ((s.fetched r).unit r) w i = gateElem (s.unit r) w i := by
  simp only [gateElem, fetched_val]

/-- GATE writes its product of each pair of elements. -/
theorem gate_writes {e : Nat → W32 × Bool} (h : Ready s r {}) (hq : Quiet s r) (hS : fmtSfu w.fmtS = true) (hD : fmtSfu w.fmtD = true)
    (hw : wordOk r (gateForm w) w = true)
    (he : ∀ i, (BitVec.ofNat 32 (gateElem (s.unit r) w i).pat, (gateElem (s.unit r) w i).poison) = e i) :
    Writes s r w.d ((List.range (s.unit r).vl.toNat).map e) (exec (.gate r w) s) := by
  rw [exec_gate]
  have hSteps : (if bits w.x 7 2 = 1 then 3 else 1) < 2 ^ 24 := by
    split
    · decide
    · decide
  refine (sfuVec_writes (es := fun s => (List.range (s.unit r).vl.toNat).map (gateElem (s.unit r) w)) (steps := fun _ => _)
    h hq hw (by simp [hS, hD]) ?_ hSteps).congr ?_
  · rw [List.length_map, List.length_range]
    exact vl_le _
  · simp only [written_range, fetched_vl, fetched_gateElem, he]

/-- Settles O11. -/
theorem sfuFunctionResult : Obligations.SfuFunctionResult := by
  unfold Obligations.SfuFunctionResult
  intro r w s h hq
  have acts (hs : wordOk r { d := .ve, a := .ve, lay := .v fun _ => true } w = true ∧ sfnChk r w s = none ∧ sfnSteps s r w < 2 ^ 24) :
      SfnActs s r w := ⟨hs.1, hs.2.1, hs.2.2⟩
  refine ⟨fun hs hFd1 => ?_, fun hs hFd1 hf => ?_, fun hs hFd1 hLow hHigh hShip => ?_, fun hs hFd1 hLow hShip e hEntry => ?_,
    fun hNmu hS hD hw => ?_⟩
  · refine sfn_writes h hq (acts hs) fun i => ?_
    have hFmt : w.fmtS = 1 := sfn_fd1_format (acts hs).legal hFd1
    have hPat : BitVec.ofNat 16 (rawPat (s.unit r) false w.a (fmtOf w.fmtS) i).1 = ((s.unit r).v w.a i).1.extractLsb' 0 16 := by
      rw [hFmt]
      apply BitVec.eq_of_toNat_eq
      rw [BitVec.toNat_ofNat, BitVec.extractLsb'_toNat]
      change ((s.unit r).v w.a i).1.toNat % 2 ^ 16 % 2 ^ 16 = _
      simp
    simp only [sfnElem, hFd1, if_true, hPat]
    rfl
  · refine sfn_writes h hq (acts hs) fun i => sfnElem_rounds hFd1 ?_
    rw [if_pos hf]
    rfl
  · refine sfn_writes h hq (acts hs) fun i => sfnElem_rounds hFd1 ?_
    rw [if_neg (by omega), if_pos (by simp [hShip, hHigh])]
    rfl
  · refine sfn_writes h hq (acts hs) fun i => sfnElem_rounds hFd1 ?_
    rw [if_neg (by omega), if_neg (by simp [hShip]), hEntry]
    rfl
  · refine gate_writes h hq hS hD hw fun i => ?_
    cases hOne : bitAt w.x 6 with
    | true =>
      simp only [gateElem, hOne, if_true, Bool.not_true, Bool.false_and]
      rfl
    | false =>
      simp only [gateElem, hOne, Bool.false_eq_true, if_false, Bool.not_false, Bool.true_and]
      rfl

/-! ### VSPLIT (07 R226; 04 R141) -/

/-- σ of the elements of vA. -/
def splitScale (u : Machine.Unit) (k : BitVec 6) : Int := splitSigma ((List.range u.vl.toNat).map fun i => (u.val false k .p32 0 i).1)

/-- The poison bit of the pieces: one of a poisoned element poisons all. -/
def splitPoison (u : Machine.Unit) (k : BitVec 6) : Bool := (List.range u.vl.toNat).any fun i => (u.v k i).2

/-- One of the pieces of each element. -/
def splitPiece (u : Machine.Unit) (k : BitVec 6) (get : Nat × Nat × Nat → Nat) : List Elem :=
  let vs := (List.range u.vl.toNat).map fun i => (u.val false k .p32 0 i).1
  (vs.zip (vs.map (splitElem (splitScale u k)))).map fun p =>
    let x := (p.2.map get).getD 0x8000
    { pat := x, poison := splitPoison u k, nan := x == 0x8000, carried := p.1.isNan }

theorem exec_vsplit (r : Res) (w : CtlWord) (s : State) :
    exec (.vsplit r w) s = .next (ctlReg r { d := .ve3, a := .ve, c := .sc, lay := .v fun x => x == 0, nmu := false } w
      (fun _ => if w.fmtS == 2 && w.fmtD == 1 then none else some 0x0101)
      (fun s =>
        let u := s.unit r
        let ps := ((List.range u.vl.toNat).map fun i => (u.val false w.a .p32 0 i).1).map (splitElem (splitScale u w.a))
        let t := s.writeVec r 1 w.d.toNat 1 (splitPiece u w.a (·.1))
        let t := t.writeVec r 1 (w.d.toNat + 1) 1 (splitPiece u w.a (·.2.1))
        let t := t.writeVec r 1 (w.d.toNat + 2) 1 (splitPiece u w.a (·.2.2))
        let t := t.modU r fun x => x.setX w.c (BitVec.ofInt 64 (splitScale u w.a)) (splitPoison u w.a)
        ((List.range u.vl.toNat).foldl (fun t i => if (ps[i]?.getD none).isNone then t.splitInexact r (splitScale u w.a) i else t) t).vecBusy r 3)
      s) := rfl

theorem foldl_id {α β : Type} (f : β → α → β) (l : List α) (b : β) (h : ∀ x ∈ l, ∀ b, f b x = b) : l.foldl f b = b := by
  induction l generalizing b with
  | nil => rfl
  | cons x xs ih =>
    rw [List.foldl_cons, h x List.mem_cons_self]
    exact ih b fun y hy => h y (List.mem_cons_of_mem _ hy)

theorem Only.retire_unit {sp : Spans} (h : Only s t r u p b) (hReady : Ready s r sp) (hRun : u.run = (s.unit r).run)
    (hCode : u.codeLen = (s.unit r).codeLen) (hPc : u.pc = BitVec.ofNat 17 (s.unit r).next) :
    Only s (t.retire r) r { u with next := (s.unit r).next + 1 } p b := by
  rw [retire_of_ready hReady (by rw [h.unit]; exact hRun) (by rw [h.unit]; exact hPc) (by rw [h.unit]; exact hCode)]
  exact h.modU fun u => { u with next := (s.unit r).next + 1 }

theorem length_splitPiece (u : Machine.Unit) (k : BitVec 6) (get : Nat × Nat × Nat → Nat) : (splitPiece u k get).length = u.vl.toNat := by
  simp [splitPiece]

theorem written_splitPiece (u : Machine.Unit) (k : BitVec 6) (get : Nat × Nat × Nat → Nat) {i : Nat} (hi : i < u.vl.toNat)
    {q : Nat × Nat × Nat} (hq : splitElem (splitScale u k) (u.val false k .p32 0 i).1 = some q) :
    (written (splitPiece u k get)).getD i (0, false) = (BitVec.ofNat 32 (get q), splitPoison u k) := by
  simp [written, splitPiece, hi, hq]

/-- The vector registers after the three writes. -/
def splitWritten (u : Machine.Unit) (w : CtlWord) (x : Machine.Unit) : Machine.Unit :=
  ((x.setVs w.d.toNat 0 (written (splitPiece u w.a (·.1)))).setVs (w.d.toNat + 1) 0 (written (splitPiece u w.a (·.2.1)))).setVs
    (w.d.toNat + 2) 0 (written (splitPiece u w.a (·.2.2)))

theorem splitWritten_eq (u : Machine.Unit) (w : CtlWord) (x : Machine.Unit) :
    splitWritten u w x = { x with vregs := (splitWritten u w x).vregs } := by
  unfold splitWritten
  rw [setVs_eq, setVs_eq (Machine.Unit.setVs x _ _ _), setVs_eq x]

/-- What a register holds after a row was written to one register. -/
theorem v_setVs_row (u : Machine.Unit) (k : BitVec 6) (d : Nat) {es : List (W32 × Bool)} {i : Nat} (hi : i < 512) (hLen : es.length ≤ 512) :
    (u.setVs d 0 es).v k i = if k.toNat = d ∧ i < es.length then es.getD i (0, false) else u.v k i := by
  rw [v_setVs]
  by_cases hk : k.toNat = d
  · subst hk
    have hSub : 512 * k.toNat + i - (512 * k.toNat + 0) = i := by omega
    rw [hSub]
    by_cases hIn : i < es.length
    · rw [if_pos (by omega), if_pos ⟨rfl, hIn⟩]
    · rw [if_neg (by omega), if_neg (fun h => hIn h.2)]
  · rw [if_neg (by omega), if_neg (fun h => hk h.1)]

/-- What the registers hold: vD, vD + 1 and vD + 2 the pieces, every other element what it held. -/
theorem splitWritten_v (u : Machine.Unit) (w : CtlWord) (x : Machine.Unit) (k : BitVec 6) {i : Nat} (hi : i < 512) :
    (splitWritten u w x).v k i =
      if k.toNat = w.d.toNat + 2 ∧ i < u.vl.toNat then (written (splitPiece u w.a (·.2.2))).getD i (0, false)
      else if k.toNat = w.d.toNat + 1 ∧ i < u.vl.toNat then (written (splitPiece u w.a (·.2.1))).getD i (0, false)
      else if k.toNat = w.d.toNat ∧ i < u.vl.toNat then (written (splitPiece u w.a (·.1))).getD i (0, false)
      else x.v k i := by
  have hLen (get : Nat × Nat × Nat → Nat) : (written (splitPiece u w.a get)).length = u.vl.toNat := by
    rw [written_length, length_splitPiece]
  have hMax (get : Nat × Nat × Nat → Nat) : (written (splitPiece u w.a get)).length ≤ 512 := by
    rw [hLen]
    exact vl_le u
  unfold splitWritten
  rw [v_setVs_row _ _ _ hi (hMax _), v_setVs_row _ _ _ hi (hMax _), v_setVs_row _ _ _ hi (hMax _), hLen, hLen, hLen]

theorem setX_setVs (u : Machine.Unit) (k : BitVec 6) (v : W64) (q : Bool) (d j : Nat) (es : List (W32 × Bool)) :
    (u.setVs d j es).setX k v q = (u.setX k v q).setVs d j es := by
  induction es generalizing u j with
  | nil => rfl
  | cons e es ih =>
    have hOne : (u.setV d j e).setX k v q = (u.setX k v q).setV d j e := by
      unfold Machine.Unit.setX
      split
      · rfl
      · rfl
    rw [Machine.Unit.setVs, ih, hOne]
    rfl

theorem setX_splitWritten (u : Machine.Unit) (w : CtlWord) (x : Machine.Unit) (k : BitVec 6) (v : W64) (q : Bool) :
    (splitWritten u w x).setX k v q = splitWritten u w (x.setX k v q) := by
  unfold splitWritten
  rw [setX_setVs, setX_setVs, setX_setVs]

theorem fetched_splitScale (s : State) (r : Res) (k : BitVec 6) : splitScale ((s.fetched r).unit r) k = splitScale (s.unit r) k := by
  simp only [splitScale, fetched_vl, fetched_val]

theorem fetched_splitPoison (s : State) (r : Res) (k : BitVec 6) : splitPoison ((s.fetched r).unit r) k = splitPoison (s.unit r) k := by
  rw [fetched_unit]
  rfl

theorem fetched_splitPiece (s : State) (r : Res) (k : BitVec 6) (get : Nat × Nat × Nat → Nat) :
    splitPiece ((s.fetched r).unit r) k get = splitPiece (s.unit r) k get := by
  simp only [splitPiece, fetched_vl, fetched_val, fetched_splitScale, fetched_splitPoison]

/-- A row whose elements all split reports none of them (R142). -/
theorem splitInexact_none {xs : List Val} {c : Int} (hSplit : ∀ x ∈ xs, (splitElem c x).isSome = true) (r : Res) (n : Nat)
    (hn : n = xs.length) (t : State) :
    (List.range n).foldl (fun t i => if (((xs.map (splitElem c))[i]?).getD none).isNone then t.splitInexact r c i else t) t = t := by
  refine foldl_id _ _ _ fun i hi t => ?_
  have hi' : i < xs.length := by
    rw [← hn]
    exact List.mem_range.mp hi
  have hSome := hSplit xs[i] (List.getElem_mem hi')
  rw [List.getElem?_map, List.getElem?_eq_getElem hi', Option.map_some, Option.getD_some, if_neg]
  exact fun hNone => by simp [Option.isNone_iff_eq_none.mp hNone] at hSome

theorem setVs_next (u : Machine.Unit) (m d j : Nat) (es : List (W32 × Bool)) :
    { u.setVs d j es with next := m } = ({ u with next := m } : Machine.Unit).setVs d j es := by
  induction es generalizing u j with
  | nil => rfl
  | cons e es ih => exact ih (u.setV d j e) (j + 1)

theorem splitWritten_next (u : Machine.Unit) (w : CtlWord) (x : Machine.Unit) (m : Nat) :
    { splitWritten u w x with next := m } = splitWritten u w { x with next := m } := by
  unfold splitWritten
  rw [setVs_next, setVs_next, setVs_next]

theorem setX_next (u : Machine.Unit) (k : BitVec 6) (v : W64) (q : Bool) (m : Nat) :
    { u.setX k v q with next := m } = ({ u with next := m } : Machine.Unit).setX k v q := by
  unfold Machine.Unit.setX
  split
  · rfl
  · rfl

theorem splitWritten_control (u : Machine.Unit) (w : CtlWord) (x : Machine.Unit) :
    (splitWritten u w x).run = x.run ∧ (splitWritten u w x).codeLen = x.codeLen ∧ (splitWritten u w x).pc = x.pc := by
  rw [splitWritten_eq]
  exact ⟨rfl, rfl, rfl⟩

/-- The state that VSPLIT reaches before it retires. -/
def splitDone (s : State) (n : Fin 16) (w : CtlWord) : State :=
  let u := s.reach[n].u
  let t := (((s.fetched (.reach n)).writeVec (.reach n) 1 w.d.toNat 1 (splitPiece u w.a (·.1))).writeVec (.reach n) 1 (w.d.toNat + 1) 1
    (splitPiece u w.a (·.2.1))).writeVec (.reach n) 1 (w.d.toNat + 2) 1 (splitPiece u w.a (·.2.2))
  (t.modU (.reach n) fun x => x.setX w.c (BitVec.ofInt 64 (splitScale u w.a)) (splitPoison u w.a)).vecBusy (.reach n) 3

theorem splitDone_only {n : Fin 16} (hq : Quiet s (.reach n)) :
    ∃ p b, Only s (splitDone s n w) (.reach n) ((splitWritten s.reach[n].u w { s.reach[n].u with pc := BitVec.ofNat 17 s.reach[n].u.next }).setX
      w.c (BitVec.ofInt 64 (splitScale s.reach[n].u w.a)) (splitPoison s.reach[n].u w.a)) p b := by
  have hWritten := (((fetched_only s (.reach n)).writeVec rfl hq.unarmed 1 w.d.toNat 1 (splitPiece s.reach[n].u w.a (·.1))).writeVec
    (by rw [setVs_job]) hq.unarmed 1 (w.d.toNat + 1) 1 (splitPiece s.reach[n].u w.a (·.2.1))).writeVec
    (by rw [setVs_job, setVs_job]) hq.unarmed 1 (w.d.toNat + 2) 1 (splitPiece s.reach[n].u w.a (·.2.2))
  exact (hWritten.modU fun x => x.setX w.c (BitVec.ofInt 64 (splitScale s.reach[n].u w.a)) (splitPoison s.reach[n].u w.a)).vecBusy
    (busyRoom_of_quiet hq) (by decide)

theorem vsplit_acts {n : Fin 16} (h : Ready s (.reach n) {})
    (hw : wordOk (.reach n) { d := .ve3, a := .ve, c := .sc, lay := .v fun x => x == 0, nmu := false } w = true)
    (hS : w.fmtS = 2) (hD : w.fmtD = 1)
    (hSplit : ∀ i < s.reach[n].u.vl.toNat,
      (splitElem (splitScale s.reach[n].u w.a) (s.reach[n].u.val false w.a .p32 0 i).1).isSome = true) :
    exec (.vsplit (.reach n) w) s = .next ((splitDone s n w).retire (.reach n)) := by
  have hUnit : s.unit (.reach n) = s.reach[n].u := rfl
  rw [exec_vsplit]
  unfold ctlReg
  rw [ctl_acts h hw rfl (by simp [hS, hD])]
  simp only [fetched_vl, fetched_val, fetched_splitScale, fetched_splitPoison, fetched_splitPiece, hUnit]
  rw [splitInexact_none]
  · rfl
  · intro x hx
    obtain ⟨i, hi, rfl⟩ := List.mem_map.mp hx
    exact hSplit i (List.mem_range.mp hi)
  · simp

/-- VSPLIT of a row whose elements all split leaves a unit with three registers and xC written. -/
theorem vsplit_only {n : Fin 16} (h : Ready s (.reach n) {}) (hq : Quiet s (.reach n))
    (hw : wordOk (.reach n) { d := .ve3, a := .ve, c := .sc, lay := .v fun x => x == 0, nmu := false } w = true)
    (hS : w.fmtS = 2) (hD : w.fmtD = 1)
    (hSplit : ∀ i < s.reach[n].u.vl.toNat,
      (splitElem (splitScale s.reach[n].u w.a) (s.reach[n].u.val false w.a .p32 0 i).1).isSome = true) :
    ∃ t p b, exec (.vsplit (.reach n) w) s = .next t ∧ Only s t (.reach n) (splitWritten s.reach[n].u w
      ((advanced s.reach[n].u).setX w.c (BitVec.ofInt 64 (splitScale s.reach[n].u w.a)) (splitPoison s.reach[n].u w.a))) p b := by
  obtain ⟨p, b, hDone⟩ := splitDone_only (w := w) hq
  obtain ⟨hRun, hCode, hPc⟩ := splitWritten_control s.reach[n].u w ({ s.reach[n].u with pc := BitVec.ofNat 17 s.reach[n].u.next }.setX w.c
    (BitVec.ofInt 64 (splitScale s.reach[n].u w.a)) (splitPoison s.reach[n].u w.a))
  obtain ⟨hRun', hPc', hCode'⟩ := setX_kept ({ s.reach[n].u with pc := BitVec.ofNat 17 s.reach[n].u.next }) w.c
    (BitVec.ofInt 64 (splitScale s.reach[n].u w.a)) (splitPoison s.reach[n].u w.a)
  rw [setX_splitWritten] at hDone
  have hRetired := hDone.retire_unit h (hRun.trans hRun') (hCode.trans hCode') (hPc.trans hPc')
  refine ⟨_, p, b, vsplit_acts h hw hS hD hSplit, ?_⟩
  rw [splitWritten_next, setX_next] at hRetired
  exact hRetired

/-- Settles O12. -/
theorem splitPieces : Obligations.SplitPieces := by
  unfold Obligations.SplitPieces
  intro n w s h hq hw hS hD u x sigma hSplit poison
  have hVal (i : Nat) : u.val false w.a .p32 0 i = (x i, (u.v w.a i).2) := by
    have hPat : (u.v w.a i).1.toNat % 2 ^ Fmt.p32.width = (u.v w.a i).1.toNat := Nat.mod_eq_of_lt (u.v w.a i).1.isLt
    change (decode .p32 0 ((u.v w.a i).1.toNat % 2 ^ Fmt.p32.width), (u.v w.a i).2) = _
    rw [hPat]
  have hScale : splitScale u w.a = sigma := by
    simp only [splitScale, hVal]
    rfl
  have hSplit' : ∀ i < u.vl.toNat, (splitElem (splitScale u w.a) (u.val false w.a .p32 0 i).1).isSome = true := fun i hi => by
    rw [hScale, hVal]
    exact hSplit i hi
  obtain ⟨t, p, b, hExec, hOnly⟩ := vsplit_only h hq hw hS hD hSplit'
  have hUnit := hOnly.unit
  obtain ⟨hOthers, hDevice, hMemory⟩ := hOnly.framed
  have hWide : u.vl.toNat ≤ 512 := vl_le u
  have hLast : w.d.toNat + 2 < 64 := by
    simp only [wordOk, Bool.and_eq_true, useOk, decide_eq_true_eq] at hw
    exact hw.1.1.1.1.1
  have hOne : (w.d + 1).toNat = w.d.toNat + 1 := by
    rw [BitVec.toNat_add]
    exact Nat.mod_eq_of_lt (by change w.d.toNat + 1 < 64; omega)
  have hTwo : (w.d + 2).toNat = w.d.toNat + 2 := by
    rw [BitVec.toNat_add]
    exact Nat.mod_eq_of_lt (by change w.d.toNat + 2 < 64; omega)
  refine ⟨t, hExec, fun i hi h m l hPieces => ?_, fun k i hi hOther => ?_, ?_, hOthers, hDevice, hMemory⟩
  · have hSome : splitElem (splitScale u w.a) (u.val false w.a .p32 0 i).1 = some (h, m, l) := by
      rw [hScale, hVal]
      exact hPieces
    have hPiece (get : Nat × Nat × Nat → Nat) := written_splitPiece u w.a get hi hSome
    rw [hUnit]
    simp only [splitWritten_v _ _ _ _ (by omega : i < 512)]
    refine ⟨?_, ?_, ?_⟩
    · rw [if_neg (by omega), if_neg (by omega), if_pos ⟨trivial, hi⟩]
      exact hPiece _
    · rw [if_neg (by omega), if_pos ⟨hOne, hi⟩]
      exact hPiece _
    · rw [if_pos ⟨hTwo, hi⟩]
      exact hPiece _
  · rw [hUnit, splitWritten_v _ _ _ _ hi]
    have hNot {j : BitVec 6} (hne : k ≠ j) : k.toNat ≠ j.toNat := fun he => hne (BitVec.eq_of_toNat_eq he)
    have hOut (c : Nat) (hc : c = w.d.toNat + 2 ∨ c = w.d.toNat + 1 ∨ c = w.d.toNat) : ¬(k.toNat = c ∧ i < s.reach[n].u.vl.toNat) := by
      rintro ⟨hk, hIn⟩
      rcases hOther with ⟨h0, h1, h2⟩ | hPast
      · have := hNot h0
        have := hNot h1
        have := hNot h2
        omega
      · exact absurd hIn (Nat.not_lt.mpr hPast)
    rw [if_neg (hOut _ (.inl rfl)), if_neg (hOut _ (.inr (.inl rfl))), if_neg (hOut _ (.inr (.inr rfl))), setX_eq]
    rfl
  · rw [hUnit, splitWritten_eq, ← hScale]
    rfl

end Sys2Proof.Machine.Vectors

/-! PROOF. Instructions of a unit that read and write memory (07 R216, R217, R226 to R228; 09 R274; 15 R509): which lines stay under their
keys, and what a chain of reads, stores and counts leaves of the state. -/

namespace Sys2Proof.Machine.UnitMemory

open Sys2Proof.Machine Sys2Proof.Machine.Laws Sys2Proof.Machine.Frames Sys2Proof.Machine.NmuAccess Sys2Proof.Machine.Scalars
  Sys2Proof.Machine.Waits Sys2Proof.Machine.Vectors

variable {s t : State} {r : Res} {u : Machine.Unit} {ws : List (Nat × Nat)}

/-! ### Lines and their keys (15 R509, R511) -/

/-- A line that is written is under its present key, and no other line changes its key. -/
theorem keyOk_writeLine (s : State) (a : Nat) (bs : List Byte) (p : Bool) (l : Nat) :
    (s.writeLine a bs p).keyOk l = if l = a / 64 then true else s.keyOk l := by
  by_cases hl : l = a / 64
  · subst hl
    rw [if_pos rfl, State.keyOk, writeLine_lineKey, keyTag_congr (writeLine_sec s _ _ _) (writeLine_ctx s _ _ _),
      dramEnd_congr (writeLine_dev s _ _ _), Bool.or_eq_true, decide_eq_true_eq, decide_eq_true_eq]
    by_cases h : 64 * (a / 64) < s.dramEnd
    · right
      rw [if_pos h, slook_sput_same]
    · left
      omega
  · rw [if_neg hl]
    refine keyOk_congr (writeLine_sec s _ _ _) (writeLine_ctx s _ _ _) (writeLine_dev s _ _ _) ?_
    rw [writeLine_lineKey]
    split
    · exact slook_sput_ne _ _ _ _ _ hl
    · rfl

theorem keyOk_writeGo (s : State) (a : Nat) (bs : List Byte) (p : Bool) (k l : Nat) (h : s.keyOk l = true) :
    (s.writeGo a bs p k).keyOk l = true := by
  induction k generalizing s a bs with
  | zero => exact h
  | succ k ih =>
    unfold State.writeGo
    split
    · exact h
    · refine ih _ _ _ ?_
      rw [keyOk_writeLine]
      split
      · rfl
      · exact h

theorem keyOk_write (s : State) (a : Nat) (bs : List Byte) (p : Bool) {l : Nat} (h : s.keyOk l = true) : (s.write a bs p).keyOk l = true :=
  keyOk_writeGo s a bs p _ l h

theorem written_keyed_go (s : State) (a : Nat) (bs : List Byte) (p : Bool) (k b : Nat) (hFit : a % 64 + bs.length ≤ 64 * k)
    (hb : a ≤ b ∧ b < a + bs.length) : (s.writeGo a bs p k).keyOk (b / 64) = true := by
  induction k generalizing s a bs with
  | zero => omega
  | succ k ih =>
    have hNe : bs.isEmpty = false := by
      cases bs with
      | nil =>
        simp only [List.length_nil] at hb
        omega
      | cons x xs => rfl
    unfold State.writeGo
    rw [hNe]
    simp only [Bool.false_eq_true, if_false]
    by_cases hLine : b / 64 = a / 64
    · exact keyOk_writeGo _ _ _ _ _ _ (by rw [keyOk_writeLine, if_pos hLine])
    · refine ih _ _ _ ?_ ?_
      · rw [List.length_drop]
        omega
      · rw [List.length_drop]
        omega

/-- The lines that bytes are written into are under their present keys. -/
theorem written_keyed (s : State) (a : Nat) (bs : List Byte) (p : Bool) {b : Nat} (hb : a ≤ b ∧ b < a + bs.length) :
    (s.write a bs p).keyOk (b / 64) = true :=
  written_keyed_go s a bs p _ b (by omega) hb

/-! ### What a store leaves -/

theorem modNmu_keyOk (s : State) (d : Fin 4) (f : Nmu → Nmu) (l : Nat) : (s.modNmu d f).keyOk l = s.keyOk l := rfl

theorem noteShardPoison_keyOk (s : State) (r : Res) (a n l : Nat) : (s.noteShardPoison r a n).keyOk l = s.keyOk l := by
  rcases noteShardPoison_cases s r a n with h | ⟨d, rfl, h⟩
  · rw [h]
  · rw [h]
    rfl

theorem noteShardPoison_lkp (s : State) (r : Res) (a n : Nat) : (s.noteShardPoison r a n).lkp = s.lkp := by
  rcases noteShardPoison_cases s r a n with h | ⟨d, rfl, h⟩
  · rw [h]
  · rw [h]
    rfl

theorem llcLine_lkp (alloc : Bool) (s : State) (line : Nat) : (State.llcLine alloc s line).lkp = s.lkp := by
  rcases llcLine_cases s alloc line with h | ⟨d, y, x, m, o, p, -, h⟩
  · rw [h]
  · rw [h]
    have hOvf (t : State) (lost : Bool) (k p o : Nat) : (t.perfOvf lost k p o).lkp = t.lkp := by
      unfold State.perfOvf
      split
      · exact raise_lkp _ _
      · rfl
    rw [hOvf, hOvf]
    rfl

theorem llc_lkp (s : State) (a n : Nat) (alloc : Bool) : (s.llc a n alloc).lkp = s.lkp :=
  foldl_keeps State.lkp _ (fun t l => llcLine_lkp alloc t l) _ s

theorem store_lkp (s : State) (r : Res) (a : Nat) (bs : List Byte) (p : Bool) : (s.store r a bs p).lkp = s.lkp := by
  have hWritten : (Waits.written s r a bs p).lkp = s.lkp := by
    unfold Waits.written
    split
    · rw [noteShardPoison_lkp, write_lkp]
    · exact write_lkp _ _ _ _
  rw [store_eq]
  split
  · rw [llc_lkp, hWritten]
  · exact hWritten

theorem store_keyOk (s : State) (r : Res) (a : Nat) (bs : List Byte) (p : Bool) (l : Nat) :
    (s.store r a bs p).keyOk l = (s.write (unitAddr r a) bs p).keyOk l := by
  have hWritten : (Waits.written s r a bs p).keyOk l = (s.write (unitAddr r a) bs p).keyOk l := by
    unfold Waits.written
    split
    · exact noteShardPoison_keyOk _ _ _ _ _
    · rfl
  rw [store_eq]
  split
  · have hLlc := llc_accessed (Waits.written s r a bs p) a bs.length (alloc := true)
    rw [keyOk_eq hLlc.device hLlc.memory, hWritten]
  · exact hWritten

/-! ### Jobs and their first-NaR reports (08 R264, R267) -/

/-- Which jobs there are, and which of them are armed, has not changed. -/
structure JobsKept (s t : State) : Prop where
  armed : ∀ j, (t.jobRun j).armed = (s.jobRun j).armed
  next  : t.lkp.next = s.lkp.next
  sched : t.lkp.sched = s.lkp.sched

theorem jobsKept_of_lkp (h : t.lkp = s.lkp) : JobsKept s t := ⟨fun j => by rw [State.jobRun, h, State.jobRun], by rw [h], by rw [h]⟩

theorem JobsKept.trans {x : State} (h : JobsKept s t) (g : JobsKept t x) : JobsKept s x :=
  ⟨fun j => (g.armed j).trans (h.armed j), g.next.trans h.next, g.sched.trans h.sched⟩

theorem JobsKept.job? (h : JobsKept s t) (hPrf : t.prf = s.prf) (j : Nat) : t.job? j = s.job? j := by
  unfold State.job? State.newSide State.switchedReaches
  rw [h.next, h.sched, hPrf]

theorem modJob_jobsKept (s : State) (j : Nat) {f : JobRun → JobRun} (hf : ∀ x, (f x).armed = x.armed) : JobsKept s (s.modJob j f) := by
  refine ⟨fun k => ?_, rfl, rfl⟩
  by_cases hk : k = j
  · rw [hk, modJob_same, hf]
  · rw [modJob_ne s hk]

theorem notePoison_jobsKept (s : State) (j a n : Nat) : JobsKept s (s.notePoison j a n) := by
  unfold State.notePoison
  split
  · exact modJob_jobsKept s j fun _ => rfl
  · exact jobsKept_of_lkp rfl

theorem touch_jobsKept (s : State) (r : Res) (a n : Nat) : JobsKept s (s.touch r a n) := by
  have hNote := notePoison_jobsKept s (s.unit r).job (unitAddr r a) n
  unfold State.touch
  dsimp only
  split
  · exact hNote.trans (jobsKept_of_lkp (llc_lkp _ _ _ _))
  · exact hNote

/-! ### Chains of accesses -/

/-- The bytes stand at their address, in lines that are under their keys. -/
def Holds (t : State) (a : Nat) (bs : List Byte) : Prop :=
  ∀ i, (h : i < bs.length) → t.byte (a + i) = bs[i] ∧ t.keyOk ((a + i) / 64) = true

/-- The unit has come to `u`, bytes of the spans `ws` alone may have changed, and nothing beside the unit, the lockkeeper's books and what
goes with memory. -/
structure Ran (s t : State) (r : Res) (u : Machine.Unit) (ws : List (Nat × Nat)) : Prop where
  unit   : t.unit r = u
  others : OthersKept s t r
  device : DeviceKept s t
  jobs   : JobsKept s t
  keys   : ∀ l, s.keyOk l = true → t.keyOk l = true
  kept   : BytesKept s t ws

theorem othersKept_trans' {x : State} (h : OthersKept s t r) (g : OthersKept t x r) : OthersKept s x r :=
  ⟨fun m hm => (g.1 m hm).trans (h.1 m hm), fun d hd => (g.2 d hd).trans (h.2 d hd)⟩

theorem Ran.frame {x : State} {v : Machine.Unit} (h : Ran s t r u ws) (hFramed : Framed t x r) (hUnit : x.unit r = v)
    (hJobs : JobsKept t x) : Ran s x r v ws := by
  obtain ⟨hOthers, hDevice, hMemory⟩ := hFramed
  exact ⟨hUnit, othersKept_trans' h.others hOthers, deviceKept_trans h.device hDevice, h.jobs.trans hJobs,
    fun l hl => by rw [keyOk_eq hDevice hMemory]; exact h.keys l hl,
    fun b hb hOut => (byte_eq hDevice hMemory (h.keys _ hb)).trans (h.kept b hb hOut)⟩

theorem ran_refl (s : State) (r : Res) : Ran s s r (s.unit r) [] :=
  ⟨rfl, (Framed.refl s r).1, (Framed.refl s r).2.1, jobsKept_of_lkp rfl, fun _ h => h, fun _ _ _ => rfl⟩

theorem modU_lkp (s : State) (r : Res) (f : Machine.Unit → Machine.Unit) : (s.modU r f).lkp = s.lkp := by
  cases r with
  | reach n => rfl
  | nmu d => rfl

theorem Ran.modU (h : Ran s t r u ws) (f : Machine.Unit → Machine.Unit) : Ran s (t.modU r f) r (f u) ws :=
  h.frame (framed_modU t r f) (by rw [modU_unit, h.unit]) (jobsKept_of_lkp (modU_lkp t r f))

theorem fetched_ran (s : State) (r : Res) : Ran s (s.fetched r) r { s.unit r with pc := BitVec.ofNat 17 (s.unit r).next } [] :=
  (ran_refl s r).modU fun u => { u with pc := BitVec.ofNat 17 u.next }

theorem Ran.store (h : Ran s t r u ws) (a : Nat) (bs : List Byte) (p : Bool) :
    Ran s (t.store r a bs p) r u (ws ++ [(unitAddr r a, bs.length)]) := by
  have hStored := store_stored t r a bs p
  refine ⟨hStored.unit.trans h.unit, othersKept_trans' h.others hStored.others, deviceKept_trans h.device hStored.device,
    h.jobs.trans (jobsKept_of_lkp (store_lkp t r a bs p)), fun l hl => ?_, fun b hb hOut => ?_⟩
  · rw [store_keyOk]
    exact keyOk_write t _ _ _ (h.keys l hl)
  · have hLast : b < unitAddr r a ∨ unitAddr r a + bs.length ≤ b := hOut (unitAddr r a, bs.length) (by simp)
    rw [hStored.byte, byte_write, if_neg (by omega)]
    exact h.kept b hb fun w hw => hOut w (List.mem_append_left _ hw)

theorem Ran.mono {ws' : List (Nat × Nat)} (h : Ran s t r u ws)
    (hSub : ∀ b, (∀ w ∈ ws', b < w.1 ∨ w.1 + w.2 ≤ b) → ∀ w ∈ ws, b < w.1 ∨ w.1 + w.2 ≤ b) : Ran s t r u ws' :=
  ⟨h.unit, h.others, h.device, h.jobs, h.keys, fun b hb hOut => h.kept b hb (hSub b hOut)⟩

/-! ### Bytes that a chain has written -/

theorem Holds.are {a : Nat} {bs : List Byte} (h : Holds t a bs) : BytesAre t a bs := fun i hi => (h i hi).1

theorem Holds.frame {x : State} {a : Nat} {bs : List Byte} (h : Holds t a bs) (hFramed : Framed t x r) : Holds x a bs := fun i hi => by
  rw [keyOk_eq hFramed.2.1 hFramed.2.2, byte_eq hFramed.2.1 hFramed.2.2 (h i hi).2]
  exact h i hi

theorem store_holds (t : State) (r : Res) (a : Nat) (bs : List Byte) (p : Bool) : Holds (t.store r a bs p) (unitAddr r a) bs := fun i hi => by
  refine ⟨?_, ?_⟩
  · rw [(store_stored t r a bs p).byte]
    exact write_bytesAre t _ bs false i hi
  · rw [store_keyOk]
    exact written_keyed t _ _ _ (by omega)

theorem Holds.store {a c : Nat} {bs cs : List Byte} (h : Holds t a bs) (r : Res) (p : Bool)
    (hApart : a + bs.length ≤ unitAddr r c ∨ unitAddr r c + cs.length ≤ a) : Holds (t.store r c cs p) a bs := fun i hi => by
  refine ⟨?_, ?_⟩
  · rw [(store_stored t r c cs p).byte, byte_write, if_neg (by omega)]
    exact (h i hi).1
  · rw [store_keyOk]
    exact keyOk_write t _ _ _ (h i hi).2

/-! ### Reading and counting in a chain -/

/-- What reading, counting and raising an event leave: the unit, memory, which jobs are armed, and everything beside. -/
structure Counts (t x : State) (r : Res) : Prop where
  framed : Framed t x r
  unit   : x.unit r = t.unit r
  jobs   : JobsKept t x

theorem Counts.refl (t : State) (r : Res) : Counts t t r := ⟨Framed.refl t r, rfl, jobsKept_of_lkp rfl⟩

theorem Counts.trans {x y : State} (h : Counts t x r) (g : Counts x y r) : Counts t y r :=
  ⟨h.framed.trans g.framed, g.unit.trans h.unit, h.jobs.trans g.jobs⟩

theorem Ran.counts {x : State} (h : Ran s t r u ws) (g : Counts t x r) : Ran s x r u ws := h.frame g.framed (g.unit.trans h.unit) g.jobs

theorem counts_of_only {x : State} {p : ReachPerf} {b : Perf} (h : Only t x r (t.unit r) p b) : Counts t x r :=
  ⟨h.framed, h.unit, jobsKept_of_lkp h.lkp⟩

theorem touch_counts (t : State) (r : Res) (a n : Nat) : Counts t (t.touch r a n) r :=
  ⟨framed_of_accessed (touch_kept t r a n) r, accessed_unit (touch_kept t r a n) r, touch_jobsKept t r a n⟩

theorem countCvt_counts (t : State) (r : Res) (a b : Nat) : Counts t (t.countCvt r a b) r := counts_of_only ((only_refl t r).countCvt a b)

theorem countRange_counts (t : State) (r : Res) (a : Nat) : Counts t (t.countRange r a) r := counts_of_only ((only_refl t r).countRange a)

theorem countLimit_counts (t : State) (r : Res) (a : Nat) : Counts t (t.countLimit r a) r := counts_of_only ((only_refl t r).countLimit a)

theorem modCnt_counts (t : State) (n : Fin 16) (f : ReachCnt → ReachCnt) : Counts t (t.modCnt n f) (.reach n) :=
  counts_of_only ((only_refl t (.reach n)).modCnt f)

theorem unit_raise (t : State) (r : Res) (e : Ev) : (t.raise e).unit r = t.unit r := by
  cases r with
  | reach n => rfl
  | nmu d => rfl

theorem perfOvf_counts (t : State) (r : Res) (lost : Bool) (k p o : Nat) : Counts t (t.perfOvf lost k p o) r := by
  unfold State.perfOvf
  split
  · exact ⟨framed_raise t r _, unit_raise t r _, jobsKept_of_lkp (raise_lkp t _)⟩
  · exact Counts.refl t r

/-- Cycles that are counted, whether or not a counter passes its end. -/
theorem vecBusyK_counts (t : State) (r : Res) (k : Nat) : Counts t (t.vecBusyK r k) r := by
  cases r with
  | reach n =>
    simp only [State.vecBusyK, State.countPerf]
    split
    · exact Counts.refl t _
    · have hSet (p : Reach → ReachPerf) : Counts t (t.modReach n fun x => { x with perf := p x }) (.reach n) :=
        ⟨framed_modReach t n _, by simp [State.unit], jobsKept_of_lkp rfl⟩
      exact (hSet _).trans (perfOvf_counts _ _ _ _ _ _)
  | nmu d =>
    simp only [State.vecBusyK, State.countNmu]
    split
    · exact Counts.refl t _
    · have hSet (p : Perf) : Counts t (t.modNmu d fun x => { x with busy := p }) (.nmu d) :=
        ⟨⟨modNmu_othersKept t d _, (modNmu_alike t d _).device, (modNmu_alike t d _).memory⟩,
          by simp [State.unit], jobsKept_of_lkp rfl⟩
      exact (hSet _).trans (perfOvf_counts _ _ _ _ _ _)

theorem vecBusy_counts (t : State) (r : Res) (per : Nat) : Counts t (t.vecBusy r per) r := by
  obtain ⟨k, -, hEq⟩ := vecBusy_eq t r per
  rw [hEq]
  exact vecBusyK_counts t r k

/-! ### Reports and retirement in a chain -/

/-- An unarmed job gets no report. -/
theorem Ran.unarmed (h : Ran s t r u ws) (hj : u.job = (s.unit r).job) (hq : (s.jobRun (s.unit r).job).armed = false) :
    (t.jobRun (t.unit r).job).armed = false := by
  rw [h.unit, hj, h.jobs.armed]
  exact hq

theorem Ran.trapRec (h : Ran s t r u ws) (hj : u.job = (s.unit r).job) (hq : (s.jobRun (s.unit r).job).armed = false)
    (part lane slot fmt : Nat) (nan carried : Bool) : t.trapRec r part lane slot fmt nan carried = t :=
  trapRec_unarmed (h.unarmed hj hq) part lane slot fmt nan carried

/-- The state after a report that does not stop the step: it stands on the unit and among the job's. -/
def reported (t : State) (n : Fin 16) (x : TrapRep) : State :=
  let y := { x with ts := t.time, step := t.reach[n].u.step }
  (t.modU (.reach n) fun u => { u with trap := some y }).modJob t.reach[n].u.job fun j => { j with traps := j.traps ++ [(n.val, y)] }

theorem trapEvent_cases (t : State) (n : Fin 16) (x : TrapRep)
    (h : (t.jobRun t.reach[n].u.job).armed = false ∨ ((t.job? t.reach[n].u.job).map JobE.nstop).getD false = false) :
    t.trapEvent (.reach n) x = t ∨ t.trapEvent (.reach n) x = reported t n x := by
  have hUnit : t.unit (.reach n) = t.reach[n].u := rfl
  by_cases hOff : (!(t.jobRun t.reach[n].u.job).armed || t.reach[n].u.trap.isSome) = true
  · left
    simp only [State.trapEvent, hUnit, hOff, if_true]
  · right
    have hStop : (((reported t n x).job? t.reach[n].u.job).map JobE.nstop).getD false = false := by
      rcases h with hUnarmed | hNone
      · exact absurd (by rw [hUnarmed]; rfl) hOff
      · exact hNone
    simp only [State.trapEvent, hUnit, hOff]
    exact if_neg (by rw [← Bool.not_eq_true] at hStop; exact hStop)

theorem Ran.reported {n : Fin 16} (h : Ran s t (.reach n) u ws) (x : TrapRep) :
    Ran s (reported t n x) (.reach n) { u with trap := ((UnitMemory.reported t n x).unit (.reach n)).trap } ws := by
  have hMarked := h.modU fun u => { u with trap := some { x with ts := t.time, step := t.reach[n].u.step } }
  have hUnit : (UnitMemory.reported t n x).unit (.reach n) = { u with trap := some { x with ts := t.time, step := t.reach[n].u.step } } :=
    hMarked.unit
  rw [hUnit]
  exact hMarked.frame (framed_lkp _ _ _) hMarked.unit (modJob_jobsKept _ _
    (f := fun j => { j with traps := j.traps ++ [(n.val, { x with ts := t.time, step := t.reach[n].u.step })] }) fun _ => rfl)

/-- A report that does not stop the step leaves its mark on the unit, and in the lockkeeper's books. -/
theorem Ran.trapIf (h : Ran s t r u ws) (hj : u.job = (s.unit r).job) (hq : NoTrapStop s r) (x : Option TrapRep) :
    Ran s (t.trapIf r x) r { u with trap := ((t.trapIf r x).unit r).trap } ws := by
  have hSame : Ran s t r { u with trap := (t.unit r).trap } ws := by
    rw [h.unit]
    exact h
  cases x with
  | none => exact hSame
  | some x =>
    cases r with
    | nmu d => exact hSame
    | reach n =>
      have hJob : t.reach[n].u.job = (s.unit (.reach n)).job := (congrArg Machine.Unit.job h.unit).trans hj
      have hStop : (t.jobRun t.reach[n].u.job).armed = false ∨ ((t.job? t.reach[n].u.job).map JobE.nstop).getD false = false := by
        rw [hJob, h.jobs.armed, h.jobs.job? h.device.2.2.2.2.2.2.2.1]
        exact hq
      change Ran s (t.trapEvent (.reach n) x) _ { u with trap := ((t.trapEvent (.reach n) x).unit (.reach n)).trap } ws
      rcases trapEvent_cases t n x hStop with hEq | hEq
      · rw [hEq]
        exact hSame
      · rw [hEq]
        exact h.reported x

/-- An instruction that retires leaves its unit one word on. -/
theorem Ran.retire {sp : Spans} (h : Ran s t r u ws) (hReady : Ready s r sp) (hRun : u.run = (s.unit r).run)
    (hCode : u.codeLen = (s.unit r).codeLen) (hPc : u.pc = BitVec.ofNat 17 (s.unit r).next) :
    Ran s (t.retire r) r { u with next := (s.unit r).next + 1 } ws := by
  rw [retire_of_ready hReady (by rw [h.unit]; exact hRun) (by rw [h.unit]; exact hPc) (by rw [h.unit]; exact hCode)]
  exact h.modU fun u => { u with next := (s.unit r).next + 1 }

/-! ### Records (07 R217, R227, R228; 04 R134) -/

theorem length_header (x : Fwp) : x.bytes.length = 96 := by simp [Fwp.bytes]

theorem length_winner (x : Winner) : x.bytes.length = 8 := by simp [Winner.bytes]

/-- What a unit that has written one record, and went on, leaves. -/
def WritesAt (s : State) (r : Res) (a : Nat) (bs : List Byte) (n : Nat) (o : Host.Outcome State Fault Refusal) : Prop :=
  ∃ t, o = .next t ∧ t.unit r = advanced (s.unit r) ∧ OthersKept s t r ∧ DeviceKept s t ∧ BytesAre t (unitAddr r a) bs ∧
    BytesKept s t [(unitAddr r a, n)]

/-- A chain that ends in a store and counts, and then retires, has written one record. -/
theorem writesAt_of_ran {sp : Spans} {a : Nat} {bs : List Byte} (hReady : Ready s r sp)
    (h : Ran s t r { s.unit r with pc := BitVec.ofNat 17 (s.unit r).next } [(unitAddr r a, bs.length)]) (g : Holds t (unitAddr r a) bs) :
    WritesAt s r a bs bs.length (.next (t.retire r)) := by
  have hRetired := h.retire hReady rfl rfl rfl
  have hEq : t.retire r = t.modU r fun u => { u with next := (s.unit r).next + 1 } :=
    retire_of_ready hReady (by rw [h.unit]) (by rw [h.unit]) (by rw [h.unit])
  refine ⟨_, rfl, hRetired.unit, hRetired.others, hRetired.device, ?_, hRetired.kept⟩
  rw [hEq]
  exact (g.frame (framed_modU t r _)).are

/-- The state that has dispatched and stored one record, with what is read before and counted after. -/
theorem store_writesAt {sp : Spans} {x y : State} {a n : Nat} {bs : List Byte} {p : Bool} (hReady : Ready s r sp) (hLen : bs.length = n)
    (hRead : Counts (s.fetched r) x r) (hCount : Counts (x.store r a bs p) y r) : WritesAt s r a bs n (.next (y.retire r)) := by
  subst hLen
  exact writesAt_of_ran hReady ((((fetched_ran s r).counts hRead).store a bs p).counts hCount)
    ((store_holds x r a bs p).frame hCount.framed)

/-- The chain up to a first-NaR report: the job is not armed and gets none. -/
theorem Counts.trapRec {x : State} (h : Counts t x r) (hq : (t.jobRun (t.unit r).job).armed = false) (part lane slot fmt : Nat)
    (nan carried : Bool) : Counts t (x.trapRec r part lane slot fmt nan carried) r := by
  rw [trapRec_unarmed]
  · exact h
  · rw [h.unit, h.jobs.armed]
    exact hq

theorem fetched_unarmed (h : (s.jobRun (s.unit r).job).armed = false) : ((s.fetched r).jobRun ((s.fetched r).unit r).job).armed = false := by
  rw [fetched_job, (fetched_ran s r).jobs.armed]
  exact h

theorem store_unarmed {x : State} (hRead : Counts (s.fetched r) x r) (h : (s.jobRun (s.unit r).job).armed = false) (a : Nat)
    (bs : List Byte) (p : Bool) : ((x.store r a bs p).jobRun ((x.store r a bs p).unit r).job).armed = false := by
  have hRan := ((fetched_ran s r).counts hRead).store a bs p
  exact hRan.unarmed rfl h

/-! ### Reductions (07 R227) -/

variable {w : CtlWord}

/-- The record that VSUM and VSUMSQ write. -/
def sumRecord (u : Machine.Unit) (w : CtlWord) (sq : Bool) : Fwp :=
  Fwp.ofVals w.fmtS ((List.range u.vl.toNat).any fun i => (u.v w.a i).2) ((List.range u.vl.toNat).map fun i =>
    let x := (u.val false w.a (fmtOf w.fmtS) w.qs i).1
    if sq then (squareVal x).1 else x)

/-- VSUM and VSUMSQ write the record of the exact sum. -/
theorem vecSum_writes {sq : Bool} {a : Nat} (ha : ((s.unit r).x w.d).toNat = a) (hq : (s.jobRun (s.unit r).job).armed = false)
    (hS : fmtV w.fmtS = true) (hp : (s.unit r).xp w.d = false) (hw : wordOk r formSum w = true) (h : Ready s r { wr := [(a, a + 96)] })
    (hAlign : a % 32 = 0) (hOk : s.accOk r a 96 true = true) :
    WritesAt s r a (sumRecord (s.unit r) w sq).bytes 96 (.next (vecSum sq r w s)) := by
  subst ha
  have hRecord (xs : List (Val × Bool)) (hxs : xs = (List.range (s.unit r).vl.toNat).map fun i => (s.unit r).val false w.a (fmtOf w.fmtS) w.qs i) :
      Fwp.ofVals w.fmtS (xs.any (·.2)) ((xs.map fun x => if sq then squareVal x.1 else (x.1, false)).map (·.1)) = sumRecord (s.unit r) w sq := by
    subst hxs
    unfold sumRecord
    rw [List.any_map, List.map_map, List.map_map]
    congr 1
    refine List.map_congr_left fun i _ => ?_
    cases sq
    · rfl
    · rfl
  unfold vecSum
  rw [ctl_acts h hw]
  · simp only [fetched_vl, fetched_val, fetched_x, hRecord _ rfl]
    exact store_writesAt h (length_header _) (Counts.refl _ _)
      (((countRange_counts _ _ _).trapRec (store_unarmed (Counts.refl _ _) hq _ _ _) _ _ _ _ _ _).trans (vecBusy_counts _ _ _))
  · rw [fetched_any_xp]
    simp [hp]
  · simp [-fetched_unit, recOk, fetched_x, fetched_accOk_any, hOk, hAlign, fmtChkS, hS]

/-- The winner that VMAXI and VMINI find. -/
def rowWinner (u : Machine.Unit) (w : CtlWord) (isMax : Bool) : Winner :=
  winnerOf isMax (fmtOf w.fmtS) w.qs ((List.range u.vl.toNat).map fun i =>
    { index := (u.x w.b + BitVec.ofNat 64 i).toNat % 2 ^ 32, pat := (rawPat u false w.a (fmtOf w.fmtS) i).1
      poison := (rawPat u false w.a (fmtOf w.fmtS) i).2 || u.xp w.b })

/-- VMAXI and VMINI write the record of the winner. -/
theorem vecWinner_writes {isMax : Bool} {a : Nat} (ha : ((s.unit r).x w.d).toNat = a) (hq : (s.jobRun (s.unit r).job).armed = false)
    (hS : fmtV w.fmtS = true) (hp : (s.unit r).xp w.d = false)
    (hw : wordOk r { d := .sc, a := .ve, b := .sc, lay := .v fun x => x == 0 } w = true) (h : Ready s r { wr := [(a, a + 8)] })
    (hAlign : a % 8 = 0) (hOk : s.accOk r a 8 true = true) :
    WritesAt s r a (rowWinner (s.unit r) w isMax).bytes 8 (.next (vecWinner isMax r w s)) := by
  subst ha
  unfold vecWinner
  rw [ctl_acts h hw]
  · simp only [fetched_vl, fetched_rawPat, fetched_x, fetched_xp]
    exact store_writesAt h (length_winner _) (Counts.refl _ _)
      (((Counts.refl _ _).trapRec (store_unarmed (Counts.refl _ _) hq _ _ _) _ _ _ _ _ _).trans (vecBusy_counts _ _ _))
  · rw [fetched_any_xp]
    simp [hp]
  · simp [-fetched_unit, recOk, fetched_x, fetched_accOk_any, hOk, hAlign, fmtChkS, hS]

/-- The record that WPROD writes. -/
def prodRecord (u : Machine.Unit) (w : CtlWord) : Fwp :=
  { Fwp.ofVals w.fmtS (u.xp w.a || u.xp w.b) [((Term.ofVal (mulVal (fmtOf w.fmtS).isIeee (u.val true w.a (fmtOf w.fmtS) w.qs 0).1
      (u.val true w.b (fmtOf w.fmtS) w.qs 0).1)).range .q32).1.val] with acc := 1 }

/-- WPROD writes the record of the exact product. -/
theorem wprod_writes {a : Nat} (ha : ((s.unit r).x w.d).toNat = a) (hq : (s.jobRun (s.unit r).job).armed = false)
    (hS : fmtV w.fmtS = true) (hp : (s.unit r).xp w.d = false)
    (hw : wordOk r (form8 .sc .sc .sc .no) w = true) (h : Ready s r { wr := [(a, a + 96)] })
    (hAlign : a % 32 = 0) (hOk : s.accOk r a 96 true = true) :
    WritesAt s r a (prodRecord (s.unit r) w).bytes 96 (exec (.wprod r w) s) := by
  subst ha
  change WritesAt s r _ _ 96 (execWprod r w s)
  unfold execWprod
  dsimp only
  rw [ctl_acts h hw]
  · simp only [fetched_val, fetched_x]
    exact store_writesAt h (length_header _) (Counts.refl _ _)
      ((countRange_counts _ _ _).trapRec (store_unarmed (Counts.refl _ _) hq _ _ _) _ _ _ _ _ _)
  · rw [fetched_any_xp]
    simp [hp]
  · simp [-fetched_unit, recOk, fetched_x, fetched_accOk_any, hOk, hAlign, fmtChkS, hS]

/-- Settles O15. -/
theorem reductionRecords : Obligations.ReductionRecords := by
  unfold Obligations.ReductionRecords
  intro r w s hq hS hp
  have out {i : Instr} {bs : List Byte} {n : Nat} {a : Nat} (h : WritesAt s r a bs n (exec i s)) : Gives i s fun t =>
      t.unit r = advanced (s.unit r) ∧ OthersKept s t r ∧ DeviceKept s t ∧ BytesAre t (unitAddr r a) bs ∧ BytesKept s t [(unitAddr r a, n)] := h
  have hIndex (i : Nat) : ((s.unit r).x w.b + BitVec.ofNat 64 i).toNat % 2 ^ 32 = (((s.unit r).x w.b).toNat + i) % 2 ^ 32 := by
    rw [BitVec.toNat_add, BitVec.toNat_ofNat]
    omega
  refine ⟨fun hw h hAlign hOk => ?_, fun hw h hAlign hOk => ?_, fun hw h hAlign hOk => ?_, fun hw h hAlign hOk => ?_,
    fun hw h hAlign hOk => ?_⟩
  · exact out (vecSum_writes (sq := false) rfl hq.unarmed hS hp hw h hAlign hOk)
  · exact out (vecSum_writes (sq := true) rfl hq.unarmed hS hp hw h hAlign hOk)
  · have hWin := out (i := .vmaxi r w) (vecWinner_writes (isMax := true) rfl hq.unarmed hS hp hw h hAlign hOk)
    simp only [rowWinner, hIndex] at hWin
    exact hWin
  · have hWin := out (i := .vmini r w) (vecWinner_writes (isMax := false) rfl hq.unarmed hS hp hw h hAlign hOk)
    simp only [rowWinner, hIndex] at hWin
    exact hWin
  · exact out (wprod_writes rfl hq.unarmed hS hp hw h hAlign hOk)

/-! ### The wide adder (07 R228; 05 R176 to R178) -/

theorem fetched_readFwp (s : State) (r : Res) (a : Nat) : (s.fetched r).readFwp r a = s.readFwp r a := by
  simp only [State.readFwp, State.fetched, modU_read, modU_poisonedRange]

theorem fetched_readWinner (s : State) (r : Res) (a : Nat) : (s.fetched r).readWinner r a = s.readWinner r a := by
  simp only [State.readWinner, State.readNat, State.fetched, modU_read, modU_poisonedRange]

theorem touch_touch_counts (t : State) (r : Res) (a b n m : Nat) : Counts t ((t.touch r a n).touch r b m) r :=
  (touch_counts t r a n).trans (touch_counts _ r b m)

/-- WINMAX and WINMIN write the winner of two records. -/
theorem winCombine_writes {up : Bool} {a b d : Nat} (ha : ((s.unit r).x w.a).toNat = a) (hb : ((s.unit r).x w.b).toNat = b)
    (hd : ((s.unit r).x w.d).toNat = d) (hq : (s.jobRun (s.unit r).job).armed = false) (hS : fmtV w.fmtS = true)
    (hp : [w.d, w.a, w.b].any (s.unit r).xp = false) (hw : wordOk r { d := .sc, a := .sc, b := .sc, lay := .v fun x => x == 0 } w = true)
    (h : Ready s r { rd := [(a, a + 8), (b, b + 8)], wr := [(d, d + 8)] }) (hAlign : d % 8 = 0 ∧ a % 8 = 0 ∧ b % 8 = 0)
    (hOk : s.accOk r d 8 true = true ∧ s.accOk r a 8 false = true ∧ s.accOk r b 8 false = true) :
    WritesAt s r d (winnerOf up (fmtOf w.fmtS) w.qs [s.readWinner r a, s.readWinner r b]).bytes 8 (.next (winCombine up r w s)) := by
  subst ha hb hd
  obtain ⟨hAd, hAa, hAb⟩ := hAlign
  obtain ⟨hOd, hOa, hOb⟩ := hOk
  unfold winCombine
  dsimp only
  rw [ctl_acts h hw]
  · simp only [fetched_x, fetched_readWinner]
    exact store_writesAt h (length_winner _) (touch_touch_counts _ _ _ _ _ _)
      (((Counts.refl _ _).trapRec (store_unarmed (touch_touch_counts _ _ _ _ _ _) hq _ _ _) _ _ _ _ _ _).trans (vecBusyK_counts _ _ _))
  · rw [fetched_any_xp]
    exact hp
  · simp [-fetched_unit, recOk, fetched_x, fetched_accOk_any, hAd, hAa, hAb, hOd, hOa, hOb, fmtChkS, hS]

/-- ROWSTAT writes mean and variance. -/
theorem rowstat_writes {a b d : Nat} (ha : ((s.unit r).x w.a).toNat = a) (hb : ((s.unit r).x w.b).toNat = b)
    (hd : ((s.unit r).x w.d).toNat = d) (hq : (s.jobRun (s.unit r).job).armed = false)
    (hp : [w.d, w.a, w.b].any (s.unit r).xp = false) (hw : wordOk r (form8 .sc .sc .sc .no) w = true)
    (h : Ready s r { rd := [(a, a + 96), (b, b + 96)], wr := [(d, d + 8)] }) (hAlign : d % 8 = 0 ∧ a % 32 = 0 ∧ b % 32 = 0)
    (hOk : s.accOk r d 8 true = true ∧ s.accOk r a 96 false = true ∧ s.accOk r b 96 false = true) :
    WritesAt s r d (leBytes 4 (roundTo (rowFmt (s.readFwp r a)) 0 w.ovf (rowStat w.ovf (s.readFwp r a) (s.readFwp r b)).m).pat ++
      leBytes 4 (roundTo (rowFmt (s.readFwp r a)) 0 w.ovf (rowStat w.ovf (s.readFwp r a) (s.readFwp r b)).v).pat) 8
      (exec (.rowstat r w) s) := by
  subst ha hb hd
  obtain ⟨hAd, hAa, hAb⟩ := hAlign
  obtain ⟨hOd, hOa, hOb⟩ := hOk
  change WritesAt s r _ _ 8 (execRowstat r w s)
  unfold execRowstat
  dsimp only
  rw [ctl_acts h hw]
  · simp only [fetched_x, fetched_readFwp]
    cases r with
    | reach n =>
      exact store_writesAt h (by simp) (touch_touch_counts _ _ _ _ _ _)
        ((((countRange_counts _ _ _).trans (countCvt_counts _ _ _ _)).trans (modCnt_counts _ _ _)).trapRec
          (store_unarmed (touch_touch_counts _ _ _ _ _ _) hq _ _ _) _ _ _ _ _ _)
    | nmu d =>
      exact store_writesAt h (by simp) (touch_touch_counts _ _ _ _ _ _)
        (((countRange_counts _ _ _).trans (countCvt_counts _ _ _ _)).trapRec
          (store_unarmed (touch_touch_counts _ _ _ _ _ _) hq _ _ _) _ _ _ _ _ _)
  · rw [fetched_any_xp]
    exact hp
  · simp [-fetched_unit, recOk, fetched_x, fetched_accOk_any, hAd, hAa, hAb, hOd, hOa, hOb]

/-- Combining in order, with the events counted beside. -/
theorem foldl_combine (rs : List Fwp) (c : Fwp) (k : Nat) :
    (rs.foldl (fun (p : Fwp × Nat) b => let c := p.1.combine b; (c.1, p.2 + b2n c.2)) (c, k)).1 = rs.foldl (fun c b => (c.combine b).1) c := by
  induction rs generalizing c k with
  | nil => rfl
  | cons b rs ih => exact ih _ _

/-- The combination of a row of records is that of the first with those behind it. -/
theorem combine_row (rec_ : Nat → Fwp) {n : Nat} (hn : 1 ≤ n) :
    ((((List.range n).map rec_).drop 1).foldl (fun c b => (c.combine b).1) (((List.range n).map rec_).headD {})) =
      (List.range (n - 1)).foldl (fun c i => (c.combine (rec_ (i + 1))).1) (rec_ 0) := by
  obtain ⟨m, rfl⟩ : ∃ m, n = m + 1 := ⟨n - 1, by omega⟩
  rw [List.range_succ_eq_map, Nat.add_sub_cancel]
  simp [List.foldl_map]

/-- WRED writes the combination of its records. -/
theorem wred_writes {a d n : Nat} (ha : ((s.unit r).x w.a).toNat = a) (hn : ((s.unit r).x w.c).toNat = n)
    (hd : ((s.unit r).x w.d).toNat = d) (hq : (s.jobRun (s.unit r).job).armed = false)
    (hp : [w.d, w.a, w.c].any (s.unit r).xp = false) (hw : wordOk r (form8 .sc .sc .no .sc) w = true)
    (h : Ready s r { rd := [(a, a + 96 * n)], wr := [(d, d + 96)] }) (hLow : 1 ≤ n) (hHigh : n ≤ 65536) (hAlign : d % 32 = 0 ∧ a % 32 = 0)
    (hOk : s.accOk r d 96 true = true ∧ s.accOk r a (96 * n) false = true) :
    WritesAt s r d ((List.range (n - 1)).foldl (fun c i => (c.combine (s.readFwp r (a + 96 * (i + 1)))).1) (s.readFwp r (a + 96 * 0))).bytes
      96 (exec (.wred r w) s) := by
  subst ha hd hn
  obtain ⟨hAd, hAa⟩ := hAlign
  obtain ⟨hOd, hOa⟩ := hOk
  have hCount : countBad ((s.unit r).x w.c).toNat = false := by
    simp only [countBad, Bool.or_eq_false_iff, decide_eq_false_iff_not]
    omega
  change WritesAt s r _ _ 96 (execWred r w s)
  unfold execWred
  dsimp only
  rw [ctl_acts h hw]
  · simp only [fetched_x, fetched_readFwp]
    rw [← combine_row (fun i => s.readFwp r (((s.unit r).x w.a).toNat + 96 * i)) hLow, ← foldl_combine _ _ 0]
    exact store_writesAt h (length_header _) (touch_counts _ _ _ _)
      ((countLimit_counts _ _ _).trapRec (store_unarmed (touch_counts _ _ _ _) hq _ _ _) _ _ _ _ _ _)
  · rw [fetched_any_xp]
    exact hp
  · simp [-fetched_unit, recOk, fetched_x, fetched_accOk_any, hAd, hAa, hOd, hOa, hCount]

/-- WROUND writes the rounded record into a scalar register. -/
theorem wround_gives {a : Nat} (ha : ((s.unit r).x w.a).toNat = a) (hq : (s.jobRun (s.unit r).job).armed = false)
    (hD : fmtV w.fmtD = true) (hp : (s.unit r).xp w.a = false) (hw : wordOk r (form8 .sc .sc .no .no) w = true)
    (h : Ready s r { rd := [(a, a + 96)] }) (hAlign : a % 32 = 0) (hOk : s.accOk r a 96 false = true) :
    Gives (.wround r w) s fun t => Framed s t r ∧
      t.unit r = advanced ((s.unit r).setX w.d (BitVec.ofNat 64 (roundTo (fmtOf w.fmtD) w.qd w.ovf (s.readFwp r a).val).pat)
        (s.readFwp r a).poison) := by
  subst ha
  let e := roundTo (fmtOf w.fmtD) w.qd w.ovf (s.readFwp r ((s.unit r).x w.a).toNat).val
  let v : W64 := BitVec.ofNat 64 e.pat
  let q := (s.readFwp r ((s.unit r).x w.a).toNat).poison
  let t1 := ((s.fetched r).touch r ((s.unit r).x w.a).toNat 96).modU r fun u => u.setX w.d v q
  have hRead := touch_counts (s.fetched r) r ((s.unit r).x w.a).toNat 96
  have hUnit1 : t1.unit r = { s.unit r with pc := BitVec.ofNat 17 (s.unit r).next }.setX w.d v q := by
    change (State.modU _ r _).unit r = _
    rw [modU_unit, hRead.unit, fetched_unit]
  have hFramed1 : Framed s t1 r := ((framed_modU s r _).trans hRead.framed).trans (framed_modU _ r _)
  have hCount := countCvt_counts t1 r (b2n e.clamp) (b2n e.narInt)
  obtain ⟨hRun, hPc, hCode⟩ := setX_kept { s.unit r with pc := BitVec.ofNat 17 (s.unit r).next } w.d v q
  have hUnit2 := hCount.unit.trans hUnit1
  have hArmed : ((t1.countCvt r (b2n e.clamp) (b2n e.narInt)).jobRun ((t1.countCvt r (b2n e.clamp) (b2n e.narInt)).unit r).job).armed = false :=
    ((((fetched_ran s r).counts hRead).modU fun u => u.setX w.d v q).counts hCount).unarmed (by rw [setX_eq]) hq
  have hRetire := retire_of_ready (t := t1.countCvt r (b2n e.clamp) (b2n e.narInt)) h (by rw [hUnit2, hRun]) (by rw [hUnit2, hPc])
    (by rw [hUnit2, hCode])
  refine ⟨(t1.countCvt r (b2n e.clamp) (b2n e.narInt)).modU r fun u => { u with next := (s.unit r).next + 1 }, ?_, ?_, ?_⟩
  · change execWround r w s = _
    unfold execWround
    dsimp only
    rw [ctl_acts h hw]
    · simp only [fetched_x, fetched_readFwp]
      rw [trapRec_unarmed hArmed]
      exact congrArg Host.Outcome.next hRetire
    · rw [fetched_any_xp]
      simp [hp]
    · simp [-fetched_unit, recOk, fetched_x, fetched_accOk_any, hOk, hAlign, fmtChkD, hD]
  · exact (hFramed1.trans hCount.framed).trans (framed_modU _ r _)
  · rw [modU_unit, hUnit2]
    exact setX_advanced _ _ _ _

/-- Settles O16. -/
theorem wideAdderResult : Obligations.WideAdderResult := by
  unfold Obligations.WideAdderResult
  intro r w s hq hpa
  refine ⟨fun hS hpb hAd hAa hAb hOa hOb up hw hpd h hOd => ?_, fun hpb hAd hAa hAb hOa hOb hw hpd h hOd => ?_,
    fun hpc hLow hHigh hAd hAa hOa hw hpd h hOd => ?_, fun hb hc hdLt haLt hx hqs hqd hD hAa hOa h => ?_⟩
  · have hWrites := winCombine_writes (up := up) rfl rfl rfl hq.unarmed hS (by simp [hpa, hpb, hpd]) hw h ⟨hAd, hAa, hAb⟩ ⟨hOd, hOa, hOb⟩
    obtain ⟨t, hExec, hUnit, hOthers, hDevice, hAre, hKept⟩ := hWrites
    refine ⟨t, ?_, hUnit, hOthers, hDevice, hKept, hAre⟩
    rw [← hExec]
    cases up
    · rfl
    · rfl
  · obtain ⟨t, hExec, hUnit, hOthers, hDevice, hAre, hKept⟩ := rowstat_writes rfl rfl rfl hq.unarmed (by simp [hpa, hpb, hpd]) hw h
      ⟨hAd, hAa, hAb⟩ ⟨hOd, hOa, hOb⟩
    exact ⟨t, hExec, hUnit, hOthers, hDevice, hKept, hAre⟩
  · obtain ⟨t, hExec, hUnit, hOthers, hDevice, hAre, hKept⟩ := wred_writes rfl rfl rfl hq.unarmed (by simp [hpa, hpc, hpd]) hw h
      hLow hHigh ⟨hAd, hAa⟩ ⟨hOd, hOa⟩
    exact ⟨t, hExec, hUnit, hOthers, hDevice, hKept, hAre⟩
  · have hw : wordOk r (form8 .sc .sc .no .no) w = true := by
      simp [wordOk, form8, useOk, layOk, hb, hc, hdLt, haLt, hx, hqs, hqd]
    obtain ⟨t, hExec, ⟨hOthers, hDevice, hMemory⟩, hUnit⟩ := wround_gives rfl hq.unarmed hD hpa hw h hAa hOa
    exact ⟨t, hExec, hOthers, hDevice, hMemory, hUnit⟩

end Sys2Proof.Machine.UnitMemory

/-! PROOF. VLD and VST (07 R216, R217, R226; 08 R264): the elements that a load takes, and the bytes that a store writes. -/

namespace Sys2Proof.Machine.VectorMemory

open Sys2Proof.Machine Sys2Proof.Machine.Laws Sys2Proof.Machine.Frames Sys2Proof.Machine.NmuAccess Sys2Proof.Machine.Scalars
  Sys2Proof.Machine.Waits Sys2Proof.Machine.Vectors Sys2Proof.Machine.UnitMemory

variable {s t : State} {r : Res} {w : CtlWord}

/-! ### What the instruction reads of its unit -/

theorem fetched_memAddrs (s : State) (r : Res) (w : CtlWord) : memAddrs (s.fetched r) r w = memAddrs s r w := by
  simp only [memAddrs, fetched_vl, fetched_x]

theorem fetched_memAccs (s : State) (r : Res) (w : CtlWord) : memAccs (s.fetched r) r w = memAccs s r w := by
  simp only [memAccs, memPacked, fetched_memAddrs, fetched_x]
  rfl

theorem fetched_memPacked (s : State) (r : Res) (w : CtlWord) : memPacked (s.fetched r) r w = memPacked s r w := by
  simp only [memPacked, fetched_x]

theorem fetched_memChk (s : State) (r : Res) (w : CtlWord) (wr : Bool) : memChk r w wr (s.fetched r) = memChk r w wr s := by
  simp only [memChk, fetched_memAddrs, fetched_x, fetched_accOk_any]

/-- The address of element i. -/
def elemAt (s : State) (r : Res) (w : CtlWord) (i : Nat) : Nat :=
  elemAddr (fmtOf w.fmtS).width ((s.unit r).x w.a) ((s.unit r).x w.b) w.immM i

theorem memAddrs_eq (s : State) (r : Res) (w : CtlWord) : memAddrs s r w = (List.range (s.unit r).vl.toNat).map (elemAt s r w) := rfl

/-- A row of what stands at its addresses. -/
theorem zip_addrs {α : Type} (f : Nat × Nat → α) (g : Nat → Nat) (n : Nat) :
    ((((List.range n).map g).zip (List.range ((List.range n).map g).length)).map f) = (List.range n).map fun i => f (g i, i) := by
  rw [List.length_map, List.length_range]
  apply List.ext_getElem
  · simp
  · intro i h1 h2
    simp

/-! ### VLD -/

/-- The element that a load takes at an address. -/
def loadElem (s : State) (r : Res) (w : CtlWord) (p : Nat × Nat) : W32 × Bool :=
  let f := fmtOf w.fmtS
  let x := s.readNat (unitAddr r p.1) (elemBytes f)
  (BitVec.ofNat 32 (if f.width = 4 then bits x (4 * (p.2 % 2)) 4 else x), s.poisonedRange (unitAddr r p.1) (elemBytes f))

/-- The row that a load takes. -/
def loadRow (s : State) (r : Res) (w : CtlWord) : List (W32 × Bool) :=
  ((memAddrs s r w).zip (List.range (memAddrs s r w).length)).map (loadElem s r w)

theorem loadRow_eq (s : State) (r : Res) (w : CtlWord) :
    loadRow s r w = (List.range (s.unit r).vl.toNat).map fun i => loadElem s r w (elemAt s r w i, i) :=
  zip_addrs (loadElem s r w) (elemAt s r w) (s.unit r).vl.toNat

theorem fetched_loadElem (s : State) (r : Res) (w : CtlWord) (p : Nat × Nat) : loadElem (s.fetched r) r w p = loadElem s r w p := by
  simp only [loadElem, fetched_readNat]
  rw [State.fetched, modU_poisonedRange]

theorem fetched_loadRow (s : State) (r : Res) (w : CtlWord) : loadRow (s.fetched r) r w = loadRow s r w := by
  unfold loadRow
  rw [fetched_memAddrs]
  exact List.map_congr_left fun p _ => fetched_loadElem s r w p

/-- The state of a load that has read its row. -/
def loadRead (t : State) (r : Res) (w : CtlWord) : State := (memAccs t r w).foldl (fun t p => t.touch r p.1 p.2) t

/-- The report of a load. -/
def loadNan (t : State) (r : Res) (w : CtlWord) : Option TrapRep :=
  nanMoved ((loadRead t r w).unit r).pc.toNat w.d.toNat w.fmtS ((loadRow t r w).map (·.1))

/-- The state of a load that has written and reported its row. -/
def loaded (t : State) (r : Res) (w : CtlWord) : State :=
  ((loadRead t r w).modU r fun u => u.setVs w.d.toNat 0 (loadRow t r w)).trapIf r (loadNan t r w)

theorem exec_vld (hw : wordOk r { d := .ve, a := .sc, b := .sc, lay := .m } w = true) (h : Ready s r { rd := [memSpan s r w] })
    (hp : [w.a, w.b].any (s.unit r).xp = false) (hc : memChk r w false s = none) :
    exec (.vld r w) s = .next (((loaded (s.fetched r) r w).vecBusy r 1).retire r) := by
  refine congrArg Host.Outcome.next (ctl_acts h hw ?_ ?_)
  · rw [fetched_any_xp]
    exact hp
  · rw [fetched_memChk]
    exact hc

theorem touches_counts (t : State) (r : Res) (as : List (Nat × Nat)) : Counts t (as.foldl (fun t p => t.touch r p.1 p.2) t) r := by
  induction as generalizing t with
  | nil => exact Counts.refl t r
  | cons p as ih => exact (touch_counts t r p.1 p.2).trans (ih _)

/-- A report that does not stop the step leaves memory and everything beside the unit. -/
theorem trapIf_framed {x : State} {u : Machine.Unit} {ws : List (Nat × Nat)} (h : Ran s x r u ws) (hj : u.job = (s.unit r).job)
    (hq : NoTrapStop s r) (y : Option TrapRep) : Framed x (x.trapIf r y) r := by
  cases y with
  | none => exact Framed.refl x r
  | some y =>
    cases r with
    | nmu d => exact Framed.refl x _
    | reach n =>
      have hJob : x.reach[n].u.job = (s.unit (.reach n)).job := (congrArg Machine.Unit.job h.unit).trans hj
      have hStop : (x.jobRun x.reach[n].u.job).armed = false ∨ ((x.job? x.reach[n].u.job).map JobE.nstop).getD false = false := by
        rw [hJob, h.jobs.armed, h.jobs.job? h.device.2.2.2.2.2.2.2.1]
        exact hq
      change Framed x (x.trapEvent (.reach n) y) _
      rcases trapEvent_cases x n y hStop with hEq | hEq
      · rw [hEq]
        exact Framed.refl x _
      · rw [hEq]
        exact (framed_modU x _ _).trans (framed_lkp _ _ _)

/-- A row without a NaN gets no report (08 R264). -/
theorem nanMoved_none {pc d fmt : Nat} {ps : List W32}
    (h : ∀ i, (hi : i < ps.length) → patIsNan (fmtOf fmt) (ps[i].toNat % 2 ^ (fmtOf fmt).width) = false) : nanMoved pc d fmt ps = none := by
  have hNone : ps.findIdx? (fun p => patIsNan (fmtOf fmt) (p.toNat % 2 ^ (fmtOf fmt).width)) = none := by
    rw [List.findIdx?_eq_none_iff]
    intro x hx
    obtain ⟨i, hi, rfl⟩ := List.mem_iff_getElem.mp hx
    exact h i hi
  simp only [nanMoved, hNone]

/-- The chain of a load up to its report. -/
theorem loaded_ran (hq : NoTrapStop s r) :
    Ran s (loaded (s.fetched r) r w) r { { s.unit r with pc := BitVec.ofNat 17 (s.unit r).next }.setVs w.d.toNat 0 (loadRow s r w) with
      trap := ((loaded (s.fetched r) r w).unit r).trap } [] ∧ Framed s (loaded (s.fetched r) r w) r := by
  have hTouched := touches_counts (s.fetched r) r (memAccs (s.fetched r) r w)
  have hRead := (fetched_ran s r).counts hTouched
  have hSet := hRead.modU fun u => u.setVs w.d.toNat 0 (loadRow (s.fetched r) r w)
  have hTrap := hSet.trapIf (by rw [setVs_job]) hq (loadNan (s.fetched r) r w)
  have hFramed := trapIf_framed hSet (by rw [setVs_job]) hq (loadNan (s.fetched r) r w)
  rw [fetched_loadRow] at hTrap
  refine ⟨?_, ?_⟩
  · unfold loaded
    rw [fetched_loadRow]
    exact hTrap
  · exact (((framed_modU s r _).trans hTouched.framed).trans (framed_modU _ r _)).trans hFramed

/-- The nibble of a byte, or the byte (02 R42). -/
theorem loadElem_value (s : State) (r : Res) (w : CtlWord) (a i : Nat) :
    loadElem s r w (a, i) = (BitVec.ofNat 32 (if (fmtOf w.fmtS).width = 4 then
        s.readNat (unitAddr r a) (elemBytes (fmtOf w.fmtS)) / 16 ^ (i % 2) % 16 else s.readNat (unitAddr r a) (elemBytes (fmtOf w.fmtS))),
      s.poisonedRange (unitAddr r a) (elemBytes (fmtOf w.fmtS))) := by
  have hPow : 2 ^ (4 * (i % 2)) = 16 ^ (i % 2) := pow_mul 2 4 (i % 2)
  simp only [loadElem, bits, hPow]
  rfl

/-- Settles O13. -/
theorem vectorLoad : Obligations.VectorLoad := by
  unfold Obligations.VectorLoad
  intro r w s hw h hpa hpb hc hq
  obtain ⟨hRan, hFramed⟩ := loaded_ran (w := w) hq
  have hBusy := vecBusy_counts (loaded (s.fetched r) r w) r 1
  have hCounted := hRan.counts hBusy
  obtain ⟨hRun, hCode, hPc, hNext⟩ := setVs_control { s.unit r with pc := BitVec.ofNat 17 (s.unit r).next } w.d.toNat 0 (loadRow s r w)
  have hRetired := hCounted.retire h hRun hCode hPc
  have hRetire := retire_of_ready (t := (loaded (s.fetched r) r w).vecBusy r 1) h (by rw [hCounted.unit]; exact hRun)
    (by rw [hCounted.unit]; exact hPc) (by rw [hCounted.unit]; exact hCode)
  have hEnd : Framed s (((loaded (s.fetched r) r w).vecBusy r 1).retire r) r := by
    rw [hRetire]
    exact (hFramed.trans hBusy.framed).trans (framed_modU _ r _)
  have hUnit := hRetired.unit
  have hRow : loadRow s r w = (List.range (s.unit r).vl.toNat).map fun i => loadElem s r w (elemAt s r w i, i) := loadRow_eq s r w
  have hLen : (loadRow s r w).length ≤ 512 := by
    rw [hRow, List.length_map, List.length_range]
    exact vl_le _
  refine ⟨_, exec_vld hw h (by simp [hpa, hpb]) hc, ?_, ?_, fun hNan => ?_, hEnd.1, hEnd.2.1, hEnd.2.2, bytesKept_of_framed hEnd []⟩
  · rw [hUnit, setVs_eq]
    rfl
  · have hWritten := vecDone_written (s.unit r) w.d hLen
    simp only [hRow, loadElem_value] at hWritten
    rw [hUnit, hRow]
    simp only [loadElem_value, setVs_pc]
    exact hWritten
  · have hNone : loadNan (s.fetched r) r w = none := nanMoved_none fun i hi => by
      have hi' : i < (s.unit r).vl.toNat := by simpa [fetched_loadRow, hRow] using hi
      have hElem := hNan i hi'
      simp only [fetched_loadRow, hRow, loadElem_value, List.getElem_map, List.getElem_range]
      exact hElem
    rw [hUnit]
    change ((loaded (s.fetched r) r w).unit r).trap = _
    have hTouched := touches_counts (s.fetched r) r (memAccs (s.fetched r) r w)
    rw [loaded, hNone]
    change ((State.modU _ r _).unit r).trap = _
    rw [modU_unit, setVs_eq]
    change ((loadRead (s.fetched r) r w).unit r).trap = _
    rw [show (loadRead (s.fetched r) r w).unit r = (s.fetched r).unit r from hTouched.unit, fetched_unit]

/-! ### VST -/

/-- Marking a piece rewrites the bytes that stand there already: no byte changes. -/
structure Marks (t x : State) (r : Res) : Prop where
  unit   : x.unit r = t.unit r
  others : OthersKept t x r
  device : DeviceKept t x
  jobs   : JobsKept t x
  keys   : ∀ l, t.keyOk l = true → x.keyOk l = true
  byte   : ∀ b, x.byte b = t.byte b

theorem Marks.refl (t : State) (r : Res) : Marks t t r :=
  ⟨rfl, (Framed.refl t r).1, (Framed.refl t r).2.1, jobsKept_of_lkp rfl, fun _ h => h, fun _ => rfl⟩

theorem Marks.trans {x y : State} (h : Marks t x r) (g : Marks x y r) : Marks t y r :=
  ⟨g.unit.trans h.unit, othersKept_trans' h.others g.others, deviceKept_trans h.device g.device, h.jobs.trans g.jobs,
    fun l hl => g.keys l (h.keys l hl), fun b => (g.byte b).trans (h.byte b)⟩

theorem Marks.holds {x : State} {a : Nat} {bs : List Byte} (h : Marks t x r) (g : Holds t a bs) : Holds x a bs := fun i hi =>
  ⟨(h.byte _).trans (g i hi).1, h.keys _ (g i hi).2⟩

theorem Marks.ran {x : State} {u : Machine.Unit} {ws : List (Nat × Nat)} (h : Marks t x r) (g : Ran s t r u ws) : Ran s x r u ws :=
  ⟨h.unit.trans g.unit, othersKept_trans' g.others h.others, deviceKept_trans g.device h.device, g.jobs.trans h.jobs,
    fun l hl => h.keys l (g.keys l hl), fun b hb hOut => (h.byte b).trans (g.kept b hb hOut)⟩

theorem mark_piece {a : Nat} {bs : List Byte} (h : Holds t (unitAddr r a) bs) : Marks t (Waits.written t r a bs true) r := by
  have hStored := written_stored t r a bs true
  refine ⟨hStored.unit, hStored.others, hStored.device, jobsKept_of_lkp ?_, fun l hl => ?_, fun b => ?_⟩
  · rw [Waits.written, if_pos rfl, noteShardPoison_lkp, write_lkp]
  · rw [Waits.written, if_pos rfl, noteShardPoison_keyOk]
    exact keyOk_write t _ _ _ hl
  · rw [hStored.byte, byte_write]
    split
    · next hIn =>
      have hAt := (h (b - unitAddr r a) (by omega)).1
      rw [show unitAddr r a + (b - unitAddr r a) = b by omega] at hAt
      rw [hAt, List.getD_eq_getElem?_getD, List.getElem?_eq_getElem (by omega), Option.getD_some]
    · rfl

theorem unitAddr_add (r : Res) (a k : Nat) : unitAddr r (a + k) = unitAddr r a + k := by
  cases r with
  | reach n => exact (Nat.add_assoc _ _ _).symm
  | nmu d => rfl

theorem holds_append {a : Nat} {bs cs : List Byte} (h : Holds t a (bs ++ cs)) : Holds t a bs ∧ Holds t (a + bs.length) cs := by
  refine ⟨fun i hi => ?_, fun i hi => ?_⟩
  · have hAt := h i (by rw [List.length_append]; omega)
    rw [List.getElem_append_left hi] at hAt
    exact hAt
  · have hAt := h (bs.length + i) (by rw [List.length_append]; omega)
    rw [List.getElem_append_right (by omega), ← Nat.add_assoc] at hAt
    simpa using hAt

/-- One piece of a row, and the address of the next. -/
def markStep (r : Res) (t : State × Nat) (p : List Byte × Bool) : State × Nat :=
  (if p.2 then Waits.written t.1 r t.2 p.1 true else t.1, t.2 + p.1.length)

theorem marks_row (r : Res) (ps : List (List Byte × Bool)) (t : State) (a : Nat) (h : Holds t (unitAddr r a) (ps.flatMap (·.1))) :
    Marks t (ps.foldl (markStep r) (t, a)).1 r := by
  induction ps generalizing t a with
  | nil => exact Marks.refl t r
  | cons p ps ih =>
    rw [List.flatMap_cons] at h
    obtain ⟨hHead, hTail⟩ := holds_append h
    have hMark : Marks t (if p.2 then Waits.written t r a p.1 true else t) r := by
      split
      · exact mark_piece hHead
      · exact Marks.refl t r
    refine hMark.trans (ih _ _ ?_)
    rw [unitAddr_add]
    exact hMark.holds hTail

theorem storeRow_eq (t : State) (r : Res) (a : Nat) (ps : List (List Byte × Bool)) :
    t.storeRow r a ps = (ps.foldl (markStep r) (t.store r a (ps.flatMap (·.1)) false, a)).1 := rfl

/-- A row of pieces is written as one, whatever the marks of its pieces (R217). -/
theorem storeRow_marks (t : State) (r : Res) (a : Nat) (ps : List (List Byte × Bool)) :
    Marks (t.store r a (ps.flatMap (·.1)) false) (t.storeRow r a ps) r := by
  rw [storeRow_eq]
  exact marks_row r ps _ a (store_holds t r a _ false)

/-- Stores at addresses of their own. -/
theorem stores_ran {u : Machine.Unit} {ws : List (Nat × Nat)} (bytes : Nat × Nat → List Byte × Bool) (ps : List (Nat × Nat))
    (h : Ran s t r u ws) : Ran s (ps.foldl (fun t p => t.store r p.1 (bytes p).1 (bytes p).2) t) r u
      (ws ++ ps.map fun p => (unitAddr r p.1, (bytes p).1.length)) := by
  induction ps generalizing t ws with
  | nil => simpa using h
  | cons p ps ih =>
    have hRest := ih (h.store p.1 (bytes p).1 (bytes p).2)
    rw [List.append_assoc] at hRest
    exact hRest

/-- The pieces of a store. -/
def storePieces (s : State) (r : Res) (w : CtlWord) : List (Nat × Nat) :=
  ((memAddrs s r w).zip (List.range (memAddrs s r w).length)).filter fun p => (fmtOf w.fmtS).width ≠ 4 || p.2 % 2 == 0

/-- The bytes of a piece. -/
def pieceBytes (u : Machine.Unit) (w : CtlWord) (p : Nat × Nat) : List Byte × Bool := vstBytes (fmtOf w.fmtS) u w.d p.2

/-- The state of a store that has written its bytes. -/
def storeWritten (t : State) (r : Res) (w : CtlWord) : State :=
  if memPacked t r w then t.storeRow r ((memAddrs t r w).headD 0) ((storePieces t r w).map (pieceBytes (t.unit r) w))
  else (storePieces t r w).foldl (fun x p => x.store r p.1 (pieceBytes (t.unit r) w p).1 (pieceBytes (t.unit r) w p).2) t

/-- The report of a store. -/
def storeNan (t : State) (r : Res) (w : CtlWord) : Option TrapRep :=
  nanMoved (t.unit r).pc.toNat w.d.toNat w.fmtS ((List.range (memAddrs t r w).length).map fun i => ((t.unit r).v w.d i).1)

theorem exec_vst (hw : wordOk r { d := .ve, a := .sc, b := .sc, lay := .m } w = true) (h : Ready s r { wr := [memSpan s r w] })
    (hp : [w.a, w.b].any (s.unit r).xp = false) (hc : memChk r w true s = none) :
    exec (.vst r w) s =
      .next ((((storeWritten (s.fetched r) r w).trapIf r (storeNan (s.fetched r) r w)).vecBusy r 1).retire r) := by
  refine congrArg Host.Outcome.next (ctl_acts h hw ?_ ?_)
  · rw [fetched_any_xp]
    exact hp
  · rw [fetched_memChk]
    exact hc

theorem fetched_storePieces (s : State) (r : Res) (w : CtlWord) : storePieces (s.fetched r) r w = storePieces s r w := by
  unfold storePieces
  rw [fetched_memAddrs]

theorem fetched_pieceBytes (s : State) (r : Res) (w : CtlWord) : pieceBytes ((s.fetched r).unit r) w = pieceBytes (s.unit r) w := by
  funext p
  rw [fetched_unit]
  rfl

/-- The bytes of a row that is written as one. -/
def storeRowBytes (s : State) (r : Res) (w : CtlWord) : List Byte := ((storePieces s r w).map (pieceBytes (s.unit r) w)).flatMap (·.1)

/-- The spans that a store writes. -/
def storeSpans (s : State) (r : Res) (w : CtlWord) : List (Nat × Nat) :=
  if memPacked s r w then [(unitAddr r ((memAddrs s r w).headD 0), (storeRowBytes s r w).length)]
  else (storePieces s r w).map fun p => (unitAddr r p.1, (pieceBytes (s.unit r) w p).1.length)

theorem storeWritten_ran (s : State) (r : Res) (w : CtlWord) :
    Ran s (storeWritten (s.fetched r) r w) r { s.unit r with pc := BitVec.ofNat 17 (s.unit r).next } (storeSpans s r w) := by
  have hStart := fetched_ran s r
  unfold storeWritten storeSpans
  rw [fetched_memPacked, fetched_memAddrs, fetched_storePieces, fetched_pieceBytes]
  split
  · exact (storeRow_marks _ _ _ _).ran (hStart.store _ _ _)
  · exact stores_ran (pieceBytes (s.unit r) w) (storePieces s r w) hStart

/-- A row that is written as one stands at its address. -/
theorem storeWritten_holds (hPacked : memPacked s r w = true) :
    Holds (storeWritten (s.fetched r) r w) (unitAddr r ((memAddrs s r w).headD 0)) (storeRowBytes s r w) := by
  unfold storeWritten
  rw [fetched_memPacked, fetched_memAddrs, fetched_storePieces, fetched_pieceBytes, if_pos hPacked]
  exact (storeRow_marks _ _ _ _).holds (store_holds _ _ _ _ _)

/-! ### Rows of equal blocks -/

theorem length_blocks {f : Nat → List Byte} {k : Nat} (hk : ∀ i, (f i).length = k) (n : Nat) : ((List.range n).flatMap f).length = n * k := by
  induction n with
  | zero => simp
  | succ n ih => rw [List.range_succ, List.flatMap_append, List.length_append, ih, List.flatMap_singleton, hk, Nat.succ_mul]

theorem holds_blocks {f : Nat → List Byte} {k : Nat} (hk : ∀ i, (f i).length = k) {a n : Nat} (h : Holds t a ((List.range n).flatMap f))
    {i : Nat} (hi : i < n) : Holds t (a + i * k) (f i) := by
  induction n with
  | zero => omega
  | succ n ih =>
    rw [List.range_succ, List.flatMap_append] at h
    obtain ⟨hInit, hLast⟩ := holds_append h
    by_cases hEq : i = n
    · subst hEq
      rw [length_blocks hk, List.flatMap_singleton] at hLast
      exact hLast
    · exact ih hInit (by omega)

/-! ### The bytes of a row (07 R217, R226) -/

theorem fmt_width (f : Fmt) : f.width = 4 ∨ f.width = 8 ∨ f.width = 16 ∨ f.width = 32 := by
  cases f
  all_goals decide

/-- Elements that are not of 4 bits are a row of pieces. -/
theorem storePieces_wide (hWide : (fmtOf w.fmtS).width ≠ 4) :
    storePieces s r w = (List.range (s.unit r).vl.toNat).map fun i => (elemAt s r w i, i) := by
  have hZip := zip_addrs (fun p => p) (elemAt s r w) (s.unit r).vl.toNat
  rw [List.map_id'] at hZip
  unfold storePieces
  rw [memAddrs_eq, hZip, List.filter_eq_self]
  intro p _
  simp [hWide]

/-- Elements of 4 bits share bytes in pairs. -/
theorem storePieces_narrow (hNarrow : (fmtOf w.fmtS).width = 4) :
    storePieces s r w = ((List.range (s.unit r).vl.toNat).filter (· % 2 == 0)).map fun i => (elemAt s r w i, i) := by
  have hZip := zip_addrs (fun p => p) (elemAt s r w) (s.unit r).vl.toNat
  rw [List.map_id'] at hZip
  unfold storePieces
  rw [memAddrs_eq, hZip, List.filter_map]
  refine congrArg _ (List.filter_congr fun i _ => ?_)
  simp [hNarrow]

theorem length_evens (n : Nat) : ((List.range n).filter (· % 2 == 0)).length = (n + 1) / 2 := by
  induction n with
  | zero => rfl
  | succ n ih =>
    rw [List.range_succ, List.filter_append, List.length_append, ih, List.filter_singleton]
    rcases Nat.mod_two_eq_zero_or_one n with hEven | hOdd
    · simp only [hEven, beq_self_eq_true, cond_true, List.length_singleton]
      omega
    · simp only [hOdd, Nat.reduceBEq, cond_false, List.length_nil]
      omega

theorem length_pieceBytes (u : Machine.Unit) (w : CtlWord) (p : Nat × Nat) : (pieceBytes u w p).1.length = elemBytes (fmtOf w.fmtS) := by
  unfold pieceBytes vstBytes elemBytes
  dsimp only
  split
  · exact length_leBytes _ _
  · exact length_leBytes _ _

theorem storeRowBytes_wide (hWide : (fmtOf w.fmtS).width ≠ 4) :
    storeRowBytes s r w = (List.range (s.unit r).vl.toNat).flatMap fun i => leBytes ((fmtOf w.fmtS).width / 8) ((s.unit r).v w.d i).1.toNat := by
  unfold storeRowBytes
  rw [storePieces_wide hWide, List.map_map, List.flatMap_map]
  refine congrArg (fun f => List.flatMap f _) (funext fun i => ?_)
  simp [pieceBytes, vstBytes, hWide]

theorem length_storeRowBytes_narrow (hNarrow : (fmtOf w.fmtS).width = 4) : (storeRowBytes s r w).length = ((s.unit r).vl.toNat + 1) / 2 := by
  have hOne : elemBytes (fmtOf w.fmtS) = 1 := by simp [elemBytes, hNarrow]
  unfold storeRowBytes
  rw [storePieces_narrow hNarrow, List.map_map, List.flatMap_map, List.length_flatMap]
  simp only [Function.comp_apply, length_pieceBytes, hOne]
  simp [length_evens]

/-- Addresses that do not pass the last 64-bit one (R226). -/
theorem addrPlus_add {x : W64} {i : Int} {k : Nat} (h : addrPlus x i + 2048 ≤ 2 ^ 64) (hk : k < 2048) : addrPlus x (i + (k : Nat)) = addrPlus x i + k := by
  unfold addrPlus at *
  have hPow : ((2 ^ 64 : Nat) : Int) = 18446744073709551616 := by norm_num
  rw [hPow] at *
  omega

/-- A legal stride of 4-bit elements is none (R226, R246). -/
theorem memChk_stride {wr : Bool} (hc : memChk r w wr s = none) (hNarrow : (fmtOf w.fmtS).width = 4) : (s.unit r).x w.b = 0 := by
  by_contra hne
  unfold memChk at hc
  dsimp only at hc
  split at hc
  · split at hc
    · simp at hc
    · simp at hc
  · have hBad : (decide ((fmtOf w.fmtS).width = 4) && decide ((s.unit r).x w.b ≠ 0)) = true := by
      rw [decide_eq_true hNarrow, decide_eq_true hne]
      rfl
    rw [if_pos hBad] at hc
    exact absurd hc (by simp)

/-- Elements behind each other, of whole bytes. -/
theorem elemAt_packed (hPacked : (s.unit r).x w.b = 0 ∨ ((s.unit r).x w.b).toNat = elemBytes (fmtOf w.fmtS))
    (hWide : (fmtOf w.fmtS).width ≠ 4) (i : Nat) :
    elemAt s r w i = addrPlus ((s.unit r).x w.a) (w.immM + (i * elemBytes (fmtOf w.fmtS) : Nat)) := by
  have hSize : elemBytes (fmtOf w.fmtS) = (fmtOf w.fmtS).width / 8 := by simp [elemBytes, hWide]
  unfold elemAt elemAddr
  rcases hPacked with hZero | hStride
  · rw [if_pos hZero, if_neg hWide, hSize]
  · split
    · rw [hSize]
    · rw [hStride]

theorem elemBytes_le (f : Fmt) : 1 ≤ elemBytes f ∧ elemBytes f ≤ 4 := by
  cases f
  all_goals decide

theorem memPacked_iff (s : State) (r : Res) (w : CtlWord) :
    memPacked s r w = true ↔ ((s.unit r).x w.b = 0 ∨ ((s.unit r).x w.b).toNat = elemBytes (fmtOf w.fmtS)) := by
  simp [memPacked]

theorem headD_addrs (s : State) (r : Res) (w : CtlWord) (h : 0 < (s.unit r).vl.toNat) : (memAddrs s r w).headD 0 = elemAt s r w 0 := by
  obtain ⟨m, hm⟩ : ∃ m, (s.unit r).vl.toNat = m + 1 := ⟨(s.unit r).vl.toNat - 1, by omega⟩
  rw [memAddrs_eq, hm, List.range_succ_eq_map]
  rfl

/-- A row of whole bytes that does not pass the last address. -/
theorem elemAt_row (hPacked : memPacked s r w = true) (hWide : (fmtOf w.fmtS).width ≠ 4)
    (hFit : addrPlus ((s.unit r).x w.a) w.immM + 2048 ≤ 2 ^ 64) {i : Nat} (hi : i < (s.unit r).vl.toNat) :
    unitAddr r (elemAt s r w i) = unitAddr r ((memAddrs s r w).headD 0) + i * elemBytes (fmtOf w.fmtS) := by
  have hVl := (s.unit r).vl.isLt
  have hSmall : i * elemBytes (fmtOf w.fmtS) ≤ 510 * 4 := Nat.mul_le_mul (by omega) (elemBytes_le _).2
  have hStride := (memPacked_iff s r w).mp hPacked
  rw [headD_addrs s r w (by omega), elemAt_packed hStride hWide, elemAt_packed hStride hWide, addrPlus_add hFit (by omega),
    addrPlus_add hFit (by omega), Nat.zero_mul, unitAddr_add, unitAddr_add]
  rfl

/-- A row of nibbles that does not pass the last address. -/
theorem elemAt_nibbles (hStride : (s.unit r).x w.b = 0) (hNarrow : (fmtOf w.fmtS).width = 4)
    (hFit : addrPlus ((s.unit r).x w.a) w.immM + 2048 ≤ 2 ^ 64) {i : Nat} (hi : i < (s.unit r).vl.toNat) :
    unitAddr r (elemAt s r w i) = unitAddr r ((memAddrs s r w).headD 0) + i / 2 := by
  have hVl := (s.unit r).vl.isLt
  have hAt (i : Nat) : elemAt s r w i = addrPlus ((s.unit r).x w.a) (w.immM + (i / 2 : Nat)) := by
    unfold elemAt elemAddr
    rw [if_pos hStride, if_pos hNarrow]
  rw [headD_addrs s r w (by omega), hAt, hAt, addrPlus_add hFit (by omega), addrPlus_add hFit (by omega), unitAddr_add, unitAddr_add]
  rfl

/-- A byte outside every element of a row lies outside what the store writes. -/
theorem storeSpans_outside (hc : memChk r w true s = none) (hFit : addrPlus ((s.unit r).x w.a) w.immM + 2048 ≤ 2 ^ 64) {b : Nat}
    (hOut : ∀ i < (s.unit r).vl.toNat, b < unitAddr r (elemAt s r w i) ∨ unitAddr r (elemAt s r w i) + elemBytes (fmtOf w.fmtS) ≤ b) :
    ∀ q ∈ storeSpans s r w, b < q.1 ∨ q.1 + q.2 ≤ b := by
  have hSize := elemBytes_le (fmtOf w.fmtS)
  intro q hq
  unfold storeSpans at hq
  split at hq
  · next hPacked =>
    obtain rfl := List.mem_singleton.mp hq
    by_contra hIn
    simp only [not_or, not_lt, not_le] at hIn
    by_cases hNarrow : (fmtOf w.fmtS).width = 4
    · have hStride := memChk_stride hc hNarrow
      rw [length_storeRowBytes_narrow hNarrow] at hIn
      have hi : 2 * (b - unitAddr r ((memAddrs s r w).headD 0)) < (s.unit r).vl.toNat := by omega
      have hAt := elemAt_nibbles hStride hNarrow hFit hi
      have := hOut _ hi
      omega
    · have hWhole : elemBytes (fmtOf w.fmtS) = (fmtOf w.fmtS).width / 8 := by simp [elemBytes, hNarrow]
      rw [storeRowBytes_wide hNarrow, length_blocks (k := elemBytes (fmtOf w.fmtS)) (fun i => by rw [length_leBytes, hWhole])] at hIn
      obtain ⟨hLow, hHigh⟩ := hIn
      have hi : (b - unitAddr r ((memAddrs s r w).headD 0)) / elemBytes (fmtOf w.fmtS) < (s.unit r).vl.toNat :=
        (Nat.div_lt_iff_lt_mul (by omega)).mpr (by omega)
      have hAt := elemAt_row hPacked hNarrow hFit hi
      have hDiv := Nat.div_add_mod (b - unitAddr r ((memAddrs s r w).headD 0)) (elemBytes (fmtOf w.fmtS))
      have hMod := Nat.mod_lt (b - unitAddr r ((memAddrs s r w).headD 0)) (show 0 < elemBytes (fmtOf w.fmtS) by omega)
      have hOut' := hOut _ hi
      rw [hAt, Nat.mul_comm] at hOut'
      omega
  · next hStrided =>
    have hWide : (fmtOf w.fmtS).width ≠ 4 := fun hNarrow => hStrided ((memPacked_iff s r w).mpr (.inl (memChk_stride hc hNarrow)))
    obtain ⟨p, hp, rfl⟩ := List.mem_map.mp hq
    rw [storePieces_wide hWide] at hp
    obtain ⟨i, hi, rfl⟩ := List.mem_map.mp hp
    rw [length_pieceBytes]
    exact hOut i (List.mem_range.mp hi)

/-- Settles O14. -/
theorem vectorStore : Obligations.VectorStore := by
  unfold Obligations.VectorStore
  intro r w s hw h hpa hpb hc hq
  have hRan := storeWritten_ran s r w
  have hTrap := hRan.trapIf rfl hq (storeNan (s.fetched r) r w)
  have hFramed := trapIf_framed hRan rfl hq (storeNan (s.fetched r) r w)
  have hBusy := vecBusy_counts ((storeWritten (s.fetched r) r w).trapIf r (storeNan (s.fetched r) r w)) r 1
  have hCounted := hTrap.counts hBusy
  have hRetired := hCounted.retire h rfl rfl rfl
  have hRetire := retire_of_ready (t := ((storeWritten (s.fetched r) r w).trapIf r (storeNan (s.fetched r) r w)).vecBusy r 1) h
    (by rw [hCounted.unit]) (by rw [hCounted.unit]) (by rw [hCounted.unit])
  have hLast : Framed (storeWritten (s.fetched r) r w)
      ((((storeWritten (s.fetched r) r w).trapIf r (storeNan (s.fetched r) r w)).vecBusy r 1).retire r) r := by
    rw [hRetire]
    exact (hFramed.trans hBusy.framed).trans (framed_modU _ r _)
  refine ⟨_, exec_vst hw h (by simp [hpa, hpb]) hc, ?_, hRetired.others, hRetired.device, fun hNan => ?_, fun hFit => ⟨?_, fun hStride hWide i hi => ?_⟩⟩
  · rw [hRetired.unit]
    rfl
  · have hNone : storeNan (s.fetched r) r w = none := nanMoved_none fun i hi => by
      have hi' : i < (s.unit r).vl.toNat := by simpa [fetched_memAddrs, memAddrs_eq] using hi
      simp only [List.getElem_map, List.getElem_range, fetched_unit]
      exact hNan i hi'
    rw [hRetired.unit]
    change (((storeWritten (s.fetched r) r w).trapIf r (storeNan (s.fetched r) r w)).unit r).trap = _
    rw [hNone]
    change ((storeWritten (s.fetched r) r w).unit r).trap = _
    rw [hRan.unit]
  · refine (hRetired.mono fun b hOut => storeSpans_outside hc hFit fun i hi => ?_).kept
    exact hOut _ (List.mem_map.mpr ⟨i, List.mem_range.mpr hi, rfl⟩)
  · have hPacked := (memPacked_iff s r w).mpr hStride
    have hHolds := storeWritten_holds (s := s) (r := r) (w := w) hPacked
    rw [storeRowBytes_wide hWide] at hHolds
    have hElem := holds_blocks (fun i => length_leBytes _ _) hHolds hi
    have hAt := elemAt_row hPacked hWide hFit hi
    have hWhole : elemBytes (fmtOf w.fmtS) = (fmtOf w.fmtS).width / 8 := by simp [elemBytes, hWide]
    rw [hWhole] at hAt
    rw [← hAt] at hElem
    exact (hElem.frame hLast).are

end Sys2Proof.Machine.VectorMemory

/-! PROOF. WCOMB (07 R228; 04 R134 to R136): a record that is written reads as it was, and combining two arrays pair by pair leaves each
pair's combination. -/

namespace Sys2Proof.Machine.VectorMemory

open Sys2Proof.Machine Sys2Proof.Machine.Laws Sys2Proof.Machine.Frames Sys2Proof.Machine.NmuAccess Sys2Proof.Machine.Scalars
  Sys2Proof.Machine.Waits Sys2Proof.Machine.Vectors Sys2Proof.Machine.UnitMemory

/-! ### Records and their bytes (04 R134, R135) -/

/-- The fields of a record fit the header and the image. -/
structure FwpFits (x : Fwp) : Prop where
  fmt   : x.fmt < 16
  cls   : x.cls < 4
  zs    : x.zs < 4
  acc   : x.acc < 2 ^ 30
  chk   : x.chk < 4096
  image : x.image < 256 ^ 64
  bound : x.bound < 256 ^ 16

theorem b2n_le (b : Bool) : b2n b ≤ 1 := by
  cases b
  · decide
  · decide

theorem bit_of_b2n {n : Nat} {b : Bool} (h : n % 2 = b2n b) : (n % 2 == 1) = b := by
  rw [h]
  cases b
  · rfl
  · rfl

/-- A record that fits reads back from its bytes. -/
theorem ofBytes_bytes {x : Fwp} (h : FwpFits x) : Fwp.ofBytes x.bytes = x := by
  obtain ⟨hFmt, hCls, hZs, hAcc, hChk, hImage, hBound⟩ := h
  have hP := b2n_le x.poison
  have hI := b2n_le x.pinf
  have hN := b2n_le x.ninf
  have hL := b2n_le x.limit
  have hB := b2n_le x.binv
  have hHeader : x.header < 256 ^ 8 := by
    unfold Fwp.header
    omega
  have hHead : leNat (x.bytes.take 8) = x.header := by
    rw [Fwp.bytes, List.append_assoc, List.append_assoc, List.take_left' (length_leBytes 8 _), leNat_leBytes, Nat.mod_eq_of_lt hHeader]
  have hImg : leNat ((x.bytes.drop 8).take 64) = x.image := by
    rw [Fwp.bytes, List.append_assoc, List.append_assoc, List.drop_left' (length_leBytes 8 _), List.take_left' (length_leBytes 64 _),
      leNat_leBytes, Nat.mod_eq_of_lt hImage]
  have hBnd : leNat ((x.bytes.drop 72).take 16) = x.bound := by
    rw [Fwp.bytes, List.append_assoc, List.drop_left' (by simp), List.take_left' (length_leBytes 16 _), leNat_leBytes,
      Nat.mod_eq_of_lt hBound]
  unfold Fwp.ofBytes
  rw [hHead, hImg, hBnd]
  have hFields : bits x.header 60 4 = x.fmt ∧ bits x.header 58 2 = x.cls ∧ bits x.header 53 2 = x.zs ∧ bits x.header 12 30 = x.acc ∧
      bits x.header 0 12 = x.chk := by
    unfold bits Fwp.header
    omega
  have hFlags : bitAt x.header 57 = x.poison ∧ bitAt x.header 56 = x.pinf ∧ bitAt x.header 55 = x.ninf ∧ bitAt x.header 52 = x.limit ∧
      bitAt x.header 51 = x.binv := by
    unfold bitAt Fwp.header
    refine ⟨bit_of_b2n ?_, bit_of_b2n ?_, bit_of_b2n ?_, bit_of_b2n ?_, bit_of_b2n ?_⟩
    all_goals omega
  obtain ⟨hf, hc, hz, ha, hk⟩ := hFields
  obtain ⟨hp, hi, hn, hl, hb⟩ := hFlags
  dsimp only
  rw [hf, hc, hz, ha, hk, hp, hi, hn, hl, hb]

theorem leNat_lt (bs : List Byte) : leNat bs < 256 ^ bs.length := by
  induction bs with
  | nil => decide
  | cons b bs ih =>
    have hb := b.isLt
    rw [leNat, List.length_cons, pow_succ]
    omega

theorem leNat_lt_of_length {bs : List Byte} {n : Nat} (h : bs.length ≤ n) : leNat bs < 256 ^ n :=
  lt_of_lt_of_le (leNat_lt bs) (Nat.pow_le_pow_right (by decide) h)

theorem bits_lt (x lo len : Nat) : bits x lo len < 2 ^ len := Nat.mod_lt _ (Nat.two_pow_pos len)

/-- What is read from bytes fits. -/
theorem ofBytes_fits (bs : List Byte) : FwpFits (Fwp.ofBytes bs) := by
  refine ⟨bits_lt _ _ _, bits_lt _ _ _, bits_lt _ _ _, bits_lt _ _ _, bits_lt _ _ _, ?_, ?_⟩
  · exact leNat_lt_of_length (by simp)
  · exact leNat_lt_of_length (by simp)

/-- A combination of records that fit fits (04 R136). -/
theorem combine_fits {a b : Fwp} (ha : FwpFits a) (hb : FwpFits b) : FwpFits (a.combine b).1 := by
  have hPow : (2 : Nat) ^ (8 * 64) = 256 ^ 64 := pow_mul 2 8 64
  have hNar : nar32 < 256 ^ 64 := by
    rw [← hPow]
    exact Nat.pow_lt_pow_right (by decide) (by decide)
  refine ⟨ha.fmt, Nat.max_lt.mpr ⟨ha.cls, hb.cls⟩, ?_, ?_, ?_, ?_, ?_⟩
  · simp only [Fwp.combine]
    split
    · decide
    · split
      · decide
      · decide
  · simp only [Fwp.combine]
    split
    · decide
    · next hLim =>
      simp only [Bool.or_eq_true, decide_eq_true_eq, not_or, Bool.not_eq_true] at hLim
      omega
  · simp only [Fwp.combine]
    omega
  · simp only [Fwp.combine]
    split
    · exact hNar
    · rw [hPow]
      exact Nat.mod_lt _ (by decide)
  · simp only [Fwp.combine]
    split
    · omega
    · omega

theorem FwpFits.poison {x : Fwp} (h : FwpFits x) (p : Bool) : FwpFits { x with poison := p } :=
  ⟨h.fmt, h.cls, h.zs, h.acc, h.chk, h.image, h.bound⟩

/-- The combination does not depend on the poison bits but for its own. -/
theorem combine_poison (a b : Fwp) (p q : Bool) :
    ({ a with poison := p }.combine { b with poison := q }).1 = { (a.combine b).1 with poison := p || q } := rfl

/-! ### The loop of WCOMB (07 R228) -/

variable {s t : State} {r : Res} {u : Machine.Unit} {w : CtlWord}

/-- One record of WCOMB: the records at `d` and `a` into that at `d`. -/
def combStep (r : Res) (slot d a : Nat) (t : State) (i : Nat) : State :=
  let x := t.readFwp r (d + 96 * i)
  let y := t.readFwp r (a + 96 * i)
  let c := x.combine y
  let t := (t.touch r (d + 96 * i) 96).touch r (a + 96 * i) 96
  let t := (t.writeFwp r (d + 96 * i) c.1).countLimit r (b2n c.2)
  t.trapRec r 3 i slot c.1.fmt c.1.nan (x.nan || y.nan)

/-- The state after the first `k` records. -/
def combined (t : State) (r : Res) (slot d a k : Nat) : State := (List.range k).foldl (combStep r slot d a) t

theorem exec_wcomb {a d n : Nat} (ha : ((s.unit r).x w.a).toNat = a) (hn : ((s.unit r).x w.c).toNat = n)
    (hd : ((s.unit r).x w.d).toNat = d) (hp : [w.d, w.a, w.c].any (s.unit r).xp = false) (hw : wordOk r (form8 .sc .sc .no .sc) w = true)
    (h : Ready s r { rd := [(a, a + 96 * n), (d, d + 96 * n)], wr := [(d, d + 96 * n)] }) (hLow : 1 ≤ n) (hHigh : n ≤ 65536)
    (hAlign : d % 32 = 0 ∧ a % 32 = 0) (hOk : s.accOk r d (96 * n) true = true ∧ s.accOk r a (96 * n) false = true) :
    exec (.wcomb r w) s = .next ((combined (s.fetched r) r w.d.toNat d a n).retire r) := by
  subst ha hd hn
  obtain ⟨hAd, hAa⟩ := hAlign
  obtain ⟨hOd, hOa⟩ := hOk
  have hCount : countBad ((s.unit r).x w.c).toNat = false := by
    simp only [countBad, Bool.or_eq_false_iff, decide_eq_false_iff_not]
    omega
  change execWcomb r w s = _
  unfold execWcomb
  dsimp only
  rw [ctl_acts h hw]
  · simp only [fetched_x]
    rfl
  · rw [fetched_any_xp]
    exact hp
  · simp [-fetched_unit, recOk, fetched_x, fetched_accOk_any, hAd, hAa, hOd, hOa, hCount]

/-- A byte that a unit reads as it stands: an NMU where its line is under its key, a reach anywhere. -/
def Readable (s : State) (r : Res) (b : Nat) : Prop := r.isNmu = true → s.keyOk (b / 64) = true

theorem touch_byte {b : Nat} (h : Readable t r b) (a n : Nat) : (t.touch r a n).byte b = t.byte b := by
  cases r with
  | reach k =>
    obtain ⟨l, hl⟩ := touch_reach_lkp t k a n
    rw [hl]
    rfl
  | nmu d =>
    have hTouch := touch_kept t (.nmu d) a n
    exact byte_eq hTouch.device hTouch.memory (h rfl)

theorem countLimit_byte (t : State) (r : Res) (k b : Nat) : (t.countLimit r k).byte b = t.byte b := by
  cases r with
  | reach n => rfl
  | nmu d => rfl

theorem read_eq_of_bytes {x : State} {a n : Nat} (h : ∀ i < n, x.byte (a + i) = t.byte (a + i)) : x.read a n = t.read a n := by
  unfold State.read
  exact List.map_congr_left fun i hi => h i (List.mem_range.mp hi)

/-- The combination of the i-th pair, as the state holds it. -/
def pairOf (s : State) (r : Res) (d a i : Nat) : Fwp :=
  ((Fwp.ofBytes (s.read (unitAddr r (d + 96 * i)) 96)).combine (Fwp.ofBytes (s.read (unitAddr r (a + 96 * i)) 96))).1

/-- What the first `k` pairs have come to. -/
structure Combined (s t : State) (r : Res) (u : Machine.Unit) (d a k : Nat) : Prop where
  ran  : Ran s t r u [(unitAddr r d, 96 * k)]
  kept : ∀ b, Readable s r b → (b < unitAddr r d ∨ unitAddr r d + 96 * k ≤ b) → t.byte b = s.byte b
  recs : ∀ i < k, ∃ p, Holds t (unitAddr r (d + 96 * i)) ({ pairOf s r d a i with poison := p } : Fwp).bytes

/-- The record that is written for a pair has the pair's combination, but for its poison bit. -/
theorem pair_of_reads {d a i : Nat} (hd : t.read (unitAddr r (d + 96 * i)) 96 = s.read (unitAddr r (d + 96 * i)) 96)
    (ha : t.read (unitAddr r (a + 96 * i)) 96 = s.read (unitAddr r (a + 96 * i)) 96) :
    ∃ p, ((t.readFwp r (d + 96 * i)).combine (t.readFwp r (a + 96 * i))).1 = { pairOf s r d a i with poison := p } := by
  unfold State.readFwp
  rw [hd, ha]
  exact ⟨_, combine_poison _ _ _ _⟩

/-- The bytes of the record that is written next stand apart from every record before it, and the sum of two spans that share no byte. -/
theorem unitAddr_apart {d a n : Nat} (h : d + n ≤ a ∨ a + n ≤ d) : unitAddr r d + n ≤ unitAddr r a ∨ unitAddr r a + n ≤ unitAddr r d := by
  cases r with
  | reach k =>
    simp only [unitAddr]
    omega
  | nmu e => exact h

theorem Combined.step {d a k slot : Nat} (h : Combined s t r u d a k) (hj : u.job = (s.unit r).job)
    (hq : (s.jobRun (s.unit r).job).armed = false)
    (hReads : ∀ j < 96, Readable s r (unitAddr r (d + 96 * k) + j) ∧ Readable s r (unitAddr r (a + 96 * k) + j))
    (hApart : d + 96 * (k + 1) ≤ a ∨ a + 96 * (k + 1) ≤ d) : Combined s (combStep r slot d a t k) r u d a (k + 1) := by
  have hBase : unitAddr r (d + 96 * k) = unitAddr r d + 96 * k := unitAddr_add r d (96 * k)
  have hSource : unitAddr r (a + 96 * k) = unitAddr r a + 96 * k := unitAddr_add r a (96 * k)
  have hOther := unitAddr_apart (r := r) hApart
  obtain ⟨p, hPair⟩ := pair_of_reads (t := t) (s := s) (r := r) (d := d) (a := a) (i := k)
    (read_eq_of_bytes fun j hj => h.kept _ (hReads j hj).1 (by omega))
    (read_eq_of_bytes fun j hj => h.kept _ (hReads j hj).2 (by omega))
  have hTouch := touch_touch_counts t r (d + 96 * k) (a + 96 * k) 96 96
  have hCounted := countLimit_counts (((t.touch r (d + 96 * k) 96).touch r (a + 96 * k) 96).store r (d + 96 * k)
    ({ pairOf s r d a k with poison := p } : Fwp).bytes p) r (b2n ((t.readFwp r (d + 96 * k)).combine (t.readFwp r (a + 96 * k))).2)
  have hStored := ((h.ran.counts hTouch).store (d + 96 * k) ({ pairOf s r d a k with poison := p } : Fwp).bytes p).counts hCounted
  have hStep : combStep r slot d a t k = (((t.touch r (d + 96 * k) 96).touch r (a + 96 * k) 96).store r (d + 96 * k)
      ({ pairOf s r d a k with poison := p } : Fwp).bytes p).countLimit r
        (b2n ((t.readFwp r (d + 96 * k)).combine (t.readFwp r (a + 96 * k))).2) := by
    unfold combStep
    dsimp only
    rw [hPair]
    exact hStored.trapRec hj hq _ _ _ _ _ _
  rw [hStep]
  refine ⟨?_, fun b hb hOut => ?_, fun i hi => ?_⟩
  · refine hStored.mono fun b hOut q hq => ?_
    have hOut' := hOut _ (List.mem_singleton.mpr rfl)
    simp only [List.mem_append, List.mem_singleton, length_header] at hq
    rcases hq with rfl | rfl
    · simp only at hOut' ⊢
      omega
    · simp only at hOut' ⊢
      omega
  · have hReadable : Readable t r b := fun hNmu => h.ran.keys _ (hb hNmu)
    have hReadable' : Readable (t.touch r (d + 96 * k) 96) r b := fun hNmu =>
      (h.ran.counts (touch_counts t r (d + 96 * k) 96)).keys _ (hb hNmu)
    rw [countLimit_byte, (store_stored _ _ _ _ _).byte, byte_write, if_neg (by rw [length_header]; omega), touch_byte hReadable',
      touch_byte hReadable]
    exact h.kept b hb (by omega)
  · by_cases hLast : i = k
    · subst hLast
      exact ⟨p, (store_holds _ r _ _ p).frame hCounted.framed⟩
    · obtain ⟨q, hHolds⟩ := h.recs i (by omega)
      have hBefore : unitAddr r (d + 96 * i) = unitAddr r d + 96 * i := unitAddr_add r d (96 * i)
      exact ⟨q, ((hHolds.frame hTouch.framed).store r p (by rw [length_header]; omega)).frame hCounted.framed⟩

theorem fetched_byte (s : State) (r : Res) (b : Nat) : (s.fetched r).byte b = s.byte b := by
  cases r with
  | reach n => rfl
  | nmu d => rfl

theorem combined_zero (t : State) (r : Res) (slot d a : Nat) : combined t r slot d a 0 = t := by
  simp only [combined, List.range_zero, List.foldl_nil]

theorem foldl_range_succ {α : Type} (f : α → Nat → α) (x : α) (k : Nat) :
    (List.range (k + 1)).foldl f x = f ((List.range k).foldl f x) k := by
  rw [List.range_succ, List.foldl_concat]

theorem combined_succ (t : State) (r : Res) (slot d a k : Nat) :
    combined t r slot d a (k + 1) = combStep r slot d a (combined t r slot d a k) k := foldl_range_succ _ t k

/-- All the pairs. -/
theorem combined_pairs {d a slot n : Nat} (hStart : Combined s t r u d a 0) (hj : u.job = (s.unit r).job)
    (hq : (s.jobRun (s.unit r).job).armed = false)
    (hReads : ∀ i < n, ∀ j < 96, Readable s r (unitAddr r (d + 96 * i) + j) ∧ Readable s r (unitAddr r (a + 96 * i) + j))
    (hApart : d + 96 * n ≤ a ∨ a + 96 * n ≤ d) (k : Nat) (hk : k ≤ n) : Combined s (combined t r slot d a k) r u d a k := by
  induction k with
  | zero =>
    rw [combined_zero]
    exact hStart
  | succ k ih =>
    rw [combined_succ]
    exact (ih (by omega)).step hj hq (hReads k hk) (by omega)

theorem combined_start (s : State) (r : Res) (d a : Nat) :
    Combined s (s.fetched r) r { s.unit r with pc := BitVec.ofNat 17 (s.unit r).next } d a 0 :=
  ⟨(fetched_ran s r).mono fun _ _ _ hq => absurd hq List.not_mem_nil, fun b _ _ => fetched_byte s r b,
    fun i hi => absurd hi (Nat.not_lt_zero i)⟩

theorem holds_read {b : Nat} {bs : List Byte} (h : Holds t b bs) : t.read b bs.length = bs :=
  List.ext_getElem (by simp [State.read]) fun i _ hi => by
    simp only [State.read, List.getElem_map, List.getElem_range]
    exact (h i hi).1

/-- A record at a multiple of 32 lies in the two lines from its first byte on. -/
theorem readable_of_lines {b i j : Nat} (hAlign : b % 32 = 0) (hj : j < 96)
    (h : r.isNmu = true → s.keyOk ((b + 96 * i) / 64) = true ∧ s.keyOk ((b + 96 * i) / 64 + 1) = true) :
    Readable s r (unitAddr r (b + 96 * i) + j) := fun hNmu => by
  obtain ⟨hFirst, hSecond⟩ := h hNmu
  have hAddr : unitAddr r (b + 96 * i) = b + 96 * i := by
    cases r with
    | reach k => cases hNmu
    | nmu d => rfl
  rw [hAddr]
  have hLine : (b + 96 * i + j) / 64 = (b + 96 * i) / 64 ∨ (b + 96 * i + j) / 64 = (b + 96 * i) / 64 + 1 := by omega
  rcases hLine with hEq | hEq
  · rw [hEq]
    exact hFirst
  · rw [hEq]
    exact hSecond

/-- Settles O17: the records of the pairs do not reach into one another, so each pair is read as it stood before the first was written. -/
theorem combineRecords : Obligations.CombineRecords := by
  unfold Obligations.CombineRecords
  intro r w s hQuiet hw hpd hpa hpc u d a n hLow hHigh hAd hAa hOd hOa hReady hApart hKeys
  have hReads : ∀ i < n, ∀ j < 96, Readable s r (unitAddr r (d + 96 * i) + j) ∧ Readable s r (unitAddr r (a + 96 * i) + j) :=
    fun i hi j hj => ⟨readable_of_lines hAd hj fun hNmu => ⟨(hKeys i hi hNmu).1, (hKeys i hi hNmu).2.1⟩,
      readable_of_lines hAa hj fun hNmu => (hKeys i hi hNmu).2.2⟩
  have hAll := combined_pairs (slot := w.d.toNat) (combined_start s r d a) rfl hQuiet.unarmed hReads hApart n (Nat.le_refl n)
  have hRetired := hAll.ran.retire hReady rfl rfl rfl
  have hEq := retire_of_ready (t := combined (s.fetched r) r w.d.toNat d a n) hReady (by rw [hAll.ran.unit]) (by rw [hAll.ran.unit])
    (by rw [hAll.ran.unit])
  refine ⟨_, exec_wcomb rfl rfl rfl (by simp [hpd, hpa, hpc]) hw hReady hLow hHigh ⟨hAd, hAa⟩ ⟨hOd, hOa⟩, hRetired.unit, hRetired.others,
    hRetired.device, hRetired.kept, fun i hi => ?_⟩
  obtain ⟨p, hHolds⟩ := hAll.recs i hi
  have hBytes := holds_read (hHolds.frame (framed_modU (combined (s.fetched r) r w.d.toNat d a n) r fun u => { u with next := (s.unit r).next + 1 }))
  rw [length_header] at hBytes
  have hFits : FwpFits ({ pairOf s r d a i with poison := p } : Fwp) := (combine_fits (ofBytes_fits _) (ofBytes_fits _)).poison p
  refine ⟨p, ?_⟩
  rw [hEq, hBytes, ofBytes_bytes hFits]
  rfl

end Sys2Proof.Machine.VectorMemory

/-! PROOF. Writes of registers (00 R11, R12, R14; 13 R429, R432, R449; 19 R622): which commands are such a write, what a missing semaphore
does, and what the _CLR registers clear. -/

namespace Sys2Proof.Machine.Registers

open Sys2Proof.Machine Sys2Proof.Machine.Laws Sys2Proof.Machine.EgressRings

variable {s : State} {p : Port}

/-! ### Commands that are a write (00 R14) -/

/-- A command that writes a register is the write at that offset. -/
theorem exec_registerWrite (p : Port) (s : State) (v : W64) {off : Nat} (h : off < 2 ^ 26) :
    exec (.registerWrite p (BitVec.ofNat 26 off) v) s = .next (s.portWrite p off v) := by
  change Host.Outcome.next (s.portWrite p (BitVec.ofNat 26 off).toNat v) = _
  rw [BitVec.toNat_ofNat, Nat.mod_eq_of_lt h]

theorem prfWord_slot (k : BitVec 2) : prfWord 2 false k 0 = 0x200 + k.setWidth 64 * 16 := by
  revert k
  decide

theorem prfWord_polder (k : BitVec 2) : prfWord 3 false 0 k = 0x300 + k.setWidth 64 := by
  revert k
  decide

/-- BASE of PCI_B2_WIN (13 R453). -/
theorem winWord (x : BitVec 12) : BitVec.ofNat 64 (x.toNat * 2 ^ 28) = x.setWidth 64 <<< 28 := by
  have hx := x.isLt
  apply BitVec.eq_of_toNat_eq
  rw [BitVec.toNat_ofNat, BitVec.toNat_shiftLeft, BitVec.toNat_setWidth, Nat.shiftLeft_eq, Nat.mod_eq_of_lt (a := x.toNat) (by omega)]

/-! ### RWL registers (00 R11; 13 R449) -/

/-- Without the semaphore the write only counts SEM_REFUSED. -/
theorem rwl_refused {n : Fin 32} (h : s.sem[n].owner ≠ ownerOf p) (f : State → State × Bool) : (s.rwl p n f).1 = s.semRefuse := by
  have hHolds : s.holds p n = false := beq_false_of_ne h
  simp only [State.rwl, hHolds, Bool.false_eq_true, if_false]

/-- A register that is written under semaphore `k`. -/
structure RwlReg (off : Nat) (k : Fin 32) : Prop where
  small   : off < 2 ^ 26
  aligned : off % 8 = 0
  defined : regDefined off = true
  mode    : off ≠ 0x480028
  clr     : ∀ (s : State) v, s.clrWrite off v = none
  plain   : ∀ (s : State) (p : Port) (v : W64), s.sem[k].owner ≠ ownerOf p → (s.plainWrite p off v).1 = s.semRefuse

theorem portWrite_refused {off : Nat} {k : Fin 32} (h : RwlReg off k) (hOpen : OpenPort s p) (hOwner : s.sem[k].owner ≠ ownerOf p)
    (v : W64) : s.portWrite p off v = s.semRefuse := by
  rw [portWrite_plain hOpen h.aligned h.defined h.mode v (h.clr s _), h.plain s p v hOwner]

/-- The RWL registers that stand alone. -/
def rwlRegs : List (Nat × Fin 32) :=
  [(0x20008, 1), (0x20100, 2), (0x20108, 2), (0x20110, 2), (0x380008, 5), (0x380018, 5), (0x3C0008, 5), (0x3C0010, 5), (0x400008, 6),
    (0x480030, 7), (0x500200, 8), (0x500208, 8), (0x580018, 9)]

theorem rwlReg_single : ∀ q ∈ rwlRegs, RwlReg q.1 q.2 := by
  simp only [rwlRegs, List.forall_mem_cons, List.not_mem_nil, false_imp_iff, implies_true, and_true]
  refine ⟨?_, ?_, ?_, ?_, ?_, ?_, ?_, ?_, ?_, ?_, ?_, ?_, ?_⟩
  all_goals
    refine ⟨by decide, rfl, rfl, by decide, fun _ _ => rfl, fun s p v h => ?_⟩
    unfold State.plainWrite
    rw [dif_neg (by decide)]
    exact rwl_refused h _

/-- BASE and CFG of an egress ring (10 R347). -/
theorem rwlReg_ring {e k : Nat} (he : e < 1024) (hk : k = 0 ∨ k = 8) : RwlReg (0x44000 + e * 0x20 + k) 4 := by
  refine ⟨by omega, by omega, regDefined_ring (by omega) (by omega) (by omega), by omega,
    fun s v => clrWrite_ring s (by omega) (by omega) v, fun s p v h => ?_⟩
  rw [plainWrite_ring s p he (by omega)]
  rcases hk with rfl | rfl
  · exact rwl_refused h _
  · exact rwl_refused h _

/-! ### Registers of a reach (19 R613) -/

/-- Of the offsets of a reach's registers, none is a _CLR register of another block. -/
theorem clrWrite_reach (s : State) {n : Fin 16} {o off : Nat} (hOff : off = 0x100000 + n * 0x10000 + o) (ho : o < 0x10000) (v : Nat) :
    s.clrWrite off v = (s.reach[n].clr o v).map fun x => { s with reach := s.reach.set n x } := by
  have hReach : (off - 0x100000) / 0x10000 = n := by omega
  have hReg : off % 0x10000 = o := by omega
  unfold State.clrWrite
  split
  case h_9 =>
    rw [if_neg (by omega), dif_pos (by omega)]
    simp only [hReach, hReg]
  all_goals omega

theorem clr_plain (x : Reach) {o : Nat} (h : o = 0x208 ∨ o = 0x210) (v : Nat) : x.clr o v = none := by
  rcases h with rfl | rfl
  · rfl
  · rfl

theorem regDefined_reach {n : Fin 16} {o off : Nat} (hOff : off = 0x100000 + n * 0x10000 + o) (ho : o < 0x10000)
    (hDef : regDefined (0x100000 + o) = true) : regDefined off = true := by
  have hBlock : inBlock (off % 0x10000) = inBlock ((0x100000 + o) % 0x10000) := congrArg inBlock (by omega)
  rw [regDefined, if_neg (by omega), if_neg (by omega), if_neg (by omega), if_neg (by omega), if_neg (by omega), if_pos (by omega)] at hDef ⊢
  rw [hBlock]
  exact hDef

/-- SFU_RELOAD and SFU_SWITCH of a reach (05 R172, R173). -/
theorem rwlReg_reach {n : Fin 16} {o off : Nat} (hOff : off = 0x100000 + n * 0x10000 + o) (h : o = 0x208 ∨ o = 0x210) : RwlReg off 3 := by
  refine ⟨by omega, by omega, regDefined_reach hOff (by omega) ?_, by omega, fun s v => ?_, fun s p v hOwner => ?_⟩
  · rcases h with rfl | rfl
    · rfl
    · rfl
  · rw [clrWrite_reach s hOff (by omega), clr_plain _ h, Option.map_none]
  · unfold State.plainWrite
    rw [dif_neg (by omega)]
    split
    case h_19 =>
      rw [if_neg (by omega), dif_pos (by omega)]
      have hReg : off % 0x10000 = o := by omega
      rw [hReg]
      rcases h with rfl | rfl
      · exact rwl_refused hOwner _
      · exact rwl_refused hOwner _
    all_goals omega

/-- Settles O33: each command writes one register, and the registers named are those of `RwlReg`. -/
theorem writesOfRwlRegisters : Obligations.WritesOfRwlRegisters := by
  unfold Obligations.WritesOfRwlRegisters
  intro p s v
  refine ⟨fun n e cfg k x f => ?_, fun hOpen off k hReg hOwner => ?_⟩
  · have hn := n.isLt
    have he := e.isLt
    refine ⟨?_, ?_, ?_, ?_, ?_, ?_, ?_⟩
    · rw [exec_registerWrite p s v (by omega)]
      exact rfl
    · rw [exec_registerWrite p s v (by cases cfg <;> simp <;> omega)]
      rfl
    · rw [← prfWord_slot]
      rfl
    · rw [← prfWord_polder]
      rfl
    · rw [← winWord]
      rfl
    · rfl
    · cases cfg
      · rfl
      · rfl
  · have hRwl : RwlReg off k := by
      rcases hReg with hSingle | ⟨rfl, n, hn, hOff⟩ | ⟨rfl, e, he, hOff⟩
      · refine rwlReg_single (off, k) ?_
        simp only [rwlRegs, List.mem_cons, Prod.mk.injEq, List.not_mem_nil, or_false, Fin.ext_iff] at hSingle ⊢
        exact hSingle
      · rcases hOff with rfl | rfl
        · exact rwlReg_reach (n := ⟨n, hn⟩) (o := 0x208) (by dsimp only; omega) (.inl rfl)
        · exact rwlReg_reach (n := ⟨n, hn⟩) (o := 0x210) (by dsimp only; omega) (.inr rfl)
      · rcases hOff with rfl | rfl
        · exact rwlReg_ring he (.inl rfl)
        · have hSame : 0x44008 + e * 0x20 = 0x44000 + e * 0x20 + 8 := by omega
          rw [hSame]
          exact rwlReg_ring he (.inr rfl)
    have hOwner' : s.sem[k].owner ≠ ownerOf p := by
      cases p with
      | host => exact hOwner
      | mgmt i => exact hOwner
    rw [exec_registerWrite p s v hRwl.small, portWrite_refused hRwl hOpen hOwner' v]
    rfl

/-! ### Writes that reach no register (00 R12; 12 R410; 13 R429, R432) -/

/-- Before the ready point, and outside recovery, a write reaches nothing. -/
theorem portWrite_unready (hReady : s.prf.ready = false) (hRecovery : s.prf.recovery = false) (off : Nat) (v : W64) :
    s.portWrite p off v = s := by
  have hReg : (s.regWrite p off v).1 = s := by simp [State.regWrite, hReady, hRecovery]
  unfold State.portWrite
  rw [hReg]
  split
  · rfl
  · simp [hReady]

theorem portWrite_undefined {off : Nat} (hReady : s.prf.ready = true)
    (h : (off % 8 = 0 ∧ regDefined off = false) ∨ (off % 8 ≠ 0 ∧ p ≠ .host)) (v : W64) : s.portWrite p off v = s := by
  have hNone : off % 8 ≠ 0 ∨ (!regDefined off) = true := by
    rcases h with ⟨-, hDef⟩ | ⟨hAlign, -⟩
    · exact .inr (by rw [hDef]; rfl)
    · exact .inl hAlign
  have hPort : ¬(p = .host ∧ off % 8 ≠ 0 ∧ s.prf.ready = true) := by
    rintro ⟨hHost, hAlign, -⟩
    rcases h with ⟨hZero, -⟩ | ⟨-, hOther⟩
    · exact hAlign hZero
    · exact hOther hHost
  have hReg : (s.regWrite p off v).1 = s := by simp only [State.regWrite, hReady, Bool.not_true, Bool.false_eq_true, if_false, hNone, if_true]
  unfold State.portWrite
  rw [hReg, if_neg hPort]
  split
  · rfl
  · rfl

/-- A BASE that is not a multiple of 64 is taken as reserved. -/
theorem egrBase_reserved {e : Nat} {v : W64} (h : v.toNat % 64 ≠ 0) : (s.egrBase e v).1 = s := by
  simp only [State.egrBase, ne_eq, h, not_false_eq_true, if_true]

theorem rasBase_reserved {v : W64} (h : v.toNat % 64 ≠ 0) : (s.rasBase v).1 = s := by
  simp only [State.rasBase, ne_eq, h, not_false_eq_true, if_true]

/-! ### _CLR registers (19 R622) -/

/-- A _CLR register: wherever it is written it clears something. -/
structure ClrReg (off : Nat) : Prop where
  small   : off < 2 ^ 26
  aligned : off % 8 = 0
  defined : regDefined off = true
  mode    : off ≠ 0x480028
  clr     : isClr off = true

/-- A command that clears counters is a write of their _CLR register, which a drain does not keep out (16 R556). -/
theorem exec_counterClear {off : Nat} {v : W64} {t : State} (h : ClrReg off) (hOn : s.portOn p = true) (hReady : s.prf.ready = true)
    (ht : s.clrWrite off v.toNat = some t) : exec (.counterClear p (BitVec.ofNat 26 off) v) s = .next t := by
  have hWrite : s.portWrite p off v = t := by
    rw [portWrite_open s hOn off h.aligned]
    simp only [State.regWrite, hReady, Bool.not_true, Bool.false_eq_true, if_false, h.aligned, h.defined, ne_eq, not_true_eq_false, or_self,
      h.mode, ht]
  change Host.Outcome.next (if isClr (BitVec.ofNat 26 off).toNat then s.portWrite p (BitVec.ofNat 26 off).toNat v else s) = _
  rw [BitVec.toNat_ofNat, Nat.mod_eq_of_lt h.small, h.clr, if_pos rfl, hWrite]

theorem clrCnt_eq (v : W64) (i : Nat) (c : W32) : clrCnt v.toNat i c = if v.getLsbD i then 0 else c := by rw [clrCnt, bitAt_toNat]

theorem clrPerf_eq (v : W64) (i : Nat) (c : Perf) : clrPerf v.toNat i c = if v.getLsbD i then {} else c := by rw [clrPerf, bitAt_toNat]

/-- The _CLR registers of a reach. -/
theorem clrReg_reach {n : Fin 16} {o off : Nat} (hOff : off = 0x100000 + n * 0x10000 + o) (ho : o < 0x10000) (hAlign : o % 8 = 0)
    (hDef : regDefined (0x100000 + o) = true) (hClr : ∀ x : Reach, (x.clr o 0).isSome = true) : ClrReg off := by
  refine ⟨by omega, by omega, regDefined_reach hOff ho hDef, by omega, ?_⟩
  rw [isClr, clrWrite_reach _ hOff ho, Option.isSome_map]
  exact hClr _

/-- A write of a reach's _CLR register. -/
theorem clear_reach {n : Fin 16} {o : Nat} {v : W64} {f : Reach → Reach} (ho : o < 0x10000) (hAlign : o % 8 = 0)
    (hDef : regDefined (0x100000 + o) = true) (hClr : ∀ (x : Reach) (v : Nat), (x.clr o v).isSome = true)
    (hf : s.reach[n].clr o v.toNat = some (f s.reach[n])) (hOn : s.portOn p = true) (hReady : s.prf.ready = true) :
    exec (.counterClear p (BitVec.ofNat 26 (0x100000 + n * 0x10000 + o)) v) s = .next (s.modReach n f) := by
  refine exec_counterClear (clrReg_reach rfl ho hAlign hDef fun x => hClr x 0) hOn hReady ?_
  rw [clrWrite_reach s rfl ho, hf]
  rfl

theorem clrWrite_mdie (s : State) {d : Fin 4} {off : Nat} (hOff : off = 0x200030 + d * 0x40000) (v : Nat) :
    s.clrWrite off v = some (s.modMdie d fun m => m.clr v) := by
  have hDie : (off - 0x200000) / 0x40000 = d := by omega
  unfold State.clrWrite
  split
  case h_9 =>
    rw [if_neg (by omega), dif_neg (by omega), dif_pos (by omega), if_pos (by omega)]
    simp only [hDie]
  all_goals omega

theorem clrWrite_nmu (s : State) {d : Fin 4} {off : Nat} (hOff : off = 0x300028 + d * 0x1000) (v : Nat) :
    s.clrWrite off v = some (s.modNmu d fun x => x.clr v) := by
  have hNmu : (off - 0x300000) / 0x1000 = d := by omega
  unfold State.clrWrite
  split
  case h_9 =>
    rw [if_neg (by omega), dif_neg (by omega), dif_neg (by omega), if_neg (by omega), dif_pos (by omega), if_pos (by omega)]
    simp only [hNmu]
  all_goals omega

theorem clrReg_mdie : ∀ d : Fin 4, ClrReg (0x200030 + d * 0x40000) := fun d =>
  ⟨by omega, by omega, by revert d; decide, by omega, by rw [isClr, clrWrite_mdie _ rfl]; rfl⟩

theorem clrReg_nmu : ∀ d : Fin 4, ClrReg (0x300028 + d * 0x1000) := fun d =>
  ⟨by omega, by omega, by revert d; decide, by omega, by rw [isClr, clrWrite_nmu _ rfl]; rfl⟩

/-- The _CLR registers that stand alone. -/
theorem clrReg_single : ∀ off ∈ [0x10110, 0x40028, 0x380038, 0x3C0028, 0x400038, 0x480048, 0x500230, 0x580030], ClrReg off := by
  simp only [List.forall_mem_cons, List.not_mem_nil, false_imp_iff, implies_true, and_true]
  refine ⟨?_, ?_, ?_, ?_, ?_, ?_, ?_, ?_⟩
  all_goals exact ⟨by decide, rfl, rfl, by decide, rfl⟩

/-- A write of one of them. -/
theorem clear_single {off : Nat} {v : W64} {t : State}
    (h : off ∈ [0x10110, 0x40028, 0x380038, 0x3C0028, 0x400038, 0x480048, 0x500230, 0x580030]) (hOn : s.portOn p = true)
    (hReady : s.prf.ready = true) (ht : s.clrWrite off v.toNat = some t) :
    exec (.counterClear p (BitVec.ofNat 26 off) v) s = .next t := exec_counterClear (clrReg_single off h) hOn hReady ht

/-- Settles O34: each write that reaches nothing has its own lemma, and every clear is `exec_counterClear` with its register's meaning. -/
theorem registerWritesAndClears : Obligations.RegisterWritesAndClears := by
  unfold Obligations.RegisterWritesAndClears
  intro p s v
  refine ⟨fun off h => congrArg _ (portWrite_closed s h _ v), fun off h g => congrArg _ (portWrite_unready h g _ v),
    fun off h g => congrArg _ (portWrite_undefined h g v), fun off h g k => congrArg _ (portWrite_misaligned s h g _ k v),
    fun e hOpen hAlign => ⟨fun hHolds => ?_, fun hHolds => ?_⟩, fun hOn hReady => ⟨fun n => ⟨?_, ?_, ?_, ?_, ?_, ?_⟩, fun d => ⟨?_, ?_⟩,
      ?_, ?_, ?_, ?_, ?_, ?_, ?_, ?_⟩⟩
  · rw [EgressRings.exec_base hOpen hHolds, egrBase_reserved hAlign]
  · rw [HostErrorRing.exec_base hOpen hHolds, rasBase_reserved hAlign]
  · refine clear_reach (by decide) rfl rfl (fun _ _ => rfl) ?_ hOn hReady
    simp only [Reach.clr, clrCnt_eq]
  · refine clear_reach (by decide) rfl rfl (fun _ _ => rfl) ?_ hOn hReady
    simp only [Reach.clr, clrCnt_eq]
  · refine clear_reach (by decide) rfl rfl (fun _ _ => rfl) ?_ hOn hReady
    simp only [Reach.clr, clrCnt_eq]
  · refine clear_reach (by decide) rfl rfl (fun _ _ => rfl) ?_ hOn hReady
    simp only [Reach.clr, clrCnt_eq]
  · refine clear_reach (by decide) rfl rfl (fun _ _ => rfl) ?_ hOn hReady
    simp only [Reach.clr, clrPerf_eq, bitAt_toNat]
  · refine clear_reach (by decide) rfl rfl (fun _ _ => rfl) ?_ hOn hReady
    simp only [Reach.clr, clrPerf_eq]
  · refine exec_counterClear (clrReg_mdie d) hOn hReady ?_
    simp only [clrWrite_mdie s rfl, MDie.clr, clrCnt_eq, clrPerf_eq]
  · refine exec_counterClear (clrReg_nmu d) hOn hReady ?_
    simp only [clrWrite_nmu s rfl, Nmu.clr, clrCnt_eq, clrPerf_eq]
  · refine clear_single (by decide) hOn hReady ?_
    simp only [State.clrWrite, clrCnt_eq]
  · refine clear_single (by decide) hOn hReady ?_
    simp only [State.clrWrite, Cpl.clr, clrCnt_eq]
  · refine clear_single (by decide) hOn hReady ?_
    simp only [State.clrWrite, clrCnt_eq]
  · refine clear_single (by decide) hOn hReady ?_
    simp only [State.clrWrite, Ras.clr, clrCnt_eq, clrPerf_eq]
  · refine clear_single (off := 0x10110) (by decide) hOn hReady ?_
    simp only [State.clrWrite, clrCnt_eq]
  · refine clear_single (off := 0x380038) (by decide) hOn hReady ?_
    simp only [State.clrWrite, clrCnt_eq]
  · refine clear_single (off := 0x3C0028) (by decide) hOn hReady ?_
    simp only [State.clrWrite, clrCnt_eq]
  · refine clear_single (off := 0x580030) (by decide) hOn hReady ?_
    simp only [State.clrWrite, clrCnt_eq]

end Sys2Proof.Machine.Registers

/-! PROOF. EMP requests (13 R441 to R445; 15 R527): what a request is held against before its command is looked at, and what an answer
leaves. -/

namespace Sys2Proof.Machine.Requests

open Sys2Proof.Machine Sys2Proof.Machine.Laws

variable {s t : State} {q : EmpReq} {k : Fin 4} {m maint form : Bool} {f : Fin 4 → State → EmpRes}

/-! ### The session of a request (13 R444) -/

theorem id_of_sessOf (h : s.sessOf q.session = some k) : s.mgt.sess[k].map (·.id) = some q.session := by
  have hFound := List.find?_some h
  exact eq_of_beq hFound

/-- A new request comes in an open session of its identifier, whose authority it has. -/
theorem session_of_fresh (h : s.empIn q = .fresh k m) : ∃ x, s.mgt.sess[k] = some x ∧ x.id = q.session ∧ x.maint = m := by
  unfold State.empIn at h
  split at h
  · cases h
  · cases hOf : s.sessOf q.session with
    | none => simp [hOf] at h
    | some i =>
      have hId := id_of_sessOf hOf
      cases hSess : s.mgt.sess[i] with
      | none => simp [hSess] at hId
      | some x =>
        have hNew : (if q.busy then EmpIn.busy else .fresh i x.maint) = .fresh k m → i = k ∧ x.maint = m := by
          intro hNew
          cases hBusy : q.busy with
          | false => simpa [hBusy] using hNew
          | true => simp [hBusy] at hNew
        have hWho : i = k ∧ x.maint = m := by
          simp only [hOf, hSess] at h
          split at h
          · cases h
          · split at h
            · split at h
              · cases h
              · split at h
                · exact hNew h
                · cases h
            · exact hNew h
        obtain ⟨rfl, hMaint⟩ := hWho
        exact ⟨x, hSess, by simpa [hSess] using hId, hMaint⟩

theorem empIn_unserved (h : s.empServed = false ∨ q.taken = false) : s.empIn q = .discard := by
  rcases h with h | h
  · simp [State.empIn, h]
  · simp [State.empIn, h]

theorem empIn_unknown (hServed : s.empServed = true) (hTaken : q.taken = true)
    (h : ∀ k : Fin 4, (s.mgt.sess[k].map (·.id)) ≠ some q.session) : s.empIn q = .authFail := by
  have hNone : s.sessOf q.session = none := by
    cases hOf : s.sessOf q.session with
    | none => rfl
    | some i => exact absurd (id_of_sessOf hOf) (h i)
  simp [State.empIn, hServed, hTaken, hNone]

/-! ### What an answer leaves (13 R444) -/

/-- A record that is kept changes the records and their counts alone. -/
theorem keepRecord_eq (m : Mgt) (r : ErrRec) :
    keepRecord m r = { m with recs := (keepRecord m r).recs, sent := (keepRecord m r).sent, recDrop := (keepRecord m r).recDrop } := by
  unfold keepRecord
  split
  · rfl
  · rfl

theorem raise_mgt (s : State) (e : Ev) : (s.raise e).mgt = { s.mgt with
    recs := (s.raise e).mgt.recs, sent := (s.raise e).mgt.sent, recDrop := (s.raise e).mgt.recDrop } := keepRecord_eq _ _

theorem raise_sess (s : State) (e : Ev) : (s.raise e).mgt.sess = s.mgt.sess := by rw [raise_mgt]

/-- Session `k` is open under the request's identifier. -/
def InSession (s : State) (q : EmpReq) (k : Fin 4) : Prop := s.mgt.sess[k].map (·.id) = some q.session

theorem inSession_of_fresh (h : s.empIn q = .fresh k m) : InSession s q k := by
  obtain ⟨x, hSess, hId, -⟩ := session_of_fresh h
  rw [InSession, hSess, Option.map_some, hId]

/-- The state after an answer. -/
def answered (t : State) (q : EmpReq) (k : Fin 4) (st : Nat) (reply : List Byte) : State :=
  (t.modSess k fun x => { x with seq := some q.seq, status := st, reply }).empSend q st reply

theorem answered_raised {c j : Nat} {w : W32} (h : Raised s t c j w) (st : Nat) (reply : List Byte) :
    Raised s (answered t q k st reply) c j w := h

theorem empAnswer_eq (h : InSession t q k) (st : Nat) (reply : List Byte) : t.empAnswer k q st reply = answered t q k st reply := if_pos h

theorem answered_replies (h : InSession t q k) (st : Nat) (reply : List Byte) : Replies (answered t q k st reply) q k st reply := by
  refine ⟨List.getLast?_concat, ?_⟩
  rw [InSession] at h
  cases hSess : t.mgt.sess[k] with
  | none => simp [hSess] at h
  | some x =>
    have hId : x.id = q.session := by simpa [hSess] using h
    have hAt : (answered t q k st reply).mgt.sess[k] = some { x with seq := some q.seq, status := st, reply } := by
      change (t.mgt.sess.set k (t.mgt.sess[k].map _))[k] = _
      rw [hSess]
      exact Vector.getElem_set_self k.isLt
    rw [hAt, Option.map_some, hId]

/-! ### The stages of a request -/

theorem emp_discard (h : s.empIn q = .discard) : s.emp q maint form f = s := by simp only [State.emp, h]

theorem emp_authFail (h : s.empIn q = .authFail) : s.emp q maint form f = s.authFail := by simp only [State.emp, h]

theorem emp_busy (h : s.empIn q = .busy) : s.emp q maint form f = s.empSend q 3 [] := by simp only [State.emp, h]

theorem emp_again {st : Nat} {r : List Byte} (h : s.empIn q = .again st r) : s.emp q maint form f = s.empSend q st r := by
  simp only [State.emp, h]

theorem authDenied_inSession (h : InSession s q k) (p : Port) : InSession (s.authDenied p) q k := by
  rw [InSession, State.authDenied, raise_sess]
  exact h

theorem authDenied_raised (s : State) (p : Port) : Raised s (s.authDenied p) 0x0603 0xFFFF (srcOf s (portKind p) 0) :=
  raise_raised { s with sec := { s.sec with denied := stick32 s.sec.denied 1 } } { code := 0x0603, kind := portKind p }

theorem emp_denied (h : s.empIn q = .fresh k false) : s.emp q true form f = answered (s.authDenied (.mgmt k)) q k 2 [] := by
  simp only [State.emp, h, Bool.not_false, Bool.and_true, if_true]
  exact empAnswer_eq (authDenied_inSession (inSession_of_fresh h) _) 2 []

theorem emp_malformed (h : s.empIn q = .fresh k m) (hMaint : maint = true → m = true) (hForm : q.form = false ∨ form = false) :
    s.emp q maint form f = answered s q k 1 [] := by
  have hOk : (maint && !m) = false := by
    cases maint with
    | false => rfl
    | true => rw [hMaint rfl]; rfl
  have hBad : (!q.form || !form) = true := by
    rcases hForm with h | h
    · simp [h]
    · simp [h]
  simp only [State.emp, h, hOk, hBad, Bool.false_eq_true, if_false, if_true]
  exact empAnswer_eq (inSession_of_fresh h) 1 []

/-- A new request of good form is carried out and answered. -/
theorem emp_carried (h : NewReq s q k m) (hMaint : maint = true → m = true) (hForm : form = true)
    (hSess : InSession (f k s).1 q k) : s.emp q maint form f = answered (f k s).1 q k (f k s).2.1 (f k s).2.2 := by
  have hOk : (maint && !m) = false := by
    cases maint with
    | false => rfl
    | true => rw [hMaint rfl]; rfl
  simp only [State.emp, h.new, hOk, h.form, hForm, Bool.not_true, Bool.or_self, Bool.false_eq_true, if_false]
  exact empAnswer_eq hSess _ _

/-! ### The commands of a session -/

/-- The command is a request that needs MAINTENANCE authority as told, but for what it does after one that is carried out. -/
def Checked (s : State) (q : EmpReq) (maint : Bool) (i : Instr) : Prop :=
  (∀ k, s.empIn q ≠ .fresh k true ∨ q.form = false) → ∃ form f, exec i s = .next (s.emp q maint form f)

theorem checked_open (s : State) (q : EmpReq) :
    ∀ i ∈ [Instr.empRead q, .empWrite q, .attest q, .recordAck q, .empUnknownCmd 0x7F q], Checked s q false i := by
  simp only [List.forall_mem_cons, List.not_mem_nil, false_imp_iff, implies_true, and_true]
  exact ⟨fun _ => ⟨_, _, rfl⟩, fun _ => ⟨_, _, rfl⟩, fun _ => ⟨_, _, rfl⟩, fun _ => ⟨_, _, rfl⟩,
    fun _ => ⟨true, fun _ s => (s, 4, []), rfl⟩⟩

/-- A RESTART that is not carried out ends with its reply. -/
theorem checked_restart (s : State) (q : EmpReq) (b : StartIn) : Checked s q true (.empRestart q b) := fun h => by
  refine ⟨q.payload.isEmpty, fun _ s => (s, 0, []), ?_⟩
  change Host.Outcome.next _ = _
  congr 1
  split
  · next k hNew =>
    have hForm : q.form = false := (h k).resolve_left fun hNot => hNot hNew
    rw [hForm]
    rfl
  · rfl

theorem checked_maint (s : State) (q : EmpReq) (flash : Bool) (b : StartIn) :
    ∀ i ∈ [Instr.empRestart q b, .clearFlag q flash, .clearMark q flash, .clearLane q flash, .logRead q flash], Checked s q true i := by
  simp only [List.forall_mem_cons, List.not_mem_nil, false_imp_iff, implies_true, and_true]
  exact ⟨checked_restart s q b, fun _ => ⟨_, _, rfl⟩, fun _ => ⟨_, _, rfl⟩, fun _ => ⟨_, _, rfl⟩, fun _ => ⟨_, _, rfl⟩⟩

theorem Checked.held {i : Instr} (h : Checked s q maint i) : (s.empIn q = .discard → exec i s = .next s) ∧
    (s.empIn q = .authFail → exec i s = .next { s with mgt := { s.mgt with authFail := stick32 s.mgt.authFail 1 } }) ∧
    (s.empIn q = .busy → exec i s = .next (s.send (.empReply q.session.toNat q.seq 3 []))) ∧
    (∀ st r, s.empIn q = .again st r → exec i s = .next (s.send (.empReply q.session.toNat q.seq st r))) := by
  refine ⟨fun hIn => ?_, fun hIn => ?_, fun hIn => ?_, fun st r hIn => ?_⟩
  · obtain ⟨form, f, hExec⟩ := h fun k => .inl (by rw [hIn]; simp)
    rw [hExec, emp_discard hIn]
  · obtain ⟨form, f, hExec⟩ := h fun k => .inl (by rw [hIn]; simp)
    rw [hExec, emp_authFail hIn]
    rfl
  · obtain ⟨form, f, hExec⟩ := h fun k => .inl (by rw [hIn]; simp)
    rw [hExec, emp_busy hIn]
    rfl
  · obtain ⟨form, f, hExec⟩ := h fun k => .inl (by rw [hIn]; simp)
    rw [hExec, emp_again hIn]
    rfl

theorem Checked.malformed {i : Instr} (h : Checked s q maint i) (hIn : s.empIn q = .fresh k m) (hMaint : maint = true → m = true)
    (hForm : q.form = false) : Gives i s fun t => Replies t q k 1 [] ∧ UnitsKept s t ∧ MemoryKept s t := by
  obtain ⟨form, f, hExec⟩ := h fun _ => .inr hForm
  rw [emp_malformed hIn hMaint (.inl hForm)] at hExec
  exact ⟨_, hExec, answered_replies (inSession_of_fresh hIn) 1 [], ⟨rfl, rfl, rfl, rfl, rfl⟩, rfl, rfl, rfl⟩

theorem Checked.denied {i : Instr} (h : Checked s q true i) (hIn : s.empIn q = .fresh k false) : Gives i s fun t =>
    Replies t q k 2 [] ∧ t.sec.denied = stick32 s.sec.denied 1 ∧ Raised s t 0x0603 0xFFFF (srcOf s 4 0) ∧ UnitsKept s t ∧
      MemoryKept s t := by
  obtain ⟨form, f, hExec⟩ := h fun j => .inl (by rw [hIn]; simp)
  rw [emp_denied hIn] at hExec
  exact ⟨_, hExec, answered_replies (authDenied_inSession (inSession_of_fresh hIn) _) 2 [], rfl,
    answered_raised (authDenied_raised s _) 2 [], ⟨rfl, rfl, rfl, rfl, rfl⟩, rfl, rfl, rfl⟩

/-- Settles O47: every command is `State.emp` of its request, whose stages have their own lemmas. -/
theorem requestsAreChecked : Obligations.RequestsAreChecked := by
  unfold Obligations.RequestsAreChecked
  intro q flash b s
  have hOpen := checked_open s q
  have hMaint := checked_maint s q flash b
  refine ⟨fun i hi => ?_, fun k hIn i hi => (hMaint i hi).denied hIn, fun k m hIn hForm => ⟨fun i hi => ?_, fun hm i hi => ?_⟩,
    empIn_unserved, empIn_unknown⟩
  · rcases List.mem_append.mp hi with hMem | hMem
    · exact (hOpen i hMem).held
    · exact (hMaint i hMem).held
  · exact (hOpen i hi).malformed hIn (fun h => absurd h (by decide)) hForm
  · exact (hMaint i hi).malformed hIn (fun _ => hm) hForm

end Sys2Proof.Machine.Requests

/-! PROOF. A start (12 R409 to R412): what none of its phases touches, and where it ends. -/

namespace Sys2Proof.Machine.Starts

-- The lemmas are many and each short: elaborated all at once they would each hold a thread.
set_option Elab.async false

open Sys2Proof.Machine Sys2Proof.Machine.Laws Sys2Proof.Machine.Requests

variable {s t : State}

/-! ### What the phases of a start leave -/

/-- The parts of the device that a start fixes before its phases, and the ready point's mark. -/
structure Base where
  pending  : List Instr
  held     : Bool
  rstLow   : Bool
  recovery : Bool
  ready    : Bool
  pinSel   : BitVec 2
  pairSide : Bool
  mode     : Bool
  mem      : List Host.Cell
  poison   : List Nat
  sem      : Vector Sem 32
  sessions : Vector Bool 4
  pcs      : BitVec 8
  ctxs     : List (Nat × Ctx)

def base (s : State) : Base :=
  { pending := s.pending, held := s.dev.held, rstLow := s.dev.rstLow, recovery := s.prf.recovery, ready := s.prf.ready,
    pinSel := s.prf.pinSel, pairSide := s.prf.pairSide, mode := s.mgt.mode, mem := s.mem, poison := s.poison, sem := s.sem,
    sessions := s.mgt.sess.map Option.isSome, pcs := s.cpl.pcs, ctxs := s.ctx.ctxs }

/-- The parts are as given, and what had left the device came first. -/
structure Boots (a : Base) (o : List Machine.Out) (t : State) : Prop where
  base : base t = a
  out  : o <+: t.out

variable {a : Base} {o : List Machine.Out}

theorem Boots.ite {c : Prop} [Decidable c] (hs : Boots a o s) (ht : Boots a o t) : Boots a o (if c then s else t) := by
  split
  · exact hs
  · exact ht

theorem Boots.dite {c : Prop} [Decidable c] {f : c → State} {g : ¬ c → State} (hf : ∀ h, Boots a o (f h)) (hg : ∀ h, Boots a o (g h)) :
    Boots a o (if h : c then f h else g h) := by
  split
  · exact hf _
  · exact hg _

theorem Boots.foldl {α : Type} {f : State → α → State} (hs : Boots a o s) (hf : ∀ t x, Boots a o t → Boots a o (f t x)) {l : List α} :
    Boots a o (l.foldl f s) := by
  induction l generalizing s with
  | nil => exact hs
  | cons x l ih => exact ih (hf s x hs)

theorem Boots.foldlFst {α β : Type} {f : State × β → α → State × β} {p : State × β} (hp : Boots a o p.1)
    (hf : ∀ q x, Boots a o q.1 → Boots a o (f q x).1) {l : List α} : Boots a o (l.foldl f p).1 := by
  induction l generalizing p with
  | nil => exact hp
  | cons x l ih => exact ih (hf p x hp)

/-- An update of other fields keeps the parts. -/
theorem Boots.upd (h : Boots a o s) (hBase : Starts.base t = Starts.base s := by rfl) (hOut : t.out = s.out := by rfl) : Boots a o t :=
  ⟨hBase.trans h.base, hOut ▸ h.out⟩

theorem raise_mode (s : State) (e : Ev) : (s.raise e).mgt.mode = s.mgt.mode := by rw [raise_mgt]

theorem raise_pcs (s : State) (e : Ev) : (s.raise e).cpl.pcs = s.cpl.pcs := by
  unfold State.raise
  rfl

theorem base_raise (s : State) (e : Ev) : Starts.base (s.raise e) = Starts.base s := by
  simp only [Starts.base, raise_sess, raise_mode, raise_pending, raise_dev, raise_prf, raise_mem, raise_poison, raise_sem, raise_ctx,
    raise_pcs]

theorem Boots.raise (h : Boots a o s) (e : Ev) : Boots a o (s.raise e) := ⟨(base_raise s e).trans h.base, h.out⟩

theorem Boots.send (h : Boots a o s) (x : Machine.Out) : Boots a o (s.send x) := ⟨h.base, h.out.trans (List.prefix_append _ _)⟩

theorem Boots.modSess (h : Boots a o s) (i : Fin 4) (f : Session → Session) : Boots a o (s.modSess i f) := by
  have hSess : (s.modSess i f).mgt.sess.map Option.isSome = s.mgt.sess.map Option.isSome := by
    change (s.mgt.sess.set i (s.mgt.sess[i].map f)).map Option.isSome = _
    ext j hj
    by_cases hij : i.val = j
    · subst hij
      simp
    · simp [Vector.getElem_set_ne, hij]
  exact ⟨(congrArg (fun x => { Starts.base s with sessions := x }) hSess).trans h.base, h.out⟩

theorem Boots.oweLog (hs : Boots a o s) (r : Nat × List Byte) : Boots a o (s.oweLog r) :=
  hs.upd

theorem Boots.flashWrite (h : Boots a o s) (k : Nat) (bs : List Byte) : Boots a o (s.flashWrite k bs) := h.upd

theorem Boots.flashErase (h : Boots a o s) (k n : Nat) : Boots a o (s.flashErase k n) := h.upd

theorem Boots.putLog (h : Boots a o s) (flash : List (Nat × Byte)) (pos : Nat) (seq : W32) :
    Boots a o { s with prf := { s.prf with flash, flogPos := pos, flogSeq := seq } } := ⟨h.base, h.out⟩

theorem Boots.flogPut (hs : Boots a o s) (r : Nat × List Byte) : Boots a o (s.flogPut r) := hs.putLog _ _ _

theorem Boots.checkpoint (hs : Boots a o s) (h : Nat) (f : FLog) : Boots a o (s.checkpoint h f) :=
  ((hs.upd.flogPut _).foldl fun _ _ h1 => h1.flogPut _).flogPut _

theorem Boots.flogAppend (hs : Boots a o s) (r : Nat × List Byte) : Boots a o (s.flogAppend r) :=
  (Boots.ite ((hs.checkpoint _ _).flashErase _ _) hs).flogPut _

theorem Boots.flogStep (hs : Boots a o s) : Boots a o s.flogStep := by
  unfold State.flogStep
  split
  · exact hs
  · exact hs.upd.flogAppend _

theorem Boots.flogFlush (hs : Boots a o s) : Boots a o s.flogFlush :=
  hs.foldl fun _ _ h1 => h1.flogStep

theorem Boots.sendRecords (hs : Boots a o s) : Boots a o s.sendRecords := by
  unfold State.sendRecords
  split
  · refine .ite hs ?_
    exact Boots.upd ((hs.modSess _ _).send _)
  · exact hs

theorem Boots.sendAllRecords (hs : Boots a o s) : Boots a o s.sendAllRecords :=
  hs.foldl fun _ _ h1 => h1.sendRecords

theorem Boots.modReach (hs : Boots a o s) (n : Fin 16) (f : Reach → Reach) : Boots a o (s.modReach n f) :=
  hs.upd

theorem Boots.modMdie (hs : Boots a o s) (d : Fin 4) (f : MDie → MDie) : Boots a o (s.modMdie d f) :=
  hs.upd

theorem Boots.modNmu (hs : Boots a o s) (d : Fin 4) (f : Nmu → Nmu) : Boots a o (s.modNmu d f) :=
  hs.upd

theorem Boots.modU (hs : Boots a o s) (r : Res) (f : Machine.Unit → Machine.Unit) : Boots a o (s.modU r f) := by
  unfold State.modU
  split
  · exact hs.modReach _ _
  · exact hs.modNmu _ _

theorem Boots.modJob (hs : Boots a o s) (j : Nat) (f : JobRun → JobRun) : Boots a o (s.modJob j f) :=
  hs.upd

theorem Boots.modStep (hs : Boots a o s) (j : Nat) (f : StepRun → StepRun) : Boots a o (s.modStep j f) :=
  hs.modJob _ _

theorem Boots.modEgr (hs : Boots a o s) (e : Nat) (f : EgrRing → EgrRing) : Boots a o (s.modEgr e f) :=
  hs.upd

theorem Boots.stopStep (hs : Boots a o s) (j : Nat) (w : StepEnd) : Boots a o (s.stopStep j w) :=
  hs.modStep _ _

theorem Boots.msix (hs : Boots a o s) (v : Nat) : Boots a o (s.msix v) :=
  .ite hs (.ite hs.upd (.ite (hs.send _) hs))

theorem Boots.dueVec (hs : Boots a o s) (v j : Nat) : Boots a o (s.dueVec v j) :=
  .ite (hs.msix _) hs.upd

theorem Boots.dueVector (hs : Boots a o s) (e j : Nat) : Boots a o (s.dueVector e j) :=
  .ite (hs.dueVec _ _) hs

theorem Boots.writeRecord (hs : Boots a o s) (r : ComplRec) : Boots a o (s.writeRecord r) := by
  unfold State.writeRecord
  exact (hs.send _).modEgr _ _

theorem Boots.post (hs : Boots a o s) (r : ComplRec) : Boots a o (s.post r) :=
  .ite ((hs.dueVector _ _).writeRecord _) (.ite ((hs.dueVector _ _).upd) ((hs.dueVector _ _).raise _))

theorem Boots.postAll (hs : Boots a o s) (j : Nat) (e : JobE) (a1 : StepRun) (status : Nat) (event : W16) : Boots a o (s.postAll j e a1
    status event) := by
  unfold State.postAll
  split
  · exact hs.post _
  · exact hs.foldl fun _ _ h1 => h1.post _

theorem Boots.stopUnit (hs : Boots a o s) (r : Res) : Boots a o (s.stopUnit r) := by
  unfold State.stopUnit
  split
  · exact (hs.modU _ _).modReach _ _
  · exact hs.modU _ _

theorem Boots.endStopped (hs : Boots a o s) (j : Nat) : Boots a o (s.endStopped j) := by
  unfold State.endStopped
  split
  · exact .ite hs (Boots.modJob (by
    split
    · exact hs.postAll _ _ _ _ _
    · exact hs.postAll _ _ _ _ _
    · exact hs.postAll _ _ _ _ _
    · exact hs) _ _)
  · exact hs

theorem Boots.trapEvent (hs : Boots a o s) (r : Res) (t : TrapRep) : Boots a o (s.trapEvent r t) := by
  unfold State.trapEvent
  split
  · exact hs
  · exact .ite hs (.ite (((((hs.modU _ _).modJob _ _).stopUnit _).stopStep _ _).endStopped _) ((hs.modU _ _).modJob _ _))

theorem Boots.trapIf (hs : Boots a o s) (r : Res) (t : Option TrapRep) : Boots a o (s.trapIf r t) := by
  unfold State.trapIf
  split
  · exact hs.trapEvent _ _
  · exact hs

theorem Boots.modCnt (hs : Boots a o s) (n : Fin 16) (f : ReachCnt → ReachCnt) : Boots a o (s.modCnt n f) :=
  hs.modReach _ _

theorem Boots.countRange (hs : Boots a o s) (r : Res) (k : Nat) : Boots a o (s.countRange r k) := by
  unfold State.countRange
  split
  · exact hs.modCnt _ _
  · exact hs

theorem Boots.countLimit (hs : Boots a o s) (r : Res) (k : Nat) : Boots a o (s.countLimit r k) := by
  unfold State.countLimit
  split
  · exact hs.modCnt _ _
  · exact hs

theorem Boots.land (hs : Boots a o s) (n : Fin 16) (u : Upd) : Boots a o (s.land n u).1 := by
  unfold State.land
  dsimp only
  split
  · dsimp only
    exact hs.countRange _ _
  · dsimp only
    exact (((hs.modReach _ _).countRange _ _).countLimit _ _).modCnt _ _

theorem Boots.landCycle (h : Boots a o s) (n : Fin 16) (c : List Upd) : Boots a o (s.landCycle n c).1 := by
  unfold State.landCycle
  refine Boots.foldlFst (p := (s, [])) h fun _ _ hq => ?_
  exact hq.land _ _

theorem Boots.landAll (h : Boots a o s) (n : Fin 16) (cs : List (List Upd)) : Boots a o (s.landAll n cs) := by
  induction cs generalizing s with
  | nil => exact h.modReach _ _
  | cons c cs ih => exact ih ((h.landCycle n c).trapIf _ _)

theorem Boots.modWs (hs : Boots a o s) (n : Fin 16) (k : Nat) (f : WStore → WStore) : Boots a o (s.modWs n k f) :=
  .dite (fun _ => hs.modReach _ _) fun _ => hs

theorem Boots.completeTiles (hs : Boots a o s) (n : Fin 16) : Boots a o (s.completeTiles n) := by
  unfold State.completeTiles
  dsimp only
  split
  · exact ((hs.landAll _ _).modWs _ _ _).modReach _ _
  · exact hs.landAll _ _

theorem Boots.completeWork (hs : Boots a o s) (a1 : Res) : Boots a o (s.completeWork a1) := by
  unfold State.completeWork
  split
  · exact hs.completeTiles _
  · exact hs

theorem Boots.park (hs : Boots a o s) (r : Res) : Boots a o (s.park r) :=
  .ite (hs.completeWork _) (by
    split
    · exact .ite (((hs.completeWork _).stopUnit _).endStopped _) ((hs.completeWork _).modU _ _)
    · exact (hs.completeWork _).stopUnit _)

theorem Boots.haltUnits (hs : Boots a o s) : Boots a o s.haltUnits :=
  hs.foldl fun _ _ h1 => (by
    split
    · exact .ite (h1.stopUnit _) h1
    · exact h1)

theorem Boots.haltSteps (hs : Boots a o s) (w : StepEnd) : Boots a o (s.haltSteps w) :=
  ((hs.foldl fun _ _ h1 => h1.stopStep _ _).haltUnits).foldl fun _ _ h1 => h1.endStopped _

theorem Boots.clearAll (hs : Boots a o s) : Boots a o s.clearAll :=
  (hs.foldl fun _ _ h1 => h1.modReach _ _).foldl fun _ _ h1 => h1.modNmu _ _

theorem Boots.enterS6 (hs : Boots a o s) : Boots a o s.enterS6 :=
  (hs.haltSteps _).clearAll

theorem Boots.enterS7 (hs : Boots a o s) : Boots a o s.enterS7 :=
  hs.flogFlush.upd.sendAllRecords

theorem Boots.noteLevel (hs : Boots a o s) (new : Nat) : Boots a o (s.noteLevel new) :=
  (hs.raise _).upd

theorem Boots.setVdd (hs : Boots a o s) (c : BitVec 2) : Boots a o (s.setVdd c) :=
  .ite (hs.upd.send _) hs

theorem Boots.arithDown (hs : Boots a o s) (c : BitVec 2) : Boots a o (s.arithDown c) :=
  hs.upd.setVdd _

theorem Boots.arithSync (hs : Boots a o s) : Boots a o s.arithSync :=
  .ite hs.upd hs

theorem Boots.powerFlags (hs : Boots a o s) : Boots a o s.powerFlags :=
  hs.upd

theorem Boots.newPower (h : Boots a o s) (q : PwrSect) (plimit : Nat) : Boots a o (s.newPower q plimit) := by
  unfold State.newPower
  extract_lets s1 _ polled _ s2 c s3 _ s4
  have h2 : Boots a o s2 := h.upd
  clear_value s2
  exact .ite (h2.arithDown _) (.ite (h2.setVdd c).upd h2.upd.arithSync)

theorem Boots.refreshUsable (hs : Boots a o s) : Boots a o s.refreshUsable :=
  hs.upd

theorem Boots.bypassLanes (hs : Boots a o s) (n : Fin 16) (bad : BitVec 256) : Boots a o (s.bypassLanes n bad) :=
  (hs.modReach _ _).foldl fun _ _ h1 => .ite h1 (h1.oweLog _)

theorem Boots.testReaches (hs : Boots a o s) (b : StartIn) : Boots a o (s.testReaches b) :=
  (hs.foldl fun _ _ h1 => h1.bypassLanes _ _).upd

theorem Boots.spprChan (hs : Boots a o s) (d : Fin 4) (i : Fin 8) : Boots a o (s.spprChan d i) := by
  unfold State.spprChan
  refine Boots.modMdie (Boots.foldl hs fun t r ht => ?_) _ _
  extract_lets used set_
  exact .ite ((ht.modMdie _ _).oweLog _) ((((ht.modMdie _ _).oweLog _).oweLog _).raise _)

theorem Boots.trainMem (hs : Boots a o s) (b : StartIn) (rate lu : Nat) (spad : List Nat) : Boots a o (s.trainMem b rate lu spad) :=
  (((hs.foldl fun _ _ h1 => .ite (.ite (h1.modMdie _ _) ((h1.modMdie _ _).raise _)) ((Boots.ite (h1.modMdie _ _) ((h1.modMdie _ _).raise
    _)).raise _)).foldl fun _ _ h1 => h1.foldl fun _ _ h2 => .ite (h2.spprChan _ _) (h2.raise _)).foldl fun _ _ h1 => h1.modMdie _ _).upd

theorem Boots.loadSlots (hs : Boots a o s) (fw : W32) : Boots a o (s.loadSlots fw) :=
  hs.foldl fun _ _ h1 => .ite h1.upd (h1.upd.raise _)

theorem Boots.restoreLog (hs : Boots a o s) : Boots a o s.restoreLog.1 := by
  unfold State.restoreLog
  split
  · exact hs.upd
  · exact hs.checkpoint _ _

theorem Boots.modReaches (hs : Boots a o s) (f : Fin 16 → Reach → Reach) (l : List (Fin 16)) :
    Boots a o (l.foldl (fun (s : State) n => s.modReach n (f n)) s) := hs.foldl fun _ _ h => h.modReach _ _

theorem Boots.modMdies (hs : Boots a o s) (f : Fin 4 → MDie → MDie) (l : List (Fin 4)) :
    Boots a o (l.foldl (fun (s : State) d => s.modMdie d (f d)) s) := hs.foldl fun _ _ h => h.modMdie _ _

theorem Boots.putDev (hs : Boots a o s) (b : Bool) : Boots a o { s with dev := { s.dev with flagged := b } } := hs.upd

theorem Boots.applyLog (h : Boots a o s) (f : FLog) : Boots a o (s.applyLog f) := by
  unfold State.applyLog
  extract_lets word s1 rows s2
  have h1 : Boots a o s1 := h.modReaches _ _
  clear_value s1
  have h2 : Boots a o s2 := h1.modMdies _ _
  clear_value s2
  exact h2.putDev _

theorem Boots.keysMoved (h : Boots a o s) (old : State) : Boots a o (s.keysMoved old) := h.upd

theorem Boots.loadBanks (hs : Boots a o s) : Boots a o s.loadBanks :=
  hs.foldl fun _ _ h1 => .ite (h1.modReach _ _) ((h1.modReach _ _).raise _)

theorem Boots.prfResult (hs : Boots a o s) (st code : Nat) : Boots a o (s.prfResult st code) :=
  .ite hs hs.upd

theorem Boots.chgClear (h : Boots a o s) : Boots a o s.chgClear := by
  unfold State.chgClear
  dsimp only
  split
  · exact Boots.upd h.upd.powerFlags
  · exact h.upd

theorem Boots.prfFail (hs : Boots a o s) (e : Ev) : Boots a o (s.prfFail e) :=
  ((hs.raise _).prfResult _ _).chgClear

theorem Boots.activate (hs : Boots a o s) (slot : Nat) (drainOk : Bool) : Boots a o (s.activate slot drainOk) :=
  .ite hs.upd (.ite (hs.prfFail _) (.ite (hs.prfFail _) (.ite hs.upd (.ite (hs.prfFail _) (.ite hs.upd (by
    split
    · exact hs.prfFail _
    · exact hs.upd))))))

/-! ### Ports that have not trained (14 R457) -/

theorem Boots.portsUp (h : Boots a o s) (hPcs : a.pcs = 0) : s.portsUp = 0 := by
  have hZero : s.cpl.pcs = 0 := (congrArg Base.pcs h.base).trans hPcs
  simp [State.portsUp, hZero]

/-- No port comes or goes. -/
theorem Boots.portEdges (h : Boots a o s) (hPcs : a.pcs = 0) : Boots a o (s.portEdges 0) := by
  unfold State.portEdges
  rw [h.portsUp hPcs]
  refine h.foldl fun t p ht => ?_
  simpa using ht

/-! ### Demands (17 R578; 18 R603) -/

theorem Boots.riseTo (h : Boots a o s) (hPcs : a.pcs = 0) (new : Nat) : Boots a o (s.riseTo new) := by
  unfold State.riseTo
  extract_lets old ports s1 s2 s3 s4 s5 s6
  have hPorts : ports = 0 := h.portsUp hPcs
  have h1 : Boots a o s1 := h.noteLevel _
  have h2 : Boots a o s2 := .ite (h1.arithDown _) h1
  have h3 : Boots a o s3 := h2.foldl fun _ _ hu => hu.park _
  have h4 : Boots a o s4 := .ite (h3.modMdies _ _) h3
  have h5 : Boots a o s5 := by
    change Boots a o (s4.portEdges ports)
    rw [hPorts]
    exact h4.portEdges hPcs
  have h6 : Boots a o s6 := .ite h5.enterS6 h5
  exact .ite h6.enterS7 h6

theorem Boots.demandMoved (h : Boots a o s) (hPcs : a.pcs = 0) : Boots a o s.demandMoved := by
  unfold State.demandMoved
  extract_lets _ s1
  have h1 : Boots a o s1 := .ite h.upd h
  exact .ite h1 (.ite (h1.riseTo hPcs _) h1)

/-! ### The ready point (12 R409) -/

theorem Boots.drainedAtStart (h : Boots a o s) : Boots a o { s with dev := { s.dev with st := .drained }, ras := { s.ras with cause := 5 } } :=
  ⟨h.base, h.out⟩

theorem Boots.putShadow (h : Boots a o s) (l : List (Nat × W64)) : Boots a o { s with shadow := l } := ⟨h.base, h.out⟩

theorem Boots.joins (h : Boots a o s) : Boots a o (s.modCpl fun c => { c with wstate := .joining }) := ⟨h.base, h.out⟩

theorem Boots.useFields (h : Boots a o s) (hPcs : a.pcs = 0) (k : Nat) : Boots a o (s.useFields k) := by
  unfold State.useFields
  extract_lets img hdr old _ _ _ s1
  have hOld : old = 0 := h.portsUp hPcs
  have h1 : Boots a o s1 := h.upd
  rw [hOld]
  exact ((h1.newPower _ _).refreshUsable).portEdges hPcs

/-- No context waits to be closed. -/
theorem Boots.useMap (h : Boots a o s) (hNone : a.ctxs = []) (k : Nat) : ∃ c, Boots { a with ctxs := c } o (s.useMap k) := by
  have hCtxs : s.ctx.ctxs = [] := (congrArg Base.ctxs h.base).trans hNone
  unfold State.useMap
  extract_lets img hdr es old ctxs _ s1
  have hOld : old = [] := hCtxs
  rw [hOld, List.filter_nil, List.foldl_nil]
  exact ⟨ctxs, (congrArg (fun b => { b with ctxs := ctxs }) h.base :), h.out⟩

theorem Boots.putReady (h : Boots a o s) (pwr : Pwr) :
    Boots { a with ready := true } o { s with prf := { s.prf with ready := true }, pwr } :=
  ⟨(congrArg (fun b => { b with ready := true }) h.base :), h.out⟩

theorem Boots.readyPoint (h : Boots a o s) (hPcs : a.pcs = 0) (hNone : a.ctxs = []) (b : StartIn) :
    ∃ c, Boots { a with ready := true, ctxs := c } o (s.readyPoint b) := by
  unfold State.readyPoint
  extract_lets _ _ s1 x _ s2 s3 s4
  have h1 : Boots { a with ready := true } o s1 := h.putReady _
  have h2 : ∃ c, Boots { a with ready := true, ctxs := c } o s2 := by
    cases hValid : x.valid with
    | true =>
      obtain ⟨c, hMap⟩ := h1.useMap hNone s1.activeSlot
      refine ⟨c, ?_⟩
      change Boots _ _ (if x.valid then _ else _)
      rw [hValid, if_pos rfl]
      exact (hMap.useFields hPcs _).loadBanks
    | false =>
      refine ⟨a.ctxs, ?_⟩
      change Boots _ _ (if x.valid then _ else _)
      rw [hValid, if_neg (by decide)]
      exact Boots.newPower h1.upd _ _
  obtain ⟨c, h2⟩ := h2
  refine ⟨c, ?_⟩
  have h3 : Boots { a with ready := true, ctxs := c } o s3 := h2.demandMoved hPcs
  clear_value s3
  have h4 : Boots { a with ready := true, ctxs := c } o s4 := h3.putShadow _
  clear_value s4
  exact .ite h4.drainedAtStart (.ite h4 (.ite (.ite h4.joins h4) (.ite (h4.activate _ _) h4)))

/-! ### The start (12 R409 to R412) -/

theorem Boots.bootFirmware (h : Boots a o s) (v : W32) (slot fell : Bool) (x : Sec) (id : BitVec 256) :
    Boots a o { s with prf := { s.prf with fwVersion := v, fwSlot := slot, fallback := fell }, sec := x, mgt := s.mgt.ownAddress id } :=
  ⟨h.base, h.out⟩

theorem Boots.putSec (h : Boots a o s) (x : Sec) : Boots a o { s with sec := x } := ⟨h.base, h.out⟩

theorem Boots.putCompiled (h : Boots a o s) (c : Nat) : Boots a o { s with prf := { s.prf with compiled := c } } := ⟨h.base, h.out⟩

theorem Boots.putTime (h : Boots a o s) (time : W64) : Boots a o { s with time := time } := ⟨h.base, h.out⟩

theorem Boots.putOpKey (h : Boots a o s) (k : BitVec 256) : Boots a o { s with prf := { s.prf with opKey := k } } := ⟨h.base, h.out⟩

theorem putOpKey_fwOf (s : State) (k : BitVec 256) : { s with prf := { s.prf with opKey := k } }.fwOf = s.fwOf := rfl

/-- The phases after the firmware runs reach the ready point, unless there is no randomness. -/
theorem Boots.startRun (h : Boots a o s) (hPcs : a.pcs = 0) (hNone : a.ctxs = []) (hReady : a.ready = false) (b : StartIn) (slot : Bool)
    (fw : W32) (fell dog : Bool) : ∃ c, Boots { a with ready := b.rngOk, ctxs := c } o (s.startRun b slot fw fell dog) := by
  unfold State.startRun
  extract_lets _ _ s1 s2 _ s3
  have h1 : Boots a o s1 := h.bootFirmware _ _ _ _ _
  have h2 : Boots a o s2 := .ite h1 (h1.raise _)
  clear_value s2
  cases hRng : b.rngOk with
  | false =>
    have hStop := h2.raise { code := 0x0602 }
    rw [if_pos (by decide : (!false) = true), ← hReady]
    exact ⟨a.ctxs, hStop⟩
  | true =>
    rw [if_neg (by decide : ¬ (!true) = true)]
    have h3 : Boots a o s3.restoreLog.1 := (h2.putSec _).restoreLog
    split
    next s4 f none_ hLog =>
      rw [hLog] at h3
      extract_lets s5 s6 x hd _ s7 s8 s9 s10 s11 s12 s13 s14
      have h6 : Boots a o s6 := (h3.applyLog _).loadSlots _
      clear_value s6
      have h7 : Boots a o s7 := h6.putCompiled _
      have h8 : Boots a o s8 := .ite (h7.trainMem _ _ _ _) (h7.trainMem _ _ _ _)
      have h10 : Boots a o s10 := ((h8.send _).testReaches _).refreshUsable
      clear_value s10
      have h11 : Boots a o s11 := h10.putTime _
      have h12 : Boots a o s12 := .ite (h11.raise _) h11
      have h13 : Boots a o s13 := .ite (h12.raise _) h12
      have h14 : Boots a o s14 := .ite (h13.raise _) h13
      exact h14.readyPoint hPcs hNone _

/-- What a start finds once the pins are sampled and nothing but the flash is kept. -/
def sampled (s : State) (b : StartIn) : Base :=
  { pending := s.pending, held := false, rstLow := false, recovery := false, ready := false, pinSel := b.sel, pairSide := b.pairSide,
    mode := b.mgtMode, mem := [], poison := [], sem := State.reset.sem, sessions := Vector.replicate 4 false, pcs := 0, ctxs := [] }

/-- After reset no session is open. -/
theorem noSessions : State.reset.mgt.sess.map Option.isSome = Vector.replicate 4 false :=
  Vector.map_replicate

theorem pickFw_none (f : Bool → Option W32) (pref : Bool) : pickFw f pref = none ↔ f false = none ∧ f true = none := by
  cases pref with
  | false => cases hFalse : f false <;> cases hTrue : f true <;> simp [pickFw, hFalse, hTrue]
  | true => cases hFalse : f false <;> cases hTrue : f true <;> simp [pickFw, hFalse, hTrue]

theorem Boots.recovers (h : Boots a o s) : Boots { a with recovery := true } o { s with prf := { s.prf with recovery := true, fallback := true } } :=
  ⟨(congrArg (fun b => { b with recovery := true }) h.base :), h.out⟩

/-- The end of a start: in recovery where no slot holds a firmware that runs, and else at the ready point or before it. -/
def ended (s : State) (b : StartIn) (c : List (Nat × Ctx)) : Base :=
  if s.fwOf false = none ∧ s.fwOf true = none then { sampled s b with recovery := true, ctxs := c }
  else { sampled s b with ready := b.rngOk, ctxs := c }

theorem ended_of_none {b : StartIn} {c : List (Nat × Ctx)} (h : s.fwOf false = none ∧ s.fwOf true = none) :
    ended s b c = { sampled s b with recovery := true, ctxs := c } := if_pos h

theorem ended_of_some {b : StartIn} {c : List (Nat × Ctx)} (h : ¬ (s.fwOf false = none ∧ s.fwOf true = none)) :
    ended s b c = { sampled s b with ready := b.rngOk, ctxs := c } := if_neg h

theorem start_boots (s : State) (b : StartIn) (dog : Bool) : ∃ c, Boots (ended s b c) s.out (s.start b dog) := by
  unfold State.start
  extract_lets s1 _ _ _ _ s2 s3 _ pref _ s4 _
  have h2 : Boots (sampled s b) s.out s2 := ⟨congrArg (fun v => { sampled s b with sessions := v }) noSessions, List.prefix_rfl⟩
  have h3 : Boots (sampled s b) s.out s3 := h2.send _
  have hFw : s3.fwOf = s.fwOf := rfl
  clear_value s3
  have h4 : Boots (sampled s b) s.out s4 := h3.putOpKey _
  have hFw4 : s4.fwOf = s.fwOf := (putOpKey_fwOf s3 _).trans hFw
  clear_value s4
  rw [hFw4]
  cases hPick : pickFw s.fwOf pref with
  | none => exact ⟨[], (ended_of_none ((pickFw_none _ _).mp hPick)).symm ▸ h4.recovers⟩
  | some q =>
    obtain ⟨slot, fw, fell⟩ := q
    obtain ⟨c, hRun⟩ := h4.startRun rfl rfl rfl b slot fw fell dog
    have hSome : ¬ (s.fwOf false = none ∧ s.fwOf true = none) := fun hNone =>
      absurd (hPick.symm.trans ((pickFw_none _ _).mpr hNone)) (by simp)
    exact ⟨c, (ended_of_some hSome).symm ▸ hRun⟩

theorem started_of_boots {b : StartIn} {c : List (Nat × Ctx)}
    (h : Boots (ended s b c) o t) : Started s t b := by
  unfold ended at h
  have hSess : t.mgt.sess.map Option.isSome = Vector.replicate 4 false := by
    have hBase := congrArg Base.sessions h.base
    rw [apply_ite Base.sessions] at hBase
    exact hBase.trans (ite_self _)
  have hOf (β : Type) (f : Base → β) (hf : ∀ r y l, f { sampled s b with recovery := r, ready := y, ctxs := l } = f (sampled s b)) :
      f (Starts.base t) = f (sampled s b) := by
    rw [h.base, apply_ite f]
    exact (if_congr Iff.rfl (hf _ _ _) (hf _ _ _)).trans (ite_self _)
  refine ⟨hOf _ Base.pending fun _ _ _ => rfl, hOf _ Base.held fun _ _ _ => rfl, hOf _ Base.rstLow fun _ _ _ => rfl,
    hOf _ Base.pinSel fun _ _ _ => rfl, hOf _ Base.pairSide fun _ _ _ => rfl, hOf _ Base.mode fun _ _ _ => rfl,
    hOf _ Base.mem fun _ _ _ => rfl, hOf _ Base.poison fun _ _ _ => rfl, fun n => ?_, fun i => ?_, ?_⟩
  · have hSem : t.sem = State.reset.sem := hOf _ Base.sem fun _ _ _ => rfl
    rw [hSem]
    revert n
    decide
  · have hAt := congrArg (fun v : Vector Bool 4 => v[i]) hSess
    simpa using hAt
  · have hRecovery := congrArg Base.recovery h.base
    have hReady := congrArg Base.ready h.base
    split
    · next hNone =>
      rw [if_pos hNone] at hRecovery hReady
      exact ⟨hRecovery, hReady⟩
    · next hSome =>
      rw [if_neg hSome] at hRecovery hReady
      exact ⟨hRecovery, hReady⟩

theorem warmReset_started (s : State) (b : StartIn) (dog : Bool) : Started s (s.warmReset b dog) b ∧ s.out <+: (s.warmReset b dog).out := by
  obtain ⟨c, h⟩ := start_boots s b dog
  exact ⟨started_of_boots h, h.out⟩

end Sys2Proof.Machine.Starts

/-! PROOF. The requests of a session (13 R442, R443, R446; 15 R523): READ, WRITE, ATTEST, RECORD_ACK and RESTART. -/

namespace Sys2Proof.Machine.SessionRequests

open Sys2Proof.Machine Sys2Proof.Machine.Laws Sys2Proof.Machine.Requests Sys2Proof.Machine.Starts

variable {s t : State} {q : EmpReq} {k : Fin 4} {m : Bool}

/-! ### A request that needs no authority -/

/-- A request is answered with the result of its command. -/
theorem gives_answered {i : Instr} {f : Fin 4 → State → EmpRes} {P : State → Prop} (hNew : NewReq s q k m)
    (hExec : exec i s = .next (s.emp q false true f)) {st : Nat} {reply : List Byte}
    (hRun : f k s = (t, st, reply)) (hSess : InSession t q k)
    (hKept : P (answered t q k st reply)) : Gives i s fun u => Replies u q k st reply ∧ P u := by
  have hIn : InSession (f k s).1 q k := by rw [hRun]; exact hSess
  rw [emp_carried hNew (fun h => absurd h (by decide)) rfl hIn, hRun] at hExec
  exact ⟨_, hExec, answered_replies hSess st reply, hKept⟩

theorem answered_units (h : UnitsKept s t) (st : Nat) (reply : List Byte) : UnitsKept s (answered t q k st reply) := h

theorem answered_memory (h : MemoryKept s t) (st : Nat) (reply : List Byte) : MemoryKept s (answered t q k st reply) := h

/-! ### READ (13 R442) -/

theorem empRead_gives (hNew : NewReq s q k m) (hForm : readForm q = true) : Gives (.empRead q) s fun t =>
    Replies t q k 0 (q.payload ++ s.empValues q) ∧ UnitsKept s t ∧ MemoryKept s t ∧ t.prf = s.prf ∧ t.sem = s.sem := by
  have hIn := inSession_of_fresh hNew.new
  have hExec : exec (.empRead q) s = .next (s.emp q false true fun _ s =>
      (if s.sec.debug then s.bump else s, 0, q.payload ++ s.empValues q)) := by
    change Host.Outcome.next (s.emp q false (readForm q) _) = _
    rw [hForm]
  cases hDebug : s.sec.debug with
  | false =>
    exact gives_answered hNew hExec (by rw [hDebug]; rfl) hIn ⟨⟨rfl, rfl, rfl, rfl, rfl⟩, ⟨rfl, rfl, rfl⟩, rfl, rfl⟩
  | true =>
    exact gives_answered hNew hExec (by rw [hDebug]; rfl) (t := s.bump) hIn
      ⟨⟨rfl, rfl, rfl, rfl, rfl⟩, ⟨rfl, rfl, rfl⟩, rfl, rfl⟩

/-! ### WRITE (13 R442, R443) -/

/-- A WRITE of one pair is one register write, and its outcome the reply. -/
theorem empWrite_gives {P : State → Prop} (hNew : NewReq s q k m) (hForm : writeForm q = true) (hOne : q.payload.length = 16) {o : Nat}
    (hWrite : s.regWrite (.mgmt k) (reqNat q 0 4) (BitVec.ofNat 64 (reqNat q 8 8)) = (t, o)) (hSess : InSession t q k)
    (hKept : P (answered t q k 0 [BitVec.ofNat 8 o])) :
    Gives (.empWrite q) s fun u => Replies u q k 0 [BitVec.ofNat 8 o] ∧ P u := by
  have hExec : exec (.empWrite q) s = .next (s.emp q false true fun i s => ((s.empPairs q (.mgmt i)).1, 0, (s.empPairs q (.mgmt i)).2)) := by
    rw [← hForm]
    rfl
  have hPairs : s.empPairs q (.mgmt k) = (t, [BitVec.ofNat 8 o]) := by
    simp only [State.empPairs, hOne, Nat.reduceDiv, List.range_one, List.foldl_cons, List.foldl_nil, Nat.mul_zero, Nat.zero_add, hWrite,
      List.nil_append]
  exact gives_answered hNew hExec (by rw [hPairs]) hSess hKept

theorem regWrite_collHi (hReady : s.prf.ready = true) (hFree : s.draining = false) (p : Port) (v : W64) :
    s.regWrite p 0x3C0008 v = s.rwl p 5 (keep fun s => s.collHiWrite v) := by
  have hDefined : regDefined 0x3C0008 = true := rfl
  have hClr : s.clrWrite 0x3C0008 v.toNat = none := rfl
  have hPlain : s.plainWrite p 0x3C0008 v = s.rwl p 5 (keep fun s => s.collHiWrite v) := by
    unfold State.plainWrite
    rw [dif_neg (by decide)]
    rfl
  simp [State.regWrite, hReady, hFree, hDefined, hClr, hPlain]

theorem regWrite_undefined (hReady : s.prf.ready = true) {off : Nat} (h : off % 8 ≠ 0 ∨ regDefined off = false) (p : Port) (v : W64) :
    s.regWrite p off v = (s, 2) := by
  have hBad : off % 8 ≠ 0 ∨ (!regDefined off) = true := by simpa using h
  rw [State.regWrite, if_neg (by simp [hReady]), if_pos hBad]

/-- SEC_MODE without MAINTENANCE authority (15 R527). -/
theorem regWrite_secMode (hReady : s.prf.ready = true) (hNew : s.empIn q = .fresh k false) (v : W64) :
    s.regWrite (.mgmt k) 0x480028 v = (s.authDenied (.mgmt k), 3) := by
  obtain ⟨x, hSess, -, hMaint⟩ := session_of_fresh hNew
  have hDefined : regDefined 0x480028 = true := rfl
  simp [State.regWrite, State.secModeWrite, hReady, hDefined, hSess, hMaint]

/-! ### ATTEST (15 R523, R524) -/

theorem attStop_none (hId : s.sec.idOk = true) (hRng : s.sec.rngOk = true) : s.attStop = 0 := by simp [State.attStop, hId, hRng]

theorem report_ne_nil (s : State) (nonce : List Byte) (ctx : W32) : 0 < (s.report nonce ctx).length := by
  unfold State.report
  simp only [List.length_append, List.length_take, List.length_replicate]
  omega

/-- The first fragment of a report. -/
theorem attFragment_first {r : List Byte} (hSome : 0 < r.length) (hFirst : reqNat q 36 4 = 0) :
    attFragment r (q.payload.take 32) q = (0, leBytes 4 r.length ++ leBytes 4 0 ++ r.take 1024) := by
  have hNot : ¬ r.length ≤ 0 := by omega
  simp [attFragment, hFirst, hNot]

/-- The report that a session asked for is kept with its nonce. -/
def reporting (s : State) (q : EmpReq) (k : Fin 4) : State :=
  s.draw.modSess k fun x => { x with report := some (s.report (q.payload.take 32) (BitVec.ofNat 32 (reqNat q 32 4)), q.payload.take 32) }

theorem reporting_sess {x : Session} (h : s.mgt.sess[k] = some x) : (reporting s q k).mgt.sess[k] =
    some { x with report := some (s.report (q.payload.take 32) (BitVec.ofNat 32 (reqNat q 32 4)), q.payload.take 32) } := by
  change (s.mgt.sess.set k (s.mgt.sess[k].map _))[k] = _
  rw [h]
  exact Vector.getElem_set_self k.isLt

theorem answered_sess {x : Session} (h : t.mgt.sess[k] = some x) (st : Nat) (reply : List Byte) :
    (answered t q k st reply).mgt.sess[k] = some { x with seq := some q.seq, status := st, reply } := by
  change (t.mgt.sess.set k (t.mgt.sess[k].map _))[k] = _
  rw [h]
  exact Vector.getElem_set_self k.isLt

theorem attest_exec (hLen : q.payload.length = 40) : exec (.attest q) s = .next (s.emp q false true fun i s => s.attest q i) := by
  have hForm : (q.payload.length == 40) = true := by simp [hLen]
  rw [← hForm]
  rfl

theorem attest_first (hStop : s.attStop = 0) (hFirst : reqNat q 36 4 = 0) (hFree : s.sec.att = none) :
    s.attest q k = (reporting s q k, 0,
      leBytes 4 (s.report (q.payload.take 32) (BitVec.ofNat 32 (reqNat q 32 4))).length ++ leBytes 4 0 ++
        (s.report (q.payload.take 32) (BitVec.ofNat 32 (reqNat q 32 4))).take 1024) := by
  have hFragment := attFragment_first (q := q) (report_ne_nil s (q.payload.take 32) (BitVec.ofNat 32 (reqNat q 32 4))) hFirst
  simp only [State.attest, hStop, hFirst, hFree, hFragment, Option.isSome_none, ne_eq, not_true_eq_false, if_true, if_false,
    Bool.false_eq_true]
  rfl

theorem attest_busy (hStop : s.attStop = 0) (hFirst : reqNat q 36 4 = 0) (hBusy : s.sec.att ≠ none) :
    s.attest q k = (s.raise { code := 0x0609, kind := 4 }, 3, []) := by
  have hSome : s.sec.att.isSome = true := Option.isSome_iff_ne_none.mpr hBusy
  simp only [State.attest, hStop, hFirst, hSome, ne_eq, not_true_eq_false, if_true, if_false]
  rfl

theorem raise_inSession (h : InSession s q k) (e : Ev) : InSession (s.raise e) q k := by
  rw [InSession, raise_sess]
  exact h

/-! ### RESTART (13 R442) -/

theorem answered_fwOf (s : State) (st : Nat) (reply : List Byte) : (answered s q k st reply).fwOf = s.fwOf := rfl

theorem answered_pending (s : State) (st : Nat) (reply : List Byte) : (answered s q k st reply).pending = s.pending := rfl

theorem answered_out (s : State) (st : Nat) (reply : List Byte) :
    (answered s q k st reply).out = s.out ++ [.empReply q.session.toNat q.seq st reply] := rfl

theorem restart_exec (hNew : NewReq s q k true) (hEmpty : q.payload = []) (b : StartIn) :
    exec (.empRestart q b) s = .next ((answered s q k 0 []).warmReset b) := by
  have hRun : (s.emp q true q.payload.isEmpty fun _ s => (s, 0, [])) = answered s q k 0 [] :=
    emp_carried hNew (fun _ => rfl) (by rw [hEmpty]; rfl) (inSession_of_fresh hNew.new)
  change Host.Outcome.next (match s.empIn q with
    | .fresh _ true => if q.form && q.payload.isEmpty then State.warmReset _ b else _
    | _ => _) = _
  rw [hRun, hNew.new, hNew.form, hEmpty]
  rfl

/-- A start after an answer is a start of the state answered, and the reply has left. -/
theorem restarted (s : State) (q : EmpReq) (k : Fin 4) (b : StartIn) :
    Started s ((answered s q k 0 []).warmReset b) b ∧
      ∃ l, ((answered s q k 0 []).warmReset b).out = s.out ++ .empReply q.session.toNat q.seq 0 [] :: l := by
  obtain ⟨hStarted, l, hOut⟩ := warmReset_started (answered s q k 0 []) b false
  refine ⟨?_, l, ?_⟩
  · unfold Started at hStarted ⊢
    rwa [answered_fwOf, answered_pending] at hStarted
  · rw [← hOut, answered_out, List.append_assoc]
    rfl

/-- Settles O48: each request is `State.emp` of its command's result. -/
theorem requestsInASession : Obligations.RequestsInASession := by
  unfold Obligations.RequestsInASession
  intro q k m s hNew
  have hIn := inSession_of_fresh hNew.new
  have hUnits : UnitsKept s s := ⟨rfl, rfl, rfl, rfl, rfl⟩
  refine ⟨fun hForm => empRead_gives hNew hForm, fun hForm hOne hReady hFree => ⟨fun hOff hHeld => ?_, fun hOff hHeld => ?_, fun hOff => ?_,
    fun hOff hm => ?_⟩, fun hLen hFirst hId hRng => ⟨fun hAtt => ?_, fun hAtt => ?_⟩, fun hLen => ?_, fun hEmpty hm b => ?_, fun cmd hCmd => ?_⟩
  · refine empWrite_gives hNew hForm hOne (t := s.collHiWrite (BitVec.ofNat 64 (reqNat q 8 8))) (o := 0) ?_ hIn rfl
    rw [hOff, regWrite_collHi hReady hFree, State.rwl, hHeld]
    rfl
  · refine empWrite_gives hNew hForm hOne (t := s.semRefuse) (o := 1) ?_ hIn ⟨rfl, rfl⟩
    rw [hOff, regWrite_collHi hReady hFree, State.rwl, hHeld]
    rfl
  · exact empWrite_gives hNew hForm hOne (o := 2) (regWrite_undefined hReady hOff _ _) hIn ⟨rfl, hUnits⟩
  · refine empWrite_gives hNew hForm hOne (t := s.authDenied (.mgmt k)) (o := 3) ?_ (authDenied_inSession hIn _) rfl
    rw [hOff, regWrite_secMode hReady (hm ▸ hNew.new)]
  · obtain ⟨x, hSess, -, -⟩ := session_of_fresh hNew.new
    refine gives_answered hNew (attest_exec hLen) (attest_first (attStop_none hId hRng) hFirst hAtt) ?_
      ⟨⟨rfl, rfl, rfl, rfl, rfl⟩, ?_⟩
    · rw [InSession, reporting_sess hSess]
      rwa [InSession, hSess] at hIn
    · rw [answered_sess (reporting_sess hSess)]
      rfl
  · exact gives_answered hNew (attest_exec hLen) (attest_busy (attStop_none hId hRng) hFirst hAtt)
      (raise_inSession hIn _) (answered_raised (raise_raised s _) 3 [])
  · have hForm : (q.payload.length == 4) = true := by simp [hLen]
    refine gives_answered hNew (f := fun _ s => (s.ackRecords (BitVec.ofNat 32 (reqNat q 0 4)), 0, []))
      (by rw [← hForm]; rfl) rfl hIn ⟨rfl, rfl, hUnits⟩
  · subst hm
    exact ⟨_, restart_exec hNew hEmpty b, restarted s q k b⟩
  · have hOther : [1, 2, 3, 4, 5, 7, 8].contains cmd.toNat = false := by
      rw [List.contains_eq_mem, decide_eq_false hCmd]
    refine gives_answered hNew (f := fun _ s => (s, 4, [])) ?_ rfl hIn hUnits
    change Host.Outcome.next (if [1, 2, 3, 4, 5, 7, 8].contains cmd.toNat then s else _) = _
    rw [hOther]
    rfl

end Sys2Proof.Machine.SessionRequests

/-! PROOF. Sessions and the rest of the management port (13 R440, R444, R446, R448; 15 R517, R518, R526). -/

namespace Sys2Proof.Machine.Sessions

open Sys2Proof.Machine Sys2Proof.Machine.Laws Sys2Proof.Machine.Requests

variable {s t : State} {q : EmpReq} {k : Fin 4}

/-! ### SESSION requests (15 R517, R518) -/

theorem sessionReq_foreign (hServed : s.empServed = true) (hTaken : q.taken = true) (h : q.session ≠ 0) (f : State → EmpRes) :
    s.sessionReq q f = s.authFail := by
  simp only [State.sessionReq, hServed, hTaken, Bool.not_true, Bool.or_self, Bool.false_eq_true, if_false]
  exact if_pos h

theorem sessionReq_busy (hServed : s.empServed = true) (hTaken : q.taken = true) (h : q.session = 0) (hBusy : q.busy = true)
    (f : State → EmpRes) : s.sessionReq q f = s.send (.empReply 0 q.seq 3 []) := by
  simp [State.sessionReq, State.empSend, hServed, hTaken, h, hBusy]

/-- A SESSION request that is carried out is answered outside every session. -/
theorem sessionReq_carried (hServed : s.empServed = true) (hTaken : q.taken = true) (h : q.session = 0) (hBusy : q.busy = false)
    {f : State → EmpRes} {st : Nat} {reply : List Byte} (hRun : f s = (t, st, reply)) :
    s.sessionReq q f = t.send (.empReply 0 q.seq st reply) := by
  simp [State.sessionReq, State.empSend, hServed, hTaken, h, hBusy, hRun]

/-- What OPEN makes of a request. -/
def opening (q : EmpReq) (s : State) : EmpRes :=
  if !q.form || q.payload.length ≠ 356 then (s, 1, [])
  else if s.attStop ≠ 0 then (s, 2, [])
  else
    let c := (q.payload.drop 4).take 256
    if !s.credential c || (bitAt (reqNat q 1 1) 0 && !bitAt (reqNat q 9 1) 0) then (s.sessionRefused (reqNat q 12 32), 2, [])
    else
      match s.mgt.freeSlot with
      | none => (s, 3, [])
      | some i => s.openSession q i

theorem exec_open (q : EmpReq) (s : State) : exec (.sessionOpen q) s = .next (s.sessionReq q (opening q)) := rfl

section
variable (hForm : q.form = true) (hLen : q.payload.length = 356) (hId : s.sec.idOk = true) (hRng : s.sec.rngOk = true)

include hForm hLen hId hRng

theorem opening_refused (h : s.credential ((q.payload.drop 4).take 256) = false ∨
    (bitAt (reqNat q 1 1) 0 = true ∧ bitAt (reqNat q 9 1) 0 = false)) :
    opening q s = (s.sessionRefused (reqNat q 12 32), 2, []) := by
  rcases h with h | ⟨hAsked, hScope⟩
  · simp [opening, State.attStop, hForm, hLen, hId, hRng, h]
  · simp [opening, State.attStop, hForm, hLen, hId, hRng, hAsked, hScope]

theorem opening_accepted (hCred : s.credential ((q.payload.drop 4).take 256) = true)
    (hColl : bitAt (reqNat q 1 1) 0 = true → bitAt (reqNat q 9 1) 0 = true) :
    opening q s = match s.mgt.freeSlot with
      | none => (s, 3, [])
      | some i => s.openSession q i := by
  have hScope : (bitAt (reqNat q 1 1) 0 && !bitAt (reqNat q 9 1) 0) = false := by
    cases hAsked : bitAt (reqNat q 1 1) 0 with
    | false => rfl
    | true => rw [hColl hAsked]; rfl
  simp [opening, State.attStop, hForm, hLen, hId, hRng, hCred, hScope]

end

theorem sessionRefused_sess (s : State) (n : Nat) : (s.sessionRefused n).mgt.sess = s.mgt.sess := raise_sess _ _

theorem padded_length (n : Nat) (l : List Byte) : ((l ++ List.replicate n 0).take n).length = n := by
  rw [List.length_take, List.length_append, List.length_replicate]
  omega

theorem flatMap_length {f : Nat → List Byte} {c : Nat} (h : ∀ k, (f k).length = c) (n : Nat) : ((List.range n).flatMap f).length = n * c := by
  rw [List.length_flatMap]
  simp [h]

/-- The reply to OPEN: the identifier, the key, the nonce and the signature. -/
theorem openSession_reply (s : State) (q : EmpReq) (i : Fin 4) : (s.openSession q i).2.2.length = 168 := by
  simp only [State.openSession, List.length_append, padded_length, length_leBytes,
    flatMap_length fun _ => length_leBytes _ _]

theorem openSession_sess (s : State) (q : EmpReq) (i : Fin 4) :
    ((s.openSession q i).1.mgt.sess[i].map fun x => (x.maint, x.coll, x.seq)) = some (reqNat q 8 1 == 2, bitAt (reqNat q 1 1) 0, none) := by
  simp [State.openSession]

theorem openSession_other (s : State) (q : EmpReq) {i j : Fin 4} (h : j ≠ i) : (s.openSession q i).1.mgt.sess[j] = s.mgt.sess[j] :=
  Vector.getElem_set_ne i.isLt j.isLt fun hij => h (Fin.ext hij.symm)

/-! ### What the ends of sessions leave -/

/-- Neither a unit nor memory has changed, and no session. -/
structure Aside (s t : State) : Prop where
  units : UnitsKept s t
  mem   : MemoryKept s t
  sess  : t.mgt.sess = s.mgt.sess

theorem Aside.refl (s : State) : Aside s s := ⟨⟨rfl, rfl, rfl, rfl, rfl⟩, ⟨rfl, rfl, rfl⟩, rfl⟩

theorem Aside.trans {u : State} (h : Aside s t) (h' : Aside t u) : Aside s u := by
  obtain ⟨⟨hReach, hNmu, hMdie, hLkp, hCtx⟩, ⟨hMem, hPoison, hKey⟩, hSess⟩ := h
  obtain ⟨⟨hReach', hNmu', hMdie', hLkp', hCtx'⟩, ⟨hMem', hPoison', hKey'⟩, hSess'⟩ := h'
  exact ⟨⟨hReach'.trans hReach, hNmu'.trans hNmu, hMdie'.trans hMdie, hLkp'.trans hLkp, hCtx'.trans hCtx⟩,
    ⟨hMem'.trans hMem, hPoison'.trans hPoison, hKey'.trans hKey⟩, hSess'.trans hSess⟩

theorem Aside.raise (h : Aside s t) (e : Ev) : Aside s (t.raise e) := ⟨h.units, h.mem, (raise_sess t e).trans h.sess⟩

theorem freeSem_aside (o : BitVec 2) (cause : Nat) (n : Fin 32) : Aside s (Semaphores.freeSem o cause s n) := by
  unfold Semaphores.freeSem
  split
  · have hEv : Aside s (s.semBreakEv n cause) := Aside.raise (s := s) (t := { s with semBroken := stick32 s.semBroken 1 }) ⟨⟨rfl, rfl, rfl, rfl, rfl⟩, ⟨rfl, rfl, rfl⟩, rfl⟩ _
    exact ⟨hEv.units, hEv.mem, hEv.sess⟩
  · exact .refl s

theorem freeSem_sec (o : BitVec 2) (cause : Nat) (n : Fin 32) : (Semaphores.freeSem o cause s n).sec = s.sec := by
  unfold Semaphores.freeSem
  split <;> rfl

theorem freeSems_kept (o : BitVec 2) (cause : Nat) : Aside s (s.freeSems o cause) ∧ (s.freeSems o cause).sec = s.sec := by
  rw [Semaphores.freeSems_eq]
  induction List.finRange 32 generalizing s with
  | nil => exact ⟨.refl s, rfl⟩
  | cons n l ih =>
    obtain ⟨hAside, hSec⟩ := ih (s := Semaphores.freeSem o cause s n)
    exact ⟨(freeSem_aside o cause n).trans hAside, hSec.trans (freeSem_sec o cause n)⟩

theorem setMaint_kept (m : Bool) (id : W64) : Aside s (s.setMaint m id) ∧ (s.setMaint m id).sem = s.sem ∧ (s.setMaint m id).sec.maint = m := by
  unfold State.setMaint
  split
  next h => exact ⟨.refl s, rfl, h⟩
  next =>
    exact ⟨Aside.raise (s := s) (t := { s with sec := { s.sec with maint := m } }) ⟨⟨rfl, rfl, rfl, rfl, rfl⟩, ⟨rfl, rfl, rfl⟩, rfl⟩ _, rfl, rfl⟩

/-! ### The end of a session (13 R444, R448; 15 R526) -/

/-- The session is over, and nothing else has happened yet. -/
def closed (s : State) (k : Fin 4) : State := { s with mgt := { s.mgt with sess := s.mgt.sess.set k none } }

/-- The semaphores of the port once no session is open. -/
def released (s : State) : State := if s.mgt.sess.toList.all (·.isNone) then s.freeSems 2 2 else s

theorem endSession_eq {x : Session} (h : s.mgt.sess[k] = some x) : s.endSession k =
    if (released (closed s k)).mgt.sess.toList.any (fun y => (y.map (·.maint)).getD false) then released (closed s k)
    else (released (closed s k)).setMaint false x.id := by
  simp only [State.endSession, h]
  rfl

theorem released_kept (s : State) : Aside s (released s) ∧ (released s).sec = s.sec := by
  unfold released
  split
  · exact freeSems_kept 2 2
  · exact ⟨.refl s, rfl⟩

theorem endSession_aside {x : Session} (h : s.mgt.sess[k] = some x) : Aside (closed s k) (s.endSession k) := by
  rw [endSession_eq h]
  split
  · exact (released_kept _).1
  · exact (released_kept _).1.trans (setMaint_kept _ _).1

theorem closed_sess (s : State) (k j : Fin 4) : (closed s k).mgt.sess[j] = if j = k then none else s.mgt.sess[j] := by
  change (s.mgt.sess.set k none)[j] = _
  split
  next hSame => subst hSame; exact Vector.getElem_set_self j.isLt
  next hOther => exact Vector.getElem_set_ne k.isLt j.isLt fun hij => hOther (Fin.ext hij.symm)

/-- The last session has ended. -/
theorem endSession_last {x : Session} (h : s.mgt.sess[k] = some x) (hLast : ∀ j : Fin 4, j ≠ k → s.mgt.sess[j] = none) :
    (s.endSession k).sec.maint = false ∧ ∀ n : Fin 32, (s.endSession k).sem[n].owner = if s.sem[n].owner = 2 then 0 else s.sem[n].owner := by
  have hNone (j : Fin 4) : (closed s k).mgt.sess[j] = none := by
    rw [closed_sess]
    split
    · rfl
    next hOther => exact hLast j hOther
  have hEmpty : ∀ y ∈ (closed s k).mgt.sess.toList, y = none := by
    intro y hy
    obtain ⟨i, hi, hAt⟩ := List.mem_iff_getElem.mp hy
    have hi4 : i < 4 := by simpa using hi
    rw [← hAt, Vector.getElem_toList]
    exact hNone ⟨i, hi4⟩
  have hFree : released (closed s k) = (closed s k).freeSems 2 2 := by
    refine if_pos (List.all_eq_true.mpr fun y hy => ?_)
    rw [hEmpty y hy]
    rfl
  have hMaint : ¬ (released (closed s k)).mgt.sess.toList.any (fun y => (y.map (·.maint)).getD false) = true := by
    rw [(released_kept _).1.sess, List.any_eq_true]
    rintro ⟨y, hy, hYes⟩
    rw [hEmpty y hy] at hYes
    exact absurd hYes (by decide)
  rw [endSession_eq h, if_neg hMaint]
  refine ⟨(setMaint_kept _ _).2.2, fun n => ?_⟩
  rw [(setMaint_kept _ _).2.1, hFree]
  exact freeSems_owner _ 2 2 n (by decide)

/-- Another session of MAINTENANCE authority stays open. -/
theorem endSession_maint {x y : Session} {j : Fin 4} (h : s.mgt.sess[k] = some x) (hj : j ≠ k) (hy : s.mgt.sess[j] = some y)
    (hMaint : y.maint = true) : (s.endSession k).sem = s.sem ∧ (s.endSession k).sec = s.sec := by
  have hAt : (closed s k).mgt.sess[j] = some y := by rw [closed_sess, if_neg hj, hy]
  have hMem : some y ∈ (closed s k).mgt.sess.toList := by
    rw [← hAt]
    exact Vector.mem_toList_iff.mpr (Vector.getElem_mem j.isLt)
  have hOpen : released (closed s k) = closed s k := by
    refine if_neg fun hAll => ?_
    exact absurd (List.all_eq_true.mp hAll _ hMem) (by simp)
  rw [endSession_eq h, hOpen, if_pos (List.any_eq_true.mpr ⟨_, hMem, hMaint⟩)]
  exact ⟨rfl, rfl⟩

/-! ### Records (13 R446) -/

theorem sendRecords_sends {i : Fin 4} (hColl : s.mgt.collector = some i) (hServed : s.mgtServed = true) (hAddr : s.mgt.coll ≠ 0)
    (hSome : s.mgt.recs.drop s.mgt.sent ≠ []) :
    s.sendRecords.out = s.out ++ [.empRecord (((s.mgt.sess[i].map (·.recNum)).getD 0) + 1) ((s.mgt.recs.drop s.mgt.sent).take 18)] ∧
      s.sendRecords.mgt.sent = s.mgt.sent + ((s.mgt.recs.drop s.mgt.sent).take 18).length ∧ s.sendRecords.mgt.recs = s.mgt.recs ∧
      UnitsKept s s.sendRecords ∧ MemoryKept s s.sendRecords := by
  have hTake : (s.mgt.recs.drop s.mgt.sent).take 18 ≠ [] := by simpa using hSome
  have hGo : (((s.mgt.recs.drop s.mgt.sent).take 18).isEmpty || s.mgt.coll == 0 || !s.mgtServed) = false := by
    simpa [hServed] using And.intro (show s.mgt.sent < s.mgt.recs.length by simpa using hSome) hAddr
  simp only [State.sendRecords, hColl, hGo, Bool.false_eq_true, if_false]
  exact ⟨rfl, rfl, rfl, ⟨rfl, rfl, rfl, rfl, rfl⟩, rfl, rfl, rfl⟩

/-! ### Addresses (13 R440) -/

theorem ipv6Addr_prefix (x : BitVec 64) (mac : BitVec 48) : (ipv6Addr x mac).toNat / 2 ^ 64 = x.toNat := by
  have hHigh : mac.toNat / 2 ^ 24 ^^^ 0x020000 < 2 ^ 24 := Nat.xor_lt_two_pow (by have := mac.isLt; omega) (by decide)
  have hLow : mac.toNat % 2 ^ 24 < 2 ^ 24 := Nat.mod_lt _ (by decide)
  have hPrefix := x.isLt
  rw [ipv6Addr, BitVec.toNat_ofNat]
  generalize mac.toNat / 2 ^ 24 ^^^ 0x020000 = h at *
  generalize mac.toNat % 2 ^ 24 = l at *
  omega

theorem prefix_gives (hServed : s.empServed = true) (x : BitVec 64) : Gives (.neighbourDiscovery (.prefix_ x)) s fun t =>
    (∃ a ∈ t.mgt.addrs, a.toNat / 2 ^ 64 = x.toNat) ∧ (∀ a ∈ s.mgt.addrs, a ∈ t.mgt.addrs) ∧ t.out = s.out ∧
      UnitsKept s t ∧ MemoryKept s t := by
  have hExec : exec (.neighbourDiscovery (.prefix_ x)) s = .next (if s.mgt.addrs.contains (ipv6Addr x s.mgt.mac) then s
      else { s with mgt := { s.mgt with addrs := s.mgt.addrs ++ [ipv6Addr x s.mgt.mac] } }) := by
    change Host.Outcome.next (if !s.empServed then s else _) = _
    rw [hServed]
    rfl
  refine ⟨_, hExec, ?_⟩
  split
  next hHas =>
    exact ⟨⟨_, List.contains_iff_mem.mp hHas, ipv6Addr_prefix _ _⟩, fun _ h => h, rfl, ⟨rfl, rfl, rfl, rfl, rfl⟩, rfl, rfl, rfl⟩
  next =>
    exact ⟨⟨_, List.mem_append_right _ (List.mem_singleton_self _), ipv6Addr_prefix _ _⟩, fun _ h => List.mem_append_left _ h, rfl,
      ⟨rfl, rfl, rfl, rfl, rfl⟩, rfl, rfl, rfl⟩

theorem solicit_exec (hServed : s.empServed = true) (a : BitVec 128) : exec (.neighbourDiscovery (.solicit a)) s =
    .next (if s.mgt.addrs.contains a then s.send (.ipv6 1 ((leBytes 16 a.toNat).reverse ++ (leBytes 6 s.mgt.mac.toNat).reverse)) else s) := by
  change Host.Outcome.next (if !s.empServed then s else _) = _
  rw [hServed]
  rfl

/-- Settles O50: SESSION requests by the cases of OPEN, the end of a session by what it frees, and the port's other messages. -/
theorem sessionsAndRecords : Obligations.SessionsAndRecords := by
  unfold Obligations.SessionsAndRecords
  intro q k data s
  refine ⟨fun hServed hTaken => ?_, fun hServed hTaken hSess hBusy hForm => ⟨fun hLen => ?_, fun hLen hId hRng =>
    ⟨fun hRefused => ?_, fun hCred hColl => ⟨fun i hSlot => ?_, fun hSlot => ?_⟩⟩⟩, fun x hx => ?_, fun i hColl hServed hAddr => ⟨?_, ?_⟩,
    fun hServed => ⟨?_, fun a => ⟨fun ha => ?_, fun ha => ?_⟩, prefix_gives hServed⟩, rfl, fun hHeld => ?_⟩
  · simp only [List.forall_mem_cons, List.not_mem_nil, false_imp_iff, implies_true, and_true]
    exact ⟨⟨fun h => congrArg Host.Outcome.next (sessionReq_foreign hServed hTaken h _),
        fun h hBusy => congrArg Host.Outcome.next (sessionReq_busy hServed hTaken h hBusy _)⟩,
      fun h => congrArg Host.Outcome.next (sessionReq_foreign hServed hTaken h _),
      fun h hBusy => congrArg Host.Outcome.next (sessionReq_busy hServed hTaken h hBusy _)⟩
  · refine congrArg Host.Outcome.next (sessionReq_carried hServed hTaken hSess hBusy ?_)
    simp [hForm, hLen]
  · refine ⟨_, (exec_open q s).trans (congrArg Host.Outcome.next (sessionReq_carried hServed hTaken hSess hBusy
      (opening_refused hForm hLen hId hRng hRefused))), sessionRefused_sess _ _, ?_, rfl, rfl⟩
    exact raise_raised s { code := 0x0604, kind := portKind (.mgmt 0), d0 := _, d1 := _, d2 := _, d3 := _ }
  · have hRun : opening q s = s.openSession q i := by rw [opening_accepted hForm hLen hId hRng hCred hColl, hSlot]
    exact ⟨_, (exec_open q s).trans (congrArg Host.Outcome.next (sessionReq_carried hServed hTaken hSess hBusy hRun)),
      openSession_sess s q i, fun j hj => openSession_other s q hj, rfl, ⟨_, rfl, openSession_reply s q i⟩, ⟨rfl, rfl, rfl, rfl, rfl⟩, rfl, rfl,
      rfl⟩
  · have hRun : opening q s = (s, 3, []) := by rw [opening_accepted hForm hLen hId hRng hCred hColl, hSlot]
    exact (exec_open q s).trans (congrArg Host.Outcome.next (sessionReq_carried hServed hTaken hSess hBusy hRun))
  · obtain ⟨hUnits, hMem, hSess⟩ := endSession_aside hx
    exact ⟨_, rfl, hSess, hUnits, hMem, endSession_last hx, fun ⟨j, y, hj, hy, hMaint⟩ => endSession_maint hx hj hy hMaint⟩
  · exact fun hSome => ⟨_, rfl, sendRecords_sends hColl hServed hAddr hSome⟩
  · intro hSome
    obtain ⟨hOut, hSent, hRest⟩ := sendRecords_sends (s := { s with mgt := { s.mgt with sent := 0 } }) hColl hServed hAddr hSome
    exact ⟨_, rfl, hOut, hSent, hRest⟩
  · change Host.Outcome.next (if s.empServed then s.send (.ipv6 0 data) else s) = _
    rw [hServed]
    rfl
  · rw [solicit_exec hServed, if_pos (List.contains_iff_mem.mpr ha)]
  · rw [solicit_exec hServed, if_neg fun hHas => ha (List.contains_iff_mem.mp hHas)]
  · change Host.Outcome.next (if s.dev.held then s else s.mgtLink true) = _
    rw [hHeld]
    rfl

end Sys2Proof.Machine.Sessions

/-! PROOF. Flash operations (12 R426, R427): a failed READ that rewrites a quarantined block raises an event before its own. -/

namespace Sys2Proof.Machine.FlashOps

open Sys2Proof.Machine

/-- A READ of two pages to address 0, of which the first will have been done. -/
def failing : FlashOp := { op := 1, addr := 0, dev := 0, pages := 2, port := .host }

/-- Device memory's first block is under quarantine (11 R368), and a READ into it is at work. -/
def quarantinedRead : State :=
  { State.reset with
    mdie := State.reset.mdie.set 0 { State.reset.mdie[0] with quar := [{ block := 0, rewritten := [] }] }
    prf := { State.reset.prf with flashOp := some failing } }

theorem quarantinedRead_keyed : AllKeyed quarantinedRead := fun line => by
  have hNoDram : quarantinedRead.dramEnd = 0 := by decide +kernel
  simp [State.keyOk, hNoDram]

/-- MEM_QUAR_CLEAR comes before FLASH_ERROR: the number of records goes up by 2. -/
theorem flashOpDone_twoEvents : ∃ t, exec (.flashOpDone false 1) quarantinedRead = .next t ∧ t.ras.seq = quarantinedRead.ras.seq + 2 :=
  ⟨_, rfl, by decide +kernel⟩

/-- Refutes O43: where the pages that a failed READ did bring clear a quarantine, FLASH_ERROR is not the next event. -/
theorem not_flashOperations : ¬ Obligations.FlashOperations := by
  unfold Obligations.FlashOperations
  intro h
  obtain ⟨-, hDone, -⟩ := h .host 0 quarantinedRead quarantinedRead_keyed rfl
  obtain ⟨t, hExec, -, -, -, -, -, -, -, -, hFails⟩ := hDone failing false 1 rfl
  obtain ⟨-, -, -, -, -, -, hSeq, -⟩ := hFails rfl
  obtain ⟨u, hExec', hSeq'⟩ := flashOpDone_twoEvents
  obtain rfl : t = u := Host.Outcome.next.inj (hExec.symm.trans hExec')
  rw [hSeq] at hSeq'
  exact absurd hSeq' (by decide)

end Sys2Proof.Machine.FlashOps

/-! PROOF. The fault log (12 R394 to R397) and the MAINT requests (16 R558, R559). -/

namespace Sys2Proof.Machine.FaultLog

open Sys2Proof.Machine Sys2Proof.Machine.Laws Sys2Proof.Machine.Requests

variable {s t u : State} {q : EmpReq} {k : Fin 4}

/-! ### Flash bytes -/

theorem slook_putFlash (m : List (Nat × Byte)) (a n : Nat) (bs : List Byte) (b : Nat) :
    slook 0xFF ((bs.zipIdx n).foldl (fun m p => sput 0xFF m (a + p.2) p.1) m) b =
      if a + n ≤ b ∧ b < a + n + bs.length then bs.getD (b - (a + n)) 0xFF else slook 0xFF m b := by
  induction bs generalizing m n with
  | nil => simp [show ¬(a + n ≤ b ∧ b < a + n) by omega]
  | cons x bs ih =>
    rw [List.zipIdx_cons, List.foldl_cons, ih, List.length_cons]
    by_cases h : b = a + n
    · subst h
      rw [if_neg (by omega), if_pos (by omega), slook_sput_same]
      simp
    · rw [slook_sput_ne _ _ _ _ _ h]
      by_cases h2 : a + n ≤ b ∧ b < a + n + (bs.length + 1)
      · rw [if_pos (by omega), if_pos h2, show b - (a + n) = b - (a + (n + 1)) + 1 by omega, List.getD_cons_succ]
      · rw [if_neg (by omega), if_neg h2]

theorem flashWrite_slook (s : State) (a : Nat) (bs : List Byte) (b : Nat) : slook 0xFF (s.flashWrite a bs).prf.flash b =
    if a ≤ b ∧ b < a + bs.length then bs.getD (b - a) 0xFF else slook 0xFF s.prf.flash b :=
  slook_putFlash s.prf.flash a 0 bs b

theorem flashWrite_read (s : State) (a : Nat) (bs : List Byte) : (s.flashWrite a bs).flashRead a bs.length = bs := by
  refine List.ext_getElem (by simp [State.flashRead]) fun i _ hi => ?_
  simp only [State.flashRead, List.getElem_map, List.getElem_range]
  rw [flashWrite_slook, if_pos (by omega), Nat.add_sub_cancel_left]
  exact (List.getElem_eq_getD 0xFF).symm

theorem flogBody_length (src body : List Byte) : (flogBody src body).length = 51 := by
  simp only [flogBody, List.length_append, List.length_take, List.length_replicate]
  omega

theorem flogBytes_length (seq : W32) (kind : Nat) {sb : List Byte} (h : sb.length = 51) : (flogBytes seq kind sb).length = 64 := by
  simp only [flogBytes, List.length_append, length_leBytes, h]

/-! ### Appending changes the PRF_ block alone -/

/-- The log was written: nothing but the PRF_ block has changed, and what is owed to the log has not. -/
structure Logged (s t : State) : Prop where
  same : t = { s with prf := t.prf }
  owed : t.prf.flogOwed = s.prf.flogOwed

theorem Logged.refl (s : State) : Logged s s := ⟨rfl, rfl⟩

theorem same_trans (h : t = { s with prf := t.prf }) (h' : u = { t with prf := u.prf }) : u = { s with prf := u.prf } := by
  rw [h'] at *
  rw [h]

theorem Logged.trans (h : Logged s t) (h' : Logged t u) : Logged s u := ⟨same_trans h.same h'.same, h'.owed.trans h.owed⟩

theorem flogPut_logged (s : State) (r : Nat × List Byte) : Logged s (s.flogPut r) := ⟨rfl, rfl⟩

theorem flashErase_logged (s : State) (a n : Nat) : Logged s (s.flashErase a n) := ⟨rfl, rfl⟩

theorem puts_logged (s : State) (rs : List (Nat × List Byte)) : Logged s (rs.foldl State.flogPut s) := by
  induction rs generalizing s with
  | nil => exact .refl s
  | cons r rs ih => exact (flogPut_logged s r).trans (ih _)

theorem checkpoint_logged (s : State) (h : Nat) (f : FLog) : Logged s (s.checkpoint h f) := by
  unfold State.checkpoint
  extract_lets s1 _ s2 rs s3 s4
  have h2 : Logged s s2 := ⟨rfl, rfl⟩
  clear_value s2
  have h3 : Logged s s3 := h2.trans (flogPut_logged _ _)
  clear_value s3
  have h4 : Logged s s4 := h3.trans (puts_logged _ _)
  exact h4.trans (flogPut_logged _ _)

/-- The compaction into the other half (R397). -/
def compacted (s : State) : State :=
  (s.checkpoint (1 - s.prf.flogHalf) (flogOf (s.half s.prf.flogHalf))).flashErase (halfBase s.prf.flogHalf) 0x800000

theorem compacted_logged (s : State) : Logged s (compacted s) := (checkpoint_logged s _ _).trans (flashErase_logged _ _ _)

theorem flogAppend_eq (s : State) (r : Nat × List Byte) : ∃ t, Logged s t ∧ s.flogAppend r = t.flogPut r := by
  have hAppend : s.flogAppend r = (if halfSize - s.prf.flogPos < 4096 then compacted s else s).flogPut r := rfl
  refine ⟨_, ?_, hAppend⟩
  split
  · exact compacted_logged s
  · exact .refl s

theorem flogAppend_logged (s : State) (r : Nat × List Byte) : Logged s (s.flogAppend r) := by
  obtain ⟨t, h, hPut⟩ := flogAppend_eq s r
  rw [hPut]
  exact h.trans (flogPut_logged t r)

/-- The record appended stands last. -/
theorem flogPut_read (s : State) {r : Nat × List Byte} (h : r.2.length = 51) :
    (s.flogPut r).flashRead (halfBase (s.flogPut r).prf.flogHalf + 64 * ((s.flogPut r).prf.flogPos - 1)) 64 =
      flogBytes ((s.flogPut r).prf.flogSeq - 1) r.1 r.2 := by
  have hSeq : (s.flogPut r).prf.flogSeq - 1 = s.prf.flogSeq := BitVec.add_sub_cancel _ _
  rw [hSeq]
  have hRead := flashWrite_read s (halfBase s.prf.flogHalf + 64 * s.prf.flogPos) (flogBytes s.prf.flogSeq r.1 r.2)
  rwa [flogBytes_length _ _ h] at hRead

theorem flogAppend_read (s : State) {r : Nat × List Byte} (h : r.2.length = 51) :
    (s.flogAppend r).flashRead (halfBase (s.flogAppend r).prf.flogHalf + 64 * ((s.flogAppend r).prf.flogPos - 1)) 64 =
      flogBytes ((s.flogAppend r).prf.flogSeq - 1) r.1 r.2 := by
  obtain ⟨t, -, hPut⟩ := flogAppend_eq s r
  rw [hPut]
  exact flogPut_read t h

/-! ### Everything owed is appended (17 R582) -/

theorem flogStep_same (s : State) : s.flogStep = { s with prf := s.flogStep.prf } := by
  unfold State.flogStep
  split
  · rfl
  next r rs _ => exact same_trans (t := { s with prf := { s.prf with flogOwed := rs } }) rfl (flogAppend_logged _ r).same

theorem flogStep_owed (s : State) : s.flogStep.prf.flogOwed = s.prf.flogOwed.tail := by
  unfold State.flogStep
  split
  next h => rw [h]; rfl
  next r rs h => rw [(flogAppend_logged _ r).owed, h]; rfl

theorem steps_flushed (l : List (Nat × List Byte)) (s : State) :
    l.foldl (fun (s : State) _ => s.flogStep) s = { s with prf := (l.foldl (fun (s : State) _ => s.flogStep) s).prf } ∧
      (l.foldl (fun (s : State) _ => s.flogStep) s).prf.flogOwed = s.prf.flogOwed.drop l.length := by
  induction l generalizing s with
  | nil => exact ⟨rfl, rfl⟩
  | cons r l ih =>
    obtain ⟨hSame, hOwed⟩ := ih s.flogStep
    refine ⟨same_trans (flogStep_same s) hSame, ?_⟩
    rw [List.foldl_cons, hOwed, flogStep_owed, List.drop_tail, List.length_cons]

theorem flogFlush_same (s : State) : s.flogFlush = { s with prf := s.flogFlush.prf } := (steps_flushed _ s).1

theorem flogFlush_owed (s : State) : s.flogFlush.prf.flogOwed = [] := by
  have h := (steps_flushed s.prf.flogOwed s).2
  rwa [List.drop_length] at h

/-! ### MAINT (16 R558, R559) -/

/-- A request of MAINTENANCE authority is answered with the result of its command. -/
theorem gives_maint {i : Instr} {f : Fin 4 → State → EmpRes} {P : State → Prop} (hNew : NewReq s q k true)
    (hExec : exec i s = .next (s.emp q true true f)) {st : Nat} {reply : List Byte} (hRun : f k s = (t, st, reply))
    (hSess : InSession t q k) (hKept : P (answered t q k st reply)) : Gives i s fun u => Replies u q k st reply ∧ P u := by
  have hIn : InSession (f k s).1 q k := by rw [hRun]; exact hSess
  rw [emp_carried hNew (fun _ => rfl) rfl hIn, hRun] at hExec
  exact ⟨_, hExec, answered_replies hSess st reply, hKept⟩

/-- What a clearing leaves: everything owed is written, and its own record after it. -/
def cleared (s : State) (op a0 a1 : Nat) (station : List Byte) : State := s.flogFlush.flogAppend (recMaint op a0 a1 station s.time)

theorem cleared_same (s : State) (op a0 a1 : Nat) (station : List Byte) :
    cleared s op a0 a1 station = { s with prf := (cleared s op a0 a1 station).prf } :=
  same_trans (flogFlush_same s) (flogAppend_logged _ _).same

theorem cleared_owed (s : State) (op a0 a1 : Nat) (station : List Byte) : (cleared s op a0 a1 station).prf.flogOwed = [] :=
  (flogAppend_logged _ _).owed.trans (flogFlush_owed s)

/-- RAS_MAINT (16 R559). -/
def maintEv (q : EmpReq) (op : Nat) (k : Fin 4) (x : Session) : Ev :=
  { code := 0x080C, kind := portKind (.mgmt k), addr := op, d0 := x.id.toNat, d1 := reqNat q 2 2, d2 := reqNat q 4 2 }

section
variable {op : Nat} {good there flash : Bool}

theorem maintClear_wrong (h : good = false ∨ s.confirmed q = false) :
    s.maintClear q op good there flash k = (s, 0, maintReply 1 0 []) := by
  rcases h with h | h
  · simp [State.maintClear, h]
  · simp [State.maintClear, h]

theorem maintClear_nothing (hGood : good = true) (hConf : s.confirmed q = true) (h : there = false) :
    s.maintClear q op good there flash k = (s, 0, maintReply 2 0 []) := by simp [State.maintClear, hGood, hConf, h]

theorem maintClear_failed (hGood : good = true) (hConf : s.confirmed q = true) (hThere : there = true) (h : flash = false) :
    s.maintClear q op good there flash k = (s, 0, maintReply 3 0 []) := by simp [State.maintClear, hGood, hConf, hThere, h]

theorem maintClear_done {x : Session} (hGood : good = true) (hConf : s.confirmed q = true) (hThere : there = true) (hFlash : flash = true)
    (hSess : s.mgt.sess[k] = some x) : s.maintClear q op good there flash k =
      ((cleared s op (reqNat q 2 2) (reqNat q 4 2) x.station).raise (maintEv q op k x), 0,
        maintReply 0 ((cleared s op (reqNat q 2 2) (reqNat q 4 2) x.station).prf.flogSeq - 1) []) := by
  have hFlushed : s.flogFlush.mgt.sess[k] = some x := by rw [flogFlush_same]; exact hSess
  have hTime : s.flogFlush.time = s.time := by rw [flogFlush_same]
  simp only [State.maintClear, hGood, hConf, hThere, hFlash, Bool.not_true, Bool.or_self, Bool.false_eq_true, if_false, hFlushed, hTime,
    Option.map_some, Option.getD_some]
  rfl

end

theorem exec_clearFlag (q : EmpReq) (flash : Bool) (s : State) : exec (.clearFlag q flash) s =
    .next (s.emp q true (maintForm q) fun i s => s.maintClear q 1 true s.logNow.flag.isSome flash i) := rfl

theorem exec_clearMark (q : EmpReq) (flash : Bool) (s : State) : exec (.clearMark q flash) s =
    .next (s.emp q true (maintForm q) fun i s =>
      s.maintClear q 2 (decide (reqNat q 2 2 < 32)) (s.logNow.marks.contains (reqNat q 2 2)) flash i) := rfl

theorem exec_clearLane (q : EmpReq) (flash : Bool) (s : State) : exec (.clearLane q flash) s =
    .next (s.emp q true (maintForm q) fun i s =>
      s.maintClear q 3 (decide (reqNat q 2 2 < 16) && decide (reqNat q 4 2 < 256))
        ((slook 0 s.logNow.bypass (4 * reqNat q 2 2 + reqNat q 4 2 / 64)).getLsbD (reqNat q 4 2 % 64)) flash i) := rfl

/-- What MAINT says of a clearing request. -/
def Clears (s : State) (q : EmpReq) (k : Fin 4) (i : Instr) (op : Nat) (good there flash : Bool) : Prop :=
  (good = false ∨ s.confirmed q = false → Gives i s fun t => Replies t q k 0 (maintReply 1 0 []) ∧ t.prf = s.prf) ∧
  (good = true → s.confirmed q = true → there = false → Gives i s fun t => Replies t q k 0 (maintReply 2 0 []) ∧ t.prf = s.prf) ∧
  (good = true → s.confirmed q = true → there = true → flash = false → Gives i s fun t =>
    Replies t q k 0 (maintReply 3 0 []) ∧ t.prf = s.prf) ∧
  (good = true → s.confirmed q = true → there = true → flash = true → Gives i s fun t =>
    Replies t q k 0 (maintReply 0 (t.prf.flogSeq - 1) []) ∧ LastEvent t 0x080C ∧ t.prf.flogOwed = [] ∧ UnitsKept s t ∧ MemoryKept s t ∧
      ∃ x, s.mgt.sess[k] = some x ∧
        t.flashRead (0x8000000 + t.prf.flogHalf * 0x800000 + 64 * (t.prf.flogPos - 1)) 64 =
          flogBytes (t.prf.flogSeq - 1) 7 (recMaint op (reqNat q 2 2) (reqNat q 4 2) x.station s.time).2)

/-- A clearing that is carried out. -/
theorem cleared_gives (hNew : NewReq s q k true) {i : Instr} {op : Nat} {f : Fin 4 → State → EmpRes}
    (hExec : exec i s = .next (s.emp q true true f)) {x : Session} (hSess : s.mgt.sess[k] = some x)
    (hRun : f k s = ((cleared s op (reqNat q 2 2) (reqNat q 4 2) x.station).raise (maintEv q op k x), 0,
      maintReply 0 ((cleared s op (reqNat q 2 2) (reqNat q 4 2) x.station).prf.flogSeq - 1) [])) : Gives i s fun t =>
    Replies t q k 0 (maintReply 0 (t.prf.flogSeq - 1) []) ∧ LastEvent t 0x080C ∧ t.prf.flogOwed = [] ∧ UnitsKept s t ∧ MemoryKept s t ∧
      ∃ x, s.mgt.sess[k] = some x ∧
        t.flashRead (0x8000000 + t.prf.flogHalf * 0x800000 + 64 * (t.prf.flogPos - 1)) 64 =
          flogBytes (t.prf.flogSeq - 1) 7 (recMaint op (reqNat q 2 2) (reqNat q 4 2) x.station s.time).2 := by
  have hRead : (cleared s op (reqNat q 2 2) (reqNat q 4 2) x.station).flashRead _ 64 = _ :=
    flogAppend_read s.flogFlush (r := recMaint op (reqNat q 2 2) (reqNat q 4 2) x.station s.time) (flogBody_length _ _)
  have hSame := cleared_same s op (reqNat q 2 2) (reqNat q 4 2) x.station
  have hOwed := cleared_owed s op (reqNat q 2 2) (reqNat q 4 2) x.station
  change (cleared s op (reqNat q 2 2) (reqNat q 4 2) x.station).flashRead
    (halfBase (cleared s op (reqNat q 2 2) (reqNat q 4 2) x.station).prf.flogHalf +
      64 * ((cleared s op (reqNat q 2 2) (reqNat q 4 2) x.station).prf.flogPos - 1)) 64 =
    flogBytes ((cleared s op (reqNat q 2 2) (reqNat q 4 2) x.station).prf.flogSeq - 1) 7 _ at hRead
  generalize cleared s op (reqNat q 2 2) (reqNat q 4 2) x.station = c at *
  have hIn : InSession (c.raise (maintEv q op k x)) q k := by
    have hStart := inSession_of_fresh hNew.new
    rw [InSession, raise_sess, hSame]
    exact hStart
  have hLast : LastEvent (c.raise (maintEv q op k x)) 0x080C := Lrate.raised_lastEvent (raise_raised c _)
  have hUnits : UnitsKept s c := by rw [hSame]; exact ⟨rfl, rfl, rfl, rfl, rfl⟩
  have hMem : MemoryKept s c := by rw [hSame]; exact ⟨rfl, rfl, rfl⟩
  have hAll := gives_maint (P := fun t => t.prf = c.prf ∧ LastEvent t 0x080C ∧ UnitsKept s t ∧ MemoryKept s t) hNew hExec hRun hIn
    ⟨rfl, hLast, hUnits, hMem⟩
  obtain ⟨t, hNext, hReplies, hPrf, hLast', hUnits', hMem'⟩ := hAll
  refine ⟨t, hNext, hPrf ▸ hReplies, hLast', hPrf ▸ hOwed, hUnits', hMem', x, hSess, ?_⟩
  rw [State.flashRead, hPrf]
  exact hRead

theorem clears_of_exec (hNew : NewReq s q k true) {i : Instr} {op : Nat} {good there : State → Bool} {flash : Bool}
    (hExec : exec i s = .next (s.emp q true true fun j s => s.maintClear q op (good s) (there s) flash j)) :
    Clears s q k i op (good s) (there s) flash := by
  have hIn := inSession_of_fresh hNew.new
  obtain ⟨x, hSess, -, -⟩ := session_of_fresh hNew.new
  refine ⟨fun h => ?_, fun hGood hConf hThere => ?_, fun hGood hConf hThere hFlash => ?_, fun hGood hConf hThere hFlash => ?_⟩
  · exact gives_maint hNew hExec (maintClear_wrong h) hIn rfl
  · exact gives_maint hNew hExec (maintClear_nothing hGood hConf hThere) hIn rfl
  · exact gives_maint hNew hExec (maintClear_failed hGood hConf hThere hFlash) hIn rfl
  · exact cleared_gives hNew hExec hSess (maintClear_done hGood hConf hThere hFlash hSess)

/-! ### LOG_READ -/

/-- What LOG_READ makes of a request. -/
def logRead (q : EmpReq) (flash : Bool) (s : State) : EmpRes :=
  if !s.confirmed q || decide (0x800000 ≤ 1024 * reqNat q 16 4) then (s, 0, maintReply 1 0 [])
  else if !flash then (s, 0, maintReply 3 0 [])
  else (s, 0, maintReply 0 0 (s.flashRead (halfBase s.prf.flogHalf + 1024 * reqNat q 16 4) 1024))

theorem exec_logRead (q : EmpReq) (flash : Bool) (s : State) :
    exec (.logRead q flash) s = .next (s.emp q true (maintForm q) fun _ s => logRead q flash s) := rfl

theorem logRead_wrong {flash : Bool} (h : s.confirmed q = false ∨ 0x800000 ≤ 1024 * reqNat q 16 4) :
    logRead q flash s = (s, 0, maintReply 1 0 []) := by
  rcases h with h | h
  · simp [logRead, h]
  · rw [logRead, decide_eq_true h, Bool.or_true, if_pos rfl]

theorem logRead_fragment (hConf : s.confirmed q = true) (hIn : 1024 * reqNat q 16 4 < 0x800000) :
    logRead q true s = (s, 0, maintReply 0 0 (s.flashRead (0x8000000 + s.prf.flogHalf * 0x800000 + 1024 * reqNat q 16 4) 1024)) := by
  have hFits : decide (0x800000 ≤ 1024 * reqNat q 16 4) = false := decide_eq_false (by omega)
  rw [logRead, hConf, hFits]
  rfl

/-- Settles O49: the three clearings are one, `clears_of_exec`, and LOG_READ has its two cases. -/
theorem maintenanceRequests : Obligations.MaintenanceRequests := by
  unfold Obligations.MaintenanceRequests
  intro q k flash s hNew hForm
  have hIn := inSession_of_fresh hNew.new
  have hFlag := clears_of_exec hNew (good := fun _ => true) (there := fun s => s.logNow.flag.isSome) (hForm ▸ exec_clearFlag q flash s)
  have hMark := clears_of_exec hNew (good := fun _ => decide (reqNat q 2 2 < 32)) (there := fun s => s.logNow.marks.contains (reqNat q 2 2))
    (hForm ▸ exec_clearMark q flash s)
  have hLane := clears_of_exec hNew (good := fun _ => decide (reqNat q 2 2 < 16) && decide (reqNat q 4 2 < 256))
    (there := fun s => (slook 0 s.logNow.bypass (4 * reqNat q 2 2 + reqNat q 4 2 / 64)).getLsbD (reqNat q 4 2 % 64))
    (hForm ▸ exec_clearLane q flash s)
  refine ⟨?_, fun f hf => ⟨fun h => ?_, fun hConf hFits hFlash => ?_⟩⟩
  · exact List.forall_mem_cons.mpr ⟨hFlag, List.forall_mem_cons.mpr ⟨hMark, List.forall_mem_cons.mpr ⟨hLane, fun _ h =>
      absurd h List.not_mem_nil⟩⟩⟩
  · subst hf
    exact gives_maint hNew (f := fun _ s => logRead q flash s) (hForm ▸ exec_logRead q flash s) (logRead_wrong h) hIn rfl
  · subst hf hFlash
    exact gives_maint hNew (f := fun _ s => logRead q true s) (hForm ▸ exec_logRead q true s) (logRead_fragment hConf hFits) hIn rfl

end Sys2Proof.Machine.FaultLog

/-! PROOF. BARGE_COMPLETE (07 R233; 11 R378, R380). -/

namespace Sys2Proof.Machine.BargeEnds

open Sys2Proof.Machine Sys2Proof.Machine.Laws

variable {s t : State} {n k : Fin 16}

theorem write_deviceKept (s : State) (a : Nat) (bs : List Byte) (p : Bool) : DeviceKept s (s.write a bs p) := by simp [DeviceKept]

/-- The digest has been written, where one is due. -/
def digested (s : State) (g : Barge) : State :=
  if (BDesc.ofBytes g.desc).dig && (g.code == 0 || g.code == 0x0205) then
    s.write (BDesc.ofBytes g.desc).diga (leBytes 32 (sm3 g.got).toNat) g.gotBad
  else s

theorem digested_cases (s : State) (g : Barge) : digested s g = s ∨ ∃ a bs p, digested s g = s.write a bs p := by
  unfold digested
  split
  · exact .inr ⟨_, _, _, rfl⟩
  · exact .inl rfl

theorem digested_reach (s : State) (g : Barge) : (digested s g).reach = s.reach := by
  rcases digested_cases s g with h | ⟨a, bs, p, h⟩
  · rw [h]
  · rw [h, write_reach]

theorem digested_nmu (s : State) (g : Barge) : (digested s g).nmu = s.nmu := by
  rcases digested_cases s g with h | ⟨a, bs, p, h⟩
  · rw [h]
  · rw [h, write_nmu]

theorem digested_device (s : State) (g : Barge) : DeviceKept s (digested s g) := by
  rcases digested_cases s g with h | ⟨a, bs, p, h⟩
  · rw [h]
    exact (NmuAccess.Accessed.refl s).device
  · rw [h]
    exact write_deviceKept _ _ _ _

/-- The barge without what it has collected for its digest. -/
def emptied (g : Barge) : Barge := { g with got := [], gotBad := false }

/-- The barge after its end. -/
def ended (g : Barge) : Barge := { emptied g with busy := false }

/-- A barge that its reach does not wait for ends with its own code. -/
theorem emptied_ends (hWait : t.reach[n].u.wait = .none) (hClear : t.reach[n].lateClear = false) (hBarges : t.reach[n].waitBarges = false) :
    (t.modReach n fun x => { x with barges := x.barges.set k (emptied x.barges[k]) }).endReachBarge n k t.reach[n].barges[k].code =
      t.modReach n fun x => { x with barges := x.barges.set k (ended t.reach[n].barges[k]) } := by
  rw [HostBarges.endReachBarge_idle (by rw [modReach_same]; exact hWait) (by rw [modReach_same]; exact hClear)
    (by rw [modReach_same]; exact hBarges), Frames.modReach_modReach]
  refine Queues.modReach_congr ?_
  simp [ended, emptied]

theorem bargeWrote_reach (s : State) (n k : Fin 16) (a m : Nat) : s.bargeWrote (.reach n k) a m = s := by
  simp [State.bargeWrote]

theorem exec_bargeComplete_eq (s : State) (n k : Fin 16) : exec (.bargeComplete (.reach n k)) s =
    .next (if !s.reach[n].barges[k].busy || !s.reach[n].barges[k].moved || s.bargeReading (.reach n k) then s
      else ((digested s s.reach[n].barges[k]).modReach n fun x => { x with barges := x.barges.set k (emptied x.barges[k]) }).endReachBarge n k
        s.reach[n].barges[k].code) := by
  change execBargeComplete (.reach n k) s = _
  unfold execBargeComplete digested
  simp only [State.bargeAt, bargeWrote_reach, State.modBarge, State.endBarge, emptied]

theorem exec_bargeComplete (hBusy : s.reach[n].barges[k].busy = true) (hMoved : s.reach[n].barges[k].moved = true)
    (hReads : ∀ x ∈ s.cpl.reads, x.dead = false → ¬(x.reach = n.val ∧ x.tag = k.val)) (hWait : s.reach[n].u.wait = .none)
    (hClear : s.reach[n].lateClear = false) (hBarges : s.reach[n].waitBarges = false) :
    exec (.bargeComplete (.reach n k)) s =
      .next ((digested s s.reach[n].barges[k]).modReach n fun x => { x with barges := x.barges.set k (ended s.reach[n].barges[k]) }) := by
  have hReading : s.bargeReading (.reach n k) = false := by
    simp only [State.bargeReading, List.any_eq_false, Bool.and_eq_true, beq_iff_eq, Bool.not_eq_true']
    exact fun x hx h => hReads x hx h.2 h.1
  have hGo : (!s.reach[n].barges[k].busy || !s.reach[n].barges[k].moved || s.bargeReading (.reach n k)) = false := by
    rw [hBusy, hMoved, hReading]
    rfl
  rw [exec_bargeComplete_eq, hGo]
  simp only [Bool.false_eq_true, if_false]
  have hReach := digested_reach s s.reach[n].barges[k]
  generalize digested s s.reach[n].barges[k] = t at hReach ⊢
  have hEnd := emptied_ends (t := t) (n := n) (k := k) (by rw [hReach]; exact hWait) (by rw [hReach]; exact hClear)
    (by rw [hReach]; exact hBarges)
  rw [hReach] at hEnd
  rw [hEnd]

/-- Settles O30: the digest's bytes by `write_bytesAre`, everything else by what the end of the barge sets. -/
theorem bargeCompletes : Obligations.BargeCompletes := by
  unfold Obligations.BargeCompletes
  intro n k s g d hBusy hMoved hReads hWait hClear hBarges
  refine ⟨_, exec_bargeComplete hBusy hMoved hReads hWait hClear hBarges, ?_⟩
  dsimp only
  rw [modReach_same]
  have hReach := digested_reach s g
  have hNmu := digested_nmu s g
  have hDevice := digested_device s g
  have hWritten (hDig : d.dig = true) (hCode : g.code = 0) : digested s g = s.write d.diga (leBytes 32 (sm3 g.got).toNat) g.gotBad :=
    if_pos (by rw [show (BDesc.ofBytes g.desc).dig = true from hDig, hCode]; rfl)
  have hNone (hDig : d.dig = false) : digested s g = s := if_neg (by rw [show (BDesc.ofBytes g.desc).dig = false from hDig]; simp)
  generalize hEq : digested s s.reach[n].barges[k] = u at hReach hNmu hDevice hWritten hNone ⊢
  have hAt : u.reach[n] = s.reach[n] := by rw [hReach]
  rw [hAt]
  refine ⟨by simp [ended], by simp [ended, emptied]; rfl, rfl, fun j hj => Vector.getElem_set_ne k.isLt j.isLt fun h => hj (Fin.ext h.symm),
    ⟨fun m hm => ?_, fun m _ => ?_⟩, hDevice, fun hDig hCode => ?_, fun hDig => ?_⟩
  · rw [modReach_ne _ (fun h => hm (congrArg Res.reach h.symm)), hReach]
  · change u.nmu[m] = _
    rw [hNmu]
  · have hAre : BytesAre u d.diga (leBytes 32 (sm3 g.got).toNat) := hWritten hDig hCode ▸ write_bytesAre s _ _ _
    have hKept : BytesKept s u [(d.diga, (leBytes 32 (sm3 g.got).toNat).length)] := hWritten hDig hCode ▸ write_bytesKept s _ _ _
    rw [length_leBytes] at hKept
    exact ⟨hAre, hKept⟩
  · have hMem : MemoryKept s u := hNone hDig ▸ ⟨rfl, rfl, rfl⟩
    exact hMem

end Sys2Proof.Machine.BargeEnds

/-! PROOF. Barges within device memory (11 R374 to R377; 04 R141): the rows that each kind moves, and what a transfer leaves. -/

namespace Sys2Proof.Machine.BargeMoves

open Sys2Proof.Machine Sys2Proof.Machine.Laws Sys2Proof.Machine.NmuAccess Sys2Proof.Machine.HostBarges

variable {s t u : State} {n k : Fin 16} {d : BDesc} {ws : List (Nat × Nat)}

/-! ### Bytes under a write of marked bytes -/

/-- The bytes without their marks. -/
abbrev plain (bs : List MByte) : List Byte := bs.map (·.1)

theorem markedGo_byte (s : State) (a : Nat) (bs : List MByte) (f b : Nat) (h : a % 64 + bs.length ≤ 64 * f) :
    (s.markedGo a bs f).byte b = if a ≤ b ∧ b < a + bs.length then (plain bs).getD (b - a) 0 else s.byte b := by
  induction f generalizing s a bs with
  | zero => rw [if_neg (by omega)]; rfl
  | succ f ih =>
    unfold State.markedGo
    by_cases he : bs = []
    · subst he
      simp [show ¬(a ≤ b ∧ b < a) by omega]
    · have hne : bs.isEmpty = false := by simp [he]
      have hl : ((bs.take (64 - a % 64)).map (·.1)).length = min (64 - a % 64) bs.length := by rw [List.length_map, List.length_take]
      rw [hne]
      simp only [Bool.false_eq_true, if_false]
      rw [ih _ _ _ (by rw [List.length_drop]; omega), byte_writeLine _ _ _ _ _ (by omega)]
      simp only [List.length_drop, hl]
      by_cases h1 : a + (64 - a % 64) ≤ b ∧ b < a + (64 - a % 64) + (bs.length - (64 - a % 64))
      · rw [if_pos h1, if_pos (by omega), plain, List.map_drop, List.getD_eq_getElem?_getD, List.getElem?_drop, List.getD_eq_getElem?_getD,
          show 64 - a % 64 + (b - (a + (64 - a % 64))) = b - a by omega]
      · rw [if_neg h1]
        by_cases h2 : a ≤ b ∧ b < a + min (64 - a % 64) bs.length
        · rw [if_pos h2, if_pos (by omega), List.map_take, List.getD_eq_getElem?_getD, List.getD_eq_getElem?_getD,
            List.getElem?_take_of_lt (by omega)]
        · rw [if_neg h2, if_neg (by omega)]

theorem markedWrite_byte (s : State) (a : Nat) (bs : List MByte) (b : Nat) :
    (s.markedWrite a bs).byte b = if a ≤ b ∧ b < a + bs.length then (plain bs).getD (b - a) 0 else s.byte b :=
  markedGo_byte s a bs _ b (by omega)

theorem markedWrite_are (s : State) (a : Nat) (bs : List MByte) : BytesAre (s.markedWrite a bs) a (plain bs) := by
  intro i h
  rw [markedWrite_byte, if_pos (by rw [List.length_map] at h; omega), Nat.add_sub_cancel_left, List.getD_eq_getElem?_getD,
    List.getElem?_eq_getElem h]
  rfl

/-! ### Spans that a transfer leaves alone -/

/-- A byte lies in none of the spans. -/
def Outside (ws : List (Nat × Nat)) (b : Nat) : Prop := ∀ w ∈ ws, b < w.1 ∨ w.1 + w.2 ≤ b

theorem markedWrite_outside {a m : Nat} {bs : List MByte} (hMem : (a, m) ∈ ws) (hLen : bs.length ≤ m) {b : Nat} (hb : Outside ws b) :
    (s.markedWrite a bs).byte b = s.byte b := by
  have h := hb _ hMem
  dsimp only at h
  rw [markedWrite_byte, if_neg (by omega)]

theorem outside_of_apart {xs ys : List (Nat × Nat)} (h : ApartFrom xs ys) {b : Nat} (hb : ¬Outside xs b) : Outside ys b := by
  intro y hy
  unfold Outside at hb
  push Not at hb
  obtain ⟨x, hx, hIn⟩ := hb
  have := h x hx y hy
  omega

theorem outside_of_apart' {xs ys : List (Nat × Nat)} (h : ApartFrom xs ys) {b : Nat} (hb : ¬Outside ys b) : Outside xs b :=
  outside_of_apart (fun y hy x hx => (h x hx y hy).symm) hb

theorem bytesAre_congr {a : Nat} {bs : List Byte} (h : ∀ b, a ≤ b → b < a + bs.length → u.byte b = s.byte b) (hAre : BytesAre s a bs) :
    BytesAre u a bs := fun i hi => (h _ (by omega) (by omega)).trans (hAre i hi)

/-- A fold of steps that write apart from each other establishes what each step does. -/
theorem fold_content {α : Type} {f : State → α → State} {spans : α → List (Nat × Nat)} {P : α → State → Prop} {I : State → Prop}
    {l : List α} (hI : ∀ s, ∀ x ∈ l, I s → I (f s x)) (hSet : ∀ s, ∀ x ∈ l, I s → P x (f s x))
    (hKeep : ∀ s, ∀ x ∈ l, ∀ b, Outside (spans x) b → (f s x).byte b = s.byte b)
    (hP : ∀ x s u, (∀ b, ¬Outside (spans x) b → u.byte b = s.byte b) → P x s → P x u)
    (hApart : l.Pairwise fun x y => ApartFrom (spans x) (spans y)) (h0 : I s) : ∀ x ∈ l, P x (l.foldl f s) := by
  have hRest : ∀ (l' : List α) (s : State) (b : Nat), (∀ x ∈ l', x ∈ l) → (∀ x ∈ l', Outside (spans x) b) →
      (l'.foldl f s).byte b = s.byte b := by
    intro l'
    induction l' with
    | nil => exact fun _ _ _ _ => rfl
    | cons y l' ih =>
      intro s b hMem hOut
      rw [List.foldl_cons, ih _ _ (fun x hx => hMem x (List.mem_cons_of_mem _ hx)) fun x hx => hOut x (List.mem_cons_of_mem _ hx)]
      exact hKeep s y (hMem y List.mem_cons_self) b (hOut y List.mem_cons_self)
  induction l generalizing s with
  | nil => exact fun _ hx => absurd hx List.not_mem_nil
  | cons y l ih =>
    intro x hx
    obtain ⟨hFirst, hApart⟩ := List.pairwise_cons.mp hApart
    rcases List.mem_cons.mp hx with rfl | hx
    · refine hP x (f s x) _ (fun b hb => ?_) (hSet s x List.mem_cons_self h0)
      exact hRest l _ b (fun z hz => List.mem_cons_of_mem _ hz) fun z hz => outside_of_apart (hFirst z hz) hb
    · exact ih (fun s x hx => hI s x (List.mem_cons_of_mem _ hx)) (fun s x hx => hSet s x (List.mem_cons_of_mem _ hx))
        (fun s x hx => hKeep s x (List.mem_cons_of_mem _ hx)) hApart (hI s y List.mem_cons_self h0)
        (fun l' s b hMem => hRest l' s b fun z hz => List.mem_cons_of_mem _ (hMem z hz)) x hx

/-- Bytes have been moved for a barge of a reach: no byte outside the ranges has changed, nor what a unit holds, nor the device, and the
barge is still in flight. -/
structure Carried (s t : State) (n k : Fin 16) (ws : List (Nat × Nat)) : Prop where
  bytes  : ∀ b, Outside ws b → t.byte b = s.byte b
  units  : ∀ j : Fin 16, t.reach[j].u = s.reach[j].u
  nmu    : t.nmu = s.nmu
  device : DeviceKept s t
  going  : (t.reach[n].barges[k].busy, t.reach[n].barges[k].moved) = (s.reach[n].barges[k].busy, s.reach[n].barges[k].moved)

theorem Carried.refl (s : State) : Carried s s n k ws := ⟨fun _ _ => rfl, fun _ => rfl, rfl, (Accessed.refl s).device, rfl⟩

theorem Carried.trans (h : Carried s t n k ws) (g : Carried t u n k ws) : Carried s u n k ws :=
  ⟨fun b hb => (g.bytes b hb).trans (h.bytes b hb), fun j => (g.units j).trans (h.units j), g.nmu.trans h.nmu,
    deviceKept_trans h.device g.device, g.going.trans h.going⟩

theorem Carried.fold {α : Type} {f : State → α → State} {l : List α} (h : ∀ s, ∀ x ∈ l, Carried s (f s x) n k ws) :
    Carried s (l.foldl f s) n k ws := by
  induction l generalizing s with
  | nil => exact .refl s
  | cons x l ih =>
    exact (h s x List.mem_cons_self).trans (ih fun s y hy => h s y (List.mem_cons_of_mem _ hy))

theorem markedWrite_keeps {α : Type} (P : State → α) (h : ∀ s a bs p, P (State.writeLine s a bs p) = P s) (s : State) (a : Nat)
    (bs : List MByte) : P (s.markedWrite a bs) = P s := markedGo_keeps s P h a bs _

theorem markedWrite_device (s : State) (a : Nat) (bs : List MByte) : DeviceKept s (s.markedWrite a bs) :=
  ⟨markedWrite_keeps State.pending writeLine_pending s a bs, markedWrite_keeps State.time writeLine_time s a bs,
    markedWrite_keeps State.out writeLine_out s a bs, markedWrite_keeps State.ctx writeLine_ctx s a bs,
    markedWrite_keeps State.dev writeLine_dev s a bs, markedWrite_keeps State.sec writeLine_sec s a bs,
    markedWrite_keeps State.pci writeLine_pci s a bs, markedWrite_keeps State.prf writeLine_prf s a bs,
    markedWrite_keeps State.sem writeLine_sem s a bs, markedWrite_keeps State.semRefused writeLine_semRefused s a bs,
    markedWrite_keeps State.semBroken writeLine_semBroken s a bs, markedWrite_keeps State.pwr writeLine_pwr s a bs,
    markedWrite_keeps State.tap writeLine_tap s a bs, markedWrite_keeps State.board writeLine_board s a bs,
    markedWrite_keeps State.shadow writeLine_shadow s a bs⟩

theorem markedWrite_reach (s : State) (a : Nat) (bs : List MByte) : (s.markedWrite a bs).reach = s.reach :=
  markedWrite_keeps State.reach writeLine_reach s a bs

theorem markedWrite_carried {a m : Nat} {bs : List MByte} (hMem : (a, m) ∈ ws) (hLen : bs.length ≤ m) :
    Carried s (s.markedWrite a bs) n k ws where
  bytes _ hb := markedWrite_outside hMem hLen hb
  units j := by rw [markedWrite_reach]
  nmu := markedWrite_keeps State.nmu writeLine_nmu s a bs
  device := markedWrite_device s a bs
  going := by rw [markedWrite_reach]

theorem notePoison_carried (j a m : Nat) : Carried s (s.notePoison j a m) n k ws := by
  obtain ⟨l, h⟩ := Frames.notePoison_lkp s j a m
  rw [h]
  exact ⟨fun _ _ => rfl, fun _ => rfl, rfl, ⟨rfl, rfl, rfl, rfl, rfl, rfl, rfl, rfl, rfl, rfl, rfl, rfl, rfl, rfl, rfl⟩, rfl⟩

/-- A change of a barge that does not touch its place in flight. -/
theorem modBarge_carried (f : Barge → Barge) (h : ∀ g, ((f g).busy, (f g).moved) = (g.busy, g.moved)) :
    Carried s (s.modBarge (.reach n k) f) n k ws := by
  refine ⟨fun _ _ => rfl, fun j => ?_, rfl, ⟨rfl, rfl, rfl, rfl, rfl, rfl, rfl, rfl, rfl, rfl, rfl, rfl, rfl, rfl, rfl⟩, ?_⟩
  · by_cases hj : j = n
    · subst hj
      rw [State.modBarge, modReach_same]
    · rw [State.modBarge, modReach_ne _ hj]
  · rw [State.modBarge, modReach_same]
    simp only [Vector.getElem_set_self, Fin.getElem_fin]
    exact h _

theorem digestTakes_carried (dig : Bool) (row : List MByte) : Carried s (s.digestTakes (.reach n k) dig row) n k ws := by
  unfold State.digestTakes
  split
  · exact modBarge_carried _ fun _ => rfl
  · exact .refl s

theorem raise_carried (e : Ev) : Carried s (s.raise e) n k ws :=
  ⟨fun _ _ => rfl, fun _ => rfl, rfl, (raise_beside s e).device, rfl⟩

theorem bargeInexact_carried (g : Barge) (sigma : Int) (a : Nat) : Carried s (s.bargeInexact (.reach n k) g sigma a) n k ws :=
  (raise_carried _).trans (modBarge_carried (fun g => { g with code := 0x0205 }) fun _ => rfl)

/-! ### Elements of rows (02 R41, R42; 03 R76) -/

theorem width_cases (d : BDesc) : d.width = 4 ∨ d.width = 8 ∨ d.width = 16 ∨ d.width = 32 := by
  unfold BDesc.width
  cases fmtOf d.fmt <;> simp [Fmt.width]

theorem readNat_one (s : State) (a : Nat) : s.readNat a 1 = (s.byte a).toNat := by
  simp [State.readNat, State.read, leNat]

theorem rowCode_congr (h : ∀ b, u.byte b = s.byte b) (w a i : Nat) : u.rowCode w a i = s.rowCode w a i := by
  simp only [State.rowCode, State.readNat, read_congr h]

theorem plain_markedRead (s : State) (a m : Nat) : plain (s.markedRead a m) = s.read a m := by
  simp only [plain, State.markedRead, State.read, List.map_map]
  rfl

theorem markedRead_length (s : State) (a m : Nat) : (s.markedRead a m).length = m := by simp [State.markedRead]

/-- Bytes of a longer read. -/
theorem read_drop_take (s : State) (a m i c : Nat) (h : i + c ≤ m) : ((s.read a m).drop i).take c = s.read (a + i) c := by
  refine List.ext_getElem ?_ fun j h1 h2 => ?_
  · simp only [State.read, List.length_take, List.length_drop, List.length_map, List.length_range]
    omega
  · simp only [State.read, List.getElem_take, List.getElem_drop, List.getElem_map, List.getElem_range, Nat.add_assoc]

/-- An element of a row that was read is the row's code. -/
theorem rowElem_read (s : State) {w a m i : Nat} (hw : w = 4 ∨ w = 8 ∨ w = 16 ∨ w = 32) (h : (i + 1) * w ≤ 8 * m) :
    (rowElem w (s.markedRead a m) i).1 = s.rowCode w a i := by
  by_cases h4 : w = 4
  · subst h4
    have hIn : i / 2 < m := by omega
    have hAt : (s.markedRead a m)[i / 2]? = some (s.byte (a + i / 2), s.poisoned ((a + i / 2) / 64)) := by
      simp [State.markedRead, hIn]
    rw [rowElem, if_pos rfl, hAt, State.rowCode, if_pos rfl, readNat_one]
    rfl
  · rw [rowElem, if_neg h4, State.rowCode, if_neg h4]
    change leNat ((((s.markedRead a m).drop _).take _).map _) = _
    rw [List.map_take, List.map_drop]
    change leNat (((plain (s.markedRead a m)).drop _).take _) = _
    have hFits : w / 8 * i + w / 8 ≤ m := by
      rcases hw with rfl | rfl | rfl | rfl <;> omega
    rw [plain_markedRead, read_drop_take s a m _ _ hFits, Nat.mul_comm]
    rfl

theorem rowCode_lt (s : State) {w : Nat} (hw : w = 4 ∨ w = 8 ∨ w = 16 ∨ w = 32) (a i : Nat) : s.rowCode w a i < 2 ^ w := by
  by_cases h4 : w = 4
  · subst h4
    rw [State.rowCode, if_pos rfl]
    exact Nat.mod_lt _ (by decide)
  · rw [State.rowCode, if_neg h4]
    have hLt : s.readNat (a + i * (w / 8)) (w / 8) < 256 ^ (w / 8) := VectorMemory.leNat_lt_of_length (by simp [State.read])
    have hPow : 256 ^ (w / 8) = 2 ^ w := by
      rcases hw with rfl | rfl | rfl | rfl <;> simp at h4 ⊢
    omega

theorem bytesAre_append {a : Nat} {xs ys : List Byte} (h : BytesAre t a (xs ++ ys)) : BytesAre t a xs ∧ BytesAre t (a + xs.length) ys := by
  refine ⟨fun i hi => ?_, fun i hi => ?_⟩
  · have := h i (by rw [List.length_append]; omega)
    rwa [List.getElem_append_left hi] at this
  · have := h (xs.length + i) (by rw [List.length_append]; omega)
    rw [List.getElem_append_right (by omega)] at this
    rw [Nat.add_assoc, this]
    congr 1
    omega

theorem read_of_are {a : Nat} {bs : List Byte} (h : BytesAre t a bs) : t.read a bs.length = bs :=
  List.ext_getElem (by simp [State.read]) fun i _ hi => by simpa [State.read] using h i hi

/-- Elements of whole bytes, packed, read back. -/
theorem rowCode_packed_bytes {w : Nat} (h4 : w ≠ 4) (hPow : 256 ^ (w / 8) = 2 ^ w) {es : List (Nat × Bool)} {a : Nat}
    (hSmall : ∀ e ∈ es, e.1 < 2 ^ w) (hAre : BytesAre t a (plain (packElems w es))) {i : Nat} (hi : i < es.length) :
    t.rowCode w a i = es[i].1 := by
  induction es generalizing a i with
  | nil => exact absurd hi (by simp)
  | cons e es ih =>
    have hPack : plain (packElems w (e :: es)) = leBytes (w / 8) e.1 ++ plain (packElems w es) := by
      cases es with
      | nil => simp [packElems, h4, plain, Function.comp_def]
      | cons f es => simp [packElems, h4, plain, Function.comp_def]
    rw [hPack] at hAre
    obtain ⟨hHead, hTail⟩ := bytesAre_append hAre
    rw [length_leBytes] at hTail
    cases i with
    | zero =>
      have hRead := read_of_are hHead
      rw [length_leBytes] at hRead
      have hLt := hSmall e List.mem_cons_self
      rw [State.rowCode, if_neg h4, Nat.zero_mul, Nat.add_zero, State.readNat, hRead, leNat_leBytes, hPow, Nat.mod_eq_of_lt hLt]
      rfl
    | succ i =>
      have hNext := ih (fun f hf => hSmall f (List.mem_cons_of_mem _ hf)) hTail (i := i) (by simpa using hi)
      rw [State.rowCode, if_neg h4] at hNext ⊢
      rw [List.getElem_cons_succ, ← hNext]
      congr 1
      ring

/-- Elements of 4 bits, packed two to a byte, read back. -/
theorem rowCode_packed_nibbles {es : List (Nat × Bool)} {a : Nat} (hSmall : ∀ e ∈ es, e.1 < 16)
    (hAre : BytesAre t a (plain (packElems 4 es))) {i : Nat} (hi : i < es.length) : t.rowCode 4 a i = es[i].1 := by
  match es, i, hi with
  | [x], 0, _ =>
    have hByte : t.byte a = BitVec.ofNat 8 x.1 := hAre 0 (by simp [packElems])
    have hx := hSmall x (by simp)
    rw [State.rowCode, if_pos rfl, readNat_one]
    change bits (t.byte a).toNat 0 4 = x.1
    rw [hByte, BitVec.toNat_ofNat, bits]
    omega
  | x :: y :: es, i, hi =>
    have hx := hSmall x (by simp)
    have hy := hSmall y (by simp)
    have hPack : plain (packElems 4 (x :: y :: es)) = [BitVec.ofNat 8 (x.1 + 16 * y.1)] ++ plain (packElems 4 es) := rfl
    rw [hPack] at hAre
    obtain ⟨hHead, hTail⟩ := bytesAre_append hAre
    have hByte : t.byte a = BitVec.ofNat 8 (x.1 + 16 * y.1) := hHead 0 (by simp)
    match i, hi with
    | 0, _ =>
      rw [State.rowCode, if_pos rfl, readNat_one]
      change bits (t.byte a).toNat 0 4 = x.1
      rw [hByte, BitVec.toNat_ofNat, bits]
      omega
    | 1, _ =>
      rw [State.rowCode, if_pos rfl, readNat_one]
      change bits (t.byte a).toNat 4 4 = y.1
      rw [hByte, BitVec.toNat_ofNat, bits]
      omega
    | i + 2, hi =>
      have hNext := rowCode_packed_nibbles (fun f hf => hSmall f (by simp [hf])) hTail (i := i) (by simpa using hi)
      rw [State.rowCode, if_pos rfl] at hNext ⊢
      have hAt : a + (i + 2) / 2 = a + [BitVec.ofNat 8 (x.1 + 16 * y.1)].length + i / 2 := by
        simp only [List.length_singleton]
        omega
      rw [hAt, Nat.add_mod_right]
      exact hNext

theorem rowCode_packed {w : Nat} (hw : w = 4 ∨ w = 8 ∨ w = 16 ∨ w = 32) {es : List (Nat × Bool)} {a : Nat}
    (hSmall : ∀ e ∈ es, e.1 < 2 ^ w) (hAre : BytesAre t a (plain (packElems w es))) {i : Nat} (hi : i < es.length) :
    t.rowCode w a i = es[i].1 := by
  rcases hw with rfl | rfl | rfl | rfl
  · exact rowCode_packed_nibbles hSmall hAre hi
  · exact rowCode_packed_bytes (by decide) rfl hSmall hAre hi
  · exact rowCode_packed_bytes (by decide) rfl hSmall hAre hi
  · exact rowCode_packed_bytes (by decide) rfl hSmall hAre hi

theorem packElems_length_bytes {w : Nat} (h4 : w ≠ 4) (es : List (Nat × Bool)) : (packElems w es).length = es.length * (w / 8) := by
  induction es with
  | nil => simp [packElems]
  | cons e es ih =>
    cases es with
    | nil => simp [packElems, h4]
    | cons f es =>
      rw [packElems, if_neg h4, List.length_append, ih, List.length_map, length_leBytes, List.length_cons]
      simp only [List.length_cons]
      ring

theorem packElems_length_nibbles (es : List (Nat × Bool)) : (packElems 4 es).length = (es.length + 1) / 2 := by
  match es with
  | [] => rfl
  | [x] => simp [packElems]
  | x :: y :: es =>
    change (packElems 4 es).length + 1 = _
    rw [packElems_length_nibbles es]
    simp only [List.length_cons]
    omega

/-! ### Dispatch within device memory (11 R375) -/

/-- A barge within device memory that dispatches at once. -/
structure Within (s : State) (n k : Fin 16) (g : Barge) (d : BDesc) : Prop where
  at_    : s.reach[n].barges[k] = g
  desc   : BDesc.ofBytes g.desc = d
  keyed  : AllKeyed s
  busy   : g.busy = true
  moved  : g.moved = false
  ssp    : d.ssp = 0
  dsp    : d.dsp = 0
  form   : s.descBad (.reach n k) g d = false
  range  : s.badRange (.reach n k) g d = none
  first  : s.bargeBehind (.reach n k) g d = false
  apart  : ApartFrom d.reads d.writes
  writes : Apart d.writes

variable {g : Barge}

/-- The transfer of a barge, from the state where it has begun. -/
def transfer (s : State) (n k : Fin 16) (g : Barge) (d : BDesc) (input : List Byte) : State :=
  if d.kind ≠ 1 then (begun s n k d).moveKind (.reach n k) g d
  else ((begun s n k d).copyRows (.reach n k) d ((begun s n k d).bargeCtx (.reach n k) g) g.job input 0 d.rows).1

/-- A row of a COPY within device memory. -/
def rowMoved (s : State) (n k : Fin 16) (d : BDesc) (job r : Nat) : State :=
  ((s.notePoison job (d.src + r * d.spitch) d.rowBytes).digestTakes (.reach n k) d.dig
    (s.markedRead (d.src + r * d.spitch) d.rowBytes)).markedWrite (d.dst + r * d.dpitch)
    (s.markedRead (d.src + r * d.spitch) d.rowBytes)

/-- A COPY within device memory moves row after row, and nothing stops it. -/
theorem copyRows_device (hSsp : d.ssp = 0) (hDsp : d.dsp = 0) (ctx job : Nat) (input : List Byte) (r rows : Nat) :
    s.copyRows (.reach n k) d ctx job input r rows = ((List.range' r rows).foldl (fun s r => rowMoved s n k d job r) s, false) := by
  induction rows generalizing s r with
  | zero => rfl
  | succ rows ih =>
    have hRow : s.copyRows (.reach n k) d ctx job input r (rows + 1) =
        (rowMoved s n k d job r).copyRows (.reach n k) d ctx job input (r + 1) rows := by
      simp only [State.copyRows, State.putRow, State.srcRow, hSsp, hDsp, BargeEnds.bargeWrote_reach, if_true]
      rfl
    rw [hRow, ih, List.range'_succ, List.foldl_cons]

theorem dispatch_within (h : Within s n k g d) {kinds : Nat → Bool} (hKind : kinds d.kind = true) (input : List Byte) :
    s.dispatch (.reach n k) kinds input false = transfer s n k g d input := by
  obtain ⟨hAt, hDesc, -, hBusy, hMoved, hSsp, hDsp, hForm, hRange, hFirst, -, -⟩ := h
  have hBarge : s.bargeAt (.reach n k) = some g := congrArg some hAt
  have hLink : s.bargeLink d = 0 := by simp [State.bargeLink, hSsp, hDsp]
  have hSpace : ((0 : Nat) == 1) = false := rfl
  have hNot : ¬ (0 : Nat) = 2 := by decide
  simp only [State.dispatch, hBarge, hDesc, hBusy, hMoved, hKind, hSsp, hForm, hLink, hFirst, hRange, hSpace, hNot, Bool.not_true,
    Bool.false_and, Bool.and_false, Bool.or_self, Bool.false_eq_true, ne_eq, not_true_eq_false, false_and, if_false]
  unfold transfer
  by_cases hCopy : d.kind = 1
  · simp only [hCopy, not_true_eq_false, if_false]
    have hRows := copyRows_device (s := begun s n k d) (n := n) (k := k) hSsp hDsp ((begun s n k d).bargeCtx (.reach n k) g) g.job input 0 d.rows
    have hStop : (State.copyRows (begun s n k d) (.reach n k) d ((begun s n k d).bargeCtx (.reach n k) g) g.job input 0 d.rows).2 = false := by
      rw [hRows]
    simp only [begun, passed] at hStop ⊢
    simp only [hStop, Bool.false_eq_true, if_false]
    rfl
  · rw [if_pos hCopy, if_pos hCopy]
    rfl

theorem begun_byte (h : Within s n k g d) (b : Nat) : (begun s n k d).byte b = s.byte b := (passed_accessed s d).byte h.keyed b

/-- What a transfer leaves after the barge has begun, it leaves of the state before. -/
theorem carried_of_begun (h : Within s n k g d) (hCarried : Carried (begun s n k d) u n k d.writes) :
    BytesKept s u d.writes ∧ u.reach[n].barges[k].busy = true ∧ u.reach[n].barges[k].moved = true ∧
      (∀ j : Fin 16, u.reach[j].u = s.reach[j].u) ∧ u.nmu = s.nmu ∧ DeviceKept s u := by
  have hPassed := passed_accessed s d
  have hReach : (begun s n k d).reach[n].barges[k] = { g with moved := true } := by
    rw [begun, State.modBarge, modReach_same, hPassed.reach]
    simp only [Vector.getElem_set_self, Fin.getElem_fin]
    rw [← h.at_]
    rfl
  have hGoing := hCarried.going
  rw [hReach] at hGoing
  have hBusy : u.reach[n].barges[k].busy = true := (congrArg Prod.fst hGoing).trans h.busy
  have hMoved : u.reach[n].barges[k].moved = true := congrArg Prod.snd hGoing
  refine ⟨fun b _ hb => (hCarried.bytes b hb).trans (begun_byte h b), hBusy, hMoved, fun j => (hCarried.units j).trans ?_,
    hCarried.nmu.trans ?_, deviceKept_trans ?_ hCarried.device⟩
  · by_cases hj : j = n
    · subst hj
      rw [begun, State.modBarge, modReach_same, hPassed.reach]
    · rw [begun, State.modBarge, modReach_ne _ hj, hPassed.reach]
  · exact hPassed.nmu
  · exact hPassed.device

/-! ### COPY (11 R377) -/

theorem reads_row (hKind : d.kind ≠ 5) (hSsp : d.ssp = 0) {r : Nat} (hr : r < d.rows) : (d.src + r * d.spitch, d.rowBytes) ∈ d.reads := by
  rw [BDesc.reads, if_pos ⟨hKind, hSsp⟩]
  exact List.mem_map.mpr ⟨r, List.mem_range.mpr hr, rfl⟩

theorem outside_row (h : Within s n k g d) (hKind : d.kind ≠ 5) {r : Nat} (hr : r < d.rows) {i : Nat} (hi : i < d.rowBytes) :
    Outside d.writes (d.src + r * d.spitch + i) := by
  intro w hw
  have := h.apart _ (reads_row hKind h.ssp hr) w hw
  dsimp only at this
  omega

/-- The rows of a COPY or a ZERO. -/
def rowSpan (d : BDesc) (r : Nat) : List (Nat × Nat) := [(d.dst + r * d.dpitch, d.rowBytes)]

theorem writes_rows (hDsp : d.dsp = 0) (hKind : d.kind = 1 ∨ d.kind = 5) :
    d.writes = ((List.range d.rows).map fun r => (d.dst + r * d.dpitch, d.rowBytes)) ++ if d.dig then [(d.diga, 32)] else [] := by
  rcases hKind with h | h
  · rw [BDesc.writes, hDsp, h]
    rfl
  · rw [BDesc.writes, hDsp, h]
    rfl

theorem row_mem (hDsp : d.dsp = 0) (hKind : d.kind = 1 ∨ d.kind = 5) {r : Nat} (hr : r < d.rows) :
    (d.dst + r * d.dpitch, d.rowBytes) ∈ d.writes := by
  rw [writes_rows hDsp hKind]
  exact List.mem_append_left _ (List.mem_map.mpr ⟨r, List.mem_range.mpr hr, rfl⟩)

theorem apartFrom_single {x y : Nat × Nat} : ApartFrom [x] [y] ↔ x.1 + x.2 ≤ y.1 ∨ y.1 + y.2 ≤ x.1 := by
  simp [ApartFrom]

theorem rows_apart (h : Within s n k g d) (hKind : d.kind = 1 ∨ d.kind = 5) :
    (List.range d.rows).Pairwise fun x y => ApartFrom (rowSpan d x) (rowSpan d y) := by
  have hWrites := h.writes
  rw [Apart, writes_rows h.dsp hKind, List.pairwise_append] at hWrites
  exact (List.pairwise_map.mp hWrites.1).imp fun hxy => apartFrom_single.mpr hxy

theorem rowMoved_carried (h : Within s n k g d) (hKind : d.kind = 1) (t : State) (job : Nat) {r : Nat} (hr : r < d.rows) :
    Carried t (rowMoved t n k d job r) n k d.writes :=
  ((notePoison_carried _ _ _).trans (digestTakes_carried _ _)).trans
    (markedWrite_carried (row_mem h.dsp (.inl hKind) hr) (by rw [markedRead_length]))

theorem copy_gives (h : Within s n k g d) (hKind : d.kind = 1) (input : List Byte) : let u := transfer s n k g d input
    Carried (begun s n k d) u n k d.writes ∧
      ∀ r < d.rows, BytesAre u (d.dst + r * d.dpitch) (s.read (d.src + r * d.spitch) d.rowBytes) := by
  have hTransfer : transfer s n k g d input = (List.range d.rows).foldl (fun t r => rowMoved t n k d g.job r) (begun s n k d) := by
    rw [transfer, if_neg (by rw [hKind]; decide), copyRows_device h.ssp h.dsp, List.range_eq_range']
  intro u
  change Carried _ (transfer s n k g d input) _ _ _ ∧ ∀ r < d.rows, BytesAre (transfer s n k g d input) _ _
  rw [hTransfer]
  have hRows : ∀ t, ∀ r ∈ List.range d.rows, Carried t (rowMoved t n k d g.job r) n k d.writes :=
    fun t r hr => rowMoved_carried h hKind t g.job (List.mem_range.mp hr)
  have hKind5 : d.kind ≠ 5 := by omega
  refine ⟨Carried.fold hRows, fun r hr => ?_⟩
  refine fold_content (spans := rowSpan d) (P := fun r t => BytesAre t (d.dst + r * d.dpitch) (s.read (d.src + r * d.spitch) d.rowBytes))
    (I := fun t => ∀ r < d.rows, ∀ i < d.rowBytes, t.byte (d.src + r * d.spitch + i) = s.byte (d.src + r * d.spitch + i))
    (fun t x hx hI r hr i hi => ?_) (fun t x hx hI => ?_) (fun t x hx b hb => ?_) (fun x t u hSame hAre => ?_) (rows_apart h (.inl hKind))
    (fun r hr i hi => begun_byte h _) r (List.mem_range.mpr hr)
  · exact ((hRows t x hx).bytes _ (outside_row h hKind5 hr hi)).trans (hI r hr i hi)
  · have hRead : t.read (d.src + x * d.spitch) d.rowBytes = s.read (d.src + x * d.spitch) d.rowBytes :=
      VectorMemory.read_eq_of_bytes fun i hi => hI x (List.mem_range.mp hx) i hi
    rw [← hRead, ← plain_markedRead]
    exact markedWrite_are _ _ _
  · have hNote := (notePoison_carried (s := t) (n := n) (k := k) (ws := rowSpan d x) g.job (d.src + x * d.spitch) d.rowBytes).trans
      (digestTakes_carried d.dig (t.markedRead (d.src + x * d.spitch) d.rowBytes))
    exact (markedWrite_outside List.mem_cons_self (by rw [markedRead_length]) hb).trans (hNote.bytes b hb)
  · refine bytesAre_congr (fun b hlo hhi => hSame b fun hOut => ?_) hAre
    have := hOut _ List.mem_cons_self
    simp only [State.read, List.length_map, List.length_range] at hhi
    dsimp only at this
    omega

/-! ### ZERO (11 R377) -/

theorem zero_gives (h : Within s n k g d) (hKind : d.kind = 5) : let u := transfer s n k g d []
    Carried (begun s n k d) u n k d.writes ∧ ∀ r < d.rows, BytesAre u (d.dst + r * d.dpitch) (List.replicate d.rowBytes 0) := by
  have hTransfer : transfer s n k g d [] = (List.range d.rows).foldl
      (fun t r => t.markedWrite (d.dst + r * d.dpitch) (List.replicate d.rowBytes (0, false))) (begun s n k d) := by
    rw [transfer, if_pos (by rw [hKind]; decide)]
    simp only [State.moveKind, hKind, BargeEnds.bargeWrote_reach, if_true]
  intro u
  change Carried _ (transfer s n k g d []) _ _ _ ∧ ∀ r < d.rows, BytesAre (transfer s n k g d []) _ _
  rw [hTransfer]
  have hRows : ∀ t, ∀ r ∈ List.range d.rows,
      Carried t (t.markedWrite (d.dst + r * d.dpitch) (List.replicate d.rowBytes (0, false))) n k d.writes :=
    fun t r hr => markedWrite_carried (row_mem h.dsp (.inr hKind) (List.mem_range.mp hr)) (by rw [List.length_replicate])
  refine ⟨Carried.fold hRows, fun r hr => ?_⟩
  refine fold_content (spans := rowSpan d) (P := fun r t => BytesAre t (d.dst + r * d.dpitch) (List.replicate d.rowBytes 0))
    (I := fun _ => True) (fun _ _ _ _ => trivial) (fun t x hx _ => ?_) (fun t x hx b hb => ?_) (fun x t u hSame hAre => ?_)
    (rows_apart h (.inr hKind)) trivial r (List.mem_range.mpr hr)
  · have hAre := markedWrite_are t (d.dst + x * d.dpitch) (List.replicate d.rowBytes (0, false))
    rwa [plain, List.map_replicate] at hAre
  · exact markedWrite_outside List.mem_cons_self (by rw [List.length_replicate]) hb
  · refine bytesAre_congr (fun b hlo hhi => hSame b fun hOut => ?_) hAre
    have := hOut _ List.mem_cons_self
    rw [List.length_replicate] at hhi
    dsimp only at this
    omega

/-! ### Kinds that rearrange their rows (11 R377; 04 R141) -/

/-- The poison of the rows has been noted, and their bytes are in the digest. -/
def prepared (t : State) (n k : Fin 16) (g : Barge) (d : BDesc) : State :=
  (t.srcRows d).foldl (fun (s : State) row => s.digestTakes (.reach n k) d.dig row)
    ((List.range d.rows).foldl (fun (s : State) r => s.notePoison g.job (d.src + r * d.spitch) d.rowBytes) t)

theorem prepared_carried (t : State) (g : Barge) : Carried t (prepared t n k g d) n k ws :=
  (Carried.fold fun _ _ _ => notePoison_carried _ _ _).trans (Carried.fold fun _ _ _ => digestTakes_carried _ _)

theorem srcRows_eq (hSsp : d.ssp = 0) (t : State) :
    t.srcRows d = (List.range d.rows).map fun r => t.markedRead (d.src + r * d.spitch) d.rowBytes := by
  refine List.map_congr_left fun r _ => ?_
  rw [State.srcRow, if_pos hSsp]

/-- Element i of the rows, one below the other. -/
def column (t : State) (d : BDesc) (i : Nat) : List (Nat × Bool) := (t.srcRows d).map fun row => rowElem d.width row i

theorem column_length (t : State) (d : BDesc) (i : Nat) : (column t d i).length = d.rows := by simp [column, State.srcRows]

theorem elems_fit {i : Nat} (hi : i < d.elems) : (i + 1) * d.width ≤ 8 * d.rowBytes := by
  have hLe : (i + 1) * d.width ≤ d.rowBytes * 8 / d.width * d.width := Nat.mul_le_mul_right _ hi
  have := Nat.div_mul_le_self (d.rowBytes * 8) d.width
  omega

/-- The elements of a column are those of the rows as they stood before the barge. -/
theorem column_elem (h : Within s n k g d) {i r : Nat} (hi : i < d.elems) (hr : r < (column (begun s n k d) d i).length) :
    (column (begun s n k d) d i)[r].1 = s.rowCode d.width (d.src + r * d.spitch) i := by
  have hElem := rowElem_read (begun s n k d) (width_cases d) (a := d.src + r * d.spitch) (elems_fit hi)
  rw [rowCode_congr (begun_byte h)] at hElem
  simp only [column, srcRows_eq h.ssp, List.getElem_map, List.getElem_range]
  exact hElem

theorem column_small (h : Within s n k g d) {i : Nat} (hi : i < d.elems) : ∀ e ∈ column (begun s n k d) d i, e.1 < 2 ^ d.width := by
  intro e he
  obtain ⟨r, hr, rfl⟩ := List.mem_iff_getElem.mp he
  rw [column_elem h hi]
  exact rowCode_lt s (width_cases d) _ _

/-! ### LANEMAJOR -/

/-- Column j of a lane-major tile, padded to 128 lanes (03 R76). -/
def laneColumn (t : State) (d : BDesc) (j : Nat) : List (Nat × Bool) := column t d j ++ List.replicate (128 - d.rows) (0, false)

theorem lanemajor_form (h : Within s n k g d) (hKind : d.kind = 2) : d.rows ≤ 128 := by
  have hForm := h.form
  simp [State.descBad, BDesc.bad, hKind] at hForm
  omega

theorem laneColumn_packed (t : State) (d : BDesc) (hRows : d.rows ≤ 128) (j : Nat) :
    (packElems d.width (laneColumn t d j)).length = d.cbytes := by
  have hLen : (laneColumn t d j).length = 128 := by
    rw [laneColumn, List.length_append, column_length, List.length_replicate]
    omega
  have hBytes : d.cbytes = 128 * d.width / 8 := by
    simp only [BDesc.cbytes, BDesc.width, bytesOf, fmtOf]
    cases Fmt.ofCode d.fmt with
    | none => rfl
    | some f => cases f <;> rfl
  rw [hBytes]
  rcases width_cases d with hw | hw | hw | hw
  · rw [hw, packElems_length_nibbles, hLen]
  · rw [hw, packElems_length_bytes (by decide), hLen]
  · rw [hw, packElems_length_bytes (by decide), hLen]
  · rw [hw, packElems_length_bytes (by decide), hLen]

theorem lanemajor_gives (h : Within s n k g d) (hKind : d.kind = 2) : let u := transfer s n k g d []
    Carried (begun s n k d) u n k d.writes ∧ ∀ j < d.elems,
      BytesAre u (d.dst + j * d.cbytes) (plain (packElems d.width (laneColumn (begun s n k d) d j))) := by
  have hRows := lanemajor_form h hKind
  have hTransfer : transfer s n k g d [] = (List.range d.elems).foldl
      (fun t j => t.markedWrite (d.dst + j * d.cbytes) (packElems d.width (laneColumn (begun s n k d) d j)))
      (prepared (begun s n k d) n k g d) := by
    rw [transfer, if_pos (by rw [hKind]; decide)]
    simp only [State.moveKind, hKind, BargeEnds.bargeWrote_reach]
    rfl
  intro u
  change Carried _ (transfer s n k g d []) _ _ _ ∧ ∀ j < d.elems, BytesAre (transfer s n k g d []) _ _
  rw [hTransfer]
  have hLen (j : Nat) := laneColumn_packed (begun s n k d) d hRows j
  have hWrites : d.writes = [(d.dst, d.elems * d.cbytes)] ++ if d.dig then [(d.diga, 32)] else [] := by
    rw [BDesc.writes, h.dsp, hKind]
    rfl
  have hInside {b j : Nat} (hj : j < d.elems) (hb : Outside d.writes b) : Outside [(d.dst + j * d.cbytes, d.cbytes)] b := by
    intro w hw
    have hAll := hb (d.dst, d.elems * d.cbytes) (by rw [hWrites]; exact List.mem_cons_self)
    have hFits : j * d.cbytes + d.cbytes ≤ d.elems * d.cbytes := by
      have := Nat.mul_le_mul_right d.cbytes (show j + 1 ≤ d.elems from hj)
      rwa [Nat.succ_mul] at this
    obtain rfl := List.mem_singleton.mp hw
    dsimp only at hAll ⊢
    omega
  have hColumns : ∀ t, ∀ j ∈ List.range d.elems, Carried t
      (t.markedWrite (d.dst + j * d.cbytes) (packElems d.width (laneColumn (begun s n k d) d j))) n k d.writes := by
    intro t j hj
    have hOne := markedWrite_carried (s := t) (n := n) (k := k) (ws := [(d.dst + j * d.cbytes, d.cbytes)]) List.mem_cons_self (hLen j).le
    exact ⟨fun b hb => hOne.bytes b (hInside (List.mem_range.mp hj) hb), hOne.units, hOne.nmu, hOne.device, hOne.going⟩
  refine ⟨(prepared_carried _ g).trans (Carried.fold hColumns), fun j hj => ?_⟩
  refine fold_content (spans := fun j => [(d.dst + j * d.cbytes, d.cbytes)])
    (P := fun j t => BytesAre t (d.dst + j * d.cbytes) (plain (packElems d.width (laneColumn (begun s n k d) d j))))
    (I := fun _ => True) (fun _ _ _ _ => trivial) (fun t x hx _ => markedWrite_are _ _ _)
    (fun t x hx b hb => markedWrite_outside List.mem_cons_self (hLen x).le hb) (fun x t u hSame hAre => ?_) ?_ trivial j (List.mem_range.mpr hj)
  · refine bytesAre_congr (fun b hlo hhi => hSame b fun hOut => ?_) hAre
    have := hOut _ List.mem_cons_self
    rw [List.length_map, hLen] at hhi
    dsimp only at this
    omega
  · refine List.pairwise_lt_range.imp fun {x y} hxy => apartFrom_single.mpr (.inl ?_)
    have := Nat.mul_le_mul_right d.cbytes (show x + 1 ≤ y from hxy)
    rw [Nat.succ_mul] at this
    dsimp only
    omega

theorem lanemajor_codes (h : Within s n k g d) (hKind : d.kind = 2) {j i : Nat} (hj : j < d.elems) (hi : i < 128) :
    (transfer s n k g d []).rowCode d.width (d.dst + j * d.cbytes) i =
      if i < d.rows then s.rowCode d.width (d.src + i * d.spitch) j else 0 := by
  have hRows := lanemajor_form h hKind
  have hAre := (lanemajor_gives h hKind).2 j hj
  have hLen : (laneColumn (begun s n k d) d j).length = 128 := by
    rw [laneColumn, List.length_append, column_length, List.length_replicate]
    omega
  have hSmall : ∀ e ∈ laneColumn (begun s n k d) d j, e.1 < 2 ^ d.width := by
    intro e he
    rcases List.mem_append.mp he with he | he
    · exact column_small h hj e he
    · rw [(List.mem_replicate.mp he).2]
      exact Nat.two_pow_pos _
  rw [rowCode_packed (width_cases d) hSmall hAre (by omega)]
  unfold laneColumn
  split
  next hIn =>
    rw [List.getElem_append_left (by rw [column_length]; exact hIn)]
    exact column_elem h hj _
  next hOut =>
    rw [List.getElem_append_right (by rw [column_length]; omega), List.getElem_replicate]

/-! ### TRANSPOSE -/

theorem transpose_form (h : Within s n k g d) (hKind : d.kind = 3) : d.width ≠ 4 := by
  have hForm := h.form
  simp [State.descBad, BDesc.bad, hKind] at hForm
  omega

theorem transpose_gives (h : Within s n k g d) (hKind : d.kind = 3) : let u := transfer s n k g d []
    Carried (begun s n k d) u n k d.writes ∧ ∀ i < d.elems,
      BytesAre u (d.dst + i * d.dpitch) (plain (packElems d.width (column (begun s n k d) d i))) := by
  have h4 := transpose_form h hKind
  have hTransfer : transfer s n k g d [] = (List.range d.elems).foldl
      (fun t i => t.markedWrite (d.dst + i * d.dpitch) (packElems d.width (column (begun s n k d) d i)))
      (prepared (begun s n k d) n k g d) := by
    rw [transfer, if_pos (by rw [hKind]; decide)]
    simp only [State.moveKind, hKind, BargeEnds.bargeWrote_reach]
    rfl
  intro u
  change Carried _ (transfer s n k g d []) _ _ _ ∧ ∀ i < d.elems, BytesAre (transfer s n k g d []) _ _
  rw [hTransfer]
  have hLen (i : Nat) : (packElems d.width (column (begun s n k d) d i)).length = d.rows * (d.width / 8) := by
    rw [packElems_length_bytes h4, column_length]
  have hWrites : d.writes = ((List.range d.elems).map fun i => (d.dst + i * d.dpitch, d.rows * (d.width / 8))) ++
      if d.dig then [(d.diga, 32)] else [] := by
    rw [BDesc.writes, h.dsp, hKind]
    rfl
  have hColumns : ∀ t, ∀ i ∈ List.range d.elems, Carried t
      (t.markedWrite (d.dst + i * d.dpitch) (packElems d.width (column (begun s n k d) d i))) n k d.writes := by
    intro t i hi
    refine markedWrite_carried ?_ (hLen i).le
    rw [hWrites]
    exact List.mem_append_left _ (List.mem_map.mpr ⟨i, hi, rfl⟩)
  refine ⟨(prepared_carried _ g).trans (Carried.fold hColumns), fun i hi => ?_⟩
  refine fold_content (spans := fun i => [(d.dst + i * d.dpitch, d.rows * (d.width / 8))])
    (P := fun i t => BytesAre t (d.dst + i * d.dpitch) (plain (packElems d.width (column (begun s n k d) d i))))
    (I := fun _ => True) (fun _ _ _ _ => trivial) (fun t x hx _ => markedWrite_are _ _ _)
    (fun t x hx b hb => markedWrite_outside List.mem_cons_self (hLen x).le hb) (fun x t u hSame hAre => ?_) ?_ trivial i (List.mem_range.mpr hi)
  · refine bytesAre_congr (fun b hlo hhi => hSame b fun hOut => ?_) hAre
    have := hOut _ List.mem_cons_self
    rw [List.length_map, hLen] at hhi
    dsimp only at this
    omega
  · have hApart := h.writes
    rw [Apart, hWrites, List.pairwise_append] at hApart
    exact (List.pairwise_map.mp hApart.1).imp fun hxy => apartFrom_single.mpr hxy

theorem transpose_codes (h : Within s n k g d) (hKind : d.kind = 3) {r i : Nat} (hr : r < d.rows) (hi : i < d.elems) :
    (transfer s n k g d []).rowCode d.width (d.dst + i * d.dpitch) r = s.rowCode d.width (d.src + r * d.spitch) i := by
  have hAre := (transpose_gives h hKind).2 i hi
  rw [rowCode_packed (width_cases d) (column_small h hi) hAre (by rw [column_length]; exact hr)]
  exact column_elem h hi _

/-! ### SPLIT (04 R141) -/

theorem roundPosit16_lt (v : Val) : (roundPosit 16 v).pat < 2 ^ 16 := by
  cases v with
  | zero z => exact Nat.two_pow_pos 16
  | escape => decide
  | inf z => exact (by decide : 2 ^ (16 - 1) < 2 ^ 16)
  | nan => decide
  | fin x =>
    have hMag : 1 ≤ roundPositMag 16 (rabs x) ∧ roundPositMag 16 (rabs x) ≤ 2 ^ 15 - 1 := by
      unfold roundPositMag
      extract_lets _ _ _ _ _ _ _ r
      split
      · decide
      · split
        · decide
        · omega
    simp only [roundPosit]
    split
    · omega
    · omega

/-- The three pieces are p16 patterns. -/
theorem splitElem_small {sigma : Int} {v : Val} {p : Nat × Nat × Nat} (h : splitElem sigma v = some p) :
    p.1 < 2 ^ 16 ∧ p.2.1 < 2 ^ 16 ∧ p.2.2 < 2 ^ 16 := by
  unfold splitElem at h
  split at h
  · extract_lets y hh dd m l lp at h
    split at h
    · obtain rfl := Option.some.inj h
      exact ⟨roundPosit16_lt _, roundPosit16_lt _, roundPosit16_lt _⟩
    · exact absurd h (by simp)
  · obtain rfl := Option.some.inj h
    decide
  · obtain rfl := Option.some.inj h
    decide
  · obtain rfl := Option.some.inj h
    decide

/-- The values of a row of p32 elements. -/
def rowVals (row : List MByte) : List Val := (List.range (row.length / 4)).map fun i => decode .p32 0 (rowElem 32 row i).1

/-- One piece of every element of a row, as SPLIT packs it. -/
def pieces (row : List MByte) (get : Nat × Nat × Nat → Nat) : List (Nat × Bool) :=
  ((rowVals row).map (splitElem (splitSigma (rowVals row)))).map fun p => ((p.map get).getD 0x8000, row.any (·.2))

theorem splitRow_eq (row : List MByte) : (splitRow row).1 = packElems 16 (pieces row (·.1)) ∧
    (splitRow row).2.1 = packElems 16 (pieces row (·.2.1)) ∧ (splitRow row).2.2.1 = packElems 16 (pieces row (·.2.2)) ∧
    (splitRow row).2.2.2.1 = splitSigma (rowVals row) := ⟨rfl, rfl, rfl, rfl⟩

theorem pieces_length (row : List MByte) (get : Nat × Nat × Nat → Nat) : (pieces row get).length = row.length / 4 := by
  simp [pieces, rowVals]

theorem pieces_small (row : List MByte) {get : Nat × Nat × Nat → Nat}
    (hGet : ∀ p : Nat × Nat × Nat, p.1 < 2 ^ 16 ∧ p.2.1 < 2 ^ 16 ∧ p.2.2 < 2 ^ 16 → get p < 2 ^ 16) :
    ∀ e ∈ pieces row get, e.1 < 2 ^ 16 := by
  intro e he
  simp only [pieces, List.map_map, List.mem_map, Function.comp_apply] at he
  obtain ⟨v, -, rfl⟩ := he
  cases hSplit : splitElem (splitSigma (rowVals row)) v with
  | none => exact (by decide : 0x8000 < 2 ^ 16)
  | some p => exact hGet p (splitElem_small hSplit)

/-- Row r of the source as a split barge finds it. -/
def sourceRow (t : State) (d : BDesc) (r : Nat) : List MByte := t.markedRead (d.src + r * d.spitch) d.rowBytes

/-- The three pieces of a row and its prescale are written. -/
def splitPut (t : State) (d : BDesc) (row : List MByte) (r : Nat) : State :=
  (((t.markedWrite (d.dst + r * d.dpitch) (splitRow row).1).markedWrite (d.dst + r * d.dpitch + d.pstride) (splitRow row).2.1).markedWrite
    (d.dst + r * d.dpitch + 2 * d.pstride) (splitRow row).2.2.1).markedWrite (d.siga + r)
    [(BitVec.ofInt 8 (splitRow row).2.2.2.1, (splitRow row).2.2.2.2.1)]

/-- One row of a split. -/
def splitStep (t : State) (n k : Fin 16) (g : Barge) (d : BDesc) (row : List MByte) (r : Nat) : State :=
  (splitRow row).2.2.2.2.2.foldl
    (fun (s : State) i => s.bargeInexact (.reach n k) g (splitRow row).2.2.2.1 (d.src + r * d.spitch + 4 * i)) (splitPut t d row r)

/-- Where piece p of row r goes. -/
def pieceSpan (d : BDesc) (p r : Nat) : Nat × Nat := (d.dst + p * d.pstride + r * d.dpitch, d.rowBytes / 2)

/-- What a row of a split writes. -/
def splitSpan (d : BDesc) (r : Nat) : List (Nat × Nat) := [pieceSpan d 0 r, pieceSpan d 1 r, pieceSpan d 2 r, (d.siga + r, 1)]

section
variable (h : Within s n k g d) (hKind : d.kind = 4)

include h hKind

theorem split_form : d.rowBytes % 4 = 0 := by
  have hForm := h.form
  simp [State.descBad, BDesc.bad, hKind] at hForm
  omega

theorem writes_split : d.writes = (((List.range d.rows).flatMap fun r => (List.range 3).map fun p => pieceSpan d p r) ++ [(d.siga, d.rows)]) ++
    if d.dig then [(d.diga, 32)] else [] := by
  rw [BDesc.writes, h.dsp, hKind]
  rfl

theorem piece_mem {p r : Nat} (hp : p < 3) (hr : r < d.rows) : pieceSpan d p r ∈ d.writes := by
  rw [writes_split h hKind]
  refine List.mem_append_left _ (List.mem_append_left _ (List.mem_flatMap.mpr ⟨r, List.mem_range.mpr hr, ?_⟩))
  exact List.mem_map.mpr ⟨p, List.mem_range.mpr hp, rfl⟩

theorem siga_mem : (d.siga, d.rows) ∈ d.writes := by
  rw [writes_split h hKind]
  exact List.mem_append_left _ (List.mem_append_right _ List.mem_cons_self)

/-- The spans of a split: pieces of one row, pieces of two rows, pieces and prescales. -/
theorem pieces_apart : (∀ r < d.rows, ∀ p q, p < q → q < 3 → ApartFrom [pieceSpan d p r] [pieceSpan d q r]) ∧
    (∀ r r', r < r' → r' < d.rows → ∀ p < 3, ∀ q < 3, ApartFrom [pieceSpan d p r] [pieceSpan d q r']) ∧
    (∀ r < d.rows, ∀ p < 3, ApartFrom [pieceSpan d p r] [(d.siga, d.rows)]) := by
  have hApart := h.writes
  rw [Apart, writes_split h hKind, List.pairwise_append, List.pairwise_append, List.pairwise_flatMap] at hApart
  obtain ⟨⟨⟨hRow, hRows⟩, -, hSiga⟩, -⟩ := hApart
  refine ⟨fun r hr p q hpq hq => ?_, fun r r' hlt hr' p hp q hq => ?_, fun r hr p hp => ?_⟩
  · have hPieces := List.pairwise_map.mp (hRow r (List.mem_range.mpr hr))
    have hAt := List.pairwise_iff_getElem.mp hPieces p q (by simp; omega) (by simpa using hq) hpq
    simp only [List.getElem_range] at hAt
    exact apartFrom_single.mpr hAt
  · have hAt := List.pairwise_iff_getElem.mp hRows r r' (by simp; omega) (by simpa using hr') hlt
    simp only [List.getElem_range] at hAt
    exact apartFrom_single.mpr (hAt _ (List.mem_map.mpr ⟨p, List.mem_range.mpr hp, rfl⟩) _ (List.mem_map.mpr ⟨q, List.mem_range.mpr hq, rfl⟩))
  · refine apartFrom_single.mpr (hSiga _ (List.mem_flatMap.mpr ⟨r, List.mem_range.mpr hr, ?_⟩) _ List.mem_cons_self)
    exact List.mem_map.mpr ⟨p, List.mem_range.mpr hp, rfl⟩

theorem splitSpans_apart : (List.range d.rows).Pairwise fun x y => ApartFrom (splitSpan d x) (splitSpan d y) := by
  obtain ⟨-, hRows, hSiga⟩ := pieces_apart h hKind
  refine List.Pairwise.imp_of_mem (fun {x y} hx hy hxy => ?_) List.pairwise_lt_range
  have hx := List.mem_range.mp hx
  have hy := List.mem_range.mp hy
  have hPP (p q : Nat) (hp : p < 3) (hq : q < 3) := apartFrom_single.mp (hRows x y hxy hy p hp q hq)
  have hXS (p : Nat) (hp : p < 3) := apartFrom_single.mp (hSiga x hx p hp)
  have hYS (p : Nat) (hp : p < 3) := apartFrom_single.mp (hSiga y hy p hp)
  have h00 := hPP 0 0 (by decide) (by decide); have h01 := hPP 0 1 (by decide) (by decide); have h02 := hPP 0 2 (by decide) (by decide)
  have h10 := hPP 1 0 (by decide) (by decide); have h11 := hPP 1 1 (by decide) (by decide); have h12 := hPP 1 2 (by decide) (by decide)
  have h20 := hPP 2 0 (by decide) (by decide); have h21 := hPP 2 1 (by decide) (by decide); have h22 := hPP 2 2 (by decide) (by decide)
  have hx0 := hXS 0 (by decide); have hx1 := hXS 1 (by decide); have hx2 := hXS 2 (by decide)
  have hy0 := hYS 0 (by decide); have hy1 := hYS 1 (by decide); have hy2 := hYS 2 (by decide)
  dsimp only at hx0 hx1 hx2 hy0 hy1 hy2
  simp only [ApartFrom, splitSpan, List.forall_mem_cons, List.not_mem_nil, false_imp_iff, implies_true, and_true]
  exact ⟨⟨h00, h01, h02, by omega⟩, ⟨h10, h11, h12, by omega⟩, ⟨h20, h21, h22, by omega⟩, by omega, by omega, by omega, by omega⟩

end

theorem are_after_write {a a' : Nat} {bs : List Byte} {bs' : List MByte} (hAre : BytesAre t a bs)
    (hApart : a + bs.length ≤ a' ∨ a' + bs'.length ≤ a) : BytesAre (t.markedWrite a' bs') a bs :=
  bytesAre_congr (fun b _ _ => by rw [markedWrite_byte, if_neg (by omega)]) hAre

/-- What a row of a split leaves at its four places. -/
def SplitAre (d : BDesc) (row : List MByte) (r : Nat) (t : State) : Prop :=
  BytesAre t (d.dst + r * d.dpitch) (plain (splitRow row).1) ∧ BytesAre t (d.dst + r * d.dpitch + d.pstride) (plain (splitRow row).2.1) ∧
    BytesAre t (d.dst + r * d.dpitch + 2 * d.pstride) (plain (splitRow row).2.2.1) ∧
    BytesAre t (d.siga + r) [BitVec.ofInt 8 (splitSigma (rowVals row))]

section
variable (h : Within s n k g d) (hKind : d.kind = 4)

include h hKind

theorem piece_lengths {row : List MByte} (hLen : row.length = d.rowBytes) : (splitRow row).1.length = d.rowBytes / 2 ∧
    (splitRow row).2.1.length = d.rowBytes / 2 ∧ (splitRow row).2.2.1.length = d.rowBytes / 2 := by
  have hForm := split_form h hKind
  obtain ⟨h1, h2, h3, -⟩ := splitRow_eq row
  rw [h1, h2, h3, packElems_length_bytes (by decide), packElems_length_bytes (by decide), packElems_length_bytes (by decide), pieces_length,
    pieces_length, pieces_length, hLen]
  omega

theorem splitPut_are {row : List MByte} (hLen : row.length = d.rowBytes) (t : State) {r : Nat} (hr : r < d.rows) :
    SplitAre d row r (splitPut t d row r) := by
  obtain ⟨h1, h2, h3⟩ := piece_lengths h hKind hLen
  obtain ⟨hRow, -, hSiga⟩ := pieces_apart h hKind
  have h01 := apartFrom_single.mp (hRow r hr 0 1 (by decide) (by decide))
  have h02 := apartFrom_single.mp (hRow r hr 0 2 (by decide) (by decide))
  have h12 := apartFrom_single.mp (hRow r hr 1 2 (by decide) (by decide))
  have hs0 := apartFrom_single.mp (hSiga r hr 0 (by decide))
  have hs1 := apartFrom_single.mp (hSiga r hr 1 (by decide))
  have hs2 := apartFrom_single.mp (hSiga r hr 2 (by decide))
  simp only [pieceSpan] at h01 h02 h12 hs0 hs1 hs2
  refine ⟨?_, ?_, ?_, markedWrite_are _ _ _⟩
  · refine are_after_write (are_after_write (are_after_write (markedWrite_are _ _ _) ?_) ?_) ?_
    · rw [List.length_map, h1, h2]; omega
    · rw [List.length_map, h1, h3]; omega
    · rw [List.length_map, h1, List.length_singleton]; omega
  · refine are_after_write (are_after_write (markedWrite_are _ _ _) ?_) ?_
    · rw [List.length_map, h2, h3]; omega
    · rw [List.length_map, h2, List.length_singleton]; omega
  · refine are_after_write (markedWrite_are _ _ _) ?_
    rw [List.length_map, h3, List.length_singleton]; omega

theorem splitPut_carried {row : List MByte} (hLen : row.length = d.rowBytes) (t : State) {r : Nat} (hSpans : ∀ w ∈ splitSpan d r, w ∈ ws) :
    Carried t (splitPut t d row r) n k ws := by
  obtain ⟨h1, h2, h3⟩ := piece_lengths h hKind hLen
  have hAt (p : Nat) (hp : pieceSpan d p r ∈ splitSpan d r) {a : Nat} (ha : a = d.dst + p * d.pstride + r * d.dpitch) :
      (a, d.rowBytes / 2) ∈ ws := by
    rw [ha]
    exact hSpans _ hp
  refine ((markedWrite_carried (hAt 0 (by simp [splitSpan]) (by ring)) h1.le).trans
    (markedWrite_carried (hAt 1 (by simp [splitSpan]) (by ring)) h2.le)).trans
    ((markedWrite_carried (hAt 2 (by simp [splitSpan]) (by ring)) h3.le).trans
      (markedWrite_carried (hSpans (d.siga + r, 1) (by simp [splitSpan])) (by rw [List.length_singleton])))

theorem splitStep_carried {row : List MByte} (hLen : row.length = d.rowBytes) (t : State) {r : Nat} (hSpans : ∀ w ∈ splitSpan d r, w ∈ ws) :
    Carried t (splitStep t n k g d row r) n k ws :=
  (splitPut_carried h hKind hLen t hSpans).trans (Carried.fold fun _ _ _ => bargeInexact_carried _ _ _)

theorem splitAre_congr {row : List MByte} (hLen : row.length = d.rowBytes) {r : Nat}
    (hSame : ∀ b, ¬Outside (splitSpan d r) b → u.byte b = t.byte b) (hAre : SplitAre d row r t) : SplitAre d row r u := by
  obtain ⟨h1, h2, h3⟩ := piece_lengths h hKind hLen
  obtain ⟨hA, hB, hC, hS⟩ := hAre
  have hIn {w : Nat × Nat} (hw : w ∈ splitSpan d r) {b : Nat} (hLo : w.1 ≤ b) (hHi : b < w.1 + w.2) : u.byte b = t.byte b :=
    hSame b fun hOut => by have := hOut w hw; omega
  have h0 : pieceSpan d 0 r ∈ splitSpan d r := by simp [splitSpan]
  have h1' : pieceSpan d 1 r ∈ splitSpan d r := by simp [splitSpan]
  have h2' : pieceSpan d 2 r ∈ splitSpan d r := by simp [splitSpan]
  have h3' : (d.siga + r, 1) ∈ splitSpan d r := by simp [splitSpan]
  refine ⟨bytesAre_congr (fun b hLo hHi => hIn h0 ?_ ?_) hA, bytesAre_congr (fun b hLo hHi => hIn h1' ?_ ?_) hB,
    bytesAre_congr (fun b hLo hHi => hIn h2' ?_ ?_) hC, bytesAre_congr (fun b hLo hHi => hIn h3' hLo hHi) hS⟩
  all_goals
    rw [List.length_map] at hHi
    simp only [pieceSpan]
    omega

theorem split_gives : let u := transfer s n k g d []
    Carried (begun s n k d) u n k d.writes ∧ ∀ r < d.rows, SplitAre d (sourceRow (begun s n k d) d r) r u := by
  have hRowsEq : ((begun s n k d).srcRows d).zipIdx = (List.range d.rows).map fun r => (sourceRow (begun s n k d) d r, r) := by
    refine List.ext_getElem (by simp [State.srcRows]) fun i h1 h2 => ?_
    simp [srcRows_eq h.ssp, sourceRow]
  have hTransfer : transfer s n k g d [] = (List.range d.rows).foldl
      (fun t r => splitStep t n k g d (sourceRow (begun s n k d) d r) r) (prepared (begun s n k d) n k g d) := by
    rw [transfer, if_pos (by rw [hKind]; decide)]
    simp only [State.moveKind, hKind, BargeEnds.bargeWrote_reach, hRowsEq, List.foldl_map]
    rfl
  intro u
  change Carried _ (transfer s n k g d []) _ _ _ ∧ ∀ r < d.rows, SplitAre d _ r (transfer s n k g d [])
  rw [hTransfer]
  have hLen (r : Nat) : (sourceRow (begun s n k d) d r).length = d.rowBytes := markedRead_length _ _ _
  refine ⟨(prepared_carried _ g).trans (Carried.fold fun t r hr => ?_), fun r hr => ?_⟩
  · have hr := List.mem_range.mp hr
    have hStep := splitStep_carried h hKind (hLen r) t (r := r) (ws := splitSpan d r) fun _ hw => hw
    refine ⟨fun b hb => hStep.bytes b fun w hw => ?_, hStep.units, hStep.nmu, hStep.device, hStep.going⟩
    simp only [splitSpan, List.mem_cons, List.not_mem_nil, or_false] at hw
    rcases hw with rfl | rfl | rfl | rfl
    · exact hb _ (piece_mem h hKind (by decide) hr)
    · exact hb _ (piece_mem h hKind (by decide) hr)
    · exact hb _ (piece_mem h hKind (by decide) hr)
    · have := hb _ (siga_mem h hKind)
      dsimp only at this ⊢
      omega
  · refine fold_content (spans := splitSpan d) (P := fun r t => SplitAre d (sourceRow (begun s n k d) d r) r t) (I := fun _ => True)
      (fun _ _ _ _ => trivial) (fun t x hx _ => ?_) (fun t x hx b hb => ?_) (fun x t u hSame hAre => splitAre_congr h hKind (hLen x) hSame hAre)
      (splitSpans_apart h hKind) trivial r (List.mem_range.mpr hr)
    · refine splitAre_congr h hKind (hLen x) (fun b _ => ?_) (splitPut_are h hKind (hLen x) t (List.mem_range.mp hx))
      exact (Carried.fold (n := n) (k := k) (ws := []) fun _ _ _ => bargeInexact_carried _ _ _).bytes b fun w hw => absurd hw List.not_mem_nil
    · exact (splitStep_carried h hKind (hLen x) t (r := x) (ws := splitSpan d x) fun _ hw => hw).bytes b hb

omit hKind in
/-- The values that a split reads are those of the row as it stood before the barge. -/
theorem rowVals_source (r : Nat) : rowVals (sourceRow (begun s n k d) d r) =
    (List.range (d.rowBytes / 4)).map fun i => decode .p32 0 (s.rowCode 32 (d.src + r * d.spitch) i) := by
  rw [rowVals, sourceRow, markedRead_length]
  refine List.map_congr_left fun i hi => ?_
  have hi := List.mem_range.mp hi
  rw [rowElem_read _ (.inr (.inr (.inr rfl))) (by omega), rowCode_congr (begun_byte h)]

theorem split_codes {r : Nat} (hr : r < d.rows) : let u := transfer s n k g d []
    let x (i : Nat) : Val := decode .p32 0 (s.rowCode 32 (d.src + r * d.spitch) i)
    let sigma := splitSigma ((List.range (d.rowBytes / 4)).map x)
    BytesAre u (d.siga + r) [BitVec.ofInt 8 sigma] ∧
      ∀ i < d.rowBytes / 4, ∀ hh m l, splitElem sigma (x i) = some (hh, m, l) →
        u.rowCode 16 (d.dst + r * d.dpitch) i = hh ∧ u.rowCode 16 (d.dst + d.pstride + r * d.dpitch) i = m ∧
          u.rowCode 16 (d.dst + 2 * d.pstride + r * d.dpitch) i = l := by
  intro u x sigma
  obtain ⟨hA, hB, hC, hS⟩ := (split_gives h hKind).2 r hr
  have hVals := rowVals_source h r
  have hLen : (sourceRow (begun s n k d) d r).length = d.rowBytes := markedRead_length _ _ _
  obtain ⟨hEqA, hEqB, hEqC, -⟩ := splitRow_eq (sourceRow (begun s n k d) d r)
  rw [hEqA] at hA
  rw [hEqB] at hB
  rw [hEqC] at hC
  rw [hVals] at hS
  refine ⟨hS, fun i hi hh m l hSplit => ?_⟩
  have hElem (get : Nat × Nat × Nat → Nat) (hi' : i < (pieces (sourceRow (begun s n k d) d r) get).length) :
      (pieces (sourceRow (begun s n k d) d r) get)[i].1 = get (hh, m, l) := by
    simp only [pieces, hVals, List.getElem_map, List.getElem_range]
    rw [show splitElem (splitSigma ((List.range (d.rowBytes / 4)).map fun i => decode .p32 0 (s.rowCode 32 (d.src + r * d.spitch) i)))
      (decode .p32 0 (s.rowCode 32 (d.src + r * d.spitch) i)) = some (hh, m, l) from hSplit]
    rfl
  have hIn (get : Nat × Nat × Nat → Nat) : i < (pieces (sourceRow (begun s n k d) d r) get).length := by rw [pieces_length, hLen]; exact hi
  have hCode {a : Nat} {get : Nat × Nat × Nat → Nat}
      (hGet : ∀ p : Nat × Nat × Nat, p.1 < 2 ^ 16 ∧ p.2.1 < 2 ^ 16 ∧ p.2.2 < 2 ^ 16 → get p < 2 ^ 16)
      (hAre : BytesAre u a (plain (packElems 16 (pieces (sourceRow (begun s n k d) d r) get)))) : u.rowCode 16 a i = get (hh, m, l) :=
    (rowCode_packed (.inr (.inr (.inl rfl))) (pieces_small _ hGet) hAre (hIn get)).trans (hElem get (hIn get))
  refine ⟨hCode (fun p hp => hp.1) hA, ?_, ?_⟩
  · rw [show d.dst + d.pstride + r * d.dpitch = d.dst + r * d.dpitch + d.pstride by ring]
    exact hCode (fun p hp => hp.2.1) hB
  · rw [show d.dst + 2 * d.pstride + r * d.dpitch = d.dst + r * d.dpitch + 2 * d.pstride by ring]
    exact hCode (fun p hp => hp.2.2) hC

end

/-! ### A barge behind another (01 R23; 11 R380) -/

theorem bargeBehind_of_earlier {j : Fin 16} (hBusy : s.reach[n].barges[j].busy = true) (hMoved : s.reach[n].barges[j].moved = false)
    (hNth : s.reach[n].barges[j].nth < g.nth)
    (hSrc : ∃ x ∈ s.srcStops (BDesc.ofBytes s.reach[n].barges[j].desc), x ∈ s.srcStops d)
    (hDst : ∃ x ∈ s.dstStops (BDesc.ofBytes s.reach[n].barges[j].desc), x ∈ s.dstStops d) : s.bargeBehind (.reach n k) g d = true := by
  obtain ⟨x, hx, hx'⟩ := hSrc
  obtain ⟨y, hy, hy'⟩ := hDst
  refine List.any_eq_true.mpr ⟨j, List.mem_finRange j, ?_⟩
  have hStill : s.stillWrites n j s.reach[n].barges[j] = true := by
    rw [State.stillWrites, hBusy, hMoved]
    rfl
  have hS : (s.srcStops (BDesc.ofBytes s.reach[n].barges[j].desc)).any (s.srcStops d).contains = true :=
    List.any_eq_true.mpr ⟨x, hx, List.contains_iff_mem.mpr hx'⟩
  have hD : (s.dstStops (BDesc.ofBytes s.reach[n].barges[j].desc)).any (s.dstStops d).contains = true :=
    List.any_eq_true.mpr ⟨y, hy, List.contains_iff_mem.mpr hy'⟩
  have hBehind := congrArg₂ (· && ·) (congrArg₂ (· && ·) (decide_eq_true hNth) hStill)
    (congrArg (· || sameFlow d (BDesc.ofBytes s.reach[n].barges[j].desc)) (congrArg₂ (· && ·) hS hD))
  exact hBehind.trans (by simp)

theorem dispatch_behind (h : s.bargeBehind (.reach n k) s.reach[n].barges[k] (BDesc.ofBytes s.reach[n].barges[k].desc) = true)
    (kinds : Nat → Bool) (input : List Byte) : s.dispatch (.reach n k) kinds input false = s := by
  have hBarge : s.bargeAt (.reach n k) = some s.reach[n].barges[k] := rfl
  simp only [State.dispatch, hBarge, h, Bool.or_true, if_true]

/-- Settles O29: one lemma a kind, over the dispatch of a barge within device memory; a barge behind another does not dispatch. -/
theorem bargesMoveTheirRows : Obligations.BargesMoveTheirRows := by
  unfold Obligations.BargesMoveTheirRows
  refine ⟨fun n j k input s => ?_, fun n k s hKeyed => ?_⟩
  · intro g h d e hBusy hMoved hNth hSrc hDst i hi
    have hBehind : s.bargeBehind (.reach n k) g d = true := bargeBehind_of_earlier hBusy hMoved hNth hSrc hDst
    simp only [List.mem_cons, List.not_mem_nil, or_false] at hi
    rcases hi with rfl | rfl | rfl | rfl
    · exact congrArg Host.Outcome.next (dispatch_behind hBehind _ _)
    · exact congrArg Host.Outcome.next (dispatch_behind hBehind _ _)
    · exact congrArg Host.Outcome.next (dispatch_behind hBehind _ _)
    · exact congrArg Host.Outcome.next (dispatch_behind hBehind _ _)
  · intro b g d w hBusy hMoved hSsp hDsp hForm hRange hFirst hReads hWrites
    have hWithin : Within s n k g d := ⟨rfl, rfl, hKeyed, hBusy, hMoved, hSsp, hDsp, hForm, hRange, hFirst, hReads, hWrites⟩
    have hMoves {i : Instr} {input : List Byte} {P : State → Prop} (hExec : exec i s = .next (transfer s n k g d input))
        (hCarried : Carried (begun s n k d) (transfer s n k g d input) n k d.writes) (hP : P (transfer s n k g d input)) :
        Gives i s fun u => BytesKept s u d.writes ∧ u.reach[n].barges[k].busy = true ∧ u.reach[n].barges[k].moved = true ∧ P u ∧
          (∀ k : Fin 16, u.reach[k].u = s.reach[k].u) ∧ u.nmu = s.nmu ∧ DeviceKept s u := by
      obtain ⟨hBytes, hBusy', hMoved', hUnits, hNmu, hDevice⟩ := carried_of_begun hWithin hCarried
      exact ⟨_, hExec, hBytes, hBusy', hMoved', hP, hUnits, hNmu, hDevice⟩
    refine ⟨fun hKind input => ?_, fun hKind => ?_, fun hKind => ?_, fun hKind => ?_, fun hKind => ?_⟩
    · obtain ⟨hCarried, hAre⟩ := copy_gives hWithin hKind input
      exact hMoves (congrArg Host.Outcome.next (dispatch_within hWithin (by rw [hKind]; decide) input)) hCarried hAre
    · refine hMoves (congrArg Host.Outcome.next (dispatch_within hWithin (by rw [hKind]; decide) [])) (lanemajor_gives hWithin hKind).1 ?_
      exact fun j hj i hi => lanemajor_codes hWithin hKind hj hi
    · refine hMoves (congrArg Host.Outcome.next (dispatch_within hWithin (by rw [hKind]; decide) [])) (transpose_gives hWithin hKind).1 ?_
      exact fun r hr i hi => transpose_codes hWithin hKind hr hi
    · refine hMoves (congrArg Host.Outcome.next (dispatch_within hWithin (by rw [hKind]; decide) [])) (split_gives hWithin hKind).1 ?_
      exact fun r hr => split_codes hWithin hKind hr
    · obtain ⟨hCarried, hAre⟩ := zero_gives hWithin hKind
      exact hMoves (congrArg Host.Outcome.next (dispatch_within hWithin (by rw [hKind]; decide) [])) hCarried hAre

end Sys2Proof.Machine.BargeMoves

/-! PROOF. Slot updates (03 R97, 04 R121; 02 R56, R57): the words of a quire bank, one term in its slot, the terms of one update, and the
cycle that lands. -/

namespace Sys2Proof.Machine.SlotUpdates

open Laws Frames

variable {s t : State} {n : Fin 16} {b : Bank}

/-! ### The words of a lane -/

theorem readWords_congr {b b' : Bank} {lane w k : Nat}
    (h : ∀ i < k, slook 0 b'.words (512 * lane + (w + i)) = slook 0 b.words (512 * lane + (w + i))) :
    b'.readWords lane w k = b.readWords lane w k := by
  induction k generalizing w with
  | zero => rfl
  | succ k ih =>
    have hHead : slook 0 b'.words (512 * lane + w) = slook 0 b.words (512 * lane + w) := h 0 (Nat.succ_pos k)
    have hRest := ih (w := w + 1) fun i hi => by
      rw [show w + 1 + i = w + (i + 1) by omega]
      exact h (i + 1) (by omega)
    rw [Bank.readWords, Bank.readWords, hHead, hRest]

/-- A word outside those written stays as it was. -/
theorem writeWords_words (lane w k x i : Nat) (h : i < 512 * lane + w ∨ 512 * lane + w + k ≤ i) :
    slook 0 (b.writeWords lane w k x).words i = slook 0 b.words i := by
  induction k generalizing b w x with
  | zero => rfl
  | succ k ih =>
    rw [Bank.writeWords, ih _ _ (by omega)]
    exact slook_sput_ne _ _ _ _ _ (by omega)

theorem readWords_writeWords_same (lane w k x : Nat) : (b.writeWords lane w k x).readWords lane w k = x % 2 ^ (64 * k) := by
  induction k generalizing b w x with
  | zero => simp [Bank.readWords, Nat.mod_one]
  | succ k ih =>
    rw [Bank.writeWords, Bank.readWords, ih, writeWords_words _ _ _ _ _ (by omega)]
    dsimp only
    rw [slook_sput_same, BitVec.toNat_ofNat, show 64 * (k + 1) = 64 + 64 * k by ring, pow_add, Nat.mod_mul]

theorem writeWords_cnts (lane w k x : Nat) : (b.writeWords lane w k x).cnts = b.cnts := by
  induction k generalizing b w x with
  | zero => rfl
  | succ k ih => rw [Bank.writeWords, ih]

theorem readWords_lt (lane w k : Nat) : b.readWords lane w k < 2 ^ (64 * k) := by
  induction k generalizing w with
  | zero => simp [Bank.readWords]
  | succ k ih =>
    have hWord := (slook 0 b.words (512 * lane + w)).isLt
    have hRest := ih (w + 1)
    rw [Bank.readWords, show 64 * (k + 1) = 64 + 64 * k by ring, pow_add]
    nlinarith

/-! ### One slot -/

/-- The words of a slot lie in its lane. -/
theorem slot_words {c slot : Nat} (hSlot : slot ≤ clsLast c) : slot * clsCells c * 2 + clsCells c * 2 ≤ 512 := by
  unfold clsLast at hSlot
  unfold clsCells
  split_ifs at hSlot ⊢ <;> omega

theorem width_eq {c : Nat} (hc : c ≤ 2) : (clsOf c).width = 64 * (clsCells c * 2) := by
  interval_cases c <;> rfl

theorem image_setImage_same (c lane slot x : Nat) : (b.setImage c lane slot x).image c lane slot = x % 2 ^ (64 * (clsCells c * 2)) :=
  readWords_writeWords_same _ _ _ _

theorem image_setImage_lane {c lane lane' slot x : Nat} (hLane : lane' ≠ lane) (hSlot : slot ≤ clsLast c) :
    (b.setImage c lane slot x).image c lane' slot = b.image c lane' slot := by
  have := slot_words hSlot
  exact readWords_congr fun i hi => writeWords_words _ _ _ _ _ (by omega)

theorem image_setCnt (c slot : Nat) (x : SlotCnt) (c' lane slot' : Nat) : (b.setCnt c slot x).image c' lane slot' = b.image c' lane slot' :=
  readWords_congr fun _ _ => rfl

theorem image_lt {c : Nat} (hc : c ≤ 2) (lane slot : Nat) : b.image c lane slot < 2 ^ (clsOf c).width := by
  rw [width_eq hc]
  exact readWords_lt _ _ _

theorem addTerm_image (c lane slot : Nat) (x : Term) (zs lane' : Nat) : (b.addTerm c lane slot x zs).image c lane' slot =
    (b.setImage c lane slot (if x.nan || b.image c lane slot == (clsOf c).nar then (clsOf c).nar
      else (b.image c lane slot + (truncZ (x.v * pow2 (clsOf c).frac) % (2 ^ (clsOf c).width : Nat)).toNat) % 2 ^ (clsOf c).width)).image
        c lane' slot :=
  readWords_congr fun _ _ => rfl

theorem addTerm_cnts (c lane slot : Nat) (x : Term) (zs : Nat) : (b.addTerm c lane slot x zs).cnts = b.cnts :=
  writeWords_cnts _ _ _ _

theorem addTerm_lane {c lane lane' slot : Nat} (hLane : lane' ≠ lane) (hSlot : slot ≤ clsLast c) (x : Term) (zs : Nat) :
    (b.addTerm c lane slot x zs).image c lane' slot = b.image c lane' slot := by
  rw [addTerm_image, image_setImage_lane hLane hSlot]

/-- A finite term enters a slot that holds a number: the sum, modulo the slot's width (02 R56). -/
theorem addTerm_sum {c lane slot : Nat} (hc : c ≤ 2) {x : Term} (hNan : x.nan = false)
    (hNar : b.image c lane slot ≠ (clsOf c).nar) (zs : Nat) : ((b.addTerm c lane slot x zs).image c lane slot : Int) =
      ((b.image c lane slot : Int) + truncZ (x.v * pow2 (clsOf c).frac)) % (2 ^ (clsOf c).width : Nat) := by
  have hPos : (0 : Int) < ((2 ^ (clsOf c).width : Nat) : Int) := by positivity
  rw [addTerm_image, image_setImage_same, ← width_eq hc, hNan, beq_eq_false_iff_ne.mpr hNar, Bool.or_false, if_neg (by decide), Nat.mod_mod,
    Int.natCast_mod, Int.natCast_add, Int.toNat_of_nonneg (Int.emod_nonneg _ hPos.ne'), Int.add_emod_emod]

/-! ### The terms of an update -/

/-- An exact term lands in its lane's slot, and in nothing else of the bank but its flags. -/
theorem landTerm_exact (g : Grp) (slot : Nat) (binv : Bool) (o : Landed) (l : LaneTerm) :
    (landTerm g slot .exact binv o l).bank = o.bank.addTerm g.cls l.lane slot l.t l.t.zs := by
  simp [landTerm, UpdKind.round, Bank.addBound]

theorem landTerms_cnts (g : Grp) (slot : Nat) (binv : Bool) (ts : List LaneTerm) (o : Landed) :
    (ts.foldl (landTerm g slot .exact binv) o).bank.cnts = o.bank.cnts := by
  induction ts generalizing o with
  | nil => rfl
  | cons l ts ih => rw [List.foldl_cons, ih, landTerm_exact, addTerm_cnts]

theorem landTerms_lane {g : Grp} {slot lane : Nat} (hSlot : slot ≤ clsLast g.cls) (binv : Bool) {ts : List LaneTerm}
    (h : ∀ l ∈ ts, l.lane ≠ lane) (o : Landed) :
    (ts.foldl (landTerm g slot .exact binv) o).bank.image g.cls lane slot = o.bank.image g.cls lane slot := by
  induction ts generalizing o with
  | nil => rfl
  | cons l ts ih =>
    obtain ⟨hl, hts⟩ := List.forall_mem_cons.mp h
    rw [List.foldl_cons, ih hts, landTerm_exact, addTerm_lane (Ne.symm hl) hSlot]

/-- Each finite term of an update is added to its own lane's slot. -/
theorem landTerms_sum {g : Grp} {slot : Nat} (hSlot : slot ≤ clsLast g.cls) (hc : g.cls ≤ 2) (binv : Bool) {ts : List LaneTerm}
    (hLanes : (ts.map (·.lane)).Nodup) (o : Landed) {l : LaneTerm} (hl : l ∈ ts) (hNan : l.t.nan = false)
    (hNar : o.bank.image g.cls l.lane slot ≠ (clsOf g.cls).nar) :
    ((ts.foldl (landTerm g slot .exact binv) o).bank.image g.cls l.lane slot : Int) =
      ((o.bank.image g.cls l.lane slot : Int) + truncZ (l.t.v * pow2 (clsOf g.cls).frac)) % (2 ^ (clsOf g.cls).width : Nat) := by
  induction ts generalizing o with
  | nil => exact absurd hl List.not_mem_nil
  | cons l' ts ih =>
    rw [List.map_cons, List.nodup_cons] at hLanes
    obtain ⟨hNew, hLanes⟩ := hLanes
    rw [List.foldl_cons]
    rcases List.mem_cons.mp hl with rfl | hl
    · have hOthers : ∀ x ∈ ts, x.lane ≠ l.lane := fun x hx e => hNew (e ▸ List.mem_map_of_mem hx)
      rw [landTerms_lane hSlot binv hOthers, landTerm_exact, addTerm_sum hc hNan hNar]
    · have hLane : l.lane ≠ l'.lane := fun e => hNew (e ▸ List.mem_map_of_mem hl)
      have hSame : (landTerm g slot .exact binv o l').bank.image g.cls l.lane slot = o.bank.image g.cls l.lane slot := by
        rw [landTerm_exact, addTerm_lane hLane hSlot]
      rw [ih hLanes _ hl (by rwa [hSame]), hSame]

/-! ### The update and its cycle -/

/-- An exact update of a group below its limit counts its products and adds its terms. -/
theorem landUpd_exact {g : Grp} {v : Upd} (lanes : List Nat) (hKind : v.kind = .exact) (hLimit : (b.cnt g.cls v.slot).limit = false)
    (hRoom : (b.cnt g.cls v.slot).acc + v.m < 2 ^ 30) :
    landUpd g lanes b v = v.terms.foldl (landTerm g v.slot .exact (b.cnt g.cls v.slot).binv)
      { bank := b.setCnt g.cls v.slot { b.cnt g.cls v.slot with acc := (b.cnt g.cls v.slot).acc + v.m } } := by
  have hBelow : ¬2 ^ 30 - 1 < (b.cnt g.cls v.slot).acc + v.m := by omega
  simp only [landUpd, hKind, hLimit, decide_eq_false hBelow, Bool.or_false, Bool.false_eq_true, if_false]

/-- What an update counts. -/
def counted (o : Landed) (c : ReachCnt) : ReachCnt :=
  { c with range := stick32 c.range o.ranged, limit := stick32 c.limit (b2n o.limit), chkinv := stick32 c.chkinv (b2n o.inval) }

/-- A cycle of one update of an open group changes its reach's bank and counters. -/
theorem landCycle_single {v : Upd} (hOpen : (s.reach[n].grps[v.grp]?.getD {}).isOpen = true) :
    let o := landUpd (s.reach[n].grps[v.grp]?.getD {}) s.reach[n].lanes s.reach[n].bank v
    (s.landCycle n [v]).1 = s.modReach n fun x => { x with bank := o.bank, cnt := counted o x.cnt } := by
  simp only [State.landCycle, List.foldl_cons, List.foldl_nil, State.land, hOpen, Bool.not_true, Bool.false_eq_true, if_false, State.countRange,
    State.countLimit, State.modCnt, modReach_modReach]
  rfl

theorem trapIf_unarmed {r : Res} (h : (s.jobRun (s.unit r).job).armed = false) (x : Option TrapRep) : s.trapIf r x = s := by
  cases x with
  | none => rfl
  | some x => cases r <;> simp [State.trapIf, State.trapEvent, h]

theorem settle_idle {r : Res} (h : (s.unit r).wait = .none) : s.settle r = s := by
  simp only [State.settle, h]

/-- Settles O26: one cycle of one exact update, term by term. -/
theorem slotUpdateAccumulates : Obligations.SlotUpdateAccumulates := by
  unfold Obligations.SlotUpdateAccumulates
  intro n s v cs hPend hWait hArmed g old c hOpen hKind hLimit hRoom hSlot hCls hLanes
  have hCycle := landCycle_single (s := s.modReach n fun x => { x with pend := cs }) (n := n) (v := v) (by rw [modReach_same]; exact hOpen)
  dsimp only at hCycle
  rw [modReach_same, modReach_modReach] at hCycle
  have hLand := landUpd_exact (b := old) (g := g) s.reach[n].lanes hKind hLimit hRoom
  have hReach : ∀ f : Reach → Reach, (f s.reach[n]).u = s.reach[n].u → ((s.modReach n f).unit (.reach n)) = s.reach[n].u := fun f hf => by
    change (s.modReach n f).reach[n].u = _
    rw [modReach_same, hf]
  have hExec : exec (.slotUpdate n) s = .next ((s.modReach n fun x => { x with pend := cs }).landCycle n [v]).1 := by
    change execSlotUpdate n s = _
    simp only [execSlotUpdate, hPend]
    rw [trapIf_unarmed, settle_idle]
    · rw [hCycle, hReach _ rfl, hWait]
    · rw [hCycle, hReach _ rfl]
      exact hArmed
  rw [hCycle] at hExec
  obtain ⟨hOthers, hDevice, hMemory⟩ := framed_modReach s n fun x =>
    { x with pend := cs, bank := (landUpd g s.reach[n].lanes old v).bank, cnt := counted (landUpd g s.reach[n].lanes old v) x.cnt }
  refine ⟨_, hExec, ?_, ?_, hOthers, hDevice, hMemory, ?_, fun l hl hLane hNan hNar => ?_⟩
  · rw [modReach_same]
  · rw [modReach_same]
  · rw [modReach_same]
    dsimp only
    change ((landUpd g s.reach[n].lanes old v).bank.cnt g.cls v.slot).acc = _
    rw [hLand, Bank.cnt, landTerms_cnts, Bank.setCnt, slook_sput_same]
  · rw [modReach_same]
    change ((landUpd g s.reach[n].lanes old v).bank.image g.cls l.lane v.slot : Int) = _
    rw [hLand, landTerms_sum hSlot hCls _ hLanes _ hl hNan (by rwa [image_setCnt]), image_setCnt]

end Sys2Proof.Machine.SlotUpdates

/-! PROOF. CLOSE and FWPW (04 R126 to R128, R132, R134; 02 R58): what writing the rows of a group leaves, the rows that apart writes put, and
the two words. -/

namespace Sys2Proof.Machine.Closes

open Laws Frames NmuAccess FailedSteps BadWords Tiles UnitMemory VectorMemory

variable {s t u : State} {n : Fin 16} {ws : List (Nat × Nat)}

/-! ### Writing from the slots of a reach -/

/-- The reach has written the spans alone: its queue, bank, groups, lanes and unit are as they were, and everything beside. -/
structure Emits (s t : State) (n : Fin 16) (ws : List (Nat × Nat)) : Prop where
  tq     : t.reach[n].tq = s.reach[n].tq
  bank   : t.reach[n].bank = s.reach[n].bank
  grps   : t.reach[n].grps = s.reach[n].grps
  bypass : t.reach[n].bypass = s.reach[n].bypass
  others : OthersKept s t (.reach n)
  device : DeviceKept s t
  jobs   : JobsKept s t
  unit   : t.reach[n].u = s.reach[n].u
  keys   : ∀ l, s.keyOk l = true → t.keyOk l = true
  kept   : BytesKept s t ws

theorem emits_of_framed (hFramed : Framed s t (.reach n)) (hJobs : JobsKept s t) (htq : t.reach[n].tq = s.reach[n].tq)
    (hbank : t.reach[n].bank = s.reach[n].bank) (hgrps : t.reach[n].grps = s.reach[n].grps) (hbypass : t.reach[n].bypass = s.reach[n].bypass)
    (hu : t.reach[n].u = s.reach[n].u) : Emits s t n [] := by
  obtain ⟨hOthers, hDevice, hMemory⟩ := hFramed
  exact ⟨htq, hbank, hgrps, hbypass, hOthers, hDevice, hJobs, hu, fun l hl => by rwa [keyOk_eq hDevice hMemory],
    fun b hb _ => byte_eq hDevice hMemory hb⟩

theorem Emits.lanes (h : Emits s t n ws) : t.reach[n].lanes = s.reach[n].lanes := by rw [Reach.lanes, Reach.lanes, h.bypass]

theorem Emits.refl (s : State) (n : Fin 16) : Emits s s n [] := emits_of_framed (Framed.refl s _) (jobsKept_of_lkp rfl) rfl rfl rfl rfl rfl

theorem Emits.trans {vs : List (Nat × Nat)} (h : Emits s t n ws) (g : Emits t u n vs) : Emits s u n (ws ++ vs) :=
  ⟨g.tq.trans h.tq, g.bank.trans h.bank, g.grps.trans h.grps, g.bypass.trans h.bypass, othersKept_trans' h.others g.others,
    deviceKept_trans h.device g.device, h.jobs.trans g.jobs, g.unit.trans h.unit, fun l hl => g.keys l (h.keys l hl),
    fun b hb hOut => (g.kept b (h.keys _ hb) fun w hw => hOut w (List.mem_append_right _ hw)).trans
      (h.kept b hb fun w hw => hOut w (List.mem_append_left _ hw))⟩

theorem Emits.mono {vs : List (Nat × Nat)} (h : Emits s t n ws)
    (hSub : ∀ b, (∀ w ∈ vs, b < w.1 ∨ w.1 + w.2 ≤ b) → ∀ w ∈ ws, b < w.1 ∨ w.1 + w.2 ≤ b) : Emits s t n vs :=
  ⟨h.tq, h.bank, h.grps, h.bypass, h.others, h.device, h.jobs, h.unit, h.keys, fun b hb hOut => h.kept b hb (hSub b hOut)⟩

theorem modReach_emits {f : Reach → Reach} (htq : (f s.reach[n]).tq = s.reach[n].tq) (hbank : (f s.reach[n]).bank = s.reach[n].bank)
    (hgrps : (f s.reach[n]).grps = s.reach[n].grps) (hbypass : (f s.reach[n]).bypass = s.reach[n].bypass)
    (hu : (f s.reach[n]).u = s.reach[n].u) : Emits s (s.modReach n f) n [] :=
  emits_of_framed (framed_modReach s n f) (jobsKept_of_lkp rfl) (by rw [modReach_same, htq]) (by rw [modReach_same, hbank])
    (by rw [modReach_same, hgrps]) (by rw [modReach_same, hbypass]) (by rw [modReach_same, hu])

theorem countRange_emits (s : State) (n : Fin 16) (k : Nat) : Emits s (s.countRange (.reach n) k) n [] := by
  unfold State.countRange State.modCnt
  exact modReach_emits rfl rfl rfl rfl rfl

theorem countCvt_emits (s : State) (n : Fin 16) (a b : Nat) : Emits s (s.countCvt (.reach n) a b) n [] := by
  unfold State.countCvt State.modCnt
  exact modReach_emits rfl rfl rfl rfl rfl

theorem write_emits (s : State) (n : Fin 16) (a : Nat) (bs : List Byte) (p : Bool) : Emits s (s.write a bs p) n [(a, bs.length)] := by
  refine ⟨by rw [write_reach], by rw [write_reach], by rw [write_reach], by rw [write_reach], ?_, BargeEnds.write_deviceKept s a bs p,
    jobsKept_of_lkp (write_lkp s a bs p), by rw [write_reach], fun l hl => keyOk_write s a bs p hl, write_bytesKept s a bs p⟩
  exact ⟨fun m _ => by rw [write_reach], fun d _ => by rw [write_nmu]⟩

theorem write_holds (s : State) (a : Nat) (bs : List Byte) (p : Bool) : Holds (s.write a bs p) a bs := fun i hi =>
  ⟨write_bytesAre s a bs p i hi, written_keyed s a bs p (by omega)⟩

theorem Emits.holds {a : Nat} {bs : List Byte} (h : Emits s t n ws) (hHolds : Holds s a bs)
    (hApart : ∀ w ∈ ws, a + bs.length ≤ w.1 ∨ w.1 + w.2 ≤ a) : Holds t a bs := fun i hi => by
  obtain ⟨hByte, hKey⟩ := hHolds i hi
  exact ⟨(h.kept _ hKey fun w hw => by have := hApart w hw; omega).trans hByte, h.keys _ hKey⟩

/-- Writing a piece of what stands there again, with the mark. -/
theorem rewrite_emits {a : Nat} {bs : List Byte} (h : Holds s a bs) (lo c : Nat) (p : Bool) :
    Emits s (s.write (a + lo) ((bs.drop lo).take c) p) n [] := by
  have hWrite := write_emits s n (a + lo) ((bs.drop lo).take c) p
  refine { hWrite with kept := fun b hb _ => ?_ }
  rw [byte_write]
  split
  · next hIn =>
    have hLen : ((bs.drop lo).take c).length ≤ bs.length - lo := by rw [List.length_take, List.length_drop]; omega
    have hAt := (h (b - a) (by omega)).1
    rw [show a + (b - a) = b by omega] at hAt
    rw [hAt, List.getD_eq_getElem _ _ (by omega), List.getElem_take, List.getElem_drop]
    congr 1
    omega
  · rfl

/-! ### Rows written one after another -/

/-- The spans of what is put, as address and length. -/
def spansOf (os : List (Nat × List Byte)) : List (Nat × Nat) := os.map fun o => (o.1, o.2.length)

/-- Steps that write apart from each other leave all that each of them writes. -/
theorem fold_emits {α : Type} {f : State → α → State} {outs : α → List (Nat × List Byte)} {l : List α}
    (hStep : ∀ (t : State) ws, Emits s t n ws → ∀ x ∈ l, Emits t (f t x) n (spansOf (outs x)) ∧ ∀ o ∈ outs x, Holds (f t x) o.1 o.2)
    (hApart : l.Pairwise fun x y => ∀ o ∈ outs x, ∀ w ∈ spansOf (outs y), o.1 + o.2.length ≤ w.1 ∨ w.1 + w.2 ≤ o.1)
    (h : Emits s t n ws) :
    Emits t (l.foldl f t) n (l.flatMap fun x => spansOf (outs x)) ∧ ∀ x ∈ l, ∀ o ∈ outs x, Holds (l.foldl f t) o.1 o.2 := by
  induction l generalizing t ws with
  | nil => exact ⟨Emits.refl t n, fun _ hx => absurd hx List.not_mem_nil⟩
  | cons y l ih =>
    obtain ⟨hFirst, hApart⟩ := List.pairwise_cons.mp hApart
    obtain ⟨hEmits, hHolds⟩ := hStep t ws h y List.mem_cons_self
    obtain ⟨hRest, hAll⟩ := ih (fun t ws ht x hx => hStep t ws ht x (List.mem_cons_of_mem _ hx)) hApart (h.trans hEmits)
    refine ⟨hEmits.trans hRest, fun x hx o ho => ?_⟩
    rcases List.mem_cons.mp hx with rfl | hx
    · refine hRest.holds (hHolds o ho) fun w hw => ?_
      obtain ⟨z, hz, hw⟩ := List.mem_flatMap.mp hw
      exact hFirst z hz o ho w hw
    · exact hAll x hx o ho

theorem foldRows_fst (f : State → Nat → State × Option TrapRep) (t : State) (l : List Nat) :
    (foldRows f t l).1 = l.foldl (fun t k => (f t k).1) t := by
  induction l generalizing t with
  | nil => rfl
  | cons k l ih => rw [foldRows, List.foldl_cons, ← ih]

/-! ### A row of a CLOSE (04 R127, R128) -/

/-- One poisoned element's line takes the mark. -/
def markElem (n : Fin 16) (f : Fmt) (a : Nat) (bs : List Byte) (t : State) (p : Bool × Nat) : State :=
  if p.1 then
    let lo := if f.width = 4 then p.2 / 2 else p.2 * (f.width / 8)
    t.write (storeBase n + a + lo) ((bs.drop lo).take (if f.width = 4 then 1 else f.width / 8)) true
  else t

theorem writeRow_eq (t : State) (n : Fin 16) (f : Fmt) (a : Nat) (pats : List Nat) (poison : List Bool) : t.writeRow n f a pats poison =
    poison.zipIdx.foldl (markElem n f a (packCodes f.width pats)) (t.write (storeBase n + a) (packCodes f.width pats)) := rfl

theorem marks_emits {f : Fmt} {a : Nat} {bs : List Byte} (ps : List (Bool × Nat)) (h : Holds t (storeBase n + a) bs) :
    Emits t (ps.foldl (markElem n f a bs) t) n [] ∧ Holds (ps.foldl (markElem n f a bs) t) (storeBase n + a) bs := by
  induction ps generalizing t with
  | nil => exact ⟨Emits.refl t n, h⟩
  | cons p ps ih =>
    have hMark : Emits t (markElem n f a bs t p) n [] := by
      unfold markElem
      split
      · exact rewrite_emits h _ _ true
      · exact Emits.refl t n
    obtain ⟨hRest, hHolds⟩ := ih (hMark.holds h fun w hw => absurd hw List.not_mem_nil)
    exact ⟨hMark.trans hRest, hHolds⟩

theorem writeRow_emits (t : State) (n : Fin 16) (f : Fmt) (a : Nat) (pats : List Nat) (poison : List Bool) :
    Emits t (t.writeRow n f a pats poison) n [(storeBase n + a, (packCodes f.width pats).length)] ∧
      Holds (t.writeRow n f a pats poison) (storeBase n + a) (packCodes f.width pats) := by
  rw [writeRow_eq]
  obtain ⟨hMarks, hHolds⟩ := marks_emits (f := f) poison.zipIdx (write_holds t (storeBase n + a) (packCodes f.width pats) false)
  exact ⟨(write_emits t n _ _ false).trans hMarks, hHolds⟩

/-- The bytes of row `k` of a group without the prescale. -/
def rowBytes (s : State) (n : Fin 16) (x : Nat) (g : Grp) (k : Nat) : List Byte :=
  packCodes (fmtOf g.fmtO).width ((s.reach[n].lanes.take (bits x 80 8 + 1)).map fun l =>
    (roundTo (fmtOf g.fmtO) g.qo (bitAt x 121) (s.reach[n].bank.fwp g l k).val).pat)

/-- Where row `k` of a CLOSE goes. -/
def rowAt (n : Fin 16) (x k : Nat) : Nat := storeBase n + bits x 50 22 + k * (bits x 16 12 * 32)

theorem slotOut_plain {g : Grp} (hXs : g.xs = false) (l k j : Nat) : t.slotOut n g l k j = (t.reach[n].bank.fwp g l k, false) := by
  simp only [State.slotOut, hXs, Bool.false_eq_true, if_false]

theorem closeRow_emits {x : Nat} {g : Grp} (e : TileEntry) (hXs : g.xs = false) (hMax : bits x 122 2 = 0) (hSum : bitAt x 120 = false)
    (hSq : bitAt x 119 = false) (hBound : bitAt x 117 = false) (t : State) (k : Nat) :
    Emits t (closeRow n x g e t k).1 n [(rowAt n x k, (rowBytes t n x g k).length)] ∧
      Holds (closeRow n x g e t k).1 (rowAt n x k) (rowBytes t n x g k) := by
  unfold closeRow
  extract_lets f recs outs pats vals pois any r s1 s2 s3 st win s4 s5 sq s6 s7 s8
  have h4 : s4 = s3 := if_neg (not_not_intro hMax)
  have h5 : s5 = s4 := if_neg (by rw [hSum]; exact Bool.false_ne_true)
  have h6 : s6 = s5 := if_neg (by rw [hSq]; exact Bool.false_ne_true)
  have h7 : s7 = s6 := if_neg (by rw [hBound]; exact Bool.false_ne_true)
  have hCount : Emits t s2 n [] := (countRange_emits t n _).trans (countCvt_emits _ n _ _)
  have hPats : pats = (t.reach[n].lanes.take (bits x 80 8 + 1)).map fun l =>
      (roundTo f g.qo (bitAt x 121) (t.reach[n].bank.fwp g l k).val).pat := by
    change List.map _ (List.map _ (List.map _ _)) = _
    simp only [List.map_map, slotOut_plain hXs]
    conv_rhs => rw [← List.zipIdx_map_fst 0 (t.reach[n].lanes.take (bits x 80 8 + 1)), List.map_map]
    rfl
  obtain ⟨hRow, hHolds⟩ := writeRow_emits s2 n f (bits x 50 22 + k * (bits x 16 12 * 32)) pats pois
  have h3 : s7 = s3 := h7.trans (h6.trans (h5.trans h4))
  have hTaper : Emits s3 s8 n [] := by
    simp only [s8, h3]
    split
    · exact modReach_emits rfl rfl rfl rfl rfl
    · exact Emits.refl _ n
  have hBytes : rowBytes t n x g k = packCodes f.width pats := congrArg (packCodes f.width) hPats.symm
  rw [hBytes, rowAt, Nat.add_assoc]
  exact ⟨(hCount.trans hRow).trans hTaper, hTaper.holds hHolds fun w hw => absurd hw List.not_mem_nil⟩

/-! ### A row of an FWPW (04 R132, R134) -/

/-- The record of column `j` of row `k`, in the reach store. -/
def recordAt (n : Fin 16) (x k j : Nat) : Nat := storeBase n + bits x 42 22 + (k * (bits x 80 8 + 1) + j) * 96

/-- What row `k` of a group puts: where each record goes, and its bytes. -/
def rowRecords (s : State) (n : Fin 16) (x : Nat) (g : Grp) (k : Nat) : List (Nat × List Byte) :=
  (s.reach[n].lanes.take (bits x 80 8 + 1)).zipIdx.map fun p => (recordAt n x k p.2, (s.reach[n].bank.fwp g p.1 k).bytes)

theorem store_write (t : State) (n : Fin 16) (a : Nat) (bs : List Byte) (p : Bool) :
    t.store (.reach n) a bs p = t.write (storeBase n + a) bs p := by
  simp only [State.store, State.noteShardPoison, Res.isNmu, unitAddr, Bool.false_eq_true, if_false, ite_self]

theorem zipIdx_indices {α : Type} (l : List α) : l.zipIdx.Pairwise fun p q => p.2 < q.2 := by
  refine List.pairwise_iff_getElem.mpr fun i j hi hj hij => ?_
  simpa using hij

theorem fwpwRow_emits {x : Nat} {g : Grp} (e : TileEntry) (hXs : g.xs = false) (t : State) (k : Nat) :
    Emits t (fwpwRow n x g e t k).1 n (spansOf (rowRecords t n x g k)) ∧
      ∀ o ∈ rowRecords t n x g k, Holds (fwpwRow n x g e t k).1 o.1 o.2 := by
  unfold fwpwRow
  extract_lets ncol recs s1 s2
  have hCount : Emits t s1 n [] := countRange_emits t n _
  have hAll : recs.zipIdx.map (fun p => (recordAt n x k p.2, p.1.1.1.bytes)) = rowRecords t n x g k := by
    refine List.ext_getElem (by simp [recs, rowRecords, ncol]) fun i h1 h2 => ?_
    simp [recs, rowRecords, slotOut_plain hXs]
  obtain ⟨hFold, hHolds⟩ := fold_emits (n := n) (s := t) (t := s1) (l := recs.zipIdx)
    (f := fun t p => t.writeFwp (.reach n) (bits x 42 22 + (k * ncol + p.2) * 96) p.1.1.1)
    (outs := fun p => [(recordAt n x k p.2, p.1.1.1.bytes)])
    (fun u ws _ p _ => by
      simp only [State.writeFwp, store_write, ← Nat.add_assoc, spansOf, List.map_cons, List.map_nil, List.mem_singleton, forall_eq]
      exact ⟨write_emits u n _ _ _, write_holds u _ _ _⟩)
    ((zipIdx_indices recs).imp fun {p q} hpq => by
      simp only [List.mem_singleton, forall_eq, spansOf, List.map_cons, List.map_nil, length_header, recordAt]
      left
      nlinarith)
    hCount
  have hSpans : (recs.zipIdx.flatMap fun p => spansOf [(recordAt n x k p.2, p.1.1.1.bytes)]) = spansOf (rowRecords t n x g k) := by
    rw [← hAll, spansOf, List.map_map, List.map_eq_flatMap]
    rfl
  rw [hSpans] at hFold
  refine ⟨hCount.trans hFold, fun o ho => ?_⟩
  rw [← hAll] at ho
  obtain ⟨p, hp, rfl⟩ := List.mem_map.mp ho
  exact hHolds p hp _ (List.mem_singleton.mpr rfl)

/-! ### The words -/

/-- The group of the word is closed, where the word closes it. -/
def groupClosed (t : State) (n : Fin 16) (x : Nat) (c : Bool) : State := if c then t.closeGrp n (bits x 88 3) else t

theorem closeGrp_eq (t : State) (n : Fin 16) (x : Nat) : t.closeGrp n (bits x 88 3) =
    t.modReach n fun y => { y with grps := y.grps.set (bits x 88 3) {} (Tiles.bits_lt x 88 3) } := dif_pos (Tiles.bits_lt x 88 3)

theorem groupClosed_framed (t : State) (n : Fin 16) (x : Nat) (c : Bool) : Framed t (groupClosed t n x c) (.reach n) := by
  unfold groupClosed
  split
  · rw [closeGrp_eq]
    exact framed_modReach t n _
  · exact Framed.refl t _

theorem groupClosed_lkp (t : State) (n : Fin 16) (x : Nat) (c : Bool) : (groupClosed t n x c).lkp = t.lkp := by
  unfold groupClosed
  split
  · rw [closeGrp_eq]
    rfl
  · rfl

theorem groupClosed_reach (t : State) (n : Fin 16) (x : Nat) (c : Bool) : (groupClosed t n x c).reach[n] = { t.reach[n] with
    grps := if c then t.reach[n].grps.set (bits x 88 3) {} (Tiles.bits_lt x 88 3) else t.reach[n].grps } := by
  unfold groupClosed
  split
  · rw [closeGrp_eq, modReach_same]
  · rfl

/-- A word has issued and written: its reach, everything beside, and the bytes. -/
structure WordDone (s t : State) (n : Fin 16) (x : Nat) (c : Bool) (rest : List TileEntry) (ws : List (Nat × Nat)) : Prop where
  tq     : t.reach[n].tq = rest
  unit   : t.reach[n].u = s.reach[n].u
  bank   : t.reach[n].bank = s.reach[n].bank
  grps   : t.reach[n].grps.toList[bits x 88 3]? = if c then some {} else s.reach[n].grps.toList[bits x 88 3]?
  others : OthersKept s t (.reach n)
  device : DeviceKept s t
  kept   : BytesKept s t ws

theorem dequeued_u (s : State) (n : Fin 16) (rest : List TileEntry) : (dequeued s n rest).reach[n].u = s.reach[n].u := by rw [dequeued_reach]

theorem dequeued_bank (s : State) (n : Fin 16) (rest : List TileEntry) : (dequeued s n rest).reach[n].bank = s.reach[n].bank := by
  rw [dequeued_reach]

theorem dequeued_grps (s : State) (n : Fin 16) (rest : List TileEntry) : (dequeued s n rest).reach[n].grps = s.reach[n].grps := by
  rw [dequeued_reach]

theorem dequeued_tq (s : State) (n : Fin 16) (rest : List TileEntry) : (dequeued s n rest).reach[n].tq = rest := by rw [dequeued_reach]

theorem dequeued_jobsKept (s : State) (n : Fin 16) (rest : List TileEntry) : JobsKept s (dequeued s n rest) := jobsKept_of_lkp rfl

theorem word_ends {rest : List TileEntry} {op : Nat} {e : TileEntry} (h : Heads s n e rest op)
    (hArmed : (s.jobRun s.reach[n].u.job).armed = false) (hEmits : Emits (dequeued s n rest) t n ws) (c : Bool) (y : Option TrapRep) :
    let v := (((groupClosed t n e.word.toNat c).trapIf (.reach n) y).settle (.reach n)).tileStall n op
    WordDone s v n e.word.toNat c rest ws ∧ ∀ a bs, Holds t a bs → BytesAre v a bs := by
  generalize hx : e.word.toNat = x
  have hUnit : (groupClosed t n x c).reach[n].u = s.reach[n].u := by
    rw [groupClosed_reach]
    exact hEmits.unit.trans (dequeued_u s n rest)
  have hJobs : JobsKept s (groupClosed t n x c) :=
    (dequeued_jobsKept s n rest).trans (hEmits.jobs.trans (jobsKept_of_lkp (groupClosed_lkp t n x c)))
  rw [SlotUpdates.trapIf_unarmed (by
    change ((groupClosed t n x c).jobRun (groupClosed t n x c).reach[n].u.job).armed = false
    rw [hUnit, hJobs.armed]
    exact hArmed), settle_none (by
    change (groupClosed t n x c).reach[n].u.wait = .none
    rw [hUnit, h.wait])]
  have hStall := tileStall_countedOn (groupClosed t n x c) n op
  obtain ⟨p, hReach⟩ := hStall.reach
  have hFramed := (groupClosed_framed t n x c).trans hStall.framed
  have hStart := framed_modReach s n fun y => { y with tq := rest }
  intro v
  refine ⟨⟨?_, ?_, ?_, ?_, ?_, ?_, ?_⟩, fun a bs hHolds => (hHolds.frame hFramed).are⟩
  · rw [hReach, groupClosed_reach]
    exact hEmits.tq.trans (dequeued_tq s n rest)
  · rw [hReach]
    exact hUnit
  · rw [hReach, groupClosed_reach]
    exact hEmits.bank.trans (dequeued_bank s n rest)
  · have hGrps : t.reach[n].grps = s.reach[n].grps := hEmits.grps.trans (dequeued_grps s n rest)
    rw [hReach, groupClosed_reach]
    dsimp only
    rw [hGrps]
    split
    · rw [Vector.getElem?_toList, Vector.getElem?_set_self]
    · rfl
  · exact othersKept_trans' hStart.1 (othersKept_trans' hEmits.others hFramed.1)
  · exact deviceKept_trans hStart.2.1 (deviceKept_trans hEmits.device hFramed.2.1)
  · intro b hb hOut
    have hb' : (dequeued s n rest).keyOk (b / 64) = true := (keyOk_eq hStart.2.1 hStart.2.2 _).trans hb
    exact ((byte_eq hFramed.2.1 hFramed.2.2 (hEmits.keys _ hb')).trans (hEmits.kept b hb' hOut)).trans (byte_eq hStart.2.1 hStart.2.2 hb)

theorem dequeued_closeChk (s : State) (n : Fin 16) (rest : List TileEntry) (x : Nat) : closeChk n (dequeued s n rest) x = closeChk n s x := by
  simp only [closeChk, dequeued_tileGrp, dequeued_tileSpansOk, dequeued_width]

theorem dequeued_fwpwChk (s : State) (n : Fin 16) (rest : List TileEntry) (x : Nat) : fwpwChk n (dequeued s n rest) x = fwpwChk n s x := by
  simp only [fwpwChk, dequeued_tileGrp, dequeued_tileSpansOk, dequeued_width]

theorem tileTouch_emits (s : State) (n : Fin 16) (x : Nat) : Emits s (s.tileTouch n x) n [] := by
  have hKept := tileTouch_tileKept s n x
  refine emits_of_framed hKept.framed ?_ hKept.tq hKept.bank hKept.grps ?_ hKept.u
  · unfold State.tileTouch
    generalize (tileSpans (fun k => s.reach[n].grps[k]?.getD {}) x).1 = ps
    generalize s.reach[n].u.job = j
    suffices h : ∀ t, JobsKept s t → JobsKept s (ps.foldl (fun t p => t.notePoison j (storeBase n + p.1) (p.2 - p.1)) t) from
      h s (jobsKept_of_lkp rfl)
    induction ps with
    | nil => exact fun t ht => ht
    | cons p ps ih => exact fun t ht => ih _ (ht.trans (notePoison_jobsKept t j _ _))
  · obtain ⟨l, hl⟩ := tileTouch_lkp s n x
    rw [hl]

/-- Rows of a group, put one behind the other. -/
theorem rows_emit {x : Nat} {rest : List TileEntry} {row : State → Nat → State × Option TrapRep} {outs : State → Nat → List (Nat × List Byte)}
    {m : Nat} (hStep : ∀ t k, Emits t (row t k).1 n (spansOf (outs t k)) ∧ ∀ o ∈ outs t k, Holds (row t k).1 o.1 o.2)
    (hSame : ∀ t ws, Emits (dequeued s n rest) t n ws → ∀ k, outs t k = outs s k)
    (hApart : ∀ i j, i < j → j < m → ∀ o ∈ outs s i, ∀ w ∈ spansOf (outs s j), o.1 + o.2.length ≤ w.1 ∨ w.1 + w.2 ≤ o.1) :
    let t := (foldRows row ((dequeued s n rest).tileTouch n x) (List.range m)).1
    Emits (dequeued s n rest) t n ((List.range m).flatMap fun k => spansOf (outs s k)) ∧ ∀ k < m, ∀ o ∈ outs s k, Holds t o.1 o.2 := by
  have hTouch := tileTouch_emits (dequeued s n rest) n x
  obtain ⟨hFold, hHolds⟩ := fold_emits (l := List.range m) (f := fun t k => (row t k).1) (outs := outs s)
    (fun t ws ht k _ => by
      rw [← hSame t ws ht k]
      exact hStep t k)
    (List.pairwise_lt_range.imp_of_mem fun _ hj hij => hApart _ _ hij (List.mem_range.mp hj)) hTouch
  rw [foldRows_fst]
  exact ⟨hTouch.trans hFold, fun k hk => hHolds k (List.mem_range.mpr hk)⟩

theorem emits_bank {rest : List TileEntry} (h : Emits (dequeued s n rest) t n ws) : t.reach[n].bank = s.reach[n].bank :=
  h.bank.trans (dequeued_bank s n rest)

theorem emits_lanes {rest : List TileEntry} (h : Emits (dequeued s n rest) t n ws) : t.reach[n].lanes = s.reach[n].lanes :=
  h.lanes.trans (dequeued_lanes s n rest)

theorem packCodes_length {w : Nat} : ∀ {xs ys : List Nat}, xs.length = ys.length → (packCodes w xs).length = (packCodes w ys).length
  | [], [], _ => rfl
  | [_], [_], _ => by simp only [packCodes]; split <;> simp
  | _ :: x :: xs, _ :: y :: ys, h => by
    have hTail : xs.length = ys.length := by simpa using h
    simp only [packCodes]
    split
    · simp [packCodes_length hTail]
    · have hRest : (packCodes w (x :: xs)).length = (packCodes w (y :: ys)).length := packCodes_length (congrArg Nat.succ hTail)
      rw [List.length_append, List.length_append, length_leBytes, length_leBytes, hRest]

theorem rowBytes_length (s : State) (n : Fin 16) (x : Nat) (g : Grp) (i j : Nat) : (rowBytes s n x g i).length = (rowBytes s n x g j).length :=
  packCodes_length (by rw [List.length_map, List.length_map])

variable {e : TileEntry} {rest : List TileEntry}

theorem close_gives (h : Heads s n e rest 5) (hArmed : (s.jobRun s.reach[n].u.job).armed = false) (hWait : outWait n s e.word.toNat = false)
    (hChk : closeChk n s e.word.toNat = none) {x : Nat} (hx : e.word.toNat = x) (hXs : (s.tileGrp n x).xs = false) (hMax : bits x 122 2 = 0)
    (hSum : bitAt x 120 = false) (hSq : bitAt x 119 = false) (hBound : bitAt x 117 = false)
    (hPitch : 1 < (s.tileGrp n x).n → (rowBytes s n x (s.tileGrp n x) 0).length ≤ bits x 16 12 * 32) :
    Gives (.closeGrp n) s fun t =>
      WordDone s t n x true rest ((List.range (s.tileGrp n x).n).map fun k => (rowAt n x k, (rowBytes s n x (s.tileGrp n x) k).length)) ∧
        ∀ k < (s.tileGrp n x).n, BytesAre t (rowAt n x k) (rowBytes s n x (s.tileGrp n x) k) := by
  obtain ⟨hEmits, hHolds⟩ := rows_emit (s := s) (n := n) (x := x) (rest := rest) (row := closeRow n x (s.tileGrp n x) e)
    (outs := fun t k => [(rowAt n x k, rowBytes t n x (s.tileGrp n x) k)]) (m := (s.tileGrp n x).n)
    (fun t k => by
      obtain ⟨hRow, hAt⟩ := closeRow_emits e hXs hMax hSum hSq hBound t k
      exact ⟨hRow, fun o ho => by rw [List.mem_singleton.mp ho]; exact hAt⟩)
    (fun t ws ht k => by rw [rowBytes, emits_bank ht, emits_lanes ht, rowBytes])
    (fun i j hij hj => by
      have hLen := hPitch (by omega)
      rw [rowBytes_length s n x _ 0 i] at hLen
      simp only [List.mem_singleton, forall_eq, spansOf, List.map_cons, List.map_nil, rowAt]
      left
      nlinarith)
  have hIssue := tileIssue_acts (opOk := (· == 5)) (wait := outWait n) (chk := closeChk n)
    (eff := fun s e => (groupClosed (foldRows (closeRow n e.word.toNat (s.tileGrp n e.word.toNat) e) (s.tileTouch n e.word.toNat)
      (List.range (s.tileGrp n e.word.toNat).n)).1 n e.word.toNat true).trapIf (.reach n)
        (foldRows (closeRow n e.word.toNat (s.tileGrp n e.word.toNat) e) (s.tileTouch n e.word.toNat)
          (List.range (s.tileGrp n e.word.toNat).n)).2) h rfl hWait (by rw [dequeued_closeChk, hChk])
  simp only [dequeued_tileGrp, hx] at hIssue
  obtain ⟨hDone, hAre⟩ := word_ends h hArmed hEmits true (foldRows (closeRow n x (s.tileGrp n x) e) ((dequeued s n rest).tileTouch n x)
    (List.range (s.tileGrp n x).n)).2
  rw [hx, List.flatMap_congr fun k _ => (rfl : spansOf _ = [_]), ← List.map_eq_flatMap] at hDone
  rw [hx] at hAre
  exact ⟨_, congrArg Host.Outcome.next hIssue, hDone, fun k hk => hAre _ _ (hHolds k hk _ (List.mem_singleton.mpr rfl))⟩

theorem rowRecords_place {x : Nat} {g : Grp} {k : Nat} {o : Nat × List Byte} (h : o ∈ rowRecords s n x g k) :
    ∃ j, j < bits x 80 8 + 1 ∧ o.1 = recordAt n x k j ∧ o.2.length = 96 := by
  obtain ⟨⟨l, j⟩, hp, rfl⟩ := List.mem_map.mp h
  have hj := List.snd_lt_of_mem_zipIdx hp
  rw [List.length_take] at hj
  exact ⟨j, by omega, rfl, length_header _⟩

theorem fwpw_gives (h : Heads s n e rest 6) (hArmed : (s.jobRun s.reach[n].u.job).armed = false) (hWait : outWait n s e.word.toNat = false)
    (hChk : fwpwChk n s e.word.toNat = none) {x : Nat} (hx : e.word.toNat = x) (hXs : (s.tileGrp n x).xs = false) :
    Gives (.fwpw n) s fun t =>
      WordDone s t n x (bitAt x 123) rest ((List.range (s.tileGrp n x).n).flatMap fun k => spansOf (rowRecords s n x (s.tileGrp n x) k)) ∧
        ∀ k < (s.tileGrp n x).n, ∀ o ∈ rowRecords s n x (s.tileGrp n x) k, BytesAre t o.1 o.2 := by
  obtain ⟨hEmits, hHolds⟩ := rows_emit (s := s) (n := n) (x := x) (rest := rest) (row := fwpwRow n x (s.tileGrp n x) e)
    (outs := fun t k => rowRecords t n x (s.tileGrp n x) k) (m := (s.tileGrp n x).n)
    (fun t k => fwpwRow_emits e hXs t k)
    (fun t ws ht k => by rw [rowRecords, emits_bank ht, emits_lanes ht, rowRecords])
    (fun i j hij hj o ho w hw => by
      obtain ⟨o', ho', rfl⟩ := List.mem_map.mp hw
      obtain ⟨a, ha, hEnd, hLen⟩ := rowRecords_place ho
      obtain ⟨b, hb, hStart, -⟩ := rowRecords_place ho'
      left
      rw [hEnd, hLen]
      dsimp only
      rw [hStart, recordAt, recordAt]
      nlinarith)
  have hIssue := tileIssue_acts (opOk := (· == 6)) (wait := outWait n) (chk := fwpwChk n)
    (eff := fun s e => (groupClosed (foldRows (fwpwRow n e.word.toNat (s.tileGrp n e.word.toNat) e) (s.tileTouch n e.word.toNat)
      (List.range (s.tileGrp n e.word.toNat).n)).1 n e.word.toNat (bitAt e.word.toNat 123)).trapIf (.reach n)
        (foldRows (fwpwRow n e.word.toNat (s.tileGrp n e.word.toNat) e) (s.tileTouch n e.word.toNat)
          (List.range (s.tileGrp n e.word.toNat).n)).2) h rfl hWait (by rw [dequeued_fwpwChk, hChk])
  simp only [dequeued_tileGrp, hx] at hIssue
  obtain ⟨hDone, hAre⟩ := word_ends h hArmed hEmits (bitAt x 123) (foldRows (fwpwRow n x (s.tileGrp n x) e) ((dequeued s n rest).tileTouch n x)
    (List.range (s.tileGrp n x).n)).2
  rw [hx] at hDone hAre
  exact ⟨_, congrArg Host.Outcome.next hIssue, hDone, fun k hk o ho => hAre _ _ (hHolds k hk o ho)⟩

/-- Settles O25: one lemma a word, over the rows that it puts. -/
theorem closeAndFwpwWriteTheSlots : Obligations.CloseAndFwpwWriteTheSlots := by
  unfold Obligations.CloseAndFwpwWriteTheSlots
  intro n s e rest x g lanes base hArmed
  refine ⟨fun op i hOp h hWait => ?_, fun h hWait hChk hXs hMax hSum hSq hBound => ?_, fun h hWait hChk hXs => ?_⟩
  · rcases hOp with ⟨rfl, rfl⟩ | ⟨rfl, rfl⟩
    · exact congrArg Host.Outcome.next (tileIssue_waits h hWait)
    · exact congrArg Host.Outcome.next (tileIssue_waits h hWait)
  · intro f row at_ hPitch
    obtain ⟨t, hExec, hDone, hAre⟩ := close_gives h hArmed hWait hChk rfl hXs hMax hSum hSq hBound hPitch
    exact ⟨t, hExec, hDone.tq, hDone.unit, hDone.bank, hDone.grps, hDone.others, hDone.device, hAre, hDone.kept⟩
  · intro at_
    obtain ⟨t, hExec, hDone, hAre⟩ := fwpw_gives h hArmed hWait hChk rfl hXs
    refine ⟨t, hExec, hDone.tq, hDone.unit, hDone.bank, hDone.grps, hDone.others, hDone.device, fun k hk j l hl => ?_, fun b hb hOut => ?_⟩
    · exact hAre k hk (recordAt n x k j, _) (List.mem_map.mpr ⟨(l, j), List.mem_zipIdx_iff_getElem?.mpr hl, rfl⟩)
    · refine hDone.kept b hb fun w hw => ?_
      obtain ⟨k, hk, hw⟩ := List.mem_flatMap.mp hw
      obtain ⟨o, ho, rfl⟩ := List.mem_map.mp hw
      obtain ⟨j, hj, hAt, hLen⟩ := rowRecords_place ho
      have hk := List.mem_range.mp hk
      have hAll := hOut (at_ 0 0, g.n * (bits x 80 8 + 1) * 96) List.mem_cons_self
      dsimp only at hAll ⊢
      rw [hAt, hLen]
      have hRow : k * (bits x 80 8 + 1) + j + 1 ≤ g.n * (bits x 80 8 + 1) := by nlinarith
      simp only [at_, base, x, recordAt, Nat.zero_mul, Nat.add_zero] at hAll hRow ⊢
      omega

end Sys2Proof.Machine.Closes

/-! PROOF. QUANT and SIDEX (06 R192 to R195, R200 to R204; 07 R229, R230): a chain of stores puts each piece that no later one covers, and what
the two instructions read they read before they write. -/

namespace Sys2Proof.Machine.QuantWrites

open Laws Frames NmuAccess Scalars UnitMemory VectorMemory

variable {s t : State} {r : Res} {u : Machine.Unit} {ws : List (Nat × Nat)} {w : CtlWord}

/-! ### Chains of stores -/

/-- Pieces, as address, bytes and mark, stored in turn. -/
def storeAll (t : State) (r : Res) (ps : List (Nat × List Byte × Bool)) : State := ps.foldl (fun t x => t.store r x.1 x.2.1 x.2.2) t

theorem storeAll_ran (ps : List (Nat × List Byte × Bool)) (h : Ran s t r u ws) :
    Ran s (storeAll t r ps) r u (ws ++ ps.map fun x => (unitAddr r x.1, x.2.1.length)) := by
  induction ps generalizing t ws with
  | nil => simpa [storeAll] using h
  | cons p ps ih =>
    have hRest := ih (h.store p.1 p.2.1 p.2.2)
    rw [List.append_assoc] at hRest
    exact hRest

theorem unitAddr_spans {a b m n : Nat} (h : a + m ≤ b ∨ b + n ≤ a) : unitAddr r a + m ≤ unitAddr r b ∨ unitAddr r b + n ≤ unitAddr r a := by
  cases r with
  | reach k =>
    simp only [unitAddr]
    omega
  | nmu e => exact h

/-- A piece apart from every later one stands when the chain is done. -/
theorem storeAll_holds {ps : List (Nat × List Byte × Bool)}
    (hApart : ps.Pairwise fun x y => x.1 + x.2.1.length ≤ y.1 ∨ y.1 + y.2.1.length ≤ x.1) (t : State) :
    ∀ x ∈ ps, Holds (storeAll t r ps) (unitAddr r x.1) x.2.1 := by
  have hKeep : ∀ (qs : List (Nat × List Byte × Bool)) (t : State) (x : Nat × List Byte × Bool), Holds t (unitAddr r x.1) x.2.1 →
      (∀ y ∈ qs, x.1 + x.2.1.length ≤ y.1 ∨ y.1 + y.2.1.length ≤ x.1) → Holds (storeAll t r qs) (unitAddr r x.1) x.2.1 := by
    intro qs
    induction qs with
    | nil => exact fun t x h _ => h
    | cons y qs ih =>
      intro t x h hy
      obtain ⟨hFirst, hRest⟩ := List.forall_mem_cons.mp hy
      exact ih _ x (h.store r y.2.2 (unitAddr_spans hFirst)) hRest
  induction ps generalizing t with
  | nil => exact fun _ hx => absurd hx List.not_mem_nil
  | cons p ps ih =>
    obtain ⟨hFirst, hRest⟩ := List.pairwise_cons.mp hApart
    intro x hx
    rcases List.mem_cons.mp hx with rfl | hx
    · exact hKeep ps _ _ (store_holds t r _ _ _) hFirst
    · exact ih hRest _ x hx

/-! ### What the two instructions read -/

theorem fetched_read (s : State) (r : Res) (a n : Nat) : (s.fetched r).read a n = s.read a n := by rw [State.fetched, modU_read]

theorem fetched_poisonedRange (s : State) (r : Res) (a n : Nat) : (s.fetched r).poisonedRange a n = s.poisonedRange a n := by
  cases r with
  | reach k => rfl
  | nmu d => rfl

theorem fetched_rowCode (s : State) (r : Res) (w a k : Nat) : (s.fetched r).rowCode w a k = s.rowCode w a k := by
  simp only [State.rowCode, fetched_readNat]

theorem fetched_rowPoison (s : State) (r : Res) (w a k : Nat) : (s.fetched r).rowPoison w a k = s.rowPoison w a k := by
  simp only [State.rowPoison, fetched_poisonedRange]

theorem fetched_readQParam (s : State) (r : Res) (a : Nat) : readQParam (s.fetched r) r a = readQParam s r a := by
  simp only [readQParam, fetched_read, fetched_poisonedRange]

theorem fetched_quantRows (s : State) (r : Res) (p : QParam) : quantRows (s.fetched r) r p = quantRows s r p := by
  simp only [quantRows, fetched_rowCode, fetched_rowPoison]

theorem fetched_quantChk (s : State) (r : Res) (w : CtlWord) : quantChk r w (s.fetched r) = quantChk r w s := by
  simp only [quantChk, fetched_x, fetched_readQParam, fetched_quantRows, fetched_accOk_any]

/-! ### QUANT -/

/-- The pieces of a QUANT. -/
def quantPieces (s : State) (r : Res) (p : QParam) : List (Nat × List Byte × Bool) := quantAll p 0 0 (quantRows s r p)

/-- The report of the first NaR row. -/
def quantNan (t : State) (r : Res) (p : QParam) : Option TrapRep :=
  ((quantRows t r p).findIdx? fun q => q.1.nan).map fun i => { pc := (t.unit r).pc.toNat, part := 1, origin := false, lane := i, fmt := 0 }

/-- What a QUANT has counted when its pieces stand. -/
def quantCounted (t : State) (r : Res) (p : QParam) (rows : List (QRow × Bool)) : State :=
  let t := t.countCvt r (rows.foldl (fun n q => n + q.1.clamps) 0) 0
  let t := t.countRange r (rows.foldl (fun n q => n + q.1.ranged) 0)
  let nars := rows.countP (·.1.nan)
  let t := match r with
    | .reach n => t.modCnt n fun c => { c with narrow := stick32 c.narrow nars }
    | .nmu _ => t
  t.vecBusyK r (p.nrow * (2 * ((p.len + 63) / 64) + 12 + if p.escn ≠ 0 then (p.len + 63) / 64 else 0))

theorem quantCounted_counts (t : State) (r : Res) (p : QParam) (rows : List (QRow × Bool)) : Counts t (quantCounted t r p rows) r := by
  unfold quantCounted
  refine Counts.trans ?_ (vecBusyK_counts _ _ _)
  have hCount := (countCvt_counts t r (rows.foldl (fun n q => n + q.1.clamps) 0) 0).trans
    (countRange_counts _ r (rows.foldl (fun n q => n + q.1.ranged) 0))
  cases r with
  | reach n => exact hCount.trans (modCnt_counts _ n _)
  | nmu d => exact hCount

/-- What a QUANT has read. -/
def quantRead (t : State) (r : Res) (a : Nat) (p : QParam) : State :=
  (List.range p.nrow).foldl (fun t k => t.touch r (p.src + k * p.sstride) (bytesOf p.fmtS p.len)) (t.touch r a 64)

theorem touchFold_counts (t : State) (r : Res) (f : Nat → Nat) (n : Nat) (ks : List Nat) :
    Counts t (ks.foldl (fun t k => t.touch r (f k) n) t) r := by
  induction ks generalizing t with
  | nil => exact Counts.refl t r
  | cons k ks ih => exact (touch_counts t r _ _).trans (ih _)

theorem quantRead_counts (t : State) (r : Res) (a : Nat) (p : QParam) : Counts t (quantRead t r a p) r :=
  (touch_counts t r a 64).trans (touchFold_counts _ r (fun k => p.src + k * p.sstride) _ _)

/-- The block of a QUANT. -/
def quantBlock (s : State) (r : Res) (w : CtlWord) : QParam := readQParam s r ((s.unit r).x w.a).toNat

/-- What a QUANT reads and writes of its unit's memory. -/
def quantSpans (s : State) (r : Res) (w : CtlWord) : Spans :=
  { rd := [(((s.unit r).x w.a).toNat, ((s.unit r).x w.a).toNat + 64), ((quantBlock s r w).src,
      (quantBlock s r w).src + ((quantBlock s r w).nrow - 1) * (quantBlock s r w).sstride + bytesOf (quantBlock s r w).fmtS (quantBlock s r w).len)]
    wr := (quantPieces s r (quantBlock s r w)).map fun x => (x.1, x.1 + x.2.1.length) }

/-- What a QUANT does once its checks have passed, from the state `t` in which it has been fetched. -/
def quantActs (t : State) (r : Res) (a : Nat) (p : QParam) : State :=
  ((quantCounted (storeAll (quantRead t r a p) r (quantPieces t r p)) r p (quantRows t r p)).trapIf r (quantNan t r p)).retire r

theorem exec_quant_ctl (s : State) (r : Res) (w : CtlWord) : exec (.quant r w) s =
    .next (ctl r { a := .sc, lay := .q } w [w.a] (fun s => quantSpans s r w) (quantChk r w)
      (fun t => quantActs t r ((t.unit r).x w.a).toNat (quantBlock t r w)) s) := by
  refine congrArg (fun eff => Host.Outcome.next (ctl r _ w [w.a] (fun s => quantSpans s r w) (quantChk r w) eff s)) (funext fun t => ?_)
  extract_lets p a rows t1 t2 t3 t4 t5 nars t6 cyc t7
  have hBlock : quantBlock t r w = p := rfl
  have hRows : quantRows t r p = rows := rfl
  have hCounted : quantCounted (storeAll (quantRead t r a p) r (quantPieces t r p)) r p rows = t7 := rfl
  rw [hBlock, quantActs, quantNan, hRows, hCounted]
  generalize (rows.findIdx? fun q => q.1.nan) = o
  cases o with
  | none => rfl
  | some i => rfl

theorem exec_quant {a : Nat} (ha : ((s.unit r).x w.a).toNat = a) {p : QParam} (hp : readQParam s r a = p)
    (hw : wordOk r { a := .sc, lay := .q } w = true) (hpa : (s.unit r).xp w.a = false) (h : Ready s r (quantSpans s r w))
    (hc : quantChk r w s = none) : exec (.quant r w) s = .next (quantActs (s.fetched r) r a p) := by
  rw [exec_quant_ctl, ctl_acts h hw]
  · rw [quantBlock, fetched_readQParam, fetched_x, ha, hp]
  · rw [fetched_any_xp]
    simp [hpa]
  · rw [fetched_quantChk, hc]

theorem trapIf_none (t : State) (r : Res) : t.trapIf r none = t := rfl

theorem quant_gives {a : Nat} (ha : ((s.unit r).x w.a).toNat = a) {p : QParam} (hp : readQParam s r a = p) (hq : NoTrapStop s r)
    (hw : wordOk r { a := .sc, lay := .q } w = true) (hpa : (s.unit r).xp w.a = false)
    (h : Ready s r (quantSpans s r w)) (hc : quantChk r w s = none) : Gives (.quant r w) s fun t =>
      t.unit r = { advanced (s.unit r) with trap := (t.unit r).trap } ∧ OthersKept s t r ∧ DeviceKept s t ∧
        ((∀ q ∈ quantRows s r p, q.1.nan = false) → (t.unit r).trap = (s.unit r).trap) ∧
        BytesKept s t ((quantPieces s r p).map fun x => (unitAddr r x.1, x.2.1.length)) ∧
        ((quantPieces s r p).Pairwise (fun x y => x.1 + x.2.1.length ≤ y.1 ∨ y.1 + y.2.1.length ≤ x.1) →
          ∀ x ∈ quantPieces s r p, BytesAre t (unitAddr r x.1) x.2.1) := by
  have hPieces : quantPieces (s.fetched r) r p = quantPieces s r p := by rw [quantPieces, fetched_quantRows, quantPieces]
  have hRead := quantRead_counts (s.fetched r) r a p
  have hStored := storeAll_ran (quantPieces (s.fetched r) r p) ((fetched_ran s r).counts hRead)
  have hCount := quantCounted_counts (storeAll (quantRead (s.fetched r) r a p) r (quantPieces (s.fetched r) r p)) r p (quantRows (s.fetched r) r p)
  have hCounted := hStored.counts hCount
  have hTrap := hCounted.trapIf rfl hq (quantNan (s.fetched r) r p)
  have hRetired := hTrap.retire h rfl rfl rfl
  rw [← hPieces]
  have hExec := exec_quant ha hp hw hpa h hc
  rw [quantActs] at hExec
  refine ⟨_, hExec, ?_, hRetired.others, hRetired.device, fun hNan => ?_, hRetired.kept, fun hApart x hx => ?_⟩
  · rw [hRetired.unit]
    rfl
  · have hNone : quantNan (s.fetched r) r p = none := by
      rw [quantNan, fetched_quantRows, Option.map_eq_none_iff, List.findIdx?_eq_none_iff]
      exact hNan
    rw [hRetired.unit]
    dsimp only
    rw [hNone, trapIf_none, hCounted.unit]
  · have hFramed := trapIf_framed hCounted rfl hq (quantNan (s.fetched r) r p)
    rw [retire_of_ready h (by rw [hTrap.unit]) (by rw [hTrap.unit]) (by rw [hTrap.unit])]
    exact ((storeAll_holds hApart _ x hx).frame ((hCount.framed.trans hFramed).trans (framed_modU _ r _))).are

/-- Settles O18: the pieces stand when the chain of stores is done, and what follows writes nothing. -/
theorem quantWritesItsRows : Obligations.QuantWritesItsRows := by
  unfold Obligations.QuantWritesItsRows
  intro r w s hq hw hpa u a p ws h hc
  exact quant_gives rfl rfl hq hw hpa h hc

/-! ### SIDEX -/

/-- The block of a SIDEX. -/
def sidexBlock (s : State) (r : Res) (w : CtlWord) : XParam := readXParam s r ((s.unit r).x w.a).toNat

/-- What a SIDEX reads and writes of its unit's memory. -/
def sidexSpans (s : State) (r : Res) (w : CtlWord) : Spans :=
  { rd := [(((s.unit r).x w.a).toNat, ((s.unit r).x w.a).toNat + 64),
      ((sidexBlock s r w).list, (sidexBlock s r w).list + 8 * (sidexBlock s r w).cnt),
      ((sidexBlock s r w).zp, (sidexBlock s r w).zp + (sidexBlock s r w).rows),
      ((sidexBlock s r w).arow 0, (sidexBlock s r w).arow ((sidexBlock s r w).rows - 1) + bytesOf (sidexBlock s r w).fa (sidexBlock s r w).klen),
      ((sidexBlock s r w).wcol 0, (sidexBlock s r w).wcol (sidexBlock s r w).ncol)]
    wr := [((sidexBlock s r w).out, (sidexBlock s r w).out + 8 * (sidexBlock s r w).nout)] }

/-- What each row and column of the tile gives: its entries, and whether the range rule changed their sum. -/
def sideAll (s : State) (r : Res) (p : XParam) : List (List (Nat × Bool) × Bool) :=
  (List.range p.rows).flatMap fun t => (List.range p.ncol).map fun j => sideEntries s r p (sideList s r p) t j

/-- The entries of a SIDEX. -/
def sideEnts (s : State) (r : Res) (p : XParam) : List (Nat × Bool) := (sideAll s r p).flatMap (·.1)

theorem sideEnts_eq (s : State) (r : Res) (p : XParam) : sideEnts s r p =
    (List.range p.rows).flatMap fun t => (List.range p.ncol).flatMap fun j => (sideEntries s r p (sideList s r p) t j).1 := by
  simp only [sideEnts, sideAll, List.flatMap_assoc, List.flatMap_map]

/-- Entries as pieces, one behind the other. -/
def sidePiecesAt (out : Nat) (put : List (Nat × Bool)) : List (Nat × List Byte × Bool) :=
  ((List.range put.length).zip put).map fun x => (out + 8 * x.1, leBytes 8 x.2.1, x.2.2)

/-- Cycles of a SIDEX. -/
def sidexCycles (p : XParam) (es : List SideE) (put : List (Nat × Bool)) : Nat :=
  let na := es.countP fun e => !e.wside
  na * ((p.ncol + 63) / 64) + (es.length - na) * ((p.rows + 63) / 64) + (put.length + 7) / 8

/-- A SIDEX whose entries fit, once its checks have passed, before its register is written. -/
def sidexPut (t : State) (r : Res) (p : XParam) : State :=
  ((storeAll (t.touch r p.list (8 * p.cnt)) r (sidePiecesAt p.out ((sideEnts t r p).take p.nout))).countRange r ((sideAll t r p).countP (·.2))).vecBusyK
    r (sidexCycles p (sideList t r p) ((sideEnts t r p).take p.nout))

theorem storeAll_pieces (t : State) (r : Res) (out : Nat) (put : List (Nat × Bool)) :
    ((List.range put.length).zip put).foldl (fun (t : State) x => t.store r (out + 8 * x.1) (leBytes 8 x.2.1) x.2.2) t =
      storeAll t r (sidePiecesAt out put) := by
  rw [storeAll, sidePiecesAt, List.foldl_map]

theorem exec_sidex_ctl (s : State) (r : Res) (w : CtlWord) : ∃ eff : State → State, exec (.sidex r w) s =
      .next (ctl r { d := .sc, a := .sc, lay := .q, nmu := false } w [w.a] (fun s => sidexSpans s r w) (sidexChk r w) eff s) ∧
    ∀ t p, sidexBlock t r w = p → ¬p.nout < (sideEnts t r p).length → eff t =
      ((sidexPut t r p).modU r fun u => u.setX w.d (BitVec.ofNat 64 (sideEnts t r p).length) false).retire r := by
  refine ⟨_, rfl, fun t p hp hFit => ?_⟩
  subst hp
  extract_lets p es all ents t1 put t2 t3 na t4
  have hEnts : sideEnts t r p = ents := rfl
  have hPut : sidexPut t r p = t4 := by
    rw [sidexPut, ← storeAll_pieces]
    rfl
  have hBlock : sidexBlock t r w = p := rfl
  rw [hBlock] at hFit ⊢
  rw [hPut]
  rw [hEnts] at hFit ⊢
  exact if_neg hFit

theorem fetched_readXParam (s : State) (r : Res) (a : Nat) : readXParam (s.fetched r) r a = readXParam s r a := by
  simp only [readXParam, fetched_read]

theorem fetched_tileElemAt (s : State) (r : Res) (f : Nat) (q : Int) (a k : Nat) : tileElemAt (s.fetched r) r f q a k = tileElemAt s r f q a k := by
  simp only [tileElemAt, fetched_rowCode, fetched_rowPoison]

theorem fetched_sideList (s : State) (r : Res) (p : XParam) : sideList (s.fetched r) r p = sideList s r p := by
  simp only [sideList, fetched_readNat, fetched_poisonedRange]

theorem fetched_sideBad (s : State) (r : Res) (p : XParam) (e : SideE) : sideBad (s.fetched r) r p e = sideBad s r p e := by
  simp only [sideBad, fetched_tileElemAt]

theorem fetched_sideTerms (s : State) (r : Res) (p : XParam) (es : List SideE) (i j : Nat) :
    sideTerms (s.fetched r) r p es i j = sideTerms s r p es i j := by
  simp only [sideTerms, fetched_readNat, fetched_poisonedRange, fetched_tileElemAt]

theorem fetched_sideAll (s : State) (r : Res) (p : XParam) : sideAll (s.fetched r) r p = sideAll s r p := by
  simp only [sideAll, sideEntries, fetched_sideList, fetched_sideTerms]

theorem fetched_sidexChk (s : State) (r : Res) (w : CtlWord) : sidexChk r w (s.fetched r) = sidexChk r w s := by
  have hBad (p : XParam) : sideBad (s.fetched r) r p = sideBad s r p := funext fun e => fetched_sideBad s r p e
  simp only [sidexChk, fetched_x, fetched_readXParam, fetched_accOk_any, fetched_sideList, hBad]

theorem sidePiecesAt_eq (out : Nat) (put : List (Nat × Bool)) : sidePiecesAt out put =
    put.zipIdx.map fun x => (out + 8 * x.2, leBytes 8 x.1.1, x.1.2) := by
  refine List.ext_getElem (by simp [sidePiecesAt]) fun i h1 h2 => ?_
  simp [sidePiecesAt]

theorem sidePiecesAt_apart (out : Nat) (put : List (Nat × Bool)) :
    (sidePiecesAt out put).Pairwise fun x y => x.1 + x.2.1.length ≤ y.1 ∨ y.1 + y.2.1.length ≤ x.1 := by
  rw [sidePiecesAt_eq, List.pairwise_map]
  refine (Closes.zipIdx_indices put).imp fun {x y} hxy => ?_
  simp only [length_leBytes]
  omega

theorem sidePiecesAt_within {out : Nat} {put : List (Nat × Bool)} {b : Nat} (h : b < unitAddr r out ∨ unitAddr r out + 8 * put.length ≤ b) :
    ∀ x ∈ (sidePiecesAt out put).map fun x => (unitAddr r x.1, x.2.1.length), b < x.1 ∨ x.1 + x.2 ≤ b := by
  rw [sidePiecesAt_eq, List.map_map]
  intro x hx
  obtain ⟨y, hy, rfl⟩ := List.mem_map.mp hx
  have hIdx := List.snd_lt_of_mem_zipIdx hy
  simp only [Function.comp, length_leBytes, unitAddr_add]
  omega

theorem sidex_gives {a : Nat} (ha : ((s.unit r).x w.a).toNat = a) {p : XParam} (hp : readXParam s r a = p)
    (hw : wordOk r { d := .sc, a := .sc, lay := .q, nmu := false } w = true) (hpa : (s.unit r).xp w.a = false)
    (h : Ready s r (sidexSpans s r w)) (hc : sidexChk r w s = none) (hFit : (sideEnts s r p).length ≤ p.nout) : Gives (.sidex r w) s fun t =>
      t.unit r = advanced ((s.unit r).setX w.d (BitVec.ofNat 64 (sideEnts s r p).length) false) ∧ OthersKept s t r ∧ DeviceKept s t ∧
        BytesKept s t [(unitAddr r p.out, 8 * (sideEnts s r p).length)] ∧
        ∀ i, (h : i < (sideEnts s r p).length) → BytesAre t (unitAddr r (p.out + 8 * i)) (leBytes 8 (sideEnts s r p)[i].1) := by
  obtain ⟨eff, hExec, hEff⟩ := exec_sidex_ctl s r w
  have hAll : sideAll (s.fetched r) r p = sideAll s r p := fetched_sideAll s r p
  have hEnts : sideEnts (s.fetched r) r p = sideEnts s r p := by rw [sideEnts, hAll, sideEnts]
  have hBlock : sidexBlock (s.fetched r) r w = p := by rw [sidexBlock, fetched_readXParam, fetched_x, ha, hp]
  rw [ctl_acts h hw (by rw [fetched_any_xp]; simp [hpa]) (by rw [fetched_sidexChk, hc]),
    hEff (s.fetched r) p hBlock (by rw [hEnts]; omega), hEnts] at hExec
  have hStored := storeAll_ran (sidePiecesAt p.out (sideEnts s r p)) ((fetched_ran s r).counts (touch_counts _ r p.list (8 * p.cnt)))
  have hCount := (countRange_counts (storeAll ((s.fetched r).touch r p.list (8 * p.cnt)) r (sidePiecesAt p.out (sideEnts s r p))) r
    ((sideAll s r p).countP (·.2))).trans (vecBusyK_counts _ r (sidexCycles p (sideList s r p) (sideEnts s r p)))
  have hPut : sidexPut (s.fetched r) r p = ((storeAll ((s.fetched r).touch r p.list (8 * p.cnt)) r
      (sidePiecesAt p.out (sideEnts s r p))).countRange r ((sideAll s r p).countP (·.2))).vecBusyK r
        (sidexCycles p (sideList s r p) (sideEnts s r p)) := by
    rw [sidexPut, hEnts, hAll, fetched_sideList, List.take_of_length_le hFit]
  rw [hPut] at hExec
  have hSet := (hStored.counts hCount).modU fun u => u.setX w.d (BitVec.ofNat 64 (sideEnts s r p).length) false
  obtain ⟨hRun, hPc, hCode⟩ := setX_kept { s.unit r with pc := BitVec.ofNat 17 (s.unit r).next } w.d
    (BitVec.ofNat 64 (sideEnts s r p).length) false
  have hRetired := hSet.retire h hRun hCode hPc
  refine ⟨_, hExec, ?_, hRetired.others, hRetired.device, (hRetired.mono fun b hOut => ?_).kept, fun i hi => ?_⟩
  · rw [hRetired.unit]
    exact setX_advanced _ _ _ _
  · exact sidePiecesAt_within (hOut _ List.mem_cons_self)
  · rw [retire_of_ready h (by rw [hSet.unit, hRun]) (by rw [hSet.unit, hPc]) (by rw [hSet.unit, hCode])]
    have hMem : (p.out + 8 * i, leBytes 8 (sideEnts s r p)[i].1, (sideEnts s r p)[i].2) ∈ sidePiecesAt p.out (sideEnts s r p) := by
      rw [sidePiecesAt_eq]
      exact List.mem_map.mpr ⟨((sideEnts s r p)[i], i), List.mk_mem_zipIdx_iff_getElem?.mpr (List.getElem?_eq_getElem hi), rfl⟩
    exact ((storeAll_holds (sidePiecesAt_apart _ _) _ _ hMem).frame
      ((hCount.framed.trans (framed_modU _ r _)).trans (framed_modU _ r _))).are

/-- Settles O19: the entries are pieces of eight bytes behind one another. -/
theorem sidexWritesEntries : Obligations.SidexWritesEntries := by
  unfold Obligations.SidexWritesEntries
  intro n w s r _ hw hpa u a p ents h hc hFit
  have hEnts : ents = sideEnts s r p := (sideEnts_eq s r p).symm
  rw [hEnts] at hFit ⊢
  exact sidex_gives rfl rfl hw hpa h hc hFit

end Sys2Proof.Machine.QuantWrites

/-! PROOF. FD1_SHARD_UPDATE (09 R288 to R290, R292 to R297): memory without a mark stays so under writes of unmarked bytes; the elements of a
shard one by one; the header at both ends. -/

namespace Sys2Proof.Machine.Fd1Shards

open Laws Frames NmuAccess Lrate UnitMemory VectorMemory Faults
open BargeMoves (Outside bytesAre_congr)

variable {s t u : State} {d : Fin 4} {ws : List (Nat × Nat)}

/-! ### Memory without a mark (11 R365) -/

/-- No line is delivered with the mark. -/
def Clean (s : State) : Prop := ∀ line, s.poisoned line = false

theorem Clean.range (h : Clean s) (a n : Nat) : s.poisonedRange a n = false := by
  rw [State.poisonedRange, List.any_eq_false]
  exact fun line _ => by rw [h line]; exact Bool.false_ne_true

theorem clean_of_poisoned (h : Clean s) (hEq : ∀ line, t.poisoned line = s.poisoned line) : Clean t := fun line => (hEq line).trans (h line)

theorem Clean.quarantined (h : Clean s) (line : Nat) : s.quarantined line = false := (Bool.or_eq_false_iff.mp (h line)).2

theorem Clean.poison (h : Clean s) (line : Nat) : s.poison.contains line = false := (Bool.or_eq_false_iff.mp (h line)).1

theorem clean_of_fields (h : Clean s) (hMdie : t.mdie = s.mdie) (hPoison : ∀ line, t.poison.contains line = true → s.poison.contains line = true) :
    Clean t := fun line => by
  have hQuar : t.quarantined line = s.quarantined line := by rw [State.quarantined, State.quarantined, hMdie]
  have hMark : t.poison.contains line = false := by
    rw [Bool.eq_false_iff]
    exact fun hAt => absurd (hPoison line hAt) (by rw [h.poison line]; exact Bool.false_ne_true)
  rw [State.poisoned, hQuar, h.quarantined, hMark, Bool.or_false]

theorem writeLine_clean (h : Clean s) (a : Nat) (bs : List Byte) : Clean (s.writeLine a bs false) := by
  unfold State.writeLine
  extract_lets line whole s1 s2
  have h1 : Clean s1 := by
    refine clean_of_fields h ?_ ?_
    · simp only [s1, State.settleLine]
      split_ifs <;> rfl
    · have hSame : s1.poison = s.poison := by
        simp only [s1, State.settleLine]
        split_ifs <;> rfl
      exact fun l hl => by rwa [hSame] at hl
  have h2 : Clean s2 := by
    refine clean_of_fields h1 rfl fun l hl => ?_
    simp only [s2, Bool.false_eq_true, if_false] at hl
    split at hl
    · exact List.contains_iff_mem.mpr ((mem_setDel _ _ _).mp (List.contains_iff_mem.mp hl)).1
    · exact hl
  split
  · rw [State.rewritten, if_neg (by rw [h2.quarantined]; exact Bool.false_ne_true)]
    exact h2
  · exact h2

theorem write_clean (h : Clean s) (a : Nat) (bs : List Byte) : Clean (s.write a bs false) := by
  unfold State.write
  generalize bs.length / 64 + 2 = fuel
  induction fuel generalizing s a bs with
  | zero => exact h
  | succ fuel ih =>
    rw [State.writeGo]
    split
    · exact h
    · exact ih (writeLine_clean h _ _) _ _

/-! ### Work of an NMU on unmarked memory under its keys -/

/-- The engine has written unmarked bytes to the spans, and its unit is as it was. -/
structure Works (s t : State) (d : Fin 4) (ws : List (Nat × Nat)) : Prop where
  keyed   : AllKeyed t
  clean   : Clean t
  unit    : t.nmu[d].u = s.nmu[d].u
  poisonW : t.nmu[d].poisonW = s.nmu[d].poisonW
  wins    : t.nmu[d].wins = s.nmu[d].wins
  argBlk  : t.nmu[d].argBlk = s.nmu[d].argBlk
  bytes   : ∀ b, Outside ws b → t.byte b = s.byte b

theorem Works.trans {vs : List (Nat × Nat)} (h : Works s t d ws) (g : Works t u d vs) : Works s u d (ws ++ vs) :=
  ⟨g.keyed, g.clean, g.unit.trans h.unit, g.poisonW.trans h.poisonW, g.wins.trans h.wins, g.argBlk.trans h.argBlk,
    fun b hb => (g.bytes b fun w hw => hb w (List.mem_append_right _ hw)).trans (h.bytes b fun w hw => hb w (List.mem_append_left _ hw))⟩

theorem alike_works (hKeyed : AllKeyed s) (hClean : Clean s) (h : Alike s t) (hUnit : t.nmu[d].u = s.nmu[d].u)
    (hPoison : t.nmu[d].poisonW = s.nmu[d].poisonW) (hWins : t.nmu[d].wins = s.nmu[d].wins) (hArg : t.nmu[d].argBlk = s.nmu[d].argBlk) :
    Works s t d [] :=
  ⟨fun line => (keyOk_eq h.device h.memory line).trans (hKeyed line), clean_of_poisoned hClean h.poisoned, hUnit, hPoison, hWins, hArg,
    fun b _ => h.byte hKeyed b⟩

theorem accessed_works (hKeyed : AllKeyed s) (hClean : Clean s) (h : Accessed s t) : Works s t d [] :=
  alike_works hKeyed hClean h.toAlike (by rw [h.nmu]) (by rw [h.nmu]) (by rw [h.nmu]) (by rw [h.nmu])

theorem works_refl (hKeyed : AllKeyed s) (hClean : Clean s) : Works s s d [] := accessed_works hKeyed hClean (Accessed.refl s)

theorem write_works (hKeyed : AllKeyed s) (hClean : Clean s) (a : Nat) (bs : List Byte) : Works s (s.write a bs false) d [(a, bs.length)] := by
  refine ⟨fun line => keyOk_write s a bs false (hKeyed line), write_clean hClean a bs, by rw [write_nmu], by rw [write_nmu], by rw [write_nmu],
    by rw [write_nmu], fun b hb => ?_⟩
  have := hb _ List.mem_cons_self
  rw [byte_write, if_neg (by dsimp only at this; omega)]

theorem Works.write (h : Works s t d ws) (a : Nat) (bs : List Byte) : Works s (t.write a bs false) d (ws ++ [(a, bs.length)]) :=
  h.trans (write_works h.keyed h.clean a bs)

theorem Works.accessed (h : Works s t d ws) (g : Accessed t u) : Works s u d ws := by
  have hAll := h.trans (accessed_works (d := d) h.keyed h.clean g)
  rwa [List.append_nil] at hAll

/-- A store of unmarked bytes through the LLC. -/
theorem Works.store (h : Works s t d ws) (a : Nat) (bs : List Byte) : Works s (t.store (.nmu d) a bs false) d (ws ++ [(a, bs.length)]) :=
  (h.write a bs).accessed (llc_accessed _ a bs.length)

theorem store_are (t : State) (d : Fin 4) (a : Nat) (bs : List Byte) : BytesAre (t.store (.nmu d) a bs false) a bs := by
  have hHolds := store_holds t (.nmu d) a bs false
  exact hHolds.are

/-! ### The elements of a shard (09 R294, R296) -/

/-- The eight bytes that the element at `a` becomes. -/
def elemBytes (s : State) (b : Fd1) (lr c1 c2 : Val) (sc : List Val) (a : Nat) : List Byte :=
  let r := fd1Elem b lr c1 c2 sc [s.readNat a 2, s.readNat (a + 2) 2, s.readNat (a + 4) 2, s.readNat (a + 6) 2]
  leBytes 2 r.1 ++ leBytes 2 0 ++ leBytes 2 r.2.1 ++ leBytes 2 r.2.2

theorem length_elemBytes (s : State) (b : Fd1) (lr c1 c2 : Val) (sc : List Val) (a : Nat) : (elemBytes s b lr c1 c2 sc a).length = 8 := by
  simp [elemBytes]

theorem readNat_of_bytes {a n : Nat} (h : ∀ i < n, t.byte (a + i) = s.byte (a + i)) : t.readNat a n = s.readNat a n := by
  rw [State.readNat, State.readNat, read_eq_of_bytes h]

theorem elemBytes_congr {a : Nat} (h : ∀ i < 8, t.byte (a + i) = s.byte (a + i)) (b : Fd1) (lr c1 c2 : Val) (sc : List Val) :
    elemBytes t b lr c1 c2 sc a = elemBytes s b lr c1 c2 sc a := by
  have hAt (k : Nat) (hk : k + 2 ≤ 8) : t.readNat (a + k) 2 = s.readNat (a + k) 2 := readNat_of_bytes fun i hi => by
    rw [Nat.add_assoc]
    exact h _ (by omega)
  rw [elemBytes, elemBytes, show t.readNat a 2 = s.readNat a 2 from hAt 0 (by decide), hAt 2 (by decide), hAt 4 (by decide), hAt 6 (by decide)]

theorem fd1Elems_succ (hClean : Clean t) (b : Fd1) (lr c1 c2 : Val) (sc : List Val) (base i n : Nat) :
    fd1Elems b lr c1 c2 sc false t d base i (n + 1) = fd1Elems b lr c1 c2 sc false
      ((t.touch (.nmu d) (base + 8 * i) 8).store (.nmu d) (base + 8 * i) (elemBytes t b lr c1 c2 sc (base + 8 * i)) false) d base (i + 1) n := by
  rw [fd1Elems]
  simp only [hClean.range, Bool.or_false]
  rfl

theorem fd1Elems_works (b : Fd1) (lr c1 c2 : Val) (sc : List Val) (base i n : Nat) (hKeyed : AllKeyed t) (hClean : Clean t) :
    Works t (fd1Elems b lr c1 c2 sc false t d base i n) d [(base + 8 * i, 8 * n)] ∧
      ∀ k < n, BytesAre (fd1Elems b lr c1 c2 sc false t d base i n) (base + 8 * (i + k)) (elemBytes t b lr c1 c2 sc (base + 8 * (i + k))) := by
  induction n generalizing i t with
  | zero =>
    refine ⟨?_, fun k hk => absurd hk (Nat.not_lt_zero k)⟩
    exact ⟨hKeyed, hClean, rfl, rfl, rfl, rfl, fun _ _ => rfl⟩
  | succ n ih =>
    rw [fd1Elems_succ hClean]
    have hStep := ((works_refl (d := d) hKeyed hClean).accessed (touch_accessed t d (base + 8 * i) 8)).store (base + 8 * i)
      (elemBytes t b lr c1 c2 sc (base + 8 * i))
    have hFirst := store_are (t.touch (.nmu d) (base + 8 * i) 8) d (base + 8 * i) (elemBytes t b lr c1 c2 sc (base + 8 * i))
    generalize (t.touch (.nmu d) (base + 8 * i) 8).store (.nmu d) (base + 8 * i) (elemBytes t b lr c1 c2 sc (base + 8 * i)) false = v at *
    rw [List.nil_append, length_elemBytes] at hStep
    obtain ⟨hRest, hAre⟩ := ih (i + 1) hStep.keyed hStep.clean
    have hAll := hStep.trans hRest
    refine ⟨⟨hAll.keyed, hAll.clean, hAll.unit, hAll.poisonW, hAll.wins, hAll.argBlk, fun c hc => hAll.bytes c fun w hw => ?_⟩, fun k hk => ?_⟩
    · have hOut := hc _ List.mem_cons_self
      dsimp only at hOut
      simp only [List.mem_append, List.mem_singleton] at hw
      rcases hw with rfl | rfl
      · dsimp only; omega
      · dsimp only; omega
    · rcases Nat.eq_zero_or_pos k with rfl | hPos
      · refine bytesAre_congr (fun c hLo hHi => hRest.bytes c fun w hw => ?_) hFirst
        rw [length_elemBytes] at hHi
        rw [List.mem_singleton.mp hw]
        dsimp only
        omega
      · have hAt := hAre (k - 1) (by omega)
        rw [show i + 1 + (k - 1) = i + k by omega, elemBytes_congr (s := t) fun j hj => hStep.bytes _ fun w hw => by
          rw [List.mem_singleton.mp hw]
          dsimp only
          omega] at hAt
        exact hAt

/-! ### The header (09 R294, R288, R281) -/

/-- A header that the FD1 engine accepts: its line, its one area apart from it, and its fields. -/
structure Fd1Header (a : Nat) (h : Shard) : Prop where
  areas : h.areas a = [(a + h.off[0]?.getD 0, 8 * h.rowLen)]
  flags : h.flags / 2 = 0
  apart : a + 64 ≤ a + h.off[0]?.getD 0 ∨ a + h.off[0]?.getD 0 + 8 * h.rowLen ≤ a

theorem fd1Ok_header {a : Nat} {h : Shard} (hOk : h.fd1Ok s d a = true) : Fd1Header a h := by
  simp only [Shard.fd1Ok, Shard.commonOk, Bool.and_eq_true, beq_iff_eq, decide_eq_true_eq] at hOk
  obtain ⟨⟨⟨⟨⟨hLayout, hCommon⟩, -⟩, -⟩, -⟩, -⟩ := hOk
  obtain ⟨⟨⟨⟨⟨⟨⟨⟨⟨⟨⟨-, -⟩, -⟩, -⟩, hFlags⟩, -⟩, -⟩, -⟩, hLen⟩, -⟩, -⟩, hSpans⟩ := hCommon
  have hAreas : h.areas a = [(a + h.off[0]?.getD 0, 8 * h.rowLen)] := by rw [Shard.areas, if_pos hLayout]
  refine ⟨hAreas, hFlags, ?_⟩
  rw [hAreas] at hSpans
  simp only [disjointSpans, List.all_cons, List.all_nil, overlap, Bool.and_true, Bool.not_eq_true', Bool.and_eq_false_iff, decide_eq_false_iff_not] at hSpans
  omega

theorem fd1Ok_congr {a : Nat} {h : Shard} (hWins : t.nmu[d].wins = s.nmu[d].wins) : h.fd1Ok t d a = h.fd1Ok s d a := by
  have hWin (a n : Nat) : inWindow t d a n = inWindow s d a n := by rw [inWindow, inWindow, hWins]
  simp only [Shard.fd1Ok, Shard.commonOk, hWin]

theorem takeShard_alike (t : State) (d : Fin 4) (a : Nat) (h : Shard) : Alike t (t.takeShard d a h) := modNmu_alike t d _

theorem Works.modNmu (h : Works s t d ws) {f : Nmu → Nmu} (hUnit : (f t.nmu[d]).u = t.nmu[d].u)
    (hPoison : (f t.nmu[d]).poisonW = t.nmu[d].poisonW) (hWins : (f t.nmu[d]).wins = t.nmu[d].wins)
    (hArg : (f t.nmu[d]).argBlk = t.nmu[d].argBlk) : Works s (t.modNmu d f) d ws := by
  have hAll := h.trans (alike_works (d := d) h.keyed h.clean (modNmu_alike t d f) (by rw [modNmu_same, hUnit]) (by rw [modNmu_same, hPoison])
    (by rw [modNmu_same, hWins]) (by rw [modNmu_same, hArg]))
  rwa [List.append_nil] at hAll

theorem Works.markBusy (h : Works s t d ws) (a flags job : Nat) :
    Works s (t.markBusy a flags job) d (ws ++ [(a + 7, 1)] ++ [(a + 56, 2)]) := by
  unfold State.markBusy
  rw [h.clean.range]
  have hFirst := h.write (a + 7) (leBytes 1 (flags / 2 * 2 + 1))
  have hAll := (hFirst.write (a + 56) (leBytes 2 job)).accessed (llc_accessed _ a 64 (alloc := true))
  simp only [length_leBytes] at hAll
  exact hAll

theorem countNmu_works (h : Works s t d ws) (k : Nat) : Works s (t.countNmu d k) d ws := by
  unfold State.countNmu
  split
  · exact h
  · exact (h.modNmu (f := fun x => { x with busy := (t.nmu[d].busy.add k).1 }) rfl rfl rfl rfl).accessed (perfOvf_accessed _ _ _ _ _)

/-- The commit of a header, whose line is written whole. -/
theorem Works.writeCommit (h : Works s t d ws) (a flags step : Nat) : Works s (t.writeCommit a flags step) d (ws ++ [(a + 7, 5), (a + 56, 2)]) := by
  have hLine : Works t (t.writeCommit a flags step) d [(a, 64)] := by
    change Works t ((t.write a (commitLine (t.read a 64) flags step) (t.poisonedRange a 64)).llc a 64) d _
    rw [h.clean.range]
    have hWrite := (write_works (d := d) h.keyed h.clean a (commitLine (t.read a 64) flags step)).accessed (llc_accessed _ a 64 (alloc := true))
    rwa [length_commitLine (length_read t a 64)] at hWrite
  have hBytes := (writeCommit_bytes t a flags step).2.2.2
  exact h.trans { hLine with bytes := fun b hb => hBytes b (h.keyed _) hb }

/-! ### A shard that is due -/

/-- What the engine holds a shard against and computes with. -/
structure Due (s : State) (d : Fin 4) (a : Nat) (h : Shard) (b : Fd1) : Prop where
  keyed  : AllKeyed s
  clean  : Clean s
  header : readShard s a = h
  block  : readFd1 s (argField s d 152 8) = b
  ok     : h.fd1Ok s d a = true
  scales : ∀ v ∈ h.tscale.map (decodePosit 16), v.isNan = false ∧ 0 < v.rat
  free   : h.busy = false
  step   : (h.step : Int) = if ((((s.jobRun s.nmu[d].u.job).step.map StepRun.no).getD 0).toNat + b.off : Int) < 65535
    then (((s.jobRun s.nmu[d].u.job).step.map StepRun.no).getD 0).toNat + b.off else 65535
  rate   : argField s d 144 8 = 0

/-- The shard's header has been read, its area taken and its BUSY set. -/
def marked (s : State) (d : Fin 4) (a : Nat) (h : Shard) : State :=
  (((s.touchHeader d a).modNmu d fun x => { x with poisonW := false }).takeShard d a h).markBusy a h.flags s.nmu[d].u.job

/-- The shard's elements have been updated and its cycles counted. -/
def updated (s : State) (d : Fin 4) (a : Nat) (h : Shard) (b : Fd1) : State :=
  (fd1Elems b (decodePosit 16 b.lr) (biasC16 b.b1 (min (h.step + 1) 65535)) (biasC16 b.b2 (min (h.step + 1) 65535))
    (h.tscale.map (decodePosit 16)) false (marked s d a h) d (a + h.off[0]?.getD 0) 0 h.rowLen).countNmu d
      ((h.rowLen + (if b.rule = 2 then 8 else 16) - 1) / (if b.rule = 2 then 8 else 16))

theorem marked_works {a : Nat} {h : Shard} (hKeyed : AllKeyed s) (hClean : Clean s) :
    AllKeyed (marked s d a h) ∧ Clean (marked s d a h) ∧ (marked s d a h).nmu[d].u = s.nmu[d].u ∧ (marked s d a h).nmu[d].poisonW = false ∧
      (∀ c, Outside [(a + 7, 1), (a + 56, 2)] c → (marked s d a h).byte c = s.byte c) := by
  have hRead := (works_refl (d := d) hKeyed hClean).accessed (touchHeader_accessed s d a)
  have hStart : Alike s ((s.touchHeader d a).modNmu d fun x => { x with poisonW := false }) :=
    (touchHeader_accessed s d a).toAlike.trans (modNmu_alike _ d _)
  generalize hv : (s.touchHeader d a).modNmu d (fun x => { x with poisonW := false }) = v at hStart
  have hKeyed' : AllKeyed v := fun line => (keyOk_eq hStart.device hStart.memory line).trans (hKeyed line)
  have hClean' : Clean v := clean_of_poisoned hClean hStart.poisoned
  have hMark := ((works_refl (d := d) hKeyed' hClean').modNmu (f := fun x => { x with areas := x.areas ++ h.areas a }) rfl rfl rfl rfl).markBusy a h.flags s.nmu[d].u.job
  have hSame : marked s d a h = (v.modNmu d fun x => { x with areas := x.areas ++ h.areas a }).markBusy a h.flags s.nmu[d].u.job := by rw [← hv]; rfl
  rw [hSame]
  refine ⟨hMark.keyed, hMark.clean, ?_, ?_, fun c hc => (hMark.bytes c hc).trans (hStart.byte hKeyed c)⟩
  · rw [hMark.unit, ← hv, modNmu_same]
    exact hRead.unit
  · rw [hMark.poisonW, ← hv, modNmu_same]

theorem fd1Shard_eq {a : Nat} {h : Shard} {b : Fd1} (hDue : Due s d a h b) (hPoison : (updated s d a h b).nmu[d].poisonW = false) :
    fd1Shard s d a false = ((updated s d a h b).writeCommit a (readShard (updated s d a h b) a).flags (min (h.step + 1) 65535)).countShard
      s.nmu[d].u.job := by
  unfold fd1Shard
  rw [hDue.header, hDue.block]
  extract_lets u h' b' no e e' scv bad s1 d1 sc lr n s2 s3 per s4
  have hBad : bad = false := by
    simp only [bad, hDue.clean.range, Bool.and_false, Bool.or_false]
  have hWins : s1.nmu[d].wins = s.nmu[d].wins := by
    rw [modNmu_same, (touchHeader_accessed s d a).nmu]
  have hOk : h.fd1Ok s1 d a = true := (fd1Ok_congr hWins).trans hDue.ok
  have hPositive : (scv.any fun v => !v.isNan && decide (v.rat ≤ 0)) = false := List.any_eq_false.mpr fun v hv => by
    have := (hDue.scales v hv).2
    simp [Rat.not_le.mpr this]
  have hNumbers : (scv.any fun v => v.isNan) = false := List.any_eq_false.mpr fun v hv => by
    rw [(hDue.scales v hv).1]
    exact Bool.false_ne_true
  have hSc : sc = 0 := by
    have hRead : Alike s s1 := (touchHeader_accessed s d a).toAlike.trans (modNmu_alike _ d _)
    have hArg : s1.nmu[d].argBlk = s.nmu[d].argBlk := by rw [modNmu_same, (touchHeader_accessed s d a).nmu]
    change argField s1 d 144 8 = 0
    rw [argField, hArg, readNat_of_bytes (s := s) fun i _ => hRead.byte hDue.keyed _]
    exact hDue.rate
  have hLr : lr = decodePosit 16 b.lr := if_pos hSc
  have hDone : s4 = updated s d a h b := by
    simp only [s4, s3, hBad, hLr]
    rfl
  rw [if_neg (by rw [hOk, hPositive]; exact Bool.false_ne_true), if_neg (by rw [hNumbers]; exact Bool.false_ne_true),
    if_neg (by rw [hDue.free]; exact Bool.false_ne_true), if_neg (not_not_intro hDue.step), hDone,
    if_neg (by rw [hPoison]; exact Bool.false_ne_true)]

/-- What a shard that is due becomes, and what the engine leaves alone. -/
theorem fd1Shard_gives {a : Nat} {h : Shard} {b : Fd1} (hDue : Due s d a h b) :
    let base := a + h.off[0]?.getD 0
    let n := min (h.step + 1) 65535
    let t := fd1Shard s d a false
    AllKeyed t ∧ t.nmu[d].u = s.nmu[d].u ∧
      (∀ k < h.rowLen, BytesAre t (base + 8 * k) (elemBytes s b (decodePosit 16 b.lr) (biasC16 b.b1 n) (biasC16 b.b2 n)
        (h.tscale.map (decodePosit 16)) (base + 8 * k))) ∧
      BytesAre t (a + 8) (leBytes 4 n) ∧ BytesAre t (a + 7) [0] ∧ BytesAre t (a + 56) [0, 0] ∧
      ∀ c, Outside [(a + 7, 5), (a + 56, 2), (base, 8 * h.rowLen)] c → t.byte c = s.byte c := by
  intro base n t
  obtain ⟨-, hFlags, hApart⟩ := fd1Ok_header hDue.ok
  obtain ⟨mKeyed, mClean, mUnit, mPoison, mBytes⟩ := marked_works (d := d) (a := a) (h := h) hDue.keyed hDue.clean
  obtain ⟨hElems, hAre⟩ := fd1Elems_works (d := d) b (decodePosit 16 b.lr) (biasC16 b.b1 n) (biasC16 b.b2 n) (h.tscale.map (decodePosit 16)) base 0
    h.rowLen mKeyed mClean
  have hCount := countNmu_works (works_refl (d := d) hElems.keyed hElems.clean)
    ((h.rowLen + (if b.rule = 2 then 8 else 16) - 1) / (if b.rule = 2 then 8 else 16))
  have hUpdated : Works (marked s d a h) (updated s d a h b) d ([(base + 8 * 0, 8 * h.rowLen)] ++ []) := hElems.trans hCount
  have hEq : t = _ := fd1Shard_eq hDue (hUpdated.poisonW.trans mPoison)
  have hFlag : (readShard (updated s d a h b) a).flags / 2 * 2 = 0 := by
    have hMarked : BytesAre (marked s d a h) (a + 7) (leBytes 1 1) := by
      have hMark := (markBusy_bytes (((s.touchHeader d a).modNmu d fun x => { x with poisonW := false }).takeShard d a h) a h.flags
        s.nmu[d].u.job).1
      rwa [hFlags] at hMark
    have hUp : BytesAre (updated s d a h b) (a + 7) (leBytes 1 1) := bytesAre_congr (fun c hLo hHi => hUpdated.bytes c fun w hw => by
      rw [length_leBytes] at hHi
      rw [List.append_nil, List.mem_singleton] at hw
      rw [hw]
      dsimp only
      omega) hMarked
    have hRead := BargeMoves.read_of_are hUp
    rw [length_leBytes] at hRead
    change (updated s d a h b).readNat (a + 7) 1 / 2 * 2 = 0
    rw [State.readNat, hRead, leNat_leBytes]
    rfl
  have hCommit := (works_refl (d := d) hUpdated.keyed hUpdated.clean).writeCommit a (readShard (updated s d a h b) a).flags n
  obtain ⟨cFlags, cStep, cJob, -⟩ := writeCommit_bytes (updated s d a h b) a (readShard (updated s d a h b) a).flags n
  rw [hFlag] at cFlags
  rw [hEq]
  refine ⟨hCommit.keyed, hCommit.unit.trans (hUpdated.unit.trans mUnit), fun k hk => ?_, cStep, cFlags, cJob, fun c hc => ?_⟩
  · have hElem := hAre k hk
    have hValues : ∀ i < 8, (marked s d a h).byte (base + 8 * (0 + k) + i) = s.byte (base + 8 * (0 + k) + i) := fun i hi =>
      mBytes _ fun w hw => by
        simp only [List.mem_cons, List.not_mem_nil, or_false] at hw
        rcases hw with rfl | rfl
        · dsimp only; omega
        · dsimp only; omega
    rw [elemBytes_congr hValues, Nat.zero_add] at hElem
    refine bytesAre_congr (fun c hLo hHi => ?_) hElem
    rw [length_elemBytes] at hHi
    refine (hCommit.bytes c fun w hw => ?_).trans (hCount.bytes c fun w hw => absurd hw List.not_mem_nil)
    simp only [List.nil_append, List.mem_cons, List.not_mem_nil, or_false] at hw
    rcases hw with rfl | rfl
    · dsimp only; omega
    · dsimp only; omega
  · obtain ⟨hLine, hJob, hArea⟩ := List.forall_mem_cons.mp hc |>.imp_right List.forall_mem_cons.mp
    have hArea := hArea _ List.mem_cons_self
    dsimp only at hLine hJob hArea
    refine (hCommit.bytes c fun w hw => ?_).trans ((hUpdated.bytes c fun w hw => ?_).trans (mBytes c fun w hw => ?_))
    · exact hc w (List.mem_of_mem_take (i := 2) hw)
    · rw [List.append_nil, List.mem_singleton] at hw
      rw [hw]
      dsimp only
      omega
    · simp only [List.mem_cons, List.not_mem_nil, or_false] at hw
      rcases hw with rfl | rfl
      · dsimp only; omega
      · dsimp only; omega

/-! ### The command -/

theorem byte_of_unbooked (h : unbooked t = unbooked s) (b : Nat) : t.byte b = s.byte b := by
  have hKey : (unbooked t).keyOk (b / 64) = (unbooked s).keyOk (b / 64) := by rw [h]
  have hMem : (unbooked t).mem = (unbooked s).mem := by rw [h]
  have hFresh : (unbooked t).fresh = (unbooked s).fresh := by rw [h]
  have hKey' : t.keyOk (b / 64) = s.keyOk (b / 64) := hKey
  rw [State.byte, State.byte, hKey', show t.mem = s.mem from hMem, show t.fresh = s.fresh from hFresh]

theorem nmu_of_unbooked (h : unbooked t = unbooked s) : t.nmu = s.nmu := by
  have hNmu : (unbooked t).nmu = (unbooked s).nmu := by rw [h]
  exact hNmu

/-- The engine's list position behind shard `i`. -/
def passed (t : State) (d : Fin 4) (i : W32) : State := t.modNmu d fun x => { x with u := { x.u with next := i.toNat + 1 } }

/-- The engine goes to the next shard, or its work on the step ends; `c` says that the list is done. -/
def onward (t : State) (d : Fin 4) (i : W32) (j : Nat) (c : Bool) : State :=
  if (passed t d i).nmu[d].u.run ≠ .fd1 then passed t d i
  else if c then ((passed t d i).modNmu d fun x => { x with u := { x.u with run := .ended } }).stepEnd j (16 + d) else passed t d i

theorem passed_next (t : State) (d : Fin 4) (i : W32) : (passed t d i).nmu[d].u.next = i.toNat + 1 := by rw [passed, modNmu_same]

theorem onward_gives (t : State) (d : Fin 4) (i : W32) (j : Nat) (c : Bool) :
    (onward t d i j c).nmu[d].u.next = i.toNat + 1 ∧ ∀ b, (onward t d i j c).byte b = t.byte b := by
  have hPassed : ∀ b, (passed t d i).byte b = t.byte b := fun _ => rfl
  unfold onward
  split
  · exact ⟨passed_next t d i, hPassed⟩
  · split
    · have hEnd := stepEnd_unbooked ((passed t d i).modNmu d fun x => { x with u := { x.u with run := .ended } }) j (16 + d)
      refine ⟨?_, fun b => byte_of_unbooked hEnd b⟩
      refine (congrArg (fun x : Vector Nmu 4 => x[d].u.next) (nmu_of_unbooked hEnd)).trans ?_
      dsimp only
      rw [modNmu_same]
      exact passed_next t d i
    · exact ⟨passed_next t d i, hPassed⟩

theorem touches_accessed (s : State) (d : Fin 4) (ps : List (Nat × Nat)) :
    Accessed s (ps.foldl (fun (s : State) p => s.touch (.nmu d) p.1 p.2) s) := by
  induction ps generalizing s with
  | nil => exact Accessed.refl s
  | cons p ps ih => exact (touch_accessed s d p.1 p.2).trans (ih _)

/-- What the engine reads for a shard has been read. -/
def shardRead (s : State) (d : Fin 4) (i : W32) : State :=
  (fd1Reads s d i.toNat).foldl (fun (s : State) p => s.touch (.nmu d) p.1 p.2) s

/-- The shard that the list names. -/
def shardAt (s : State) (d : Fin 4) (i : W32) : Nat := s.readNat (argField s d 128 8 + 8 * i.toNat) 8

theorem exec_fd1 {i : W32} (hRun : s.nmu[d].u.run = .fd1) (hNext : i.toNat = s.nmu[d].u.next) (hList : i.toNat < argField s d 136 4)
    (hChk : fd1Chk s d i.toNat = none) (hClean : Clean s) : ∃ c : Bool, exec (.fd1ShardUpdate d i) s =
      .next (onward (fd1Shard (shardRead s d i) d (shardAt s d i) false) d i s.nmu[d].u.job c) := by
  have hBad : ((fd1Reads s d i.toNat).any fun p => s.poisonedRange p.1 p.2) = false :=
    List.any_eq_false.mpr fun p _ => by rw [hClean.range]; exact Bool.false_ne_true
  refine ⟨decide (argField (passed (fd1Shard (shardRead s d i) d (shardAt s d i) false) d i) d 136 4 ≤ i.toNat + 1), ?_⟩
  change execFd1ShardUpdate d i s = _
  unfold execFd1ShardUpdate
  have hStop : ¬(s.nmu[d].u.run ≠ .fd1 ∨ i.toNat ≠ s.nmu[d].u.next ∨ argField s d 136 4 ≤ i.toNat) := by
    rintro (h | h | h)
    · exact h hRun
    · exact h hNext
    · omega
  refine (if_neg hStop).trans ?_
  rw [hChk]
  extract_lets rs a bad s1 s2
  have hLast : s2 = passed (fd1Shard (shardRead s d i) d (shardAt s d i) false) d i := by
    simp only [s2, s1, bad, rs, hBad]
    rfl
  rw [hLast]
  generalize fd1Shard (shardRead s d i) d (shardAt s d i) false = v
  unfold onward
  simp only [decide_eq_true_eq]
  split_ifs <;> rfl

theorem touch_lkp (hClean : Clean s) (a n : Nat) : (s.touch (.nmu d) a n).lkp = s.lkp := by
  have hNote : s.notePoison (s.unit (.nmu d)).job (unitAddr (.nmu d) a) n = s := by
    have hFind : (linesOf (unitAddr (.nmu d) a) n).find? s.poisoned = none :=
      List.find?_eq_none.mpr fun line _ => by rw [hClean line]; exact Bool.false_ne_true
    rw [State.notePoison, hFind]
  unfold State.touch
  rw [hNote]
  exact llc_lkp s _ _ _

theorem touches_lkp (hClean : Clean s) (ps : List (Nat × Nat)) : (ps.foldl (fun (s : State) p => s.touch (.nmu d) p.1 p.2) s).lkp = s.lkp := by
  induction ps generalizing s with
  | nil => rfl
  | cons p ps ih => exact (ih (clean_of_poisoned hClean (touch_accessed s d p.1 p.2).poisoned)).trans (touch_lkp hClean p.1 p.2)

theorem argField_congr (h : Accessed s t) (hKeyed : AllKeyed s) (off n : Nat) : argField t d off n = argField s d off n := by
  rw [argField, argField, h.nmu, readNat_of_bytes (s := s) fun i _ => h.toAlike.byte hKeyed _]

theorem readFd1_congr (h : ∀ b, t.byte b = s.byte b) (a : Nat) : readFd1 t a = readFd1 s a := by
  simp only [readFd1, State.readNat, read_congr h]

/-- A shard is due as much when what the engine reads for it has been read. -/
theorem Due.accessed {a : Nat} {h : Shard} {b : Fd1} (hDue : Due s d a h b) (hRead : Accessed s t) (hLkp : t.lkp = s.lkp) : Due t d a h b := by
  have hByte : ∀ b, t.byte b = s.byte b := fun b => hRead.toAlike.byte hDue.keyed b
  have hJob (j : Nat) : t.jobRun j = s.jobRun j := by rw [State.jobRun, State.jobRun, hLkp]
  refine ⟨fun line => (keyOk_eq hRead.device hRead.memory line).trans (hDue.keyed line), clean_of_poisoned hDue.clean hRead.poisoned,
    (readShard_congr hByte a).trans hDue.header, ?_, (fd1Ok_congr (by rw [hRead.nmu])).trans hDue.ok, hDue.scales, hDue.free, ?_,
    (argField_congr hRead hDue.keyed 144 8).trans hDue.rate⟩
  · rw [argField_congr hRead hDue.keyed, readFd1_congr hByte]
    exact hDue.block
  · rw [hRead.nmu, hJob]
    exact hDue.step

theorem fd1_gives {i : W32} {a : Nat} {h : Shard} {b : Fd1} (hAt : shardAt s d i = a) (hRun : s.nmu[d].u.run = .fd1)
    (hNext : i.toNat = s.nmu[d].u.next) (hList : i.toNat < argField s d 136 4) (hChk : fd1Chk s d i.toNat = none) (hDue : Due s d a h b) :
    Gives (.fd1ShardUpdate d i) s fun t => t.nmu[d].u.next = i.toNat + 1 ∧
      (∀ k < h.rowLen, BytesAre t (a + h.off[0]?.getD 0 + 8 * k) (elemBytes s b (decodePosit 16 b.lr) (biasC16 b.b1 (min (h.step + 1) 65535))
        (biasC16 b.b2 (min (h.step + 1) 65535)) (h.tscale.map (decodePosit 16)) (a + h.off[0]?.getD 0 + 8 * k))) ∧
      BytesAre t (a + 8) (leBytes 4 (min (h.step + 1) 65535)) ∧ BytesAre t (a + 7) [0] ∧ BytesAre t (a + 56) [0, 0] ∧
      BytesKept s t [(a + 7, 5), (a + 56, 2), (a + h.off[0]?.getD 0, 8 * h.rowLen)] := by
  have hRead : Accessed s (shardRead s d i) := touches_accessed s d _
  obtain ⟨c, hExec⟩ := exec_fd1 hRun hNext hList hChk hDue.clean
  rw [hAt] at hExec
  obtain ⟨-, -, tElems, tStep, tFlags, tJob, tKept⟩ := fd1Shard_gives (hDue.accessed hRead (touches_lkp hDue.clean _))
  obtain ⟨hPos, hByte⟩ := onward_gives (fd1Shard (shardRead s d i) d a false) d i s.nmu[d].u.job c
  have hSame : ∀ b, (shardRead s d i).byte b = s.byte b := fun b => hRead.toAlike.byte hDue.keyed b
  generalize fd1Shard (shardRead s d i) d a false = v at *
  have hAre {x : Nat} {bs : List Byte} (hx : BytesAre v x bs) : BytesAre (onward v d i s.nmu[d].u.job c) x bs :=
    bytesAre_congr (fun b _ _ => hByte b) hx
  refine ⟨_, hExec, hPos, fun k hk => hAre ?_, hAre tStep, hAre tFlags, hAre tJob, fun x _ hOut => (hByte x).trans ((tKept x hOut).trans (hSame x))⟩
  have hElem := tElems k hk
  rwa [elemBytes_congr (s := s) fun j _ => hSame _] at hElem

/-- Settles O28: the list's next shard is due as much when the engine has read for it, and the shard's elements, header and the engine's
position follow from one lemma each. -/
theorem fd1UpdatesAShard : Obligations.Fd1UpdatesAShard := by
  unfold Obligations.Fd1UpdatesAShard
  intro d i s hKeyed hClean u a h b e hRun hNext hList hChk hOk hScales hFree hStep hRate base step elem
  exact fd1_gives rfl hRun hNext hList hChk ⟨hKeyed, hClean, rfl, rfl, hOk, hScales, hFree, hStep, hRate⟩

end Sys2Proof.Machine.Fd1Shards

/-! PROOF. The SFU table banks (05 R165 to R173; 10 R624; 12 R415). -/

namespace Sys2Proof.Machine.SfuBanks

open Laws Frames Registers EgressRings Scalars

variable {s t u : State} {n : Fin 16} {x : Reach}

/-! ### A bank of a reach -/

theorem bankAt_setBank_same {k : Nat} (h : k < 2) (f : SfuBank → SfuBank) : (x.setBank k f).bankAt k = f (x.bankAt k) := by
  simp [Reach.bankAt, Reach.setBank, h]

theorem bankAt_setBank_ne {k j : Nat} (h : k ≠ j) (f : SfuBank → SfuBank) : (x.setBank k f).bankAt j = x.bankAt j := by
  by_cases hk : k < 2
  · simp [Reach.bankAt, Reach.setBank, hk, Vector.getElem?_set_ne _ h]
  · simp [Reach.bankAt, Reach.setBank, hk]

theorem bankAt_modBank_same {k : Nat} (h : k < 2) (f : SfuBank → SfuBank) :
    (s.modBank n k f).reach[n].bankAt k = f (s.reach[n].bankAt k) := by
  rw [State.modBank, modReach_same]
  exact bankAt_setBank_same h f

theorem bankAt_modBank_ne {k j : Nat} (h : k ≠ j) (f : SfuBank → SfuBank) :
    (s.modBank n k f).reach[n].bankAt j = s.reach[n].bankAt j := by
  rw [State.modBank, modReach_same]
  exact bankAt_setBank_ne h f

theorem active_modBank (k : Nat) (f : SfuBank → SfuBank) : (s.modBank n k f).reach[n].active = s.reach[n].active := by
  rw [State.modBank, modReach_same]
  rfl

theorem loadingBank_of_other {k : Nat} (hk : k < 2) (h : (x.bankAt k).state = .loading) (hOther : (x.bankAt (1 - k)).state ≠ .loading) :
    x.loadingBank = some k := by
  obtain rfl | rfl : k = 0 ∨ k = 1 := by omega
  · simp [Reach.loadingBank, h]
  · simp_all [Reach.loadingBank]

theorem loadingBank_eq_none (h : ∀ k < 2, (x.bankAt k).state ≠ .loading) : x.loadingBank = none := by
  simp [Reach.loadingBank, h 0 (by decide), h 1 (by decide)]

/-! ### What a change of the banks leaves as it was -/

/-- The unit and the accumulators of the reach, the other units, the device and memory are as they were. -/
def BankFrame (n : Fin 16) (s t : State) : Prop :=
  t.reach[n].u = s.reach[n].u ∧ t.reach[n].bank = s.reach[n].bank ∧ OthersKept s t (.reach n) ∧ DeviceKept s t ∧ MemoryKept s t

theorem BankFrame.trans (h : BankFrame n s t) (k : BankFrame n t u) : BankFrame n s u := by
  obtain ⟨hu, hBank, ⟨hReach, hNmu⟩, hDev, hMem, hPoison, hKey⟩ := h
  obtain ⟨ku, kBank, ⟨kReach, kNmu⟩, kDev, kMem, kPoison, kKey⟩ := k
  exact ⟨ku.trans hu, kBank.trans hBank, ⟨fun m hm => (kReach m hm).trans (hReach m hm), fun d hd => (kNmu d hd).trans (hNmu d hd)⟩,
    NmuAccess.deviceKept_trans hDev kDev, kMem.trans hMem, kPoison.trans hPoison, kKey.trans hKey⟩

theorem modReach_bankFrame {f : Reach → Reach} (hu : (f s.reach[n]).u = s.reach[n].u) (hBank : (f s.reach[n]).bank = s.reach[n].bank) :
    BankFrame n s (s.modReach n f) := by
  refine ⟨?_, ?_, ⟨fun m hm => modReach_ne s (fun h => hm (congrArg Res.reach h.symm)) f, fun _ _ => rfl⟩,
    ⟨rfl, rfl, rfl, rfl, rfl, rfl, rfl, rfl, rfl, rfl, rfl, rfl, rfl, rfl, rfl⟩, rfl, rfl, rfl⟩
  · rw [modReach_same]
    exact hu
  · rw [modReach_same]
    exact hBank

theorem modBank_bankFrame (k : Nat) (f : SfuBank → SfuBank) : BankFrame n s (s.modBank n k f) := modReach_bankFrame rfl rfl

theorem bump_bankFrame : BankFrame n s s.bump :=
  ⟨rfl, rfl, ⟨fun _ _ => rfl, fun _ _ => rfl⟩, ⟨rfl, rfl, rfl, rfl, rfl, rfl, rfl, rfl, rfl, rfl, rfl, rfl, rfl, rfl, rfl⟩, rfl, rfl, rfl⟩

theorem raise_bankFrame (e : Ev) : BankFrame n s (s.raise e) :=
  ⟨by simp, by simp, ⟨fun _ _ => by simp, fun _ _ => by simp⟩, by simp [DeviceKept], by simp [MemoryKept]⟩

/-! ### RCH_n_SFU_RELOAD and RCH_n_SFU_SWITCH (05 R172, R173) -/

/-- What a plain write of a register of a reach does. -/
theorem plainWrite_reach (p : Port) {o off : Nat} (hOff : off = 0x100000 + n * 0x10000 + o) (h : o = 0x208 ∨ o = 0x210)
    (hHolds : s.holds p 3 = true) (v : W64) :
    (s.plainWrite p off v).1 =
      if o = 0x208 then s.sfuReload n p v else if bitAt v.toNat 0 then s.sfuSwitch n p else s := by
  unfold State.plainWrite
  rw [dif_neg (by omega)]
  split
  case h_19 =>
    rw [if_neg (by omega), dif_pos (by omega)]
    have hReg : off % 0x10000 = o := by omega
    have hReach : (⟨(off - 0x100000) / 0x10000, by omega⟩ : Fin 16) = n := Fin.ext (by simp only; omega)
    rw [hReg]
    rcases h with rfl | rfl
    · simp only [State.rwl, hHolds, if_true, keep, hReach]
    · simp only [State.rwl, hHolds, if_true, keep, hReach]
      rfl
  all_goals omega

section
variable {p : Port} (hOpen : OpenPort s p) (hHolds : s.holds p 3 = true)
include hOpen hHolds

theorem exec_sfuReload (v : W64) : exec (.sfuReload p n v) s = .next (s.sfuReload n p v) := by
  have hReg : RwlReg (0x100208 + n.val * 0x10000) 3 := rwlReg_reach (n := n) (o := 0x208) (by omega) (.inl rfl)
  change Host.Outcome.next (s.portWrite p (0x100208 + n.val * 0x10000) v) = _
  rw [portWrite_plain hOpen hReg.aligned hReg.defined hReg.mode v (hReg.clr s _),
    plainWrite_reach (n := n) p (o := 0x208) (by omega) (.inl rfl) hHolds, if_pos rfl]

theorem exec_sfuSwitch : exec (.sfuSwitch p n) s = .next (s.sfuSwitch n p) := by
  have hReg : RwlReg (0x100210 + n.val * 0x10000) 3 := rwlReg_reach (n := n) (o := 0x210) (by omega) (.inr rfl)
  change Host.Outcome.next (s.portWrite p (0x100210 + n.val * 0x10000) 1) = _
  rw [portWrite_plain hOpen hReg.aligned hReg.defined hReg.mode 1 (hReg.clr s _),
    plainWrite_reach (n := n) p (o := 0x210) (by omega) (.inr rfl) hHolds, if_neg (by decide), if_pos (by decide)]

end

section
variable {p : Port} {v : W64} {k : Nat} (hk : k = (v.extractLsb' 0 1).toNat) (hFree : s.banksFrozen = false)
include hk hFree

theorem sfuReload_starts (hLoading : s.reach[n].loadingBank = none)
    (h : (s.reach[n].bankAt k).state = .empty ∨ (s.reach[n].bankAt k).state = .ready) :
    s.sfuReload n p v = (s.modReach n fun x => { x with reload := v.setWidth 29 }).modBank n k fun _ =>
      { state := .loading, src := (v.extractLsb' 1 28).toNat * 4096 } := by
  have hBit : bits v.toNat 0 1 = k := (bits_toNat v 0 1).trans hk.symm
  have hNot : ((s.reach[n].bankAt k).state == .active || (s.reach[n].bankAt k).state == .pending) = false := by
    rcases h with h | h <;> rw [h] <;> rfl
  simp only [State.sfuReload, hBit, hFree, hNot, hLoading, Option.isSome_none, Bool.false_eq_true, if_false, bits_toNat]

theorem sfuReload_of_active (h : (s.reach[n].bankAt k).state = .active) :
    s.sfuReload n p v = s.raise { code := 0x0105, kind := portKind p, addr := n } := by
  have hBit : bits v.toNat 0 1 = k := (bits_toNat v 0 1).trans hk.symm
  have hHeld : ((s.reach[n].bankAt k).state == .active || (s.reach[n].bankAt k).state == .pending) = true := by rw [h]; rfl
  simp only [State.sfuReload, hBit, hFree, hHeld, Bool.false_eq_true, if_false, if_true]

end

theorem kind_of_port (p : Port) : portKind p = kindOf p := by
  cases p <;> rfl

/-! ### The end of a load (05 R167, R168) -/

/-- The table that a load of a bank reads. -/
def loadTab (s : State) (g : SfuBank) : List Byte := if g.own then profSect (s.slotImg g.slot.toNat) 4 else s.read g.src 4096

/-- The image of a load passes its checks (05 R167). -/
def LoadGood (s : State) (g : SfuBank) : Prop :=
  if g.own then
    imgOk (((manEntries (profSect (s.slotImg g.slot.toNat) 2)).filter fun e => e.kind == 3).map (·.digest)) (loadTab s g) = true
  else (s.inDram g.src 4096 = true ∨ s.inSpad g.src 4096 = true) ∧ s.poisonedRange g.src 4096 = false ∧
    imgOk s.prf.sfuDigests (loadTab s g) = true

theorem read_bump (hKeyed : AllKeyed s) (a len : Nat) : s.bump.read a len = s.read a len := by
  refine List.map_congr_left fun i _ => ?_
  have hFrame : BankFrame 0 s s.bump := bump_bankFrame
  obtain ⟨-, -, -, hDev, hMem⟩ := hFrame
  exact NmuAccess.byte_eq hDev hMem (hKeyed _)

theorem loadImage_congr {g : SfuBank} (hPrf : t.prf = s.prf) (hDram : t.inDram g.src 4096 = s.inDram g.src 4096)
    (hSpad : t.inSpad g.src 4096 = s.inSpad g.src 4096) (hMark : t.poisonedRange g.src 4096 = s.poisonedRange g.src 4096)
    (hRead : t.read g.src 4096 = s.read g.src 4096) : t.loadImage g = s.loadImage g := by
  unfold State.loadImage
  rw [hPrf, hDram, hSpad, hMark, hRead]

theorem inSpad_congr (h : t.mdie = s.mdie) (a len : Nat) : t.inSpad a len = s.inSpad a len := by
  unfold State.inSpad State.inSpadOf State.spadLen
  rw [h]

theorem inDram_bump (a len : Nat) : s.bump.inDram a len = s.inDram a len :=
  Faults.inDram_congr (bump_dev s) (fun d => congrArg (fun v : Vector MDie 4 => v[d].gone) (bump_mdie s)) _ _

theorem poisoned_bump (line : Nat) : s.bump.poisoned line = s.poisoned line := rfl

theorem loadImage_bump (hKeyed : AllKeyed s) (g : SfuBank) : s.bump.loadImage g = s.loadImage g :=
  loadImage_congr (bump_prf s) (inDram_bump _ _) (inSpad_congr (bump_mdie s) _ _) (NmuAccess.poisonedRange_congr poisoned_bump _ _)
    (read_bump hKeyed _ _)

theorem loadImage_good {g : SfuBank} (h : LoadGood s g) : s.loadImage g = some (loadTab s g) := by
  cases hOwn : g.own with
  | true =>
    simp only [LoadGood, loadTab, hOwn, if_true] at h ⊢
    rw [State.loadImage, if_pos hOwn]
    exact if_pos h
  | false =>
    simp only [LoadGood, loadTab, hOwn, Bool.false_eq_true, if_false] at h ⊢
    obtain ⟨hIn, hPoison, hImg⟩ := h
    have hIn : (s.inDram g.src 4096 || s.inSpad g.src 4096) = true := by simpa using hIn
    rw [State.loadImage, if_neg (by simp [hOwn]), if_neg (by simp [hIn, hPoison])]
    exact if_pos hImg

theorem loadImage_bad {g : SfuBank} (h : ¬LoadGood s g) : s.loadImage g = none := by
  cases hOwn : g.own with
  | true =>
    simp only [LoadGood, loadTab, hOwn, if_true] at h
    rw [State.loadImage, if_pos hOwn]
    exact if_neg h
  | false =>
    simp only [LoadGood, loadTab, hOwn, Bool.false_eq_true, if_false] at h
    rw [State.loadImage, if_neg (by simp [hOwn])]
    split
    · rfl
    · next hIn =>
      have hHeld : (s.inDram g.src 4096 = true ∨ s.inSpad g.src 4096 = true) ∧ s.poisonedRange g.src 4096 = false := by
        simpa [← Bool.not_eq_true, ← or_iff_not_imp_left] using hIn
      exact if_neg fun hImg => h ⟨hHeld.1, hHeld.2, hImg⟩

section
variable {k : Nat} (hKeyed : AllKeyed s)
include hKeyed

theorem endLoad_good (h : LoadGood s (s.reach[n].bankAt k)) :
    s.endLoad n k = (s.bump.modBank n k fun _ => { state := .ready, image := loadTab s (s.reach[n].bankAt k) }, false) := by
  rw [State.endLoad, loadImage_bump hKeyed, loadImage_good h]

theorem endLoad_bad (h : ¬LoadGood s (s.reach[n].bankAt k)) :
    s.endLoad n k = ((s.bump.modBank n k fun _ => {}).raise
      { code := 0x0108, kind := 1, part := n, addr := (s.reach[n].bankAt k).src }, true) := by
  rw [State.endLoad, loadImage_bump hKeyed, loadImage_bad h]

end

theorem endLoad_bankFrame (k : Nat) : BankFrame n s (s.endLoad n k).1 := by
  have h : BankFrame n s s.bump := bump_bankFrame
  rw [State.endLoad]
  cases s.bump.loadImage (s.reach[n].bankAt k) with
  | some img => exact h.trans (modBank_bankFrame k _)
  | none => exact (h.trans (modBank_bankFrame k _)).trans (raise_bankFrame _)

/-- The bank's load is over, and the other bank is as it was. -/
theorem endLoad_banks {k : Nat} (hk : k < 2) :
    ((s.endLoad n k).1.reach[n].bankAt k).state ≠ .loading ∧
      (s.endLoad n k).1.reach[n].bankAt (1 - k) = s.reach[n].bankAt (1 - k) ∧ (s.endLoad n k).1.reach[n].active = s.reach[n].active := by
  have hNe : k ≠ 1 - k := by omega
  rw [State.endLoad]
  cases s.bump.loadImage (s.reach[n].bankAt k) with
  | some img =>
    refine ⟨?_, bankAt_modBank_ne hNe _, active_modBank k _⟩
    rw [bankAt_modBank_same hk]
    simp
  | none =>
    simp only [raise_reach]
    refine ⟨?_, bankAt_modBank_ne hNe _, active_modBank k _⟩
    rw [bankAt_modBank_same hk]
    simp

/-! ### SFU_LOAD_DONE (05 R168, 12 R415) -/

/-- A change goes on once none of its loads is left. -/
def goOn (s : State) : State := if s.prf.loads.isEmpty then s.loadsDone else s

/-- What a change goes on to once its loads are complete touches no unit, no bank and no byte. -/
theorem loadsDone_kept : s.loadsDone.reach = s.reach ∧ s.loadsDone.nmu = s.nmu ∧ MemoryKept s s.loadsDone ∧
    s.loadsDone.prf.loads = s.prf.loads := by
  rw [State.loadsDone]
  split
  · exact ⟨rfl, rfl, ⟨rfl, rfl, rfl⟩, rfl⟩
  · split
    · exact ⟨rfl, rfl, ⟨rfl, rfl, rfl⟩, rfl⟩
    · exact ⟨rfl, rfl, ⟨rfl, rfl, rfl⟩, rfl⟩

theorem goOn_kept : (goOn s).reach = s.reach ∧ (goOn s).nmu = s.nmu ∧ MemoryKept s (goOn s) ∧ (goOn s).prf.loads = s.prf.loads := by
  rw [goOn]
  split
  · exact loadsDone_kept
  · exact ⟨rfl, rfl, ⟨rfl, rfl, rfl⟩, rfl⟩

section
variable {k : Nat} (hLoad : s.reach[n].loadingBank = some k)
include hLoad

theorem exec_sfuLoadDone_plain (h : s.prf.chg ≠ .loading) : exec (.sfuLoadDone n) s = .next (s.endLoad n k).1 := by
  have hPrf : (s.endLoad n k).1.prf = s.prf := by
    obtain ⟨-, -, -, hDev, -⟩ := endLoad_bankFrame (s := s) (n := n) k
    obtain ⟨-, -, -, -, -, -, -, hPrf, -⟩ := hDev
    exact hPrf
  change execSfuLoadDone n s = _
  simp only [execSfuLoadDone, hLoad]
  rw [if_pos (by rw [hPrf]; exact h)]

theorem exec_sfuLoadDone_change (h : s.prf.chg = .loading) : exec (.sfuLoadDone n) s = .next (
    if ¬((s.reach[n].bankAt k).own = true ∧ (s.reach[n].bankAt k).slot = s.prf.target) then (s.endLoad n k).1.ownLoad n
    else if (s.endLoad n k).2 = true then ((s.endLoad n k).1.prfResult 3 0x0108).chgClear
    else goOn { (s.endLoad n k).1 with prf := { s.prf with loads := setDel n s.prf.loads } }) := by
  have hPrf : (s.endLoad n k).1.prf = s.prf := by
    obtain ⟨-, -, -, hDev, -⟩ := endLoad_bankFrame (s := s) (n := n) k
    obtain ⟨-, -, -, -, -, -, -, hPrf, -⟩ := hDev
    exact hPrf
  change execSfuLoadDone n s = _
  simp only [execSfuLoadDone, hLoad]
  rw [if_neg (by rw [hPrf]; simp [h]), hPrf]
  congr 1
  exact if_congr (by simp [imp_iff_not_or]) rfl rfl

end

/-- Where no load is in progress the lockkeeper starts its own in the bank that is not active. -/
theorem ownLoad_starts (h : s.reach[n].loadingBank = none) :
    (s.ownLoad n).reach[n].bankAt (1 - s.reach[n].active) = { state := .loading, own := true, slot := s.prf.target } := by
  rw [State.ownLoad, h, if_neg (by simp), bankAt_modBank_same (by omega)]

theorem ownLoad_bankFrame (h : s.reach[n].loadingBank = none) : BankFrame n s (s.ownLoad n) := by
  rw [State.ownLoad, h, if_neg (by simp)]
  exact modBank_bankFrame _ _

/-! ### A switch (05 R168, R170) -/

theorem activate_bankAt (k j : Nat) : (x.activate k).bankAt j =
    ((x.setBank x.active fun b => if b.state = .active then { b with state := .ready } else b).setBank k fun b =>
      { b with state := .active }).bankAt j := rfl

section
variable {k : Nat} (hk : k < 2) (hActive : x.active = k)
include hk hActive

theorem activate_other (h : (x.bankAt k).state = .active) :
    (x.activate (1 - k)).active = 1 - k ∧ ((x.activate (1 - k)).bankAt (1 - k)).state = .active ∧
      ((x.activate (1 - k)).bankAt k).state = .ready ∧
      ((x.activate (1 - k)).bankAt (1 - k)).image = (x.bankAt (1 - k)).image ∧
      ((x.activate (1 - k)).bankAt k).image = (x.bankAt k).image := by
  have hNe : 1 - k ≠ k := by omega
  have hOther : (x.activate (1 - k)).bankAt (1 - k) = { x.bankAt (1 - k) with state := .active } := by
    rw [activate_bankAt, bankAt_setBank_same (by omega), hActive, bankAt_setBank_ne hNe.symm]
  have hSame : (x.activate (1 - k)).bankAt k = { x.bankAt k with state := .ready } := by
    rw [activate_bankAt, bankAt_setBank_ne hNe, hActive, bankAt_setBank_same hk, if_pos h]
  rw [hOther, hSame]
  exact ⟨rfl, rfl, rfl, rfl, rfl⟩

end

/-- The banks after a switch has been accepted. -/
def pend (x : Reach) (k : Nat) (time : W64) : Reach := { x.setBank k fun b => { b with state := .pending } with swAt := time }

theorem sfuSwitch_ready {p : Port} {k : Nat} (hActive : s.reach[n].active = k) (hFree : s.banksFrozen = false)
    (h : (s.reach[n].bankAt (1 - k)).state = .ready) :
    s.sfuSwitch n p = (s.modReach n fun x => pend x (1 - k) s.time).unlessForced fun s => s.modReach n fun x => x.activate (1 - k) := by
  rw [State.sfuSwitch, hActive, hFree, if_neg (by decide), h]
  rfl

theorem sfuSwitch_refused {p : Port} {k : Nat} (hActive : s.reach[n].active = k) (hFree : s.banksFrozen = false)
    (h : (s.reach[n].bankAt (1 - k)).state = .empty ∨ (s.reach[n].bankAt (1 - k)).state = .loading) :
    s.sfuSwitch n p = s.raise { code := 0x0106, kind := portKind p, addr := n } := by
  rw [State.sfuSwitch, hActive, hFree, if_neg (by decide)]
  rcases h with h | h
  · rw [h]
  · rw [h]

theorem pend_banks {k : Nat} (hk : k < 2) (time : W64) :
    (pend x (1 - k) time).bankAt (1 - k) = { x.bankAt (1 - k) with state := .pending } ∧ (pend x (1 - k) time).bankAt k = x.bankAt k :=
  ⟨bankAt_setBank_same (x := x) (k := 1 - k) (by omega) fun b => { b with state := .pending },
    bankAt_setBank_ne (x := x) (k := 1 - k) (j := k) (by omega) fun b => { b with state := .pending }⟩

/-! ### The obligation -/

section
variable {k : Nat} (hk : k < 2) (hLoading : (s.reach[n].bankAt k).state = .loading)
  (hOther : (s.reach[n].bankAt (1 - k)).state ≠ .loading)
include hk hLoading hOther

/-- The end of a load that a change does not wait for. -/
theorem loadDone_plain (hKeyed : AllKeyed s) (h : s.prf.chg ≠ .loading) :
    (LoadGood s (s.reach[n].bankAt k) → Gives (.sfuLoadDone n) s fun t =>
      (t.reach[n].bankAt k = { state := .ready, image := loadTab s (s.reach[n].bankAt k) } ∧
        t.reach[n].bankAt (1 - k) = s.reach[n].bankAt (1 - k)) ∧ BankFrame n s t) ∧
    (¬LoadGood s (s.reach[n].bankAt k) → Gives (.sfuLoadDone n) s fun t =>
      (t.reach[n].bankAt k = {} ∧ t.reach[n].bankAt (1 - k) = s.reach[n].bankAt (1 - k)) ∧ BankFrame n s t) ∧
    (¬LoadGood s (s.reach[n].bankAt k) → Gives (.sfuLoadDone n) s fun t => Raised s t 0x0108 0xFFFF (srcOf s 1 n)) := by
  have hExec := exec_sfuLoadDone_plain (loadingBank_of_other hk hLoading hOther) h
  have hFrame := endLoad_bankFrame (s := s) (n := n) k
  obtain ⟨-, hKept, -⟩ := endLoad_banks (s := s) (n := n) hk
  refine ⟨fun hGood => ⟨_, hExec, ⟨?_, hKept⟩, hFrame⟩, fun hBad => ⟨_, hExec, ⟨?_, hKept⟩, hFrame⟩, fun hBad => ⟨_, hExec, ?_⟩⟩
  · rw [endLoad_good hKeyed hGood]
    exact bankAt_modBank_same hk _
  · rw [endLoad_bad hKeyed hBad]
    simp only [raise_reach]
    exact bankAt_modBank_same hk _
  · rw [endLoad_bad hKeyed hBad]
    have hRaised := raise_raised (s.bump.modBank n k fun _ => {}) { code := 0x0108, kind := 1, part := n, addr := (s.reach[n].bankAt k).src }
    exact hRaised

/-- In a change, a load that is not the change's own is followed by the change's own. -/
theorem loadDone_foreign (h : s.prf.chg = .loading)
    (hForeign : ¬((s.reach[n].bankAt k).own = true ∧ (s.reach[n].bankAt k).slot = s.prf.target)) : Gives (.sfuLoadDone n) s fun t =>
      t.reach[n].bankAt (1 - s.reach[n].active) = { state := .loading, own := true, slot := s.prf.target } ∧ BankFrame n s t := by
  have hExec := exec_sfuLoadDone_change (loadingBank_of_other hk hLoading hOther) h
  rw [if_pos hForeign] at hExec
  have hFrame := endLoad_bankFrame (s := s) (n := n) k
  obtain ⟨hOver, hKept, hActive⟩ := endLoad_banks (s := s) (n := n) hk
  have hNone : (s.endLoad n k).1.reach[n].loadingBank = none := by
    refine loadingBank_eq_none fun j hj => ?_
    obtain rfl | rfl : j = k ∨ j = 1 - k := by omega
    · exact hOver
    · rw [hKept]
      exact hOther
  have hPrf : (s.endLoad n k).1.prf = s.prf := by
    obtain ⟨-, -, -, hDev, -⟩ := hFrame
    obtain ⟨-, -, -, -, -, -, -, hPrf, -⟩ := hDev
    exact hPrf
  refine ⟨_, hExec, ?_, hFrame.trans (ownLoad_bankFrame hNone)⟩
  have hStarts := ownLoad_starts hNone
  rwa [hActive, hPrf] at hStarts

/-- The change's own load, done: the reach is struck off, and the change goes on after the last one. -/
theorem loadDone_own (hKeyed : AllKeyed s) (h : s.prf.chg = .loading) (hOwn : (s.reach[n].bankAt k).own = true)
    (hSlot : (s.reach[n].bankAt k).slot = s.prf.target) (hGood : LoadGood s (s.reach[n].bankAt k)) : Gives (.sfuLoadDone n) s fun t =>
      t.reach[n].bankAt k = { state := .ready, image := loadTab s (s.reach[n].bankAt k) } ∧ t.prf.loads = setDel n s.prf.loads ∧
        OthersKept s t (.reach n) ∧ MemoryKept s t := by
  have hExec := exec_sfuLoadDone_change (loadingBank_of_other hk hLoading hOther) h
  rw [if_neg (not_not.mpr ⟨hOwn, hSlot⟩), endLoad_good hKeyed hGood, if_neg (by simp)] at hExec
  have hBank : (s.bump.modBank n k fun _ => { state := .ready, image := loadTab s (s.reach[n].bankAt k) }).reach[n].bankAt k =
      { state := .ready, image := loadTab s (s.reach[n].bankAt k) } := bankAt_modBank_same hk _
  have hFrame : BankFrame n s (s.bump.modBank n k fun _ => { state := .ready, image := loadTab s (s.reach[n].bankAt k) }) :=
    bump_bankFrame.trans (modBank_bankFrame k _)
  obtain ⟨-, -, hOthers, -, -⟩ := hFrame
  obtain ⟨hReach, hNmu, hMore, hLoads⟩ := goOn_kept (s := { (s.bump.modBank n k fun _ =>
    { state := .ready, image := loadTab s (s.reach[n].bankAt k) }) with prf := { s.prf with loads := setDel n s.prf.loads } })
  refine ⟨_, hExec, ?_, hLoads, ?_, hMore⟩
  · rw [hReach]
    exact hBank
  · rw [OthersKept, hReach, hNmu]
    exact hOthers

end

section
variable {p : Port} {k : Nat} (hk : k < 2) (hActive : s.reach[n].active = k) (hState : (s.reach[n].bankAt k).state = .active)
  (hOpen : OpenPort s p) (hHolds : s.holds p 3 = true) (hFree : s.banksFrozen = false)
  (hReady : (s.reach[n].bankAt (1 - k)).state = .ready)
include hk hActive hState hOpen hHolds hFree hReady

/-- A switch that is accepted while a schedule is in force waits for a lock point. -/
theorem switch_pends (hForce : s.lkp.inForce = true) : Gives (.sfuSwitch p n) s fun t =>
    (t.reach[n].active = k ∧ (t.reach[n].bankAt (1 - k)).state = .pending ∧ (t.reach[n].bankAt k).state = .active ∧
      t.reach[n].swAt = s.time ∧ (t.reach[n].bankAt (1 - k)).image = (s.reach[n].bankAt (1 - k)).image ∧
      (t.reach[n].bankAt k).image = (s.reach[n].bankAt k).image) ∧ BankFrame n s t := by
  have hExec := exec_sfuSwitch (n := n) hOpen hHolds
  rw [sfuSwitch_ready hActive hFree hReady, unlessForced_inForce (s := s.modReach n _) hForce] at hExec
  obtain ⟨hOther, hSame⟩ := pend_banks (x := s.reach[n]) hk s.time
  refine ⟨_, hExec, ?_, modReach_bankFrame rfl rfl⟩
  rw [modReach_same, hOther, hSame]
  exact ⟨hActive, rfl, hState, rfl, rfl, rfl⟩

/-- With no schedule in force it takes effect at once (10 R624). -/
theorem switch_acts (hForce : s.lkp.inForce = false) : Gives (.sfuSwitch p n) s fun t =>
    (t.reach[n].active = 1 - k ∧ (t.reach[n].bankAt (1 - k)).state = .active ∧ (t.reach[n].bankAt k).state = .ready ∧
      (t.reach[n].bankAt (1 - k)).image = (s.reach[n].bankAt (1 - k)).image ∧
      (t.reach[n].bankAt k).image = (s.reach[n].bankAt k).image) ∧ BankFrame n s t := by
  have hExec := exec_sfuSwitch (n := n) hOpen hHolds
  rw [sfuSwitch_ready hActive hFree hReady, unlessForced_idle (s := s.modReach n _) hForce] at hExec
  obtain ⟨hOther, hSame⟩ := pend_banks (x := s.reach[n]) hk s.time
  have hActs := activate_other (x := pend s.reach[n] (1 - k) s.time) hk hActive (by rw [hSame]; exact hState)
  rw [hOther, hSame] at hActs
  refine ⟨_, hExec, ?_, (modReach_bankFrame rfl rfl).trans (modReach_bankFrame rfl rfl)⟩
  rw [modReach_same, modReach_same]
  exact hActs

end

/-- Settles O31: each command is a write or the end of a load of one bank, and the frame is that of the banks. -/
theorem sfuBankLifeCycle : Obligations.SfuBankLifeCycle := by
  unfold Obligations.SfuBankLifeCycle
  intro n s x only
  refine ⟨fun p v k hk hOpen hHolds hFree hLoading => ⟨fun h => ?_, fun h => ?_⟩,
    fun k hLoading hOther hKeyed => ⟨fun h => loadDone_plain k.isLt hLoading hOther hKeyed h,
      fun h => ⟨loadDone_foreign k.isLt hLoading hOther h, loadDone_own k.isLt hLoading hOther hKeyed h⟩⟩,
    fun p k hActive hState hOpen hHolds hFree => ⟨fun hReady =>
      ⟨switch_pends k.isLt hActive hState hOpen hHolds hFree hReady, switch_acts k.isLt hActive hState hOpen hHolds hFree hReady⟩,
      fun h => ?_⟩⟩
  · have hSmall : k < 2 := hk ▸ (v.extractLsb' 0 1).isLt
    have hExec := exec_sfuReload (n := n) hOpen hHolds v
    rw [sfuReload_starts hk hFree hLoading h] at hExec
    refine ⟨_, hExec, ⟨bankAt_modBank_same hSmall _, ?_, ?_⟩, (modReach_bankFrame rfl rfl).trans (modBank_bankFrame _ _)⟩
    · rw [bankAt_modBank_ne (by omega), modReach_same]
      rfl
    · rw [active_modBank, modReach_same]
  · have hExec := exec_sfuReload (n := n) hOpen hHolds v
    rw [sfuReload_of_active hk hFree h] at hExec
    refine ⟨_, hExec, by simp, ?_⟩
    have hRaised := raise_raised s { code := 0x0105, kind := portKind p, addr := n }
    rwa [kind_of_port] at hRaised
  · have hExec := exec_sfuSwitch (n := n) hOpen hHolds
    rw [sfuSwitch_refused hActive hFree h] at hExec
    refine ⟨_, hExec, by simp, ?_⟩
    have hRaised := raise_raised s { code := 0x0106, kind := portKind p, addr := n }
    rwa [kind_of_port] at hRaised

end Sys2Proof.Machine.SfuBanks

/-! PROOF. The host's accesses: BAR2, BAR0 and the window's registers (13 R429 to R432, R453). -/

namespace Sys2Proof.Machine.HostWindow

open Laws NmuAccess Registers EgressRings Lrate HostErrorRing

variable {s t : State} {off len : Nat} {data : List Byte}

/-! ### The mark of a poisoned write (11 R362) -/

theorem writeLine_poison_true (a : Nat) (bs : List Byte) : (s.writeLine a bs true).poison = setIns (a / 64) s.poison := by
  unfold State.writeLine
  dsimp only
  split
  · simp
  · simp

theorem mem_poison_writeGo (k : Nat) : ∀ (s : State) (a : Nat) (bs : List Byte) {line : Nat}, line ∈ s.poison →
    line ∈ (s.writeGo a bs true k).poison := by
  induction k with
  | zero => exact fun _ _ _ _ h => h
  | succ k ih =>
    intro s a bs line h
    rw [State.writeGo]
    split
    · exact h
    · refine ih _ _ _ ?_
      rw [writeLine_poison_true, mem_setIns]
      exact .inr h

theorem mem_poison_write (h : data ≠ []) (a : Nat) : a / 64 ∈ (s.write a data true).poison := by
  rw [State.write, State.writeGo, if_neg (by simpa using h)]
  refine mem_poison_writeGo _ _ _ _ ?_
  rw [writeLine_poison_true, mem_setIns]
  exact .inl rfl

/-! ### BAR2 (13 R430, R431) -/

/-- The window serves an access of `n` bytes. -/
def Serves (s : State) (off n : Nat) : Prop :=
  s.dev.shed.toNat < 6 ∧ s.openMem (s.bar2Addr off) n = true ∧ off + n ≤ 2 ^ s.pci.size.toNat

theorem refused_iff (n : Nat) :
    (6 ≤ s.dev.shed.toNat || !s.openMem (s.bar2Addr off) n || decide (2 ^ s.pci.size.toNat < off + n)) = true ↔ ¬Serves s off n := by
  rw [Serves, Bool.or_eq_true, Bool.or_eq_true, decide_eq_true_eq, decide_eq_true_eq, Bool.not_eq_true']
  cases s.openMem (s.bar2Addr off) n with
  | true => simp; omega
  | false => simp

theorem openMem_send (o : Out) (a n : Nat) : (s.send o).openMem a n = s.openMem a n := by
  have hDram := Faults.inDram_congr (send_dev s o) (fun d => congrArg (fun v : Vector MDie 4 => v[d].gone) (send_mdie s o)) a n
  have hSpad := SfuBanks.inSpad_congr (send_mdie s o) a n
  rw [State.openMem, State.openMem, hDram, hSpad]

section
variable (hHeld : s.dev.held = false) (hMse : s.pci.mse = true) (hReady : s.prf.ready = true)
include hHeld hMse hReady

theorem exec_bar2Read_served (h : Serves s off len) : exec (.bar2Read off len) s = .next ((s.llc (s.bar2Addr off) len).bump.send
    (.pciCompletion 0 (s.poisonedRange (s.bar2Addr off) len) (s.read (s.bar2Addr off) len))) := by
  change execBar2Read off len s = _
  rw [execBar2Read]
  refine congrArg _ ?_
  rw [hHeld, hMse, hReady, if_neg (by decide), if_neg (by decide), if_neg (mt (refused_iff len).mp (not_not.mpr h))]

theorem exec_bar2Read_refused (h : ¬Serves s off len) : exec (.bar2Read off len) s = .next s.b2Bad.completerAbort := by
  change execBar2Read off len s = _
  rw [execBar2Read]
  refine congrArg _ ?_
  rw [hHeld, hMse, hReady, if_neg (by decide), if_neg (by decide), if_pos ((refused_iff len).mpr h)]

theorem read_gives (h : Serves s off len) : Gives (.bar2Read off len) s fun t =>
    t.out = s.out ++ [.pciCompletion 0 (s.poisonedRange (s.bar2Addr off) len) (s.read (s.bar2Addr off) len)] ∧ t.reach = s.reach ∧
      MemoryKept s t ∧ t.pci = s.pci := by
  have hAccessed := llc_accessed (s := s) (s.bar2Addr off) len (alloc := true)
  obtain ⟨-, -, hOut, -, -, -, hPci, -⟩ := hAccessed.device
  refine ⟨_, exec_bar2Read_served hHeld hMse hReady h, ?_, hAccessed.reach, hAccessed.memory, hPci⟩
  exact congrArg (· ++ _) hOut

/-- What a served write makes of memory. -/
def bar2Wrote (s : State) (a : Nat) (data : List Byte) (bad : Bool) : State :=
  ((s.write a data bad).hostWrote a data.length).llc a data.length

variable (hServing : s.draining = false)
include hServing

theorem exec_bar2Write_served (bad : Bool) (h : Serves s off data.length) : exec (.bar2Write off data bad) s = .next (
    if bad then (bar2Wrote (s.send (.aer 2 (some false))) (s.bar2Addr off) data true).raise
      { code := 0x0905, kind := 3, addr := s.bar2Addr off / 64 * 64 }
    else bar2Wrote s (s.bar2Addr off) data false) := by
  change execBar2Write off data bad s = _
  rw [execBar2Write]
  refine congrArg _ ?_
  rw [hHeld, hMse, hReady, if_neg (by decide)]
  cases bad with
  | false =>
    simp only [Bool.false_eq_true, if_false]
    rw [hServing, if_neg (by decide), if_neg (mt (refused_iff data.length).mp (not_not.mpr h))]
    rfl
  | true =>
    simp only [if_true]
    have hSent : (s.send (.aer 2 (some false))).draining = false := hServing
    rw [hSent, if_neg (by decide)]
    rw [openMem_send, send_dev, send_pci, if_neg (mt (refused_iff data.length).mp (not_not.mpr h))]
    rfl

theorem exec_bar2Write_refused (h : ¬Serves s off data.length) : exec (.bar2Write off data false) s = .next s.b2Bad := by
  change execBar2Write off data false s = _
  rw [execBar2Write]
  refine congrArg _ ?_
  rw [hHeld, hMse, hReady, if_neg (by decide)]
  simp only [Bool.false_eq_true, if_false]
  rw [hServing, if_neg (by decide), if_pos ((refused_iff data.length).mpr h)]

end

theorem hostWrote_byte (a n b : Nat) : (s.hostWrote a n).byte b = s.byte b := rfl

theorem bar2Wrote_kept (a : Nat) (bad : Bool) : BytesAre (bar2Wrote s a data bad) a data ∧
    BytesKept s (bar2Wrote s a data bad) [(a, data.length)] ∧ (bar2Wrote s a data bad).reach = s.reach ∧
    (bar2Wrote s a data bad).pci = s.pci ∧ (bar2Wrote s a data bad).poison = (s.write a data bad).poison := by
  have hByte (b : Nat) : (bar2Wrote s a data bad).byte b = (s.write a data bad).byte b := llc_byte _ _ _ _
  have hAccessed := llc_accessed (s := (s.write a data bad).hostWrote a data.length)
    a data.length (alloc := true)
  obtain ⟨-, -, -, -, -, -, hPci, -⟩ := hAccessed.device
  obtain ⟨-, hPoison, -⟩ := hAccessed.memory
  refine ⟨fun i hi => (hByte _).trans (write_bytesAre s _ _ _ i hi), fun b hk hOut => (hByte b).trans (write_bytesKept s _ _ _ b hk hOut),
    hAccessed.reach.trans ?_, hPci.trans ?_, hPoison⟩
  · exact write_reach s _ _ _
  · exact write_pci s _ _ _

theorem write_gives (hHeld : s.dev.held = false) (hMse : s.pci.mse = true) (hReady : s.prf.ready = true)
    (hServing : s.draining = false) {bad : Bool} (h : Serves s off data.length) : Gives (.bar2Write off data bad) s fun t =>
    BytesAre t (s.bar2Addr off) data ∧ BytesKept s t [(s.bar2Addr off, data.length)] ∧ t.reach = s.reach ∧ t.pci = s.pci ∧
      (bad = true → data ≠ [] → s.bar2Addr off / 64 ∈ t.poison ∧ LastEvent t 0x0905) := by
  have hExec := exec_bar2Write_served hHeld hMse hReady hServing bad h
  cases bad with
  | false =>
    obtain ⟨hAre, hKept, hReach, hPci, -⟩ := bar2Wrote_kept (s := s) (data := data) (s.bar2Addr off) false
    exact ⟨_, hExec, hAre, hKept, hReach, hPci, fun h => absurd h (by decide)⟩
  | true =>
    obtain ⟨hAre, hKept, hReach, hPci, hPoison⟩ := bar2Wrote_kept (s := s.send (.aer 2 (some false))) (data := data) (s.bar2Addr off) true
    refine ⟨_, hExec, hAre, hKept, hReach, hPci, fun _ hData => ⟨?_, raised_lastEvent (raise_raised _ _)⟩⟩
    have hMark := mem_poison_write (s := s.send (.aer 2 (some false))) hData (s.bar2Addr off)
    exact (congrArg (s.bar2Addr off / 64 ∈ ·) hPoison).mpr hMark

/-! ### BAR0 (13 R429) -/

theorem bar0Ok_read {o n : Nat} : bar0Ok o n true = true ↔ (n = 8 ∧ o % 8 = 0) ∨ (n = 4 ∧ o % 4 = 0) := by
  simp [bar0Ok]

theorem bar0Ok_write {o n : Nat} : bar0Ok o n false = true ↔ n = 8 ∧ o % 8 = 0 := by
  simp [bar0Ok]

section
variable {reg : BitVec 26} (hHeld : s.dev.held = false) (hMse : s.pci.mse = true)
include hHeld hMse

theorem half_gives {n : Nat} (h : bar0Ok reg.toNat n true = true) : Gives (.pciBadAccess reg (.read n)) s fun t =>
    UnitsKept s t ∧ MemoryKept s t ∧ t.pci = s.pci ∧ t.out = s.out ++ [.pciCompletion 0 false
      (((leBytes 8 (s.readReg (reg.toNat - reg.toNat % 8)).toNat).drop (reg.toNat % 8)).take n)] := by
  have hOff : reg.toNat - reg.toNat % 8 = reg.toNat / 8 * 8 := by omega
  have hExec : exec (.pciBadAccess reg (.read n)) s = .next ((if s.sec.debug then s.bump else s).send (.pciCompletion 0 false
      (((leBytes 8 (s.readReg (reg.toNat / 8 * 8)).toNat).drop (reg.toNat % 8)).take n))) := by
    change execPciBadAccess reg (.read n) s = _
    rw [execPciBadAccess]
    refine congrArg _ ?_
    rw [hHeld, if_neg (by decide), hMse, if_neg (by decide), if_pos h]
  refine ⟨_, hExec, ?_⟩
  rw [hOff]
  cases s.sec.debug with
  | true => exact ⟨⟨rfl, rfl, rfl, rfl, rfl⟩, ⟨rfl, rfl, rfl⟩, rfl, rfl⟩
  | false => exact ⟨⟨rfl, rfl, rfl, rfl, rfl⟩, ⟨rfl, rfl, rfl⟩, rfl, rfl⟩

theorem exec_bad_read {n : Nat} (h : ¬bar0Ok reg.toNat n true = true) : exec (.pciBadAccess reg (.read n)) s =
    .next (s.badAccess.send (.pciCompletion 0 false (List.replicate n 0))) := by
  change execPciBadAccess reg (.read n) s = _
  rw [execPciBadAccess]
  refine congrArg _ ?_
  rw [hHeld, if_neg (by decide), hMse, if_neg (by decide), if_neg h]

theorem exec_bar0_write (d : List Byte) : exec (.pciBadAccess reg (.write d)) s =
    .next (if bar0Ok reg.toNat d.length false then s.portWrite .host reg.toNat (BitVec.ofNat 64 (leNat d))
      else if s.prf.ready then s.badAccess else s) := by
  change execPciBadAccess reg (.write d) s = _
  rw [execPciBadAccess]
  refine congrArg _ ?_
  rw [hHeld, if_neg (by decide), hMse, if_neg (by decide)]

end

/-! ### The window's registers (13 R432, R453) -/

theorem portWrite_window {p : Port} (hOpen : OpenPort s p) (hHolds : s.holds p 5 = true) (v : W64) :
    s.portWrite p 0x380008 v = (s.b2Win v).1 := by
  rw [portWrite_plain hOpen (by decide) (by decide) (by decide) _ rfl]
  exact rwl_held hHolds fun s => s.b2Win v

theorem bits_window (base : BitVec 12) : bits (BitVec.ofNat 64 (base.toNat * 2 ^ 28)).toNat 28 12 = base.toNat := by
  have hBase := base.isLt
  rw [BitVec.toNat_ofNat, Nat.mod_eq_of_lt (by omega), bits, Nat.mul_div_cancel _ (by decide), Nat.mod_eq_of_lt hBase]

theorem b2Win_base {v : W64} {base : BitVec 12} (hBits : bits v.toNat 28 12 = base.toNat) : (s.b2Win v).1 =
    if base.toNat % 2 ^ (s.pci.size.toNat - 28) = 0 then { s with pci := { s.pci with base := base } } else s := by
  rw [State.b2Win, hBits, BitVec.ofNat_toNat, BitVec.setWidth_eq]
  by_cases h : base.toNat % 2 ^ (s.pci.size.toNat - 28) = 0
  · rw [if_neg (not_not.mpr h), if_pos h]
  · rw [if_pos h, if_neg h]

theorem exec_b2WinWrite {p : Port} (hOpen : OpenPort s p) (hHolds : s.holds p 5 = true) (base : BitVec 12) :
    exec (.b2WinWrite p base) s = .next
      (if base.toNat % 2 ^ (s.pci.size.toNat - 28) = 0 then { s with pci := { s.pci with base := base } } else s) :=
  congrArg Host.Outcome.next ((portWrite_window hOpen hHolds _).trans (b2Win_base (bits_window base)))

theorem resize_gives {k : Nat} (hHeld : s.dev.held = false) (hLow : 28 ≤ k) (hHigh : k ≤ 36) : Gives (.bar2Resize k) s fun t =>
    t.pci.size.toNat = k ∧ t.pci.base.toNat % 2 ^ (k - 28) = 0 ∧
      t = { s with pci := { s.pci with size := t.pci.size, base := t.pci.base } } := by
  have hBase := s.pci.base.isLt
  have hDown : s.pci.base.toNat / 2 ^ (k - 28) * 2 ^ (k - 28) ≤ s.pci.base.toNat := Nat.div_mul_le_self _ _
  have hExec : exec (.bar2Resize k) s = .next { s with pci := { s.pci with
      size := BitVec.ofNat 6 k, base := BitVec.ofNat 12 (s.pci.base.toNat / 2 ^ (k - 28) * 2 ^ (k - 28)) } } := by
    change execBar2Resize k s = _
    rw [execBar2Resize]
    refine congrArg _ ?_
    rw [hHeld, if_neg (by simp; omega)]
  refine ⟨_, hExec, ?_, ?_, rfl⟩
  · rw [BitVec.toNat_ofNat]
    omega
  · rw [BitVec.toNat_ofNat, Nat.mod_eq_of_lt (a := s.pci.base.toNat / 2 ^ (k - 28) * 2 ^ (k - 28)) (hDown.trans_lt hBase)]
    exact Nat.mul_mod_left _ _

/-- Settles O44: an access is served where the window or the register block takes it, and else only counted. -/
theorem hostMemoryWindow : Obligations.HostMemoryWindow := by
  unfold Obligations.HostMemoryWindow
  intro p off len k data bad base s hHeld hMse a serves b2bad
  refine ⟨fun hReady h => read_gives hHeld hMse hReady h,
    fun hReady h => (exec_bar2Read_refused hHeld hMse hReady h).trans ?_,
    fun hReady hServing h => write_gives hHeld hMse hReady hServing h,
    fun hReady hServing h => exec_bar2Write_refused hHeld hMse hReady hServing h,
    fun reg n => ⟨fun h => half_gives hHeld hMse (bar0Ok_read.mpr h), fun h => exec_bad_read hHeld hMse (mt bar0Ok_read.mp h),
      fun d hLen => ?_⟩,
    fun hOpen hHolds => exec_b2WinWrite hOpen hHolds base, fun hLow hHigh => resize_gives hHeld hLow hHigh⟩
  · simp only [State.completerAbort, State.send, State.b2Bad, List.append_assoc, List.singleton_append]
    rfl
  · refine ⟨fun h => (exec_bar0_write hHeld hMse d).trans ?_, fun h => (exec_bar0_write hHeld hMse d).trans ?_⟩
    · rw [if_pos (bar0Ok_write.mpr (by rw [hLen]; exact h))]
      rfl
    · rw [if_neg (mt bar0Ok_write.mp (by rw [hLen]; exact h))]
      rfl

end Sys2Proof.Machine.HostWindow

/-! PROOF. Context commands (10 R321, R324, R325, R624). -/

namespace Sys2Proof.Machine.Contexts

open Laws EgressRings

variable {s t u : State} {p : Port} {q : CtxCmd} {c : Nat}

/-! ### What a context command leaves as it was -/

/-- The reaches, the NMUs and the lockkeeper are as they were. -/
def Unmoved (s t : State) : Prop := t.reach = s.reach ∧ t.nmu = s.nmu ∧ t.lkp = s.lkp

theorem Unmoved.refl : Unmoved s s := ⟨rfl, rfl, rfl⟩

theorem Unmoved.trans (h : Unmoved s t) (k : Unmoved t u) : Unmoved s u := by
  obtain ⟨hReach, hNmu, hLkp⟩ := h
  obtain ⟨kReach, kNmu, kLkp⟩ := k
  exact ⟨kReach.trans hReach, kNmu.trans hNmu, kLkp.trans hLkp⟩

theorem Unmoved.foldl {α : Type} {f : State → α → State} (h : ∀ t x, Unmoved t (f t x)) (l : List α) (s : State) :
    Unmoved s (l.foldl f s) := by
  induction l generalizing s with
  | nil => exact .refl
  | cons x xs ih => exact (h s x).trans (ih _)

theorem Unmoved.foldl_mem {α : Type} {f : State → α → State} {l : List α} (h : ∀ t x, Unmoved t (f t x)) : Unmoved s (l.foldl f s) :=
  Unmoved.foldl h l s

theorem ctxResult_unmoved (blk status : Nat) (gen : W32) : Unmoved s (s.ctxResult blk status gen) :=
  ⟨write_reach _ _ _ _, write_nmu _ _ _ _, write_lkp _ _ _ _⟩

theorem ctxResult_ctx (blk status : Nat) (gen : W32) : (s.ctxResult blk status gen).ctx = s.ctx := write_ctx _ _ _ _

theorem ctxResult_bytes (blk status : Nat) (gen : W32) :
    BytesAre (s.ctxResult blk status gen) (blk + 120) (leBytes 8 (2 ^ 63 + status * 2 ^ 56 + gen.toNat)) := write_bytesAre _ _ _ _

/-- The context that a command names. -/
def named (q : CtxCmd) : Nat := leNat (q.data.take 4) % 2 ^ 20

/-- A LIVE context closes; the DESTROY waits in its command block. -/
def closing (s : State) (q : CtxCmd) : State := s.modCtx (named q) fun x => { x with state := .closing, blk := some q.blk }

/-- A FREE context opens with the regions of the command block. -/
def opened (s : State) (q : CtxCmd) : State :=
  (s.modCtx (named q) fun x => { x with state := .live, gen := x.gen + 1, regions := ctxBlkRegions q.data, blk := none }).keysMoved s

/-- A region of the command lies outside the session regions or meets a writable one of another context. -/
def regionsBad (s : State) (q : CtxCmd) : Bool :=
  (ctxBlkRegions q.data).any (fun g => !g.within s.ctx.sess) || s.ctx.ctxs.any fun p =>
    p.1 != named q && p.2.state != .free && p.2.regions.any fun h => h.wr && (ctxBlkRegions q.data).any fun g => g.meets h

theorem ctxEffect_eq (s : State) (q : CtxCmd) : s.ctxEffect q =
    if ctxBlkBad q.data then s.ctxResult q.blk 5 (s.ctxOf (named q)).gen
    else if named q ≤ s.ctx.npctx then s.ctxResult q.blk 2 (s.ctxOf (named q)).gen
    else if q.op = 2 then
      if (s.ctxOf (named q)).state ≠ .live then s.ctxResult q.blk 1 (s.ctxOf (named q)).gen else closing s q
    else if (s.ctxOf (named q)).state ≠ .free then s.ctxResult q.blk 1 (s.ctxOf (named q)).gen
    else if regionsBad s q then s.ctxResult q.blk 3 (s.ctxOf (named q)).gen
    else if s.ctx.ctxMax < s.ctx.ctxs.countP (fun p => p.2.state == .live) + 1 then s.ctxResult q.blk 4 (s.ctxOf (named q)).gen
    else (opened s q).ctxResult q.blk 0 ((s.ctxOf (named q)).gen + 1) := rfl

/-- A command answers a status, closes its context or opens it. -/
theorem ctxEffect_cases (q : CtxCmd) : (∃ st, s.ctxEffect q = s.ctxResult q.blk st (s.ctxOf (named q)).gen) ∨
    s.ctxEffect q = closing s q ∨ s.ctxEffect q = (opened s q).ctxResult q.blk 0 ((s.ctxOf (named q)).gen + 1) := by
  rw [ctxEffect_eq]
  by_cases hBad : ctxBlkBad q.data = true
  · exact .inl ⟨5, if_pos hBad⟩
  rw [if_neg hBad]
  by_cases hProf : named q ≤ s.ctx.npctx
  · exact .inl ⟨2, if_pos hProf⟩
  rw [if_neg hProf]
  by_cases hOp : q.op = 2
  · rw [if_pos hOp]
    by_cases hLive : (s.ctxOf (named q)).state ≠ .live
    · exact .inl ⟨1, if_pos hLive⟩
    · exact .inr (.inl (if_neg hLive))
  rw [if_neg hOp]
  by_cases hFree : (s.ctxOf (named q)).state ≠ .free
  · exact .inl ⟨1, if_pos hFree⟩
  rw [if_neg hFree]
  by_cases hRegions : regionsBad s q = true
  · exact .inl ⟨3, if_pos hRegions⟩
  rw [if_neg hRegions]
  by_cases hMax : s.ctx.ctxMax < s.ctx.ctxs.countP (fun p => p.2.state == .live) + 1
  · exact .inl ⟨4, if_pos hMax⟩
  · exact .inr (.inr (if_neg hMax))

theorem ctxEffect_unmoved (q : CtxCmd) : Unmoved s (s.ctxEffect q) := by
  have hOpened : Unmoved s (opened s q) := ⟨rfl, rfl, rfl⟩
  obtain ⟨st, h⟩ | h | h := ctxEffect_cases (s := s) q
  · rw [h]
    exact ctxResult_unmoved _ _ _
  · rw [h]
    exact ⟨rfl, rfl, rfl⟩
  · rw [h]
    exact hOpened.trans (ctxResult_unmoved _ _ _)

/-- The queue is none of a command's business. -/
theorem ctxEffect_queue (q : CtxCmd) : (s.ctxEffect q).ctx.queue = s.ctx.queue := by
  obtain ⟨st, h⟩ | h | h := ctxEffect_cases (s := s) q
  · rw [h, ctxResult_ctx]
  · rw [h]
    rfl
  · rw [h, ctxResult_ctx]
    rfl

/-! ### The queue (10 R325) -/

/-- A state without the head of its queue. -/
def taken (s : State) (qs : List CtxCmd) : State := { s with ctx := { s.ctx with queue := qs } }

theorem ctxHead_effect {qs : List CtxCmd} (h : s.ctx.queue = q :: qs) (hShed : s.dev.shed.toNat < 6) :
    s.ctxHead = (taken s qs).ctxEffect q := by
  rw [State.ctxHead, h]
  exact if_neg (Nat.not_le.mpr hShed)

theorem ctxHead_unmoved : Unmoved s s.ctxHead := by
  rw [State.ctxHead]
  cases s.ctx.queue with
  | nil => exact .refl
  | cons q qs =>
    dsimp only
    split
    · exact .refl
    · have hTaken : Unmoved s (taken s qs) := ⟨rfl, rfl, rfl⟩
      exact hTaken.trans (ctxEffect_unmoved q)

theorem ctxEffect_dev (q : CtxCmd) : (s.ctxEffect q).dev = s.dev := by
  obtain ⟨st, h⟩ | h | h := ctxEffect_cases (s := s) q
  · rw [h]
    exact write_dev _ _ _ _
  · rw [h]
    rfl
  · rw [h]
    exact write_dev _ _ _ _

theorem ctxHead_length (hShed : s.dev.shed.toNat < 6) :
    s.ctxHead.ctx.queue.length = s.ctx.queue.length - 1 ∧ s.ctxHead.dev = s.dev := by
  cases h : s.ctx.queue with
  | nil =>
    rw [State.ctxHead, h]
    exact ⟨by simp [h], rfl⟩
  | cons q qs =>
    rw [ctxHead_effect h hShed, ctxEffect_queue, ctxEffect_dev]
    exact ⟨rfl, rfl⟩

theorem ctxHeads_empty (n : Nat) : ∀ s : State, s.dev.shed.toNat < 6 → s.ctx.queue.length ≤ n →
    ((List.range n).foldl (fun (s : State) _ => s.ctxHead) s).ctx.queue = [] := by
  induction n with
  | zero => exact fun s _ h => List.length_eq_zero_iff.mp (Nat.le_zero.mp h)
  | succ n ih =>
    intro s hShed h
    obtain ⟨hLen, hDev⟩ := ctxHead_length hShed
    rw [List.range_succ_eq_map, List.foldl_cons, List.foldl_map]
    exact ih _ (by rw [hDev]; exact hShed) (by omega)

theorem ctxAll_empty (hShed : s.dev.shed.toNat < 6) : s.ctxAll.ctx.queue = [] := ctxHeads_empty _ s hShed (Nat.le_refl _)

theorem ctxAll_unmoved : Unmoved s s.ctxAll := Unmoved.foldl (fun _ _ => ctxHead_unmoved) _ s

/-! ### Closing contexts (10 R325) -/

/-- One closing context becomes FREE. -/
def freed (s : State) (p : Nat × Ctx) : State :=
  match p.2.blk with
  | some b => ((s.modCtx p.1 fun x => { x with state := .free, blk := none }).keysMoved s).ctxResult b 0 p.2.gen
  | none => (s.modCtx p.1 fun x => { x with state := .free, blk := none }).keysMoved s

theorem freed_unmoved (p : Nat × Ctx) : Unmoved s (freed s p) ∧ (freed s p).ctx.queue = s.ctx.queue := by
  have hFree : Unmoved s ((s.modCtx p.1 fun x => { x with state := .free, blk := none }).keysMoved s) := ⟨rfl, rfl, rfl⟩
  rw [freed]
  cases p.2.blk with
  | some b => exact ⟨hFree.trans (ctxResult_unmoved _ _ _), congrArg (·.queue) (ctxResult_ctx _ _ _)⟩
  | none => exact ⟨hFree, rfl⟩

theorem freeClosing_eq : s.freeClosing =
    (s.ctx.ctxs.filter fun p => p.2.state == .closing && !s.memberCtxs.contains p.1).foldl freed s := rfl

theorem freeClosing_unmoved : Unmoved s s.freeClosing := by
  rw [freeClosing_eq]
  exact Unmoved.foldl (fun _ p => (freed_unmoved p).1) _ s

theorem freeClosing_queue : s.freeClosing.ctx.queue = s.ctx.queue := by
  rw [freeClosing_eq]
  exact foldl_keeps (fun s => s.ctx.queue) freed (fun _ p => (freed_unmoved p).2) _ s

/-! ### CTX_CMD (10 R324) -/

/-- The word that a port writes into CTX_CMD. -/
def ctxWord (op : Nat) (b : BitVec 33) : W64 := BitVec.ofNat 64 (b.toNat * 128 + op)

theorem ctxWord_fields {op : Nat} (h : op < 4) (b : BitVec 33) :
    bits (ctxWord op b).toNat 0 2 = op ∧ bits (ctxWord op b).toNat 7 33 = b.toNat := by
  have hb := b.isLt
  rw [ctxWord, BitVec.toNat_ofNat, bits, bits]
  constructor
  · omega
  · omega

theorem portWrite_ctxCmd (hOpen : OpenPort s p) (v : W64) : s.portWrite p 0x80000 v = s.ctxCmd p v := by
  rw [portWrite_plain hOpen (by decide) (by decide) (by decide) _ rfl]
  rfl

/-- The state with the command at the end of the queue. -/
def queued (s : State) (op blk : Nat) : State :=
  { s with ctx := { s.ctx with queue := s.ctx.queue ++ [{ op := op, blk := blk, data := s.read blk 128 }] } }

section
variable {op : Nat} (hOp : op = 1 ∨ op = 2) {b : BitVec 33}
include hOp

theorem ctxCmd_queued (hMem : s.openMem (b.toNat * 128) 128 = true) (hRoom : s.ctx.queue.length < 64) :
    s.ctxCmd p (ctxWord op b) = (queued s op (b.toNat * 128)).unlessForced fun s => s.ctxAll.freeClosing := by
  obtain ⟨hField, hBlk⟩ := ctxWord_fields (op := op) (by omega) b
  rw [State.ctxCmd, hField, hBlk, if_neg (by simp only [hMem, Bool.not_true, Bool.false_eq_true, or_false]; omega),
    if_neg (by omega)]
  rfl

theorem ctxCmd_full (hMem : s.openMem (b.toNat * 128) 128 = true) (hFull : 64 ≤ s.ctx.queue.length) :
    s.ctxCmd p (ctxWord op b) = s.raise { code := 0x0412, kind := portKind p } := by
  obtain ⟨hField, hBlk⟩ := ctxWord_fields (op := op) (by omega) b
  rw [State.ctxCmd, hField, hBlk, if_neg (by simp only [hMem, Bool.not_true, Bool.false_eq_true, or_false]; omega), if_pos hFull]

theorem ctxCmd_outside (hMem : s.openMem (b.toNat * 128) 128 = false) :
    s.ctxCmd p (ctxWord op b) = s.raise { code := 0x0414, kind := portKind p, d0 := (ctxWord op b).toNat } := by
  obtain ⟨hField, hBlk⟩ := ctxWord_fields (op := op) (by omega) b
  rw [State.ctxCmd, hField, hBlk, if_pos (by simp [hMem])]

end

/-! ### The effects one by one -/

theorem ctxOf_modCtx_same (f : Ctx → Ctx) : (s.modCtx c f).ctxOf c = f (s.ctxOf c) := slook_sput_same _ _ _ _

theorem ctxOf_modCtx_ne {k : Nat} (h : k ≠ c) (f : Ctx → Ctx) : (s.modCtx c f).ctxOf k = s.ctxOf k := slook_sput_ne _ _ _ _ _ h

theorem ctxOf_congr (h : t.ctx = s.ctx) (k : Nat) : t.ctxOf k = s.ctxOf k := by
  rw [State.ctxOf, State.ctxOf, h]

theorem ctxOf_opened_same : (opened s q).ctxOf (named q) =
    { s.ctxOf (named q) with state := .live, gen := (s.ctxOf (named q)).gen + 1, regions := ctxBlkRegions q.data, blk := none } :=
  ctxOf_modCtx_same (s := s) (c := named q) fun x => { x with state := .live, gen := x.gen + 1, regions := ctxBlkRegions q.data, blk := none }

theorem ctxOf_opened_ne {k : Nat} (h : k ≠ named q) : (opened s q).ctxOf k = s.ctxOf k :=
  ctxOf_modCtx_ne (s := s) (c := named q) h fun x => { x with state := .live, gen := x.gen + 1, regions := ctxBlkRegions q.data, blk := none }

theorem meets_of_apart {g h : Region} (k : h.base + h.size ≤ g.base ∨ g.base + g.size ≤ h.base) : g.meets h = false := by
  simp only [Region.meets, Bool.and_eq_false_iff, decide_eq_false_iff_not]
  omega

theorem regionsBad_false (hWithin : ∀ g ∈ ctxBlkRegions q.data, g.within s.ctx.sess = true)
    (hApart : ∀ k y, (k, y) ∈ s.ctx.ctxs → k ≠ named q → y.state ≠ .free → ∀ h ∈ y.regions, h.wr = true →
      ∀ g ∈ ctxBlkRegions q.data, h.base + h.size ≤ g.base ∨ g.base + g.size ≤ h.base) : regionsBad s q = false := by
  rw [regionsBad, Bool.or_eq_false_iff]
  constructor
  · rw [List.any_eq_false]
    intro g hg
    simp [hWithin g hg]
  · rw [List.any_eq_false]
    rintro ⟨k, y⟩ hIn hBad
    simp only [Bool.and_eq_true, bne_iff_ne, ne_eq, List.any_eq_true] at hBad
    obtain ⟨⟨hk, hState⟩, h, hReg, hWr, g, hg, hMeets⟩ := hBad
    rw [meets_of_apart (hApart k y hIn hk hState h hReg hWr g hg)] at hMeets
    exact absurd hMeets (by decide)

section
variable (hBlk : ctxBlkBad q.data = false)
include hBlk

theorem ctxEffect_profile (hProf : named q ≤ s.ctx.npctx) : s.ctxEffect q = s.ctxResult q.blk 2 (s.ctxOf (named q)).gen := by
  rw [ctxEffect_eq, if_neg (by simp [hBlk]), if_pos hProf]

variable (hNot : s.ctx.npctx < named q)
include hNot

theorem ctxEffect_closes (hOp : q.op = 2) (hLive : (s.ctxOf (named q)).state = .live) : s.ctxEffect q = closing s q := by
  rw [ctxEffect_eq, if_neg (by simp [hBlk]), if_neg (Nat.not_le.mpr hNot), if_pos hOp, if_neg (not_not.mpr hLive)]

theorem ctxEffect_notLive (hOp : q.op = 2) (hLive : (s.ctxOf (named q)).state ≠ .live) :
    s.ctxEffect q = s.ctxResult q.blk 1 (s.ctxOf (named q)).gen := by
  rw [ctxEffect_eq, if_neg (by simp [hBlk]), if_neg (Nat.not_le.mpr hNot), if_pos hOp, if_pos hLive]

theorem ctxEffect_notFree (hOp : q.op = 1) (hFree : (s.ctxOf (named q)).state ≠ .free) :
    s.ctxEffect q = s.ctxResult q.blk 1 (s.ctxOf (named q)).gen := by
  rw [ctxEffect_eq, if_neg (by simp [hBlk]), if_neg (Nat.not_le.mpr hNot), if_neg (by omega), if_pos hFree]

theorem ctxEffect_opens (hOp : q.op = 1) (hFree : (s.ctxOf (named q)).state = .free) (hRegions : regionsBad s q = false)
    (hMax : s.ctx.ctxs.countP (fun p => p.2.state == .live) + 1 ≤ s.ctx.ctxMax) :
    s.ctxEffect q = (opened s q).ctxResult q.blk 0 ((s.ctxOf (named q)).gen + 1) := by
  rw [ctxEffect_eq, if_neg (by simp [hBlk]), if_neg (Nat.not_le.mpr hNot), if_neg (by omega), if_neg (not_not.mpr hFree), hRegions,
    if_neg (by decide), if_neg (Nat.not_lt.mpr hMax)]

end

theorem gives_head {qs : List CtxCmd} {P : State → Prop} (hQueue : s.ctx.queue = q :: qs) (hShed : s.dev.shed.toNat < 6)
    (hForce : s.lkp.inForce = true) {y : Ctx} (hCtx : ((taken s qs).ctxEffect q).ctxOf c = y)
    (hOthers : ∀ k, k ≠ c → ((taken s qs).ctxEffect q).ctxOf k = s.ctxOf k) (h : P ((taken s qs).ctxEffect q)) :
    Gives .ctxCmdEffect s fun t => t.ctx.queue = qs ∧ t.ctxOf c = y ∧ (∀ k, k ≠ c → t.ctxOf k = s.ctxOf k) ∧ t.reach = s.reach ∧
      t.lkp = s.lkp ∧ P t := by
  have hExec : exec .ctxCmdEffect s = .next ((taken s qs).ctxEffect q) := by
    change execCtxCmdEffect s = _
    rw [execCtxCmdEffect, hForce, if_pos rfl, ctxHead_effect hQueue hShed]
  obtain ⟨hReach, -, hLkp⟩ := ctxEffect_unmoved (s := taken s qs) q
  exact ⟨_, hExec, ctxEffect_queue q, hCtx, hOthers, hReach, hLkp, h⟩

section
variable {qs : List CtxCmd} (hQueue : s.ctx.queue = q :: qs) (hShed : s.dev.shed.toNat < 6) (hForce : s.lkp.inForce = true)
include hQueue hShed hForce

/-- A command that only answers a status leaves every context as it was. -/
theorem gives_status {st : Nat} (h : (taken s qs).ctxEffect q = (taken s qs).ctxResult q.blk st ((taken s qs).ctxOf (named q)).gen) :
    Gives .ctxCmdEffect s fun t => t.ctx.queue = qs ∧ t.ctxOf (named q) = s.ctxOf (named q) ∧
      (∀ k, k ≠ named q → t.ctxOf k = s.ctxOf k) ∧ t.reach = s.reach ∧ t.lkp = s.lkp ∧
      BytesAre t (q.blk + 120) (leBytes 8 (2 ^ 63 + st * 2 ^ 56 + (s.ctxOf (named q)).gen.toNat)) := by
  have hKept (k : Nat) : ((taken s qs).ctxEffect q).ctxOf k = s.ctxOf k := by
    rw [h]
    exact ctxOf_congr (s := taken s qs) (ctxResult_ctx _ _ _) k
  refine gives_head hQueue hShed hForce (hKept _) (fun k _ => hKept k) ?_
  rw [h]
  exact ctxResult_bytes _ _ _

end

/-- Settles O37: a command joins the queue or is refused; its effect is a status, a closing or an opening. -/
theorem contextCommands : Obligations.ContextCommands := by
  unfold Obligations.ContextCommands
  intro s
  refine ⟨fun p b i op hOpen hi => ?_, fun q qs hQueue hShed hForce => ?_, fun q qs hQueue hShed hForce hBlk => ?_⟩
  · intro blk src
    have hOp : op = 1 ∨ op = 2 := hi.imp And.right And.right
    have hExec : exec i s = .next (s.ctxCmd p (ctxWord op b)) := by
      rw [← portWrite_ctxCmd hOpen]
      rcases hi with ⟨rfl, rfl⟩ | ⟨rfl, rfl⟩
      · rfl
      · rfl
    refine ⟨fun hMem hRoom hForce => ?_, fun hMem hRoom hForce => ?_, fun hMem hFull => ?_, fun hMem => ?_⟩
    · rw [hExec, ctxCmd_queued hOp hMem hRoom, unlessForced_inForce (s := queued s op (b.toNat * 128)) hForce]
      rfl
    · rw [ctxCmd_queued hOp hMem hRoom, unlessForced_idle (s := queued s op (b.toNat * 128)) hForce] at hExec
      have hQueued : Unmoved s (queued s op (b.toNat * 128)) := ⟨rfl, rfl, rfl⟩
      refine ⟨_, hExec, fun hShed => ?_, (hQueued.trans ctxAll_unmoved).trans freeClosing_unmoved⟩
      rw [freeClosing_queue]
      exact ctxAll_empty hShed
    · rw [ctxCmd_full hOp hMem hFull] at hExec
      have hRaised := raise_raised s { code := 0x0412, kind := portKind p }
      rw [SfuBanks.kind_of_port] at hRaised hExec
      exact ⟨_, hExec, rfl, hRaised⟩
    · rw [ctxCmd_outside hOp hMem] at hExec
      have hRaised := raise_raised s { code := 0x0414, kind := portKind p, d0 := (ctxWord op b).toNat }
      rw [SfuBanks.kind_of_port] at hRaised hExec
      exact ⟨_, hExec, rfl, hRaised⟩
  · have hExec : exec .ctxCmdEffect s = .next s.ctxHead.freeClosing := by
      change execCtxCmdEffect s = _
      rw [execCtxCmdEffect, hForce, if_neg (by decide)]
    refine ⟨_, hExec, ?_, ctxHead_unmoved.trans freeClosing_unmoved⟩
    rw [freeClosing_queue, ctxHead_effect hQueue hShed]
    exact ctxEffect_queue q
  · intro c x gs effect result
    refine ⟨fun hProf => ?_, fun hNot hOp hLive => ?_, fun hNot hOp hLive => ?_, fun hNot hOp hFree => ?_,
      fun hNot hOp hFree hMax hWithin hApart => ?_⟩
    · exact gives_status hQueue hShed hForce (ctxEffect_profile (s := taken s qs) hBlk hProf)
    · have hEq := ctxEffect_closes (s := taken s qs) hBlk hNot hOp hLive
      refine gives_head hQueue hShed hForce ?_ (fun k hk => ?_) ?_
      · rw [hEq]
        exact ctxOf_modCtx_same (s := taken s qs) _
      · rw [hEq]
        exact ctxOf_modCtx_ne (s := taken s qs) hk _
      · rw [hEq]
        exact ⟨rfl, rfl, rfl⟩
    · exact gives_status hQueue hShed hForce (ctxEffect_notLive (s := taken s qs) hBlk hNot hOp hLive)
    · exact gives_status hQueue hShed hForce (ctxEffect_notFree (s := taken s qs) hBlk hNot hOp hFree)
    · have hEq := ctxEffect_opens (s := taken s qs) hBlk hNot hOp hFree (regionsBad_false (s := taken s qs) hWithin hApart) hMax
      have hKept (k : Nat) : ((taken s qs).ctxEffect q).ctxOf k = (opened (taken s qs) q).ctxOf k := by
        rw [hEq]
        exact ctxOf_congr (ctxResult_ctx _ _ _) k
      refine gives_head hQueue hShed hForce ?_ (fun k hk => ?_) ?_
      · exact (hKept _).trans (ctxOf_opened_same (s := taken s qs))
      · exact (hKept _).trans (ctxOf_opened_ne (s := taken s qs) hk)
      · rw [hEq]
        exact ctxResult_bytes _ _ _

end Sys2Proof.Machine.Contexts

/-! PROOF. PRF_CMD (12 R413, R414, R421, R423, R424, R427; 10 R624). -/

namespace Sys2Proof.Machine.ProfileCommands

open Laws EgressRings HostErrorRing
open Sessions (Aside)

variable {s t : State} {p : Port}

/-! ### The word written into PRF_CMD (12 R423) -/

theorem prfWord_toNat {op : Nat} (h : op < 16) (ok : Bool) (slot k : BitVec 2) :
    (prfWord op ok slot k).toNat = op * 256 + b2n ok * 128 + slot.toNat * 16 + k.toNat := by
  have hSlot := slot.isLt
  have hk := k.isLt
  have hOk : b2n ok ≤ 1 := by cases ok <;> decide
  rw [prfWord, BitVec.toNat_ofNat, Nat.mod_eq_of_lt (by omega)]

section
variable {op : Nat} (h : op < 16) (ok : Bool) (slot k : BitVec 2)
include h

theorem prfWord_op : bits (prfWord op ok slot k).toNat 8 4 = op := by
  have hSlot := slot.isLt
  have hk := k.isLt
  have hOk : b2n ok ≤ 1 := by cases ok <;> decide
  rw [prfWord_toNat h, bits]
  omega

theorem prfWord_slot : bits (prfWord op ok slot k).toNat 4 2 = slot.toNat := by
  have hSlot := slot.isLt
  have hk := k.isLt
  rw [prfWord_toNat h, bits]
  omega

theorem prfWord_polder : bits (prfWord op ok slot k).toNat 0 2 = k.toNat := by
  have hk := k.isLt
  rw [prfWord_toNat h, bits]
  omega

theorem prfWord_drainOk : bitAt (prfWord op ok slot k).toNat 7 = ok := by
  have hSlot := slot.isLt
  have hk := k.isLt
  rw [prfWord_toNat h, bitAt]
  cases ok with
  | false =>
    rw [beq_eq_false_iff_ne]
    change (op * 256 + 0 * 128 + slot.toNat * 16 + k.toNat) / 128 % 2 ≠ 1
    omega
  | true =>
    rw [beq_iff_eq]
    change (op * 256 + 1 * 128 + slot.toNat * 16 + k.toNat) / 128 % 2 = 1
    omega

end

/-! ### The end of a command or change (12 R424, R427) -/

/-- No change is in progress, and the result registers say how the last one ended. -/
def ended (s : State) (w : Pwr) (target : BitVec 2) (st code : Nat) : State :=
  { s with
    pwr := w
    prf := { s.prf with
      chg := .none, loads := [], initial := false, full := false, recheck := false, atCycle := none, limit := false, target
      resState := BitVec.ofNat 8 st, resCode := BitVec.ofNat 16 code } }

/-- No change is in progress. -/
def cleared (s : State) (w : Pwr) (target : BitVec 2) : State :=
  { s with
    pwr := w
    prf := { s.prf with
      chg := .none, loads := [], initial := false, full := false, recheck := false, atCycle := none, limit := false, target } }

/-- The power that is allowed again, that of the profile that stays active. -/
def allowed (s : State) : State :=
  if s.prf.switched = 0 ∧ !(s.slotImg s.activeSlot).isEmpty then
    ({ s with pwr := { s.pwr with plimit := (profHdr (s.slotImg s.activeSlot)).plimit } }).powerFlags
  else s

theorem allowed_pwr : ∃ w, allowed s = { s with pwr := w } := by
  rw [allowed]
  split
  · exact ⟨_, rfl⟩
  · exact ⟨s.pwr, rfl⟩

theorem chgClear_eq : s.chgClear = cleared (allowed s) (allowed s).pwr
    (if (allowed s).prf.switched = 0 then (allowed s).dev.profile else (allowed s).prf.target) := rfl

theorem chgClear_cleared (s : State) : ∃ w k, s.chgClear = cleared s w k := by
  obtain ⟨w, h⟩ := allowed_pwr (s := s)
  rw [chgClear_eq, h]
  exact ⟨_, _, rfl⟩

section
variable (hOp : s.prf.op ≠ 0) (hMine : s.prf.resMine = true)
include hOp hMine

theorem prfResult_mine (st code : Nat) : s.prfResult st code =
    { s with prf := { s.prf with resState := BitVec.ofNat 8 st, resCode := BitVec.ofNat 16 code } } := by
  rw [State.prfResult, if_neg (by simp [hOp, hMine])]

theorem prfDone_ended : ∃ w k, s.prfDone = ended s w k 2 0 := by
  obtain ⟨w, k, h⟩ := chgClear_cleared (s.prfResult 2 0)
  rw [State.prfDone, h, prfResult_mine hOp hMine]
  exact ⟨w, k, rfl⟩

theorem prfFail_ended (e : Ev) : ∃ w k, s.prfFail e = ended (s.raise { e with kind := portKind s.prf.port }) w k 3 e.code := by
  have hKind : s.cmdKind = portKind s.prf.port := if_neg hOp
  obtain ⟨w, k, h⟩ := chgClear_cleared ((s.raise { e with kind := s.cmdKind }).prfResult 3 e.code)
  rw [State.prfFail, h, hKind, prfResult_mine (s := s.raise { e with kind := portKind s.prf.port }) hOp hMine]
  exact ⟨w, k, rfl⟩

end

theorem ended_aside (w : Pwr) (k : BitVec 2) (st code : Nat) : Aside s (ended s w k st code) :=
  ⟨⟨rfl, rfl, rfl, rfl, rfl⟩, ⟨rfl, rfl, rfl⟩, rfl⟩

/-! ### What the obligation says of a command -/

/-- The number of the port in a result register. -/
def resPortOf : Port → BitVec 4
  | .host => 1
  | .mgmt _ => 2

theorem resPort_eq (p : Port) : BitVec.ofNat 4 (portNum p) = resPortOf p := by
  cases p <;> rfl

/-- The result registers name the command and the port, and no unit and no byte has changed. -/
def Named (s : State) (p : Port) (op : Nat) (t : State) : Prop :=
  t.prf.resOp = BitVec.ofNat 4 op ∧ t.prf.resPort = resPortOf p ∧ UnitsKept s t ∧ MemoryKept s t

/-- The command was refused with an event. -/
def Refused (s : State) (p : Port) (op code : Nat) (t : State) : Prop :=
  Named s p op t ∧ t.prf.chg = s.prf.chg ∧ t.prf.resState = 3 ∧ t.prf.resCode = BitVec.ofNat 16 code ∧
    t.prf.resCount = s.prf.resCount ∧ Raised s t code 0xFFFF (srcOf s (kindOf p) 0)

/-- The command was not refused. -/
def Accepted (s : State) (p : Port) (op : Nat) (t : State) : Prop :=
  Named s p op t ∧ t.prf.resCode = 0 ∧ t.prf.resCount = s.prf.resCount + 1

/-! ### PRF_CMD (12 R414, R423) -/

/-- The state in which a command is at work. -/
def atWork (s : State) (p : Port) (v : W64) : State :=
  { s.prfTake p v 1 0 with prf := { (s.prfTake p v 1 0).prf with op := bits v.toNat 8 4, port := p } }

/-- A state that comes from that in which the command is at work, with another change in progress alone. -/
structure FromWork (s : State) (p : Port) (op : Nat) (t : State) : Prop where
  aside : Aside s t
  resOp : t.prf.resOp = BitVec.ofNat 4 op
  port  : t.prf.resPort = resPortOf p
  code  : t.prf.resCode = 0
  count : t.prf.resCount = s.prf.resCount

theorem atWork_fromWork {v : W64} {op : Nat} (h : bits v.toNat 8 4 = op) : FromWork s p op (atWork s p v) :=
  ⟨⟨⟨rfl, rfl, rfl, rfl, rfl⟩, ⟨rfl, rfl, rfl⟩, rfl⟩, congrArg (BitVec.ofNat 4) h, resPort_eq p, rfl, rfl⟩

/-- Another change is in progress. -/
def withChg (s : State) (c : Chg) : State := { s with prf := { s.prf with chg := c } }

theorem FromWork.withChg {op : Nat} (h : FromWork s p op t) (c : Chg) : FromWork s p op (withChg t c) :=
  ⟨⟨h.aside.units, h.aside.mem, h.aside.sess⟩, h.resOp, h.port, h.code, h.count⟩

/-- A command that is not refused is counted. -/
theorem FromWork.accepted {op : Nat} (h : FromWork s p op t) (hState : t.prf.resState ≠ 3) : Accepted s p op t.prfCount ∧
    t.prfCount.prf.chg = t.prf.chg ∧ t.prfCount.prf.resState = t.prf.resState ∧
      t.prfCount = { t with prf := { t.prf with resCount := t.prf.resCount + 1 } } := by
  have hCount : t.prfCount = { t with prf := { t.prf with resCount := t.prf.resCount + 1 } } := by
    rw [State.prfCount, if_neg hState]
  rw [hCount]
  exact ⟨⟨⟨h.resOp, h.port, h.aside.units, h.aside.mem⟩, h.code, congrArg (· + 1) h.count⟩, rfl, rfl, rfl⟩

/-- A command that has ended with an event is refused. -/
theorem FromWork.refused {op code : Nat} (h : FromWork s p op t) (hNone : s.prf.chg = .none) {e : Ev}
    (hRaised : Raised s (t.raise e) code 0xFFFF (srcOf s (kindOf p) 0)) (w : Pwr) (k : BitVec 2) :
    Refused s p op code (ended (t.raise e) w k 3 code) := by
  obtain ⟨hAside, hOp, hPort, -, hCount⟩ := h
  have hKept := hAside.raise e
  refine ⟨⟨?_, ?_, hKept.units, hKept.mem⟩, hNone.symm, rfl, rfl, ?_, hRaised⟩
  · rw [← hOp]
    rfl
  · rw [← hPort]
    rfl
  · rw [← hCount]
    rfl

theorem ended_uncounted (w : Pwr) (k : BitVec 2) (code : Nat) : (ended s w k 3 code).prfCount = ended s w k 3 code := if_pos rfl

/-- A command that is refused at once is not counted. -/
theorem refused_of_fail {v : W64} {op code : Nat} (hOp : bits v.toNat 8 4 = op) (hPos : op ≠ 0) (hNone : s.prf.chg = .none) {e : Ev}
    (hCode : e.code = code) (hJob : e.job = 0xFFFF) (hPart : e.part = 0) : Refused s p op code ((atWork s p v).prfFail e).prfCount := by
  have hWork : (atWork s p v).prf.op ≠ 0 := fun h => hPos (hOp.symm.trans h)
  obtain ⟨w, k, hFail⟩ := prfFail_ended (s := atWork s p v) hWork rfl e
  rw [hFail, ended_uncounted, hCode]
  refine (atWork_fromWork hOp).refused hNone ?_ w k
  have hRaised := raise_raised (atWork s p v) { e with kind := portKind (atWork s p v).prf.port }
  rw [← hCode, ← hJob, ← hPart, ← SfuBanks.kind_of_port]
  exact hRaised

theorem prfBusy_refused {v : W64} {op : Nat} (hOp : bits v.toNat 8 4 = op) : Refused s p op 0x0A03 (s.prfBusy p v) := by
  refine ⟨⟨congrArg (BitVec.ofNat 4) hOp, resPort_eq p, ⟨rfl, rfl, rfl, rfl, rfl⟩, rfl, rfl, rfl⟩, rfl, rfl, rfl, rfl, ?_⟩
  have hRaised := raise_raised (s.prfTake p v 3 0x0A03) { code := 0x0A03, kind := portKind p }
  rw [SfuBanks.kind_of_port] at hRaised
  exact hRaised

/-! ### The write of PRF_CMD -/

section
variable (hOpen : OpenPort s p) (hHolds : s.holds p 1 = true)
include hOpen hHolds

theorem portWrite_prfCmd (v : W64) : s.portWrite p 0x20008 v = (s.prfCmdWrite p v).1 := by
  rw [portWrite_plain hOpen (by decide) (by decide) (by decide) _ rfl]
  exact rwl_held hHolds fun s => s.prfCmdWrite p v

theorem portWrite_command {op : Nat} (hLow : 0 < op) (hHigh : op < 5) (ok : Bool) (slot k : BitVec 2) :
    s.portWrite p 0x20008 (prfWord op ok slot k) = s.prfCmd p (prfWord op ok slot k) := by
  rw [portWrite_prfCmd hOpen hHolds, State.prfCmdWrite, prfWord_op (by omega), if_neg (by omega), if_neg (by omega)]

end

theorem prfCmd_busy (h : s.prf.chg ≠ .none) (v : W64) : s.prfCmd p v = s.prfBusy p v := if_pos h

theorem prfCmd_idle (h : s.prf.chg = .none) (v : W64) : s.prfCmd p v = (s.prfBegin p v).prfCount := if_neg (not_not.mpr h)

theorem prfBusy_fresh (v : W64) : (s.prfBusy p v).fresh = s.fresh := rfl

theorem prfBusy_board (b : StartIn) (v : W64) : { ({ s with board := b } : State).prfBusy p v with board := s.board } = s.prfBusy p v := rfl

/-- RESTART while a change is in progress. -/
theorem exec_restart_busy (hOpen : OpenPort s p) (hHolds : s.holds p 1 = true) (b : StartIn) (h : s.prf.chg ≠ .none) :
    exec (.restart p b) s = .next (s.prfBusy p (prfWord 5 false 0 0)) := by
  have hBoard : OpenPort { s with board := b } p := ⟨hOpen.on, hOpen.ready, hOpen.free⟩
  have hWrite : ({ s with board := b } : State).portWrite p 0x20008 (prfWord 5 false 0 0) =
      ({ s with board := b } : State).prfBusy p (prfWord 5 false 0 0) := by
    rw [portWrite_prfCmd (s := { s with board := b }) hBoard hHolds, State.prfCmdWrite, prfWord_op (by decide), if_neg (by decide),
      if_pos rfl, if_pos (show ({ s with board := b } : State).prf.chg ≠ .none from h)]
  change execRestart p b s = _
  simp only [execRestart, hWrite]
  rw [if_pos (prfBusy_fresh (s := { s with board := b }) _)]
  exact congrArg Host.Outcome.next (prfBusy_board b _)

/-- What a command that no change is in the way of does, by its operation (R414, R423). -/
theorem prfBegin_eq {op : Nat} (hOp : op < 16) (ok : Bool) (slot k : BitVec 2) : s.prfBegin p (prfWord op ok slot k) =
    let t := atWork s p (prfWord op ok slot k)
    if (op ≤ 2 && !((s.prf.slots[slot.toNat]?).map PSlot.valid).getD false) || (op == 3 && s.prf.held.getLsbD k.toNat) ||
        (op == 4 && !s.prf.held.getLsbD k.toNat) then
      t.prfFail { code := 0x0A0E, addr := if op ≤ 2 then slot.toNat else k.toNat }
    else if op = 2 then { t with prf := { t.prf with chg := .verifying true, work := BitVec.ofNat 2 slot.toNat } }
    else if op = 3 then
      ({ t with prf := { t.prf with chg := .draining k.toNat false } }).unlessForced fun s => s.changeAtCycle 0
    else if op = 4 then { t with prf := { t.prf with chg := .resuming k.toNat } }
    else t.activate slot.toNat ok := by
  rw [State.prfBegin, prfWord_op hOp, prfWord_slot hOp, prfWord_polder hOp, prfWord_drainOk hOp]
  unfold atWork
  rw [prfWord_op hOp]
  rfl

/-! ### ACTIVATE (12 R408, R413, R414) -/

/-- Verification of a slot's weight images begins. -/
def verifying (s : State) (slot : BitVec 2) (drainOk initial full recheck : Bool) : State :=
  { s with prf := { s.prf with
      chg := .verifying false, initial, full, recheck, drainOk, work := slot, target := if recheck then s.prf.target else slot } }

section
variable {slot : BitVec 2} {ok : Bool}

theorem activate_recheck (hSlot : slot.toNat = s.activeSlot) (hForce : s.lkp.inForce = true) : s.activate slot.toNat ok =
    verifying { s with prf := { s.prf with verified := s.prf.verified.filter fun p => p.1 != slot.toNat } } slot ok false false true := by
  rw [State.activate, if_pos (by simp [hSlot, hForce])]
  simp only [BitVec.ofNat_toNat, BitVec.setWidth_eq]
  rfl

variable (hOther : slot.toNat ≠ s.activeSlot ∨ s.lkp.inForce = false)
include hOther

theorem other_slot : ¬(decide (slot.toNat = s.activeSlot) && s.lkp.inForce) = true := by
  rcases hOther with h | h
  · simp [h]
  · simp [h]

theorem activate_barred (hOp : s.prf.op ≠ 0) (h : s.cpl.node ≠ 0x7FFF ∨ (profHdr (s.slotImg slot.toNat)).role = 1) :
    s.activate slot.toNat ok = s.prfFail { code := 0x0A0E, addr := slot.toNat } := by
  have hBarred : (decide (s.cpl.node ≠ 0x7FFF) || (s.prf.op != 0 && (profHdr (s.slotImg slot.toNat)).role == 1)) = true := by
    rcases h with h | h
    · rw [decide_eq_true h, Bool.true_or]
    · simp [hOp, h]
  rw [State.activate, if_neg (other_slot hOther), if_pos hBarred]

variable (hNode : s.cpl.node = 0x7FFF) (hRole : (profHdr (s.slotImg slot.toNat)).role ≠ 1)
include hNode hRole

omit hOther in
theorem not_barred : ¬(decide (s.cpl.node ≠ 0x7FFF) || (s.prf.op != 0 && (profHdr (s.slotImg slot.toNat)).role == 1)) = true := by
  simp [hNode, hRole]

theorem activate_startOnly (h : s.startDiffers (profHdr (s.slotImg slot.toNat)) = true) :
    s.activate slot.toNat ok = s.prfFail { code := 0x0A04, addr := slot.toNat } := by
  rw [State.activate, if_neg (other_slot hOther), if_neg (not_barred hNode hRole), if_pos h]

variable (hSame : s.startDiffers (profHdr (s.slotImg slot.toNat)) = false)
include hSame

theorem activate_initial (hForce : s.lkp.inForce = false) : s.activate slot.toNat ok = verifying s slot ok true false false := by
  rw [State.activate, if_neg (other_slot hOther), if_neg (not_barred hNode hRole), if_neg (by simp [hSame]),
    if_pos (by simp [hForce])]
  simp only [BitVec.ofNat_toNat, BitVec.setWidth_eq]
  rfl

variable (hForce : s.lkp.inForce = true)
include hForce

theorem activate_full (hFull : drainDiffers (s.slotImg s.activeSlot) (s.slotImg slot.toNat) = true) : s.activate slot.toNat ok =
    if ok then verifying s slot ok false true false else s.prfFail { code := 0x0A05, addr := slot.toNat } := by
  rw [State.activate, if_neg (other_slot hOther), if_neg (not_barred hNode hRole), if_neg (by simp [hSame]),
    if_neg (by simp [hForce])]
  simp only [BitVec.ofNat_toNat, BitVec.setWidth_eq, hFull]
  cases ok with
  | true => rfl
  | false => rfl

theorem activate_clash (hFull : drainDiffers (s.slotImg s.activeSlot) (s.slotImg slot.toNat) = false) {q : Nat × Nat}
    (h : clash (profSect (s.slotImg s.activeSlot) 1) (profSect (s.slotImg slot.toNat) 1) = some q) :
    s.activate slot.toNat ok = s.prfFail { code := 0x0A06, addr := q.1, d0 := q.2 } := by
  rw [State.activate, if_neg (other_slot hOther), if_neg (not_barred hNode hRole), if_neg (by simp [hSame]),
    if_neg (by simp [hForce])]
  simp only [hFull, Bool.false_and, Bool.false_eq_true, if_false, h]

theorem activate_staged (hFull : drainDiffers (s.slotImg s.activeSlot) (s.slotImg slot.toNat) = false)
    (h : clash (profSect (s.slotImg s.activeSlot) 1) (profSect (s.slotImg slot.toNat) 1) = none) :
    s.activate slot.toNat ok = verifying s slot ok false false false := by
  rw [State.activate, if_neg (other_slot hOther), if_neg (not_barred hNode hRole), if_neg (by simp [hSame]),
    if_neg (by simp [hForce])]
  simp only [hFull, Bool.false_and, Bool.false_eq_true, if_false, h, BitVec.ofNat_toNat, BitVec.setWidth_eq]
  rfl

end

/-! ### A command with no change in its way -/

/-- The slot is valid. -/
def slotValid (s : State) (slot : BitVec 2) : Bool := ((s.prf.slots[slot.toNat]?).map PSlot.valid).getD false

section
variable {slot k : BitVec 2} {ok : Bool}

theorem begin_activate (h : slotValid s slot = true) :
    s.prfBegin p (prfWord 1 ok slot 0) = (atWork s p (prfWord 1 ok slot 0)).activate slot.toNat ok := by
  rw [prfBegin_eq (by decide)]
  exact (if_neg (by rw [show ((s.prf.slots[slot.toNat]?).map PSlot.valid).getD false = true from h]; simp)).trans rfl

theorem begin_invalid {op : Nat} (hOp : op = 1 ∨ op = 2) (h : slotValid s slot = false) : s.prfBegin p (prfWord op ok slot k) =
    (atWork s p (prfWord op ok slot k)).prfFail { code := 0x0A0E, addr := slot.toNat } := by
  have hLow : op ≤ 2 := by omega
  rw [prfBegin_eq (by omega)]
  refine (if_pos ?_).trans ?_
  · rw [show ((s.prf.slots[slot.toNat]?).map PSlot.valid).getD false = false from h]
    simp [hLow]
  · rw [if_pos hLow]

theorem begin_verify (h : slotValid s slot = true) : s.prfBegin p (prfWord 2 ok slot k) =
    { atWork s p (prfWord 2 ok slot k) with prf := { (atWork s p (prfWord 2 ok slot k)).prf with
        chg := .verifying true, work := slot } } := by
  rw [prfBegin_eq (by decide)]
  refine (if_neg (by rw [show ((s.prf.slots[slot.toNat]?).map PSlot.valid).getD false = true from h]; simp)).trans ?_
  rw [if_pos rfl, BitVec.ofNat_toNat, BitVec.setWidth_eq]

theorem begin_drain (h : s.prf.held.getLsbD k.toNat = false) : s.prfBegin p (prfWord 3 ok slot k) =
    (withChg (atWork s p (prfWord 3 ok slot k)) (.draining k.toNat false)).unlessForced fun s => s.changeAtCycle 0 := by
  rw [prfBegin_eq (by decide)]
  refine (if_neg (by rw [h]; simp)).trans ?_
  rw [if_neg (by decide), if_pos rfl]
  rfl

theorem begin_resume (h : s.prf.held.getLsbD k.toNat = true) :
    s.prfBegin p (prfWord 4 ok slot k) = withChg (atWork s p (prfWord 4 ok slot k)) (.resuming k.toNat) := by
  rw [prfBegin_eq (by decide)]
  refine (if_neg (by rw [h]; simp)).trans ?_
  rw [if_neg (by decide), if_neg (by decide), if_pos rfl]
  rfl

theorem begin_polder_refused {op : Nat} (h : (op = 3 ∧ s.prf.held.getLsbD k.toNat = true) ∨ (op = 4 ∧ s.prf.held.getLsbD k.toNat = false)) :
    s.prfBegin p (prfWord op ok slot k) = (atWork s p (prfWord op ok slot k)).prfFail { code := 0x0A0E, addr := k.toNat } := by
  have hHigh : ¬op ≤ 2 := by omega
  rw [prfBegin_eq (by omega)]
  refine (if_pos ?_).trans ?_
  · rcases h with ⟨rfl, hHeld⟩ | ⟨rfl, hHeld⟩
    · simp [hHeld]
    · simp [hHeld]
  · rw [if_neg hHigh]

end

/-! ### A polder held at once (12 R421, 10 R624) -/

theorem suspendJobs_kept (js : List Nat) : Aside s (s.suspendJobs js) ∧ (s.suspendJobs js).prf = s.prf := by
  unfold State.suspendJobs
  induction js generalizing s with
  | nil => exact ⟨.refl s, rfl⟩
  | cons j js ih =>
    obtain ⟨hAside, hPrf⟩ := ih (s := s.raise
      { code := 0x0A08, job := j, ctx := ((s.job? j).map (·.ctx)).getD 0, kind := s.cmdKind, addr := j })
    exact ⟨((Aside.refl s).raise _).trans hAside, hPrf⟩

theorem heldBit (x : BitVec 4) {k : Nat} (hk : k < 4) : (x ||| BitVec.ofNat 4 (2 ^ k)).getLsbD k = true := by
  have hBit : (BitVec.ofNat 4 (2 ^ k)).getLsbD k = true := by
    obtain rfl | rfl | rfl | rfl : k = 0 ∨ k = 1 ∨ k = 2 ∨ k = 3 := by omega
    all_goals rfl
  rw [BitVec.getLsbD_or, hBit, Bool.or_true]

/-- A drained polder is held, and the command is done. -/
theorem holdPolder_held (hOp : s.prf.op ≠ 0) (hMine : s.prf.resMine = true) {k : Nat} (hk : k < 4) : Aside s (s.holdPolder k) ∧
    (s.holdPolder k).prf.chg = .none ∧ (s.holdPolder k).prf.resState = 2 ∧ (s.holdPolder k).prf.resCode = 0 ∧
    (s.holdPolder k).prf.held.getLsbD k = true ∧ (s.holdPolder k).prf.resOp = s.prf.resOp ∧
    (s.holdPolder k).prf.resPort = s.prf.resPort ∧ (s.holdPolder k).prf.resCount = s.prf.resCount := by
  obtain ⟨hAside, hPrf⟩ := suspendJobs_kept (s := s) ((List.range s.lkp.sched.jobs.length).filter fun j => s.onPolder k j && !s.suspended j)
  rw [State.holdPolder]
  generalize s.suspendJobs _ = t at hAside hPrf
  obtain ⟨w, m, h⟩ := prfDone_ended (s := { t with prf := { t.prf with held := t.prf.held ||| BitVec.ofNat 4 (2 ^ k) } })
    (by simpa [hPrf] using hOp) (by simpa [hPrf] using hMine)
  rw [h]
  have hHeld : Aside t { t with prf := { t.prf with held := t.prf.held ||| BitVec.ofNat 4 (2 ^ k) } } :=
    ⟨⟨rfl, rfl, rfl, rfl, rfl⟩, ⟨rfl, rfl, rfl⟩, rfl⟩
  exact ⟨(hAside.trans hHeld).trans (ended_aside _ _ _ _), rfl, rfl, rfl, heldBit _ hk, congrArg (·.resOp) hPrf, congrArg (·.resPort) hPrf,
    congrArg (·.resCount) hPrf⟩

/-! ### The obligation -/

section
variable (hOpen : OpenPort s p) (hHolds : s.holds p 1 = true)
include hOpen hHolds

theorem gives_begun {c : Instr} {op : Nat} {ok : Bool} {slot k : BitVec 2} (hLow : 0 < op) (hHigh : op < 5)
    (hExec : exec c s = .next (s.portWrite p 0x20008 (prfWord op ok slot k))) (hNone : s.prf.chg = .none) {P : State → Prop}
    (h : P (s.prfBegin p (prfWord op ok slot k)).prfCount) : Gives c s P :=
  ⟨_, hExec.trans (congrArg Host.Outcome.next ((portWrite_command hOpen hHolds hLow hHigh ok slot k).trans (prfCmd_idle hNone _))), h⟩

end

/-- ACTIVATE has begun with the verification of the slot's weight images. -/
theorem verifying_accepted {u : State} (hWork : FromWork s p 1 u) (hState : u.prf.resState = 1)
    (hTarget : u.prf.target = s.prf.target) (slot : BitVec 2) (ok i f r : Bool) {t : State}
    (ht : t = (verifying u slot ok i f r).prfCount) :
    Named s p 1 t ∧ t.prf.resCode = 0 ∧ t.prf.resCount = s.prf.resCount + 1 ∧ t.prf.chg = .verifying false ∧ t.prf.resState = 1 ∧
      t.prf.initial = i ∧ t.prf.full = f ∧ t.prf.recheck = r ∧ t.prf.work = slot ∧
      t.prf.target = if r then s.prf.target else slot := by
  have hFrom : FromWork s p 1 (verifying u slot ok i f r) :=
    ⟨⟨hWork.aside.units, hWork.aside.mem, hWork.aside.sess⟩, hWork.resOp, hWork.port, hWork.code, hWork.count⟩
  obtain ⟨⟨hNamed, hCode, hCount⟩, hChg, hRes, hEq⟩ := hFrom.accepted (by
    change u.prf.resState ≠ 3
    rw [hState]
    decide)
  rw [← ht] at hNamed hCode hCount hChg hRes hEq
  refine ⟨hNamed, hCode, hCount, hChg, hRes.trans hState, congrArg (·.prf.initial) hEq, congrArg (·.prf.full) hEq,
    congrArg (·.prf.recheck) hEq, congrArg (·.prf.work) hEq, (congrArg (·.prf.target) hEq).trans ?_⟩
  rw [← hTarget]
  rfl

section
variable (hOpen : OpenPort s p) (hHolds : s.holds p 1 = true) (hNone : s.prf.chg = .none) {slot : BitVec 2} {ok : Bool}
include hOpen hHolds hNone

theorem activate_refused (hValid : slotValid s slot = true) {e : Ev} {code : Nat}
    (hAct : (atWork s p (prfWord 1 ok slot 0)).activate slot.toNat ok = (atWork s p (prfWord 1 ok slot 0)).prfFail e)
    (hCode : e.code = code) (hJob : e.job = 0xFFFF) (hPart : e.part = 0) : Gives (.activate p slot ok) s (Refused s p 1 code) := by
  refine gives_begun hOpen hHolds (by decide) (by decide) (ok := ok) (slot := slot) (k := 0) rfl hNone ?_
  rw [begin_activate hValid, hAct]
  exact refused_of_fail (prfWord_op (by decide) ok slot 0) (by decide) hNone hCode hJob hPart

theorem activate_starts (hValid : slotValid s slot = true) {u : State} {i f r : Bool}
    (hAct : (atWork s p (prfWord 1 ok slot 0)).activate slot.toNat ok = verifying u slot ok i f r) (hWork : FromWork s p 1 u)
    (hState : u.prf.resState = 1) (hTarget : u.prf.target = s.prf.target) : Gives (.activate p slot ok) s fun t =>
      Named s p 1 t ∧ t.prf.resCode = 0 ∧ t.prf.resCount = s.prf.resCount + 1 ∧ t.prf.chg = .verifying false ∧ t.prf.resState = 1 ∧
        t.prf.initial = i ∧ t.prf.full = f ∧ t.prf.recheck = r ∧ t.prf.work = slot ∧
        t.prf.target = if r then s.prf.target else slot := by
  refine gives_begun hOpen hHolds (by decide) (by decide) (ok := ok) (slot := slot) (k := 0) rfl hNone ?_
  rw [begin_activate hValid, hAct]
  exact verifying_accepted hWork hState hTarget slot ok i f r rfl

theorem command_refused {c : Instr} {op : Nat} {k : BitVec 2} (hLow : 0 < op) (hHigh : op < 5)
    (hExec : exec c s = .next (s.portWrite p 0x20008 (prfWord op ok slot k))) {e : Ev} {code : Nat}
    (hBegin : s.prfBegin p (prfWord op ok slot k) = (atWork s p (prfWord op ok slot k)).prfFail e)
    (hCode : e.code = code) (hJob : e.job = 0xFFFF) (hPart : e.part = 0) : Gives c s (Refused s p op code) := by
  refine gives_begun hOpen hHolds hLow hHigh hExec hNone ?_
  rw [hBegin]
  exact refused_of_fail (prfWord_op (by omega) ok slot k) (by omega) hNone hCode hJob hPart

theorem command_begun {c : Instr} {op : Nat} {k : BitVec 2} (hLow : 0 < op) (hHigh : op < 5)
    (hExec : exec c s = .next (s.portWrite p 0x20008 (prfWord op ok slot k))) {u : State} (hBegin : s.prfBegin p (prfWord op ok slot k) = u)
    (hWork : FromWork s p op u) (hState : u.prf.resState = 1) : Gives c s fun t =>
      Named s p op t ∧ t.prf.resCode = 0 ∧ t.prf.resCount = s.prf.resCount + 1 ∧ t.prf.chg = u.prf.chg ∧ t.prf.resState = 1 := by
  refine gives_begun hOpen hHolds hLow hHigh hExec hNone ?_
  obtain ⟨⟨hNamed, hCode, hCount⟩, hChg, hRes, -⟩ := hWork.accepted (by
    rw [hState]
    decide)
  rw [hBegin]
  exact ⟨hNamed, hCode, hCount, hChg, hRes.trans hState⟩

end

section
variable (hOpen : OpenPort s p) (hHolds : s.holds p 1 = true) (hNone : s.prf.chg = .none) {k : BitVec 2}
include hOpen hHolds hNone

theorem drain_waits (hHeld : s.prf.held.getLsbD k.toNat = false) (hForce : s.lkp.inForce = true) :
    Gives (.polderDrain p k) s fun t => Named s p 3 t ∧ t.prf.resCode = 0 ∧ t.prf.resCount = s.prf.resCount + 1 ∧
      t.prf.chg = .draining k.toNat false ∧ t.prf.resState = 1 := by
  have hBegin := begin_drain (p := p) (slot := 0) (ok := false) hHeld
  have hKept : (withChg (atWork s p (prfWord 3 false 0 k)) (.draining k.toNat false)).lkp.inForce = true := hForce
  rw [unlessForced_inForce hKept] at hBegin
  exact command_begun hOpen hHolds hNone (by decide) (by decide) rfl hBegin
    ((atWork_fromWork (prfWord_op (by decide) false 0 k)).withChg _) rfl

variable (hHeld : s.prf.held.getLsbD k.toNat = false) (hForce : s.lkp.inForce = false)
include hHeld hForce

omit hOpen hHolds hNone in
theorem begin_drain_idle : s.prfBegin p (prfWord 3 false 0 k) =
    if s.polderDrained k.toNat then (withChg (atWork s p (prfWord 3 false 0 k)) (.draining k.toNat false)).holdPolder k.toNat
    else withChg (atWork s p (prfWord 3 false 0 k)) (.draining k.toNat true) := by
  have hKept : (withChg (atWork s p (prfWord 3 false 0 k)) (.draining k.toNat false)).lkp.inForce = false := hForce
  rw [begin_drain (p := p) (slot := 0) (ok := false) hHeld, unlessForced_idle hKept]
  rfl

theorem drain_begins (hDrained : s.polderDrained k.toNat = false) :
    Gives (.polderDrain p k) s fun t => Named s p 3 t ∧ t.prf.resCode = 0 ∧ t.prf.resCount = s.prf.resCount + 1 ∧
      t.prf.chg = .draining k.toNat true ∧ t.prf.resState = 1 := by
  have hBegin := begin_drain_idle (p := p) hHeld hForce
  rw [hDrained, if_neg (by decide)] at hBegin
  exact command_begun hOpen hHolds hNone (by decide) (by decide) rfl hBegin
    ((atWork_fromWork (prfWord_op (by decide) false 0 k)).withChg _) rfl

theorem drain_holds (hDrained : s.polderDrained k.toNat = true) :
    Gives (.polderDrain p k) s fun t => Named s p 3 t ∧ t.prf.resCode = 0 ∧ t.prf.resCount = s.prf.resCount + 1 ∧
      t.prf.chg = .none ∧ t.prf.resState = 2 ∧ t.prf.held.getLsbD k.toNat = true := by
  have hBegin := begin_drain_idle (p := p) hHeld hForce
  rw [hDrained, if_pos rfl] at hBegin
  have hWork : FromWork s p 3 (withChg (atWork s p (prfWord 3 false 0 k)) (.draining k.toNat false)) :=
    (atWork_fromWork (prfWord_op (by decide) false 0 k)).withChg _
  have hOp : (withChg (atWork s p (prfWord 3 false 0 k)) (.draining k.toNat false)).prf.op ≠ 0 := fun h =>
    absurd ((prfWord_op (op := 3) (by decide) false 0 k).symm.trans h) (by decide)
  have hMine : (withChg (atWork s p (prfWord 3 false 0 k)) (.draining k.toNat false)).prf.resMine = true := rfl
  refine gives_begun hOpen hHolds (by decide) (by decide) rfl hNone ?_
  rw [hBegin]
  generalize withChg (atWork s p (prfWord 3 false 0 k)) (.draining k.toNat false) = u at hWork hOp hMine
  obtain ⟨hAside, hChg, hState, hCode, hBit, hResOp, hPort, hCount⟩ := holdPolder_held hOp hMine k.isLt
  have hFrom : FromWork s p 3 (u.holdPolder k.toNat) :=
    ⟨hWork.aside.trans hAside, hResOp.trans hWork.resOp, hPort.trans hWork.port, hCode, hCount.trans hWork.count⟩
  obtain ⟨⟨hNamed, hZero, hNext⟩, hSame, hRes, hEq⟩ := hFrom.accepted (by
    rw [hState]
    decide)
  exact ⟨hNamed, hZero, hNext, hSame.trans hChg, hRes.trans hState, (congrArg (·.prf.held.getLsbD k.toNat) hEq).trans hBit⟩

end

/-- The busy device refuses each command. -/
theorem command_busy (hOpen : OpenPort s p) (hHolds : s.holds p 1 = true) (hBusy : s.prf.chg ≠ .none) {c : Instr} {op : Nat} {ok : Bool}
    {slot k : BitVec 2} (hLow : 0 < op) (hHigh : op < 5) (hExec : exec c s = .next (s.portWrite p 0x20008 (prfWord op ok slot k))) :
    Gives c s (Refused s p op 0x0A03) := by
  rw [portWrite_command hOpen hHolds hLow hHigh, prfCmd_busy hBusy] at hExec
  exact ⟨_, hExec, prfBusy_refused (prfWord_op (by omega) ok slot k)⟩

/-- Settles O39: PRF_CMD is refused, begins a change, or holds a drained polder at once; each case of R414 in its order. -/
theorem profileCommands : Obligations.ProfileCommands := by
  unfold Obligations.ProfileCommands
  intro p slot k ok b s hOpen hHolds valid img cur named refused taken begun starts cmds
  have hWork : FromWork s p 1 (atWork s p (prfWord 1 ok slot 0)) := atWork_fromWork (prfWord_op (by decide) ok slot 0)
  have hOp : (atWork s p (prfWord 1 ok slot 0)).prf.op ≠ 0 := fun h => absurd ((prfWord_op (op := 1) (by decide) ok slot 0).symm.trans h)
    (by decide)
  refine ⟨fun hBusy => ?_, fun hNone => ⟨fun hValid => ⟨?_, ?_⟩, fun hValid => ?_, fun hValid hSlot hForce => ?_,
    fun hValid hOther => ⟨fun hBar => ?_, fun hNode hRole => ⟨fun hStart => ?_, fun hStart => ⟨fun hForce => ?_,
      fun hForce hFull => ⟨fun hOk => ?_, fun hOk => ?_⟩, fun hForce hFull => ⟨fun hClash => ?_, fun hClash => ?_⟩⟩⟩⟩,
    fun hHeld hForce => ?_, fun hHeld hForce => ⟨fun hDrained => ?_, fun hDrained => ?_⟩, fun hHeld => ?_, fun hHeld => ?_,
    fun hHeld => ?_⟩⟩
  · refine List.forall_mem_cons.mpr
      ⟨command_busy hOpen hHolds hBusy (op := 1) (ok := ok) (slot := slot) (k := 0) (by decide) (by decide) rfl, List.forall_mem_cons.mpr
      ⟨command_busy hOpen hHolds hBusy (op := 2) (ok := false) (slot := slot) (k := 0) (by decide) (by decide) rfl, List.forall_mem_cons.mpr
      ⟨command_busy hOpen hHolds hBusy (op := 3) (ok := false) (slot := 0) (k := k) (by decide) (by decide) rfl, List.forall_mem_cons.mpr
      ⟨command_busy hOpen hHolds hBusy (op := 4) (ok := false) (slot := 0) (k := k) (by decide) (by decide) rfl, List.forall_mem_cons.mpr
      ⟨⟨_, exec_restart_busy hOpen hHolds b hBusy, prfBusy_refused (prfWord_op (by decide) false 0 0)⟩, fun _ h => nomatch h⟩⟩⟩⟩⟩
  · exact command_refused hOpen hHolds hNone (ok := ok) (slot := slot) (k := 0) (by decide) (by decide) rfl
      (begin_invalid (.inl rfl) hValid) rfl rfl rfl
  · exact command_refused hOpen hHolds hNone (ok := false) (slot := slot) (k := 0) (by decide) (by decide) rfl
      (begin_invalid (.inr rfl) hValid) rfl rfl rfl
  · have hWork2 : FromWork s p 2 (atWork s p (prfWord 2 false slot 0)) := atWork_fromWork (prfWord_op (by decide) false slot 0)
    exact command_begun hOpen hHolds hNone (ok := false) (slot := slot) (k := 0) (by decide) (by decide) rfl (begin_verify hValid)
      ⟨⟨hWork2.aside.units, hWork2.aside.mem, rfl⟩, hWork2.resOp, hWork2.port, rfl, rfl⟩ rfl
  · exact activate_starts hOpen hHolds hNone hValid (activate_recheck (s := atWork s p (prfWord 1 ok slot 0)) hSlot hForce)
      ⟨⟨hWork.aside.units, hWork.aside.mem, rfl⟩, hWork.resOp, hWork.port, rfl, rfl⟩ rfl rfl
  · exact activate_refused hOpen hHolds hNone hValid (activate_barred (s := atWork s p (prfWord 1 ok slot 0)) hOther hOp hBar) rfl rfl rfl
  · exact activate_refused hOpen hHolds hNone hValid
      (activate_startOnly (s := atWork s p (prfWord 1 ok slot 0)) hOther hNode hRole hStart) rfl rfl rfl
  · exact activate_starts hOpen hHolds hNone hValid
      (activate_initial (s := atWork s p (prfWord 1 ok slot 0)) hOther hNode hRole hStart hForce) hWork rfl rfl
  · exact activate_refused hOpen hHolds hNone hValid
      ((activate_full (s := atWork s p (prfWord 1 ok slot 0)) hOther hNode hRole hStart hForce hFull).trans (if_neg (by simp [hOk])))
      rfl rfl rfl
  · exact activate_starts hOpen hHolds hNone hValid
      ((activate_full (s := atWork s p (prfWord 1 ok slot 0)) hOther hNode hRole hStart hForce hFull).trans (if_pos hOk)) hWork rfl rfl
  · obtain ⟨q, hq⟩ := Option.ne_none_iff_exists'.mp hClash
    exact activate_refused hOpen hHolds hNone hValid
      (activate_clash (s := atWork s p (prfWord 1 ok slot 0)) hOther hNode hRole hStart hForce hFull hq) rfl rfl rfl
  · exact activate_starts hOpen hHolds hNone hValid
      (activate_staged (s := atWork s p (prfWord 1 ok slot 0)) hOther hNode hRole hStart hForce hFull hClash) hWork rfl rfl
  · exact drain_waits hOpen hHolds hNone hHeld hForce
  · exact drain_holds hOpen hHolds hNone hHeld hForce hDrained
  · exact drain_begins hOpen hHolds hNone hHeld hForce hDrained
  · exact command_refused hOpen hHolds hNone (ok := false) (slot := 0) (k := k) (by decide) (by decide) rfl
      (begin_polder_refused (.inl ⟨rfl, hHeld⟩)) rfl rfl rfl
  · have hWork4 : FromWork s p 4 (atWork s p (prfWord 4 false 0 k)) := atWork_fromWork (prfWord_op (by decide) false 0 k)
    exact command_begun hOpen hHolds hNone (by decide) (by decide) rfl (begin_resume hHeld)
      (hWork4.withChg _) rfl
  · exact command_refused hOpen hHolds hNone (ok := false) (slot := 0) (k := k) (by decide) (by decide) rfl
      (begin_polder_refused (.inr ⟨rfl, hHeld⟩)) rfl rfl rfl

end Sys2Proof.Machine.ProfileCommands

/-! PROOF. Verification of weight images and admission (12 R406, R407, R414, R415; 10 R335, R336, R343). -/

namespace Sys2Proof.Machine.Admissions

open Laws Lrate ProfileCommands SfuBanks
open Sessions (Aside)

variable {s t u : State}

/-! ### The end of a command (12 R424, R427) -/

theorem prfResult_aside (st code : Nat) : Aside s (s.prfResult st code) := by
  unfold State.prfResult
  split
  · exact .refl s
  · exact ⟨⟨rfl, rfl, rfl, rfl, rfl⟩, ⟨rfl, rfl, rfl⟩, rfl⟩

theorem cleared_aside (w : Pwr) (k : BitVec 2) : Aside s (cleared s w k) := ⟨⟨rfl, rfl, rfl, rfl, rfl⟩, ⟨rfl, rfl, rfl⟩, rfl⟩

theorem prfResult_recs (st code : Nat) : (s.prfResult st code).mgt = s.mgt := by
  unfold State.prfResult
  split
  · rfl
  · rfl

theorem prfResult_verified (st code : Nat) : (s.prfResult st code).prf.verified = s.prf.verified := by
  unfold State.prfResult
  split
  · rfl
  · rfl

/-- The result of a command that still owns the result registers. -/
def Resulted (s t : State) (st code : Nat) : Prop :=
  s.prf.op ≠ 0 → s.prf.resMine = true → t.prf.resState = BitVec.ofNat 8 st ∧ t.prf.resCode = BitVec.ofNat 16 code

/-- A change that is over, with its result. -/
theorem over_kept (st code : Nat) : Aside s (s.prfResult st code).chgClear ∧ (s.prfResult st code).chgClear.prf.chg = .none ∧
    (s.prfResult st code).chgClear.mgt = s.mgt ∧ (s.prfResult st code).chgClear.prf.verified = s.prf.verified ∧
    Resulted s (s.prfResult st code).chgClear st code := by
  obtain ⟨w, k, h⟩ := chgClear_cleared (s.prfResult st code)
  rw [h]
  refine ⟨(prfResult_aside st code).trans (cleared_aside w k), rfl, prfResult_recs st code, prfResult_verified st code,
    fun hOp hMine => ?_⟩
  rw [prfResult_mine hOp hMine]
  exact ⟨rfl, rfl⟩

theorem prfDone_kept : Aside s s.prfDone ∧ s.prfDone.prf.chg = .none ∧ s.prfDone.prf.verified = s.prf.verified ∧ Resulted s s.prfDone 2 0 := by
  obtain ⟨hAside, hChg, -, hMarks, hRes⟩ := over_kept (s := s) 2 0
  exact ⟨hAside, hChg, hMarks, hRes⟩

theorem prfFail_kept (e : Ev) : Aside s (s.prfFail e) ∧ (s.prfFail e).prf.chg = .none ∧ LastEvent (s.prfFail e) e.code ∧
    Resulted s (s.prfFail e) 3 e.code := by
  obtain ⟨hAside, hChg, hRecs, -, hRes⟩ := over_kept (s := s.raise { e with kind := s.cmdKind }) 3 e.code
  refine ⟨((Aside.refl s).raise _).trans hAside, hChg, ?_, hRes⟩
  have hLast := raised_lastEvent (raise_raised s { e with kind := s.cmdKind })
  unfold LastEvent at hLast ⊢
  rw [State.prfFail, hRecs]
  exact hLast

/-! ### Verification (12 R406, R407) -/

/-- A state with other marks of verified images. -/
def marked (s : State) (l : List (Nat × Nat)) : State := { s with prf := { s.prf with verified := l } }

theorem manBytes_congr (hDev : t.dev = s.dev) (hMdie : t.mdie = s.mdie) (hRead : ∀ a n, t.read a n = s.read a n) (img : List Byte)
    (e : ManE) : t.manBytes img e = s.manBytes img e := by
  have hDram := Faults.inDram_congr hDev (fun d => congrArg (fun v : Vector MDie 4 => v[d].gone) hMdie) e.addr e.len
  rw [State.manBytes, State.manBytes, hDram, inSpad_congr hMdie, hRead]

theorem marked_dev (l : List (Nat × Nat)) : (marked s l).dev = s.dev := rfl

theorem marked_mdie (l : List (Nat × Nat)) : (marked s l).mdie = s.mdie := rfl

theorem marked_byte (l : List (Nat × Nat)) (b : Nat) : (marked s l).byte b = s.byte b := rfl

theorem manBytes_marked (l : List (Nat × Nat)) (img : List Byte) (e : ManE) : (marked s l).manBytes img e = s.manBytes img e :=
  manBytes_congr (marked_dev l) (marked_mdie l) (NmuAccess.read_congr (marked_byte l)) img e

theorem manBytes_bump (hKeyed : AllKeyed s) (img : List Byte) (e : ManE) : s.bump.manBytes img e = s.manBytes img e :=
  manBytes_congr (bump_dev s) (bump_mdie s) (read_bump hKeyed) img e

/-- The image's bytes have the digest that the manifest gives. -/
def Matches (s : State) (c : Cand) (e : ManE) : Prop := (s.manBytes c.img e).map sm3 = some e.digest

/-- The image is one that verification looks at. -/
def Due (s : State) (c : Cand) (q : ManE × Nat) : Prop := q.1.kind = 4 ∧ (c.slot, q.2) ∉ s.prf.verified

theorem verifyGo_skip {c : Cand} {q : ManE × Nat} (h : ¬Due s c q) (rest : List (ManE × Nat)) :
    s.verifyGo c (q :: rest) = s.verifyGo c rest := by
  obtain ⟨e, i⟩ := q
  rw [State.verifyGo, if_pos]
  by_contra hNot
  rw [not_or] at hNot
  exact h ⟨not_not.mp hNot.1, fun hIn => hNot.2 (List.contains_iff_mem.mpr hIn)⟩

theorem verifyGo_match {c : Cand} {q : ManE × Nat} (h : Due s c q) (hMatch : Matches s c q.1) (rest : List (ManE × Nat)) :
    s.verifyGo c (q :: rest) = (marked s (s.prf.verified ++ [(c.slot, q.2)])).verifyGo c rest := by
  obtain ⟨e, i⟩ := q
  obtain ⟨hKind, hNot⟩ := h
  rw [State.verifyGo, if_neg (not_or.mpr ⟨not_not.mpr hKind, fun hIn => hNot (List.contains_iff_mem.mp hIn)⟩)]
  exact if_pos hMatch

theorem verifyGo_mismatch {c : Cand} {q : ManE × Nat} (h : Due s c q) (hMatch : ¬Matches s c q.1) (rest : List (ManE × Nat)) :
    s.verifyGo c (q :: rest) = (s, some q.2) := by
  obtain ⟨e, i⟩ := q
  obtain ⟨hKind, hNot⟩ := h
  rw [State.verifyGo, if_neg (not_or.mpr ⟨not_not.mpr hKind, fun hIn => hNot (List.contains_iff_mem.mp hIn)⟩)]
  exact if_neg hMatch

theorem marked_self : marked s s.prf.verified = s := rfl

/-- Where every image due matches, all are marked. -/
theorem verifyGo_all {c : Cand} (qs : List (ManE × Nat)) : ∀ s : State, (∀ q ∈ qs, Due s c q → Matches s c q.1) →
    ∃ l, s.verifyGo c qs = (marked s l, none) ∧ s.prf.verified ⊆ l ∧ ∀ q ∈ qs, q.1.kind = 4 → (c.slot, q.2) ∈ l := by
  induction qs with
  | nil => exact fun s _ => ⟨s.prf.verified, rfl, List.Subset.refl _, fun _ h => nomatch h⟩
  | cons q qs ih =>
    intro s h
    by_cases hDue : Due s c q
    · have hMatch := h q List.mem_cons_self hDue
      obtain ⟨l, hGo, hSub, hAll⟩ := ih (marked s (s.prf.verified ++ [(c.slot, q.2)])) fun q' hq' hDue' => by
        have hBefore : Due s c q' := ⟨hDue'.1, fun hIn => hDue'.2 (List.mem_append_left _ hIn)⟩
        rw [Matches, manBytes_marked]
        exact h q' (List.mem_cons_of_mem _ hq') hBefore
      refine ⟨l, ?_, fun x hx => hSub (List.mem_append_left _ hx), ?_⟩
      · rw [verifyGo_match hDue hMatch, hGo]
        rfl
      · exact List.forall_mem_cons.mpr ⟨fun _ => hSub (List.mem_append_right _ (List.mem_singleton.mpr rfl)), hAll⟩
    · obtain ⟨l, hGo, hSub, hAll⟩ := ih s fun q' hq' => h q' (List.mem_cons_of_mem _ hq')
      refine ⟨l, (verifyGo_skip hDue qs).trans hGo, hSub, List.forall_mem_cons.mpr ⟨fun hKind => ?_, hAll⟩⟩
      by_contra hNot
      exact hDue ⟨hKind, fun hIn => hNot (hSub hIn)⟩

/-- Where some image due does not match, verification stops at one. -/
theorem verifyGo_stops {c : Cand} (qs : List (ManE × Nat)) : (qs.map Prod.snd).Nodup → ∀ s : State,
    (∃ q ∈ qs, Due s c q ∧ ¬Matches s c q.1) → ∃ l i, s.verifyGo c qs = (marked s l, some i) := by
  induction qs with
  | nil => exact fun _ s ⟨_, h, _⟩ => nomatch h
  | cons q qs ih =>
    rintro hNodup s ⟨q', hq', hDue', hNot⟩
    obtain ⟨hNew, hNodup⟩ := List.nodup_cons.mp hNodup
    by_cases hDue : Due s c q
    · by_cases hMatch : Matches s c q.1
      · rcases List.mem_cons.mp hq' with rfl | hIn
        · exact absurd hMatch hNot
        · have hStill : Due (marked s (s.prf.verified ++ [(c.slot, q.2)])) c q' := by
            refine ⟨hDue'.1, fun hMark => ?_⟩
            rcases List.mem_append.mp hMark with hOld | hOwn
            · exact hDue'.2 hOld
            · have hSame : q'.2 = q.2 := (Prod.mk.inj (List.mem_singleton.mp hOwn)).2
              exact hNew (hSame ▸ List.mem_map_of_mem hIn)
          obtain ⟨l, i, hGo⟩ := ih hNodup (marked s (s.prf.verified ++ [(c.slot, q.2)])) ⟨q', hIn, hStill, by
            rw [Matches, manBytes_marked]
            exact hNot⟩
          exact ⟨l, i, (verifyGo_match hDue hMatch qs).trans hGo⟩
      · exact ⟨s.prf.verified, q.2, verifyGo_mismatch hDue hMatch qs⟩
    · rcases List.mem_cons.mp hq' with rfl | hIn
      · exact absurd hDue' hDue
      · obtain ⟨l, i, hGo⟩ := ih hNodup s ⟨q', hIn, hDue', hNot⟩
        exact ⟨l, i, (verifyGo_skip hDue qs).trans hGo⟩

/-! ### WEIGHT_VERIFY_DONE -/

theorem exec_verified {only : Bool} (hChg : s.prf.chg = .verifying only) {l : List (Nat × Nat)}
    (h : s.bump.verifyGo (s.cand s.prf.work.toNat) (s.cand s.prf.work.toNat).man.zipIdx = (marked s.bump l, none)) :
    exec .weightVerifyDone s = .next (if only then (marked s.bump l).prfDone else withChg (marked s.bump l) .admitting) := by
  change execWeightVerifyDone s = _
  rw [execWeightVerifyDone, hChg]
  simp only [h]
  rfl

theorem exec_mismatch {only : Bool} (hChg : s.prf.chg = .verifying only) {l : List (Nat × Nat)} {i : Nat}
    (h : s.bump.verifyGo (s.cand s.prf.work.toNat) (s.cand s.prf.work.toNat).man.zipIdx = (marked s.bump l, some i)) :
    exec .weightVerifyDone s = .next ((marked s.bump l).prfFail { code := 0x0A09, addr := i }) := by
  change execWeightVerifyDone s = _
  rw [execWeightVerifyDone, hChg]
  simp only [h]

theorem marked_aside (l : List (Nat × Nat)) : Aside s (marked s.bump l) := ⟨⟨rfl, rfl, rfl, rfl, rfl⟩, ⟨rfl, rfl, rfl⟩, rfl⟩

/-! ### Admission (10 R335, R343; 12 R414) -/

/-- What admission finds. -/
def found (s : State) : Option Refuse :=
  if !s.prf.initial && !s.prf.full && !s.prf.recheck then s.admitStaged (s.cand s.prf.work.toNat)
  else s.admitWhole (s.cand s.prf.work.toNat)

/-- The state with the outcome in LKP_ADM_RESULT. -/
def outcome (s : State) : State := s.bump.admResult (s.cand s.prf.work.toNat) (found s)

theorem outcome_kept : (outcome s).reach = s.reach ∧ MemoryKept s (outcome s) ∧ (outcome s).prf.op = s.prf.op ∧
    (outcome s).prf.resMine = s.prf.resMine ∧ (outcome s).lkp.admRuns = s.lkp.admRuns + 1 := ⟨rfl, ⟨rfl, rfl, rfl⟩, rfl, rfl, rfl⟩

theorem exec_refused (hChg : s.prf.chg = .admitting) {r : Refuse} (h : found s = some r) :
    exec .admission s = .next ((outcome s).admRefused r (s.cand s.prf.work.toNat).sched) := by
  unfold outcome found at *
  change execAdmission s = _
  rw [execAdmission, hChg]
  simp only [h]

/-- What follows an admission. -/
def admitted (s : State) : State :=
  if s.prf.recheck then (outcome s).prfDone
  else if s.prf.initial && s.prf.work.toNat == s.activeSlot then withChg (outcome s) .entering
  else if !s.prf.initial && !s.prf.full && !s.prf.recheck then
    ({ outcome s with pwr := { (outcome s).pwr with plimit := min (outcome s).pwr.plimit (s.cand s.prf.work.toNat).hdr.plimit } } :
      State).powerFlags.beginLoads
  else (outcome s).beginLoads

theorem exec_admitted (hChg : s.prf.chg = .admitting) (h : found s = none) : exec .admission s = .next (admitted s) := by
  unfold admitted outcome
  rw [h]
  unfold found at h
  change execAdmission s = _
  rw [execAdmission, hChg]
  simp only [h]
  refine congrArg Host.Outcome.next ?_
  rw [← apply_ite State.beginLoads]
  rfl

/-! ### The loads of a change (12 R415) -/

/-- One reach is prepared for a change. -/
def prepared (s : State) (n : Fin 16) : State :=
  (s.modBank n (1 - s.reach[n].active) fun b => if b.state = .pending then { b with state := .ready } else b).ownLoad n

theorem prepareBanks_eq : s.prepareBanks =
    (List.finRange 16).foldl prepared { s with prf := { s.prf with loads := List.range 16 } } := rfl

/-- A bank that is not loading is not loading once a pending switch is cancelled. -/
theorem cancelled_loading {n : Fin 16} (h : s.reach[n].loadingBank = none) :
    (s.modBank n (1 - s.reach[n].active) fun b => if b.state = .pending then { b with state := .ready } else b).reach[n].loadingBank =
      none := by
  have hNot (j : Nat) (hj : j < 2) : (s.reach[n].bankAt j).state ≠ .loading := fun hLoad => by
    have hFind := List.find?_eq_none.mp h j (by simp only [List.mem_cons, List.not_mem_nil, or_false]; omega)
    exact hFind (beq_iff_eq.mpr hLoad)
  refine loadingBank_eq_none fun j hj => ?_
  by_cases hSame : 1 - s.reach[n].active = j
  · rw [hSame, bankAt_modBank_same hj]
    split
    · simp
    · exact hNot _ hj
  · rw [bankAt_modBank_ne hSame]
    exact hNot j hj

/-- What one reach's preparation does. -/
structure Prepares (n : Fin 16) (s t : State) : Prop where
  others : ∀ m : Fin 16, m ≠ n → t.reach[m] = s.reach[m]
  unit   : t.reach[n].u = s.reach[n].u
  starts : s.reach[n].loadingBank = none → t.reach[n].bankAt (1 - s.reach[n].active) =
    { state := .loading, own := true, slot := s.prf.target }
  prf    : t.prf = s.prf
  lkp    : t.lkp = s.lkp
  mem    : MemoryKept s t

theorem ownLoad_modBank {n : Fin 16} : s.ownLoad n = s ∨ ∃ k f, s.ownLoad n = s.modBank n k f := by
  rw [State.ownLoad]
  split
  · exact .inl rfl
  · exact .inr ⟨_, _, rfl⟩

theorem modBank_other {n m : Fin 16} (h : m ≠ n) (k : Nat) (f : SfuBank → SfuBank) : (s.modBank n k f).reach[m] = s.reach[m] :=
  modReach_ne s h _

theorem modBank_unit {n : Fin 16} (k : Nat) (f : SfuBank → SfuBank) : (s.modBank n k f).reach[n].u = s.reach[n].u := by
  rw [State.modBank, modReach_same]
  rfl

theorem prepared_prepares (n : Fin 16) : Prepares n s (prepared s n) := by
  unfold prepared
  have hStarts (h : s.reach[n].loadingBank = none) := ownLoad_starts (cancelled_loading h)
  rw [active_modBank] at hStarts
  obtain h | ⟨k, f, h⟩ := ownLoad_modBank (n := n)
    (s := s.modBank n (1 - s.reach[n].active) fun b => if b.state = .pending then { b with state := .ready } else b)
  · refine ⟨fun m hm => ?_, ?_, hStarts, ?_, ?_, ?_⟩
    · rw [h]
      exact modBank_other hm _ _
    · rw [h]
      exact modBank_unit _ _
    · rw [h]
      rfl
    · rw [h]
      rfl
    · rw [h]
      exact ⟨rfl, rfl, rfl⟩
  · refine ⟨fun m hm => ?_, ?_, hStarts, ?_, ?_, ?_⟩
    · rw [h, modBank_other hm]
      exact modBank_other hm _ _
    · rw [h, modBank_unit]
      exact modBank_unit _ _
    · rw [h]
      rfl
    · rw [h]
      rfl
    · rw [h]
      exact ⟨rfl, rfl, rfl⟩

/-- The reaches of a list are prepared, each once, and no other. -/
theorem preparedAll_prepares (l : List (Fin 16)) : l.Nodup → ∀ s : State,
    (∀ n ∈ l, (l.foldl prepared s).reach[n].u = s.reach[n].u ∧ (s.reach[n].loadingBank = none →
      (l.foldl prepared s).reach[n].bankAt (1 - s.reach[n].active) = { state := .loading, own := true, slot := s.prf.target })) ∧
    (∀ n ∉ l, (l.foldl prepared s).reach[n] = s.reach[n]) ∧ (l.foldl prepared s).prf = s.prf ∧ (l.foldl prepared s).lkp = s.lkp ∧
      MemoryKept s (l.foldl prepared s) := by
  induction l with
  | nil => exact fun _ s => ⟨fun _ h => absurd h List.not_mem_nil, fun _ _ => rfl, rfl, rfl, rfl, rfl, rfl⟩
  | cons n l ih =>
    intro hNodup s
    obtain ⟨hNew, hNodup⟩ := List.nodup_cons.mp hNodup
    obtain ⟨hIn, hOut, hPrf, hLkp, hMem, hPoison, hKey⟩ := ih hNodup (prepared s n)
    obtain ⟨hOthers, hUnit, hStarts, kPrf, kLkp, kMem, kPoison, kKey⟩ := prepared_prepares (s := s) n
    refine ⟨List.forall_mem_cons.mpr ⟨?_, fun m hm => ?_⟩, fun m hm => ?_, hPrf.trans kPrf, hLkp.trans kLkp, hMem.trans kMem,
      hPoison.trans kPoison, hKey.trans kKey⟩
    · rw [List.foldl_cons, hOut n hNew]
      exact ⟨hUnit, hStarts⟩
    · have hNe : m ≠ n := fun h => hNew (h ▸ hm)
      have hDone := hIn m hm
      rw [hOthers m hNe, kPrf] at hDone
      exact hDone
    · rw [List.foldl_cons, hOut m fun h => hm (List.mem_cons_of_mem _ h)]
      exact hOthers m fun h => hm (h ▸ List.mem_cons_self)

theorem beginLoads_kept : s.beginLoads.prf.chg = .loading ∧ s.beginLoads.prf.loads = List.range 16 ∧ s.beginLoads.lkp = s.lkp ∧
    MemoryKept s s.beginLoads ∧ ∀ n : Fin 16, s.beginLoads.reach[n].u = s.reach[n].u ∧ (s.reach[n].loadingBank = none →
      s.beginLoads.reach[n].bankAt (1 - s.reach[n].active) = { state := .loading, own := true, slot := s.prf.target }) := by
  obtain ⟨hIn, -, hPrf, hLkp, hMem⟩ := preparedAll_prepares (List.finRange 16) (List.nodup_finRange 16)
    { s with prf := { s.prf with chg := .loading, loads := List.range 16 } }
  have hEq : s.beginLoads = (List.finRange 16).foldl prepared { s with prf := { s.prf with chg := .loading, loads := List.range 16 } } := by
    rw [State.beginLoads, prepareBanks_eq]
  rw [hEq]
  exact ⟨congrArg (·.chg) hPrf, congrArg (·.loads) hPrf, hLkp, hMem, fun n => hIn n (List.mem_finRange n)⟩

/-! ### The obligation -/

theorem powerFlags_kept (w : Pwr) : ∃ v, ({ s with pwr := w } : State).powerFlags = { s with pwr := v } := ⟨_, rfl⟩

/-- The loads begin, whatever the power that is allowed. -/
theorem admitted_loads (hRecheck : s.prf.recheck = false) (h : s.prf.initial = false ∨ s.prf.work ≠ s.dev.profile) :
    ∃ u, admitted s = u.beginLoads ∧ u.reach = s.reach ∧ MemoryKept s u ∧ u.lkp = (outcome s).lkp ∧ u.prf.target = s.prf.target := by
  have hNot : ¬(s.prf.initial && s.prf.work.toNat == s.activeSlot) = true := by
    rcases h with h | h
    · simp [h]
    · simp only [Bool.and_eq_true, beq_iff_eq, not_and]
      exact fun _ hSame => h (BitVec.eq_of_toNat_eq hSame)
  rw [admitted, if_neg (by simp [hRecheck]), if_neg hNot]
  split
  · obtain ⟨v, hv⟩ := powerFlags_kept (s := outcome s) { (outcome s).pwr with
      plimit := min (outcome s).pwr.plimit (s.cand s.prf.work.toNat).hdr.plimit }
    rw [hv]
    exact ⟨_, rfl, rfl, ⟨rfl, rfl, rfl⟩, rfl, rfl⟩
  · exact ⟨outcome s, rfl, rfl, ⟨rfl, rfl, rfl⟩, rfl, rfl⟩

/-- What LKP_ADM_RESULT says of an admission. -/
theorem outcome_lkp {r : Option Refuse} (h : found s = r) :
    (outcome s).lkp.admCode = BitVec.ofNat 16 (r.getD { code := 0 }).code ∧
    (outcome s).lkp.admJob = BitVec.ofNat 16 (r.getD { code := 0 }).job ∧
    (outcome s).lkp.admSlot = BitVec.ofNat 13 (r.getD { code := 0 }).slot ∧ (outcome s).lkp.admRuns = s.lkp.admRuns + 1 := by
  rw [outcome, h]
  exact ⟨rfl, rfl, rfl, rfl⟩

theorem refused_gives (hChg : s.prf.chg = .admitting) {r : Refuse} (h : found s = some r) : Gives .admission s fun t =>
    t.prf.chg = .none ∧ t.lkp.admCode = BitVec.ofNat 16 r.code ∧ t.lkp.admJob = BitVec.ofNat 16 r.job ∧
      t.lkp.admSlot = BitVec.ofNat 13 r.slot ∧ t.lkp.admRuns = s.lkp.admRuns + 1 ∧ LastEvent t r.code ∧
      (s.prf.op ≠ 0 → s.prf.resMine = true → t.prf.resState = 3 ∧ t.prf.resCode = BitVec.ofNat 16 r.code) ∧
      t.reach = s.reach ∧ MemoryKept s t := by
  have hExec := exec_refused hChg h
  rw [State.admRefused] at hExec
  generalize hEv : ({ r.ev (if r.old then (outcome s).lkp.sched else (s.cand s.prf.work.toNat).sched) with kind := 6 } : Ev) = ev at hExec
  have hCode : ev.code = r.code := by
    rw [← hEv]
    rfl
  obtain ⟨hAside, hNone, hRecs, -, hRes⟩ := over_kept (s := (outcome s).raise ev) 3 r.code
  obtain ⟨⟨hReach, -, -, hLkp, -⟩, hMem, -⟩ := ((Aside.refl (outcome s)).raise ev).trans hAside
  obtain ⟨kReach, kMem, kOp, kMine, -⟩ := outcome_kept (s := s)
  obtain ⟨hAdm, hJob, hSlot, hRuns⟩ := outcome_lkp h
  have hLast := raised_lastEvent (raise_raised (outcome s) ev)
  rw [hCode] at hLast
  refine ⟨_, hExec, hNone, ?_, ?_, ?_, ?_, ?_, fun hOp hMine => hRes (kOp.trans_ne hOp) (kMine.trans hMine), hReach.trans kReach,
    NmuAccess.memoryKept_trans kMem hMem⟩
  · rw [hLkp]
    exact hAdm
  · rw [hLkp]
    exact hJob
  · rw [hLkp]
    exact hSlot
  · rw [hLkp]
    exact hRuns
  · unfold LastEvent at hLast ⊢
    rw [hRecs]
    exact hLast

theorem admitted_gives (hChg : s.prf.chg = .admitting) (h : found s = none) : Gives .admission s fun t =>
    t.lkp.admCode = 0 ∧ t.lkp.admRuns = s.lkp.admRuns + 1 ∧ MemoryKept s t ∧
      (s.prf.recheck = true → t.prf.chg = .none ∧ t.reach = s.reach) ∧
      (s.prf.recheck = false → s.prf.initial = true → s.prf.work = s.dev.profile → t.prf.chg = .entering ∧ t.reach = s.reach) ∧
      (s.prf.recheck = false → s.prf.initial = false ∨ s.prf.work ≠ s.dev.profile →
        t.prf.chg = .loading ∧ t.prf.loads = List.range 16 ∧ ∀ n : Fin 16, t.reach[n].u = s.reach[n].u ∧
          (s.reach[n].loadingBank = none → t.reach[n].bankAt (1 - s.reach[n].active) =
            { state := .loading, own := true, slot := s.prf.target })) := by
  obtain ⟨kReach, kMem, -⟩ := outcome_kept (s := s)
  obtain ⟨hAdm, -, -, hRuns⟩ := outcome_lkp h
  refine ⟨_, exec_admitted hChg h, ?_⟩
  by_cases hRecheck : s.prf.recheck = true
  · have hEq : admitted s = (outcome s).prfDone := if_pos hRecheck
    obtain ⟨⟨⟨hReach, -, -, hLkp, -⟩, hMem, -⟩, hNone, -⟩ := prfDone_kept (s := outcome s)
    rw [hEq]
    exact ⟨(congrArg (·.admCode) hLkp).trans hAdm, (congrArg (·.admRuns) hLkp).trans hRuns, NmuAccess.memoryKept_trans kMem hMem, fun _ => ⟨hNone, hReach.trans kReach⟩,
      fun hNot => absurd (hRecheck.symm.trans hNot) (by decide), fun hNot => absurd (hRecheck.symm.trans hNot) (by decide)⟩
  have hRecheck : s.prf.recheck = false := Bool.eq_false_iff.mpr hRecheck
  by_cases hFirst : s.prf.initial = true ∧ s.prf.work = s.dev.profile
  · obtain ⟨hInitial, hWork⟩ := hFirst
    have hEq : admitted s = withChg (outcome s) .entering := by
      rw [admitted, if_neg (by simp [hRecheck]), if_pos (by simp [hInitial, hWork, State.activeSlot])]
    rw [hEq]
    exact ⟨hAdm, hRuns, kMem, fun hNot => absurd (hRecheck.symm.trans hNot) (by decide), fun _ _ _ => ⟨rfl, kReach⟩,
      fun _ hNot => absurd hNot (by simp [hInitial, hWork])⟩
  · have hOther : s.prf.initial = false ∨ s.prf.work ≠ s.dev.profile := by
      by_contra hNot
      exact hFirst (by simpa using hNot)
    obtain ⟨u, hEq, uReach, uMem, uLkp, uTarget⟩ := admitted_loads hRecheck hOther
    obtain ⟨hLoading, hLoads, hLkp, hMem, hAll⟩ := beginLoads_kept (s := u)
    have hLkp := hLkp.trans uLkp
    rw [uReach, uTarget] at hAll
    rw [hEq]
    exact ⟨(congrArg (·.admCode) hLkp).trans hAdm, (congrArg (·.admRuns) hLkp).trans hRuns, NmuAccess.memoryKept_trans uMem hMem, fun hNot => absurd (hRecheck.symm.trans hNot) (by decide),
      fun _ hInitial hWork => absurd ⟨hInitial, hWork⟩ hFirst, fun _ _ => ⟨hLoading, hLoads, hAll⟩⟩

/-- Settles O40: verification marks image by image; admission is refused, done, awaits its cycle start or loads the SFU tables. -/
theorem verificationAndAdmission : Obligations.VerificationAndAdmission := by
  unfold Obligations.VerificationAndAdmission
  intro s c todo
  have hTodo (q : ManE × Nat) (hq : q ∈ c.man.zipIdx) (hDue : Due s.bump c q) : q ∈ todo := by
    obtain ⟨hKind, hNot⟩ := hDue
    refine List.mem_filter.mpr ⟨hq, ?_⟩
    have hNot : (s.prf.work.toNat, q.2) ∉ s.prf.verified := hNot
    simp [hKind, hNot]
  refine ⟨fun only hChg hKeyed => ⟨fun hAll => ?_, fun ⟨q, hq, hNot⟩ => ?_⟩, fun hChg => ?_⟩
  · obtain ⟨l, hGo, -, hMarked⟩ := verifyGo_all (c := c) c.man.zipIdx s.bump fun q hq hDue => by
      rw [Matches, manBytes_bump hKeyed]
      exact hAll q (hTodo q hq hDue)
    refine ⟨_, exec_verified hChg hGo, ?_⟩
    cases only with
    | true =>
      obtain ⟨hAside, hNone, hMarks, hRes⟩ := prfDone_kept (s := marked s.bump l)
      have hKept := (marked_aside l).trans hAside
      rw [if_pos rfl, if_pos rfl, hMarks]
      exact ⟨hMarked, hKept.units, hKept.mem, hNone, fun _ hOp hMine => hRes hOp hMine⟩
    | false => exact ⟨hMarked, (marked_aside l).units, (marked_aside l).mem, rfl, fun h => absurd h (by decide)⟩
  · have hDue : Due s.bump c q := by
      obtain ⟨-, hPick⟩ := List.mem_filter.mp hq
      have hBoth : q.1.kind = 4 ∧ (s.prf.work.toNat, q.2) ∉ s.prf.verified := by simpa using hPick
      exact hBoth
    obtain ⟨l, i, hGo⟩ := verifyGo_stops (c := c) c.man.zipIdx (List.nodup_zipIdx_map_snd _) s.bump
      ⟨q, (List.mem_filter.mp hq).1, hDue, by
        rw [Matches, manBytes_bump hKeyed]
        exact hNot⟩
    obtain ⟨hAside, hNone, hLast, hRes⟩ := prfFail_kept (s := marked s.bump l) { code := 0x0A09, addr := i }
    have hKept := (marked_aside l).trans hAside
    exact ⟨_, exec_mismatch hChg hGo, hNone, hLast, hRes, hKept.units, hKept.mem⟩
  · exact ⟨fun _ hFound => refused_gives hChg hFound, fun hFound => admitted_gives hChg hFound⟩

end Sys2Proof.Machine.Admissions

/-! PROOF. Changes under way (12 R415, R418, R419, R421; 03 R79, R102). -/

namespace Sys2Proof.Machine.Changes

open Laws Lrate ProfileCommands Admissions Faults FailedSteps EgressRings
open Sessions (Aside)

variable {s t u : State} {w : StepEnd}

/-! ### Steps that end as aborts do (10 R333, 12 R418) -/

/-- A job's step is marked as stopped, or is over and its number among the failed ones. -/
def Halted (y : JobRun) (x : StepRun) (failed : List W64) (w : StepEnd) : Prop :=
  (∃ z, y.step = some z ∧ z.no = x.no ∧ z.stop = w ∧ y.failed = failed) ∨ (y.step = none ∧ y.failed = failed ++ [x.no])

/-- A step in flight of a job is halted. -/
def Halts (s t : State) (j : Nat) (w : StepEnd) : Prop :=
  ∀ x, (s.jobRun j).step = some x → x.stop = .none → Halted (t.jobRun j) x (s.jobRun j).failed w

theorem Halts.stops {j : Nat} (h : Halts s t j w) : StepStops s t j w := by
  intro x hx hRun
  rcases h x hx hRun with ⟨z, hz, hNo, hStop, -⟩ | hOver
  · exact .inl ⟨z, hz, hNo, hStop⟩
  · exact .inr hOver

theorem jobRun_stop_ne {j k : Nat} (h : k ≠ j) (w : StepEnd) : ((s.stopStep j w).endStopped j).jobRun k = s.jobRun k := by
  have hStop : (s.stopStep j w).jobRun k = s.jobRun k := modJob_ne s h _
  rcases endStopped_cases (s.stopStep j w) j with hEnd | ⟨x, t, -, -, hJobs, -, hEnd⟩
  · rw [hEnd]
    exact hStop
  · rw [hEnd, modJob_ne t h, jobRun_congr hJobs]
    exact hStop

/-- A step marked as stopped stays so, or is over. -/
theorem endStopped_halted {j : Nat} {x z : StepRun} (hz : (s.jobRun j).step = some z) (hNo : z.no = x.no) (hStop : z.stop = w) :
    Halted ((s.endStopped j).jobRun j) x (s.jobRun j).failed w := by
  rcases endStopped_cases s j with hEnd | ⟨y, t, hy, -, hJobs, -, hEnd⟩
  · rw [hEnd]
    exact .inl ⟨z, hz, hNo, hStop, rfl⟩
  · rw [hz] at hy
    obtain rfl := Option.some.inj hy
    rw [hEnd, modJob_same, jobRun_congr hJobs, hNo]
    exact .inr ⟨rfl, rfl⟩

theorem stop_halts (j : Nat) (w : StepEnd) : Halts s ((s.stopStep j w).endStopped j) j w := by
  intro x hx hRun
  have hMarked : ((s.stopStep j w).jobRun j).step = some { x with stop := w } := by
    rw [State.stopStep, State.modStep, modJob_same, hx, Option.map_some, if_pos hRun]
  have hFailed : ((s.stopStep j w).jobRun j).failed = (s.jobRun j).failed := by
    rw [State.stopStep, State.modStep, modJob_same]
  rw [← hFailed]
  exact endStopped_halted hMarked rfl rfl

/-- A halted step stays halted when another job, or the same one, is told to stop. -/
theorem Halts.again {j : Nat} (h : Halts s t j w) (hw : w ≠ .none) (k : Nat) : Halts s ((t.stopStep k w).endStopped k) j w := by
  intro x hx hRun
  by_cases hSame : j = k
  · subst hSame
    rcases h x hx hRun with ⟨z, hz, hNo, hStop, hFailed⟩ | ⟨hOver, hFailed⟩
    · have hMarked : (t.stopStep j w).jobRun j = t.jobRun j := by
        rw [State.stopStep, State.modStep, modJob_same, hz, Option.map_some, if_neg (by rw [hStop]; exact hw), ← hz]
      have hHalted := endStopped_halted (s := t.stopStep j w) (x := x) (by rw [hMarked]; exact hz) hNo hStop
      rwa [hMarked, hFailed] at hHalted
    · have hMarked : (t.stopStep j w).jobRun j = t.jobRun j := by
        rw [State.stopStep, State.modStep, modJob_same, hOver, Option.map_none, ← hOver]
      rcases endStopped_cases (t.stopStep j w) j with hEnd | ⟨z, v, hz, -⟩
      · rw [hEnd, hMarked]
        exact .inr ⟨hOver, hFailed⟩
      · rw [hMarked, hOver] at hz
        exact absurd hz (by simp)
  · rw [jobRun_stop_ne hSame]
    exact h x hx hRun

/-- Every job of a list is told to stop. -/
def stopAll (w : StepEnd) (l : List Nat) (s : State) : State := l.foldl (fun (s : State) j => (s.stopStep j w).endStopped j) s

theorem Halts.stopAll {j : Nat} (hw : w ≠ .none) (l : List Nat) : ∀ t, Halts s t j w → Halts s (stopAll w l t) j w := by
  induction l with
  | nil => exact fun _ h => h
  | cons k l ih => exact fun t h => ih _ (h.again hw k)

theorem halts_congr {j : Nat} (h : s.jobRun j = t.jobRun j) (k : Halts t u j w) : Halts s u j w := by
  unfold Halts at k ⊢
  rw [h]
  exact k

theorem stopAll_halts (hw : w ≠ .none) (l : List Nat) : ∀ s : State, ∀ j ∈ l, Halts s (stopAll w l s) j w := by
  induction l with
  | nil => exact fun _ _ h => absurd h List.not_mem_nil
  | cons k l ih =>
    intro s j hj
    by_cases hSame : j = k
    · subst hSame
      exact Halts.stopAll hw l _ (stop_halts j w)
    · have hIn : j ∈ l := (List.mem_cons.mp hj).resolve_left hSame
      exact halts_congr (jobRun_stop_ne hSame w).symm (ih _ j hIn)

theorem slook_mem {α : Type} {d : α} {k : Nat} : ∀ m : List (Nat × α), slook d m k ≠ d → (k, slook d m k) ∈ m := by
  intro m
  induction m with
  | nil => exact fun h => absurd rfl h
  | cons e m ih =>
    obtain ⟨i, v⟩ := e
    intro h
    simp only [slook] at h ⊢
    by_cases hBefore : k < i
    · rw [if_pos hBefore] at h
      exact absurd rfl h
    · rw [if_neg hBefore] at h ⊢
      by_cases hSame : i = k
      · rw [if_pos hSame, hSame]
        exact List.mem_cons_self
      · rw [if_neg hSame] at h ⊢
        exact List.mem_cons_of_mem _ (ih h)

theorem mem_inFlight {j : Nat} {x : StepRun} (h : (s.jobRun j).step = some x) : j ∈ s.inFlight := by
  have hNot : s.jobRun j ≠ {} := fun hNone => by
    rw [hNone] at h
    exact absurd h (by simp)
  have hIn := slook_mem s.lkp.jobs hNot
  refine List.mem_filterMap.mpr ⟨_, hIn, ?_⟩
  have hSome : (slook {} s.lkp.jobs j).step.isSome = true := by
    rw [show (slook {} s.lkp.jobs j).step = some x from h]
    rfl
  exact if_pos hSome

/-- The steps that a test picks are halted. -/
theorem endSteps_halts (hw : w ≠ .none) {pick : State → Nat → Bool} {j : Nat} (h : pick s j = true) : Halts s (s.endSteps pick w) j w := by
  intro x hx
  exact stopAll_halts hw _ s j (List.mem_filter.mpr ⟨mem_inFlight hx, h⟩) x hx

theorem stops_raise {j : Nat} (h : Halts s t j w) (e : Ev) : StepStops s (t.raise e) j w := h.stops

/-! ### CHG_DRAIN_ABORT (12 R418, R419) -/

theorem endSteps_prf (pick : State → Nat → Bool) (w : StepEnd) : (s.endSteps pick w).prf = s.prf ∧ (s.endSteps pick w).time = s.time := by
  have hPrf : (unbooked (s.endSteps pick w)).prf = (unbooked s).prf := by rw [endSteps_unbooked]
  have hTime : (unbooked (s.endSteps pick w)).time = (unbooked s).time := by rw [endSteps_unbooked]
  exact ⟨hPrf, hTime⟩

theorem abortPolder_gives {k : Nat} (hChg : s.prf.chg = .draining k true ∨ s.prf.chg = .staging k true)
    (hDrained : s.polderDrained k = false) : Gives .chgDrainAbort s fun t =>
      t.prf.chg = s.prf.chg ∧ LastEvent t 0x0A07 ∧ t.time = s.time ∧ ∀ j, s.onPolder k j = true → StepStops s t j .aborted := by
  have hExec : exec .chgDrainAbort s = .next (s.abortPolder k) := by
    change execChgDrainAbort s = _
    rcases hChg with hChg | hChg
    · rw [execChgDrainAbort, hChg]
    · rw [execChgDrainAbort, hChg]
  rw [State.abortPolder, hDrained, if_neg (by decide)] at hExec
  obtain ⟨hPrf, hTime⟩ := endSteps_prf (s := s) (fun s j => s.onPolder k j) .aborted
  exact ⟨_, hExec, congrArg (·.chg) hPrf, raised_lastEvent (raise_raised _ _), hTime,
    fun j hj => stops_raise (endSteps_halts (by simp) hj) _⟩

theorem abortDevice_gives (hChg : s.prf.chg = .fullDrain) (hDrained : s.allDrained = false) : Gives .chgDrainAbort s fun t =>
    t.prf.chg = .fullDrain ∧ t.prf.limit = true ∧ LastEvent t 0x0A07 ∧ t.time = s.time ∧ ∀ j, StepStops s t j .aborted := by
  have hExec : exec .chgDrainAbort s = .next s.abortDevice := by
    change execChgDrainAbort s = _
    rw [execChgDrainAbort, hChg]
  rw [State.abortDevice, hDrained, if_neg (by decide)] at hExec
  obtain ⟨hPrf, hTime⟩ := endSteps_prf (s := s) (fun _ _ => true) .aborted
  have hLast := raised_lastEvent (raise_raised (s.endSteps (fun _ _ => true) .aborted) { code := 0x0A07, kind := s.cmdKind, addr := 0xFFFF })
  exact ⟨_, hExec, (congrArg (·.chg) hPrf).trans hChg, rfl, hLast, hTime,
    fun j => stops_raise (endSteps_halts (by simp) rfl) { code := 0x0A07, kind := s.cmdKind, addr := 0xFFFF }⟩

/-! ### POLDER_RESUME_DONE (12 R421) -/

/-- One reach of the polder takes what its tests found. -/
def resumed (lanes : Vector (BitVec 256) 4) (ok : BitVec 4) (s : State) (n : Fin 16) : State :=
  let t := s.resumeLanes n ((lanes[n.val % 4]?).getD 0)
  { t with dev := { t.dev with
      reachOk := if ok.getLsbD (n.val % 4) then t.dev.reachOk ||| BitVec.ofNat 16 (2 ^ n.val)
        else t.dev.reachOk &&& ~~~BitVec.ofNat 16 (2 ^ n.val) } }

/-- The units, the schedule, the device's registers and the change are as they were. -/
def Beneath (s t : State) : Prop :=
  t.reach = s.reach ∧ t.nmu = s.nmu ∧ t.lkp = s.lkp ∧ t.dev = s.dev ∧ t.prf.chg = s.prf.chg

theorem Beneath.refl : Beneath s s := ⟨rfl, rfl, rfl, rfl, rfl⟩

theorem Beneath.trans (h : Beneath s t) (k : Beneath t u) : Beneath s u := by
  obtain ⟨hReach, hNmu, hLkp, hDev, hChg⟩ := h
  obtain ⟨kReach, kNmu, kLkp, kDev, kChg⟩ := k
  exact ⟨kReach.trans hReach, kNmu.trans hNmu, kLkp.trans hLkp, kDev.trans hDev, kChg.trans hChg⟩

theorem Beneath.foldl {α : Type} {f : State → α → State} (h : ∀ t x, Beneath t (f t x)) (l : List α) : ∀ s : State, Beneath s (l.foldl f s) := by
  induction l with
  | nil => exact fun _ => .refl
  | cons x l ih => exact fun s => (h s x).trans (ih _)

theorem bypassLanes_beneath (n : Fin 16) (bad : BitVec 256) :
    Beneath (s.modReach n fun x => { x with bypass := s.reach[n].bypass ||| bad }) (s.bypassLanes n bad) := by
  unfold State.bypassLanes
  refine Beneath.foldl (fun t i => ?_) _ _
  split
  · exact .refl
  · exact ⟨rfl, rfl, rfl, rfl, rfl⟩

/-- RAS_LANE_BYPASS for each lane of a mask. -/
def laneEvents (n : Fin 16) (new : BitVec 256) (s : State) : State := (List.range 256).foldl (fun (s : State) l =>
  if new.getLsbD l then s.raise { code := 0x0808, kind := 1, part := n, addr := l } else s) s

theorem laneEvents_beneath (n : Fin 16) (new : BitVec 256) : Beneath s (laneEvents n new s) := by
  refine Beneath.foldl (fun t l => ?_) _ _
  split
  · exact ⟨rfl, rfl, rfl, rfl, rfl⟩
  · exact .refl

/-- The weight stores of a reach after lanes of it went into the bypass. -/
def storesOut (x : Reach) : Reach :=
  if x.dups.isEmpty then { x with ws := Vector.replicate 2 {}, fill := none } else { x with lateClear := true }

theorem storesOut_bypass (x : Reach) : (storesOut x).bypass = x.bypass := by
  unfold storesOut
  split
  · rfl
  · rfl

/-- What a resumed reach makes of the state. -/
structure Resumes (lanes : Vector (BitVec 256) 4) (ok : BitVec 4) (n : Fin 16) (s t : State) : Prop where
  others : ∀ m : Fin 16, m ≠ n → t.reach[m] = s.reach[m] ∧ t.dev.reachOk.getLsbD m = s.dev.reachOk.getLsbD m
  bypass : t.reach[n].bypass = s.reach[n].bypass ||| lanes[n.val % 4]
  test   : t.dev.reachOk.getLsbD n = ok.getLsbD (n.val % 4)
  stores : lanes[n.val % 4] &&& ~~~s.reach[n].bypass ≠ 0 → s.reach[n].dups = [] →
    t.reach[n].ws = Vector.replicate 2 {} ∧ t.reach[n].fill = none
  nmu    : t.nmu = s.nmu
  lkp    : t.lkp = s.lkp
  chg    : t.prf.chg = s.prf.chg

theorem resumeLanes_none {n : Fin 16} {bad : BitVec 256} (h : bad &&& ~~~s.reach[n].bypass = 0) : s.resumeLanes n bad = s := if_pos h

theorem resumeLanes_some {n : Fin 16} {bad : BitVec 256} (h : bad &&& ~~~s.reach[n].bypass ≠ 0) : s.resumeLanes n bad =
    ((laneEvents n (bad &&& ~~~s.reach[n].bypass) s).bypassLanes n bad).modReach n storesOut := if_neg h

/-- Lanes in the bypass already add nothing to it. -/
theorem bypass_or {a b : BitVec 256} (h : b &&& ~~~a = 0) : a ||| b = a := by
  ext i hi
  have hBit := congrArg (·[i]) h
  simp at hBit ⊢
  exact hBit

theorem bit_set (x : BitVec 16) (n m : Fin 16) (b : Bool) :
    (if b then x ||| BitVec.ofNat 16 (2 ^ n.val) else x &&& ~~~BitVec.ofNat 16 (2 ^ n.val)).getLsbD m =
      if m = n then b else x.getLsbD m := by
  have hBit : (BitVec.ofNat 16 (2 ^ n.val)).getLsbD m = decide (m = n) := by
    revert n m
    decide
  have hm := m.isLt
  cases b with
  | true =>
    rw [if_pos rfl, BitVec.getLsbD_or, hBit]
    by_cases h : m = n
    · rw [decide_eq_true h, if_pos h, Bool.or_true]
    · rw [decide_eq_false h, if_neg h, Bool.or_false]
  | false =>
    rw [if_neg (by decide), BitVec.getLsbD_and, BitVec.getLsbD_not, hBit, decide_eq_true hm, Bool.true_and]
    by_cases h : m = n
    · rw [decide_eq_true h, if_pos h, Bool.not_true, Bool.and_false]
    · rw [decide_eq_false h, if_neg h, Bool.not_false, Bool.and_true]

/-- The reach itself, after its tests. -/
theorem resumeLanes_resumes (n : Fin 16) (bad : BitVec 256) :
    (∀ m : Fin 16, m ≠ n → (s.resumeLanes n bad).reach[m] = s.reach[m]) ∧
    (s.resumeLanes n bad).reach[n].bypass = s.reach[n].bypass ||| bad ∧
    (bad &&& ~~~s.reach[n].bypass ≠ 0 → s.reach[n].dups = [] →
      (s.resumeLanes n bad).reach[n].ws = Vector.replicate 2 {} ∧ (s.resumeLanes n bad).reach[n].fill = none) ∧
    (s.resumeLanes n bad).nmu = s.nmu ∧ (s.resumeLanes n bad).lkp = s.lkp ∧ (s.resumeLanes n bad).dev = s.dev ∧
    (s.resumeLanes n bad).prf.chg = s.prf.chg := by
  by_cases h : bad &&& ~~~s.reach[n].bypass = 0
  · rw [resumeLanes_none h]
    exact ⟨fun _ _ => rfl, (bypass_or h).symm, fun hNot => absurd h hNot, rfl, rfl, rfl, rfl⟩
  · obtain ⟨hReach, hNmu, hLkp, hDev, hChg⟩ := laneEvents_beneath (s := s) n (bad &&& ~~~s.reach[n].bypass)
    rw [resumeLanes_some h]
    generalize laneEvents n (bad &&& ~~~s.reach[n].bypass) s = e at hReach hNmu hLkp hDev hChg
    obtain ⟨kReach, kNmu, kLkp, kDev, kChg⟩ := bypassLanes_beneath (s := e) n bad
    have hSame : (e.bypassLanes n bad).reach[n] = { s.reach[n] with bypass := s.reach[n].bypass ||| bad } := by
      rw [kReach, modReach_same, hReach]
    refine ⟨fun m hm => ?_, ?_, fun _ hDups => ?_, kNmu.trans hNmu, kLkp.trans hLkp, kDev.trans hDev, kChg.trans hChg⟩
    · rw [modReach_ne _ hm, kReach, modReach_ne _ hm, hReach]
    · rw [modReach_same, storesOut_bypass, hSame]
    · have hOut : storesOut { s.reach[n] with bypass := s.reach[n].bypass ||| bad } =
          { s.reach[n] with bypass := s.reach[n].bypass ||| bad, ws := Vector.replicate 2 {}, fill := none } :=
        if_pos (List.isEmpty_iff.mpr hDups)
      rw [modReach_same, hSame, hOut]
      exact ⟨rfl, rfl⟩

theorem resumed_resumes (lanes : Vector (BitVec 256) 4) (ok : BitVec 4) (n : Fin 16) : Resumes lanes ok n s (resumed lanes ok s n) := by
  have hLanes : (lanes[n.val % 4]?).getD 0 = lanes[n.val % 4] := by
    rw [Vector.getElem?_eq_getElem (by omega), Option.getD_some]
  obtain ⟨hOthers, hBypass, hStores, hNmu, hLkp, hDev, hChg⟩ := resumeLanes_resumes (s := s) n lanes[n.val % 4]
  unfold resumed
  rw [hLanes]
  refine ⟨fun m hm => ⟨hOthers m hm, ?_⟩, hBypass, ?_, hStores, hNmu, hLkp, hChg⟩
  · exact (bit_set _ n m _).trans (by rw [if_neg hm, hDev])
  · exact (bit_set _ n n _).trans (if_pos rfl)

/-- Every reach of a list takes what its tests found, each once. -/
theorem resumedAll_resumes (lanes : Vector (BitVec 256) 4) (ok : BitVec 4) (l : List (Fin 16)) : l.Nodup → ∀ s : State,
    (∀ n ∈ l, (l.foldl (resumed lanes ok) s).reach[n].bypass = s.reach[n].bypass ||| lanes[n.val % 4] ∧
      (l.foldl (resumed lanes ok) s).dev.reachOk.getLsbD n = ok.getLsbD (n.val % 4) ∧
      (lanes[n.val % 4] &&& ~~~s.reach[n].bypass ≠ 0 → s.reach[n].dups = [] →
        (l.foldl (resumed lanes ok) s).reach[n].ws = Vector.replicate 2 {} ∧ (l.foldl (resumed lanes ok) s).reach[n].fill = none)) ∧
    (∀ n ∉ l, (l.foldl (resumed lanes ok) s).reach[n] = s.reach[n] ∧
      (l.foldl (resumed lanes ok) s).dev.reachOk.getLsbD n = s.dev.reachOk.getLsbD n) ∧
    (l.foldl (resumed lanes ok) s).nmu = s.nmu ∧ (l.foldl (resumed lanes ok) s).lkp = s.lkp ∧
    (l.foldl (resumed lanes ok) s).prf.chg = s.prf.chg := by
  induction l with
  | nil => exact fun _ s => ⟨fun _ h => absurd h List.not_mem_nil, fun _ _ => ⟨rfl, rfl⟩, rfl, rfl, rfl⟩
  | cons n l ih =>
    intro hNodup s
    obtain ⟨hNew, hNodup⟩ := List.nodup_cons.mp hNodup
    obtain ⟨hIn, hOut, hNmu, hLkp, hChg⟩ := ih hNodup (resumed lanes ok s n)
    obtain ⟨hOthers, hBypass, hTest, hStores, kNmu, kLkp, kChg⟩ := resumed_resumes (s := s) lanes ok n
    refine ⟨List.forall_mem_cons.mpr ⟨?_, fun m hm => ?_⟩, fun m hm => ?_, hNmu.trans kNmu, hLkp.trans kLkp, hChg.trans kChg⟩
    · obtain ⟨hReach, hBit⟩ := hOut n hNew
      rw [List.foldl_cons, hReach, hBit]
      exact ⟨hBypass, hTest, hStores⟩
    · have hNe : m ≠ n := fun h => hNew (h ▸ hm)
      have hDone := hIn m hm
      rw [(hOthers m hNe).1] at hDone
      exact hDone
    · have hNe : m ≠ n := fun h => hm (h ▸ List.mem_cons_self)
      obtain ⟨hReach, hBit⟩ := hOut m fun h => hm (List.mem_cons_of_mem _ h)
      obtain ⟨kReach, kBit⟩ := hOthers m hNe
      exact ⟨hReach.trans kReach, hBit.trans kBit⟩

/-- The state in which the active table is admitted again. -/
def tested (s : State) (lanes : Vector (BitVec 256) 4) (ok : BitVec 4) (k : Nat) : State :=
  ((polderOf k).foldl (resumed lanes ok) s).refreshUsable

/-- Its admission, with the polder in it. -/
def readmitted (s : State) (k : Nat) : State := s.bump.admResult (s.cand s.activeSlot) (s.admitWhole (s.cand s.activeSlot) (some k))

theorem exec_resumeDone {k : Nat} (hChg : s.prf.chg = .resuming k) (lanes : Vector (BitVec 256) 4) (ok : BitVec 4) :
    exec (.polderResumeDone lanes ok) s = .next (
      match (tested s lanes ok k).admitWhole ((tested s lanes ok k).cand (tested s lanes ok k).activeSlot) (some k) with
      | some r => (readmitted (tested s lanes ok k) k).prfFail { code := 0x0A0D, addr := k, d0 := r.code }
      | none => (withChg (readmitted (tested s lanes ok k) k) (.returning k)).unlessForced fun s => s.changeAtCycle 0) := by
  change execPolderResumeDone lanes ok s = _
  rw [execPolderResumeDone, hChg]
  rfl

theorem chgClear_dev : s.chgClear.dev = s.dev := by
  obtain ⟨w, k, h⟩ := chgClear_cleared s
  rw [h]
  rfl

theorem prfResult_dev (st code : Nat) : (s.prfResult st code).dev = s.dev := by
  unfold State.prfResult
  split
  · rfl
  · rfl

theorem prfFail_dev (e : Ev) : (s.prfFail e).dev = s.dev := by
  rw [State.prfFail, chgClear_dev, prfResult_dev]
  rfl

theorem prfDone_dev : s.prfDone.dev = s.dev := by
  rw [State.prfDone, chgClear_dev, prfResult_dev]

/-- After the admission the polder is held as before or returns, and no reach, NMU or test result has changed. -/
theorem readmission_kept {k : Nat} {r : Option Refuse} {t : State}
    (ht : t = match r with
      | some r => s.prfFail { code := 0x0A0D, addr := k, d0 := r.code }
      | none => (withChg s (.returning k)).unlessForced fun s => s.changeAtCycle 0) :
    (t.prf.chg = .none ∨ t.prf.chg = .returning k) ∧ t.reach = s.reach ∧ t.nmu = s.nmu ∧ t.lkp = s.lkp ∧ t.dev = s.dev := by
  cases r with
  | some r =>
    obtain ⟨⟨⟨hReach, hNmu, -, hLkp, -⟩, -, -⟩, hNone, -⟩ := prfFail_kept (s := s) { code := 0x0A0D, addr := k, d0 := r.code }
    rw [ht]
    exact ⟨.inl hNone, hReach, hNmu, hLkp, prfFail_dev _⟩
  | none =>
    cases hForce : s.lkp.inForce with
    | true =>
      have hKept : (withChg s (.returning k)).lkp.inForce = true := hForce
      rw [ht]
      dsimp only
      rw [unlessForced_inForce hKept]
      exact ⟨.inr rfl, rfl, rfl, rfl, rfl⟩
    | false =>
      have hKept : (withChg s (.returning k)).lkp.inForce = false := hForce
      have hBack : (withChg s (.returning k)).changeAtCycle 0 =
          ({ s with prf := { s.prf with chg := .returning k, held := s.prf.held &&& ~~~(BitVec.ofNat 4 (2 ^ k)) } } : State).prfDone := rfl
      obtain ⟨⟨⟨hReach, hNmu, -, hLkp, -⟩, -, -⟩, hNone, -⟩ := prfDone_kept
        (s := { s with prf := { s.prf with chg := .returning k, held := s.prf.held &&& ~~~(BitVec.ofNat 4 (2 ^ k)) } })
      rw [ht]
      dsimp only
      rw [unlessForced_idle hKept, hBack]
      exact ⟨.inl hNone, hReach, hNmu, hLkp, prfDone_dev⟩

/-! ### The obligation -/

theorem mem_polderOf {k : Nat} {n : Fin 16} : n ∈ polderOf k ↔ n.val / 4 = k := by
  simp [polderOf]

theorem resumeDone_gives {k : Nat} (hChg : s.prf.chg = .resuming k) (lanes : Vector (BitVec 256) 4) (ok : BitVec 4) :
    Gives (.polderResumeDone lanes ok) s fun t =>
      (t.prf.chg = .none ∨ t.prf.chg = .returning k) ∧ t.lkp.admRuns = s.lkp.admRuns + 1 ∧
        (∀ n : Fin 16, n.val / 4 = k → t.reach[n].bypass = s.reach[n].bypass ||| lanes[n.val % 4] ∧
          t.dev.reachOk.getLsbD n = ok.getLsbD (n.val % 4) ∧
          (lanes[n.val % 4] &&& ~~~s.reach[n].bypass ≠ 0 → s.reach[n].dups = [] →
            t.reach[n].ws = Vector.replicate 2 {} ∧ t.reach[n].fill = none)) ∧
        (∀ n : Fin 16, n.val / 4 ≠ k → t.reach[n].bypass = s.reach[n].bypass) ∧ t.nmu = s.nmu := by
  obtain ⟨hIn, hOut, hNmu, hLkp, -⟩ := resumedAll_resumes lanes ok (polderOf k) ((List.nodup_finRange 16).filter _) s
  obtain ⟨kChg, kReach, kNmu, kLkp, kDev⟩ := readmission_kept (s := readmitted (tested s lanes ok k) k) (k := k) rfl
  have hReach := kReach.trans (show (readmitted (tested s lanes ok k) k).reach = ((polderOf k).foldl (resumed lanes ok) s).reach from rfl)
  have hOk : (readmitted (tested s lanes ok k) k).dev.reachOk = ((polderOf k).foldl (resumed lanes ok) s).dev.reachOk := rfl
  have hRuns : (readmitted (tested s lanes ok k) k).lkp.admRuns = ((polderOf k).foldl (resumed lanes ok) s).lkp.admRuns + 1 := rfl
  refine ⟨_, exec_resumeDone hChg lanes ok, kChg, ?_, fun n hn => ?_, fun n hn => ?_, kNmu.trans hNmu⟩
  · rw [kLkp, hRuns, hLkp]
  · rw [hReach, kDev, hOk]
    exact hIn n (mem_polderOf.mpr hn)
  · rw [hReach, (hOut n (mt mem_polderOf.mp hn)).1]

/-- POLDER_DRAINED answers the lock point at which the polder passes (12 R415). -/
theorem exec_polderDrained {k l : Nat} {b : Bool} (hChg : s.prf.chg = .draining k b ∨ s.prf.chg = .staging k b) (hLock : s.lockAt = some l)
    (hl : l < 2 ^ 64) : exec .polderDrained s = .next (
      if (s.lockPointAt l).prf.switched.getLsbD k ≠ s.prf.switched.getLsbD k || (s.lockPointAt l).prf.held ≠ s.prf.held ||
        ((s.lockPointAt l).prf.chg == .none && (s.lockPointAt l).dev.profile ≠ s.dev.profile) then s.lockPointAt l else s) := by
  change execPolderDrained s = _
  unfold execPolderDrained
  rcases hChg with hChg | hChg
  · rw [hChg, hLock]
    exact congrArg Host.Outcome.next (if_neg (Nat.not_le.mpr hl))
  · rw [hChg, hLock]
    exact congrArg Host.Outcome.next (if_neg (Nat.not_le.mpr hl))

/-- With no lock point to come, a drained polder is held at once (10 R624). -/
theorem exec_polderDrained_idle {k : Nat} {b : Bool} (hChg : s.prf.chg = .draining k b) (hLock : s.lockAt = none) :
    exec .polderDrained s = .next (if s.polderDrained k then s.changeAtCycle 0 else s) := by
  change execPolderDrained s = _
  unfold execPolderDrained
  rw [hChg, hLock]

theorem prfDone_held : s.prfDone.prf.held = s.prf.held := by
  obtain ⟨w, k, h⟩ := chgClear_cleared (s.prfResult 2 0)
  rw [State.prfDone, h, cleared, State.prfResult]
  split
  · rfl
  · rfl

/-- A drained polder is held behind its dike, whoever asked for it. -/
theorem holdPolder_kept {k : Nat} (hk : k < 4) : (s.holdPolder k).prf.chg = .none ∧ (s.holdPolder k).prf.held.getLsbD k = true ∧
    UnitsKept s (s.holdPolder k) ∧ MemoryKept s (s.holdPolder k) := by
  obtain ⟨hAside, -⟩ := suspendJobs_kept (s := s) ((List.range s.lkp.sched.jobs.length).filter fun j => s.onPolder k j && !s.suspended j)
  rw [State.holdPolder]
  generalize s.suspendJobs _ = t at hAside
  have hHeld : Aside t { t with prf := { t.prf with held := t.prf.held ||| BitVec.ofNat 4 (2 ^ k) } } :=
    ⟨⟨rfl, rfl, rfl, rfl, rfl⟩, ⟨rfl, rfl, rfl⟩, rfl⟩
  obtain ⟨kAside, hNone, -⟩ := prfDone_kept (s := { t with prf := { t.prf with held := t.prf.held ||| BitVec.ofNat 4 (2 ^ k) } })
  have hKept := (hAside.trans hHeld).trans kAside
  refine ⟨hNone, ?_, hKept.units, hKept.mem⟩
  rw [prfDone_held]
  exact heldBit _ hk

/-- Settles O41: a lock point is answered where it passes the polder or the device; aborts halt the steps in the way; a resumed polder
takes what its tests found, reach by reach. -/
theorem changesUnderWay : Obligations.ChangesUnderWay := by
  unfold Obligations.ChangesUnderWay
  intro s
  refine ⟨fun k b l hChg hLock hl => ⟨fun hPass => ?_, fun hSwitched hHeld hProfile => ?_⟩, fun k b hChg hLock => ⟨fun hNot => ?_,
    fun hDrained hk => ?_⟩, fun l hChg hLock hl => ?_, fun k hChg hNot => abortPolder_gives hChg hNot,
    fun hChg hNot => abortDevice_gives hChg hNot, fun k lanes ok hChg => resumeDone_gives hChg lanes ok⟩
  · rw [exec_polderDrained hChg hLock hl, if_pos]
    rcases hPass with h | h
    · simp [h]
    · simp [h]
  · rw [exec_polderDrained hChg hLock hl, if_neg (by simp [hSwitched, hHeld, hProfile])]
  · rw [exec_polderDrained_idle hChg hLock, hNot, if_neg (by decide)]
  · have hExec := exec_polderDrained_idle hChg hLock
    rw [hDrained, if_pos rfl, State.changeAtCycle, hChg] at hExec
    exact ⟨_, hExec.trans (congrArg Host.Outcome.next (if_pos hDrained)), holdPolder_kept hk⟩
  · change execFullDrainSwitch s = _
    rw [execFullDrainSwitch, hLock]
    refine congrArg Host.Outcome.next ((if_neg ?_).trans ?_)
    · simpa [hChg] using hl
    · rw [hChg, ite_not]

end Sys2Proof.Machine.Changes

/-! PROOF. The host link, its vectors and its errors (12 R412; 13 R428, R436 to R439; 18 R602). -/

namespace Sys2Proof.Machine.HostLink

open Laws EgressRings
open Sessions (Aside freeSems_kept)

variable {s t u : State}

/-! ### Vectors (13 R436) -/

/-- Messages may have been sent and vectors that are masked become pending; of the rest only the lockkeeper's state has changed. -/
structure Signals (s t : State) : Prop where
  pci   : ∃ l, t.pci = { s.pci with pend := l } ∧
    ∀ v, v ∉ s.pci.pend → v ∈ s.pci.unmasked → s.pci.fmask = false → v ∉ l
  out   : ∀ o ∈ s.out, o ∈ t.out
  units : t.reach = s.reach ∧ t.nmu = s.nmu ∧ t.mdie = s.mdie ∧ t.ctx = s.ctx
  mem   : MemoryKept s t

theorem Signals.refl : Signals s s := ⟨⟨s.pci.pend, rfl, fun _ h _ _ => h⟩, fun _ h => h, ⟨rfl, rfl, rfl, rfl⟩, rfl, rfl, rfl⟩

theorem Signals.trans (h : Signals s t) (k : Signals t u) : Signals s u := by
  obtain ⟨⟨l, hPci, hPend⟩, hOut, ⟨hReach, hNmu, hMdie, hCtx⟩, hMem⟩ := h
  obtain ⟨⟨m, kPci, kPend⟩, kOut, ⟨kReach, kNmu, kMdie, kCtx⟩, kMem⟩ := k
  rw [hPci] at kPci kPend
  exact ⟨⟨m, kPci, fun v hv hu hf => kPend v (hPend v hv hu hf) hu hf⟩, fun o ho => kOut o (hOut o ho),
    ⟨kReach.trans hReach, kNmu.trans hNmu, kMdie.trans hMdie, kCtx.trans hCtx⟩, NmuAccess.memoryKept_trans hMem kMem⟩

theorem Signals.foldl {α : Type} {f : State → α → State} (h : ∀ t x, Signals t (f t x)) (l : List α) : ∀ s : State, Signals s (l.foldl f s) := by
  induction l with
  | nil => exact fun _ => .refl
  | cons x l ih => exact fun s => (h s x).trans (ih _)

theorem send_signals (o : Out) : Signals s (s.send o) :=
  ⟨⟨s.pci.pend, rfl, fun _ h _ _ => h⟩, fun _ h => List.mem_append_left _ h, ⟨rfl, rfl, rfl, rfl⟩, rfl, rfl, rfl⟩

theorem lkp_signals (l : Lkp) : Signals s { s with lkp := l } :=
  ⟨⟨s.pci.pend, rfl, fun _ h _ _ => h⟩, fun _ h => h, ⟨rfl, rfl, rfl, rfl⟩, rfl, rfl, rfl⟩

theorem msix_signals (v : Nat) : Signals s (s.msix v) := by
  unfold State.msix
  split
  · exact .refl
  · split
    · next hMasked =>
      refine ⟨⟨_, rfl, fun k hk hOpen hMask hIn => ?_⟩, fun _ h => h, ⟨rfl, rfl, rfl, rfl⟩, rfl, rfl, rfl⟩
      rcases (mem_setIns v s.pci.pend k).mp hIn with rfl | hOld
      · simp [hMask, hOpen] at hMasked
      · exact hk hOld
    · split
      · exact send_signals _
      · exact .refl

theorem dueVector_signals (e j : Nat) : Signals s (s.dueVector e j) := by
  unfold State.dueVector
  extract_lets g
  split
  · unfold State.dueVec
    split
    · exact msix_signals _
    · exact lkp_signals _
  · exact .refl

theorem modEgr_signals (e : Nat) (f : EgrRing → EgrRing) : Signals s (s.modEgr e f) := lkp_signals _

theorem writeRecord_signals (r : ComplRec) : Signals s (s.writeRecord r) := by
  unfold State.writeRecord
  exact (send_signals _).trans (modEgr_signals _ _)

theorem drainHeld_signals (e : Nat) (fuel : Nat) : ∀ s : State, Signals s (s.drainHeld e fuel) := by
  induction fuel with
  | zero => exact fun _ => .refl
  | succ fuel ih =>
    intro s
    rw [State.drainHeld]
    cases s.lkp.held.find? fun h => h.egr == e with
    | none => exact .refl
    | some r =>
      dsimp only
      split
      · exact (((lkp_signals _).trans (writeRecord_signals r)).trans (dueVector_signals e 0xFFFF)).trans (ih _)
      · exact .refl

/-- A ring whose base or size changes is emptied. -/
def emptied (s : State) (e : Nat) : State :=
  if (s.egrRing e).newBase.getD (s.egrRing e).base ≠ (s.egrRing e).base ∨
      ((s.egrRing e).newCfg.getD ((s.egrRing e).enable, (s.egrRing e).vector, (s.egrRing e).size)).2.2 ≠ (s.egrRing e).size then
    { s.modEgr e fun g => { g with tail := 0, head := 0 } with
      lkp := { (s.modEgr e fun g => { g with tail := 0, head := 0 }).lkp with
        held := (s.modEgr e fun g => { g with tail := 0, head := 0 }).lkp.held.filter fun r => r.egr != e } }
  else s

theorem emptied_signals (e : Nat) : Signals s (emptied s e) := by
  unfold emptied
  split
  · exact (modEgr_signals e _).trans (lkp_signals _)
  · exact .refl

theorem applyEgr_signals (e : Nat) : Signals s (s.applyEgr e) := by
  have hEq : ∃ f, s.applyEgr e = if (s.egrRing e).newBase.isNone && (s.egrRing e).newCfg.isNone then s.drainHeld e s.lkp.held.length
      else ((emptied s e).modEgr e f).drainHeld e ((emptied s e).modEgr e f).lkp.held.length := ⟨_, rfl⟩
  obtain ⟨f, hEq⟩ := hEq
  rw [hEq]
  split
  · exact drainHeld_signals _ _ _
  · exact ((emptied_signals e).trans (modEgr_signals e f)).trans (drainHeld_signals _ _ _)

theorem applyEgrs_signals : Signals s s.applyEgrs := Signals.foldl (fun _ e => applyEgr_signals e) _ s

/-! ### Pending vectors (13 R436) -/

/-- The state after pending vectors that nothing masks have been sent. -/
def sentOf (s : State) (due : List Nat) : State :=
  { s with
    pci := { s.pci with pend := s.pci.pend.filter fun v => !s.pci.unmasked.contains v }
    out := s.out ++ due.map .msix }

theorem foldl_send (l : List Nat) : ∀ s : State, l.foldl (fun (s : State) v => s.send (.msix v)) s = { s with out := s.out ++ l.map .msix } := by
  induction l with
  | nil => intro s; simp
  | cons v l ih => intro s; rw [List.foldl_cons, ih]; simp [State.send]

theorem sendPending_cases : (s.sendPending = s ∧ (s.pci.msixEn = false ∨ s.pci.up = false ∨ s.pci.fmask = true)) ∨
    s.sendPending = sentOf s (s.pci.pend.filter s.pci.unmasked.contains) := by
  unfold State.sendPending
  split
  · next h =>
    refine .inl ⟨rfl, ?_⟩
    simpa [or_assoc] using h
  · refine .inr ?_
    simp only [foldl_send]
    rfl

theorem sendPending_pci : ∃ l, s.sendPending.pci = { s.pci with pend := l } ∧ l ⊆ s.pci.pend := by
  rcases sendPending_cases (s := s) with ⟨h, -⟩ | h
  · rw [h]
    exact ⟨s.pci.pend, rfl, List.Subset.refl _⟩
  · rw [h]
    exact ⟨_, rfl, fun _ h => (List.mem_filter.mp h).1⟩

theorem sendPending_kept : UnitsKept s s.sendPending ∧ MemoryKept s s.sendPending ∧ s.sendPending.lkp = s.lkp := by
  rcases sendPending_cases (s := s) with ⟨h, -⟩ | h
  · rw [h]
    exact ⟨⟨rfl, rfl, rfl, rfl, rfl⟩, ⟨rfl, rfl, rfl⟩, rfl⟩
  · rw [h]
    exact ⟨⟨rfl, rfl, rfl, rfl, rfl⟩, ⟨rfl, rfl, rfl⟩, rfl⟩

/-- A vector has been sent and is not pending. -/
def Sent (t : State) (v : Nat) : Prop := .msix v ∈ t.out ∧ v ∉ t.pci.pend

theorem sendPending_sends (hEn : s.pci.msixEn = true) (hUp : s.pci.up = true) (hMask : s.pci.fmask = false) {v : Nat}
    (hPend : v ∈ s.pci.pend) (hOpen : v ∈ s.pci.unmasked) : Sent s.sendPending v := by
  rcases sendPending_cases (s := s) with ⟨-, h⟩ | h
  · simp [hEn, hUp, hMask] at h
  · rw [h]
    refine ⟨List.mem_append_right _ (List.mem_map_of_mem (List.mem_filter.mpr ⟨hPend, by simpa using hOpen⟩)), fun hIn => ?_⟩
    obtain ⟨-, hNot⟩ := List.mem_filter.mp hIn
    simp [hOpen] at hNot

theorem Signals.sent {v : Nat} (h : Signals s t) (hSent : Sent s v) (hOpen : v ∈ s.pci.unmasked) (hMask : s.pci.fmask = false) : Sent t v := by
  obtain ⟨⟨l, hPci, hPend⟩, hOut, -⟩ := h
  refine ⟨hOut _ hSent.1, ?_⟩
  rw [hPci]
  exact hPend v hSent.2 hOpen hMask

/-! ### The table of vectors (13 R428, R436) -/

section
variable (hHeld : s.dev.held = false) (hMse : s.pci.mse = true)
include hHeld hMse

theorem exec_tableWrite {o : BitVec 16} (w : W32) : exec (.msixUnmask (.write o (leBytes 4 w.toNat))) s =
    .next ({ s with pci := s.pci.setWord4 (o.toNat / 4) w } : State).sendPending := by
  have hWord : BitVec.ofNat 32 (leNat (((leBytes 4 w.toNat).drop (4 * 0)).take 4)) = w := by
    have hw := w.isLt
    rw [Nat.mul_zero, List.drop_zero, List.take_of_length_le (by rw [length_leBytes]), leNat_leBytes, Nat.mod_eq_of_lt (by omega),
      BitVec.ofNat_toNat, BitVec.setWidth_eq]
  change execMsixUnmask (.write o (leBytes 4 w.toNat)) s = _
  rw [execMsixUnmask, hHeld, if_neg (by decide)]
  simp only [hMse, length_leBytes]
  rw [show List.range (4 / 4) = [0] from rfl, List.foldl_cons, List.foldl_nil, hWord]
  rfl

theorem exec_tableRead (o : BitVec 16) (n : Nat) : exec (.msixUnmask (.read o n)) s = .next (s.send (.pciCompletion 0 false
    ((List.range (n / 4)).flatMap fun k => leBytes 4 (s.pci.word4 (o.toNat / 4 + k)).toNat))) := by
  change execMsixUnmask (.read o n) s = _
  rw [execMsixUnmask, hHeld, if_neg (by decide)]
  simp only [hMse]
  rfl

end

theorem setWord4_mask (c : Pci) (v : BitVec 11) (w : W32) : c.setWord4 ((BitVec.ofNat 16 (16 * v.toNat + 12)).toNat / 4) w =
    { c with unmasked := if w.getLsbD 0 then setDel v.toNat c.unmasked else setIns v.toNat c.unmasked } := by
  have hv := v.isLt
  have hIndex : (BitVec.ofNat 16 (16 * v.toNat + 12)).toNat / 4 = 4 * v.toNat + 3 := by
    rw [BitVec.toNat_ofNat]
    omega
  rw [hIndex, Pci.setWord4, if_neg (by omega), if_pos (by omega), show (4 * v.toNat + 3) / 4 = v.toNat by omega]

theorem setWord4_table (c : Pci) {i : Nat} (hi : i < 8192) (hOther : i % 4 ≠ 3) (w : W32) :
    c.setWord4 i w = { c with table := sput 0 c.table i w } := by
  rw [Pci.setWord4, if_neg (by omega), if_neg hOther]

theorem word4_table {c : Pci} {i : Nat} (hi : i < 8192) (hOther : i % 4 ≠ 3) : c.word4 i = slook 0 c.table i := by
  rw [Pci.word4, if_pos hi, if_neg hOther]

/-! ### The link goes down (13 R437, R438, R448) -/

theorem slook_all {α : Type} {P : α → Prop} {d : α} {m : List (Nat × α)} (hd : P d) (h : ∀ q ∈ m, P q.2) (k : Nat) : P (slook d m k) := by
  by_cases hSame : slook d m k = d
  · rw [hSame]
    exact hd
  · exact h _ (Changes.slook_mem m hSame)

theorem stopRings_disabled (e : Nat) : (s.stopRings.egrRing e).enable = false := by
  refine slook_all (P := fun g : EgrRing => g.enable = false) rfl (fun q hq => ?_) e
  obtain ⟨hMap, -⟩ := List.mem_filter.mp hq
  obtain ⟨g, -, rfl⟩ := List.mem_map.mp hMap
  rfl

/-- What link loss does before the host's semaphores become FREE. -/
def cut (s : State) : State :=
  let t := (({ s with pci := { s.pci with up := false, linkdn := stick32 s.pci.linkdn 1, hbar := s.pci.hbar.map cutBarge } } : State).raise
    { code := 0x0903, kind := 3 }).stopRings
  { t with
    ras := { t.ras with ringEn := false }
    reach := t.reach.map fun (x : Reach) => { x with barges := x.barges.map cutBarge } }

theorem linkDown_eq (h : s.pci.up = true) : s.linkDown = (cut s).freeSems 1 1 := by
  unfold State.linkDown
  rw [h, Bool.not_true, if_neg (by decide)]
  rfl

theorem linkDown_already (h : s.pci.up = false) : s.linkDown = s := by
  unfold State.linkDown
  rw [h, Bool.not_false, if_pos rfl]

theorem freeSem_port (o : BitVec 2) (cause : Nat) (n : Fin 32) : (Semaphores.freeSem o cause s n).pci = s.pci ∧
    (Semaphores.freeSem o cause s n).ras.ringEn = s.ras.ringEn := by
  unfold Semaphores.freeSem
  split
  · exact ⟨rfl, rfl⟩
  · exact ⟨rfl, rfl⟩

theorem freeSems_port (o : BitVec 2) (cause : Nat) : (s.freeSems o cause).pci = s.pci ∧ (s.freeSems o cause).ras.ringEn = s.ras.ringEn := by
  rw [Semaphores.freeSems_eq]
  exact ⟨foldl_keeps (·.pci) _ (fun _ n => (freeSem_port o cause n).1) _ s,
    foldl_keeps (fun t : State => t.ras.ringEn) (Semaphores.freeSem o cause) (fun _ n => (freeSem_port o cause n).2) _ s⟩

/-- A barge of a reach that the link's loss ends has its unit as it is. -/
theorem cut_unit (n : Fin 16) : (cut s).reach[n].u = s.reach[n].u := by
  have hMap : (cut s).reach = s.reach.map fun (x : Reach) => { x with barges := x.barges.map cutBarge } := rfl
  rw [hMap, Fin.getElem_fin, Vector.getElem_map]
  rfl

/-- The link counts as down. -/
def Down (s t : State) : Prop := t.pci.up = false ∧ t.pci.linkdn = stick32 s.pci.linkdn 1 ∧ t.ras.ringEn = false ∧
  (∀ e, (t.egrRing e).enable = false) ∧ (∀ n : Fin 32, t.sem[n].owner = if s.sem[n].owner = 1 then 0 else s.sem[n].owner) ∧
  MemoryKept s t ∧ (∀ n : Fin 16, t.reach[n].u = s.reach[n].u) ∧ t.nmu = s.nmu

theorem linkDown_down (h : s.pci.up = true) : Down s s.linkDown ∧ s.linkDown.pci =
    { s.pci with up := false, linkdn := stick32 s.pci.linkdn 1, hbar := s.pci.hbar.map cutBarge } := by
  obtain ⟨⟨⟨hReach, hNmu, -, hLkp, -⟩, hMem, -⟩, -⟩ := freeSems_kept (s := cut s) 1 1
  obtain ⟨hPci, hRing⟩ := freeSems_port (s := cut s) 1 1
  rw [linkDown_eq h]
  refine ⟨⟨?_, ?_, hRing, fun e => ?_, fun n => freeSems_owner _ _ _ _ (by decide), hMem, fun n => ?_, hNmu⟩, hPci⟩
  · exact congrArg Pci.up hPci
  · exact congrArg Pci.linkdn hPci
  · rw [State.egrRing, hLkp]
    exact stopRings_disabled e
  · rw [hReach]
    exact cut_unit n

/-- A change of the port's configuration alone leaves a link that is down as it is. -/
theorem Down.configured (h : Down s t) {q : Pci} (hUp : q.up = t.pci.up) (hDn : q.linkdn = t.pci.linkdn) : Down s { t with pci := q } := by
  obtain ⟨kUp, kDn, kRest⟩ := h
  exact ⟨hUp.trans kUp, hDn.trans kDn, kRest⟩

theorem Down.stopRings (h : Down s t) : Down s t.stopRings := by
  obtain ⟨hUp, hDn, hRing, -, hRest⟩ := h
  exact ⟨hUp, hDn, hRing, stopRings_disabled, hRest⟩

/-- The port's configuration is lost. -/
def Bare (s t : State) : Prop := t.pci.mse = false ∧ t.pci.msixEn = false ∧ t.pci.size = 0x24 ∧ t.pci.base.toNat % 256 = 0 ∧
  t.pci.unmasked = [] ∧ t.pci.pend = [] ∧ t.pci.table = [] ∧ t.pci.hbq = s.pci.hbq

theorem linkDown_hbq : s.linkDown.pci.hbq = s.pci.hbq ∧ s.linkDown.pci.trained = s.pci.trained := by
  cases h : s.pci.up with
  | true =>
    obtain ⟨-, hPci⟩ := linkDown_down h
    rw [hPci]
    exact ⟨rfl, rfl⟩
  | false =>
    rw [linkDown_already h]
    exact ⟨rfl, rfl⟩

theorem base_aligned (b : BitVec 12) : (BitVec.ofNat 12 (b.toNat / 256 * 256)).toNat % 256 = 0 := by
  have hb := b.isLt
  rw [BitVec.toNat_ofNat]
  omega

theorem resetHostPort_bare : Bare s s.resetHostPort ∧ (∀ e, (s.resetHostPort.egrRing e).enable = false) ∧
    s.resetHostPort.pci.trained = s.pci.trained := by
  obtain ⟨hHbq, hTrained⟩ := linkDown_hbq (s := s)
  exact ⟨⟨rfl, rfl, rfl, base_aligned _, rfl, rfl, rfl, hHbq⟩, stopRings_disabled, hTrained⟩

theorem resetHostPort_down (h : s.pci.up = true) : Down s s.resetHostPort := (linkDown_down h).1.stopRings.configured rfl rfl

/-- A reset of the port that trains the link again. -/
def untrained (s : State) : State := { s.resetHostPort with pci := { s.resetHostPort.pci with trained := false, width := 0, speed := 0 } }

theorem untrained_bare : Bare s (untrained s) ∧ ∀ e, ((untrained s).egrRing e).enable = false := by
  obtain ⟨hBare, hRings, -⟩ := resetHostPort_bare (s := s)
  exact ⟨hBare, hRings⟩

theorem untrained_down (h : s.pci.up = true) : Down s (untrained s) := (resetHostPort_down h).configured rfl rfl

section
variable (hHeld : s.dev.held = false)
include hHeld

theorem exec_linkLost : exec (.pciLinkDown 0) s = .next (untrained s) := by
  change execPciLinkDown 0 s = _
  rw [execPciLinkDown, hHeld]
  rfl

theorem exec_busMasterOff : exec (.pciLinkDown 1) s = .next { s.linkDown with pci := { s.linkDown.pci with bme := false } } := by
  change execPciLinkDown 1 s = _
  rw [execPciLinkDown, hHeld]
  rfl

theorem exec_d3hot : exec (.pciLinkDown 2) s = .next { s.linkDown with pci := { s.linkDown.pci with d0 := false } } := by
  change execPciLinkDown 2 s = _
  rw [execPciLinkDown, hHeld]
  rfl

theorem exec_perst : exec (.pciePerstN true) s = .next (untrained s) := by
  change execPciePerstN true s = _
  rw [execPciePerstN, hHeld]
  rfl

theorem exec_hotReset : exec (.hostPortReset false) s = .next (untrained s) := by
  change execHostPortReset false s = _
  rw [execHostPortReset, hHeld]
  rfl

theorem exec_flr : exec (.hostPortReset true) s = .next s.resetHostPort := by
  change execHostPortReset true s = _
  rw [execHostPortReset, hHeld]
  rfl

end

/-! ### The link comes up (13 R428, R437) -/

/-- The configuration that a link that has come up has. -/
def linked (c : Pci) (width : BitVec 6) (speed : BitVec 3) (en mask : Bool) : Pci :=
  { c with trained := true, d0 := true, bme := true, mse := true, up := true, width, speed, msixEn := en, fmask := mask }

theorem exec_linkUp (hHeld : s.dev.held = false) (hClk : s.pwr.clk.getLsbD 0 = false) {width : BitVec 6} {speed : BitVec 3} {en mask : Bool}
    (hForm : linkWf width speed = true) : exec (.pciLinkUp width speed en mask) s =
      .next (({ s with pci := linked s.pci width speed en mask } : State).sendPending.unlessForced State.applyEgrs) := by
  change execPciLinkUp width speed en mask s = _
  rw [execPciLinkUp, hHeld, hClk, hForm]
  rfl

theorem linkUp_gives (hHeld : s.dev.held = false) (hClk : s.pwr.clk.getLsbD 0 = false) {width : BitVec 6} {speed : BitVec 3} {en mask : Bool}
    (hForm : linkWf width speed = true) : Gives (.pciLinkUp width speed en mask) s fun t =>
      t.pci.up = true ∧ t.pci.trained = true ∧ t.pci.bme = true ∧ t.pci.mse = true ∧ t.pci.width = width ∧ t.pci.speed = speed ∧
        t.pci.msixEn = en ∧ t.pci.fmask = mask ∧ t.reach = s.reach ∧ t.nmu = s.nmu ∧ t.mdie = s.mdie ∧ t.ctx = s.ctx ∧ MemoryKept s t ∧
        (s.lkp.inForce = true → t.lkp = s.lkp) ∧
        (en = true → mask = false → ∀ v ∈ s.pci.pend, v ∈ s.pci.unmasked → Sent t v) := by
  have hExec := exec_linkUp hHeld hClk (en := en) (mask := mask) hForm
  obtain ⟨l, hPci, -⟩ := sendPending_pci (s := { s with pci := linked s.pci width speed en mask })
  obtain ⟨⟨hReach, hNmu, hMdie, -, hCtx⟩, hMem, hLkp⟩ := sendPending_kept (s := { s with pci := linked s.pci width speed en mask })
  have hSends (hEn : en = true) (hMask : mask = false) (v : Nat) (hv : v ∈ s.pci.pend) (hOpen : v ∈ s.pci.unmasked) :=
    sendPending_sends (s := { s with pci := linked s.pci width speed en mask }) hEn rfl hMask hv hOpen
  generalize ({ s with pci := linked s.pci width speed en mask } : State).sendPending = u at hExec hPci hReach hNmu hMdie hCtx hMem hLkp hSends
  have hSignals : Signals u (u.unlessForced State.applyEgrs) := by
    unfold State.unlessForced
    split
    · exact .refl
    · exact applyEgrs_signals
  refine ⟨_, hExec, ?_⟩
  have hForced (h : s.lkp.inForce = true) : (u.unlessForced State.applyEgrs).lkp = s.lkp := by
    rw [unlessForced_inForce (by rw [hLkp]; exact h), hLkp]
  have hSent (hEn : en = true) (hMask : mask = false) (v : Nat) (hv : v ∈ s.pci.pend) (hOpen : v ∈ s.pci.unmasked) :
      Sent (u.unlessForced State.applyEgrs) v := by
    refine hSignals.sent (hSends hEn hMask v hv hOpen) ?_ ?_
    · rw [hPci]
      exact hOpen
    · rw [hPci]
      exact hMask
  obtain ⟨⟨m, kPci, -⟩, -, ⟨kReach, kNmu, kMdie, kCtx⟩, kMem⟩ := hSignals
  have hAll := kPci.trans (by rw [hPci])
  generalize u.unlessForced State.applyEgrs = t at *
  exact ⟨congrArg (·.up) hAll, congrArg (·.trained) hAll, congrArg (·.bme) hAll, congrArg (·.mse) hAll, congrArg (·.width) hAll,
    congrArg (·.speed) hAll, congrArg (·.msixEn) hAll, congrArg (·.fmask) hAll, kReach.trans hReach, kNmu.trans hNmu, kMdie.trans hMdie, kCtx.trans hCtx,
    NmuAccess.memoryKept_trans hMem kMem, hForced, hSent⟩

/-! ### What the commands give -/

/-- A link that goes down, by a command that resets the port or by one that only takes its bus mastering or its power state. -/
theorem down_gives (hHeld : s.dev.held = false) (hUp : s.pci.up = true) :
    (Gives (.pciLinkDown 0) s fun t => Down s t ∧ Bare s t ∧ t.pci.trained = false) ∧
    (Gives (.pciLinkDown 1) s fun t => Down s t ∧ t.pci.bme = false ∧ t.pci.mse = s.pci.mse ∧ t.pci.base = s.pci.base) ∧
    (Gives (.pciLinkDown 2) s fun t => Down s t ∧ t.pci.d0 = false ∧ t.pci.mse = s.pci.mse) ∧
    (Gives (.pciePerstN true) s fun t => Down s t ∧ Bare s t ∧ t.pci.trained = false) ∧
    (Gives (.hostPortReset false) s fun t => Down s t ∧ Bare s t ∧ t.pci.trained = false) ∧
    Gives (.hostPortReset true) s fun t => Down s t ∧ Bare s t ∧ t.pci.trained = s.pci.trained := by
  obtain ⟨hDown, hPci⟩ := linkDown_down hUp
  obtain ⟨hBare, -, hTrained⟩ := resetHostPort_bare (s := s)
  have hMse : s.linkDown.pci.mse = s.pci.mse := by rw [hPci]
  have hBase : s.linkDown.pci.base = s.pci.base := by rw [hPci]
  have hLost : Down s (untrained s) ∧ Bare s (untrained s) ∧ (untrained s).pci.trained = false :=
    ⟨untrained_down hUp, untrained_bare.1, rfl⟩
  exact ⟨⟨_, exec_linkLost hHeld, hLost⟩,
    ⟨_, exec_busMasterOff hHeld, hDown.configured rfl rfl, rfl, hMse, hBase⟩,
    ⟨_, exec_d3hot hHeld, hDown.configured rfl rfl, rfl, hMse⟩,
    ⟨_, exec_perst hHeld, hLost⟩, ⟨_, exec_hotReset hHeld, hLost⟩, ⟨_, exec_flr hHeld, resetHostPort_down hUp, hBare, hTrained⟩⟩

theorem reset_gives (hHeld : s.dev.held = false) : ∀ i ∈ [Instr.pciLinkDown 0, .pciePerstN true, .hostPortReset false, .hostPortReset true],
    Gives i s fun t => Bare s t ∧ ∀ e, (t.egrRing e).enable = false := by
  obtain ⟨hBare, hRings, -⟩ := resetHostPort_bare (s := s)
  simp only [List.forall_mem_cons]
  exact ⟨⟨_, exec_linkLost hHeld, untrained_bare⟩, ⟨_, exec_perst hHeld, untrained_bare⟩, ⟨_, exec_hotReset hHeld, untrained_bare⟩,
    ⟨_, exec_flr hHeld, hBare, hRings⟩, fun _ h => absurd h List.not_mem_nil⟩

/-- A change of the table of vectors or of their function mask, with the messages that it lets go. -/
theorem vectors_kept (q : Pci) : UnitsKept s ({ s with pci := q } : State).sendPending ∧ MemoryKept s ({ s with pci := q } : State).sendPending := by
  obtain ⟨hUnits, hMem, -⟩ := sendPending_kept (s := { s with pci := q })
  exact ⟨hUnits, hMem⟩

section
variable (hHeld : s.dev.held = false) (hMse : s.pci.mse = true)
include hHeld hMse

theorem unmask_gives (v : BitVec 11) {w : W32} (hw : w.getLsbD 0 = false) :
    Gives (.msixUnmask (.write (BitVec.ofNat 16 (16 * v.toNat + 12)) (leBytes 4 w.toNat))) s fun t =>
      v.toNat ∈ t.pci.unmasked ∧ UnitsKept s t ∧ MemoryKept s t ∧
        (s.pci.msixEn = true → s.pci.up = true → s.pci.fmask = false → v.toNat ∈ s.pci.pend → Sent t v.toNat) := by
  have hSet : s.pci.setWord4 ((BitVec.ofNat 16 (16 * v.toNat + 12)).toNat / 4) w = { s.pci with unmasked := setIns v.toNat s.pci.unmasked } := by
    rw [setWord4_mask, hw]
    rfl
  have hOpen : v.toNat ∈ setIns v.toNat s.pci.unmasked := (mem_setIns _ _ _).mpr (.inl rfl)
  have hExec := exec_tableWrite hHeld hMse (o := BitVec.ofNat 16 (16 * v.toNat + 12)) w
  rw [hSet] at hExec
  obtain ⟨l, hPci, -⟩ := sendPending_pci (s := { s with pci := { s.pci with unmasked := setIns v.toNat s.pci.unmasked } })
  obtain ⟨hUnits, hMem⟩ := vectors_kept (s := s) { s.pci with unmasked := setIns v.toNat s.pci.unmasked }
  exact ⟨_, hExec, Eq.mpr (congrArg (v.toNat ∈ ·) (congrArg Pci.unmasked hPci)) hOpen, hUnits, hMem, fun hEn hUp hMask hPend =>
    sendPending_sends (s := { s with pci := { s.pci with unmasked := setIns v.toNat s.pci.unmasked } }) hEn hUp hMask hPend hOpen⟩

theorem mask_gives (v : BitVec 11) {w : W32} (hw : w.getLsbD 0 = true) :
    Gives (.msixUnmask (.write (BitVec.ofNat 16 (16 * v.toNat + 12)) (leBytes 4 w.toNat))) s fun t =>
      v.toNat ∉ t.pci.unmasked ∧ UnitsKept s t ∧ MemoryKept s t := by
  have hSet : s.pci.setWord4 ((BitVec.ofNat 16 (16 * v.toNat + 12)).toNat / 4) w = { s.pci with unmasked := setDel v.toNat s.pci.unmasked } := by
    rw [setWord4_mask, hw]
    rfl
  have hClosed : v.toNat ∉ setDel v.toNat s.pci.unmasked := fun h => ((mem_setDel _ _ _).mp h).2 rfl
  have hExec := exec_tableWrite hHeld hMse (o := BitVec.ofNat 16 (16 * v.toNat + 12)) w
  rw [hSet] at hExec
  obtain ⟨l, hPci, -⟩ := sendPending_pci (s := { s with pci := { s.pci with unmasked := setDel v.toNat s.pci.unmasked } })
  exact ⟨_, hExec, Eq.mpr (congrArg (v.toNat ∉ ·) (congrArg Pci.unmasked hPci)) hClosed, vectors_kept _⟩

theorem entry_gives {o : BitVec 16} {w : W32} (ho : o.toNat < 32768) (hOther : o.toNat / 4 % 4 ≠ 3) :
    Gives (.msixUnmask (.write o (leBytes 4 w.toNat))) s fun t => t.pci.word4 (o.toNat / 4) = w ∧ UnitsKept s t ∧ MemoryKept s t := by
  have hIndex : o.toNat / 4 < 8192 := by omega
  have hExec := exec_tableWrite hHeld hMse (o := o) w
  rw [setWord4_table _ hIndex hOther] at hExec
  obtain ⟨l, hPci, -⟩ := sendPending_pci (s := { s with pci := { s.pci with table := sput 0 s.pci.table (o.toNat / 4) w } })
  refine ⟨_, hExec, ?_, vectors_kept _⟩
  refine (congrArg (fun c : Pci => c.word4 (o.toNat / 4)) hPci).trans ?_
  rw [word4_table hIndex hOther]
  exact slook_sput_same _ _ _ _

theorem table_gives :
    (∀ (v : BitVec 11) (w : W32),
      let wr : Instr := .msixUnmask (.write (BitVec.ofNat 16 (16 * v.toNat + 12)) (leBytes 4 w.toNat))
      (w.getLsbD 0 = false → Gives wr s fun t => v.toNat ∈ t.pci.unmasked ∧ UnitsKept s t ∧ MemoryKept s t ∧
        (s.pci.msixEn = true → s.pci.up = true → s.pci.fmask = false → v.toNat ∈ s.pci.pend → Sent t v.toNat)) ∧
      (w.getLsbD 0 = true → Gives wr s fun t => v.toNat ∉ t.pci.unmasked ∧ UnitsKept s t ∧ MemoryKept s t)) ∧
    (∀ (o : BitVec 16) (w : W32), o.toNat < 32768 → o.toNat % 4 = 0 → o.toNat / 4 % 4 ≠ 3 →
      Gives (.msixUnmask (.write o (leBytes 4 w.toNat))) s fun t => t.pci.word4 (o.toNat / 4) = w ∧ UnitsKept s t ∧ MemoryKept s t) ∧
    ∀ (o : BitVec 16) (n : Nat), exec (.msixUnmask (.read o n)) s = .next (s.send (.pciCompletion 0 false
      ((List.range (n / 4)).flatMap fun k => leBytes 4 (s.pci.word4 (o.toNat / 4 + k)).toNat))) :=
  ⟨fun v _ => ⟨unmask_gives hHeld hMse v, mask_gives hHeld hMse v⟩, fun _ _ ho _ hOther => entry_gives hHeld hMse ho hOther,
    exec_tableRead hHeld hMse⟩

end

theorem function_gives (hHeld : s.dev.held = false) (en mask : Bool) : Gives (.msixUnmask (.function en mask)) s fun t =>
    t.pci.msixEn = en ∧ t.pci.fmask = mask ∧ UnitsKept s t ∧ MemoryKept s t ∧
      (en = true → mask = false → s.pci.up = true → ∀ v ∈ s.pci.pend, v ∈ s.pci.unmasked → Sent t v) := by
  have hExec : exec (.msixUnmask (.function en mask)) s = .next ({ s with pci := { s.pci with msixEn := en, fmask := mask } } : State).sendPending := by
    change execMsixUnmask (.function en mask) s = _
    rw [execMsixUnmask, hHeld, if_neg (by decide)]
  obtain ⟨l, hPci, -⟩ := sendPending_pci (s := { s with pci := { s.pci with msixEn := en, fmask := mask } })
  obtain ⟨hUnits, hMem⟩ := vectors_kept (s := s) { s.pci with msixEn := en, fmask := mask }
  exact ⟨_, hExec, congrArg Pci.msixEn hPci, congrArg Pci.fmask hPci, hUnits, hMem,
    fun hEn hMask hUp _ hv hOpen =>
      sendPending_sends (s := { s with pci := { s.pci with msixEn := en, fmask := mask } }) hEn hUp hMask hv hOpen⟩

/-! ### Errors that the link reports (13 R428) -/

theorem exec_perstHigh (hHeld : s.dev.held = false) : exec (.pciePerstN false) s = .next s := by
  change execPciePerstN false s = _
  rw [execPciePerstN, hHeld]
  rfl

theorem exec_unexpected (hHeld : s.dev.held = false) : exec .unexpectedCompletion s = .next { s with out := s.out ++ [.aer 4 none] } := by
  change execUnexpectedCompletion s = _
  rw [execUnexpectedCompletion, hHeld]
  rfl

theorem exec_unsupported (hHeld : s.dev.held = false) (off : BitVec 26) : exec (.pciBadAccess off .unsupported) s =
    .next { s with out := s.out ++ [.pciCompletion 2 false [], .aer 0 none] } := by
  change execPciBadAccess off .unsupported s = _
  rw [execPciBadAccess, hHeld, if_neg (by decide)]
  exact congrArg (fun l => Host.Outcome.next { s with out := l }) (List.append_assoc _ _ _)

theorem exec_replayed (hHeld : s.dev.held = false) (off : BitVec 26) : exec (.pciBadAccess off .replayed) s =
    .next { s with out := s.out ++ [.aer 5 none] } := by
  change execPciBadAccess off .replayed s = _
  rw [execPciBadAccess, hHeld, if_neg (by decide)]
  rfl

/-- Settles O46: each way in which the link goes down is `linkDown`, with the port's configuration lost where the port is reset; the messages
that a change of the masks lets go are those of `sendPending`, and the rings of a link that comes up change the lockkeeper's state alone. -/
theorem hostLink : Obligations.HostLink := by
  unfold Obligations.HostLink
  intro s hHeld
  exact ⟨down_gives hHeld, reset_gives hHeld, exec_perstHigh hHeld, fun hClk _ _ _ _ hForm => linkUp_gives hHeld hClk hForm,
    table_gives hHeld, function_gives hHeld, exec_unexpected hHeld, fun off => ⟨exec_unsupported hHeld off, exec_replayed hHeld off⟩⟩

end Sys2Proof.Machine.HostLink

/-! PROOF. Frames that a device sends and takes (14 R458, R459, R469; 15 R515): what they change. -/

namespace Sys2Proof.Machine.SentFrames

open Laws

variable {s t u : State}

/-! ### Flows -/

theorem flow_modFlow_same (p n : Nat) (f : Flow → Flow) : (s.modFlow p n f).cpl.flow p n = f (s.cpl.flow p n) := by
  simp only [State.modFlow, Cpl.flow, List.find?_append]
  rw [List.find?_eq_none.mpr fun e he => by simpa using (List.mem_filter.mp he).2]
  simp

theorem flow_modFlow_ne {p n q m : Nat} (h : (q, m) ≠ (p, n)) (f : Flow → Flow) : (s.modFlow p n f).cpl.flow q m = s.cpl.flow q m := by
  simp only [State.modFlow, Cpl.flow, List.find?_append, List.find?_filter]
  have hSame : (fun e : (Nat × Nat) × Flow => decide ((e.1 != (p, n)) = true ∧ (e.1 == (q, m)) = true)) = fun e => e.1 == (q, m) := by
    funext e
    by_cases hEq : e.1 = (q, m)
    · simp [hEq, h]
    · simp [hEq]
  have hNew (v : Flow) : [((p, n), v)].find? (fun e => e.1 == (q, m)) = none := by simp [Ne.symm h]
  rw [hSame, hNew, Option.or_none]

/-! ### Link keys -/

/-- A link key without its uses. -/
def unused (k : LinkKey) : LinkKey := { k with sent := 0 }

/-- The link keys are the same but for their uses. -/
def SameKeys (s t : State) : Prop := t.cpl.keys.map unused = s.cpl.keys.map unused

theorem find_unused (n : Nat) (l : List LinkKey) : (l.find? fun k => k.node == n).map unused = (l.map unused).find? fun k => k.node == n := by
  rw [List.find?_map]
  rfl

theorem SameKeys.key (h : SameKeys s t) (n : Nat) : (t.cpl.key n).map unused = (s.cpl.key n).map unused := by
  unfold Cpl.key
  rw [find_unused, find_unused, h]

theorem SameKeys.find {α : Type} (h : SameKeys s t) (n : Nat) {f : LinkKey → α} (hf : ∀ k, f (unused k) = f k) :
    (t.cpl.key n).map f = (s.cpl.key n).map f := by
  have hKey := congrArg (Option.map f) (h.key n)
  rw [Option.map_map, Option.map_map] at hKey
  have hComp : f ∘ unused = f := funext hf
  rwa [hComp] at hKey

theorem useKey_keys (n ftype : Nat) : SameKeys s (s.useKey n ftype) := by
  unfold State.useKey SameKeys
  split
  · rfl
  · simp only [List.map_map]
    refine List.map_congr_left fun k _ => ?_
    by_cases h : k.node = n
    · simp [h, unused]
    · simp [h]

/-! ### Frames that go out -/

/-- Frames have gone out; of the rest only the uses of the link keys and the draws have changed. -/
structure Emits (s t : State) : Prop where
  rest : t = { s with
    out := t.out, sec := { s.sec with draws := t.sec.draws }, cpl := { s.cpl with keys := t.cpl.keys } }
  keys : SameKeys s t

theorem Emits.refl : Emits s s := ⟨rfl, rfl⟩

theorem Emits.trans (h : Emits s t) (k : Emits t u) : Emits s u := by
  refine ⟨?_, k.keys.trans h.keys⟩
  have hs := h.rest
  have ht := k.rest
  generalize t.out = a, t.sec.draws = b, t.cpl.keys = c at hs
  generalize u.out = a', u.sec.draws = b', u.cpl.keys = c' at ht ⊢
  rw [ht, hs]

theorem Emits.foldl {α : Type} {f : State → α → State} (h : ∀ t x, Emits t (f t x)) (l : List α) : ∀ s : State, Emits s (l.foldl f s) := by
  induction l with
  | nil => exact fun _ => .refl
  | cons x l ih => exact fun s => (h s x).trans (ih _)

theorem useKey_emits (n ftype : Nat) : Emits s (s.useKey n ftype) := by
  refine ⟨?_, useKey_keys n ftype⟩
  unfold State.useKey
  split
  · rfl
  · rfl

theorem send_emits (o : Out) : Emits s (s.send o) := ⟨rfl, rfl⟩

/-- A state with one more draw where a frame is signed. -/
def drawn (s : State) (sign : Bool) : State := if sign then { s with sec := { s.sec with draws := s.sec.draws + 1 } } else s

theorem drawn_emits (sign : Bool) : Emits s (drawn s sign) := by
  cases sign
  · exact .refl
  · exact ⟨rfl, rfl⟩

theorem emitFrame_eq (p n : Nat) (x : TxFrame) (h : s.frameStops n x.ftype = false) :
    ∃ o, s.emitFrame p n x = ((drawn s (s.cpl.signed n x.ftype)).send o).useKey n x.ftype := by
  unfold State.emitFrame
  rw [h, if_neg (by decide)]
  exact ⟨_, rfl⟩

theorem emitFrame_stopped {p n : Nat} {x : TxFrame} (h : s.frameStops n x.ftype = true) : s.emitFrame p n x = s := by
  unfold State.emitFrame
  exact if_pos h

theorem emitFrame_emits (p n : Nat) (x : TxFrame) : Emits s (s.emitFrame p n x) := by
  cases h : s.frameStops n x.ftype with
  | true =>
    rw [emitFrame_stopped h]
    exact .refl
  | false =>
    obtain ⟨o, hEq⟩ := emitFrame_eq p n x h
    rw [hEq]
    exact ((drawn_emits _).trans (send_emits o)).trans (useKey_emits _ _)

theorem emitFrame_unsigned {p n : Nat} {x : TxFrame} (h : s.cpl.signed n x.ftype = false) : (s.emitFrame p n x).sec = s.sec := by
  cases hStop : s.frameStops n x.ftype with
  | true => rw [emitFrame_stopped hStop]
  | false =>
    obtain ⟨o, hEq⟩ := emitFrame_eq p n x hStop
    rw [hEq, h]
    unfold State.useKey
    split
    · rfl
    · rfl

theorem sendPlain_emits (p n ftype : Nat) (payload : List Byte) : Emits s (s.sendPlain p n ftype payload) := by
  unfold State.sendPlain
  split
  · exact emitFrame_emits _ _ _
  · exact .refl

/-! ### Frames of flows -/

/-- Frames have gone out and wait at the end of their flows; of the rest only the uses of the link keys and the draws have changed. -/
structure Talks (s t : State) : Prop where
  rest : t = { s with
    out := t.out, sec := { s.sec with draws := t.sec.draws }, cpl := { s.cpl with keys := t.cpl.keys, flows := t.cpl.flows } }
  keys : SameKeys s t
  flow : ∀ p n, ∃ w l, t.cpl.flow p n = { s.cpl.flow p n with next := w, unacked := (s.cpl.flow p n).unacked ++ l }

theorem Talks.refl : Talks s s := ⟨rfl, rfl, fun _ _ => ⟨_, [], by rw [List.append_nil]⟩⟩

theorem Talks.trans (h : Talks s t) (k : Talks t u) : Talks s u := by
  refine ⟨?_, k.keys.trans h.keys, fun p n => ?_⟩
  · have hs := h.rest
    have ht := k.rest
    generalize t.out = a, t.sec.draws = b, t.cpl.keys = c, t.cpl.flows = d at hs
    generalize u.out = a', u.sec.draws = b', u.cpl.keys = c', u.cpl.flows = d' at ht ⊢
    rw [ht, hs]
  · obtain ⟨w, l, hFlow⟩ := h.flow p n
    obtain ⟨w', l', kFlow⟩ := k.flow p n
    refine ⟨w', l ++ l', ?_⟩
    rw [kFlow, hFlow, List.append_assoc]

theorem Talks.foldl {α : Type} {f : State → α → State} (h : ∀ t x, Talks t (f t x)) (l : List α) : ∀ s : State, Talks s (l.foldl f s) := by
  induction l with
  | nil => exact fun _ => .refl
  | cons x l ih => exact fun s => (h s x).trans (ih _)

theorem Emits.flows (h : Emits s t) : t.cpl.flows = s.cpl.flows := by rw [h.rest]

theorem Emits.flow (h : Emits s t) (p n : Nat) : t.cpl.flow p n = s.cpl.flow p n := by rw [Cpl.flow, h.flows, Cpl.flow]

theorem Emits.talks (h : Emits s t) : Talks s t := by
  refine ⟨?_, h.keys, fun p n => ⟨(s.cpl.flow p n).next, [], ?_⟩⟩
  · have hs := h.rest
    generalize t.out = a, t.sec.draws = b, t.cpl.keys = c at hs
    rw [hs]
  · rw [h.flow, List.append_nil]

/-- A flow with one more frame. -/
def queued (f : Flow) (x : TxFrame) : Flow := { f with next := f.next + 1, unacked := f.unacked ++ [x] }

theorem sendFrame_cases (p n ftype : Nat) (aux : W32) (ctx job : Nat) (payload : List Byte) (marks : List Nat) :
    ∃ x : TxFrame, (x.ftype, x.aux, x.payload, x.marks) = (ftype, aux, payload, marks) ∧
      (s.sendFrame p n ftype aux ctx job payload marks = s.modFlow p n (queued · x) ∨
        s.sendFrame p n ftype aux ctx job payload marks = (s.modFlow p n (queued · x)).emitFrame p n x) := by
  refine ⟨{ seq := (s.cpl.flow p n).next, ftype, aux, ctx, job, payload, marks }, rfl, ?_⟩
  unfold State.sendFrame
  extract_lets f x v
  split
  · exact .inr rfl
  · exact .inl rfl

theorem modFlow_talks (p n : Nat) (x : TxFrame) : Talks s (s.modFlow p n (queued · x)) := by
  refine ⟨rfl, rfl, fun q m => ?_⟩
  by_cases h : (q, m) = (p, n)
  · cases h
    exact ⟨_, [x], flow_modFlow_same p n _⟩
  · exact ⟨_, [], by rw [flow_modFlow_ne h, List.append_nil]⟩

/-- The frame that a flow takes is its last, and no other flow changes. -/
theorem sendFrame_gives (p n ftype : Nat) (aux : W32) (ctx job : Nat) (payload : List Byte) (marks : List Nat) :
    Talks s (s.sendFrame p n ftype aux ctx job payload marks) ∧
    lastSent (s.sendFrame p n ftype aux ctx job payload marks) p n = some (ftype, aux, payload) ∧
    (((s.sendFrame p n ftype aux ctx job payload marks).cpl.flow p n).unacked.getLast?).map (·.marks) = some marks ∧
    ∀ q m, (q, m) ≠ (p, n) → (s.sendFrame p n ftype aux ctx job payload marks).cpl.flow q m = s.cpl.flow q m := by
  obtain ⟨x, hx, hEq⟩ := sendFrame_cases (s := s) p n ftype aux ctx job payload marks
  have hLast : ((s.modFlow p n (queued · x)).cpl.flow p n).unacked.getLast? = some x := by
    rw [flow_modFlow_same]
    exact List.getLast?_concat
  have hEmits : Emits (s.modFlow p n (queued · x)) (s.sendFrame p n ftype aux ctx job payload marks) := by
    rcases hEq with h | h
    · rw [h]
      exact .refl
    · rw [h]
      exact emitFrame_emits _ _ _
  generalize s.sendFrame p n ftype aux ctx job payload marks = t at hEmits
  cases hx
  refine ⟨(modFlow_talks p n x).trans hEmits.talks, ?_, ?_, fun q m h => ?_⟩
  · rw [lastSent, hEmits.flow, hLast]
    rfl
  · rw [hEmits.flow, hLast]
    rfl
  · rw [hEmits.flow, flow_modFlow_ne h]

theorem sendFrame_talks (p n ftype : Nat) (aux : W32) (ctx job : Nat) (payload : List Byte) (marks : List Nat) :
    Talks s (s.sendFrame p n ftype aux ctx job payload marks) := (sendFrame_gives p n ftype aux ctx job payload marks).1

theorem sendCtrl_first {p : Nat} {ps : List Nat} (h : s.mgrPorts = p :: ps) (n ftype : Nat) (aux : W32) (payload : List Byte) :
    s.sendCtrl n ftype aux payload = s.sendFrame p n ftype aux 0 0xFFFF payload := by
  unfold State.sendCtrl
  rw [h]

theorem sendCtrl_talks (n ftype : Nat) (aux : W32) (payload : List Byte) : Talks s (s.sendCtrl n ftype aux payload) := by
  unfold State.sendCtrl
  split
  · exact sendFrame_talks _ _ _ _ _ _ _ _
  · exact .refl

section
variable (h : Talks s t)
include h

theorem Talks.units : UnitsKept s t := by
  rw [h.rest]
  exact ⟨rfl, rfl, rfl, rfl, rfl⟩

theorem Talks.mem : MemoryKept s t := by
  rw [h.rest]
  exact ⟨rfl, rfl, rfl⟩

theorem Talks.kept : t.time = s.time ∧ t.ras = s.ras ∧ t.mgt = s.mgt ∧ t.prf = s.prf ∧ t.dev = s.dev ∧ t.pwr = s.pwr := by
  rw [h.rest]
  exact ⟨rfl, rfl, rfl, rfl, rfl, rfl⟩

theorem Talks.cpl : t.cpl = { s.cpl with keys := t.cpl.keys, flows := t.cpl.flows } := congrArg State.cpl h.rest

theorem Talks.expect (p n : Nat) : (t.cpl.flow p n).expect = (s.cpl.flow p n).expect := by
  obtain ⟨w, l, hFlow⟩ := h.flow p n
  rw [hFlow]

/-- What a device raises after it has sent frames counts as the next event since before. -/
theorem Talks.raised_after {v : State} {code job : Nat} {source : W32} (hv : Raised t v code job source) : Raised s v code job source := by
  obtain ⟨-, hRas, -⟩ := h.kept
  rwa [Raised, hRas] at hv

/-- Frames that go out after an event leave it the last one. -/
theorem Talks.raised_before {v : State} {code job : Nat} {source : W32} (hv : Raised v s code job source) : Raised v t code job source := by
  obtain ⟨-, hRas, hMgt, -⟩ := h.kept
  rwa [Raised, hRas, hMgt]

theorem Talks.lastEvent {code : Nat} (hv : LastEvent s code) : LastEvent t code := by
  obtain ⟨-, -, hMgt, -⟩ := h.kept
  rwa [LastEvent, hMgt]

end

/-! ### Frames that arrive (14 R469) -/

/-- What a frame of a flow does before its own effect: its words and its acknowledgement are taken. -/
def acked (s : State) (x : RxFrame) : State := (s.uncorr x.port x.words).ackUpTo x.port.val x.src.toNat x.ack

/-- A frame has been taken. -/
def turned (s : State) (x : RxFrame) : State := (acked s x).modFlow x.port.val x.src.toNat fun f => { f with expect := f.expect + 1 }

/-- What has changed once a frame has been taken: `k` more frames of its flow have come. -/
structure Takes (k : W32) (x : RxFrame) (s t : State) : Prop where
  rest   : t = { s with
    out := t.out, sec := { s.sec with draws := t.sec.draws }
    cpl := { s.cpl with keys := t.cpl.keys, flows := t.cpl.flows, uncorr := t.cpl.uncorr } }
  keys   : SameKeys s t
  uncorr : t.cpl.uncorr[x.port] = stick32 s.cpl.uncorr[x.port] x.words
  turn   : (t.cpl.flow x.port x.src.toNat).expect = (s.cpl.flow x.port x.src.toNat).expect + k
  unacked : (t.cpl.flow x.port x.src.toNat).unacked = (s.cpl.flow x.port x.src.toNat).unacked.dropWhile fun y => newer32 x.ack y.seq

theorem Takes.emits {k : W32} {x : RxFrame} (h : Takes k x s t) (g : Emits t u) : Takes k x s u := by
  refine ⟨?_, g.keys.trans h.keys, ?_, ?_, ?_⟩
  · have hs := h.rest
    have ht := g.rest
    generalize t.out = a, t.sec.draws = b, t.cpl.keys = c, t.cpl.flows = d, t.cpl.uncorr = e at hs
    generalize u.out = a', u.sec.draws = b', u.cpl.keys = c' at ht
    rw [ht, hs]
  · rw [show u.cpl.uncorr = t.cpl.uncorr by rw [g.rest]]
    exact h.uncorr
  · rw [g.flow]
    exact h.turn
  · rw [g.flow]
    exact h.unacked

theorem stick32_zero (a : W32) : stick32 a 0 = a := by
  unfold stick32
  rw [Nat.add_zero, if_pos a.isLt, BitVec.add_zero]

theorem uncorr_eq (p : Fin 8) (w : Nat) : s.uncorr p w = { s with cpl := { s.cpl with uncorr := (s.uncorr p w).cpl.uncorr } } ∧
    (s.uncorr p w).cpl.uncorr[p] = stick32 s.cpl.uncorr[p] w := by
  unfold State.uncorr
  split
  · next h =>
    subst h
    rw [stick32_zero]
    exact ⟨rfl, rfl⟩
  · exact ⟨rfl, Vector.getElem_set_self _⟩

theorem takeWhile_drop {α : Type} (q : α → Bool) (l : List α) : l.drop (l.takeWhile q).length = l.dropWhile q := by
  induction l with
  | nil => rfl
  | cons x l ih =>
    by_cases h : q x
    · simp [h, ih]
    · simp [h]

/-- What an acknowledgement does to the flow that it covers. -/
def covered (f : Flow) (ack : W32) (g : Flow) : Flow :=
  let done := f.unacked.takeWhile fun (x : TxFrame) => newer32 ack x.seq
  let past := f.past ++ (done.filter fun x => x.ftype == 1).map fun x => (x.seq, x.job, x.ctx)
  { g with unacked := f.unacked.drop done.length, past := past.drop (past.length - 1024) }

theorem ackUpTo_emits (p n : Nat) (ack : W32) : Emits (s.modFlow p n (covered (s.cpl.flow p n) ack)) (s.ackUpTo p n ack) := by
  have hEq : ∃ l : List TxFrame, s.ackUpTo p n ack =
      if (s.modFlow p n (covered (s.cpl.flow p n) ack)).portUp p && !(s.cpl.flow p n).failed then
        l.foldl (fun (s : State) x => s.emitFrame p n x) (s.modFlow p n (covered (s.cpl.flow p n) ack))
      else s.modFlow p n (covered (s.cpl.flow p n) ack) := ⟨_, rfl⟩
  obtain ⟨l, hEq⟩ := hEq
  rw [hEq]
  split
  · exact Emits.foldl (fun _ _ => emitFrame_emits _ _ _) _ _
  · exact .refl

theorem acked_takes (x : RxFrame) : Takes 0 x s (acked s x) := by
  obtain ⟨hEq, hWords⟩ := uncorr_eq (s := s) x.port x.words
  unfold acked
  generalize s.uncorr x.port x.words = v at hEq hWords
  have hFlow : v.cpl.flow x.port.val x.src.toNat = s.cpl.flow x.port.val x.src.toNat := by
    rw [hEq]
    rfl
  refine Takes.emits ?_ (ackUpTo_emits (s := v) x.port.val x.src.toNat x.ack)
  refine ⟨?_, ?_, hWords, ?_, ?_⟩
  · generalize covered _ _ = g
    generalize v.cpl.uncorr = a at hEq
    rw [hEq]
    rfl
  · generalize covered _ _ = g
    rw [hEq]
    rfl
  · rw [flow_modFlow_same, ← hFlow]
    exact (BitVec.add_zero _).symm
  · rw [flow_modFlow_same, hFlow]
    exact takeWhile_drop _ _

theorem turned_takes (x : RxFrame) : Takes 1 x s (turned s x) := by
  obtain ⟨hRest, hKeys, hWords, hTurn, hUnacked⟩ := acked_takes (s := s) x
  unfold turned
  generalize acked s x = v at *
  refine ⟨?_, hKeys, hWords, ?_, ?_⟩
  · generalize v.out = a, v.sec.draws = b, v.cpl.keys = c, v.cpl.flows = d, v.cpl.uncorr = e at hRest
    rw [hRest]
    rfl
  · rw [flow_modFlow_same]
    dsimp only
    rw [hTurn]
    exact congrArg (· + 1) (BitVec.add_zero _)
  · rw [flow_modFlow_same]
    exact hUnacked

/-! ### Which frames are taken (14 R456 to R459) -/

theorem pcs_of_up {p : Fin 8} (h : s.portUp p = true) : s.cpl.pcs.getLsbD p = true := by
  have hPorts : ∃ on : BitVec 8, s.portsUp = if s.pwr.clk.getLsbD 1 then 0 else s.cpl.pcs &&& s.cpl.sect.ports &&& on := ⟨_, rfl⟩
  obtain ⟨on, hPorts⟩ := hPorts
  rw [State.portUp, hPorts] at h
  by_contra hPcs
  rw [Bool.not_eq_true] at hPcs
  split at h
  · simp at h
  · rw [BitVec.getLsbD_and, BitVec.getLsbD_and, hPcs] at h
    cases h

/-- A frame's words have been counted, on a port whose PCS is locked. -/
def worded (s : State) (x : RxFrame) : State := if s.dev.held || !s.cpl.pcs.getLsbD x.port then s else s.uncorr x.port x.words

theorem uncorr_checks (q : Fin 8) (w : Nat) (x : RxFrame) (ftype : Nat) : (s.uncorr q w).dev = s.dev ∧
    (∀ p, (s.uncorr q w).portUp p = s.portUp p) ∧ (s.uncorr q w).frameMine x = s.frameMine x ∧
    (s.uncorr q w).frameKey x ftype = s.frameKey x ftype := by
  unfold State.uncorr
  split
  · exact ⟨rfl, fun _ => rfl, rfl, rfl⟩
  · exact ⟨rfl, fun _ => rfl, rfl, rfl⟩

theorem worded_up {x : RxFrame} (hHeld : s.dev.held = false) (hUp : s.portUp x.port = true) : worded s x = s.uncorr x.port x.words := by
  unfold worded
  rw [hHeld, pcs_of_up hUp]
  exact if_neg (by decide)

theorem worded_cases (x : RxFrame) : worded s x = s ∨ worded s x = s.uncorr x.port x.words := by
  unfold worded
  split
  · exact .inl rfl
  · exact .inr rfl

section
variable {x : RxFrame} {ftype : Nat} {form : Bool} (act : State → State)

theorem receive_refused (h : (s.dev.held || !s.portUp x.port || !s.frameMine x) = true) : s.receive x ftype form act = worded s x := by
  have hSame : ((worded s x).dev.held || !(worded s x).portUp x.port || !(worded s x).frameMine x) = true := by
    obtain ⟨kDev, kUp, kMine, -⟩ := uncorr_checks (s := s) x.port x.words x ftype
    rcases worded_cases (s := s) x with hWorded | hWorded
    · rw [hWorded]
      exact h
    · rw [hWorded, kDev, kUp, kMine]
      exact h
  exact if_pos hSame

theorem receive_checked (hHeld : s.dev.held = false) (hUp : s.portUp x.port = true) (hMine : s.frameMine x = true) :
    s.receive x ftype form act =
      if !x.headOk ftype || !s.frameKey x ftype || !form then (s.uncorr x.port x.words).frameBad x.port
      else if ftype = 4 || ftype = 6 then act (acked s x)
      else if x.seq = ((acked s x).cpl.flow x.port x.src.toNat).expect then (act (turned s x)).sendPlain x.port x.src.toNat 4 []
      else if newer32 ((acked s x).cpl.flow x.port x.src.toNat).expect x.seq then (acked s x).sendPlain x.port x.src.toNat 4 []
      else acked s x := by
  obtain ⟨kDev, kUp, kMine, kKey⟩ := uncorr_checks (s := s) x.port x.words x ftype
  have hEq : s.receive x ftype form act =
      if (worded s x).dev.held || !(worded s x).portUp x.port || !(worded s x).frameMine x then worded s x
      else if !x.headOk ftype || !(worded s x).frameKey x ftype || !form then (worded s x).frameBad x.port
      else
        let s := (worded s x).ackUpTo x.port x.src.toNat x.ack
        if ftype = 4 || ftype = 6 then act s
        else if x.seq = (s.cpl.flow x.port x.src.toNat).expect then
          (act (s.modFlow x.port x.src.toNat fun f => { f with expect := (s.cpl.flow x.port x.src.toNat).expect + 1 })).sendPlain
            x.port x.src.toNat 4 []
        else if newer32 (s.cpl.flow x.port x.src.toNat).expect x.seq then s.sendPlain x.port x.src.toNat 4 []
        else s := rfl
  rw [hEq, worded_up hHeld hUp, kDev, kUp, kMine, kKey, hHeld, hUp, hMine, if_neg (by decide)]
  rfl

theorem receive_taken (h : Arrives s x ftype) : s.receive x ftype true act =
    if ftype = 4 || ftype = 6 then act (acked s x)
    else if x.seq = ((acked s x).cpl.flow x.port x.src.toNat).expect then (act (turned s x)).sendPlain x.port x.src.toNat 4 []
    else if newer32 ((acked s x).cpl.flow x.port x.src.toNat).expect x.seq then (acked s x).sendPlain x.port x.src.toNat 4 []
    else acked s x := by
  obtain ⟨hHeld, hUp, hMine, hHead, hKey⟩ := h
  rw [receive_checked act hHeld hUp hMine, hHead, hKey]
  exact if_neg (by decide)

/-- A frame of a flow in its turn has its effect once it has been taken, and is acknowledged. -/
theorem receive_turn (h : InTurn s x ftype) (hAck : ftype ≠ 4) (hHello : ftype ≠ 6) :
    s.receive x ftype true act = (act (turned s x)).sendPlain x.port x.src.toNat 4 [] := by
  obtain ⟨hArrives, hTurn⟩ := h
  have hExpect := (acked_takes (s := s) x).turn
  rw [receive_taken act hArrives, if_neg (by simp [hAck, hHello]), if_pos]
  rw [hTurn, hExpect]
  exact (BitVec.add_zero _).symm

/-- A frame outside the flow has its effect at once. -/
theorem receive_plain (h : Arrives s x ftype) (hPlain : ftype = 4 ∨ ftype = 6) : s.receive x ftype true act = act (acked s x) := by
  rw [receive_taken act h, if_pos (by simpa using hPlain)]

/-- A frame for this device that fails its checks is counted. -/
theorem receive_bad (hHeld : s.dev.held = false) (hUp : s.portUp x.port = true) (hMine : s.frameMine x = true)
    (hBad : x.headOk ftype = false ∨ s.frameKey x ftype = false ∨ form = false) :
    s.receive x ftype form act = (s.uncorr x.port x.words).frameBad x.port := by
  rw [receive_checked act hHeld hUp hMine, if_pos]
  rcases hBad with h | h | h <;> simp [h]

end

section
variable {x : RxFrame} {k : W32} (h : Takes k x s t)
include h

theorem Takes.units : UnitsKept s t := by
  rw [h.rest]
  exact ⟨rfl, rfl, rfl, rfl, rfl⟩

theorem Takes.mem : MemoryKept s t := by
  rw [h.rest]
  exact ⟨rfl, rfl, rfl⟩

theorem Takes.cpl : t.cpl = { s.cpl with keys := t.cpl.keys, flows := t.cpl.flows, uncorr := t.cpl.uncorr } := congrArg State.cpl h.rest

theorem Takes.kept : t.time = s.time ∧ t.ras = s.ras ∧ t.mgt = s.mgt ∧ t.prf = s.prf ∧ t.dev = s.dev ∧ t.pwr = s.pwr := by
  rw [h.rest]
  exact ⟨rfl, rfl, rfl, rfl, rfl, rfl⟩

theorem Takes.sec : t.sec = { s.sec with draws := t.sec.draws } := congrArg State.sec h.rest

/-- What is raised after a frame has been taken counts as the next event since before. -/
theorem Takes.raised {v : State} {code job : Nat} {source : W32} (hv : Raised t v code job source) : Raised s v code job source := by
  obtain ⟨-, hRas, -⟩ := h.kept
  rwa [Raised, hRas] at hv

end

/-! ### Nothing else is read that has changed -/

theorem Takes.exists {x : RxFrame} {k : W32} (h : Takes k x s t) : ∃ o d ks fl uc, t = { s with
    out := o, sec := { s.sec with draws := d }, cpl := { s.cpl with keys := ks, flows := fl, uncorr := uc } } := ⟨_, _, _, _, _, h.rest⟩

theorem Talks.exists (h : Talks s t) : ∃ o d ks fl, t = { s with
    out := o, sec := { s.sec with draws := d }, cpl := { s.cpl with keys := ks, flows := fl } } := ⟨_, _, _, _, h.rest⟩

/-! ### Units and memory along several steps -/

theorem units_trans (h : UnitsKept s t) (k : UnitsKept t u) : UnitsKept s u := by
  obtain ⟨h1, h2, h3, h4, h5⟩ := h
  obtain ⟨k1, k2, k3, k4, k5⟩ := k
  exact ⟨k1.trans h1, k2.trans h2, k3.trans h3, k4.trans h4, k5.trans h5⟩

end Sys2Proof.Machine.SentFrames

/-! PROOF. What the work of units leaves alone: time, the coupling block, the device's state, the profiles, the contexts, the rings'
configurations. One rule per operation, over every property that such work keeps. -/

section UnitWorkRules

-- One proof after the other, as in the rules of the canonical form.
set_option Elab.async false

namespace Sys2Proof.Machine.UnitWork

open Laws

/-- Two states differ at most in the units, in memory, in the jobs, in what goes out and in what is kept for the collector. -/
structure Elsewhere (s t : State) : Prop where
  time : t.time = s.time := by rfl
  cpl  : t.cpl = s.cpl := by rfl
  dev  : t.dev = s.dev := by rfl
  prf  : t.prf = s.prf := by rfl
  ctx  : t.ctx = s.ctx := by rfl
  ras  : t.ras = s.ras := by rfl
  sec  : t.sec = s.sec := by rfl
  egr  : t.lkp.egr = s.lkp.egr := by rfl
  force : t.lkp.inForce = s.lkp.inForce := by rfl
  pwr  : t.pwr = s.pwr := by rfl
  link : t.pci.up = s.pci.up ∧ t.pci.trained = s.pci.trained := by exact ⟨rfl, rfl⟩
  mgt  : t.mgt = s.mgt := by rfl

/-- The work of units keeps the property: it does not look at what such work changes, but for events and the tails of rings. -/
structure Stable (Q : State → Prop) : Prop where
  keep  : ∀ {s t}, Q s → Elsewhere s t → Q t
  raise : ∀ s t e, Q s → Q (State.raiseAt s t e)
  tail  : ∀ s r, Q s → Q (State.writeRecord s r)

/-- The state has the property, which the work of units keeps. -/
structure Under (Q : State → Prop) (s : State) : Prop where
  stable : Stable Q
  holds  : Q s

variable {Q : State → Prop} {s t : State}

/-! ### Choices, loops and updates -/

theorem Under.ite {c : Prop} [Decidable c] (hs : Under Q s) (ht : Under Q t) : Under Q (if c then s else t) := by
  split
  · exact hs
  · exact ht

theorem Under.dite {c : Prop} [Decidable c] {f : c → State} {g : ¬ c → State} (hf : ∀ h, Under Q (f h)) (hg : ∀ h, Under Q (g h)) :
    Under Q (if h : c then f h else g h) := by
  split
  · exact hf _
  · exact hg _

theorem Under.foldl {α : Type} {f : State → α → State} (hs : Under Q s) (hf : ∀ t x, Under Q t → Under Q (f t x)) {l : List α} :
    Under Q (l.foldl f s) := by
  induction l generalizing s with
  | nil => exact hs
  | cons x l ih => exact ih (hf s x hs)

theorem Under.foldlFst {α β : Type} {f : State × β → α → State × β} {p : State × β} (hp : Under Q p.1)
    (hf : ∀ q x, Under Q q.1 → Under Q (f q x).1) {l : List α} : Under Q (l.foldl f p).1 := by
  induction l generalizing p with
  | nil => exact hp
  | cons x l ih => exact ih (hf p x hp)

theorem Under.upd (h : Under Q s) (hElse : Elsewhere s t := by exact {}) : Under Q t := ⟨h.stable, h.stable.keep h.holds hElse⟩

/-! ### Operations, in the order of the model -/

theorem Under.modReach (hs : Under Q s) (n : Fin 16) (f : Reach → Reach) : Under Q (s.modReach n f) :=
  hs.upd

theorem Under.modNmu (hs : Under Q s) (d : Fin 4) (f : Nmu → Nmu) : Under Q (s.modNmu d f) :=
  hs.upd

theorem Under.modMdie (hs : Under Q s) (d : Fin 4) (f : MDie → MDie) : Under Q (s.modMdie d f) :=
  hs.upd

theorem Under.modU (hs : Under Q s) (r : Res) (f : Machine.Unit → Machine.Unit) : Under Q (s.modU r f) := by
  unfold State.modU
  split
  · exact hs.modReach _ _
  · exact hs.modNmu _ _

theorem Under.send (hs : Under Q s) (o : Machine.Out) : Under Q (s.send o) :=
  hs.upd

theorem Under.bump (hs : Under Q s) : Under Q s.bump :=
  hs.upd

theorem Under.modJob (hs : Under Q s) (j : Nat) (f : JobRun → JobRun) : Under Q (s.modJob j f) :=
  hs.upd

theorem Under.modStep (hs : Under Q s) (j : Nat) (f : StepRun → StepRun) : Under Q (s.modStep j f) :=
  hs.modJob _ _

theorem Under.raiseAt (hs : Under Q s) (time : W64) (e : Ev) : Under Q (s.raiseAt time e) :=
  ⟨hs.stable, hs.stable.raise _ _ _ hs.holds⟩

theorem Under.raise (hs : Under Q s) (e : Ev) : Under Q (s.raise e) :=
  ⟨hs.stable, hs.stable.raise _ _ _ hs.holds⟩

theorem Under.perfOvf (hs : Under Q s) (lost : Bool) (kind part off : Nat) : Under Q (s.perfOvf lost kind part off) :=
  .ite (hs.raise _) hs

theorem Under.modCnt (hs : Under Q s) (n : Fin 16) (f : ReachCnt → ReachCnt) : Under Q (s.modCnt n f) :=
  hs.modReach _ _

theorem Under.countCvt (hs : Under Q s) (r : Res) (clamps nars : Nat) : Under Q (s.countCvt r clamps nars) := by
  unfold State.countCvt
  split
  · exact hs.modCnt _ _
  · exact hs.modNmu _ _

theorem Under.countRange (hs : Under Q s) (r : Res) (k : Nat) : Under Q (s.countRange r k) := by
  unfold State.countRange
  split
  · exact hs.modCnt _ _
  · exact hs

theorem Under.countLimit (hs : Under Q s) (r : Res) (k : Nat) : Under Q (s.countLimit r k) := by
  unfold State.countLimit
  split
  · exact hs.modCnt _ _
  · exact hs

theorem Under.countNmu (hs : Under Q s) (d : Fin 4) (k : Nat) : Under Q (s.countNmu d k) :=
  .ite hs ((hs.modNmu _ _).perfOvf _ _ _ _)

theorem Under.countPerf (hs : Under Q s) (n : Fin 16) (k off : Nat) (get : ReachPerf → Perf) (set : ReachPerf → Perf → ReachPerf) :
    Under Q (s.countPerf n k off get set) :=
  .ite hs ((hs.modReach _ _).perfOvf _ _ _ _)

theorem Under.countStall (hs : Under Q s) (n : Fin 16) (k : Stall) (least : Nat) : Under Q (s.countStall n k least) := by
  unfold State.countStall
  split <;> exact (hs.countPerf _ _ _ _ _).bump

theorem Under.llcLine (hs : Under Q s) (alloc : Bool) (line : Nat) : Under Q (State.llcLine alloc s line) :=
  .ite hs (by
    split
    · exact hs
    · exact .ite (.ite hs (hs.modMdie _ _)) ((((Under.ite hs (hs.modMdie _ _)).modMdie _ _).perfOvf _ _ _ _).perfOvf _ _ _ _))

theorem Under.llc (hs : Under Q s) (a n : Nat) (alloc : Bool) : Under Q (s.llc a n alloc) :=
  hs.foldl fun _ _ h1 => h1.llcLine _ _

theorem Under.settleLine (hs : Under Q s) (line : Nat) : Under Q (s.settleLine line) :=
  .ite hs hs.upd

theorem Under.rewritten (hs : Under Q s) (line : Nat) : Under Q (s.rewritten line) :=
  .ite (.ite (hs.foldl fun _ _ h1 => h1.modMdie _ _) ((hs.foldl fun _ _ h1 => h1.modMdie _ _).raise _)) hs

theorem Under.writeLine (hs : Under Q s) (a : Nat) (bs : List Byte) (poison : Bool) : Under Q (s.writeLine a bs poison) := by
  unfold State.writeLine
  exact .ite ((Under.upd (.ite hs (hs.settleLine _))).rewritten _) (Under.upd (.ite hs (hs.settleLine _)))

theorem Under.writeGo (h : Under Q s) (a : Nat) (bs : List Byte) (poison : Bool) (fuel : Nat) :
    Under Q (s.writeGo a bs poison fuel) := by
  induction fuel generalizing s a bs with
  | zero => exact h
  | succ f ih => exact .ite h (ih (h.writeLine _ _ _) _ _)

theorem Under.write (h : Under Q s) (a : Nat) (bs : List Byte) (poison : Bool) : Under Q (s.write a bs poison) := h.writeGo _ _ _ _

theorem Under.writeNat (hs : Under Q s) (a n a1 : Nat) (poison : Bool) : Under Q (s.writeNat a n a1 poison) :=
  hs.write _ _ _

theorem Under.writeRecord (hs : Under Q s) (r : ComplRec) : Under Q (s.writeRecord r) :=
  ⟨hs.stable, hs.stable.tail _ _ hs.holds⟩

theorem Under.msix (hs : Under Q s) (v : Nat) : Under Q (s.msix v) :=
  .ite hs (.ite hs.upd (.ite (hs.send _) hs))

theorem Under.dueVec (hs : Under Q s) (v j : Nat) : Under Q (s.dueVec v j) :=
  .ite (hs.msix _) hs.upd

theorem Under.dueVector (hs : Under Q s) (e j : Nat) : Under Q (s.dueVector e j) :=
  .ite (hs.dueVec _ _) hs

theorem Under.post (hs : Under Q s) (r : ComplRec) : Under Q (s.post r) :=
  .ite ((hs.dueVector _ _).writeRecord _) (.ite ((hs.dueVector _ _).upd) ((hs.dueVector _ _).raise _))

theorem Under.postAll (hs : Under Q s) (j : Nat) (e : JobE) (a1 : StepRun) (status : Nat) (event : W16) : Under Q (s.postAll j e a1
    status event) := by
  unfold State.postAll
  split
  · exact hs.post _
  · exact hs.foldl fun _ _ h1 => h1.post _

theorem Under.endStopped (hs : Under Q s) (j : Nat) : Under Q (s.endStopped j) := by
  unfold State.endStopped
  split
  · exact .ite hs (Under.modJob (by
    split
    · exact hs.postAll _ _ _ _ _
    · exact hs.postAll _ _ _ _ _
    · exact hs.postAll _ _ _ _ _
    · exact hs) _ _)
  · exact hs

theorem Under.stopStep (hs : Under Q s) (j : Nat) (w : StepEnd) : Under Q (s.stopStep j w) :=
  hs.modStep _ _

theorem Under.stopUnit (hs : Under Q s) (r : Res) : Under Q (s.stopUnit r) := by
  unfold State.stopUnit
  split
  · exact (hs.modU _ _).modReach _ _
  · exact hs.modU _ _

theorem Under.failOn (hs : Under Q s) (r : Res) (e : Ev) : Under Q (s.failOn r e) :=
  (((hs.raise _).stopUnit _).stopStep _ _).endStopped _

theorem Under.notePoison (hs : Under Q s) (j a n : Nat) : Under Q (s.notePoison j a n) := by
  unfold State.notePoison
  split
  · exact hs.modStep _ _
  · exact hs

theorem Under.consumePoison (hs : Under Q s) (r : Res) : Under Q (s.consumePoison r) := by
  unfold State.consumePoison
  dsimp only
  split
  · exact .ite ((hs.stopUnit _).endStopped _) (hs.failOn _ _)
  · exact hs.failOn _ _

theorem Under.postOk (hs : Under Q s) (j : Nat) (e : JobE) (a1 : StepRun) : Under Q (s.postOk j e a1) := by
  unfold State.postOk
  split
  · exact hs.post _
  · exact hs.foldlFst fun _ _ h1 => h1.post _

theorem Under.failStep (hs : Under Q s) (j : Nat) (ev : Ev) : Under Q (s.failStep j ev) :=
  ((hs.raise _).stopStep _ _).endStopped _

theorem Under.tryPost (hs : Under Q s) (j : Nat) : Under Q (s.tryPost j) := by
  unfold State.tryPost
  split
  · exact .ite (hs.endStopped _) (.ite hs (.ite (Under.failStep (by
    split
    · exact hs.foldl fun _ _ h1 => h1.notePoison _ _ _
    · exact hs) _ _) ((hs.postOk _ _ _).modStep _ _)))
  · exact hs

theorem Under.stepEnd (hs : Under Q s) (j k : Nat) : Under Q (s.stepEnd j k) :=
  (hs.modStep _ _).tryPost _

theorem Under.touch (hs : Under Q s) (r : Res) (a n : Nat) : Under Q (s.touch r a n) :=
  .ite (((hs.notePoison _ _ _).llc _ _ _).bump) (hs.notePoison _ _ _)

theorem Under.failAt (hs : Under Q s) (r : Res) (code d0 d1 d2 : Nat) (d3 : Nat) : Under Q (s.failAt r code d0 d1 d2 d3) :=
  hs.failOn _ _

theorem Under.retire (hs : Under Q s) (r : Res) : Under Q (s.retire r) :=
  .ite hs (.ite (hs.modU _ _) (hs.failAt _ _ _ _ _ _))

theorem Under.trapEvent (hs : Under Q s) (r : Res) (t : TrapRep) : Under Q (s.trapEvent r t) := by
  unfold State.trapEvent
  split
  · exact hs
  · exact .ite hs (.ite (((((hs.modU _ _).modJob _ _).stopUnit _).stopStep _ _).endStopped _) ((hs.modU _ _).modJob _ _))

theorem Under.trapIf (hs : Under Q s) (r : Res) (t : Option TrapRep) : Under Q (s.trapIf r t) := by
  unfold State.trapIf
  split
  · exact hs.trapEvent _ _
  · exact hs

theorem Under.issueBarge (hs : Under Q s) (n : Fin 16) (t : Nat) (desc : List Byte) : Under Q (s.issueBarge n t desc) :=
  .dite (fun _ => hs.modReach _ _) fun _ => hs

theorem Under.settle (hs : Under Q s) (r : Res) : Under Q (s.settle r) := by
  unfold State.settle
  dsimp only
  split
  · exact hs
  · exact .ite (((hs.touch _ _ _).modU _ _).retire _) hs
  · split
    · exact .ite (((hs.modReach _ _).modU _ _).retire _) hs
    · exact hs
  · exact .ite ((hs.modU _ _).retire _) hs
  · split
    · exact .ite hs (((hs.issueBarge _ _ _).modU _ _).retire _)
    · exact hs
  · exact .ite hs (((hs.modU _ _).modU _ _).retire _)
  · exact .ite (hs.modU _ _) hs
  · exact .ite ((hs.modU _ _).stepEnd _ _) hs

theorem Under.modWs (hs : Under Q s) (n : Fin 16) (k : Nat) (f : WStore → WStore) : Under Q (s.modWs n k f) :=
  .dite (fun _ => hs.modReach _ _) fun _ => hs

theorem Under.land (hs : Under Q s) (n : Fin 16) (u : Upd) : Under Q (s.land n u).1 := by
  unfold State.land
  dsimp only
  split
  · dsimp only
    exact hs.countRange _ _
  · dsimp only
    exact (((hs.modReach _ _).countRange _ _).countLimit _ _).modCnt _ _

theorem Under.landCycle (h : Under Q s) (n : Fin 16) (c : List Upd) : Under Q (s.landCycle n c).1 := by
  unfold State.landCycle
  refine Under.foldlFst (p := (s, [])) h fun _ _ hq => ?_
  exact hq.land _ _

theorem Under.landAll (h : Under Q s) (n : Fin 16) (cs : List (List Upd)) : Under Q (s.landAll n cs) := by
  induction cs generalizing s with
  | nil => exact h.modReach _ _
  | cons c cs ih => exact ih ((h.landCycle n c).trapIf _ _)

theorem Under.saveUnit (hs : Under Q s) (r : Res) : Under Q (s.saveUnit r) := by
  unfold State.saveUnit
  dsimp only
  split
  · exact .ite (hs.modJob _ _) hs
  · exact hs

theorem Under.clearUnit (hs : Under Q s) (r : Res) : Under Q (s.clearUnit r) := by
  unfold State.clearUnit
  split
  · exact (hs.saveUnit _).modReach _ _
  · exact (hs.saveUnit _).modU _ _

theorem Under.passUnit (hs : Under Q s) (r : Res) : Under Q (s.passUnit r) := by
  unfold State.passUnit
  split
  · exact .ite ((hs.modReach _ _).clearUnit _) ((hs.modReach _ _).modReach _ _)
  · exact hs.clearUnit _

theorem Under.completeTiles (hs : Under Q s) (n : Fin 16) : Under Q (s.completeTiles n) := by
  unfold State.completeTiles
  dsimp only
  split
  · exact ((hs.landAll _ _).modWs _ _ _).modReach _ _
  · exact hs.landAll _ _

theorem Under.completeWork (hs : Under Q s) (a1 : Res) : Under Q (s.completeWork a1) := by
  unfold State.completeWork
  split
  · exact hs.completeTiles _
  · exact hs

theorem Under.overrun (hs : Under Q s) (r : Res) : Under Q (s.overrun r) :=
  .ite hs (by
    split
    · exact .ite ((hs.stopUnit _).endStopped _) (.ite (hs.modU _ _) ((hs.modU _ _).upd))
    · exact hs.stopUnit _)

theorem Under.gatherTaper (hs : Under Q s) (n : Fin 16) : Under Q (s.gatherTaper n) := by
  unfold State.gatherTaper
  dsimp only
  split
  · exact .ite ((hs.modReach _ _).modStep _ _) (hs.modReach _ _)
  · exact hs.modReach _ _

theorem Under.endSlot (hs : Under Q s) (r : Res) (t : Nat) : Under Q (s.endSlot r t) := by
  unfold State.endSlot
  split
  · exact hs
  · exact .ite ((Under.modU (by
    split
    · exact .ite ((((Under.ite (hs.countStall _ _ _) hs).completeWork _).overrun _).gatherTaper _) (((Under.ite (hs.countStall _ _ _)
        hs).completeWork _).overrun _)
    · exact (hs.completeWork _).overrun _) _ _).passUnit _) (Under.modU (by
    split
    · exact .ite ((((Under.ite (hs.countStall _ _ _) hs).completeWork _).overrun _).gatherTaper _) (((Under.ite (hs.countStall _ _ _)
        hs).completeWork _).overrun _)
    · exact (hs.completeWork _).overrun _) _ _)

theorem Under.restore (hs : Under Q s) (r : Res) (j : Nat) : Under Q (s.restore r j) := by
  unfold State.restore
  split
  · exact Under.modJob (by
    split
    · exact (hs.modU _ _).modReach _ _
    · exact (hs.modU _ _).modNmu _ _) _ _
  · exact hs

theorem Under.markBegun (hs : Under Q s) (j k : Nat) : Under Q (s.markBegun j k) :=
  hs.modStep _ _

theorem Under.startReach (hs : Under Q s) (n : Fin 16) (a : ActSlot) (e : JobE) (a1 : StepRun) : Under Q (s.startReach n a e a1) := by
  unfold State.startReach
  dsimp only
  split
  · exact ((hs.modReach _ _).markBegun _ _).stepEnd _ _
  · exact .ite ((((hs.modReach _ _).write _ _ _).modU _ _).restore _ _) (((((hs.modReach _ _).write _ _ _).modU _ _).modReach _ _).markBegun
      _ _)

theorem Under.startNmu (h : Under Q s) (d : Fin 4) (a : ActSlot) (e : JobE) (x : StepRun) : Under Q (s.startNmu d a e x) := by
  unfold State.startNmu
  extract_lets +onlyGivenNames j k blk img
  clear_value img
  split
  · exact (h.markBegun _ _).stepEnd _ _
  · extract_lets +onlyGivenNames run s1
    have h1 : Under Q s1 := h.modNmu _ _
    refine .ite (h1.restore _ _) ?_
    extract_lets +onlyGivenNames s2 s3 ws
    have h3 : Under Q s3 := (((h1.modNmu _ _).llc _ _ _).bump.notePoison _ _ _).markBegun _ _
    exact .ite (h3.failOn _ _) (.ite (((h3.modNmu _ _).modNmu _ _).stepEnd _ _) (h3.modNmu _ _))

theorem Under.tryStart (hs : Under Q s) (r : Res) : Under Q (s.tryStart r) := by
  unfold State.tryStart
  dsimp only
  split
  · exact hs
  · exact .ite hs (by
    split
    · exact .ite hs (by
    split
    · exact .ite (.ite hs (hs.passUnit _)) ((Under.ite hs (hs.passUnit _)).startReach _ _ _ _)
    · exact (Under.ite hs (hs.passUnit _)).startNmu _ _ _ _)
    · exact hs)

theorem Under.startSlot (hs : Under Q s) (p : SlotE × Bool) (t : Nat) (r : Res) : Under Q (s.startSlot p t r) :=
  .ite (Under.passUnit (by
    split
    · exact (hs.modU _ _).modReach _ _
    · exact hs.modU _ _) _) ((hs.modU _ _).tryStart _)

theorem Under.lateStart (hs : Under Q s) (n : Fin 16) : Under Q (s.lateStart n) :=
  .ite hs (.ite (.ite (hs.clearUnit _) hs) (((Under.ite (hs.clearUnit _) hs).modReach _ _).tryStart _))

theorem Under.modRing (hs : Under Q s) (r : Nat) (f : InRing → InRing) : Under Q (s.modRing r f) :=
  hs.upd

theorem Under.takeRing (hs : Under Q s) (j : Nat) (e : JobE) (r room : Nat) : Under Q (s.takeRing j e r room).1 := by
  unfold State.takeRing
  dsimp only
  split
  · exact hs
  · split
    · dsimp only
      exact hs.modRing _ _
    · split
      · exact (hs.modRing _ _).raise _
      · dsimp only
        exact (hs.modRing _ _).modRing _ _

theorem Under.takeRings (h : Under Q s) (j : Nat) (e : JobE) (rings : List Nat) (room : Nat) : Under Q (s.takeRings j e rings room).1
    := by
  induction rings generalizing s room with
  | nil => exact h
  | cons r rs ih =>
    unfold State.takeRings
    split
    · exact h
    · exact ih (h.takeRing _ _ _ _) _

theorem Under.postStale (hs : Under Q s) (j : Nat) (e : JobE) (no : W64) (d : Taken) : Under Q (s.postStale j e no d) :=
  hs.upd.post _

theorem Under.writeArgs (hs : Under Q s) (j : Nat) (e : JobE) (a1 : StepRun) (n : Nat) : Under Q (s.writeArgs j e a1 n) :=
  ((hs.write _ _ _).foldl fun _ _ h1 => h1.write _ _ _).write _ _ _

theorem Under.writeAllArgs (hs : Under Q s) (j : Nat) (e : JobE) (a1 : StepRun) : Under Q (s.writeAllArgs j e a1) :=
  hs.foldl fun _ _ h1 => h1.writeArgs _ _ _ _

theorem Under.releaseStep (hs : Under Q s) (j : Nat) (e : JobE) : Under Q (s.releaseStep j e) :=
  .ite ((hs.takeRings _ _ _ _).foldl fun _ _ h1 => h1.postStale _ _ _ _) ((((hs.takeRings _ _ _ _).foldl fun _ _ h1 => h1.postStale _ _ _
    _).modJob _ _).writeAllArgs _ _ _)

theorem Under.releaseSlot (hs : Under Q s) (j : Nat) : Under Q (s.releaseSlot j) := by
  unfold State.releaseSlot
  split
  · exact hs
  · split
    · exact .ite hs (.ite ((hs.modStep _ _).failStep _ _) (hs.modStep _ _))
    · exact .ite hs (hs.releaseStep _ _)

theorem Under.commit (hs : Under Q s) (j t : Nat) : Under Q (s.commit j t) := by
  unfold State.commit
  split
  · exact .ite ((Under.ite (hs.write _ _ _) hs).modJob _ _) hs
  · exact hs

theorem Under.endSteps (hs : Under Q s) (pick : State → Nat → Bool) (w : StepEnd) : Under Q (s.endSteps pick w) :=
  hs.foldl fun _ _ h1 => (h1.stopStep _ _).endStopped _

theorem Under.haltUnits (hs : Under Q s) : Under Q s.haltUnits :=
  hs.foldl fun _ _ h1 => (by
    split
    · exact .ite (h1.stopUnit _) h1
    · exact h1)

theorem Under.haltSteps (hs : Under Q s) (w : StepEnd) : Under Q (s.haltSteps w) :=
  ((hs.foldl fun _ _ h1 => h1.stopStep _ _).haltUnits).foldl fun _ _ h1 => h1.endStopped _

theorem Under.narTrap (hs : Under Q s) (j : Nat) : Under Q (s.narTrap j) := by
  unfold State.narTrap
  dsimp only
  split
  · exact .ite ((((hs.raiseAt _ _).upd.modJob _ _).foldl fun _ _ h1 => .ite (by
    split
    · exact h1.stopUnit _
    · exact h1) h1).endStopped _) ((hs.raiseAt _ _).upd.modJob _ _)
  · exact hs

theorem Under.trapRequests (hs : Under Q s) (j : Nat) : Under Q (s.trapRequests j) := by
  unfold State.trapRequests
  split
  · exact hs.modJob _ _
  · exact hs

theorem Under.failJob (hs : Under Q s) (j ev : Nat) : Under Q (s.failJob j ev) :=
  (hs.stopStep _ _).endStopped _

theorem Under.endReachBarge (hs : Under Q s) (n : Fin 16) (t : Fin 16) (code : W16) : Under Q (s.endReachBarge n t code) :=
  ((hs.modReach _ _).settle _).lateStart _

end Sys2Proof.Machine.UnitWork

end UnitWorkRules

/-! PROOF. A flow that fails (14 R470), and a port that goes down (14 R457): what of the coupling block stays. -/

namespace Sys2Proof.Machine.FailedFlows

open SentFrames UnitWork

variable {s t u : State}

/-! ### Work of units beside the coupling block -/

/-- Of the coupling block at most the error records on their way to a manager and the reads in progress have changed. -/
def Aloof (s t : State) : Prop := ∃ f r, t.cpl = { s.cpl with fwd := f, reads := r }

theorem aloof_stable (s : State) : Stable (Aloof s) where
  keep := by
    intro t u h k
    obtain ⟨f, r, h⟩ := h
    exact ⟨f, r, k.cpl.trans h⟩
  raise := by
    intro t time e h
    obtain ⟨f, r, h⟩ := h
    exact ⟨_, r, congrArg (fun c : Cpl => { c with fwd := (t.raiseAt time e).cpl.fwd }) h⟩
  tail := fun _ _ h => h

theorem aloof_refl : Under (Aloof s) s := ⟨aloof_stable s, _, _, rfl⟩

theorem aloof_reads {f : List RemRead} (h : Under (Aloof s) t) : Under (Aloof s) { t with cpl := { t.cpl with reads := f } } := by
  obtain ⟨hStable, a, b, h⟩ := h
  exact ⟨hStable, a, f, congrArg (fun c : Cpl => { c with reads := f }) h⟩

theorem aloof_endRead (h : Under (Aloof s) t) (r : RemRead) (code : W16) : Under (Aloof s) (t.endRead r code) := by
  unfold State.endRead
  split
  · exact h
  · exact .ite (aloof_reads h) (.dite (fun _ => (aloof_reads (aloof_reads h)).endReachBarge _ _ _) fun _ => aloof_reads (aloof_reads h))

/-! ### A flow fails -/

/-- A flow that fails has lost its frames. -/
def failing (s : State) (p n : Nat) (left : List TxFrame) (lost : W32) : State :=
  let v := s.modFlow p n fun f => { f with unacked := left, failed := true }
  { v with cpl := { v.cpl with lost } }

/-- Control frames that go again on the next port for them. -/
def resent (n : Nat) (ctrl : List TxFrame) (v : State) : List Nat → State
  | q :: _ => ctrl.foldl (fun (s : State) x => s.sendFrame q n x.ftype x.aux x.ctx x.job x.payload) v
  | [] => v

theorem resent_talks (n : Nat) (ctrl : List TxFrame) (ports : List Nat) : Talks s (resent n ctrl s ports) := by
  cases ports with
  | nil => exact .refl
  | cons q qs => exact Talks.foldl (fun _ _ => sendFrame_talks _ _ _ _ _ _ _ _) _ _

theorem flowFail_after (p n : Nat) : ∃ left lost v, Under (Aloof (failing s p n left lost)) v ∧ Talks v (s.flowFail p n) := by
  unfold State.flowFail
  extract_lets f owners owners' ctrl next v0 c v1 v2 reads v3
  refine ⟨if next.isEmpty then ctrl else [], stick32 v0.cpl.lost (max 1 owners'.length), v3, ?_, ?_⟩
  · have h1 : Under (Aloof v1) v1 := aloof_refl
    have h2 : Under (Aloof v1) v2 := h1.foldl fun _ _ h => (h.raise _).failJob _ _
    exact h2.foldl fun _ _ h => aloof_endRead h _ _
  · exact resent_talks n ctrl next

/-- Link keys but for their uses, and the ports, are as they were. -/
structure Holds (s t : State) : Prop where
  keys   : SameKeys s t
  ports  : t.cpl.pcs = s.cpl.pcs ∧ t.cpl.uncorr = s.cpl.uncorr

theorem Holds.refl : Holds s s := ⟨rfl, rfl, rfl⟩

theorem Holds.trans (h : Holds s t) (k : Holds t u) : Holds s u :=
  ⟨k.keys.trans h.keys, k.ports.1.trans h.ports.1, k.ports.2.trans h.ports.2⟩

theorem Holds.foldl {α : Type} {f : State → α → State} (h : ∀ t x, Holds t (f t x)) (l : List α) : ∀ s : State, Holds s (l.foldl f s) := by
  induction l with
  | nil => exact fun _ => .refl
  | cons x l ih => exact fun s => (h s x).trans (ih _)

theorem aloof_holds (h : Under (Aloof s) t) : Holds s t := by
  obtain ⟨-, f, r, h⟩ := h
  exact ⟨by rw [SameKeys, h], by rw [h], by rw [h]⟩

theorem talks_holds (h : Talks s t) : Holds s t := ⟨h.keys, by rw [h.cpl], by rw [h.cpl]⟩

theorem flowFail_fails (p n : Nat) : Holds s (s.flowFail p n) ∧ ((s.flowFail p n).cpl.flow p n).failed = true := by
  obtain ⟨left, lost, v, hAloof, hTalks⟩ := flowFail_after (s := s) p n
  have hStart : Holds s (failing s p n left lost) := ⟨rfl, rfl, rfl⟩
  refine ⟨(hStart.trans (aloof_holds hAloof)).trans (talks_holds hTalks), ?_⟩
  obtain ⟨w, l, hFlow⟩ := hTalks.flow p n
  rw [hFlow]
  obtain ⟨-, f, r, hCpl⟩ := hAloof
  have hSame : v.cpl.flow p n = (failing s p n left lost).cpl.flow p n := by
    rw [hCpl]
    rfl
  have hFailed : (failing s p n left lost).cpl.flow p n = { s.cpl.flow p n with unacked := left, failed := true } :=
    flow_modFlow_same (s := s) p n fun f => { f with unacked := left, failed := true }
  dsimp only
  rw [hSame, hFailed]

/-! ### A port's state changes -/

theorem raise_holds (e : Ev) : Holds s (s.raise e) := ⟨rfl, rfl, rfl⟩

theorem portEdges_holds (old : BitVec 8) : Holds s (s.portEdges old) := by
  unfold State.portEdges
  refine Holds.foldl (fun v p => ?_) _ _
  split
  · unfold State.portDown
    exact (raise_holds _).trans (Holds.foldl (fun _ e => (flowFail_fails _ _).1) _ _)
  · split
    · exact raise_holds _
    · exact .refl

end Sys2Proof.Machine.FailedFlows

/-! PROOF. Link keys (15 R513, R514, R516). -/

namespace Sys2Proof.Machine.LinkKeys

open SentFrames FailedFlows

variable {s t u : State}

/-! ### KEYX frames -/

theorem receiveKex_turn {x : RxFrame} {step : Nat} (act : State → State) (hTurn : InTurn s x 13) (hLen : x.payload.length = 164)
    (hStep : payNat x.payload 0 1 = step) (hKey : payNat x.payload 1 1 ≠ 0) :
    s.receiveKex x step act = (act (turned s x)).sendPlain x.port x.src.toNat 4 [] := by
  have hForm : (x.payload.length == 164 && payNat x.payload 0 1 == step && payNat x.payload 1 1 != 0) = true := by
    rw [hLen, hStep]
    simpa using hKey
  unfold State.receiveKex
  rw [hForm]
  exact receive_turn act hTurn (by decide) (by decide)

section
variable {x : RxFrame} {k : W32} (h : Takes k x s t)
include h

theorem canKey_kept : t.canKey = s.canKey := by
  obtain ⟨o, d, ks, fl, uc, rfl⟩ := h.exists
  rfl

theorem staticOk_kept (static : List Byte) : t.staticOk x static = s.staticOk x static := by
  obtain ⟨o, d, ks, fl, uc, rfl⟩ := h.exists
  rfl

theorem kex_kept : t.cpl.kex = s.cpl.kex := by
  obtain ⟨o, d, ks, fl, uc, rfl⟩ := h.exists
  rfl

end

/-- An exchange with a node stands in the place of an earlier one. -/
theorem mem_exchanged (q : Kex) (l : List Kex) : q ∈ (l.filter fun k => k.node != q.node) ++ [q] := by simp

/-! ### Keys in force -/

/-- The state in which a key with a node has come into force. -/
def keyed (s : State) (n keyid : Nat) : State :=
  s.modCpl fun c => { c with
    keys := (c.keys.filter fun q => q.node != n) ++ [{ node := n, keyid, prev := (s.cpl.key n).map (·.keyid), since := s.time }]
    kex := c.kex.filter fun q => q.node != n }

theorem keyed_key (n keyid : Nat) : (keyed s n keyid).cpl.key n =
    some { node := n, keyid, prev := (s.cpl.key n).map (·.keyid), since := s.time } := by
  simp only [keyed, State.modCpl, Cpl.key, List.find?_append]
  rw [List.find?_eq_none.mpr fun k hk => by simpa using (List.mem_filter.mp hk).2]
  simp

theorem installKey_emits (n keyid : Nat) : Emits (keyed s n keyid) (s.installKey n keyid) := by
  have hEq : s.installKey n keyid = if (s.cpl.key n).isNone then (keyed s n keyid).unstall n else keyed s n keyid := rfl
  rw [hEq]
  split
  · unfold State.unstall
    refine Emits.foldl (fun v e => ?_) _ _
    split
    · exact Emits.foldl (fun _ _ => emitFrame_emits _ _ _) _ _
    · exact .refl
  · exact .refl

/-- The key of a node is the one named, and the one before it stays acceptable. -/
def InForce (s t : State) (n keyid : Nat) : Prop :=
  (t.cpl.key n).map (fun k => (k.keyid, k.prev)) = some (keyid, (s.cpl.key n).map (·.keyid)) ∧ (∀ q ∈ t.cpl.kex, q.node ≠ n) ∧ UnitsKept s t

theorem installKey_inForce (n keyid : Nat) : InForce s (s.installKey n keyid) n keyid := by
  have hEmits := installKey_emits (s := s) n keyid
  refine ⟨?_, ?_, units_trans (t := keyed s n keyid) ⟨rfl, rfl, rfl, rfl, rfl⟩ hEmits.talks.units⟩
  · rw [hEmits.keys.find n (fun _ => rfl), keyed_key]
    rfl
  · rw [show (s.installKey n keyid).cpl.kex = (keyed s n keyid).cpl.kex by rw [hEmits.rest]]
    intro q hq
    simpa using (List.mem_filter.mp hq).2

theorem InForce.of_before {n keyid : Nat} (h : InForce t u n keyid) (hKeys : SameKeys s t) (hUnits : UnitsKept s t) : InForce s u n keyid := by
  obtain ⟨hKey, hKex, kUnits⟩ := h
  rw [hKeys.find n (fun _ => rfl)] at hKey
  exact ⟨hKey, hKex, units_trans hUnits kUnits⟩

theorem InForce.emits {n keyid : Nat} (h : InForce s t n keyid) (k : Emits t u) : InForce s u n keyid := by
  obtain ⟨hKey, hKex, hUnits⟩ := h
  refine ⟨(k.keys.find n (fun _ => rfl)).trans hKey, ?_, units_trans hUnits k.talks.units⟩
  rw [show u.cpl.kex = t.cpl.kex by rw [k.rest]]
  exact hKex

/-! ### What the frames of an exchange do -/

/-- The exchange that an OFFER begins. -/
def answered (s : State) (x : RxFrame) : Kex :=
  { node := x.src.toNat, keyid := payNat x.payload 1 1, offered := false, draw := s.sec.draws
    static := (x.payload.drop 4).take 64, ephem := (x.payload.drop 68).take 64 }

/-- The state in which an OFFER has begun an exchange. -/
def answering (s : State) (x : RxFrame) : State :=
  s.draw.modCpl fun c => { c with kex := (c.kex.filter fun k => k.node != (answered s x).node) ++ [answered s x] }

section
variable {x : RxFrame} (hTurn : InTurn s x 13) (hLen : x.payload.length = 164) (hKey : payNat x.payload 1 1 ≠ 0)
include hTurn hLen hKey

theorem offer_gives (hStep : payNat x.payload 0 1 = 1) (hId : s.sec.idOk = true) (hRng : s.sec.rngOk = true) :
    (s.staticOk x ((x.payload.drop 4).take 64) = true → Gives (.offer x) s fun t =>
      (∃ q ∈ t.cpl.kex, q.node = x.src.toNat ∧ q.keyid = payNat x.payload 1 1 ∧ q.offered = false ∧ q.static = (x.payload.drop 4).take 64) ∧
        UnitsKept s t) ∧
    (s.staticOk x ((x.payload.drop 4).take 64) = false → Gives (.offer x) s fun t => (∀ q ∈ t.cpl.kex, q.node ≠ x.src.toNat) ∧
      Raised s t 0x060A 0xFFFF (srcOf s 5 x.port)) := by
  have hTakes := turned_takes (s := s) x
  have hCan : (turned s x).canKey = true := by
    rw [canKey_kept hTakes, State.canKey, hId, hRng]
    rfl
  have hStatic := staticOk_kept hTakes ((x.payload.drop 4).take 64)
  have hExec : ∃ b, exec (.offer x) s = .next ((if !(turned s x).canKey then turned s x
      else if !(turned s x).staticOk x ((x.payload.drop 4).take 64) then (turned s x).peerBad x
      else (answering (turned s x) x).sendCtrl x.src.toNat 13 0 b).sendPlain x.port x.src.toNat 4 []) :=
    ⟨_, congrArg Host.Outcome.next (receiveKex_turn _ hTurn hLen hStep hKey)⟩
  obtain ⟨b, hExec⟩ := hExec
  rw [hCan, Bool.not_true, if_neg (by decide), hStatic] at hExec
  refine ⟨fun hOk => ?_, fun hBad => ?_⟩
  · rw [hOk, Bool.not_true, if_neg (by decide)] at hExec
    have hTalks := (sendCtrl_talks (s := answering (turned s x) x) x.src.toNat 13 0 b).trans
      (sendPlain_emits x.port x.src.toNat 4 []).talks
    refine ⟨_, hExec, ⟨answered (turned s x) x, ?_, rfl, rfl, rfl, rfl⟩,
      units_trans hTakes.units (units_trans (t := answering (turned s x) x) ⟨rfl, rfl, rfl, rfl, rfl⟩ hTalks.units)⟩
    rw [hTalks.cpl]
    exact mem_exchanged _ _
  · rw [hBad, Bool.not_false, if_pos rfl] at hExec
    have hEmits := sendPlain_emits (s := (turned s x).peerBad x) x.port x.src.toNat 4 []
    have hNode : (turned s x).cpl.node = s.cpl.node := by rw [hTakes.cpl]
    refine ⟨_, hExec, ?_, hEmits.talks.raised_before (hTakes.raised ?_)⟩
    · rw [hEmits.talks.cpl]
      intro q hq
      simpa using (List.mem_filter.mp hq).2
    · rw [srcOf, ← hNode]
      exact Laws.raise_raised (s := (turned s x).modCpl fun c => { c with kex := c.kex.filter fun q => q.node != x.src.toNat })
        { code := 0x060A, kind := 5, part := x.port, addr := x.src.toNat }

theorem answer_gives (hStep : payNat x.payload 0 1 = 2) (hStatic : s.staticOk x ((x.payload.drop 4).take 64) = true) (hOk : x.ok = true)
    (hOffered : ∃ q ∈ s.cpl.kex, q.node = x.src.toNat ∧ q.keyid = payNat x.payload 1 1 ∧ q.offered = true) :
    Gives (.answer x) s fun t => InForce s t x.src.toNat (payNat x.payload 1 1) := by
  have hTakes := turned_takes (s := s) x
  have hSome : ∃ k, (turned s x).cpl.kex.find? (fun (k : Kex) => k.node == x.src.toNat && k.keyid == payNat x.payload 1 1 && k.offered) = some k := by
    rw [kex_kept hTakes, ← Option.isSome_iff_exists, List.find?_isSome]
    obtain ⟨q, hq, hNode, hId, hBegun⟩ := hOffered
    exact ⟨q, hq, by simp [hNode, hId, hBegun]⟩
  obtain ⟨k, hSome⟩ := hSome
  have hExec : exec (.answer x) s = .next ((match (turned s x).cpl.kex.find? fun (k : Kex) =>
        k.node == x.src.toNat && k.keyid == payNat x.payload 1 1 && k.offered with
      | none => turned s x
      | some k =>
        if !(turned s x).staticOk x ((x.payload.drop 4).take 64) then (turned s x).peerBad x
        else if !x.ok then turned s x
        else ((turned s x).sendCtrl x.src.toNat 13 0 (kexPayload 3 (payNat x.payload 1 1) [] []
          (Config.kexCheck k.draw ((x.payload.drop 4).take 64) ((x.payload.drop 68).take 64)))).installKey x.src.toNat
            (payNat x.payload 1 1)).sendPlain x.port x.src.toNat 4 []) :=
    congrArg Host.Outcome.next (receiveKex_turn _ hTurn hLen hStep hKey)
  rw [hSome, staticOk_kept hTakes, hStatic, hOk] at hExec
  have hTalks := sendCtrl_talks (s := turned s x) x.src.toNat 13 0 (kexPayload 3 (payNat x.payload 1 1) [] []
    (Config.kexCheck k.draw ((x.payload.drop 4).take 64) ((x.payload.drop 68).take 64)))
  exact ⟨_, hExec, ((installKey_inForce _ _).of_before (hTalks.keys.trans hTakes.keys) (units_trans hTakes.units hTalks.units)).emits
    (sendPlain_emits _ _ _ _)⟩

theorem confirm_gives (hStep : payNat x.payload 0 1 = 3) (hOk : x.ok = true)
    (hOffered : ∃ q ∈ s.cpl.kex, q.node = x.src.toNat ∧ q.keyid = payNat x.payload 1 1 ∧ q.offered = false) :
    Gives (.confirm x) s fun t => InForce s t x.src.toNat (payNat x.payload 1 1) := by
  have hTakes := turned_takes (s := s) x
  have hAny : ((turned s x).cpl.kex.any fun (k : Kex) => k.node == x.src.toNat && k.keyid == payNat x.payload 1 1 && !k.offered) = true := by
    rw [kex_kept hTakes, List.any_eq_true]
    obtain ⟨q, hq, hNode, hId, hBegun⟩ := hOffered
    exact ⟨q, hq, by simp [hNode, hId, hBegun]⟩
  have hExec : exec (.confirm x) s = .next ((if x.ok && (turned s x).cpl.kex.any fun (k : Kex) =>
        k.node == x.src.toNat && k.keyid == payNat x.payload 1 1 && !k.offered
      then (turned s x).installKey x.src.toNat (payNat x.payload 1 1) else turned s x).sendPlain x.port x.src.toNat 4 []) :=
    congrArg Host.Outcome.next (receiveKex_turn _ hTurn hLen hStep hKey)
  rw [hAny, hOk] at hExec
  exact ⟨_, hExec, ((installKey_inForce _ _).of_before hTakes.keys hTakes.units).emits (sendPlain_emits _ _ _ _)⟩

end

/-! ### Renewal (15 R516) -/

/-- The exchange that an OFFER of this device begins. -/
def offered (s : State) (n keyid : Nat) : Kex := { node := n, keyid, offered := true, draw := s.sec.draws }

/-- The state in which this device has begun an exchange. -/
def offering (s : State) (n keyid : Nat) : State :=
  s.draw.modCpl fun c => { c with kex := (c.kex.filter fun k => k.node != (offered s n keyid).node) ++ [offered s n keyid] }

theorem offerKey_eq {n keyid : Nat} (h : s.canKey = true) : ∃ b, s.offerKey n keyid = (offering s n keyid).sendCtrl n 13 0 b := by
  unfold State.offerKey
  rw [h, Bool.not_true, if_neg (by decide)]
  exact ⟨_, rfl⟩

theorem offerKey_gives {n keyid : Nat} (h : s.canKey = true) : offered s n keyid ∈ (s.offerKey n keyid).cpl.kex ∧ UnitsKept s (s.offerKey n keyid) ∧
    Talks (offering s n keyid) (s.offerKey n keyid) := by
  obtain ⟨b, hEq⟩ := offerKey_eq (n := n) (keyid := keyid) h
  have hTalks := sendCtrl_talks (s := offering s n keyid) n 13 0 b
  rw [hEq]
  refine ⟨?_, units_trans (t := offering s n keyid) ⟨rfl, rfl, rfl, rfl, rfl⟩ hTalks.units, hTalks⟩
  rw [hTalks.cpl]
  exact mem_exchanged _ _

/-- A KEYX frame carries no signature: it takes no draw. -/
theorem sendKex_sec (n : Nat) (b : List Byte) : (s.sendCtrl n 13 0 b).sec = s.sec := by
  unfold State.sendCtrl
  split
  · unfold State.sendFrame
    extract_lets f x v
    split
    · exact emitFrame_unsigned rfl
    · rfl
  · rfl

theorem keyxRetry_gives (hHeld : s.dev.held = false) {n : BitVec 15} (hKex : ∃ q ∈ s.cpl.kex, q.node = n.toNat ∧ q.offered = true)
    (hId : s.sec.idOk = true) (hRng : s.sec.rngOk = true) : Gives (.keyxRetry n) s fun t =>
      t.sec.draws = s.sec.draws + 1 ∧ (∃ q ∈ t.cpl.kex, q.node = n.toNat ∧ q.offered = true ∧ q.draw = s.sec.draws) ∧ UnitsKept s t := by
  have hCan : s.canKey = true := by
    rw [State.canKey, hId, hRng]
    rfl
  have hSome : ∃ k, s.cpl.kex.find? (fun (k : Kex) => k.node == n.toNat && k.offered) = some k := by
    rw [← Option.isSome_iff_exists, List.find?_isSome]
    obtain ⟨q, hq, hNode, hBegun⟩ := hKex
    exact ⟨q, hq, by simp [hNode, hBegun]⟩
  obtain ⟨k, hSome⟩ := hSome
  have hExec : exec (.keyxRetry n) s = .next (s.offerKey n.toNat k.keyid) := by
    change execKeyxRetry n s = _
    rw [execKeyxRetry, hSome, hHeld]
    rfl
  obtain ⟨hMem, hUnits, -⟩ := offerKey_gives (n := n.toNat) (keyid := k.keyid) hCan
  obtain ⟨b, hEq⟩ := offerKey_eq (n := n.toNat) (keyid := k.keyid) hCan
  refine ⟨_, hExec, ?_, ⟨_, hMem, rfl, rfl, rfl⟩, hUnits⟩
  rw [hEq, sendKex_sec]
  rfl

section
variable (hHeld : s.dev.held = false) {n : BitVec 15} {k : LinkKey} (hKey : s.cpl.key n.toNat = some k) (hDead : k.dead = false)
include hHeld hKey hDead

theorem rekey_gives (hNode : s.cpl.node.toNat < n.toNat) (hId : s.sec.idOk = true) (hRng : s.sec.rngOk = true) :
    Gives (.rekeyTimer n false) s fun t => t.sec.rekey = stick32 s.sec.rekey 1 ∧ UnitsKept s t ∧
      ∃ q ∈ t.cpl.kex, q.node = n.toNat ∧ q.offered = true ∧ q.keyid = if 255 ≤ k.keyid then 1 else k.keyid + 1 := by
  have hCan : s.canKey = true := by
    rw [State.canKey, hId, hRng]
    rfl
  have hExec : exec (.rekeyTimer n false) s =
      .next (({ s with sec := { s.sec with rekey := stick32 s.sec.rekey 1 } } : State).offerKey n.toNat (nextKeyid k.keyid)) := by
    change execRekeyTimer n false s = _
    simp only [execRekeyTimer, hKey, hHeld, hDead, hCan]
    rw [if_neg (by decide), if_neg (by decide), if_neg (by simp; omega)]
  obtain ⟨hMem, hUnits, hTalks⟩ := offerKey_gives (s := { s with sec := { s.sec with rekey := stick32 s.sec.rekey 1 } })
    (n := n.toNat) (keyid := nextKeyid k.keyid) hCan
  refine ⟨_, hExec, ?_, hUnits, ⟨_, hMem, rfl, rfl, rfl⟩⟩
  rw [hTalks.rest]
  rfl

/-- The state in which a key with a node is dead. -/
def deadened (s : State) (n : Nat) : State :=
  s.modCpl fun c => { c with keys := c.keys.map fun q => if q.node = n then { q with dead := true } else q }

omit hHeld hDead in
theorem deadened_key : ((deadened s n.toNat).cpl.key n.toNat).map (·.dead) = some true := by
  have hNode : k.node = n.toNat := by simpa using List.find?_some hKey
  have hFind : (deadened s n.toNat).cpl.key n.toNat = (s.cpl.key n.toNat).map fun q => if q.node = n.toNat then { q with dead := true } else q := by
    simp only [deadened, State.modCpl, Cpl.key, List.find?_map]
    refine congrArg (Option.map _) (congrArg (fun f => s.cpl.keys.find? f) (funext fun q => ?_))
    by_cases h : q.node = n.toNat
    · simp [h]
    · simp [h]
  rw [hFind, hKey, Option.map_some, if_pos hNode]
  rfl

theorem limit_gives : Gives (.rekeyTimer n true) s fun t => (t.cpl.key n.toNat).map (·.dead) = some true := by
  have hExec : exec (.rekeyTimer n true) s =
      .next (((deadened s n.toNat).cpl.flows.filter fun e => e.1.2 == n.toNat).foldl (fun (s : State) e => s.flowFail e.1.1 n.toNat)
        ((deadened s n.toNat).raise { code := 0x0606, kind := 5, addr := n.toNat })) := by
    change execRekeyTimer n true s = _
    simp only [execRekeyTimer, hKey, hHeld, hDead]
    rfl
  have hHolds (l : List ((Nat × Nat) × Flow)) := (raise_holds (s := deadened s n.toNat) { code := 0x0606, kind := 5, addr := n.toNat }).trans
    (Holds.foldl (fun _ e => (flowFail_fails e.1.1 n.toNat).1) l _)
  exact ⟨_, hExec, ((hHolds _).keys.find n.toNat fun _ => rfl).trans (deadened_key hKey)⟩

end

theorem oldKeyExpire_gives (n : BitVec 15) : Gives (.oldKeyExpire n) s fun t =>
    (∀ q ∈ t.cpl.keys, q.node = n.toNat → q.prev = none) ∧ t = { s with cpl := { s.cpl with keys := t.cpl.keys } } := by
  refine ⟨_, rfl, fun q hq hNode => ?_, rfl⟩
  obtain ⟨k, -, rfl⟩ := List.mem_map.mp hq
  by_cases h : k.node = n.toNat
  · rw [if_pos h]
  · rw [if_neg h] at hNode
    exact absurd hNode h

/-- Settles O53: a KEYX frame in its turn has its own effect on the state in which it has been taken, where nothing has changed that the
exchange looks at; frames that go out leave the keys but for their uses. -/
theorem linkKeys : Obligations.LinkKeys := by
  unfold Obligations.LinkKeys
  intro x n s hHeld from_ keyid static kex inForce
  refine ⟨?_, ?_, ?_, fun k hKey hDead => ⟨rekey_gives hHeld hKey hDead, limit_gives hHeld hKey hDead⟩, keyxRetry_gives hHeld,
    oldKeyExpire_gives n⟩
  · rintro ⟨hTurn, hLen, hStep, hKey⟩ hId hRng
    exact offer_gives hTurn hLen hKey hStep hId hRng
  · rintro ⟨hTurn, hLen, hStep, hKey⟩ hStatic hOk hOffered
    exact answer_gives hTurn hLen hKey hStep hStatic hOk hOffered
  · rintro ⟨hTurn, hLen, hStep, hKey⟩ hOk hOffered
    exact confirm_gives hTurn hLen hKey hStep hOk hOffered

end Sys2Proof.Machine.LinkKeys

/-! PROOF. Basin time (14 R477, R481 to R483). -/

namespace Sys2Proof.Machine.BasinTime

open SentFrames Lrate

variable {s t u : State} {x : PtpMsg}

/-! ### Exchanges that begin (15 R513) -/

/-- Exchanges have begun: what these and their frames change. -/
def Offers (s t : State) : Prop := ∃ o d kx ks fl, t = { s with
  out := o, sec := { s.sec with draws := d }, cpl := { s.cpl with kex := kx, keys := ks, flows := fl } }

theorem Offers.refl : Offers s s := ⟨_, _, _, _, _, rfl⟩

theorem Offers.trans (h : Offers s t) (k : Offers t u) : Offers s u := by
  obtain ⟨o, d, kx, ks, fl, rfl⟩ := h
  obtain ⟨o', d', kx', ks', fl', rfl⟩ := k
  exact ⟨_, _, _, _, _, rfl⟩

theorem offerKey_offers (n keyid : Nat) : Offers s (s.offerKey n keyid) := by
  cases h : s.canKey with
  | true =>
    obtain ⟨-, -, hTalks⟩ := LinkKeys.offerKey_gives (n := n) (keyid := keyid) h
    obtain ⟨o, d, ks, fl, hEq⟩ := hTalks.exists
    exact ⟨_, _, _, _, _, hEq⟩
  | false =>
    unfold State.offerKey
    rw [h, Bool.not_false, if_pos rfl]
    exact .refl

theorem firstKeys_offers : Offers s s.firstKeys := by
  have hOne (v : State) (m : Nat) : Offers v (if (v.cpl.key (v.nodeOf m)).isNone then v.offerKey (v.nodeOf m) 1 else v) := by
    split
    · exact offerKey_offers _ _
    · exact .refl
  exact (hOne s 0).trans (hOne _ 1)

/-! ### The first Sync (14 R477, R481) -/

/-- A resource has no slot. -/
def idle (s : State) (k : Nat) : State :=
  match resOf k with
  | some r => s.modU r fun u => { u with slot := none }
  | none => s

theorem idle_unit (k : Nat) (r : Res) : ((idle s k).unit r).slot = if resOf k = some r then none else (s.unit r).slot := by
  unfold idle
  cases hRes : resOf k with
  | none => rw [if_neg (by simp)]
  | some q =>
    by_cases h : q = r
    · subst h
      rw [if_pos rfl]
      cases q with
      | reach n => exact congrArg (fun y : Reach => y.u.slot) (Laws.modReach_same s n fun y => { y with u := { y.u with slot := none } })
      | nmu d => exact congrArg (fun y : Nmu => y.u.slot) (Laws.modNmu_same s d fun y => { y with u := { y.u with slot := none } })
    · rw [if_neg (by simpa using h)]
      cases q with
      | reach n =>
        cases r with
        | reach m => exact congrArg (fun y : Reach => y.u.slot) (Laws.modReach_ne s (fun e => h (congrArg Res.reach e.symm)) _)
        | nmu d => rfl
      | nmu d =>
        cases r with
        | reach m => rfl
        | nmu m => exact congrArg (fun y : Nmu => y.u.slot) (Laws.modNmu_ne s (fun e => h (congrArg Res.nmu e.symm)) _)

theorem idles_unit (r : Res) (l : List Nat) : ∀ s : State, (∃ k ∈ l, resOf k = some r) ∨ (s.unit r).slot = none →
    ((l.foldl idle s).unit r).slot = none := by
  induction l with
  | nil =>
    rintro s (⟨k, hk, -⟩ | h)
    · exact absurd hk List.not_mem_nil
    · exact h
  | cons j l ih =>
    rintro s (⟨k, hk, hRes⟩ | h)
    · rcases List.mem_cons.mp hk with rfl | hLater
      · exact ih _ (.inr (by rw [idle_unit, if_pos hRes]))
      · exact ih _ (.inl ⟨k, hLater, hRes⟩)
    · refine ih _ (.inr ?_)
      rw [idle_unit, h, ite_self]

theorem resOf_num (r : Res) : ∃ k ∈ List.range 20, resOf k = some r := by
  cases r with
  | reach n =>
    have hn := n.isLt
    exact ⟨n, List.mem_range.mpr (by omega), dif_pos hn⟩
  | nmu d =>
    have hd := d.isLt
    refine ⟨16 + d, List.mem_range.mpr (by omega), ?_⟩
    unfold resOf
    rw [dif_neg (by omega), dif_pos (by omega)]
    exact congrArg some (congrArg Res.nmu (Fin.ext (by simp)))

theorem foldl_idle_time (l : List Nat) (s : State) : (l.foldl idle s).time = s.time := by
  refine Laws.foldl_keeps (·.time) idle (fun v k => ?_) l s
  unfold idle
  split
  · exact Laws.modU_time _ _ _
  · rfl

theorem setBasinTime_gives (time : W64) : (s.setBasinTime time).time = time ∧ (s.setBasinTime time).cpl.timeSet = true ∧
    ∀ r, ((s.setBasinTime time).unit r).slot = none := by
  have hEq : ∃ (v : State) (l : Lkp) (c : Cpl), s.setBasinTime time =
      { (List.range 20).foldl idle (v.setTime time) with lkp := l, cpl := { c with timeSet := true, slew := 0 } } := ⟨_, _, _, rfl⟩
  obtain ⟨v, l, c, hEq⟩ := hEq
  have hTime := (foldl_idle_time (List.range 20) (v.setTime time)).trans (Scalars.setTime_keeps v time).1
  have hSlots (r : Res) := idles_unit r _ (v.setTime time) (.inl (resOf_num r))
  generalize (List.range 20).foldl idle (v.setTime time) = w at hEq hTime hSlots
  rw [hEq]
  refine ⟨hTime, rfl, fun r => ?_⟩
  cases r with
  | reach n => exact hSlots (.reach n)
  | nmu d => exact hSlots (.nmu d)

/-! ### A later Sync (14 R483) -/

/-- The offset of a Sync is kept, and is slewed away where it is within 1 ms. -/
def measured (s : State) (x : PtpMsg) (off : Int) : State :=
  s.modCpl fun c => { c with
    offset := heldOffset off, lastSync := some (x.time, s.time)
    slew := if (decide (off < -1000000) || decide (1000000 < off)) = true then 0 else -off
    insync := if (decide (-200 ≤ off) && decide (off ≤ 200)) = true then (if c.insync = 255 then 255 else c.insync + 1) else 0 }

/-- The offset that a Sync measures. -/
def offsetOf (s : State) (x : PtpMsg) : Int := (s.time.toNat : Int) - x.time.toNat - s.cpl.delay

theorem exec_sync (h : HearsTime s x) (hState : s.cpl.wstate = .unsync ∨ s.cpl.wstate = .member) :
    exec (.sync x) s = .next (if !s.cpl.timeSet then
        ((s.setBasinTime (BitVec.ofInt 64 (x.time.toNat + s.cpl.delay))).modCpl fun c => { c with
          lastSync := none, offset := 0, insync := 0 }).firstKeys
      else if (decide (offsetOf s x < -1000000) || decide (1000000 < offsetOf s x)) && !s.cpl.acting then
        (measured s x (offsetOf s x)).leave (Config.leftCause 0)
      else if decide (offsetOf s x < -2000) || decide (2000 < offsetOf s x) then (measured s x (offsetOf s x)).unsync
      else if s.cpl.wstate = .unsync && decide (4 ≤ (measured s x (offsetOf s x)).cpl.insync.toNat) then
        (measured s x (offsetOf s x)).resync
      else measured s x (offsetOf s x)) := by
  obtain ⟨hTaken, hMaster, hSlave⟩ := h
  have hOn : (s.cpl.wstate != .unsync && s.cpl.wstate != .member) = false := by
    rcases hState with h | h
    · rw [h]
      rfl
    · rw [h]
      rfl
  change execSync x s = _
  rw [execSync, hTaken, hMaster, hSlave]
  exact congrArg Host.Outcome.next (if_neg (by
    rw [hOn]
    decide))

theorem sync_first (h : HearsTime s x) (hState : s.cpl.wstate = .unsync ∨ s.cpl.wstate = .member) (hSet : s.cpl.timeSet = false) :
    Gives (.sync x) s fun t => t.time = BitVec.ofInt 64 (x.time.toNat + s.cpl.delay) ∧ t.cpl.timeSet = true ∧ t.cpl.offset = 0 ∧
      ∀ r, (t.unit r).slot = none := by
  have hExec := exec_sync h hState
  rw [hSet, Bool.not_false, if_pos rfl] at hExec
  obtain ⟨hTime, hTimeSet, hSlots⟩ := setBasinTime_gives (s := s) (BitVec.ofInt 64 (x.time.toNat + s.cpl.delay))
  generalize s.setBasinTime (BitVec.ofInt 64 (x.time.toNat + s.cpl.delay)) = v at *
  obtain ⟨o, d, kx, ks, fl, hEq⟩ := firstKeys_offers (s := v.modCpl fun c => { c with lastSync := none, offset := 0, insync := 0 })
  rw [hEq] at hExec
  refine ⟨_, hExec, hTime, hTimeSet, rfl, fun r => ?_⟩
  cases r with
  | reach n => exact hSlots (.reach n)
  | nmu d => exact hSlots (.nmu d)

section
variable (h : HearsTime s x) (hSet : s.cpl.timeSet = true)
include h hSet

/-- A Sync near enough leaves the offset as what is slewed away. -/
theorem exec_near (hState : s.cpl.wstate = .unsync ∨ s.cpl.wstate = .member) (hLow : -200 ≤ offsetOf s x) (hHigh : offsetOf s x ≤ 200) :
    exec (.sync x) s = .next (if s.cpl.wstate = .unsync && decide (4 ≤ (measured s x (offsetOf s x)).cpl.insync.toNat) then
        (measured s x (offsetOf s x)).resync else measured s x (offsetOf s x)) := by
  have hGone : (decide (offsetOf s x < -1000000) || decide (1000000 < offsetOf s x)) = false := by
    rw [decide_eq_false (by omega), decide_eq_false (by omega)]
    rfl
  have hFar : (decide (offsetOf s x < -2000) || decide (2000 < offsetOf s x)) = false := by
    rw [decide_eq_false (by omega), decide_eq_false (by omega)]
    rfl
  rw [exec_sync h hState, hSet, hGone, hFar]
  rfl

omit h hSet in
theorem measured_near {off : Int} (hLow : -200 ≤ off) (hHigh : off ≤ 200) : (measured s x off).cpl.offset = BitVec.ofInt 32 off ∧
    (measured s x off).cpl.slew = -off ∧ (measured s x off).cpl.insync = if s.cpl.insync = 255 then 255 else s.cpl.insync + 1 := by
  refine ⟨congrArg (BitVec.ofInt 32) (by omega), if_neg ?_, if_pos ?_⟩
  · rw [decide_eq_false (by omega), decide_eq_false (by omega)]
    decide
  · rw [decide_eq_true hLow, decide_eq_true hHigh]
    rfl

theorem sync_member (hState : s.cpl.wstate = .member) (hLow : -200 ≤ offsetOf s x) (hHigh : offsetOf s x ≤ 200) :
    Gives (.sync x) s fun t => t.cpl.offset = BitVec.ofInt 32 (offsetOf s x) ∧ t.cpl.wstate = .member ∧ t.cpl.slew = -offsetOf s x ∧
      t.cpl.insync = (if s.cpl.insync = 255 then 255 else s.cpl.insync + 1) ∧ t.time = s.time ∧ UnitsKept s t := by
  have hExec := exec_near h hSet (.inr hState) hLow hHigh
  rw [hState] at hExec
  obtain ⟨hOffset, hSlew, hInsync⟩ := measured_near (s := s) (x := x) hLow hHigh
  exact ⟨_, hExec, hOffset, hState, hSlew, hInsync, rfl, rfl, rfl, rfl, rfl, rfl⟩

omit h hSet in
theorem resync_gives : s.resync.cpl.wstate = .member ∧ LastEvent s.resync 0x050A ∧ s.resync.time = s.time ∧ UnitsKept s s.resync := by
  have hRaised := Laws.raise_raised (s := s.modCpl fun c => { c with wstate := .member }) { code := 0x050A }
  have hEq : s.resync = if ((s.modCpl fun c => { c with wstate := .member }).raise { code := 0x050A }).lkp.inForce then
      (s.modCpl fun c => { c with wstate := .member }).raise { code := 0x050A }
    else ((s.modCpl fun c => { c with wstate := .member }).raise { code := 0x050A }).prepareSlot
      ((s.modCpl fun c => { c with wstate := .member }).raise { code := 0x050A }).activeSlot none := rfl
  have hKept (w : State) (k : Nat) : ∃ q, (w.prepareSlot k none) = { w with prf := q } := by
    unfold State.prepareSlot
    split
    · exact ⟨_, rfl⟩
    · exact ⟨_, rfl⟩
  rw [hEq]
  split
  · exact ⟨rfl, raised_lastEvent hRaised, rfl, rfl, rfl, rfl, rfl, rfl⟩
  · obtain ⟨q, hPrf⟩ := hKept ((s.modCpl fun c => { c with wstate := .member }).raise { code := 0x050A })
      ((s.modCpl fun c => { c with wstate := .member }).raise { code := 0x050A }).activeSlot
    rw [hPrf]
    exact ⟨rfl, raised_lastEvent hRaised, rfl, rfl, rfl, rfl, rfl, rfl⟩

theorem sync_return (hState : s.cpl.wstate = .unsync) (hLow : -200 ≤ offsetOf s x) (hHigh : offsetOf s x ≤ 200)
    (hRow : 3 ≤ s.cpl.insync.toNat) : Gives (.sync x) s fun t =>
      t.cpl.wstate = .member ∧ LastEvent t 0x050A ∧ t.time = s.time ∧ UnitsKept s t := by
  have hExec := exec_near h hSet (.inl hState) hLow hHigh
  obtain ⟨-, -, hInsync⟩ := measured_near (s := s) (x := x) hLow hHigh
  have hFour : 4 ≤ (measured s x (offsetOf s x)).cpl.insync.toNat := by
    have hByte := s.cpl.insync.isLt
    rw [hInsync]
    split
    · decide
    · next hMax =>
      have : s.cpl.insync.toNat ≠ 255 := fun e => hMax (BitVec.eq_of_toNat_eq e)
      rw [BitVec.toNat_add]
      simp
      omega
  rw [hState, decide_eq_true hFour] at hExec
  obtain ⟨hMember, hEvent, hTime, hUnits⟩ := resync_gives (s := measured s x (offsetOf s x))
  exact ⟨_, hExec, hMember, hEvent, hTime, hUnits⟩

theorem sync_waits (hState : s.cpl.wstate = .unsync) (hLow : -200 ≤ offsetOf s x) (hHigh : offsetOf s x ≤ 200)
    (hRow : s.cpl.insync.toNat < 3) : Gives (.sync x) s fun t =>
      t.cpl.wstate = .unsync ∧ t.cpl.insync = s.cpl.insync + 1 ∧ t.time = s.time ∧ UnitsKept s t := by
  have hExec := exec_near h hSet (.inl hState) hLow hHigh
  obtain ⟨-, -, hInsync⟩ := measured_near (s := s) (x := x) hLow hHigh
  rw [if_neg fun e => by rw [e] at hRow; exact absurd hRow (by decide)] at hInsync
  have hFour : ¬ 4 ≤ (measured s x (offsetOf s x)).cpl.insync.toNat := by
    rw [hInsync, BitVec.toNat_add]
    simp
    omega
  rw [hState, decide_eq_false hFour] at hExec
  exact ⟨_, hExec, hState, hInsync, rfl, rfl, rfl, rfl, rfl, rfl⟩

end

/-! ### Time is lost (14 R477, R483) -/

/-- Basin time has been lost. -/
def Unsynced (s t : State) : Prop := t.cpl.wstate = .unsync ∧ t.cpl.insync = 0 ∧ t.cpl.unsync = stick32 s.cpl.unsync 1 ∧
  Raised s t 0x0509 0xFFFF (srcOf s 0 0) ∧ UnitsKept s t

theorem unsync_lost (hMember : s.cpl.wstate = .member) (hMaster : s.cpl.master = false) :
    Unsynced s s.unsync ∧ s.unsync.cpl.slew = s.cpl.slew := by
  have hEq : s.unsync = (s.modCpl fun c => { c with wstate := .unsync, synced := false, insync := 0, unsync := stick32 c.unsync 1 }).raise
      { code := 0x0509, d0 := (s.cpl.offset.setWidth 64 : W64).toNat } := by
    unfold State.unsync
    rw [hMember, hMaster]
    exact if_neg (by decide)
  rw [hEq]
  exact ⟨⟨rfl, rfl, rfl, Laws.raise_raised (s := s.modCpl fun c => { c with
    wstate := .unsync, synced := false, insync := 0, unsync := stick32 c.unsync 1 }) { code := 0x0509, d0 := _ }, rfl, rfl, rfl, rfl, rfl⟩, rfl⟩

/-- A change of the coupling block that keeps the count and the node does not matter to the loss. -/
theorem Unsynced.of_modCpl {f : Cpl → Cpl} (h : Unsynced (s.modCpl f) t) (hCount : (f s.cpl).unsync = s.cpl.unsync)
    (hNode : (f s.cpl).node = s.cpl.node) : Unsynced s t := by
  obtain ⟨hState, hRow, hUnsync, hRaised, hUnits⟩ := h
  refine ⟨hState, hRow, hUnsync.trans (congrArg (stick32 · 1) hCount), ?_, hUnits⟩
  have hSource : srcOf (s.modCpl f) 0 0 = srcOf s 0 0 := congrArg (sourceWord · 0 0) hNode
  rw [hSource] at hRaised
  exact hRaised

theorem sync_far (h : HearsTime s x) (hSet : s.cpl.timeSet = true) (hState : s.cpl.wstate = .member) (hMaster : s.cpl.master = false)
    (hFar : (-1000000 ≤ offsetOf s x ∧ offsetOf s x < -2000) ∨ (2000 < offsetOf s x ∧ offsetOf s x ≤ 1000000)) :
    Gives (.sync x) s fun t => Unsynced s t ∧ t.cpl.slew = -offsetOf s x := by
  have hGone : (decide (offsetOf s x < -1000000) || decide (1000000 < offsetOf s x)) = false := by
    rw [decide_eq_false (by omega), decide_eq_false (by omega)]
    rfl
  have hBeyond : (decide (offsetOf s x < -2000) || decide (2000 < offsetOf s x)) = true := by
    rcases hFar with ⟨-, hFar⟩ | ⟨hFar, -⟩
    · rw [decide_eq_true hFar]
      rfl
    · rw [decide_eq_true hFar, Bool.or_true]
  have hExec := exec_sync h (.inr hState)
  rw [hSet, hGone, hBeyond] at hExec
  obtain ⟨hLost, hSlew⟩ := unsync_lost (s := measured s x (offsetOf s x)) hState hMaster
  exact ⟨_, hExec, hLost.of_modCpl rfl rfl, hSlew.trans (if_neg (by rw [hGone]; decide))⟩

theorem leave_gives (cause : Nat) : (s.leave cause).cpl.wstate = .detached ∧ (s.leave cause).cpl.node = 0x7FFF ∧
    LastEvent (s.leave cause) 0x050B := by
  have hEq : ∃ (v : State) (f : Cpl → Cpl), s.leave cause = (v.modCpl f).raise { code := 0x050B, d0 := cause } ∧
      (f v.cpl).wstate = .detached ∧ (f v.cpl).node = 0x7FFF := ⟨_, _, rfl, rfl, rfl⟩
  obtain ⟨v, f, hEq, hState, hNode⟩ := hEq
  rw [hEq]
  exact ⟨hState, hNode, raised_lastEvent (Laws.raise_raised _ { code := 0x050B, d0 := cause })⟩

theorem sync_gone (h : HearsTime s x) (hSet : s.cpl.timeSet = true) (hState : s.cpl.wstate = .unsync ∨ s.cpl.wstate = .member)
    (hFar : offsetOf s x < -1000000 ∨ 1000000 < offsetOf s x) (hActing : s.cpl.acting = false) :
    Gives (.sync x) s fun t => t.cpl.wstate = .detached ∧ t.cpl.node = 0x7FFF ∧ LastEvent t 0x050B := by
  have hGone : (decide (offsetOf s x < -1000000) || decide (1000000 < offsetOf s x)) = true := by
    rcases hFar with h | h
    · rw [decide_eq_true h]
      rfl
    · rw [decide_eq_true h, Bool.or_true]
  have hExec := exec_sync h hState
  rw [hSet, hGone, hActing] at hExec
  exact ⟨_, hExec, leave_gives _⟩

theorem syncLoss_gives (hNode : s.cpl.node ≠ 0x7FFF) (hState : s.cpl.wstate = .member) (hMaster : s.cpl.master = false) :
    Gives .syncLoss s (Unsynced s) := by
  have hExec : exec .syncLoss s = .next (s.modCpl fun c => { c with insync := 0 }).unsync := by
    change execSyncLoss s = _
    rw [execSyncLoss, if_neg hNode]
  exact ⟨_, hExec, (unsync_lost (s := s.modCpl fun c => { c with insync := 0 }) hState hMaster).1.of_modCpl rfl rfl⟩

/-! ### What is sent and answered (14 R482) -/

theorem exec_delayResp (hTaken : s.ptpTaken x = true) (hMaster : s.ptpMaster x = true) {t3 s1 s2 : W64} (hReq : s.cpl.dreq = some t3)
    (hSync : s.cpl.lastSync = some (s1, s2)) : exec (.delayResp x) s = .next { s with cpl := { s.cpl with
      dreq := none, delay := ((s2.toNat : Int) - s1.toNat + ((x.time.toNat : Int) - t3.toNat)) / 2 } } := by
  change execDelayResp x s = _
  rw [execDelayResp, hTaken, hMaster, hReq, hSync]
  rfl

theorem exec_delayReqSend (hNode : s.cpl.node ≠ 0x7FFF) (hSlave : s.slave = true) {q : Nat} {qs : List Nat}
    (hPorts : (List.range 8).filter s.portUp = q :: qs) : exec .delayReqSend s =
      .next (State.send { s with cpl := { s.cpl with dreq := some s.time } } (.ptp q s.cpl.sect.domain 1 s.time)) := by
  change execDelayReqSend s = _
  rw [execDelayReqSend, hSlave, hPorts, if_neg (by simpa using hNode)]
  rfl

theorem sends_append (dom : Nat) (time : W64) (l : List Nat) : ∀ s : State, s.cpl.sect.domain = dom → s.time = time →
    l.foldl (fun (s : State) p => (s.send (.ptp p s.cpl.sect.domain 0 s.time)).send (.ptp p s.cpl.sect.domain 3 s.time)) s =
      { s with out := s.out ++ l.flatMap fun q => [.ptp q dom 0 time, .ptp q dom 3 time] } := by
  induction l with
  | nil =>
    intro s _ _
    rw [List.flatMap_nil, List.append_nil]
    rfl
  | cons p l ih =>
    intro s hDom hTime
    rw [List.foldl_cons, ih ((s.send (.ptp p s.cpl.sect.domain 0 s.time)).send (.ptp p s.cpl.sect.domain 3 s.time)) hDom hTime, hDom, hTime]
    simp [State.send, hTime]

theorem exec_syncSend (hNode : s.cpl.node ≠ 0x7FFF) (hMaster : s.cpl.master = true) : exec .syncSend s =
    .next { s with out := s.out ++ ((List.range 8).filter s.portUp).flatMap fun q =>
      [.ptp q s.cpl.sect.domain 0 s.time, .ptp q s.cpl.sect.domain 3 s.time] } := by
  change execSyncSend s = _
  rw [execSyncSend, hMaster, if_neg (by simpa using hNode), sends_append _ _ _ _ rfl rfl]

theorem exec_delayReq (hMaster : s.cpl.master = true) (hTaken : s.ptpTaken x = true) :
    exec (.delayReq x) s = .next (s.send (.ptp x.port s.cpl.sect.domain 2 s.time)) := by
  change execDelayReq x s = _
  rw [execDelayReq, hMaster, hTaken]
  rfl

/-- Settles O54: a Sync that is heard leaves the state `measured`, to which its offset adds the loss of time, the return to MEMBER or the
leave; the first of a join is `setBasinTime`, after which nothing but key exchanges happens. -/
theorem basinTime : Obligations.BasinTime := by
  unfold Obligations.BasinTime
  intro x s hNode off ports dom lost
  refine ⟨fun h => ⟨sync_first h, fun hSet => ⟨sync_member h hSet, sync_return h hSet, sync_waits h hSet, sync_far h hSet,
    sync_gone h hSet⟩, fun _ _ _ => exec_delayResp h.taken h.master⟩, syncLoss_gives hNode, fun hSlave _ _ => exec_delayReqSend hNode hSlave,
    fun hMaster => ⟨exec_syncSend hNode hMaster, exec_delayReq hMaster⟩⟩

end Sys2Proof.Machine.BasinTime

/-! PROOF. The timers of a basin and CPL_CMD (14 R460, R462, R477, R485, R487, R490, R491, R495). -/

namespace Sys2Proof.Machine.BasinCommands

open SentFrames EgressRings HostErrorRing

variable {s t u : State}

/-! ### What a manager that acts changes (14 R486) -/

/-- Frames have gone out or are owed, and the mirror's sequence has moved on. -/
def Acts (s t : State) : Prop := ∃ o d ks fl sq ow, t = { s with
  out := o, sec := { s.sec with draws := d }, cpl := { s.cpl with keys := ks, flows := fl, mseq := sq, owed := ow } }

theorem Acts.refl : Acts s s := ⟨_, _, _, _, _, _, rfl⟩

theorem Acts.trans (h : Acts s t) (k : Acts t u) : Acts s u := by
  obtain ⟨o, d, ks, fl, sq, ow, rfl⟩ := h
  obtain ⟨o', d', ks', fl', sq', ow', rfl⟩ := k
  exact ⟨_, _, _, _, _, _, rfl⟩

theorem Acts.foldl {α : Type} {f : State → α → State} (h : ∀ t x, Acts t (f t x)) (l : List α) : ∀ s : State, Acts s (l.foldl f s) := by
  induction l with
  | nil => exact fun _ => .refl
  | cons x l ih => exact fun s => (h s x).trans (ih _)

theorem talks_acts (h : Talks s t) : Acts s t := by
  obtain ⟨o, d, ks, fl, rfl⟩ := h.exists
  exact ⟨_, _, _, _, _, _, rfl⟩

theorem sendCtrl_acts (n ftype : Nat) (aux : W32) (payload : List Byte) : Acts s (s.sendCtrl n ftype aux payload) :=
  talks_acts (sendCtrl_talks _ _ _ _)

theorem mirror_acts (kind : Nat) (body : List Byte) : Acts s (s.mirror kind body) := by
  have hNext : Acts s (s.modCpl fun c => { c with mseq := c.mseq + 1 }) := ⟨_, _, _, _, _, _, rfl⟩
  unfold State.mirror
  extract_lets v
  split
  · exact hNext.trans (sendCtrl_acts _ _ _ _)
  · exact hNext

theorem act_acts (n ftype : Nat) (payload : List Byte) : Acts s (s.act n ftype payload) := by
  unfold State.act
  split
  · exact ⟨_, _, _, _, _, _, rfl⟩
  · exact sendCtrl_acts _ _ _ _

theorem actAll_acts (payload : List Byte) : Acts s (s.actAll payload) := Acts.foldl (fun _ _ => act_acts _ _ _) _ s

section
variable (h : Acts s t)
include h

theorem Acts.units : UnitsKept s t := by
  obtain ⟨o, d, ks, fl, sq, ow, rfl⟩ := h
  exact ⟨rfl, rfl, rfl, rfl, rfl⟩

theorem Acts.raised {v : State} {code job : Nat} {source : W32} (hv : Raised v s code job source) : Raised v t code job source := by
  obtain ⟨o, d, ks, fl, sq, ow, rfl⟩ := h
  exact hv

end

/-! ### Reliefs (14 R490) -/

/-- A member's relief is pending. -/
def relieving (s : State) (m : Nat) (e : MembE) : State :=
  s.modCpl fun c => { c with pendRel := c.pendRel ++ [(m, e.member, (Config.spareSlot m).toNat, BitVec.ofNat 64 (s.cycleAfter 600))] }

theorem relieve_some {m : Nat} {e : MembE} (h : s.spareFor m = some e) :
    ∃ v, s.relieve m = (v, some (s.cycleAfter 600)) ∧ Acts (relieving s m e) v := by
  unfold State.relieve
  rw [h]
  exact ⟨_, rfl, ((mirror_acts _ _).trans (act_acts _ _ _)).trans (actAll_acts _)⟩

theorem relieve_none {m : Nat} (h : s.spareFor m = none) : s.relieve m = (s, none) := by
  unfold State.relieve
  rw [h]

theorem relieve_kept (m : Nat) : ∃ r, Acts (s.modCpl fun c => { c with pendRel := r }) (s.relieve m).1 := by
  cases h : s.spareFor m with
  | none =>
    rw [relieve_none h]
    exact ⟨s.cpl.pendRel, .refl⟩
  | some e =>
    obtain ⟨v, hEq, hActs⟩ := relieve_some h
    rw [hEq]
    exact ⟨_, hActs⟩

/-! ### Error records that pass on (14 R468, R484) -/

/-- As a manager that acts; and records held for the standby's sake have gone to the collector. -/
def Passes (s t : State) : Prop := ∃ o d ks fl sq ow mg hr, t = { s with
  out := o, mgt := mg, sec := { s.sec with draws := d }
  cpl := { s.cpl with keys := ks, flows := fl, mseq := sq, owed := ow, heldRecs := hr } }

theorem Passes.refl : Passes s s := ⟨_, _, _, _, _, _, _, _, rfl⟩

theorem Passes.trans (h : Passes s t) (k : Passes t u) : Passes s u := by
  obtain ⟨o, d, ks, fl, sq, ow, mg, hr, rfl⟩ := h
  obtain ⟨o', d', ks', fl', sq', ow', mg', hr', rfl⟩ := k
  exact ⟨_, _, _, _, _, _, _, _, rfl⟩

theorem Passes.foldl {α : Type} {f : State → α → State} (h : ∀ t x, Passes t (f t x)) (l : List α) : ∀ s : State, Passes s (l.foldl f s) := by
  induction l with
  | nil => exact fun _ => .refl
  | cons x l ih => exact fun s => (h s x).trans (ih _)

theorem Acts.passes (h : Acts s t) : Passes s t := by
  obtain ⟨o, d, ks, fl, sq, ow, rfl⟩ := h
  exact ⟨_, _, _, _, _, _, _, _, rfl⟩

/-- A record has gone to the collector. -/
def forwarded (s : State) (b : List Byte) : State :=
  ({ s with mgt := keepRecord s.mgt (errRecOf b) } : State).modCpl fun c => { c with heldRecs := c.heldRecs.filter fun p => p.2 != b }

theorem forward_acts (b : List Byte) : Acts (forwarded s b) (s.forward b) := mirror_acts _ _

theorem forward_passes (b : List Byte) : Passes s (s.forward b) :=
  Passes.trans (t := forwarded s b) ⟨_, _, _, _, _, _, _, _, rfl⟩ (forward_acts b).passes

theorem pay_passes (o : Owed) : Passes s (s.pay o) := by
  unfold State.pay
  split
  · exact forward_passes _
  · split
    · exact (talks_acts (sendFrame_talks _ _ _ _ _ _ _ _)).passes
    · exact (sendCtrl_acts _ _ _ _).passes

theorem payOwed_passes : Passes s s.payOwed := by
  have hEq : ∃ n l, s.payOwed = List.foldl State.pay (s.modCpl fun c => { c with owed := c.owed.drop n }) l := ⟨_, _, rfl⟩
  obtain ⟨n, l, hEq⟩ := hEq
  rw [hEq]
  exact Passes.trans (t := s.modCpl fun c => { c with owed := c.owed.drop n }) ⟨_, _, _, _, _, _, _, _, rfl⟩ (Passes.foldl (fun _ _ => pay_passes _) _ _)

/-- A manager that acts alone. -/
def soloing (s : State) : State := s.modCpl fun c => { c with
  mstate := .solo, master := true, snapSent := false, timeSet := c.timeSet || decide (c.sect.upstream = 0x7FFF) }

theorem goSolo_passes : Passes (soloing s) s.goSolo := payOwed_passes

/-- A manager's state, with the units and time as they were. -/
def Managing (s t : State) (st : MState) : Prop := t.cpl.mstate = st ∧ UnitsKept s t ∧ t.time = s.time

theorem Passes.managing {st : MState} (h : Passes s t) (hState : s.cpl.mstate = st) : Managing s t st := by
  obtain ⟨o, d, ks, fl, sq, ow, mg, hr, rfl⟩ := h
  exact ⟨hState, ⟨rfl, rfl, rfl, rfl, rfl⟩, rfl⟩

theorem goSolo_managing : Managing s s.goSolo .solo := (goSolo_passes (s := s)).managing rfl

/-! ### Timers of managers (14 R487) -/

theorem standbyTimeout_gives (h : s.cpl.mstate = .standby) : Gives .standbyTimeout s (Managing s · .claiming) := by
  have hExec : ∃ l : List Nat, exec .standbyTimeout s = .next (l.foldl (fun (v : State) p => v.sendFrame p v.peerNode 10 0 0 0xFFFF v.claimBody)
      (s.modCpl fun c => { c with mstate := .claiming })) := by
    change ∃ l : List Nat, execStandbyTimeout s = _
    rw [execStandbyTimeout, if_neg (not_not.mpr h)]
    exact ⟨_, rfl⟩
  obtain ⟨l, hExec⟩ := hExec
  have hTalks := Talks.foldl (f := fun (v : State) p => v.sendFrame p v.peerNode 10 0 0 0xFFFF v.claimBody)
    (fun _ _ => sendFrame_talks _ _ _ _ _ _ _ _) l (s.modCpl fun c => { c with mstate := .claiming })
  exact ⟨_, hExec, (talks_acts hTalks).passes.managing rfl⟩

/-- The promotion of a manager that claimed to act. -/
theorem exec_claimTimeout (h : s.cpl.mstate = .claiming) : ∃ v, Passes (soloing s) v ∧ exec .claimTimeout s =
    .next ((v.modCpl fun c => { c with failover := stick32 c.failover 1 }).raise { code := 0x050C, d0 := v.cpl.mseq.toNat }) := by
  refine ⟨s.goSolo.announce.cpl.heldRecs.foldl (fun (s : State) p => s.forward p.2) s.goSolo.announce, ?_, ?_⟩
  · exact (goSolo_passes.trans (actAll_acts _).passes).trans (Passes.foldl (fun _ _ => forward_passes _) _ _)
  · change execClaimTimeout s = _
    rw [execClaimTimeout, if_neg (not_not.mpr h)]

theorem claimTimeout_gives (h : s.cpl.mstate = .claiming) : Gives .claimTimeout s (Managing s · .solo) ∧ Gives .claimTimeout s fun t =>
    t.cpl.failover = stick32 s.cpl.failover 1 ∧ t.cpl.master = true ∧ LastEvent t 0x050C := by
  obtain ⟨v, hPasses, hExec⟩ := exec_claimTimeout h
  have hEvent := Lrate.raised_lastEvent (Laws.raise_raised (v.modCpl fun c => { c with failover := stick32 c.failover 1 })
    { code := 0x050C, d0 := v.cpl.mseq.toNat })
  obtain ⟨o, d, ks, fl, sq, ow, mg, hr, rfl⟩ := hPasses
  exact ⟨⟨_, hExec, rfl, ⟨rfl, rfl, rfl, rfl, rfl⟩, rfl⟩, _, hExec, rfl, rfl, hEvent⟩

theorem standbyAckTimeout_gives (h : s.cpl.mstate = .active) : Gives .standbyAckTimeout s (Managing s · .solo) := by
  have hExec : exec .standbyAckTimeout s = .next (s.raise { code := 0x050F, addr := 1 - s.side }).goSolo := by
    change execStandbyAckTimeout s = _
    rw [execStandbyAckTimeout, if_neg (not_not.mpr h)]
  obtain ⟨hState, hUnits, hTime⟩ := goSolo_managing (s := s.raise { code := 0x050F, addr := 1 - s.side })
  exact ⟨_, hExec, hState, hUnits, hTime⟩

theorem peerHelloTimeout_gives (hRole : 2 ≤ s.dev.role.toNat) (hNode : s.cpl.node ≠ 0x7FFF) (hState : s.cpl.mstate = .none)
    (hAsked : s.cpl.asked = false) : Gives .peerHelloTimeout s (Managing s · .solo) := by
  have hExec : exec .peerHelloTimeout s = .next s.goSolo := by
    change execPeerHelloTimeout s = _
    rw [execPeerHelloTimeout, if_neg]
    rintro (h | h | h | h)
    · omega
    · exact hNode h
    · exact h hState
    · rw [hAsked] at h
      cases h
  exact ⟨_, hExec, goSolo_managing⟩

theorem askSnapshot_gives : s.askSnapshot.cpl.asked = true ∧ s.askSnapshot.cpl.snap = [] ∧ UnitsKept s s.askSnapshot := by
  obtain ⟨o, d, ks, fl, hEq⟩ := (sendCtrl_talks (s := s.modCpl fun c => { c with asked := true, snap := [] }) s.peerNode 9 2 []).exists
  have hAsk : s.askSnapshot = (s.modCpl fun c => { c with asked := true, snap := [] }).sendCtrl s.peerNode 9 2 [] := rfl
  rw [hAsk, hEq]
  exact ⟨rfl, rfl, rfl, rfl, rfl, rfl, rfl⟩

theorem fencedTimeout_gives (h : s.cpl.mstate = .fenced) : Gives .fencedTimeout s fun t => t.cpl.asked = true ∧ t.cpl.snap = [] ∧
    UnitsKept s t := by
  have hExec : exec .fencedTimeout s = .next s.askSnapshot := by
    change execFencedTimeout s = _
    rw [execFencedTimeout, if_neg (not_not.mpr h)]
  exact ⟨_, hExec, askSnapshot_gives⟩

/-! ### Members that are heard no more (14 R485, R490) -/

theorem memberLost_gives {m : Byte} (hActing : s.cpl.acting = true) (hMember : s.cpl.hasMember m.toNat = true) :
    Gives (.cplMemberLost m) s fun t => Raised s t 0x050F 0xFFFF (srcOf s 0 0) ∧ UnitsKept s t := by
  have hExec : exec (.cplMemberLost m) s = .next ((s.raise { code := 0x050F, addr := m.toNat }).relieve m.toNat).1 := by
    change execCplMemberLost m s = _
    rw [execCplMemberLost, hActing, hMember]
    rfl
  obtain ⟨r, hActs⟩ := relieve_kept (s := s.raise { code := 0x050F, addr := m.toNat }) m.toNat
  have hRaised : Raised s (s.raise { code := 0x050F, addr := m.toNat }) 0x050F 0xFFFF (srcOf s 0 0) := Laws.raise_raised _ _
  exact ⟨_, hExec, hActs.raised hRaised, hActs.units⟩

theorem mgrLost_gives (hRole : s.dev.role = 1) (hNode : s.cpl.node ≠ 0x7FFF) (hFollows : s.cpl.follows ≠ none) : Gives .cplMgrLost s fun t =>
    t.cpl.follows = none ∧ Raised s t 0x050E 0xFFFF (srcOf s 0 0) ∧ UnitsKept s t := by
  obtain ⟨f, hFollows⟩ := Option.ne_none_iff_exists'.mp hFollows
  have hExec : exec .cplMgrLost s = .next ((s.modCpl fun c => { c with follows := none, fwd := c.reclaim f }).raise { code := 0x050E }) := by
    change execCplMgrLost s = _
    rw [execCplMgrLost, hFollows]
    refine congrArg Host.Outcome.next (if_neg ?_)
    rw [hRole]
    simpa using hNode
  exact ⟨_, hExec, rfl, Laws.raise_raised (s.modCpl fun c => { c with follows := none, fwd := c.reclaim f }) { code := 0x050E },
    rfl, rfl, rfl, rfl, rfl⟩

/-! ### What is sent by itself (14 R460, R462, R463) -/

theorem frameStops_eq (n ftype : Nat) : s.frameStops n ftype = ((s.cpl.signed n ftype && (!s.sec.rngOk || !s.sec.idOk)) ||
    (ftype != 7 && ftype != 13 && ((s.cpl.key n).map (·.dead)).getD (ftype != 6))) := by
  unfold State.frameStops
  cases s.cpl.key n with
  | none => rfl
  | some k => rfl

/-- A frame that goes out leaves what stops frames as it is. -/
theorem Emits.stops (h : Emits s t) (n ftype : Nat) : t.frameStops n ftype = s.frameStops n ftype := by
  have hKeyid : t.cpl.keyid n 6 = s.cpl.keyid n 6 := by
    unfold Cpl.keyid
    rw [h.keys.find n fun _ => rfl]
  have hSigned : t.cpl.signed n ftype = s.cpl.signed n ftype := by
    unfold Cpl.signed
    rw [hKeyid]
  have hSec : t.sec.rngOk = s.sec.rngOk ∧ t.sec.idOk = s.sec.idOk := by
    rw [h.rest]
    exact ⟨rfl, rfl⟩
  rw [frameStops_eq, frameStops_eq, hSigned, hSec.1, hSec.2, h.keys.find n fun _ => rfl]

theorem emitFrame_out {p n : Nat} {x : TxFrame} : (s.emitFrame p n x).out.length =
    s.out.length + if s.frameStops n x.ftype then 0 else 1 := by
  cases h : s.frameStops n x.ftype with
  | true =>
    rw [emitFrame_stopped h]
    rfl
  | false =>
    obtain ⟨o, hEq⟩ := emitFrame_eq p n x h
    have hUse (v : State) : (v.useKey n x.ftype).out = v.out := by
      unfold State.useKey
      split <;> rfl
    have hDrawn : (drawn s (s.cpl.signed n x.ftype)).out = s.out := by
      cases s.cpl.signed n x.ftype <;> rfl
    rw [hEq, hUse, State.send]
    simp [hDrawn]

theorem sendPlain_out {p n ftype : Nat} {payload : List Byte} (h : s.portUp p = true) : (s.sendPlain p n ftype payload).out.length =
    s.out.length + if s.frameStops n ftype then 0 else 1 := by
  unfold State.sendPlain
  rw [h, if_pos rfl]
  exact emitFrame_out

theorem hellos_out (n : Nat) (body : List Byte) (l : List Nat) : ∀ s : State, (∀ p ∈ l, s.portUp p = true) →
    (l.foldl (fun (s : State) p => s.sendPlain p n 6 body) s).out.length =
      s.out.length + if s.frameStops n 6 then 0 else l.length := by
  induction l with
  | nil =>
    intro s _
    simp
  | cons p l ih =>
    intro s hUp
    have hEmits := sendPlain_emits (s := s) p n 6 body
    have hPorts (q : Nat) : (s.sendPlain p n 6 body).portUp q = s.portUp q := by
      rw [hEmits.rest]
      rfl
    rw [List.foldl_cons, ih _ fun q hq => (hPorts q).trans (hUp q (List.mem_cons_of_mem _ hq)), sendPlain_out (hUp p List.mem_cons_self),
      Emits.stops hEmits]
    split
    · rfl
    · rw [List.length_cons]
      omega

theorem hello_gives (n : Nat) : (s.hello n).out.length = s.out.length + (if s.frameStops n 6 then 0 else s.mgrPorts.length) ∧
    Emits s (s.hello n) := by
  unfold State.hello
  refine ⟨hellos_out n _ _ s fun p hp => ?_, Emits.foldl (fun _ _ => sendPlain_emits _ _ _ _) _ s⟩
  exact (Bool.and_eq_true_iff.mp (List.mem_filter.mp hp).2).1

theorem helloSend_gives (hHeld : s.dev.held = false) (hRole : 2 ≤ s.dev.role.toNat) (hNode : s.cpl.node ≠ 0x7FFF) :
    Gives (.helloSend false) s fun t =>
      t.out.length = s.out.length + (if s.frameStops s.peerNode 6 then 0 else s.mgrPorts.length) ∧ UnitsKept s t ∧ MemoryKept s t := by
  have hExec : exec (.helloSend false) s = .next (s.hello s.peerNode) := by
    change execHelloSend false s = _
    rw [execHelloSend, hHeld, decide_eq_false (by omega : ¬ s.dev.role.toNat < 2), decide_eq_false hNode]
    rfl
  obtain ⟨hOut, hEmits⟩ := hello_gives (s := s) s.peerNode
  exact ⟨_, hExec, hOut, hEmits.talks.units, hEmits.talks.mem⟩

theorem flushFwd_empty (h : s.cpl.fwd = []) : s.flushFwd = s := by
  unfold State.flushFwd
  split
  · split
    · rw [h]
      unfold State.sendFwd
      rw [h]
      rfl
    · rfl
  · rfl

theorem sendCtrl_last {q : Nat} {qs : List Nat} (hPorts : s.mgrPorts = q :: qs) (n ftype : Nat) (aux : W32) (payload : List Byte) :
    lastSent (s.sendCtrl n ftype aux payload) q n = some (ftype, aux, payload) ∧
      ∀ m, m ≠ n → (s.sendCtrl n ftype aux payload).cpl.flow q m = s.cpl.flow q m := by
  rw [sendCtrl_first hPorts]
  obtain ⟨-, hLast, -, hOther⟩ := sendFrame_gives (s := s) q n ftype aux 0 0xFFFF payload []
  exact ⟨hLast, fun m hm => hOther q m fun e => hm (congrArg Prod.snd e)⟩

theorem statusSend_gives (hHeld : s.dev.held = false) {n q : Nat} {qs : List Nat} (hFollows : s.cpl.follows = some n) (hRole : s.dev.role = 1)
    (hNode : s.cpl.node ≠ 0x7FFF) (hFwd : s.cpl.fwd = []) (hPorts : s.mgrPorts = q :: qs) : Gives .statusSend s fun t =>
      (lastSent t q n).map (fun y => (y.1, y.2.2.length)) = some (12, 16) ∧ UnitsKept s t := by
  have hExec : ∃ a b c d e f, exec .statusSend s = .next (s.sendCtrl n 12 0 (leBytes 4 a ++ leBytes 1 b ++ leBytes 1 c ++
      leBytes 1 d ++ leBytes 1 e ++ leBytes 4 f ++ leBytes 4 0)).flushFwd := by
    change ∃ a b c d e f, execStatusSend s = _
    rw [execStatusSend, hFollows]
    refine ⟨_, _, _, _, _, _, congrArg Host.Outcome.next (if_neg ?_)⟩
    rw [hHeld, hRole, decide_eq_false hNode]
    decide
  obtain ⟨a, b, c, d, e, f, hExec⟩ := hExec
  have hTalks := sendCtrl_talks (s := s) n 12 0 (leBytes 4 a ++ leBytes 1 b ++ leBytes 1 c ++ leBytes 1 d ++ leBytes 1 e ++ leBytes 4 f ++
    leBytes 4 0)
  rw [flushFwd_empty (by rw [hTalks.cpl]; exact hFwd)] at hExec
  refine ⟨_, hExec, ?_, hTalks.units⟩
  rw [(sendCtrl_last hPorts _ _ _ _).1]
  simp

theorem nodeOf_ne : s.nodeOf 0 ≠ s.nodeOf 1 := by
  unfold State.nodeOf
  omega

/-- The two JOIN frames that a worker sends. -/
theorem sendJoin_eq : ∃ b, s.sendJoin = (s.sendCtrl (s.nodeOf 0) 7 0 b).sendCtrl (s.nodeOf 1) 7 0 b := ⟨_, rfl⟩

theorem sendJoin_talks : Talks s s.sendJoin := by
  obtain ⟨b, hEq⟩ := sendJoin_eq (s := s)
  rw [hEq]
  exact (sendCtrl_talks _ _ _ _).trans (sendCtrl_talks _ _ _ _)

theorem joinSend_gives (hHeld : s.dev.held = false) (hState : s.cpl.wstate = .joining) {q : Nat} {qs : List Nat} (hPorts : s.mgrPorts = q :: qs) :
    Gives .joinSend s fun t => (lastSent t q (s.nodeOf 0)).map (·.1) = some 7 ∧ (lastSent t q (s.nodeOf 1)).map (·.1) = some 7 ∧
      UnitsKept s t := by
  have hExec : exec .joinSend s = .next s.sendJoin := by
    change execJoinSend s = _
    rw [execJoinSend, hHeld, hState]
    rfl
  obtain ⟨b, hEq⟩ := sendJoin_eq (s := s)
  obtain ⟨hFirst, -⟩ := sendCtrl_last hPorts (s.nodeOf 0) 7 0 b
  have hTalks := sendCtrl_talks (s := s) (s.nodeOf 0) 7 0 b
  have hPorts' : (s.sendCtrl (s.nodeOf 0) 7 0 b).mgrPorts = q :: qs := by
    rw [hTalks.rest]
    exact hPorts
  obtain ⟨hSecond, hOther⟩ := sendCtrl_last hPorts' (s.nodeOf 1) 7 0 b
  refine ⟨_, hExec, ?_, ?_, sendJoin_talks.units⟩
  · rw [hEq, lastSent, hOther _ nodeOf_ne]
    exact congrArg (Option.map (·.1)) hFirst
  · rw [hEq, hSecond]
    rfl

/-! ### Joining again (14 R477) -/

theorem rejoin_gives : s.rejoin.cpl.wstate = .joining ∧ s.rejoin.cpl.reason = 0 ∧ UnitsKept s s.rejoin := by
  obtain ⟨o, d, ks, fl, hEq⟩ := (sendJoin_talks (s := s.modCpl fun c => { c with wstate := .joining, reason := 0 })).exists
  have hRejoin : s.rejoin = (s.modCpl fun c => { c with wstate := .joining, reason := 0 }).sendJoin := rfl
  rw [hRejoin, hEq]
  exact ⟨rfl, rfl, rfl, rfl, rfl, rfl, rfl⟩

theorem rejoinTimer_gives (hState : s.cpl.wstate = .detached) (hLeft : s.cpl.left = true) (hRole : s.dev.role = 1)
    (hForce : s.lkp.inForce = true) : Gives .rejoinTimer s fun t => t.cpl.wstate = .joining ∧ t.cpl.reason = 0 ∧ UnitsKept s t := by
  have hExec : exec .rejoinTimer s = .next s.rejoin := by
    change execRejoinTimer s = _
    rw [execRejoinTimer, hState, hLeft, hRole, hForce]
    rfl
  exact ⟨_, hExec, rejoin_gives⟩

theorem rejoinTimer_idle (h : s.cpl.wstate ≠ .detached ∨ s.cpl.left = false ∨ s.dev.role ≠ 1 ∨ s.lkp.inForce = false) :
    exec .rejoinTimer s = .next s := by
  change execRejoinTimer s = _
  rw [execRejoinTimer, if_neg]
  simp only [Bool.and_eq_true, decide_eq_true_eq]
  rintro ⟨⟨⟨hState, hLeft⟩, hRole⟩, hForce⟩
  rcases h with h | h | h | h
  · exact h hState
  · rw [hLeft] at h
    cases h
  · exact h hRole
  · rw [hForce] at h
    cases h

/-! ### CPL_CMD (14 R495) -/

section
variable {op slot m d : Nat} (hOp : op < 16) (hSlot : slot < 4) (hm : m < 256) (hd : d < 65536)
include hOp hSlot hm hd

theorem cplWord_toNat : (cplWord op slot m d).toNat = d * 2 ^ 24 + m * 2 ^ 16 + slot * 16 + op := by
  rw [cplWord, BitVec.toNat_ofNat, Nat.mod_eq_of_lt (by omega)]

theorem cplWord_bits : bits (cplWord op slot m d).toNat 0 4 = op ∧ bits (cplWord op slot m d).toNat 4 2 = slot ∧
    bits (cplWord op slot m d).toNat 16 8 = m ∧ bits (cplWord op slot m d).toNat 24 16 = d := by
  rw [cplWord_toNat hOp hSlot hm hd]
  unfold bits
  refine ⟨?_, ?_, ?_, ?_⟩ <;> omega

end

/-- A coupling command has been taken. -/
def commanded (s : State) (p : Port) (op : Nat) (cmd : W64) : State := s.modCpl fun c => { c with
  cmd, resOp := BitVec.ofNat 4 op, resPort := BitVec.ofNat 4 (portNum p), resState := 1, resCode := 0, resCycle := 0 }

/-- A switch to a profile's epoch at a cycle is pending. -/
def switching (s : State) (x : PSlot) (k : Nat) : State :=
  s.modCpl fun c => { c with pendSw := some ((coupOf (profSect x.image 6)).epoch, BitVec.ofNat 64 k) }

/-- What a command other than RELIEVE does then. -/
def obeyed (s : State) (p : Port) (op slot delay : Nat) (relief : State) : State :=
  if op = 1 then s.basinSwitch p slot delay
  else if op = 2 then
    (if s.dev.role = 1 && s.cpl.node != 0x7FFF then (s.leave (Config.leftCause 2)).cplResult 2 0 0 else s.cplRefuse p)
  else if op = 3 then
    (if s.cpl.wstate = .held || (s.cpl.wstate = .detached && s.cpl.left && s.dev.role = 1 && s.lkp.inForce) then s.rejoin.cplResult 2 0 0
     else s.cplRefuse p)
  else if !s.cpl.acting then s.cplRefuse p
  else relief

/-- What RELIEVE does with the outcome of the relief. -/
def Relieves (s : State) (p : Port) (m : Nat) (relief : State) : Prop :=
  (∀ u k, s.relieve m = (u, some k) → relief = u.cplResult 1 0 k) ∧ ∀ u, s.relieve m = (u, none) → relief = u.cplRefuse p

theorem obeyed_switch (p : Port) (slot d : Nat) (f : State) : obeyed s p 1 slot d f = s.basinSwitch p slot d := by
  unfold obeyed
  rw [if_pos rfl]

theorem obeyed_leave (p : Port) (slot d : Nat) (f : State) : obeyed s p 2 slot d f = if s.dev.role = 1 && s.cpl.node != 0x7FFF then
    (s.leave (Config.leftCause 2)).cplResult 2 0 0 else s.cplRefuse p := by
  unfold obeyed
  rw [if_neg (by decide), if_pos rfl]

theorem obeyed_join (p : Port) (slot d : Nat) (f : State) : obeyed s p 3 slot d f = if s.cpl.wstate = .held ||
    (s.cpl.wstate = .detached && s.cpl.left && s.dev.role = 1 && s.lkp.inForce) then s.rejoin.cplResult 2 0 0 else s.cplRefuse p := by
  unfold obeyed
  rw [if_neg (by decide), if_neg (by decide), if_pos rfl]

theorem obeyed_relieve (p : Port) (slot d : Nat) (f : State) : obeyed s p 4 slot d f = if !s.cpl.acting then s.cplRefuse p else f := by
  unfold obeyed
  rw [if_neg (by decide), if_neg (by decide), if_neg (by decide)]

/-- A coupling command is in the result registers. -/
def resulting (p : Port) (op : Nat) (c : Cpl) : Cpl :=
  { c with resOp := BitVec.ofNat 4 op, resPort := BitVec.ofNat 4 (portNum p), resState := 1, resCode := 0, resCycle := 0 }

theorem cplCmd_obeyed {p : Port} {v : W64} (hLow : 0 < bits v.toNat 0 4) (hHigh : bits v.toNat 0 4 < 5) : ∃ cmd delay f,
    Relieves (commanded s p (bits v.toNat 0 4) cmd) p (bits v.toNat 16 8) f ∧
      (600 ≤ bits v.toNat 24 16 → bits v.toNat 24 16 ≤ 60000 → delay = bits v.toNat 24 16) ∧ (s.cplCmd p v).1 =
        obeyed (commanded s p (bits v.toNat 0 4) cmd) p (bits v.toNat 0 4) (bits v.toNat 4 2) delay f := by
  unfold State.cplCmd
  extract_lets op slot m d old badDelay delay badOp s1 s2 s3
  have hBad : badOp = false := by
    simp only [badOp, op]
    rw [decide_eq_false (by omega), beq_eq_false_iff_ne.mpr (by omega)]
    rfl
  obtain ⟨f, hf, hs1⟩ : ∃ f : Cpl → Cpl, (∀ c, ∃ w, f c = { c with cmd := w }) ∧ s1 = s.modCpl f := ⟨_, fun _ => ⟨_, rfl⟩, rfl⟩
  have hs2 : s2 = s1.modCpl (resulting p op) := rfl
  have hDelay : 600 ≤ d → d ≤ 60000 → delay = d := by
    intro hMin hMax
    refine if_neg ?_
    simp only [badDelay]
    rw [decide_eq_false (by omega), decide_eq_false (by omega)]
    simp
  clear_value s2 s1 delay badOp
  obtain ⟨cmd, hCommanded⟩ : ∃ cmd, s2 = commanded s p op cmd := by
    obtain ⟨w, hw⟩ := hf s.cpl
    refine ⟨w, ?_⟩
    rw [hs2, hs1, State.modCpl, State.modCpl, hw]
    rfl
  clear hs1 hs2
  subst hCommanded hBad
  refine ⟨cmd, delay, _, ⟨fun u k h => ?_, fun u h => ?_⟩, hDelay, rfl⟩
  · simp only [op, m, h]
  · simp only [op, m, h]

section
variable {p : Port} (hOpen : OpenPort s p) (hHolds : s.holds p 6 = true)
include hOpen hHolds

theorem portWrite_cplCmd (v : W64) : s.portWrite p 0x400008 v = (s.cplCmd p v).1 := by
  rw [portWrite_plain hOpen (by decide) (by decide) (by decide) _ rfl]
  exact rwl_held hHolds fun s => s.cplCmd p v

theorem command_obeyed {op slot m d : Nat} (hSlot : slot < 4) (hm : m < 256) (hd : d < 65536) (hLow : 0 < op) (hHigh : op < 5) :
    ∃ cmd delay f, Relieves (commanded s p op cmd) p m f ∧ (600 ≤ d → d ≤ 60000 → delay = d) ∧
      s.portWrite p 0x400008 (cplWord op slot m d) = obeyed (commanded s p op cmd) p op slot delay f := by
  obtain ⟨hBitsOp, hBitsSlot, hBitsM, hBitsD⟩ := cplWord_bits (op := op) (by omega) hSlot hm hd
  rw [portWrite_cplCmd hOpen hHolds]
  generalize cplWord op slot m d = v at *
  subst hBitsOp hBitsSlot hBitsM hBitsD
  exact cplCmd_obeyed hLow hHigh

end

/-- A coupling command is refused. -/
def Refused (s t : State) (p : Port) : Prop := t.cpl.resState = 3 ∧ t.cpl.resCode = 0x0A0E ∧ Raised s t 0x0A0E 0xFFFF (srcOf s (kindOf p) 0) ∧
  UnitsKept s t

theorem cplRefuse_refused (p : Port) (op : Nat) (cmd : W64) : Refused s ((commanded s p op cmd).cplRefuse p) p := by
  have hRaised := Laws.raise_raised (commanded s p op cmd) { code := 0x0A0E, kind := portKind p }
  rw [show portKind p = kindOf p from SfuBanks.kind_of_port p] at hRaised
  refine ⟨rfl, rfl, ?_, rfl, rfl, rfl, rfl, rfl⟩
  unfold State.cplRefuse
  rw [show portKind p = kindOf p from SfuBanks.kind_of_port p]
  exact hRaised

section
variable {p : Port} (hOpen : OpenPort s p) (hHolds : s.holds p 6 = true)
include hOpen hHolds

theorem exec_basinSwitch (slot : BitVec 2) (delay : BitVec 16) : ∃ cmd k, (600 ≤ delay.toNat → delay.toNat ≤ 60000 → k = delay.toNat) ∧
    exec (.basinSwitch p slot delay) s = .next ((commanded s p 1 cmd).basinSwitch p slot.toNat k) := by
  obtain ⟨cmd, k, _, -, hk, hEq⟩ := command_obeyed hOpen hHolds (op := 1) (m := 0) slot.isLt (by decide) delay.isLt (by decide) (by decide)
  rw [obeyed_switch] at hEq
  exact ⟨cmd, k, hk, congrArg Host.Outcome.next hEq⟩

theorem exec_leave : ∃ cmd, exec (.leave p) s = .next (if (commanded s p 2 cmd).dev.role = 1 && (commanded s p 2 cmd).cpl.node != 0x7FFF then
    ((commanded s p 2 cmd).leave (Config.leftCause 2)).cplResult 2 0 0 else (commanded s p 2 cmd).cplRefuse p) := by
  obtain ⟨cmd, _, _, -, -, hEq⟩ := command_obeyed hOpen hHolds (op := 2) (slot := 0) (m := 0) (d := 0) (by decide) (by decide) (by decide) (by decide)
    (by decide)
  rw [obeyed_leave] at hEq
  exact ⟨cmd, congrArg Host.Outcome.next hEq⟩

theorem exec_join : ∃ cmd, exec (.cplJoinCmd p) s = .next (if (commanded s p 3 cmd).cpl.wstate = .held ||
    ((commanded s p 3 cmd).cpl.wstate = .detached && (commanded s p 3 cmd).cpl.left && (commanded s p 3 cmd).dev.role = 1 &&
      (commanded s p 3 cmd).lkp.inForce) then (commanded s p 3 cmd).rejoin.cplResult 2 0 0 else (commanded s p 3 cmd).cplRefuse p) := by
  obtain ⟨cmd, _, _, -, -, hEq⟩ := command_obeyed hOpen hHolds (op := 3) (slot := 0) (m := 0) (d := 0) (by decide) (by decide) (by decide) (by decide)
    (by decide)
  rw [obeyed_join] at hEq
  exact ⟨cmd, congrArg Host.Outcome.next hEq⟩

theorem exec_relieve (m : Byte) : ∃ cmd f, Relieves (commanded s p 4 cmd) p m.toNat f ∧ exec (.relieve p m) s = .next (if !(commanded s p 4 cmd).cpl.acting then
    (commanded s p 4 cmd).cplRefuse p else f) := by
  obtain ⟨cmd, _, f, hRelief, -, hEq⟩ := command_obeyed hOpen hHolds (op := 4) (slot := 0) (d := 0) (by decide) m.isLt (by decide) (by decide)
    (by decide)
  rw [obeyed_relieve] at hEq
  exact ⟨cmd, f, hRelief, congrArg Host.Outcome.next hEq⟩

theorem idle_refused (hActing : s.cpl.acting = false) (slot : BitVec 2) (delay : BitVec 16) (m : Byte) :
    Gives (.basinSwitch p slot delay) s (Refused s · p) ∧ Gives (.relieve p m) s (Refused s · p) := by
  obtain ⟨cmd, k, -, hSwitch⟩ := exec_basinSwitch hOpen hHolds slot delay
  obtain ⟨cmd', f, -, hRelieve⟩ := exec_relieve hOpen hHolds m
  have hRefuse : (commanded s p 1 cmd).basinSwitch p slot.toNat k = (commanded s p 1 cmd).cplRefuse p := by
    have hIdle : (commanded s p 1 cmd).cpl.acting = false := hActing
    unfold State.basinSwitch
    rw [hIdle]
    rfl
  rw [hRefuse] at hSwitch
  rw [show (commanded s p 4 cmd').cpl.acting = false from hActing] at hRelieve
  exact ⟨⟨_, hSwitch, cplRefuse_refused p 1 cmd⟩, ⟨_, hRelieve, cplRefuse_refused p 4 cmd'⟩⟩

theorem switch_gives (hActing : s.cpl.acting = true) {slot : BitVec 2} {delay : BitVec 16}
    (hValid : ((s.prf.slots[slot.toNat]?).getD {}).valid = true) (hRole : ((s.prf.slots[slot.toNat]?).getD {}).role = 2)
    (hMin : 600 ≤ delay.toNat) (hMax : delay.toNat ≤ 60000) : Gives (.basinSwitch p slot delay) s fun t =>
      t.cpl.resState = 1 ∧ t.cpl.resCode = 0 ∧ t.cpl.resCycle = BitVec.ofNat 32 (s.cycleAfter delay.toNat) ∧
        t.cpl.pendSw = some ((coupOf (profSect ((s.prf.slots[slot.toNat]?).getD {}).image 6)).epoch,
          BitVec.ofNat 64 (s.cycleAfter delay.toNat)) ∧ UnitsKept s t := by
  obtain ⟨cmd, k, hk, hExec⟩ := exec_basinSwitch hOpen hHolds slot delay
  rw [hk hMin hMax] at hExec
  have hPrepare (w : State) (n : Nat) (c : Option Nat) : ∃ q, w.prepareSlot n c = { w with prf := q } := by
    unfold State.prepareSlot
    split
    · exact ⟨_, rfl⟩
    · exact ⟨_, rfl⟩
  have hEq : ∃ w q, Acts (switching (commanded s p 1 cmd) ((s.prf.slots[slot.toNat]?).getD {}) (s.cycleAfter delay.toNat)) w ∧
      (commanded s p 1 cmd).basinSwitch p slot.toNat delay.toNat =
        ({ w with prf := q } : State).cplResult 1 0 (s.cycleAfter delay.toNat) := by
    have hGo : (!(commanded s p 1 cmd).cpl.acting || !((s.prf.slots[slot.toNat]?).getD {}).valid ||
        decide (((s.prf.slots[slot.toNat]?).getD {}).role ≠ 2)) = false := by
      rw [show (commanded s p 1 cmd).cpl.acting = true from hActing, hValid, hRole]
      rfl
    unfold State.basinSwitch
    extract_lets x e n v w cmd' w' y
    have hActs : Acts v y := by
      have hBefore : Acts v w' := (mirror_acts _ _).trans (actAll_acts _)
      refine hBefore.trans ?_
      change Acts w' (if _ then _ else _)
      split
      · exact act_acts _ _ _
      · exact .refl
    obtain ⟨q, hq⟩ := hPrepare y slot.toNat (some n)
    refine ⟨y, q, hActs, ?_⟩
    rw [hq]
    exact if_neg (by
      rw [Bool.not_eq_true]
      exact hGo)
  obtain ⟨w, q, hActs, hEq⟩ := hEq
  rw [hEq] at hExec
  obtain ⟨o, d, ks, fl, sq, ow, rfl⟩ := hActs
  exact ⟨_, hExec, rfl, rfl, rfl, rfl, rfl, rfl, rfl, rfl, rfl⟩

theorem leave_done (hRole : s.dev.role = 1) (hNode : s.cpl.node ≠ 0x7FFF) : Gives (.leave p) s fun t =>
    t.cpl.node = 0x7FFF ∧ t.cpl.wstate = .detached ∧ t.cpl.resState = 2 ∧ LastEvent t 0x050B := by
  obtain ⟨cmd, hExec⟩ := exec_leave hOpen hHolds
  have hGo : (decide ((commanded s p 2 cmd).dev.role = 1) && (commanded s p 2 cmd).cpl.node != 0x7FFF) = true :=
    Bool.and_eq_true_iff.mpr ⟨decide_eq_true hRole, bne_iff_ne.mpr hNode⟩
  rw [hGo, if_pos rfl] at hExec
  obtain ⟨hState, hGone, hEvent⟩ := BasinTime.leave_gives (s := commanded s p 2 cmd) (Config.leftCause 2)
  exact ⟨_, hExec, hGone, hState, rfl, hEvent⟩

theorem leave_refused (h : s.dev.role ≠ 1 ∨ s.cpl.node = 0x7FFF) : Gives (.leave p) s (Refused s · p) := by
  obtain ⟨cmd, hExec⟩ := exec_leave hOpen hHolds
  have hStay : (decide ((commanded s p 2 cmd).dev.role = 1) && (commanded s p 2 cmd).cpl.node != 0x7FFF) = false := by
    rcases h with h | h
    · exact Bool.and_eq_false_iff.mpr (.inl (decide_eq_false h))
    · exact Bool.and_eq_false_iff.mpr (.inr (bne_eq_false_iff_eq.mpr h))
  rw [hStay, if_neg (by decide)] at hExec
  exact ⟨_, hExec, cplRefuse_refused p 2 cmd⟩

theorem join_gives (hState : s.cpl.wstate = .held) : Gives (.cplJoinCmd p) s fun t => t.cpl.wstate = .joining ∧ t.cpl.resState = 2 ∧
    UnitsKept s t := by
  obtain ⟨cmd, hExec⟩ := exec_join hOpen hHolds
  rw [show (commanded s p 3 cmd).cpl.wstate = _ from hState] at hExec
  obtain ⟨hJoining, -, hUnits⟩ := rejoin_gives (s := commanded s p 3 cmd)
  exact ⟨_, hExec, hJoining, rfl, hUnits⟩

theorem join_refused (hState : s.cpl.wstate = .member) : Gives (.cplJoinCmd p) s (Refused s · p) := by
  obtain ⟨cmd, hExec⟩ := exec_join hOpen hHolds
  rw [show (commanded s p 3 cmd).cpl.wstate = _ from hState] at hExec
  exact ⟨_, hExec, cplRefuse_refused p 3 cmd⟩

theorem relieve_refused (hActing : s.cpl.acting = true) {m : Byte} (hNone : s.spareFor m.toNat = none) :
    Gives (.relieve p m) s (Refused s · p) := by
  obtain ⟨cmd, f, hRelief, hExec⟩ := exec_relieve hOpen hHolds m
  rw [show (commanded s p 4 cmd).cpl.acting = true from hActing, Bool.not_true, if_neg (by decide),
    hRelief.2 _ (relieve_none (s := commanded s p 4 cmd) hNone)] at hExec
  exact ⟨_, hExec, cplRefuse_refused p 4 cmd⟩

theorem relieve_gives (hActing : s.cpl.acting = true) {m : Byte} {e : MembE} (hSpare : s.spareFor m.toNat = some e) :
    Gives (.relieve p m) s fun t => t.cpl.resState = 1 ∧ t.cpl.resCycle = BitVec.ofNat 32 (s.cycleAfter 600) ∧ UnitsKept s t ∧
      ∃ q ∈ t.cpl.pendRel, q.1 = m.toNat ∧ q.2.1 = e.member ∧ q.2.2.2 = BitVec.ofNat 64 (s.cycleAfter 600) := by
  obtain ⟨cmd, f, hRelief, hExec⟩ := exec_relieve hOpen hHolds m
  obtain ⟨v, hEq, hActs⟩ := relieve_some (s := commanded s p 4 cmd) hSpare
  rw [show (commanded s p 4 cmd).cpl.acting = true from hActing, Bool.not_true, if_neg (by decide), hRelief.1 _ _ hEq] at hExec
  obtain ⟨o, d, ks, fl, sq, ow, rfl⟩ := hActs
  refine ⟨_, hExec, rfl, rfl, ⟨rfl, rfl, rfl, rfl, rfl⟩, ⟨_, List.mem_append_right _ List.mem_cons_self, rfl, rfl, rfl⟩⟩

end

/-- Settles O55: a timer of a basin is one change of the coupling block with the frames that it sends, and CPL_CMD takes its command
into the result registers before it obeys or refuses it. -/
theorem basinTimersAndCommands : Obligations.BasinTimersAndCommands := by
  unfold Obligations.BasinTimersAndCommands
  intro p slot delay m s hHeld mgr
  refine ⟨helloSend_gives hHeld, fun _ _ _ => statusSend_gives hHeld,
    fun _ _ hState => joinSend_gives hHeld hState, memberLost_gives, mgrLost_gives,
    standbyTimeout_gives, claimTimeout_gives, standbyAckTimeout_gives, peerHelloTimeout_gives, fencedTimeout_gives, rejoinTimer_gives,
    rejoinTimer_idle, fun hOpen hHolds => ⟨fun hActing => switch_gives hOpen hHolds hActing, fun hActing => idle_refused hOpen hHolds hActing slot delay m,
      leave_done hOpen hHolds, leave_refused hOpen hHolds, join_gives hOpen hHolds, join_refused hOpen hHolds,
      fun hActing => relieve_refused hOpen hHolds hActing, fun _ hActing => relieve_gives hOpen hHolds hActing⟩⟩

end Sys2Proof.Machine.BasinCommands

/-! PROOF. Frames of a basin in their turn (14 R460 to R468, R477, R478, R484 to R491). -/

section BasinFrameEffects

-- One proof after the other, as in the rules of the canonical form.
set_option Elab.async false

namespace Sys2Proof.Machine.BasinFrames

open SentFrames BasinTime BasinCommands

variable {s t u : State} {x : RxFrame} {i : Instr} {ftype : Nat} {form : Bool} {act : State → State} {P : State → Prop}

/-! ### Frames and their effects -/

theorem emits_exists (h : Emits s t) : ∃ o d ks, t = { s with
    out := o, sec := { s.sec with draws := d }, cpl := { s.cpl with keys := ks } } := ⟨_, _, _, h.rest⟩

/-- The property holds once an acknowledgement, or nothing more, has gone out. -/
def Answered (P : State → Prop) (s : State) : Prop := ∀ o d ks,
  P { s with out := o, sec := { s.sec with draws := d }, cpl := { s.cpl with keys := ks } }

/-- A frame of a flow in its turn leaves what its effect and an acknowledgement leave. -/
theorem gives_turn (hExec : exec i s = .next (s.receive x ftype form act)) (hTurn : InTurn s x ftype) (hForm : form = true)
    (hAck : ftype ≠ 4) (hHello : ftype ≠ 6) (hAct : ∀ v, Takes 1 x s v → Answered P (act v)) : Gives i s P := by
  subst hForm
  rw [receive_turn act hTurn hAck hHello] at hExec
  refine ⟨_, hExec, ?_⟩
  obtain ⟨o, d, ks, hEq⟩ := emits_exists (sendPlain_emits (s := act (turned s x)) x.port x.src.toNat 4 [])
  rw [hEq]
  exact hAct _ (turned_takes x) o d ks

/-- A HELLO leaves what its effect leaves. -/
theorem gives_hello (hExec : exec i s = .next (s.receive x 6 form act)) (hArrives : Arrives s x 6) (hForm : form = true)
    (hAct : ∀ v, Takes 0 x s v → P (act v)) : Gives i s P := by
  subst hForm
  rw [receive_plain act hArrives (.inr rfl)] at hExec
  exact ⟨_, hExec, hAct _ (acked_takes x)⟩

/-! ### HELLO (14 R460, R470, R487, R488) -/

/-- Frames have been taken and have gone out, and flows, reads and error records with them. -/
def Hears (s t : State) : Prop := ∃ o d ks fl uc rd fw, t = { s with
  out := o, sec := { s.sec with draws := d }, cpl := { s.cpl with keys := ks, flows := fl, uncorr := uc, reads := rd, fwd := fw } }

theorem Hears.refl : Hears s s := ⟨_, _, _, _, _, _, _, rfl⟩

theorem Hears.trans (h : Hears s t) (k : Hears t u) : Hears s u := by
  obtain ⟨o, d, ks, fl, uc, rd, fw, rfl⟩ := h
  obtain ⟨o', d', ks', fl', uc', rd', fw', rfl⟩ := k
  exact ⟨_, _, _, _, _, _, _, rfl⟩

theorem talks_hears (h : Talks s t) : Hears s t := by
  obtain ⟨o, d, ks, fl, rfl⟩ := h.exists
  exact ⟨_, _, _, _, _, _, _, rfl⟩

theorem takes_hears {k : W32} (h : Takes k x s t) : Hears s t := by
  obtain ⟨o, d, ks, fl, uc, rfl⟩ := h.exists
  exact ⟨_, _, _, _, _, _, _, rfl⟩

theorem Hears.kept (h : Hears s t) : t.dev = s.dev ∧ t.cpl.node = s.cpl.node ∧ t.cpl.mstate = s.cpl.mstate ∧
    t.cpl.follows = s.cpl.follows ∧ t.cpl.fseq = s.cpl.fseq ∧ t.cpl.asked = s.cpl.asked ∧ t.side = s.side ∧ t.peerNode = s.peerNode := by
  obtain ⟨o, d, ks, fl, uc, rd, fw, rfl⟩ := h
  exact ⟨rfl, rfl, rfl, rfl, rfl, rfl, rfl, rfl⟩

theorem restartFlow_hears (p n : Nat) : Hears s (s.restartFlow p n) := by
  have hEq : ∃ (f : Flow → Flow) (rd : List RemRead) (l : List TxFrame), s.restartFlow p n = l.foldl (fun (v : State) y => v.emitFrame p n y)
      { s.modFlow p n f with cpl := { (s.modFlow p n f).cpl with reads := rd } } := ⟨_, _, _, rfl⟩
  obtain ⟨f, rd, l, hEq⟩ := hEq
  rw [hEq]
  have hStart : Hears s { s.modFlow p n f with cpl := { (s.modFlow p n f).cpl with reads := rd } } := ⟨_, _, _, _, _, _, _, rfl⟩
  exact hStart.trans (talks_hears (Emits.foldl (fun _ _ => emitFrame_emits _ _ _) l _).talks)

theorem fwd_hears (f : Cpl → List ErrRec) : Hears s (s.modCpl fun c => { c with fwd := f c }) := ⟨_, _, _, _, _, _, _, rfl⟩

theorem sendFwd_hears (n fuel : Nat) : ∀ s : State, Hears s (s.sendFwd n fuel) := by
  induction fuel with
  | zero => exact fun _ => .refl
  | succ fuel ih =>
    intro s
    unfold State.sendFwd
    split
    · exact .refl
    · exact ((talks_hears (sendCtrl_talks n 11 _ _)).trans (fwd_hears fun c => c.fwd.drop 63)).trans (ih _)

theorem flushFwd_hears : Hears s s.flushFwd := by
  unfold State.flushFwd
  split
  · split
    · exact sendFwd_hears _ _ _
    · exact .refl
  · exact .refl

/-- The worker follows a manager. -/
def Follows (t : State) (n : Nat) (m : W64) : Prop := t.cpl.follows = some n ∧ t.cpl.fseq = m

/-- A worker that follows nobody follows the manager that it hears. -/
theorem hear_first (hWorker : s.dev.role.toNat < 2) (hNone : s.cpl.follows = none) (n : Nat) (m : W64) (announce : Bool) :
    Follows (s.hear n m announce) n m := by
  have hEq : s.hear n m announce = (s.modCpl fun c => { c with follows := some n, fseq := m }).flushFwd := by
    unfold State.hear
    rw [if_neg (by omega), hNone]
  obtain ⟨-, -, -, hFollows, hSeq, -⟩ := (flushFwd_hears (s := s.modCpl fun c => { c with follows := some n, fseq := m })).kept
  rw [hEq]
  exact ⟨hFollows, hSeq⟩

theorem restarted_hears (p n : Nat) : Hears s (if (s.cpl.flow p n).failed then s.restartFlow p n else s) := by
  split
  · exact restartFlow_hears _ _
  · exact .refl

theorem hello_form (hOk : x.ok = true) (hLen : 64 ≤ x.payload.length) (hLow : 1 ≤ payNat x.payload 0 1) (hHigh : payNat x.payload 0 1 ≤ 3) :
    (x.ok && decide (64 ≤ x.payload.length) && decide (1 ≤ payNat x.payload 0 1) && decide (payNat x.payload 0 1 ≤ 3)) = true := by
  rw [hOk, decide_eq_true hLen, decide_eq_true hLow, decide_eq_true hHigh]
  rfl

section
variable (hOk : x.ok = true) (hArrives : Arrives s x 6) (hLen : 64 ≤ x.payload.length) (hNode : s.cpl.node ≠ 0x7FFF)
include hOk hArrives hLen hNode

theorem hello_followed (hWorker : s.dev.role.toNat < 2) (hLow : 2 ≤ payNat x.payload 0 1) (hHigh : payNat x.payload 0 1 ≤ 3)
    (hActs : payNat x.payload 1 1 = 2 ∨ payNat x.payload 1 1 = 3) (hNone : s.cpl.follows = none) :
    Gives (.hello x) s (Follows · x.src.toNat (BitVec.ofNat 64 (payNat x.payload 4 8))) := by
  refine gives_hello rfl hArrives (hello_form hOk hLen (by omega) hHigh) fun v hTakes => ?_
  extract_lets v1 acts
  have hHears : Hears s v1 := (takes_hears hTakes).trans (restarted_hears _ _)
  obtain ⟨hDev, kNode, -, hFollows, -⟩ := hHears.kept
  clear_value v1
  rw [← hDev] at hWorker
  rw [if_pos hWorker, if_pos (by simpa [acts, hLow, hActs, kNode] using hNode)]
  exact hear_first hWorker (hFollows.trans hNone) _ _ _

theorem hello_starts (hManager : ¬ s.dev.role.toNat < 2) (hPeer : x.src.toNat = s.peerNode) (hState : s.cpl.mstate = .none)
    (hAsked : s.cpl.asked = false) (hLow : 1 ≤ payNat x.payload 0 1) (hHigh : payNat x.payload 0 1 ≤ 3) (hIdle : payNat x.payload 1 1 = 0) :
    Gives (.hello x) s fun t => t.cpl.mstate = (if s.side = 0 then .active else .standby) ∧ t.cpl.master = decide (s.side = 0) := by
  refine gives_hello rfl hArrives (hello_form hOk hLen hLow hHigh) fun v hTakes => ?_
  extract_lets v1 acts v2 v3
  have hHears : Hears s v1 := (takes_hears hTakes).trans (restarted_hears _ _)
  obtain ⟨hDev, kNode, kState, -, -, kAsked, hSide, kPeer⟩ := hHears.kept
  clear_value v1
  rw [← hDev] at hManager
  have hStay : ¬ (x.src.toNat ≠ v1.peerNode ∨ v1.cpl.node = 0x7FFF) := by
    rw [kPeer, kNode]
    exact fun h => h.elim (· hPeer) hNode
  rw [if_neg hManager, if_neg hStay]
  have hOffers : Offers v2 v3 := by
    change Offers v2 (if _ then _ else _)
    split
    · exact offerKey_offers _ _
    · exact .refl
  have hAfter : v3.cpl.mstate = .none ∧ v3.cpl.asked = false ∧ v3.side = s.side := by
    obtain ⟨_, _, _, _, _, hEq⟩ := hOffers
    rw [hEq]
    exact ⟨kState.trans hState, kAsked.trans hAsked, hSide⟩
  obtain ⟨hState3, hAsked3, hSide3⟩ := hAfter
  clear_value v3
  rw [hState3, hAsked3, hSide3]
  simp only [acts, hIdle]
  by_cases hA : s.side = 0
  · simp [hA, State.modCpl]
  · simp [hA, State.modCpl]

end

/-! ### JOIN and ADMIT (14 R463, R464, R477, R478) -/

/-- What does not look at what a frame changes by being taken is as it was. -/
theorem takes_same {α : Type} {k : W32} (f : State → α) (h : Takes k x s t) (hf : ∀ o d ks fl uc, f { s with
    out := o, sec := { s.sec with draws := d }, cpl := { s.cpl with keys := ks, flows := fl, uncorr := uc } } = f s := by intros; rfl) :
    f t = f s := by
  obtain ⟨o, d, ks, fl, uc, rfl⟩ := h.exists
  exact hf o d ks fl uc

/-- Ports that are as they were raise nothing (14 R457). -/
theorem portEdges_same : s.portEdges s.portsUp = s := by
  unfold State.portEdges
  extract_lets now
  have hNone (v : State) (p : Nat) : (if s.portsUp.getLsbD p && !now.getLsbD p then v.portDown p
      else if !s.portsUp.getLsbD p && now.getLsbD p then v.raise { code := 0x0502, kind := 5, part := p } else v) = v := by
    rw [if_neg (by simp [now]), if_neg (by simp [now])]
  simp only [hNone]
  exact List.foldl_fixed _

theorem hold_gives (reason : Nat) : (s.hold reason).cpl.node = 0x7FFF ∧ (s.hold reason).cpl.wstate = .held ∧
    (s.hold reason).cpl.reason = BitVec.ofNat 8 reason ∧ LastEvent (s.hold reason) 0x0508 := by
  have hEq : ∃ (v : State) (f : Cpl → Cpl), s.hold reason = (v.modCpl f).raise { code := 0x0508, d0 := reason } ∧
      (f v.cpl).node = 0x7FFF ∧ (f v.cpl).wstate = .held ∧ (f v.cpl).reason = BitVec.ofNat 8 reason := ⟨_, _, rfl, rfl, rfl, rfl⟩
  obtain ⟨v, f, hEq, hNode, hState, hReason⟩ := hEq
  rw [hEq]
  exact ⟨hNode, hState, hReason, Lrate.raised_lastEvent (Laws.raise_raised _ { code := 0x0508, d0 := reason })⟩

section
variable (hTurn : InTurn s x 7)
include hTurn

section
variable (hAux : x.aux = 0) (hLen : 136 ≤ x.payload.length) (hActing : s.cpl.acting = true)
include hAux hLen hActing

theorem join_refused (hNo : (s.judge x).2 ≠ 0) : Gives (.join x) s fun t => t.cpl.members = s.cpl.members ∧
    Raised s t 0x0507 0xFFFF (srcOf s 0 0) ∧
    lastSent t x.port x.src.toNat = some (7, BitVec.ofNat 32 (2 ^ 31 + (s.judge x).2), s.admitBody 0 (s.judge x).2) := by
  refine gives_turn rfl hTurn (by simp [hAux, hLen]) (by decide) (by decide) fun v hTakes => ?_
  have kActing : v.cpl.acting = true := (takes_same (·.cpl.acting) hTakes).trans hActing
  extract_lets r v1 u1 u2 o u3
  have hr : r = s.judge x := takes_same (·.judge x) hTakes
  rw [kActing, Bool.not_true, if_neg (by decide), if_pos (hr ▸ hNo)]
  clear_value r
  subst hr
  have hRaised : Raised s v1 0x0507 0xFFFF (srcOf s 0 0) :=
    hTakes.raised (takes_same (srcOf · 0 0) hTakes ▸ Laws.raise_raised v _)
  have kMembers : v1.cpl.members = s.cpl.members :=
    (show v1.cpl.members = v.cpl.members from rfl).trans (takes_same (·.cpl.members) hTakes)
  have kBody : v1.admitBody 0 (s.judge x).2 = s.admitBody 0 (s.judge x).2 :=
    (show v1.admitBody 0 (s.judge x).2 = v.admitBody 0 (s.judge x).2 from rfl).trans (takes_same (·.admitBody 0 (s.judge x).2) hTakes)
  clear_value v1
  obtain ⟨hTalks, hLast, -⟩ := sendFrame_gives (s := v1) x.port x.src.toNat 7 (BitVec.ofNat 32 (2 ^ 31 + (s.judge x).2)) 0 0xFFFF
    (v1.admitBody 0 (s.judge x).2) []
  have hEvent := hTalks.raised_before hRaised
  have hMembers : (v1.sendFrame x.port x.src.toNat 7 (BitVec.ofNat 32 (2 ^ 31 + (s.judge x).2)) 0 0xFFFF
      (v1.admitBody 0 (s.judge x).2)).cpl.members = s.cpl.members := by
    rw [hTalks.rest]
    exact kMembers
  rw [kBody] at *
  exact fun o d ks => ⟨hMembers, hEvent, hLast⟩

theorem join_admitted (hYes : (s.judge x).2 = 0) :
    Gives (.join x) s fun t => ((s.judge x).1, sm3 ((x.payload.drop 72).take 64)) ∈ t.cpl.members := by
  refine gives_turn rfl hTurn (by simp [hAux, hLen]) (by decide) (by decide) fun v hTakes => ?_
  have kActing : v.cpl.acting = true := (takes_same (·.cpl.acting) hTakes).trans hActing
  extract_lets r u1 v1 e v2 o v3
  have hr : r = s.judge x := takes_same (·.judge x) hTakes
  rw [kActing, Bool.not_true, if_neg (by decide), if_neg (not_not.mpr (hr ▸ hYes))]
  clear_value r
  subst hr
  have hPasses : Passes v1 (v3.actAll (membershipCmd 0 (s.judge x).1 1 (sm3 ((x.payload.drop 72).take 64)))) := by
    have hMirror : Passes v1 v2 := (mirror_acts _ _).passes
    have hOwed : Passes v2 v3 := by
      change Passes v2 (if _ then _ else _)
      split
      · exact ⟨_, _, _, _, _, _, _, _, rfl⟩
      · exact pay_passes _
    exact (hMirror.trans hOwed).trans (actAll_acts _).passes
  have hIn : ((s.judge x).1, sm3 ((x.payload.drop 72).take 64)) ∈ v1.cpl.members := List.mem_append_right _ List.mem_cons_self
  generalize v3.actAll _ = w at hPasses
  clear_value v1
  obtain ⟨_, _, _, _, _, _, _, _, rfl⟩ := hPasses
  exact fun _ _ _ => hIn

end

section
variable (hOk : x.ok = true) (hAux : x.aux.getLsbD 31 = true) (hLen : 236 ≤ x.payload.length) (hState : s.cpl.wstate = .joining)
  (hKey : sm3 ((x.payload.drop 104).take 64) = s.prf.opKey)
  (hSigned : Config.sm2Verify ((x.payload.drop 104).take 64) (BitVec.ofNat 256 (payNat x.payload 8 32)) ((x.payload.drop 40).take 64) = true)
include hOk hAux hLen hState hKey hSigned

theorem admit_joined (hMember : payNat x.payload 0 1 ≠ 0) : Gives (.admitFrame x) s fun t =>
    t.cpl.node = BitVec.ofNat 15 (s.cpl.sect.basin * 256 + payNat x.payload 0 1) ∧
      t.cpl.wstate = .unsync ∧ t.cpl.epoch = BitVec.ofNat 32 (payNat x.payload 4 4) ∧ t.cpl.follows = some x.src.toNat := by
  refine gives_turn rfl hTurn (by simp [hOk, hAux, hLen]) (by decide) (by decide) fun v hTakes => ?_
  have kState : v.cpl.wstate = .joining := (takes_same (·.cpl.wstate) hTakes).trans hState
  have kKey : v.prf.opKey = s.prf.opKey := takes_same (·.prf.opKey) hTakes
  have kBasin : v.cpl.sect.basin = s.cpl.sect.basin := takes_same (·.cpl.sect.basin) hTakes
  extract_lets old
  rw [if_neg (not_not.mpr kState), if_neg (by simp [kKey, hKey, hSigned]), if_neg hMember]
  generalize hw : v.modCpl _ = w
  have hPorts : w.portsUp = old := hw ▸ rfl
  rw [← hPorts, portEdges_same, ← hw]
  exact fun o d ks => ⟨congrArg (fun b => BitVec.ofNat 15 (b * 256 + payNat x.payload 0 1)) kBasin, rfl, rfl, rfl⟩

theorem admit_held (hMember : payNat x.payload 0 1 = 0) : Gives (.admitFrame x) s fun t => t.cpl.node = 0x7FFF ∧ t.cpl.wstate = .held ∧
    t.cpl.reason = BitVec.ofNat 8 (payNat x.payload 1 1) ∧ LastEvent t 0x0508 := by
  refine gives_turn rfl hTurn (by simp [hOk, hAux, hLen]) (by decide) (by decide) fun v hTakes => ?_
  have kState : v.cpl.wstate = .joining := (takes_same (·.cpl.wstate) hTakes).trans hState
  have kKey : v.prf.opKey = s.prf.opKey := takes_same (·.prf.opKey) hTakes
  extract_lets old
  rw [if_neg (not_not.mpr kState), if_neg (by simp [kKey, hKey, hSigned]), if_pos hMember]
  obtain ⟨hNode, hHeld, hReason, hEvent⟩ := hold_gives (s := v) (payNat x.payload 1 1)
  exact fun o d ks => ⟨hNode, hHeld, hReason, hEvent⟩

end

end

/-! ### Commands of the manager (14 R465, R466, R487, R490, R491) -/

theorem prepareSlot_kept (slot : Nat) (k : Option Nat) : ∃ q, s.prepareSlot slot k = { s with prf := q } := by
  unfold State.prepareSlot
  split
  · exact ⟨_, rfl⟩
  · exact ⟨_, rfl⟩

theorem prepareSlot_begun {slot : Nat} (k : Option Nat) (hChg : s.prf.chg = .none) (hStart : s.startDiffers (profHdr (s.slotImg slot)) = false) :
    ∃ q, s.prepareSlot slot k = { s with prf := q } ∧ q.chg = .verifying false ∧ q.target = BitVec.ofNat 2 slot ∧ q.atCycle = k := by
  unfold State.prepareSlot
  rw [if_neg (by simp [hChg, hStart])]
  exact ⟨_, rfl, rfl, rfl, rfl⟩

/-- A manager has been fenced. -/
def Fenced (s t : State) : Prop := t.cpl.mstate = .fenced ∧ t.cpl.master = false ∧ Raised s t 0x050D 0xFFFF (srcOf s 0 0)

theorem fence_fenced (m : W64) : Fenced s (s.fence m) := by
  have hEq : ∃ (g : Mgt) (a b : Nat), s.fence m = (({ s with mgt := g } : State).modCpl fun c => { c with
      mstate := .fenced, master := false, owed := [], heldRecs := [], snapSent := false }).raise { code := 0x050D, d0 := a, d1 := b } :=
    ⟨_, _, _, rfl⟩
  obtain ⟨g, a, b, hEq⟩ := hEq
  have hRaised := Laws.raise_raised (({ s with mgt := g } : State).modCpl fun c => { c with
    mstate := .fenced, master := false, owed := [], heldRecs := [], snapSent := false }) { code := 0x050D, d0 := a, d1 := b }
  rw [hEq]
  exact ⟨rfl, rfl, hRaised⟩

/-- What a device does once it has taken a frame counts as done since before. -/
theorem Fenced.of_takes {k : W32} (hTakes : Takes k x s t) (h : Fenced t u) : Fenced s u := by
  obtain ⟨hState, hMaster, hRaised⟩ := h
  rw [takes_same (srcOf · 0 0) hTakes] at hRaised
  exact ⟨hState, hMaster, hTakes.raised hRaised⟩

theorem Fenced.answered (h : Fenced s t) : Answered (Fenced s) t := fun _ _ _ => h

theorem payNat_inner (b : List Byte) (o p n l : Nat) (h : p + n ≤ l) : payNat ((b.drop o).take l) p n = payNat b (o + p) n := by
  unfold payNat
  rw [List.drop_take, List.take_take, List.drop_drop, Nat.min_eq_left (by omega)]

/-- An entry of a MEMBERSHIP command. -/
theorem memberEntry_gives (cycle : Nat) (b : List Byte) :
    (payNat b 1 1 = 1 → (payNat b 0 1, BitVec.ofNat 256 (payNat b 4 32)) ∈ (s.memberEntry cycle b).cpl.members ∧
      UnitsKept s (s.memberEntry cycle b)) ∧
    (payNat b 1 1 = 2 → (payNat b 0 1, BitVec.ofNat 64 cycle) ∈ (s.memberEntry cycle b).cpl.pendOut ∧
      UnitsKept s (s.memberEntry cycle b)) := by
  unfold State.memberEntry
  refine ⟨fun hAdd => ?_, fun hOut => ?_⟩
  · rw [hAdd]
    extract_lets m n v
    have hOffers : Offers v (if v.cpl.node.toNat = n || v.cpl.node = 0x7FFF || (v.cpl.key n).isSome then v else v.offerKey n 1) := by
      split
      · exact .refl
      · exact offerKey_offers _ _
    have hIn : (m, BitVec.ofNat 256 (payNat b 4 32)) ∈ v.cpl.members := List.mem_append_right _ List.mem_cons_self
    have hUnits : UnitsKept s v := ⟨rfl, rfl, rfl, rfl, rfl⟩
    clear_value v
    obtain ⟨_, _, _, _, _, hEq⟩ := hOffers
    simp only
    rw [hEq]
    exact ⟨hIn, hUnits⟩
  · rw [hOut]
    exact ⟨List.mem_append_right _ List.mem_cons_self, rfl, rfl, rfl, rfl, rfl⟩

section
variable (hOk : x.ok = true) (hTurn : InTurn s x 8)
include hOk

theorem ctrl_form {cmd len : Nat} (hCmd : payNat x.payload 0 4 = cmd) (hLen : len ≤ x.payload.length) :
    (x.ok && payNat x.payload 0 4 == cmd && decide (len ≤ x.payload.length)) = true := by
  rw [hOk, hCmd, decide_eq_true hLen]
  simp

include hTurn

theorem activate_gives (hFrom : s.fromManager x = true) (hCmd : payNat x.payload 0 4 = 1) (hLen : 16 ≤ x.payload.length) {k : Nat}
    (hSlot : s.slotOfEpoch (BitVec.ofNat 32 (payNat x.payload 4 4)) = some k) (hChg : s.prf.chg = .none)
    (hStart : s.startDiffers (profHdr (s.slotImg k)) = false) : Gives (.ctrlActivate x) s fun t =>
      t.cpl.pendSw = some (BitVec.ofNat 32 (payNat x.payload 4 4), BitVec.ofNat 64 (payNat x.payload 8 8)) ∧ t.prf.chg = .verifying false ∧
        t.prf.target = BitVec.ofNat 2 k ∧ t.prf.atCycle = some (payNat x.payload 8 8) ∧ UnitsKept s t := by
  refine gives_turn rfl hTurn (ctrl_form hOk hCmd hLen) (by decide) (by decide) fun v hTakes => ?_
  have kFrom : v.fromManager x = true := (takes_same (·.fromManager x) hTakes).trans hFrom
  have kSlot : v.slotOfEpoch (BitVec.ofNat 32 (payNat x.payload 4 4)) = some k :=
    (takes_same (·.slotOfEpoch (BitVec.ofNat 32 (payNat x.payload 4 4))) hTakes).trans hSlot
  have kChg : v.prf.chg = .none := (takes_same (·.prf.chg) hTakes).trans hChg
  have kStart : v.startDiffers (profHdr (v.slotImg k)) = false := (takes_same (fun w => w.startDiffers (profHdr (w.slotImg k))) hTakes).trans hStart
  have hUnits := hTakes.units
  rw [kFrom, Bool.not_true, if_neg (by decide), kSlot]
  obtain ⟨q, hEq, qChg, qTarget, qCycle⟩ := prepareSlot_begun
    (s := v.modCpl fun c => { c with pendSw := some (BitVec.ofNat 32 (payNat x.payload 4 4), BitVec.ofNat 64 (payNat x.payload 8 8)) })
    (some (payNat x.payload 8 8)) kChg kStart
  dsimp only
  rw [hEq]
  exact fun o d ks => ⟨rfl, qChg, qTarget, qCycle, hUnits⟩

theorem assume_gives (hFrom : s.fromManager x = true) (hCmd : payNat x.payload 0 4 = 2) (hLen : 16 ≤ x.payload.length) (hRole : s.dev.role = 1) :
    Gives (.assume x) s fun t => t.cpl.assume_ = some (payNat x.payload 4 1, payNat x.payload 5 1 % 4, BitVec.ofNat 64 (payNat x.payload 8 8)) ∧
      UnitsKept s t := by
  refine gives_turn rfl hTurn (ctrl_form hOk hCmd hLen) (by decide) (by decide) fun v hTakes => ?_
  have kFrom : v.fromManager x = true := (takes_same (·.fromManager x) hTakes).trans hFrom
  have kRole : v.dev.role = 1 := (takes_same (·.dev.role) hTakes).trans hRole
  have hUnits := hTakes.units
  rw [if_neg (by simp [kFrom, kRole])]
  obtain ⟨q, hEq⟩ := prepareSlot_kept (s := v.modCpl fun c => { c with
    assume_ := some (payNat x.payload 4 1, payNat x.payload 5 1 % 4, BitVec.ofNat 64 (payNat x.payload 8 8)) }) (payNat x.payload 5 1 % 4) none
  rw [hEq]
  exact fun o d ks => ⟨rfl, hUnits⟩

theorem fence_gives (hCmd : payNat x.payload 0 4 = 3) (hLen : 16 ≤ x.payload.length) (hClaims : s.cpl.claims = true)
    (hWinner : payNat x.payload 4 2 = s.peerNode) (hWins : s.peerWins (BitVec.ofNat 64 (payNat x.payload 8 8)) = true) :
    Gives (.fence x) s (Fenced s) := by
  refine gives_turn rfl hTurn (ctrl_form hOk hCmd hLen) (by decide) (by decide) fun v hTakes => ?_
  have kClaims : v.cpl.claims = true := (takes_same (·.cpl.claims) hTakes).trans hClaims
  have kPeer : v.peerNode = s.peerNode := takes_same (·.peerNode) hTakes
  have kWins : v.peerWins (BitVec.ofNat 64 (payNat x.payload 8 8)) = true :=
    (takes_same (·.peerWins (BitVec.ofNat 64 (payNat x.payload 8 8))) hTakes).trans hWins
  rw [if_pos (by simp [kClaims, kPeer, kWins, hWinner])]
  exact ((fence_fenced _).of_takes hTakes).answered

theorem membership_gives (hFrom : s.fromManager x = true) (hCmd : payNat x.payload 0 4 = 4) (hLen : 52 ≤ x.payload.length)
    (hWorker : s.dev.role.toNat < 2) (hOne : payNat x.payload 4 2 = 1) :
    (payNat x.payload 17 1 = 1 → Gives (.membership x) s fun t =>
      (payNat x.payload 16 1, BitVec.ofNat 256 (payNat x.payload 20 32)) ∈ t.cpl.members ∧ UnitsKept s t) ∧
    (payNat x.payload 17 1 = 2 → Gives (.membership x) s fun t =>
      (payNat x.payload 16 1, BitVec.ofNat 64 (payNat x.payload 8 8)) ∈ t.cpl.pendOut ∧ UnitsKept s t) := by
  have hEffect (P : State → Prop) (hP : ∀ v, Takes 1 x s v →
      Answered P (v.memberEntry (payNat x.payload 8 8) ((x.payload.drop 16).take 36))) : Gives (.membership x) s P := by
    refine gives_turn rfl hTurn (ctrl_form hOk hCmd (by rw [hOne]; exact hLen)) (by decide) (by decide) fun v hTakes => ?_
    have kFrom : v.fromManager x = true := (takes_same (·.fromManager x) hTakes).trans hFrom
    have kRole : v.dev.role.toNat < 2 := (takes_same (·.dev.role) hTakes) ▸ hWorker
    rw [if_neg (by simp [kFrom, kRole]), hOne]
    exact hP v hTakes
  have hField (o n : Nat) (h : o + n ≤ 36) : payNat ((x.payload.drop 16).take 36) o n = payNat x.payload (16 + o) n := payNat_inner _ _ _ _ _ h
  refine ⟨fun hAdd => hEffect _ fun v hTakes => ?_, fun hOut => hEffect _ fun v hTakes => ?_⟩
  · obtain ⟨hIn, hUnits⟩ := (memberEntry_gives (s := v) (payNat x.payload 8 8) ((x.payload.drop 16).take 36)).1
      ((hField 1 1 (by decide)).trans hAdd)
    rw [hField 0 1 (by decide), hField 4 32 (by decide)] at hIn
    exact fun o d ks => ⟨hIn, units_trans hTakes.units hUnits⟩
  · obtain ⟨hIn, hUnits⟩ := (memberEntry_gives (s := v) (payNat x.payload 8 8) ((x.payload.drop 16).take 36)).2
      ((hField 1 1 (by decide)).trans hOut)
    rw [hField 0 1 (by decide)] at hIn
    exact fun o d ks => ⟨hIn, units_trans hTakes.units hUnits⟩

theorem active_gives (hCmd : payNat x.payload 0 4 = 5) (hLen : 20 ≤ x.payload.length) (hWorker : s.dev.role.toNat < 2)
    (hNode : s.cpl.node ≠ 0x7FFF) (hSelf : payNat x.payload 4 2 = x.src.toNat) (hNone : s.cpl.follows = none) : Gives (.active x) s fun t =>
      t.cpl.follows = some x.src.toNat ∧ t.cpl.fseq = BitVec.ofNat 64 (payNat x.payload 8 8) ∧
        t.cpl.epoch = BitVec.ofNat 32 (payNat x.payload 16 4) := by
  refine gives_turn rfl hTurn (ctrl_form hOk hCmd hLen) (by decide) (by decide) fun v hTakes => ?_
  have kRole : v.dev.role.toNat < 2 := (takes_same (·.dev.role) hTakes) ▸ hWorker
  have kNode : v.cpl.node ≠ 0x7FFF := (takes_same (·.cpl.node) hTakes) ▸ hNode
  have kNone : v.cpl.follows = none := (takes_same (·.cpl.follows) hTakes).trans hNone
  obtain ⟨hFollows, hSeq⟩ := hear_first kRole kNone x.src.toNat (BitVec.ofNat 64 (payNat x.payload 8 8)) true
  dsimp only
  rw [if_neg (by simpa [kRole, hSelf] using kNode), if_pos hFollows]
  exact fun o d ks => ⟨hFollows, hSeq, rfl⟩

end

/-! ### The mirror (14 R467, R468, R486, R487) -/

theorem mirAck_talks : Talks s s.mirAck := sendCtrl_talks _ _ _ _

/-- A record of the stream does not change who acts. -/
theorem applyMir_mstate (c : Cpl) (r : MirRec) : (c.applyMir r).mstate = c.mstate := by
  unfold Cpl.applyMir
  split <;> rfl

theorem applyMir_epoch (c : Cpl) (r : MirRec) (h : r.kind = 2) :
    (c.applyMir r).epoch = BitVec.ofNat 32 (payNat r.body 0 4) ∧ (c.applyMir r).pendSw = none := by
  unfold Cpl.applyMir
  rw [h]
  exact ⟨rfl, rfl⟩

theorem mirRecord_next {p : Fin 8} {r : MirRec} (hLow : 1 ≤ r.kind) (hHigh : r.kind < 7) (hLen : r.body.length = mirLen r.kind)
    (hSeq : r.mseq = s.cpl.mseq + 1) : s.mirRecord p r = s.modCpl fun c => { c.applyMir r with mseq := r.mseq } := by
  unfold State.mirRecord
  rw [if_neg (by omega), if_neg (not_not.mpr hSeq)]

section
variable (hOk : x.ok = true) (hPeer : x.src.toNat = s.peerNode)

section
variable (hTurn : InTurn s x 9)
include hOk hPeer hTurn

theorem mirrorRecords_gives (hAux : x.aux = 0) (hState : s.cpl.mstate = .standby) {r : MirRec}
    (hRec : mirRecs x.payload (x.payload.length / 16 + 1) = some [r]) (hLow : 1 ≤ r.kind) (hHigh : r.kind < 7)
    (hLen : r.body.length = mirLen r.kind) (hSeq : r.mseq = s.cpl.mseq + 1) : Gives (.mirrorRecords x) s fun t =>
      t.cpl.mseq = r.mseq ∧ t.cpl.mstate = .standby ∧ UnitsKept s t ∧
        (r.kind = 2 → t.cpl.epoch = BitVec.ofNat 32 (payNat r.body 0 4) ∧ t.cpl.pendSw = none) := by
  refine gives_turn rfl hTurn (by simp [hOk, hAux, hRec]) (by decide) (by decide) fun v hTakes => ?_
  have kState : v.cpl.mstate = .standby := (takes_same (·.cpl.mstate) hTakes).trans hState
  have kPeer : x.src.toNat = v.peerNode := hPeer.trans (takes_same (·.peerNode) hTakes).symm
  have kSeq : r.mseq = v.cpl.mseq + 1 := (takes_same (·.cpl.mseq) hTakes) ▸ hSeq
  have hUnits := hTakes.units
  rw [hRec, if_neg (by simp [kState, kPeer]), Option.getD_some, List.foldl_cons, List.foldl_nil, mirRecord_next hLow hHigh hLen kSeq]
  obtain ⟨_, _, _, _, hEq⟩ := (mirAck_talks (s := v.modCpl fun c => { c.applyMir r with mseq := r.mseq })).exists
  rw [hEq]
  exact fun o d ks => ⟨rfl, (applyMir_mstate _ _).trans kState, hUnits, applyMir_epoch v.cpl r⟩

theorem mirrorAck_gives (hAux : x.aux = 1) (hLen : x.payload.length = 8)
    (hNew : newer64 (BitVec.ofNat 64 (payNat x.payload 0 8)) s.cpl.macked = true) : Gives (.mirrorAck x) s fun t =>
      t.cpl.macked = BitVec.ofNat 64 (payNat x.payload 0 8) ∧ (s.cpl.mstate = .solo → s.cpl.snapSent = true → t.cpl.mstate = .active) := by
  refine gives_turn rfl hTurn (by simp [hOk, hAux, hLen]) (by decide) (by decide) fun v hTakes => ?_
  have kPeer : x.src.toNat = v.peerNode := hPeer.trans (takes_same (·.peerNode) hTakes).symm
  have kAcked : v.cpl.macked = s.cpl.macked := takes_same (·.cpl.macked) hTakes
  have kState : v.cpl.mstate = s.cpl.mstate := takes_same (·.cpl.mstate) hTakes
  have kSent : v.cpl.snapSent = s.cpl.snapSent := takes_same (·.cpl.snapSent) hTakes
  extract_lets w
  rw [if_neg (not_not.mpr kPeer)]
  have hPasses : Passes w (if w.cpl.mstate = .active then w.payOwed else w) := by
    split
    · exact payOwed_passes
    · exact .refl
  have hAcked : w.cpl.macked = BitVec.ofNat 64 (payNat x.payload 0 8) := if_pos (kAcked ▸ hNew)
  have hState : s.cpl.mstate = .solo → s.cpl.snapSent = true → w.cpl.mstate = .active :=
    fun hSolo hSent => if_pos ⟨kState.trans hSolo, kSent.trans hSent⟩
  clear_value w
  obtain ⟨_, _, _, _, _, _, _, _, hEq⟩ := hPasses
  rw [hEq]
  exact fun o d ks => ⟨hAcked, hState⟩

theorem snapshotReq_gives (hAux : x.aux = 2) (hEmpty : x.payload = []) (hActing : s.cpl.acting = true) : Gives (.snapshotReq x) s fun t =>
    t.cpl.snapSent = true ∧ t.cpl.mstate = s.cpl.mstate ∧ UnitsKept s t := by
  refine gives_turn rfl hTurn (by simp [hOk, hAux, hEmpty]) (by decide) (by decide) fun v hTakes => ?_
  have kPeer : x.src.toNat = v.peerNode := hPeer.trans (takes_same (·.peerNode) hTakes).symm
  have kActing : v.cpl.acting = true := (takes_same (·.cpl.acting) hTakes).trans hActing
  have kState : v.cpl.mstate = s.cpl.mstate := takes_same (·.cpl.mstate) hTakes
  have hUnits := hTakes.units
  rw [if_neg (by simp [kActing, kPeer])]
  obtain ⟨_, _, _, _, hEq⟩ := (Talks.foldl (f := fun (w : State) b => w.sendCtrl w.peerNode 9 3 b) (fun _ _ => sendCtrl_talks _ _ _ _)
    (packRecs [] v.snapRecs) v).exists
  dsimp only
  rw [hEq]
  exact fun o d ks => ⟨rfl, kState, hUnits⟩

section
variable (hAux : x.aux = 3) (hManager : ¬ s.dev.role.toNat < 2) (hAsked : s.cpl.asked = true) {rs : List MirRec}
  (hRecs : mirRecs x.payload (x.payload.length / 16 + 1) = some rs)
include hAux hManager hAsked hRecs

theorem snapshot_applied {r : MirRec} (hKnown : ∀ q ∈ rs, 1 ≤ q.kind ∧ q.kind ≤ 7 ∧ q.body.length = mirLen q.kind)
    (hLast : (s.cpl.snap ++ rs).getLast? = some r) (hEnd : r.kind = 7) : Gives (.snapshot x) s fun t =>
      t.cpl.mstate = .standby ∧ t.cpl.mseq = r.mseq ∧ t.cpl.asked = false ∧ t.cpl.snap = [] ∧ UnitsKept s t := by
  refine gives_turn rfl hTurn (by simp [hOk, hAux, hRecs]) (by decide) (by decide) fun v hTakes => ?_
  have kPeer : x.src.toNat = v.peerNode := hPeer.trans (takes_same (·.peerNode) hTakes).symm
  have kManager : ¬ v.dev.role.toNat < 2 := (takes_same (·.dev.role) hTakes) ▸ hManager
  have kAsked : v.cpl.asked = true := (takes_same (·.cpl.asked) hTakes).trans hAsked
  have kLast : (v.cpl.snap ++ rs).getLast? = some r := (congrArg (fun l => (l ++ rs).getLast?) (takes_same (·.cpl.snap) hTakes)).trans hLast
  have hUnits := hTakes.units
  have hGood : (rs.any fun r => decide (r.kind = 0 ∨ 7 < r.kind ∨ r.body.length ≠ mirLen r.kind)) = false := by
    rw [List.any_eq_false]
    intro q hq
    obtain ⟨hLow, hHigh, hLen⟩ := hKnown q hq
    rw [decide_eq_true_eq]
    omega
  extract_lets all
  have kAll : all.getLast? = some r := by
    simp only [all, hRecs, Option.getD_some]
    exact kLast
  rw [if_neg (by simp [kPeer, kManager, kAsked]), hRecs, Option.getD_some, hGood, if_neg (by decide), kAll]
  dsimp only
  rw [if_neg (not_not.mpr hEnd)]
  generalize hw : v.modCpl _ = w
  have hAfter : w.cpl.mstate = .standby ∧ w.cpl.mseq = r.mseq ∧ w.cpl.asked = false ∧ w.cpl.snap = [] ∧ UnitsKept s w := by
    rw [← hw]
    exact ⟨rfl, rfl, rfl, rfl, hUnits⟩
  clear hw
  obtain ⟨_, _, _, _, hEq⟩ := (mirAck_talks (s := w)).exists
  rw [hEq]
  exact fun o d ks => hAfter

theorem snapshot_refused (hBad : ∃ q ∈ rs, ¬ (1 ≤ q.kind ∧ q.kind ≤ 7 ∧ q.body.length = mirLen q.kind)) : Gives (.snapshot x) s fun t =>
    t.cpl.bad[x.port] = stick32 s.cpl.bad[x.port] 1 ∧ t.cpl.asked = true ∧ t.cpl.snap = [] ∧ UnitsKept s t := by
  refine gives_turn rfl hTurn (by simp [hOk, hAux, hRecs]) (by decide) (by decide) fun v hTakes => ?_
  have kPeer : x.src.toNat = v.peerNode := hPeer.trans (takes_same (·.peerNode) hTakes).symm
  have kManager : ¬ v.dev.role.toNat < 2 := (takes_same (·.dev.role) hTakes) ▸ hManager
  have kAsked : v.cpl.asked = true := (takes_same (·.cpl.asked) hTakes).trans hAsked
  have kBad : v.cpl.bad = s.cpl.bad := takes_same (·.cpl.bad) hTakes
  have hUnits := hTakes.units
  have hAny : (rs.any fun r => decide (r.kind = 0 ∨ 7 < r.kind ∨ r.body.length ≠ mirLen r.kind)) = true := by
    obtain ⟨q, hq, hNot⟩ := hBad
    rw [List.any_eq_true]
    exact ⟨q, hq, decide_eq_true (by omega)⟩
  extract_lets all
  rw [if_neg (by simp [kPeer, kManager, kAsked]), hRecs, Option.getD_some, hAny, if_pos rfl]
  obtain ⟨_, _, _, _, hEq⟩ := (sendCtrl_talks (s := (v.frameBad x.port).modCpl fun c => { c with asked := true, snap := [] })
    (v.frameBad x.port).peerNode 9 2 []).exists
  have hAsk : (v.frameBad x.port).askSnapshot = ((v.frameBad x.port).modCpl fun c => { c with asked := true, snap := [] }).sendCtrl
    (v.frameBad x.port).peerNode 9 2 [] := rfl
  have hCount : (v.frameBad x.port).cpl.bad[x.port] = stick32 s.cpl.bad[x.port] 1 :=
    (Vector.getElem_set_self _).trans (by rw [kBad])
  rw [hAsk, hEq]
  exact fun o d ks => ⟨hCount, rfl, rfl, hUnits⟩

end

end

/-! ### CLAIM and REFUSE (14 R461, R487, R488) -/

section
variable (hTurn : InTurn s x 10) (hLen : x.payload.length = 16)
include hOk hPeer hTurn hLen

section
variable (hAux : x.aux = 0) (hClaims : s.cpl.claims = true)
include hAux hClaims

theorem claim_lost (hWins : s.peerWins (BitVec.ofNat 64 (payNat x.payload 0 8)) = true) : Gives (.claim x) s (Fenced s) := by
  refine gives_turn rfl hTurn (by simp [hOk, hAux, hLen]) (by decide) (by decide) fun v hTakes => ?_
  have kPeer : x.src.toNat = v.peerNode := hPeer.trans (takes_same (·.peerNode) hTakes).symm
  have kClaims : v.cpl.claims = true := (takes_same (·.cpl.claims) hTakes).trans hClaims
  have kWins : v.peerWins (BitVec.ofNat 64 (payNat x.payload 0 8)) = true :=
    (takes_same (·.peerWins (BitVec.ofNat 64 (payNat x.payload 0 8))) hTakes).trans hWins
  rw [if_neg (by simp [kPeer, kClaims]), if_pos kWins]
  exact ((fence_fenced _).of_takes hTakes).answered

theorem claim_refused (hWins : s.peerWins (BitVec.ofNat 64 (payNat x.payload 0 8)) = false) : Gives (.claim x) s fun t =>
    t.cpl.mstate = s.cpl.mstate ∧ ∀ p ps, s.mgrPorts = p :: ps → s.cpl.acting = true → lastSent t p x.src.toNat = some (10, 1, s.claimBody) := by
  refine gives_turn rfl hTurn (by simp [hOk, hAux, hLen]) (by decide) (by decide) fun v hTakes => ?_
  have kPeer : v.peerNode = x.src.toNat := (takes_same (·.peerNode) hTakes).trans hPeer.symm
  have kClaims : v.cpl.claims = true := (takes_same (·.cpl.claims) hTakes).trans hClaims
  have kWins : v.peerWins (BitVec.ofNat 64 (payNat x.payload 0 8)) = false :=
    (takes_same (·.peerWins (BitVec.ofNat 64 (payNat x.payload 0 8))) hTakes).trans hWins
  have kActing : v.cpl.acting = s.cpl.acting := takes_same (·.cpl.acting) hTakes
  have kBody : v.claimBody = s.claimBody := takes_same (·.claimBody) hTakes
  have kPorts : v.mgrPorts = s.mgrPorts := takes_same (·.mgrPorts) hTakes
  have kState : v.cpl.mstate = s.cpl.mstate := takes_same (·.cpl.mstate) hTakes
  rw [if_neg (by simp [kPeer, kClaims]), if_neg (by simp [kWins]), kActing, kPeer, kBody]
  cases hActing : s.cpl.acting with
  | false =>
    refine fun o d ks => ⟨kState, fun _ _ _ h => ?_⟩
    cases h
  | true =>
    obtain ⟨_, _, _, _, hEq⟩ := (sendCtrl_talks (s := v) x.src.toNat 10 1 s.claimBody).exists
    have hState : (v.sendCtrl x.src.toNat 10 1 s.claimBody).cpl.mstate = s.cpl.mstate := by
      rw [hEq]
      exact kState
    exact fun o d ks => ⟨hState, fun p ps hPorts _ => (sendCtrl_last (kPorts.trans hPorts) x.src.toNat 10 1 s.claimBody).1⟩

end

theorem refuse_gives (hAux : x.aux = 1) (hWins : s.peerWins (BitVec.ofNat 64 (payNat x.payload 0 8)) = true) (hState : s.cpl.mstate = .claiming) :
    Gives (.refuse x) s fun t => t.cpl.mstate = .standby ∧ UnitsKept s t := by
  refine gives_turn rfl hTurn (by simp [hOk, hAux, hLen]) (by decide) (by decide) fun v hTakes => ?_
  have kPeer : x.src.toNat = v.peerNode := hPeer.trans (takes_same (·.peerNode) hTakes).symm
  have kState : v.cpl.mstate = .claiming := (takes_same (·.cpl.mstate) hTakes).trans hState
  have kWins : v.peerWins (BitVec.ofNat 64 (payNat x.payload 0 8)) = true :=
    (takes_same (·.peerWins (BitVec.ofNat 64 (payNat x.payload 0 8))) hTakes).trans hWins
  have hUnits := hTakes.units
  rw [if_neg (by simp [kPeer, kWins]), if_pos kState]
  exact fun o d ks => ⟨rfl, hUnits⟩

end

end

/-! ### What workers report (14 R484, R486, R490) -/

theorem keepRecord_last (m : Mgt) (r : ErrRec) : (keepRecord m r).recs.getLast? = some r := by
  unfold keepRecord
  split
  · exact List.getLast?_concat
  · exact List.getLast?_concat

/-- A record that is forwarded is the newest for the collector. -/
theorem forward_last (b : List Byte) : (s.forward b).mgt.recs.getLast? = some (errRecOf b) ∧ UnitsKept s (s.forward b) := by
  obtain ⟨_, _, _, _, _, _, hEq⟩ := forward_acts (s := s) b
  rw [hEq]
  exact ⟨keepRecord_last _ _, rfl, rfl, rfl, rfl, rfl⟩

theorem record_gives (hOk : x.ok = true) (hTurn : InTurn s x 11) (hAux : x.aux = 1) (hLen : x.payload.length = 64) (hSolo : s.cpl.mstate = .solo) :
    Gives (.record x) s fun t => t.mgt.recs.getLast? = some (errRecOf x.payload) ∧ UnitsKept s t := by
  refine gives_turn rfl hTurn (by simp [hOk, hAux, hLen]) (by decide) (by decide) fun v hTakes => ?_
  have kSolo : v.cpl.mstate = .solo := (takes_same (·.cpl.mstate) hTakes).trans hSolo
  have kActing : v.cpl.acting = true := by
    rw [Cpl.acting, kSolo]
    rfl
  have hUnits := hTakes.units
  have hAll : (x.payload.drop (64 * 0)).take 64 = x.payload := List.take_of_length_le (by simp [hLen])
  rw [kActing, hAux, Bool.not_true, if_neg (by decide), show List.range (1 : W32).toNat = [0] from rfl, List.foldl_cons, List.foldl_nil]
  dsimp only
  rw [hAll]
  generalize hw : State.mirror _ 5 x.payload = w
  have hAfter : w.cpl.mstate = .solo ∧ UnitsKept s w := by
    obtain ⟨_, _, _, _, _, _, hEq⟩ := mirror_acts (s := v.modCpl fun c => { c with
      heldRecs := c.heldRecs ++ [(x.src.toNat, x.payload)] }) 5 x.payload
    rw [← hw, hEq]
    exact ⟨kSolo, hUnits⟩
  obtain ⟨hState, kUnits⟩ := hAfter
  obtain ⟨hLast, hKept⟩ := forward_last (s := w) x.payload
  rw [hState, if_neg (by decide)]
  exact fun o d ks => ⟨hLast, units_trans kUnits hKept⟩

theorem status_gives (hOk : x.ok = true) (hTurn : InTurn s x 12) (hLen : x.payload.length = 16) (hActing : s.cpl.acting = true)
    (hMember : s.isMember x.src.toNat = true) : Gives (.status x) s fun t => (x.src.toNat % 256, x.payload) ∈ t.cpl.views ∧ UnitsKept s t ∧
      (payNat x.payload 6 1 = 2 ∨ payNat x.payload 6 1 = 3 → ∀ e, s.spareFor (x.src.toNat % 256) = some e →
        ∃ q ∈ t.cpl.pendRel, q.1 = x.src.toNat % 256 ∧ q.2.1 = e.member) := by
  refine gives_turn rfl hTurn (by simp [hOk, hLen]) (by decide) (by decide) fun v hTakes => ?_
  have kActing : v.cpl.acting = true := (takes_same (·.cpl.acting) hTakes).trans hActing
  have kMember : v.isMember x.src.toNat = true := (takes_same (·.isMember x.src.toNat) hTakes).trans hMember
  have kSpare : v.spareFor (x.src.toNat % 256) = s.spareFor (x.src.toNat % 256) := takes_same (·.spareFor (x.src.toNat % 256)) hTakes
  have hUnits := hTakes.units
  extract_lets m w st
  rw [if_neg (by simp [kActing, kMember])]
  have hIn : (m, x.payload) ∈ w.cpl.views := List.mem_append_right _ List.mem_cons_self
  have wUnits : UnitsKept s w := hUnits
  have wSpare : w.spareFor m = s.spareFor m := kSpare
  clear_value w
  by_cases hDrain : st = 2 ∨ st = 3
  · rw [if_pos hDrain]
    cases hSpare : s.spareFor m with
    | none =>
      rw [relieve_none (wSpare.trans hSpare)]
      exact fun o d ks => ⟨hIn, wUnits, fun _ e he => nomatch hSpare.symm.trans he⟩
    | some e =>
      obtain ⟨u, hEq, _, _, _, _, _, _, hActs⟩ := relieve_some (wSpare.trans hSpare)
      rw [hEq]
      dsimp only
      rw [hActs]
      refine fun o d ks => ⟨hIn, wUnits, fun _ e' he => ⟨_, List.mem_append_right _ List.mem_cons_self, rfl, ?_⟩⟩
      exact congrArg MembE.member (Option.some.inj (hSpare.symm.trans he))
  · rw [if_neg hDrain]
    exact fun o d ks => ⟨hIn, wUnits, fun h => absurd h hDrain⟩

/-- Settles O52: a frame in its turn leaves what its effect leaves once the frame has been taken, and the acknowledgement that follows
touches nothing that a clause speaks of. -/
theorem basinFrames : Obligations.BasinFrames := by
  unfold Obligations.BasinFrames
  intro x s hOk n pay w8 ctrl worker fenced
  have hManager (h : ¬ worker) : ¬ s.dev.role.toNat < 2 := h
  refine ⟨fun hArrives hLen hNode => ⟨hello_followed hOk hArrives hLen hNode, fun h => hello_starts hOk hArrives hLen hNode (hManager h)⟩,
    fun hTurn hAux hLen hActing => ⟨join_refused hTurn hAux hLen hActing, join_admitted hTurn hAux hLen hActing⟩,
    fun hTurn hAux hLen hState hKey hSigned => ⟨admit_joined hTurn hOk hAux hLen hState hKey hSigned,
      admit_held hTurn hOk hAux hLen hState hKey hSigned⟩,
    fun hFrom => ⟨fun ⟨hTurn, hCmd, hLen⟩ k => activate_gives hOk hTurn hFrom hCmd hLen,
      fun ⟨hTurn, hCmd, hLen⟩ => assume_gives hOk hTurn hFrom hCmd hLen,
      fun ⟨hTurn, hCmd, hLen⟩ => membership_gives hOk hTurn hFrom hCmd hLen⟩,
    fun ⟨hTurn, hCmd, hLen⟩ => fence_gives hOk hTurn hCmd hLen, fun ⟨hTurn, hCmd, hLen⟩ => active_gives hOk hTurn hCmd hLen,
    fun hPeer => ⟨fun hTurn hAux hState r => mirrorRecords_gives hOk hPeer hTurn hAux hState, mirrorAck_gives hOk hPeer,
      snapshotReq_gives hOk hPeer, fun hTurn hAux h hAsked rs hRecs =>
        ⟨fun r => snapshot_applied hOk hPeer hTurn hAux (hManager h) hAsked hRecs,
          snapshot_refused hOk hPeer hTurn hAux (hManager h) hAsked hRecs⟩,
      fun hTurn hAux hLen hClaims => ⟨claim_lost hOk hPeer hTurn hLen hAux hClaims, claim_refused hOk hPeer hTurn hLen hAux hClaims⟩,
      fun hTurn hAux hLen hWins => refuse_gives hOk hPeer hTurn hLen hAux hWins⟩,
    record_gives hOk, status_gives hOk⟩

end Sys2Proof.Machine.BasinFrames

end BasinFrameEffects

/-! PROOF. Transport frames in their turn (14 R456 to R458, R469 to R473, R497). -/

section TransportFrameEffects

-- One proof after the other, as in the rules of the canonical form.
set_option Elab.async false

namespace Sys2Proof.Machine.TransportFrames

open Laws SentFrames UnitWork
open NmuAccess (memoryKept_trans llc_accessed llc_byte)
open BasinFrames (gives_turn takes_same Answered)

variable {s t u : State} {x : RxFrame}

/-! ### Work beside the coupling block -/

/-- Of the coupling block at most the error records on their way to a manager have changed. -/
def Quiet (s t : State) : Prop := ∃ f, t.cpl = { s.cpl with fwd := f }

theorem quiet_stable (s : State) : Stable (Quiet s) where
  keep := by
    intro t u h k
    obtain ⟨f, h⟩ := h
    exact ⟨f, k.cpl.trans h⟩
  raise := by
    intro t time e h
    obtain ⟨f, h⟩ := h
    exact ⟨_, congrArg (fun c : Cpl => { c with fwd := (t.raiseAt time e).cpl.fwd }) h⟩
  tail := fun _ _ h => h

theorem quiet_refl : Under (Quiet s) s := ⟨quiet_stable s, _, rfl⟩

theorem Quiet.kept (h : Quiet s t) : (∀ p n, t.cpl.flow p n = s.cpl.flow p n) ∧ t.cpl.reads = s.cpl.reads := by
  obtain ⟨f, h⟩ := h
  rw [h]
  exact ⟨fun _ _ => rfl, rfl⟩

theorem under_markedGo (h : Under (Quiet s) t) (a : Nat) (bs : List MByte) (fuel : Nat) : Under (Quiet s) (t.markedGo a bs fuel) := by
  induction fuel generalizing t a bs with
  | zero => exact h
  | succ fuel ih => exact .ite h (ih (h.writeLine _ _ _) _ _)

/-- The next frame of the flow is awaited. -/
theorem applied_of_quiet (hTakes : Takes 1 x s t) (h : Quiet t u) : Applied s u x := by
  rw [Applied, h.kept.1]
  exact hTakes.turn

/-! ### Remote access (14 R471, R472) -/

/-- A frame has been refused with a reason. -/
def Naks (s t : State) (x : RxFrame) (reason : Nat) : Prop := Applied s t x ∧ t.cpl.refused = stick32 s.cpl.refused 1 ∧ MemoryKept s t ∧
  lastSent t x.port x.src.toNat = some (5, BitVec.ofNat 32 reason, leBytes 4 x.seq.toNat)

theorem nak_naks (hTakes : Takes 1 x s t) (reason : Nat) : Naks s (t.nak x reason) x reason := by
  obtain ⟨hTalks, hLast, -⟩ := sendFrame_gives (s := t.modCpl fun c => { c with refused := stick32 c.refused 1 }) x.port x.src.toNat 5
    (BitVec.ofNat 32 reason) x.ctx.toNat 0xFFFF (leBytes 4 x.seq.toNat) []
  have kRefused : t.cpl.refused = s.cpl.refused := takes_same (·.cpl.refused) hTakes
  have hCount : (t.nak x reason).cpl.refused = stick32 t.cpl.refused 1 := by
    unfold State.nak
    rw [hTalks.cpl]
    rfl
  refine ⟨?_, hCount.trans (by rw [kRefused]), memoryKept_trans hTakes.mem hTalks.mem, hLast⟩
  exact (hTalks.expect _ _).trans hTakes.turn

theorem Naks.answered {reason : Nat} (h : Naks s t x reason) : Answered (Naks s · x reason) t := fun _ _ _ => h

theorem takes_openMem {k : W32} (h : Takes k x s t) (a n : Nat) : t.openMem a n = s.openMem a n := by
  obtain ⟨-, -, -, -, hDev, -⟩ := h.kept
  obtain ⟨-, -, hMdie, -⟩ := h.units
  rw [State.openMem, State.openMem, Faults.inDram_congr hDev (fun d => congrArg (fun v : Vector MDie 4 => v[d].gone) hMdie) a n,
    SfuBanks.inSpad_congr hMdie a n]

theorem takes_remoteRefuse {k : W32} (h : Takes k x s t) (wr : Bool) (a n : Nat) : t.remoteRefuse x wr a n = s.remoteRefuse x wr a n := by
  have hMember : t.isMember x.src.toNat = s.isMember x.src.toNat := takes_same (·.isMember x.src.toNat) h
  have hCtx : t.ctxOf x.ctx.toNat = s.ctxOf x.ctx.toNat := takes_same (·.ctxOf x.ctx.toNat) h
  have hPriv : t.ctx.npctx = s.ctx.npctx := takes_same (·.ctx.npctx) h
  unfold State.remoteRefuse
  extract_lets c
  rw [hMember, hCtx, hPriv, takes_openMem h]

section
variable (hOk : x.ok = true)
include hOk

section
variable (hTurn : InTurn s x 1) (hLow : 9 ≤ x.payload.length) (hHigh : x.payload.length ≤ 4104)
include hLow hHigh

theorem data_form : (x.ok && decide (9 ≤ x.payload.length) && decide (x.payload.length ≤ 4104)) = true := by
  rw [hOk, decide_eq_true hLow, decide_eq_true hHigh]
  rfl

include hTurn

theorem data_gives (hAllowed : s.remoteRefuse x true (payNat x.payload 0 8) (x.payload.length - 8) = 0) : Gives (.data x) s fun t =>
    Applied s t x ∧ BytesAre t (payNat x.payload 0 8) (x.payload.drop 8) ∧
      BytesKept s t [(payNat x.payload 0 8, x.payload.length - 8)] ∧ t.reach = s.reach := by
  refine gives_turn rfl hTurn (data_form hOk hLow hHigh) (by decide) (by decide) fun v hTakes => ?_
  have kAllowed : v.remoteRefuse x true (payNat x.payload 0 8) (x.payload.drop 8).length = 0 := by
    rw [List.length_drop]
    exact (takes_remoteRefuse hTakes _ _ _).trans hAllowed
  have kByte (b : Nat) : v.byte b = s.byte b := takes_same (·.byte b) hTakes
  have kKey (l : Nat) : v.keyOk l = s.keyOk l := takes_same (·.keyOk l) hTakes
  have hReach : v.reach = s.reach := hTakes.units.1
  extract_lets r
  rw [if_neg (not_not.mpr kAllowed)]
  have hQuiet : Quiet v ((v.write (payNat x.payload 0 8) (x.payload.drop 8)).llc (payNat x.payload 0 8) (x.payload.drop 8).length) :=
    ((quiet_refl.write _ _ _).llc _ _ _).holds
  have hAccessed := llc_accessed (s := v.write (payNat x.payload 0 8) (x.payload.drop 8)) (payNat x.payload 0 8) (x.payload.drop 8).length
    (alloc := true)
  have hByte (b : Nat) := llc_byte (v.write (payNat x.payload 0 8) (x.payload.drop 8)) (payNat x.payload 0 8) (x.payload.drop 8).length b (alloc := true)
  generalize State.llc _ _ _ = w at *
  have hTurned : Applied s w x := applied_of_quiet hTakes hQuiet
  refine fun o d ks => ⟨hTurned, fun i hi => ?_, fun b hk hOut => ?_, ?_⟩
  · exact (hByte _).trans (write_bytesAre v _ _ _ i hi)
  · refine ((hByte b).trans (write_bytesKept v _ _ _ b ((kKey _).trans hk) ?_)).trans (kByte b)
    rwa [List.length_drop]
  · exact hAccessed.reach.trans ((write_reach v _ _ _).trans hReach)

theorem data_refused (hNo : s.remoteRefuse x true (payNat x.payload 0 8) (x.payload.length - 8) ≠ 0) : Gives (.data x) s
    (Naks s · x (s.remoteRefuse x true (payNat x.payload 0 8) (x.payload.length - 8))) := by
  refine gives_turn rfl hTurn (data_form hOk hLow hHigh) (by decide) (by decide) fun v hTakes => ?_
  have kNo : v.remoteRefuse x true (payNat x.payload 0 8) (x.payload.drop 8).length =
      s.remoteRefuse x true (payNat x.payload 0 8) (x.payload.length - 8) := by
    rw [List.length_drop]
    exact takes_remoteRefuse hTakes _ _ _
  dsimp only
  rw [kNo, if_pos hNo]
  exact (nak_naks hTakes _).answered

end

section
variable (hTurn : InTurn s x 2) (hLen : x.payload.length = 16) (hLow : 1 ≤ x.aux.toNat) (hHigh : x.aux.toNat ≤ 4096)
include hLen hLow hHigh

theorem rreq_form : (x.ok && x.payload.length == 16 && decide (1 ≤ x.aux.toNat) && decide (x.aux.toNat ≤ 4096)) = true := by
  rw [hOk, hLen, decide_eq_true hLow, decide_eq_true hHigh]
  rfl

include hTurn

theorem rreq_gives (hKeyed : AllKeyed s) (hAllowed : s.remoteRefuse x false (payNat x.payload 0 8) x.aux.toNat = 0) : Gives (.rreq x) s fun t =>
    Applied s t x ∧ lastSent t x.port x.src.toNat = some (3, 0, s.read (payNat x.payload 0 8) x.aux.toNat) ∧
      (((t.cpl.flow x.port x.src.toNat).unacked.getLast?).map fun y => y.marks) =
        some ((List.range x.aux.toNat).filter fun i => s.poisoned ((payNat x.payload 0 8 + i) / 64)) ∧ MemoryKept s t := by
  refine gives_turn rfl hTurn (rreq_form hOk hLen hLow hHigh) (by decide) (by decide) fun v hTakes => ?_
  have kAllowed := (takes_remoteRefuse hTakes false (payNat x.payload 0 8) x.aux.toNat).trans hAllowed
  have kByte (b : Nat) : v.byte b = s.byte b := takes_same (·.byte b) hTakes
  have kKeyed : AllKeyed v := fun l => (takes_same (·.keyOk l) hTakes).trans (hKeyed l)
  have kPoisoned (l : Nat) : v.poisoned l = s.poisoned l := takes_same (·.poisoned l) hTakes
  have hQuiet : Quiet v (v.llc (payNat x.payload 0 8) x.aux.toNat).bump := ((quiet_refl.llc _ _ _).bump).holds
  have hAccessed := llc_accessed (s := v) (payNat x.payload 0 8) x.aux.toNat (alloc := true)
  extract_lets r w marks
  rw [if_neg (not_not.mpr kAllowed)]
  have wByte (b : Nat) : w.byte b = s.byte b := 
    (NmuAccess.byte_eq (t := w) hAccessed.device hAccessed.memory (kKeyed _)).trans (kByte b)
  have wMarks : marks = (List.range x.aux.toNat).filter fun i => s.poisoned ((payNat x.payload 0 8 + i) / 64) :=
    List.filter_congr fun i _ => (hAccessed.poisoned _).trans (kPoisoned _)
  have wMem : MemoryKept s w := memoryKept_trans hTakes.mem hAccessed.memory
  have wRead : w.read (payNat x.payload 0 8) x.aux.toNat = s.read (payNat x.payload 0 8) x.aux.toNat := NmuAccess.read_congr wByte _ _
  have wTurn : Applied s w x := applied_of_quiet hTakes hQuiet
  clear_value w marks
  subst wMarks
  rw [wRead]
  obtain ⟨hTalks, hLast, hMarks, -⟩ := sendFrame_gives (s := w) x.port x.src.toNat 3 0 x.ctx.toNat 0xFFFF
    (s.read (payNat x.payload 0 8) x.aux.toNat)
    ((List.range x.aux.toNat).filter fun i => s.poisoned ((payNat x.payload 0 8 + i) / 64))
  have hTurned := (hTalks.expect x.port x.src.toNat).trans wTurn
  have hMem := memoryKept_trans wMem hTalks.mem
  exact fun o d ks => ⟨hTurned, hLast, hMarks, hMem⟩

theorem rreq_refused (hNo : s.remoteRefuse x false (payNat x.payload 0 8) x.aux.toNat ≠ 0) : Gives (.rreq x) s
    (Naks s · x (s.remoteRefuse x false (payNat x.payload 0 8) x.aux.toNat)) := by
  refine gives_turn rfl hTurn (rreq_form hOk hLen hLow hHigh) (by decide) (by decide) fun v hTakes => ?_
  have kNo := takes_remoteRefuse hTakes false (payNat x.payload 0 8) x.aux.toNat
  dsimp only
  rw [kNo, if_pos hNo]
  exact (nak_naks hTakes _).answered

end

/-! ### Answers to reads (14 R469, R473) -/

omit hOk in
/-- Data without marks for device memory is written there. -/
theorem landRead_eq {r : RemRead} {bs : List MByte} (hReach : r.reach < 16) (hTag : r.tag < 16) (hSpace : r.space = 0)
    (hClean : bs.findIdx? (·.2) = none) : ∃ b d, s.landRead r bs = (s.digestTakes b d bs).markedWrite r.dst bs := by
  unfold State.landRead
  rw [dif_pos ⟨hReach, hTag⟩]
  simp only [State.bargeAt]
  rw [hClean, if_pos hSpace]
  exact ⟨_, _, rfl⟩

omit hOk in
theorem digestTakes_kept (b : BargeRef) (d : Bool) (bs : List MByte) : (s.digestTakes b d bs).cpl = s.cpl ∧
    (∀ a, (s.digestTakes b d bs).byte a = s.byte a) ∧ ∀ l, (s.digestTakes b d bs).keyOk l = s.keyOk l := by
  unfold State.digestTakes
  split
  · cases b with
    | reach n k => exact ⟨rfl, fun _ => rfl, fun _ => rfl⟩
    | host => exact ⟨rfl, fun _ => rfl, fun _ => rfl⟩
  · exact ⟨rfl, fun _ => rfl, fun _ => rfl⟩

omit hOk in
theorem zipIdx_unmarked {α : Type} (l : List α) (k : Nat) : (l.zipIdx k).map (fun q => (q.1, ([] : List Nat).contains q.2)) =
    l.map fun b => (b, false) := by
  induction l generalizing k with
  | nil => rfl
  | cons b l ih =>
    rw [List.zipIdx_cons, List.map_cons, ih]
    rfl

omit hOk in
theorem unmarked_clean (l : List Byte) : (l.map fun b => (b, false)).findIdx? (·.2) = none := by
  rw [List.findIdx?_eq_none_iff]
  intro q hq
  obtain ⟨b, -, rfl⟩ := List.mem_map.mp hq
  rfl

section
variable (hTurn : InTurn s x 3) (hLow : 1 ≤ x.payload.length) (hHigh : x.payload.length ≤ 4096) {r : RemRead} (hRead : s.oldestRead x = some r)
include hLow hHigh

theorem rdata_form : (x.ok && decide (1 ≤ x.payload.length) && decide (x.payload.length ≤ 4096)) = true := by
  rw [hOk, decide_eq_true hLow, decide_eq_true hHigh]
  rfl

include hTurn hRead

theorem rdata_dropped (hLen : r.len = x.payload.length) (hDead : r.dead = true) : Gives (.rdata x) s fun t =>
    Applied s t x ∧ t.cpl.reads = s.cpl.reads.erase r ∧ UnitsKept s t ∧ MemoryKept s t := by
  refine gives_turn rfl hTurn (rdata_form hOk hLow hHigh) (by decide) (by decide) fun v hTakes => ?_
  have kRead : v.oldestRead x = some r := (takes_same (·.oldestRead x) hTakes).trans hRead
  have kReads : v.cpl.reads = s.cpl.reads := takes_same (·.cpl.reads) hTakes
  have hTurned := hTakes.turn
  have hUnits := hTakes.units
  have hMem := hTakes.mem
  dsimp only
  rw [kRead]
  dsimp only
  rw [if_neg (not_not.mpr hLen), hDead, if_pos rfl]
  exact fun o d ks => ⟨hTurned, congrArg (·.erase r) kReads, hUnits, hMem⟩

theorem rdata_lands (hLen : r.len = x.payload.length) (hAlive : r.dead = false) (hSpace : r.space = 0) (hMarks : x.marks = [])
    (hReach : r.reach < 16) (hTag : r.tag < 16) : Gives (.rdata x) s fun t =>
      Applied s t x ∧ BytesAre t r.dst x.payload ∧ BytesKept s t [(r.dst, x.payload.length)] ∧ t.cpl.reads = s.cpl.reads.erase r := by
  refine gives_turn rfl hTurn (rdata_form hOk hLow hHigh) (by decide) (by decide) fun v hTakes => ?_
  have kRead : v.oldestRead x = some r := (takes_same (·.oldestRead x) hTakes).trans hRead
  have kReads : v.cpl.reads = s.cpl.reads := takes_same (·.cpl.reads) hTakes
  have kByte (b : Nat) : v.byte b = s.byte b := takes_same (·.byte b) hTakes
  have hTurned := hTakes.turn
  dsimp only
  rw [kRead]
  dsimp only
  rw [if_neg (not_not.mpr hLen), hAlive, if_neg (by decide), hMarks, zipIdx_unmarked]
  generalize hw : v.modCpl _ = w
  have wReads : w.cpl.reads = s.cpl.reads.erase r := hw ▸ congrArg (·.erase r) kReads
  have wByte (b : Nat) : w.byte b = s.byte b := hw ▸ kByte b
  have wTurn : Applied s w x := hw ▸ hTurned
  obtain ⟨b, d, hEq⟩ := landRead_eq (s := w) hReach hTag hSpace (unmarked_clean x.payload)
  obtain ⟨hCpl, hByte, -⟩ := digestTakes_kept (s := w) b d (x.payload.map fun b => (b, false))
  have hPlain : BargeMoves.plain (x.payload.map fun b => (b, false)) = x.payload := by
    rw [BargeMoves.plain, List.map_map]
    exact List.map_id _
  have hQuiet : Quiet w ((w.digestTakes b d (x.payload.map fun b => (b, false))).markedWrite r.dst (x.payload.map fun b => (b, false))) := by
    obtain ⟨f, h⟩ := (under_markedGo (quiet_refl (s := w.digestTakes b d (x.payload.map fun b => (b, false)))) r.dst
      (x.payload.map fun b => (b, false)) ((x.payload.map fun b => (b, false)).length / 64 + 2)).holds
    rw [hCpl] at h
    exact ⟨f, h⟩
  have hAre := BargeMoves.markedWrite_are (w.digestTakes b d (x.payload.map fun b => (b, false))) r.dst (x.payload.map fun b => (b, false))
  have hAll (a : Nat) := BargeMoves.markedWrite_outside (s := w.digestTakes b d (x.payload.map fun b => (b, false))) (a := r.dst)
    (bs := x.payload.map fun b => (b, false)) (ws := [(r.dst, x.payload.length)]) List.mem_cons_self (le_of_eq (List.length_map _)) (b := a)
  rw [hPlain] at hAre
  rw [hEq]
  generalize State.markedWrite _ _ _ = u at *
  obtain ⟨hFlow, hReads⟩ := hQuiet.kept
  have uTurn : Applied s u x := by
    rw [Applied, hFlow]
    exact wTurn
  exact fun o d ks => ⟨uTurn, hAre, fun a _ hOut => (hAll a hOut).trans ((hByte a).trans (wByte a)), hReads.trans wReads⟩

theorem rdata_bad (hLen : r.len ≠ x.payload.length) : Gives (.rdata x) s fun t =>
    t.cpl.bad[x.port] = stick32 s.cpl.bad[x.port] 1 ∧ t.cpl.reads = s.cpl.reads ∧ MemoryKept s t := by
  refine gives_turn rfl hTurn (rdata_form hOk hLow hHigh) (by decide) (by decide) fun v hTakes => ?_
  have kRead : v.oldestRead x = some r := (takes_same (·.oldestRead x) hTakes).trans hRead
  have kReads : v.cpl.reads = s.cpl.reads := takes_same (·.cpl.reads) hTakes
  have kBad : v.cpl.bad = s.cpl.bad := takes_same (·.cpl.bad) hTakes
  have hMem := hTakes.mem
  dsimp only
  rw [kRead]
  dsimp only
  rw [if_pos hLen]
  have hCount : (v.frameBad x.port).cpl.bad[x.port] = stick32 s.cpl.bad[x.port] 1 :=
    (Vector.getElem_set_self _).trans (by rw [kBad])
  exact fun o d ks => ⟨hCount, kReads, hMem⟩

end

end

/-! ### Acknowledgements and frames that are not taken (14 R456 to R459, R469, R497) -/

theorem ack_gives (hOk : x.ok = true) (hArrives : Arrives s x 4) : Gives (.ack x) s fun t =>
    (t.cpl.flow x.port x.src.toNat).unacked = (s.cpl.flow x.port x.src.toNat).unacked.dropWhile (fun y => newer32 x.ack y.seq) ∧
      t.cpl.uncorr[x.port] = stick32 s.cpl.uncorr[x.port] x.words ∧ UnitsKept s t ∧ MemoryKept s t := by
  have hExec : exec (.ack x) s = .next (acked s x) := by
    change execAck x s = _
    rw [execAck, hOk, receive_plain id hArrives (.inl rfl)]
    rfl
  have hTakes := acked_takes (s := s) x
  exact ⟨_, hExec, hTakes.unacked, hTakes.uncorr, hTakes.units, hTakes.mem⟩

theorem ack_bad (hHeld : s.dev.held = false) (hUp : s.portUp x.port = true) (hMine : s.frameMine x = true)
    (hBad : x.headOk 4 = false ∨ s.frameKey x 4 = false ∨ x.ok = false) : Gives (.ack x) s fun t =>
      t.cpl.bad[x.port] = stick32 s.cpl.bad[x.port] 1 ∧ t.cpl.flows = s.cpl.flows ∧ UnitsKept s t ∧ MemoryKept s t := by
  have hExec : exec (.ack x) s = .next ((s.uncorr x.port x.words).frameBad x.port) :=
    congrArg Host.Outcome.next (receive_bad id hHeld hUp hMine hBad)
  obtain ⟨hEq, -⟩ := uncorr_eq (s := s) x.port x.words
  rw [hEq] at hExec
  exact ⟨_, hExec, Vector.getElem_set_self _, rfl, ⟨rfl, rfl, rfl, rfl, rfl⟩, rfl, rfl, rfl⟩

theorem ack_foreign (hMine : s.frameMine x = false) : Gives (.ack x) s fun t =>
    t.cpl.bad = s.cpl.bad ∧ t.cpl.flows = s.cpl.flows ∧ UnitsKept s t ∧ MemoryKept s t := by
  have hExec : exec (.ack x) s = .next (worded s x) :=
    congrArg Host.Outcome.next (receive_refused id (by rw [hMine, Bool.not_false, Bool.or_true]))
  refine ⟨_, hExec, ?_⟩
  rcases worded_cases (s := s) x with h | h
  · rw [h]
    exact ⟨rfl, rfl, ⟨rfl, rfl, rfl, rfl, rfl⟩, rfl, rfl, rfl⟩
  · obtain ⟨hEq, -⟩ := uncorr_eq (s := s) x.port x.words
    rw [h, hEq]
    exact ⟨rfl, rfl, ⟨rfl, rfl, rfl, rfl, rfl⟩, rfl, rfl, rfl⟩

/-! ### NAK (14 R472, R473) -/

/-- The job's step has failed for a refused frame. -/
theorem refused_fails (x : RxFrame) (j c : Nat) : Quiet s ((s.refusedEv x j c).failJob j 0x0506) ∧
    (StagingRoom s j → LastEvent ((s.refusedEv x j c).failJob j 0x0506) 0x0506) ∧
    StepStops s ((s.refusedEv x j c).failJob j 0x0506) j (.failed 0x0506) ∧ MemoryKept s ((s.refusedEv x j c).failJob j 0x0506) := by
  have hLkp : (s.refusedEv x j c).lkp = s.lkp := rfl
  refine ⟨((quiet_refl.raise _).failJob _ _).holds, fun hRoom => ?_, ?_, ?_⟩
  · have hMgt := FailedSteps.stopStep_room (s.refusedEv x j c) (.failed (BitVec.ofNat 16 0x0506)) (FailedSteps.stagingRoom_congr hLkp hRoom)
    rw [LastEvent, State.failJob, hMgt]
    exact Lrate.raised_lastEvent (raise_raised s _)
  · exact FailedSteps.stepStops_congr hLkp (FailedSteps.stopStep_stops _ _ _)
  · refine FailedSteps.memory_of_unbooked _ ?_
    rw [Faults.failJob_unbooked]
    rfl

theorem nak_gives (hOk : x.ok = true) (hTurn : InTurn s x 5) (hLen : x.payload.length = 4)
    (hNone : ∀ r ∈ s.cpl.reads, r.seq ≠ BitVec.ofNat 32 (payNat x.payload 0 4)) {y : TxFrame}
    (hSent : (s.cpl.flow x.port x.src.toNat).unacked.find? (fun y => y.seq == BitVec.ofNat 32 (payNat x.payload 0 4) && y.ftype == 1) = some y) :
    Gives (.nak x) s fun t => Applied s t x ∧ (StagingRoom s y.job → LastEvent t 0x0506) ∧
      StepStops s t y.job (.failed 0x0506) ∧ MemoryKept s t := by
  refine gives_turn rfl hTurn (by simp [hOk, hLen]) (by decide) (by decide) fun v hTakes => ?_
  have kNone : v.cpl.reads.find? (fun (r : RemRead) => r.port == x.port.val && r.node == x.src.toNat &&
      r.seq == BitVec.ofNat 32 (payNat x.payload 0 4)) = none := by
    rw [takes_same (·.cpl.reads) hTakes, List.find?_eq_none]
    intro r hr
    simp [hNone r hr]
  have kLkp : v.lkp = s.lkp := hTakes.units.2.2.2.1
  obtain ⟨hQuiet, hEvent, hStops, hMem⟩ := refused_fails (s := v) x y.job y.ctx
  have hTurned := applied_of_quiet hTakes hQuiet
  have hMemory := memoryKept_trans hTakes.mem hMem
  dsimp only
  rw [kNone, hSent]
  dsimp only [Option.map]
  generalize State.failJob _ y.job 0x0506 = w at *
  have wStops := FailedSteps.stepStops_congr kLkp hStops
  exact fun o d ks => ⟨hTurned, fun hRoom => hEvent (FailedSteps.stagingRoom_congr kLkp hRoom), wStops, hMemory⟩

/-! ### Frames that go again (14 R469, R470) -/

theorem emitAll_out (p n : Nat) (l : List TxFrame) : ∀ s : State, (∀ z ∈ l, s.frameStops n z.ftype = false) →
    (l.foldl (fun (v : State) z => v.emitFrame p n z) s).out.length = s.out.length + l.length := by
  induction l with
  | nil => exact fun _ _ => rfl
  | cons z l ih =>
    intro s hGo
    have hEmits := emitFrame_emits (s := s) p n z
    rw [List.foldl_cons, ih _ fun y hy => (BasinCommands.Emits.stops hEmits n y.ftype).trans (hGo y (List.mem_cons_of_mem _ hy)),
      BasinCommands.emitFrame_out, hGo z List.mem_cons_self, List.length_cons, if_neg (by decide)]
    omega

/-- Frames of a flow are about to go again. -/
def resending (s : State) (p : Fin 8) (n : Nat) (go : List TxFrame) : State :=
  (s.modFlow p n fun f => { f with unacked := f.unacked.map fun y => if go.contains y then { y with resends := y.resends + 1 } else y }).modCpl
    fun c => { c with retry := c.retry.set p (stick32 c.retry[p] go.length) }

/-- The frames that go again. -/
def again (s : State) (n : Nat) (l : List TxFrame) : List TxFrame := (l.take 1024).filter fun z => !s.frameStops n z.ftype

section
variable {p : Fin 8} {n : BitVec 15} {y : TxFrame} {ys : List TxFrame} (hUnacked : (s.cpl.flow p n.toNat).unacked = y :: ys)
  (hHeld : s.dev.held = false) (hFlow : (s.cpl.flow p n.toNat).failed = false) (hUp : s.portUp p = true)
include hUnacked hHeld hFlow hUp

theorem exec_frameResend : exec (.frameResend p n) s = .next (if 8 ≤ y.resends then s.flowFail p n.toNat
    else (again s n.toNat (y :: ys)).foldl (fun (v : State) z => v.emitFrame p n.toNat z) (resending s p n.toNat (again s n.toNat (y :: ys)))) := by
  change execFrameResend p n s = _
  unfold execFrameResend
  dsimp only
  rw [hUnacked]
  dsimp only
  rw [hHeld, hFlow, hUp]
  rfl

theorem resend_gives (hFew : y.resends < 8) : Gives (.frameResend p n) s fun t =>
    t.out.length = s.out.length + (again s n.toNat (y :: ys)).length ∧
      t.cpl.retry[p] = stick32 s.cpl.retry[p] (again s n.toNat (y :: ys)).length ∧
      (t.cpl.flow p n.toNat).unacked.map (·.seq) = (y :: ys).map (·.seq) ∧ UnitsKept s t ∧ MemoryKept s t := by
  have hExec := exec_frameResend hUnacked hHeld hFlow hUp
  rw [if_neg (by omega)] at hExec
  have hStops : ∀ z ∈ again s n.toNat (y :: ys), (resending s p n.toNat (again s n.toNat (y :: ys))).frameStops n.toNat z.ftype = false := by
    intro z hz
    have hGo := (List.mem_filter.mp hz).2
    rw [Bool.not_eq_true'] at hGo
    exact hGo
  have hOut := emitAll_out p n.toNat (again s n.toNat (y :: ys)) _ hStops
  have hEmits := Emits.foldl (f := fun (v : State) z => v.emitFrame p n.toNat z) (fun _ _ => emitFrame_emits _ _ _)
    (again s n.toNat (y :: ys)) (resending s p n.toNat (again s n.toNat (y :: ys)))
  generalize again s n.toNat (y :: ys) = go at *
  have hSeqs : ((resending s p n.toNat go).cpl.flow p n.toNat).unacked.map (·.seq) = (y :: ys).map (·.seq) := by
    have hNew : (resending s p n.toNat go).cpl.flow p n.toNat = { s.cpl.flow p n.toNat with
        unacked := (s.cpl.flow p n.toNat).unacked.map fun y => if go.contains y then { y with resends := y.resends + 1 } else y } :=
      flow_modFlow_same (s := s) p n.toNat fun f => { f with
        unacked := f.unacked.map fun y => if go.contains y then { y with resends := y.resends + 1 } else y }
    rw [hNew, hUnacked, List.map_map]
    refine List.map_congr_left fun z _ => ?_
    dsimp only [Function.comp]
    split
    · rfl
    · rfl
  refine ⟨_, hExec, hOut, ?_, ?_, ?_⟩
  · rw [hEmits.rest]
    exact Vector.getElem_set_self _
  · rw [hEmits.flow]
    exact hSeqs
  · obtain ⟨hUnits, hMem⟩ : UnitsKept s (resending s p n.toNat go) ∧ MemoryKept s (resending s p n.toNat go) :=
      ⟨⟨rfl, rfl, rfl, rfl, rfl⟩, rfl, rfl, rfl⟩
    exact ⟨units_trans hUnits hEmits.talks.units, memoryKept_trans hMem hEmits.talks.mem⟩

theorem resend_fails (hMany : 8 ≤ y.resends) : Gives (.frameResend p n) s fun t => (t.cpl.flow p n.toNat).failed = true := by
  have hExec := exec_frameResend hUnacked hHeld hFlow hUp
  rw [if_pos hMany] at hExec
  exact ⟨_, hExec, (FailedFlows.flowFail_fails p n.toNat).2⟩

end

/-! ### Ports (14 R457) -/

/-- Only events have been raised. -/
def Events (s t : State) : Prop := ∃ r m f, t = { s with ras := r, mgt := m, cpl := { s.cpl with fwd := f } }

theorem Events.refl : Events s s := ⟨_, _, _, rfl⟩

theorem Events.trans (h : Events s t) (k : Events t u) : Events s u := by
  obtain ⟨r, m, f, rfl⟩ := h
  obtain ⟨r', m', f', rfl⟩ := k
  exact ⟨_, _, _, rfl⟩

/-- Of ports that only come up, each that does raises its event. -/
theorem edges_up (g : Nat → Bool) (l : List Nat) : ∀ s : State,
    Events s (l.foldl (fun (v : State) q => if g q then v.raise { code := 0x0502, kind := 5, part := q } else v) s) ∧
    ((∃ q ∈ l, g q = true) ∨ LastEvent s 0x0502 →
      LastEvent (l.foldl (fun (v : State) q => if g q then v.raise { code := 0x0502, kind := 5, part := q } else v) s) 0x0502) := by
  induction l with
  | nil =>
    intro s
    refine ⟨.refl, fun h => ?_⟩
    rcases h with ⟨q, hq, -⟩ | h
    · exact absurd hq List.not_mem_nil
    · exact h
  | cons q l ih =>
    intro s
    rw [List.foldl_cons]
    cases hq : g q with
    | true =>
      obtain ⟨hEvents, hLast⟩ := ih (s.raise { code := 0x0502, kind := 5, part := q })
      have hOne : Events s (s.raise { code := 0x0502, kind := 5, part := q }) := ⟨_, _, _, rfl⟩
      exact ⟨hOne.trans hEvents, fun _ => hLast (.inr (Lrate.raised_lastEvent (raise_raised s _)))⟩
    | false =>
      obtain ⟨hEvents, hLast⟩ := ih s
      refine ⟨hEvents, fun h => hLast ?_⟩
      rcases h with ⟨k, hk, hg⟩ | h
      · rcases List.mem_cons.mp hk with rfl | hLater
        · rw [hq] at hg
          cases hg
        · exact .inl ⟨k, hLater, hg⟩
      · exact .inr h

/-- Ports that only come up raise events and nothing else. -/
theorem portEdges_up {old : BitVec 8} (h : ∀ q, old.getLsbD q = true → s.portsUp.getLsbD q = true) : Events s (s.portEdges old) ∧
    ∀ q < 8, old.getLsbD q = false → s.portsUp.getLsbD q = true → LastEvent (s.portEdges old) 0x0502 := by
  have hEq : s.portEdges old = (List.range 8).foldl (fun (v : State) q => if !old.getLsbD q && s.portsUp.getLsbD q then
      v.raise { code := 0x0502, kind := 5, part := q } else v) s := by
    unfold State.portEdges
    refine congrArg (fun f => List.foldl f s (List.range 8)) ?_
    funext v q
    refine if_neg ?_
    rw [Bool.and_eq_true, Bool.not_eq_true']
    rintro ⟨hOld, hNow⟩
    rw [h q hOld] at hNow
    cases hNow
  obtain ⟨hEvents, hLast⟩ := edges_up (fun q => !old.getLsbD q && s.portsUp.getLsbD q) (List.range 8) s
  rw [hEq]
  refine ⟨hEvents, fun q hq hOld hNow => hLast (.inl ⟨q, List.mem_range.mpr hq, ?_⟩)⟩
  rw [hOld, hNow]
  rfl

/-- A port that has locked takes none of the others down. -/
theorem portsUp_locked (b : BitVec 8) {q : Nat} (h : s.portsUp.getLsbD q = true) :
    (s.modCpl fun c => { c with pcs := c.pcs ||| b }).portsUp.getLsbD q = true := by
  have hPorts : ∃ on : BitVec 8, s.portsUp = (if s.pwr.clk.getLsbD 1 then 0 else s.cpl.pcs &&& s.cpl.sect.ports &&& on) ∧
      (s.modCpl fun c => { c with pcs := c.pcs ||| b }).portsUp =
        if s.pwr.clk.getLsbD 1 then 0 else (s.cpl.pcs ||| b) &&& s.cpl.sect.ports &&& on := ⟨_, rfl, rfl⟩
  obtain ⟨on, hOld, hNew⟩ := hPorts
  rw [hOld] at h
  rw [hNew]
  split
  · next hClk =>
    rw [if_pos hClk] at h
    exact h
  · next hClk =>
    rw [if_neg hClk] at h
    simp only [BitVec.getLsbD_and, BitVec.getLsbD_or, Bool.and_eq_true, Bool.or_eq_true] at h ⊢
    exact ⟨⟨.inl h.1.1, h.1.2⟩, h.2⟩

theorem linkUp_gives (hHeld : s.dev.held = false) (p : Fin 8) : Gives (.cplLinkUp p) s fun t =>
    t.cpl.pcs = s.cpl.pcs ||| BitVec.ofNat 8 (2 ^ p.val) ∧ UnitsKept s t ∧ MemoryKept s t ∧
      (s.portUp p = false → t.portUp p = true → LastEvent t 0x0502) := by
  have hExec : exec (.cplLinkUp p) s = .next ((s.modCpl fun c => { c with pcs := c.pcs ||| BitVec.ofNat 8 (2 ^ p.val) }).portEdges s.portsUp) := by
    change execCplLinkUp p s = _
    rw [execCplLinkUp, hHeld]
    rfl
  obtain ⟨hEvents, hLast⟩ := portEdges_up (s := s.modCpl fun c => { c with pcs := c.pcs ||| BitVec.ofNat 8 (2 ^ p.val) })
    (old := s.portsUp) fun q => portsUp_locked _
  generalize State.portEdges _ _ = t at *
  have hUp : t.portUp p = (s.modCpl fun c => { c with pcs := c.pcs ||| BitVec.ofNat 8 (2 ^ p.val) }).portUp p := by
    obtain ⟨r, m, f, rfl⟩ := hEvents
    rfl
  have hEvent : s.portUp p = false → t.portUp p = true → LastEvent t 0x0502 := fun hOld hNow => hLast p p.isLt hOld (hUp.symm.trans hNow)
  obtain ⟨r, m, f, rfl⟩ := hEvents
  exact ⟨_, hExec, rfl, ⟨rfl, rfl, rfl, rfl, rfl⟩, ⟨rfl, rfl, rfl⟩, hEvent⟩

theorem linkDown_gives (hHeld : s.dev.held = false) (p : Fin 8) (words : Nat) : Gives (.cplLinkDown p words) s fun t =>
    t.cpl.pcs = s.cpl.pcs &&& ~~~(BitVec.ofNat 8 (2 ^ p.val)) ∧ t.cpl.uncorr[p] = stick32 s.cpl.uncorr[p] words := by
  have hExec : exec (.cplLinkDown p words) s =
      .next (((s.uncorr p words).modCpl fun c => { c with pcs := c.pcs &&& ~~~(BitVec.ofNat 8 (2 ^ p.val)) }).portEdges s.portsUp) := by
    change execCplLinkDown p words s = _
    rw [execCplLinkDown, hHeld]
    rfl
  obtain ⟨hEq, hCount⟩ := uncorr_eq (s := s) p words
  obtain ⟨hPcs, hUncorr⟩ := (FailedFlows.portEdges_holds (s := (s.uncorr p words).modCpl fun c => { c with
    pcs := c.pcs &&& ~~~(BitVec.ofNat 8 (2 ^ p.val)) }) s.portsUp).ports
  refine ⟨_, hExec, hPcs.trans ?_, ?_⟩
  · rw [hEq]
    rfl
  · rw [hUncorr]
    exact hCount

/-- Settles O51: a frame in its turn leaves what its effect leaves once the frame has been taken; a refused one, one that fails its checks
and one for another device are counted or dropped; what goes again and what comes of a port's lock follow from the flows and edges. -/
theorem transportFrames : Obligations.TransportFrames := by
  unfold Obligations.TransportFrames
  intro x p n words s from_ a refused
  refine ⟨fun hOk hTurn hLow hHigh => ⟨data_gives hOk hTurn hLow hHigh, data_refused hOk hTurn hLow hHigh⟩,
    fun hOk hTurn hLen hLow hHigh hKeyed => ⟨rreq_gives hOk hTurn hLen hLow hHigh hKeyed, rreq_refused hOk hTurn hLen hLow hHigh⟩,
    fun hOk hTurn hLow hHigh r hRead => ⟨rdata_dropped hOk hTurn hLow hHigh hRead, rdata_lands hOk hTurn hLow hHigh hRead,
      rdata_bad hOk hTurn hLow hHigh hRead⟩,
    ack_gives, ack_bad, fun _ => ack_foreign, fun hOk hTurn hLen hNone y => nak_gives hOk hTurn hLen hNone,
    fun y ys hUnacked hHeld hFlow hUp => ⟨resend_gives hUnacked hHeld hFlow hUp, resend_fails hUnacked hHeld hFlow hUp⟩,
    fun hHeld => ⟨linkUp_gives hHeld p, linkDown_gives hHeld p words⟩⟩

end Sys2Proof.Machine.TransportFrames

end TransportFrameEffects

/-! PROOF. What of the device stays while frames go, flows fail, steps end and the shed ladder climbs (14 R457, R470; 17 R578 to R582). -/

section WideWorkRules

-- One proof after the other, as in the rules of the canonical form.
set_option Elab.async false

namespace Sys2Proof.Machine.WideWork

open UnitWork SentFrames

variable {Q : State → Prop} {s t u : State}

/-! ### Properties that such work keeps -/

/-- The work of units, of the coupling block and of the fault log keeps the property. -/
structure Wide (Q : State → Prop) : Prop extends Stable Q where
  cpl   : ∀ {s} c, Q s → Q { s with cpl := c }
  draws : ∀ {s} d, Q s → Q { s with sec := { s.sec with draws := d } }
  books : ∀ {s} p m st, p.ready = s.prf.ready → Q s → Q { s with prf := p, mgt := m, dev := { s.dev with st := st } }

/-- The state has the property, which such work keeps. -/
structure Amid (Q : State → Prop) (s : State) : Prop where
  wide  : Wide Q
  holds : Q s

theorem Amid.of (h : Amid Q s) (k : Under Q s → Under Q t) : Amid Q t := ⟨h.wide, (k ⟨h.wide.toStable, h.holds⟩).holds⟩

theorem Amid.ite {c : Prop} [Decidable c] (hs : Amid Q s) (ht : Amid Q t) : Amid Q (if c then s else t) := by
  split
  · exact hs
  · exact ht

theorem Amid.foldl {α : Type} {f : State → α → State} (hf : ∀ t x, Amid Q t → Amid Q (f t x)) (l : List α) : ∀ {s : State}, Amid Q s →
    Amid Q (l.foldl f s) := by
  induction l with
  | nil => exact id
  | cons x l ih => exact fun hs => ih (hf _ x hs)

/-! ### Frames and flows (14 R457, R469, R470) -/

theorem Amid.cpl (h : Amid Q s) (c : Cpl) : Amid Q { s with cpl := c } := ⟨h.wide, h.wide.cpl c h.holds⟩

theorem Amid.modCpl (h : Amid Q s) (f : Cpl → Cpl) : Amid Q (s.modCpl f) := h.cpl _

theorem Amid.modFlow (h : Amid Q s) (p n : Nat) (f : Flow → Flow) : Amid Q (s.modFlow p n f) := h.cpl _

theorem Amid.raise (h : Amid Q s) (e : Ev) : Amid Q (s.raise e) := h.of fun k => k.raise e

theorem Amid.talks (h : Amid Q s) (k : Talks s t) : Amid Q t := by
  obtain ⟨o, d, ks, fl, rfl⟩ := k.exists
  have hSent : Amid Q { s with out := o } := h.of fun k => k.upd
  have hDrawn : Amid Q { s with out := o, sec := { s.sec with draws := d } } := ⟨h.wide, h.wide.draws d hSent.holds⟩
  exact hDrawn.cpl _

/-- A read that ends, for a property that does not look at the coupling block. -/
theorem under_endRead (hCpl : ∀ {s} c, Q s → Q { s with cpl := c }) (h : Under Q s) (r : RemRead) (code : W16) : Under Q (s.endRead r code) := by
  have cpl {t : State} (h : Under Q t) (c : Cpl) : Under Q { t with cpl := c } := ⟨h.stable, hCpl c h.holds⟩
  unfold State.endRead
  split
  · exact h
  · refine .ite (cpl h _) ?_
    have hDropped : Under Q (State.dropReads { s with cpl := { s.cpl with reads := s.cpl.reads.filter fun q => !r.same q } } fun q =>
        q.reach == r.reach && q.tag == r.tag) := cpl (cpl h _) _
    dsimp only
    split
    · exact hDropped.endReachBarge _ _ _
    · exact hDropped

theorem Amid.endRead (h : Amid Q s) (r : RemRead) (code : W16) : Amid Q (s.endRead r code) :=
  h.of fun k => under_endRead h.wide.cpl k r code

theorem Amid.flowFail (h : Amid Q s) (p n : Nat) : Amid Q (s.flowFail p n) := by
  unfold State.flowFail
  extract_lets f owners owners' ctrl next v0 c v1 v2 reads v3
  have h1 : Amid Q v1 := (h.modFlow _ _ _).cpl _
  have h2 : Amid Q v2 := Amid.foldl (fun _ _ k => (k.raise _).of fun k => k.failJob _ _) _ h1
  have h3 : Amid Q v3 := Amid.foldl (fun _ _ k => k.endRead _ _) _ h2
  exact h3.talks (FailedFlows.resent_talks n ctrl next)

theorem Amid.portDown (h : Amid Q s) (p : Nat) : Amid Q (s.portDown p) :=
  Amid.foldl (fun _ _ k => k.flowFail _ _) _ (h.raise _)

theorem Amid.portEdges (h : Amid Q s) (old : BitVec 8) : Amid Q (s.portEdges old) :=
  Amid.foldl (fun _ _ k => .ite (k.portDown _) (.ite (k.raise _) k)) _ h

/-! ### The fault log and the records (12 R397; 13 R446) -/

/-- The profiles' block alone has changed, and the ready point has come where it had. -/
def Logs (s t : State) : Prop := ∃ p, t = { s with prf := p } ∧ p.ready = s.prf.ready

theorem Logs.refl : Logs s s := ⟨_, rfl, rfl⟩

theorem Logs.trans (h : Logs s t) (k : Logs t u) : Logs s u := by
  obtain ⟨p, rfl, hp⟩ := h
  obtain ⟨q, rfl, hq⟩ := k
  exact ⟨q, rfl, hq.trans hp⟩

theorem Logs.foldl {α : Type} {f : State → α → State} (h : ∀ t x, Logs t (f t x)) (l : List α) : ∀ s : State, Logs s (l.foldl f s) := by
  induction l with
  | nil => exact fun _ => .refl
  | cons x l ih => exact fun s => (h s x).trans (ih _)

theorem flogPut_logs (r : Nat × List Byte) : Logs s (s.flogPut r) := ⟨_, rfl, rfl⟩

theorem flashErase_logs (a n : Nat) : Logs s (s.flashErase a n) := ⟨_, rfl, rfl⟩

theorem checkpoint_logs (h : Nat) (f : FLog) : Logs s (s.checkpoint h f) := by
  unfold State.checkpoint
  extract_lets v src w rs x y
  have hStart : Logs s w := (flashErase_logs _ _).trans ⟨_, rfl, rfl⟩
  have hRecords : Logs x y := Logs.foldl (fun _ _ => flogPut_logs _) _ _
  exact ((hStart.trans (flogPut_logs _)).trans hRecords).trans (flogPut_logs _)

theorem flogAppend_logs (r : Nat × List Byte) : Logs s (s.flogAppend r) := by
  unfold State.flogAppend
  extract_lets old v
  refine Logs.trans (t := v) ?_ (flogPut_logs _)
  change Logs s (if _ then _ else _)
  split
  · exact (checkpoint_logs _ _).trans (flashErase_logs _ _)
  · exact .refl

theorem flogStep_logs : Logs s s.flogStep := by
  unfold State.flogStep
  split
  · exact .refl
  · exact Logs.trans ⟨_, rfl, rfl⟩ (flogAppend_logs _)

theorem flogFlush_logs : Logs s s.flogFlush := Logs.foldl (fun _ _ => flogStep_logs) _ s

/-- Records have gone to the collector; a session that is not open stays so. -/
def Reports (s t : State) : Prop := ∃ o m, t = { s with out := o, mgt := m } ∧ ∀ i : Fin 4, s.mgt.sess[i] = none → m.sess[i] = none

theorem modSess_none (j : Fin 4) (f : Session → Session) (i : Fin 4) (h : s.mgt.sess[i] = none) : (s.modSess j f).mgt.sess[i] = none := by
  have hSet : (s.modSess j f).mgt.sess[i] = if j.val = i.val then s.mgt.sess[j].map f else s.mgt.sess[i] :=
    Vector.getElem_set j.isLt i.isLt
  rw [hSet]
  split
  · next hSame =>
    rw [Fin.ext hSame, h]
    rfl
  · exact h

theorem sendRecords_reports : Reports s s.sendRecords := by
  unfold State.sendRecords
  extract_lets rs
  split
  · split
    · exact ⟨_, _, rfl, fun _ h => h⟩
    · exact ⟨_, _, rfl, fun i h => modSess_none (s := s) _ _ i h⟩
  · exact ⟨_, _, rfl, fun _ h => h⟩

theorem Reports.trans (h : Reports s t) (k : Reports t u) : Reports s u := by
  obtain ⟨o, m, rfl, hSess⟩ := h
  obtain ⟨o', m', rfl, kSess⟩ := k
  exact ⟨_, _, rfl, fun i hi => kSess i (hSess i hi)⟩

theorem sendAllRecords_reports : Reports s s.sendAllRecords := by
  unfold State.sendAllRecords
  generalize List.range (s.mgt.recs.length / 18 + 1) = l
  induction l generalizing s with
  | nil => exact ⟨_, _, rfl, fun _ h => h⟩
  | cons x l ih => exact sendRecords_reports.trans ih

/-! ### The shed ladder (17 R578 to R582) -/

theorem Amid.park (h : Amid Q s) (r : Res) : Amid Q (s.park r) := by
  refine h.of fun k => ?_
  unfold State.park
  dsimp only
  refine .ite (k.completeWork _) ?_
  split
  · exact .ite (((k.completeWork _).stopUnit _).endStopped _) ((k.completeWork _).modU _ _)
  · exact (k.completeWork _).stopUnit _

theorem Amid.clearAll (h : Amid Q s) : Amid Q s.clearAll := by
  refine h.of fun k => ?_
  exact (k.foldl fun _ _ k => k.modReach _ _).foldl fun _ _ k => k.modNmu _ _

theorem Amid.enterS6 (h : Amid Q s) : Amid Q s.enterS6 := Amid.clearAll (h.of fun k => k.haltSteps _)

theorem Amid.enterS7 (h : Amid Q s) : Amid Q s.enterS7 := by
  obtain ⟨p, hFlush, hReady⟩ := flogFlush_logs (s := s)
  unfold State.enterS7
  dsimp only
  rw [hFlush]
  obtain ⟨o, m, hSent, -⟩ := sendAllRecords_reports (s := { s with prf := p, dev := { s.dev with st := .stopping } })
  rw [hSent]
  have hOut : Amid Q { s with out := o } := h.of fun k => k.upd
  exact ⟨h.wide, h.wide.books (s := { s with out := o }) p m .stopping hReady hOut.holds⟩

/-- A level is in force, with the ARITH setting that a rise to it gives. -/
def levelled (s : State) (new : Nat) : State :=
  if (s.noteLevel new).dev.arithSet.toNat < ((s.noteLevel new).levelArith new).toNat then (s.noteLevel new).arithDown ((s.noteLevel new).levelArith new)
  else s.noteLevel new

theorem Amid.riseTo {new : Nat} (h : Amid Q (levelled s new)) : Amid Q (s.riseTo new) := by
  unfold State.riseTo
  extract_lets old ports v1 v2 v3 v4 v5 v6
  have h3 : Amid Q v3 := Amid.foldl (fun _ _ k => k.park _) _ h
  have h4 : Amid Q v4 := by
    refine .ite (h3.of fun k => ?_) h3
    exact k.foldl fun _ _ k => k.modMdie _ _
  have h6 : Amid Q v6 := .ite (h4.portEdges _).enterS6 (h4.portEdges _)
  exact .ite h6.enterS7 h6

end Sys2Proof.Machine.WideWork

end WideWorkRules

/-! PROOF. The shed ladder, and what telemetry, temperatures, pins and clocks demand of it (17 R570, R574 to R580, R586, R587; 10 R624). -/

section PowerRules

-- One proof after the other, as in the rules of the canonical form.
set_option Elab.async false

namespace Sys2Proof.Machine.PowerLevels

open Laws UnitWork WideWork

variable {s t u v : State}

/-! ### What the ladder's work leaves alone -/

/-- Power, the level, the ready point and the host link are as they were. -/
structure Powers (s t : State) : Prop where
  pwr   : t.pwr = s.pwr := by rfl
  shed  : t.dev.shed = s.dev.shed := by rfl
  ready : t.prf.ready = s.prf.ready := by rfl
  link  : t.pci.up = s.pci.up ∧ t.pci.trained = s.pci.trained := by exact ⟨rfl, rfl⟩

theorem Powers.trans (h : Powers s t) (k : Powers t u) : Powers s u :=
  ⟨k.pwr.trans h.pwr, k.shed.trans h.shed, k.ready.trans h.ready, k.link.1.trans h.link.1, k.link.2.trans h.link.2⟩

theorem powers_wide (s : State) : Wide (Powers s) where
  keep h k := h.trans ⟨k.pwr, congrArg Dev.shed k.dev, congrArg Prf.ready k.prf, k.link⟩
  raise _ _ _ h := h.trans {}
  tail _ _ h := h.trans {}
  cpl _ h := h.trans {}
  draws _ h := h.trans {}
  books _ _ _ hReady h := h.trans { ready := hReady }

theorem powers_refl : Amid (Powers s) s := ⟨powers_wide s, {}⟩

/-- What the supply, the temperatures and the floor say, the ready point and the host link are as they were. -/
structure Ladder (s t : State) : Prop where
  pwr   : ∃ c d r w, t.pwr = { s.pwr with shedCnt := c, descend := d, rising := r, vset := w }
  ready : t.prf.ready = s.prf.ready
  link  : t.pci.up = s.pci.up ∧ t.pci.trained = s.pci.trained

theorem Ladder.refl : Ladder s s := ⟨⟨_, _, _, _, rfl⟩, rfl, rfl, rfl⟩

theorem Ladder.trans (h : Ladder s t) (k : Ladder t u) : Ladder s u := by
  obtain ⟨⟨_, _, _, _, h⟩, hReady, hUp, hTrained⟩ := h
  obtain ⟨⟨c, d, r, w, k⟩, kReady, kUp, kTrained⟩ := k
  refine ⟨⟨c, d, r, w, ?_⟩, kReady.trans hReady, kUp.trans hUp, kTrained.trans hTrained⟩
  rw [k, h]

theorem Powers.ladder (h : Powers s t) : Ladder s t := ⟨⟨_, _, _, _, h.pwr⟩, h.ready, h.link⟩

theorem Ladder.demand (h : Ladder s t) : t.demand = s.demand := by
  obtain ⟨⟨c, d, r, w, h⟩, hReady, -⟩ := h
  unfold State.demand
  rw [h, hReady]
  rfl

/-! ### Demands (17 R578) -/

theorem foldl_max_le {l : List Nat} {m b : Nat} (hm : m ≤ b) (h : ∀ x ∈ l, x ≤ b) : l.foldl max m ≤ b := by
  induction l generalizing m with
  | nil => exact hm
  | cons x l ih => exact ih (max_le hm (h x List.mem_cons_self)) fun y hy => h y (List.mem_cons_of_mem _ hy)

theorem le_foldl_max {l : List Nat} {m x : Nat} (h : x ≤ m ∨ x ∈ l) : x ≤ l.foldl max m := by
  induction l generalizing m with
  | nil => exact h.resolve_right List.not_mem_nil
  | cons y l ih =>
    refine ih ?_
    rcases h with h | h
    · exact .inl (h.trans (le_max_left _ _))
    · rcases List.mem_cons.mp h with rfl | h
      · exact .inl (le_max_right _ _)
      · exact .inr h

theorem supply_le (p : Pwr) : p.supply ≤ 7 := by
  refine foldl_max_le (Nat.zero_le _) fun x hx => ?_
  simp only [List.mem_cons, List.not_mem_nil, or_false] at hx
  rcases hx with rfl | rfl | rfl | rfl | rfl | rfl | rfl | rfl | rfl | rfl <;> (split <;> decide)

theorem thermal_le (p : Pwr) : p.thermal ≤ 7 := by
  refine foldl_max_le (Nat.zero_le _) fun x hx => ?_
  have hRange := List.mem_range.mp (List.mem_filter.mp hx).1
  omega

theorem demand_le (s : State) : s.demand ≤ 7 := by
  have hSupply := supply_le s.pwr
  have hThermal := thermal_le s.pwr
  have hFloor := s.pwr.floor.isLt
  unfold State.demand
  dsimp only
  split
  · omega
  · split <;> omega

/-- A supply demand counts once the ready point has come, and at S7 before it too. -/
theorem supply_le_demand (h : s.prf.ready = true ∨ s.pwr.supply = 7) : s.pwr.supply ≤ s.demand := by
  have hSupply := supply_le s.pwr
  have hThermal := thermal_le s.pwr
  have hFloor := s.pwr.floor.isLt
  unfold State.demand
  dsimp only
  rcases h with h | h
  · rw [if_pos h]
    omega
  · split
    · omega
    · rw [if_pos (by omega)]
      omega

theorem supply_warn (h : s.pwr.warn = true) : 3 ≤ s.pwr.supply := by
  refine le_foldl_max (.inr ?_)
  simp [h]

theorem supply_crit (h : s.pwr.crit = true) : 5 ≤ s.pwr.supply := by
  refine le_foldl_max (.inr ?_)
  simp [h]

theorem supply_held (h : s.pwr.crit = true) (hHold : 1 ≤ s.pwr.critHold) : 6 ≤ s.pwr.supply := by
  refine le_foldl_max (.inr ?_)
  simp [h, hHold]

theorem supply_long (h : s.pwr.crit = true) (hHold : 2 ≤ s.pwr.critHold) : 7 ≤ s.pwr.supply := by
  refine le_foldl_max (.inr ?_)
  simp [h, hHold]

theorem supply_clocks (h : s.pwr.clk.getLsbD 2 = true ∨ s.pwr.clk.getLsbD 3 = true) : 7 ≤ s.pwr.supply := by
  refine le_foldl_max (.inr ?_)
  have hLost : (s.pwr.clk.getLsbD 2 || s.pwr.clk.getLsbD 3) = true := Bool.or_eq_true_iff.mpr h
  simp only [hLost, if_true, List.mem_cons, true_or, or_true]

/-! ### A level takes effect (17 R578 to R580) -/

theorem setVdd_ladder (c : BitVec 2) : Ladder s (s.setVdd c) ∧ (s.setVdd c).dev = s.dev := by
  unfold State.setVdd
  split
  · exact ⟨⟨⟨_, _, _, _, rfl⟩, rfl, rfl, rfl⟩, rfl⟩
  · exact ⟨.refl, rfl⟩

theorem arithDown_ladder (c : BitVec 2) : Ladder s (s.arithDown c) ∧ (s.arithDown c).dev.shed = s.dev.shed := by
  obtain ⟨⟨hPwr, hReady, hLink⟩, hDev⟩ := setVdd_ladder (s := { s with dev := { s.dev with arithSet := c } }) c
  have hShed := congrArg Dev.shed hDev
  exact ⟨⟨hPwr, hReady, hLink⟩, hShed⟩

theorem noteLevel_ladder (new : Nat) : Ladder s (s.noteLevel new) := ⟨⟨_, _, _, _, rfl⟩, rfl, rfl, rfl⟩

theorem levelled_ladder (new : Nat) : Ladder s (levelled s new) ∧ (levelled s new).dev.shed = BitVec.ofNat 3 new := by
  unfold levelled
  split
  · obtain ⟨hLadder, hShed⟩ := arithDown_ladder (s := s.noteLevel new) ((s.noteLevel new).levelArith new)
    exact ⟨(noteLevel_ladder new).trans hLadder, hShed⟩
  · exact ⟨noteLevel_ladder new, rfl⟩

theorem riseTo_ladder (new : Nat) : Ladder s (s.riseTo new) ∧ (s.riseTo new).dev.shed = BitVec.ofNat 3 new := by
  obtain ⟨hLadder, hShed⟩ := levelled_ladder (s := s) new
  have hRise : Powers (levelled s new) (s.riseTo new) := (powers_refl (s := levelled s new)).riseTo.holds
  exact ⟨hLadder.trans hRise.ladder, hRise.shed.trans hShed⟩

theorem toNat_level {n : Nat} (h : n ≤ 7) : (BitVec.ofNat 3 n).toNat = n := by
  rw [BitVec.toNat_ofNat]
  omega

theorem shedClimb_climbs : Ladder s s.shedClimb ∧ (s.dev.shed.toNat < s.demand → s.shedClimb.dev.shed.toNat = s.demand) ∧
    s.demand ≤ s.shedClimb.dev.shed.toNat := by
  have hDemand := demand_le s
  unfold State.shedClimb
  split
  · obtain ⟨hLadder, hShed⟩ := riseTo_ladder (s := s) s.demand
    rw [hShed, toNat_level hDemand]
    exact ⟨hLadder, fun _ => rfl, le_rfl⟩
  · next hNone =>
    rw [Bool.and_eq_true, decide_eq_true_eq, decide_eq_true_eq] at hNone
    exact ⟨.refl, fun h => absurd ⟨h, by omega⟩ hNone, by omega⟩

/-- A demanded rise cancels a descent. -/
def uncalled (s : State) : State :=
  if s.dev.shed.toNat ≤ s.demand then { s with pwr := { s.pwr with descend := false, rising := none } } else s

theorem uncalled_ladder : Ladder s (uncalled s) := by
  unfold uncalled
  split
  · exact ⟨⟨_, _, _, _, rfl⟩, rfl, rfl, rfl⟩
  · exact .refl

theorem demandMoved_eq : s.demandMoved = (uncalled s).unlessForced State.shedClimb := rfl

theorem demandMoved_ladder : Ladder s s.demandMoved := by
  rw [demandMoved_eq]
  unfold State.unlessForced
  split
  · exact uncalled_ladder
  · exact uncalled_ladder.trans shedClimb_climbs.1

theorem uncalled_kept : ∃ p, uncalled s = { s with pwr := p } := by
  unfold uncalled
  split
  · exact ⟨_, rfl⟩
  · exact ⟨_, rfl⟩

/-- While a schedule is in force a demand waits for its lock points. -/
theorem demandMoved_waits (h : s.lkp.inForce = true) : ∃ p, s.demandMoved = { s with pwr := p } := by
  obtain ⟨p, hEq⟩ := uncalled_kept (s := s)
  refine ⟨p, ?_⟩
  rw [demandMoved_eq, hEq]
  exact EgressRings.unlessForced_inForce (s := { s with pwr := p }) h _

theorem demandMoved_acts (h : s.lkp.inForce = false) : s.demand ≤ s.demandMoved.dev.shed.toNat ∧
    (s.dev.shed.toNat < s.demand → s.demandMoved.dev.shed.toNat = s.demand) := by
  obtain ⟨p, hEq⟩ := uncalled_kept (s := s)
  have hMoved : s.demandMoved = (uncalled s).shedClimb := by
    rw [demandMoved_eq, hEq]
    exact EgressRings.unlessForced_idle (s := { s with pwr := p }) h _
  have hDemand : (uncalled s).demand = s.demand := uncalled_ladder.demand
  have hShed : (uncalled s).dev.shed = s.dev.shed := by
    rw [hEq]
  obtain ⟨-, hClimb, hReach⟩ := shedClimb_climbs (s := uncalled s)
  rw [hDemand] at hClimb hReach
  rw [hShed] at hClimb
  rw [hMoved]
  exact ⟨hReach, hClimb⟩

/-! ### Demands wait for lock points, or act (17 R578; 10 R624) -/

/-- The change waits: units, memory and the device's level are as they were. -/
def Waits (s t : State) : Prop := UnitsKept s t ∧ MemoryKept s t ∧ t.dev = s.dev

/-- Demands wait while a schedule is in force, and else take effect. -/
def Acts (s t : State) : Prop := (s.lkp.inForce = true → Waits s t) ∧ (s.lkp.inForce = false → t.demand ≤ t.dev.shed.toNat)

theorem Waits.refl : Waits s s := ⟨⟨rfl, rfl, rfl, rfl, rfl⟩, ⟨rfl, rfl, rfl⟩, rfl⟩

theorem Waits.trans (h : Waits s t) (k : Waits t u) : Waits s u := by
  obtain ⟨⟨hReach, hNmu, hMdie, hLkp, hCtx⟩, hMem, hDev⟩ := h
  obtain ⟨⟨kReach, kNmu, kMdie, kLkp, kCtx⟩, kMem, kDev⟩ := k
  exact ⟨⟨kReach.trans hReach, kNmu.trans hNmu, kMdie.trans hMdie, kLkp.trans hLkp, kCtx.trans hCtx⟩,
    NmuAccess.memoryKept_trans hMem kMem, kDev.trans hDev⟩

theorem Waits.lkp (h : Waits s t) : t.lkp = s.lkp := by
  obtain ⟨⟨-, -, -, hLkp, -⟩, -⟩ := h
  exact hLkp

theorem raise_waits (e : Ev) : Waits s (s.raise e) := ⟨⟨rfl, rfl, rfl, rfl, rfl⟩, ⟨rfl, rfl, rfl⟩, rfl⟩

theorem pwr_waits (p : Pwr) : Waits s { s with pwr := p } := ⟨⟨rfl, rfl, rfl, rfl, rfl⟩, ⟨rfl, rfl, rfl⟩, rfl⟩

theorem moved_acts (h : Waits s v) : Acts s v.demandMoved := by
  refine ⟨fun hForce => ?_, fun hIdle => ?_⟩
  · obtain ⟨p, hEq⟩ := demandMoved_waits (s := v) (by rw [h.lkp, hForce])
    rw [hEq]
    exact h.trans (pwr_waits p)
  · rw [demandMoved_ladder.demand]
    exact (demandMoved_acts (by rw [h.lkp, hIdle])).1

theorem moved_event {code job : Nat} {src : W32} (hLkp : v.lkp = s.lkp) (h : Raised s v code job src) :
    s.lkp.inForce = true → Raised s v.demandMoved code job src := by
  intro hForce
  obtain ⟨p, hEq⟩ := demandMoved_waits (s := v) (by rw [hLkp, hForce])
  rw [hEq]
  exact h

/-- What a demand that has moved leaves of power. -/
theorem moved_pwr {α : Type} {f : Pwr → α} (hf : ∀ p c d r w, f { p with shedCnt := c, descend := d, rising := r, vset := w } = f p := by
    intros; rfl) : f v.demandMoved.pwr = f v.pwr := by
  obtain ⟨⟨c, d, r, w, h⟩, -⟩ := demandMoved_ladder (s := v)
  rw [h, hf]

end Sys2Proof.Machine.PowerLevels

end PowerRules

/-! PROOF. Telemetry, temperatures, pins, clocks, PPS and the shed floor (17 R570, R574 to R579, R586, R587, R590, R591, R594; 10 R624). -/

section SupplyRules

-- One proof after the other, as in the rules of the canonical form.
set_option Elab.async false

namespace Sys2Proof.Machine.Supplies

open Laws UnitWork WideWork PowerLevels

variable {s t u v : State}

/-! ### Rails (17 R574) -/

/-- Beyond waiting work only rails and events have changed. -/
structure Reads (s t : State) : Prop where
  waits : Waits s t
  polled : ∀ r, t.pwr.polled r = s.pwr.polled r

theorem Reads.refl : Reads s s := ⟨.refl, fun _ => rfl⟩

theorem Reads.trans (h : Reads s t) (k : Reads t u) : Reads s u := ⟨h.waits.trans k.waits, fun r => (k.polled r).trans (h.polled r)⟩

theorem modRail_reads (r : Fin 9) (f : Rail → Rail) : Reads s (s.modRail r f) := ⟨pwr_waits _, fun _ => rfl⟩

theorem modRail_same (r : Fin 9) (f : Rail → Rail) : (s.modRail r f).pwr.rails[r] = f s.pwr.rails[r] := by
  simp [State.modRail]

theorem modRail_ne {r q : Fin 9} (h : q ≠ r) (f : Rail → Rail) : (s.modRail r f).pwr.rails[q] = s.pwr.rails[q] := by
  have hVal : r.val ≠ q.val := fun k => h (Fin.ext k.symm)
  simp [State.modRail, hVal]

theorem readStatus_eq (r : Fin 9) (w : W16) : Reads s (s.readStatus r w) ∧
    (s.readStatus r w).pwr = (s.modRail r fun x => { x with status := w }).pwr := by
  unfold State.readStatus
  extract_lets old v
  split
  · exact ⟨(modRail_reads _ _).trans ⟨raise_waits _, fun _ => rfl⟩, rfl⟩
  · exact ⟨modRail_reads _ _, rfl⟩

theorem pollRail_reads (r : Fin 9) (x : Option RailRead) : Reads s (s.pollRail r x) := by
  unfold State.pollRail
  split
  · exact Reads.trans (t := s.pmbusErr) ⟨pwr_waits _, fun _ => rfl⟩ (modRail_reads _ _)
  · dsimp only
    split
    · exact (modRail_reads _ _).trans (readStatus_eq _ _).1
    · exact modRail_reads _ _

/-- What a round says of a rail. -/
def Told (s t : State) (x : Vector (Option RailRead) 9) (r : Fin 9) : Prop :=
  (∀ q, x[r] = some q → t.pwr.rails[r].vout = q.vout ∧ t.pwr.rails[r].iout = q.iout ∧ t.pwr.rails[r].valid = true ∧
    ∀ w, q.status = some w → t.pwr.rails[r].status = w) ∧
  (x[r] = none → t.pwr.rails[r].fails = s.pwr.rails[r].fails + 1)

theorem pollRail_ne {r q : Fin 9} (h : q ≠ r) (x : Option RailRead) : (s.pollRail r x).pwr.rails[q] = s.pwr.rails[q] := by
  unfold State.pollRail
  split
  · exact modRail_ne (s := s.pmbusErr) h _
  · dsimp only
    split
    · rw [(readStatus_eq r _).2, modRail_ne h, modRail_ne h]
    · exact modRail_ne h _

theorem pollRail_told (x : Vector (Option RailRead) 9) (r : Fin 9) : Told s (s.pollRail r x[r]) x r := by
  unfold Told
  generalize x[r] = a
  unfold State.pollRail
  cases a with
  | none =>
    refine ⟨fun _ h => absurd h (by simp), fun _ => ?_⟩
    dsimp only
    rw [modRail_same]
    rfl
  | some q =>
    refine ⟨fun q' h => ?_, fun h => absurd h (by simp)⟩
    cases h
    dsimp only
    split
    · next w hStatus =>
      rw [(readStatus_eq r w).2, modRail_same, modRail_same, hStatus]
      exact ⟨rfl, rfl, rfl, fun _ h => Option.some.inj h⟩
    · next hStatus =>
      rw [modRail_same, hStatus]
      exact ⟨rfl, rfl, rfl, fun _ h => absurd h (by simp)⟩

/-- A round over a list of rails, each once. -/
theorem round {f : State → Fin 9 → State} {P : Fin 9 → Rail → Rail → Prop} (hReads : ∀ t r, Reads t (f t r))
    (hNe : ∀ t r q, q ≠ r → (f t r).pwr.rails[q] = t.pwr.rails[q]) (hSame : ∀ (t : State) (r : Fin 9), P r t.pwr.rails[r] (f t r).pwr.rails[r])
    (l : List (Fin 9)) (hOnce : l.Nodup) : ∀ s : State, Reads s (l.foldl f s) ∧
    (∀ r ∈ l, P r s.pwr.rails[r] (l.foldl f s).pwr.rails[r]) ∧ ∀ r, r ∉ l → (l.foldl f s).pwr.rails[r] = s.pwr.rails[r] := by
  induction l with
  | nil => exact fun s => ⟨.refl, fun _ h => absurd h List.not_mem_nil, fun _ _ => rfl⟩
  | cons q l ih =>
    obtain ⟨hNew, hOnce⟩ := List.nodup_cons.mp hOnce
    intro s
    obtain ⟨hRest, hTold, hOthers⟩ := ih hOnce (f s q)
    refine ⟨(hReads s q).trans hRest, fun r hr => ?_, fun r hr => ?_⟩
    · rcases List.mem_cons.mp hr with rfl | hr
      · rw [List.foldl_cons, hOthers r hNew]
        exact hSame s r
      · have hDiff : r ≠ q := fun h => hNew (h ▸ hr)
        have k := hTold r hr
        rw [hNe s q r hDiff] at k
        exact k
    · obtain ⟨hDiff, hOut⟩ := not_or.mp (mt List.mem_cons.mpr hr)
      rw [List.foldl_cons, hOthers r hOut, hNe s q r hDiff]

theorem mem_pollRails (r : Fin 9) : r ∈ s.pollRails ↔ s.pwr.polled r = true := by
  simp [State.pollRails]

theorem pollRails_nodup : s.pollRails.Nodup := (List.nodup_finRange 9).filter _

/-- Rails are shown, and package power is known: the rails are as they were read. -/
structure Shown (s t : State) : Prop where
  waits : Waits s t
  rails : t.pwr.rails = s.pwr.rails

theorem Shown.trans (h : Shown s t) (k : Shown t u) : Shown s u := ⟨h.waits.trans k.waits, k.rails.trans h.rails⟩

theorem showRails_shown : Shown s s.showRails := by
  unfold State.showRails
  split
  · exact ⟨pwr_waits _, rfl⟩
  · exact ⟨.refl, rfl⟩

theorem powered_shown : Shown s s.averagePower.showRails.powerFlags :=
  (Shown.trans (t := s.averagePower) ⟨pwr_waits _, rfl⟩ showRails_shown).trans ⟨pwr_waits _, rfl⟩

theorem pmbusPoll_none (hNone : s.pollRails = []) (x : Vector (Option RailRead) 9) : exec (.pmbusPoll x) s = .next s := by
  change execPmbusPoll x s = _
  rw [execPmbusPoll, hNone, if_pos (by simp)]

theorem pmbusPoll_gives (hHeld : s.dev.held = false) (x : Vector (Option RailRead) 9) (hSome : s.pollRails ≠ []) : Gives (.pmbusPoll x) s fun t => Acts s t ∧
    (∀ r : Fin 9, s.pwr.polled r = true → Told s t x r) ∧ ∀ r : Fin 9, s.pwr.polled r = false → t.pwr.rails[r] = s.pwr.rails[r] := by
  obtain ⟨hReads, hTold, hOthers⟩ := round (P := fun r a b => (∀ q, x[r] = some q → b.vout = q.vout ∧ b.iout = q.iout ∧ b.valid = true ∧
      ∀ w, q.status = some w → b.status = w) ∧ (x[r] = none → b.fails = a.fails + 1))
    (fun t r => pollRail_reads (s := t) r x[r]) (fun t r q h => pollRail_ne h _) (fun t r => pollRail_told x r) s.pollRails pollRails_nodup s
  have hExec : exec (.pmbusPoll x) s =
      .next (s.pollRails.foldl (fun s r => s.pollRail r x[r]) s).averagePower.showRails.powerFlags.demandMoved := by
    change execPmbusPoll x s = _
    rw [execPmbusPoll, hHeld, if_neg (by simp [hSome])]
  have hShown := powered_shown (s := s.pollRails.foldl (fun s r => s.pollRail r x[r]) s)
  have hRails : ∀ r : Fin 9, (s.pollRails.foldl (fun s r => s.pollRail r x[r]) s).averagePower.showRails.powerFlags.demandMoved.pwr.rails[r] =
      (s.pollRails.foldl (fun s r => s.pollRail r x[r]) s).pwr.rails[r] := fun r => by
    rw [moved_pwr (f := Pwr.rails), hShown.rails]
  refine ⟨_, hExec, moved_acts (hReads.waits.trans hShown.waits), fun r hr => ?_, fun r hr => ?_⟩
  · unfold Told
    rw [hRails r]
    exact hTold r ((mem_pollRails r).mpr hr)
  · rw [hRails r]
    exact hOthers r fun h => absurd ((mem_pollRails r).mp h) (by simp [hr])

/-- What an alert reads of a rail. -/
def alertRail (x : Vector (Option W16) 9) (s : State) (r : Fin 9) : State :=
  match x[r] with
  | some w => s.readStatus r w
  | none => s.pmbusErr

theorem alertRail_reads (x : Vector (Option W16) 9) (r : Fin 9) : Reads s (alertRail x s r) := by
  unfold alertRail
  split
  · exact (readStatus_eq _ _).1
  · exact ⟨pwr_waits _, fun _ => rfl⟩

theorem alertRail_ne (x : Vector (Option W16) 9) {r q : Fin 9} (h : q ≠ r) : (alertRail x s r).pwr.rails[q] = s.pwr.rails[q] := by
  unfold alertRail
  split
  · rw [(readStatus_eq _ _).2, modRail_ne h]
  · rfl

theorem alertRail_same (x : Vector (Option W16) 9) (r : Fin 9) : ∀ w, x[r] = some w → (alertRail x s r).pwr.rails[r].status = w := by
  intro w h
  unfold alertRail
  rw [h]
  dsimp only
  rw [(readStatus_eq r w).2, modRail_same]

theorem pmbAlert_gives (hHeld : s.dev.held = false) (x : Vector (Option W16) 9) : Gives (.pmbAlert x) s fun t => Acts s t ∧
    ∀ r : Fin 9, s.pwr.polled r = true → ∀ w, x[r] = some w → t.pwr.rails[r].status = w := by
  obtain ⟨hReads, hTold, -⟩ := round (P := fun r _ b => ∀ w, x[r] = some w → b.status = w)
    (fun t r => alertRail_reads (s := t) x r) (fun t r q h => alertRail_ne x h) (fun t r => alertRail_same x r) s.pollRails pollRails_nodup s
  have hExec : exec (.pmbAlert x) s = .next (s.pollRails.foldl (alertRail x) s).showRails.demandMoved := by
    change execPmbAlert x s = _
    rw [execPmbAlert, hHeld]
    rfl
  have hShown := showRails_shown (s := s.pollRails.foldl (alertRail x) s)
  refine ⟨_, hExec, moved_acts (hReads.waits.trans hShown.waits), fun r hr w hw => ?_⟩
  rw [moved_pwr (f := Pwr.rails), hShown.rails]
  exact hTold r ((mem_pollRails r).mpr hr) w hw

/-! ### Temperatures (17 R575) -/

theorem foldl_hotter (t : Vector (BitVec 8) 24) (l : List (Fin 24)) (m : Fin 24) :
    t[m].toInt ≤ t[l.foldl (fun (m i : Fin 24) => if t[m].toInt < t[i].toInt then i else m) m].toInt ∧
    ∀ i ∈ l, t[i].toInt ≤ t[l.foldl (fun (m i : Fin 24) => if t[m].toInt < t[i].toInt then i else m) m].toInt := by
  induction l generalizing m with
  | nil => exact ⟨le_rfl, fun _ h => absurd h List.not_mem_nil⟩
  | cons i l ih =>
    obtain ⟨hStart, hRest⟩ := ih (if t[m].toInt < t[i].toInt then i else m)
    have hBoth : t[m].toInt ≤ t[if t[m].toInt < t[i].toInt then i else m].toInt ∧
        t[i].toInt ≤ t[if t[m].toInt < t[i].toInt then i else m].toInt := by
      split <;> constructor <;> omega
    refine ⟨hBoth.1.trans hStart, fun k hk => ?_⟩
    rcases List.mem_cons.mp hk with rfl | hk
    · exact hBoth.2.trans hStart
    · exact hRest k hk

theorem hottest_max (t : Vector (BitVec 8) 24) (i : Fin 24) : t[i].toInt ≤ t[hottest t].toInt := (foldl_hotter t _ 0).2 i (List.mem_finRange i)

/-- The sensors' readings. -/
def sensed (s : State) (temps : Vector (BitVec 8) 24) : State :=
  { s with pwr := { s.pwr with
    temps, maxSensor := BitVec.ofNat 8 (hottest temps).val, maxTemp := temps[hottest temps], hot := s.pwr.hotAfter temps[hottest temps].toInt } }

/-- The readings are shown, at S0 each and from S1 on every 100 ms. -/
def displayed (s : State) (temps : Vector (BitVec 8) 24) : State :=
  if s.dev.shed = 0 ∨ 100000000 ≤ (s.time - s.pwr.shownAt).toNat then { s with pwr := { s.pwr with shown := temps, shownAt := s.time } } else s

/-- A thermal demand for S6 or above that is higher than the last raises its event. -/
def alarmed (s : State) (old : Nat) (k : Fin 24) (x : BitVec 8) : State :=
  if 6 ≤ s.pwr.thermal ∧ old < s.pwr.thermal then s.raise { code := 0x0708, addr := k, d0 := x.toNat } else s

theorem displayed_keeps (temps : Vector (BitVec 8) 24) : Waits s (displayed s temps) ∧ (displayed s temps).pwr.temps = s.pwr.temps ∧
    (displayed s temps).pwr.maxSensor = s.pwr.maxSensor ∧ (displayed s temps).pwr.maxTemp = s.pwr.maxTemp := by
  unfold displayed
  split
  · exact ⟨pwr_waits _, rfl, rfl, rfl⟩
  · exact ⟨.refl, rfl, rfl, rfl⟩

theorem alarmed_keeps (old : Nat) (k : Fin 24) (x : BitVec 8) : Waits s (alarmed s old k x) ∧ (alarmed s old k x).pwr = s.pwr := by
  unfold alarmed
  split
  · exact ⟨raise_waits _, rfl⟩
  · exact ⟨.refl, rfl⟩

theorem tempSample_gives (hHeld : s.dev.held = false) (temps : Vector (BitVec 8) 24) : Gives (.tempSample temps) s fun t =>
    t.pwr.temps = temps ∧ (∀ i : Fin 24, temps[i].toInt ≤ t.pwr.maxTemp.toInt) ∧
      (∃ i : Fin 24, t.pwr.maxSensor.toNat = i ∧ t.pwr.maxTemp = temps[i]) ∧ Acts s t := by
  obtain ⟨hWaits, hTemps, hSensor, hMax⟩ := displayed_keeps (s := sensed s temps) temps
  obtain ⟨kWaits, kPwr⟩ := alarmed_keeps (s := displayed (sensed s temps) temps) s.pwr.thermal (hottest temps) temps[hottest temps]
  have hExec : exec (.tempSample temps) s =
      .next (alarmed (displayed (sensed s temps) temps) s.pwr.thermal (hottest temps) temps[hottest temps]).demandMoved := by
    change execTempSample temps s = _
    rw [execTempSample, hHeld]
    rfl
  refine ⟨_, hExec, ?_, ?_, ⟨hottest temps, ?_, ?_⟩, moved_acts (((pwr_waits _).trans hWaits).trans kWaits)⟩
  · rw [moved_pwr (f := Pwr.temps), kPwr, hTemps]
    rfl
  · rw [moved_pwr (f := Pwr.maxTemp), kPwr, hMax]
    exact hottest_max temps
  · rw [moved_pwr (f := Pwr.maxSensor), kPwr, hSensor]
    change (BitVec.ofNat 8 (hottest temps).val).toNat = _
    rw [BitVec.toNat_ofNat]
    omega
  · rw [moved_pwr (f := Pwr.maxTemp), kPwr, hMax]
    rfl

end Sys2Proof.Machine.Supplies

end SupplyRules

/-! PROOF. Pins, descents, reference clocks, PPS and the shed floor (17 R570, R576 to R579, R586, R587, R590, R594; 10 R624). -/

section PinRules

-- One proof after the other, as in the rules of the canonical form.
set_option Elab.async false

namespace Sys2Proof.Machine.PowerPins

open Laws UnitWork WideWork PowerLevels Supplies

variable {s t u v : State}

theorem waits_event {code job : Nat} {src : W32} (h : Waits s v) (hRaised : Raised s v code job src) :
    s.lkp.inForce = true → Raised s v.demandMoved code job src := moved_event h.lkp hRaised

/-- An event that the machine raises after waiting work that raises none. -/
theorem raised_after {v : State} (hSeq : v.ras.seq = s.ras.seq) (hNode : v.cpl.node = s.cpl.node) (e : Ev) (hJob : e.job = 0xFFFF) (hKind : e.kind = 0)
    (hPart : e.part = 0) : Raised s (v.raise e) e.code 0xFFFF (srcOf s 0 0) := by
  obtain ⟨r, h1, h2, h3, h4, h5, h6⟩ := raise_raised v e
  rw [hJob] at h3
  rw [hKind, hPart, hNode] at h4
  exact ⟨r, h1.trans hSeq, h2, h3, h4, h5.trans (by rw [hSeq]), h6⟩

theorem pwr_raised (p : Pwr) (e : Ev) (hJob : e.job = 0xFFFF := by rfl) (hKind : e.kind = 0 := by rfl) (hPart : e.part = 0 := by rfl) :
    Raised s (State.raise { s with pwr := p } e) e.code 0xFFFF (srcOf s 0 0) :=
  raised_after (v := { s with pwr := p }) rfl rfl e hJob hKind hPart

theorem moved_demand_ge {n : Nat} (hReady : v.prf.ready = true ∨ v.pwr.supply = 7) (h : n ≤ v.pwr.supply) : n ≤ v.demandMoved.demand := by
  rw [demandMoved_ladder.demand]
  exact h.trans (supply_le_demand hReady)

/-! ### Pins (17 R576, R577) -/

section
variable (hHeld : s.dev.held = false)
include hHeld

omit hHeld in
theorem pwrWarn_same {on : Bool} (h : s.pwr.warn = on) : exec (.pwrWarn on) s = .next s := by
  change execPwrWarn on s = _
  rw [execPwrWarn, h, if_pos (by simp)]

theorem pwrWarn_gives {on : Bool} (h : s.pwr.warn ≠ on) : Gives (.pwrWarn on) s fun t => t.pwr.warn = on ∧ Acts s t ∧
    (on = true → s.lkp.inForce = true → Raised s t 0x0704 0xFFFF (srcOf s 0 0)) ∧ (on = true → s.prf.ready = true → 3 ≤ t.demand) := by
  have hExec : exec (.pwrWarn on) s = .next (if on then ({ s with pwr := { s.pwr with warn := on } }).raise { code := 0x0704 } else
      { s with pwr := { s.pwr with warn := on } }).demandMoved := by
    change execPwrWarn on s = _
    rw [execPwrWarn, hHeld, if_neg (by simp [h])]
  refine ⟨_, hExec, ?_⟩
  cases on with
  | false =>
    refine ⟨moved_pwr (f := Pwr.warn), moved_acts (pwr_waits _), fun h => absurd h (by decide), fun h => absurd h (by decide)⟩
  | true =>
    have hWaits : Waits s (({ s with pwr := { s.pwr with warn := true } } : State).raise { code := 0x0704 }) := (pwr_waits _).trans (raise_waits _)
    refine ⟨moved_pwr (f := Pwr.warn), moved_acts hWaits, fun _ => waits_event hWaits (pwr_raised _ _), fun _ hReady => ?_⟩
    exact moved_demand_ge (.inl hReady) (supply_warn rfl)

omit hHeld in
theorem pwrCrit_same {on : Bool} (h : s.pwr.crit = on) : exec (.pwrCrit on) s = .next s := by
  change execPwrCrit on s = _
  rw [execPwrCrit, h, if_pos (by simp)]

theorem pwrCrit_gives {on : Bool} (h : s.pwr.crit ≠ on) : Gives (.pwrCrit on) s fun t => t.pwr.crit = on ∧ t.pwr.critHold = 0 ∧ Acts s t ∧
    (on = true → s.lkp.inForce = true → Raised s t 0x0705 0xFFFF (srcOf s 0 0)) ∧ (on = true → s.prf.ready = true → 5 ≤ t.demand) := by
  have hExec : exec (.pwrCrit on) s = .next (if on then ({ s with pwr := { s.pwr with crit := on, critHold := 0 } }).raise { code := 0x0705 } else
      { s with pwr := { s.pwr with crit := on, critHold := 0 } }).demandMoved := by
    change execPwrCrit on s = _
    rw [execPwrCrit, hHeld, if_neg (by simp [h])]
  refine ⟨_, hExec, ?_⟩
  cases on with
  | false =>
    exact ⟨moved_pwr (f := Pwr.crit), moved_pwr (f := Pwr.critHold), moved_acts (pwr_waits _), fun h => absurd h (by decide),
      fun h => absurd h (by decide)⟩
  | true =>
    have hWaits : Waits s (({ s with pwr := { s.pwr with crit := true, critHold := 0 } } : State).raise { code := 0x0705 }) :=
      (pwr_waits _).trans (raise_waits _)
    refine ⟨moved_pwr (f := Pwr.crit), moved_pwr (f := Pwr.critHold), moved_acts hWaits,
      fun _ => waits_event hWaits (pwr_raised _ _), fun _ hReady => ?_⟩
    exact moved_demand_ge (.inl hReady) (supply_crit rfl)

omit hHeld in
theorem pwrCritHold_released (on : Bool) (h : s.pwr.crit = false) : exec (.pwrCritHold on) s = .next s := by
  change execPwrCritHold on s = _
  rw [execPwrCritHold, h, if_pos (by simp)]

theorem pwrCritHold_gives (on : Bool) (h : s.pwr.crit = true) : Gives (.pwrCritHold on) s fun t =>
    t.pwr.critHold = max (if on then 2 else 1) s.pwr.critHold ∧ Acts s t ∧
      (s.prf.ready = true ∨ on = true → (if on then 7 else 6) ≤ t.demand) := by
  have hExec : exec (.pwrCritHold on) s = .next
      ({ s with pwr := { s.pwr with critHold := max (if on then 2 else 1) s.pwr.critHold } } : State).demandMoved := by
    change execPwrCritHold on s = _
    rw [execPwrCritHold, hHeld, h, if_neg (by decide)]
  refine ⟨_, hExec, moved_pwr (f := Pwr.critHold), moved_acts (pwr_waits _), fun hReady => ?_⟩
  cases on with
  | true =>
    have hSeven : 7 ≤ Pwr.supply { s.pwr with critHold := max 2 s.pwr.critHold } :=
      supply_long (s := { s with pwr := { s.pwr with critHold := max 2 s.pwr.critHold } }) h (le_max_left _ _)
    exact moved_demand_ge (.inr (le_antisymm (supply_le _) hSeven)) hSeven
  | false =>
    refine moved_demand_ge (.inl (hReady.resolve_right (by decide))) ?_
    exact supply_held (s := { s with pwr := { s.pwr with critHold := max 1 s.pwr.critHold } }) h (le_max_left _ _)

theorem pwrDroop_gives (rail : Fin 4) : Gives (.pwrDroop rail) s fun t => t.pwr.droop = true ∧ t.pwr.droopCnt = stick32 s.pwr.droopCnt 1 ∧
    Acts s t ∧ (s.lkp.inForce = true → Raised s t 0x0703 0xFFFF (srcOf s 0 0)) := by
  have hExec : exec (.pwrDroop rail) s = .next (({ s with pwr := { s.pwr with droop := true, droopCnt := stick32 s.pwr.droopCnt 1 } } : State).raise
      { code := 0x0703, addr := rail }).demandMoved := by
    change execPwrDroop rail s = _
    rw [execPwrDroop, hHeld]
    rfl
  have hWaits := Waits.trans (pwr_waits (s := s) { s.pwr with droop := true, droopCnt := stick32 s.pwr.droopCnt 1 })
    (raise_waits { code := 0x0703, addr := rail })
  exact ⟨_, hExec, moved_pwr (f := Pwr.droop), moved_pwr (f := Pwr.droopCnt), moved_acts hWaits,
    waits_event hWaits (pwr_raised _ _)⟩

theorem droopDemandEnd_gives : Gives .droopDemandEnd s fun t => t.pwr.droop = false ∧ Acts s t := by
  have hExec : exec .droopDemandEnd s = .next ({ s with pwr := { s.pwr with droop := false } } : State).demandMoved := by
    change execDroopDemandEnd s = _
    rw [execDroopDemandEnd, hHeld]
    rfl
  exact ⟨_, hExec, moved_pwr (f := Pwr.droop), moved_acts (pwr_waits _)⟩

end

/-! ### Descents (17 R570, R579, R580) -/

theorem stepDown_shed : s.stepDown.dev.shed = BitVec.ofNat 3 (s.dev.shed.toNat - 1) := by
  unfold State.stepDown
  extract_lets old new ports v1 c src v2 v3 v4
  have h2 : Amid (Powers v2) v2 := powers_refl
  have h3 : Amid (Powers v2) v3 := h2.of fun k => k.foldl fun _ _ k => k.clearUnit _
  have h4 : Amid (Powers v2) v4 := by
    refine .ite (h3.of fun k => ?_) h3
    exact k.foldl fun _ _ k => k.modMdie _ _
  exact (h4.portEdges ports).holds.shed

/-- A descent that is due takes effect now where no schedule is in force. -/
theorem descendReady_falls (hIdle : s.lkp.inForce = false) (hBelow : s.demand < s.dev.shed.toNat) (hStop : s.dev.shed.toNat ≠ 7) :
    s.descendReady.dev.shed.toNat = s.dev.shed.toNat - 1 := by
  have hShed := s.dev.shed.isLt
  have hEq : s.descendReady = State.stepDown { s with pwr := { s.pwr with descend := true } } := by
    unfold State.descendReady
    rw [EgressRings.unlessForced_idle (s := { s with pwr := { s.pwr with descend := true } }) hIdle, State.shedDescend, if_pos]
    have hDemand : State.demand { s with pwr := { s.pwr with descend := true } } = s.demand := rfl
    rw [hDemand]
    simp only [hBelow, decide_true, Bool.and_true, Bool.true_and, decide_eq_true_eq]
    omega
  rw [hEq, stepDown_shed]
  change (BitVec.ofNat 3 (s.dev.shed.toNat - 1)).toNat = _
  exact toNat_level (by omega)

theorem descendReady_waits (hForce : s.lkp.inForce = true) : s.descendReady = { s with pwr := { s.pwr with descend := true } } :=
  EgressRings.unlessForced_inForce (s := { s with pwr := { s.pwr with descend := true } }) hForce _

theorem shedDescent_none (h : s.dev.shed.toNat = 0 ∨ s.dev.shed.toNat = 7 ∨ s.dev.shed.toNat ≤ s.demand ∨ s.pwr.descend = true ∨
    s.pwr.rising ≠ none) : exec .shedDescent s = .next s := by
  change execShedDescent s = _
  rw [execShedDescent]
  dsimp only
  rw [if_pos]
  have hRising : s.pwr.rising.isSome = true ↔ s.pwr.rising ≠ none := Option.isSome_iff_ne_none
  simp only [Bool.or_eq_true, decide_eq_true_eq, hRising]
  tauto

section
variable (hHeld : s.dev.held = false) (hStop : s.dev.shed.toNat ≠ 7) (hBelow : s.demand < s.dev.shed.toNat)
  (hIdle : s.pwr.descend = false) (hStill : s.pwr.rising = none)
include hHeld hStop hBelow hIdle hStill

theorem exec_shedDescent : exec .shedDescent s = .next (
    if s.dev.shed.toNat ≤ 6 ∧ s.pwr.commands ∧ (s.levelArith (s.dev.shed.toNat - 1)).toNat < s.pwr.vset.toNat then
      { s.setVdd (s.levelArith (s.dev.shed.toNat - 1)) with
        pwr := { (s.setVdd (s.levelArith (s.dev.shed.toNat - 1))).pwr with rising := some (s.levelArith (s.dev.shed.toNat - 1)) } }
    else s.descendReady) := by
  change execShedDescent s = _
  rw [execShedDescent]
  dsimp only
  rw [if_neg]
  simp only [hHeld, hIdle, hStill, Bool.or_eq_true, decide_eq_true_eq, Option.isSome_none]
  simp only [Bool.false_eq_true, or_false, false_or]
  omega

theorem shedDescent_raises (hCommands : s.pwr.commands = true) (hRise : (s.levelArith (s.dev.shed.toNat - 1)).toNat < s.pwr.vset.toNat) :
    Gives .shedDescent s fun t =>
      t.pwr = { s.pwr with vset := s.levelArith (s.dev.shed.toNat - 1), rising := some (s.levelArith (s.dev.shed.toNat - 1)) } ∧
      t.out = s.out ++ [.pmbus 0 0x21 (vddOf (s.levelArith (s.dev.shed.toNat - 1)))] ∧ Waits s t := by
  have hShed := s.dev.shed.isLt
  refine ⟨_, exec_shedDescent hHeld hStop hBelow hIdle hStill, ?_⟩
  have hNe : (s.levelArith (s.dev.shed.toNat - 1) != s.pwr.vset) = true := by
    refine bne_iff_ne.mpr fun h => ?_
    rw [h] at hRise
    omega
  rw [if_pos ⟨by omega, hCommands, hRise⟩, State.setVdd, if_pos (by rw [hCommands, hNe]; rfl)]
  exact ⟨rfl, rfl, ⟨rfl, rfl, rfl, rfl, rfl⟩, ⟨rfl, rfl, rfl⟩, rfl⟩

theorem shedDescent_falls (hServed : s.pwr.commands = false ∨ s.pwr.vset.toNat ≤ (s.levelArith (s.dev.shed.toNat - 1)).toNat) :
    (s.lkp.inForce = true → exec .shedDescent s = .next { s with pwr := { s.pwr with descend := true } }) ∧
    (s.lkp.inForce = false → Gives .shedDescent s fun t => t.dev.shed.toNat = s.dev.shed.toNat - 1) := by
  have hExec := exec_shedDescent hHeld hStop hBelow hIdle hStill
  rw [if_neg] at hExec
  · exact ⟨fun hForce => hExec.trans (congrArg _ (descendReady_waits hForce)), fun hFree => ⟨_, hExec, descendReady_falls hFree hBelow hStop⟩⟩
  · rintro ⟨-, hCommands, hRise⟩
    rcases hServed with h | h
    · rw [h] at hCommands
      exact Bool.false_ne_true hCommands
    · omega

end

/-! ### VDD_ARITH settles (17 R570) -/

theorem vddArithSettle_idle (on : Bool) (h : s.pwr.rising = none) : exec (.vddArithSettle on) s = .next s := by
  change execVddArithSettle on s = _
  rw [execVddArithSettle, h]

section
variable {c : BitVec 2} (hRising : s.pwr.rising = some c)
include hRising

theorem exec_settled : exec (.vddArithSettle true) s = .next (if c = s.levelArith s.dev.shed.toNat then
    ({ s with pwr := { s.pwr with rising := none } } : State).unlessForced State.arithSync else
      State.descendReady { s with pwr := { s.pwr with rising := none } }) := by
  change execVddArithSettle true s = _
  rw [execVddArithSettle, hRising]
  rfl

theorem settled_level (hLevel : c = s.levelArith s.dev.shed.toNat) : Gives (.vddArithSettle true) s fun t =>
    t.pwr = { s.pwr with rising := none } ∧
    t.dev = (if s.lkp.inForce = false ∧ c.toNat < s.dev.arithSet.toNat ∧ s.pwr.vset.toNat ≤ c.toNat then
      { s.dev with arithSet := c } else s.dev) ∧ UnitsKept s t := by
  refine ⟨_, exec_settled hRising, ?_⟩
  rw [if_pos hLevel]
  cases hForce : s.lkp.inForce with
  | true =>
    rw [EgressRings.unlessForced_inForce (s := { s with pwr := { s.pwr with rising := none } }) hForce, if_neg (by simp)]
    exact ⟨rfl, rfl, rfl, rfl, rfl, rfl, rfl⟩
  | false =>
    rw [EgressRings.unlessForced_idle (s := { s with pwr := { s.pwr with rising := none } }) hForce]
    have hSame : State.levelArith { s with pwr := { s.pwr with rising := none } } s.dev.shed.toNat = c := hLevel.symm
    unfold State.arithSync
    dsimp only
    rw [hSame]
    by_cases hUp : c.toNat < s.dev.arithSet.toNat ∧ s.pwr.vset.toNat ≤ c.toNat
    · rw [if_pos (by simp [hUp.1, hUp.2]), if_pos ⟨rfl, hUp⟩]
      exact ⟨rfl, rfl, rfl, rfl, rfl, rfl, rfl⟩
    · rw [if_neg (by simpa using hUp), if_neg fun h => hUp h.2]
      exact ⟨rfl, rfl, rfl, rfl, rfl, rfl, rfl⟩

theorem settled_below (hOther : c ≠ s.levelArith s.dev.shed.toNat) :
    (s.lkp.inForce = true → exec (.vddArithSettle true) s = .next { s with pwr := { s.pwr with rising := none, descend := true } }) ∧
    (s.lkp.inForce = false → s.demand < s.dev.shed.toNat → s.dev.shed.toNat ≠ 7 → Gives (.vddArithSettle true) s fun t =>
      t.dev.shed.toNat = s.dev.shed.toNat - 1) := by
  have hExec := exec_settled hRising
  rw [if_neg hOther] at hExec
  refine ⟨fun hForce => hExec.trans (congrArg _ ?_), fun hFree hBelow hStop => ⟨_, hExec, ?_⟩⟩
  · exact descendReady_waits (s := { s with pwr := { s.pwr with rising := none } }) hForce
  · exact descendReady_falls (s := { s with pwr := { s.pwr with rising := none } }) hFree hBelow hStop

theorem settle_fails : Gives (.vddArithSettle false) s fun t => t.pwr = { s.pwr with rising := none, vset := s.dev.arithSet } ∧
    Raised s t 0x0706 0xFFFF (srcOf s 0 0) ∧ t.dev = s.dev := by
  have hExec : exec (.vddArithSettle false) s = .next (
      let v := State.raise { s with pwr := { s.pwr with rising := none } } { code := 0x0706, addr := 0, d0 := s.pwr.rails[(0 : Fin 9)].status.toNat }
      { v with pwr := { v.pwr with vset := v.dev.arithSet } }) := by
    change execVddArithSettle false s = _
    rw [execVddArithSettle, hRising]
    rfl
  refine ⟨_, hExec, rfl, ?_, rfl⟩
  exact raised_after (v := { s with pwr := { s.pwr with rising := none } }) rfl rfl
    { code := 0x0706, addr := 0, d0 := s.pwr.rails[(0 : Fin 9)].status.toNat } rfl rfl rfl

end

/-! ### Reference clocks (17 R586) -/

theorem linkDown_pwr : s.linkDown.pwr = s.pwr ∧ s.linkDown.pci.up = false := by
  cases h : s.pci.up with
  | false =>
    rw [HostLink.linkDown_already h]
    exact ⟨rfl, h⟩
  | true =>
    rw [HostLink.linkDown_eq h, Semaphores.freeSems_eq]
    refine ⟨?_, ?_⟩
    · refine foldl_keeps (·.pwr) (Semaphores.freeSem 1 1) (fun t n => ?_) _ (HostLink.cut s)
      unfold Semaphores.freeSem
      split <;> rfl
    · rw [foldl_keeps (·.pci) (Semaphores.freeSem 1 1) (fun _ n => (HostLink.freeSem_port 1 1 n).1) _ (HostLink.cut s)]
      rfl

theorem hostLinkLost_gives : s.hostLinkLost.pwr = s.pwr ∧ s.hostLinkLost.pci.up = false ∧ s.hostLinkLost.pci.trained = false := by
  obtain ⟨hPwr, hUp⟩ := linkDown_pwr (s := s)
  exact ⟨hPwr, hUp, rfl⟩

/-- The clock input counts as lost. -/
def lostClk (s : State) (k : Fin 5) : State := (s.raise { code := 0x070A, addr := k }).setClk k true

theorem lostClk_clk (k : Fin 5) : (lostClk s k).pwr.clk = s.pwr.clk ||| BitVec.ofNat 5 (2 ^ k.val) := rfl

theorem lostClk_waits (k : Fin 5) : Waits s (lostClk s k) := (raise_waits _).trans (pwr_waits _)

theorem exec_clkLoss (hHeld : s.dev.held = false) {k : Fin 5} (hOn : s.pwr.clk.getLsbD k = false) : exec (.clkLoss k) s =
    .next (if k = 0 then (lostClk s k).hostLinkLost else (lostClk s k).portEdges s.portsUp).demandMoved := by
  change execClkLoss k s = _
  rw [execClkLoss, hHeld, hOn]
  rfl

theorem portsUp_congr (hShed : t.dev.shed = s.dev.shed) (hClk : t.pwr.clk.getLsbD 1 = s.pwr.clk.getLsbD 1) (hPcs : t.cpl.pcs = s.cpl.pcs)
    (hPorts : t.cpl.sect.ports = s.cpl.sect.ports) : t.portsUp = s.portsUp := by
  simp only [State.portsUp, hShed, hClk, hPcs, hPorts]

theorem portUp_lost (h : s.pwr.clk.getLsbD 1 = true) (p : Nat) : s.portUp p = false := by
  have hNone : s.portsUp = 0 := if_pos h
  rw [State.portUp, hNone]
  exact BitVec.getLsbD_zero

theorem getLsbD_lost (b : BitVec 5) (k j : Fin 5) : (b ||| BitVec.ofNat 5 (2 ^ k.val)).getLsbD j = (b.getLsbD j || decide (j = k)) := by
  revert j k b
  decide

theorem clkLoss_same {k : Fin 5} (h : s.pwr.clk.getLsbD k = true) : exec (.clkLoss k) s = .next s := by
  change execClkLoss k s = _
  rw [execClkLoss, h, if_pos (by simp)]

/-- What becomes of the ports and of the host link keeps the lost inputs. -/
theorem lost_pwr (k : Fin 5) : (if k = 0 then (lostClk s k).hostLinkLost else (lostClk s k).portEdges s.portsUp).pwr = (lostClk s k).pwr := by
  split
  · exact hostLinkLost_gives.1
  · exact ((powers_refl (s := lostClk s k)).portEdges s.portsUp).holds.pwr

theorem clkLoss_gives (hHeld : s.dev.held = false) {k : Fin 5} (hOn : s.pwr.clk.getLsbD k = false) : Gives (.clkLoss k) s fun t =>
    t.pwr.clk = s.pwr.clk ||| BitVec.ofNat 5 (2 ^ k.val) ∧ (k = 0 → t.pci.up = false ∧ t.pci.trained = false) ∧
      (k = 1 → ∀ p : Fin 8, t.portUp p = false) ∧ (k = 2 ∨ k = 3 → t.demand = 7) ∧
      (2 ≤ k.val → Acts s t ∧ (s.lkp.inForce = true → Raised s t 0x070A 0xFFFF (srcOf s 0 0))) := by
  have hClk : (if k = 0 then (lostClk s k).hostLinkLost else (lostClk s k).portEdges s.portsUp).demandMoved.pwr.clk =
      s.pwr.clk ||| BitVec.ofNat 5 (2 ^ k.val) := by
    rw [moved_pwr (f := Pwr.clk), lost_pwr, lostClk_clk]
  refine ⟨_, exec_clkLoss hHeld hOn, hClk, fun hHost => ?_, fun hLink p => ?_, fun hSys => ?_, fun hHigh => ?_⟩
  · rw [if_pos hHost]
    obtain ⟨-, hUp, hTrained⟩ := hostLinkLost_gives (s := lostClk s k)
    obtain ⟨-, -, kUp, kTrained⟩ := demandMoved_ladder (s := (lostClk s k).hostLinkLost)
    exact ⟨kUp.trans hUp, kTrained.trans hTrained⟩
  · refine portUp_lost ?_ p
    rw [hClk, hLink]
    exact (getLsbD_lost s.pwr.clk 1 1).trans (by simp)
  · refine le_antisymm (demand_le _) ?_
    have hSupply : 7 ≤ (if k = 0 then (lostClk s k).hostLinkLost else (lostClk s k).portEdges s.portsUp).pwr.supply := by
      refine supply_clocks ?_
      rw [lost_pwr, lostClk_clk]
      rcases hSys with rfl | rfl
      · exact .inl ((getLsbD_lost s.pwr.clk 2 2).trans (by simp))
      · exact .inr ((getLsbD_lost s.pwr.clk 3 3).trans (by simp))
    exact moved_demand_ge (.inr (le_antisymm (supply_le _) hSupply)) hSupply
  · have hNotLink : (1 : Fin 5) ≠ k := fun h => by
      rw [← h] at hHigh
      exact absurd hHigh (by decide)
    have hPorts : (lostClk s k).portsUp = s.portsUp := by
      refine portsUp_congr rfl ?_ rfl rfl
      rw [lostClk_clk]
      exact (getLsbD_lost s.pwr.clk k 1).trans (by simp [hNotLink])
    have hNotHost : k ≠ 0 := fun h => by
      rw [h] at hHigh
      exact absurd hHigh (by decide)
    rw [if_neg hNotHost, ← hPorts, BasinFrames.portEdges_same]
    exact ⟨moved_acts (lostClk_waits k), waits_event (lostClk_waits k) (raised_after (v := s) rfl rfl { code := 0x070A, addr := k } rfl rfl rfl)⟩

section
variable (hHeld : s.dev.held = false)
include hHeld

theorem exec_clkReturn (on : Bool) : exec (.clkReturn on) s = .next ((s.setClk (b2n on) false).portEdges s.portsUp) := by
  change execClkReturn on s = _
  rw [execClkReturn, hHeld]
  rfl

theorem clkReturn_same (on : Bool) (h : s.pwr.clk.getLsbD (if on then 1 else 0) = false) : exec (.clkReturn on) s = .next s := by
  have hClk : s.pwr.clk &&& ~~~BitVec.ofNat 5 (2 ^ b2n on) = s.pwr.clk := by
    revert h
    generalize s.pwr.clk = b
    revert b on
    decide
  have hSame : s.setClk (b2n on) false = s := by
    change ({ s with pwr := { s.pwr with clk := s.pwr.clk &&& ~~~BitVec.ofNat 5 (2 ^ b2n on) } } : State) = s
    rw [hClk]
  rw [exec_clkReturn hHeld, hSame, BasinFrames.portEdges_same]

theorem clkReturn_host : exec (.clkReturn false) s = .next { s with pwr := { s.pwr with clk := s.pwr.clk &&& ~~~1 } } := by
  rw [exec_clkReturn hHeld]
  have hPorts : (s.setClk (b2n false) false).portsUp = s.portsUp := by
    refine portsUp_congr rfl ?_ rfl rfl
    change (s.pwr.clk &&& ~~~BitVec.ofNat 5 (2 ^ 0)).getLsbD 1 = _
    generalize s.pwr.clk = b
    revert b
    decide
  rw [← hPorts, BasinFrames.portEdges_same]
  rfl

theorem clkReturn_link (hLost : s.pwr.clk.getLsbD 1 = true) : Gives (.clkReturn true) s fun t => t.pwr.clk = s.pwr.clk &&& ~~~2 ∧ Waits s t := by
  have hNone : ∀ q, s.portsUp.getLsbD q = true → (s.setClk (b2n true) false).portsUp.getLsbD q = true := fun q hq => by
    rw [← State.portUp, portUp_lost hLost] at hq
    cases hq
  obtain ⟨⟨r, m, f, hEq⟩, -⟩ := TransportFrames.portEdges_up hNone
  refine ⟨_, exec_clkReturn hHeld true, ?_⟩
  rw [hEq]
  exact ⟨rfl, ⟨rfl, rfl, rfl, rfl, rfl⟩, ⟨rfl, rfl, rfl⟩, rfl⟩

end

/-! ### PPS (17 R587, R594) -/

theorem pps_ignored (h : s.ppsDisciplines = false) : exec .ppsIn s = .next s ∧ exec .timPpsLost s = .next s := by
  refine ⟨?_, ?_⟩
  · change execPpsIn s = _
    rw [execPpsIn, h]
    rfl
  · change execTimPpsLost s = _
    rw [execTimPpsLost, h]
    rfl

theorem ppsIn_slews (h : s.ppsDisciplines = true) (hLow : -1000000 ≤ ppsOff s.time) (hHigh : ppsOff s.time ≤ 1000000) : Gives .ppsIn s fun t =>
    t.pwr.ppsOffset = BitVec.ofInt 32 (ppsOff s.time) ∧ t.pwr.ppsPresent = true ∧
      t.pwr.ppsGood = (if -100 ≤ ppsOff s.time ∧ ppsOff s.time ≤ 100 then min 4 (s.pwr.ppsGood + 1) else 0) ∧ t.cpl.slew = -ppsOff s.time ∧
      t.time = s.time ∧ UnitsKept s t := by
  have hExec : ∃ t, exec .ppsIn s = .next t ∧ t = (State.setClk { s with
      cpl := { s.cpl with slew := -ppsOff s.time }
      pwr := { s.pwr with
        ppsOffset := BitVec.ofInt 32 (ppsOff s.time), ppsPresent := true
        ppsGood := if decide (-100 ≤ ppsOff s.time) && decide (ppsOff s.time ≤ 100) then min 4 (s.pwr.ppsGood + 1) else 0 } } 4 false) := by
    refine ⟨_, ?_, rfl⟩
    change execPpsIn s = _
    rw [execPpsIn, h]
    dsimp only
    rw [if_neg (by decide), if_neg (by omega)]
  obtain ⟨t, hExec, rfl⟩ := hExec
  refine ⟨_, hExec, rfl, rfl, ?_, rfl, rfl, rfl, rfl, rfl, rfl, rfl⟩
  change (if decide (-100 ≤ ppsOff s.time) && decide (ppsOff s.time ≤ 100) then _ else _) = _
  rw [← Bool.decide_and]
  exact if_congr decide_eq_true_iff rfl rfl

theorem ppsIn_lost (h : s.ppsDisciplines = true) (hFar : ppsOff s.time < -1000000 ∨ 1000000 < ppsOff s.time) : Gives .ppsIn s fun t =>
    t.pwr = s.pwr ∧ Raised s t 0x070B 0xFFFF (srcOf s 0 0) := by
  have hExec : exec .ppsIn s = .next s.ppsLost := by
    change execPpsIn s = _
    rw [execPpsIn, h]
    dsimp only
    rw [if_neg (by decide), if_pos hFar]
  exact ⟨_, hExec, rfl, raised_after rfl rfl { code := 0x070B } rfl rfl rfl⟩

theorem timPpsLost_gives (h : s.ppsDisciplines = true) : Gives .timPpsLost s fun t => t.pwr = { s.pwr with ppsPresent := false } ∧ t.cpl.slew = 0 ∧
    Raised s t 0x070B 0xFFFF (srcOf s 0 0) := by
  have hExec : exec .timPpsLost s = .next (State.ppsLost { s with pwr := { s.pwr with ppsPresent := false }, cpl := { s.cpl with slew := 0 } }) := by
    change execTimPpsLost s = _
    rw [execTimPpsLost, h]
    rfl
  exact ⟨_, hExec, rfl, rfl, raised_after (v := { s with pwr := { s.pwr with ppsPresent := false }, cpl := { s.cpl with slew := 0 } }) rfl rfl
    { code := 0x070B } rfl rfl rfl⟩

/-! ### The shed floor (17 R590) -/

section
variable {p : Port} {f : BitVec 3} (hOpen : OpenPort s p) (hHolds : s.holds p 9 = true)
include hOpen hHolds

theorem exec_floorWrite : exec (.pwrFloorWrite p f) s = .next (s.floorWrite (f.setWidth 64)).1 := by
  change Host.Outcome.next (s.portWrite p 0x580018 (f.setWidth 64)) = _
  rw [EgressRings.portWrite_plain hOpen (by decide) (by decide) (by decide) _ rfl]
  exact congrArg _ (HostErrorRing.rwl_held hHolds fun s => s.floorWrite (f.setWidth 64))

omit hOpen hHolds in
theorem floorWrite_eq : (s.floorWrite (f.setWidth 64)).1 = if 6 ≤ f.toNat then s else State.demandMoved { s with pwr := { s.pwr with floor := f } } := by
  have hBits : bits (f.setWidth 64 : W64).toNat 0 3 = f.toNat := by
    revert f
    decide
  have hBack : (f.setWidth 64 : W64).setWidth 3 = f := by
    revert f
    decide
  unfold State.floorWrite
  rw [hBits, hBack]
  split <;> rfl

theorem floorWrite_high (h : 6 ≤ f.toNat) : exec (.pwrFloorWrite p f) s = .next s := by
  rw [exec_floorWrite hOpen hHolds, floorWrite_eq, if_pos h]

theorem exec_floorLow (h : f.toNat < 6) : exec (.pwrFloorWrite p f) s = .next (State.demandMoved { s with pwr := { s.pwr with floor := f } }) := by
  rw [exec_floorWrite hOpen hHolds, floorWrite_eq, if_neg (by omega)]

theorem floorWrite_gives (h : f.toNat < 6) : Gives (.pwrFloorWrite p f) s fun t => t.pwr.floor = f ∧ Acts s t :=
  ⟨_, exec_floorLow hOpen hHolds h, moved_pwr (f := Pwr.floor), moved_acts (pwr_waits _)⟩

theorem floorWrite_rises (h : f.toNat < 6) (hIdle : s.lkp.inForce = false)
    (hAbove : s.dev.shed.toNat < State.demand { s with pwr := { s.pwr with floor := f } }) : Gives (.pwrFloorWrite p f) s fun t =>
      t.dev.shed.toNat = State.demand { s with pwr := { s.pwr with floor := f } } :=
  ⟨_, exec_floorLow hOpen hHolds h, (demandMoved_acts (s := { s with pwr := { s.pwr with floor := f } }) hIdle).2 hAbove⟩

end

/-- Settles O58: telemetry, temperatures, pins, clocks, PPS and the floor change what they say and move the demands, which wait for lock
points while a schedule is in force and else act. -/
theorem powerAndClocks : Obligations.PowerAndClocks := by
  unfold Obligations.PowerAndClocks
  intro on k rail temps s hHeld
  refine ⟨fun h x => pmbusPoll_none h x, fun x h => ?_, pmbAlert_gives hHeld, tempSample_gives hHeld temps, pwrWarn_same, pwrWarn_gives hHeld,
    pwrCrit_same, pwrCrit_gives hHeld, pwrCritHold_released on, pwrCritHold_gives hHeld on, pwrDroop_gives hHeld rail,
    droopDemandEnd_gives hHeld, shedDescent_none, fun _ hStop hBelow hIdle hStill => ⟨?_, ?_⟩, vddArithSettle_idle on,
    fun c hRising => ⟨settled_level hRising, settled_below hRising, settle_fails hRising⟩, clkLoss_same, clkLoss_gives hHeld,
    clkReturn_same hHeld on, fun _ => clkReturn_host hHeld, clkReturn_link hHeld, pps_ignored, fun h => ⟨ppsIn_slews h, ppsIn_lost h,
    timPpsLost_gives h⟩, fun p f hOpen hHolds => ⟨floorWrite_high hOpen hHolds, floorWrite_gives hOpen hHolds, floorWrite_rises hOpen hHolds⟩⟩
  · obtain ⟨t, hExec, hActs, hTold, hOthers⟩ := pmbusPoll_gives hHeld x h
    exact ⟨t, hExec, hActs, fun r hr => (hTold r hr).1, fun r hr => (hTold r hr).2, hOthers⟩
  · exact shedDescent_raises hHeld hStop hBelow hIdle hStill
  · exact shedDescent_falls hHeld hStop hBelow hIdle hStill

end Sys2Proof.Machine.PowerPins

end PinRules

/-! PROOF. Maintenance state, attestation, random numbers and the test access port (15 R505, R524, R526, R527, R529, R532; 18 R598, R610). -/

section SecurityRules

-- One proof after the other, as in the rules of the canonical form.
set_option Elab.async false

namespace Sys2Proof.Machine.Security

open Laws

variable {s t u : State} {p : Port}

/-! ### SEC_MODE (15 R526, R527, R532) -/

theorem portWrite_secMode (hOpen : OpenPort s p) (v : W64) : s.portWrite p 0x480028 v = (s.secModeWrite p v).1 := by
  rw [portWrite_open s hOpen.on 0x480028 (by decide), State.regWrite]
  have hDefined : regDefined 0x480028 = true := by decide
  simp [hOpen.ready, hDefined]

/-- A port that may not write SEC_MODE: the host, or a session without MAINTENANCE authority. -/
def Powerless (s : State) (p : Port) : Prop := p = .host ∨ ∃ i x, p = .mgmt i ∧ s.mgt.sess[i] = some x ∧ x.maint = false

theorem secModeWrite_denied (h : Powerless s p) (v : W64) : (s.secModeWrite p v).1 = s.authDenied p := by
  rcases h with rfl | ⟨i, x, rfl, hSess, hMaint⟩
  · rfl
  · rw [State.secModeWrite]
    simp [hSess, hMaint]

theorem authDenied_gives : (s.authDenied p).sec = { s.sec with denied := stick32 s.sec.denied 1 } ∧
    Raised s (s.authDenied p) 0x0603 0xFFFF (srcOf s (kindOf p) 0) ∧ UnitsKept s (s.authDenied p) ∧ MemoryKept s (s.authDenied p) := by
  refine ⟨rfl, ?_, ⟨rfl, rfl, rfl, rfl, rfl⟩, rfl, rfl, rfl⟩
  rw [← SfuBanks.kind_of_port]
  exact raise_raised { s with sec := { s.sec with denied := stick32 s.sec.denied 1 } } { code := 0x0603, kind := portKind p }

theorem secMode_denied (hOpen : OpenPort s p) (h : Powerless s p) (on : Bool) : ∀ i ∈ [Instr.maintMode p on, .debugEnter p], Gives i s fun t =>
    t.sec = { s.sec with denied := stick32 s.sec.denied 1 } ∧ Raised s t 0x0603 0xFFFF (srcOf s (kindOf p) 0) ∧ UnitsKept s t ∧
      MemoryKept s t := by
  intro i hi
  have hExec : ∃ v, exec i s = .next (s.portWrite p 0x480028 v) := by
    simp only [List.mem_cons, List.not_mem_nil, or_false] at hi
    rcases hi with rfl | rfl
    · exact ⟨_, rfl⟩
    · exact ⟨_, rfl⟩
  obtain ⟨v, hExec⟩ := hExec
  rw [portWrite_secMode hOpen, secModeWrite_denied h] at hExec
  exact ⟨_, hExec, authDenied_gives⟩

section
variable {k : Fin 4} {x : Session} (hOpen : OpenPort s (.mgmt k)) (hSess : s.mgt.sess[k] = some x) (hMaint : x.maint = true)
include hOpen hSess hMaint

theorem portWrite_maintainer (v : W64) : s.portWrite (.mgmt k) 0x480028 v = s.secMode x.id v := by
  rw [portWrite_secMode hOpen, State.secModeWrite]
  simp only [hSess, hMaint, hOpen.free]
  rfl

theorem exec_maintMode (on : Bool) : exec (.maintMode (.mgmt k) on) s = .next (s.setMaint on x.id) := by
  change Host.Outcome.next (s.portWrite (.mgmt k) 0x480028 (BitVec.ofNat 64 (b2n on))) = _
  rw [portWrite_maintainer hOpen hSess hMaint]
  cases on with
  | false => rfl
  | true => rfl

theorem maintMode_same {on : Bool} (h : s.sec.maint = on) : exec (.maintMode (.mgmt k) on) s = .next s := by
  rw [exec_maintMode hOpen hSess hMaint, State.setMaint, if_pos h]

theorem maintMode_gives {on : Bool} (h : s.sec.maint ≠ on) : Gives (.maintMode (.mgmt k) on) s fun t => t.sec = { s.sec with maint := on } ∧
    Raised s t 0x0607 0xFFFF (srcOf s 0 0) ∧ UnitsKept s t ∧ MemoryKept s t := by
  refine ⟨_, exec_maintMode hOpen hSess hMaint on, ?_⟩
  rw [State.setMaint, if_neg h]
  refine ⟨rfl, ?_, ⟨rfl, rfl, rfl, rfl, rfl⟩, rfl, rfl, rfl⟩
  exact raise_raised { s with sec := { s.sec with maint := on } } { code := 0x0607, addr := x.id.toNat, d0 := b2n on }

/-- The word that enters debug state leaves maintenance state as it is. -/
theorem exec_debugEnter : exec (.debugEnter (.mgmt k)) s = .next (if s.sec.debug then s else s.debugEnter x.id) := by
  change Host.Outcome.next (s.portWrite (.mgmt k) 0x480028 (BitVec.ofNat 64 (2 + b2n s.sec.maint))) = _
  rw [portWrite_maintainer hOpen hSess hMaint, State.secMode]
  have hLow : bitAt (BitVec.ofNat 64 (2 + b2n s.sec.maint)).toNat 0 = s.sec.maint := by
    cases s.sec.maint <;> rfl
  have hHigh : bitAt (BitVec.ofNat 64 (2 + b2n s.sec.maint)).toNat 1 = true := by
    cases s.sec.maint <;> rfl
  have hSame : s.setMaint s.sec.maint x.id = s := if_pos rfl
  rw [hLow, hHigh, hSame, Bool.true_and]
  cases s.sec.debug <;> rfl

theorem debugEnter_again (hDebug : s.sec.debug = true) : exec (.debugEnter (.mgmt k)) s = .next s := by
  rw [exec_debugEnter hOpen hSess hMaint, if_pos hDebug]

theorem debugEnter_first (hDebug : s.sec.debug = false) : exec (.debugEnter (.mgmt k)) s = .next (s.debugEnter x.id) := by
  rw [exec_debugEnter hOpen hSess hMaint, if_neg (by rw [hDebug]; decide)]

end

/-! ### Attestation (15 R524, R533) -/

/-- The word that a port writes into SEC_ATT_CMD. -/
def attWord (buf : BitVec 34) (go : Bool) : W64 := BitVec.ofNat 64 (buf.toNat * 64 + b2n go)

theorem attWord_fields (buf : BitVec 34) (go : Bool) : bits (attWord buf go).toNat 6 34 = buf.toNat ∧ bitAt (attWord buf go).toNat 0 = go := by
  have hBuf := buf.isLt
  have hGo : b2n go < 2 := by cases go <;> decide
  have hWord : (attWord buf go).toNat = buf.toNat * 64 + b2n go := by
    rw [attWord, BitVec.toNat_ofNat]
    omega
  rw [hWord, bits, bitAt]
  refine ⟨by omega, ?_⟩
  have hLow : (buf.toNat * 64 + b2n go) / 2 ^ 0 % 2 = b2n go := by omega
  rw [hLow]
  cases go <;> rfl

/-- A request has named its buffer. -/
def bufNamed (s : State) (buf : BitVec 34) : State := { s with sec := { s.sec with attBuf := buf } }

theorem attCmd_eq (buf : BitVec 34) (go : Bool) : s.attCmd p (attWord buf go) =
    if !go then bufNamed s buf
    else if s.sec.att.isSome then s.raise { code := 0x0609, kind := portKind p }
    else if s.attStop ≠ 0 then (bufNamed s buf).attFail s.attStop
    else if !(bufNamed s buf).inDram (buf.toNat * 64) 328080 || decide (buf.toNat * 64 < 2 ^ 30) then
      ((bufNamed s buf).attFail 0x030D).raise { code := 0x030D, kind := portKind p, addr := buf.toNat * 64 }
    else { (bufNamed s buf).bump with sec := { (bufNamed s buf).bump.sec with
      att := some { buf := buf.toNat * 64, port := p, nonce := (bufNamed s buf).bump.read (buf.toNat * 64) 32, ctx :=
        BitVec.ofNat 32 ((bufNamed s buf).bump.readNat (buf.toNat * 64 + 32) 4) } } } := by
  obtain ⟨hBuf, hGo⟩ := attWord_fields buf go
  unfold State.attCmd
  rw [hBuf, hGo, BitVec.ofNat_toNat, BitVec.setWidth_eq]
  rfl

theorem keyTag_same (hDebug : t.sec.debug = s.sec.debug) (hCtx : t.ctx = s.ctx) (line : Nat) : t.keyTag line = s.keyTag line := by
  rw [State.keyTag, State.keyTag, hDebug, hCtx]

theorem keyOk_same (hDebug : t.sec.debug = s.sec.debug) (hCtx : t.ctx = s.ctx) (hDev : t.dev = s.dev) (hLines : t.lineKey = s.lineKey)
    (line : Nat) : t.keyOk line = s.keyOk line := by
  rw [State.keyOk, State.keyOk, dramEnd_congr hDev, keyTag_same hDebug hCtx, hLines]

theorem inDram_named (buf : BitVec 34) (a n : Nat) : (bufNamed s buf).inDram a n = s.inDram a n := by
  have hDev : (bufNamed s buf).dev = s.dev := rfl
  have hGone (d : Fin 4) : (bufNamed s buf).mdie[d].gone = s.mdie[d].gone := rfl
  exact Faults.inDram_congr hDev hGone a n

/-- What a read of memory gives depends neither on the request's buffer nor on how many accesses there were. -/
theorem read_bump (h : AllKeyed s) (buf : BitVec 34) (a n : Nat) : (bufNamed s buf).bump.read a n = s.read a n := by
  refine NmuAccess.read_congr (fun b => ?_) a n
  have hKey : (bufNamed s buf).bump.keyOk (b / 64) = s.keyOk (b / 64) := keyOk_same rfl rfl rfl rfl _
  rw [State.byte, State.byte, hKey, h (b / 64)]
  rfl

theorem readNat_bump (h : AllKeyed s) (buf : BitVec 34) (a n : Nat) : (bufNamed s buf).bump.readNat a n = s.readNat a n :=
  congrArg leNat (read_bump h buf a n)

section
variable (hOpen : OpenPort s p) (hHolds : s.holds p 7 = true)
include hOpen hHolds

theorem exec_attCmd (buf : BitVec 34) (go : Bool) : exec (.secAttCmd p buf go) s = .next (s.attCmd p (attWord buf go)) := by
  change Host.Outcome.next (s.portWrite p 0x480030 (attWord buf go)) = _
  rw [EgressRings.portWrite_plain hOpen (by decide) (by decide) (by decide) _ rfl]
  exact congrArg _ (HostErrorRing.rwl_held hHolds (keep fun s => s.attCmd p (attWord buf go)))

theorem attCmd_names (buf : BitVec 34) : exec (.secAttCmd p buf false) s = .next { s with sec := { s.sec with attBuf := buf } } := by
  rw [exec_attCmd hOpen hHolds, attCmd_eq]
  rfl

theorem attCmd_busy (buf : BitVec 34) (hAtt : s.sec.att ≠ none) : Gives (.secAttCmd p buf true) s fun t => t.sec = s.sec ∧
    Raised s t 0x0609 0xFFFF (srcOf s (kindOf p) 0) ∧ UnitsKept s t ∧ MemoryKept s t := by
  have hSome : s.sec.att.isSome = true := Option.isSome_iff_ne_none.mpr hAtt
  refine ⟨_, exec_attCmd hOpen hHolds buf true, ?_⟩
  rw [attCmd_eq, if_neg (by decide), if_pos hSome, ← SfuBanks.kind_of_port]
  exact ⟨rfl, raise_raised s { code := 0x0609, kind := portKind p }, ⟨rfl, rfl, rfl, rfl, rfl⟩, rfl, rfl, rfl⟩

theorem attCmd_stops (buf : BitVec 34) (hAtt : s.sec.att = none) (h : s.sec.idOk = false ∨ s.sec.rngOk = false) :
    exec (.secAttCmd p buf true) s = .next { s with sec := { s.sec with
      attBuf := buf, attErr := true, attCode := if s.sec.idOk then 0x0602 else 0x0601 } } := by
  have hStop : s.attStop = if s.sec.idOk then 0x0602 else 0x0601 := by
    unfold State.attStop
    rcases h with h | h
    · rw [h]
      rfl
    · rw [h]
      cases s.sec.idOk <;> rfl
  have hSome : s.attStop ≠ 0 := by
    rw [hStop]
    split <;> decide
  rw [exec_attCmd hOpen hHolds, attCmd_eq, if_neg (by decide), hAtt, if_neg (by decide), if_pos hSome, hStop]
  refine congrArg (fun x : Sec => Host.Outcome.next { s with sec := x }) ?_
  rw [← hAtt]
  cases s.sec.idOk <;> rfl

section
variable (buf : BitVec 34) (hAtt : s.sec.att = none) (hId : s.sec.idOk = true) (hRng : s.sec.rngOk = true)
include hAtt hId hRng

omit hOpen hHolds in
theorem attCmd_form : s.attCmd p (attWord buf true) =
    if !s.inDram (buf.toNat * 64) 328080 || decide (buf.toNat * 64 < 2 ^ 30) then
      ((bufNamed s buf).attFail 0x030D).raise { code := 0x030D, kind := portKind p, addr := buf.toNat * 64 }
    else { (bufNamed s buf).bump with sec := { (bufNamed s buf).bump.sec with
      att := some { buf := buf.toNat * 64, port := p, nonce := (bufNamed s buf).bump.read (buf.toNat * 64) 32, ctx :=
        BitVec.ofNat 32 ((bufNamed s buf).bump.readNat (buf.toNat * 64 + 32) 4) } } } := by
  have hStop : ¬ s.attStop ≠ 0 := by
    rw [State.attStop, hId, hRng]
    decide
  rw [attCmd_eq, if_neg (by decide), hAtt, if_neg (by decide), if_neg hStop, inDram_named]

theorem attCmd_begins (hKeyed : AllKeyed s) (hIn : s.inDram (buf.toNat * 64) 328080 = true) (hHigh : 2 ^ 30 ≤ buf.toNat * 64) :
    Gives (.secAttCmd p buf true) s fun t => t.sec = { s.sec with
      attBuf := buf
      att := some { buf := buf.toNat * 64, port := p, nonce := s.read (buf.toNat * 64) 32, ctx := BitVec.ofNat 32 (s.readNat (buf.toNat * 64 + 32) 4) } } ∧
      UnitsKept s t := by
  refine ⟨_, exec_attCmd hOpen hHolds buf true, ?_⟩
  rw [attCmd_form buf hAtt hId hRng, hIn, if_neg (by simpa using hHigh), read_bump hKeyed, readNat_bump hKeyed]
  exact ⟨rfl, rfl, rfl, rfl, rfl, rfl⟩

theorem attCmd_outside (h : s.inDram (buf.toNat * 64) 328080 = false ∨ buf.toNat * 64 < 2 ^ 30) : Gives (.secAttCmd p buf true) s fun t =>
    t.sec.att = none ∧ t.sec.attErr = true ∧ t.sec.attCode = 0x030D ∧ Raised s t 0x030D 0xFFFF (srcOf s (kindOf p) 0) := by
  refine ⟨_, exec_attCmd hOpen hHolds buf true, ?_⟩
  rw [attCmd_form buf hAtt hId hRng, if_pos (by
    rcases h with h | h
    · simp [h]
    · rw [decide_eq_true h, Bool.or_true]), ← SfuBanks.kind_of_port]
  exact ⟨rfl, rfl, rfl, raise_raised ((bufNamed s buf).attFail 0x030D) { code := 0x030D, kind := portKind p, addr := buf.toNat * 64 }⟩

end

end

/-- A report stands in its buffer. -/
def reported (s : State) (len : Nat) : State :=
  { s with sec := { s.sec with att := none, attErr := false, attCode := 0, attLen := BitVec.ofNat 32 len } }

theorem reported_byte (len b : Nat) : (reported s len).byte b = s.byte b := by
  rw [State.byte, State.byte, keyOk_same (s := s) (t := reported s len) rfl rfl rfl rfl]
  rfl

theorem draw_keyOk (line : Nat) : s.draw.keyOk line = s.keyOk line := keyOk_same rfl rfl rfl rfl line

theorem draw_byte (b : Nat) : s.draw.byte b = s.byte b := by
  rw [State.byte, State.byte, draw_keyOk]
  rfl

theorem attReportDone_gives {q : AttReq} (h : s.sec.att = some q) (hId : s.sec.idOk = true) (hRng : s.sec.rngOk = true) : Gives .attReportDone s fun t =>
    BytesAre t q.buf (s.report q.nonce q.ctx) ∧ BytesKept s t [(q.buf, (s.report q.nonce q.ctx).length)] ∧ t.sec = { s.sec with
      att := none, attErr := false, attCode := 0, attLen := BitVec.ofNat 32 (s.report q.nonce q.ctx).length, draws := s.sec.draws + 1 } ∧
      t.reach = s.reach ∧ t.nmu = s.nmu := by
  have hStop : ¬ s.attStop ≠ 0 := by
    rw [State.attStop, hId, hRng]
    decide
  have hExec : exec .attReportDone s = .next (reported (s.draw.write q.buf (s.report q.nonce q.ctx)) (s.report q.nonce q.ctx).length) := by
    change execAttReportDone s = _
    rw [execAttReportDone, h]
    dsimp only
    rw [if_neg hStop]
    rfl
  generalize s.report q.nonce q.ctx = r at hExec ⊢
  refine ⟨_, hExec, ?_, ?_, ?_, write_reach _ _ _ _, write_nmu _ _ _ _⟩
  · intro i hi
    rw [reported_byte]
    exact write_bytesAre _ _ _ _ i hi
  · intro b hKey hApart
    rw [reported_byte, write_bytesKept (s := s.draw) q.buf r false b ((draw_keyOk _).trans hKey) hApart, draw_byte]
  · rw [reported, write_sec]
    rfl

/-! ### Random numbers (15 R505) -/

theorem secRngFail_gives (hHeld : s.dev.held = false) (hRng : s.sec.rngOk = true) : Gives .secRngFail s fun t =>
    t.sec = { s.sec with rngOk := false } ∧ Raised s t 0x0602 0xFFFF (srcOf s 0 0) := by
  have hExec : exec .secRngFail s = .next (State.raise { s with sec := { s.sec with rngOk := false } } { code := 0x0602 }) := by
    change execSecRngFail s = _
    rw [execSecRngFail, hHeld, hRng]
    rfl
  exact ⟨_, hExec, rfl, raise_raised { s with sec := { s.sec with rngOk := false } } { code := 0x0602 }⟩

/-! ### The test access port (15 R529; 18 R598, R610) -/

theorem tap_reset (i : TapIr) (h : s.tap.reset = true) : exec (.tapInstruction i) s = .next s := by
  change execTapInstruction i s = _
  rw [execTapInstruction, if_pos h]

section
variable (hRun : s.tap.reset = false)
include hRun

theorem tap_idcode : exec (.tapInstruction .idcode) s = .next { s with tap := { s.tap with ir := .idcode }, out := s.out ++ [.tdo 32 0x1FD0256F] } := by
  change execTapInstruction .idcode s = _
  rw [execTapInstruction, hRun]
  rfl

theorem tap_bypass (i : TapIr) (h : s.tapActs i = .bypass) :
    exec (.tapInstruction i) s = .next { s with tap := { s.tap with ir := .bypass }, out := s.out ++ [.tdo 1 0] } := by
  change execTapInstruction i s = _
  rw [execTapInstruction, hRun, h]
  rfl

theorem tap_boundary (hLow : s.dev.rstLow = true) : ∀ i ∈ [TapIr.sample, .extest],
    exec (.tapInstruction i) s = .next { s with tap := { s.tap with ir := i } } := by
  intro i hi
  have hActs : s.tapActs i = i ∧ (i = .sample ∨ i = .extest) := by
    simp only [List.mem_cons, List.not_mem_nil, or_false] at hi
    rcases hi with rfl | rfl
    · exact ⟨if_pos hLow, .inl rfl⟩
    · exact ⟨if_pos hLow, .inr rfl⟩
  obtain ⟨hActs, hSome⟩ := hActs
  change execTapInstruction i s = _
  rw [execTapInstruction, hRun, hActs]
  rcases hSome with rfl | rfl
  · rfl
  · rfl

theorem tap_private (hDebug : s.sec.debug = true) : exec (.tapInstruction .priv) s = .refused .privateInstruction := by
  have hActs : s.tapActs .priv = .priv := if_pos hDebug
  change execTapInstruction .priv s = _
  rw [execTapInstruction, hRun, hActs]
  rfl

end

/-- Instructions that act as BYPASS. -/
theorem tapActs_bypass (i : TapIr) (h : i ∈ [TapIr.bypass, .other] ∨ (i ∈ [TapIr.sample, .extest] ∧ s.dev.rstLow = false) ∨
    (i = .priv ∧ s.sec.debug = false)) : s.tapActs i = .bypass := by
  simp only [List.mem_cons, List.not_mem_nil, or_false] at h
  rcases h with (rfl | rfl) | ⟨rfl | rfl, hHigh⟩ | ⟨rfl, hDebug⟩
  · rfl
  · rfl
  · rw [State.tapActs, hHigh]
    rfl
  · rw [State.tapActs, hHigh]
    rfl
  · rw [State.tapActs, hDebug]
    rfl

end Sys2Proof.Machine.Security

end SecurityRules

/-! PROOF. Entry into debug state (15 R528): what is cleared, what ends, and what the end of the schedule leaves alone. -/

section DebugRules

-- One proof after the other, as in the rules of the canonical form.
set_option Elab.async false

namespace Sys2Proof.Machine.DebugEntry

open Laws UnitWork

variable {s t u : State}

/-! ### Steps, sessions and links end -/

/-- Contexts, the masters and the generator are as they were; and so are power and the level, where no change waits for a cycle start. -/
structure Enters (s t : State) : Prop where
  ctx     : t.ctx = s.ctx := by rfl
  masters : t.sec.masters = s.sec.masters := by rfl
  rngOk   : t.sec.rngOk = s.sec.rngOk := by rfl
  level   : s.prf.atCycle = none → t.pwr = s.pwr ∧ t.dev.shed = s.dev.shed ∧ t.prf.ready = s.prf.ready ∧ t.prf.atCycle = none :=
    by exact fun h => ⟨rfl, rfl, rfl, h⟩

theorem Enters.trans (h : Enters s t) (k : Enters t u) : Enters s u := by
  refine ⟨k.ctx.trans h.ctx, k.masters.trans h.masters, k.rngOk.trans h.rngOk, fun hNone => ?_⟩
  obtain ⟨hPwr, hShed, hReady, hCycle⟩ := h.level hNone
  obtain ⟨kPwr, kShed, kReady, kCycle⟩ := k.level hCycle
  exact ⟨kPwr.trans hPwr, kShed.trans hShed, kReady.trans hReady, kCycle⟩

/-- So are they, and the sessions. -/
def Within (s t : State) : Prop := Enters s t ∧ t.mgt.sess = s.mgt.sess

theorem Within.trans (h : Within s t) (k : Within t u) : Within s u := ⟨h.1.trans k.1, k.2.trans h.2⟩

theorem keepRecord_sess (m : Mgt) (r : ErrRec) : (keepRecord m r).sess = m.sess := by
  unfold keepRecord
  split <;> rfl

theorem raise_within (e : Ev) : Within s (s.raise e) := ⟨{}, keepRecord_sess _ _⟩

theorem within_stable (s : State) : Stable (Within s) where
  keep h k := by
    refine h.trans ⟨⟨k.ctx, congrArg Sec.masters k.sec, congrArg Sec.rngOk k.sec, fun hNone => ?_⟩, congrArg Mgt.sess k.mgt⟩
    rw [k.pwr, k.dev, k.prf]
    exact ⟨rfl, rfl, rfl, hNone⟩
  raise t _ _ h := h.trans ⟨{}, keepRecord_sess _ _⟩
  tail _ _ h := h.trans ⟨{}, rfl⟩

theorem within_refl : Under (Within s) s := ⟨within_stable s, {}, rfl⟩

theorem Within.foldl {α : Type} {f : State → α → State} (h : ∀ t x, Within t (f t x)) (l : List α) : ∀ s : State, Within s (l.foldl f s) := by
  induction l with
  | nil => exact fun _ => ⟨{}, rfl⟩
  | cons x l ih => exact fun s => (h s x).trans (ih _)

theorem freeSems_within (o : BitVec 2) (cause : Nat) : Within s (s.freeSems o cause) := by
  rw [Semaphores.freeSems_eq]
  refine Within.foldl (fun t n => ?_) _ s
  unfold Semaphores.freeSem
  split
  · exact ⟨{}, keepRecord_sess _ _⟩
  · exact ⟨{}, rfl⟩

theorem setMaint_within (m : Bool) (session : W64) : Within s (s.setMaint m session) := by
  unfold State.setMaint
  split
  · exact ⟨{}, rfl⟩
  · exact ⟨{}, keepRecord_sess _ _⟩

theorem endSession_ends (k : Fin 4) : Enters s (s.endSession k) ∧
    ∀ j : Fin 4, (s.endSession k).mgt.sess[j] = if j = k then none else s.mgt.sess[j] := by
  cases hSess : s.mgt.sess[k] with
  | none =>
    have hSame : s.endSession k = s := by
      rw [State.endSession, hSess]
    rw [hSame]
    refine ⟨{}, fun j => ?_⟩
    split
    next h => rw [h, hSess]
    next => rfl
  | some x =>
    have hClosed : Enters s (Sessions.closed s k) := {}
    have hFree : Within (Sessions.closed s k) (Sessions.released (Sessions.closed s k)) := by
      unfold Sessions.released
      split
      · exact freeSems_within 2 2
      · exact ⟨{}, rfl⟩
    have hEnd : Within (Sessions.closed s k) (s.endSession k) := by
      rw [Sessions.endSession_eq hSess]
      split
      · exact hFree
      · exact hFree.trans (setMaint_within _ _)
    refine ⟨hClosed.trans hEnd.1, fun j => ?_⟩
    rw [hEnd.2, Sessions.closed_sess]

theorem endSessions_end (l : List (Fin 4)) : ∀ s : State, Enters s (l.foldl (fun (s : State) i => s.endSession i) s) ∧
    ∀ j : Fin 4, j ∈ l ∨ s.mgt.sess[j] = none → (l.foldl (fun (s : State) i => s.endSession i) s).mgt.sess[j] = none := by
  induction l with
  | nil => exact fun s => ⟨{}, fun j h => h.resolve_left List.not_mem_nil⟩
  | cons k l ih =>
    intro s
    obtain ⟨hFirst, hSess⟩ := endSession_ends (s := s) k
    obtain ⟨hRest, hNone⟩ := ih (s.endSession k)
    refine ⟨hFirst.trans hRest, fun j hj => hNone j ?_⟩
    rw [hSess]
    by_cases hSame : j = k
    · exact .inr (if_pos hSame)
    · rw [if_neg hSame]
      rcases hj with hj | hj
      · exact .inl ((List.mem_cons.mp hj).resolve_left hSame)
      · exact .inr hj

theorem dropLinks_within : Within s s.dropLinks := by
  have hReads : Under (Within s) (s.cpl.reads.foldl (fun (s : State) r => s.endRead r 0x0505) s) :=
    within_refl.foldl fun _ _ h => WideWork.under_endRead (fun _ k => k.trans ⟨{}, rfl⟩) h _ _
  exact hReads.holds.trans ⟨{}, rfl⟩

theorem dropLinks_node : s.dropLinks.cpl.node = s.cpl.node := by
  have hReads : Under (FailedFlows.Aloof s) (s.cpl.reads.foldl (fun (s : State) r => s.endRead r 0x0505) s) :=
    FailedFlows.aloof_refl.foldl fun _ _ h => FailedFlows.aloof_endRead h _ _
  obtain ⟨-, f, r, hCpl⟩ := hReads
  have hNode := congrArg Cpl.node hCpl
  exact hNode

theorem chgClear_within (hSome : s.prf.atCycle.isSome = true) : Within s s.chgClear := by
  have hLevel : s.prf.atCycle ≠ none := Option.isSome_iff_ne_none.mp hSome
  unfold State.chgClear
  dsimp only
  split
  · exact ⟨{ level := fun h => absurd h hLevel }, rfl⟩
  · exact ⟨{ level := fun h => absurd h hLevel }, rfl⟩

theorem leave_leaves (cause : Nat) : Within s (s.leave cause) ∧ (s.leave cause).cpl.flows = [] := by
  unfold State.leave
  extract_lets v1 v2 v3
  have h1 : Within s v1 := (within_refl.endSteps _ _).holds.trans dropLinks_within
  have h2 : Within s v2 ∧ v2.cpl.flows = [] := by
    change Within s (if _ then _ else _) ∧ Cpl.flows (State.cpl (if _ then _ else _)) = _
    split
    · next hSome => 
      refine ⟨h1.trans (chgClear_within hSome), ?_⟩
      unfold State.chgClear
      dsimp only
      split <;> rfl
    · exact ⟨h1, rfl⟩
  exact ⟨h2.1.trans ⟨{}, keepRecord_sess _ _⟩, h2.2⟩

/-- The state once steps and sessions have ended. -/
def silenced (s : State) : State := (List.finRange 4).foldl (fun (s : State) (i : Fin 4) => s.endSession i) (s.haltSteps .aborted)

theorem silenced_gives : Enters s (silenced s) ∧ ∀ i : Fin 4, (silenced s).mgt.sess[i] = none := by
  have hHalt : Enters s (s.haltSteps .aborted) := (within_refl.haltSteps _).holds.1
  obtain ⟨hEnd, hNone⟩ := endSessions_end (List.finRange 4) (s.haltSteps .aborted)
  unfold silenced
  exact ⟨hHalt.trans hEnd, fun i => hNone i (.inl (List.mem_finRange i))⟩

/-- The state once the device has left its basin, or its links have ended. -/
def alone (s : State) : State :=
  if s.cpl.node ≠ 0x7FFF then (s.leave (Config.leftCause 3)).modCpl fun c => { c with mstate := .none, master := false, owed := [] }
  else s.dropLinks

theorem alone_gives : Within s (alone s) ∧ (alone s).cpl.node = 0x7FFF ∧ (alone s).cpl.flows = [] := by
  unfold alone
  split
  · obtain ⟨hLeave, hFlows⟩ := leave_leaves (s := s) (Config.leftCause 3)
    obtain ⟨-, hGone, -⟩ := BasinTime.leave_gives (s := s) (Config.leftCause 3)
    generalize s.leave (Config.leftCause 3) = x at hLeave hFlows hGone ⊢
    exact ⟨hLeave.trans ⟨{}, rfl⟩, hGone, hFlows⟩
  · next hNode =>
    exact ⟨dropLinks_within, dropLinks_node.trans (not_not.mp hNode), rfl⟩

/-! ### The die is cleared (15 R528) -/

/-- No unit runs, and no update is owed to a slot. -/
structure Rest (s : State) : Prop where
  reach : ∀ n : Fin 16, s.reach[n].u.executing = false ∧ s.reach[n].pend = []
  nmu   : ∀ d : Fin 4, s.nmu[d].u.executing = false

theorem modReach_each {P : Reach → Prop} {n m : Fin 16} {f : Reach → Reach} (hf : m = n → P (f s.reach[m])) (h : m ≠ n → P s.reach[m]) :
    P (s.modReach n f).reach[m] := by
  by_cases hSame : m = n
  · have hAt := hf hSame
    rw [hSame, modReach_same, ← hSame]
    exact hAt
  · rw [modReach_ne s hSame]
    exact h hSame

theorem modNmu_each {P : Nmu → Prop} {n m : Fin 4} {f : Nmu → Nmu} (hf : m = n → P (f s.nmu[m])) (h : m ≠ n → P s.nmu[m]) :
    P (s.modNmu n f).nmu[m] := by
  by_cases hSame : m = n
  · have hAt := hf hSame
    rw [hSame, modNmu_same, ← hSame]
    exact hAt
  · rw [modNmu_ne s hSame]
    exact h hSame

/-- A change that brings every reach into a form. -/
theorem foldl_reaches {P : Reach → Prop} {f : Reach → Reach} (hf : ∀ x, P (f x)) (l : List (Fin 16)) : ∀ s : State,
    ∀ n, n ∈ l ∨ P s.reach[n] → P (l.foldl (fun (s : State) (n : Fin 16) => s.modReach n f) s).reach[n] := by
  induction l with
  | nil => exact fun s n h => h.resolve_left List.not_mem_nil
  | cons m l ih =>
    intro s n hn
    refine ih _ n ?_
    by_cases hIn : n ∈ l
    · exact .inl hIn
    · refine .inr (modReach_each (fun _ => hf _) fun hOther => hn.resolve_left fun h => ?_)
      rcases List.mem_cons.mp h with h | h
      · exact hOther h
      · exact hIn h

theorem foldl_nmus {P : Nmu → Prop} {f : Nmu → Nmu} (hf : ∀ x, P (f x)) (l : List (Fin 4)) : ∀ s : State,
    ∀ n, n ∈ l ∨ P s.nmu[n] → P (l.foldl (fun (s : State) (n : Fin 4) => s.modNmu n f) s).nmu[n] := by
  induction l with
  | nil => exact fun s n h => h.resolve_left List.not_mem_nil
  | cons m l ih =>
    intro s n hn
    refine ih _ n ?_
    by_cases hIn : n ∈ l
    · exact .inl hIn
    · refine .inr (modNmu_each (fun _ => hf _) fun hOther => hn.resolve_left fun h => ?_)
      rcases List.mem_cons.mp h with h | h
      · exact hOther h
      · exact hIn h

/-- Changes of every reach and then of every NMU bring the device to rest. -/
theorem rest_of_folds {f : Reach → Reach} {g : Nmu → Nmu} (hf : ∀ x, (f x).u.executing = false ∧ (f x).pend = [])
    (hg : ∀ x, (g x).u.executing = false) : Rest ((List.finRange 4).foldl (fun (s : State) (d : Fin 4) => s.modNmu d g)
      ((List.finRange 16).foldl (fun (s : State) (n : Fin 16) => s.modReach n f) s)) := by
  refine ⟨fun n => ?_, fun d => foldl_nmus (P := fun x : Nmu => x.u.executing = false) hg _ _ d (.inl (List.mem_finRange d))⟩
  rw [foldl_keeps (·.reach) (fun (s : State) (d : Fin 4) => s.modNmu d g) (fun _ _ => rfl)]
  exact foldl_reaches (P := fun x => x.u.executing = false ∧ x.pend = []) hf _ _ n (.inl (List.mem_finRange n))

/-- Of what the rest of the device keeps, changes of reaches and NMUs change nothing. -/
theorem foldl_units {α : Type} (P : State → α) (hReach : ∀ s n f, P (State.modReach s n f) = P s) (hNmu : ∀ s n f, P (State.modNmu s n f) = P s)
    (f : Reach → Reach) (g : Nmu → Nmu) : P ((List.finRange 4).foldl (fun (s : State) (d : Fin 4) => s.modNmu d g)
      ((List.finRange 16).foldl (fun (s : State) (n : Fin 16) => s.modReach n f) s)) = P s :=
  (foldl_keeps P _ (fun t d => hNmu t d g) _ _).trans (foldl_keeps P _ (fun t n => hReach t n f) _ _)

/-- On-die memory is gone from memory, and staging is empty. -/
def undied (s : State) : State :=
  { s with
    mem := s.mem.filter fun c => decide (c.1 < 0xF000000000)
    poison := s.poison.filter fun l => decide (64 * l < 0xF000000000)
    mdie := s.mdie.map fun m => { m with cache := [] }
    lkp := { s.lkp with held := [] } }

/-- How a reach and an NMU are cleared. -/
def bareReach (x : Reach) : Reach := { x.clearWork with u := {}, barges := Vector.replicate 16 {}, dups := [], taper := {} }

def bareNmu (x : Nmu) : Nmu := { x with u := {}, wins := [], areas := [], poisonW := false }

theorem clearDie_eq : s.clearDie = (List.finRange 4).foldl (fun (s : State) (d : Fin 4) => s.modNmu d bareNmu)
    ((List.finRange 16).foldl (fun (s : State) (n : Fin 16) => s.modReach n bareReach) (undied s)) := rfl

theorem clearDie_rest : Rest s.clearDie := by
  rw [clearDie_eq]
  exact rest_of_folds (fun _ => ⟨rfl, rfl⟩) fun _ => rfl

theorem clearDie_keeps {α : Type} (P : State → α) (hReach : ∀ s n f, P (State.modReach s n f) = P s := by intros; rfl)
    (hNmu : ∀ s n f, P (State.modNmu s n f) = P s := by intros; rfl) : P s.clearDie = P (undied s) := by
  rw [clearDie_eq]
  exact foldl_units P hReach hNmu _ _

/-! ### What follows the end of the schedule -/

/-- Security, the coupling block, the collector's records, power, the level and the ready point are as they were, and no unit has begun to run. -/
structure Settles (s t : State) : Prop where
  sec   : t.sec = s.sec := by rfl
  cpl   : t.cpl = s.cpl := by rfl
  mgt   : t.mgt = s.mgt := by rfl
  pwr   : t.pwr = s.pwr := by rfl
  shed  : t.dev.shed = s.dev.shed := by rfl
  ready : t.prf.ready = s.prf.ready := by rfl
  held  : t.lkp.held = s.lkp.held := by rfl
  rest  : Rest s → Rest t := by exact fun h => ⟨h.reach, h.nmu⟩

theorem Settles.trans (h : Settles s t) (k : Settles t u) : Settles s u :=
  ⟨k.sec.trans h.sec, k.cpl.trans h.cpl, k.mgt.trans h.mgt, k.pwr.trans h.pwr, k.shed.trans h.shed, k.ready.trans h.ready, k.held.trans h.held,
    fun hRest => k.rest (h.rest hRest)⟩

theorem Settles.foldl {α : Type} {f : State → α → State} (h : ∀ t x, Settles t (f t x)) (l : List α) : ∀ s : State, Settles s (l.foldl f s) := by
  induction l with
  | nil => exact fun _ => {}
  | cons x l ih => exact fun s => (h s x).trans (ih _)

/-- The schedule and the jobs, and memory, are as they were too. -/
structure Stays (s t : State) : Prop where
  settles : Settles s t
  force   : t.lkp.inForce = s.lkp.inForce := by rfl
  jobs    : t.lkp.jobs = s.lkp.jobs := by rfl

theorem Stays.trans (h : Stays s t) (k : Stays t u) : Stays s u :=
  ⟨h.settles.trans k.settles, k.force.trans h.force, k.jobs.trans h.jobs⟩

theorem Stays.foldl {α : Type} {f : State → α → State} (h : ∀ t x, Stays t (f t x)) (l : List α) : ∀ s : State, Stays s (l.foldl f s) := by
  induction l with
  | nil => exact fun _ => ⟨{}, rfl, rfl⟩
  | cons x l ih => exact fun s => (h s x).trans (ih _)

/-! ### Contexts (10 R325) -/

/-- A write of fewer bytes than a line has raises no event. -/
theorem writeLine_small {a : Nat} {bs : List Byte} {poison : Bool} (h : bs.length < 64) :
    (s.writeLine a bs poison).mgt = s.mgt ∧ (s.writeLine a bs poison).cpl = s.cpl := by
  have hPart : decide (bs.length = 64) = false := decide_eq_false (Nat.ne_of_lt h)
  constructor
  · simp only [State.writeLine, hPart, Bool.false_eq_true, if_false, settleLine_mgt]
  · simp only [State.writeLine, hPart, Bool.false_eq_true, if_false, settleLine_cpl]

theorem writeGo_small {poison : Bool} (fuel : Nat) : ∀ (s : State) (a : Nat) (bs : List Byte), bs.length < 64 →
    (s.writeGo a bs poison fuel).mgt = s.mgt ∧ (s.writeGo a bs poison fuel).cpl = s.cpl := by
  induction fuel with
  | zero => exact fun _ _ _ _ => ⟨rfl, rfl⟩
  | succ f ih =>
    intro s a bs h
    unfold State.writeGo
    split
    · exact ⟨rfl, rfl⟩
    · obtain ⟨hMgt, hCpl⟩ := writeLine_small (s := s) (a := a) (bs := bs.take (64 - a % 64)) (poison := poison)
        (by rw [List.length_take]; omega)
      obtain ⟨kMgt, kCpl⟩ := ih (s.writeLine a (bs.take (64 - a % 64)) poison) (a + (64 - a % 64)) (bs.drop (64 - a % 64))
        (by rw [List.length_drop]; omega)
      exact ⟨kMgt.trans hMgt, kCpl.trans hCpl⟩

end Sys2Proof.Machine.DebugEntry

end DebugRules

/-! PROOF. Entry into debug state (15 R528; 10 R624): the end of the schedule, and what waited for it. -/

section ScheduleEndRules

-- One proof after the other, as in the rules of the canonical form.
set_option Elab.async false

namespace Sys2Proof.Machine.ScheduleEnd

open Laws UnitWork DebugEntry Contexts

variable {s t u : State}

/-! ### Contexts (10 R321, R325) -/

theorem ctxResult_stays (blk status : Nat) (gen : W32) : Stays s (s.ctxResult blk status gen) := by
  have hSmall : (leBytes 8 (2 ^ 63 + status * 2 ^ 56 + gen.toNat)).length < 64 := by
    rw [length_leBytes]
    decide
  obtain ⟨hMgt, hCpl⟩ := writeGo_small (poison := false) _ s (blk + 120) _ hSmall
  have hReach : (s.ctxResult blk status gen).reach = s.reach := write_reach _ _ _ _
  have hNmu : (s.ctxResult blk status gen).nmu = s.nmu := write_nmu _ _ _ _
  have hLkp : (s.ctxResult blk status gen).lkp = s.lkp := write_lkp _ _ _ _
  refine ⟨⟨write_sec _ _ _ _, hCpl, hMgt, write_pwr _ _ _ _, ?_, ?_, ?_, fun h => ⟨?_, ?_⟩⟩, ?_, ?_⟩
  · exact congrArg Dev.shed (write_dev _ _ _ _)
  · exact congrArg Prf.ready (write_prf _ _ _ _)
  · rw [hLkp]
  · rw [hReach]
    exact h.reach
  · rw [hNmu]
    exact h.nmu
  · rw [hLkp]
  · rw [hLkp]

theorem freed_stays (p : Nat × Ctx) : Stays s (freed s p) := by
  have hFree : Stays s ((s.modCtx p.1 fun x => { x with state := .free, blk := none }).keysMoved s) := ⟨{}, rfl, rfl⟩
  rw [freed]
  cases p.2.blk with
  | some b => exact hFree.trans (ctxResult_stays _ _ _)
  | none => exact hFree

theorem freeClosing_stays : Stays s s.freeClosing := by
  rw [freeClosing_eq]
  exact Stays.foldl (fun _ p => freed_stays p) _ _

theorem ctxEffect_stays (q : CtxCmd) : Stays s (s.ctxEffect q) := by
  have hOpened : Stays s (opened s q) := ⟨{}, rfl, rfl⟩
  obtain ⟨st, h⟩ | h | h := ctxEffect_cases (s := s) q
  · rw [h]
    exact ctxResult_stays _ _ _
  · rw [h]
    exact ⟨{}, rfl, rfl⟩
  · rw [h]
    exact hOpened.trans (ctxResult_stays _ _ _)

theorem ctxHead_stays : Stays s s.ctxHead := by
  rw [State.ctxHead]
  cases s.ctx.queue with
  | nil => exact ⟨{}, rfl, rfl⟩
  | cons q qs =>
    dsimp only
    split
    · exact ⟨{}, rfl, rfl⟩
    · have hTaken : Stays s (taken s qs) := ⟨{}, rfl, rfl⟩
      exact hTaken.trans (ctxEffect_stays q)

theorem ctxAll_stays : Stays s s.ctxAll := Stays.foldl (fun _ _ => ctxHead_stays) _ s

theorem useMap_stays (k : Nat) : Stays s (s.useMap k) := by
  unfold State.useMap
  extract_lets img h es old ctxs src v
  have hMap : Stays s v := ⟨{}, rfl, rfl⟩
  refine hMap.trans (Stays.foldl (fun t p => ?_) _ _)
  split
  · exact ctxResult_stays _ _ _
  · exact ⟨{}, rfl, rfl⟩

/-! ### No schedule (10 R624) -/

/-- What a start of the lockkeeper forgets, but for the context table that it finds. -/
def forgotten (s : State) : State :=
  { s with
    lkp := { s.lkp with
      inForce := false, sched := {}, next := none, jobs := [], inRings := [], level := 0, cycle := 0, lastLock := 0 }
    ctx := {}
    prf := { s.prf with
      resState := if (s.prf.chg = Chg.none ∨ s.prf.op = 0) ∨ !s.prf.resMine then s.prf.resState else 3
      chg := .none, loads := [], initial := false, full := false, recheck := false, atCycle := none, switched := 0, held := 0
      limit := false, target := s.dev.profile, verified := [], kernels := [], kernelsNew := [], thresh := [], threshNew := [] }
    dev := { s.dev with st := .starting } }

theorem forgetSchedule_eq : s.forgetSchedule =
    let v := if ((s.prf.slots[s.activeSlot]?).map PSlot.valid).getD false then (forgotten s).useMap (forgotten s).activeSlot else forgotten s
    { v with ctx := { v.ctx with queue := s.ctx.queue } } := rfl

theorem forgetSchedule_gives : Settles s s.forgetSchedule ∧ s.forgetSchedule.lkp.inForce = false ∧ s.forgetSchedule.lkp.jobs = [] ∧
    s.forgetSchedule.ctx.queue = s.ctx.queue := by
  have hForgot : Settles s (forgotten s) := {}
  rw [forgetSchedule_eq]
  split
  · have hMap := useMap_stays (s := forgotten s) (forgotten s).activeSlot
    exact ⟨(hForgot.trans hMap.settles).trans {}, hMap.force, hMap.jobs, rfl⟩
  · exact ⟨hForgot.trans {}, rfl, rfl, rfl⟩

/-! #### Memory and contexts, where no command waits and no context closes -/

/-- No context closes. -/
def Unclosing (s : State) : Prop := ∀ c ∈ s.ctx.ctxs, c.2.state ≠ .closing

theorem freeClosing_none (h : Unclosing s) : s.freeClosing = s := by
  have hNone : (s.ctx.ctxs.filter fun p => p.2.state == .closing && !s.memberCtxs.contains p.1) = [] := by
    refine List.filter_eq_nil_iff.mpr fun p hp => ?_
    rw [Bool.and_eq_true, beq_iff_eq]
    exact fun hClosing => h p hp hClosing.1
  rw [freeClosing_eq, hNone]
  rfl

theorem ctxAll_none (h : s.ctx.queue = []) : s.ctxAll = s := by
  rw [State.ctxAll, h]
  rfl

theorem mem_sput {α : Type} [DecidableEq α] {d : α} {m : List (Nat × α)} {k : Nat} {v : α} {p : Nat × α} (h : p ∈ sput d m k v) :
    p ∈ m ∨ p = (k, v) := by
  induction m with
  | nil =>
    simp only [sput] at h
    split at h
    · exact .inl h
    · exact .inr (List.mem_singleton.mp h)
  | cons e m ih =>
    obtain ⟨j, w⟩ := e
    simp only [sput] at h
    split at h
    · split at h
      · exact .inl h
      · exact (List.mem_cons.mp h).elim .inr .inl
    · split at h
      · split at h
        · exact .inl (List.mem_cons_of_mem _ ((List.dropWhile_sublist _).subset h))
        · exact (List.mem_cons.mp h).elim .inr fun h => .inl (List.mem_cons_of_mem _ h)
      · rcases List.mem_cons.mp h with h | h
        · exact .inl (h ▸ List.mem_cons_self)
        · exact (ih h).imp_left (List.mem_cons_of_mem _)

/-- Contexts that are made open are not closing. -/
theorem puts_unclosing {f : Nat → Ctx} (hf : ∀ i, (f i).state = .live) (l : List Nat) : ∀ m : List (Nat × Ctx), (∀ c ∈ m, c.2.state ≠ .closing) →
    ∀ c ∈ l.foldl (fun m i => sput {} m (i + 1) (f i)) m, c.2.state ≠ .closing := by
  induction l with
  | nil => exact fun _ h => h
  | cons i l ih =>
    refine fun m h => ih _ fun c hc => ?_
    rcases mem_sput hc with hc | rfl
    · exact h c hc
    · rw [hf]
      decide

theorem mapContexts_unclosing (es : List MapE) (n : Nat) : ∀ c ∈ mapContexts [] 0 es n, c.2.state ≠ .closing :=
  puts_unclosing (fun _ => rfl) (List.range n) [] fun _ h => absurd h List.not_mem_nil

theorem useMap_fresh (k : Nat) (h : s.ctx = {}) : (s.useMap k).mem = s.mem ∧ Unclosing (s.useMap k) := by
  unfold State.useMap Unclosing
  rw [h]
  exact ⟨rfl, mapContexts_unclosing _ _⟩

theorem forgetSchedule_memory : s.forgetSchedule.mem = s.mem ∧ Unclosing s.forgetSchedule := by
  rw [forgetSchedule_eq]
  split
  · exact useMap_fresh (s := forgotten s) _ rfl
  · exact ⟨rfl, fun _ h => absurd h List.not_mem_nil⟩

/-! ### What waited for a lock point (13 R436; 10 R347; 16 R565) -/

/-- Memory, contexts, the schedule and the jobs are as they were. -/
structure Steady (s t : State) : Prop where
  stays : Stays s t
  mem   : t.mem = s.mem := by rfl
  ctx   : t.ctx = s.ctx := by rfl

theorem Steady.refl : Steady s s := ⟨⟨{}, rfl, rfl⟩, rfl, rfl⟩

theorem Steady.trans (h : Steady s t) (k : Steady t u) : Steady s u := ⟨h.stays.trans k.stays, k.mem.trans h.mem, k.ctx.trans h.ctx⟩

theorem msix_steady (v : Nat) : Steady s (s.msix v) := by
  unfold State.msix
  split
  · exact .refl
  · split
    · exact ⟨⟨{}, rfl, rfl⟩, rfl, rfl⟩
    · split
      · exact ⟨⟨{}, rfl, rfl⟩, rfl, rfl⟩
      · exact .refl

theorem drainHeld_none (h : s.lkp.held = []) (e : Nat) : s.drainHeld e s.lkp.held.length = s := by
  rw [h]
  rfl

theorem applyEgr_steady (h : s.lkp.held = []) (e : Nat) : Steady s (s.applyEgr e) := by
  unfold State.applyEgr
  extract_lets g base cfg a src v w
  split
  · rw [drainHeld_none h]
    exact .refl
  · have hMoved : Steady s v := by
      change Steady s (if _ then _ else _)
      split
      · refine ⟨⟨⟨rfl, rfl, rfl, rfl, rfl, rfl, ?_, fun k => ⟨k.reach, k.nmu⟩⟩, rfl, rfl⟩, rfl, rfl⟩
        change List.filter _ s.lkp.held = s.lkp.held
        rw [h]
        rfl
      · exact .refl
    have hSet : Steady s w := hMoved.trans ⟨⟨{}, rfl, rfl⟩, rfl, rfl⟩
    rw [drainHeld_none (hSet.stays.settles.held.trans h)]
    exact hSet

theorem applyEgrs_steady (h : s.lkp.held = []) : Steady s s.applyEgrs := by
  unfold State.applyEgrs
  generalize s.lkp.egr.map (·.1) = l
  induction l generalizing s with
  | nil => exact .refl
  | cons e l ih =>
    have hFirst := applyEgr_steady h e
    exact hFirst.trans (ih (hFirst.stays.settles.held.trans h))

theorem applyRas_steady : Steady s s.applyRas := by
  unfold State.applyRas
  extract_lets r
  split
  · exact .refl
  · exact ⟨⟨{}, rfl, rfl⟩, rfl, rfl⟩

theorem switchAll_steady : Steady s s.switchAll := by
  refine ⟨⟨⟨rfl, rfl, rfl, rfl, rfl, rfl, rfl, fun h => ⟨fun n => ?_, h.nmu⟩⟩, rfl, rfl⟩, rfl, rfl⟩
  have hMap : s.switchAll.reach[n] = if (s.reach[n].bankAt (1 - s.reach[n].active)).state == .pending then
      s.reach[n].activate (1 - s.reach[n].active) else s.reach[n] := by
    rw [State.switchAll, Fin.getElem_fin, Vector.getElem_map]
    rfl
  rw [hMap]
  split
  · exact h.reach n
  · exact h.reach n

end Sys2Proof.Machine.ScheduleEnd

end ScheduleEndRules

/-! PROOF. Entry into debug state (15 R528; 17 R578 to R582): levels of the shed ladder while nothing runs. -/

section IdleLadderRules

-- One proof after the other, as in the rules of the canonical form.
set_option Elab.async false

namespace Sys2Proof.Machine.IdleLadder

open Laws UnitWork WideWork DebugEntry ScheduleEnd

variable {s t u : State}

/-! ### Work that finds nothing to do -/

/-- No flow is open, no job is loaded, and no unit runs. -/
structure Still (s : State) : Prop where
  flows : s.cpl.flows = []
  jobs  : s.lkp.jobs = []
  rest  : Rest s

/-- Security, the node, the flows, the sessions, the schedule, the jobs and memory are as they were, and no unit has begun to run. -/
structure Calm (s t : State) : Prop where
  sec   : t.sec = s.sec := by rfl
  node  : t.cpl.node = s.cpl.node := by rfl
  flows : t.cpl.flows = s.cpl.flows := by rfl
  sess  : (∀ i : Fin 4, s.mgt.sess[i] = none) → ∀ i : Fin 4, t.mgt.sess[i] = none := by exact fun h => h
  force : t.lkp.inForce = s.lkp.inForce := by rfl
  jobs  : t.lkp.jobs = s.lkp.jobs := by rfl
  mem   : t.mem = s.mem := by rfl
  rest  : Rest s → Rest t := by exact fun h => ⟨h.reach, h.nmu⟩

theorem Calm.trans (h : Calm s t) (k : Calm t u) : Calm s u :=
  ⟨k.sec.trans h.sec, k.node.trans h.node, k.flows.trans h.flows, fun hs => k.sess (h.sess hs), k.force.trans h.force, k.jobs.trans h.jobs, k.mem.trans h.mem,
    fun hRest => k.rest (h.rest hRest)⟩

theorem Calm.still (h : Calm s t) (hs : Still s) : Still t := ⟨h.flows.trans hs.flows, h.jobs.trans hs.jobs, h.rest hs.rest⟩

theorem Calm.foldl {α : Type} {f : State → α → State} (h : ∀ t x, Still t → Calm t (f t x)) (l : List α) : ∀ s : State, Still s →
    Calm s (l.foldl f s) := by
  induction l with
  | nil => exact fun _ _ => {}
  | cons x l ih => exact fun s hs => (h s x hs).trans (ih _ ((h s x hs).still hs))

theorem raise_calm (e : Ev) : Calm s (s.raise e) := { sess := fun h i => (congrArg (fun v : Vector (Option Session) 4 => v[i]) (keepRecord_sess _ _)).trans (h i) }

theorem modReach_calm {n : Fin 16} {f : Reach → Reach} (h : ∀ x : Reach, x.u.executing = false ∧ x.pend = [] → (f x).u.executing = false ∧ (f x).pend = []) :
    Calm s (s.modReach n f) where
  rest hs := ⟨fun m => modReach_each (P := fun x => x.u.executing = false ∧ x.pend = []) (fun _ => h _ (hs.reach m)) fun _ => hs.reach m, hs.nmu⟩

theorem modWs_calm (n : Fin 16) (k : Nat) (f : WStore → WStore) : Calm s (s.modWs n k f) := by
  unfold State.modWs
  split
  · exact modReach_calm fun x hx => hx
  · exact {}

theorem completeTiles_calm (hs : Still s) (n : Fin 16) : Calm s (s.completeTiles n) := by
  obtain ⟨-, hPend⟩ := hs.rest.reach n
  have hLand : s.landAll n s.reach[n].pend = s.modReach n fun x => { x with pend := [] } := by
    rw [hPend]
    rfl
  have hLanded : Calm s (s.modReach n fun x => { x with pend := [] }) := modReach_calm fun x hx => ⟨hx.1, rfl⟩
  unfold State.completeTiles
  rw [hLand]
  dsimp only
  split
  · exact (hLanded.trans (modWs_calm _ _ _)).trans (modReach_calm fun x hx => hx)
  · exact hLanded

theorem park_calm (hs : Still s) (n : Fin 16) : Calm s (s.park (.reach n)) := by
  have hWork : Calm s (s.completeWork (.reach n)) := completeTiles_calm hs n
  have hIdle : ((s.completeWork (.reach n)).unit (.reach n)).executing = false := ((hWork.rest hs.rest).reach n).1
  unfold State.park
  dsimp only
  rw [hIdle, if_pos (by decide)]
  exact hWork

theorem jobRun_none (hs : Still s) (j : Nat) : (s.jobRun j).step = none := by
  rw [State.jobRun, hs.jobs]
  rfl

theorem clearUnit_calm (hs : Still s) (n : Fin 16) : Calm s (s.clearUnit (.reach n)) := by
  have hSave : s.saveUnit (.reach n) = s := by
    unfold State.saveUnit
    dsimp only
    rw [jobRun_none hs]
  unfold State.clearUnit
  rw [hSave]
  exact modReach_calm fun x hx => ⟨hx.1, rfl⟩

theorem portDown_calm (hs : Still s) (p : Nat) : Calm s (s.portDown p) := by
  unfold State.portDown
  extract_lets v
  have hFlows : v.cpl.flows = [] := hs.flows
  rw [hFlows]
  exact raise_calm _

theorem portEdges_calm (hs : Still s) (old : BitVec 8) : Calm s (s.portEdges old) := by
  unfold State.portEdges
  refine Calm.foldl (fun t p ht => ?_) _ s hs
  split
  · exact portDown_calm ht p
  · split
    · exact raise_calm _
    · exact {}

theorem haltUnits_none (hs : Rest s) : s.haltUnits = s := by
  unfold State.haltUnits
  refine List.foldl_fixed' (fun k => ?_) _
  split
  · next r hr =>
    have hIdle : (s.unit r).executing = false := by
      cases r with
      | reach n => exact (hs.reach n).1
      | nmu d => exact hs.nmu d
    rw [hIdle, if_neg (by decide)]
  · rfl

theorem haltSteps_none (hs : Still s) (w : StepEnd) : s.haltSteps w = s := by
  have hNone : s.inFlight = [] := by
    rw [State.inFlight, hs.jobs]
    rfl
  unfold State.haltSteps
  dsimp only
  rw [hNone, List.foldl_nil, haltUnits_none hs.rest, hNone]
  rfl

/-- How the kernel state of a reach and of an NMU is cleared. -/
def idleReach (x : Reach) : Reach := { x with u := { slot := x.u.slot, job := x.u.job, ctx := x.u.ctx } }.clearWork

def idleNmu (x : Nmu) : Nmu := { x with u := { slot := x.u.slot, job := x.u.job, ctx := x.u.ctx }, wins := [], areas := [], poisonW := false }

theorem clearAll_eq : s.clearAll = (List.finRange 4).foldl (fun (s : State) (d : Fin 4) => s.modNmu d idleNmu)
    ((List.finRange 16).foldl (fun (s : State) (n : Fin 16) => s.modReach n idleReach) s) := rfl

theorem clearAll_calm : Calm s s.clearAll := by
  rw [clearAll_eq]
  have hSess := foldl_units (s := s) (·.mgt.sess) (fun _ _ _ => rfl) (fun _ _ _ => rfl) idleReach idleNmu
  exact { sec := foldl_units (·.sec) (fun _ _ _ => rfl) (fun _ _ _ => rfl) _ _
          node := foldl_units (·.cpl.node) (fun _ _ _ => rfl) (fun _ _ _ => rfl) _ _
          flows := foldl_units (·.cpl.flows) (fun _ _ _ => rfl) (fun _ _ _ => rfl) _ _
          sess := fun h i => (congrArg (fun v : Vector (Option Session) 4 => v[i]) hSess).trans (h i)
          force := foldl_units (·.lkp.inForce) (fun _ _ _ => rfl) (fun _ _ _ => rfl) _ _
          jobs := foldl_units (·.lkp.jobs) (fun _ _ _ => rfl) (fun _ _ _ => rfl) _ _
          mem := foldl_units (·.mem) (fun _ _ _ => rfl) (fun _ _ _ => rfl) _ _
          rest := fun _ => rest_of_folds (fun _ => ⟨rfl, rfl⟩) fun _ => rfl }

theorem enterS6_calm (hs : Still s) : Calm s s.enterS6 := by
  unfold State.enterS6
  rw [haltSteps_none hs]
  exact clearAll_calm

theorem enterS7_calm : Calm s s.enterS7 := by
  obtain ⟨p, hFlush, -⟩ := flogFlush_logs (s := s)
  unfold State.enterS7
  dsimp only
  rw [hFlush]
  obtain ⟨o, m, hSent, hSess⟩ := sendAllRecords_reports (s := { s with prf := p, dev := { s.dev with st := .stopping } })
  rw [hSent]
  exact { sess := fun h i => hSess i (h i) }

/-! ### Levels (17 R578 to R580) -/

theorem setVdd_calm (c : BitVec 2) : Calm s (s.setVdd c) := by
  unfold State.setVdd
  split
  · exact {}
  · exact {}

theorem noteLevel_calm (new : Nat) : Calm s (s.noteLevel new) := (raise_calm _).trans {}

theorem levelled_calm (new : Nat) : Calm s (levelled s new) := by
  unfold levelled
  split
  · unfold State.arithDown
    exact (noteLevel_calm new).trans (Calm.trans {} (setVdd_calm _))
  · exact noteLevel_calm new

theorem riseTo_calm (hs : Still s) (new : Nat) : Calm s (s.riseTo new) := by
  unfold State.riseTo
  extract_lets old ports v1 v2 v3 v4 v5 v6
  have h2 : Calm s v2 := levelled_calm new
  have h3 : Calm s v3 := h2.trans (Calm.foldl (fun _ _ ht => park_calm ht _) _ _ (h2.still hs))
  have h4 : Calm s v4 := by
    change Calm s (if _ then _ else _)
    split
    · exact h3.trans (Calm.foldl (fun _ _ _ => {}) _ _ (h3.still hs))
    · exact h3
  have h5 : Calm s v5 := h4.trans (portEdges_calm (h4.still hs) _)
  have h6 : Calm s v6 := by
    change Calm s (if _ then _ else _)
    split
    · exact h5.trans (enterS6_calm (h5.still hs))
    · exact h5
  split
  · exact h6.trans enterS7_calm
  · exact h6

theorem stepDown_calm (hs : Still s) : Calm s s.stepDown := by
  unfold State.stepDown
  extract_lets old new ports v1 c src v2 v3 v4
  have h2 : Calm s v2 := (noteLevel_calm new).trans {}
  have h3 : Calm s v3 := h2.trans (Calm.foldl (fun _ _ ht => clearUnit_calm ht _) _ _ (h2.still hs))
  have h4 : Calm s v4 := by
    change Calm s (if _ then _ else _)
    split
    · exact h3.trans (Calm.foldl (fun _ _ _ => {}) _ _ (h3.still hs))
    · exact h3
  exact h4.trans (portEdges_calm (h4.still hs) _)

theorem shedClimb_calm (hs : Still s) : Calm s s.shedClimb := by
  unfold State.shedClimb
  split
  · exact riseTo_calm hs _
  · exact {}

theorem shedDescend_calm (hs : Still s) : Calm s s.shedDescend := by
  unfold State.shedDescend
  split
  · exact stepDown_calm hs
  · exact {}

theorem arithSync_calm : Calm s s.arithSync ∧ s.arithSync.mgt = s.mgt := by
  unfold State.arithSync
  dsimp only
  split
  · exact ⟨{}, rfl⟩
  · exact ⟨{}, rfl⟩

end Sys2Proof.Machine.IdleLadder

end IdleLadderRules

/-! PROOF. Debug state (15 R526 to R528), and with it what is left of security and test. -/

section DebugStateRules

-- One proof after the other, as in the rules of the canonical form.
set_option Elab.async false

namespace Sys2Proof.Machine.DebugState

open Laws DebugEntry ScheduleEnd IdleLadder

variable {s t u : State}

/-! ### The end of the schedule (15 R528; 10 R624) -/

/-- The schedule has ended; the vectors that were due are due yet. -/
def unscheduled (s : State) : State := State.forgetSchedule (State.freeClosing { s with lkp := { s.lkp with vectors := [] } })

/-- What waited for a lock point acts, but for the shed ladder. -/
def unwaited (s : State) (due : List Nat) : State :=
  (((due.foldl (fun (s : State) v => s.msix v) s).applyEgrs.applyRas).switchAll).ctxAll.freeClosing

theorem dropSchedule_eq : s.dropSchedule =
    (unwaited (unscheduled s) (s.lkp.vectors.map (·.1)).eraseDups).shedClimb.shedDescend.arithSync := rfl

theorem unscheduled_gives : Settles s (unscheduled s) ∧ (unscheduled s).lkp.inForce = false ∧ (unscheduled s).lkp.jobs = [] ∧
    (unscheduled s).ctx.queue = s.ctx.queue ∧ Unclosing (unscheduled s) ∧ (Unclosing s → (unscheduled s).mem = s.mem) := by
  have hStart : Settles s { s with lkp := { s.lkp with vectors := [] } } := {}
  have hFree := freeClosing_stays (s := { s with lkp := { s.lkp with vectors := [] } })
  obtain ⟨hForget, hForce, hJobs, hQueue⟩ := forgetSchedule_gives (s := State.freeClosing { s with lkp := { s.lkp with vectors := [] } })
  obtain ⟨hMem, hNone⟩ := forgetSchedule_memory (s := State.freeClosing { s with lkp := { s.lkp with vectors := [] } })
  refine ⟨(hStart.trans hFree.settles).trans hForget, hForce, hJobs, hQueue.trans Contexts.freeClosing_queue, hNone, fun h => hMem.trans ?_⟩
  rw [freeClosing_none (s := { s with lkp := { s.lkp with vectors := [] } }) h]

theorem unwaited_gives (due : List Nat) (h : s.lkp.held = []) : Stays s (unwaited s due) ∧
    (s.ctx.queue = [] → Unclosing s → (unwaited s due).mem = s.mem) := by
  have hSent : Steady s (due.foldl (fun (s : State) v => s.msix v) s) := by
    induction due generalizing s with
    | nil => exact .refl
    | cons v l ih => exact (msix_steady v).trans (ih ((msix_steady v).stays.settles.held.trans h))
  have hRings := applyEgrs_steady (hSent.stays.settles.held.trans h)
  have hSteady : Steady s ((due.foldl (fun (s : State) v => s.msix v) s).applyEgrs.applyRas).switchAll :=
    ((hSent.trans hRings).trans applyRas_steady).trans switchAll_steady
  refine ⟨(hSteady.stays.trans ctxAll_stays).trans freeClosing_stays, fun hQueue hNone => ?_⟩
  unfold unwaited
  rw [ctxAll_none (by rw [hSteady.ctx, hQueue]), freeClosing_none (by
    unfold Unclosing
    rw [hSteady.ctx]
    exact hNone), hSteady.mem]

/-- While no level changes no event is raised. -/
theorem levels_kept (hLow : s.demand ≤ s.dev.shed.toNat) (hDescend : s.pwr.descend = false) : s.shedClimb.shedDescend.arithSync.mgt = s.mgt := by
  have hClimb : s.shedClimb = s := by
    unfold State.shedClimb
    rw [if_neg]
    rw [Bool.and_eq_true, decide_eq_true_eq]
    omega
  have hFall : s.shedDescend.mgt = s.mgt := by
    unfold State.shedDescend
    rw [hDescend, if_neg (by simp)]
  rw [hClimb, arithSync_calm.2, hFall]

theorem dropSchedule_gives (hFlows : s.cpl.flows = []) (hRest : Rest s) (hHeld : s.lkp.held = []) :
    s.dropSchedule.sec = s.sec ∧ s.dropSchedule.cpl.node = s.cpl.node ∧ s.dropSchedule.lkp.inForce = false ∧ s.dropSchedule.lkp.jobs = [] ∧
    ((∀ i : Fin 4, s.mgt.sess[i] = none) → ∀ i : Fin 4, s.dropSchedule.mgt.sess[i] = none) ∧
    (s.demand ≤ s.dev.shed.toNat → s.pwr.descend = false → s.dropSchedule.mgt = s.mgt) ∧
    (s.ctx.queue = [] → Unclosing s → s.dropSchedule.mem = s.mem) := by
  obtain ⟨hEnd, hForce, hJobs, hQueue, hNone, hMem⟩ := unscheduled_gives (s := s)
  obtain ⟨hWait, kMem⟩ := unwaited_gives (s := unscheduled s) (s.lkp.vectors.map (·.1)).eraseDups (hEnd.held.trans hHeld)
  rw [dropSchedule_eq]
  generalize unwaited (unscheduled s) (s.lkp.vectors.map (·.1)).eraseDups = v at hWait kMem ⊢
  have hBoth : Settles s v := hEnd.trans hWait.settles
  have hStill : Still v := by
    refine ⟨?_, hWait.jobs.trans hJobs, hBoth.rest hRest⟩
    rw [hBoth.cpl, hFlows]
  have hClimb := shedClimb_calm hStill
  have hLevels : Calm v v.shedClimb.shedDescend.arithSync := (hClimb.trans (shedDescend_calm (hClimb.still hStill))).trans arithSync_calm.1
  refine ⟨hLevels.sec.trans hBoth.sec, ?_, (hLevels.force.trans hWait.force).trans hForce, (hLevels.jobs.trans hWait.jobs).trans hJobs,
    fun h => hLevels.sess ?_, fun hLow hDescend => ?_, fun hEmpty hUnclosing => ?_⟩
  · rw [hLevels.node, hBoth.cpl]
  · rw [hBoth.mgt]
    exact h
  · have hDemand : v.demand = s.demand := by
      unfold State.demand
      rw [hBoth.pwr, hBoth.ready]
    rw [levels_kept (by rw [hDemand, hBoth.shed]; exact hLow) (by rw [hBoth.pwr]; exact hDescend), hBoth.mgt]
  · exact (hLevels.mem.trans (kMem (hQueue.trans hEmpty) hNone)).trans (hMem hUnclosing)

/-! ### Entry (15 R528) -/

/-- Debug state is entered on a die that is cleared. -/
def entered (s : State) (session : W64) : State :=
  State.raise { s.clearDie with sec := { s.clearDie.sec with debug := true } } { code := 0x0608, addr := session.toNat }

/-- New masters are drawn, where the generator has not failed. -/
def mastered (s : State) : State :=
  if s.sec.rngOk then { s with sec := { s.sec with masters := 2, draws := s.sec.draws + 1 } } else s

theorem debugEnter_eq (session : W64) : s.debugEnter session = (mastered (entered (alone (silenced s)) session)).dropSchedule := by
  unfold State.debugEnter mastered entered alone silenced
  rfl

/-- What the cleared die keeps for the end of the schedule. -/
theorem entered_gives (session : W64) : Rest (entered s session) ∧ (entered s session).lkp.held = [] ∧ (entered s session).cpl.flows = s.cpl.flows ∧
    (entered s session).cpl.node = s.cpl.node ∧ Within s (entered s session) ∧
    (entered s session).sec.debug = true ∧ LastEvent (entered s session) 0x0608 ∧ ∀ c ∈ (entered s session).mem, c.1 < 0xF000000000 := by
  have hRest := clearDie_rest (s := s)
  have hHeld : s.clearDie.lkp.held = [] := clearDie_keeps (·.lkp.held)
  have hFlows : s.clearDie.cpl.flows = s.cpl.flows := clearDie_keeps (·.cpl.flows)
  have hNode : s.clearDie.cpl.node = s.cpl.node := clearDie_keeps (·.cpl.node)
  have hCtx : s.clearDie.ctx = s.ctx := clearDie_keeps (·.ctx)
  have hSec : s.clearDie.sec = s.sec := clearDie_keeps (·.sec)
  have hPwr : s.clearDie.pwr = s.pwr := clearDie_keeps (·.pwr)
  have hDev : s.clearDie.dev = s.dev := clearDie_keeps (·.dev)
  have hPrf : s.clearDie.prf = s.prf := clearDie_keeps (·.prf)
  have hMgt : s.clearDie.mgt = s.mgt := clearDie_keeps (·.mgt)
  have hMem : s.clearDie.mem = s.mem.filter fun c => decide (c.1 < 0xF000000000) := clearDie_keeps (·.mem)
  unfold entered
  generalize s.clearDie = v at *
  have hMasters := congrArg Sec.masters hSec
  have hRng := congrArg Sec.rngOk hSec
  have hWithin : Within s { v with sec := { v.sec with debug := true } } := by
    refine ⟨⟨hCtx, hMasters, hRng, fun h => ⟨hPwr, congrArg Dev.shed hDev, congrArg Prf.ready hPrf, ?_⟩⟩, congrArg Mgt.sess hMgt⟩
    exact (congrArg Prf.atCycle hPrf).trans h
  refine ⟨⟨hRest.reach, hRest.nmu⟩, hHeld, hFlows, hNode, hWithin.trans (raise_within _), rfl, Lrate.raised_lastEvent (raise_raised _ _), fun c hc => ?_⟩
  have hIn : c ∈ s.mem.filter fun c => decide (c.1 < 0xF000000000) := by
    rw [← hMem]
    exact hc
  exact of_decide_eq_true (List.mem_filter.mp hIn).2

/-- New masters change nothing else that counts. -/
theorem mastered_sec : (mastered s).sec.debug = s.sec.debug ∧ (mastered s).sec.masters = if s.sec.rngOk then 2 else s.sec.masters := by
  unfold mastered
  split
  · exact ⟨rfl, rfl⟩
  · exact ⟨rfl, rfl⟩

theorem mastered_keeps {α : Type} (P : State → α) (h : ∀ x : Sec, P { s with sec := x } = P s := by intros; rfl) : P (mastered s) = P s := by
  unfold mastered
  split
  · exact h _
  · rfl

theorem debugEnter_gives (session : W64) :
    (s.debugEnter session).sec.debug = true ∧ (s.debugEnter session).cpl.node = 0x7FFF ∧
    (s.debugEnter session).sec.masters = (if s.sec.rngOk then 2 else s.sec.masters) ∧
    (∀ i : Fin 4, (s.debugEnter session).mgt.sess[i] = none) ∧ (s.debugEnter session).lkp.inForce = false ∧ (s.debugEnter session).lkp.jobs = [] ∧
    (s.demand ≤ s.dev.shed.toNat → s.pwr.descend = false → s.prf.atCycle = none → LastEvent (s.debugEnter session) 0x0608) ∧
    (s.ctx.queue = [] → (∀ c ∈ s.ctx.ctxs, c.2.state ≠ .closing) → ∀ c ∈ (s.debugEnter session).mem, c.1 < 0xF000000000) := by
  obtain ⟨hSilent, hSess⟩ := silenced_gives (s := s)
  obtain ⟨hAlone, hNode, hFlows⟩ := alone_gives (s := silenced s)
  obtain ⟨hRest, hHeld, kFlows, kNode, hEntered, hDebug, hLast, hMem⟩ := entered_gives (s := alone (silenced s)) session
  rw [debugEnter_eq]
  generalize alone (silenced s) = a at *
  generalize entered a session = e at *
  have hAll : Enters s e := (hSilent.trans hAlone.1).trans hEntered.1
  obtain ⟨mDebug, mMasters⟩ := mastered_sec (s := e)
  have mCpl : (mastered e).cpl = e.cpl := mastered_keeps (·.cpl)
  have mMgt : (mastered e).mgt = e.mgt := mastered_keeps (·.mgt)
  have mCtx : (mastered e).ctx = e.ctx := mastered_keeps (·.ctx)
  have mMem : (mastered e).mem = e.mem := mastered_keeps (·.mem)
  have mReach : (mastered e).reach = e.reach := mastered_keeps (·.reach)
  have mNmu : (mastered e).nmu = e.nmu := mastered_keeps (·.nmu)
  have mDemand : (mastered e).demand = e.demand := mastered_keeps (·.demand)
  obtain ⟨dSec, dNode, dForce, dJobs, dSess, dMgt, dMem⟩ := dropSchedule_gives (s := mastered e) (by rw [mCpl, kFlows, hFlows])
    ⟨by rw [mReach]; exact hRest.reach, by rw [mNmu]; exact hRest.nmu⟩ ((mastered_keeps (·.lkp.held)).trans hHeld)
  refine ⟨?_, ?_, ?_, dSess fun i => ?_, dForce, dJobs, fun hLow hDescend hCycle => ?_, fun hQueue hNone => ?_⟩
  · rw [dSec, mDebug, hDebug]
  · rw [dNode, mCpl, kNode, hNode]
  · rw [dSec, mMasters, hAll.rngOk, hAll.masters]
  · rw [mMgt, hEntered.2, hAlone.2]
    exact hSess i
  · obtain ⟨hPwr, hShed, hReady, -⟩ := hAll.level hCycle
    have hDemand : e.demand = s.demand := by
      unfold State.demand
      rw [hPwr, hReady]
    have mShed : (mastered e).dev.shed = e.dev.shed := mastered_keeps (·.dev.shed)
    have mPwr : (mastered e).pwr = e.pwr := mastered_keeps (·.pwr)
    rw [LastEvent, dMgt (by rw [mDemand, hDemand, mShed, hShed]; exact hLow) (by rw [mPwr, hPwr]; exact hDescend), mMgt]
    exact hLast
  · rw [dMem (by rw [mCtx, hAll.ctx]; exact hQueue) (by
      unfold Unclosing
      rw [mCtx, hAll.ctx]
      exact hNone), mMem]
    exact hMem

/-- Settles O56: SEC_MODE's refusals and effects, attestation, random numbers and the test access port, each by its own rule; debug state by
following what it ends and clears. -/
theorem securityAndTest : Obligations.SecurityAndTest := by
  unfold Obligations.SecurityAndTest
  intro p k on low buf s
  exact ⟨fun hOpen hNone => Security.secMode_denied hOpen hNone on, fun x hOpen hSess hMaint => ⟨Security.maintMode_same hOpen hSess hMaint,
      Security.maintMode_gives hOpen hSess hMaint, Security.debugEnter_again hOpen hSess hMaint,
      fun hDebug => ⟨_, Security.debugEnter_first hOpen hSess hMaint hDebug, debugEnter_gives x.id⟩⟩,
    fun hOpen hHolds => ⟨Security.attCmd_names hOpen hHolds buf, Security.attCmd_busy hOpen hHolds buf, Security.attCmd_stops hOpen hHolds buf,
      fun hAtt hId hRng hKeyed => ⟨Security.attCmd_begins hOpen hHolds buf hAtt hId hRng hKeyed,
        Security.attCmd_outside hOpen hHolds buf hAtt hId hRng⟩⟩,
    fun q hAtt hId hRng => Security.attReportDone_gives hAtt hId hRng, Security.secRngFail_gives, rfl, fun i h => Security.tap_reset i h,
    fun hRun => ⟨Security.tap_idcode hRun, fun i h => Security.tap_bypass hRun i (Security.tapActs_bypass i h), fun i hi hLow =>
      Security.tap_boundary hRun hLow i hi, Security.tap_private hRun⟩⟩

end Sys2Proof.Machine.DebugState

end DebugStateRules
